-- ==== Sys2Proof/Word.lean ====
section
/-! DEFINITION. The word types of the Ikilen 9 (spec 00 R3, 02 R38). -/

namespace Sys2Proof

/-- One byte. -/
abbrev Byte := BitVec 8
/-- One 32-bit register or memory word. -/
abbrev Word := BitVec 32
/-- One 64-bit value: an address, a pair, a count of cycles. -/
abbrev DWord := BitVec 64
/-- A set of home lanes: bit l stands for lane l (spec 04 R85). -/
abbrev Lanes := BitVec 32

end Sys2Proof
end

