-- ==== Sys2Proof/Syntax.lean ====
section
/-! DEFINITION. Syntax: one constructor of Instr per row of spec/opcode_table.json: the 196 encoded forms of
chapters 04 to 17 and the 66 steps of the part that no word encodes (spec/95). Every field has the width the
encoding gives it; register numbers are numbers, codes are constructors. -/

namespace Sys2Proof

/-- Type codes (02 Table 2.5). -/
inductive Ty where
  | i8 | n8 | i16 | n16 | i32 | n32 | i64 | n64 | b32 | b64
  | f32 | bf16 | bf16x2 | e4m3 | e5m2 | q16 | q8 | x128
  deriving DecidableEq, Repr

/-- Rounding directions (02 Table 2.6). -/
inductive Rnd where | rne | rtz | rdn | rup
  deriving DecidableEq, Repr

/-- Scope codes (02 Table 2.6); dflt is code 0, the entry's default. -/
inductive Scope where | dflt | grp | team | dev | pod | sys
  deriving DecidableEq, Repr

/-- Order codes (02 Table 2.6). -/
inductive Order where | ordinary | rlx | acq | rel | ar | sc
  deriving DecidableEq, Repr

/-- Cache hints (02 Table 2.6); they change only timing (R42). -/
inductive Hint where | normal | stream | keep
  deriving DecidableEq, Repr

/-- Conditions of ICMP (05 R133). -/
inductive ICond where | eq | ne | lt | le | gt | ge
  deriving DecidableEq, Repr

/-- Conditions of FCMP (06 R152). -/
inductive FCond where | eq | ne | lt | le | gt | ge | un | ord
  deriving DecidableEq, Repr

/-- Conditions of SQIF and SQWH.while (14 R311). -/
inductive SqCond where | eq | ne | lt | ge | bs | bc
  deriving DecidableEq, Repr

/-- Guard, and the live-mask word's bits [62:2] where SP = 1 (02 R33, R34, R46). -/
structure Hdr where
  pg   : BitVec 3
  pn   : Bool
  live : Option (BitVec 61)
  deriving DecidableEq, Repr

/-- A register operand: a vector register, or a uniform one (UA or UB = 1). A pair or quad is named by its
first register (02 R38, R39). -/
inductive Reg where
  | v (n : BitVec 8)
  | s (n : BitVec 6)
  deriving DecidableEq, Repr

/-- Operand b: a register, IMM32 in its place, or EXT64 in its place (02 R37). -/
inductive Opd where
  | reg (r : Reg)
  | imm (w : Word)
  | wide (w : DWord)
  deriving DecidableEq, Repr

/-- An operand that is IMM32 in the 96-bit form and a uniform register in the 64-bit form. -/
inductive ImmU where
  | imm (w : Word)
  | uni (n : BitVec 6)
  deriving DecidableEq, Repr

/-- The three address forms (02 Table 2.7). -/
inductive AddrForm where
  | plain
  | disp (d : Word)
  | full (d : Word) (idx : Option (Reg × BitVec 2))
  deriving DecidableEq, Repr

/-- A memory operand: its base and its form (02 R43, R44). -/
structure Addr where
  base : Reg
  form : AddrForm
  deriving DecidableEq, Repr

/-- The window that LDS and STS act on (08 R204). -/
inductive Window where
  | scratch
  | acc (tile : BitVec 3)
  | sel
  deriving DecidableEq, Repr

/-- What follows word 0 of a NOP; the part ignores it (04 R110). -/
inductive NopExt where
  | none
  | imm (w : Word)
  | ext (w : DWord)
  deriving DecidableEq, Repr

/-- The three forms of BEXP (11 Table 11.1). -/
inductive BexpOpd where
  | regs (b n : BitVec 6)
  | immReg (b : Byte) (n : BitVec 6)
  | imms (b : Byte) (n : Word)
  deriving DecidableEq, Repr

/-- EXT64 of the local engine commands (13 Table 13.3). -/
structure EngExt where
  bar   : Byte
  baren : Bool
  port  : Bool
  aux   : BitVec 5
  xpose : Bool
  tag   : BitVec 16
  e0    : BitVec 16
  e1    : BitVec 16
  deriving DecidableEq, Repr

/-- EXT64 of MMS (14 Table 14.6). -/
structure MmsExt where
  asc   : BitVec 12
  bsc   : BitVec 12
  kb    : BitVec 5
  keepa : Bool
  keepb : Bool
  deriving DecidableEq, Repr

/-- EXT64 of VPROJ (15 Table 15.7). -/
structure VprojExt where
  m     : MmsExt
  pblk  : BitVec 14
  spoff : BitVec 16
  deriving DecidableEq, Repr

/-- EXT64 of VOUT (15 Table 15.7). -/
structure VoutExt where
  row0 : BitVec 7
  cnt  : Byte
  ridx : Word
  deriving DecidableEq, Repr

/-- Who reads a host semaphore: one port, or both in the same cycle (22 R410). -/
inductive Claimant where
  | port (p : Bool)
  | both
  deriving DecidableEq, Repr

/-- Operations of ATOM (08 Table 8.13). -/
inductive AtomOp where | add | min | max | and | or | xor | exch | cas
  deriving DecidableEq, Repr

/-- What a host port asks of device memory (22 R407). -/
inductive HostAcc where
  | read (n : Nat)
  | write (bytes : List Byte)
  | atom (op : AtomOp) (ty : Ty) (operand : Nat)
  deriving DecidableEq, Repr

/-- What a counter request of a peer asks of its word (16 R340). -/
inductive CtrOp where | add | read | merge | clear
  deriving DecidableEq, Repr

/-- What a peer part asks of a local address (08 R179). -/
inductive PeerAcc where
  | read (n : Nat)
  | write (bytes : List Byte)
  | atom (op : AtomOp) (ty : Ty) (operand : Nat)
  /-- A counter request: the CTR_BASE it carries, the counter's position in the word, draw or seed, count or level. -/
  | counter (op : CtrOp) (base : Word) (pos : Nat) (draw : Word) (arg : Byte)
  /-- A write of a 256-byte block in coded form: selector and payload (08 R188, R189). -/
  | coded (sel : BitVec 3) (payload : List Byte)
  deriving DecidableEq, Repr

/-- The instructions of the part, and its other steps. -/
inductive Instr where
  -- control class (04 R109 to R122)
  /-- NOP: R110. -/
  | nop (h : Hdr) (ext : NopExt)
  /-- BRA: R111. -/
  | bra (h : Hdr) (off : Word)
  /-- BRU: R112. -/
  | bru (h : Hdr) (off : Word)
  /-- JMPI: R113. -/
  | jmpi (h : Hdr) (a : Reg)
  /-- CALL: R114. -/
  | call (h : Hdr) (d : BitVec 8) (off : Word)
  /-- CALL_I: R114. -/
  | callI (h : Hdr) (d : BitVec 8) (a : Reg)
  /-- RET: R115. -/
  | ret (h : Hdr) (a : Reg)
  /-- EXIT: R116. -/
  | exit (h : Hdr)
  /-- YIELD: R117. -/
  | yield (h : Hdr)
  /-- YIELD_UNPARK: R117: the k-th wait of group g of team t. -/
  | yieldUnpark (t g k : Nat)
  /-- TRAP: R118. -/
  | trap (h : Hdr) (info : Option Word)
  /-- RFT: R119. -/
  | rft (h : Hdr)
  /-- SYSRD: R120. -/
  | sysrd (h : Hdr) (d : Reg) (id : BitVec 12)
  /-- SYSWR: R121, every id but SEQ_CTL. -/
  | syswr (h : Hdr) (id : BitVec 12) (a : Reg)
  /-- SEQ_CTL_RESUME: R106: SYSWR of SEQ_CTL. -/
  | seqCtlResume (h : Hdr) (a : Reg)
  /-- PLOP: R122. -/
  | plop (h : Hdr) (tbl : Byte) (d a b c : BitVec 3)
  /-- UNASSIGNED_OPCODE: R50, R47: the part step of a word that is no instruction. -/
  | unassignedOpcode (w : DWord)
  -- integer and bit class (05)
  /-- IADD: R129. -/
  | iadd (h : Hdr) (ty : Ty) (sat : Bool) (d a : Reg) (b : Opd)
  /-- IADD_CC: R129. -/
  | iaddCc (h : Hdr) (ty : Ty) (d a : Reg) (b : Opd) (pc : BitVec 3)
  /-- ISUB: R129. -/
  | isub (h : Hdr) (ty : Ty) (sat : Bool) (d a : Reg) (b : Opd)
  /-- ISUB_CC: R129. -/
  | isubCc (h : Hdr) (ty : Ty) (d a : Reg) (b : Opd) (pc : BitVec 3)
  /-- IMUL_LO: R130. -/
  | imulLo (h : Hdr) (ty : Ty) (sat : Bool) (d a : Reg) (b : Opd)
  /-- IMUL_HI: R130. -/
  | imulHi (h : Hdr) (ty : Ty) (d a : Reg) (b : Opd)
  /-- IMUL_WIDE: R130. -/
  | imulWide (h : Hdr) (ty : Ty) (d a : Reg) (b : Opd)
  /-- IMAD_LO: R130. -/
  | imadLo (h : Hdr) (ty : Ty) (sat : Bool) (d a : Reg) (b : Opd) (c : Reg)
  /-- IMAD_HI: R130. -/
  | imadHi (h : Hdr) (ty : Ty) (d a : Reg) (b : Opd) (c : Reg)
  /-- IMAD_WIDE: R130. -/
  | imadWide (h : Hdr) (ty : Ty) (d a : Reg) (b : Opd) (c : Reg)
  /-- SHF_L: R131. -/
  | shfL (h : Hdr) (ty : Ty) (d a : Reg) (b : Opd)
  /-- SHF_R: R131. -/
  | shfR (h : Hdr) (ty : Ty) (d a : Reg) (b : Opd)
  /-- SHF_RA: R131. -/
  | shfRa (h : Hdr) (ty : Ty) (d a : Reg) (b : Opd)
  /-- SHF_ROL: R131. -/
  | shfRol (h : Hdr) (ty : Ty) (d a : Reg) (b : Opd)
  /-- SHF_LF: R131. -/
  | shfLf (h : Hdr) (d a : Reg) (b : Opd) (c : Reg)
  /-- SHF_RF: R131. -/
  | shfRf (h : Hdr) (d a : Reg) (b : Opd) (c : Reg)
  /-- LTAB: R132. -/
  | ltab (h : Hdr) (ty : Ty) (tbl : Byte) (d a : Reg) (b : Opd) (c : Reg)
  /-- ICMP: R133. -/
  | icmp (h : Hdr) (ty : Ty) (cond : ICond) (pd : BitVec 3) (a : Reg) (b : Opd)
  /-- IMNMX_MIN: R133. -/
  | imnmxMin (h : Hdr) (ty : Ty) (d a : Reg) (b : Opd)
  /-- IMNMX_MAX: R133. -/
  | imnmxMax (h : Hdr) (ty : Ty) (d a : Reg) (b : Opd)
  /-- BFE: R134. -/
  | bfe (h : Hdr) (ty : Ty) (d a : Reg) (b : Opd)
  /-- BFI: R134. -/
  | bfi (h : Hdr) (ty : Ty) (d a : Reg) (b : Opd) (c : Reg)
  /-- BITS_POPC: R135. -/
  | bitsPopc (h : Hdr) (ty : Ty) (d a : Reg)
  /-- BITS_CLZ: R135. -/
  | bitsClz (h : Hdr) (ty : Ty) (d a : Reg)
  /-- BITS_CTZ: R135. -/
  | bitsCtz (h : Hdr) (ty : Ty) (d a : Reg)
  /-- BITS_BREV: R135. -/
  | bitsBrev (h : Hdr) (ty : Ty) (d a : Reg)
  /-- SEL: R136. -/
  | sel (h : Hdr) (ty : Ty) (d a : Reg) (b : Opd) (pc : BitVec 3)
  /-- MOV: R137. -/
  | mov (h : Hdr) (ty : Ty) (d b : Reg)
  /-- MOV_PUSH: R139, R140. -/
  | movPush (h : Hdr) (ty : Ty) (q : BitVec 4) (b : Reg)
  /-- MOV_POP: R139, R140. -/
  | movPop (h : Hdr) (ty : Ty) (d : Reg) (q : BitVec 4)
  /-- QUEUE_ENTRY_ENTER: R241: the lowest waiting lane of the k-th wait. -/
  | queueEntryEnter (t g k : Nat)
  /-- QUEUE_POP_COMPLETE: R139: the lowest waiting lane of the k-th wait. -/
  | queuePopComplete (t g k : Nat)
  /-- MOV_P2V: R138. -/
  | movP2v (h : Hdr) (d : BitVec 8)
  /-- MOV_V2P: R138. -/
  | movV2p (h : Hdr) (b : Reg)
  /-- MOVI_VECTOR: R141. -/
  | moviVector (h : Hdr) (d : BitVec 8) (imm : Word)
  /-- MOVI_VECTOR_PAIR: R141. -/
  | moviVectorPair (h : Hdr) (d : BitVec 8) (imm : DWord)
  /-- MOVI_UNIFORM: R141. -/
  | moviUniform (h : Hdr) (d : BitVec 6) (imm : Word)
  /-- MOVI_UNIFORM_PAIR: R141. -/
  | moviUniformPair (h : Hdr) (d : BitVec 6) (imm : DWord)
  /-- LEA: R142. -/
  | lea (h : Hdr) (ty : Ty) (sh : BitVec 3) (d a : Reg) (b : Opd)
  /-- DP4: R143: sa, sb say which operand has signed bytes. -/
  | dp4 (h : Hdr) (sa sb sat : Bool) (d a : Reg) (b : Opd) (c : Reg)
  -- float and convert class (06)
  /-- FADD: R150. -/
  | fadd (h : Hdr) (rnd : Rnd) (ftz : Bool) (d a : Reg) (b : Opd)
  /-- FMUL: R150. -/
  | fmul (h : Hdr) (rnd : Rnd) (ftz : Bool) (d a : Reg) (b : Opd)
  /-- FFMA: R150. -/
  | ffma (h : Hdr) (rnd : Rnd) (ftz : Bool) (d a : Reg) (b : Opd) (c : Reg)
  /-- FMNMX_MIN: R151. -/
  | fmnmxMin (h : Hdr) (ftz : Bool) (d a : Reg) (b : Opd)
  /-- FMNMX_MAX: R151. -/
  | fmnmxMax (h : Hdr) (ftz : Bool) (d a : Reg) (b : Opd)
  /-- FCMP: R152. -/
  | fcmp (h : Hdr) (cond : FCond) (ftz : Bool) (pd : BitVec 3) (a : Reg) (b : Opd)
  /-- FFN_RCP: R153. -/
  | ffnRcp (h : Hdr) (rnd : Rnd) (ftz : Bool) (d a : Reg)
  /-- FFN_SQRT: R153. -/
  | ffnSqrt (h : Hdr) (rnd : Rnd) (ftz : Bool) (d a : Reg)
  /-- FFN_RSQRT: R153. -/
  | ffnRsqrt (h : Hdr) (rnd : Rnd) (ftz : Bool) (d a : Reg)
  /-- FFN_EXP2: R153. -/
  | ffnExp2 (h : Hdr) (rnd : Rnd) (ftz : Bool) (d a : Reg)
  /-- FFN_LOG2: R153. -/
  | ffnLog2 (h : Hdr) (rnd : Rnd) (ftz : Bool) (d a : Reg)
  /-- FFN_SINPI: R153. -/
  | ffnSinpi (h : Hdr) (rnd : Rnd) (ftz : Bool) (d a : Reg)
  /-- FFN_COSPI: R153. -/
  | ffnCospi (h : Hdr) (rnd : Rnd) (ftz : Bool) (d a : Reg)
  /-- CVT: R154, R155. -/
  | cvt (h : Hdr) (dty sty : Ty) (nosat : Bool) (rnd : Rnd) (ftz : Bool) (d a : Reg)
  /-- FMA2: R156. -/
  | fma2 (h : Hdr) (rnd : Rnd) (ftz : Bool) (d a : Reg) (b : Opd) (c : Reg)
  /-- FRND: R157. -/
  | frnd (h : Hdr) (rnd : Rnd) (ftz : Bool) (d a : Reg)
  /-- XACC_F32: R158. -/
  | xaccF32 (h : Hdr) (d a : Reg) (b : Opd)
  /-- XACC_X128: R158. -/
  | xaccX128 (h : Hdr) (d a b : Reg)
  /-- XRND: R159. -/
  | xrnd (h : Hdr) (rnd : Rnd) (d a : Reg)
  -- lanes and random class (07)
  /-- SHFL_IDX: R163. -/
  | shflIdx (h : Hdr) (ty : Ty) (d a : BitVec 8) (b : Opd) (pv : BitVec 3)
  /-- SHFL_UP: R163. -/
  | shflUp (h : Hdr) (ty : Ty) (d a : BitVec 8) (b : Opd) (pv : BitVec 3)
  /-- SHFL_DOWN: R163. -/
  | shflDown (h : Hdr) (ty : Ty) (d a : BitVec 8) (b : Opd) (pv : BitVec 3)
  /-- SHFL_XOR: R163. -/
  | shflXor (h : Hdr) (ty : Ty) (d a : BitVec 8) (b : Opd) (pv : BitVec 3)
  /-- BALLOT: R164. -/
  | ballot (h : Hdr) (d a : Reg) (b : Opd)
  /-- VOTE_ALL: R165. -/
  | voteAll (h : Hdr) (pd pa : BitVec 3)
  /-- VOTE_ANY: R165. -/
  | voteAny (h : Hdr) (pd pa : BitVec 3)
  /-- VOTE_UNI: R165. -/
  | voteUni (h : Hdr) (pd pa : BitVec 3)
  /-- LRED_ADD: R166. -/
  | lredAdd (h : Hdr) (ty : Ty) (d a : Reg)
  /-- LRED_MIN: R166. -/
  | lredMin (h : Hdr) (ty : Ty) (d a : Reg)
  /-- LRED_MAX: R166. -/
  | lredMax (h : Hdr) (ty : Ty) (d a : Reg)
  /-- LRED_AND: R166. -/
  | lredAnd (h : Hdr) (ty : Ty) (d a : Reg)
  /-- LRED_OR: R166. -/
  | lredOr (h : Hdr) (ty : Ty) (d a : Reg)
  /-- LRED_XOR: R166. -/
  | lredXor (h : Hdr) (ty : Ty) (d a : Reg)
  /-- RNG_C: R168. -/
  | rngC (h : Hdr) (d : BitVec 8)
  /-- RNG_CX: R168. -/
  | rngCx (h : Hdr) (d a : BitVec 8)
  /-- RNG_S_STEP: R169. -/
  | rngSStep (h : Hdr) (d : BitVec 8)
  /-- RNG_S_RESEED: R169. -/
  | rngSReseed (h : Hdr) (d : BitVec 8) (seed : Word)
  /-- BSEL: R170. -/
  | bsel (h : Hdr) (d a : Reg) (b : Opd) (c : Reg)
  -- memory class (08)
  /-- LD: R203. -/
  | ld (h : Hdr) (ty : Ty) (ord : Order) (sc : Scope) (hint : Hint) (d : Reg) (ad : Addr)
  /-- ST: R203. -/
  | st (h : Hdr) (ty : Ty) (ord : Order) (sc : Scope) (hint : Hint) (ad : Addr) (c : Reg)
  /-- LDS: R204. -/
  | lds (h : Hdr) (ty : Ty) (win : Window) (d : Reg) (ad : Addr)
  /-- STS: R204. -/
  | sts (h : Hdr) (ty : Ty) (win : Window) (ad : Addr) (d : Reg)
  /-- ATOM_ADD: R205. -/
  | atomAdd (h : Hdr) (ty : Ty) (ord : Order) (sc : Scope) (d : Reg) (ad : Addr) (b : Reg)
  /-- ATOM_MIN: R205. -/
  | atomMin (h : Hdr) (ty : Ty) (ord : Order) (sc : Scope) (d : Reg) (ad : Addr) (b : Reg)
  /-- ATOM_MAX: R205. -/
  | atomMax (h : Hdr) (ty : Ty) (ord : Order) (sc : Scope) (d : Reg) (ad : Addr) (b : Reg)
  /-- ATOM_AND: R205. -/
  | atomAnd (h : Hdr) (ty : Ty) (ord : Order) (sc : Scope) (d : Reg) (ad : Addr) (b : Reg)
  /-- ATOM_OR: R205. -/
  | atomOr (h : Hdr) (ty : Ty) (ord : Order) (sc : Scope) (d : Reg) (ad : Addr) (b : Reg)
  /-- ATOM_XOR: R205. -/
  | atomXor (h : Hdr) (ty : Ty) (ord : Order) (sc : Scope) (d : Reg) (ad : Addr) (b : Reg)
  /-- ATOM_EXCH: R205. -/
  | atomExch (h : Hdr) (ty : Ty) (ord : Order) (sc : Scope) (d : Reg) (ad : Addr) (b : Reg)
  /-- ATOM_CAS: R205. -/
  | atomCas (h : Hdr) (ty : Ty) (ord : Order) (sc : Scope) (d : Reg) (ad : Addr) (b : Reg)
  /-- ATOMS_ADD: R205. -/
  | atomsAdd (h : Hdr) (ty : Ty) (d : Reg) (ad : Addr) (b : Reg)
  /-- ATOMS_MIN: R205. -/
  | atomsMin (h : Hdr) (ty : Ty) (d : Reg) (ad : Addr) (b : Reg)
  /-- ATOMS_MAX: R205. -/
  | atomsMax (h : Hdr) (ty : Ty) (d : Reg) (ad : Addr) (b : Reg)
  /-- ATOMS_AND: R205. -/
  | atomsAnd (h : Hdr) (ty : Ty) (d : Reg) (ad : Addr) (b : Reg)
  /-- ATOMS_OR: R205. -/
  | atomsOr (h : Hdr) (ty : Ty) (d : Reg) (ad : Addr) (b : Reg)
  /-- ATOMS_XOR: R205. -/
  | atomsXor (h : Hdr) (ty : Ty) (d : Reg) (ad : Addr) (b : Reg)
  /-- ATOMS_EXCH: R205. -/
  | atomsExch (h : Hdr) (ty : Ty) (d : Reg) (ad : Addr) (b : Reg)
  /-- ATOMS_CAS: R205. -/
  | atomsCas (h : Hdr) (ty : Ty) (d : Reg) (ad : Addr) (b : Reg)
  /-- FENCE: R206. -/
  | fence (h : Hdr) (ord : Order) (sc : Scope)
  /-- PUBLISH: R207. -/
  | publish (h : Hdr) (sc : Scope) (d a : BitVec 6) (disp : Option Word)
  /-- DRAIN_SP: R208. -/
  | drainSp (h : Hdr)
  /-- DRAIN_FIFO: R208. -/
  | drainFifo (h : Hdr)
  /-- DRAIN_GLB: R208. -/
  | drainGlb (h : Hdr)
  /-- DRAIN_COMPLETE: R208. -/
  | drainComplete (t g : Nat)
  /-- CCTL_INV: R209. -/
  | cctlInv (h : Hdr) (ad : Addr)
  /-- CCTL_PFL1: R209. -/
  | cctlPfl1 (h : Hdr) (ad : Addr)
  /-- CCTL_PFL2: R209. -/
  | cctlPfl2 (h : Hdr) (ad : Addr)
  /-- NMC_GATHER: R210. -/
  | nmcGather (h : Hdr) (sc : Scope) (k : BitVec 4) (a : BitVec 6)
  /-- NMC_COPY: R210. -/
  | nmcCopy (h : Hdr) (sc : Scope) (k : BitVec 4) (a : BitVec 6)
  /-- NMC_CVT: R210. -/
  | nmcCvt (h : Hdr) (sc : Scope) (k : BitVec 4) (a : BitVec 6)
  /-- NMC_RED: R210. -/
  | nmcRed (h : Hdr) (sc : Scope) (k : BitVec 4) (a : BitVec 6)
  /-- LDC_B32: R211. -/
  | ldcB32 (h : Hdr) (d : Reg) (off : Opd)
  /-- LDC_B64: R211. -/
  | ldcB64 (h : Hdr) (d : Reg) (off : Opd)
  -- synchronisation class (11)
  /-- BAR_SYNC: R249. -/
  | barSync (h : Hdr) (b : ImmU)
  /-- BAR_ARRIVE: R249. -/
  | barArrive (h : Hdr) (b : ImmU)
  /-- BAR_WAIT: R249. -/
  | barWait (h : Hdr) (b : ImmU)
  /-- BEXP: R250. -/
  | bexp (h : Hdr) (b : BexpOpd)
  /-- CBAR: R251. -/
  | cbar (h : Hdr) (sc : Scope) (id : ImmU)
  /-- CBAR_COMPLETE: R251: every member of the group has arrived. -/
  | cbarComplete (p : Nat) (id : BitVec 16)
  /-- CBAR_DEADLINE_EXPIRY: R251: the member of that rank is the lowest missing one. -/
  | cbarDeadlineExpiry (p : Nat) (id : BitVec 16) (rank : Word)
  /-- QBIND_SQ: R252. -/
  | qbindSq (h : Hdr) (q : BitVec 4) (off : ImmU)
  /-- QBIND_PORT: R252. -/
  | qbindPort (h : Hdr) (q : BitVec 4) (port : Byte)
  /-- QTRY_PUSH: R253. -/
  | qtryPush (h : Hdr) (pd : BitVec 3) (q : BitVec 4) (b : Reg)
  /-- QTRY_POP: R253. -/
  | qtryPop (h : Hdr) (d : Reg) (q : BitVec 4) (pc : BitVec 3)
  /-- QUEUE_OVERFLOW_START: R242. -/
  | queueOverflowStart (t q : Nat)
  /-- WAITK: R254. -/
  | waitk (h : Hdr) (k : BitVec 4)
  /-- WAITK_MASK: R254. -/
  | waitkMask (h : Hdr) (m : BitVec 16)
  /-- ACQ: R255. -/
  | acq (h : Hdr) (tile : BitVec 3)
  /-- REL: R255. -/
  | rel (h : Hdr) (tile : BitVec 3)
  /-- TSLD: R256. -/
  | tsld (h : Hdr) (slot : BitVec 5) (a : BitVec 6) (disp : Option Word)
  /-- TSEV: R256. -/
  | tsev (h : Hdr) (slot : BitVec 5) (ad : Option (BitVec 6 × Option Word))
  /-- QALW_ADD: R257. -/
  | qalwAdd (h : Hdr) (q : BitVec 4) (n : ImmU)
  /-- QALW_SET: R257. -/
  | qalwSet (h : Hdr) (q : BitVec 4) (n : ImmU)
  -- engine class (13)
  /-- CPY: R283. -/
  | cpy (h : Hdr) (sc : Scope) (k : BitVec 4) (a b : BitVec 5) (org : BitVec 6) (e : EngExt)
  /-- CPY_ADD: R283. -/
  | cpyAdd (h : Hdr) (sc : Scope) (k : BitVec 4) (a b : BitVec 5) (org : BitVec 6) (e : EngExt)
  /-- CPY_MIN: R283. -/
  | cpyMin (h : Hdr) (sc : Scope) (k : BitVec 4) (a b : BitVec 5) (org : BitVec 6) (e : EngExt)
  /-- CPY_MAX: R283. -/
  | cpyMax (h : Hdr) (sc : Scope) (k : BitVec 4) (a b : BitVec 5) (org : BitVec 6) (e : EngExt)
  /-- CPY_AND: R283. -/
  | cpyAnd (h : Hdr) (sc : Scope) (k : BitVec 4) (a b : BitVec 5) (org : BitVec 6) (e : EngExt)
  /-- CPY_OR: R283. -/
  | cpyOr (h : Hdr) (sc : Scope) (k : BitVec 4) (a b : BitVec 5) (org : BitVec 6) (e : EngExt)
  /-- GSC_G: R284. -/
  | gscG (h : Hdr) (sc : Scope) (k : BitVec 4) (a b : BitVec 5) (e : EngExt)
  /-- GSC_S: R284. -/
  | gscS (h : Hdr) (sc : Scope) (k : BitVec 4) (a b : BitVec 5) (e : EngExt)
  /-- GSC_SADD: R284. -/
  | gscSadd (h : Hdr) (sc : Scope) (k : BitVec 4) (a b : BitVec 5) (e : EngExt)
  /-- FEED_FA: R285, R298. -/
  | feedFa (h : Hdr) (k : BitVec 4) (a : BitVec 5) (org : BitVec 6) (e : EngExt)
  /-- FEED_FB: R285, R298. -/
  | feedFb (h : Hdr) (k : BitVec 4) (a : BitVec 5) (org : BitVec 6) (e : EngExt)
  /-- FEED_SC: R285, R298. -/
  | feedSc (h : Hdr) (k : BitVec 4) (a : BitVec 5) (org : BitVec 6) (e : EngExt)
  /-- FIFO_TILE_ENTER: R295. -/
  | fifoTileEnter (cmd : Nat)
  /-- SCALE_SLOT_FILL: R298. -/
  | scaleSlotFill (cmd : Nat)
  /-- COLL_START: R287. -/
  | collStart (h : Hdr) (k : BitVec 4) (a : BitVec 6)
  /-- COLL_RESUME: R282, R287. -/
  | collResume (h : Hdr) (k : BitVec 4) (a : BitVec 6)
  /-- COLL_CHUNK_FINAL: R278 to R280: contrib holds, per rank, what members outside the part send for the chunk. -/
  | collChunkFinal (cmd : Nat) (chunk : Nat) (contrib : List (List Byte))
  /-- COLL_MEMBER_FAILURE: R281: others holds the progress vectors of surviving members outside the part. -/
  | collMemberFailure (p : Nat) (id : BitVec 16) (others : List (List Word)) (agreed : Bool)
  /-- ENC: R288. -/
  | enc (h : Hdr) (sc : Scope) (k : BitVec 4) (a b : BitVec 5) (org : BitVec 6) (e : EngExt)
  /-- DEC_F32: R290. -/
  | decF32 (h : Hdr) (sc : Scope) (k : BitVec 4) (a b : BitVec 5) (org : BitVec 6) (e : EngExt)
  /-- DEC_BF16: R290. -/
  | decBf16 (h : Hdr) (sc : Scope) (k : BitVec 4) (a b : BitVec 5) (org : BitVec 6) (e : EngExt)
  /-- ENGINE_CHUNK_PERFORMED: R237, R184. -/
  | engineChunkPerformed (cmd chunk : Nat)
  /-- ENGINE_FAULT_RESUME: R184. -/
  | engineFaultResume (cmd : Nat) (serviced : Bool)
  /-- ENGINE_COMMAND_COMPLETE: R269. -/
  | engineCommandComplete (cmd : Nat)
  /-- PORT_ENTRY_DELIVER: R243. -/
  | portEntryDeliver (t port : Nat)
  -- matrix class (14)
  /-- MMS: R309. -/
  | mms (x : Bool) (d : BitVec 3) (a b : BitVec 5) (e : MmsExt)
  /-- MMS_PAIR: R302. -/
  | mmsPair (x : Bool) (d : BitVec 3) (a b : BitVec 5) (e : MmsExt)
  /-- MMS_COMMIT: R309: the oldest running attempt of team t. -/
  | mmsCommit (t : Nat)
  /-- ACLR_F32_ZERO: R310. -/
  | aclrF32Zero (d : BitVec 3)
  /-- ACLR_F32_BROADCAST: R310. -/
  | aclrF32Broadcast (d : BitVec 3) (v : Word)
  /-- ACLR_X128_ZERO: R310. -/
  | aclrX128Zero (d : BitVec 3)
  /-- ACLR_X128_BROADCAST: R310. -/
  | aclrX128Broadcast (d : BitVec 3) (v : Word)
  /-- SQIF: R311. -/
  | sqif (cond : SqCond) (v off : Word)
  /-- SQWH_WHILE: R312. -/
  | sqwhWhile (cond : SqCond) (v off : Word)
  /-- SQWH_ENDW: R312. -/
  | sqwhEndw (off : Word)
  /-- SQCW_SET: R313. -/
  | sqcwSet (v : Word)
  /-- SQCW_SET_SP: R313. -/
  | sqcwSetSp (off : Word)
  /-- SQCW_ADD: R313. -/
  | sqcwAdd (v : Word)
  /-- SQCW_CMP: R313. -/
  | sqcwCmp (v : Word)
  /-- SQCW_END: R313. -/
  | sqcwEnd
  -- vocabulary projection (15)
  /-- VPROJ_F: R330. -/
  | vprojF (first last : Bool) (d : BitVec 3) (a b : BitVec 5) (e : VprojExt)
  /-- VPROJ_B: R330. -/
  | vprojB (first last : Bool) (d : BitVec 3) (a b : BitVec 5) (e : VprojExt)
  /-- FORWARD_SELECTION_STAGE: R321. -/
  | forwardSelectionStage (t : Nat)
  /-- BACKWARD_GRADIENT_STAGE: R328. -/
  | backwardGradientStage (t : Nat)
  /-- VMRG_ROW: R326, R331. -/
  | vmrgRow (cnt : Byte)
  /-- VMRG_HEAP: R326, R331. -/
  | vmrgHeap (cnt : Byte)
  /-- VOUT_ROW: R332. -/
  | voutRow (a : BitVec 5) (e : VoutExt)
  /-- VOUT_HEAP: R332. -/
  | voutHeap (a : BitVec 5) (e : VoutExt)
  -- probabilistic counters (16)
  /-- PCADD: R343. -/
  | pcadd (h : Hdr) (ord : Order) (sc : Scope) (hint : Hint) (ad : Addr) (c : BitVec 8)
  /-- PCADD_RTN: R343. -/
  | pcaddRtn (h : Hdr) (ord : Order) (sc : Scope) (hint : Hint) (d : BitVec 8) (ad : Addr) (c : BitVec 8)
  /-- PCRD: R344. -/
  | pcrd (h : Hdr) (ord : Order) (sc : Scope) (hint : Hint) (d : BitVec 8) (ad : Addr)
  /-- PCRD_RAW: R344. -/
  | pcrdRaw (h : Hdr) (ord : Order) (sc : Scope) (hint : Hint) (d : BitVec 8) (ad : Addr)
  /-- PCMRG: R345. -/
  | pcmrg (h : Hdr) (ord : Order) (sc : Scope) (hint : Hint) (d : BitVec 8) (ad : Addr) (c : BitVec 8)
  /-- PCCLR: R346. -/
  | pcclr (h : Hdr) (ord : Order) (sc : Scope) (hint : Hint) (ad : Addr)
  /-- PCBASE: R347. -/
  | pcbase (h : Hdr) (v : ImmU)
  -- task and system class (17)
  /-- LAUNCH: R366. -/
  | launch (h : Hdr) (d a : BitVec 6) (tag : BitVec 16) (port : Bool)
  /-- FORK: R368. -/
  | fork (h : Hdr) (k : BitVec 4) (a b : BitVec 6)
  /-- CANCEL: R369. -/
  | cancel (h : Hdr) (a : BitVec 6)
  /-- TWAIT: R367. -/
  | twait (h : Hdr) (d : BitVec 6) (a : Option (BitVec 6))
  /-- ALLOC: R370. -/
  | alloc (h : Hdr) (d : Reg) (size : Opd)
  /-- FREE: R370. -/
  | free (h : Hdr) (a : Reg)
  /-- TMARK: R371. -/
  | tmark (h : Hdr) (v : ImmU)
  /-- HVC: R372, every service without a constructor of its own. -/
  | hvc (h : Hdr) (svc : BitVec 16)
  /-- HVC_RETURN: R372. -/
  | hvcReturn (t g k : Nat) (s0 s1 : Word)
  /-- REGISTER_QUEUE: R372, HVC service 0x0001. -/
  | registerQueue (h : Hdr)
  /-- REGISTER_COLLECTIVE_GROUP: R372, HVC service 0x0002. -/
  | registerCollectiveGroup (h : Hdr)
  /-- ADD_FRAMES: R372, HVC service 0x0003. -/
  | addFrames (h : Hdr)
  /-- RETIRE_ROOT: R372, HVC service 0x0004. -/
  | retireRoot (h : Hdr)
  /-- SET_HANG_THRESHOLD: R372, HVC service 0x0005. -/
  | setHangThreshold (h : Hdr)
  /-- ATTESTATION_QUOTE: R372, HVC service 0x0010. -/
  | attestationQuote (h : Hdr)
  /-- LAUNCH_PACKET_START: R348, R273: queue q of partition p. -/
  | launchPacketStart (p q : Nat)
  /-- COPY_PACKET_START: R273. -/
  | copyPacketStart (p q : Nat)
  /-- TEAM_PLACE: R353. -/
  | teamPlace (p : Nat)
  /-- TEAM_RETIRE: R98. -/
  | teamRetire (t : Nat)
  /-- GRID_COMPLETION: R358. -/
  | gridCompletion (l : Nat)
  /-- EVENT_RECORD_WRITE: R274: the k-th record that waits. -/
  | eventRecordWrite (k : Nat)
  /-- EVENT_RING_TIME_TRIGGER: R274: the k-th record that a time trigger watches. -/
  | eventRingTimeTrigger (k : Nat)
  /-- PREEMPTION_REQUEST: R356. -/
  | preemptionRequest (l : Nat)
  /-- SAFE_POINT_TAKE: R378. -/
  | safePointTake (t g : Nat)
  /-- FORCED_SAVE_TIMEOUT: R378. -/
  | forcedSaveTimeout (t g : Nat)
  /-- TEAM_RESUME: R377. -/
  | teamResume (t : Nat)
  /-- CORE_CLOCK_GATE: R247. -/
  | coreClockGate (die core : Nat)
  /-- CORE_POWER_GATE: R247. -/
  | corePowerGate (die core : Nat)
  /-- CORE_WAKE: R247. -/
  | coreWake (die core : Nat)
  /-- HANG_REPORT: R248. -/
  | hangReport (t : Nat)
  /-- ERROR_LOG_LOST_ENTRIES: R384. -/
  | errorLogLostEntries (p : Nat)
  /-- LINK_WAKE_RETRY: R386. -/
  | linkWakeRetry (die : Nat)
  /-- LINK_RETRAIN: R386. -/
  | linkRetrain (die : Nat)
  /-- DIE_HEARTBEAT: R387. -/
  | dieHeartbeat (die : Nat)
  /-- DIE_LOST: R388. -/
  | dieLost (die : Nat)
  /-- DIELOST_TRAP: R388. -/
  | dielostTrap (t g : Nat)
  /-- REMOTE_ACCESS_TIMEOUT: R412, R179. -/
  | remoteAccessTimeout (peer : Nat)
  /-- HEADROOM_UPDATE: R107. -/
  | headroomUpdate (die : Nat) (v : BitVec 16)
  /-- THERMAL_THROTTLE: R414. -/
  | thermalThrottle (die : Nat)
  /-- THERMAL_TRIP: R414. -/
  | thermalTrip (die : Nat)
  /-- POWER_ON_BOOT: R401. -/
  | powerOnBoot
  /-- RECOVERY_GO: R402: the image that stands in the window, and the word written to GO. -/
  | recoveryGo (port : Bool) (image : List Byte) (v : DWord)
  /-- SEMAPHORE_CLAIM: R409, R410. -/
  | semaphoreClaim (sem : BitVec 4) (who : Claimant)
  /-- SEMAPHORE_RELEASE: R409. -/
  | semaphoreRelease (sem : BitVec 4) (port : Bool)
  /-- PORT_RESET: R409. -/
  | portReset (port : Bool)
  /-- PARTITION_CREATE: R404, R405: the request, and the translation root that the new supervisor installs. -/
  | partitionCreate (port : Bool) (req : BitVec 2048) (root : Nat)
  /-- PARTITION_REMOVE: R404, R405: the request, and the translation root that the new supervisor installs. -/
  | partitionRemove (port : Bool) (req : BitVec 2048) (root : Nat)
  /-- PARTITION_RECREATE: R404, R405: the request, and the translation root that the new supervisor installs. -/
  | partitionRecreate (port : Bool) (req : BitVec 2048) (root : Nat)
  /-- SUPACT_RESUME: R375. -/
  | supactResume (p : Nat) (handle : Word)
  /-- SUPACT_END_TEAM: R375. -/
  | supactEndTeam (p : Nat) (handle : Word)
  /-- SUPACT_DELIVER: R406. -/
  | supactDeliver (p : Nat) (handle : Word)
  /-- HOST_ATTESTATION_REQUEST: R408. -/
  | hostAttestationRequest (port : Bool) (p : Nat) (nonce : BitVec 256)
  /-- HOST_PORT_ACCESS: R407. -/
  | hostPortAccess (port : Bool) (addr : DWord) (acc : HostAcc)
  /-- DEVICE_REGISTER_WRITE: R412, R406: by the supervisor of partition p. -/
  | deviceRegisterWrite (p : Nat) (addr v : DWord)
  /-- PEER_REMOTE_ACCESS: R179. -/
  | peerRemoteAccess (addr : BitVec 41) (acc : PeerAcc)
  /-- STATION_RETRAINING: R411. -/
  | stationRetraining (st : Nat) (width : BitVec 3) (compress : Bool)
  /-- SEQUENCER_FETCH_FAULT: R291. -/
  | sequencerFetchFault (t : Nat) (serviced : Bool)
  deriving DecidableEq, Repr

end Sys2Proof
end

