-- ==== Sys2Proof/Machine/Legal.lean ====
section
/-! DEFINITION. Which terms of Instr an instruction word can stand for: the type, length, class and pair rules of
02 R35 to R41 and of each class's encoding table. Ranges that depend on what a team declared are checked at issue. -/

namespace Sys2Proof.Machine

/-- An integer type of Table 5.2's full row (02 Table 2.5, codes 0x00 to 0x07). -/
def intTy : Ty → Bool
  | .i8 | .n8 | .i16 | .n16 | .i32 | .n32 | .i64 | .n64 => true
  | _ => false

/-- .i32 or .n32. -/
def int32Ty (t : Ty) : Bool := t == .i32 || t == .n32
/-- .i32, .n32, .i64 or .n64. -/
def wideIntTy (t : Ty) : Bool := int32Ty t || t == .i64 || t == .n64
/-- .b32 or .b64. -/
def bitTy (t : Ty) : Bool := t == .b32 || t == .b64

/-- How many registers a value of the type fills (02 R39, 08 Table 8.12). -/
def tyRegs : Ty → Nat
  | .i64 | .n64 | .b64 => 2
  | .x128 => 4
  | _ => 1

/-- The register is uniform. -/
def regUni : Reg → Bool
  | .s _ => true
  | .v _ => false

/-- The first register of a group of k meets 02 R39's rule: n is a multiple of k. -/
def regAligned (k : Nat) : Reg → Bool
  | .s n => n.toNat % k == 0
  | .v n => n.toNat % k == 0

/-- Operand b leaves a destination uniform: it is uniform, or an immediate (02 R36, 05 R126). -/
def opdUni : Opd → Bool
  | .reg r => regUni r
  | _ => true

/-- Operand b in the register form meets R39 for k registers; EXT64 in its place only where `wide`. -/
def opdAligned (k : Nat) (wide : Bool) : Opd → Bool
  | .reg r => regAligned k r
  | .imm _ => true
  | .wide _ => wide

/-- 02 R36: the destination is uniform exactly when a is uniform and b is uniform, immediate or absent. -/
def destClass (d a : Reg) (b : Opd) : Bool := regUni d == (regUni a && opdUni b)

/-- A two-operand form whose values all fill k registers. -/
def formAB (k : Nat) (wide : Bool) (d a : Reg) (b : Opd) : Bool :=
  destClass d a b && regAligned k d && regAligned k a && opdAligned k wide b

/-- A form with a third source of the destination's class. -/
def formABC (k : Nat) (wide : Bool) (d a : Reg) (b : Opd) (c : Reg) : Bool :=
  formAB k wide d a b && regUni c == regUni d && regAligned k c

/-- A two-operand form whose b is a 32-bit amount, position, index or selector. -/
def formAmount (k : Nat) (d a : Reg) (b : Opd) : Bool :=
  destClass d a b && regAligned k d && regAligned k a && opdAligned 1 false b

/-- A unary form (06 R149): uniform destination exactly when a is uniform. -/
def formA (kd ka : Nat) (d a : Reg) : Bool :=
  regUni d == regUni a && regAligned kd d && regAligned ka a

/-- 05 R127: a form with a per-lane predicate in SC has no uniform form. -/
def formLane (k : Nat) (wide : Bool) (d a : Reg) (b : Opd) : Bool :=
  formAB k wide d a b && !(regUni d)

/-- The wide immediate form exists for 64-bit types only (05 R125). -/
def wide64 (t : Ty) : Bool := tyRegs t == 2

/-- The number of b's registers an ATOM of this operation and type names (08 R205). -/
def atomRegs (op : AtomOp) (t : Ty) : Nat := if op == .cas then 2 * tyRegs t else tyRegs t

/-- 08 Table 8.13: the accepted combinations of operation and type. -/
def atomAccepts (op : AtomOp) (t : Ty) : Bool :=
  match op with
  | .add => wideIntTy t || t == .f32 || t == .bf16x2 || t == .x128
  | .min | .max => wideIntTy t || t == .f32 || t == .bf16x2
  | .and | .or | .xor | .cas => bitTy t
  | .exch => bitTy t || t == .x128

/-- A global address: base a pair; an index in the 128-bit form only (02 R43). -/
def addrGlobal (a : Addr) : Bool := regAligned 2 a.base

/-- The data register is uniform exactly when the base is uniform and the index is absent or uniform (08 R201). -/
def addrUni (a : Addr) : Bool :=
  regUni a.base && (match a.form with
    | .full _ (some (r, _)) => regUni r
    | _ => true)

/-- The data register of a memory access: class by R201, k registers under R39. -/
def dataReg (k : Nat) (a : Addr) (d : Reg) : Bool := regUni d == addrUni a && regAligned k d

/-- The index of a counter instruction is never scaled (16 R335). -/
def counterAddr (a : Addr) : Bool :=
  addrGlobal a && (match a.form with
    | .full _ (some (_, sc)) => sc == 0
    | _ => true)

/-- One ATOM form. -/
def atomLegal (op : AtomOp) (t : Ty) (d : Reg) (ad : Addr) (b : Reg) : Bool :=
  atomAccepts op t && addrGlobal ad && dataReg (tyRegs t) ad d && dataReg (atomRegs op t) ad b

/-- One ATOMS form: no .x128 (08 R205). -/
def atomsLegal (op : AtomOp) (t : Ty) (d : Reg) (ad : Addr) (b : Reg) : Bool :=
  atomAccepts op t && t != .x128 && dataReg (tyRegs t) ad d && dataReg (atomRegs op t) ad b

/-- 13 Table 13.3: TAG is RZ when PORT = 0; AUX, XPOSE, E0 and E1 as the entry allows. -/
def engExtLegal (aux xpose box : Bool) (e : EngExt) : Bool :=
  (e.port || e.tag == 0) && (aux || e.aux == 0) && (xpose || !e.xpose) && (box || (e.e0 == 0 && e.e1 == 0))

/-- 13 R265: the origin block begins at a multiple of 8. -/
def originLegal (org : BitVec 6) : Bool := org.toNat % 8 == 0

/-- 14 Table 14.6: KB from 1 to 21. -/
def kbLegal (kb : BitVec 5) : Bool := kb != 0 && kb.toNat ≤ 21

/-- 02 R39: an operand marked .x names tile 0 or tile 4. -/
def xTile (d : BitVec 3) : Bool := d == 0 || d == 4

/-- 08 R204, 02 R39: an .x128 access of the accumulator window names a0.x or a4.x. -/
def winTile (t : Ty) : Window → Bool
  | .acc k => t != .x128 || xTile k
  | _ => true

/-- 14 R311: .bs and .bc take a bit number, so v[31:5] is RZ. -/
def sqCondLegal (c : SqCond) (v : Word) : Bool :=
  match c with
  | .bs | .bc => v.toNat < 32
  | _ => true

/-- 15 R329: CNT is 1 to 128. -/
def cntLegal (c : Byte) : Bool := c != 0 && c.toNat ≤ 128

/-- How a system register is held: its width in registers, whether it has one value per lane (04 Table 4.2);
none for an unlisted id. -/
def sysReg (id : BitVec 12) : Option (Nat × Bool) :=
  if id == 0x000 then some (1, true)
  else if id.toNat ≤ 0x00A then some (1, false)
  else if id == 0x00B then some (2, false)
  else if id == 0x00C || id == 0x010 || id == 0x011 then some (1, false)
  else if id == 0x012 then some (1, true)
  else if 0x020 ≤ id.toNat && id.toNat ≤ 0x023 then some (2, false)
  else if id == 0x024 || (0x028 ≤ id.toNat && id.toNat ≤ 0x02B) then some (1, false)
  else if id == 0x030 || id == 0x031 then some (2, false)
  else if id == 0x040 || id == 0x041 then some (1, false)
  else if id == 0x050 then some (2, false)
  else if id == 0x051 then some (1, false)
  else if id == 0x052 then some (2, false)
  else if 0x053 ≤ id.toNat && id.toNat ≤ 0x057 then some (1, false)
  else if id == 0x060 || id == 0x061 || id == 0x062 || id == 0x070 then some (1, false)
  else if id == 0x071 then some (1, true)
  else if id == 0x072 || id == 0x080 || id == 0x081 then some (1, false)
  else if id == 0x100 || id == 0x101 then some (2, true)
  else none

/-- 04 R120, R102. -/
def sysrdLegal (d : Reg) (id : BitVec 12) : Bool :=
  match sysReg id with
  | some (k, lane) => regAligned k d && !(lane && regUni d)
  | none => false

/-- 04 R121, R102. -/
def syswrLegal (id : BitVec 12) (a : Reg) : Bool :=
  match sysReg id with
  | some (k, _) => regAligned k a
  | none => false

/-- The types CVT converts between (06 R154). -/
def cvtTy (t : Ty) : Bool := intTy t || t == .f32 || t == .bf16 || t == .e4m3 || t == .e5m2

/-- 06 R154: CVT's accepted pairs. -/
def cvtLegal (dty sty : Ty) (nosat : Bool) (d a : Reg) : Bool :=
  cvtTy dty && cvtTy sty && !(intTy dty && intTy sty) && (!nosat || dty == .e4m3 || dty == .e5m2)
    && formA (tyRegs dty) (tyRegs sty) d a

/-- The orders of a load, a store and a fence (08 Table 8.11, 16 Table 16.5). -/
def loadOrder (o : Order) : Bool := o == .ordinary || o == .rlx || o == .acq
def storeOrder (o : Order) : Bool := o == .ordinary || o == .rlx || o == .rel
def fenceOrder (o : Order) : Bool := o == .acq || o == .rel || o == .ar || o == .sc

/-- 05 R133: .b32 and .b64 compare with .eq and .ne only. -/
def icmpTy (t : Ty) (c : ICond) : Bool := intTy t || (bitTy t && (c == .eq || c == .ne))

/-- 07 R166: the types of LRED. -/
def lredIntTy (t : Ty) : Bool := wideIntTy t || t == .f32

/-- 02 R50: the primary opcodes that the maps assign. -/
def opcAssigned (o : BitVec 7) : Bool :=
  let n := o.toNat
  !((0x0D ≤ n && n ≤ 0x0F) || (0x2B ≤ n && n ≤ 0x2F) || (0x36 ≤ n && n ≤ 0x3F) || (0x4C ≤ n && n ≤ 0x4F)
    || (0x5B ≤ n && n ≤ 0x5F) || (0x66 ≤ n && n ≤ 0x67) || (0x75 ≤ n && n ≤ 0x77))

/-- The HVC services that have a constructor of their own (17 Table 17.10). -/
def hvcNamed (svc : BitVec 16) : Bool := (1 ≤ svc.toNat && svc.toNat ≤ 5) || svc == 0x10

/-- The term obeys every rule of its encoding that does not depend on the team. A part step has no encoding. -/
def legal : Instr → Bool
  | .nop _ _ | .bra _ _ | .bru _ _ | .exit _ | .yield _ | .trap _ _ | .plop _ _ _ _ _ _ => true
  | .jmpi _ a | .ret _ a => regAligned 2 a
  | .call _ d _ => d.toNat % 2 == 0
  | .callI _ d a => d.toNat % 2 == 0 && regAligned 2 a
  | .rft h => h.pg == 0 && !h.pn
  | .sysrd _ d id => sysrdLegal d id
  | .syswr _ id a => id != 0x060 && syswrLegal id a
  | .seqCtlResume _ _ => true
  | .iadd _ t _ d a b | .isub _ t _ d a b => intTy t && formAB (tyRegs t) (wide64 t) d a b
  | .iaddCc _ t d a b _ | .isubCc _ t d a b _ => int32Ty t && formLane 1 false d a b
  | .imulLo _ t _ d a b => intTy t && formAB (tyRegs t) (wide64 t) d a b
  | .imulHi _ t d a b => wideIntTy t && formAB (tyRegs t) (wide64 t) d a b
  | .imulWide _ t d a b =>
    int32Ty t && destClass d a b && regAligned 2 d && opdAligned 1 false b
  | .imadLo _ t _ d a b c => intTy t && formABC (tyRegs t) (wide64 t) d a b c
  | .imadHi _ t d a b c => wideIntTy t && formABC (tyRegs t) (wide64 t) d a b c
  | .imadWide _ t d a b c =>
    int32Ty t && destClass d a b && regAligned 2 d && opdAligned 1 false b && regUni c == regUni d && regAligned 2 c
  | .shfL _ t d a b | .shfR _ t d a b | .shfRa _ t d a b | .shfRol _ t d a b => bitTy t && formAmount (tyRegs t) d a b
  | .shfLf _ d a b c | .shfRf _ d a b c => formABC 1 false d a b c
  | .ltab _ t _ d a b c => bitTy t && formABC (tyRegs t) (wide64 t) d a b c
  | .icmp _ t cond _ a b => icmpTy t cond && regAligned (tyRegs t) a && opdAligned (tyRegs t) (wide64 t) b
  | .imnmxMin _ t d a b | .imnmxMax _ t d a b => intTy t && formAB (tyRegs t) (wide64 t) d a b
  | .bfe _ t d a b => wideIntTy t && formAmount (tyRegs t) d a b
  | .bfi _ t d a b c => bitTy t && formAmount (tyRegs t) d a b && regUni c == regUni d && regAligned (tyRegs t) c
  | .bitsPopc _ t d a | .bitsClz _ t d a | .bitsCtz _ t d a => bitTy t && formA 1 (tyRegs t) d a
  | .bitsBrev _ t d a => bitTy t && formA (tyRegs t) (tyRegs t) d a
  | .sel _ t d a b _ => bitTy t && formLane (tyRegs t) (wide64 t) d a b
  | .mov _ t d b => bitTy t && (!(regUni d) || regUni b) && regAligned (tyRegs t) d && regAligned (tyRegs t) b
  | .movPush _ t _ b => bitTy t && regAligned (tyRegs t) b
  | .movPop _ t d _ => bitTy t && regAligned (tyRegs t) d
  | .movP2v _ _ | .movV2p _ _ | .moviVector _ _ _ | .moviUniform _ _ _ => true
  | .moviVectorPair _ d _ => d.toNat % 2 == 0
  | .moviUniformPair _ d _ => d.toNat % 2 == 0
  | .lea _ t _ d a b => (t == .n32 || t == .i64 || t == .n64) && formAmount (tyRegs t) d a b
  | .dp4 _ _ _ _ d a b c => formABC 1 false d a b c
  | .fadd _ _ _ d a b | .fmul _ _ _ d a b | .fmnmxMin _ _ d a b | .fmnmxMax _ _ d a b => formAB 1 false d a b
  | .ffma _ _ _ d a b c | .fma2 _ _ _ d a b c => formABC 1 false d a b c
  | .fcmp _ _ _ _ _ b => opdAligned 1 false b
  | .ffnRcp _ _ _ d a | .ffnSqrt _ _ _ d a | .ffnRsqrt _ _ _ d a | .ffnExp2 _ _ _ d a | .ffnLog2 _ _ _ d a
  | .ffnSinpi _ _ _ d a | .ffnCospi _ _ _ d a | .frnd _ _ _ d a => formA 1 1 d a
  | .cvt _ dty sty nosat _ _ d a => cvtLegal dty sty nosat d a
  | .xaccF32 _ d a b => destClass d a b && regAligned 4 d && regAligned 4 a && opdAligned 1 false b
  | .xaccX128 _ d a b => formAB 4 false d a (.reg b)
  | .xrnd _ _ d a => formA 1 4 d a
  | .shflIdx _ t d a b _ | .shflUp _ t d a b _ | .shflDown _ t d a b _ | .shflXor _ t d a b _ =>
    bitTy t && d.toNat % tyRegs t == 0 && a.toNat % tyRegs t == 0 && opdAligned 1 false b
  | .ballot _ d a b => formAB 1 false d a b
  | .voteAll _ _ _ | .voteAny _ _ _ | .voteUni _ _ _ => true
  | .lredAdd _ t d a => (lredIntTy t || t == .x128) && formA (tyRegs t) (tyRegs t) d a
  | .lredMin _ t d a | .lredMax _ t d a => lredIntTy t && formA (tyRegs t) (tyRegs t) d a
  | .lredAnd _ t d a | .lredOr _ t d a | .lredXor _ t d a => bitTy t && formA (tyRegs t) (tyRegs t) d a
  | .rngC _ _ | .rngCx _ _ _ | .rngSStep _ _ | .rngSReseed _ _ _ => true
  | .bsel _ d a b c => formABC 1 false d a b c
  | .ld _ t o _ _ d ad => loadOrder o && addrGlobal ad && dataReg (tyRegs t) ad d
  | .st _ t o _ _ ad c => storeOrder o && addrGlobal ad && dataReg (tyRegs t) ad c
  | .lds _ t w d ad | .sts _ t w ad d => dataReg (tyRegs t) ad d && winTile t w
  | .atomAdd _ t _ _ d ad b => atomLegal .add t d ad b
  | .atomMin _ t _ _ d ad b => atomLegal .min t d ad b
  | .atomMax _ t _ _ d ad b => atomLegal .max t d ad b
  | .atomAnd _ t _ _ d ad b => atomLegal .and t d ad b
  | .atomOr _ t _ _ d ad b => atomLegal .or t d ad b
  | .atomXor _ t _ _ d ad b => atomLegal .xor t d ad b
  | .atomExch _ t _ _ d ad b => atomLegal .exch t d ad b
  | .atomCas _ t _ _ d ad b => atomLegal .cas t d ad b
  | .atomsAdd _ t d ad b => atomsLegal .add t d ad b
  | .atomsMin _ t d ad b => atomsLegal .min t d ad b
  | .atomsMax _ t d ad b => atomsLegal .max t d ad b
  | .atomsAnd _ t d ad b => atomsLegal .and t d ad b
  | .atomsOr _ t d ad b => atomsLegal .or t d ad b
  | .atomsXor _ t d ad b => atomsLegal .xor t d ad b
  | .atomsExch _ t d ad b => atomsLegal .exch t d ad b
  | .atomsCas _ t d ad b => atomsLegal .cas t d ad b
  | .fence _ o _ => fenceOrder o
  | .publish _ sc d a _ => (sc == .dflt || sc == .dev) && d.toNat % 2 == 0 && a.toNat % 2 == 0
  | .drainSp _ | .drainFifo _ | .drainGlb _ => true
  | .cctlInv _ ad | .cctlPfl1 _ ad | .cctlPfl2 _ ad => addrGlobal ad
  | .nmcGather _ _ _ a | .nmcCopy _ _ _ a | .nmcCvt _ _ _ a | .nmcRed _ _ _ a => a.toNat % 2 == 0
  | .ldcB32 _ _ off => opdAligned 1 false off
  | .ldcB64 _ d off => regAligned 2 d && opdAligned 1 false off
  | .barSync _ b | .barArrive _ b => (match b with
    | .imm w => w.toNat < 0x4000
    | .uni _ => true)
  | .barWait _ b => (match b with
    | .imm w => w.toNat < 0x100
    | .uni _ => true)
  | .bexp _ _ => true
  | .cbar _ sc b => (sc == .pod || sc == .sys) && (match b with
    | .imm w => w.toNat < 0x10000
    | .uni _ => true)
  | .qbindSq _ _ _ | .qbindPort _ _ _ => true
  | .qtryPush _ _ _ b => regAligned 2 b
  | .qtryPop _ d _ _ => regAligned 2 d
  | .waitk _ _ | .waitkMask _ _ | .acq _ _ | .rel _ _ => true
  | .tsld _ _ a _ => a.toNat % 2 == 0
  | .tsev _ _ ad => (match ad with
    | some (a, _) => a.toNat % 2 == 0
    | none => true)
  | .qalwAdd _ _ _ | .qalwSet _ _ _ => true
  | .cpy _ _ _ _ _ o e | .cpyAdd _ _ _ _ _ o e | .cpyMin _ _ _ _ _ o e | .cpyMax _ _ _ _ _ o e
  | .cpyAnd _ _ _ _ _ o e | .cpyOr _ _ _ _ _ o e => originLegal o && engExtLegal false true true e
  | .gscG _ _ _ _ _ e | .gscS _ _ _ _ _ e | .gscSadd _ _ _ _ _ e => engExtLegal true false false e
  | .feedFa _ _ _ o e | .feedFb _ _ _ o e | .feedSc _ _ _ o e => originLegal o && engExtLegal false false true e
  | .enc _ _ _ _ _ o e | .decF32 _ _ _ _ _ o e | .decBf16 _ _ _ _ _ o e => originLegal o && engExtLegal true false true e
  | .collStart _ _ a | .collResume _ _ a => a.toNat % 2 == 0
  | .mms x d _ _ e | .mmsPair x d _ _ e => kbLegal e.kb && (!x || xTile d)
  | .aclrF32Zero _ | .aclrF32Broadcast _ _ => true
  | .aclrX128Zero d | .aclrX128Broadcast d _ => xTile d
  | .sqif c v _ | .sqwhWhile c v _ => sqCondLegal c v
  | .sqwhEndw _ | .sqcwSet _ | .sqcwSetSp _ | .sqcwAdd _ | .sqcwEnd => true
  | .sqcwCmp v => !v.msb
  -- without .last, PBLK is RZ (15 R318)
  | .vprojF _ last _ _ _ e => kbLegal e.m.kb && e.spoff.toNat % 4 == 0 && (last || e.pblk == 0)
  | .vprojB _ last _ _ _ e => kbLegal e.m.kb && e.spoff == 0 && (last || e.pblk == 0)
  | .vmrgRow c | .vmrgHeap c => cntLegal c
  | .voutRow _ e | .voutHeap _ e => cntLegal e.cnt
  | .pcadd _ _ _ _ ad c => counterAddr ad && c.toNat % 2 == 0
  | .pcaddRtn _ _ _ _ _ ad c | .pcmrg _ _ _ _ _ ad c => counterAddr ad && c.toNat % 2 == 0
  | .pcrd _ o _ _ _ ad | .pcrdRaw _ o _ _ _ ad => counterAddr ad && loadOrder o
  | .pcclr _ o _ _ ad => counterAddr ad && storeOrder o
  | .pcbase _ v => (match v with
    | .imm w => w.toNat < 8
    | .uni _ => true)
  | .launch _ _ a _ _ => a.toNat % 2 == 0
  | .fork _ _ a b => a.toNat % 2 == 0 && b.toNat % 2 == 0
  | .cancel _ a => a.toNat % 2 == 0
  | .twait _ _ _ => true
  | .alloc _ d size => regAligned 2 d && opdAligned 1 false size && (!(regUni d) || opdUni size)
  | .free _ a => regAligned 2 a
  | .tmark _ _ => true
  | .hvc _ svc => !(hvcNamed svc)
  | .registerQueue _ | .registerCollectiveGroup _ | .addFrames _ | .retireRoot _ | .setHangThreshold _
  | .attestationQuote _ => true
  | .unassignedOpcode w => (w.setWidth 2 == 3#2) || !(opcAssigned (w.extractLsb' 2 7))
  | .yieldUnpark _ _ _ | .queueEntryEnter _ _ _ | .queuePopComplete _ _ _ | .drainComplete _ _
  | .cbarComplete _ _ | .cbarDeadlineExpiry _ _ _ | .queueOverflowStart _ _ | .fifoTileEnter _ | .scaleSlotFill _
  | .collChunkFinal _ _ _ | .collMemberFailure _ _ _ _ | .engineChunkPerformed _ _ | .engineFaultResume _ _
  | .engineCommandComplete _ | .portEntryDeliver _ _ | .mmsCommit _ | .forwardSelectionStage _
  | .backwardGradientStage _ | .hvcReturn _ _ _ _ _ | .launchPacketStart _ _ | .copyPacketStart _ _ | .teamPlace _
  | .teamRetire _ | .gridCompletion _ | .eventRecordWrite _ | .eventRingTimeTrigger _ | .preemptionRequest _
  | .safePointTake _ _ | .forcedSaveTimeout _ _ | .teamResume _ | .coreClockGate _ _ | .corePowerGate _ _
  | .coreWake _ _ | .hangReport _ | .errorLogLostEntries _ | .linkWakeRetry _ | .linkRetrain _ | .dieHeartbeat _
  | .dieLost _ | .dielostTrap _ _ | .remoteAccessTimeout _ | .headroomUpdate _ _ | .thermalThrottle _
  | .thermalTrip _ | .powerOnBoot | .recoveryGo _ _ _ | .semaphoreClaim _ _ | .semaphoreRelease _ _ | .portReset _
  | .partitionCreate _ _ _ | .partitionRemove _ _ _ | .partitionRecreate _ _ _ | .supactResume _ _
  | .supactEndTeam _ _ | .supactDeliver _ _ | .hostAttestationRequest _ _ _ | .hostPortAccess _ _ _
  | .deviceRegisterWrite _ _ _ | .peerRemoteAccess _ _ | .stationRetraining _ _ _ | .sequencerFetchFault _ _ => true

end Sys2Proof.Machine
end

