-- ==== Sys2Proof/WellFormed.lean ====
section
/-! DEFINITION. Well-formed instructions: the terms that obey every encoding rule (02 R35 to R41, R53 step 2) which
does not depend on the team that issues them. The rules stand in Machine/Legal.lean. -/

namespace Sys2Proof

/-- The instruction obeys the rules of its encoding. -/
abbrev Instr.WellFormed (i : Instr) : Prop := Machine.legal i = true

end Sys2Proof
end

