-- ==== Sys2Proof/Decode.lean ====
section
/-! DEFINITION. The decoder and the encoder, from the encoding tables of 02, 04 to 08, 11 and 13 to 17. A word is
split into the fields of 02 Table 2.2; `readFields` finds the form that OPC, FN and LEN name; the term must then be
legal and give back exactly these fields, so every RZ bit (02 R33, R35) is checked by one comparison. -/

set_option linter.unusedVariables false

namespace Sys2Proof

/-- The fields of word 0 (02 Table 2.2), the extension (IMM32 in bits [31:0] of `ext` in the 96-bit form) and the
bits [62:2] of the live-mask word. -/
structure Fields where
  len  : BitVec 2
  opc  : BitVec 7
  sp   : Bool
  pg   : BitVec 3
  pn   : Bool
  ua   : Bool
  ub   : Bool
  dst  : Byte
  sa   : Byte
  sb   : Byte
  sc   : Byte
  fn   : Byte
  md   : Byte
  ext  : DWord
  mask : BitVec 61
  deriving DecidableEq, Repr

/-- Why bytes are no instruction (each is an ILL at issue, 02 R53 step 2). -/
inductive DecodeErr where
  /-- Fewer bytes than the length code asks for. -/
  | truncated
  /-- SP = 1 and the next word is no live-mask word, or its bit 63 is set (R47). -/
  | badLiveMask
  /-- SP = 1 in a matrix stream (R35). -/
  | safePointInStream
  /-- No form of the opcode has this FN, LEN, type, rounding, scope, order or hint code (R41, R49). -/
  | unlistedForm
  /-- A form is named, and a field that it does not use is not zero (R35). -/
  | reservedBit
  /-- A form is named, and a type, pair, class or code rule of its entry is broken (R36 to R41). -/
  | illFormed
  deriving DecidableEq, Repr

namespace Codec

/-- 02 Table 2.5. -/
def tyCode : Ty → BitVec 5
  | .i8 => 0
  | .n8 => 1
  | .i16 => 2
  | .n16 => 3
  | .i32 => 4
  | .n32 => 5
  | .i64 => 6
  | .n64 => 7
  | .b32 => 8
  | .b64 => 9
  | .f32 => 10
  | .bf16 => 11
  | .bf16x2 => 12
  | .e4m3 => 13
  | .e5m2 => 14
  | .q16 => 15
  | .q8 => 16
  | .x128 => 17

/-- 02 Table 2.5; codes 0x12 to 0x1F are reserved. -/
def tyOf (c : BitVec 5) : Option Ty :=
  match c.toNat with
  | 0 => some .i8
  | 1 => some .n8
  | 2 => some .i16
  | 3 => some .n16
  | 4 => some .i32
  | 5 => some .n32
  | 6 => some .i64
  | 7 => some .n64
  | 8 => some .b32
  | 9 => some .b64
  | 10 => some .f32
  | 11 => some .bf16
  | 12 => some .bf16x2
  | 13 => some .e4m3
  | 14 => some .e5m2
  | 15 => some .q16
  | 16 => some .q8
  | 17 => some .x128
  | _ => none
/-- 02 Table 2.6. -/
def rndCode : Rnd → BitVec 2
  | .rne => 0 | .rtz => 1 | .rdn => 2 | .rup => 3
def scopeCode : Scope → BitVec 3
  | .dflt => 0 | .grp => 1 | .team => 2 | .dev => 3 | .pod => 4 | .sys => 5
def orderCode : Order → BitVec 3
  | .ordinary => 0 | .rlx => 1 | .acq => 2 | .rel => 3 | .ar => 4 | .sc => 5
def hintCode : Hint → BitVec 2
  | .normal => 0 | .stream => 1 | .keep => 2
/-- 02 Table 2.6. -/
def rndOf (c : BitVec 2) : Option Rnd :=
  match c.toNat with
  | 0 => some .rne
  | 1 => some .rtz
  | 2 => some .rdn
  | 3 => some .rup
  | _ => none
/-- 02 Table 2.6; 6 and 7 are reserved. -/
def scopeOf (c : BitVec 3) : Option Scope :=
  match c.toNat with
  | 0 => some .dflt
  | 1 => some .grp
  | 2 => some .team
  | 3 => some .dev
  | 4 => some .pod
  | 5 => some .sys
  | _ => none
/-- 02 Table 2.6; 6 and 7 are reserved. -/
def orderOf (c : BitVec 3) : Option Order :=
  match c.toNat with
  | 0 => some .ordinary
  | 1 => some .rlx
  | 2 => some .acq
  | 3 => some .rel
  | 4 => some .ar
  | 5 => some .sc
  | _ => none
/-- 02 Table 2.6; 3 is reserved. -/
def hintOf (c : BitVec 2) : Option Hint :=
  match c.toNat with
  | 0 => some .normal
  | 1 => some .stream
  | 2 => some .keep
  | _ => none
/-- 02 Table 2.11, ICMP. -/
def icondCode : ICond → Byte
  | .eq => 0 | .ne => 1 | .lt => 2 | .le => 3 | .gt => 4 | .ge => 5
/-- 02 Table 2.12, FCMP. -/
def fcondCode : FCond → Byte
  | .eq => 0 | .ne => 1 | .lt => 2 | .le => 3 | .gt => 4 | .ge => 5 | .un => 6 | .ord => 7
/-- 02 Table 2.16, SQIF. -/
def sqCondCode : SqCond → Byte
  | .eq => 0 | .ne => 1 | .lt => 2 | .ge => 3 | .bs => 4 | .bc => 5
/-- 02 Table 2.11, ICMP. -/
def icondOf (c : BitVec 8) : Option ICond :=
  match c.toNat with
  | 0 => some .eq
  | 1 => some .ne
  | 2 => some .lt
  | 3 => some .le
  | 4 => some .gt
  | 5 => some .ge
  | _ => none
/-- 02 Table 2.12, FCMP. -/
def fcondOf (c : BitVec 8) : Option FCond :=
  match c.toNat with
  | 0 => some .eq
  | 1 => some .ne
  | 2 => some .lt
  | 3 => some .le
  | 4 => some .gt
  | 5 => some .ge
  | 6 => some .un
  | 7 => some .ord
  | _ => none
/-- 02 Table 2.16, SQIF. -/
def sqCondOf (c : BitVec 8) : Option SqCond :=
  match c.toNat with
  | 0 => some .eq
  | 1 => some .ne
  | 2 => some .lt
  | 3 => some .ge
  | 4 => some .bs
  | 5 => some .bc
  | _ => none
/-- The type code of ATOM and ATOMS, FN[7:4] (02 Table 2.14); the other types have none. -/
def atomTyCode : Ty → Option (BitVec 4)
  | .i32 => some 0 | .n32 => some 1 | .i64 => some 2 | .n64 => some 3 | .b32 => some 4 | .b64 => some 5
  | .f32 => some 6 | .bf16x2 => some 7 | .x128 => some 8 | _ => none
/-- The type of ATOM and ATOMS, FN[7:4] (02 Table 2.14). -/
def atomTyOf (c : BitVec 4) : Option Ty :=
  match c.toNat with
  | 0 => some .i32
  | 1 => some .n32
  | 2 => some .i64
  | 3 => some .n64
  | 4 => some .b32
  | 5 => some .b64
  | 6 => some .f32
  | 7 => some .bf16x2
  | 8 => some .x128
  | _ => none

/-! The operands as the fields name them. -/

/-- A vector or uniform register, by its flag (02 R33, R38). -/
def regOf (uni : Bool) (n : Byte) : Reg := if uni then .s (n.setWidth 6) else .v n
/-- The number a field holds for a register. -/
def regNum : Reg → Byte
  | .v n => n
  | .s n => n.setWidth 8
/-- IMM32. -/
def imm32 (f : Fields) : Word := f.ext.setWidth 32
/-- Operand a. -/
def opA (f : Fields) : Reg := regOf f.ua f.sa
/-- SB as a register. -/
def regB (f : Fields) : Reg := regOf f.ub f.sb
/-- Operand b: SB, IMM32 or EXT64 (02 R37). -/
def opB (f : Fields) : Opd :=
  if f.len == 0 then .reg (regB f) else if f.len == 1 then .imm (imm32 f) else .wide f.ext
/-- The destination is uniform (02 R36). -/
def uniAB (f : Fields) : Bool := f.ua && (f.len != 0 || f.ub)
/-- DST of a two-operand form. -/
def dAB (f : Fields) : Reg := regOf (uniAB f) f.dst
/-- SC of a two-operand form. -/
def cAB (f : Fields) : Reg := regOf (uniAB f) f.sc
/-- DST of a unary form. -/
def dA (f : Fields) : Reg := regOf f.ua f.dst
/-- A predicate field. -/
def pr (b : Byte) : BitVec 3 := b.setWidth 3
/-- A uniform register field. -/
def un (b : Byte) : BitVec 6 := b.setWidth 6
/-- A token or queue field. -/
def kn (b : Byte) : BitVec 4 := b.setWidth 4
/-- A slot field. -/
def tn (b : Byte) : BitVec 5 := b.setWidth 5
/-- The guard and the live mask. -/
def hdr (f : Fields) : Hdr := ⟨f.pg, f.pn, if f.sp then some f.mask else none⟩
/-- MD's fields (02 Table 2.4). -/
def mdTy (f : Fields) : Option Ty := tyOf (f.md.setWidth 5)
def mdSat (f : Fields) : Bool := f.md.getLsbD 7
def mdRnd (f : Fields) : Option Rnd := rndOf (f.md.extractLsb' 5 2)
def mdOrd (f : Fields) : Option Order := orderOf (f.md.setWidth 3)
def mdScope (f : Fields) : Option Scope := scopeOf (f.md.extractLsb' 3 3)
def mdHint (f : Fields) : Option Hint := hintOf (f.md.extractLsb' 6 2)
/-- The memory operand (02 Table 2.7). -/
def addr (f : Fields) : Addr :=
  ⟨opA f, if f.len == 0 then .plain else if f.len == 1 then .disp (imm32 f)
    else .full (f.ext.setWidth 32) (if f.ext.getLsbD 34 then some (regB f, f.ext.extractLsb' 32 2) else none)⟩
/-- The data register of a memory access (08 R201). -/
def dataOf (f : Fields) (n : Byte) : Reg := regOf (Machine.addrUni (addr f)) n
/-- IMM32, or the uniform register in SA. -/
def immA (f : Fields) : ImmU := if f.len == 0 then .uni (un f.sa) else .imm (imm32 f)
/-- A displacement in the 96-bit form. -/
def dispOf (f : Fields) : Option Word := if f.len == 0 then none else some (imm32 f)
/-- The EXT64 of an engine command (13 Table 13.3). -/
def engOf (x : DWord) : EngExt :=
  ⟨x.setWidth 8, x.getLsbD 8, x.getLsbD 9, x.extractLsb' 10 5, x.getLsbD 15, x.extractLsb' 16 16, x.extractLsb' 32 16,
   x.extractLsb' 48 16⟩
def engBits (e : EngExt) : DWord :=
  e.e1 ++ e.e0 ++ e.tag ++ BitVec.ofBool e.xpose ++ e.aux ++ BitVec.ofBool e.port ++ BitVec.ofBool e.baren ++ e.bar
/-- The EXT64 of MMS (14 Table 14.6). -/
def mmsOf (x : DWord) : MmsExt :=
  ⟨x.setWidth 12, x.extractLsb' 12 12, x.extractLsb' 24 5, x.getLsbD 29, x.getLsbD 30⟩
def mmsBits (e : MmsExt) : BitVec 31 := BitVec.ofBool e.keepb ++ BitVec.ofBool e.keepa ++ e.kb ++ e.bsc ++ e.asc
/-- The EXT64 of VPROJ and VOUT (15 Table 15.7). -/
def vprojOf (x : DWord) : VprojExt := ⟨mmsOf x, x.extractLsb' 32 14, x.extractLsb' 48 16⟩
def vprojBits (e : VprojExt) : DWord := e.spoff ++ 0#2 ++ e.pblk ++ 0#1 ++ mmsBits e.m
def voutOf (x : DWord) : VoutExt := ⟨x.setWidth 7, x.extractLsb' 8 8, x.extractLsb' 16 32⟩
def voutBits (e : VoutExt) : DWord := 0#16 ++ e.ridx ++ e.cnt ++ 0#1 ++ e.row0

/-! Building the fields of a term. -/

/-- Word 0 with nothing but the opcode. -/
def op (opc : BitVec 7) : Fields := ⟨0, opc, false, 0, false, false, false, 0, 0, 0, 0, 0, 0, 0, 0⟩
/-- The guard and the safe point. -/
def withHdr (h : Hdr) (f : Fields) : Fields :=
  { f with pg := h.pg, pn := h.pn, sp := h.live.isSome, mask := h.live.getD 0 }
def opH (opc : BitVec 7) (h : Hdr) : Fields := withHdr h (op opc)
def wFn (n : Byte) (f : Fields) : Fields := { f with fn := n }
def wMd (n : Byte) (f : Fields) : Fields := { f with md := n }
def wDst (n : Byte) (f : Fields) : Fields := { f with dst := n }
def wSa (n : Byte) (f : Fields) : Fields := { f with sa := n }
def wSb (n : Byte) (f : Fields) : Fields := { f with sb := n }
def wSc (n : Byte) (f : Fields) : Fields := { f with sc := n }
def wA (r : Reg) (f : Fields) : Fields := { f with sa := regNum r, ua := Machine.regUni r }
def wRegB (r : Reg) (f : Fields) : Fields := { f with sb := regNum r, ub := Machine.regUni r }
def wUa (b : Bool) (f : Fields) : Fields := { f with ua := b }
def wImm (w : Word) (f : Fields) : Fields := { f with len := 1, ext := w.setWidth 64 }
def wExt (x : DWord) (f : Fields) : Fields := { f with len := 2, ext := x }
def wB (b : Opd) (f : Fields) : Fields :=
  match b with
  | .reg r => wRegB r f
  | .imm w => wImm w f
  | .wide x => wExt x f
def wImmA (v : ImmU) (f : Fields) : Fields :=
  match v with
  | .imm w => wImm w f
  | .uni n => wUa true (wSa (n.setWidth 8) f)
def wDisp (d : Option Word) (f : Fields) : Fields :=
  match d with
  | some w => wImm w f
  | none => f
/-- An address (02 R43). A 128-bit form without an index has EXT64[63:32] zero, the scale bits [33:32] too, of which R43 says
nothing when EXT64[34] = 0: another value there is ILL (DESIGN CHOICE, log 101). -/
def wAddr (a : Addr) (f : Fields) : Fields :=
  let f := wA a.base f
  match a.form with
  | .plain => f
  | .disp d => wImm d f
  | .full d none => wExt (d.setWidth 64) f
  | .full d (some (r, s)) => wRegB r (wExt (0#29 ++ 1#1 ++ s ++ d) f)
def mTy (t : Ty) : Byte := (tyCode t).setWidth 8
def mInt (t : Ty) (sat : Bool) : Byte := BitVec.ofBool sat ++ 0#2 ++ tyCode t
def mFlt (t : Ty) (r : Rnd) (ftz : Bool) : Byte := BitVec.ofBool ftz ++ rndCode r ++ tyCode t
def mMem (o : Order) (s : Scope) (h : Hint) : Byte := hintCode h ++ scopeCode s ++ orderCode o
def mScope (s : Scope) : Byte := 0#2 ++ scopeCode s ++ 0#3
def z3 (x : BitVec 3) : Byte := x.setWidth 8
def z4 (x : BitVec 4) : Byte := x.setWidth 8
def z5 (x : BitVec 5) : Byte := x.setWidth 8
def z6 (x : BitVec 6) : Byte := x.setWidth 8
/-- FN of LDS and STS, and SC (02 R44, Table 2.14). -/
def winFn (t : Ty) (w : Window) : Byte :=
  match w with
  | .scratch => 0#3 ++ tyCode t
  | .acc _ => 1#3 ++ tyCode t
  | .sel => 2#3 ++ tyCode t
def winSc : Window → Byte
  | .acc n => n.setWidth 8
  | _ => 0
def winOf (f : Fields) : Option Window :=
  match (f.fn.extractLsb' 5 2).toNat with
  | 0 => some .scratch
  | 1 => some (.acc (pr f.sc))
  | 2 => some .sel
  | _ => none

/-- HVC's forms: the monitor services of 17 Table 17.10 have constructors of their own. -/
def hvcRead (h : Hdr) (svc : BitVec 16) : Instr :=
  match svc.toNat with
  | 1 => .registerQueue h
  | 2 => .registerCollectiveGroup h
  | 3 => .addFrames h
  | 4 => .retireRoot h
  | 5 => .setHangThreshold h
  | 16 => .attestationQuote h
  | _ => .hvc h svc

/-- ATOM: FN[3:0] names the operation (02 Table 2.14). -/
def atomRead (f : Fields) (o : Order) (s : Scope) (t : Ty) : Option Instr :=
  match (f.fn.setWidth 4 : BitVec 4).toNat with
  | 0 => some (.atomAdd (hdr f) t o s (dataOf f f.dst) (addr f) (dataOf f f.sc))
  | 1 => some (.atomMin (hdr f) t o s (dataOf f f.dst) (addr f) (dataOf f f.sc))
  | 2 => some (.atomMax (hdr f) t o s (dataOf f f.dst) (addr f) (dataOf f f.sc))
  | 3 => some (.atomAnd (hdr f) t o s (dataOf f f.dst) (addr f) (dataOf f f.sc))
  | 4 => some (.atomOr (hdr f) t o s (dataOf f f.dst) (addr f) (dataOf f f.sc))
  | 5 => some (.atomXor (hdr f) t o s (dataOf f f.dst) (addr f) (dataOf f f.sc))
  | 6 => some (.atomExch (hdr f) t o s (dataOf f f.dst) (addr f) (dataOf f f.sc))
  | 7 => some (.atomCas (hdr f) t o s (dataOf f f.dst) (addr f) (dataOf f f.sc))
  | _ => none

/-- ATOMS: FN[3:0] names the operation (02 Table 2.14). -/
def atomsRead (f : Fields) (t : Ty) : Option Instr :=
  match (f.fn.setWidth 4 : BitVec 4).toNat with
  | 0 => some (.atomsAdd (hdr f) t (dataOf f f.dst) (addr f) (dataOf f f.sc))
  | 1 => some (.atomsMin (hdr f) t (dataOf f f.dst) (addr f) (dataOf f f.sc))
  | 2 => some (.atomsMax (hdr f) t (dataOf f f.dst) (addr f) (dataOf f f.sc))
  | 3 => some (.atomsAnd (hdr f) t (dataOf f f.dst) (addr f) (dataOf f f.sc))
  | 4 => some (.atomsOr (hdr f) t (dataOf f f.dst) (addr f) (dataOf f f.sc))
  | 5 => some (.atomsXor (hdr f) t (dataOf f f.dst) (addr f) (dataOf f f.sc))
  | 6 => some (.atomsExch (hdr f) t (dataOf f f.dst) (addr f) (dataOf f f.sc))
  | 7 => some (.atomsCas (hdr f) t (dataOf f f.dst) (addr f) (dataOf f f.sc))
  | _ => none

/-- The forms of opcodes 0x00 to 0x0C. -/
def readControl (f : Fields) : Option Instr :=
  match f.opc.toNat with
  | 0x00 => match f.fn.toNat with
    | 0 => some (.nop (hdr f) (if f.len == 0 then .none else if f.len == 1 then .imm (imm32 f) else .ext f.ext))
    | _ => none
  | 0x01 => match f.fn.toNat with
    | 0 => if f.len == 1 then some (.bra (hdr f) (imm32 f))
      else none
    | _ => none
  | 0x02 => match f.fn.toNat with
    | 0 => if f.len == 1 then some (.bru (hdr f) (imm32 f))
      else none
    | _ => none
  | 0x03 => match f.fn.toNat with
    | 0 => if f.len == 0 then some (.jmpi (hdr f) (opA f))
      else none
    | _ => none
  | 0x04 => match f.fn.toNat with
    | 0 => if f.len == 1 then some (.call (hdr f) f.dst (imm32 f))
      else none
    | 1 => if f.len == 0 then some (.callI (hdr f) f.dst (opA f))
      else none
    | _ => none
  | 0x05 => match f.fn.toNat with
    | 0 => if f.len == 0 then some (.ret (hdr f) (opA f))
      else none
    | _ => none
  | 0x06 => match f.fn.toNat with
    | 0 => if f.len == 0 then some (.exit (hdr f))
      else none
    | _ => none
  | 0x07 => match f.fn.toNat with
    | 0 => if f.len == 0 then some (.yield (hdr f))
      else none
    | _ => none
  | 0x08 => match f.fn.toNat with
    | 0 => if f.len == 0 || f.len == 1 then some (.trap (hdr f) (dispOf f))
      else none
    | _ => none
  | 0x09 => match f.fn.toNat with
    | 0 => if f.len == 0 then some (.rft (hdr f))
      else none
    | _ => none
  | 0x0A => match f.fn.toNat with
    | 0 => if f.len == 1 then some (.sysrd (hdr f) (regOf (f.ext.getLsbD 12) f.dst) (f.ext.setWidth 12))
      else none
    | _ => none
  | 0x0B => match f.fn.toNat with
    | 0 => if f.len == 1 then some (if f.ext.setWidth 12 == (0x060#12) then .seqCtlResume (hdr f) (opA f) else .syswr (hdr f) (f.ext.setWidth 12) (opA f))
      else none
    | _ => none
  | 0x0C => if f.len == 0 then some (.plop (hdr f) f.fn (pr f.dst) (pr f.sa) (pr f.sb) (pr f.sc))
    else none
  | _ => none

/-- The forms of opcodes 0x10 to 0x1F. -/
def readInteger (f : Fields) : Option Instr :=
  match f.opc.toNat with
  | 0x10 => match f.fn.toNat with
    | 0 => do
        let t ← mdTy f
        pure (.iadd (hdr f) t (mdSat f) (dAB f) (opA f) (opB f))
    | 1 => do
        let t ← mdTy f
        pure (.iaddCc (hdr f) t (dAB f) (opA f) (opB f) (pr f.sc))
    | _ => none
  | 0x11 => match f.fn.toNat with
    | 0 => do
        let t ← mdTy f
        pure (.isub (hdr f) t (mdSat f) (dAB f) (opA f) (opB f))
    | 1 => do
        let t ← mdTy f
        pure (.isubCc (hdr f) t (dAB f) (opA f) (opB f) (pr f.sc))
    | _ => none
  | 0x12 => match f.fn.toNat with
    | 0 => do
        let t ← mdTy f
        pure (.imulLo (hdr f) t (mdSat f) (dAB f) (opA f) (opB f))
    | 1 => do
        let t ← mdTy f
        pure (.imulHi (hdr f) t (dAB f) (opA f) (opB f))
    | 2 => do
        let t ← mdTy f
        pure (.imulWide (hdr f) t (dAB f) (opA f) (opB f))
    | _ => none
  | 0x13 => match f.fn.toNat with
    | 0 => do
        let t ← mdTy f
        pure (.imadLo (hdr f) t (mdSat f) (dAB f) (opA f) (opB f) (cAB f))
    | 1 => do
        let t ← mdTy f
        pure (.imadHi (hdr f) t (dAB f) (opA f) (opB f) (cAB f))
    | 2 => do
        let t ← mdTy f
        pure (.imadWide (hdr f) t (dAB f) (opA f) (opB f) (cAB f))
    | _ => none
  | 0x14 => match f.fn.toNat with
    | 0 => do
        let t ← mdTy f
        pure (.shfL (hdr f) t (dAB f) (opA f) (opB f))
    | 1 => do
        let t ← mdTy f
        pure (.shfR (hdr f) t (dAB f) (opA f) (opB f))
    | 2 => do
        let t ← mdTy f
        pure (.shfRa (hdr f) t (dAB f) (opA f) (opB f))
    | 3 => do
        let t ← mdTy f
        pure (.shfRol (hdr f) t (dAB f) (opA f) (opB f))
    | 4 => if f.len == 0 || f.len == 1 then some (.shfLf (hdr f) (dAB f) (opA f) (opB f) (cAB f))
      else none
    | 5 => if f.len == 0 || f.len == 1 then some (.shfRf (hdr f) (dAB f) (opA f) (opB f) (cAB f))
      else none
    | _ => none
  | 0x15 => do
      let t ← mdTy f
      pure (.ltab (hdr f) t f.fn (dAB f) (opA f) (opB f) (cAB f))
  | 0x16 => do
      let t ← mdTy f
      let cond ← icondOf f.fn
      pure (.icmp (hdr f) t cond (pr f.dst) (opA f) (opB f))
  | 0x17 => match f.fn.toNat with
    | 0 => do
        let t ← mdTy f
        pure (.imnmxMin (hdr f) t (dAB f) (opA f) (opB f))
    | 1 => do
        let t ← mdTy f
        pure (.imnmxMax (hdr f) t (dAB f) (opA f) (opB f))
    | _ => none
  | 0x18 => match f.fn.toNat with
    | 0 => do
        let t ← mdTy f
        pure (.bfe (hdr f) t (dAB f) (opA f) (opB f))
    | _ => none
  | 0x19 => match f.fn.toNat with
    | 0 => do
        let t ← mdTy f
        pure (.bfi (hdr f) t (dAB f) (opA f) (opB f) (cAB f))
    | _ => none
  | 0x1A => match f.fn.toNat with
    | 0 => if f.len == 0 then do
        let t ← mdTy f
        pure (.bitsPopc (hdr f) t (dA f) (opA f))
      else none
    | 1 => if f.len == 0 then do
        let t ← mdTy f
        pure (.bitsClz (hdr f) t (dA f) (opA f))
      else none
    | 2 => if f.len == 0 then do
        let t ← mdTy f
        pure (.bitsCtz (hdr f) t (dA f) (opA f))
      else none
    | 3 => if f.len == 0 then do
        let t ← mdTy f
        pure (.bitsBrev (hdr f) t (dA f) (opA f))
      else none
    | _ => none
  | 0x1B => match f.fn.toNat with
    | 0 => do
        let t ← mdTy f
        pure (.sel (hdr f) t (dAB f) (opA f) (opB f) (pr f.sc))
    | _ => none
  | 0x1C => match f.fn.toNat with
    | 0 => if f.len == 0 then do
        let t ← mdTy f
        pure (.mov (hdr f) t (dA f) (regB f))
      else none
    | 1 => if f.len == 0 then do
        let t ← mdTy f
        pure (.movPush (hdr f) t (kn f.dst) (regB f))
      else none
    | 2 => if f.len == 0 then do
        let t ← mdTy f
        pure (.movPop (hdr f) t (dA f) (kn f.sa))
      else none
    | 3 => if f.len == 0 then some (.movP2v (hdr f) f.dst)
      else none
    | 4 => if f.len == 0 then some (.movV2p (hdr f) (regB f))
      else none
    | _ => none
  | 0x1D => match f.fn.toNat with
    | 0 => if f.len == 1 then some (.moviVector (hdr f) f.dst (imm32 f))
      else none
    | 1 => if f.len == 2 then some (.moviVectorPair (hdr f) f.dst f.ext)
      else none
    | 2 => if f.len == 1 then some (.moviUniform (hdr f) (un f.dst) (imm32 f))
      else none
    | 3 => if f.len == 2 then some (.moviUniformPair (hdr f) (un f.dst) f.ext)
      else none
    | _ => none
  | 0x1E => if f.len == 0 || f.len == 1 then do
      let t ← mdTy f
      pure (.lea (hdr f) t (pr f.fn) (dAB f) (opA f) (opB f))
    else none
  | 0x1F => if f.len == 0 || f.len == 1 then some (.dp4 (hdr f) (!(f.fn.getLsbD 1)) (!(f.fn.getLsbD 0)) (mdSat f) (dAB f) (opA f) (opB f) (cAB f))
    else none
  | _ => none

/-- The forms of opcodes 0x20 to 0x2A. -/
def readFloat (f : Fields) : Option Instr :=
  match f.opc.toNat with
  | 0x20 => match f.fn.toNat with
    | 0 => if f.len == 0 || f.len == 1 then do
        let rn ← mdRnd f
        pure (.fadd (hdr f) rn (mdSat f) (dAB f) (opA f) (opB f))
      else none
    | _ => none
  | 0x21 => match f.fn.toNat with
    | 0 => if f.len == 0 || f.len == 1 then do
        let rn ← mdRnd f
        pure (.fmul (hdr f) rn (mdSat f) (dAB f) (opA f) (opB f))
      else none
    | _ => none
  | 0x22 => match f.fn.toNat with
    | 0 => if f.len == 0 || f.len == 1 then do
        let rn ← mdRnd f
        pure (.ffma (hdr f) rn (mdSat f) (dAB f) (opA f) (opB f) (cAB f))
      else none
    | _ => none
  | 0x23 => match f.fn.toNat with
    | 0 => if f.len == 0 || f.len == 1 then some (.fmnmxMin (hdr f) (mdSat f) (dAB f) (opA f) (opB f))
      else none
    | 1 => if f.len == 0 || f.len == 1 then some (.fmnmxMax (hdr f) (mdSat f) (dAB f) (opA f) (opB f))
      else none
    | _ => none
  | 0x24 => if f.len == 0 || f.len == 1 then do
      let cond ← fcondOf f.fn
      pure (.fcmp (hdr f) cond (mdSat f) (pr f.dst) (opA f) (opB f))
    else none
  | 0x25 => match f.fn.toNat with
    | 0 => if f.len == 0 then do
        let rn ← mdRnd f
        pure (.ffnRcp (hdr f) rn (mdSat f) (dA f) (opA f))
      else none
    | 1 => if f.len == 0 then do
        let rn ← mdRnd f
        pure (.ffnSqrt (hdr f) rn (mdSat f) (dA f) (opA f))
      else none
    | 2 => if f.len == 0 then do
        let rn ← mdRnd f
        pure (.ffnRsqrt (hdr f) rn (mdSat f) (dA f) (opA f))
      else none
    | 3 => if f.len == 0 then do
        let rn ← mdRnd f
        pure (.ffnExp2 (hdr f) rn (mdSat f) (dA f) (opA f))
      else none
    | 4 => if f.len == 0 then do
        let rn ← mdRnd f
        pure (.ffnLog2 (hdr f) rn (mdSat f) (dA f) (opA f))
      else none
    | 5 => if f.len == 0 then do
        let rn ← mdRnd f
        pure (.ffnSinpi (hdr f) rn (mdSat f) (dA f) (opA f))
      else none
    | 6 => if f.len == 0 then do
        let rn ← mdRnd f
        pure (.ffnCospi (hdr f) rn (mdSat f) (dA f) (opA f))
      else none
    | _ => none
  | 0x26 => if f.len == 0 then do
      let dt ← mdTy f
      let stt ← tyOf (f.fn.setWidth 5)
      let rn ← mdRnd f
      pure (.cvt (hdr f) dt stt (f.fn.getLsbD 5) rn (mdSat f) (dA f) (opA f))
    else none
  | 0x27 => match f.fn.toNat with
    | 0 => if f.len == 0 || f.len == 1 then do
        let rn ← mdRnd f
        pure (.fma2 (hdr f) rn (mdSat f) (dAB f) (opA f) (opB f) (cAB f))
      else none
    | _ => none
  | 0x28 => match f.fn.toNat with
    | 0 => if f.len == 0 then do
        let rn ← mdRnd f
        pure (.frnd (hdr f) rn (mdSat f) (dA f) (opA f))
      else none
    | _ => none
  | 0x29 => match f.fn.toNat with
    | 0 => if f.len == 0 || f.len == 1 then some (.xaccF32 (hdr f) (dAB f) (opA f) (opB f))
      else none
    | 1 => if f.len == 0 then some (.xaccX128 (hdr f) (dAB f) (opA f) (regB f))
      else none
    | _ => none
  | 0x2A => match f.fn.toNat with
    | 0 => if f.len == 0 then do
        let rn ← mdRnd f
        pure (.xrnd (hdr f) rn (dA f) (opA f))
      else none
    | _ => none
  | _ => none

/-- The forms of opcodes 0x30 to 0x35. -/
def readLane (f : Fields) : Option Instr :=
  match f.opc.toNat with
  | 0x30 => match f.fn.toNat with
    | 0 => if f.len == 0 || f.len == 1 then do
        let t ← mdTy f
        pure (.shflIdx (hdr f) t f.dst f.sa (opB f) (pr f.sc))
      else none
    | 1 => if f.len == 0 || f.len == 1 then do
        let t ← mdTy f
        pure (.shflUp (hdr f) t f.dst f.sa (opB f) (pr f.sc))
      else none
    | 2 => if f.len == 0 || f.len == 1 then do
        let t ← mdTy f
        pure (.shflDown (hdr f) t f.dst f.sa (opB f) (pr f.sc))
      else none
    | 3 => if f.len == 0 || f.len == 1 then do
        let t ← mdTy f
        pure (.shflXor (hdr f) t f.dst f.sa (opB f) (pr f.sc))
      else none
    | _ => none
  | 0x31 => match f.fn.toNat with
    | 0 => if f.len == 0 || f.len == 1 then some (.ballot (hdr f) (dAB f) (opA f) (opB f))
      else none
    | _ => none
  | 0x32 => match f.fn.toNat with
    | 0 => if f.len == 0 then some (.voteAll (hdr f) (pr f.dst) (pr f.sa))
      else none
    | 1 => if f.len == 0 then some (.voteAny (hdr f) (pr f.dst) (pr f.sa))
      else none
    | 2 => if f.len == 0 then some (.voteUni (hdr f) (pr f.dst) (pr f.sa))
      else none
    | _ => none
  | 0x33 => match f.fn.toNat with
    | 0 => if f.len == 0 then do
        let t ← mdTy f
        pure (.lredAdd (hdr f) t (dA f) (opA f))
      else none
    | 1 => if f.len == 0 then do
        let t ← mdTy f
        pure (.lredMin (hdr f) t (dA f) (opA f))
      else none
    | 2 => if f.len == 0 then do
        let t ← mdTy f
        pure (.lredMax (hdr f) t (dA f) (opA f))
      else none
    | 3 => if f.len == 0 then do
        let t ← mdTy f
        pure (.lredAnd (hdr f) t (dA f) (opA f))
      else none
    | 4 => if f.len == 0 then do
        let t ← mdTy f
        pure (.lredOr (hdr f) t (dA f) (opA f))
      else none
    | 5 => if f.len == 0 then do
        let t ← mdTy f
        pure (.lredXor (hdr f) t (dA f) (opA f))
      else none
    | _ => none
  | 0x34 => match f.fn.toNat with
    | 0 => if f.len == 0 then some (.rngC (hdr f) f.dst)
      else none
    | 1 => if f.len == 0 then some (.rngCx (hdr f) f.dst f.sa)
      else none
    | 2 => if f.len == 0 || f.len == 1 then some (if f.len == 0 then .rngSStep (hdr f) f.dst else .rngSReseed (hdr f) f.dst (imm32 f))
      else none
    | _ => none
  | 0x35 => match f.fn.toNat with
    | 0 => if f.len == 0 || f.len == 1 then some (.bsel (hdr f) (dAB f) (opA f) (opB f) (cAB f))
      else none
    | _ => none
  | _ => none

/-- The forms of opcodes 0x40 to 0x4B. -/
def readMemory (f : Fields) : Option Instr :=
  match f.opc.toNat with
  | 0x40 => do
      let o ← mdOrd f
      let s ← mdScope f
      let hi ← mdHint f
      let t ← tyOf (f.fn.setWidth 5)
      pure (.ld (hdr f) t o s hi (dataOf f f.dst) (addr f))
  | 0x41 => do
      let o ← mdOrd f
      let s ← mdScope f
      let hi ← mdHint f
      let t ← tyOf (f.fn.setWidth 5)
      pure (.st (hdr f) t o s hi (addr f) (dataOf f f.sc))
  | 0x42 => do
      let t ← tyOf (f.fn.setWidth 5)
      let w ← winOf f
      pure (.lds (hdr f) t w (dataOf f f.dst) (addr f))
  | 0x43 => do
      let t ← tyOf (f.fn.setWidth 5)
      let w ← winOf f
      pure (.sts (hdr f) t w (addr f) (dataOf f f.dst))
  | 0x44 => do
    let o ← mdOrd f
    let s ← mdScope f
    let t ← atomTyOf (f.fn.extractLsb' 4 4)
    atomRead f o s t
  | 0x45 => do
    let t ← atomTyOf (f.fn.extractLsb' 4 4)
    atomsRead f t
  | 0x46 => match f.fn.toNat with
    | 0 => if f.len == 0 then do
        let o ← mdOrd f
        let s ← mdScope f
        pure (.fence (hdr f) o s)
      else none
    | _ => none
  | 0x47 => match f.fn.toNat with
    | 0 => if f.len == 0 || f.len == 1 then do
        let s ← mdScope f
        pure (.publish (hdr f) s (un f.dst) (un f.sa) (dispOf f))
      else none
    | _ => none
  | 0x48 => match f.fn.toNat with
    | 0 => if f.len == 0 then some (.drainSp (hdr f))
      else none
    | 1 => if f.len == 0 then some (.drainFifo (hdr f))
      else none
    | 2 => if f.len == 0 then some (.drainGlb (hdr f))
      else none
    | _ => none
  | 0x49 => match f.fn.toNat with
    | 0 => some (.cctlInv (hdr f) (addr f))
    | 1 => some (.cctlPfl1 (hdr f) (addr f))
    | 2 => some (.cctlPfl2 (hdr f) (addr f))
    | _ => none
  | 0x4A => match f.fn.toNat with
    | 0 => if f.len == 0 then do
        let s ← mdScope f
        pure (.nmcGather (hdr f) s (kn f.dst) (un f.sa))
      else none
    | 1 => if f.len == 0 then do
        let s ← mdScope f
        pure (.nmcCopy (hdr f) s (kn f.dst) (un f.sa))
      else none
    | 2 => if f.len == 0 then do
        let s ← mdScope f
        pure (.nmcCvt (hdr f) s (kn f.dst) (un f.sa))
      else none
    | 3 => if f.len == 0 then do
        let s ← mdScope f
        pure (.nmcRed (hdr f) s (kn f.dst) (un f.sa))
      else none
    | _ => none
  | 0x4B => match f.fn.toNat with
    | 0 => if f.len == 0 || f.len == 1 then some (.ldcB32 (hdr f) (dA f) (opB f))
      else none
    | 1 => if f.len == 0 || f.len == 1 then some (.ldcB64 (hdr f) (dA f) (opB f))
      else none
    | _ => none
  | _ => none

/-- The forms of opcodes 0x50 to 0x5A. -/
def readSync (f : Fields) : Option Instr :=
  match f.opc.toNat with
  | 0x50 => match f.fn.toNat with
    | 0 => if f.len == 0 || f.len == 1 then some (.barSync (hdr f) (immA f))
      else none
    | 1 => if f.len == 0 || f.len == 1 then some (.barArrive (hdr f) (immA f))
      else none
    | 2 => if f.len == 0 || f.len == 1 then some (.barWait (hdr f) (immA f))
      else none
    | _ => none
  | 0x51 => match f.fn.toNat with
    | 0 => some (.bexp (hdr f) (if f.len == 0 then .regs (un f.sa) (un f.sb) else if f.len == 1 then .immReg (f.ext.setWidth 8) (un f.sb) else .imms (f.ext.setWidth 8) (f.ext.extractLsb' 32 32)))
    | _ => none
  | 0x52 => match f.fn.toNat with
    | 0 => if f.len == 0 || f.len == 1 then do
        let s ← mdScope f
        pure (.cbar (hdr f) s (immA f))
      else none
    | _ => none
  | 0x53 => match f.fn.toNat with
    | 0 => if f.len == 0 || f.len == 1 then some (.qbindSq (hdr f) (kn f.dst) (immA f))
      else none
    | 1 => if f.len == 1 then some (.qbindPort (hdr f) (kn f.dst) (f.ext.setWidth 8))
      else none
    | _ => none
  | 0x54 => match f.fn.toNat with
    | 0 => if f.len == 0 then some (.qtryPush (hdr f) (pr f.dst) (kn f.sa) (regB f))
      else none
    | 1 => if f.len == 0 then some (.qtryPop (hdr f) (dA f) (kn f.sa) (pr f.sc))
      else none
    | _ => none
  | 0x55 => match f.fn.toNat with
    | 0 => if f.len == 0 then some (.waitk (hdr f) (kn f.sa))
      else none
    | 1 => if f.len == 1 then some (.waitkMask (hdr f) (f.ext.setWidth 16))
      else none
    | _ => none
  | 0x56 => match f.fn.toNat with
    | 0 => if f.len == 0 then some (.acq (hdr f) (pr f.dst))
      else none
    | _ => none
  | 0x57 => match f.fn.toNat with
    | 0 => if f.len == 0 then some (.rel (hdr f) (pr f.dst))
      else none
    | _ => none
  | 0x58 => match f.fn.toNat with
    | 0 => if f.len == 0 || f.len == 1 then some (.tsld (hdr f) (tn f.dst) (un f.sa) (dispOf f))
      else none
    | _ => none
  | 0x59 => match f.fn.toNat with
    | 0 => if f.len == 0 || f.len == 1 then some (.tsev (hdr f) (tn f.dst) (if f.ua then some (un f.sa, dispOf f) else none))
      else none
    | _ => none
  | 0x5A => match f.fn.toNat with
    | 0 => if f.len == 0 || f.len == 1 then some (.qalwAdd (hdr f) (kn f.dst) (immA f))
      else none
    | 1 => if f.len == 0 || f.len == 1 then some (.qalwSet (hdr f) (kn f.dst) (immA f))
      else none
    | _ => none
  | _ => none

/-- The forms of opcodes 0x60 to 0x65. -/
def readEngine (f : Fields) : Option Instr :=
  match f.opc.toNat with
  | 0x60 => match f.fn.toNat with
    | 0 => if f.len == 2 then do
        let s ← mdScope f
        pure (.cpy (hdr f) s (kn f.dst) (tn f.sa) (tn f.sb) (un f.sc) (engOf f.ext))
      else none
    | 1 => if f.len == 2 then do
        let s ← mdScope f
        pure (.cpyAdd (hdr f) s (kn f.dst) (tn f.sa) (tn f.sb) (un f.sc) (engOf f.ext))
      else none
    | 2 => if f.len == 2 then do
        let s ← mdScope f
        pure (.cpyMin (hdr f) s (kn f.dst) (tn f.sa) (tn f.sb) (un f.sc) (engOf f.ext))
      else none
    | 3 => if f.len == 2 then do
        let s ← mdScope f
        pure (.cpyMax (hdr f) s (kn f.dst) (tn f.sa) (tn f.sb) (un f.sc) (engOf f.ext))
      else none
    | 4 => if f.len == 2 then do
        let s ← mdScope f
        pure (.cpyAnd (hdr f) s (kn f.dst) (tn f.sa) (tn f.sb) (un f.sc) (engOf f.ext))
      else none
    | 5 => if f.len == 2 then do
        let s ← mdScope f
        pure (.cpyOr (hdr f) s (kn f.dst) (tn f.sa) (tn f.sb) (un f.sc) (engOf f.ext))
      else none
    | _ => none
  | 0x61 => match f.fn.toNat with
    | 0 => if f.len == 2 then do
        let s ← mdScope f
        pure (.gscG (hdr f) s (kn f.dst) (tn f.sa) (tn f.sb) (engOf f.ext))
      else none
    | 1 => if f.len == 2 then do
        let s ← mdScope f
        pure (.gscS (hdr f) s (kn f.dst) (tn f.sa) (tn f.sb) (engOf f.ext))
      else none
    | 2 => if f.len == 2 then do
        let s ← mdScope f
        pure (.gscSadd (hdr f) s (kn f.dst) (tn f.sa) (tn f.sb) (engOf f.ext))
      else none
    | _ => none
  | 0x62 => match f.fn.toNat with
    | 0 => if f.len == 2 then some (.feedFa (hdr f) (kn f.dst) (tn f.sa) (un f.sc) (engOf f.ext))
      else none
    | 1 => if f.len == 2 then some (.feedFb (hdr f) (kn f.dst) (tn f.sa) (un f.sc) (engOf f.ext))
      else none
    | 2 => if f.len == 2 then some (.feedSc (hdr f) (kn f.dst) (tn f.sa) (un f.sc) (engOf f.ext))
      else none
    | _ => none
  | 0x63 => match f.fn.toNat with
    | 0 => if f.len == 0 then some (.collStart (hdr f) (kn f.dst) (un f.sa))
      else none
    | 1 => if f.len == 0 then some (.collResume (hdr f) (kn f.dst) (un f.sa))
      else none
    | _ => none
  | 0x64 => match f.fn.toNat with
    | 0 => if f.len == 2 then do
        let s ← mdScope f
        pure (.enc (hdr f) s (kn f.dst) (tn f.sa) (tn f.sb) (un f.sc) (engOf f.ext))
      else none
    | _ => none
  | 0x65 => match f.fn.toNat with
    | 0 => if f.len == 2 then do
        let s ← mdScope f
        pure (.decF32 (hdr f) s (kn f.dst) (tn f.sa) (tn f.sb) (un f.sc) (engOf f.ext))
      else none
    | 1 => if f.len == 2 then do
        let s ← mdScope f
        pure (.decBf16 (hdr f) s (kn f.dst) (tn f.sa) (tn f.sb) (un f.sc) (engOf f.ext))
      else none
    | _ => none
  | _ => none

/-- The forms of opcodes 0x68 to 0x6F. -/
def readMatrix (f : Fields) : Option Instr :=
  match f.opc.toNat with
  | 0x68 => match f.fn.toNat with
    | 0 => if f.len == 2 then some (.mms (f.md.getLsbD 0) (pr f.dst) (tn f.sa) (tn f.sb) (mmsOf f.ext))
      else none
    | 1 => if f.len == 2 then some (.mmsPair (f.md.getLsbD 0) (pr f.dst) (tn f.sa) (tn f.sb) (mmsOf f.ext))
      else none
    | _ => none
  | 0x69 => if f.fn.getLsbD 0 then if f.len == 2 then some (.vprojB (f.fn.getLsbD 1) (f.fn.getLsbD 2) (pr f.dst) (tn f.sa) (tn f.sb) (vprojOf f.ext))
    else none
    else if f.len == 2 then some (.vprojF (f.fn.getLsbD 1) (f.fn.getLsbD 2) (pr f.dst) (tn f.sa) (tn f.sb) (vprojOf f.ext))
    else none
  | 0x6A => match f.fn.toNat with
    | 0 => if f.len == 1 then some (.vmrgRow (f.ext.setWidth 8))
      else none
    | 1 => if f.len == 1 then some (.vmrgHeap (f.ext.setWidth 8))
      else none
    | _ => none
  | 0x6B => match f.fn.toNat with
    | 0 => if f.len == 2 then some (.voutRow (tn f.sa) (voutOf f.ext))
      else none
    | 1 => if f.len == 2 then some (.voutHeap (tn f.sa) (voutOf f.ext))
      else none
    | _ => none
  | 0x6C => match f.fn.toNat with
    | 0 => if f.len == 0 then some (.aclrF32Zero (pr f.dst))
      else none
    | 1 => if f.len == 1 then some (.aclrF32Broadcast (pr f.dst) (imm32 f))
      else none
    | 2 => if f.len == 0 then some (.aclrX128Zero (pr f.dst))
      else none
    | 3 => if f.len == 1 then some (.aclrX128Broadcast (pr f.dst) (imm32 f))
      else none
    | _ => none
  | 0x6D => if f.len == 2 then do
      let c ← sqCondOf f.fn
      pure (.sqif c (imm32 f) (f.ext.extractLsb' 32 32))
    else none
  | 0x6E => match f.fn.toNat with
    | 0 => if f.len == 2 then do
        let c ← sqCondOf f.md
        pure (.sqwhWhile c (imm32 f) (f.ext.extractLsb' 32 32))
      else none
    | 1 => if f.len == 1 then some (.sqwhEndw (imm32 f))
      else none
    | _ => none
  | 0x6F => match f.fn.toNat with
    | 0 => if f.len == 1 then some (if f.md == 0 then .sqcwSet (imm32 f) else .sqcwSetSp (imm32 f))
      else none
    | 1 => if f.len == 1 then some (.sqcwAdd (imm32 f))
      else none
    | 2 => if f.len == 1 then some (.sqcwCmp (imm32 f))
      else none
    | 3 => if f.len == 0 then some (.sqcwEnd)
      else none
    | _ => none
  | _ => none

/-- The forms of opcodes 0x70 to 0x7F. -/
def readTask (f : Fields) : Option Instr :=
  match f.opc.toNat with
  | 0x70 => match f.fn.toNat with
    | 0 => do
        let o ← mdOrd f
        let s ← mdScope f
        let hi ← mdHint f
        pure (.pcadd (hdr f) o s hi (addr f) f.sc)
    | 1 => do
        let o ← mdOrd f
        let s ← mdScope f
        let hi ← mdHint f
        pure (.pcaddRtn (hdr f) o s hi f.dst (addr f) f.sc)
    | _ => none
  | 0x71 => match f.fn.toNat with
    | 0 => do
        let o ← mdOrd f
        let s ← mdScope f
        let hi ← mdHint f
        pure (.pcrd (hdr f) o s hi f.dst (addr f))
    | 1 => do
        let o ← mdOrd f
        let s ← mdScope f
        let hi ← mdHint f
        pure (.pcrdRaw (hdr f) o s hi f.dst (addr f))
    | _ => none
  | 0x72 => match f.fn.toNat with
    | 0 => do
        let o ← mdOrd f
        let s ← mdScope f
        let hi ← mdHint f
        pure (.pcmrg (hdr f) o s hi f.dst (addr f) f.sc)
    | _ => none
  | 0x73 => match f.fn.toNat with
    | 0 => do
        let o ← mdOrd f
        let s ← mdScope f
        let hi ← mdHint f
        pure (.pcclr (hdr f) o s hi (addr f))
    | _ => none
  | 0x74 => match f.fn.toNat with
    | 0 => if f.len == 0 || f.len == 1 then some (.pcbase (hdr f) (immA f))
      else none
    | _ => none
  | 0x78 => match f.fn.toNat with
    | 0 => if f.len == 1 then some (.launch (hdr f) (un f.dst) (un f.sa) (f.ext.setWidth 16) (f.ext.getLsbD 16))
      else none
    | _ => none
  | 0x79 => match f.fn.toNat with
    | 0 => if f.len == 0 then some (.fork (hdr f) (kn f.dst) (un f.sa) (un f.sb))
      else none
    | _ => none
  | 0x7A => match f.fn.toNat with
    | 0 => if f.len == 0 then some (.cancel (hdr f) (un f.sa))
      else none
    | _ => none
  | 0x7B => match f.fn.toNat with
    | 0 => if f.len == 0 then some (.twait (hdr f) (un f.dst) (if f.ua then some (un f.sa) else none))
      else none
    | _ => none
  | 0x7C => match f.fn.toNat with
    | 0 => if f.len == 0 || f.len == 1 then some (.alloc (hdr f) (dA f) (opB f))
      else none
    | _ => none
  | 0x7D => match f.fn.toNat with
    | 0 => if f.len == 0 then some (.free (hdr f) (opA f))
      else none
    | _ => none
  | 0x7E => match f.fn.toNat with
    | 0 => if f.len == 0 || f.len == 1 then some (.tmark (hdr f) (immA f))
      else none
    | _ => none
  | 0x7F => match f.fn.toNat with
    | 0 => if f.len == 1 then some (hvcRead (hdr f) (f.ext.setWidth 16))
      else none
    | _ => none
  | _ => none

/-- The form that OPC, FN, MD and LEN name. -/
def readFields (f : Fields) : Option Instr :=
  if f.opc.toNat ≤ 0x0C then readControl f
  else if f.opc.toNat ≤ 0x1F then readInteger f
  else if f.opc.toNat ≤ 0x2A then readFloat f
  else if f.opc.toNat ≤ 0x35 then readLane f
  else if f.opc.toNat ≤ 0x4B then readMemory f
  else if f.opc.toNat ≤ 0x5A then readSync f
  else if f.opc.toNat ≤ 0x65 then readEngine f
  else if f.opc.toNat ≤ 0x6F then readMatrix f
  else readTask f

/-- The fields of an instruction that a word of its own encodes; none for a part step, and for a word that is no
instruction. -/
def fieldsOf : Instr → Option Fields
  | .nop h .none => some (opH 0x00 h)
  | .nop h (.imm w) => some (wImm w (opH 0x00 h))
  | .nop h (.ext x) => some (wExt x (opH 0x00 h))
  | .bra h o => some (wImm o (opH 0x01 h))
  | .bru h o => some (wImm o (opH 0x02 h))
  | .jmpi h a => some (wA a (opH 0x03 h))
  | .call h d o => some (wDst d (wImm o (opH 0x04 h)))
  | .callI h d a => some (wFn 1 (wDst d (wA a (opH 0x04 h))))
  | .ret h a => some (wA a (opH 0x05 h))
  | .exit h => some (opH 0x06 h)
  | .yield h => some (opH 0x07 h)
  | .trap h i => some (wDisp i (opH 0x08 h))
  | .rft h => some (opH 0x09 h)
  | .sysrd h d id => some (wDst (regNum d) (wImm (0#19 ++ BitVec.ofBool (Machine.regUni d) ++ id) (opH 0x0A h)))
  | .syswr h id a => some (wA a (wImm (id.setWidth 32) (opH 0x0B h)))
  | .seqCtlResume h a => some (wA a (wImm 0x060 (opH 0x0B h)))
  | .plop h t d a b c => some (wFn t (wDst (z3 d) (wSa (z3 a) (wSb (z3 b) (wSc (z3 c) (opH 0x0C h))))))
  | .iadd h t sat d a b => some (wMd (mInt t sat) (wDst (regNum d) (wA a (wB b (opH 0x10 h)))))
  | .iaddCc h t d a b c => some (wFn 1 (wSc (z3 c) (wMd (mTy t) (wDst (regNum d) (wA a (wB b (opH 0x10 h)))))))
  | .isub h t sat d a b => some (wMd (mInt t sat) (wDst (regNum d) (wA a (wB b (opH 0x11 h)))))
  | .isubCc h t d a b c => some (wFn 1 (wSc (z3 c) (wMd (mTy t) (wDst (regNum d) (wA a (wB b (opH 0x11 h)))))))
  | .imulLo h t sat d a b => some (wMd (mInt t sat) (wDst (regNum d) (wA a (wB b (opH 0x12 h)))))
  | .imulHi h t d a b => some (wFn 1 (wMd (mTy t) (wDst (regNum d) (wA a (wB b (opH 0x12 h))))))
  | .imulWide h t d a b => some (wFn 2 (wMd (mTy t) (wDst (regNum d) (wA a (wB b (opH 0x12 h))))))
  | .imadLo h t sat d a b c => some (wSc (regNum c) (wMd (mInt t sat) (wDst (regNum d) (wA a (wB b (opH 0x13 h))))))
  | .imadHi h t d a b c => some (wFn 1 (wSc (regNum c) (wMd (mTy t) (wDst (regNum d) (wA a (wB b (opH 0x13 h)))))))
  | .imadWide h t d a b c => some (wFn 2 (wSc (regNum c) (wMd (mTy t) (wDst (regNum d) (wA a (wB b (opH 0x13 h)))))))
  | .shfL h t d a b => some (wMd (mTy t) (wDst (regNum d) (wA a (wB b (opH 0x14 h)))))
  | .shfR h t d a b => some (wFn 1 (wMd (mTy t) (wDst (regNum d) (wA a (wB b (opH 0x14 h))))))
  | .shfRa h t d a b => some (wFn 2 (wMd (mTy t) (wDst (regNum d) (wA a (wB b (opH 0x14 h))))))
  | .shfRol h t d a b => some (wFn 3 (wMd (mTy t) (wDst (regNum d) (wA a (wB b (opH 0x14 h))))))
  | .shfLf h d a b c => some (wFn 4 (wSc (regNum c) (wMd (mTy .b32) (wDst (regNum d) (wA a (wB b (opH 0x14 h)))))))
  | .shfRf h d a b c => some (wFn 5 (wSc (regNum c) (wMd (mTy .b32) (wDst (regNum d) (wA a (wB b (opH 0x14 h)))))))
  | .ltab h t tbl d a b c => some (wFn tbl (wSc (regNum c) (wMd (mTy t) (wDst (regNum d) (wA a (wB b (opH 0x15 h)))))))
  | .icmp h t cond d a b => some (wFn (icondCode cond) (wMd (mTy t) (wDst (z3 d) (wA a (wB b (opH 0x16 h))))))
  | .imnmxMin h t d a b => some (wMd (mTy t) (wDst (regNum d) (wA a (wB b (opH 0x17 h)))))
  | .imnmxMax h t d a b => some (wFn 1 (wMd (mTy t) (wDst (regNum d) (wA a (wB b (opH 0x17 h))))))
  | .bfe h t d a b => some (wMd (mTy t) (wDst (regNum d) (wA a (wB b (opH 0x18 h)))))
  | .bfi h t d a b c => some (wSc (regNum c) (wMd (mTy t) (wDst (regNum d) (wA a (wB b (opH 0x19 h))))))
  | .bitsPopc h t d a => some (wMd (mTy t) (wDst (regNum d) (wA a (opH 0x1A h))))
  | .bitsClz h t d a => some (wFn 1 (wMd (mTy t) (wDst (regNum d) (wA a (opH 0x1A h)))))
  | .bitsCtz h t d a => some (wFn 2 (wMd (mTy t) (wDst (regNum d) (wA a (opH 0x1A h)))))
  | .bitsBrev h t d a => some (wFn 3 (wMd (mTy t) (wDst (regNum d) (wA a (opH 0x1A h)))))
  | .sel h t d a b c => some (wSc (z3 c) (wMd (mTy t) (wDst (regNum d) (wA a (wB b (opH 0x1B h))))))
  | .mov h t d b => some (wMd (mTy t) (wDst (regNum d) (wUa (Machine.regUni d) (wRegB b (opH 0x1C h)))))
  | .movPush h t q b => some (wFn 1 (wMd (mTy t) (wDst (z4 q) (wRegB b (opH 0x1C h)))))
  | .movPop h t d q => some (wFn 2 (wMd (mTy t) (wDst (regNum d) (wUa (Machine.regUni d) (wSa (z4 q) (opH 0x1C h))))))
  | .movP2v h d => some (wFn 3 (wMd (mTy .b32) (wDst d (opH 0x1C h))))
  | .movV2p h b => some (wFn 4 (wMd (mTy .b32) (wRegB b (opH 0x1C h))))
  | .moviVector h d i => some (wDst d (wImm i (opH 0x1D h)))
  | .moviVectorPair h d x => some (wFn 1 (wDst d (wExt x (opH 0x1D h))))
  | .moviUniform h d i => some (wFn 2 (wUa true (wDst (z6 d) (wImm i (opH 0x1D h)))))
  | .moviUniformPair h d x => some (wFn 3 (wUa true (wDst (z6 d) (wExt x (opH 0x1D h)))))
  | .lea h t sh d a b => some (wFn (z3 sh) (wMd (mTy t) (wDst (regNum d) (wA a (wB b (opH 0x1E h))))))
  | .dp4 h x y sat d a b c => some (wFn (0#6 ++ BitVec.ofBool (!x) ++ BitVec.ofBool (!y)) (wSc (regNum c) (wMd (mInt .i32 sat) (wDst (regNum d) (wA a (wB b (opH 0x1F h)))))))
  | .fadd h rn ftz d a b => some (wMd (mFlt .f32 rn ftz) (wDst (regNum d) (wA a (wB b (opH 0x20 h)))))
  | .fmul h rn ftz d a b => some (wMd (mFlt .f32 rn ftz) (wDst (regNum d) (wA a (wB b (opH 0x21 h)))))
  | .ffma h rn ftz d a b c => some (wSc (regNum c) (wMd (mFlt .f32 rn ftz) (wDst (regNum d) (wA a (wB b (opH 0x22 h))))))
  | .fmnmxMin h ftz d a b => some (wMd (mFlt .f32 .rne ftz) (wDst (regNum d) (wA a (wB b (opH 0x23 h)))))
  | .fmnmxMax h ftz d a b => some (wFn 1 (wMd (mFlt .f32 .rne ftz) (wDst (regNum d) (wA a (wB b (opH 0x23 h))))))
  | .fcmp h cond ftz d a b => some (wFn (fcondCode cond) (wMd (mFlt .f32 .rne ftz) (wDst (z3 d) (wA a (wB b (opH 0x24 h))))))
  | .ffnRcp h rn ftz d a => some (wMd (mFlt .f32 rn ftz) (wDst (regNum d) (wA a (opH 0x25 h))))
  | .ffnSqrt h rn ftz d a => some (wFn 1 (wMd (mFlt .f32 rn ftz) (wDst (regNum d) (wA a (opH 0x25 h)))))
  | .ffnRsqrt h rn ftz d a => some (wFn 2 (wMd (mFlt .f32 rn ftz) (wDst (regNum d) (wA a (opH 0x25 h)))))
  | .ffnExp2 h rn ftz d a => some (wFn 3 (wMd (mFlt .f32 rn ftz) (wDst (regNum d) (wA a (opH 0x25 h)))))
  | .ffnLog2 h rn ftz d a => some (wFn 4 (wMd (mFlt .f32 rn ftz) (wDst (regNum d) (wA a (opH 0x25 h)))))
  | .ffnSinpi h rn ftz d a => some (wFn 5 (wMd (mFlt .f32 rn ftz) (wDst (regNum d) (wA a (opH 0x25 h)))))
  | .ffnCospi h rn ftz d a => some (wFn 6 (wMd (mFlt .f32 rn ftz) (wDst (regNum d) (wA a (opH 0x25 h)))))
  | .cvt h dt stt ns rn ftz d a => some (wFn (0#2 ++ BitVec.ofBool ns ++ tyCode stt) (wMd (mFlt dt rn ftz) (wDst (regNum d) (wA a (opH 0x26 h)))))
  | .fma2 h rn ftz d a b c => some (wSc (regNum c) (wMd (mFlt .bf16x2 rn ftz) (wDst (regNum d) (wA a (wB b (opH 0x27 h))))))
  | .frnd h rn ftz d a => some (wMd (mFlt .f32 rn ftz) (wDst (regNum d) (wA a (opH 0x28 h))))
  | .xaccF32 h d a b => some (wMd (mTy .x128) (wDst (regNum d) (wA a (wB b (opH 0x29 h)))))
  | .xaccX128 h d a b => some (wFn 1 (wMd (mTy .x128) (wDst (regNum d) (wA a (wRegB b (opH 0x29 h))))))
  | .xrnd h rn d a => some (wMd (mFlt .f32 rn false) (wDst (regNum d) (wA a (opH 0x2A h))))
  | .shflIdx h t d a b c => some (wSc (z3 c) (wMd (mTy t) (wDst d (wSa a (wB b (opH 0x30 h))))))
  | .shflUp h t d a b c => some (wFn 1 (wSc (z3 c) (wMd (mTy t) (wDst d (wSa a (wB b (opH 0x30 h)))))))
  | .shflDown h t d a b c => some (wFn 2 (wSc (z3 c) (wMd (mTy t) (wDst d (wSa a (wB b (opH 0x30 h)))))))
  | .shflXor h t d a b c => some (wFn 3 (wSc (z3 c) (wMd (mTy t) (wDst d (wSa a (wB b (opH 0x30 h)))))))
  | .ballot h d a b => some (wMd (mTy .b32) (wDst (regNum d) (wA a (wB b (opH 0x31 h)))))
  | .voteAll h d a => some (wMd (mTy .b32) (wDst (z3 d) (wSa (z3 a) (opH 0x32 h))))
  | .voteAny h d a => some (wFn 1 (wMd (mTy .b32) (wDst (z3 d) (wSa (z3 a) (opH 0x32 h)))))
  | .voteUni h d a => some (wFn 2 (wMd (mTy .b32) (wDst (z3 d) (wSa (z3 a) (opH 0x32 h)))))
  | .lredAdd h t d a => some (wMd (mTy t) (wDst (regNum d) (wA a (opH 0x33 h))))
  | .lredMin h t d a => some (wFn 1 (wMd (mTy t) (wDst (regNum d) (wA a (opH 0x33 h)))))
  | .lredMax h t d a => some (wFn 2 (wMd (mTy t) (wDst (regNum d) (wA a (opH 0x33 h)))))
  | .lredAnd h t d a => some (wFn 3 (wMd (mTy t) (wDst (regNum d) (wA a (opH 0x33 h)))))
  | .lredOr h t d a => some (wFn 4 (wMd (mTy t) (wDst (regNum d) (wA a (opH 0x33 h)))))
  | .lredXor h t d a => some (wFn 5 (wMd (mTy t) (wDst (regNum d) (wA a (opH 0x33 h)))))
  | .rngC h d => some (wMd (mTy .b32) (wDst d (opH 0x34 h)))
  | .rngCx h d a => some (wFn 1 (wMd (mTy .b32) (wDst d (wSa a (opH 0x34 h)))))
  | .rngSStep h d => some (wFn 2 (wMd (mTy .b32) (wDst d (opH 0x34 h))))
  | .rngSReseed h d i => some (wFn 2 (wMd (mTy .b32) (wDst d (wImm i (opH 0x34 h)))))
  | .bsel h d a b c => some (wSc (regNum c) (wMd (mTy .b32) (wDst (regNum d) (wA a (wB b (opH 0x35 h))))))
  | .ld h t o s hi d ad => some (wFn (mTy t) (wMd (mMem o s hi) (wDst (regNum d) (wAddr ad (opH 0x40 h)))))
  | .st h t o s hi ad c => some (wFn (mTy t) (wMd (mMem o s hi) (wSc (regNum c) (wAddr ad (opH 0x41 h)))))
  | .lds h t w d ad => some (wFn (winFn t w) (wSc (winSc w) (wDst (regNum d) (wAddr ad (opH 0x42 h)))))
  | .sts h t w ad d => some (wFn (winFn t w) (wSc (winSc w) (wDst (regNum d) (wAddr ad (opH 0x43 h)))))
  | .atomAdd h t o s d ad b => (atomTyCode t).map fun k => wFn (k ++ 0#4) (wMd (mMem o s .normal) (wSc (regNum b) (wDst (regNum d) (wAddr ad (opH 0x44 h)))))
  | .atomMin h t o s d ad b => (atomTyCode t).map fun k => wFn (k ++ 1#4) (wMd (mMem o s .normal) (wSc (regNum b) (wDst (regNum d) (wAddr ad (opH 0x44 h)))))
  | .atomMax h t o s d ad b => (atomTyCode t).map fun k => wFn (k ++ 2#4) (wMd (mMem o s .normal) (wSc (regNum b) (wDst (regNum d) (wAddr ad (opH 0x44 h)))))
  | .atomAnd h t o s d ad b => (atomTyCode t).map fun k => wFn (k ++ 3#4) (wMd (mMem o s .normal) (wSc (regNum b) (wDst (regNum d) (wAddr ad (opH 0x44 h)))))
  | .atomOr h t o s d ad b => (atomTyCode t).map fun k => wFn (k ++ 4#4) (wMd (mMem o s .normal) (wSc (regNum b) (wDst (regNum d) (wAddr ad (opH 0x44 h)))))
  | .atomXor h t o s d ad b => (atomTyCode t).map fun k => wFn (k ++ 5#4) (wMd (mMem o s .normal) (wSc (regNum b) (wDst (regNum d) (wAddr ad (opH 0x44 h)))))
  | .atomExch h t o s d ad b => (atomTyCode t).map fun k => wFn (k ++ 6#4) (wMd (mMem o s .normal) (wSc (regNum b) (wDst (regNum d) (wAddr ad (opH 0x44 h)))))
  | .atomCas h t o s d ad b => (atomTyCode t).map fun k => wFn (k ++ 7#4) (wMd (mMem o s .normal) (wSc (regNum b) (wDst (regNum d) (wAddr ad (opH 0x44 h)))))
  | .atomsAdd h t d ad b => (atomTyCode t).map fun k => wFn (k ++ 0#4) ((wSc (regNum b) (wDst (regNum d) (wAddr ad (opH 0x45 h)))))
  | .atomsMin h t d ad b => (atomTyCode t).map fun k => wFn (k ++ 1#4) ((wSc (regNum b) (wDst (regNum d) (wAddr ad (opH 0x45 h)))))
  | .atomsMax h t d ad b => (atomTyCode t).map fun k => wFn (k ++ 2#4) ((wSc (regNum b) (wDst (regNum d) (wAddr ad (opH 0x45 h)))))
  | .atomsAnd h t d ad b => (atomTyCode t).map fun k => wFn (k ++ 3#4) ((wSc (regNum b) (wDst (regNum d) (wAddr ad (opH 0x45 h)))))
  | .atomsOr h t d ad b => (atomTyCode t).map fun k => wFn (k ++ 4#4) ((wSc (regNum b) (wDst (regNum d) (wAddr ad (opH 0x45 h)))))
  | .atomsXor h t d ad b => (atomTyCode t).map fun k => wFn (k ++ 5#4) ((wSc (regNum b) (wDst (regNum d) (wAddr ad (opH 0x45 h)))))
  | .atomsExch h t d ad b => (atomTyCode t).map fun k => wFn (k ++ 6#4) ((wSc (regNum b) (wDst (regNum d) (wAddr ad (opH 0x45 h)))))
  | .atomsCas h t d ad b => (atomTyCode t).map fun k => wFn (k ++ 7#4) ((wSc (regNum b) (wDst (regNum d) (wAddr ad (opH 0x45 h)))))
  | .fence h o s => some (wMd (mMem o s .normal) (opH 0x46 h))
  | .publish h s d a i => some (wMd (mScope s) (wDst (z6 d) (wUa true (wSa (z6 a) (wDisp i (opH 0x47 h))))))
  | .drainSp h => some (wFn 0 (opH 0x48 h))
  | .drainFifo h => some (wFn 1 (opH 0x48 h))
  | .drainGlb h => some (wFn 2 (opH 0x48 h))
  | .cctlInv h ad => some (wFn 0 (wAddr ad (opH 0x49 h)))
  | .cctlPfl1 h ad => some (wFn 1 (wAddr ad (opH 0x49 h)))
  | .cctlPfl2 h ad => some (wFn 2 (wAddr ad (opH 0x49 h)))
  | .nmcGather h s k a => some (wFn 0 (wMd (mScope s) (wDst (z4 k) (wUa true (wSa (z6 a) (opH 0x4A h))))))
  | .nmcCopy h s k a => some (wFn 1 (wMd (mScope s) (wDst (z4 k) (wUa true (wSa (z6 a) (opH 0x4A h))))))
  | .nmcCvt h s k a => some (wFn 2 (wMd (mScope s) (wDst (z4 k) (wUa true (wSa (z6 a) (opH 0x4A h))))))
  | .nmcRed h s k a => some (wFn 3 (wMd (mScope s) (wDst (z4 k) (wUa true (wSa (z6 a) (opH 0x4A h))))))
  | .ldcB32 h d b => some (wFn 0 (wDst (regNum d) (wUa (Machine.regUni d) (wB b (opH 0x4B h)))))
  | .ldcB64 h d b => some (wFn 1 (wDst (regNum d) (wUa (Machine.regUni d) (wB b (opH 0x4B h)))))
  | .barSync h v => some (wFn 0 (wImmA v (opH 0x50 h)))
  | .barArrive h v => some (wFn 1 (wImmA v (opH 0x50 h)))
  | .barWait h v => some (wFn 2 (wImmA v (opH 0x50 h)))
  | .bexp h (.regs b n) => some (wUa true (wSa (z6 b) (wRegB (.s n) (opH 0x51 h))))
  | .bexp h (.immReg b n) => some (wRegB (.s n) (wImm (b.setWidth 32) (opH 0x51 h)))
  | .bexp h (.imms b n) => some (wExt (n ++ 0#24 ++ b) (opH 0x51 h))
  | .cbar h s v => some (wMd (mScope s) (wImmA v (opH 0x52 h)))
  | .qbindSq h q v => some (wDst (z4 q) (wImmA v (opH 0x53 h)))
  | .qbindPort h q n => some (wFn 1 (wDst (z4 q) (wImm (n.setWidth 32) (opH 0x53 h))))
  | .qtryPush h d q b => some (wDst (z3 d) (wSa (z4 q) (wRegB b (opH 0x54 h))))
  | .qtryPop h d q c => some (wFn 1 (wSc (z3 c) (wDst (regNum d) (wUa (Machine.regUni d) (wSa (z4 q) (opH 0x54 h))))))
  | .waitk h k => some (wSa (z4 k) (opH 0x55 h))
  | .waitkMask h m => some (wFn 1 (wImm (m.setWidth 32) (opH 0x55 h)))
  | .acq h d => some (wDst (z3 d) (opH 0x56 h))
  | .rel h d => some (wDst (z3 d) (opH 0x57 h))
  | .tsld h d a i => some (wDst (z5 d) (wUa true (wSa (z6 a) (wDisp i (opH 0x58 h)))))
  | .tsev h d none => some (wDst (z5 d) (opH 0x59 h))
  | .tsev h d (some (a, i)) => some (wDst (z5 d) (wUa true (wSa (z6 a) (wDisp i (opH 0x59 h)))))
  | .qalwAdd h q v => some (wFn 0 (wDst (z4 q) (wImmA v (opH 0x5A h))))
  | .qalwSet h q v => some (wFn 1 (wDst (z4 q) (wImmA v (opH 0x5A h))))
  | .cpy h s k a b o e => some (wFn 0 (wMd (mScope s) (wSc (z6 o) (wSb (z5 b) (wDst (z4 k) (wSa (z5 a) (wExt (engBits e) (opH 0x60 h))))))))
  | .cpyAdd h s k a b o e => some (wFn 1 (wMd (mScope s) (wSc (z6 o) (wSb (z5 b) (wDst (z4 k) (wSa (z5 a) (wExt (engBits e) (opH 0x60 h))))))))
  | .cpyMin h s k a b o e => some (wFn 2 (wMd (mScope s) (wSc (z6 o) (wSb (z5 b) (wDst (z4 k) (wSa (z5 a) (wExt (engBits e) (opH 0x60 h))))))))
  | .cpyMax h s k a b o e => some (wFn 3 (wMd (mScope s) (wSc (z6 o) (wSb (z5 b) (wDst (z4 k) (wSa (z5 a) (wExt (engBits e) (opH 0x60 h))))))))
  | .cpyAnd h s k a b o e => some (wFn 4 (wMd (mScope s) (wSc (z6 o) (wSb (z5 b) (wDst (z4 k) (wSa (z5 a) (wExt (engBits e) (opH 0x60 h))))))))
  | .cpyOr h s k a b o e => some (wFn 5 (wMd (mScope s) (wSc (z6 o) (wSb (z5 b) (wDst (z4 k) (wSa (z5 a) (wExt (engBits e) (opH 0x60 h))))))))
  | .gscG h s k a b e => some (wFn 0 (wMd (mScope s) (wSb (z5 b) (wDst (z4 k) (wSa (z5 a) (wExt (engBits e) (opH 0x61 h)))))))
  | .gscS h s k a b e => some (wFn 1 (wMd (mScope s) (wSb (z5 b) (wDst (z4 k) (wSa (z5 a) (wExt (engBits e) (opH 0x61 h)))))))
  | .gscSadd h s k a b e => some (wFn 2 (wMd (mScope s) (wSb (z5 b) (wDst (z4 k) (wSa (z5 a) (wExt (engBits e) (opH 0x61 h)))))))
  | .feedFa h k a o e => some (wFn 0 (wSc (z6 o) (wDst (z4 k) (wSa (z5 a) (wExt (engBits e) (opH 0x62 h))))))
  | .feedFb h k a o e => some (wFn 1 (wSc (z6 o) (wDst (z4 k) (wSa (z5 a) (wExt (engBits e) (opH 0x62 h))))))
  | .feedSc h k a o e => some (wFn 2 (wSc (z6 o) (wDst (z4 k) (wSa (z5 a) (wExt (engBits e) (opH 0x62 h))))))
  | .collStart h k a => some (wFn 0 (wDst (z4 k) (wUa true (wSa (z6 a) (opH 0x63 h)))))
  | .collResume h k a => some (wFn 1 (wDst (z4 k) (wUa true (wSa (z6 a) (opH 0x63 h)))))
  | .enc h s k a b o e => some (wFn 0 (wMd (mScope s) (wSc (z6 o) (wSb (z5 b) (wDst (z4 k) (wSa (z5 a) (wExt (engBits e) (opH 0x64 h))))))))
  | .decF32 h s k a b o e => some (wFn 0 (wMd (mScope s) (wSc (z6 o) (wSb (z5 b) (wDst (z4 k) (wSa (z5 a) (wExt (engBits e) (opH 0x65 h))))))))
  | .decBf16 h s k a b o e => some (wFn 1 (wMd (mScope s) (wSc (z6 o) (wSb (z5 b) (wDst (z4 k) (wSa (z5 a) (wExt (engBits e) (opH 0x65 h))))))))
  | .mms x d a b e => some (wFn 0 (wMd (0#7 ++ BitVec.ofBool x) (wDst (z3 d) (wSa (z5 a) (wSb (z5 b) (wExt (0#33 ++ mmsBits e) (op 0x68)))))))
  | .mmsPair x d a b e => some (wFn 1 (wMd (0#7 ++ BitVec.ofBool x) (wDst (z3 d) (wSa (z5 a) (wSb (z5 b) (wExt (0#33 ++ mmsBits e) (op 0x68)))))))
  | .vprojF x y d a b e => some (wFn (0#5 ++ BitVec.ofBool y ++ BitVec.ofBool x ++ 0#1) (wDst (z3 d) (wSa (z5 a) (wSb (z5 b) (wExt (vprojBits e) (op 0x69))))))
  | .vprojB x y d a b e => some (wFn (0#5 ++ BitVec.ofBool y ++ BitVec.ofBool x ++ 1#1) (wDst (z3 d) (wSa (z5 a) (wSb (z5 b) (wExt (vprojBits e) (op 0x69))))))
  | .vmrgRow n => some (wFn 0 (wImm (n.setWidth 32) (op 0x6A)))
  | .vmrgHeap n => some (wFn 1 (wImm (n.setWidth 32) (op 0x6A)))
  | .voutRow a e => some (wFn 0 (wSa (z5 a) (wExt (voutBits e) (op 0x6B))))
  | .voutHeap a e => some (wFn 1 (wSa (z5 a) (wExt (voutBits e) (op 0x6B))))
  | .aclrF32Zero d => some (wFn 0 (wDst (z3 d) (op 0x6C)))
  | .aclrF32Broadcast d v => some (wFn 1 (wDst (z3 d) (wImm v (op 0x6C))))
  | .aclrX128Zero d => some (wFn 2 (wDst (z3 d) (op 0x6C)))
  | .aclrX128Broadcast d v => some (wFn 3 (wDst (z3 d) (wImm v (op 0x6C))))
  | .sqif c v o => some (wFn (sqCondCode c) (wExt (o ++ v) (op 0x6D)))
  | .sqwhWhile c v o => some (wMd (sqCondCode c) (wExt (o ++ v) (op 0x6E)))
  | .sqwhEndw o => some (wFn 1 (wImm o (op 0x6E)))
  | .sqcwSet v => some (wImm v (op 0x6F))
  | .sqcwSetSp v => some (wMd 1 (wImm v (op 0x6F)))
  | .sqcwAdd v => some (wFn 1 (wImm v (op 0x6F)))
  | .sqcwCmp v => some (wFn 2 (wImm v (op 0x6F)))
  | .sqcwEnd => some (wFn 3 (op 0x6F))
  | .pcadd h o s hi ad c => some (wFn 0 (wSc c (wMd (mMem o s hi) (wAddr ad (opH 0x70 h)))))
  | .pcaddRtn h o s hi d ad c => some (wFn 1 (wSc c (wDst d (wMd (mMem o s hi) (wAddr ad (opH 0x70 h))))))
  | .pcrd h o s hi d ad => some (wFn 0 (wDst d (wMd (mMem o s hi) (wAddr ad (opH 0x71 h)))))
  | .pcrdRaw h o s hi d ad => some (wFn 1 (wDst d (wMd (mMem o s hi) (wAddr ad (opH 0x71 h)))))
  | .pcmrg h o s hi d ad c => some (wFn 0 (wSc c (wDst d (wMd (mMem o s hi) (wAddr ad (opH 0x72 h))))))
  | .pcclr h o s hi ad => some (wFn 0 (wMd (mMem o s hi) (wAddr ad (opH 0x73 h))))
  | .pcbase h v => some (wImmA v (opH 0x74 h))
  | .launch h d a t p => some (wDst (z6 d) (wUa true (wSa (z6 a) (wImm (0#15 ++ BitVec.ofBool p ++ t) (opH 0x78 h)))))
  | .fork h k a b => some (wDst (z4 k) (wUa true (wSa (z6 a) (wRegB (.s b) (opH 0x79 h)))))
  | .cancel h a => some (wUa true (wSa (z6 a) (opH 0x7A h)))
  | .twait h d none => some (wDst (z6 d) (opH 0x7B h))
  | .twait h d (some a) => some (wDst (z6 d) (wUa true (wSa (z6 a) (opH 0x7B h))))
  | .alloc h d b => some (wDst (regNum d) (wUa (Machine.regUni d) (wB b (opH 0x7C h))))
  | .free h a => some (wA a (opH 0x7D h))
  | .tmark h v => some (wImmA v (opH 0x7E h))
  | .hvc h v => some (wImm (v.setWidth 32) (opH 0x7F h))
  | .registerQueue h => some (wImm 1 (opH 0x7F h))
  | .registerCollectiveGroup h => some (wImm 2 (opH 0x7F h))
  | .addFrames h => some (wImm 3 (opH 0x7F h))
  | .retireRoot h => some (wImm 4 (opH 0x7F h))
  | .setHangThreshold h => some (wImm 5 (opH 0x7F h))
  | .attestationQuote h => some (wImm 16 (opH 0x7F h))
  | .yieldUnpark _ _ _ | .queueEntryEnter _ _ _ | .queuePopComplete _ _ _ | .drainComplete _ _
  | .cbarComplete _ _ | .cbarDeadlineExpiry _ _ _ | .queueOverflowStart _ _ | .fifoTileEnter _
  | .scaleSlotFill _ | .collChunkFinal _ _ _ | .collMemberFailure _ _ _ _ | .engineChunkPerformed _ _
  | .engineFaultResume _ _ | .engineCommandComplete _ | .portEntryDeliver _ _ | .mmsCommit _
  | .forwardSelectionStage _ | .backwardGradientStage _ | .hvcReturn _ _ _ _ _ | .launchPacketStart _ _
  | .copyPacketStart _ _ | .teamPlace _ | .teamRetire _ | .gridCompletion _ | .eventRecordWrite _
  | .eventRingTimeTrigger _ | .preemptionRequest _ | .safePointTake _ _ | .forcedSaveTimeout _ _
  | .teamResume _ | .coreClockGate _ _ | .corePowerGate _ _ | .coreWake _ _ | .hangReport _
  | .errorLogLostEntries _ | .linkWakeRetry _ | .linkRetrain _ | .dieHeartbeat _ | .dieLost _
  | .dielostTrap _ _ | .remoteAccessTimeout _ | .headroomUpdate _ _ | .thermalThrottle _ | .thermalTrip _
  | .powerOnBoot | .recoveryGo _ _ _ | .semaphoreClaim _ _ | .semaphoreRelease _ _ | .portReset _
  | .partitionCreate _ _ _ | .partitionRemove _ _ _ | .partitionRecreate _ _ _ | .supactResume _ _
  | .supactEndTeam _ _ | .supactDeliver _ _ | .hostAttestationRequest _ _ _ | .hostPortAccess _ _ _
  | .deviceRegisterWrite _ _ _ | .unassignedOpcode _ | .peerRemoteAccess _ _ | .stationRetraining _ _ _
  | .sequencerFetchFault _ _ => none

end Codec

/-! Bytes (02 R30, 00 R3: little-endian). -/

/-- The n bytes of a number, lowest first. -/
def leBytes (n : Nat) (x : Nat) : List Byte := (List.range n).map fun i => BitVec.ofNat 8 (x >>> (8 * i))

/-- The number that bytes hold, lowest first. -/
def leNat : List Byte → Nat
  | [] => 0
  | b :: bs => b.toNat + 256 * leNat bs

/-- Word 0 of the fields (02 Table 2.2). -/
def Fields.word0 (f : Fields) : DWord :=
  f.md ++ f.fn ++ f.sc ++ f.sb ++ f.sa ++ f.dst ++ BitVec.ofBool f.ub ++ BitVec.ofBool f.ua ++ BitVec.ofBool f.pn
    ++ f.pg ++ BitVec.ofBool f.sp ++ f.opc ++ f.len

/-- How many bytes follow word 0, the live-mask word apart (02 Table 2.1). -/
def extBytes (len : BitVec 2) : Nat := if len == 1 then 4 else if len == 2 then 8 else 0

/-- The fields of word 0, an extension and a mask. -/
def Fields.ofWords (w x : DWord) (m : BitVec 61) : Fields :=
  { len := w.setWidth 2, opc := w.extractLsb' 2 7, sp := w.getLsbD 9, pg := w.extractLsb' 10 3, pn := w.getLsbD 13,
    ua := w.getLsbD 14, ub := w.getLsbD 15, dst := w.extractLsb' 16 8, sa := w.extractLsb' 24 8,
    sb := w.extractLsb' 32 8, sc := w.extractLsb' 40 8, fn := w.extractLsb' 48 8, md := w.extractLsb' 56 8,
    ext := x, mask := m }

/-- The live-mask word (02 Table 2.8). -/
def liveWord (m : BitVec 61) : DWord := 0#1 ++ m ++ 3#2

/-- The bytes of the fields. -/
def Fields.bytes (f : Fields) : List Byte :=
  leBytes 8 f.word0.toNat ++ leBytes (extBytes f.len) f.ext.toNat
    ++ (if f.sp then leBytes 8 (liveWord f.mask).toNat else [])

/-- The bytes of a well-formed instruction; none for a part step. -/
def encode (i : Instr) : Option (List Byte) :=
  match i with
  | .unassignedOpcode w => some (leBytes 8 w.toNat)
  | i => (Codec.fieldsOf i).map Fields.bytes

/-- The length in bytes of an instruction, with its live-mask word (02 R30, R32); 0 for a part step. -/
def Instr.size (i : Instr) : Nat :=
  match i with
  | .unassignedOpcode _ => 8
  | i => match Codec.fieldsOf i with
    | some f => 8 + extBytes f.len + (if f.sp then 8 else 0)
    | none => 0

/-- Checks and answers the term that fields stand for: R53 step 2, without what depends on the team. -/
def decodeFields (f : Fields) : Except DecodeErr Instr :=
  match Codec.readFields f with
  | none => .error .unlistedForm
  | some i =>
    if !(Machine.legal i) then .error .illFormed
    else if Codec.fieldsOf i = some f then .ok i else .error .reservedBit

/-- The first n bytes as a number, where there are that many. -/
def takeLe (n : Nat) (bs : List Byte) : Option Nat := if bs.length < n then none else some (leNat (bs.take n))

/-- Decodes the bytes at an issue address. `seq`: they stand in a matrix stream, where SP = 1 is a set RZ bit and no
live-mask word is assumed to follow (02 R35). -/
def decode (seq : Bool) (bs : List Byte) : Except DecodeErr Instr :=
  match takeLe 8 bs with
  | none => .error .truncated
  | some n =>
    let w : DWord := BitVec.ofNat 64 n
    if w.setWidth 2 == 3#2 || !(Machine.opcAssigned (w.extractLsb' 2 7)) then .ok (.unassignedOpcode w)
    else
      let k := extBytes (w.setWidth 2)
      match takeLe k (bs.drop 8) with
      | none => .error .truncated
      | some x =>
        if w.getLsbD 9 then
          if seq then .error .safePointInStream
          else match takeLe 8 (bs.drop (8 + k)) with
            | none => .error .truncated
            | some m =>
              let mw : DWord := BitVec.ofNat 64 m
              if mw.setWidth 2 != 3#2 || mw.msb then .error .badLiveMask
              else decodeFields (Fields.ofWords w (BitVec.ofNat 64 x) (mw.extractLsb' 2 61))
        else decodeFields (Fields.ofWords w (BitVec.ofNat 64 x) 0)

/-- The instruction that the decoder reads from an instruction whose bits are w, numbered from bit 0 of the first
word; the bits above nbits are 0. -/
def decodeTableWord (nbits w : Nat) : Option Instr :=
  match decode false (leBytes 24 (w % 2 ^ nbits)) with
  | .ok i => some i
  | .error _ => none

end Sys2Proof
end

