-- ==== Sys2Proof/Config.lean ====
section
/-! DEFINITION. What an implementation fixes, and the free values: opaque constants that no proof can evaluate.
Each is named in the assumption log. A free value is applied to the State's counter `tick`, or to what it depends on. -/

namespace Sys2Proof.Config

/-- A choice among n things: the result is below n where n > 0 (log 4). -/
opaque pickRaw (tick n : Nat) : Nat
def pick (tick n : Nat) : Nat := if n = 0 then 0 else pickRaw tick n % n
/-- A free bit (log 4). -/
opaque freeBit (tick k : Nat) : Bool
/-- The step of the part that takes place, where one does (log 4). -/
opaque event (tick : Nat) : Option Instr
/-- An error that arises in storage (log 119), or a world that the monitor assigns (log 85), as numbers. -/
opaque strike (tick : Nat) : List Nat
/-- A free 32-bit value (log 12). -/
opaque freeWord (tick k : Nat) : Word
/-- Core cycles that pass in a step, less one (log 5). -/
opaque elapsed (tick : Nat) : Nat
/-- How far a core's CYCLE is ahead of the package's count; R108 bounds it, so the model reads it modulo 5 (log 5). -/
opaque cycleSkew (die core : Nat) : Nat
/-- HARVEST_MAPd, the fuse map of die d (01 R16; log 6). -/
opaque harvestRaw (die : Nat) : BitVec 36
/-- The public-key hash fused into the part and the fused minimum security version (22 R401; log 8). -/
opaque fusedKeyHash : BitVec 256
opaque fusedMinVersion : Word
/-- The firmware image in flash at reset (22 R401; log 8). -/
opaque flashImage : List Byte
/-- SHA-256 of a byte string (22 R401; log 8). -/
opaque sha256 (bytes : List Byte) : BitVec 256
/-- SLH-DSA-SHA2-128s verification: key, message, signature (22 R401; log 8). -/
opaque verify (key : BitVec 256) (msg sig : List Byte) : Bool
/-- The signature of the device identity key (22 R408; log 8). -/
opaque sign (msg : List Byte) : List Byte
/-- What an attestation quote says before its signature: nonce, measurements, die mask, fuse maps, worlds (22 R408;
log 8). -/
opaque quoteOf (nonce firmware image : BitVec 256) (dies : BitVec 4) (maps : List (BitVec 36)) (worlds : BitVec 4) : List Byte
/-- The die that a 2 MiB memory granule belongs to, and the die that an HBM4E stack is attached to (18 R385,
22 R405; log 9). -/
opaque granuleDieRaw (granule : Nat) : Nat
/-- The part's own UALink accelerator id (22 R411, R412; log 22). -/
opaque ownUaid : BitVec 10
/-- The pod of the part's system number (13 R275; log 22). -/
opaque ownPod : BitVec 11
/-- The translation root that the partition supervisor installs in the context descriptor of a launch, where it is not the
partition's (08 R180; log 14). -/
opaque contextRoot (tick : Nat) : Option Nat
/-- The queues that a partition's supervisor registers as it starts: descriptor, system queue, ROOT (22 R404, 17 R351;
log 124). -/
opaque bootQueues (tick : Nat) : List (DWord × Bool × BitVec 16)
/-- Whether the system image, or the monitor, that answers HVC defines a service (17 R372; log 12). -/
opaque calledDefines (image : List Byte) (svc : BitVec 16) : Bool
/-- Where a save area begins in the save region: the dispatcher allocates it (18 R380; log 18). -/
opaque spare (n : Nat) : Nat

end Sys2Proof.Config
end

