-- ==== Sys2Proof/Machine/Store.lean ====
section
/-! DEFINITION. Sparse storage in one canonical form: keys strictly rising, no entry equal to 0, which is what an
unlisted key reads as (log 1, log 2). Memory is a Store of bytes; register files, windows and tiles are Stores too. -/

namespace Sys2Proof

/-- Words of w bits by key. -/
abbrev Store (w : Nat) := List (Nat × BitVec w)
/-- Bytes by address: the cells of Host.Cell. -/
abbrev Memory := Store 8

/-- What the key holds; 0 where it is not listed. -/
def Store.get {w : Nat} : Store w → Nat → BitVec w
  | [], _ => 0
  | (k, v) :: m, a => if k = a then v else Store.get m a

/-- The entry taken out. -/
def Store.erase {w : Nat} : Store w → Nat → Store w
  | [], _ => []
  | (k, v) :: m, a => if k = a then Store.erase m a else (k, v) :: Store.erase m a

/-- The entry put in before the first greater key; an entry of the same key gives way. -/
def Store.insert {w : Nat} : Store w → Nat → BitVec w → Store w
  | [], a, x => [(a, x)]
  | (k, v) :: m, a, x =>
    if a < k then (a, x) :: (k, v) :: m
    else if k = a then (a, x) :: m
    else (k, v) :: Store.insert m a x

/-- A write: the value an unlisted key reads as removes the entry. -/
def Store.set {w : Nat} (m : Store w) (a : Nat) (x : BitVec w) : Store w :=
  if x = 0 then m.erase a else m.insert a x

/-- The canonical form above a bound: every key greater, keys rising, no entry 0. -/
def Store.wfFrom {w : Nat} : Store w → Nat → Bool
  | [], _ => true
  | (k, v) :: m, lo => decide (lo ≤ k) && decide (v ≠ 0) && Store.wfFrom m (k + 1)

/-- The canonical form. -/
def Store.wf {w : Nat} (m : Store w) : Bool := m.wfFrom 0
/-- The canonical form of memory. -/
abbrev Memory.wf (m : Memory) : Bool := Store.wf m

/-- n bytes from a, little-endian, as a number (00 R3). -/
def Store.readLe (m : Store 8) : Nat → Nat → Nat
  | _, 0 => 0
  | a, n + 1 => (m.get a).toNat + 256 * Store.readLe m (a + 1) n

/-- n bytes of x from a, little-endian (00 R3). -/
def Store.writeLe (m : Store 8) : Nat → Nat → Nat → Store 8
  | _, 0, _ => m
  | a, n + 1, x => Store.writeLe (m.set a (BitVec.ofNat 8 x)) (a + 1) n (x / 256)

/-- n bytes from a. -/
def Store.readBytes (m : Store 8) (a n : Nat) : List Byte := (List.range n).map fun i => m.get (a + i)

/-- The n words from key lo on, of a store that lists nothing below. -/
def Store.dense {w : Nat} : Store w → Nat → Nat → List (BitVec w)
  | _, _, 0 => []
  | [], lo, n + 1 => 0 :: Store.dense [] (lo + 1) n
  | (k, v) :: m, lo, n + 1 => if k = lo then v :: Store.dense m (lo + 1) n else 0 :: Store.dense ((k, v) :: m) (lo + 1) n
/-- The n words from key lo on. -/
def Store.window {w : Nat} (m : Store w) (lo n : Nat) : List (BitVec w) :=
  Store.dense (m.filter fun e => decide (lo ≤ e.1) && decide (e.1 < lo + n)) lo n
/-- The store of some words from a key on. -/
def Store.ofWords {w : Nat} : Nat → List (BitVec w) → Store w
  | _, [] => []
  | k, x :: xs => if x = 0 then Store.ofWords (k + 1) xs else (k, x) :: Store.ofWords (k + 1) xs

/-- Bytes written from a on. -/
def Store.writeBytes (m : Store 8) : Nat → List Byte → Store 8
  | _, [] => m
  | a, b :: bs => Store.writeBytes (m.set a b) (a + 1) bs

/-- n bytes (or words) from src copied to dst, as one act: what dst held goes, what src lists comes. -/
def Store.copyRange {w : Nat} (m : Store w) (src dst n : Nat) : Store w :=
  (m.filter fun e => decide (src ≤ e.1) && decide (e.1 < src + n)).foldl
    (fun a e => Store.insert a (e.1 - src + dst) e.2)
    (m.filter fun e => !(decide (dst ≤ e.1) && decide (e.1 < dst + n)))

end Sys2Proof
end

