-- ==== Sys2Proof/Machine/State.lean ====
section
/-! DEFINITION. The state of the part: everything the spec gives it, as plain data. INVENTORY.md lists every piece with
its rule and its value at reset. Groups, teams, launches and commands are named by their place in a list that only
grows. -/

namespace Sys2Proof.Machine

/-- A trap as it is raised: code, flags, listed lanes, PC, TRAP_INFO0 to 3 (18 R373). -/
structure Trap where
  code  : Byte
  seq   : Bool := false
  nest  : Bool := false
  lanes : Lanes := 0
  pc    : DWord := 0
  i0    : Word := 0
  i1    : Word := 0
  i2    : Word := 0
  i3    : Word := 0
  deriving DecidableEq, Repr

/-- A token register (11 R244): empty, or the command it names. -/
inductive Token where
  | empty
  | names (cmd : Nat)
  deriving DecidableEq, Repr

/-- What a queue register is bound to (11 R240, R243). -/
inductive Bind where
  | queue (n : Nat)
  | port (n : Nat)
  deriving DecidableEq, Repr

/-- What parked lanes wait for (04 R91). -/
inductive WaitKind where
  /-- A phase other than the recorded one, of barrier b (11 R239). -/
  | barrier (b : Nat) (phase : Bool)
  /-- The tokens of a mask (11 R254). -/
  | tokens (m : BitVec 16)
  /-- A tile (11 R255). -/
  | tile (a : Nat)
  /-- Entries that have not entered, by lane; `uni`: one for the home group (05 R139). -/
  | push (q : Nat) (uni : Bool) (vals : List (Nat × DWord))
  /-- Lanes that have received no entry (05 R139). -/
  | pop (src : Bind) (d : Reg) (b64 : Bool)
  /-- Children of the team, by their place in its list (17 R367). -/
  | children (dst : Nat) (which : List Nat)
  /-- A collective barrier (11 R251). -/
  | cbar (id : BitVec 16)
  /-- The lanes of W that have not yet issued, exited or parked (04 R117). -/
  | yield (w : Lanes)
  /-- A call of the supervisor or the monitor (17 R372). -/
  | hvc (svc : BitVec 16)
  deriving DecidableEq, Repr

/-- CTR_BASE as a group sees it (16 R334): the number of the write that it has seen last, and the value. -/
structure CtrView where
  ver : Nat := 0
  val : Word := 0
  deriving DecidableEq, Repr

/-- Parked lanes: the blocking instruction, its successor, its place in issue order, what it waits for. `done`: the
wait has completed, with a trap or without, and is held until RFT; `held`: the lanes were parked when the handler was
entered; `running`: they run the handler all the same (04 R101). -/
structure Wait where
  lanes   : Lanes
  pc      : DWord
  next    : DWord
  order   : Nat
  kind    : WaitKind
  done    : Option (Option Trap) := none
  held    : Bool := false
  running : Bool := false
  /-- CTR_BASE as the group saw it when the lanes parked (16 R334). -/
  ctr     : CtrView := {}
  deriving DecidableEq, Repr

/-- A register, predicate, token or PCV entry whose stored bits hold an error (18 R381, R383): class (0 vector, 1 uniform,
2 predicate, 3 token, 4 PCV; 5 SPCV, the model's), index, lanes; `sev`: 0 transient, 1 correctable, 2 uncorrectable. -/
structure SoftErr where
  cls   : BitVec 4
  idx   : Byte
  lanes : Lanes
  sev   : Nat := 2
  deriving DecidableEq, Repr

/-- One part of a load that crosses a 128-byte line, read in a step of its own (08 R187): the lane and its address,
whether it is the second part, what it read. -/
structure Half where
  lane   : Nat
  addr   : Nat
  second : Bool
  value  : Nat
  deriving DecidableEq, Repr

/-- A group (04). Register files are Stores: v by 32 n + lane, s by n, p by i (a lane mask), the others by lane. -/
structure Group where
  v       : Store 32 := []
  s       : Store 32 := []
  p       : Store 32 := []
  tok     : List (Nat × Token) := []
  pcv     : Store 64 := []
  spcv    : Store 64 := []
  draw    : Store 32 := []
  rng     : Store 32 := []
  exited  : Lanes := 0
  waits   : List Wait := []
  gstat   : Word := 0
  mode    : Word := 0
  cause   : Word := 0
  tpc     : DWord := 0
  tlanes  : Lanes := 0
  info0   : Word := 0
  info1   : Word := 0
  info2   : Word := 0
  info3   : Word := 0
  handler : Bool := false
  serial  : Bool := false
  /-- Valid bit and recorded phase per barrier (11 R239). -/
  bphase  : List (Nat × Bool) := []
  /-- DRAIN holds the group until these commands have completed (08 R208). -/
  drain   : Option (List Nat) := none
  /-- Stopped at its trap, under the handle of its fault record (18 R375). -/
  stopped : Option Word := none
  /-- The live-mask word and the successor of the SP = 1 instruction that acted last (02 R46, 18 R378). -/
  safeAt  : Option (BitVec 61 × DWord × DWord) := none
  /-- Taken by a pre-emption: the live-mask word used, FLAGS.FORCED (18 R378). -/
  taken   : Option (BitVec 61 × Bool) := none
  /-- Lost dies whose DIELOST is pending (18 R388). -/
  lost    : BitVec 4 := 0
  soft    : List SoftErr := []
  /-- CTR_BASE as the group sees it. -/
  ctr     : CtrView := {}
  /-- Its next issue belongs to a formed issue (04 R96). -/
  formed  : Bool := false
  /-- Parts of a load that were read before the others, and the load's address (08 R187). -/
  half    : Option (DWord × List Half) := none
  /-- The group has ended and its slot is free (04 R98). -/
  ended   : Bool := false
  deriving DecidableEq, Repr

/-- A barrier's record (11 Table 11.2); `overrun`: PENDING as it stood before the last faulted completion (R238). -/
structure Barrier where
  pending  : BitVec 56 := 0
  phase    : Bool := false
  armed    : Bool := false
  touched  : Bool := false
  faulted  : Bool := false
  expset   : Bool := false
  expected : BitVec 6 := 0
  arrived  : BitVec 6 := 0
  overrun  : BitVec 56 := 0
  /-- CTR_BASE as the arrivals of this phase saw it, and as those of the completed phase did (16 R334). -/
  ctr      : CtrView := {}
  lastCtr  : CtrView := {}
  deriving DecidableEq, Repr

/-- A scratchpad queue (11 R240 to R242): the ring lies in the scratchpad window, the overflow area at OVF. `rd`: ring
position of the oldest entry; `cnt`: entries in the ring; `ohead`, `ocnt`: the overflow area; `fullSince`: when the
20 µs measure began. -/
structure Queue where
  init      : Bool := false
  ring      : Nat := 0
  cap       : Nat := 0
  allow     : BitVec 16 := 0
  ovf       : DWord := 0
  ovfmax    : Nat := 0
  rd        : Nat := 0
  cnt       : Nat := 0
  inOvf     : Bool := false
  ohead     : Nat := 0
  ocnt      : Nat := 0
  fullSince : Option Nat := none
  /-- CTR_BASE as the pushing group of each entry saw it, oldest first (16 R334). -/
  ctrs      : List CtrView := []
  deriving DecidableEq, Repr

/-- Tile states (11 Table 11.6, 15 R319): `dirB`: the direction of the tile's .first is .b. -/
inductive TileState where
  | seq
  | team
  | group (g : Nat)
  | sealed (dirB selecting : Bool)
  deriving DecidableEq, Repr

/-- An accumulator tile: FP32 words by 128 i + j; in X128 mode, words by 4 (128 i + j) + w in tile 0 or 4. -/
structure Tile where
  x128  : Bool := false
  state : TileState := .team
  /-- CTR_BASE as the group that released it last saw it (16 R334). -/
  ctr   : CtrView := {}
  data  : Store 32 := []
  deriving DecidableEq, Repr

/-- A selection row (15 Table 15.3, Table 15.4): `heap` in rank order (id, logit); `reserved` pool entries. -/
structure SelRow where
  m        : Word := 0xFF800000
  s        : Word := 0
  h        : BitVec 7 := 0
  nanf     : Bool := false
  lflag    : BitVec 4 := 0
  lid      : List Word := [0xFFFFFFFF, 0xFFFFFFFF, 0xFFFFFFFF, 0xFFFFFFFF]
  log      : List Word := [0, 0, 0, 0]
  heap     : List (Word × Word) := []
  reserved : Nat := 0
  deriving DecidableEq, Repr

/-- An operand-FIFO entry: a record with its FMTQ16 and CAP, or a BF16 tile (14 R295). -/
structure Entry where
  record : Bool
  q16    : Bool
  cap    : BitVec 6
  bytes  : List Byte
  deriving DecidableEq, Repr

/-- An MMS or VPROJ attempt (14 R304, R309): the instruction, its address, the slot records captured at its start, how
many entries of FA and FB it consumes. `bEven`: the team whose FB and B scales it reads, where paired (14 R302). -/
structure Attempt where
  ins    : Instr
  pc     : DWord
  aslot  : BitVec 512
  bslot  : BitVec 512
  posA   : Nat
  posB   : Nat
  bTeam  : Nat
  tile   : Nat
  params : BitVec 512 := 0
  selCfg : Word := 0
  deriving DecidableEq, Repr

/-- A selection or gradient stage (15 R321, R322, R328). -/
structure Stage where
  ins      : Instr
  pc       : DWord
  tile     : Nat
  dirB     : Bool
  params   : BitVec 512
  selCfg   : Word := 0
  row      : Nat := 0
  pending  : Bool := false
  branched : Bool := false
  deriving DecidableEq, Repr

/-- The matrix sequencer of a team (14 R291 to R294). `named`: the launch names a stream; `pc`: next or abandoned
address; `attempt`: an attempt that has started and waits; `running`: attempts that have consumed and not committed,
oldest first; `wait`: the barrier a BAR stalls on, with its phase and successor; `rendezvous`: the MMS.pair with which it
waits for its pair partner; `vout`: rows that a VOUT has written, its slot record and SEL_CFG as it read them; `vmrg`: SEL_CFG
as a VMRG that waits for its entries has read it; `silence`, `fetchWait`: since when no peer has answered a VOUT, or the
fetch; `endw`: the next instruction is the target of an SQWH.endw. -/
structure Seq where
  named      : Bool := false
  base       : DWord := 0
  pc         : DWord := 0
  cw         : Word := 0
  stat       : Word := 0
  bphase     : List (Nat × Bool) := []
  wait       : Option (Nat × Bool × DWord) := none
  attempt    : Option Attempt := none
  running    : List Attempt := []
  stage      : Option Stage := none
  resumeAt   : DWord := 0
  rendezvous : Option Instr := none
  fetchFault : Bool := false
  vout       : Option (Nat × BitVec 512 × Word) := none
  vmrg       : Option Word := none
  silence    : Option Nat := none
  fetchWait  : Option Nat := none
  endw       : Bool := false
  /-- CTR_BASE as the sequencer's waits have brought it here (16 R334). -/
  ctr        : CtrView := {}
  deriving DecidableEq, Repr

/-- A child grid of a team: its launch, its LAUNCH_ID, its status once it has retired (17 R367). -/
structure Child where
  launch : Nat
  lid    : Word
  status : Option Byte := none
  deriving DecidableEq, Repr

/-- Where a team is in its life (04 R87, R98; 18 R377). -/
inductive TeamPhase where
  | resident
  | saved
  | retiredPending
  | retired
  deriving DecidableEq, Repr

/-- A team. -/
structure Team where
  launch    : Nat
  linear    : Nat
  die       : Nat
  core      : Nat
  logical   : Nat
  phase     : TeamPhase := .resident
  groups    : List Group := []
  bars      : List Barrier := []
  queues    : List Queue := []
  qregs     : List (Nat × Bind) := []
  /-- Result-port entries not yet popped, per port (11 R243). -/
  ports     : List (List DWord) := [[], [], []]
  /-- Tensor-shape slots; an empty slot is not listed (11 R246). -/
  slots     : List (Nat × BitVec 512) := []
  tiles     : List Tile := []
  rows      : List SelRow := []
  scratch   : Store 8 := []
  seq       : Seq := {}
  fa        : List Entry := []
  fb        : List Entry := []
  /-- Scale slots, superscale latches, VALID bits (14 R298). -/
  scale     : Store 128 := []
  latch     : Store 32 := []
  valid     : Store 1 := []
  trapBase  : DWord := 0
  selCfg    : Word := 0
  rngKey    : Word := 0
  /-- CTR_BASE as it was written last. -/
  ctrBase   : CtrView := {}
  touched   : BitVec 4 := 0
  /-- A sequencer trap held while home group 0 is in handler mode (04 R101). -/
  heldTrap  : Option Trap := none
  /-- The held trap is one that the supervisor delivers, with its record's values (22 R406). -/
  heldGiven : Bool := false
  children  : List Child := []
  /-- When its pre-emption was requested (18 R377). -/
  preemptAt : Option Nat := none
  /-- The save area's address (18 R380). -/
  saveArea  : Option Nat := none
  /-- Bytes of a COLL that wait for its return to count on its barriers (18 R377). -/
  lateBytes : List (Nat × Nat) := []
  /-- SUPACT acts, OP and handle, that wait for its return (22 R406). -/
  answers   : List (Nat × Word) := []
  /-- Dies lost while it was saved, whose DIELOST its sequencer takes at its return (18 R388). -/
  seqLost   : BitVec 4 := 0
  hangDone  : Bool := false
  /-- When the hang threshold passes for the wait that all its parties are in (11 R247). -/
  hangAt    : Option Nat := none
  /-- Its place in start order (17 R356). -/
  order     : Nat := 0
  deriving DecidableEq, Repr

/-- Where a launch is in its life (17 R353, R357). -/
inductive LaunchPhase where
  /-- In the node table, waiting for predecessors. -/
  | node
  /-- In the ready pool, or with every team started. -/
  | ready
  /-- Its grid is to complete with a status, not run or cancelled. -/
  | ending (status : Byte)
  /-- Completed. -/
  | done (status : Byte)
  deriving DecidableEq, Repr

/-- A launch and its grid (17). -/
structure Launch where
  part    : Nat
  pkt     : BitVec 1024
  lid     : Word
  lineage : DWord
  /-- Secure or not, fixed when the launch starts (22 R415). -/
  world   : Bool
  parent  : Option Nat := none
  phase   : LaunchPhase := .ready
  prio    : BitVec 4 := 0
  sys     : Bool := false
  /-- The next team to start. -/
  next    : Nat := 0
  /-- Place in the ready pool (17 R353). -/
  order   : Nat := 0
  fcode   : Byte := 0
  fcount  : Nat := 0
  fteam   : Word := 0
  dieLost : Bool := false
  /-- It has been cancelled (17 R369). -/
  cancelled : Bool := false
  /-- The parent's team and TAG of a launch made with PORT (17 R366). -/
  port    : Option (Nat × BitVec 16) := none
  /-- The recording or replaying launch at the root of its trace (17 R363). -/
  trace   : Option Nat := none
  /-- The translation root in its context descriptor, where it is not the partition's (08 R180). -/
  ctxRoot : Option Nat := none
  deriving DecidableEq, Repr

/-- What a command does, with everything it read at issue. Slots are layout records; org is the origin block. -/
inductive CmdKind where
  | copy (op : Nat) (src dst : BitVec 512) (org : List Word) (e0 e1 : Nat) (xpose : Bool)
  | gather (op : Nat) (src dst idx : BitVec 512)
  | feed (fifo : Nat) (src : BitVec 512) (org : List Word) (e0 e1 : Nat)
  | enc (src body scl : BitVec 512) (org : List Word) (e0 e1 : Nat)
  | dec (bf16 : Bool) (body dst scl : BitVec 512) (org : List Word) (e0 e1 : Nat)
  | nmc (op : Nat) (blk : BitVec 512)
  | fork (src dst : DWord) (count : Nat)
  | coll (resume : Bool) (blk : BitVec 1024) (group : Nat) (rank : Nat)
  | packet (blk : BitVec 512)
  deriving DecidableEq, Repr

/-- A write of a command that is still to be performed at its destination (13 R269, R270): the item that makes it; global
memory at physical places, or the scratchpad; whether it is performed at once, not put to wait (devices); how it combines with
what stands there (13 R271); the value. -/
structure Held where
  item  : Nat
  sp    : Bool
  spans : List (Nat × Nat)
  dev   : Bool := false
  red   : Option (AtomOp × Ty) := none
  value : Nat
  deriving DecidableEq, Repr

/-- A command in flight (13 R262 to R269). `team` none: a packet of a shared queue; `root`, `sup`: whose pool its copies
take frames from, and its rights; `doneChunks`: chunks performed; `fault`: the chunk that a failing check stalls, with the
address; `info0`, `info1`, `tiles`: what a stopped ENC reports; `prog`: a collective's progress vector, `begun`: it has
been set, `ending`: the status that waits for CWORD. -/
structure Cmd where
  part   : Nat
  team   : Option Nat
  group  : Nat
  kind   : CmdKind
  bar    : Option Nat := none
  port   : Option (Nat × BitVec 16) := none
  die    : Nat := 0
  /-- The core it was issued from: die and number (08 R208, 13 R263). -/
  core   : Option (Nat × Nat) := none
  /-- Its own number, its place in the list of commands. -/
  id     : Nat := 0
  /-- Its writes are performed one by one, in the order of its own steps (13 R280, 15 R332, 17 R368). -/
  prompt : Bool := false
  /-- The scope of its issue and its completion (10 Table 10.2). -/
  scope  : Scope := .dev
  world  : Bool := false
  sup    : Bool := false
  root   : Nat := 0
  /-- The translation root of the context that issued it (08 R180). -/
  ctxRoot : Option Nat := none
  issued : Nat := 0
  chunks : Nat := 0
  doneChunks : List Nat := []
  /-- Bytes of each chunk whose checks have passed, from chunk 0 on: the first chunk that has still to pass them is their
  number (13 R269). -/
  sizes  : List Nat := []
  /-- Items of later chunks that have read their sources already, and the bytes of each (10 R217); a COLL's elements of chunks
  that are not final. -/
  early  : List (Nat × Nat) := []
  /-- Writes that are still to be performed, the latest first. -/
  held   : List Held := []
  /-- Index elements as they were read: row, index, and which of colliding rows remains (13 R284). -/
  rows   : List (Nat × Nat × Nat) := []
  /-- The item that makes the access (the model's own; 0 in a command that stands in the list). -/
  item   : Nat := 0
  /-- The sequencer's own accesses (15 R332). -/
  bySeq  : Bool := false
  /-- CTR_BASE as the issuing group saw it (16 R334). -/
  ctr    : CtrView := {}
  /-- Since when a peer has not answered it (22 R412). -/
  since  : Option Nat := none
  fault  : Option (Nat × DWord) := none
  status : Option Byte := none
  info0  : Word := 0
  info1  : Word := 0
  tiles  : Nat := 0
  prog   : List Nat := []
  begun  : Bool := false
  ending : Option Byte := none
  /-- Which of its group's collectives a COLL belongs to (13 R282). -/
  inst   : Nat := 0
  /-- The member's command that a COLL waits for a chunk of, and since when (13 R281). -/
  waitFor : Option (Nat × Nat) := none
  /-- Its send buffer as it stood when a COLL completed, for members that still need it (13 R276, R287). -/
  sent   : List Byte := []
  /-- LIVE as it stood at the issue, for shadow descriptors that PUBLISH has switched since (08 R196). -/
  lives  : List (Nat × Bool) := []
  /-- Its completion has been signalled: token, port entry, record (13 R269). -/
  signalled : Bool := false
  deriving DecidableEq, Repr

/-- A store that is not yet performed (08 R191, R194; 10 R216): its number, its threads (the lanes of a group, or the
command `eng`, issued by that group), physical address, bytes. `plain`: an ordinary store to local memory; `instr`: which
issue made it; `pre`: earlier stores that are performed for the threads of a scope once this one is; `due`: it is
performed as far as the threads of that scope can tell; `fenced`: a FENCE .rel or .ar at that scope has followed it. -/
structure Pending where
  id    : Nat
  team  : Nat
  group : Nat
  lanes : Lanes
  eng   : Option Nat := none
  addr  : Nat
  bytes : List Byte
  plain : Bool := false
  instr : Nat := 0
  pre   : List (Nat × Scope) := []
  due   : Option Scope := none
  fenced : Option Scope := none
  deriving DecidableEq, Repr

/-- A peer that has not answered a group's request (22 R412): since when; `expired`: the retry budget has run out. -/
structure Silent where
  peer    : Nat
  team    : Nat
  group   : Nat
  since   : Nat
  expired : Bool := false
  deriving DecidableEq, Repr

/-- A registered queue (13 R272): descriptor address, system flag, ROOT, world. -/
structure QueueReg where
  desc  : DWord
  sys   : Bool
  root  : BitVec 16
  world : Bool
  deriving DecidableEq, Repr

/-- A collective group (13 R275) and the barrier it runs (11 R251): members as their 8-byte entries; `here`: home
groups (team, group) that have issued CBAR; `arrived`: ranks that have arrived; `since`: the first arrival. -/
structure CollGroup where
  id       : BitVec 16
  scope    : Scope
  deadline : Word
  members  : List DWord
  here     : List (Nat × Nat) := []
  arrived  : List Nat := []
  since    : Option Nat := none
  deriving DecidableEq, Repr

/-- A completion or log record that waits for its ring (13 R274, 18 R384): the ring's descriptor address (virtual,
or physical for the error and fault rings), 32-byte slots, the SIGNAL word and its address. -/
structure Record where
  part    : Nat
  ring    : DWord
  phys    : Bool
  slots   : List (BitVec 256)
  signal  : DWord := 0
  launch  : Option Nat := none
  cmd     : Option Nat := none
  world   : Bool := false
  /-- The translation root of the launch whose ring it is (08 R180). -/
  ctxRoot : Option Nat := none
  deriving DecidableEq, Repr

/-- A record that stands in its ring (13 R274): the ring, the record's number, when it was written. -/
structure Unread where
  part  : Nat
  ring  : DWord
  phys  : Bool
  world : Bool
  index : Nat
  since : Nat
  ctxRoot : Option Nat := none
  deriving DecidableEq, Repr

/-- A stopped group's fault record (22 Table 22.1). -/
structure FaultRec where
  handle : Word
  team   : Nat
  group  : Nat
  trap   : Trap
  deriving DecidableEq, Repr

/-- A dispatch trace being recorded or replayed (17 R362 to R364): the root launch, the descriptor, entries written or
remaining, per-core start numbers, the current counter run of a slice (slice, team, requests). -/
structure Trace where
  root    : Nat
  replay  : Bool
  desc    : DWord
  count   : Nat := 0
  cap     : Nat := 0
  stopped : Bool := false
  incomplete : Bool := false
  overflow   : Bool := false
  starts  : List (Nat × Nat) := []
  runs    : List (Nat × Nat × Nat) := []
  served  : List (Nat × Nat) := []
  entries : List (BitVec 128) := []
  deriving DecidableEq, Repr

/-- A partition (22 R404). -/
structure Part where
  dies     : BitVec 4
  hangMs   : Nat
  saveBase : Nat
  saveSize : Nat
  saveUsed : List (Nat × Nat) := []
  errRing  : DWord
  faultRing : DWord
  started  : Bool
  /-- The translation root that the supervisor installs (08 R180). -/
  root     : Nat
  nextLid  : Word := 1
  nextSerial : Nat := 1
  nextHandle : Word := 1
  queues   : List QueueReg := []
  colls    : List CollGroup := []
  /-- Headers of the cache page lists that FORK has made (17 R368, R369). -/
  lists    : List Nat := []
  /-- Frame pools by ROOT (17 R352). -/
  pools    : List (Nat × List Nat) := []
  lostErrs : Nat := 0
  /-- TIME of the first error event that the full ring has lost (18 R384). -/
  lostAt   : Nat := 0
  /-- Error entries of the last millisecond that stand in the error ring: number, address, entry (18 R384). -/
  recent   : List (Nat × Nat × BitVec 256) := []
  image    : List Byte := []
  /-- The public key of the system image. -/
  key      : BitVec 256 := 0
  deriving DecidableEq, Repr

/-- A die (01 R15; 18 R386, R387). `secure`, `engines`: the world that its granules and its copy engines begin in (22 R405).
`linkSince`: since when its links have been unusable; `linkState`: 0 up, 1 waking, 2 retraining. -/
structure Die where
  headroom  : BitVec 16 := 0
  carve     : Nat := 0
  secure    : Bool := false
  engines   : Bool := false
  lost      : Bool := false
  clocked   : Bool := false
  lastBeat  : Nat := 0
  linkState : Nat := 0
  linkSince : Nat := 0
  deriving DecidableEq, Repr

/-- Where the boot of the part stands (22 R401). -/
inductive Boot where
  | off
  | recovery
  | monitor
  deriving DecidableEq, Repr

/-- A hardware semaphore (22 R409). -/
structure Sem where
  held  : Bool := false
  owner : Bool := false
  deriving DecidableEq, Repr

/-- A UALink station (22 R411). -/
structure Station where
  width    : BitVec 3 := 4
  compress : Bool := false
  secure   : Bool := false
  deriving DecidableEq, Repr

/-- An ECC error in storage (18 R381): where it lies, and whether a second read corrects it. SOURCE as Table 18.6; the
address is physical for memory; for a core SRAM it is the offset, with the team. -/
structure EccErr where
  source : BitVec 4
  unit   : BitVec 16
  die    : BitVec 4
  team   : Option Nat
  addr   : Nat
  /-- 0 transient, 1 correctable, 2 uncorrectable. -/
  cls    : Nat
  deriving DecidableEq, Repr

/-- Who issues the instruction that exec gives meaning to. -/
inductive Agent where
  | none
  | group (t g : Nat)
  | seq (t : Nat)
  deriving DecidableEq, Repr

/-- What the monitor puts into a world (22 R407): a 2 MiB granule, a host port, a link station, the copy engines of a die. -/
inductive Assigned where
  | granule (n : Nat)
  | port (second : Bool)
  | station (n : Nat)
  | engines (die : Nat)
  deriving DecidableEq, Repr

/-- A scheduled move: an agent issues, a step of the part takes place, an error arises (log 4). -/
inductive Move where
  | issue (a : Agent)
  | event (i : Instr)
  /-- An error arises in storage, or in a register of group g of team t (18 R381, R383; log 119). -/
  | strike (e : EccErr)
  | soft (t g : Nat) (e : SoftErr)
  /-- The monitor assigns a world (22 R407; log 85). -/
  | assign (x : Assigned) (secure : Bool)
  deriving DecidableEq, Repr

/-- Why the machine stops with a fault. -/
inductive Fault where
  /-- exec was asked for an instruction of a stream while no agent of that kind issues (raised by the drivers of
  Machine/Ops.lean; step never asks so: log 3). Safe. -/
  | noIssuer
  deriving DecidableEq, Repr

/-- Why an instruction has no meaning. -/
inductive Refusal where
  /-- No meaning yet, by mnemonic (raised by the arms of Dispatch). Safe. -/
  | notModelled (mnemonic : String)
  deriving DecidableEq, Repr

/-- The part. -/
structure State where
  -- the model's own fields (log 4)
  cur      : Agent
  agenda   : List Move
  tick     : Nat
  -- time (04 R108)
  cycle    : Nat
  timeBase : Nat
  -- boot, power, host ports (22)
  powered  : Bool
  boot     : Boot
  flash    : List Byte
  window   : List Byte
  recStatus : DWord
  sems     : List Sem
  tieBit   : Bool
  mailbox  : DWord
  /-- The request in the partition mailbox, and the port that rang for it last (22 R405). -/
  request  : List Byte
  rungBy   : Bool
  semRead  : List Word
  hostData : List (List Byte)
  quotes   : List (List Byte)
  /-- What remote requests of peers were answered (08 R179). -/
  peerData : List (List Byte)
  /-- Dies whose thermal trip the management complex has logged to flash (22 R414). -/
  trips    : List Nat
  monitor  : List Byte
  /-- Where the monitor's payload was copied to, and where it was started (22 R403). -/
  monLoad  : DWord
  monEntry : DWord
  -- the package (01, 08)
  dies     : List Die
  /-- 2 MiB granules that the monitor has assigned to another world than their die began in (22 R407). -/
  worlds   : List (Nat × Bool)
  /-- The world of each host port (22 R407). -/
  portSecure : List Bool
  stations : List Station
  mem      : Memory
  /-- Stores that wait, the due ones first. -/
  buffer   : List Pending
  /-- The number of the next store (the model's own). -/
  nextStore : Nat
  /-- Reference counts of 64 KiB frames, by frame number (08 R198). -/
  frames   : Store 16
  /-- Device registers of each partition, by byte: partition × 2^33 + offset (22 R406, R412). -/
  devRegs  : Store 8
  /-- Requests that a peer has not answered (22 R412). -/
  silent   : List Silent
  ecc      : List EccErr
  /-- Cores whose clock or power is gated: (die, core, state 1 clock 2 power) (11 R247). -/
  gates    : List (Nat × Nat × Nat)
  /-- When a core began to wait (11 R247). -/
  coreIdle : List (Nat × Nat × Nat)
  /-- Interrupts raised: (port vector, ring) (13 R274). -/
  interrupts : List (BitVec 16 × DWord)
  /-- Records of rings with a time trigger, until they are read or the trigger has fired (13 R274). -/
  unread   : List Unread
  -- work (13, 17, 18)
  parts    : List (Nat × Part)
  launches : List Launch
  teams    : List Team
  cmds     : List Cmd
  records  : List Record
  faults   : List FaultRec
  traces   : List Trace
  deriving DecidableEq, Repr

/-- The part right after reset, before the boot ROM's first step (22 R401): no partition, no launch, no team. -/
def State.reset : State :=
  { cur := .none, agenda := [], tick := 0, cycle := 0, timeBase := 0, powered := true, boot := .off,
    flash := Config.flashImage, window := [], recStatus := 0, sems := List.replicate 16 {}, tieBit := false, mailbox := 0,
    request := [], rungBy := false, semRead := [], hostData := [], quotes := [], peerData := [], trips := [], monitor := [],
    monLoad := 0, monEntry := 0, dies := List.replicate 4 {}, worlds := [], portSecure := [false, false],
    stations := List.replicate 32 {}, mem := [], buffer := [], nextStore := 0, frames := [], devRegs := [], silent := [], ecc := [],
    gates := [], coreIdle := [], interrupts := [], unread := [], parts := [], launches := [], teams := [],
    cmds := [], records := [], faults := [], traces := [] }

end Sys2Proof.Machine
end

