-- ==== Sys2Proof/Machine/Bits.lean ====
section
/-! DEFINITION. Bit fields, lane sets, and the access paths to the parts of the state. -/

namespace Sys2Proof.Machine

/-- What a meaning answers. -/
abbrev Res := Host.Outcome State Fault Refusal

/-! Fields of numbers. -/

/-- Bits [lo + n − 1 : lo] of a number. -/
def fld (x lo n : Nat) : Nat := (x >>> lo) % 2 ^ n
/-- Bit i of a number. -/
def bitOf (x i : Nat) : Bool := x.testBit i
/-- The number with bits [lo + n − 1 : lo] replaced. -/
def setFld (x lo n v : Nat) : Nat := x - (fld x lo n <<< lo) + ((v % 2 ^ n) <<< lo)
/-- The value of w-bit two's complement. -/
def sgn (w x : Nat) : Int := if x % 2 ^ w < 2 ^ (w - 1) then (x % 2 ^ w : Nat) else (x % 2 ^ w : Nat) - (2 ^ w : Nat)
/-- An integer modulo 2^w. -/
def wrap (w : Nat) (x : Int) : Nat := (x % (2 ^ w : Nat)).toNat
/-- SAT(x, lo, hi) of 00 Table 0.3. -/
def sat (x lo hi : Int) : Int := if x < lo then lo else if x > hi then hi else x
/-- A bit as a number. -/
def b2n (b : Bool) : Nat := if b then 1 else 0
/-- Rounded up to a multiple of k. -/
def roundUp (x k : Nat) : Nat := (x + k - 1) / k * k
/-- The quotient rounded up. -/
def ceilDiv (x k : Nat) : Nat := (x + k - 1) / k
/-- Every element of a list but those that p names. -/
def without {α : Type} (l : List α) (p : α → Bool) : List α := l.filter fun x => !(p x)

/-! Lane sets. -/

/-- The set of one lane. -/
def laneBit (l : Nat) : Lanes := BitVec.ofNat 32 (1 <<< l)
/-- The lanes of a set, ascending (04 R93). -/
def lanes (m : Lanes) : List Nat := (List.range 32).filter fun l => m.getLsbD l
/-- The lowest lane. -/
def lowest (m : Lanes) : Nat := (lanes m).headD 0
/-- A set from a test of each lane. -/
def laneSet (p : Nat → Bool) : Lanes := BitVec.ofNat 32 ((List.range 32).foldl (fun a l => a + (if p l then 1 <<< l else 0)) 0)
/-- The values at the lanes of a set. -/
def setLanes {w : Nat} (m : Store w) (ls : Lanes) (f : Nat → BitVec w) : Store w :=
  (lanes ls).foldl (fun a l => a.set l (f l)) m

/-! Association lists with small keys. -/

/-- The value of a key. -/
def kGet {α : Type} : List (Nat × α) → Nat → Option α
  | [], _ => none
  | (k, v) :: m, a => if k = a then some v else kGet m a
/-- The key taken out. -/
def kErase {α : Type} (m : List (Nat × α)) (a : Nat) : List (Nat × α) := m.filter fun e => e.1 != a
/-- The key put in, in rising order. -/
def kSet {α : Type} : List (Nat × α) → Nat → α → List (Nat × α)
  | [], a, x => [(a, x)]
  | (k, v) :: m, a, x => if a < k then (a, x) :: (k, v) :: m else if k = a then (a, x) :: m else (k, v) :: kSet m a x

/-! Access paths. -/

/-- What an index outside the list of teams reads as. -/
def noTeam : Team := { launch := 0, linear := 0, die := 0, core := 0, logical := 0, phase := .retired }
/-- What an index outside the list of launches reads as. -/
def noLaunch : Launch := { part := 0, pkt := 0, lid := 0, lineage := 0, world := false, phase := .done 5 }
/-- The later of two views of CTR_BASE (16 R334). -/
def laterCtr (a b : CtrView) : CtrView := if a.ver < b.ver then b else a
/-- What an absent partition reads as. -/
def noPart : Part :=
  { dies := 0, hangMs := 5000, saveBase := 0, saveSize := 0, errRing := 0, faultRing := 0, started := false, root := 0 }

end Sys2Proof.Machine

namespace Sys2Proof.Machine

/-- Team t. -/
def State.team (s : State) (t : Nat) : Team := s.teams.getD t noTeam
/-- Team t changed. -/
def State.modTeam (s : State) (t : Nat) (f : Team → Team) : State := { s with teams := s.teams.modify t f }
/-- Group g of a team. -/
def Team.group (tm : Team) (g : Nat) : Group := tm.groups.getD g {}
def Team.modGroup (tm : Team) (g : Nat) (f : Group → Group) : Team := { tm with groups := tm.groups.modify g f }
/-- Group g of team t. -/
def State.grp (s : State) (t g : Nat) : Group := (s.team t).group g
/-- Group g of team t changed. -/
def State.modGrp (s : State) (t g : Nat) (f : Group → Group) : State := s.modTeam t fun tm => tm.modGroup g f
/-- Launch n. -/
def State.launch (s : State) (n : Nat) : Launch := s.launches.getD n noLaunch
def State.modLaunch (s : State) (n : Nat) (f : Launch → Launch) : State := { s with launches := s.launches.modify n f }
/-- The launch of team t. -/
def State.launchOf (s : State) (t : Nat) : Launch := s.launch (s.team t).launch
/-- Partition p. -/
def State.part (s : State) (p : Nat) : Part := (kGet s.parts p).getD noPart
def State.modPart (s : State) (p : Nat) (f : Part → Part) : State :=
  match kGet s.parts p with
  | some x => { s with parts := kSet s.parts p (f x) }
  | none => s
/-- The partition of team t. -/
def State.partOf (s : State) (t : Nat) : Part := s.part (s.launchOf t).part
/-- Command c. -/
def State.cmd? (s : State) (c : Nat) : Option Cmd := s.cmds[c]?
def State.modCmd (s : State) (c : Nat) (f : Cmd → Cmd) : State := { s with cmds := s.cmds.modify c f }
/-- Die d. -/
def State.die (s : State) (d : Nat) : Die := s.dies.getD d {}
def State.modDie (s : State) (d : Nat) (f : Die → Die) : State := { s with dies := s.dies.modify d f }

/-- Bytes or entries arrive at team t's core: its gating ends, and its wait is measured anew (11 R247). -/
def arrival (t : Nat) (s : State) : State :=
  let here (e : Nat × Nat × Nat) : Bool := e.1 == (s.team t).die && e.2.1 == (s.team t).core
  { s with gates := without s.gates here, coreIdle := without s.coreIdle here }

/-- A group acquires: it sees CTR_BASE as late as the releasing side did (16 R334). -/
def seeCtr (t g : Nat) (v : CtrView) (s : State) : State := s.modGrp t g fun gr => { gr with ctr := laterCtr gr.ctr v }

/-- Every group of the team sees it. -/
def shareCtr (t : Nat) (v : CtrView) (s : State) : State :=
  s.modTeam t fun tm => { tm with groups := tm.groups.map fun gr => { gr with ctr := laterCtr gr.ctr v } }

/-! The launch packet (17 Table 17.1). -/

def Launch.f (l : Launch) (lo n : Nat) : Nat := fld l.pkt.toNat lo n
def Launch.code (l : Launch) : DWord := BitVec.ofNat 64 (l.f 64 64)
def Launch.stream (l : Launch) : DWord := BitVec.ofNat 64 (l.f 128 64)
def Launch.gx (l : Launch) : Nat := l.f 192 32
def Launch.gy (l : Launch) : Nat := l.f 224 32
def Launch.gz (l : Launch) : Nat := l.f 256 32
def Launch.teamCount (l : Launch) : Nat := l.gx * l.gy * l.gz
def Launch.groups (l : Launch) : Nat := l.f 288 5 + 1
/-- Declared vector and uniform registers, barriers, queues, scratchpad bytes, tiles, selection rows. -/
def Launch.vregs (l : Launch) : Nat := (l.f 293 5 + 1) * 8
def Launch.sregs (l : Launch) : Nat := l.f 298 7
def Launch.bars (l : Launch) : Nat := l.f 305 9
def Launch.nqueues (l : Launch) : Nat := l.f 314 5
def Launch.scratchBytes (l : Launch) : Nat := l.f 320 11 * 1024
def Launch.accs (l : Launch) : Nat := l.f 331 4
def Launch.selRows (l : Launch) : Nat := l.f 335 8
/-- DEPTH (04 R99), in the LINEAGE (17 R351). -/
def Launch.depth (l : Launch) : Nat := fld l.lineage.toNat 16 4

/-- Team coordinates (04 R85). -/
def Team.x (tm : Team) (l : Launch) : Nat := tm.linear % l.gx
def Team.y (tm : Team) (l : Launch) : Nat := tm.linear / l.gx % l.gy
def Team.z (tm : Team) (l : Launch) : Nat := tm.linear / (l.gx * l.gy)

/-! Groups. -/

/-- Lanes that are parked (04 R91): those of waits whose lanes do not run the handler. -/
def Group.parked (g : Group) : Lanes :=
  g.waits.foldl (fun a w => if w.running then a else a ||| w.lanes) 0
/-- Lanes that have neither exited nor parked. -/
def Group.active (g : Group) : Lanes := ~~~(g.exited ||| g.parked)
/-- The least PCV entry among some lanes (04 R90 step 1). -/
def leastPc (pcv : Store 64) (ls : Lanes) : DWord :=
  BitVec.ofNat 64 ((lanes ls).foldl (fun a l => min a (pcv.get l).toNat) (2 ^ 64 - 1))
/-- The issue address. -/
def Group.issuePc (g : Group) : DWord := leastPc g.pcv g.active
/-- The lanes of a set whose PCV entry is a (04 R90 step 2). -/
def lanesAt (pcv : Store 64) (ls : Lanes) (a : DWord) : Lanes := laneSet fun l => ls.getLsbD l && pcv.get l == a
/-- The issue set. -/
def Group.issueSet (g : Group) : Lanes := lanesAt g.pcv g.active g.issuePc
/-- Predicate i of every lane; p0 reads true (02 R34). -/
def Group.pred (g : Group) (i : Nat) : Lanes := if i = 0 then -1 else g.p.get i
/-- A write of predicate i for the lanes of m; a write of p0 is ignored (04 R122). -/
def Group.setPred (g : Group) (i : Nat) (m v : Lanes) : Group :=
  if i = 0 then g else { g with p := g.p.set i ((g.p.get i &&& ~~~m) ||| (v &&& m)) }
/-- The lanes that a guard selects (02 R34). -/
def Group.guard (g : Group) (h : Hdr) : Lanes := if h.pn then ~~~(g.pred h.pg.toNat) else g.pred h.pg.toNat
/-- The token register k. -/
def Group.token (g : Group) (k : Nat) : Token := (kGet g.tok k).getD .empty
def Group.setToken (g : Group) (k : Nat) (t : Token) : Group :=
  { g with tok := if t = .empty then kErase g.tok k else kSet g.tok k t }

/-- The sequential successor (02 R32): past the fill at offset 28 of a fetch block. -/
def nextAddr (a : DWord) (size : Nat) : DWord :=
  let n := a + BitVec.ofNat 64 size
  if n.toNat % 32 = 28 then n + 4 else n

end Sys2Proof.Machine
end

