-- ==== Sys2Proof/Machine/Ops.lean ====
section
/-! DEFINITION. The shared operations: time, records, taking a trap and returning from it, parked waits, and the two
drivers under which every instruction of a stream acts. -/

namespace Sys2Proof.Machine

/-! Time and records. -/

/-- TIME in nanoseconds: the core clock is 1.0 GHz (04 R108, 01 R18). -/
def now (s : State) : Nat := s.timeBase + s.cycle

/-- A number from fields (width, value), the lowest first. -/
def pack : List (Nat × Nat) → Nat
  | [] => 0
  | (w, v) :: r => v % 2 ^ w + 2 ^ w * pack r

/-- Values of traps and states as fields. -/
def wN (w : Word) : Nat := w.toNat

/-- TRAP_CAUSE of a trap (04 Table 4.5). -/
def causeOf (tr : Trap) : Word := BitVec.ofNat 32 (pack [(8, tr.code.toNat), (1, b2n tr.seq), (1, b2n tr.nest)])

/-- A record is put where it waits for its ring (13 R274). -/
def queueRecord (r : Record) (s : State) : State := { s with records := s.records ++ [r] }

/-- The slot of an error-log entry (18 Table 18.6). -/
def logSlot (time kind die source unit count addr launch : Nat) : BitVec 256 :=
  BitVec.ofNat 256 (pack [(64, time), (8, kind), (4, die), (4, source), (16, unit), (32, count), (52, addr), (12, 0),
    (32, launch)])

/-- A repeat at one address within one millisecond of a log entry that still waits (18 R384). -/
def sameEntry (a b : BitVec 256) : Bool :=
  fld a.toNat 64 32 == fld b.toNat 64 32 && fld a.toNat 128 52 == fld b.toNat 128 52 &&
    fld b.toNat 0 64 - fld a.toNat 0 64 ≤ 1000000

/-- COUNT raised by one, saturating. -/
def mergeEntry (a : BitVec 256) : BitVec 256 :=
  BitVec.ofNat 256 (setFld a.toNat 96 32 (min (fld a.toNat 96 32 + 1) (2 ^ 32 - 1)))

/-- The entry with a number has not been consumed, so that its slot still holds it: CIDX has not passed it (13 R274). -/
def unreadEntry (s : State) (ring : DWord) (k : Nat) : Bool := 
  decide ((k + 2 ^ 64 - s.mem.readLe (ring.toNat + 24) 8) % 2 ^ 64 < 2 ^ 63)

/-- An error event goes to the error ring of partition p; a repeat at one address within one millisecond raises the COUNT
of the entry, which waits or stands in the ring (18 R384). -/
def logError (p kind die source unit addr launch : Nat) (s : State) : State :=
  let e := logSlot (now s) kind die source unit 1 addr launch
  let ring := (s.part p).errRing
  let mine (r : Record) : Bool := r.part == p && r.phys && r.ring == ring && (r.slots.headD 0 |> fun a => sameEntry a e)
  if s.records.any mine then
    { s with records := s.records.map fun r => if mine r then { r with slots := r.slots.map mergeEntry } else r }
  else match (s.part p).recent.find? fun x => sameEntry x.2.2 e && unreadEntry s ring x.1 with
    | some x =>
      { s with mem := s.mem.writeLe (x.2.1 + 12) 4 (fld (mergeEntry x.2.2).toNat 96 32) }.modPart p fun pt =>
        { pt with recent := pt.recent.map fun y => if y == x then (y.1, y.2.1, mergeEntry y.2.2) else y }
    | none => queueRecord { part := p, ring := ring, phys := true, slots := [e] } s

/-- The two slots of a fault record (22 Table 22.1). -/
def faultSlots (h : Word) (tr : Trap) (lid : Word) (lin : DWord) : List (BitVec 256) :=
  let n := pack [(32, h.toNat), (32, (causeOf tr).toNat), (64, tr.pc.toNat), (32, tr.lanes.toNat), (32, tr.i0.toNat),
    (32, tr.i1.toNat), (32, tr.i2.toNat), (32, tr.i3.toNat), (32, lid.toNat), (64, lin.toNat)]
  [BitVec.ofNat 256 n, BitVec.ofNat 256 (n / 2 ^ 256)]

/-! Taking a trap (04 R101, 18 R373). -/

/-- Traps that go to the partition supervisor whatever TRAP_BASE is: PRIV, XLAT, WORLD, UNCOR, DIELOST (18 Table 18.1). -/
def routeS (code : Byte) : Bool := code == 0x03 || code == 0x06 || code == 0x08 || code == 0x09 || code == 0x12

/-- PCV with the listed lanes at TRAP_PC: what SPCV takes (04 R101). -/
def listedPcv (tr : Trap) (g : Group) : Store 64 := setLanes g.pcv (tr.lanes &&& ~~~g.exited) fun _ => tr.pc

/-- The soft errors of a group whose lanes of `run` enter a handler: SPCV takes the PCV entries, so it takes their errors
(the model's class 5), but for the listed lanes (18 R383). -/
def enterSoft (listed run : Lanes) (es : List SoftErr) : List SoftErr :=
  (es.flatMap fun e =>
    if e.cls == 4 then [{ e with lanes := e.lanes &&& ~~~run }, { e with cls := 5, lanes := e.lanes &&& run &&& ~~~listed }]
    else [e]).filter fun e => e.lanes != 0

/-- Handler entry (04 R101): the trap registers, SPCV, the lanes of `run` to TRAP_BASE, handler mode. -/
def enterHandler (base : DWord) (tr : Trap) (run : Lanes) (g : Group) : Group :=
  { g with
    cause := causeOf tr, tpc := tr.pc, tlanes := tr.lanes, info0 := tr.i0, info1 := tr.i1, info2 := tr.i2,
    info3 := tr.i3, spcv := listedPcv tr g, pcv := setLanes (listedPcv tr g) run fun _ => base,
    waits := g.waits.map fun w => { w with held := true, running := w.running || (w.lanes &&& run) != 0 },
    soft := enterSoft tr.lanes run g.soft, half := none, handler := true }

/-- A trap goes to the partition supervisor (18 R375, 22 R406): the group stops in place (`stop`; a sequencer trap
leaves it running: log 20), a fault record is written. -/
def toSupervisor (t g : Nat) (stop : Bool) (tr : Trap) (s : State) : State :=
  let l := s.launchOf t
  let p := s.part l.part
  let h := p.nextHandle
  let s := s.modPart l.part fun p => { p with nextHandle := if h + 1 = 0 then 1 else h + 1 }
  let s := if stop then s.modGrp t g fun gr => { gr with stopped := some h } else s
  let s := { s with faults := s.faults ++ [{ handle := h, team := t, group := g, trap := tr }] }
  queueRecord { part := l.part, ring := p.faultRing, phys := true, slots := faultSlots h tr l.lid l.lineage } s

/-- TAKING A TRAP raised by lanes of group g of team t: handler, or supervisor with NEST where the group is in handler
mode (04 R101, 18 R373). Lanes of a wait that ended in the trap are parked no more. -/
def takeTrap (t g : Nat) (tr : Trap) (s : State) : State :=
  let tm := s.team t
  let gr := tm.group g
  if gr.handler then toSupervisor t g true { tr with nest := true } s
  else if routeS tr.code || tm.trapBase == 0 then toSupervisor t g true tr s
  else s.modGrp t g fun gr => enterHandler tm.trapBase tr gr.active gr

/-- TRAP_PC and TRAP_LANES of a sequencer trap, and the lanes that enter the handler (04 R101): group 0's issue address
and its lanes there; with every lane parked, no lane and the least entry of the parked ones, which run the handler. -/
def seqTrapAt (g : Group) : DWord × Lanes × Lanes :=
  if g.active = 0 then (leastPc g.pcv (~~~g.exited), 0, ~~~g.exited)
  else (g.issuePc, g.issueSet, g.active)

/-- All lanes have exited: the group has ended, though its slot may wait for its tokens' operations (04 R98). -/
def Group.over (g : Group) : Bool := g.ended || g.exited == -1

/-- A sequencer trap goes to home group 0 (04 R101, 14 R307), is held while that group is in handler mode, and goes to
the supervisor where that group has ended or no handler can take it. A group 0 that is stopped at the supervisor enters
the handler all the same (DESIGN CHOICE, log 103). -/
def deliverSeqTrap (t : Nat) (tr : Trap) (s : State) : State :=
  let tm := s.team t
  let g := tm.group 0
  let at0 := seqTrapAt g
  let tr := { tr with seq := true, pc := if g.over then 0 else at0.1, lanes := if g.over then 0 else at0.2.1 }
  if g.handler && !g.over then s.modTeam t fun tm => { tm with heldTrap := some tr }
  else if g.over || routeS tr.code || tm.trapBase == 0 then toSupervisor t 0 false tr s
  else s.modGrp t 0 (enterHandler tm.trapBase tr at0.2.2)

/-- A sequencer trap enters the handler of group 0 with the values it has (22 R406). -/
def giveSeqTrap (t : Nat) (tr : Trap) (s : State) : State :=
  s.modGrp t 0 (enterHandler (s.team t).trapBase tr (seqTrapAt (s.grp t 0)).2.2)

/-! SEQ_STAT (14 Table 14.1). -/

def statRun : Nat := 0
def statStopped : Nat := 1
def statEnded : Nat := 2
/-- SEQ_STAT with one bit set or cleared. -/
def setStatBit (i : Nat) (b : Bool) (x : Word) : Word := BitVec.ofNat 32 (setFld x.toNat i 1 (b2n b))
def setWaitKind (k : Nat) (x : Word) : Word := BitVec.ofNat 32 (setFld x.toNat 3 4 k)
def setLastTrap (c : Byte) (x : Word) : Word := BitVec.ofNat 32 (setFld x.toNat 7 8 c.toNat)
/-- REPLAYS counts one more abandoned attempt, saturating at 127. -/
def countReplay (x : Word) : Word := BitVec.ofNat 32 (setFld x.toNat 19 7 (min (fld x.toNat 19 7 + 1) 127))
/-- Sticky flags NV, OF, XOVF, XNAN at [18:15]. -/
def orStatFlags (f : BitVec 4) (x : Word) : Word := x ||| (f.setWidth 32 <<< 15)
def State.modSeq (s : State) (t : Nat) (f : Seq → Seq) : State := s.modTeam t fun tm => { tm with seq := f tm.seq }

/-- The sequencer stops at a trap: LASTTRAP, STOPPED; RESUME restarts it at `resume` (04 R106, 14 R305). -/
def raiseSeqTrap (t : Nat) (tr : Trap) (resume : DWord) (s : State) : State :=
  let s := s.modSeq t fun q =>
    { q with stat := setWaitKind 0 (setStatBit statRun false (setStatBit statStopped true (setLastTrap tr.code q.stat))),
             pc := resume, resumeAt := resume, wait := none, attempt := none, rendezvous := none, vmrg := none }
  deliverSeqTrap t tr s

/-! Rights (04 R100, 02 R52). -/

def supervisor (s : State) (t g : Nat) : Bool := (s.grp t g).handler || (s.launchOf t).sys

/-! Parked waits. -/

/-- The wait at place k taken out. -/
def Group.dropWait (g : Group) (k : Nat) : Group := { g with waits := g.waits.eraseIdx k }

/-- The lanes of a completed wait leave it: to the successor, or to the trap that ended it (04 R91, 11 R238). -/
def leaveWait (t g k : Nat) (w : Wait) (out : Option Trap) (s : State) : State :=
  match out with
  | none => s.modGrp t g fun gr =>
      { gr.dropWait k with pcv := setLanes gr.pcv (w.lanes &&& ~~~gr.exited) fun _ => w.next }
  | some tr =>
      let s := s.modGrp t g fun gr =>
        { gr.dropWait k with pcv := setLanes gr.pcv (w.lanes &&& ~~~gr.exited) fun _ => tr.pc }
      takeTrap t g { tr with lanes := w.lanes } s

/-- A wait completes: at once, or only noted while its lanes are held by a handler, its group is stopped, or taken
(04 R101, 18 R375, R379). -/
def completeWait (t g k : Nat) (out : Option Trap) (s : State) : State :=
  let gr := s.grp t g
  match gr.waits[k]? with
  | none => s
  | some w =>
    if w.held || gr.stopped.isSome || gr.taken.isSome || (s.team t).phase != .resident then
      s.modGrp t g fun gr => { gr with waits := gr.waits.set k { w with done := some out } }
    else leaveWait t g k w out s

/-- The place of the first wait that has completed and is held no more. -/
def firstDone (g : Group) : Option Nat := g.waits.findIdx? fun w => w.done.isSome && !w.held

/-- Waits that completed while they were held leave now; a trap among them enters the handler, which holds the rest. -/
def releaseDone (t g : Nat) : Nat → State → State
  | 0, s => s
  | n + 1, s =>
    match firstDone (s.grp t g) with
    | none => s
    | some k =>
      match (s.grp t g).waits[k]? with
      | some w => releaseDone t g n (leaveWait t g k w (w.done.getD none) s)
      | none => s

/-- A soft error of team t's core is logged: KIND 6, SOURCE 0, the core (18 R384). -/
def logSoft (t : Nat) (s : State) : State :=
  let tm := s.team t
  let l := s.launchOf t
  logError l.part 6 tm.die 0 tm.core 0 l.lid.toNat s

/-- The errors that stay when a group's soft errors change; those that go are logged (18 R383). -/
def changeSoft (t g : Nat) (f : List SoftErr → List SoftErr) (s : State) : State :=
  let es := (s.grp t g).soft
  if es.isEmpty then s
  else ((es.filter fun e => !((f es).any fun x => x.cls == e.cls && x.idx == e.idx)).foldl (fun s _ => logSoft t s) s).modGrp
    t g fun gr => { gr with soft := f es }

/-- RFT writes the PCV entries of `go`: the unlisted lanes take SPCV with its errors. -/
def leaveSoft (listed go : Lanes) (es : List SoftErr) : List SoftErr :=
  (es.map fun e =>
    if e.cls == 5 then { e with cls := 4, lanes := e.lanes &&& go &&& ~~~listed }
    else if e.cls == 4 then { e with lanes := e.lanes &&& ~~~go }
    else e).filter fun e => e.lanes != 0

/-- Where the lanes of a wait stand: at the blocking instruction, or past a YIELD (04 R91, R117). -/
def Wait.stand (w : Wait) : DWord :=
  match w.kind with
  | .yield _ => w.next
  | _ => w.pc
/-- The lanes of the waits that a handler holds. -/
def Group.heldLanes (g : Group) : Lanes := g.waits.foldl (fun a w => if w.held then a ||| w.lanes else a) 0

/-- RFT: the return from a trap (04 R119). Held lanes go back to their waits; of the others, those that parked inside the
handler too (log 21), the listed ones go to TRAP_PC and the rest to SPCV. Then completed waits leave, and a held sequencer
trap is delivered (04 R101, 18 R376). -/
def returnFromTrap (t g : Nat) (s : State) : State :=
  let gr := s.grp t g
  let s := changeSoft t g (leaveSoft gr.tlanes (~~~(gr.exited ||| gr.heldLanes))) s
  let s := s.modGrp t g fun gr =>
    let go := ~~~(gr.exited ||| gr.heldLanes)
    let pcv := setLanes gr.pcv go fun l => if gr.tlanes.getLsbD l then gr.tpc else gr.spcv.get l
    let pcv := gr.waits.foldl (fun p w => if w.held then setLanes p (w.lanes &&& ~~~gr.exited) fun _ => w.stand else p) pcv
    { gr with pcv := pcv, handler := false,
              waits := (gr.waits.filter fun w => w.held).map fun w => { w with held := false, running := false } }
  let s := releaseDone t g ((s.grp t g).waits.length) s
  match (s.team t).heldTrap with
  | some tr =>
    if g == 0 && !(s.grp t g).handler then
      let s1 := s.modTeam t fun tm => { tm with heldTrap := none, heldGiven := false }
      if (s.team t).heldGiven then giveSeqTrap t tr s1 else deliverSeqTrap t tr s1
    else s
  | none => s

/-! The SIMT driver (04 R90, 02 R53). -/

/-- An issue: team, home group, address, successor, issue set, eligible set. -/
structure Ctx where
  t    : Nat
  g    : Nat
  pc   : DWord
  next : DWord
  I    : Lanes
  E    : Lanes

/-- What an instruction does to its lanes. -/
inductive Act where
  /-- Every lane of I takes the successor. -/
  | adv (s : State)
  /-- The lanes of E go to their own targets, the rest of I to the successor. -/
  | go (s : State) (tgt : Nat → DWord)
  /-- Lanes of E park, their PCV entries at the instruction (18 R379); the rest of I takes the successor. -/
  | park (s : State) (ls : Lanes) (k : WaitKind)
  /-- The instruction waits under the scoreboard: nothing changes. -/
  | stall
  /-- Nothing but the state changes: the instruction issues again (22 R412). -/
  | hold (s : State)
  /-- Lanes of I outside the trap's lanes and the staying ones take the successor; the trap is taken (18 R374,
  08 R183). -/
  | trap (s : State) (tr : Trap) (stay : Lanes)
  /-- The state already says where the lanes stand (RFT). -/
  | keep (s : State)

/-- What a form names, for the range and soft-error checks (02 R38, R39, 18 R383). -/
inductive Use where
  /-- Reads k registers from r. -/
  | rd (r : Reg) (k : Nat)
  /-- Writes k registers from r. -/
  | wr (r : Reg) (k : Nat)
  /-- Names a tile. -/
  | tile (n : Nat)
  /-- Reads a predicate. -/
  | pd (i : Nat)
  /-- Reads a token. -/
  | tk (k : Nat)
  /-- Writes a predicate. -/
  | wp (i : Nat)
  /-- Writes a token. -/
  | wt (k : Nat)

/-- A register range lies below the declared counts (02 Table 2.3, R39). -/
def regIn (l : Launch) (r : Reg) (k : Nat) : Bool :=
  match r with
  | .v n => decide (n.toNat + k ≤ l.vregs)
  | .s n => decide (n.toNat + k ≤ l.sregs)

def useIn (l : Launch) : Use → Bool
  | .rd r k | .wr r k => regIn l r k
  | .tile n => decide (n < l.accs)
  | .pd _ | .tk _ | .wp _ | .wt _ => true

/-- A live mask names no granule wholly beyond the declared registers (02 R47); bit 0 of the mask is word bit 2. -/
def maskIn (l : Launch) (m : BitVec 61) : Bool :=
  (List.range 32).all (fun i => !(m.getLsbD i) || decide (8 * i < l.vregs)) &&
  (List.range 8).all (fun i => !(m.getLsbD (32 + i)) || decide (8 * i < l.sregs))

/-- 02 R53 step 2, as far as the team decides it. -/
def rangeOk (l : Launch) (h : Hdr) (us : List Use) : Bool :=
  us.all (useIn l) && (match h.live with
    | some m => maskIn l m
    | none => true)

/-- The register n lies among k registers from r. -/
def inRange (n : Byte) (r k : Nat) : Bool := decide (r ≤ n.toNat) && decide (n.toNat < r + k)

/-- An instruction reads the state that an error lies in (18 R383). -/
def readsSoft (h : Hdr) (I E : Lanes) (us : List Use) (e : SoftErr) : Bool :=
  let hit (ls : Lanes) : Bool := (e.lanes &&& ls) != 0
  if e.cls == 4 then hit I
  else if e.cls == 2 then (e.idx.toNat == h.pg.toNat && h.pg != 0 && hit I) ||
    us.any fun u => match u with
      | .pd i => i != 0 && e.idx.toNat == i && hit E
      | _ => false
  else us.any fun u => match u with
    | .rd (.v n) k => e.cls == 0 && inRange e.idx n.toNat k && hit E
    | .rd (.s n) k => e.cls == 1 && inRange e.idx n.toNat k && E != 0
    | .tk k => e.cls == 3 && e.idx.toNat == k && E != 0
    | _ => false

/-- An uncorrectable error that an instruction reads. -/
def softHit (g : Group) (h : Hdr) (I E : Lanes) (us : List Use) : Option SoftErr :=
  g.soft.find? fun e => e.sev == 2 && readsSoft h I E us e

/-- What the writes of an instruction leave of an error: a write replaces the whole ECC word (18 R383). -/
def afterWrites (E : Lanes) (us : List Use) (e : SoftErr) : SoftErr :=
  us.foldl (fun e u => match u with
    | .wr (.v n) k => if e.cls == 0 && inRange e.idx n.toNat k then { e with lanes := e.lanes &&& ~~~E } else e
    | .wr (.s n) k => if e.cls == 1 && inRange e.idx n.toNat k then { e with lanes := 0 } else e
    | .wp i => if e.cls == 2 && e.idx.toNat == i then { e with lanes := e.lanes &&& ~~~E } else e
    | .wt k => if e.cls == 3 && e.idx.toNat == k then { e with lanes := 0 } else e
    | _ => e) e

/-- The errors that stay after an instruction's writes; without a lane of E it writes nothing. -/
def clearSoft (E : Lanes) (us : List Use) (es : List SoftErr) : List SoftErr :=
  if E = 0 then es else (es.map (afterWrites E us)).filter fun e => e.lanes != 0

/-- A write of a register of a group outside an issue removes its errors: a wait that completes, a call that returns. -/
def dropWrite (t g : Nat) (E : Lanes) (us : List Use) (s : State) : State := changeSoft t g (clearSoft E us) s
/-- The writes of an instruction that acted remove errors, each of them logged. -/
def dropSoft (c : Ctx) (us : List Use) (s : State) : State := changeSoft c.t c.g (clearSoft c.E us) s

/-- Corrected errors that an instruction reads are written back and logged: KIND 1 or 2, SOURCE 0 (18 R381). -/
def meetSoft (c : Ctx) (h : Hdr) (us : List Use) (s : State) : State :=
  let g := s.grp c.t c.g
  let met (e : SoftErr) : Bool := e.sev != 2 && readsSoft h c.I c.E us e
  if g.soft.any met then
    let tm := s.team c.t
    let l := s.launchOf c.t
    ((g.soft.filter met).foldl (fun s e => logError l.part (e.sev + 1) tm.die 0 tm.core 0 l.lid.toNat s) s).modGrp c.t c.g
      fun g => { g with soft := without g.soft met }
  else s

/-- The distinct PCV entries of the lanes that have not exited (04 R97). -/
def distinctPcs (g : Group) : Nat :=
  ((lanes (~~~g.exited)).foldl (fun (a : List Nat) l =>
    let x := (g.pcv.get l).toNat
    if a.contains x then a else x :: a) []).length

/-- SERIAL_EVENTS raised by one, saturating at 0xFFFF (04 R97). -/
def countSerial (x : Word) : Word := BitVec.ofNat 32 (setFld x.toNat 16 16 (min (fld x.toNat 16 16 + 1) 0xFFFF))

/-- Entry into and exit from serial mode after an issue (04 R97). -/
def updateSerial (g : Group) : Group :=
  if !g.serial && 8 < distinctPcs g then { g with serial := true, gstat := countSerial g.gstat }
  else if g.serial && distinctPcs g ≤ 4 then { g with serial := false }
  else g

/-- Lanes that have issued, exited or parked leave the sets that YIELDs wait for (04 R117). -/
def noteMoved (order : Nat) (I : Lanes) (g : Group) : Group :=
  let gone := I ||| g.exited ||| g.parked
  { g with waits := g.waits.map fun w => match w.kind with
      | .yield ls => if w.order < order then { w with kind := .yield (ls &&& ~~~gone) } else w
      | _ => w }

/-- What follows an issue: YIELD sets, serial mode, the safe point just passed (04 R97, R117; 18 R378). -/
def afterIssue (c : Ctx) (h : Hdr) (s : State) : State :=
  s.modGrp c.t c.g fun g =>
    { updateSerial (noteMoved s.tick c.I g) with
      safeAt := h.live.map fun m => (m, c.pc, c.next), half := none, formed := false }

/-- An issue of the lanes I that traps counts for YIELD sets and for serial mode like any other (04 R97, R117). -/
def trapIssue (t g : Nat) (I : Lanes) (tr : Trap) (s : State) : State :=
  (takeTrap t g tr (s.modGrp t g (noteMoved s.tick I))).modGrp t g fun gr =>
    { updateSerial gr with half := none, formed := false }

/-- The lanes of a set that still run take an address. -/
def setPcs (c : Ctx) (ls : Lanes) (f : Nat → DWord) (s : State) : State :=
  s.modGrp c.t c.g fun g => { g with pcv := setLanes g.pcv (ls &&& ~~~g.exited) f }

/-- An encoding trap: no effect, every lane of I listed (02 R53). -/
def encodingTrap (c : Ctx) (code : Byte) (s : State) : State :=
  trapIssue c.t c.g c.I { code := code, lanes := c.I, pc := c.pc } s

/-- The act of an instruction, completed by steps 4 and 5 of 04 R90. -/
def perform (c : Ctx) (h : Hdr) (us : List Use) (a : Act) (s : State) : State :=
  match a with
  | .adv s' => afterIssue c h (setPcs c c.I (fun _ => c.next) (dropSoft c us s'))
  | .go s' tgt =>
    afterIssue c h (setPcs c c.E tgt (setPcs c (c.I &&& ~~~c.E) (fun _ => c.next)
      (dropSoft c us s')))
  | .park s' ls k =>
    let s1 := setPcs c (c.I &&& ~~~ls) (fun _ => c.next) (dropSoft { c with E := c.E &&& ~~~ls } us s')
    let s2 := s1.modGrp c.t c.g fun g =>
      { g with waits := g.waits ++ [{ lanes := ls, pc := c.pc, next := c.next, order := s.tick, kind := k, ctr := g.ctr }] }
    afterIssue c h s2
  | .stall => s
  | .hold s' => s'
  | .trap s' tr stay =>
    -- the lanes of E that neither trap nor stay have acted
    let off := ~~~(tr.lanes ||| stay)
    trapIssue c.t c.g c.I tr (setPcs c (c.I &&& off) (fun _ => c.next) (dropSoft { c with E := c.E &&& off } us s'))
  | .keep s' => afterIssue c h s'

/-- A trap of the instruction's effect, its lanes and TRAP_PC as given. -/
def Ctx.trap (c : Ctx) (s : State) (code : Byte) (ls : Lanes) (i0 i1 i2 i3 : Word := 0) : Act :=
  .trap s { code := code, lanes := ls, pc := c.pc, i0 := i0, i1 := i1, i2 := i2, i3 := i3 } 0
/-- The trap of a soft error: the instruction acts for no lane, and every lane of I stays (18 R383). -/
def Ctx.softTrap (c : Ctx) (s : State) (e : SoftErr) : Act :=
  .trap s { code := 0x16, lanes := if c.E = 0 then c.I else c.E, pc := c.pc,
            i0 := BitVec.ofNat 32 (e.cls.toNat + 256 * e.idx.toNat), i1 := e.lanes } c.I

/-- The issue of a group at its issue address with an instruction of a size. -/
def ctxOf (s : State) (t g : Nat) (h : Hdr) (size : Nat) : Ctx :=
  let gr := s.grp t g
  let I := gr.issueSet
  { t := t, g := g, pc := gr.issuePc, next := nextAddr gr.issuePc size, I := I, E := I &&& gr.guard h }

/-- The group can issue (04 R88, R91): resident, not ended, stopped, taken or held, with a lane that runs. -/
def canIssue (s : State) (t g : Nat) : Bool :=
  let tm := s.team t
  let gr := tm.group g
  decide (t < s.teams.length) && decide (g < tm.groups.length) && tm.phase == .resident && !gr.ended
    && gr.stopped.isNone && gr.taken.isNone && gr.drain.isNone && gr.active != 0
    && !(s.silent.any fun e => e.team == t && e.group == g && !e.expired)

/-- A SIMT instruction: the checks of 02 R53 that need the team, the soft-error check, the guard, the act. `priv`: the
context lacks a right the form needs. A form of a matrix stream's sequencer is no SIMT form: ILL there (02 R51). -/
def simt (h : Hdr) (size : Nat) (us : List Use) (priv : State → Ctx → Bool) (act : Ctx → State → Act) (s : State) : Res :=
  match s.cur with
  | .group t g =>
    if !(canIssue s t g) then .fault .noIssuer
    else
      let c := ctxOf s t g h size
      if !(rangeOk (s.launchOf t) h us) then .next (encodingTrap c 0x01 s)
      else if priv s c then .next (encodingTrap c 0x03 s)
      else match softHit (s.grp t g) h c.I c.E us with
        | some e => .next (perform c h us (c.softTrap (logSoft t s) e) s)
        | none =>
          let s := meetSoft c h us s
          .next (perform c h us (if c.E = 0 then .adv s else act c s) s)
  | .seq t =>
    if t < s.teams.length then .next (raiseSeqTrap t { code := 0x01 } (s.team t).seq.pc s) else .fault .noIssuer
  | .none => .fault .noIssuer

/-- No right is needed. -/
def noPriv (_ : State) (_ : Ctx) : Bool := false

/-! The sequencer's driver (14 R291, R292). -/

/-- What a sequencer instruction does. -/
inductive SAct where
  /-- On to the successor. -/
  | adv (s : State)
  /-- On to an address. -/
  | go (s : State) (pc : DWord)
  /-- It waits; WAITKIND says for what (14 Table 14.1). -/
  | stall (s : State) (kind : Nat)
  /-- A sequencer trap; RESUME restarts at the address. -/
  | trap (s : State) (tr : Trap) (resume : DWord)
  /-- The sequencer ends (14 R313). -/
  | fin (s : State)

/-- The sequencer of a team can issue: resident, it names a stream, runs, and no fault holds its fetch. -/
def canSeq (s : State) (t : Nat) : Bool :=
  let tm := s.team t
  decide (t < s.teams.length) && tm.phase == .resident && tm.seq.named && bitOf tm.seq.stat.toNat statRun
    && !tm.seq.fetchFault

/-- A form of the sequencer: address, successor, act. In a SIMT stream it traps ILL (02 R51). -/
def seqForm (size : Nat) (act : Nat → DWord → DWord → State → SAct) (s : State) : Res :=
  match s.cur with
  | .seq t =>
    if !(canSeq s t) then .fault .noIssuer
    else
      let pc := (s.team t).seq.pc
      match act t pc (nextAddr pc size) s with
      | .adv s' => .next (s'.modSeq t fun q => { q with pc := nextAddr pc size, stat := setWaitKind 0 q.stat })
      | .go s' a => .next (s'.modSeq t fun q => { q with pc := a, stat := setWaitKind 0 q.stat })
      | .stall s' k => .next (s'.modSeq t fun q => { q with stat := setWaitKind k q.stat })
      | .trap s' tr a => .next (raiseSeqTrap t tr a s')
      | .fin s' => .next (s'.modSeq t fun q =>
          { q with stat := setWaitKind 0 (setStatBit statRun false (setStatBit statEnded true q.stat)) })
  | .group t g =>
    if !(canIssue s t g) then .fault .noIssuer
    else .next (encodingTrap (ctxOf s t g ⟨0, false, none⟩ size) 0x01 s)
  | .none => .fault .noIssuer

/-- A form that either stream may hold (02 R51): in a matrix stream the guard, SP, UA and UB are RZ (R35), and only
the form `seqOk` exists (11 R233). -/
def dualForm (h : Hdr) (size : Nat) (us : List Use) (act : Ctx → State → Act) (seqOk : Bool)
    (sact : Nat → DWord → DWord → State → SAct) (s : State) : Res :=
  match s.cur with
  | .seq _ =>
    seqForm size (fun t pc nx s =>
      if h.pg != 0 || h.pn || h.live.isSome || !seqOk || !(us.all (useIn (s.launchOf t))) then .trap s { code := 0x01 } pc
      else sact t pc nx s) s
  | _ => simt h size us noPriv act s

end Sys2Proof.Machine
end

