-- ==== Sys2Proof/Machine/Operands.lean ====
section
/-! DEFINITION. Operands: register groups as numbers, immediates, the value of a type (02 R36 to R39, 05 R124), and
the writes of results. -/

namespace Sys2Proof.Machine

/-- k registers from r, the first lowest, as lane l sees them (02 R39). -/
def regGet (g : Group) (r : Reg) (l : Nat) : Nat → Nat
  | 0 => 0
  | k + 1 => regGet g r l k + 2 ^ (32 * k) * (match r with
    | .v n => (g.v.get (32 * (n.toNat + k) + l)).toNat
    | .s n => (g.s.get (n.toNat + k)).toNat)

/-- k registers from r written for lane l. -/
def regSet (r : Reg) (l x : Nat) : Nat → Group → Group
  | 0, g => g
  | k + 1, g =>
    let g := regSet r l x k g
    let w : Word := BitVec.ofNat 32 (x >>> (32 * k))
    match r with
    | .v n => { g with v := g.v.set (32 * (n.toNat + k) + l) w }
    | .s n => { g with s := g.s.set (n.toNat + k) w }

/-- Operand b over k registers; an IMM32 in the place of a pair is sign-extended where `sx`, else zero-extended
(05 R124). -/
def opdGet (g : Group) (b : Opd) (l k : Nat) (sx : Bool) : Nat :=
  match b with
  | .reg r => regGet g r l k
  | .imm w => if k = 2 && sx then wrap 64 (sgn 32 w.toNat) else w.toNat
  | .wide x => x.toNat

/-- The registers that operand b reads. -/
def opdUse (b : Opd) (k : Nat) : List Use :=
  match b with
  | .reg r => [.rd r k]
  | _ => []

/-- An operand that is IMM32 or a uniform register. -/
def immUGet (g : Group) (v : ImmU) : Word :=
  match v with
  | .imm w => w
  | .uni n => g.s.get n.toNat
def immUUse (v : ImmU) : List Use :=
  match v with
  | .uni n => [.rd (.s n) 1]
  | .imm _ => []

/-- The width of a value type in bits (05 R124). -/
def tyBits : Ty → Nat
  | .i8 | .n8 | .e4m3 | .e5m2 => 8
  | .i16 | .n16 | .bf16 => 16
  | .i64 | .n64 | .b64 => 64
  | .x128 => 128
  | _ => 32

/-- The type is signed. -/
def tySigned : Ty → Bool
  | .i8 | .i16 | .i32 | .i64 => true
  | _ => false

/-- The value of bits read in an integer type (05 R124): the low bits, extended. -/
def tyVal (t : Ty) (x : Nat) : Int := if tySigned t then sgn (tyBits t) x else ((x % 2 ^ tyBits t : Nat) : Int)

/-- The register bits of a result formed at the type's width (05 R124). -/
def tyRes (t : Ty) (v : Int) : Nat :=
  let u := wrap (tyBits t) v
  if tySigned t && decide (tyBits t < 32) then wrap 32 (sgn (tyBits t) u) else u

/-- The least and greatest value of an integer type. -/
def tyMin (t : Ty) : Int := if tySigned t then -((2 ^ (tyBits t - 1) : Nat) : Int) else 0
def tyMax (t : Ty) : Int := ((2 ^ (if tySigned t then tyBits t - 1 else tyBits t) : Nat) : Int) - 1

/-- "Write d": k registers for each lane of ls, or once for the home group for a uniform destination (02 R36, 04 R94);
the values are functions of the state before. -/
def writeReg (c : Ctx) (ls : Lanes) (d : Reg) (k : Nat) (f : Nat → Nat) (s : State) : State :=
  s.modGrp c.t c.g fun g =>
    match d with
    | .v _ => (lanes ls).foldl (fun g l => regSet d l (f l) k g) g
    | .s _ => if ls = 0 then g else regSet d 0 (f (lowest ls)) k g

/-- A per-lane predicate result (02 R36). -/
def writePred (c : Ctx) (ls : Lanes) (i : Nat) (f : Nat → Bool) (s : State) : State :=
  s.modGrp c.t c.g fun g => g.setPred i ls (laneSet fun l => ls.getLsbD l && f l)

/-- GSTAT's flags set by an issue (04 Table 4.3, 06 R147). -/
def orFlags (c : Ctx) (f : BitVec 9) (s : State) : State :=
  s.modGrp c.t c.g fun g => { g with gstat := g.gstat ||| f.setWidth 32 }

/-- The lanes an instruction computes for: those of ls, or the lowest one where the destination is uniform. -/
def computeLanes (d : Reg) (ls : Lanes) : List Nat :=
  match d with
  | .v _ => lanes ls
  | .s _ => (lanes ls).take 1

end Sys2Proof.Machine
end

