-- ==== Sys2Proof/Machine/Flags.lean ====
section
/-! DEFINITION. The sticky flags of GSTAT (04 Table 4.3) and the carry and borrow of IADD.cc and ISUB.cc (05 R129). -/

namespace Sys2Proof.Machine

/-- GSTAT[8:0]. -/
abbrev Flags := BitVec 9
def fNV : Flags := 0x001
def fDZ : Flags := 0x002
def fOF : Flags := 0x004
def fUF : Flags := 0x008
def fNX : Flags := 0x010
def fXOVF : Flags := 0x020
def fXNAN : Flags := 0x040
def fUV : Flags := 0x080
def fPCSAT : Flags := 0x100
/-- A flag where a condition holds. -/
def flagIf (b : Bool) (f : Flags) : Flags := if b then f else 0
/-- The union over lanes (06 R147). -/
def unionFlags (l : List Flags) : Flags := l.foldl (· ||| ·) 0

/-- IADD.cc: sum and carry out (05 R129). -/
def addCarry (a b : Nat) (cin : Bool) : Nat × Bool :=
  let t := a + b + b2n cin
  (t % 2 ^ 32, decide (2 ^ 32 ≤ t))
/-- ISUB.cc: difference and borrow out (05 R129). -/
def subBorrow (a b : Nat) (cin : Bool) : Nat × Bool :=
  let t : Int := (a : Int) - b - b2n cin
  (wrap 32 t, decide (t < 0))

/-- SEQ_STAT's sticky flags of a matrix instruction (14 Table 14.1): NV, OF, XOVF, XNAN. -/
def seqFlags (f : Flags) : BitVec 4 :=
  (if f &&& fNV != 0 then 1 else 0) ||| (if f &&& fOF != 0 then 2 else 0) ||| (if f &&& fXOVF != 0 then 4 else 0)
    ||| (if f &&& fXNAN != 0 then 8 else 0)

/-- The default flush: MD[7], or MODE.FTZ (06 R146). -/
def flushOf (g : Group) (ftz : Bool) : Bool := ftz || g.mode.getLsbD 1

end Sys2Proof.Machine
end

