-- ==== Sys2Proof/Machine/Floats.lean ====
section
/-! DEFINITION. Floating values as exact numbers, the rounding to FP32, BF16, E4M3 and E5M2, X128 exact sums (03 R62 to
R65, R79 to R83), and the float and convert class (06 R144 to R159). -/

set_option linter.unusedVariables false

namespace Sys2Proof.Machine

/-- A floating format (03 Table 3.1): exponent bits, fraction bits, bias; E4M3 has no infinity. -/
structure Fmt where
  eb    : Nat
  fb    : Nat
  bias  : Nat
  noInf : Bool
  deriving DecidableEq, Repr

def fmtF32 : Fmt := ⟨8, 23, 127, false⟩
def fmtBf16 : Fmt := ⟨8, 7, 127, false⟩
def fmtE4m3 : Fmt := ⟨4, 3, 7, true⟩
def fmtE5m2 : Fmt := ⟨5, 2, 15, false⟩

/-- What a format's bits stand for: NaN, an infinity, or (−1)^neg × m × 2^e. -/
inductive FV where
  | nan
  | inf (neg : Bool)
  | fin (neg : Bool) (m : Nat) (e : Int)
  deriving DecidableEq, Repr

/-- The sign bit's weight. -/
def Fmt.top (f : Fmt) : Nat := 2 ^ (f.eb + f.fb)
/-- The exponent of the least bit of the least normal number. -/
def Fmt.emin (f : Fmt) : Int := 1 - (f.bias : Int) - f.fb
/-- Bits of infinity, largest finite and canonical NaN, without sign (Table 3.1). -/
def Fmt.infBits (f : Fmt) : Nat := (2 ^ f.eb - 1) * 2 ^ f.fb
def Fmt.maxBits (f : Fmt) : Nat := if f.noInf then f.infBits + 2 ^ f.fb - 2 else f.infBits - 1
def Fmt.nanBits (f : Fmt) : Nat := if f.noInf then f.infBits + 2 ^ f.fb - 1 else f.infBits + 2 ^ (f.fb - 1)
/-- A sign put before magnitude bits. -/
def Fmt.signed (f : Fmt) (neg : Bool) (x : Nat) : Nat := if neg then f.top + x else x

/-- The value of bits; `ftz`: a subnormal input is the zero of its sign (03 R64). -/
def Fmt.read (f : Fmt) (ftz : Bool) (x : Nat) : FV :=
  let neg := x.testBit (f.eb + f.fb)
  let ex := fld x f.fb f.eb
  let fr := fld x 0 f.fb
  if f.noInf && ex == 2 ^ f.eb - 1 && fr == 2 ^ f.fb - 1 then .nan
  else if !f.noInf && ex == 2 ^ f.eb - 1 then (if fr = 0 then .inf neg else .nan)
  else if ex = 0 then .fin neg (if ftz then 0 else fr) f.emin
  else .fin neg (2 ^ f.fb + fr) (f.emin + (ex - 1 : Nat))

/-- A power of two times a natural number, as numerator and denominator. -/
def ratio (m : Nat) (e : Int) : Nat × Nat := (m * 2 ^ e.toNat, 2 ^ (-e).toNat)

/-- floor(log2(n / d)) for n, d > 0. -/
def topOf (n d : Nat) : Int :=
  let t : Int := (n.log2 : Int) - d.log2
  if n * 2 ^ (-t).toNat < d * 2 ^ t.toNat then t - 1 else t

/-- n / d as a multiple of 2^q in a rounding direction (02 Table 2.6): the multiple, and whether it is inexact. -/
def roundAt (neg : Bool) (r : Rnd) (n d : Nat) (q : Int) : Nat × Bool :=
  let n := n * 2 ^ (-q).toNat
  let d := d * 2 ^ q.toNat
  let k := n / d
  let rem := n % d
  if rem = 0 then (k, false)
  else
    let up := match r with
      | .rne => decide (d < 2 * rem) || (2 * rem == d && k % 2 == 1)
      | .rtz => false
      | .rdn => neg
      | .rup => !neg
    (k + b2n up, true)

/-- a × 2^p < b × 2^q. -/
def ltScaled (a : Nat) (p : Int) (b : Nat) (q : Int) : Bool :=
  let e := min p q
  decide (a * 2 ^ (p - e).toNat < b * 2 ^ (q - e).toNat)

/-- A magnitude beyond the largest finite after rounding (03 Table 3.2, 06 R147, R154). Where a directed rounding points away
from infinity, E5M2 under .nosat takes its largest finite, as IEEE 754 has it (DESIGN CHOICE, log 104). -/
def Fmt.overflow (f : Fmt) (r : Rnd) (nosat neg : Bool) : Nat × Flags :=
  let small := f.eb < 8
  if f.noInf && nosat then (f.nanBits, fNV ||| fOF ||| fNX)
  else if small && !nosat then (f.signed neg f.maxBits, fOF ||| fNX)
  else
    let toInf := match r with
      | .rne => true
      | .rtz => false
      | .rdn => neg
      | .rup => !neg
    (f.signed neg (if toInf then f.infBits else f.maxBits), fOF ||| fNX)

/-- The rounding of a nonzero exact n / d into the format, with the flags of 06 Table 6.2. -/
def Fmt.round (f : Fmt) (r : Rnd) (ftz nosat neg : Bool) (n d : Nat) : Nat × Flags :=
  let qu := topOf n d - f.fb
  let u := roundAt neg r n d qu
  let maxM := if f.noInf then 2 ^ (f.fb + 1) - 2 else 2 ^ (f.fb + 1) - 1
  let maxE : Int := f.emin + (2 ^ f.eb - (if f.noInf then 2 else 3) : Nat)
  if ltScaled maxM maxE u.1 qu then f.overflow r nosat neg
  else
    let tiny := ltScaled u.1 qu 1 (f.emin + f.fb)
    let q := max qu f.emin
    let v := roundAt neg r n d q
    let fl := flagIf v.2 fNX ||| flagIf (tiny && v.2) fUF
    let w := if v.1 ≥ 2 * 2 ^ f.fb then (v.1 / 2, q + 1) else (v.1, q)
    if w.1 ≥ 2 ^ f.fb then
      (f.signed neg (((w.2 - f.emin + 1).toNat) * 2 ^ f.fb + (w.1 - 2 ^ f.fb)), fl)
    else if ftz && w.1 != 0 then (f.signed neg 0, fl ||| fUF ||| fNX)
    else (f.signed neg w.1, fl)

/-- A value written in the format (03 R63 to R65, 06 R147, R154). -/
def Fmt.write (f : Fmt) (r : Rnd) (ftz nosat : Bool) (v : FV) : Nat × Flags :=
  match v with
  | .nan => (f.nanBits, 0)
  | .inf neg =>
    if f.noInf then (if nosat then (f.nanBits, fNV) else (f.signed neg f.maxBits, fNX))
    else if f.eb < 8 && !nosat then (f.signed neg f.maxBits, fNX)
    else (f.signed neg f.infBits, 0)
  | .fin neg m e =>
    if m = 0 then (f.signed neg 0, 0)
    else f.round r ftz nosat neg (ratio m e).1 (ratio m e).2

/-! Exact operations. -/

/-- The integer of a finite value in units of 2^e. -/
def unitsAt (neg : Bool) (m : Nat) (e0 e : Int) : Int :=
  let x : Int := (m * 2 ^ (e0 - e).toNat : Nat)
  if neg then -x else x

/-- The sum (06 R147, R148). -/
def FV.add (r : Rnd) (a b : FV) : FV × Flags :=
  match a, b with
  | .nan, _ | _, .nan => (.nan, 0)
  | .inf p, .inf q => if p == q then (.inf p, 0) else (.nan, fNV)
  | .inf p, .fin _ _ _ => (.inf p, 0)
  | .fin _ _ _, .inf q => (.inf q, 0)
  | .fin p m e, .fin q n k =>
    let u := min e k
    let x := unitsAt p m e u + unitsAt q n k u
    if x = 0 then
      (.fin (if m = 0 && n = 0 && p == q then p else r == .rdn) 0 0, 0)
    else (.fin (decide (x < 0)) x.natAbs u, 0)

/-- The product (06 R147). -/
def FV.mul (a b : FV) : FV × Flags :=
  match a, b with
  | .nan, _ | _, .nan => (.nan, 0)
  | .inf p, .inf q => (.inf (p != q), 0)
  | .inf p, .fin q n _ => if n = 0 then (.nan, fNV) else (.inf (p != q), 0)
  | .fin p m _, .inf q => if m = 0 then (.nan, fNV) else (.inf (p != q), 0)
  | .fin p m e, .fin q n k => (.fin (p != q) (m * n) (e + k), 0)

/-- a × b + c (06 R147, R150). -/
def FV.fma (r : Rnd) (a b c : FV) : FV × Flags :=
  let p := a.mul b
  if p.2 != 0 then (.nan, p.2) else p.1.add r c

/-- The order of two values; none where they are unordered (06 R152). −0 equals +0. -/
def FV.cmp (a b : FV) : Option Ordering :=
  let key (neg : Bool) : Int := if neg then -1 else 1
  match a, b with
  | .nan, _ | _, .nan => none
  | .inf p, .inf q => some (compare (key p) (key q))
  | .inf p, .fin _ _ _ => some (if p then .lt else .gt)
  | .fin _ _ _, .inf q => some (if q then .gt else .lt)
  | .fin p m e, .fin q n k =>
    let u := min e k
    some (compare (unitsAt p m e u) (unitsAt q n k u))

/-- The sign of a value. -/
def FV.neg : FV → Bool
  | .nan => false
  | .inf n => n
  | .fin n _ _ => n

/-- A finite or infinite value rounded to an integer in a direction: the integer, whether it changed. -/
def FV.toInt (r : Rnd) : FV → Option (Int × Bool)
  | .fin neg m e =>
    let q := roundAt neg r (ratio m e).1 (ratio m e).2 0
    some (if neg then -(q.1 : Int) else q.1, q.2)
  | _ => none

/-- The value of an integer. -/
def FV.ofInt (x : Int) : FV := .fin (decide (x < 0)) x.natAbs 0

/-! Arithmetic on bits (06 R150, R151). -/

def fAdd (f : Fmt) (r : Rnd) (ftz : Bool) (a b : Nat) : Nat × Flags :=
  let t := (f.read ftz a).add r (f.read ftz b)
  let w := f.write r ftz true t.1
  (w.1, t.2 ||| w.2)

def fMul (f : Fmt) (r : Rnd) (ftz : Bool) (a b : Nat) : Nat × Flags :=
  let t := (f.read ftz a).mul (f.read ftz b)
  let w := f.write r ftz true t.1
  (w.1, t.2 ||| w.2)

def fFma (f : Fmt) (r : Rnd) (ftz : Bool) (a b c : Nat) : Nat × Flags :=
  let t := (f.read ftz a).fma r (f.read ftz b) (f.read ftz c)
  let w := f.write r ftz true t.1
  (w.1, t.2 ||| w.2)

/-- A subnormal as the zero of its sign, under a flush. -/
def flushBits (f : Fmt) (ftz : Bool) (x : Nat) : Nat :=
  let x := x % (2 * f.top)
  if ftz && fld x f.fb f.eb == 0 then x / f.top * f.top else x

/-- The lower or the higher, NaN ignored, −0 below +0 (06 R151). -/
def fMinMax (f : Fmt) (hi ftz : Bool) (a b : Nat) : Nat :=
  let a := flushBits f ftz a
  let b := flushBits f ftz b
  let x := f.read false a
  let y := f.read false b
  match x, y with
  | .nan, .nan => f.nanBits
  | .nan, _ => b
  | _, .nan => a
  | _, _ =>
    let aBelow := match x.cmp y with
      | some .lt => true
      | some .gt => false
      | _ => x.neg && !y.neg
    let bBelow := match x.cmp y with
      | some .lt => false
      | some .gt => true
      | _ => y.neg && !x.neg
    if hi then (if bBelow then a else b) else (if aBelow then a else b)

/-- A comparison and its flags (06 R152). -/
def fCmp (k : FCond) (ftz : Bool) (a b : Nat) : Bool × Flags :=
  let o := (fmtF32.read ftz a).cmp (fmtF32.read ftz b)
  match k with
  | .eq => (o == some .eq, 0)
  | .ne => (o != some .eq, 0)
  | .lt => (o == some .lt, flagIf (o == none) fNV)
  | .le => (o == some .lt || o == some .eq, flagIf (o == none) fNV)
  | .gt => (o == some .gt, flagIf (o == none) fNV)
  | .ge => (o == some .gt || o == some .eq, flagIf (o == none) fNV)
  | .un => (o == none, 0)
  | .ord => (o != none, 0)

/-! FFN: correctly rounded functions (06 R153). The irrational values are computed in fixed point with 400 fraction bits,
far beyond what any FP32 argument needs, and rounded with a sticky bit. -/

/-- Fraction bits of the fixed point. -/
def fxBits : Nat := 400
/-- floor(π × 2^400). -/
def fxPi : Nat :=
  0x3243f6a8885a308d313198a2e03707344a4093822299f31d0082efa98ec4e6c89452821e638d01377be5466cf34e90c6cc0ac
/-- floor(ln 2 × 2^400). -/
def fxLn2 : Nat :=
  0xb17217f7d1cf79abc9e3b39803f2f6af40f343267298b62d8a0d175b8baafa2be7b876206debac98559552fb4afa1b10ed2e

/-- Σ y^k / k! from the term given, in fixed point. -/
def expSeries (y : Nat) : Nat → Nat → Nat → Nat → Nat
  | 0, _, _, acc => acc
  | fuel + 1, k, term, acc =>
    let t := term * y / 2 ^ fxBits / (k + 1)
    expSeries y fuel (k + 1) t (acc + t)

/-- Σ z^(2k+1) / (2k+1), in fixed point. -/
def atanhSeries (z2 : Nat) : Nat → Nat → Nat → Nat → Nat
  | 0, _, _, acc => acc
  | fuel + 1, k, pw, acc =>
    let p := pw * z2 / 2 ^ fxBits
    atanhSeries z2 fuel (k + 2) p (acc + p / (k + 2))

/-- θ − θ^3/3! + …, in fixed point. -/
def sinSeries (x2 : Nat) : Nat → Nat → Nat → Int → Int → Int
  | 0, _, _, _, acc => acc
  | fuel + 1, i, term, sign, acc =>
    let t := term * x2 / 2 ^ fxBits / ((i + 1) * (i + 2))
    sinSeries x2 fuel (i + 2) t (-sign) (acc - sign * t)

/-- A fixed-point value that is not exact, times 2^e, rounded to FP32: the bits below 2^−380 become a sticky one. -/
def roundIrr (r : Rnd) (ftz neg : Bool) (x : Nat) (e : Int) : Nat × Flags :=
  let p := ratio (2 * (x / 2 ^ 20) + 1) (e - 381)
  fmtF32.round r ftz true neg p.1 p.2

/-- 2^a. -/
def ffnExp2Val (r : Rnd) (ftz : Bool) (a : Nat) : Nat × Flags :=
  match fmtF32.read ftz a with
  | .nan => (fmtF32.nanBits, 0)
  | .inf neg => (if neg then 0 else fmtF32.infBits, 0)
  | .fin neg m e =>
    let big := decide (200 * (ratio m e).2 < (ratio m e).1)
    if m = 0 then (0x3F800000, 0)
    else if (ratio m e).1 % (ratio m e).2 = 0 then
      let i : Int := min ((ratio m e).1 / (ratio m e).2) 300
      fmtF32.write r ftz true (.fin false 1 (if neg then -i else i))
    else if big then fmtF32.write r ftz true (.fin false 3 (if neg then -202 else 199))
    else
      let x : Int := unitsAt neg m e (-400)
      let i := x / ((2 ^ fxBits : Nat) : Int)
      let f := (x % ((2 ^ fxBits : Nat) : Int)).toNat
      let y := f * fxLn2 / 2 ^ fxBits
      roundIrr r ftz false (expSeries y 100 0 (2 ^ fxBits) (2 ^ fxBits)) i

/-- log₂ a. -/
def ffnLog2Val (r : Rnd) (ftz : Bool) (a : Nat) : Nat × Flags :=
  match fmtF32.read ftz a with
  | .nan => (fmtF32.nanBits, 0)
  | .inf neg => if neg then (fmtF32.nanBits, fNV) else (fmtF32.infBits, 0)
  | .fin neg m e =>
    if m = 0 then (fmtF32.signed true fmtF32.infBits, fDZ)
    else if neg then (fmtF32.nanBits, fNV)
    else
      let t : Int := e + m.log2
      if m = 2 ^ m.log2 then fmtF32.write r ftz true (.ofInt t)
      else
        -- m = M × 2^k with M in [0.75, 1.5)
        let k := if 2 * m < 3 * 2 ^ m.log2 then m.log2 else m.log2 + 1
        let num : Int := (m : Int) - (2 ^ k : Nat)
        let den := m + 2 ^ k
        let z := num.natAbs * 2 ^ fxBits / den
        let ln := 2 * atanhSeries (z * z / 2 ^ fxBits) 100 1 z z
        let lg : Int := (ln * 2 ^ fxBits / fxLn2 : Nat)
        let v := (e + k) * ((2 ^ fxBits : Nat) : Int) + (if num < 0 then -lg else lg)
        roundIrr r ftz (decide (v < 0)) v.natAbs 0

/-- sin(π a), or cos(π a) as sin(π (a + ½)). -/
def ffnSinVal (cos : Bool) (r : Rnd) (ftz : Bool) (a : Nat) : Nat × Flags :=
  match fmtF32.read ftz a with
  | .nan => (fmtF32.nanBits, 0)
  | .inf _ => (fmtF32.nanBits, fNV)
  | .fin neg m e =>
    let half : Int := ((2 ^ 399 : Nat) : Int)
    let x := unitsAt neg m e (-400) + (if cos then half else 0)
    let y := x % (4 * half)
    let ng := decide (2 * half ≤ y)
    let y := if ng then y - 2 * half else y
    let y := min y (2 * half - y)
    if y = 0 then (if cos then 0 else fmtF32.signed neg 0, 0)
    else if y = half then (fmtF32.signed ng 0x3F800000, 0)
    else
      let th := y.toNat * fxPi / 2 ^ fxBits
      roundIrr r ftz ng (sinSeries (th * th / 2 ^ fxBits) 60 1 th 1 th).toNat 0

/-- Integer square root by bits, the highest first. -/
def isqrtBits (n : Nat) : Nat → Nat → Nat
  | 0, acc => acc
  | k + 1, acc => isqrtBits n k (if (acc + 2 ^ k) * (acc + 2 ^ k) ≤ n then acc + 2 ^ k else acc)

/-- floor(√n) for n < 2^256. -/
def isqrt (n : Nat) : Nat := isqrtBits n 128 0

/-- 1 / a. -/
def ffnRcpVal (r : Rnd) (ftz : Bool) (a : Nat) : Nat × Flags :=
  match fmtF32.read ftz a with
  | .nan => (fmtF32.nanBits, 0)
  | .inf neg => (fmtF32.signed neg 0, 0)
  | .fin neg m e =>
    if m = 0 then (fmtF32.signed neg fmtF32.infBits, fDZ)
    else fmtF32.round r ftz true neg (2 ^ (-e).toNat) (m * 2 ^ e.toNat)

/-- √a, or 1 / √a. -/
def ffnSqrtVal (inv : Bool) (r : Rnd) (ftz : Bool) (a : Nat) : Nat × Flags :=
  match fmtF32.read ftz a with
  | .nan => (fmtF32.nanBits, 0)
  | .inf neg => if neg then (fmtF32.nanBits, fNV) else (if inv then 0 else fmtF32.infBits, 0)
  | .fin neg m e =>
    if m = 0 then (if inv then (fmtF32.signed neg fmtF32.infBits, fDZ) else (fmtF32.signed neg 0, 0))
    else if neg then (fmtF32.nanBits, fNV)
    else
      let m := if e % 2 = 0 then m else 2 * m
      let e := e / 2
      let n := if inv then 2 ^ 96 / m else m * 2 ^ 64
      let exact0 := !inv || 2 ^ 96 % m == 0
      let y := isqrt n
      let x : Int := if inv then -48 - e else e - 32
      if exact0 && y * y == n then fmtF32.write r ftz true (.fin false y x)
      else fmtF32.write r ftz true (.fin false (2 * y + 1) (x - 1))

/-- EXP2_CR (00 Table 0.3), with its flags. -/
def exp2Cr (a : Nat) : Nat × Flags := ffnExp2Val .rne false a

/-! X128 (03 R79 to R83), as 128-bit numbers. -/

def xSat : Nat := 2 ^ 127 - 1
def xNegSat : Nat := 2 ^ 127 + 1
def xNan : Nat := 2 ^ 127
/-- The largest finite magnitude. -/
def xLim : Nat := 2 ^ 127 - 2

/-- FP32 to X128 (R80). -/
def xOfF32 (a : Nat) : Nat × Flags :=
  match fmtF32.read false a with
  | .nan => (xNan, fXNAN)
  | .inf neg => (if neg then xNegSat else xSat, fXOVF)
  | .fin neg m e =>
    let n := (roundAt neg .rne (ratio m e).1 (ratio m e).2 (-80)).1
    if xLim < n then (if neg then xNegSat else xSat, fXOVF)
    else (wrap 128 (if neg then -(n : Int) else n), 0)

/-- a ⊕ c (R81). -/
def xAdd (a c : Nat) : Nat × Flags :=
  if a = xNan || c = xNan then (xNan, fXNAN)
  else if (a = xSat && c = xNegSat) || (a = xNegSat && c = xSat) then (xNan, fXNAN)
  else if a = xSat || a = xNegSat then (a, 0)
  else if c = xSat || c = xNegSat then (c, 0)
  else
    let t := sgn 128 a + sgn 128 c
    if (xLim : Int) < t then (xSat, fXOVF)
    else if t < -(xLim : Int) then (xNegSat, fXOVF)
    else (wrap 128 t, 0)

/-- X128 to FP32 (R83). -/
def xToF32 (r : Rnd) (a : Nat) : Nat × Flags :=
  if a = xNan then (fmtF32.nanBits, 0)
  else if a = xSat then (fmtF32.infBits, 0)
  else if a = xNegSat then (fmtF32.signed true fmtF32.infBits, 0)
  else
    let n := sgn 128 a
    let w := fmtF32.write r false true (.fin (decide (n < 0)) n.natAbs (-80))
    (w.1, w.2 &&& fNX)

/-! CVT (06 R154, R155). -/

/-- The format of a floating type. -/
def fmtOf : Ty → Fmt
  | .bf16 | .bf16x2 => fmtBf16
  | .e4m3 => fmtE4m3
  | .e5m2 => fmtE5m2
  | _ => fmtF32

/-- The type is an integer type of CVT. -/
def cvtInt : Ty → Bool
  | .i8 | .n8 | .i16 | .n16 | .i32 | .n32 | .i64 | .n64 => true
  | _ => false

/-- A floating value to an integer type (R155). A result that saturates sets NV alone, as the pseudocode has it, though
Table 6.2 lists saturation under NX (DESIGN CHOICE, log 105). -/
def toIntTy (t : Ty) (r : Rnd) (v : FV) : Nat × Flags :=
  match v with
  | .nan => (0, fNV)
  | .inf neg => (tyRes t (if neg then tyMin t else tyMax t), fNV)
  | .fin neg m e =>
    match (FV.fin neg m e).toInt r with
    | some (x, inexact) =>
      if x < tyMin t || tyMax t < x then (tyRes t (sat x (tyMin t) (tyMax t)), fNV)
      else (tyRes t x, flagIf inexact fNX)
    | none => (0, 0)

/-- CVT of one value, on register bits. -/
def cvtVal (dty sty : Ty) (nosat : Bool) (r : Rnd) (ftz : Bool) (x : Nat) : Nat × Flags :=
  let v := if cvtInt sty then FV.ofInt (tyVal sty x) else (fmtOf sty).read (ftz && dty != sty) x
  if cvtInt dty then toIntTy dty r v
  else
    let isInf := match v with
      | .inf _ => true
      | _ => false
    (fmtOf dty).write r ftz (nosat || (dty == sty && isInf)) v

/-! The class. -/

/-- A form whose lanes give a value of k registers and flags. -/
def fltForm (h : Hdr) (size : Nat) (us : List Use) (d : Reg) (k : Nat) (f : Group → Nat → Nat × Flags) (s : State) :
    Res :=
  simt h size ([.wr d k] ++ us) noPriv (fun c s =>
    let g := s.grp c.t c.g
    .adv (orFlags c (unionFlags ((computeLanes d c.E).map fun l => (f g l).2))
      (writeReg c c.E d k (fun l => (f g l).1) s))) s

def execFadd (h : Hdr) (r : Rnd) (ftz : Bool) (d a : Reg) (b : Opd) (s : State) : Res :=
  fltForm h (Instr.size (.fadd h r ftz d a b)) ([.rd a 1] ++ opdUse b 1) d 1
    (fun g l => fAdd fmtF32 r (flushOf g ftz) (regGet g a l 1) (opdGet g b l 1 false)) s
def execFmul (h : Hdr) (r : Rnd) (ftz : Bool) (d a : Reg) (b : Opd) (s : State) : Res :=
  fltForm h (Instr.size (.fmul h r ftz d a b)) ([.rd a 1] ++ opdUse b 1) d 1
    (fun g l => fMul fmtF32 r (flushOf g ftz) (regGet g a l 1) (opdGet g b l 1 false)) s
def execFfma (h : Hdr) (r : Rnd) (ftz : Bool) (d a : Reg) (b : Opd) (cr : Reg) (s : State) : Res :=
  fltForm h (Instr.size (.ffma h r ftz d a b cr)) ([.rd a 1, .rd cr 1] ++ opdUse b 1) d 1
    (fun g l => fFma fmtF32 r (flushOf g ftz) (regGet g a l 1) (opdGet g b l 1 false) (regGet g cr l 1)) s

def execFmnmxMin (h : Hdr) (ftz : Bool) (d a : Reg) (b : Opd) (s : State) : Res :=
  fltForm h (Instr.size (.fmnmxMin h ftz d a b)) ([.rd a 1] ++ opdUse b 1) d 1
    (fun g l => (fMinMax fmtF32 false (flushOf g ftz) (regGet g a l 1) (opdGet g b l 1 false), 0)) s
def execFmnmxMax (h : Hdr) (ftz : Bool) (d a : Reg) (b : Opd) (s : State) : Res :=
  fltForm h (Instr.size (.fmnmxMax h ftz d a b)) ([.rd a 1] ++ opdUse b 1) d 1
    (fun g l => (fMinMax fmtF32 true (flushOf g ftz) (regGet g a l 1) (opdGet g b l 1 false), 0)) s

def execFcmp (h : Hdr) (k : FCond) (ftz : Bool) (pd : BitVec 3) (a : Reg) (b : Opd) (s : State) : Res :=
  simt h (Instr.size (.fcmp h k ftz pd a b)) ([.rd a 1, .wp pd.toNat] ++ opdUse b 1) noPriv (fun c s =>
    let g := s.grp c.t c.g
    let v (l : Nat) : Bool × Flags := fCmp k (flushOf g ftz) (regGet g a l 1) (opdGet g b l 1 false)
    .adv (orFlags c (unionFlags ((lanes c.E).map fun l => (v l).2)) (writePred c c.E pd.toNat (fun l => (v l).1) s))) s

/-- A unary function of an FP32 register. -/
def ffnForm (h : Hdr) (size : Nat) (ftz : Bool) (d a : Reg) (f : Bool → Nat → Nat × Flags) (s : State) : Res :=
  fltForm h size [.rd a 1] d 1 (fun g l => f (flushOf g ftz) (regGet g a l 1)) s

def execFfnRcp (h : Hdr) (r : Rnd) (ftz : Bool) (d a : Reg) (s : State) : Res :=
  ffnForm h (Instr.size (.ffnRcp h r ftz d a)) ftz d a (ffnRcpVal r) s
def execFfnSqrt (h : Hdr) (r : Rnd) (ftz : Bool) (d a : Reg) (s : State) : Res :=
  ffnForm h (Instr.size (.ffnSqrt h r ftz d a)) ftz d a (ffnSqrtVal false r) s
def execFfnRsqrt (h : Hdr) (r : Rnd) (ftz : Bool) (d a : Reg) (s : State) : Res :=
  ffnForm h (Instr.size (.ffnRsqrt h r ftz d a)) ftz d a (ffnSqrtVal true r) s
def execFfnExp2 (h : Hdr) (r : Rnd) (ftz : Bool) (d a : Reg) (s : State) : Res :=
  ffnForm h (Instr.size (.ffnExp2 h r ftz d a)) ftz d a (ffnExp2Val r) s
def execFfnLog2 (h : Hdr) (r : Rnd) (ftz : Bool) (d a : Reg) (s : State) : Res :=
  ffnForm h (Instr.size (.ffnLog2 h r ftz d a)) ftz d a (ffnLog2Val r) s
def execFfnSinpi (h : Hdr) (r : Rnd) (ftz : Bool) (d a : Reg) (s : State) : Res :=
  ffnForm h (Instr.size (.ffnSinpi h r ftz d a)) ftz d a (ffnSinVal false r) s
def execFfnCospi (h : Hdr) (r : Rnd) (ftz : Bool) (d a : Reg) (s : State) : Res :=
  ffnForm h (Instr.size (.ffnCospi h r ftz d a)) ftz d a (ffnSinVal true r) s

def execCvt (h : Hdr) (dty sty : Ty) (nosat : Bool) (r : Rnd) (ftz : Bool) (d a : Reg) (s : State) : Res :=
  fltForm h (Instr.size (.cvt h dty sty nosat r ftz d a)) [.rd a (tyRegs sty)] d (tyRegs dty)
    (fun g l => cvtVal dty sty nosat r (flushOf g ftz) (regGet g a l (tyRegs sty))) s

/-- A pair of BF16 elements, each by f (R156). -/
def onHalves (f : Nat → Nat × Flags) : Nat × Flags :=
  ((f 0).1 % 2 ^ 16 + (f 16).1 % 2 ^ 16 * 2 ^ 16, (f 0).2 ||| (f 16).2)

def fma2Val (r : Rnd) (ftz : Bool) (a b c : Nat) : Nat × Flags :=
  onHalves fun i => fFma fmtBf16 r ftz (fld a i 16) (fld b i 16) (fld c i 16)

def execFma2 (h : Hdr) (r : Rnd) (ftz : Bool) (d a : Reg) (b : Opd) (cr : Reg) (s : State) : Res :=
  fltForm h (Instr.size (.fma2 h r ftz d a b cr)) ([.rd a 1, .rd cr 1] ++ opdUse b 1) d 1
    (fun g l => fma2Val r (flushOf g ftz) (regGet g a l 1) (opdGet g b l 1 false) (regGet g cr l 1)) s

/-- Rounded to an integral value, no flag (R157). -/
def frndVal (r : Rnd) (ftz : Bool) (a : Nat) : Nat × Flags :=
  match fmtF32.read ftz a with
  | .fin neg m e =>
    match (FV.fin neg m e).toInt r with
    | some (x, _) => ((fmtF32.write .rne false true (.fin neg x.natAbs 0)).1, 0)
    | none => (fmtF32.nanBits, 0)
  | v => ((fmtF32.write .rne false true v).1, 0)

def execFrnd (h : Hdr) (r : Rnd) (ftz : Bool) (d a : Reg) (s : State) : Res :=
  ffnForm h (Instr.size (.frnd h r ftz d a)) ftz d a (frndVal r) s

/-- XACC of an FP32 contribution (R158). -/
def xaccVal (a b : Nat) : Nat × Flags :=
  let x := xOfF32 b
  let t := xAdd a x.1
  (t.1, x.2 ||| t.2)

def execXaccF32 (h : Hdr) (d a : Reg) (b : Opd) (s : State) : Res :=
  fltForm h (Instr.size (.xaccF32 h d a b)) ([.rd a 4] ++ opdUse b 1) d 4
    (fun g l => xaccVal (regGet g a l 4) (opdGet g b l 1 false)) s
def execXaccX128 (h : Hdr) (d a b : Reg) (s : State) : Res :=
  fltForm h (Instr.size (.xaccX128 h d a b)) [.rd a 4, .rd b 4] d 4
    (fun g l => xAdd (regGet g a l 4) (regGet g b l 4)) s
def execXrnd (h : Hdr) (r : Rnd) (d a : Reg) (s : State) : Res :=
  fltForm h (Instr.size (.xrnd h r d a)) [.rd a 4] d 1 (fun g l => xToF32 r (regGet g a l 4)) s

end Sys2Proof.Machine
end

