-- ==== Sys2Proof/Machine/Integer.lean ====
section
/-! DEFINITION. The integer and bit class but for the queue forms of MOV (05). -/

set_option linter.unusedVariables false

namespace Sys2Proof.Machine

/-- A two-operand form on registers of a type: f on the raw bits of a and b. -/
def intAB (h : Hdr) (size ka kd : Nat) (d a : Reg) (b : Opd) (kb : Nat) (sx : Bool) (f : Nat → Nat → Nat) (s : State) :
    Res :=
  simt h size ([.rd a ka, .wr d kd] ++ opdUse b kb) noPriv (fun c s =>
    let g := s.grp c.t c.g
    .adv (writeReg c c.E d kd (fun l => f (regGet g a l ka) (opdGet g b l kb sx)) s)) s

/-- A three-operand form. -/
def intABC (h : Hdr) (size ka kd : Nat) (d a : Reg) (b : Opd) (kb : Nat) (sx : Bool) (cr : Reg) (kc : Nat)
    (f : Nat → Nat → Nat → Nat) (s : State) : Res :=
  simt h size ([.rd a ka, .rd cr kc, .wr d kd] ++ opdUse b kb) noPriv (fun c s =>
    let g := s.grp c.t c.g
    .adv (writeReg c c.E d kd (fun l => f (regGet g a l ka) (opdGet g b l kb sx) (regGet g cr l kc)) s)) s

/-- A unary form. -/
def intA (h : Hdr) (size ka kd : Nat) (d a : Reg) (f : Nat → Nat) (s : State) : Res :=
  simt h size [.rd a ka, .wr d kd] noPriv (fun c s =>
    let g := s.grp c.t c.g
    .adv (writeReg c c.E d kd (fun l => f (regGet g a l ka)) s)) s

/-- A result wrapped or clamped (05 R128). -/
def satRes (t : Ty) (clamp : Bool) (v : Int) : Nat := tyRes t (if clamp then sat v (tyMin t) (tyMax t) else v)

/-- The sign extension of an IMM32 in the place of a pair (05 R124). -/
def immSx (t : Ty) : Bool := tySigned t

/-! IADD, ISUB (R129). -/

def addVal (t : Ty) (clamp : Bool) (a b : Nat) : Nat := satRes t clamp (tyVal t a + tyVal t b)
def subVal (t : Ty) (clamp : Bool) (a b : Nat) : Nat := satRes t clamp (tyVal t a - tyVal t b)

def execIadd (h : Hdr) (t : Ty) (clamp : Bool) (d a : Reg) (b : Opd) (s : State) : Res :=
  intAB h (Instr.size (.iadd h t clamp d a b)) (tyRegs t) (tyRegs t) d a b (tyRegs t) (immSx t) (addVal t clamp) s

def execIsub (h : Hdr) (t : Ty) (clamp : Bool) (d a : Reg) (b : Opd) (s : State) : Res :=
  intAB h (Instr.size (.isub h t clamp d a b)) (tyRegs t) (tyRegs t) d a b (tyRegs t) (immSx t) (subVal t clamp) s

/-- A .cc form: DST and the predicate written together; each lane reads its carry first. -/
def carryForm (h : Hdr) (size : Nat) (d a : Reg) (b : Opd) (pc : BitVec 3) (f : Nat → Nat → Bool → Nat × Bool)
    (s : State) : Res :=
  simt h size ([.rd a 1, .wr d 1, .pd pc.toNat, .wp pc.toNat] ++ opdUse b 1) noPriv (fun c s =>
    let g := s.grp c.t c.g
    let r (l : Nat) : Nat × Bool := f (regGet g a l 1) (opdGet g b l 1 false) ((g.pred pc.toNat).getLsbD l)
    .adv (writePred c c.E pc.toNat (fun l => (r l).2) (writeReg c c.E d 1 (fun l => (r l).1) s))) s

def execIaddCc (h : Hdr) (t : Ty) (d a : Reg) (b : Opd) (pc : BitVec 3) (s : State) : Res :=
  carryForm h (Instr.size (.iaddCc h t d a b pc)) d a b pc addCarry s

def execIsubCc (h : Hdr) (t : Ty) (d a : Reg) (b : Opd) (pc : BitVec 3) (s : State) : Res :=
  carryForm h (Instr.size (.isubCc h t d a b pc)) d a b pc subBorrow s

/-! IMUL, IMAD (R130). -/

def mulLo (t : Ty) (clamp : Bool) (a b : Nat) : Nat := satRes t clamp (tyVal t a * tyVal t b)
/-- floor(a × b / 2^w). -/
def mulHiInt (t : Ty) (a b : Nat) : Int := (tyVal t a * tyVal t b) / ((2 ^ tyBits t : Nat) : Int)
def mulHi (t : Ty) (a b : Nat) : Nat := tyRes t (mulHiInt t a b)
def mulWide (t : Ty) (a b : Nat) : Nat := wrap 64 (tyVal t a * tyVal t b)
def madLo (t : Ty) (clamp : Bool) (a b c : Nat) : Nat := satRes t clamp (tyVal t a * tyVal t b + tyVal t c)
def madHi (t : Ty) (a b c : Nat) : Nat := tyRes t (mulHiInt t a b + tyVal t c)
def madWide (t : Ty) (a b c : Nat) : Nat := wrap 64 (tyVal t a * tyVal t b + (c : Int))

def execImulLo (h : Hdr) (t : Ty) (clamp : Bool) (d a : Reg) (b : Opd) (s : State) : Res :=
  intAB h (Instr.size (.imulLo h t clamp d a b)) (tyRegs t) (tyRegs t) d a b (tyRegs t) (immSx t) (mulLo t clamp) s
def execImulHi (h : Hdr) (t : Ty) (d a : Reg) (b : Opd) (s : State) : Res :=
  intAB h (Instr.size (.imulHi h t d a b)) (tyRegs t) (tyRegs t) d a b (tyRegs t) (immSx t) (mulHi t) s
def execImulWide (h : Hdr) (t : Ty) (d a : Reg) (b : Opd) (s : State) : Res :=
  intAB h (Instr.size (.imulWide h t d a b)) 1 2 d a b 1 false (mulWide t) s
def execImadLo (h : Hdr) (t : Ty) (clamp : Bool) (d a : Reg) (b : Opd) (cr : Reg) (s : State) : Res :=
  intABC h (Instr.size (.imadLo h t clamp d a b cr)) (tyRegs t) (tyRegs t) d a b (tyRegs t) (immSx t) cr (tyRegs t)
    (madLo t clamp) s
def execImadHi (h : Hdr) (t : Ty) (d a : Reg) (b : Opd) (cr : Reg) (s : State) : Res :=
  intABC h (Instr.size (.imadHi h t d a b cr)) (tyRegs t) (tyRegs t) d a b (tyRegs t) (immSx t) cr (tyRegs t)
    (madHi t) s
def execImadWide (h : Hdr) (t : Ty) (d a : Reg) (b : Opd) (cr : Reg) (s : State) : Res :=
  intABC h (Instr.size (.imadWide h t d a b cr)) 1 2 d a b 1 false cr 2 (madWide t) s

/-! SHF (R131). -/

def shlVal (w a n : Nat) : Nat := if n < w then a * 2 ^ n % 2 ^ w else 0
def shrVal (w a n : Nat) : Nat := if n < w then a / 2 ^ n else 0
def sraVal (w a n : Nat) : Nat := wrap w (sgn w a / ((2 ^ min n (w - 1) : Nat) : Int))
def rolVal (w a n : Nat) : Nat := (a * 2 ^ (n % w) % 2 ^ w) + a / 2 ^ (w - n % w)
def funnel (a c : Nat) : Nat := c * 2 ^ 32 + a
def funnelL (a n c : Nat) : Nat := funnel a c * 2 ^ min n 32 / 2 ^ 32 % 2 ^ 32
def funnelR (a n c : Nat) : Nat := funnel a c / 2 ^ min n 32 % 2 ^ 32

def execShfL (h : Hdr) (t : Ty) (d a : Reg) (b : Opd) (s : State) : Res :=
  intAB h (Instr.size (.shfL h t d a b)) (tyRegs t) (tyRegs t) d a b 1 false (shlVal (tyBits t)) s
def execShfR (h : Hdr) (t : Ty) (d a : Reg) (b : Opd) (s : State) : Res :=
  intAB h (Instr.size (.shfR h t d a b)) (tyRegs t) (tyRegs t) d a b 1 false (shrVal (tyBits t)) s
def execShfRa (h : Hdr) (t : Ty) (d a : Reg) (b : Opd) (s : State) : Res :=
  intAB h (Instr.size (.shfRa h t d a b)) (tyRegs t) (tyRegs t) d a b 1 false (sraVal (tyBits t)) s
def execShfRol (h : Hdr) (t : Ty) (d a : Reg) (b : Opd) (s : State) : Res :=
  intAB h (Instr.size (.shfRol h t d a b)) (tyRegs t) (tyRegs t) d a b 1 false (rolVal (tyBits t)) s
def execShfLf (h : Hdr) (d a : Reg) (b : Opd) (cr : Reg) (s : State) : Res :=
  intABC h (Instr.size (.shfLf h d a b cr)) 1 1 d a b 1 false cr 1 funnelL s
def execShfRf (h : Hdr) (d a : Reg) (b : Opd) (cr : Reg) (s : State) : Res :=
  intABC h (Instr.size (.shfRf h d a b cr)) 1 1 d a b 1 false cr 1 funnelR s

/-! LTAB (R132), ICMP, IMNMX (R133). -/

/-- Bit k of the result is bit a[k] + 2 b[k] + 4 c[k] of the table. -/
def tableVal (w : Nat) (tbl : Byte) (a b c : Nat) : Nat :=
  (List.range w).foldl (fun r k =>
    r + (if tbl.getLsbD (b2n (a.testBit k) + 2 * b2n (b.testBit k) + 4 * b2n (c.testBit k)) then 2 ^ k else 0)) 0

def execLtab (h : Hdr) (t : Ty) (tbl : Byte) (d a : Reg) (b : Opd) (cr : Reg) (s : State) : Res :=
  intABC h (Instr.size (.ltab h t tbl d a b cr)) (tyRegs t) (tyRegs t) d a b (tyRegs t) false cr (tyRegs t)
    (tableVal (tyBits t) tbl) s

def icmpVal (t : Ty) (k : ICond) (a b : Nat) : Bool :=
  let x := tyVal t a
  let y := tyVal t b
  match k with
  | .eq => x == y
  | .ne => x != y
  | .lt => decide (x < y)
  | .le => decide (x ≤ y)
  | .gt => decide (y < x)
  | .ge => decide (y ≤ x)

def execIcmp (h : Hdr) (t : Ty) (k : ICond) (pd : BitVec 3) (a : Reg) (b : Opd) (s : State) : Res :=
  simt h (Instr.size (.icmp h t k pd a b)) ([.rd a (tyRegs t), .wp pd.toNat] ++ opdUse b (tyRegs t)) noPriv (fun c s =>
    let g := s.grp c.t c.g
    .adv (writePred c c.E pd.toNat
      (fun l => icmpVal t k (regGet g a l (tyRegs t)) (opdGet g b l (tyRegs t) (immSx t))) s)) s

def minVal (t : Ty) (a b : Nat) : Nat := tyRes t (min (tyVal t a) (tyVal t b))
def maxVal (t : Ty) (a b : Nat) : Nat := tyRes t (max (tyVal t a) (tyVal t b))

def execImnmxMin (h : Hdr) (t : Ty) (d a : Reg) (b : Opd) (s : State) : Res :=
  intAB h (Instr.size (.imnmxMin h t d a b)) (tyRegs t) (tyRegs t) d a b (tyRegs t) (immSx t) (minVal t) s
def execImnmxMax (h : Hdr) (t : Ty) (d a : Reg) (b : Opd) (s : State) : Res :=
  intAB h (Instr.size (.imnmxMax h t d a b)) (tyRegs t) (tyRegs t) d a b (tyRegs t) (immSx t) (maxVal t) s

/-! BFE, BFI (R134). -/

/-- The cut position and length of a field. -/
def fieldAt (w b : Nat) : Nat × Nat :=
  let p := min (fld b 0 8) w
  (p, min (fld b 8 8) (w - p))

def bfeVal (t : Ty) (a b : Nat) : Nat :=
  let pn := fieldAt (tyBits t) b
  if pn.2 = 0 then 0
  else
    let f := fld a pn.1 pn.2
    if tySigned t then wrap (tyBits t) (sgn pn.2 f) else f

def bfiVal (w a b c : Nat) : Nat :=
  let pn := fieldAt w b
  setFld c pn.1 pn.2 a

def execBfe (h : Hdr) (t : Ty) (d a : Reg) (b : Opd) (s : State) : Res :=
  intAB h (Instr.size (.bfe h t d a b)) (tyRegs t) (tyRegs t) d a b 1 false (bfeVal t) s
def execBfi (h : Hdr) (t : Ty) (d a : Reg) (b : Opd) (cr : Reg) (s : State) : Res :=
  intABC h (Instr.size (.bfi h t d a b cr)) (tyRegs t) (tyRegs t) d a b 1 false cr (tyRegs t) (bfiVal (tyBits t)) s

/-! BITS (R135). -/

def popcVal (w a : Nat) : Nat := ((List.range w).filter fun k => a.testBit k).length
def clzVal (w a : Nat) : Nat := ((List.range w).takeWhile fun k => !(a.testBit (w - 1 - k))).length
def ctzVal (w a : Nat) : Nat := ((List.range w).takeWhile fun k => !(a.testBit k)).length
def brevVal (w a : Nat) : Nat := (List.range w).foldl (fun r k => r + (if a.testBit (w - 1 - k) then 2 ^ k else 0)) 0

def execBitsPopc (h : Hdr) (t : Ty) (d a : Reg) (s : State) : Res :=
  intA h (Instr.size (.bitsPopc h t d a)) (tyRegs t) 1 d a (popcVal (tyBits t)) s
def execBitsClz (h : Hdr) (t : Ty) (d a : Reg) (s : State) : Res :=
  intA h (Instr.size (.bitsClz h t d a)) (tyRegs t) 1 d a (clzVal (tyBits t)) s
def execBitsCtz (h : Hdr) (t : Ty) (d a : Reg) (s : State) : Res :=
  intA h (Instr.size (.bitsCtz h t d a)) (tyRegs t) 1 d a (ctzVal (tyBits t)) s
def execBitsBrev (h : Hdr) (t : Ty) (d a : Reg) (s : State) : Res :=
  intA h (Instr.size (.bitsBrev h t d a)) (tyRegs t) (tyRegs t) d a (brevVal (tyBits t)) s

/-! SEL (R136), MOV of registers and predicates (R137, R138), MOVI (R141). -/

def execSel (h : Hdr) (t : Ty) (d a : Reg) (b : Opd) (pc : BitVec 3) (s : State) : Res :=
  simt h (Instr.size (.sel h t d a b pc)) ([.rd a (tyRegs t), .wr d (tyRegs t), .pd pc.toNat] ++ opdUse b (tyRegs t))
    noPriv (fun c s =>
      let g := s.grp c.t c.g
      .adv (writeReg c c.E d (tyRegs t) (fun l =>
        if (g.pred pc.toNat).getLsbD l then regGet g a l (tyRegs t) else opdGet g b l (tyRegs t) false) s)) s

def execMov (h : Hdr) (t : Ty) (d b : Reg) (s : State) : Res :=
  intA h (Instr.size (.mov h t d b)) (tyRegs t) (tyRegs t) d b id s

/-- The predicates of a lane as bits, p0 reading 1. -/
def predBits (g : Group) (l : Nat) : Nat :=
  (List.range 8).foldl (fun a i => a + (if (g.pred i).getLsbD l then 2 ^ i else 0)) 0

def execMovP2v (h : Hdr) (d : BitVec 8) (s : State) : Res :=
  simt h (Instr.size (.movP2v h d)) ([.wr (.v d) 1] ++ (List.range 8).map .pd) noPriv (fun c s =>
    let g := s.grp c.t c.g
    .adv (writeReg c c.E (.v d) 1 (predBits g) s)) s

def execMovV2p (h : Hdr) (b : Reg) (s : State) : Res :=
  simt h (Instr.size (.movV2p h b)) (.rd b 1 :: (List.range 8).map .wp) noPriv (fun c s =>
    let g := s.grp c.t c.g
    .adv ((List.range 7).foldl (fun s i => writePred c c.E (i + 1) (fun l => (regGet g b l 1).testBit (i + 1)) s) s)) s

/-- A constant into k registers. -/
def moviForm (h : Hdr) (size : Nat) (d : Reg) (k x : Nat) (s : State) : Res :=
  simt h size [.wr d k] noPriv (fun c s => .adv (writeReg c c.E d k (fun _ => x) s)) s

def execMoviVector (h : Hdr) (d : BitVec 8) (x : Word) (s : State) : Res :=
  moviForm h (Instr.size (.moviVector h d x)) (.v d) 1 x.toNat s
def execMoviVectorPair (h : Hdr) (d : BitVec 8) (x : DWord) (s : State) : Res :=
  moviForm h (Instr.size (.moviVectorPair h d x)) (.v d) 2 x.toNat s
def execMoviUniform (h : Hdr) (d : BitVec 6) (x : Word) (s : State) : Res :=
  moviForm h (Instr.size (.moviUniform h d x)) (.s d) 1 x.toNat s
def execMoviUniformPair (h : Hdr) (d : BitVec 6) (x : DWord) (s : State) : Res :=
  moviForm h (Instr.size (.moviUniformPair h d x)) (.s d) 2 x.toNat s

/-! LEA (R142), DP4 (R143). -/

def leaVal (t : Ty) (sh a b : Nat) : Nat :=
  let i : Int := if t == .i64 then sgn 32 b else (b : Int)
  wrap (tyBits t) ((a : Int) + i * ((2 ^ sh : Nat) : Int))

def execLea (h : Hdr) (t : Ty) (sh : BitVec 3) (d a : Reg) (b : Opd) (s : State) : Res :=
  intAB h (Instr.size (.lea h t sh d a b)) (tyRegs t) (tyRegs t) d a b 1 false (leaVal t sh.toNat) s

/-- A byte of a word, signed or not. -/
def byteVal (signed : Bool) (x i : Nat) : Int := if signed then sgn 8 (fld x (8 * i) 8) else (fld x (8 * i) 8 : Nat)

def dp4Val (sa sb clamp : Bool) (a b c : Nat) : Nat :=
  let t := (List.range 4).foldl (fun t i => t + byteVal sa a i * byteVal sb b i) (sgn 32 c)
  satRes .i32 clamp t

def execDp4 (h : Hdr) (sa sb clamp : Bool) (d a : Reg) (b : Opd) (cr : Reg) (s : State) : Res :=
  intABC h (Instr.size (.dp4 h sa sb clamp d a b cr)) 1 1 d a b 1 false cr 1 (dp4Val sa sb clamp) s

end Sys2Proof.Machine
end

