-- ==== Sys2Proof/Machine/Lanes.lean ====
section
/-! DEFINITION. The lanes and random class (07): exchanges among the participants of a home group, random numbers,
byte selection. -/

set_option linter.unusedVariables false

namespace Sys2Proof.Machine

/-! SHFL (R163). The participants are the lanes of E (R160). -/

/-- The source lane of a form: .idx, .up, .down, .xor; 32 and above name no lane. -/
def srcIdx (l k : Nat) : Nat := k
def srcUp (l k : Nat) : Nat := if k ≤ l then l - k else 32
def srcDown (l k : Nat) : Nat := l + k
def srcXor (l k : Nat) : Nat := l ^^^ k

/-- SHFL: every value is read before any write. -/
def shflForm (h : Hdr) (size k : Nat) (src : Nat → Nat → Nat) (d a : BitVec 8) (b : Opd) (pv : BitVec 3) (s : State) :
    Res :=
  simt h size ([.rd (.v a) k, .wr (.v d) k, .wp pv.toNat] ++ opdUse b 1) noPriv (fun c s =>
    let g := s.grp c.t c.g
    let from_ (l : Nat) : Nat := src l (opdGet g b l 1 false % 32)
    let ok (l : Nat) : Bool := decide (from_ l < 32) && c.E.getLsbD (from_ l)
    .adv (writePred c c.E pv.toNat ok
      (writeReg c c.E (.v d) k (fun l => regGet g (.v a) (if ok l then from_ l else l) k) s))) s

def execShflIdx (h : Hdr) (t : Ty) (d a : BitVec 8) (b : Opd) (pv : BitVec 3) (s : State) : Res :=
  shflForm h (Instr.size (.shflIdx h t d a b pv)) (tyRegs t) srcIdx d a b pv s
def execShflUp (h : Hdr) (t : Ty) (d a : BitVec 8) (b : Opd) (pv : BitVec 3) (s : State) : Res :=
  shflForm h (Instr.size (.shflUp h t d a b pv)) (tyRegs t) srcUp d a b pv s
def execShflDown (h : Hdr) (t : Ty) (d a : BitVec 8) (b : Opd) (pv : BitVec 3) (s : State) : Res :=
  shflForm h (Instr.size (.shflDown h t d a b pv)) (tyRegs t) srcDown d a b pv s
def execShflXor (h : Hdr) (t : Ty) (d a : BitVec 8) (b : Opd) (pv : BitVec 3) (s : State) : Res :=
  shflForm h (Instr.size (.shflXor h t d a b pv)) (tyRegs t) srcXor d a b pv s

/-! BALLOT (R164), VOTE (R165). -/

/-- Bit l: bit b of lane l's a, for the participants. -/
def ballotVal (g : Group) (E : Lanes) (a : Reg) (b : Opd) : Nat :=
  (laneSet fun l => E.getLsbD l && (regGet g a l 1).testBit (opdGet g b l 1 false % 32)).toNat

def execBallot (h : Hdr) (d a : Reg) (b : Opd) (s : State) : Res :=
  simt h (Instr.size (.ballot h d a b)) ([.rd a 1, .wr d 1] ++ opdUse b 1) noPriv (fun c s =>
    let m := ballotVal (s.grp c.t c.g) c.E a b
    .adv (writeReg c c.E d 1 (fun _ => m) s)) s

/-- One predicate for every participant, from those that hold pa and all of them. -/
def voteForm (h : Hdr) (size : Nat) (pd pa : BitVec 3) (f : Lanes → Lanes → Bool) (s : State) : Res :=
  simt h size [.pd pa.toNat, .wp pd.toNat] noPriv (fun c s =>
    let v := f ((s.grp c.t c.g).pred pa.toNat &&& c.E) c.E
    .adv (writePred c c.E pd.toNat (fun _ => v) s)) s

def voteAllVal (yes all : Lanes) : Bool := yes == all
def voteAnyVal (yes _all : Lanes) : Bool := yes != 0
def voteUniVal (yes all : Lanes) : Bool := yes == all || yes == 0

def execVoteAll (h : Hdr) (pd pa : BitVec 3) (s : State) : Res :=
  voteForm h (Instr.size (.voteAll h pd pa)) pd pa voteAllVal s
def execVoteAny (h : Hdr) (pd pa : BitVec 3) (s : State) : Res :=
  voteForm h (Instr.size (.voteAny h pd pa)) pd pa voteAnyVal s
def execVoteUni (h : Hdr) (pd pa : BitVec 3) (s : State) : Res :=
  voteForm h (Instr.size (.voteUni h pd pa)) pd pa voteUniVal s

/-! LRED (R166). -/

/-- The fold over the participants' values, ascending, with the union of the flags. -/
def foldVals (f : Nat → Nat → Nat × Flags) : List Nat → Nat × Flags
  | [] => (0, 0)
  | x :: xs => xs.foldl (fun (acc : Nat × Flags) y => let r := f acc.1 y; (r.1, acc.2 ||| r.2)) (x, 0)

/-- A single FP32 participant gives its own value, a NaN made canonical. -/
def foldF32 (f : Nat → Nat → Nat × Flags) (xs : List Nat) : Nat × Flags :=
  match xs with
  | [x] => (match fmtF32.read false x with
    | .nan => fmtF32.nanBits
    | _ => x, 0)
  | xs => foldVals f xs

def lredForm (h : Hdr) (size k : Nat) (d a : Reg) (f : Group → List Nat → Nat × Flags) (s : State) : Res :=
  simt h size [.rd a k, .wr d k] noPriv (fun c s =>
    let g := s.grp c.t c.g
    let r := f g ((lanes c.E).map fun l => regGet g a l k)
    .adv (orFlags c r.2 (writeReg c c.E d k (fun _ => r.1) s))) s

/-- .add of a type. -/
def lredAddVal (t : Ty) (g : Group) (xs : List Nat) : Nat × Flags :=
  if t == .f32 then foldF32 (fAdd fmtF32 .rne (flushOf g false)) xs
  else if t == .x128 then foldVals xAdd xs
  else foldVals (fun a b => (addVal t false a b, 0)) xs
def lredMinMaxVal (hi : Bool) (t : Ty) (g : Group) (xs : List Nat) : Nat × Flags :=
  if t == .f32 then foldF32 (fun a b => (fMinMax fmtF32 hi (flushOf g false) a b, 0)) xs
  else foldVals (fun a b => (if hi then maxVal t a b else minVal t a b, 0)) xs

def execLredAdd (h : Hdr) (t : Ty) (d a : Reg) (s : State) : Res :=
  lredForm h (Instr.size (.lredAdd h t d a)) (tyRegs t) d a (lredAddVal t) s
def execLredMin (h : Hdr) (t : Ty) (d a : Reg) (s : State) : Res :=
  lredForm h (Instr.size (.lredMin h t d a)) (tyRegs t) d a (lredMinMaxVal false t) s
def execLredMax (h : Hdr) (t : Ty) (d a : Reg) (s : State) : Res :=
  lredForm h (Instr.size (.lredMax h t d a)) (tyRegs t) d a (lredMinMaxVal true t) s
def execLredAnd (h : Hdr) (t : Ty) (d a : Reg) (s : State) : Res :=
  lredForm h (Instr.size (.lredAnd h t d a)) (tyRegs t) d a (fun _ => foldVals fun x y => (x &&& y, 0)) s
def execLredOr (h : Hdr) (t : Ty) (d a : Reg) (s : State) : Res :=
  lredForm h (Instr.size (.lredOr h t d a)) (tyRegs t) d a (fun _ => foldVals fun x y => (x ||| y, 0)) s
def execLredXor (h : Hdr) (t : Ty) (d a : Reg) (s : State) : Res :=
  lredForm h (Instr.size (.lredXor h t d a)) (tyRegs t) d a (fun _ => foldVals fun x y => (x ^^^ y, 0)) s

/-! RNG (R167 to R169). -/

/-- MIX32 (R167). -/
def mix32 (x : Nat) : Nat :=
  let m := 2 ^ 32
  let x := x % m
  let x := x ^^^ (x >>> 16)
  let x := x * 0x7FEB352D % m
  let x := x ^^^ (x >>> 15)
  let x := x * 0x846CA68B % m
  x ^^^ (x >>> 16)

/-- The global thread id of a lane (04 R86). -/
def threadId (s : State) (t g l : Nat) : Nat :=
  ((s.team t).linear * (s.launchOf t).groups * 32 + g * 32 + l) % 2 ^ 32

/-- The counter generator's value for draw n (R168). -/
def counterDraw (s : State) (t g l n : Nat) : Nat :=
  let tm := s.team t
  let base := mix32 (tm.rngKey.toNat ^^^ (s.launchOf t).lid.toNat ^^^ (tm.linear * 0x85EBCA6B % 2 ^ 32))
  mix32 (base ^^^ ((g * 32 + l) * 0x01000193 % 2 ^ 32) ^^^ (n * 0x9E3779B9 % 2 ^ 32))

def execRngC (h : Hdr) (d : BitVec 8) (s : State) : Res :=
  simt h (Instr.size (.rngC h d)) [.wr (.v d) 1] noPriv (fun c s0 =>
    let g := s0.grp c.t c.g
    let s := writeReg c c.E (.v d) 1 (fun l => counterDraw s0 c.t c.g l (g.draw.get l).toNat) s0
    .adv (s.modGrp c.t c.g fun gr => { gr with draw := setLanes gr.draw c.E fun l => g.draw.get l + 1 })) s

def execRngCx (h : Hdr) (d a : BitVec 8) (s : State) : Res :=
  simt h (Instr.size (.rngCx h d a)) [.rd (.v a) 1, .wr (.v d) 1] noPriv (fun c s =>
    let g := s.grp c.t c.g
    .adv (writeReg c c.E (.v d) 1 (fun l => counterDraw s c.t c.g l (regGet g (.v a) l 1)) s)) s

/-- A state of RNG.s from a seed: never 0 (R169). -/
def rngSeed (seed g : Nat) : Nat :=
  let x := mix32 (seed ^^^ g)
  if x = 0 then 1 else x
/-- One xorshift step. -/
def xorshift (x : Nat) : Nat :=
  let x := x ^^^ (x <<< 13 % 2 ^ 32)
  let x := x ^^^ (x >>> 17)
  x ^^^ (x <<< 5 % 2 ^ 32)

/-- RNG.s needs MODE.TEST = 1, whatever the rights (02 R52). -/
def needTest (s : State) (c : Ctx) : Bool := !((s.grp c.t c.g).mode.getLsbD 2)

def rngSForm (h : Hdr) (size : Nat) (d : BitVec 8) (start : State → Ctx → Nat → Nat) (s : State) : Res :=
  simt h size [.wr (.v d) 1] needTest (fun c s =>
    let x (l : Nat) : Nat := xorshift (start s c l)
    .adv ((writeReg c c.E (.v d) 1 x s).modGrp c.t c.g fun g =>
      { g with rng := setLanes g.rng c.E fun l => BitVec.ofNat 32 (x l) })) s

def execRngSStep (h : Hdr) (d : BitVec 8) (s : State) : Res :=
  rngSForm h (Instr.size (.rngSStep h d)) d (fun s c l => ((s.grp c.t c.g).rng.get l).toNat) s
def execRngSReseed (h : Hdr) (d : BitVec 8) (seed : Word) (s : State) : Res :=
  rngSForm h (Instr.size (.rngSReseed h d seed)) d (fun s c l => rngSeed seed.toNat (threadId s c.t c.g l)) s

/-! BSEL (R170). -/

/-- The bits of a byte reversed. -/
def revByte (y : Nat) : Nat := (List.range 8).foldl (fun r k => r + (if y.testBit (7 - k) then 2 ^ k else 0)) 0

def bselVal (a b c : Nat) : Nat :=
  (List.range 4).foldl (fun r i =>
    let e := fld b (8 * i) 8
    let y := fld (c * 2 ^ 32 + a) (8 * (e % 8)) 8
    let z := match fld e 3 2 with
      | 0 => y
      | 1 => 0
      | 2 => if y.testBit 7 then 0xFF else 0
      | _ => revByte y
    r + z * 2 ^ (8 * i)) 0

def execBsel (h : Hdr) (d a : Reg) (b : Opd) (cr : Reg) (s : State) : Res :=
  intABC h (Instr.size (.bsel h d a b cr)) 1 1 d a b 1 false cr 1 bselVal s

end Sys2Proof.Machine
end

