-- ==== Sys2Proof/Machine/Split.lean ====
section
/-! DEFINITION. The split formats: codebooks, records, the checks of a record, encoding and decoding a tile (03 R67 to
R78). A record is a number, byte 0 lowest. -/

namespace Sys2Proof.Machine

/-! Codes and records (R67 to R73). -/

/-- T16 and T8 (Table 3.3). -/
def t16 : List Int := [-64, -48, -37, -28, -21, -14, -7, 0, 6, 12, 18, 25, 32, 40, 50, 64]
def t8 : List Int := [-64, -36, -15, 0, 13, 29, 45, 64]
def codeBook (q16 : Bool) : List Int := if q16 then t16 else t8
def codeInt (q16 : Bool) (c : Nat) : Int := (codeBook q16).getD c 0
def codeBits (q16 : Bool) : Nat := if q16 then 4 else 3
def zeroCode (q16 : Bool) : Nat := if q16 then 7 else 3
/-- The body and the whole of a record in bytes (Table 3.6). -/
def bodySize (q16 : Bool) : Nat := if q16 then 512 else 384
def recSize (q16 : Bool) (cap : Nat) : Nat := bodySize q16 + 32 * (cap / 8 + 1)

/-- The code of element i = 64 row + column (R70, R71). -/
def recCode (q16 : Bool) (r i : Nat) : Nat := fld r (codeBits q16 * i) (codeBits q16)
/-- The header and the k-th entry of the outlier section (Tables 3.4, 3.5). -/
def recHeader (q16 : Bool) (r : Nat) : Nat := fld r (8 * bodySize q16) 32
def recEntry (q16 : Bool) (r k : Nat) : Nat := fld r (8 * bodySize q16 + 32 + 32 * k) 32
def recN (q16 : Bool) (r : Nat) : Nat := fld (recHeader q16 r) 0 6
/-- The valid entries: index, BF16 value. -/
def recEntries (q16 : Bool) (r : Nat) : List (Nat × Nat) :=
  (List.range (recN q16 r)).map fun k => (fld (recEntry q16 r k) 0 10, fld (recEntry q16 r k) 16 16)

/-- Strictly ascending. -/
def ascending : List Nat → Bool
  | a :: b :: r => decide (a < b) && ascending (b :: r)
  | _ => true

/-- A record passes R74 against the format and the capacity of its layout record. -/
def recordOk (q16 : Bool) (cap r : Nat) : Bool :=
  let h := recHeader q16 r
  let n := recN q16 r
  fld h 6 6 == cap && bitOf h 12 == q16 && decide (n ≤ cap) && decide (fld h 14 6 ≤ 3) &&
  bitOf h 13 == (fld h 14 6 != 0) && fld h 20 12 == 0 &&
  (List.range n).all (fun k => fld (recEntry q16 r k) 10 6 == 0) &&
  ascending ((recEntries q16 r).map fun e => e.1) &&
  (recEntries q16 r).all fun e => recCode q16 r e.1 == zeroCode q16

/-! Decoding (R68, R69, R78). -/

/-- S is a positive normal FP32 value. -/
def goodSuper (s : Nat) : Bool := decide (0 < fld s 23 9) && decide (fld s 23 9 < 255)
/-- code × (b + 1) × S × 2^−14. -/
def codeVal (q16 : Bool) (c b s : Nat) : FV :=
  match fmtF32.read false s with
  | .fin _ m e =>
    let t := codeInt q16 c
    .fin (decide (t < 0)) (t.natAbs * (b + 1) * m) (e - 14)
  | v => v
/-- The value of element i: an outlier's, or its code's under the row's scale byte. -/
def recVal (q16 : Bool) (r i b s : Nat) : FV :=
  match (recEntries q16 r).find? fun e => e.1 == i with
  | some e => fmtBf16.read false e.2
  | none => codeVal q16 (recCode q16 r i) b s

/-! Encoding (R75, R76). Elements are FP32 bits; a BF16 element is widened, which is exact. -/

/-- θ and S of a layout record (Table 11.7): a stored SUPER of 0 means θ. -/
def layTheta (r : Nat) : Nat := fld r 332 32
def laySuper (r : Nat) : Nat := if fld r 364 32 = 0 then layTheta r else fld r 364 32
/-- θ is negative, infinite or NaN, or S is not positive normal (R75). −0 is legal. -/
def badParams (theta s : Nat) : Bool :=
  (theta != 0x80000000 && decide (0x7F800000 ≤ theta)) || !(goodSuper s)

/-- The bits below the sign. -/
def magBits (x : Nat) : Nat := x % 2 ^ 31
def isNan32 (x : Nat) : Bool := decide (0x7F800000 < magBits x)
/-- Element i with bits x comes before the element with y in the order of candidates: NaN first, then greater
magnitude, then lower index. -/
def candBefore (a b : Nat × Nat) : Bool :=
  if isNan32 a.2 != isNan32 b.2 then isNan32 a.2
  else if !(isNan32 a.2) && magBits a.2 != magBits b.2 then decide (magBits b.2 < magBits a.2)
  else decide (a.1 < b.1)
def candInsert (x : Nat × Nat) : List (Nat × Nat) → List (Nat × Nat)
  | [] => [x]
  | y :: ys => if candBefore x y then x :: y :: ys else y :: candInsert x ys
def candSort : List (Nat × Nat) → List (Nat × Nat)
  | [] => []
  | x :: xs => candInsert x (candSort xs)

/-- The scale byte of a row whose greatest body magnitude has some bits. -/
def scaleByte (amax s : Nat) : Nat :=
  match fmtF32.read false amax, fmtF32.read false s with
  | .fin _ m e, .fin _ n k =>
    if m = 0 || n = 0 then 0
    else min (ceilDiv (256 * m * 2 ^ (e - k).toNat) (n * 2 ^ (k - e).toNat) - 1) 255
  | _, _ => 255
/-- The code nearest to y; at a midpoint the one of smaller magnitude. -/
def nearestCode (q16 : Bool) (b s y : Nat) : Nat :=
  match fmtF32.read false y, fmtF32.read false s with
  | .fin neg m e, .fin _ n k =>
    let u := min e (k - 14)
    let y := unitsAt neg m e u
    let a := unitsAt false ((b + 1) * n) (k - 14) u
    let cost (c : Nat) : Nat × Nat := ((codeInt q16 c * a - y).natAbs, (codeInt q16 c).natAbs)
    (List.range (2 ^ codeBits q16)).foldl (fun best c =>
      if (cost c).1 < (cost best).1 || ((cost c).1 == (cost best).1 && decide ((cost c).2 < (cost best).2)) then c
      else best) 0
  | _, _ => zeroCode q16

/-- A tile encoded: its record and its 16 scale bytes; an error gives the number of candidates (SPLITOVF). -/
def encodeTile (q16 : Bool) (cap spill theta s : Nat) (x : List Nat) : Except Nat (Nat × Nat) :=
  let th := magBits theta
  let cand := candSort (((List.range 1024).zip x).filter fun e => isNan32 e.2 || decide (th < magBits e.2))
  let out := cand.take cap
  let clp := (cand.drop cap).take spill
  if out.length + clp.length < cand.length then .error cand.length
  else if clp.any fun e => decide (0x7F800000 ≤ magBits e.2) then .error cand.length
  else
    let body (e : Nat × Nat) : Nat :=
      if out.any fun o => o.1 == e.1 then 0
      else if clp.any fun o => o.1 == e.1 then (if e.2 < 2 ^ 31 then th else 2 ^ 31 + th)
      else e.2
    let y := ((List.range 1024).zip x).map body
    let row (r : Nat) : List Nat := (y.drop (64 * r)).take 64
    let bs := (List.range 16).map fun r => scaleByte ((row r).foldl (fun a v => max a (magBits v)) 0) s
    let codes := (List.range 16).flatMap fun r => (row r).map fun v => nearestCode q16 (bs.getD r 0) s v
    let ents := candSort (out.map fun e => (e.1, 0))
    let entry (i : Nat) : Nat := i + 2 ^ 16 * (fmtBf16.write .rne false true (fmtF32.read false (x.getD i 0))).1
    .ok (pack (codes.map (fun c => (codeBits q16, c)) ++
          [(6, out.length), (6, cap), (1, b2n q16), (1, b2n (!clp.isEmpty)), (6, clp.length), (12, 0)] ++
          ents.map fun e => (32, entry e.1)),
        pack (bs.map fun b => (8, b)))

end Sys2Proof.Machine
end

