-- ==== Sys2Proof/Machine/Layout.lean ====
section
/-! DEFINITION. Memory types and atomics (08 Tables 8.12, 8.13), layout records (13 R264), the parameters of NMC and of copy
packets, and the items and chunks of a command (08 R184, 13 R269, R270). -/

namespace Sys2Proof.Machine

open Codec (tyOf)

/-! Memory types (08 Table 8.12). -/

/-- The bytes a type moves. -/
def tyBytes : Ty → Nat
  | .i8 | .n8 | .e4m3 | .e5m2 => 1
  | .i16 | .n16 | .bf16 => 2
  | .q8 => 3
  | .i64 | .n64 | .b64 => 8
  | .x128 => 16
  | _ => 4

/-- The type is a floating type narrower than FP32. -/
def tyNarrow (t : Ty) : Bool := t == .bf16 || t == .e4m3 || t == .e5m2

/-- Eight 3-bit codes spread to 4-bit places, and back. -/
def spreadQ8 (x : Nat) : Nat := (List.range 8).foldl (fun a i => a + fld x (3 * i) 3 * 2 ^ (4 * i)) 0
def packQ8 (x : Nat) : Nat := (List.range 8).foldl (fun a i => a + fld x (4 * i) 3 * 2 ^ (3 * i)) 0

/-- Register bits of loaded bytes. -/
def loadVal (t : Ty) (x : Nat) : Nat :=
  if tyNarrow t then (fmtF32.write .rne false true ((fmtOf t).read false x)).1
  else if t == .q8 then spreadQ8 x
  else if t == .i8 || t == .i16 then tyRes t (tyVal t x)
  else x

/-- Bytes and flags of a stored register value. -/
def storeVal (t : Ty) (x : Nat) : Nat × Flags :=
  if tyNarrow t then (fmtOf t).write .rne false (t == .bf16) (fmtF32.read false x)
  else if t == .q8 then (packQ8 x, 0)
  else (x % 256 ^ tyBytes t, 0)

/-! Atomics (08 Table 8.13). -/

/-- The new value and the flags; .cas: b holds the compare value and the new value. -/
def atomVal (op : AtomOp) (t : Ty) (old b : Nat) : Nat × Flags :=
  let w := 8 * tyBytes t
  match op with
  | .add =>
    if t == .f32 then fAdd fmtF32 .rne false old b
    else if t == .bf16x2 then onHalves fun i => fAdd fmtBf16 .rne false (fld old i 16) (fld b i 16)
    else if t == .x128 then xAdd old b
    else ((old + b) % 2 ^ w, 0)
  | .min | .max =>
    let hi := op == .max
    if t == .f32 then (fMinMax fmtF32 hi false old b, 0)
    else if t == .bf16x2 then onHalves fun i => (fMinMax fmtBf16 hi false (fld old i 16) (fld b i 16), 0)
    else (if hi then maxVal t old b else minVal t old b, 0)
  | .and => (old &&& b, 0)
  | .or => (old ||| b, 0)
  | .xor => (old ^^^ b, 0)
  | .exch => (b % 2 ^ w, 0)
  | .cas => (if old = b % 2 ^ w then b / 2 ^ w % 2 ^ w else old, 0)

/-- The operation of CPY's FN, of ROP, as ATOM's. -/
def redOp (n : Nat) : AtomOp :=
  match n with
  | 1 => .add
  | 2 => .min
  | 3 => .max
  | 4 => .and
  | _ => .or

/-! Layout records (11 Table 11.7, 13 R264). -/

def layBase (r : Nat) : Nat := if fld r 317 2 = 1 then fld r 0 32 else fld r 0 64
def layDim (r k : Nat) : Nat := fld r (64 + 32 * k) 32
def layStride (r k : Nat) : Nat := fld r (192 + 40 * (k - 1)) 40
def layTy (r : Nat) : Ty := (tyOf (BitVec.ofNat 5 (fld r 312 5))).getD .n8
def laySp (r : Nat) : Bool := fld r 317 2 == 1
def layRank (r : Nat) : Nat := fld r 319 2 + 1
def layRole (r : Nat) : Nat := fld r 321 2
def layQ16 (r : Nat) : Bool := bitOf r 323
def layCap (r : Nat) : Nat := fld r 324 6
def laySpill (r : Nat) : Nat := fld r 330 2
def laySsaddr (r : Nat) : Nat := fld r 396 64

/-- A record whose role its TYPE and FMTQ16 agree with (11 R246, R264). -/
def layOk (r : Nat) : Bool :=
  match layRole r with
  | 1 => (layTy r == .q16 && layQ16 r) || (layTy r == .q8 && !(layQ16 r))
  | 2 => layTy r == .n8
  | _ => true

/-- An index of a dimension below the rank, else 0. -/
def layIx (r k i : Nat) : Nat := if k < layRank r then i else 0
/-- The byte offset of dimensions 2 and 3. -/
def layOuter (r i2 i3 : Nat) : Nat := layIx r 2 i2 * layStride r 2 + layIx r 3 i3 * layStride r 3

/-- Where a tensor's bytes lie. -/
inductive Loc where
  | glb (va : Nat)
  | sp (off : Nat)
  deriving DecidableEq, Repr

/-- A byte offset from BASE. -/
def layLoc (r off : Nat) : Loc :=
  if laySp r then .sp ((layBase r + off) % 2 ^ 32) else .glb ((layBase r + off) % 2 ^ 64)
/-- The element with some indices, of a plain tensor. -/
def eltOff (r i0 i1 i2 i3 : Nat) : Nat := i0 * tyBytes (layTy r) + layIx r 1 i1 * layStride r 1 + layOuter r i2 i3
/-- The record of tile (kb, rt), and the scale bytes of a tile. A record that BASE and the strides do not put at a multiple
of 32 is read and written where it lies, unchecked: the spec states the alignment (03 R72) and no check of it (DESIGN
CHOICE, log 102). -/
def recOff (r kb rt i2 i3 : Nat) : Nat := kb * recSize (layQ16 r) (layCap r) + layIx r 1 rt * layStride r 1 + layOuter r i2 i3
def scaleOff (r kb rt i2 i3 : Nat) : Nat := kb * 16 + layIx r 1 rt * layStride r 1 + layOuter r i2 i3
/-- The superscale of the scale byte at an offset from BASE. -/
def superLoc (r o : Nat) : Loc := .glb ((laySsaddr r + 4 * (o / 256)) % 2 ^ 64)

/-! The sizes of commands. -/

/-- A number from the origin block. -/
def orgAt (org : List Word) (k : Nat) : Nat := (org.getD k 0).toNat
/-- The 64-element steps, and 16-row steps, of a box. -/
def kSteps (o e : Nat) : Nat := (o + e - 1) / 64 - o / 64 + 1
def rSteps (o e : Nat) : Nat := (o + e - 1) / 16 - o / 16 + 1

/-! Parameters of NMC (08 R210). -/

def nmcDst (b : Nat) : Loc := if bitOf b 127 then .sp (fld b 64 32) else .glb (fld b 64 64)
def nmcTy (b lo : Nat) : Option Ty := tyOf (BitVec.ofNat 5 (fld b lo 5))
def nmcS (b : Nat) : Ty := (nmcTy b 192).getD .n8
def nmcD (b : Nat) : Ty := (nmcTy b 197).getD .n8
/-- Items and bytes of destination of a block: 32-byte pieces, or elements. -/
def nmcItems (op b : Nat) : Nat :=
  match op with
  | 0 => fld b 320 32 * (fld b 384 32 / 32)
  | 1 => fld b 128 64 / 32
  | _ => fld b 128 64
def nmcSize (op b : Nat) : Nat := if op ≤ 1 then 32 else tyBytes (nmcD b)

/-! Copy packets (Table 13.7). -/

def pktS (b : Nat) : Ty := (tyOf (BitVec.ofNat 5 (fld b 8 5))).getD .n8
def pktD (b : Nat) : Ty := (tyOf (BitVec.ofNat 5 (fld b 13 5))).getD .n8

/-! Items and chunks. -/

/-- How many items a command has, and how many of them make a chunk. -/
def itemCount (k : CmdKind) : Nat × Nat :=
  match k with
  | .copy _ src dst org e0 e1 _ =>
    let r := src.toNat
    (match layRole r with
      | 0 => (e0 * e1, 4096 / tyBytes (layTy dst.toNat))
      | 1 => (kSteps (orgAt org 0) e0 * rSteps (orgAt org 1) e1, 4096 / recSize (layQ16 r) (layCap r))
      | _ => (kSteps (orgAt org 0) e0 * e1, 4096))
  | .gather _ src dst idx => (layDim src.toNat 0 * layDim idx.toNat 0, 4096 / tyBytes (layTy dst.toNat))
  | .feed _ _ _ e0 e1 => (e0 / 64 * (e1 / 16), 1)
  | .enc _ _ _ _ e0 e1 => (e0 / 64 * (e1 / 16), 1)
  | .dec _ _ _ _ _ e0 e1 => (e0 / 64 * (e1 / 16), 1)
  | .nmc op blk => (nmcItems op blk.toNat, 4096 / nmcSize op blk.toNat)
  | .fork _ _ n => (n + 2, 512)
  | .packet blk => (fld blk.toNat 192 32 * fld blk.toNat 224 32, 4096 / tyBytes (pktD blk.toNat))
  | .coll _ _ _ _ => (0, 1)
/-- The chunks of a command. -/
def chunkCount (k : CmdKind) : Nat := ceilDiv (itemCount k).1 (itemCount k).2

/-- ENC takes its tiles in order (R288), FORK its entries and then the header (17 R368); the accesses of any other command
are not ordered. -/
def stepwise (k : CmdKind) : Bool :=
  match k with
  | .enc _ _ _ _ _ _ | .fork _ _ _ => true
  | _ => false
/-- The chunk of an item. -/
def chunkOf (k : CmdKind) (item : Nat) : Nat := item / (itemCount k).2

end Sys2Proof.Machine
end

