-- ==== Sys2Proof/Machine/Translate.lean ====
section
/-! DEFINITION. The physical address map, home slices, translation and the checks of an access (08 R172, R173, R180 to
R187, R196, R197; 22 R412). -/

namespace Sys2Proof.Machine

/-! The physical map (R172). -/

def hbmTop : Nat := 384000000000
def nearBase : Nat := 0x8000000000
def nearWindow : Nat := 512 * 2 ^ 20
def devBase : Nat := 0xC000000000
def devTop : Nat := 0xC100000000

/-- The dies of a partition, ascending. -/
def partDies (p : Part) : List Nat := (List.range 4).filter fun d => p.dies.getLsbD d

/-- A local memory address is populated: HBM4E, or the carved-out near store of a die of the partition (01 R25). -/
def populated (s : State) (p : Part) (pa : Nat) : Bool :=
  decide (pa < hbmTop) ||
    (decide (nearBase ≤ pa) && decide (pa < nearBase + 4 * nearWindow) &&
      (let d := (pa - nearBase) / nearWindow
       p.dies.getLsbD d && decide ((pa - nearBase) % nearWindow < (s.die d).carve * 128 * 2 ^ 20)))

/-- A device register address. -/
def isDev (pa : Nat) : Bool := decide (devBase ≤ pa) && decide (pa < devTop)
/-- The key of a device register byte of partition p. -/
def devKey (p pa : Nat) : Nat := p * 2 ^ 33 + (pa - devBase)

/-- A remote address (R172). -/
def isRemote (pa : Nat) : Bool := bitOf pa 51
def peerOf (pa : Nat) : Nat := fld pa 41 10

/-- The peer-table entry of an index (22 Table 22.4). -/
def peerEntry (s : State) (p i : Nat) : Nat := Store.readLe s.devRegs (p * 2 ^ 33 + 0x10000 + 8 * i) 8

/-- Where an access to a physical address goes: remote, local, or nowhere. A peer index that names the part itself is
performed locally (22 R412). -/
def resolve (s : State) (p : Nat) (pa : Nat) : Option Nat :=
  if isRemote pa then
    let e := peerEntry s p (peerOf pa)
    if !bitOf e 0 then none
    else if fld e 1 10 == Config.ownUaid.toNat then
      (if populated s (s.part p) (pa % 2 ^ 41) then some (pa % 2 ^ 41) else none)
    else some pa
  else if populated s (s.part p) pa || isDev pa then some pa
  else none

/-- The home slice's number among the 48 k slices (R173). -/
def homeSlice (k pa : Nat) : Nat :=
  let h := fld pa 8 8 ^^^ fld pa 16 8 ^^^ fld pa 24 8 ^^^ fld pa 32 8 ^^^ fld pa 40 8 ^^^ fld pa 48 4
  h * 48 * k / 256

/-- The die of the home slice of a local address; none for a remote one. -/
def homeDie (p : Part) (pa : Nat) : Option Nat :=
  if isRemote pa then none
  else (partDies p)[homeSlice (partDies p).length pa / 48]?

/-- The partition that holds a local address; none: no partition does. -/
def partAt (s : State) (pa : Nat) : Option Nat := (s.parts.find? fun e => populated s e.2 pa).map fun e => e.1

/-- The die that a granule belongs to, and whose HBM4E stack holds it (log 9). -/
def granuleDie (pa : Nat) : Nat := Config.granuleDieRaw (pa / 2 ^ 21) % 4
/-- The die that a local memory address belongs to: near store by its window (01 R25), HBM4E by its granule. -/
def memDie (pa : Nat) : Nat := if nearBase ≤ pa then (pa - nearBase) / nearWindow % 4 else granuleDie pa
/-- The world of the save area that an address lies in: its team's (18 R380). -/
def areaWorld (s : State) (pa : Nat) : Option Bool :=
  s.parts.findSome? fun e => (e.2.saveUsed.find? fun u => decide (u.1 ≤ pa) && decide (pa < u.1 + u.2)).bind fun u =>
    (s.teams.find? fun tm => tm.saveArea == some u.1 && (s.launch tm.launch).part == e.1).map fun tm => (s.launch tm.launch).world
/-- The world of an address: of the save area, else of the 2 MiB granule that holds it (22 R407). -/
def granuleWorld (s : State) (pa : Nat) : Bool :=
  (areaWorld s pa).getD ((kGet s.worlds (pa / 2 ^ 21)).getD (s.die (memDie pa)).secure)

/-! Translation (R180, R181). -/

/-- What an entry makes of an access: addresses for reads and for engine writes, and the attributes. -/
structure Page where
  pa     : Nat
  alt    : Nat
  w      : Bool
  x      : Bool
  syso   : Bool
  cache  : Nat
  cls    : Nat
  shadow : Option Nat
  secure : Bool
  /-- The CPL entry and header behind a window (R197). -/
  cpl    : Option (Nat × Nat)
  deriving DecidableEq, Repr

/-- ADDR, held in place. -/
def entryAddr (e : Nat) : Nat := fld e 6 46 * 64

/-- An entry that makes every access XLAT (R181), at the last level or not. -/
def badEntry (last : Bool) (e : Nat) : Bool :=
  !bitOf e 0 || fld e 59 5 != 0 || fld e 52 2 == 3 || bitOf e 55 || (bitOf e 5 && (bitOf e 56 || last))

/-- The levels of Table 8.4: lowest index bit, index bits. -/
def levels : List (Nat × Nat) := [(39, 18), (30, 9), (21, 9), (16, 5)]

/-- The leaf that covers an address, with its lowest index bit. -/
def walkFrom (m : Memory) (ok : Nat → Bool) (va : Nat) : List (Nat × Nat) → Bool → Nat → Option (Nat × Nat)
  | [], _, _ => none
  | (lo, n) :: rest, first, tbl =>
    let ea := tbl + 8 * fld va lo n
    if !ok ea then none
    else
      let e := m.readLe ea 8
      if badEntry rest.isEmpty e then none
      else if bitOf e 1 then (if first then none else some (e, lo))
      else walkFrom m ok va rest false (entryAddr e)

/-- Canonical at 57 bits (R180). -/
def canonical (va : Nat) : Bool := va >>> 56 == 0 || va >>> 56 == 0xFF

/-- The addresses of the live and the shadow copy of a page of a shadow region (R196); none, and the access XLAT, for a
page that lies outside the region's pages (DESIGN CHOICE, log 106). -/
def shadowAddrs (m : Memory) (desc va : Nat) : Option (Nat × Nat) :=
  let vbase := m.readLe (desc + 8) 8
  let n := (va - vbase) / 2 ^ 16
  if va < vbase || m.readLe (desc + 32) 4 ≤ n then none
  else
    let at_ (i : Nat) : Nat := m.readLe (desc + 16 + 8 * i) 8 + n * 2 ^ 16 + va % 2 ^ 16
    let live := b2n (bitOf (m.readLe desc 1) 0)
    some (at_ live, at_ (1 - live))

/-- The translation of an address in a context of a partition, from the context's root (`root` none: the partition's);
none makes the access XLAT. The part reads a table, a CPL and a shadow descriptor in populated local memory only: the spec
names no trap for one at a remote or a device address, and here the access is XLAT (DESIGN CHOICE, log 132). -/
def pageIn (s : State) (p : Nat) (root : Option Nat) (va : Nat) : Option Page :=
  let pt := s.part p
  let ok := populated s pt
  if !canonical va then none
  else match walkFrom s.mem ok va levels true (root.getD pt.root) with
    | none => none
    | some (e, lo) =>
      let ad := entryAddr e
      let off := va % 2 ^ lo
      let mk (pa alt : Nat) (sh : Option Nat) (cpl : Option (Nat × Nat)) : Option Page :=
        match resolve s p pa, resolve s p alt with
        | some a, some b =>
          some { pa := a, alt := b, w := bitOf e 2, x := bitOf e 3, syso := bitOf e 4 || isDev a,
                 cache := fld e 52 2, cls := fld e 54 2, shadow := sh, secure := bitOf e 57, cpl := cpl }
        | _, _ => none
      if bitOf e 5 then
        let n := off / 2 ^ 16
        let ent := s.mem.readLe (ad + 64 + 8 * n) 8
        if !ok ad || !ok (ad + 64 + 8 * n) || s.mem.readLe ad 4 ≤ n || !bitOf ent 0 then none
        else
          let f := fld ent 16 36 * 2 ^ 16
          mk (f + off % 2 ^ 16) (f + off % 2 ^ 16) none (some (ad + 64 + 8 * n, ad))
      else if bitOf e 56 then
        if !ok ad then none
        else match shadowAddrs s.mem ad va with
          | some (a, b) => mk a b (some ad) none
          | none => none
      else if ad % 2 ^ lo ≠ 0 then none
      else mk (ad + off) (ad + off) none none

/-! The checks of an access (R182, R187). -/

/-- Who accesses: partition, world, supervisor rights. -/
structure Who where
  part  : Nat
  world : Bool
  sup   : Bool
  /-- The context's translation root. -/
  root  : Option Nat := none
  deriving DecidableEq, Repr

/-- A group's own accesses. -/
def whoGroup (s : State) (t g : Nat) : Who :=
  { part := (s.launchOf t).part, world := (s.launchOf t).world, sup := supervisor s t g, root := (s.launchOf t).ctxRoot }

/-- What an access is: TRAP_INFO2's kinds (R183), and a counter read or update (16 R333). -/
inductive Kind where
  | read | write | atom | fetch | ctrRead | ctrUpd
  deriving DecidableEq, Repr

/-- TRAP_INFO2[1:0]. -/
def Kind.code : Kind → Nat
  | .read => 0
  | .write => 1
  | .atom | .ctrRead | .ctrUpd => 2
  | .fetch => 3

/-- The access writes. -/
def Kind.writes : Kind → Bool
  | .write | .atom | .ctrUpd => true
  | _ => false

/-- The PERM cases of a page (R182, 16 R333). -/
def permFails (w : Who) (k : Kind) (pg : Page) : Bool :=
  (pg.syso && !w.sup) || (match k with
    | .read => false
    | .write | .atom => !pg.w || pg.shadow.isSome || pg.cls == 1
    | .fetch => !pg.x
    | .ctrRead => pg.cls != 1
    | .ctrUpd => pg.cls != 1 || !pg.w)

/-- The attributes that must match where an access crosses into a page (R187). -/
def Page.attrs (pg : Page) : Nat × Nat × Bool × Bool × Bool :=
  (pg.cache, pg.cls, pg.shadow.isSome, pg.secure, pg.cpl.isSome)

/-- The parts of an access: one per 128-byte line (R187). -/
def lineParts (va n : Nat) : List (Nat × Nat) :=
  if va % 128 + n ≤ 128 then [(va, n)]
  else [(va, 128 - va % 128), ((va + (128 - va % 128)) % 2 ^ 64, n - (128 - va % 128))]

/-- A part of an access that passes: its page and length. -/
abbrev Piece := Page × Nat

/-- The checks of R182 in their order, over the parts of one access: the failing code and byte address, or the
pieces. `words`: the type is .b32 or .b64 (R185). -/
def checkAccess (s : State) (w : Who) (k : Kind) (words : Bool) (va n : Nat) : Except (Byte × Nat) (List Piece) :=
  let parts := (lineParts va n).map fun q => (q.1, q.2, pageIn s w.part w.root q.1)
  let dev := parts.any fun q => match q.2.2 with
    | some pg => pg.cache == 2
    | none => false
  let first (f : Page → Bool) : Option Nat := (parts.find? fun q => match q.2.2 with
    | some pg => f pg
    | none => false).map fun q => q.1
  let attrs := parts.map fun q => q.2.2.map Page.attrs
  if (k == .atom || dev) && va % n ≠ 0 then .error (0x04, va)
  else if dev && !words then .error (0x04, va)
  else match parts.find? fun q => q.2.2.isNone with
    | some q => .error (0x06, q.1)
    | none =>
      match first fun pg => pg.secure != w.world with
      | some a => .error (0x08, a)
      | none =>
        if attrs.any fun a => a != attrs.headD none then .error (0x05, va)
        else match first (permFails w k) with
          | some a => .error (0x07, a)
          | none => .ok (parts.filterMap fun q => q.2.2.map fun pg => (pg, q.2.1))

end Sys2Proof.Machine
end

