-- ==== Sys2Proof/Machine/Access.lean ====
section
/-! DEFINITION. Performing accesses: bytes of memory and device registers, stores that are not yet performed (10 R216),
what engines will still perform (13 R269), storage errors (18 R381, R382), copy-on-write (08 R199), touched and lost dies (18 R385, R388), and the driver that
performs the lanes that pass (08 R183). -/

namespace Sys2Proof.Machine

/-! Bytes. -/

/-- n bytes at a physical address, little-endian. -/
def physRead (s : State) (p pa n : Nat) : Nat :=
  if isDev pa then Store.readLe s.devRegs (devKey p pa) n else Store.readLe s.mem pa n
/-- The bits of a device register byte that exist: SUPACT (22 Table 22.2), the peer table (Table 22.4); any other
register is not described and keeps what is written. -/
def devMask (off : Nat) : Byte :=
  if 0x2000 ≤ off && off < 0x2008 then (if off < 0x2004 then 0xFF else if off = 0x2004 then 3 else 0)
  else if 0x10000 ≤ off && off < 0x12000 then
    (if off % 8 = 0 || 4 ≤ off % 8 then 0xFF else if off % 8 = 1 then 7 else 0)
  else 0xFF
/-- n bytes of a device register write. -/
def devWrite (m : Store 8) (p pa : Nat) : Nat → Nat → Store 8
  | 0, _ => m
  | n + 1, x => devWrite (m.set (devKey p pa) (BitVec.ofNat 8 x &&& devMask (pa - devBase))) p (pa + 1) n (x / 256)
/-- n bytes of x written there. -/
def physWrite (p pa n x : Nat) (s : State) : State :=
  if isDev pa then { s with devRegs := devWrite s.devRegs p pa n x }
  else { s with mem := Store.writeLe s.mem pa n x }

/-- Bytes of memory: an address and a length. -/
abbrev Span := Nat × Nat
/-- The bytes of some pieces. -/
def spansOf (ps : List Piece) : List Span := ps.map fun e => (e.1.pa, e.2)
/-- The value that stands in some places, the first lowest. -/
def readSpans (s : State) (p : Nat) : List Span → Nat
  | [] => 0
  | (a, n) :: r => physRead s p a n + 256 ^ n * readSpans s p r
/-- A value written there. -/
def writeSpans (p : Nat) : List Span → Nat → State → State
  | [], _, s => s
  | (a, n) :: r, x, s => writeSpans p r (x / 256 ^ n) (physWrite p a n x s)
/-- The value of the pieces of an access. -/
def readPieces (s : State) (p : Nat) (ps : List Piece) : Nat := readSpans s p (spansOf ps)
/-- The pieces written. -/
def writePieces (p : Nat) (ps : List Piece) (x : Nat) (s : State) : State := writeSpans p (spansOf ps) x s

/-! Stores that wait (10 R216, Table 10.1). -/

/-- The place of a scope in .grp, .team, .dev, .pod, .sys; code 0 means .dev (08 R200). -/
def scopeRank : Scope → Nat
  | .grp => 0
  | .team => 1
  | .dflt | .dev => 2
  | .pod => 3
  | .sys => 4
/-- The wider and the narrower of two scopes. -/
def wider (a b : Scope) : Scope := if scopeRank a < scopeRank b then b else a
def narrower (a b : Scope) : Scope := if scopeRank a < scopeRank b then a else b

/-- Who meets a store: lanes of a group, the sequencer of a team, an engine or the part, a peer, a host. -/
inductive Observer where
  | lanes (t g : Nat) (ls : Lanes)
  | seq (t : Nat)
  | part
  | peer
  | host
  deriving DecidableEq, Repr

/-- The observer is one of the threads of a scope, seen from the store's threads, and not the store's thread itself
(02 Table 2.6, 08 R190). -/
def Pending.reaches (q : Pending) (sc : Scope) : Observer → Bool
  | .lanes t g ls =>
    (decide (2 ≤ scopeRank sc) || (q.team == t && (scopeRank sc == 1 || q.group == g))) &&
      !(q.eng.isNone && q.team == t && q.group == g && (ls &&& ~~~q.lanes) == 0)
  | .seq t => decide (2 ≤ scopeRank sc) || (scopeRank sc == 1 && q.team == t)
  | .part => decide (2 ≤ scopeRank sc)
  | .peer => decide (3 ≤ scopeRank sc)
  | .host => scopeRank sc == 4
/-- The store is performed as far as the observer can tell. -/
def Pending.dueFor (q : Pending) (o : Observer) : Bool :=
  match q.due with
  | some sc => q.reaches sc o
  | none => false
/-- The store's threads, as an observer. -/
def Pending.observer (q : Pending) : Observer := if q.eng.isSome then .part else .lanes q.team q.group q.lanes
/-- Some lanes of a group are threads of the store. -/
def Pending.ofLanes (q : Pending) (t g : Nat) (ls : Lanes) : Bool :=
  q.eng.isNone && q.team == t && q.group == g && (q.lanes &&& ls) != 0
/-- Two stores of one thread; those of one command are not ordered among themselves (13 R270). -/
def Pending.sameThread (q r : Pending) : Bool := r.eng.isNone && q.ofLanes r.team r.group r.lanes
/-- Two stores of one instruction of a group (04 R93), or of one command. -/
def Pending.sameInstr (q r : Pending) : Bool :=
  q.eng == r.eng && q.team == r.team && q.group == r.group && (q.eng.isSome || q.instr == r.instr)
/-- A waiting store overlaps bytes. -/
def Pending.overlaps (q : Pending) (pa n : Nat) : Bool := decide (pa < q.addr + q.bytes.length) && decide (q.addr < pa + n)
/-- It overlaps some of a list. -/
def Pending.meets (q : Pending) (rs : List Span) : Bool := rs.any fun r => q.overlaps r.1 r.2
/-- The earlier store must be performed before the later one: they meet in a byte, and follow each other or the threads of
the later one already see the earlier one as performed. -/
def mustPrecede (q r : Pending) : Bool :=
  q.overlaps r.addr r.bytes.length && (q.sameThread r || q.sameInstr r || q.dueFor r.observer)

/-- The scope that some numbers give a store. -/
def dueScope (ids : List (Nat × Scope)) (q : Pending) : Option Scope :=
  ids.foldl (fun a e => if e.1 == q.id then (match a with
    | some sc => some (wider sc e.2)
    | none => some e.2) else a) q.due
/-- Stores become due for the threads of a scope; those that were not come after those that were. -/
def setDue (ids : List (Nat × Scope)) (b : List Pending) : List Pending :=
  let up (q : Pending) : Pending := { q with due := dueScope ids q }
  ((b.filter fun q => q.due.isSome).map up) ++ ((b.filter fun q => q.due.isNone && (dueScope ids q).isSome).map up) ++
    (b.filter fun q => (dueScope ids q).isNone)

/-- The waiting store with a number is performed at its home slice, after those that must precede it; what stands before it
becomes due. `fuel`: the stores that may have to be performed. -/
def performStore : Nat → Nat → State → State
  | 0, _, s => s
  | fuel + 1, id, s =>
    match s.buffer.find? fun q => q.id == id with
    | none => s
    | some q =>
      let first := (s.buffer.takeWhile fun e => e.id != id).filter fun e => mustPrecede e q
      let s := first.foldl (fun s e => performStore fuel e.id s) s
      { s with mem := Store.writeBytes s.mem q.addr q.bytes, buffer := setDue q.pre (without s.buffer fun e => e.id == id) }

/-- The waiting stores that `sel` names are performed, oldest first. -/
def performStores (sel : Pending → Bool) (s : State) : State :=
  (s.buffer.filter sel).foldl (fun s q => performStore (s.buffer.length + 1) q.id s) s

/-- An observer meets bytes of memory: the stores there that are performed as far as it can tell, are performed for every
observer (R218). A due store that nobody of its scope has met stays unseen outside the scope. -/
def observe (o : Observer) (rs : List Span) (s : State) : State :=
  if s.buffer.any fun q => q.dueFor o && q.meets rs then performStores (fun q => q.dueFor o && q.meets rs) s else s

/-- A number and a scope noted; for a number that is listed already, the wider scope. -/
def noteScope (ids : List (Nat × Scope)) (e : Nat × Scope) : List (Nat × Scope) :=
  kSet ids e.1 (match kGet ids e.1 with
    | some sc => wider sc e.2
    | none => e.2)
/-- What orders the earlier stores that `sel` names before a later access at a scope: their numbers, and those of the
stores before them. -/
def orderedBefore (sel : Pending → Option Scope) (b : List Pending) : List (Nat × Scope) :=
  b.foldl (fun ids q => match sel q with
    | some sc => (q.pre.map fun e => (e.1, narrower e.2 sc)).foldl noteScope (noteScope ids (q.id, sc))
    | none => ids) []
/-- The waiting stores that `sel` names are performed for the threads of a scope: a release, a fence, an atomic. -/
def release (sel : Pending → Bool) (sc : Scope) (s : State) : State :=
  if s.buffer.any sel then
    { s with buffer := setDue (orderedBefore (fun q => if sel q then some sc else none) s.buffer) s.buffer }
  else s
/-- Of some lanes of a group: rows 3, 5, 6, 7 and 8. -/
def releaseLanes (t g : Nat) (ls : Lanes) (sc : Scope) (s : State) : State := release (fun q => q.ofLanes t g ls) sc s
/-- Of every lane of a group, exited ones included (10 R217, Table 10.2). -/
def releaseGroup (t g : Nat) (sc : Scope) (s : State) : State :=
  release (fun q => q.eng.isNone && q.team == t && q.group == g) sc s
/-- Of every group of a team. -/
def releaseTeam (t : Nat) (sc : Scope) (s : State) : State := release (fun q => q.eng.isNone && q.team == t) sc s

/-- FENCE .rel or .ar: every later store or atomic of the lanes comes after their earlier stores, for the threads of the
scope (row 6). -/
def fenceLanes (t g : Nat) (ls : Lanes) (sc : Scope) (s : State) : State :=
  { s with buffer := s.buffer.map fun q =>
      if q.ofLanes t g ls then { q with fenced := some (match q.fenced with
        | some a => wider a sc
        | none => sc) } else q }
/-- What some lanes' fences put before a later atomic, or before an access that is performed at once. -/
def releaseFenced (t g : Nat) (ls : Lanes) (s : State) : State :=
  if s.buffer.any fun q => q.fenced.isSome && q.ofLanes t g ls then
    { s with buffer := setDue (orderedBefore (fun q => if q.ofLanes t g ls then q.fenced else none) s.buffer) s.buffer }
  else s

/-- The threads' waiting stores that overlap an access are performed: row 1. -/
def flushOverlap (t g : Nat) (ls : Lanes) (ps : List Piece) (s : State) : State :=
  performStores (fun q => q.ofLanes t g ls && q.meets (spansOf ps)) s

/-- n bytes of a number. -/
def bytesOf (n x : Nat) : List Byte := (List.range n).map fun i => BitVec.ofNat 8 (x / 256 ^ i)

/-- A store is put to wait. `before`: the scope for which an earlier store of its threads is performed before it. -/
def pendStore (q : Pending) (before : Option Scope) (s : State) : State :=
  let q := { q with id := s.nextStore }
  let rel (e : Pending) : Option Scope :=
    if e.overlaps q.addr q.bytes.length && (e.sameThread q || e.sameInstr q) then some .sys
    else if e.sameThread q then (match before, e.fenced with
      | some a, some b => some (wider a b)
      | a, none => a
      | none, b => b)
    else none
  { s with buffer := s.buffer ++ [{ q with pre := orderedBefore rel s.buffer }], nextStore := s.nextStore + 1 }

/-- A store of some places put to wait. -/
def pendSpans (q : Pending) (before : Option Scope) : List Span → Nat → State → State
  | [], _, s => s
  | (a, n) :: r, x, s => pendSpans q before r (x / 256 ^ n) (pendStore { q with addr := a, bytes := bytesOf n x } before s)
/-- The pieces of a store put to wait. -/
def pendPieces (q : Pending) (before : Option Scope) (ps : List Piece) (x : Nat) (s : State) : State :=
  pendSpans q before (spansOf ps) x s

/-- The access goes to a remote part; remote ordinary accesses are relaxed at .pod (08 R194). -/
def anyRemote (ps : List Piece) : Bool := ps.any fun e => isRemote e.1.pa
/-- The access goes to a device (08 R185). -/
def anyDevice (ps : List Piece) : Bool := ps.any fun e => isDev e.1.pa || e.1.cache == 2

/-- The scope for which a store or an atomic comes after its threads' earlier accesses: rows 3 and 5. -/
def releaseScope (o : Order) (sc : Scope) (remote : Bool) : Option Scope :=
  match o with
  | .rel | .ar | .sc => some sc
  | .ordinary => if remote then none else some .dev
  | _ => none

/-- A store of an order and scope (08 R190 to R194): it waits, after what Table 10.1 puts before it; a store to a device
is performed at once. -/
def storeOrdered (p t g : Nat) (ls : Lanes) (o : Order) (sc : Scope) (ps : List Piece) (x : Nat) (s : State) : State :=
  let before := releaseScope o sc (anyRemote ps)
  if anyDevice ps then
    writePieces p ps x (flushOverlap t g ls ps (releaseFenced t g ls (releaseLanes t g ls (before.getD .dev) s)))
  else pendPieces { id := 0, team := t, group := g, lanes := ls, addr := 0, bytes := [],
                    plain := o == .ordinary && !anyRemote ps, instr := s.tick } before ps x s

/-- What an atomic of an order and scope has performed first (rows 1, 3, 5, 6, 7): it is performed at its issue. -/
def beforeAtomic (t g : Nat) (ls : Lanes) (o : Order) (sc : Scope) (ps : List Piece) (s : State) : State :=
  let s := releaseFenced t g ls (flushOverlap t g ls ps s)
  match (if anyDevice ps then some ((releaseScope o sc (anyRemote ps)).getD .dev) else releaseScope o sc (anyRemote ps)) with
  | some sc => releaseLanes t g ls sc s
  | none => s

/-- What a load has performed first: its threads' stores to what it reads (row 1); an ordinary load of local memory, their
ordinary stores to local memory, for .dev (row 4). -/
def beforeLoad (t g : Nat) (ls : Lanes) (o : Order) (ps : List Piece) (s : State) : State :=
  let s := flushOverlap t g ls ps s
  if o == .ordinary && !anyRemote ps then release (fun q => q.plain && q.ofLanes t g ls) .dev s else s

/-! Storage errors (18 R381, R382). -/

/-- The bytes of the ECC word of an error: 32 in HBM4E, 8 in SRAM. -/
def EccErr.word (e : EccErr) : Nat := if e.source == 5 then 32 else 8
def EccErr.lo (e : EccErr) : Nat := e.addr / e.word * e.word
/-- The error lies in memory (L2, stacked SRAM, HBM4E). -/
def EccErr.inMem (e : EccErr) : Bool := e.source == 3 || e.source == 4 || e.source == 5
/-- An access of a team's group through a page meets it: in memory, or, for a load of a page that L1 caches (08 R185), in
the L1 of the team's core. -/
def EccErr.metBy (e : EccErr) (k : Kind) (tm : Team) (pg : Page) : Bool :=
  e.inMem || (e.source == 2 && k == .read && pg.cache == 0 && e.die.toNat == tm.die && e.unit.toNat == tm.core)
/-- Bytes [a, a + n) meet the error's word. -/
def EccErr.meets (e : EccErr) (a n : Nat) : Bool := decide (a < e.lo + e.word) && decide (e.lo < a + n)
/-- A store of some bytes covers the error's word whole. -/
def EccErr.covered (e : EccErr) (rs : List Span) : Bool :=
  (List.range e.word).all fun i => rs.any fun r => decide (r.1 ≤ e.lo + i) && decide (e.lo + i < r.1 + r.2)

/-- One log entry per error met: KIND 1, 2 or 3. -/
def logErrs (p : Nat) (lid : Word) (es : List EccErr) (s : State) : State :=
  es.foldl (fun s e => logError p (e.cls + 1) e.die.toNat e.source.toNat e.unit.toNat
    (if e.inMem then e.addr else 0) lid.toNat s) s

/-- An access to [a, a + n) meets storage errors: a store that covers the whole word (`cover`: what the store writes; empty
for a read) removes the error; any other access has a transient or a correctable one corrected and written back, and
reports an uncorrectable one. -/
def meetErrs (p : Nat) (lid : Word) (inPlace : EccErr → Bool) (a n : Nat) (cover : List Span) (s : State) :
    State × Option EccErr :=
  let hit (e : EccErr) : Bool := inPlace e && e.meets a n
  let gone (e : EccErr) : Bool := hit e && e.covered cover
  let seen := s.ecc.filter fun e => hit e && !(gone e)
  if s.ecc.any hit then
    (logErrs p lid seen { s with ecc := without s.ecc fun e => gone e || (hit e && e.cls != 2) },
     seen.find? fun e => e.cls == 2)
  else (s, none)

/-- Memory as the part reads it for itself: the bytes of a word that is uncorrectable are free (log 119). -/
def goodMem (s : State) : Memory :=
  (s.ecc.filter fun e => e.inMem && e.cls == 2).foldl (fun m e =>
    Store.writeBytes m e.lo ((List.range e.word).map fun i => (Config.freeWord s.tick (2 ^ 45 + e.lo + i)).setWidth 8)) s.mem
/-- Memory without the group's checks: an access of an observer to [a, a + n) performs the stores it meets there, and meets
the errors; an uncorrectable one is logged. `cover`: what it writes. -/
def partMeets (p : Nat) (a n : Nat) (cover : List Span) (s : State) : State :=
  (meetErrs p 0 EccErr.inMem a n cover s).1
def seeMem (o : Observer) (p a n : Nat) (s : State) : State := partMeets p a n [] (observe o [(a, n)] s)
def coverMem (o : Observer) (p a n : Nat) (s : State) : State := partMeets p a n [(a, n)] (observe o [(a, n)] s)

/-! Touched and lost dies (18 R385, R388), links (R386), peers (22 R412). -/

/-- The bits that an access to a local address sets: its home slice's die, and the die of the stack that serves it
where no cache does (a free bit). -/
def touchBits (s : State) (p : Nat) (pa : Nat) : BitVec 4 :=
  let one (d : Nat) : BitVec 4 := BitVec.ofNat 4 (2 ^ d)
  (match homeDie (s.part p) pa with
    | some d => one d
    | none => 0) |||
  (if pa < hbmTop && Config.freeBit s.tick (pa / 256) then one (granuleDie pa) else 0)

def touchPieces (t p : Nat) (ps : List Piece) (s : State) : State :=
  let b := ps.foldl (fun a e => a ||| touchBits s p e.1.pa) 0
  s.modTeam t fun tm => { tm with touched := tm.touched ||| b }

/-- The lost dies among the homes of some pieces, as a mask. -/
def lostHomes (s : State) (p : Nat) (ps : List Piece) : BitVec 4 :=
  ps.foldl (fun a e => match homeDie (s.part p) e.1.pa with
    | some d => if (s.die d).lost then a ||| BitVec.ofNat 4 (2 ^ d) else a
    | none => a) 0

/-- A piece's home lies behind a link that is not up: the access is not yet performed (R386). -/
def linkBusy (s : State) (p die : Nat) (ps : List Piece) : Bool :=
  ps.any fun e => match homeDie (s.part p) e.1.pa with
    | some d => d != die && !(s.die d).lost && ((s.die d).linkState != 0 || (s.die die).linkState != 0)
    | none => false

/-- The peers that some pieces name. -/
def peersOf (ps : List Piece) : List Nat := (ps.filter fun e => isRemote e.1.pa).map fun e => peerOf e.1.pa
/-- A request to the peer has run out of its retry budget for this group. -/
def peerExpired (s : State) (t g peer : Nat) : Bool :=
  s.silent.any fun e => e.peer == peer && e.team == t && e.group == g && e.expired
/-- The peer answers in this step (a free bit, log 22). -/
def peerAnswers (s : State) (peer : Nat) : Bool := Config.freeBit s.tick (2 ^ 60 + peer)

/-! Writes that commands have still to perform (13 R269 to R271). -/

/-- The team that the stores of shared-queue packets are put under: none has this number. -/
def noTeamNo : Nat := 2 ^ 64
/-- A command's store, as it waits to be performed at its home slice. -/
def storeOf (c : Cmd) : Pending :=
  { id := 0, team := c.team.getD noTeamNo, group := c.group, lanes := 0, eng := some c.id, addr := 0, bytes := [] }
/-- Who meets the stores at a command's accesses. -/
def Cmd.observer (c : Cmd) : Observer := if c.bySeq then .seq (c.team.getD 0) else .part
/-- The write of a command: into the scratchpad; by an atomic; to a device, or in a command whose writes are performed one by
one, at once; else it waits at its home slice. -/
def performHeld (c : Cmd) (h : Held) (s : State) : State :=
  let new (old : Nat) : Nat := match h.red with
    | some (op, ty) => (atomVal op ty old h.value).1
    | none => h.value
  if h.sp then
    match c.team, h.spans with
    | some t, (o, n) :: _ => s.modTeam t fun tm =>
        { tm with scratch := Store.writeLe tm.scratch o n (new (Store.readLe tm.scratch o n)) }
    | _, _ => s
  else if h.dev || h.red.isSome then
    let s := observe c.observer h.spans s
    writeSpans c.part h.spans (new (readSpans s c.part h.spans)) s
  else pendSpans (storeOf c) none h.spans h.value s

/-- A command's write goes to global memory that overlaps bytes. -/
def Held.meets (h : Held) (a n : Nat) : Bool :=
  !h.sp && h.spans.any fun r => decide (r.1 < a + n) && decide (a < r.1 + r.2)
/-- The checks of the chunk that holds an item have passed. -/
def Cmd.passed (c : Cmd) (item : Nat) : Bool := decide (chunkOf c.kind item < c.sizes.length)
/-- An element of a row of GSC.s has lost to a colliding row, which has written it: the row of the greatest rank remains
(13 R284). `open_`: the writes that are still to be performed. -/
def beaten (c : Cmd) (open_ : List Held) (h : Held) : Bool :=
  match c.kind with
  | .gather 1 src _ _ =>
    let n := layDim src.toNat 0
    (match c.rows.find? fun e => e.1 == h.item / n with
      | some (row, x, rank) => c.rows.any fun e =>
          e.2.1 == x && (decide (rank < e.2.2) || (rank == e.2.2 && decide (row < e.1))) && c.passed (e.1 * n + h.item % n) &&
            !(open_.any fun o => o.item == e.1 * n + h.item % n)
      | none => false)
  | _ => false
/-- Some writes of a command, in the order given; `rest`: those that stay to be performed. -/
def performList (f : Cmd → Held → State → State) (c : Cmd) (rest : List Held) : List Held → State → State
  | [], s => s
  | h :: hs, s => performList f c rest hs (if beaten c (hs ++ rest) h then s else f c h s)
/-- The writes of command k that `sel` names are performed, the oldest first. -/
def performSome (f : Cmd → Held → State → State) (k : Nat) (sel : Held → Bool) (s : State) : State :=
  match s.cmd? k with
  | none => s
  | some c =>
    let rest := without c.held sel
    performList f c rest (c.held.filter sel).reverse (s.modCmd k fun c => { c with held := rest })
/-- Commands' writes to [a, a + n) of memory, before its bytes are taken elsewhere: those of passed chunks are performed; an
item of a later chunk is run again when its chunk comes. -/
def flushHeld (a n : Nat) (s : State) : State :=
  (List.range s.cmds.length).foldl (fun s k => match s.cmd? k with
    | none => s
    | some c =>
      if c.held.any fun h => h.meets a n then
        let again (i : Nat) : Bool := c.held.any fun h => h.item == i && h.meets a n && !(c.passed i)
        (performSome performHeld k (fun h => h.meets a n && c.passed h.item) s).modCmd k fun c =>
          { c with held := without c.held fun h => again h.item, early := c.early.filter fun e => !(again e.1) }
      else s) s

/-! Copy-on-write (08 R199). -/

/-- The reference count of the frame of an address (08 R198). -/
def frameCount (s : State) (pa : Nat) : Nat := (s.frames.get (pa / 2 ^ 16)).toNat
/-- The ROOT of a lineage (17 R351). -/
def rootOf (lineage : DWord) : Nat := lineage.toNat % 2 ^ 16
/-- The free frames of a ROOT (17 R352). -/
def poolOf (s : State) (p root : Nat) : List Nat := (kGet (s.part p).pools root).getD []
def setPool (p root : Nat) (fs : List Nat) (s : State) : State :=
  s.modPart p fun pt => { pt with pools := kSet pt.pools root fs }

/-- The page is bound to a cache page list and its frame is shared. -/
def needsCopy (s : State) (pg : Page) : Bool := pg.cpl.isSome && decide (1 < frameCount s pg.pa)

/-- The errors of a frame that is copied: what can be corrected is; an uncorrectable word stays one in the copy, whose
former errors are gone (log 119). -/
def copyErrs (p old new : Nat) (s : State) : State :=
  if s.ecc.isEmpty then s
  else
    let s := partMeets p (new * 2 ^ 16) (2 ^ 16) [(new * 2 ^ 16, 2 ^ 16)] s
    let s := partMeets p (old * 2 ^ 16) (2 ^ 16) [] s
    { s with ecc := s.ecc ++ ((s.ecc.filter fun e => e.inMem && e.meets (old * 2 ^ 16) (2 ^ 16)).map fun e =>
        { e with addr := e.addr - old * 2 ^ 16 + new * 2 ^ 16 }) }

/-- A fresh frame takes the page's place in its entry. None: the pool is empty. -/
def copyOnWrite (p root : Nat) (pg : Page) (s : State) : Option State :=
  match pg.cpl, poolOf s p root with
  | some (ent, hdr), f :: rest =>
    let old := pg.pa / 2 ^ 16
    let s := copyErrs p old f (performStores (fun q => q.overlaps (old * 2 ^ 16) (2 ^ 16)) (flushHeld (old * 2 ^ 16) (2 ^ 16) s))
    let m := s.mem.copyRange (old * 2 ^ 16) (f * 2 ^ 16) (2 ^ 16)
    let m := m.writeLe ent 8 (setFld (m.readLe ent 8) 16 36 f)
    let m := m.writeLe (hdr + 16) 4 (m.readLe (hdr + 16) 4 + 1)
    some (setPool p root rest { s with
      mem := m, frames := (s.frames.set old (s.frames.get old - 1)).set f 1 })
  | _, _ => none

/-- Copies for every shared page of an access, once per entry: the later part of a page that has its copy writes there. An
error: the place of the first piece for which no frame is left. -/
def copyPieces (p root : Nat) (copied : List (Option (Nat × Nat))) (i : Nat) : List Piece → State → Except Nat State
  | [], s => .ok s
  | (pg, _) :: r, s =>
    if needsCopy s pg && !(copied.contains pg.cpl) then
      match copyOnWrite p root pg s with
      | some s' => copyPieces p root (pg.cpl :: copied) (i + 1) r s'
      | none => .error i
    else copyPieces p root copied (i + 1) r s
/-- The address of the first byte of piece i of an access. -/
def partAddr (va n i : Nat) : Nat := ((lineParts va n).map fun q => q.1).getD i va

/-! One access of a lane. -/

/-- Why a lane's access is not performed: the code, TRAP_INFO0 to 2, and whether it is a lane of a lost die. -/
structure Bad where
  code : Byte
  i0   : Word
  i1   : Word
  i2   : Word
  deriving DecidableEq, Repr

/-- R183's TRAP_INFO for an address and a kind. -/
def badAt (code : Byte) (k : Kind) (a : Nat) : Bad :=
  { code := code, i0 := BitVec.ofNat 32 a, i1 := BitVec.ofNat 32 (a / 2 ^ 32), i2 := BitVec.ofNat 32 k.code }
/-- UNCOR (18 R382): the physical address for memory, 0 for a core SRAM; the kind and the SOURCE. -/
def badEcc (k : Kind) (source pa : Nat) : Bad :=
  { code := 0x09, i0 := BitVec.ofNat 32 pa, i1 := BitVec.ofNat 32 (pa / 2 ^ 32),
    i2 := BitVec.ofNat 32 (k.code + 16 * source) }

/-- The error word that a piece meets, and where. -/
def meetPieces (p : Nat) (lid : Word) (inPlace : Page → EccErr → Bool) (cover : List Span) :
    List Piece → State → State × Option EccErr
  | [], s => (s, none)
  | (pg, n) :: r, s =>
    match meetErrs p lid (inPlace pg) pg.pa n cover s with
    | (s, some e) => (s, some e)
    | (s, none) => meetPieces p lid inPlace cover r s

/-- The pieces that pass the checks, of accesses at some addresses. -/
def piecesAt (s : State) (w : Who) (k : Kind) (words : Bool) (n : Nat) (vas : List Nat) : List Piece :=
  vas.flatMap fun a => match checkAccess s w k words a n with
    | .ok q => q
    | .error _ => []

/-- One lane's access: the checks, the peer, the lost die, the copy, the errors; then `f` performs it. `mates`: the addresses
that the same access writes besides: for the lanes of its instruction, which share one access (08 R203), or for a block. -/
def laneAccess (t g : Nat) (k : Kind) (words : Bool) (mates : List Nat) (va n : Nat) (f : List Piece → State → State)
    (s : State) : State × Option Bad :=
  let w := whoGroup s t g
  let l := s.launchOf t
  let lost (ps : List Piece) : Option (State × Option Bad) :=
    if lostHomes s w.part ps != 0 then
      some (s.modTeam t fun tm => { tm with touched := tm.touched ||| lostHomes s w.part ps },
        some { code := 0x12, i0 := (lostHomes s w.part ps).setWidth 32, i1 := 0, i2 := 0 })
    else none
  match checkAccess s w k words va n with
  | .error (code, a) => (s, some (badAt code k a))
  | .ok ps =>
    match (peersOf ps).find? (peerExpired s t g) with
    | some _ => (s, some (badEcc k 7 ((ps.map fun e => e.1.pa).headD 0)))
    | none =>
      match lost ps with
      | some r => r
      | none =>
        match (if k.writes then copyPieces w.part (rootOf l.lineage) [] 0 ps s else .ok s) with
        | .error i => (s, some (badAt 0x06 k (partAddr va n i)))
        | .ok s =>
          match checkAccess s w k words va n with
          | .error (code, a) => (s, some (badAt code k a))
          | .ok ps =>
            let cover := if (k == .write || !mates.isEmpty) && !s.ecc.isEmpty then spansOf (piecesAt s w k words n (va :: mates)) else []
            match lost ps with
            | some r => r
            | none =>
              match meetPieces w.part l.lid (fun pg e => e.metBy k (s.team t) pg) cover ps (touchPieces t w.part ps s) with
              | (s, some e) => (s, some (badEcc k e.source.toNat (if e.inMem then e.addr else 0)))
              | (s, none) => (f ps s, none)

/-- The lanes in order; the failing ones with their reasons. -/
def runLanes (f : Nat → State → State × Option Bad) : List Nat → State → State × List (Nat × Bad)
  | [], s => (s, [])
  | l :: ls, s =>
    match f l s with
    | (s, none) => runLanes f ls s
    | (s, some b) => let r := runLanes f ls s; (r.1, (l, b) :: r.2)

/-- The order of R182, after a lost die (18 R376) and before errors of the data. -/
def checkRank (code : Byte) : Nat :=
  match code.toNat with
  | 0x12 => 0
  | 0x04 => 1
  | 0x06 => 2
  | 0x08 => 3
  | 0x05 => 4
  | 0x07 => 5
  | 0x09 => 6
  | _ => 7

/-- A request that has run out of its retry budget is answered by the trap: the group asks anew (22 R412). -/
def dropExpired (t g : Nat) (s : State) : State :=
  if s.silent.any fun e => e.team == t && e.group == g && e.expired then
    { s with silent := without s.silent fun e => e.team == t && e.group == g && e.expired }
  else s

/-- The access has failed as its peer does not answer (22 R412). -/
def Bad.ofPeer (b : Bad) : Bool := b.code == 0x09 && b.i2.toNat / 16 == 7

/-- The trap of the lanes that failed (R183): the earliest check, its lanes, the lowest one's information; the other
failing lanes stay at the instruction. An access made once per group lists every lane of E. -/
def finishLanes (c : Ctx) (once : Bool) (r : State × List (Nat × Bad)) : Act :=
  match r.2 with
  | [] => .adv r.1
  | b :: bs =>
    let best := (b :: bs).foldl (fun a x => if checkRank x.2.code < checkRank a.2.code then x else a) b
    let of_ (p : Nat × Bad → Bool) : Lanes := laneSet fun l => (b :: bs).any fun x => x.1 == l && p x
    let ls := if once then c.E else of_ fun x => x.2.code == best.2.code
    .trap (if (b :: bs).any fun x => x.2.ofPeer && x.2.code == best.2.code then dropExpired c.t c.g r.1 else r.1)
      { code := best.2.code, lanes := ls, pc := c.pc, i0 := best.2.i0, i1 := best.2.i1, i2 := best.2.i2 }
      (if once then c.E else of_ fun _ => true)

/-- The instruction cannot be performed yet: a link on its way wakes or retrains, or a peer does not answer. -/
def gateLanes (c : Ctx) (k : Kind) (words : Bool) (n : Nat) (as_ : List Nat) (s : State) : Option Act :=
  let w := whoGroup s c.t c.g
  let ps := piecesAt s w k words n as_
  if linkBusy s w.part (s.team c.t).die ps then some .stall
  else match (peersOf ps).find? fun p => !(peerExpired s c.t c.g p) && !(peerAnswers s p) with
    | some p => some (.hold { s with silent := s.silent ++ [{ peer := p, team := c.t, group := c.g, since := now s }] })
    | none => none

/-- The copies that a store or an atomic has made of shared pages before it is performed (08 R199), lane by lane; a page
without a frame for its copy, or on a lost die, is left to the access. -/
def copyLanes (c : Ctx) (k : Kind) (words : Bool) (n : Nat) (as_ : List Nat) (s : State) : State :=
  if k.writes then
    let w := whoGroup s c.t c.g
    as_.foldl (fun s a =>
      let ps := piecesAt s w k words n [a]
      if (ps.any fun e => needsCopy s e.1) && lostHomes s w.part ps == 0 then
        match copyPieces w.part (rootOf (s.launchOf c.t).lineage) [] 0 ps s with
        | .ok s => s
        | .error _ => s
      else s) s
  else s
/-- Links and peers on the way to an instruction's bytes, then the copies, then links to the fresh frames (18 R386). The
state in which the accesses are made, or what the instruction does instead. -/
def reachLanes (c : Ctx) (k : Kind) (words : Bool) (n : Nat) (as_ : List Nat) (s : State) : Except Act State :=
  match gateLanes c k words n as_ s with
  | some a => .error a
  | none =>
    let s1 := copyLanes c k words n as_ s
    let w := whoGroup s c.t c.g
    if k.writes && linkBusy s1 w.part (s.team c.t).die (piecesAt s1 w k words n as_) then .error (.hold s1) else .ok s1

/-- The threads on whose behalf an access is made: the lane, or every lane of E where it is made once (08 R201). -/
def threadsOf (c : Ctx) (once : Bool) (l : Nat) : Lanes := if once then c.E else laneBit l

/-- A memory instruction: each lane of E, or once for the group; `f` performs a lane's pieces. -/
def memAct (c : Ctx) (once : Bool) (k : Kind) (words : Bool) (n : Nat) (addr : Nat → Nat)
    (f : Nat → List Piece → State → State) (s : State) : Act :=
  let ls := if once then (lanes c.E).take 1 else lanes c.E
  match reachLanes c k words n (ls.map addr) s with
  | .error a => a
  | .ok s => finishLanes c once (runLanes (fun l => laneAccess c.t c.g k words (if k == .write then ls.map addr else []) (addr l) n
      (fun ps s => f l ps (observe (.lanes c.t c.g (threadsOf c once l)) (spansOf ps) s))) ls s)

/-! Addresses (02 R43, R44). -/

/-- Displacement and scaled index of a form. -/
def formSum (g : Group) (f : AddrForm) (l : Nat) : Int :=
  match f with
  | .plain => 0
  | .disp d => sgn 32 d.toNat
  | .full d none => sgn 32 d.toNat
  | .full d (some (r, sc)) => sgn 32 d.toNat + sgn 32 (regGet g r l 1) * ((2 ^ sc.toNat : Nat) : Int)

/-- A global address: base pair, displacement, index; modulo 2^64. -/
def globalAddr (g : Group) (a : Addr) (l : Nat) : Nat := wrap 64 ((regGet g a.base l 2 : Int) + formSum g a.form l)
/-- An offset in a window, modulo 2^32. -/
def windowOff (g : Group) (a : Addr) (l : Nat) : Nat := wrap 32 ((regGet g a.base l 1 : Int) + formSum g a.form l)

/-- The registers an address names: base of k registers, index. -/
def addrUse (k : Nat) (a : Addr) : List Use :=
  .rd a.base k :: (match a.form with
    | .full _ (some (r, _)) => [.rd r 1]
    | _ => [])

end Sys2Proof.Machine
end

