-- ==== Sys2Proof/Machine/Cores.lean ====
section
/-! DEFINITION. Cores: the fuse maps, logical numbers, what a core can hold, and the choice of a core (01 R15 to R19,
04 R87, 17 R354, R355). -/

namespace Sys2Proof.Machine

/-! Enabled cores (01 R16, 17 R354). -/

/-- HARVEST_MAPd: the fuses leave at least 34 of the 36 cores enabled (log 6). -/
def harvest (d : Nat) : BitVec 36 :=
  if 34 ≤ ((List.range 36).filter fun c => (Config.harvestRaw d).getLsbD c).length then Config.harvestRaw d else -1
def coreOn (d c : Nat) : Bool := decide (c < 36) && (harvest d).getLsbD c
/-- A core of a partition: its die and its physical number. -/
abbrev Core := Nat × Nat
/-- The enabled cores of a die. -/
def dieCores (d : Nat) : List Core := ((List.range 36).filter (coreOn d)).map fun c => (d, c)
/-- The logical order of a partition. -/
def partCores (p : Part) : List Core := (partDies p).flatMap dieCores
/-- CORE_LOGICAL of a core. -/
def logicalOf (p : Part) (k : Core) : Nat := (partCores p).findIdx fun x => x == k
/-- The clusters of a partition in logical order: (die, cluster). -/
def partClusters (p : Part) : List (Nat × Nat) := (partDies p).flatMap fun d => (List.range 9).map fun c => (d, c)
/-- The enabled cores of a cluster, ascending. -/
def clusterCores (cl : Nat × Nat) : List Core :=
  (List.range 4).filterMap fun i => if coreOn cl.1 (4 * cl.2 + i) then some (cl.1, 4 * cl.2 + i) else none
/-- The even cores of the complete pairs of a cluster. -/
def clusterPairs (cl : Nat × Nat) : List Core :=
  (clusterCores cl).filter fun k => k.2 % 2 == 0 && coreOn k.1 (k.2 + 1)
/-- The other core of a pair (01 R15). -/
def pairOf (k : Core) : Core := (k.1, k.2 ^^^ 1)

/-! What a core holds (R87, Table 1.1, 14 R291). -/

/-- The teams resident on a core, by index, but for those of `out`. -/
def residents (s : State) (out : Nat → Bool) (k : Core) : List Nat :=
  (List.range s.teams.length).filter fun t =>
    let tm := s.team t
    tm.phase == .resident && tm.die == k.1 && tm.core == k.2 && !(out t)

/-- The 131,072 lane-registers hold the team (R348). -/
def fitsCore (l : Launch) : Bool := decide (l.groups * 32 * l.vregs ≤ 131072)

/-- The core has everything the team of a launch declares free, were the teams of `out` absent. -/
def canHold (s : State) (out : Nat → Bool) (l : Launch) (k : Core) : Bool :=
  let ts := residents s out k
  let sum (f : Nat → Nat) : Nat := ts.foldl (fun a t => a + f t) 0
  coreOn k.1 k.2 && !(s.die k.1).lost && decide (ts.length < 16) &&
  decide (sum (fun t => ((s.team t).groups.filter fun g => !g.ended).length) + l.groups ≤ 64) &&
  decide (sum (fun t => (s.launchOf t).groups * 32 * (s.launchOf t).vregs) + l.groups * 32 * l.vregs ≤ 131072) &&
  decide (sum (fun t => (s.launchOf t).scratchBytes) + l.scratchBytes ≤ 2 ^ 20) &&
  decide (sum (fun t => (s.launchOf t).bars) + l.bars ≤ 256) &&
  decide (sum (fun t => (s.launchOf t).nqueues) + l.nqueues ≤ 64) &&
  decide (sum (fun t => (s.launchOf t).accs) + l.accs ≤ 8) &&
  decide (sum (fun t => (s.launchOf t).selRows) + l.selRows ≤ 128) &&
  (l.stream == 0 || ts.all fun t => (s.launchOf t).stream == 0)

/-! The choice (R354, R355). -/

/-- The first of the candidates with the least value. -/
def leastBy (f : Core → Nat) : List Core → Option Core
  | [] => none
  | k :: ks =>
    match leastBy f ks with
    | none => some k
    | some x => if f k ≤ f x then some k else some x

/-- HASH of a team's coordinates, with the shifts of AFFARG. -/
def affHash (l : Launch) (x y z : Nat) : Nat :=
  let a := l.f 544 32
  let m := 2 ^ 32
  let u := ((x >>> fld a 0 5) ^^^ ((y >>> fld a 5 5) * 0x10193 % m)) ^^^ ((z >>> fld a 10 5) * 0x1000001 % m)
  fld u 0 8 ^^^ fld u 8 8 ^^^ fld u 16 8 ^^^ fld u 24 8

/-- Under ANY a die without headroom takes no new team while another die has headroom (22 R414). -/
def hasRoom (s : State) (p : Part) (d : Nat) : Bool :=
  (s.die d).headroom != 0 || !((partDies p).any fun x => !(s.die x).lost && (s.die x).headroom != 0)

/-- The even core, or the core, of the unit that begins with team t; `ok` says which cores hold it now, `n` how many
teams a core holds. Under PAIR = 1 only complete pairs count and units stand in place of teams. -/
def chooseCore (s : State) (p : Part) (l : Launch) (t : Nat) (ok : Core → Bool) (n : Core → Nat) : Option Core :=
  let pair := bitOf l.pkt.toNat 14
  let unit := if pair then t / 2 else t
  let cores (cl : Nat × Nat) : List Core := if pair then clusterPairs cl else clusterCores cl
  let all := (partClusters p).filter fun cl => !(cores cl).isEmpty
  match l.f 12 2 with
  | 0 =>
    let held := (partDies p).filter fun d => hasRoom s p d && (partClusters p).any fun cl => cl.1 == d && (cores cl).any ok
    match leastBy (fun k => 0xFFFF - (s.die k.1).headroom.toNat) (held.map fun d => (d, 0)) with
    | none => none
    | some k => leastBy n (((partClusters p).filter fun cl => cl.1 == k.1).flatMap fun cl => (cores cl).filter ok)
  | 1 =>
    let f := affHash l (t % l.gx) (t / l.gx % l.gy) (t / (l.gx * l.gy))
    let k := (partDies p).length
    let d := (partDies p).getD (f % k) 0
    let c := f / k % 9
    -- without a complete pair, on to the next cluster of the die
    match ((List.range 9).map fun i => (d, (c + i) % 9)).find? fun cl => !(cores cl).isEmpty with
    | none => none
    | some cl => leastBy n ((cores cl).filter ok)
  | 2 =>
    match all[unit % all.length]? with
    | none => none
    | some cl =>
      match (cores cl)[unit / all.length % (cores cl).length]? with
      | some k => if ok k then some k else none
      | none => none
  | _ =>
    match (partCores p)[l.f 544 32]? with
    | some k => if ok k then some k else none
    | none => none

/-- How many teams a core holds. -/
def loadOf (s : State) (out : Nat → Bool) (k : Core) : Nat := (residents s out k).length

/-- The core for team t of launch l, were the teams of `out` absent; the odd core of a unit is its pair. -/
def corePick (s : State) (out : Nat → Bool) (l : Launch) (t : Nat) : Option Core :=
  let pair := bitOf l.pkt.toNat 14
  chooseCore s (s.part l.part) l t
    (fun k => canHold s out l k && (!pair || canHold s out l (pairOf k))) (loadOf s out)

end Sys2Proof.Machine
end

