-- ==== Sys2Proof/Machine/Life.lean ====
section
/-! DEFINITION. The life of launches and teams: accesses that the part makes itself, launch packets (17 R348 to R351),
node words (R357), the ready pool (R353), placement (04 R87), the ends of groups, teams and grids (R98, 17 R358),
dispatch traces (R362 to R364), and the end of a subtree (R369). -/

namespace Sys2Proof.Machine

/-! Accesses that the part makes itself (13 R274, log 23). -/

/-- The part acting for a partition in a world; `sup`: for a system launch or queue. -/
def whoPart (p : Nat) (world sup : Bool) : Who := { part := p, world := world, sup := sup }
def whoLaunch (l : Launch) : Who := { whoPart l.part l.world l.sys with root := l.ctxRoot }

/-- The address an engine write goes to: a shadow region's copy that was not live when the command issued (08 R196).
`lives`: LIVE at the issue, for the descriptors switched since. -/
def writeAddr (s : State) (lives : List (Nat × Bool)) (pg : Page) : Nat :=
  match pg.shadow with
  | none => pg.pa
  | some d =>
    let live := bitOf (s.mem.readLe d 1) 0
    if (kGet lives d).getD live == live then pg.alt else pg.pa

/-- An access of an engine: pieces, or the failing address and the status it would end with (13 Table 13.4). -/
def engAccess (s : State) (w : Who) (lives : List (Nat × Bool)) (write : Bool) (words : Bool) (va n : Nat) :
    Except (Byte × Nat) (List Piece) :=
  match checkAccess s w .read words va n with
  | .error (_, a) => .error (1, a)
  | .ok ps =>
    if !write then .ok ps
    else if ps.any fun e => e.1.cls == 1 then .error (2, va)
    else if ps.any fun e => !e.1.w then .error (1, va)
    else .ok (ps.map fun e => ({ e.1 with pa := writeAddr s lives e.1 }, e.2))

/-- The part's read of n bytes: the state after it, in which stores that are due are performed and errors have been met
(18 R381), and the bytes; none: a check fails. -/
def partGet (w : Who) (va n : Nat) (s : State) : State × Option Nat :=
  match engAccess s w [] false true va n with
  | .ok ps =>
    let s := ps.foldl (fun s e => seeMem .part w.part e.1.pa e.2 s) s
    (s, some (readPieces { s with mem := goodMem s } w.part ps))
  | .error _ => (s, none)
def partSee (w : Who) (va n : Nat) (s : State) : State := (partGet w va n s).1
def partRead (s : State) (w : Who) (va n : Nat) : Option Nat := (partGet w va n s).2
/-- n bytes written; none: a check fails, or no frame is left for a copy. -/
def partWrite (w : Who) (root va n x : Nat) (s : State) : Option State :=
  match engAccess s w [] true true va n with
  | .error _ => none
  | .ok ps =>
    match copyPieces w.part root [] 0 ps s with
    | .error _ => none
    | .ok s =>
      match engAccess s w [] true true va n with
      | .ok ps => some (writePieces w.part ps x (ps.foldl (fun s e => coverMem .part w.part e.1.pa e.2 s) s))
      | .error _ => none
/-- The failing address of an access that `partRead` or `partWrite` does not perform. -/
def failAt (s : State) (w : Who) (write : Bool) (va n : Nat) : Nat :=
  match engAccess s w [] write true va n with
  | .error (_, a) => a
  | .ok _ => va
/-- An atomic of the part on n bytes: the state, the old value. -/
def partAtomic (w : Who) (root va n : Nat) (f : Nat → Nat) (s : State) : Option (State × Nat) :=
  if va % n ≠ 0 then none
  else match partGet w va n s with
    | (_, none) => none
    | (s, some x) => (partWrite w root va n (f x) s).map fun s => (s, x)

/-- Bytes set to 0, 64 at a time; what fails its checks is left. -/
def clearBytes (w : Who) (root va : Nat) : Nat → State → State
  | 0, s => s
  | k + 1, s =>
    let s := clearBytes w root va k s
    (partWrite w root (va + 64 * k) 64 0 s).getD s

/-! Time order. -/

/-- The next place in an order: above those given. -/
def freshOrder (s : State) : Nat :=
  (s.launches.foldl (fun a l => max a l.order) 0) + (s.teams.foldl (fun a t => max a t.order) 0) + 1

/-! Parked waits that complete. -/

/-- Every wait of a group that `f` finds completed leaves, in issue order; f gives the state and the trap. -/
def settleWaits (t g : Nat) (f : Wait → State → Option (State × Option Trap)) : Nat → State → State
  | 0, s => s
  | n + 1, s =>
    match (s.grp t g).waits.findIdx? fun w => w.done.isNone && (f w s).isSome with
    | none => s
    | some k =>
      match (s.grp t g).waits[k]?.bind fun w => f w s with
      | some (s', out) => settleWaits t g f n (completeWait t g k out s')
      | none => s
/-- The same over every group of a team, ascending. -/
def settleTeam (t : Nat) (f : Nat → Wait → State → Option (State × Option Trap)) (s : State) : State :=
  (List.range (s.team t).groups.length).foldl (fun s g => settleWaits t g (f g) (s.grp t g).waits.length s) s

/-! Children (17 R367). -/

/-- The failures among some children of a team, once every one of them has retired. -/
def childFailures (tm : Team) (which : List Nat) : Option Nat :=
  let cs := which.filterMap fun i => tm.children[i]?
  if cs.all fun c => c.status.isSome then some (cs.filter fun c => c.status != some 0).length else none

/-- A TWAIT whose children have retired: DST receives the failures. -/
def twaitDone (t g : Nat) (w : Wait) (s : State) : Option (State × Option Trap) :=
  match w.kind with
  | .children dst which =>
    if (s.team t).phase == .saved then none
    else match childFailures (s.team t) which with
    | some n => some ((dropWrite t g w.lanes [.wr (.s (BitVec.ofNat 6 dst)) 1] s).modGrp t g fun gr =>
        { gr with s := gr.s.set dst (BitVec.ofNat 32 n) }, none)
    | none => none
  | _ => none

/-! Launches. -/

/-- The launch is live: its grid's completion record has not been written (17 R351). -/
def launchLive (s : State) (n : Nat) : Bool :=
  decide (n < s.launches.length) && (match (s.launch n).phase with
    | .done _ => s.records.any fun r => r.launch == some n
    | _ => true)

/-- The teams of a launch, by index. -/
def teamsOf (s : State) (n : Nat) : List Nat := (List.range s.teams.length).filter fun t => (s.team t).launch == n

/-- Launch n lies in the subtree of launch r: the chain of parents reaches it. -/
def inSubtree (s : State) (r : Nat) : Nat → Nat → Bool
  | 0, n => n == r
  | k + 1, n => n == r || (match (s.launch n).parent with
    | some m => inSubtree s r k m
    | none => false)
def subtree (s : State) (r : Nat) : List Nat :=
  (List.range s.launches.length).filter fun n => launchLive s n && inSubtree s r 10 n

/-- The live launch of a partition with a lineage. -/
def byLineage (s : State) (p : Nat) (x : DWord) : Option Nat :=
  (List.range s.launches.length).find? fun n => launchLive s n && (s.launch n).part == p && (s.launch n).lineage == x

/-! The packet (R348, R366). -/

/-- The rules of Table 17.1, by the lowest bit of the field that each one is about; `child`: REC and REPLAY are refused
each, else together. -/
def packetRules (x : Nat) (child : Bool) : List (Nat × Bool) :=
  let f (lo n : Nat) : Nat := fld x lo n
  [ (0, f 0 8 != 1),
    (16, bitOf x 16 && (child || bitOf x 17)),
    (17, child && bitOf x 17),
    (64, f 64 2 != 0),
    (128, f 128 5 != 0),
    (192, f 192 32 == 0 || (f 224 32 != 0 && f 256 32 != 0 && decide (2 ^ 32 - 1 < f 192 32 * f 224 32 * f 256 32))),
    (224, f 224 32 == 0),
    (256, f 256 32 == 0),
    (298, decide (64 < f 298 7)),
    (305, decide (256 < f 305 9)),
    (314, decide (16 < f 314 5)),
    (319, bitOf x 319),
    (320, decide (1024 < f 320 11)),
    (331, decide (8 < f 331 4)),
    (335, decide (128 < f 335 8)),
    (343, decide (64 < f 343 7) || (f 343 7 == 0 && f 335 8 != 0)),
    (350, f 350 2 != 0),
    (384, f 384 3 != 0),
    (544, match f 12 2 with
      | 1 => f 559 17 != 0
      | 3 => false
      | _ => f 544 32 != 0),
    (768, f 768 32 % (64 * (f 288 5 + 1)) != 0),
    (832, f 832 16 != 0),
    (896, (bitOf x 16 || bitOf x 17) && f 896 64 == 0) ]

/-- The lowest bit of the lowest field that breaks a rule; 288 where every field is in range and no core provides the
whole (R366). -/
def packetBad (pkt : BitVec 1024) (child : Bool) : Option Nat :=
  match (packetRules pkt.toNat child).find? fun r => r.2 with
  | some r => some r.1
  | none => if fitsCore { noLaunch with pkt := pkt } then none else some 288

/-- What completes a packet with status 5 by the partition's state (R354, R355, R359). -/
def packetRefused (s : State) (l : Launch) : Bool :=
  let p := s.part l.part
  let x := l.pkt.toNat
  let pair := bitOf x 14
  let cores := partCores p
  (l.f 12 2 == 3 && decide (cores.length ≤ l.f 544 32)) ||
  (pair && (l.teamCount % 2 != 0 || (partClusters p).all (fun cl => (clusterPairs cl).isEmpty) ||
    (l.f 12 2 == 3 && (match cores[l.f 544 32]? with
      | some k => k.2 % 2 != 0 || !coreOn k.1 (k.2 + 1)
      | none => true)))) ||
  (l.f 832 64 != 0 && decide (l.f 800 32 * 65536 < l.teamCount * l.f 768 32))

/-! Allocator maps (R359). -/

/-- The bytes of an arena's map: 2 bits per 64-byte granule, rounded up to 64 bytes. -/
def mapBytes (n : Nat) : Nat := roundUp (ceilDiv (n / 64) 4) 64
/-- The arenas of a launch: base and size. -/
def arenas (l : Launch) : List (Nat × Nat) :=
  let base := l.f 832 64
  let sub := l.f 768 32
  let g := sub / l.groups
  let n := l.teamCount
  ((List.range n).flatMap fun t => (List.range l.groups).map fun i => (base + t * sub + i * g, g)) ++
    [(base + n * sub, l.f 800 32 * 65536 - n * sub)]
/-- All maps read as all-free. -/
def clearMaps (l : Launch) (s : State) : State :=
  if l.f 832 64 = 0 then s
  else (arenas l).foldl (fun s a => clearBytes (whoLaunch l) (rootOf l.lineage) a.1 (mapBytes a.2 / 64) s) s

/-! Traces (R362 to R364). -/

/-- The trace that a launch records or replays. -/
def traceIdx (s : State) (n : Nat) : Option Nat :=
  match (s.launch n).trace with
  | some r => s.traces.findIdx? fun tr => tr.root == r
  | none => none
def State.modTrace (s : State) (i : Nat) (f : Trace → Trace) : State := { s with traces := s.traces.modify i f }

/-- A trace entry (Table 17.8). -/
def traceEntry (team core kind order lid : Nat) : BitVec 128 :=
  BitVec.ofNat 128 (pack [(32, team), (16, core), (4, kind), (12, 0), (32, order), (32, lid)])

/-- An entry is appended to a recording; a full buffer stops it. -/
def appendEntry (i : Nat) (e : BitVec 128) (s : State) : State :=
  match s.traces[i]? with
  | none => s
  | some tr =>
    if tr.replay || tr.stopped then s
    else if tr.cap ≤ tr.count then s.modTrace i fun tr => { tr with stopped := true, overflow := true }
    else
      let l := s.launch tr.root
      let r := partGet (whoLaunch l) tr.desc.toNat 8 s
      let s := (partWrite (whoLaunch l) (rootOf l.lineage) (r.2.getD 0 + 16 * tr.count) 16 e.toNat r.1).getD r.1
      s.modTrace i fun tr => { tr with count := tr.count + 1 }

/-- The same for a launch, where it is recording. -/
def recordEntry (n : Nat) (e : BitVec 128) (s : State) : State :=
  match traceIdx s n with
  | some i => appendEntry i e s
  | none => s

/-- The ORDER of an entry that has been appended, raised by one: the entry of a run stands from its first request on, so
that later entries follow it (R363, R371). -/
def raiseOrder (i k : Nat) (s : State) : State :=
  match s.traces[i]? with
  | none => s
  | some tr =>
    if tr.replay || tr.stopped then s
    else
      let l := s.launch tr.root
      let r := partGet (whoLaunch l) tr.desc.toNat 8 s
      let a := r.2.getD 0 + 16 * k + 8
      let x := partGet (whoLaunch l) a 4 r.1
      (partWrite (whoLaunch l) (rootOf l.lineage) a 4 (x.2.getD 0 + 1) x.1).getD x.1

/-- A counter request of a team at a home slice: the run there goes on, or one begins. -/
def noteCounter (t slice : Nat) (s : State) : State :=
  match traceIdx s (s.team t).launch with
  | none => s
  | some i =>
    match s.traces[i]? with
    | none => s
    | some tr =>
      if tr.replay then s
      else match tr.runs.find? fun r => r.1 == slice && r.2.1 == t with
        | some r => raiseOrder i r.2.2 s
        | none =>
          (appendEntry i (traceEntry (s.team t).linear slice 2 1 (s.launchOf t).lid.toNat) s).modTrace i fun x =>
            { x with runs := x.runs.filter (fun r => r.1 != slice) ++ [(slice, t, tr.count)] }

/-- The recording ends with its root launch: COUNT, the flags, DIES, HMAPs (R362, R363). -/
def closeTrace (n : Nat) (s : State) : State :=
  match s.traces.findIdx? fun tr => tr.root == n && !tr.replay with
  | none => s
  | some i =>
    match s.traces[i]? with
    | none => s
    | some tr =>
      let l := s.launch n
      let w := whoLaunch l
      let root := rootOf l.lineage
      let a := tr.desc.toNat
      let put (off k x : Nat) (s : State) : State := (partWrite w root (a + off) k x s).getD s
      let s := put 12 4 tr.count s
      let s := put 16 4 (pack [(1, b2n tr.incomplete), (1, b2n tr.overflow)]) s
      let s := put 20 4 (pack [(4, (s.part l.part).dies.toNat)]) s
      let s := (List.range 4).foldl (fun s d => put (24 + 8 * d) 8 (harvest d).toNat s) s
      s.modTrace i fun tr => { tr with stopped := true }

/-- A recording starts (R362). -/
def openTrace (n : Nat) (s : State) : State :=
  let l := s.launch n
  let a := l.f 896 64
  let r := partGet (whoLaunch l) (a + 8) 4 s
  { r.1 with traces := r.1.traces ++ [{ root := n, replay := false, desc := BitVec.ofNat 64 a, cap := r.2.getD 0 }] }

/-- The trace expects a launch: it holds a team start of that LAUNCH_ID, and none of a team beyond its grid (R364; what
"arrives where the trace expects another" means: DEDUCED, log 72). -/
def traceExpects (tr : Trace) (l : Launch) : Bool :=
  let mine := tr.entries.filter fun e => fld e.toNat 48 4 == 0 && fld e.toNat 96 32 == l.lid.toNat
  !mine.isEmpty && mine.all fun e => decide (fld e.toNat 0 32 < l.teamCount)

/-- A replay starts; none: it is refused (R364). -/
def openReplay (n : Nat) (s : State) : Option State :=
  let l := s.launch n
  let a := l.f 896 64
  match partGet (whoLaunch l) a 64 s with
  | (_, none) => none
  | (s, some x) =>
    let same := fld x 160 4 == (s.part l.part).dies.toNat &&
      (List.range 4).all fun d => fld x (192 + 64 * d) 64 == (harvest d).toNat
    if !same || bitOf x 128 || bitOf x 129 then none
    else
      let at_ (i : Nat) : Nat := fld x 0 64 + 16 * i
      let es := (List.range (fld x 96 32)).map fun i => BitVec.ofNat 128 ((partRead s (whoLaunch l) (at_ i) 16).getD 0)
      let tr : Trace := { root := n, replay := true, desc := BitVec.ofNat 64 a, entries := es }
      let s := (List.range (fld x 96 32)).foldl (fun s i => partSee (whoLaunch l) (at_ i) 16 s) s
      if traceExpects tr l then some { s with traces := s.traces ++ [tr] } else none

/-- Fields of an entry. -/
def entTeam (e : BitVec 128) : Nat := fld e.toNat 0 32
def entCore (e : BitVec 128) : Nat := fld e.toNat 32 16
def entKind (e : BitVec 128) : Nat := fld e.toNat 48 4
def entOrder (e : BitVec 128) : Nat := fld e.toNat 64 32
def entLid (e : BitVec 128) : Nat := fld e.toNat 96 32

/-- The replay that a launch runs under. -/
def replayOf (s : State) (n : Nat) : Option (Nat × Trace) :=
  match traceIdx s n with
  | some i => (s.traces[i]?).bind fun tr => if tr.replay then some (i, tr) else none
  | none => none

/-- The place of the first entry of a kind that p names. -/
def firstEntry (es : List (BitVec 128)) (kind : Nat) (p : BitVec 128 → Bool) : Option Nat :=
  es.findIdx? fun e => entKind e == kind && p e

/-- A request of a team under a replay is due: the first entry that `own` names (of its slice, its arena, its pool) is
this team's. Its place is given; outside a replay every request is due. -/
def replayDue (s : State) (t : Nat) (kind : Nat) (own : BitVec 128 → Bool) (mine : BitVec 128 → Bool) : Bool :=
  match replayOf s (s.team t).launch with
  | none => true
  | some (_, tr) =>
    match firstEntry tr.entries kind own with
    | some k => (tr.entries[k]?.map mine).getD false
    | none => false

/-- The entry of a request that has been served is used up; a run loses one request. -/
def useEntry (t kind : Nat) (own : BitVec 128 → Bool) (s : State) : State :=
  match replayOf s (s.team t).launch with
  | none => s
  | some (i, tr) =>
    match firstEntry tr.entries kind own with
    | none => s
    | some k =>
      match tr.entries[k]? with
      | none => s
      | some e =>
        let rest := if kind == 2 && decide (1 < entOrder e) then
            tr.entries.set k (BitVec.ofNat 128 (setFld e.toNat 64 32 (entOrder e - 1)))
          else tr.entries.eraseIdx k
        s.modTrace i fun tr => { tr with entries := rest }

/-! Completion (R357, R358). -/

/-- A node becomes ready: into the pool, or to its end with status 4 (R357). -/
def nodeReady (n fails : Nat) (s : State) : State :=
  if fails = 0 then
    let l := s.launch n
    clearMaps l (s.modLaunch n fun l => { l with phase := .ready, order := freshOrder s })
  else s.modLaunch n fun l => { l with phase := .ending 4 }

/-- Where a node word lies, as a context translates its address. -/
def wordAt (s : State) (p : Nat) (root : Option Nat) (a : Nat) : Option Nat := (pageIn s p root a).map fun pg => pg.pa
/-- The node that waits on the node word that a context names by an address, or that was made ready through it and has not
completed: the words are one where their places in memory are (08 R180). -/
def nodeAt (s : State) (w : Who) (a : Nat) (phase : LaunchPhase) : Option Nat :=
  (List.range s.launches.length).find? fun n =>
    let l := s.launch n
    l.part == w.part && l.phase == phase && l.f 640 64 != 0 && (wordAt s w.part w.root a).isSome &&
      wordAt s l.part l.ctxRoot (l.f 640 64) == wordAt s w.part w.root a

/-- A predecessor's completion at one node word (R357). -/
def notifyNode (w : Who) (root st a : Nat) (s : State) : State :=
  match partAtomic w root a 4 (fun x => (x + (if st = 0 then 0xFFFFFFFF else 0x1FFFF)) % 2 ^ 32) s with
  | none => s
  | some (s, old) =>
    let new := (old + (if st = 0 then 0xFFFFFFFF else 0x1FFFF)) % 2 ^ 32
    match nodeAt s w a .node, nodeAt s w a .ready with
    | none, none => s
    | none, some n => if fld old 0 16 = 0 then s.modLaunch n fun l => { l with phase := .ending 5 } else s
    | some n, _ =>
      if fld old 0 16 = 0 then s.modLaunch n fun l => { l with phase := .ending 5 }
      else if bitOf new 16 && fld new 0 16 == 0 then nodeReady n (fld new 17 15) s
      else s

/-- The successors of a launch are told its status. -/
def notifySuccessors (n st : Nat) (s : State) : State :=
  let l := s.launch n
  let w := whoLaunch l
  (List.range (l.f 23 9)).foldl (fun s i =>
    match partGet w (l.f 704 64 + 8 * i) 8 s with
    | (s, some a) => notifyNode w (rootOf l.lineage) st a s
    | (s, none) => s) s

/-- A result-port entry (11 R243): tag, status 0 success, 1 error, 2 cancelled. -/
def portEntry (tag : BitVec 16) (st : Nat) : DWord :=
  BitVec.ofNat 64 (pack [(32, tag.toNat), (8, if st = 0 then 0 else if st = 9 then 2 else 1)])
/-- A port's buffer has room for an entry. -/
def portRoom (tm : Team) (port : Nat) : Bool := decide ((tm.ports.getD port []).length < 64)
/-- An entry enters a port's buffer. -/
def deliverPort (t port : Nat) (e : DWord) (s : State) : State :=
  (arrival t s).modTeam t fun tm => { tm with ports := tm.ports.modify port fun es => es ++ [e] }

/-- The status of a done launch. -/
def doneStatus (l : Launch) : Option Byte :=
  match l.phase with
  | .done st => some st
  | _ => none

/-- A child's port-2 entry is delivered, where there is room. -/
def deliverChild (n : Nat) (s : State) : State :=
  let l := s.launch n
  match l.port, doneStatus l with
  | some (t, tag), some st =>
    if portRoom (s.team t) 2 then
      (deliverPort t 2 (portEntry tag st.toNat) s).modLaunch n fun l => { l with port := none }
    else s
  | _, _ => s

/-- A grid has completed and its record stands, or is lost, or was not asked for: its successors, its parent's child
entry, its port entry, the waits of its parent (R357, R358, R366, R367). -/
def finishLaunch (n : Nat) (s : State) : State :=
  match doneStatus (s.launch n) with
  | none => s
  | some st =>
    let s := notifySuccessors n st.toNat s
    let s := closeTrace n s
    let ts := (List.range s.teams.length).filter fun t => (s.team t).children.any fun c => c.launch == n
    let s := ts.foldl (fun s t => s.modTeam t fun tm =>
      { tm with children := tm.children.map fun c => if c.launch == n then { c with status := some st } else c }) s
    let s := deliverChild n s
    ts.foldl (fun s t => settleTeam t (twaitDone t) s) s

/-- A completion record (Table 17.5). -/
def completionSlot (id st kind touched nextra fcode fcount fteam lineage : Nat) : BitVec 256 :=
  BitVec.ofNat 256 (pack [(64, 0), (32, id), (8, st), (2, kind), (6, 0), (4, touched), (12, nextra), (8, fcode),
    (24, min fcount (2 ^ 24 - 1)), (32, fteam), (64, lineage)])

/-- The status of a grid that ends: the lowest nonzero one that applies (Table 17.6). -/
def gridStatus (l : Launch) : Byte :=
  if l.fcount ≠ 0 then 1
  else if l.dieLost then 2
  else match l.phase with
    | .ending st => st
    | _ => 0

/-- The union of the TOUCHED_DIES of a launch's teams (18 R385). -/
def touchedOf (s : State) (n : Nat) : BitVec 4 := (teamsOf s n).foldl (fun a t => a ||| (s.team t).touched) 0

/-- Every team that started has retired; a launch that is to run has started them all. -/
def gridOver (s : State) (n : Nat) : Bool :=
  let l := s.launch n
  (teamsOf s n).all (fun t => (s.team t).phase == .retired) && (match l.phase with
    | .ready => decide (l.teamCount ≤ l.next)
    | .ending _ => true
    | _ => false)

/-! Records and rings (13 R274). -/

/-- What writing a record comes to. -/
inductive RingOut where
  /-- It stands under a number, its first slot at an address. -/
  | done (index : Nat) (s : State) (slot : Nat)
  | full
  | lost (a : Nat)

/-- Bytes of a ring, at a virtual or a physical address; an error: the failing address. -/
def ringRead (w : Who) (phys : Bool) (a n : Nat) (s : State) : Except Nat (State × Nat) :=
  if phys then
    let s := seeMem .part w.part a n s
    .ok (s, physRead { s with mem := goodMem s } w.part a n)
  else match partGet w a n s with
    | (s, some x) => .ok (s, x)
    | (s, none) => .error (failAt s w false a n)
def ringWrite (w : Who) (phys : Bool) (a n x : Nat) (s : State) : Except Nat State :=
  if phys then .ok (physWrite w.part a n x (coverMem .part w.part a n s))
  else match partWrite w 0 a n x s with
    | some s => .ok s
    | none => .error (failAt s w true a n)

/-- Slots written from position i on. -/
def putSlots (w : Who) (phys : Bool) (base logn : Nat) : Nat → List (BitVec 256) → State → Except Nat State
  | _, [], s => .ok s
  | i, x :: xs, s =>
    match ringWrite w phys (base + 32 * (i % 2 ^ logn)) 32 x.toNat s with
    | .ok s => putSlots w phys base logn (i + 1) xs s
    | .error a => .error a

/-- A record is written with TIME, PIDX advances, interrupts are raised (R274). -/
def writeRecord (r : Record) (s : State) : RingOut :=
  let w : Who := { part := r.part, world := r.world, root := r.ctxRoot, sup := match r.launch with
    | some n => (s.launch n).sys
    | none => true }
  let a := r.ring.toNat
  match ringRead w r.phys a 64 s with
  | .error x => .lost x
  | .ok (s, d) =>
    let logn := fld d 64 5
    let pidx := fld d 128 64
    let cidx := fld d 192 64
    let k := r.slots.length
    if 2 ^ logn < (pidx + 2 ^ 64 - cidx) % 2 ^ 64 + k then .full
    else
      let slots := if r.phys then r.slots
        else match r.slots with
          | x :: xs => BitVec.ofNat 256 (setFld x.toNat 0 64 (now s)) :: xs
          | [] => []
      match putSlots w r.phys (fld d 0 64) logn pidx slots s with
      | .error x => .lost x
      | .ok s =>
        match ringWrite w r.phys (a + 16) 8 ((pidx + k) % 2 ^ 64) s with
        | .error x => .lost x
        | .ok s =>
          let unread := (pidx + k + 2 ^ 64 - cidx) % 2 ^ 64
          let coaln := fld d 256 16
          let s := if coaln ≠ 0 && coaln ≤ unread then
              { s with interrupts := s.interrupts ++ [(BitVec.ofNat 16 (fld d 304 16), r.ring)] } else s
          .done pidx (if fld d 272 32 ≠ 0 then
              { s with unread := s.unread ++
                  [{ part := r.part, ring := r.ring, phys := r.phys, world := r.world, index := pidx, since := now s,
                     ctxRoot := r.ctxRoot }] } else s)
            (fld d 0 64 + 32 * (pidx % 2 ^ logn))

/-- What a record's completion, and its SIGNAL's, let happen: the command's completion has been signalled. -/
def signalled (r : Record) (s : State) : State :=
  match r.cmd with
  | some c => s.modCmd c fun c => { c with signalled := true }
  | none => s

/-- A packet's SIGNAL is written; none: its access fails (08 R184). -/
def writeSignal (r : Record) (s : State) : Option State :=
  if r.signal == 0 then some s
  else (partAtomic (whoPart r.part r.world true) 0 r.signal.toNat 8 (fun x => (x + 1) % 2 ^ 64) s).map fun x => x.1

/-- What a record's writing, or its loss, lets happen: the grid completes; a packet's SIGNAL is written, or waits with no
slot left to write while its access fails (R273, R274). -/
def recordGone (r : Record) (s : State) : State :=
  let s := match r.launch with
    | some n => finishLaunch n s
    | none => s
  match writeSignal r s with
  | some s => signalled r s
  | none => queueRecord { r with slots := [], launch := none } s

/-- An error-log entry: one slot at a physical ring (fault records take two). -/
def errorEntry (r : Record) : Bool := r.phys && r.slots.length == 1

/-- An error entry that stands in its ring can still be raised for a millisecond (18 R384). -/
def noteRecent (r : Record) (index slot : Nat) (s : State) : State :=
  if errorEntry r then
    let e := r.slots.headD 0
    s.modPart r.part fun pt =>
      { pt with recent := pt.recent.filter (fun x => decide (now s ≤ fld x.2.2.toNat 0 64 + 1000000)) ++ [(index, slot, e)] }
  else s

/-- A ring's descriptor as the record's context translates it. -/
def ringAt (s : State) (r : Record) : Option Nat :=
  if r.phys then some r.ring.toNat else (pageIn s r.part r.ctxRoot r.ring.toNat).map fun pg => pg.pa
/-- Two records go to one ring: their descriptors are one (08 R180: contexts may name it by other addresses). -/
def sameRing (s : State) (q r : Record) : Bool :=
  (q.part == r.part && q.phys == r.phys && q.ctxRoot == r.ctxRoot && q.ring == r.ring) ||
    ((ringAt s q).isSome && ringAt s q == ringAt s r)

/-- The k-th waiting record is tried: it is written, or it waits for a slot, or for the service of a fault; a fault that
cannot be serviced (a free bit) loses it (R274). An error entry that finds its ring full is counted (18 R384). A record
without a slot waits for its SIGNAL alone. -/
def tryRecord (k : Nat) (s : State) : State :=
  match s.records[k]? with
  | none => s
  | some r =>
    let gone : State := { s with records := s.records.eraseIdx k }
    if r.slots.isEmpty then
      match writeSignal r gone with
      | some s => signalled r s
      | none => if Config.freeBit s.tick (2 ^ 62 + k) then signalled r gone else s
    else if (s.records.take k).any fun q => sameRing s q r && !q.slots.isEmpty then s
    else match writeRecord r s with
      | .done i s slot => recordGone r (noteRecent r i slot { s with records := s.records.eraseIdx k })
      | .full =>
        if errorEntry r then gone.modPart r.part fun p =>
          { p with lostErrs := p.lostErrs + 1, lostAt := if p.lostErrs = 0 then fld (r.slots.headD 0).toNat 0 64 else p.lostAt }
        else s
      | .lost a =>
        if Config.freeBit s.tick (2 ^ 62 + k) then
          let id := match r.launch with
            | some n => (s.launch n).lid.toNat
            | none => fld (r.slots.headD 0).toNat 64 32
          recordGone r (logError r.part 8 0 0 0 a id gone)
        else s

/-- A record goes to its ring, at once where it can; RING = 0: none is written. -/
def putRecord (r : Record) (s : State) : State :=
  if r.ring == 0 then recordGone r s
  else
    let s := queueRecord r s
    tryRecord (s.records.length - 1) s

/-- A grid completes (R358). -/
def completeGrid (n : Nat) (s : State) : State :=
  let l := s.launch n
  let st := gridStatus l
  let slot := completionSlot l.lid.toNat st.toNat 0 (touchedOf s n).toNat 0 l.fcode.toNat l.fcount l.fteam.toNat
    l.lineage.toNat
  let s := release (fun q => (s.team q.team).launch == n) .sys (s.modLaunch n fun l => { l with phase := .done st })
  putRecord { part := l.part, ring := BitVec.ofNat 64 (l.f 448 64), phys := false, slots := [slot], launch := some n,
              world := l.world, ctxRoot := l.ctxRoot } s

/-! The start of a packet (R348 to R351, R357). -/

/-- The LAUNCH_ID of a packet: its own, or the partition's counter (R350). -/
def takeLid (p : Nat) (pkt : BitVec 1024) (s : State) : State × Word :=
  let own : Word := BitVec.ofNat 32 (fld pkt.toNat 32 32)
  if own ≠ 0 then (s, own)
  else
    let n := (s.part p).nextLid
    (s.modPart p fun q => { q with nextLid := if n + 1 = 0 then 1 else n + 1 }, n)

/-- LINEAGE (R351), with a serial number never given before. -/
def takeLineage (p root depth : Nat) (s : State) : State × DWord :=
  let n := (s.part p).nextSerial
  (s.modPart p fun q => { q with nextSerial := n + 1 },
   BitVec.ofNat 64 (pack [(16, root), (4, depth), (44, n)]))

/-- An admitted launch: refused, a node, or ready (R353, R357, R364). `bad`: it broke a rule already. -/
def startLaunch (n : Nat) (bad : Bool) (s : State) : State :=
  let l := s.launch n
  let refuse (s : State) : State := s.modLaunch n fun l => { l with phase := .ending 5 }
  let x := l.pkt.toNat
  if bad || packetRefused s l then refuse s
  else
    let opened : Option State :=
      if bitOf x 16 && l.parent.isNone then some (openTrace n (s.modLaunch n fun l => { l with trace := some n }))
      else if bitOf x 17 && l.parent.isNone then openReplay n (s.modLaunch n fun l => { l with trace := some n })
      else match replayOf s n with
        | some (_, tr) => if traceExpects tr l then some s else none
        | none => some s
    match opened with
    | none => refuse s
    | some s =>
      let nodew := l.f 640 64
      if nodew = 0 then nodeReady n 0 s
      else match partAtomic (whoLaunch l) (rootOf l.lineage) nodew 4 (fun v => (v + 0x10000) % 2 ^ 32) s with
        | none => refuse s
        | some (s, old) =>
          if bitOf old 16 then refuse s
          else if fld old 0 16 = 0 then nodeReady n (fld (old + 0x10000) 17 15) s
          else s.modLaunch n fun l => { l with phase := .node }

/-- Live launches, and waiting nodes, of a partition (R351, R357). -/
def liveCount (s : State) (p : Nat) : Nat :=
  ((List.range s.launches.length).filter fun n => launchLive s n && (s.launch n).part == p).length
def nodeCount (s : State) (p : Nat) : Nat := (s.launches.filter fun l => l.part == p && l.phase == .node).length
def tablesFull (s : State) (p : Nat) (pkt : BitVec 1024) : Bool :=
  decide (262144 ≤ liveCount s p) || (fld pkt.toNat 640 64 != 0 && decide (65536 ≤ nodeCount s p))

/-! The start of a team (04 R85, R87; 17 R348, R353). -/

/-- MODE of a new group (04 R104): UVT and FTZ of the packet. -/
def startMode (l : Launch) : Word := BitVec.ofNat 32 (fld l.pkt.toNat 18 2)

/-- RNG.S state at start (07 R169), from RNG_KEY and the global thread ids (04 R86). -/
def startRng (l : Launch) (linear g : Nat) : Store 32 :=
  setLanes [] (-1) fun lane => BitVec.ofNat 32 (rngSeed (l.f 512 32) ((linear * l.groups * 32 + g * 32 + lane) % 2 ^ 32))

/-- A new group. -/
def startGroup (l : Launch) (linear g : Nat) : Group :=
  { mode := startMode l, pcv := setLanes [] (-1) fun _ => l.code, rng := startRng l linear g,
    ctr := { val := BitVec.ofNat 32 (l.f 20 3) } }

/-- SEL_CFG at start (15 R315): H and ROWS of the packet. -/
def startSelCfg (l : Launch) : Word := BitVec.ofNat 32 (pack [(7, l.f 343 7), (1, 0), (8, l.f 335 8)])

/-- A new team of launch n on a core. -/
def newTeam (s : State) (n linear : Nat) (k : Core) (order : Nat) : Team :=
  let l := s.launch n
  let stream := l.stream ≠ 0
  { launch := n, linear := linear, die := k.1, core := k.2, logical := logicalOf (s.part l.part) k,
    groups := (List.range l.groups).map (startGroup l linear),
    bars := List.replicate l.bars {}, queues := List.replicate l.nqueues {},
    tiles := List.replicate l.accs { state := if stream then .seq else .team },
    rows := List.replicate l.selRows { h := BitVec.ofNat 7 (l.f 343 7) },
    seq := { named := stream, base := l.stream, pc := l.stream, stat := if stream then 1 else 4 },
    trapBase := BitVec.ofNat 64 (l.f 576 64), selCfg := startSelCfg l, rngKey := BitVec.ofNat 32 (l.f 512 32),
    ctrBase := { val := BitVec.ofNat 32 (l.f 20 3) }, touched := BitVec.ofNat 4 (2 ^ k.1), order := order }

/-- A team starts: it takes its place, and a recording its entry (R363). -/
def startTeam (n linear : Nat) (k : Core) (s : State) : State :=
  let l := s.launch n
  let tm := newTeam s n linear k (freshOrder s)
  let s := { s with teams := s.teams ++ [tm] }.modLaunch n fun l => { l with next := linear + 1 }
  match traceIdx s n with
  | none => s
  | some i =>
    let c := match s.traces[i]? with
      | some tr => (kGet tr.starts tm.logical).getD 0
      | none => 0
    let s := appendEntry i (traceEntry linear tm.logical 0 c l.lid.toNat) s
    let s := s.modTrace i fun tr => { tr with starts := kSet tr.starts tm.logical (c + 1) }
    useEntry (s.teams.length - 1) 0 (fun e => entCore e == tm.logical) s

/-! The ends (04 R98). -/

/-- The command that a token names has completed. -/
def tokenDone (s : State) : Token → Bool
  | .empty => true
  | .names c => match s.cmd? c with
    | some x => x.status.isSome && x.signalled
    | none => true

/-- Groups whose lanes have all exited, with their operations drained, end; a sequencer trap held for group 0 goes to
the supervisor (R101). -/
def endGroups (t : Nat) (s : State) : State :=
  let spent (g : Group) : Bool := g.exited == -1 && g.tok.all fun e => tokenDone s e.2
  let s := s.modTeam t fun tm => { tm with groups := tm.groups.map fun g => if spent g then { g with ended := true } else g }
  match (s.team t).heldTrap with
  | some tr =>
    if (s.grp t 0).over then
      toSupervisor t 0 false { tr with pc := 0, lanes := 0 } (s.modTeam t fun tm => { tm with heldTrap := none })
    else s
  | none => s

/-- A team has ended: its groups and its sequencer (R98). -/
def teamOver (tm : Team) : Bool := tm.groups.all (fun g => g.ended) && bitOf tm.seq.stat.toNat statEnded
/-- Its children have all retired. -/
def childrenOver (tm : Team) : Bool := tm.children.all fun c => c.status.isSome

/-- The commands of a team that have not ended end with a status (R369, R388). -/
def endCommands (t : Nat) (st : Byte) (s : State) : State :=
  { s with cmds := s.cmds.map fun c =>
      if c.team == some t && c.status.isNone then { c with status := some st, signalled := true } else c }

/-- The save area of a team is free again (18 R380). -/
def freeSave (t : Nat) (s : State) : State :=
  match (s.team t).saveArea with
  | none => s
  | some a =>
    (s.modPart (s.launchOf t).part fun p => { p with saveUsed := p.saveUsed.filter fun u => u.1 != a }).modTeam t
      fun tm => { tm with saveArea := none }

/-- A team ends without a save (R369, R375, R388): its stores are performed, its commands end, its resources are free. -/
def killTeam (t : Nat) (st : Byte) (s : State) : State :=
  if (s.team t).phase == .retired || (s.team t).phase == .retiredPending then s
  else
    let s := performStores (fun q => q.team == t) s
    let s := endCommands t st s
    let s := freeSave t s
    let s := { s with silent := without s.silent (fun e => e.team == t), faults := without s.faults (fun f => f.team == t) }
    s.modTeam t fun tm =>
      { tm with
        phase := .retiredPending, heldTrap := none, preemptAt := none,
        groups := tm.groups.map fun g =>
          { g with ended := true, waits := [], stopped := none, taken := none, drain := none, lost := 0 },
        seq := { tm.seq with stat := setStatBit statRun false (setStatBit statEnded true tm.seq.stat), attempt := none,
                             running := [], stage := none, wait := none, rendezvous := none, vout := none, vmrg := none } }

/-! CANCEL (R369). -/

/-- The indices of the entries of a table that memory lists. -/
def listedEntries (m : Memory) (tbl n : Nat) : List Nat :=
  ((m.filter fun e => decide (tbl ≤ e.1) && decide (e.1 < tbl + 8 * 2 ^ n)).map fun e => (e.1 - tbl) / 8).eraseDups

/-- The headers of the cache page lists that a partition's tables bind, by a walk of the entries that memory lists. -/
def cplHeaders (m : Memory) : List (Nat × Nat) → Bool → Nat → List Nat
  | [], _, _ => []
  | (_, n) :: rest, first, tbl =>
    (listedEntries m tbl n).flatMap fun i =>
      let e := m.readLe (tbl + 8 * i) 8
      if badEntry rest.isEmpty e then []
      else if bitOf e 1 then (if !first && bitOf e 5 then [entryAddr e] else [])
      else cplHeaders m rest false (entryAddr e)

/-- A frame loses a reference; at 0 it returns to the pool of the ROOT of its list's LINEAGE (R352). -/
def dropFrame (p root fr : Nat) (s : State) : State :=
  let n := (s.frames.get fr).toNat
  let s := { s with frames := s.frames.set fr (BitVec.ofNat 16 (n - 1)) }
  if n = 1 then setPool p root (poolOf s p root ++ [fr]) s else s

/-- One list is emptied. -/
def clearCpl (p hdr : Nat) (s : State) : State :=
  let s := seeMem .part p hdr (64 + 8 * s.mem.readLe (hdr + 4) 4) s
  let m := goodMem s
  let root := m.readLe (hdr + 8) 2
  let s := (List.range (m.readLe (hdr + 4) 4)).foldl (fun s n =>
    let a := hdr + 64 + 8 * n
    let e := m.readLe a 8
    if bitOf e 0 then
      let s := if n < m.readLe hdr 4 then dropFrame p root (fld e 16 36) s else s
      { s with mem := s.mem.writeLe a 8 (setFld e 0 1 0) }
    else s) s
  { s with mem := (s.mem.writeLe hdr 4 0).writeLe (hdr + 16) 4 (m.readLe (hdr + 16) 4 + 1) }

/-- The translation roots of a partition and of the contexts in it. -/
def partRoots (p : Nat) (s : State) : List Nat :=
  ((s.part p).root :: s.launches.filterMap fun l => if l.part == p then l.ctxRoot else none).eraseDups
/-- The lists of some lineages are emptied: those that the tables bind, and those that FORK has made. -/
def clearCpls (p : Nat) (lins : List DWord) (s : State) : State :=
  (((partRoots p s).flatMap (cplHeaders s.mem levels true) ++ (s.part p).lists).eraseDups).foldl (fun s h =>
    if lins.contains (BitVec.ofNat 64 (s.mem.readLe (h + 8) 8)) then clearCpl p h s else s) s

/-- A grid completes with status 9 where no other status but 0 stands; one whose record still waits for its ring is live yet
(17 R351), and the record carries the status. -/
def cancelGrid (n : Nat) (s : State) : State :=
  let s := s.modLaunch n fun l => { l with cancelled := true, phase := match l.phase with
    | .ending st => .ending st
    | .done st => .done (if st = 0 then 9 else st)
    | _ => .ending 9 }
  match doneStatus (s.launch n) with
  | some st => { s with records := s.records.map fun r =>
      if r.launch == some n then { r with slots := r.slots.map fun x => BitVec.ofNat 256 (setFld x.toNat 96 8 st.toNat) } else r }
  | none => s
/-- The subtree of launch r ends: every team stops, pools and lists are reclaimed, each grid is to complete with
status 9. -/
def cancelTree (r : Nat) (s : State) : State :=
  let ns := subtree s r
  let p := (s.launch r).part
  let s := ns.foldl (fun s n => (teamsOf s n).foldl (fun s t => killTeam t 9 s) s) s
  let s := ns.foldl (fun s n => clearMaps (s.launch n) s) s
  let s := clearCpls p (ns.map fun n => (s.launch n).lineage) s
  ns.foldl (fun s n => cancelGrid n s) s

end Sys2Proof.Machine
end

