-- ==== Sys2Proof/Machine/Control.lean ====
section
/-! DEFINITION. The control class (04 R109 to R122) and the steps YIELD_UNPARK and UNASSIGNED_OPCODE. -/

set_option linter.unusedVariables false

namespace Sys2Proof.Machine

/-- Every earlier MMS, VPROJ, ACLR and VOUT of the stream has committed (14 R292, 15 R332); a VPROJ .last has only when
its stage has finished, a pending one too (15 R330, log 36). -/
def seqCommitted (q : Seq) : Bool := q.running.isEmpty && q.stage.isNone

/-- WAITKIND of a wait for those commits: the selection unit, where a stage runs (14 Table 14.1). -/
def commitKind (q : Seq) : Nat := if q.stage.isSome then 7 else 0

/-! NOP (R110). -/

def execNop (h : Hdr) (ext : NopExt) (s : State) : Res :=
  dualForm h (Instr.size (.nop h ext)) [] (fun _ s => .adv s) true (fun _ _ _ s => .adv s) s

/-! Branches (R111 to R115). -/

/-- A displacement added to an address, modulo 2^64. -/
def jumpTo (pc : DWord) (off : Word) : DWord := pc + off.signExtend 64

def execBra (h : Hdr) (off : Word) (s : State) : Res :=
  simt h (Instr.size (.bra h off)) [] noPriv (fun c s => .go s fun _ => jumpTo c.pc off) s

/-- BRU: the lowest lane of I decides for the home group (R112). -/
def bruAct (off : Word) (c : Ctx) (s : State) : Act :=
  let take := c.E.getLsbD (lowest c.I)
  let violated := if take then c.E != c.I else c.E != 0
  let s' := if violated then orFlags c fUV s else s
  if violated && (s.grp c.t c.g).mode.getLsbD 0 then c.trap s' 0x15 c.I
  else .keep (setPcs c c.I (fun _ => if take then jumpTo c.pc off else c.next) s')

def execBru (h : Hdr) (off : Word) (s : State) : Res :=
  simt h (Instr.size (.bru h off)) [] noPriv (bruAct off) s

/-- The target of a lane in a register pair. -/
def pairTarget (g : Group) (a : Reg) (l : Nat) : DWord := BitVec.ofNat 64 (regGet g a l 2)

/-- Each lane goes to its own target. -/
def jumpForm (h : Hdr) (size : Nat) (a : Reg) (s : State) : Res :=
  simt h size [.rd a 2] noPriv (fun c s => .go s (pairTarget (s.grp c.t c.g) a)) s

def execJmpi (h : Hdr) (a : Reg) (s : State) : Res := jumpForm h (Instr.size (.jmpi h a)) a s
def execRet (h : Hdr) (a : Reg) (s : State) : Res := jumpForm h (Instr.size (.ret h a)) a s

/-- The successor goes into the vector pair d; the targets are read before. -/
def callForm (h : Hdr) (size : Nat) (us : List Use) (d : BitVec 8) (tgt : State → Ctx → Nat → DWord) (s : State) : Res :=
  simt h size (.wr (.v d) 2 :: us) noPriv (fun c s =>
    .go (writeReg c c.E (.v d) 2 (fun _ => c.next.toNat) s) (tgt s c)) s

def execCall (h : Hdr) (d : BitVec 8) (off : Word) (s : State) : Res :=
  callForm h (Instr.size (.call h d off)) [] d (fun _ c _ => jumpTo c.pc off) s
def execCallI (h : Hdr) (d : BitVec 8) (a : Reg) (s : State) : Res :=
  callForm h (Instr.size (.callI h d a)) [.rd a 2] d (fun s c l => pairTarget (s.grp c.t c.g) a l) s

/-! EXIT (R116, R98). -/

/-- The lowest tile that a group holds. -/
def heldTile (tm : Team) (g : Nat) : Option Nat :=
  tm.tiles.findIdx? fun x => x.state == .group g

/-- The lanes of E exit; a group that would end with a tile in its hands traps TOKEN. -/
def exitAct (c : Ctx) (s : State) : Act :=
  let tm := s.team c.t
  let out := (tm.group c.g).exited ||| c.E
  match (if out == -1 then heldTile tm c.g else none) with
  | some k => c.trap s 0x0C c.E (BitVec.ofNat 32 k) 2
  | none => .adv (endGroups c.t (s.modGrp c.t c.g fun g => { g with exited := out }))

def execExit (h : Hdr) (s : State) : Res := simt h (Instr.size (.exit h)) [] noPriv exitAct s

/-! YIELD (R117). -/

/-- The lanes of E park at the successor until the group's other lanes have moved; at once where there are none. -/
def yieldAct (c : Ctx) (s : State) : Act :=
  let g := s.grp c.t c.g
  let w := g.active &&& ~~~c.E
  if w = 0 then .adv s
  else .keep ((setPcs c c.I (fun _ => c.next) s).modGrp c.t c.g fun g =>
    { g with waits := g.waits ++ [{ lanes := c.E, pc := c.pc, next := c.next, order := s.tick, kind := .yield w }] })

def execYield (h : Hdr) (s : State) : Res := simt h (Instr.size (.yield h)) [] noPriv yieldAct s

/-- YIELD_UNPARK: every lane of W has moved. -/
def execYieldUnpark (t g k : Nat) (s : State) : Res :=
  match (s.grp t g).waits[k]? with
  | some w =>
    (match w.kind with
      | .yield ls => if ls = 0 && w.done.isNone then .next (completeWait t g k none s) else .next s
      | _ => .next s)
  | none => .next s

/-! TRAP (R118), RFT (R119). -/

def execTrap (h : Hdr) (info : Option Word) (s : State) : Res :=
  dualForm h (Instr.size (.trap h info)) []
    (fun c s => .trap s { code := 0x00, lanes := c.E, pc := c.next, i0 := info.getD 0 } 0) true
    (fun t _ nx s =>
      if seqCommitted (s.team t).seq then .trap s { code := 0x00, i0 := info.getD 0 } nx
      else .stall s (commitKind (s.team t).seq)) s

/-- RFT needs handler mode (02 R52). -/
def needHandler (s : State) (c : Ctx) : Bool := !(s.grp c.t c.g).handler

def execRft (h : Hdr) (s : State) : Res :=
  simt h (Instr.size (.rft h)) [] needHandler (fun c s => .keep (returnFromTrap c.t c.g s)) s

/-! SYSRD (R120). -/

/-- The groups that may join group g in a formed issue: they stand at its address, their lanes are disjoint, and none is
serial or in its handler (R95). -/
def formGroups (s : State) (t g : Nat) : List Nat :=
  let tm := s.team t
  let a := tm.group g
  let free (x : Group) : Bool := !x.serial && !x.handler
  if !free a then []
  else ((List.range tm.groups.length).foldl (fun (r : List Nat × Lanes) k =>
    let b := tm.group k
    if k != g && canIssue s t k && free b && b.issuePc == a.issuePc && (b.issueSet &&& r.2) == 0 then
      (r.1 ++ [k], r.2 ||| b.issueSet)
    else r) ([], a.issueSet)).1
/-- The issue of group g is a formed one: it joins one that has begun, or one begins (a free bit). -/
def isFormed (s : State) (t g : Nat) : Bool :=
  (s.grp t g).formed || (!(formGroups s t g).isEmpty && Config.freeBit s.tick (2 ^ 59))
/-- A formed issue that begins takes its other groups along: they issue next, and read FORMED as 1 too (R96). -/
def takeAlong (t g : Nat) (s : State) : State :=
  if (s.grp t g).formed || !(isFormed s t g) then s
  else
    let ks := formGroups s t g
    ks.foldl (fun s k => s.modGrp t k fun x => { x with formed := true })
      { s with agenda := ks.map (fun k => Move.issue (.group t k)) ++ s.agenda }

/-- DIE_COUNT (R107). -/
def dieCount (p : Part) : Nat := pack [(3, (partDies p).length), (1, 0), (4, p.dies.toNat)]

/-- The value of a system register as a lane sees it (Table 4.2). -/
def sysVal (s : State) (t g l : Nat) (pc : DWord) (id : BitVec 12) : Nat :=
  let tm := s.team t
  let la := s.launchOf t
  let p := s.part la.part
  let gr := tm.group g
  let n := id.toNat
  let ofDie (d v : Nat) : Nat := if p.dies.getLsbD d then v else 0
  if n = 0x000 then l
  else if n = 0x001 then g
  else if n = 0x002 then tm.x la
  else if n = 0x003 then tm.y la
  else if n = 0x004 then tm.z la
  else if n = 0x005 then tm.linear
  else if n = 0x006 then la.gx
  else if n = 0x007 then la.gy
  else if n = 0x008 then la.gz
  else if n = 0x009 then la.groups
  else if n = 0x00A then la.lid.toNat
  else if n = 0x00B then la.lineage.toNat
  else if n = 0x00C then la.depth
  else if n = 0x010 then tm.core + 256 * tm.die
  else if n = 0x011 then tm.logical
  else if n = 0x012 then b2n (isFormed s t g)
  else if 0x020 ≤ n && n ≤ 0x023 then ofDie (n - 0x020) (harvest (n - 0x020)).toNat
  else if n = 0x024 then dieCount p
  else if 0x028 ≤ n && n ≤ 0x02B then ofDie (n - 0x028) (s.die (n - 0x028)).headroom.toNat
  else if n = 0x030 then (s.cycle + Config.cycleSkew tm.die tm.core % 5) % 2 ^ 64
  else if n = 0x031 then now s % 2 ^ 64
  else if n = 0x040 then gr.gstat.toNat
  else if n = 0x041 then gr.mode.toNat
  else if n = 0x050 then tm.trapBase.toNat
  else if n = 0x051 then gr.cause.toNat
  else if n = 0x052 then gr.tpc.toNat
  else if n = 0x053 then gr.tlanes.toNat
  else if n = 0x054 then gr.info0.toNat
  else if n = 0x055 then gr.info1.toNat
  else if n = 0x056 then gr.info2.toNat
  else if n = 0x057 then gr.info3.toNat
  else if n = 0x061 then tm.seq.stat.toNat
  else if n = 0x062 then tm.selCfg.toNat
  else if n = 0x070 then tm.rngKey.toNat
  else if n = 0x071 then (gr.draw.get l).toNat
  else if n = 0x072 then gr.ctr.val.toNat
  else if n = 0x080 then tm.touched.toNat
  else if n = 0x081 then b2n la.world
  else if n = 0x100 then pc.toNat
  else if n = 0x101 then (if gr.handler then (gr.spcv.get l).toNat else 0)
  else 0

/-- The registers a system register fills. -/
def sysRegs (id : BitVec 12) : Nat := match sysReg id with
  | some (k, _) => k
  | none => 1

def execSysrd (h : Hdr) (d : Reg) (id : BitVec 12) (s : State) : Res :=
  simt h (Instr.size (.sysrd h d id)) [.wr d (sysRegs id)] noPriv (fun c s =>
    .adv (writeReg c c.E d (sysRegs id) (fun l => sysVal s c.t c.g l c.pc id)
      (if id == 0x012 then takeAlong c.t c.g s else s))) s

/-! SYSWR (R121). -/

/-- MODE after a write: UVT without supervisor rights; TEST only in a system-flagged launch (R104). -/
def modeAfter (old v : Word) (sup sys : Bool) : Word :=
  let keep : Word := if !sup then 6 else if sys then 0 else 4
  (old &&& keep) ||| (v &&& ~~~keep &&& 7)

/-- The write of MODE lacks a right (R104). -/
def modeDenied (old v : Word) (sup sys : Bool) : Bool :=
  if !sup then (v &&& 6) != (old &&& 6) else !sys && v.getLsbD 2

/-- The source that a write of one register per group takes: the lowest lane of E, or the uniform source. -/
def syswrVal (s : State) (c : Ctx) (a : Reg) (k : Nat) : Nat := regGet (s.grp c.t c.g) a (lowest c.E) k

def syswrPriv (id : BitVec 12) (a : Reg) (s : State) (c : Ctx) : Bool :=
  let sup := supervisor s c.t c.g
  if id == 0x071 then false
  else if id == 0x041 then
    c.E != 0 && modeDenied (s.grp c.t c.g).mode (BitVec.ofNat 32 (syswrVal s c a 1)) sup (s.launchOf c.t).sys
  else !sup

/-- GSTAT after a write: flags written as 1 clear, SERIAL_EVENTS is set (R121). -/
def gstatAfter (old v : Word) : Word := (old &&& ~~~v &&& 0x1FF) ||| (v &&& 0xFFFF0000)

/-- A write of CTR_BASE by a group: the group sees it at once, another one after a synchronisation (16 R334). -/
def setCtrBase (t g : Nat) (w : Word) (s : State) : State :=
  let v : CtrView := ⟨(s.team t).ctrBase.ver + 1, w &&& 7⟩
  (s.modTeam t fun tm => { tm with ctrBase := v }).modGrp t g fun gr => { gr with ctr := v }

/-- A system register written once per group; a read-only one ignores it (R102). -/
def sysSet (c : Ctx) (id : BitVec 12) (v : Nat) (s : State) : State :=
  let w : Word := BitVec.ofNat 32 v
  let x : DWord := BitVec.ofNat 64 v
  let g (f : Group → Group) : State := s.modGrp c.t c.g f
  let tm (f : Team → Team) : State := s.modTeam c.t f
  let n := id.toNat
  if n = 0x040 then g fun gr => { gr with gstat := gstatAfter gr.gstat w }
  else if n = 0x041 then g fun gr => { gr with mode := modeAfter gr.mode w (supervisor s c.t c.g) (s.launchOf c.t).sys }
  else if n = 0x050 then tm fun t => { t with trapBase := x }
  else if n = 0x051 then g fun gr => { gr with cause := w &&& 0x3FF }
  else if n = 0x052 then g fun gr => { gr with tpc := x }
  else if n = 0x053 then g fun gr => { gr with tlanes := w }
  else if n = 0x054 then g fun gr => { gr with info0 := w }
  else if n = 0x055 then g fun gr => { gr with info1 := w }
  else if n = 0x056 then g fun gr => { gr with info2 := w }
  else if n = 0x057 then g fun gr => { gr with info3 := w }
  else if n = 0x062 then tm fun t => { t with selCfg := w &&& 0xFF7F }
  else if n = 0x070 then tm fun t => { t with rngKey := w }
  else if n = 0x072 then setCtrBase c.t c.g w s
  else s

/-- A system register written by every lane of E. -/
def sysSetLanes (c : Ctx) (id : BitVec 12) (f : Nat → Nat) (s : State) : State :=
  if id == 0x071 then s.modGrp c.t c.g fun g => { g with draw := setLanes g.draw c.E fun l => BitVec.ofNat 32 (f l) }
  else if id == 0x101 then s.modGrp c.t c.g fun g => { g with spcv := setLanes g.spcv c.E fun l => BitVec.ofNat 64 (f l) }
  else s

def execSyswr (h : Hdr) (id : BitVec 12) (a : Reg) (s : State) : Res :=
  simt h (Instr.size (.syswr h id a)) [.rd a (sysRegs id)] (syswrPriv id a) (fun c s =>
    match sysReg id with
    | some (k, true) => .adv (sysSetLanes c id (fun l => regGet (s.grp c.t c.g) a l k) s)
    | _ => .adv (sysSet c id (syswrVal s c a (sysRegs id)) s)) s

/-- SEQ_CTL.RESUME restarts a stopped sequencer where its trap left it: at the successor of a TRAP, at the instruction
of any other trap (R106, 14 R294). -/
def resumeSeq (t : Nat) (s : State) : State :=
  s.modSeq t fun q =>
    if bitOf q.stat.toNat statStopped then
      { q with stat := setStatBit statRun true (setStatBit statStopped false q.stat), pc := q.resumeAt }
    else q

def execSeqCtlResume (h : Hdr) (a : Reg) (s : State) : Res :=
  simt h (Instr.size (.seqCtlResume h a)) [.rd a 1] noPriv (fun c s =>
    .adv (if bitOf (syswrVal s c a 1) 0 then resumeSeq c.t s else s)) s

/-! PLOP (R122). -/

/-- Bit 4 a + 2 b + c of the table. -/
def plopVal (tbl : Byte) (a b c : Bool) : Bool := tbl.getLsbD (4 * b2n a + 2 * b2n b + b2n c)

def execPlop (h : Hdr) (tbl : Byte) (d a b c : BitVec 3) (s : State) : Res :=
  simt h (Instr.size (.plop h tbl d a b c)) [.pd a.toNat, .pd b.toNat, .pd c.toNat, .wp d.toNat] noPriv (fun x s =>
    let g := s.grp x.t x.g
    let p (i : BitVec 3) (l : Nat) : Bool := (g.pred i.toNat).getLsbD l
    .adv (writePred x x.E d.toNat (fun l => plopVal tbl (p a l) (p b l) (p c l)) s)) s

/-! UNASSIGNED_OPCODE (02 R50, R47, R53): ILL in either stream, whatever the guard. -/

def execUnassignedOpcode (w : DWord) (s : State) : Res :=
  match s.cur with
  | .group t g =>
    if canIssue s t g then .next (encodingTrap (ctxOf s t g ⟨0, false, none⟩ 8) 0x01 s) else .fault .noIssuer
  | .seq t => if canSeq s t then .next (raiseSeqTrap t { code := 0x01 } (s.team t).seq.pc s) else .fault .noIssuer
  | .none => .fault .noIssuer

end Sys2Proof.Machine
end

