-- ==== Sys2Proof/Machine/Supervise.lean ====
section
/-! DEFINITION. The partition supervisor's acts on a stopped group (18 R375, 22 R406): SUPACT, and the three steps. -/

namespace Sys2Proof.Machine

/-- The fault record of a partition under a handle. -/
def faultOf (s : State) (p : Nat) (h : Word) : Option FaultRec :=
  s.faults.find? fun f => f.handle == h && (s.launchOf f.team).part == p

/-- The record's group is stopped no more. -/
def unstop (f : FaultRec) (s : State) : State :=
  { s with faults := without s.faults fun x => x == f }.modGrp f.team f.group fun g =>
    { g with stopped := if g.stopped == some f.handle then none else g.stopped }

/-- OP 0, resume (R375): the listed lanes continue at the record's PC; a record of a sequencer trap restarts the
sequencer (log 20). -/
def supResume (p : Nat) (h : Word) (s : State) : State :=
  match faultOf s p h with
  | none => s
  | some f =>
    let s := unstop f s
    if f.trap.seq then resumeSeq f.team s
    else
      let s := s.modGrp f.team f.group fun g =>
        { g with pcv := setLanes g.pcv (f.trap.lanes &&& ~~~g.exited) fun _ => f.trap.pc }
      releaseDone f.team f.group (s.grp f.team f.group).waits.length s

/-- OP 1, end the team (R375): as under CANCEL, counted under FCODE, FCOUNT, FTEAM. -/
def endFaulted (t : Nat) (code : Byte) (s : State) : State :=
  let s := killTeam t 9 s
  s.modLaunch (s.team t).launch fun l =>
    { l with fcount := l.fcount + 1, fcode := if l.fcount = 0 then code else l.fcode,
             fteam := if l.fcount = 0 then BitVec.ofNat 32 (s.team t).linear else l.fteam }
def supEnd (p : Nat) (h : Word) (s : State) : State :=
  match faultOf s p h with
  | none => s
  | some f => endFaulted f.team f.trap.code (unstop f s)

/-- OP 2, deliver to the launch's handler with the record's values (R406); ignored without a handler or with NEST. -/
def supDeliver (p : Nat) (h : Word) (s : State) : State :=
  match faultOf s p h with
  | none => s
  | some f =>
    let tm := s.team f.team
    if tm.trapBase == 0 || f.trap.nest || (tm.group f.group).ended then s
    else
      let s := unstop f s
      if f.trap.seq then
        if (s.grp f.team 0).handler then s.modTeam f.team fun tm => { tm with heldTrap := some f.trap, heldGiven := true }
        else giveSeqTrap f.team f.trap s
      else s.modGrp f.team f.group fun g => enterHandler tm.trapBase f.trap g.active g

/-- An act on a record; one on a team that is saved waits for its return, and its handle is stale from now on. -/
def supDo (p op : Nat) (h : Word) (s : State) : State :=
  match faultOf s p h with
  | none => s
  | some f =>
    if (s.team f.team).answers.any fun e => e.2 == h then s
    else if op ≠ 1 && (s.team f.team).phase == .saved then
      s.modTeam f.team fun tm => { tm with answers := tm.answers ++ [(op, h)] }
    else match op with
      | 0 => supResume p h s
      | 1 => supEnd p h s
      | 2 => supDeliver p h s
      | _ => s

/-- A write of SUPACT by a context of the partition (Table 22.2). -/
def supAct (p : Nat) (s : State) : State :=
  let x := Store.readLe s.devRegs (p * 2 ^ 33 + 0x2000) 8
  let h : Word := BitVec.ofNat 32 x
  if fld x 32 2 = 3 then s else supDo p (fld x 32 2) h s
/-- The acts that waited for a team's return. -/
def supLate (t : Nat) (s : State) : State :=
  let as_ := (s.team t).answers
  as_.foldl (fun s e => supDo (s.launchOf t).part e.1 e.2 s) (s.modTeam t fun tm => { tm with answers := [] })

/-- A write covers the byte of SUPACT that holds OP: the part acts (log 25). -/
def afterSpans (p : Nat) (rs : List Span) (s : State) : State :=
  if rs.any fun e => isDev e.1 && decide (e.1 ≤ devBase + 0x2004) && decide (devBase + 0x2004 < e.1 + e.2) then supAct p s
  else s
/-- The pieces of a write. -/
def afterDevice (p : Nat) (ps : List Piece) (s : State) : State := afterSpans p (spansOf ps) s

def execSupactResume (p : Nat) (handle : Word) (s : State) : Res := .next (if (s.part p).started then supDo p 0 handle s else s)
def execSupactEndTeam (p : Nat) (handle : Word) (s : State) : Res := .next (if (s.part p).started then supDo p 1 handle s else s)
def execSupactDeliver (p : Nat) (handle : Word) (s : State) : Res := .next (if (s.part p).started then supDo p 2 handle s else s)

end Sys2Proof.Machine
end

