-- ==== Sys2Proof/Machine/Memory.lean ====
section
/-! DEFINITION. The memory class but for NMC (08 R203 to R211): global memory, windows, atomics, fences, PUBLISH, DRAIN,
CCTL, LDC. -/

set_option linter.unusedVariables false

namespace Sys2Proof.Machine

/-- The access is made once per home group: its data register is uniform (R201). -/
def onceReg (d : Reg) : Bool := regUni d

/-! LD, ST (R203). -/

/-- The value of the pieces of a load, of which one may have been read in a step before (R187). -/
def readWith (s : State) (p : Nat) (h : Option Half) (ps : List Piece) : Nat :=
  match h, ps with
  | some h, [(a, n), (b, m)] =>
    if h.addr == (if h.second then b.pa else a.pa) then
      (if h.second then physRead s p a.pa n + 256 ^ n * h.value else h.value + 256 ^ n * physRead s p b.pa m)
    else readPieces s p ps
  | _, _ => readPieces s p ps

/-- The part of lane l's load that was read before the others, by the load at this address. -/
def halfOf (s : State) (c : Ctx) (l : Nat) : Option Half :=
  match (s.grp c.t c.g).half with
  | some (pc, hs) => if pc == c.pc then hs.find? fun h => h.lane == l else none
  | none => none

/-- Lane l's load. -/
def loadLane (c : Ctx) (t : Ty) (o : Order) (once : Bool) (d : Reg) (l : Nat) (ps : List Piece) (s : State) : State :=
  let s := beforeLoad c.t c.g (threadsOf c once l) o ps s
  let x := loadVal t (readWith s (s.launchOf c.t).part (halfOf s c l) ps)
  writeReg c (laneBit l) d (tyRegs t) (fun _ => x) s

/-- One part of lane l's load, read alone: the second part, or the first. -/
def halfLane (c : Ctx) (o : Order) (once second : Bool) (l : Nat) (ps : List Piece) (s : State) : State :=
  let q := (if second then ps.drop 1 else ps).take 1
  let s := beforeLoad c.t c.g (threadsOf c once l) o q s
  let h : Half := { lane := l, addr := (q.map fun e => e.1.pa).headD 0, second := second,
                    value := readPieces s (s.launchOf c.t).part q }
  s.modGrp c.t c.g fun g => { g with half := some (c.pc, (match g.half with
    | some (_, hs) => hs
    | none => []) ++ [h]) }

/-- A load of which some lanes cross a 128-byte line may be made in two steps (a free bit): first one part of those
lanes, then the rest (R187). None: it is made in one. -/
def halfAct (t : Ty) (o : Order) (d : Reg) (ad : Addr) (c : Ctx) (s : State) : Option Act :=
  let g := s.grp c.t c.g
  let once := onceReg d
  let n := tyBytes t
  let ls := (if once then (lanes c.E).take 1 else lanes c.E).filter fun l => decide (128 < globalAddr g ad l % 128 + n)
  if ls.isEmpty || g.half.isSome || !(Config.freeBit s.tick (2 ^ 48)) then none
  else
    let r := runLanes (fun l => laneAccess c.t c.g .read (bitTy t) [] (globalAddr g ad l) n
      (fun ps s => halfLane c o once (Config.freeBit s.tick (2 ^ 48 + 1)) l ps
        (observe (.lanes c.t c.g (threadsOf c once l)) (spansOf ps) s))) ls s
    if r.2.isEmpty then some (.hold r.1) else none

def ldAct (t : Ty) (o : Order) (d : Reg) (ad : Addr) (c : Ctx) (s : State) : Act :=
  (halfAct t o d ad c s).getD
    (memAct c (onceReg d) .read (bitTy t) (tyBytes t) (globalAddr (s.grp c.t c.g) ad) (loadLane c t o (onceReg d) d) s)

def execLd (h : Hdr) (t : Ty) (o : Order) (sc : Scope) (hint : Hint) (d : Reg) (ad : Addr) (s : State) : Res :=
  simt h (Instr.size (.ld h t o sc hint d ad)) (.wr d (tyRegs t) :: addrUse 2 ad) noPriv (ldAct t o d ad) s

/-- Lane l's store. -/
def storeLane (c : Ctx) (t : Ty) (o : Order) (sc : Scope) (once : Bool) (val : Nat → Nat) (l : Nat) (ps : List Piece)
    (s : State) : State :=
  let p := (s.launchOf c.t).part
  let r := storeVal t (val l)
  afterDevice p ps (orFlags c r.2 (storeOrdered p c.t c.g (threadsOf c once l) o sc ps r.1 s))

def stAct (t : Ty) (o : Order) (sc : Scope) (ad : Addr) (cr : Reg) (c : Ctx) (s : State) : Act :=
  let g := s.grp c.t c.g
  memAct c (onceReg cr) .write (bitTy t) (tyBytes t) (globalAddr g ad)
    (storeLane c t o sc (onceReg cr) fun l => regGet g cr l (tyRegs t)) s

def execSt (h : Hdr) (t : Ty) (o : Order) (sc : Scope) (hint : Hint) (ad : Addr) (cr : Reg) (s : State) : Res :=
  simt h (Instr.size (.st h t o sc hint ad cr)) (.rd cr (tyRegs t) :: addrUse 2 ad) noPriv (stAct t o sc ad cr) s

/-! The windows (R174 to R176, R204). -/

/-- PERM of a window (R174): the offset in TRAP_INFO0. -/
def badOff (code : Byte) (o : Nat) : Bad := { code := code, i0 := BitVec.ofNat 32 o, i1 := 0, i2 := 0 }

/-- Where a team's SRAM of SOURCE 6 lies, in the addresses of its errors (the model's own): the accumulator tiles, the
selection window, FA, FB from the oldest entry on, the scale slots, the superscale latches, the heaps of the rows. -/
def accPlace (b : Nat) : Nat := 2 ^ 20 * (1 + b)
def selPlace : Nat := 2 ^ 20 * 16
def fifoPlace (b : Bool) : Nat := 2 ^ 20 * (17 + b2n b)
def scalePlace : Nat := 2 ^ 20 * 19
def latchPlace (slot : Nat) : Nat := 2 ^ 20 * 20 + 8 * slot
def heapPlace (row : Nat) : Nat := 2 ^ 20 * 21 + 2 ^ 10 * row

/-- An error in a core SRAM (18 R381, R382): scratchpad is SOURCE 1, the memories above SOURCE 6. -/
def metSpans (t source a n : Nat) (cover : List Span) (s : State) : State × Option EccErr :=
  meetErrs (s.launchOf t).part (s.launchOf t).lid (fun e => e.team == some t && e.source.toNat == source) a n cover s
/-- A read of n bytes, or a store of them. -/
def metCore (t source a n : Nat) (store : Bool) (s : State) : State × Option EccErr :=
  metSpans t source a n (if store then [(a, n)] else []) s
def coreEcc (t source a n : Nat) (k : Kind) (cover : List Span) (s : State) : State × Option Bad :=
  let r := metSpans t source a n cover s
  (r.1, r.2.map fun _ => badEcc k source 0)
/-- What the lanes of one store write of a core SRAM, from `place` on: the lanes that `ok` passes (08 R203, R204). -/
def storeSpans (k : Kind) (place n : Nat) (os : List Nat) (ok : Nat → Bool) : List Span :=
  if k == .write then (os.filter ok).map fun o => (place + o, n) else []

/-- A lane's access to the scratchpad window; `mates`: the offsets of the lanes of its instruction. -/
def scratchLane (t n : Nat) (k : Kind) (mates : List Nat) (o : Nat) (f : State → State) (s : State) : State × Option Bad :=
  let size := (s.launchOf t).scratchBytes
  if size < o + n then (s, some (badOff 0x07 (max o size)))
  else match coreEcc t 1 o n k (storeSpans k 0 n mates fun o => decide (o + n ≤ size)) s with
    | (s, some b) => (s, some b)
    | (s, none) => (f s, none)

/-- The state number of a tile (11 R245). -/
def tileNum : TileState → Nat
  | .seq => 0
  | .team => 1
  | .group _ => 2
  | .sealed _ _ => 3
def Team.tile (tm : Team) (k : Nat) : Tile := tm.tiles.getD k {}
/-- The tile that carries the mode, state and data that a name reaches: an X128 tile is tile 0 or 4 (11 R245). -/
def tileBase (tm : Team) (k : Nat) : Nat := if (tm.tile (k / 4 * 4)).x128 then k / 4 * 4 else k
/-- The name is tile 1 to 3 or 5 to 7 of an X128 tile. -/
def subTile (tm : Team) (k : Nat) : Bool := tileBase tm k != k

/-- The first word of the accumulator window at an aligned offset. -/
def accRead (x : Tile) (o n : Nat) : Nat := (List.range (n / 4)).foldl (fun a i => a + (x.data.get (o / 4 + i)).toNat * 2 ^ (32 * i)) 0
def accWrite (x : Tile) (o n v : Nat) : Tile :=
  { x with data := (List.range (n / 4)).foldl (fun d i => d.set (o / 4 + i) (BitVec.ofNat 32 (v >>> (32 * i)))) x.data }

/-- A row header (15 Table 15.3), as bytes of a number. -/
def rowHeader (r : SelRow) (i : Nat) : Nat :=
  pack ([(32, r.m.toNat), (32, r.s.toNat), (7, r.h.toNat), (1, 0), (7, r.heap.length), (1, b2n r.nanf), (4, r.lflag.toNat),
    (12, 0), (7, i), (25, 0)] ++ (r.lid.map fun x => (32, x.toNat)) ++ (r.log.map fun x => (32, x.toNat)))

/-- Where a word of the selection window lies (Table 8.3): a header word, a label; none: PERM. -/
inductive SelAt where
  | header (row word : Nat)
  | label (row k : Nat)
def selAt (tm : Team) (store : Bool) (o : Nat) : Option SelAt :=
  if o < 6144 then (if store || tm.rows.length ≤ o / 48 then none else some (.header (o / 48) (o % 48)))
  else if o < 38912 || 40960 ≤ o then none
  else if tm.rows.length ≤ (o - 38912) / 16 then none
  else some (.label ((o - 38912) / 16) ((o - 38912) % 16 / 4))

/-- The words that an access of n bytes touches. -/
def selWords (o n : Nat) : List Nat := (List.range (ceilDiv n 4)).map fun i => o + 4 * i

def selRead (tm : Team) (o : Nat) : Nat :=
  match selAt tm false o with
  | some (.header r w) => fld (rowHeader (tm.rows.getD r {}) r) (8 * w) 32
  | some (.label r k) => ((tm.rows.getD r {}).lid.getD k 0).toNat
  | none => 0
/-- The low n bytes of a label replaced. -/
def selWrite (t o n v : Nat) (s : State) : State :=
  match selAt (s.team t) true o with
  | some (.label r k) => s.modTeam t fun tm => { tm with rows := tm.rows.modify r fun x =>
      { x with lid := x.lid.modify k fun old => BitVec.ofNat 32 (setFld old.toNat 0 (8 * n) v) } }
  | _ => s

/-- The selection unit has work in progress (R176): a stage that runs and is not pending (15 R322), or a VOUT. -/
def selBusy (tm : Team) : Bool :=
  tm.seq.vout.isSome || (match tm.seq.stage with
    | some st => !st.pending
    | none => false)

/-- The offset fails the selection window's checks: the offending offset. -/
def selBad (tm : Team) (store : Bool) (o n : Nat) : Option Nat :=
  if o % 4 ≠ 0 then some o else (selWords o n).find? fun w => (selAt tm store w).isNone

/-- A window access (R204): the checks of the window, then lane by lane. `put`: the value a lane stores, its flags. -/
def winAct (t : Ty) (win : Window) (d : Reg) (ad : Addr) (store : Bool) (c : Ctx) (s : State) : Act :=
  let g := s.grp c.t c.g
  let tm := s.team c.t
  let once := onceReg d
  let ls := if once then (lanes c.E).take 1 else lanes c.E
  let n := tyBytes t
  let off (l : Nat) : Nat := windowOff g ad l
  let val (l : Nat) : Nat × Flags := storeVal t (regGet g d l (tyRegs t))
  let flush (s : State) : State := releaseLanes c.t c.g c.E .team s
  let kind : Kind := if store then .write else .read
  let take (l x : Nat) (s : State) : State := writeReg c (laneBit l) d (tyRegs t) (fun _ => loadVal t x) s
  match win with
  | .scratch =>
    finishLanes c once (runLanes (fun l => scratchLane c.t n kind (ls.map off) (off l) fun s =>
      if store then
        orFlags c (val l).2 (s.modTeam c.t fun tm => { tm with scratch := Store.writeLe tm.scratch (off l) n (val l).1 })
      else take l (Store.readLe (s.team c.t).scratch (off l) n) s) ls (flush s))
  | .acc k =>
    let b := tileBase tm k.toNat
    let x := tm.tile b
    if subTile tm k.toNat || x.state != .group c.g then
      c.trap s 0x0C c.E (BitVec.ofNat 32 k.toNat) (BitVec.ofNat 32 (tileNum x.state))
    else if !(t == .b32 || (if x.x128 then t == .x128 else t == .f32)) then c.trap s 0x0D c.E
    else
      let inTile (o : Nat) : Bool := o % n == 0 && decide (o + n ≤ (if x.x128 then 262144 else 65536))
      finishLanes c once (runLanes (fun l s =>
      if !(inTile (off l)) then (s, some (badOff 0x07 (off l)))
      else match coreEcc c.t 6 (accPlace b + off l) n kind (storeSpans kind (accPlace b) n (ls.map off) inTile) s with
        | (s, some e) => (s, some e)
        | (s, none) =>
          (if store then s.modTeam c.t fun tm => { tm with tiles := tm.tiles.modify b fun y => accWrite y (off l) n (val l).1 }
           else take l (accRead ((s.team c.t).tile b) (off l) n) s, none)) ls (flush s))
  | .sel =>
    if selBusy tm then .stall
    else finishLanes c once (runLanes (fun l s =>
      match selBad tm store (off l) n with
      | some o => (s, some (badOff 0x07 o))
      | none => match coreEcc c.t 6 (selPlace + off l) n kind
          (storeSpans kind selPlace n (ls.map off) fun o => (selBad tm store o n).isNone) s with
        | (s, some e) => (s, some e)
        | (s, none) =>
        let ws := selWords (off l) n
        (if store then orFlags c (val l).2 (ws.foldl (fun s w =>
            selWrite c.t w (min 4 (n - (w - off l))) ((val l).1 / 256 ^ (w - off l)) s) s)
         else take l (ws.foldl (fun a w => a + selRead (s.team c.t) w * 256 ^ (w - off l)) 0 % 256 ^ n) s, none)) ls (flush s))

/-- Naming an undeclared tile is a range error (02 R53). -/
def winUse (win : Window) : List Use :=
  match win with
  | .acc k => [.tile k.toNat]
  | _ => []

def execLds (h : Hdr) (t : Ty) (win : Window) (d : Reg) (ad : Addr) (s : State) : Res :=
  simt h (Instr.size (.lds h t win d ad)) (.wr d (tyRegs t) :: winUse win ++ addrUse 1 ad) noPriv
    (winAct t win d ad false) s
def execSts (h : Hdr) (t : Ty) (win : Window) (ad : Addr) (d : Reg) (s : State) : Res :=
  simt h (Instr.size (.sts h t win ad d)) (.rd d (tyRegs t) :: winUse win ++ addrUse 1 ad) noPriv
    (winAct t win d ad true) s

/-! ATOM, ATOMS (R205, Table 8.13). -/

/-- Lane l's atomic on the pieces of its address. -/
def atomLane (c : Ctx) (op : AtomOp) (t : Ty) (o : Order) (sc : Scope) (once : Bool) (d : Reg) (val : Nat → Nat) (l : Nat)
    (ps : List Piece) (s : State) : State :=
  let p := (s.launchOf c.t).part
  let s := beforeAtomic c.t c.g (threadsOf c once l) o sc ps s
  let old := readPieces s p ps
  let r := atomVal op t old (val l)
  afterDevice p ps (orFlags c r.2 (writeReg c (laneBit l) d (tyRegs t) (fun _ => old) (writePieces p ps r.1 s)))

def atomAct (op : AtomOp) (t : Ty) (o : Order) (sc : Scope) (d : Reg) (ad : Addr) (b : Reg) (c : Ctx) (s : State) : Act :=
  let g := s.grp c.t c.g
  memAct c (onceReg d) .atom (bitTy t) (tyBytes t) (globalAddr g ad)
    (atomLane c op t o sc (onceReg d) d fun l => regGet g b l (atomRegs op t)) s

/-- One ATOM form. -/
def atomForm (h : Hdr) (size : Nat) (op : AtomOp) (t : Ty) (o : Order) (sc : Scope) (d : Reg) (ad : Addr) (b : Reg) (s : State) : Res :=
  simt h size (.wr d (tyRegs t) :: .rd b (atomRegs op t) :: addrUse 2 ad) noPriv (atomAct op t o sc d ad b) s

def execAtomAdd (h : Hdr) (t : Ty) (o : Order) (sc : Scope) (d : Reg) (ad : Addr) (b : Reg) (s : State) : Res :=
  atomForm h (Instr.size (.atomAdd h t o sc d ad b)) .add t o sc d ad b s
def execAtomMin (h : Hdr) (t : Ty) (o : Order) (sc : Scope) (d : Reg) (ad : Addr) (b : Reg) (s : State) : Res :=
  atomForm h (Instr.size (.atomMin h t o sc d ad b)) .min t o sc d ad b s
def execAtomMax (h : Hdr) (t : Ty) (o : Order) (sc : Scope) (d : Reg) (ad : Addr) (b : Reg) (s : State) : Res :=
  atomForm h (Instr.size (.atomMax h t o sc d ad b)) .max t o sc d ad b s
def execAtomAnd (h : Hdr) (t : Ty) (o : Order) (sc : Scope) (d : Reg) (ad : Addr) (b : Reg) (s : State) : Res :=
  atomForm h (Instr.size (.atomAnd h t o sc d ad b)) .and t o sc d ad b s
def execAtomOr (h : Hdr) (t : Ty) (o : Order) (sc : Scope) (d : Reg) (ad : Addr) (b : Reg) (s : State) : Res :=
  atomForm h (Instr.size (.atomOr h t o sc d ad b)) .or t o sc d ad b s
def execAtomXor (h : Hdr) (t : Ty) (o : Order) (sc : Scope) (d : Reg) (ad : Addr) (b : Reg) (s : State) : Res :=
  atomForm h (Instr.size (.atomXor h t o sc d ad b)) .xor t o sc d ad b s
def execAtomExch (h : Hdr) (t : Ty) (o : Order) (sc : Scope) (d : Reg) (ad : Addr) (b : Reg) (s : State) : Res :=
  atomForm h (Instr.size (.atomExch h t o sc d ad b)) .exch t o sc d ad b s
def execAtomCas (h : Hdr) (t : Ty) (o : Order) (sc : Scope) (d : Reg) (ad : Addr) (b : Reg) (s : State) : Res :=
  atomForm h (Instr.size (.atomCas h t o sc d ad b)) .cas t o sc d ad b s

/-- One ATOMS form: ALIGN (R187), then the scratchpad's checks. -/
def atomsAct (op : AtomOp) (t : Ty) (d : Reg) (ad : Addr) (b : Reg) (c : Ctx) (s : State) : Act :=
  let g := s.grp c.t c.g
  let once := onceReg d
  let n := tyBytes t
  let ls := if once then (lanes c.E).take 1 else lanes c.E
  finishLanes c once (runLanes (fun l s =>
    let o := windowOff g ad l
    if o % n ≠ 0 then (s, some (badAt 0x04 .atom o))
    else scratchLane c.t n .atom [] o (fun s =>
      let old := Store.readLe (s.team c.t).scratch o n
      let r := atomVal op t old (regGet g b l (atomRegs op t))
      orFlags c r.2 (writeReg c (laneBit l) d (tyRegs t) (fun _ => old)
        (s.modTeam c.t fun tm => { tm with scratch := Store.writeLe tm.scratch o n r.1 }))) s) ls
    (releaseLanes c.t c.g c.E .team s))

def atomsForm (h : Hdr) (size : Nat) (op : AtomOp) (t : Ty) (d : Reg) (ad : Addr) (b : Reg) (s : State) : Res :=
  simt h size (.wr d (tyRegs t) :: .rd b (atomRegs op t) :: addrUse 1 ad) noPriv (atomsAct op t d ad b) s

def execAtomsAdd (h : Hdr) (t : Ty) (d : Reg) (ad : Addr) (b : Reg) (s : State) : Res :=
  atomsForm h (Instr.size (.atomsAdd h t d ad b)) .add t d ad b s
def execAtomsMin (h : Hdr) (t : Ty) (d : Reg) (ad : Addr) (b : Reg) (s : State) : Res :=
  atomsForm h (Instr.size (.atomsMin h t d ad b)) .min t d ad b s
def execAtomsMax (h : Hdr) (t : Ty) (d : Reg) (ad : Addr) (b : Reg) (s : State) : Res :=
  atomsForm h (Instr.size (.atomsMax h t d ad b)) .max t d ad b s
def execAtomsAnd (h : Hdr) (t : Ty) (d : Reg) (ad : Addr) (b : Reg) (s : State) : Res :=
  atomsForm h (Instr.size (.atomsAnd h t d ad b)) .and t d ad b s
def execAtomsOr (h : Hdr) (t : Ty) (d : Reg) (ad : Addr) (b : Reg) (s : State) : Res :=
  atomsForm h (Instr.size (.atomsOr h t d ad b)) .or t d ad b s
def execAtomsXor (h : Hdr) (t : Ty) (d : Reg) (ad : Addr) (b : Reg) (s : State) : Res :=
  atomsForm h (Instr.size (.atomsXor h t d ad b)) .xor t d ad b s
def execAtomsExch (h : Hdr) (t : Ty) (d : Reg) (ad : Addr) (b : Reg) (s : State) : Res :=
  atomsForm h (Instr.size (.atomsExch h t d ad b)) .exch t d ad b s
def execAtomsCas (h : Hdr) (t : Ty) (d : Reg) (ad : Addr) (b : Reg) (s : State) : Res :=
  atomsForm h (Instr.size (.atomsCas h t d ad b)) .cas t d ad b s

/-! FENCE (R206): .acq orders loads only, which are performed already; .sc completes with every earlier access of the lanes
performed for the threads of the scope (10 Table 10.1, rows 6 and 7); .rel and .ar order the earlier stores before later
stores and atomics alone (row 6; log 111). -/

def fenceAct (o : Order) (sc : Scope) (c : Ctx) (s : State) : Act :=
  .adv (match o with
    | .sc => releaseLanes c.t c.g c.E sc s
    | .rel | .ar => fenceLanes c.t c.g c.E sc s
    | _ => s)

def execFence (h : Hdr) (o : Order) (sc : Scope) (s : State) : Res :=
  simt h (Instr.size (.fence h o sc)) [] noPriv (fenceAct o sc) s

/-! PUBLISH (R207). -/

/-- Word 0 of a shadow descriptor after the swap: LIVE the other one, GEN one more. -/
def publishWord (x : Nat) : Nat := (x / 2 + 1) % 2 ^ 63 * 2 + (1 - x % 2)

/-- The commands in flight keep the LIVE that stood at their issue (R196). -/
def keepLives (desc : Nat) (live : Bool) (s : State) : State :=
  { s with cmds := s.cmds.map fun x =>
      if x.status.isNone && (kGet x.lives desc).isNone then { x with lives := kSet x.lives desc live } else x }

def publishLane (c : Ctx) (d : BitVec 6) (ps : List Piece) (s : State) : State :=
  let p := (s.launchOf c.t).part
  let s := observe (.lanes c.t c.g c.E) (spansOf ps) (flushOverlap c.t c.g c.E ps (releaseGroup c.t c.g .dev s))
  let x := readPieces s p ps
  let desc := (ps.map fun e => e.1.pa).headD 0
  let s := shareCtr c.t (s.grp c.t c.g).ctr s
  writeReg c c.E (.s d) 2 (fun _ => publishWord x) (writePieces p ps (publishWord x) (keepLives desc (bitOf x 0) s))

def publishAct (d a : BitVec 6) (disp : Option Word) (c : Ctx) (s : State) : Act :=
  let form : AddrForm := match disp with
    | some w => .disp w
    | none => .plain
  let va := globalAddr (s.grp c.t c.g) ⟨.s a, form⟩ 0
  if va % 64 ≠ 0 then
    c.trap s 0x04 c.E (BitVec.ofNat 32 va) (BitVec.ofNat 32 (va / 2 ^ 32)) (BitVec.ofNat 32 Kind.atom.code)
  else memAct c true .atom true 8 (fun _ => va) (fun _ ps s => publishLane c d ps s) s

def execPublish (h : Hdr) (sc : Scope) (d a : BitVec 6) (disp : Option Word) (s : State) : Res :=
  simt h (Instr.size (.publish h sc d a disp)) [.rd (.s a) 2, .wr (.s d) 2] noPriv (publishAct d a disp) s

/-! DRAIN (R208). -/

/-- The memories that DRAIN waits for: scratchpad, FIFOs and scale memory, global memory. -/
inductive Dest where
  | sp | fifo | glb
  deriving DecidableEq, Repr

/-- SPACE of a layout record: a scratchpad tensor (11 Table 11.7). -/
def slotScratch (r : BitVec 512) : Bool := fld r.toNat 317 2 == 1

/-- A command writes into a memory. -/
def writesTo (k : CmdKind) (d : Dest) : Bool :=
  let slot (r : BitVec 512) : Bool := if slotScratch r then d == .sp else d == .glb
  match k with
  | .copy _ _ dst _ _ _ _ | .gather _ _ dst _ => slot dst
  | .feed _ _ _ _ _ => d == .fifo
  -- its superscales go to global memory (13 R288)
  | .enc _ body scl _ _ _ => slot body || slot scl || d == .glb
  | .dec _ _ dst _ _ _ _ => slot dst
  | .nmc _ blk => if bitOf blk.toNat 127 then d == .sp else d == .glb
  | .fork _ _ _ | .coll _ _ _ _ | .packet _ => d == .glb

/-- The commands issued from the core of team t, by any team, that have not completed. -/
def openCommands (s : State) (t : Nat) (d : Dest) : List Nat :=
  (List.range s.cmds.length).filter fun i => match s.cmds[i]? with
    | some x => x.status.isNone && writesTo x.kind d && x.core == some ((s.team t).die, (s.team t).core)
    | none => false

/-- CTR_BASE as the completed commands of a team that `sel` names bring it to a group that drains (16 R334). -/
def seeCommands (t g : Nat) (sel : Nat → Cmd → Bool) (s : State) : State :=
  seeCtr t g (((List.range s.cmds.length).zip s.cmds).foldl (fun v e =>
    if e.2.team == some t && e.2.status.isSome && sel e.1 e.2 then laterCtr v e.2.ctr else v) {}) s

/-- The group is held until the commands have completed; at once where there are none. -/
def drainAct (d : Dest) (c : Ctx) (s : State) : Act :=
  let s := seeCommands c.t c.g (fun _ x => writesTo x.kind d) s
  match openCommands s c.t d with
  | [] => .adv s
  | l => .adv (s.modGrp c.t c.g fun g => { g with drain := some l })

def execDrainSp (h : Hdr) (s : State) : Res := simt h (Instr.size (.drainSp h)) [] noPriv (drainAct .sp) s
def execDrainFifo (h : Hdr) (s : State) : Res := simt h (Instr.size (.drainFifo h)) [] noPriv (drainAct .fifo) s
def execDrainGlb (h : Hdr) (s : State) : Res := simt h (Instr.size (.drainGlb h)) [] noPriv (drainAct .glb) s

/-- DRAIN_COMPLETE: every command that the group's DRAIN waits for has completed. -/
def execDrainComplete (t g : Nat) (s : State) : Res :=
  match (s.grp t g).drain with
  | some l =>
    if l.all fun i => match s.cmds[i]? with
        | some x => x.status.isSome
        | none => true
    then .next (seeCommands t g (fun i _ => l.contains i) (s.modGrp t g fun gr => { gr with drain := none })) else .next s
  | none => .next s

/-! CCTL (R209): timing only; it never traps on the address. -/

def cctlForm (h : Hdr) (size : Nat) (ad : Addr) (s : State) : Res :=
  simt h size (addrUse 2 ad) noPriv (fun _ s => .adv s) s

def execCctlInv (h : Hdr) (ad : Addr) (s : State) : Res := cctlForm h (Instr.size (.cctlInv h ad)) ad s
def execCctlPfl1 (h : Hdr) (ad : Addr) (s : State) : Res := cctlForm h (Instr.size (.cctlPfl1 h ad)) ad s
def execCctlPfl2 (h : Hdr) (ad : Addr) (s : State) : Res := cctlForm h (Instr.size (.cctlPfl2 h ad)) ad s

/-! LDC (R211). -/

/-- The address of an offset in the parameter bank. -/
def bankAddr (la : Launch) (off : Nat) : Nat := (la.f 384 64 + off) % 2 ^ 64
/-- The checks of an offset. -/
def bankBad (la : Launch) (n off : Nat) : Option Bad :=
  if off % n ≠ 0 then some (badAt 0x04 .read (bankAddr la off))
  else if la.f 352 32 < off + n then some (badAt 0x07 .read (bankAddr la (max off (la.f 352 32))))
  else none

/-- Lane l's read of n bytes of the parameter bank: the offset's checks, then those of the access. A bank that is changed
during the launch reads as memory stands then (DESIGN CHOICE, log 110). -/
def ldcLane (c : Ctx) (d : Reg) (k : Nat) (off : Nat) (l : Nat) (s : State) : State × Option Bad :=
  let la := s.launchOf c.t
  let n := 4 * k
  let va := bankAddr la off
  if let some b := bankBad la n off then (s, some b)
  else laneAccess c.t c.g .read true [] va n (fun ps s =>
    let s := observe (.lanes c.t c.g c.E) (spansOf ps) s
    let x := readPieces s la.part ps
    writeReg c (laneBit l) d k (fun _ => x) s) s

/-- With UA = 1 and a vector offset, the once-per-group read takes the offset of the lowest lane of E (DESIGN CHOICE,
log 109). -/
def ldcAct (d : Reg) (k : Nat) (off : Opd) (c : Ctx) (s : State) : Act :=
  let g := s.grp c.t c.g
  let la := s.launchOf c.t
  let ls := if onceReg d then (lanes c.E).take 1 else lanes c.E
  let o (l : Nat) : Nat := opdGet g off l 1 false
  match gateLanes c .read true (4 * k) ((ls.filter fun l => (bankBad la (4 * k) (o l)).isNone).map fun l => bankAddr la (o l)) s with
  | some a => a
  | none => finishLanes c (onceReg d) (runLanes (fun l => ldcLane c d k (o l) l) ls s)

def execLdcB32 (h : Hdr) (d : Reg) (off : Opd) (s : State) : Res :=
  simt h (Instr.size (.ldcB32 h d off)) (.wr d 1 :: opdUse off 1) noPriv (ldcAct d 1 off) s
def execLdcB64 (h : Hdr) (d : Reg) (off : Opd) (s : State) : Res :=
  simt h (Instr.size (.ldcB64 h d off)) (.wr d 2 :: opdUse off 1) noPriv (ldcAct d 2 off) s

end Sys2Proof.Machine
end

