-- ==== Sys2Proof/Machine/Sync.lean ====
section
/-! DEFINITION. Barriers, tokens, tiles, tensor-shape slots and collective barriers (11 R233 to R239, R244 to R246, R249
to R251, R254 to R256). -/

set_option linter.unusedVariables false

namespace Sys2Proof.Machine

/-! Named barriers (R235 to R239). -/

/-- A party of a barrier: a home group, or the sequencer. -/
abbrev Party := Option Nat

def Team.bar (tm : Team) (b : Nat) : Barrier := tm.bars.getD b {}
def modBar (t b : Nat) (f : Barrier → Barrier) (s : State) : State :=
  s.modTeam t fun tm => { tm with bars := tm.bars.modify b f }

/-- The phase that a party recorded, with its valid bit (R239). -/
def Team.recorded (tm : Team) (b : Nat) : Party → Option Bool
  | some g => kGet (tm.group g).bphase b
  | none => kGet tm.seq.bphase b
/-- The phase recorded, or the valid bit cleared. -/
def setRecorded (t b : Nat) (p : Party) (x : Option Bool) (s : State) : State :=
  let f (m : List (Nat × Bool)) : List (Nat × Bool) := match x with
    | some v => kSet m b v
    | none => kErase m b
  match p with
  | some g => s.modGrp t g fun gr => { gr with bphase := f gr.bphase }
  | none => s.modSeq t fun q => { q with bphase := f q.bphase }

/-- PENDING after an amount, saturating (Table 11.2). -/
def pendingAdd (x : BitVec 56) (n : Int) : BitVec 56 :=
  BitVec.ofNat 56 (wrap 56 (sat (sgn 56 x.toNat + n) (-(2 ^ 55 : Nat)) ((2 ^ 55 : Nat) - 1)))

/-- complete(f) of R238. -/
def barComplete (f : Bool) (b : Barrier) : Barrier :=
  { pending := 0, phase := !b.phase, armed := false, touched := false, faulted := f, expset := false,
    expected := b.expected, arrived := 0, overrun := if f then b.pending else b.overrun, ctr := {}, lastCtr := b.ctr }
/-- The evaluation after an update; `none`: no completion (R238). -/
def barEval (b : Barrier) : Option Barrier :=
  if b.expset && b.arrived == b.expected && (b.armed || !b.touched) then
    if b.pending == 0 then some (barComplete false b)
    else if b.armed && decide (sgn 56 b.pending.toNat < 0) then some (barComplete true b)
    else none
  else none

/-- BAROVER of a faulted completion; TRAP_PC is the successor of the wait (R238). -/
def barOver (b : Nat) (x : Barrier) (next : DWord) : Trap :=
  { code := 0x0B, pc := next, i0 := BitVec.ofNat 32 b, i1 := x.overrun.setWidth 32,
    i2 := (x.overrun.extractLsb' 32 24).signExtend 32 }
/-- What a completed wait ends with. -/
def barOut (b : Nat) (x : Barrier) (next : DWord) : Option Trap := if x.faulted then some (barOver b x next) else none

/-- Parked lanes whose barrier has completed leave; the valid bit is cleared (R239). -/
def barWaitDone (t b g : Nat) (w : Wait) (s : State) : Option (State × Option Trap) :=
  let x := (s.team t).bar b
  match w.kind with
  | .barrier b' ph => if b' = b && ph != x.phase then some (seeCtr t g x.lastCtr (setRecorded t b (some g) none s), barOut b x w.next) else none
  | _ => none

/-- The sequencer acquires (16 R334). -/
def seqSees (t : Nat) (v : CtrView) (s : State) : State := s.modSeq t fun q => { q with ctr := laterCtr q.ctr v }
/-- The sequencer's wait on a barrier that has completed: it goes on at the successor, or traps and may be resumed
there. -/
def seqBarDone (t b : Nat) (s : State) : State :=
  let x := (s.team t).bar b
  match (s.team t).seq.wait with
  | some (b', ph, nx) =>
    if b' = b && ph != x.phase then
      let s := (seqSees t x.lastCtr (setRecorded t b none none s)).modSeq t fun q =>
        { q with wait := none, pc := nx, stat := setWaitKind 0 q.stat }
      match barOut b x nx with
      | some tr => raiseSeqTrap t tr nx s
      | none => s
    else s
  | none => s

/-- An update of a barrier: completion is evaluated, and its waiters are unparked (R235, R238). -/
def barUpdate (t b : Nat) (f : Barrier → Barrier) (s : State) : State :=
  let s := modBar t b f s
  match barEval ((s.team t).bar b) with
  | none => s
  | some x => seqBarDone t b (settleTeam t (barWaitDone t b) (modBar t b (fun _ => x) s))

/-- The count of an arrival: 0 means TEAM_GROUPS (R236). -/
def barCount (l : Launch) (c : Nat) : Nat := if c = 0 then l.groups else c
/-- The arrival breaks R236: BARMIS. -/
def barMis (l : Launch) (b : Nat) (x : Barrier) (c : Nat) : Option Trap :=
  if l.groups + 1 < c || (x.expset && c != x.expected.toNat) || (x.expset && x.arrived == x.expected) then
    some { code := 0x0A, i0 := BitVec.ofNat 32 b, i1 := BitVec.ofNat 32 c,
           i2 := if x.expset then x.expected.setWidth 32 else 0 }
  else none
/-- One arrival of a party (R236). -/
def barArrive (t b : Nat) (p : Party) (c : Nat) (s : State) : State :=
  let s := setRecorded t b p (some ((s.team t).bar b).phase) s
  barUpdate t b (fun x => { x with expected := if x.expset then x.expected else BitVec.ofNat 6 c, expset := true,
                                   arrived := x.arrived + 1 }) s
/-- BEXP (R237). -/
def barExpect (t b n : Nat) (s : State) : State :=
  barUpdate t b (fun x => { x with pending := pendingAdd x.pending n, armed := true, touched := true }) s
/-- Bytes that an engine has performed (R237), for a command that was issued with a view of CTR_BASE. -/
def barBytes (t b n : Nat) (v : CtrView) (s : State) : State :=
  barUpdate t b (fun x => { x with pending := pendingAdd x.pending (-(n : Int)), touched := true, ctr := laterCtr x.ctr v })
    (arrival t s)

/-- The wait of a party: it has completed already, or the phase that it waits to change (R239). -/
def barWaitNow (tm : Team) (b : Nat) (p : Party) : Option Bool :=
  let x := tm.bar b
  match tm.recorded b p with
  | some ph => if ph != x.phase then none else some ph
  | none => some x.phase

/-! BAR (R249). -/

/-- ILL of an index from outside what the team declared (R234). -/
def outside (c : Ctx) (s : State) (v : Nat) (what : Word) : Act := c.trap s 0x01 c.E (BitVec.ofNat 32 v) 0 0 what

/-- A group's wait: at once, or its lanes park. -/
def barWaitAct (b : Nat) (c : Ctx) (s : State) : Act :=
  match barWaitNow (s.team c.t) b (some c.g) with
  | some ph => .park (setRecorded c.t b (some c.g) (some ph) s) c.E (.barrier b ph)
  | none =>
    let s' := seeCtr c.t c.g ((s.team c.t).bar b).lastCtr (setRecorded c.t b (some c.g) none s)
    match barOut b ((s.team c.t).bar b) c.next with
    | some tr => .trap s' { tr with lanes := c.E } 0
    | none => .adv s'

/-- The barrier takes over what the arriving party sees of CTR_BASE (16 R334). -/
def noteCtr (t b : Nat) (p : Party) (s : State) : State :=
  let v := match p with
    | some g => (s.grp t g).ctr
    | none => (s.team t).seq.ctr
  modBar t b (fun x => { x with ctr := laterCtr x.ctr v }) s

/-- A group's BAR: the arrival, a release of every lane's earlier accesses (10 Table 10.2), and the wait. An index beyond the
declared barriers traps ILL as `outside` has it, given as an immediate too (DESIGN CHOICE, log 125). -/
def barAct (arrive wait : Bool) (v : ImmU) (c : Ctx) (s : State) : Act :=
  let x := (immUGet (s.grp c.t c.g) v).toNat
  let b := fld x 0 8
  let l := s.launchOf c.t
  let n := barCount l (fld x 8 6)
  if l.bars ≤ b then outside c s b 1
  else if !arrive then barWaitAct b c s
  else match barMis l b ((s.team c.t).bar b) n with
    | some tr => .trap s { tr with lanes := c.E, pc := c.pc } 0
    | none =>
      let s := barArrive c.t b (some c.g) n (noteCtr c.t b (some c.g) (releaseGroup c.t c.g .team s))
      if wait then barWaitAct b c s else .adv s

/-- The sequencer's wait. -/
def seqBarWait (t b : Nat) (next : DWord) (s : State) : SAct :=
  match barWaitNow (s.team t) b none with
  | some ph => .stall ((setRecorded t b none (some ph) s).modSeq t fun q => { q with wait := some (b, ph, next) }) 1
  | none =>
    let s' := seqSees t ((s.team t).bar b).lastCtr (setRecorded t b none none s)
    match barOut b ((s.team t).bar b) next with
    | some tr => .trap s' tr next
    | none => .adv s'

/-- The sequencer's BAR: it follows the commits of the stream (14 R292). -/
def seqBar (arrive wait : Bool) (v : ImmU) (t : Nat) (pc next : DWord) (s : State) : SAct :=
  let x := match v with
    | .imm w => w.toNat
    | .uni _ => 0
  let b := fld x 0 8
  let l := s.launchOf t
  let n := barCount l (fld x 8 6)
  let q := (s.team t).seq
  if q.wait.isSome then .stall s 1
  else if !(seqCommitted q) then .stall s (commitKind q)
  else if l.bars ≤ b then .trap s { code := 0x01, i0 := BitVec.ofNat 32 b, i3 := 1 } pc
  else if !arrive then seqBarWait t b next s
  else match barMis l b ((s.team t).bar b) n with
    | some tr => .trap s tr pc
    | none =>
      let s := barArrive t b none n (noteCtr t b none s)
      if wait then seqBarWait t b next s else .adv s

/-- The 96-bit form, the one that a matrix stream may hold (R233). -/
def isImm : ImmU → Bool
  | .imm _ => true
  | .uni _ => false

def execBarSync (h : Hdr) (b : ImmU) (s : State) : Res :=
  dualForm h (Instr.size (.barSync h b)) (immUUse b) (barAct true true b) (isImm b) (seqBar true true b) s
def execBarArrive (h : Hdr) (b : ImmU) (s : State) : Res :=
  dualForm h (Instr.size (.barArrive h b)) (immUUse b) (barAct true false b) (isImm b) (seqBar true false b) s
def execBarWait (h : Hdr) (b : ImmU) (s : State) : Res :=
  dualForm h (Instr.size (.barWait h b)) (immUUse b) (barAct false true b) (isImm b) (seqBar false true b) s

/-! BEXP (R250). -/

def bexpUse : BexpOpd → List Use
  | .regs b n => [.rd (.s b) 1, .rd (.s n) 1]
  | .immReg _ n => [.rd (.s n) 1]
  | .imms _ _ => []
/-- Barrier and bytes. -/
def bexpGet (g : Group) : BexpOpd → Nat × Nat
  | .regs b n => (fld (g.s.get b.toNat).toNat 0 8, (g.s.get n.toNat).toNat)
  | .immReg b n => (b.toNat, (g.s.get n.toNat).toNat)
  | .imms b n => (b.toNat, n.toNat)
def bexpImms : BexpOpd → Bool
  | .imms _ _ => true
  | _ => false

def bexpAct (o : BexpOpd) (c : Ctx) (s : State) : Act :=
  let x := bexpGet (s.grp c.t c.g) o
  if (s.launchOf c.t).bars ≤ x.1 then outside c s x.1 1 else .adv (barExpect c.t x.1 x.2 s)
def seqBexp (o : BexpOpd) (t : Nat) (pc next : DWord) (s : State) : SAct :=
  let x := bexpGet {} o
  if (s.launchOf t).bars ≤ x.1 then .trap s { code := 0x01, i0 := BitVec.ofNat 32 x.1, i3 := 1 } pc
  else .adv (barExpect t x.1 x.2 s)

def execBexp (h : Hdr) (b : BexpOpd) (s : State) : Res :=
  dualForm h (Instr.size (.bexp h b)) (bexpUse b) (bexpAct b) (bexpImms b) (seqBexp b) s

/-! CBAR (R251). -/

/-- The part's system number, as a member entry has it (13 R275). -/
def ownNumber : Nat := Config.ownUaid.toNat + 2 ^ 10 * Config.ownPod.toNat
/-- A member entry names a launch of this part. -/
def memberHere (lid : Word) (m : DWord) : Bool := fld m.toNat 0 32 == lid.toNat && fld m.toNat 32 21 == ownNumber
/-- The registered group of an id. -/
def collOf (s : State) (p : Nat) (id : BitVec 16) : Option CollGroup := (s.part p).colls.find? fun g => g.id == id
/-- The rank of a team's launch in a group. -/
def rankOf (g : CollGroup) (lid : Word) : Option Nat := g.members.findIdx? (memberHere lid)
def modColl (p : Nat) (id : BitVec 16) (f : CollGroup → CollGroup) (s : State) : State :=
  s.modPart p fun pt => { pt with colls := pt.colls.map fun g => if g.id == id then f g else g }

/-- Every group of the team that has not ended has issued CBAR with the id: the member arrives. A team that was ended has
failed. -/
def memberArrived (s : State) (t : Nat) (g : CollGroup) : Bool :=
  let n := (s.team t).groups.length
  ((s.team t).phase == .resident || (s.team t).phase == .saved) &&
  (List.range n).any (fun i => g.here.contains (t, i)) &&
    (List.range n).all fun i => (s.grp t i).ended || g.here.contains (t, i)
/-- The ranks that have arrived, and when the first of them did. A member's arrival releases every access of it before, those
of groups that have ended since too (10 Table 10.2). -/
def noteArrivals (p : Nat) (id : BitVec 16) (s : State) : State :=
  match collOf s p id with
  | none => s
  | some g =>
    let ts := (g.here.map fun x => x.1).eraseDups.filter fun t => memberArrived s t g
    let rs := (ts.filterMap fun t => rankOf g (s.launchOf t).lid).filter fun r => !(g.arrived.contains r)
    if rs.isEmpty then s
    else
      let s := (ts.filter fun t => (rankOf g (s.launchOf t).lid).any fun r => rs.contains r).foldl (fun s t => releaseTeam t g.scope s) s
      modColl p id (fun g => { g with arrived := g.arrived ++ rs, since := some (g.since.getD (now s)) }) s

/-- CBAR: a release of every earlier access of the member, its team (10 Table 10.2). -/
def cbarAct (sc : Scope) (v : ImmU) (c : Ctx) (s : State) : Act :=
  let x := (immUGet (s.grp c.t c.g) v).toNat
  let id : BitVec 16 := BitVec.ofNat 16 x
  let l := s.launchOf c.t
  match collOf s l.part id with
  | none => c.trap s 0x01 c.E (id.setWidth 32)
  | some g =>
    if g.scope != sc || (rankOf g l.lid).isNone then c.trap s 0x01 c.E (id.setWidth 32)
    else
      let s := releaseTeam c.t sc s
      .park (noteArrivals l.part id (modColl l.part id (fun g => { g with here := g.here ++ [(c.t, c.g)] }) s)) c.E
        (.cbar id)

def execCbar (h : Hdr) (sc : Scope) (id : ImmU) (s : State) : Res :=
  simt h (Instr.size (.cbar h sc id)) (immUUse id) noPriv (cbarAct sc id) s

/-- The groups that wait at a CBAR of the id leave, or trap. -/
def leaveCbar (p : Nat) (id : BitVec 16) (tr : Option Trap) (s : State) : State :=
  match collOf s p id with
  | none => s
  | some g =>
    let ts := (g.here.map fun x => x.1).eraseDups
    let s := modColl p id (fun g => { g with here := [], arrived := [], since := none }) s
    let s := g.here.foldl (fun s x => g.here.foldl (fun s y => if y.1 == x.1 then seeCtr x.1 x.2 (s.grp y.1 y.2).ctr s else s) s) s
    ts.foldl (fun s t => settleTeam t (fun _ w s => match w.kind with
      | .cbar x => if x == id then some (s, tr.map fun y => { y with pc := w.pc }) else none
      | _ => none) s) s

/-- The ranks of members on this part that have not arrived. -/
def missingHere (g : CollGroup) : List Nat :=
  (List.range g.members.length).filter fun r =>
    fld ((g.members.getD r 0).toNat) 32 21 == ownNumber && !(g.arrived.contains r)

/-- A member's grid, the latest of its LAUNCH_ID, has lost a team with its die, was cancelled, or had its team ended by the
supervisor: the member fails (17 R369, 18 R375, R388). -/
def memberLost (s : State) (p : Nat) (m : DWord) : Bool :=
  match (s.launches.filter fun l => l.part == p && memberHere l.lid m).getLast? with
  | some l => l.dieLost || l.cancelled || l.fcount != 0
  | none => false

/-- CBAR_COMPLETE: no member of this part is missing. -/
def execCbarComplete (p : Nat) (id : BitVec 16) (s : State) : Res :=
  let s := noteArrivals p id s
  match collOf s p id with
  | some g => if (missingHere g).isEmpty then .next (leaveCbar p id none s) else .next s
  | none => .next s

/-- CBAR_DEADLINE_EXPIRY: the member of the rank is the lowest one missing, DEADLINE after the first arrival; where the
first arrival was outside the part, the event says when. A member that has failed makes CBAR trap at once (R251). -/
def execCbarDeadlineExpiry (p : Nat) (id : BitVec 16) (rank : Word) (s : State) : Res :=
  let s := noteArrivals p id s
  match collOf s p id with
  | some g =>
    let r := rank.toNat
    let here (k : Nat) : Bool := fld ((g.members.getD k 0).toNat) 32 21 == ownNumber
    let late := match g.since with
      | some x => decide (g.deadline.toNat * 1000 ≤ now s - x)
      | none => false
    let away := (List.range g.members.length).any fun k => !(here k)
    let lost := (missingHere g).any fun k => memberLost s p (g.members.getD k 0)
    if decide (r < g.members.length) && (late || away || lost) && !(g.arrived.contains r) &&
        (missingHere g).all (fun k => decide (r ≤ k)) then
      .next (leaveCbar p id (some { code := 0x14, i0 := id.setWidth 32, i1 := rank }) s)
    else .next s
  | none => .next s

/-! WAITK (R254). -/

/-- Tokens of a mask. -/
def maskTokens (m : BitVec 16) : List Nat := (List.range 16).filter fun k => m.getLsbD k
/-- A token names a command that is outstanding. -/
def outstanding (s : State) (g : Group) (m : BitVec 16) : Bool := (maskTokens m).any fun k => !(tokenDone s (g.token k))
/-- The tokens whose operation ended with a status other than 0. -/
def tokenErrors (s : State) (g : Group) (m : BitVec 16) : List (Nat × Cmd) :=
  (maskTokens m).filterMap fun k => match g.token k with
    | .names n => (s.cmd? n).bind fun x => match x.status with
        | some 0 => none
        | some _ => some (k, x)
        | none => none
    | .empty => none
/-- A mask of the tokens listed. -/
def tokenMask (es : List (Nat × Cmd)) : Word := BitVec.ofNat 32 (es.foldl (fun a e => a + 2 ^ e.1) 0)
/-- The trap of a wait whose tokens ended in error: ENGERR, or SPLITOVF where all are stopped ENC (R254, 13 R289). -/
def tokenTrap (pc : DWord) (es : List (Nat × Cmd)) : Option Trap :=
  let isEnc (e : Nat × Cmd) : Bool := e.2.status == some 6
  match es.find? fun e => !(isEnc e) with
  | some e => some { code := 0x14, pc := pc, i0 := BitVec.ofNat 32 e.1, i1 := (e.2.status.getD 0).setWidth 32,
                     i2 := tokenMask es, i3 := tokenMask (es.filter isEnc) }
  | none => match es with
    | e :: _ => some { code := 0x0E, pc := pc, i0 := e.2.info0, i1 := e.2.info1, i2 := tokenMask es,
                       i3 := BitVec.ofNat 32 (e.1 * 2 ^ 28 + e.2.tiles % 2 ^ 28) }
    | [] => none
/-- Every token of a mask emptied. -/
def emptyTokens (t g : Nat) (m : BitVec 16) (s : State) : State :=
  s.modGrp t g fun gr => (maskTokens m).foldl (fun gr k => gr.setToken k .empty) gr

/-- A parked WAITK whose operations have completed; TRAP_PC is the WAITK (13 R289). -/
def tokenWaitDone (t g : Nat) (w : Wait) (s : State) : Option (State × Option Trap) :=
  match w.kind with
  | .tokens m =>
    if outstanding s (s.grp t g) m then none
    else some (emptyTokens t g m s, tokenTrap w.pc (tokenErrors s (s.grp t g) m))
  | _ => none
/-- A command of a team has completed: the waits on tokens, and groups that only drained (04 R98). -/
def wakeTokens (t : Nat) (s : State) : State := endGroups t (settleTeam t (tokenWaitDone t) s)

def waitkAct (m : BitVec 16) (c : Ctx) (s : State) : Act :=
  let g := s.grp c.t c.g
  if outstanding s g m then .park s c.E (.tokens m)
  else match tokenTrap c.pc (tokenErrors s g m) with
    | some tr => .trap (emptyTokens c.t c.g m s) { tr with lanes := c.E } 0
    | none => .adv (emptyTokens c.t c.g m s)

def oneToken (k : BitVec 4) : BitVec 16 := BitVec.ofNat 16 (2 ^ k.toNat)

def execWaitk (h : Hdr) (k : BitVec 4) (s : State) : Res :=
  simt h (Instr.size (.waitk h k)) [.tk k.toNat, .wt k.toNat] noPriv (waitkAct (oneToken k)) s
def execWaitkMask (h : Hdr) (m : BitVec 16) (s : State) : Res :=
  simt h (Instr.size (.waitkMask h m)) ((maskTokens m).map .tk ++ (maskTokens m).map .wt) noPriv (waitkAct m) s

/-! ACQ, REL (R245, R255). -/

/-- TOKEN (R245): the tile's index, all ones for a sealed tile (15 R320), and its state. -/
def tokenInfo (k : Nat) (x : TileState) : Word × Word :=
  (match x with
    | .sealed _ _ => 0xFFFFFFFF
    | _ => BitVec.ofNat 32 k, BitVec.ofNat 32 (tileNum x))
/-- The tile that a name reaches goes into a state. -/
def setTile (t k : Nat) (x : TileState) (s : State) : State :=
  s.modTeam t fun tm => { tm with tiles := tm.tiles.modify (tileBase tm k) fun y => { y with state := x } }

/-- The tile comes to a group, which sees CTR_BASE as the releasing group did. -/
def takeTile (t k g : Nat) (s : State) : State :=
  setTile t k (.group g) (seeCtr t g ((s.team t).tile (tileBase (s.team t) k)).ctr s)
/-- The tile takes over what the group that gives it back sees. -/
def leaveTile (t k g : Nat) (s : State) : State :=
  s.modTeam t fun tm => { tm with tiles := tm.tiles.modify (tileBase tm k) fun y => { y with ctr := laterCtr y.ctr (tm.group g).ctr } }

/-- The waiting ACQs of a tile: group, place, order. -/
def acqWaits (tm : Team) (k : Nat) : List (Nat × Nat × Nat) :=
  (List.range tm.groups.length).flatMap fun g =>
    let ws := (tm.group g).waits
    (List.range ws.length).filterMap fun i => match ws[i]? with
      | some w => (match w.kind with
          | .tile a => if a = k && w.done.isNone then some (g, i, w.order) else none
          | _ => none)
      | none => none
/-- The earliest. -/
def earliest : List (Nat × Nat × Nat) → Option (Nat × Nat × Nat)
  | [] => none
  | x :: xs => match earliest xs with
    | none => some x
    | some y => if x.2.2 ≤ y.2.2 then some x else some y
/-- A tile that has come to TEAM goes to the earliest-issued ACQ that waits for it. -/
def serveTile (t k : Nat) (s : State) : State :=
  let tm := s.team t
  if (tm.tile (tileBase tm k)).state != .team then s
  else match earliest (acqWaits tm (tileBase tm k)) with
    | some (g, i, _) => completeWait t g i none (takeTile t k g s)
    | none => s

/-- The name reaches no tile of its own, or the state is none the group may act on. -/
def acqAct (k : Nat) (c : Ctx) (s : State) : Act :=
  let tm := s.team c.t
  let x := (tm.tile (tileBase tm k)).state
  let bad : Act := c.trap s 0x0C c.E (tokenInfo k x).1 (tokenInfo k x).2
  if subTile tm k then bad
  else match x with
    | .seq => .park s c.E (.tile k)
    | .team => if (acqWaits tm k).isEmpty then .adv (takeTile c.t k c.g s) else .park s c.E (.tile k)
    | .group g => if g = c.g then bad else .park s c.E (.tile k)
    | .sealed _ _ => bad

def execAcq (h : Hdr) (tile : BitVec 3) (s : State) : Res :=
  simt h (Instr.size (.acq h tile)) [.tile tile.toNat] noPriv (acqAct tile.toNat) s

def relAct (k : Nat) (c : Ctx) (s : State) : Act :=
  let tm := s.team c.t
  let x := (tm.tile (tileBase tm k)).state
  if subTile tm k || x != .group c.g then c.trap s 0x0C c.E (tokenInfo k x).1 (tokenInfo k x).2
  else
    let s := setTile c.t k (if tm.seq.named then .seq else .team) (leaveTile c.t k c.g (releaseGroup c.t c.g .team s))
    .adv (serveTile c.t k s)

/-- The sequencer's REL, after the commits of the stream (14 R292). -/
def seqRel (k : Nat) (t : Nat) (pc next : DWord) (s : State) : SAct :=
  let tm := s.team t
  let x := (tm.tile (tileBase tm k)).state
  if !(seqCommitted tm.seq) then .stall s (commitKind tm.seq)
  else if subTile tm k || x != .seq then .trap s { code := 0x0C, i0 := (tokenInfo k x).1, i1 := (tokenInfo k x).2 } pc
  else .adv (serveTile t k (setTile t k .team (s.modTeam t fun tm =>
    { tm with tiles := tm.tiles.modify (tileBase tm k) fun y => { y with ctr := laterCtr y.ctr tm.seq.ctr } })))

def execRel (h : Hdr) (tile : BitVec 3) (s : State) : Res :=
  dualForm h (Instr.size (.rel h tile)) [.tile tile.toNat] (relAct tile.toNat) true (seqRel tile.toNat) s

/-! TSLD, TSEV (R246, R256). -/

/-- A reserved code, or a set reserved bit, of a layout record (Table 11.7). -/
def badRecord (x : Nat) : Bool :=
  decide (0x11 < fld x 312 5) || decide (1 < fld x 317 2) || fld x 321 2 == 3 || fld x 460 52 != 0
/-- The record of a slot. -/
def Team.slot (tm : Team) (k : Nat) : Option (BitVec 512) := kGet tm.slots k

/-- A base pair with a displacement. -/
def slotAddr (a : BitVec 6) (disp : Option Word) : Addr :=
  ⟨.s a, match disp with
    | some w => .disp w
    | none => .plain⟩

/-- A slot's access: 64 bytes, once for the group; no access that a device page takes (08 R185). -/
def slotAct (k : Kind) (a : BitVec 6) (disp : Option Word) (f : List Piece → State → State) (c : Ctx) (s : State) : Act :=
  let va := globalAddr (s.grp c.t c.g) (slotAddr a disp) 0
  if va % 64 ≠ 0 then
    c.trap s 0x04 c.E (BitVec.ofNat 32 va) (BitVec.ofNat 32 (va / 2 ^ 32)) (BitVec.ofNat 32 k.code)
  else memAct c true k false 64 (fun _ => va) (fun _ => f) s

def tsldAct (slot : Nat) (a : BitVec 6) (disp : Option Word) (c : Ctx) (s : State) : Act :=
  let old := (s.team c.t).slots
  match slotAct .read a disp (fun ps s =>
      let s := beforeLoad c.t c.g c.E .ordinary ps s
      let x : BitVec 512 := BitVec.ofNat 512 (readPieces s (s.launchOf c.t).part ps)
      s.modTeam c.t fun tm => { tm with slots := kSet tm.slots slot x }) c s with
  | .adv s' =>
    match (s'.team c.t).slot slot with
    | some x => if badRecord x.toNat then c.trap (s'.modTeam c.t fun tm => { tm with slots := old }) 0x0D c.E else .adv s'
    | none => .adv s'
  | x => x

def execTsld (h : Hdr) (slot : BitVec 5) (a : BitVec 6) (disp : Option Word) (s : State) : Res :=
  simt h (Instr.size (.tsld h slot a disp)) [.rd (.s a) 2] noPriv (tsldAct slot.toNat a disp) s

def emptySlot (t slot : Nat) (s : State) : State := s.modTeam t fun tm => { tm with slots := kErase tm.slots slot }

def tsevAct (slot : Nat) (ad : Option (BitVec 6 × Option Word)) (c : Ctx) (s : State) : Act :=
  match ad with
  | none => .adv (emptySlot c.t slot s)
  | some (a, disp) => slotAct .write a disp (fun ps s =>
      let p := (s.launchOf c.t).part
      let x := ((s.team c.t).slot slot).getD 0
      emptySlot c.t slot (afterDevice p ps (storeOrdered p c.t c.g c.E .ordinary .dev ps x.toNat s))) c s

def tsevUse : Option (BitVec 6 × Option Word) → List Use
  | some (a, _) => [.rd (.s a) 2]
  | none => []

def execTsev (h : Hdr) (slot : BitVec 5) (ad : Option (BitVec 6 × Option Word)) (s : State) : Res :=
  simt h (Instr.size (.tsev h slot ad)) (tsevUse ad) noPriv (tsevAct slot.toNat ad) s

end Sys2Proof.Machine
end

