-- ==== Sys2Proof/Machine/Queues.lean ====
section
/-! DEFINITION. Scratchpad queues and result ports (11 R240 to R243, R252, R253, R257) and the queue forms of MOV
(05 R139, R140). -/

set_option linter.unusedVariables false

namespace Sys2Proof.Machine

def Team.queue (tm : Team) (q : Nat) : Queue := tm.queues.getD q {}
def modQueue (t q : Nat) (f : Queue → Queue) (s : State) : State :=
  s.modTeam t fun tm => { tm with queues := tm.queues.modify q f }

/-! Entries. -/

/-- The conditions of R241. -/
def mayEnter (q : Queue) : Bool :=
  q.allow != 0 && (if q.ocnt = 0 then decide (q.cnt < q.cap) || (q.inOvf && decide (0 < q.ovfmax))
    else q.inOvf && decide (q.ocnt < q.ovfmax))
/-- The overflow area is at its limit (R242). -/
def ovfFull (q : Queue) : Bool := q.inOvf && decide (q.ovfmax ≤ q.ocnt)
/-- An allowance but 0xFFFF falls by 1. -/
def lowerAllow (q : Queue) : Queue := if q.allow == 0xFFFF then q else { q with allow := q.allow - 1 }

/-- Where the i-th entry of the ring, and of the overflow area, lies. The area is a ring of OVFMAX entries (log 26). -/
def ringPos (q : Queue) (i : Nat) : Nat := q.ring + 8 * ((q.rd + i) % q.cap)
def ovfAt (q : Queue) (i : Nat) : Nat := (q.ovf.toNat + 8 * ((q.ohead + i) % q.ovfmax)) % 2 ^ 64

/-- A push is waiting on the queue. -/
def pushWaits (tm : Team) (q : Nat) : Bool :=
  tm.groups.any fun g => g.waits.any fun w => w.done.isNone && (match w.kind with
    | .push n _ _ => n == q
    | _ => false)
/-- The queue may enter overflow, with a push parked: its ring is full, and it has an overflow area. -/
def measured (x : Queue) : Bool := x.init && decide (x.cnt = x.cap) && !x.inOvf && x.ovf != 0 && x.ovfmax != 0
/-- The measure of R242: while that is so and a push is parked. -/
def measureFull (t q : Nat) (s : State) : State :=
  let x := (s.team t).queue q
  let on := measured x && pushWaits (s.team t) q
  modQueue t q (fun x => { x with fullSince := if on then some (x.fullSince.getD (now s)) else none }) s

/-- The measure begins with a push that parks. -/
def measurePark (t q : Nat) (s : State) : State :=
  modQueue t q (fun x => if measured x && x.fullSince.isNone then { x with fullSince := some (now s) } else x) s

/-- What a push comes to. -/
inductive PushOut where
  | entered (s : State)
  | waits
  /-- Its write of the overflow area waits for the service of a fault (08 R184). -/
  | faults
  | ovf (i1 : Word)

/-- One entry for queue q (R241, R242), of a group that sees CTR_BASE as `cv` (16 R334). -/
def pushOne (t q : Nat) (v : Nat) (cv : CtrView) (s : State) : PushOut :=
  let x := (s.team t).queue q
  if ovfFull x then .ovf 0
  else if !(mayEnter x) then .waits
  else if x.ocnt = 0 && decide (x.cnt < x.cap) then
    .entered (((arrival t s).modTeam t fun tm => { tm with scratch := Store.writeLe tm.scratch (ringPos x x.cnt) 8 v })
      |> modQueue t q fun x => { lowerAllow x with cnt := x.cnt + 1, ctrs := x.ctrs ++ [cv] })
  else
    let l := s.launchOf t
    match partWrite (whoLaunch l) (rootOf l.lineage) (ovfAt x x.ocnt) 8 v s with
    | some s => .entered (modQueue t q (fun x => { lowerAllow x with ocnt := x.ocnt + 1, ctrs := x.ctrs ++ [cv] }) (arrival t s))
    | none => if Config.freeBit s.tick (2 ^ 58 + q) then .ovf 1 else .faults

/-- Entries move from the overflow area into the ring as space frees; the queue leaves overflow when the area is empty. -/
def refill (t q : Nat) : Nat → State → State
  | 0, s => modQueue t q (fun x => if x.ocnt = 0 then { x with inOvf := false } else x) s
  | n + 1, s =>
    let x := (s.team t).queue q
    if x.ocnt = 0 || decide (x.cap ≤ x.cnt) then refill t q n s
    else match partGet (whoLaunch (s.launchOf t)) (ovfAt x 0) 8 s with
      | (s, none) => refill t q n s
      | (s, some v) =>
        let s := s.modTeam t fun tm => { tm with scratch := Store.writeLe tm.scratch (ringPos x x.cnt) 8 v }
        refill t q n (modQueue t q (fun x => { x with cnt := x.cnt + 1, ocnt := x.ocnt - 1, ohead := (x.ohead + 1) % x.ovfmax }) s)

/-- The oldest entry of a queue or a port, taken. -/
def popOne (t : Nat) (b : Bind) (s : State) : Option (State × Nat) :=
  match b with
  | .queue q =>
    let x := (s.team t).queue q
    let s := if x.cnt = 0 && x.ocnt != 0 then refill t q 1 s else s
    let x := (s.team t).queue q
    if x.cnt = 0 then none
    else
      let v := Store.readLe (s.team t).scratch (ringPos x 0) 8
      let s := modQueue t q (fun x => { x with cnt := x.cnt - 1, rd := (x.rd + 1) % x.cap, ctrs := x.ctrs.drop 1 }) s
      some (measureFull t q (if x.ocnt = 0 then s else refill t q (x.cap - x.cnt + 1) s), v)
  | .port n =>
    match (s.team t).ports.getD n [] with
    | [] => none
    | v :: vs => some (s.modTeam t fun tm => { tm with ports := tm.ports.set n vs }, v.toNat)

/-! Lanes that wait. -/

/-- One lane of the k-th wait has its entry: it goes on, or waits as done while its lanes are held (04 R101). -/
def completeLane (t g k lane : Nat) (s : State) : State :=
  let gr := s.grp t g
  match gr.waits[k]? with
  | none => s
  | some w =>
    let left := w.lanes &&& ~~~(laneBit lane)
    if left = 0 then completeWait t g k none s
    else
      let s := s.modGrp t g fun gr => { gr with waits := gr.waits.set k { w with lanes := left } }
      if w.held || gr.stopped.isSome || gr.taken.isSome || (s.team t).phase != .resident then
        s.modGrp t g fun gr => { gr with waits := gr.waits ++ [{ w with lanes := laneBit lane, done := some none }] }
      else s.modGrp t g fun gr => { gr with pcv := setLanes gr.pcv (laneBit lane &&& ~~~gr.exited) fun _ => w.next }

/-- The waits of a team that p names: group, place. -/
def findWaits (tm : Team) (p : WaitKind → Bool) : List (Nat × Nat) :=
  (List.range tm.groups.length).flatMap fun g =>
    let ws := (tm.group g).waits
    (List.range ws.length).filterMap fun i => match ws[i]? with
      | some w => if w.done.isNone && p w.kind then some (g, i) else none
      | none => none
/-- The lowest lane of a group's wait. -/
def waitLane (tm : Team) (e : Nat × Nat) : Nat :=
  match (tm.group e.1).waits[e.2]? with
  | some w => lowest w.lanes
  | none => 32
/-- Among waits in order of group, the one whose lane comes first in R93 order. -/
def firstWait (tm : Team) : List (Nat × Nat) → Option (Nat × Nat)
  | [] => none
  | e :: es => match firstWait tm es with
    | none => some e
    | some x => if e.1 < x.1 || (e.1 == x.1 && decide (waitLane tm e ≤ waitLane tm x)) then some e else some x

def isPush (q : Nat) : WaitKind → Bool
  | .push n _ _ => n == q
  | _ => false
def isPop (b : Bind) : WaitKind → Bool
  | .pop x _ _ => x == b
  | _ => false

/-- The push that comes first in R93 order has its entry enter, or traps QOVF; none: it waits on. -/
def servePush (t q : Nat) (s : State) : Option State :=
  let tm := s.team t
  match firstWait tm (findWaits tm (isPush q)) with
  | none => none
  | some (g, k) =>
    match (tm.group g).waits[k]? with
    | none => none
    | some w =>
      match w.kind with
      | .push _ uni vals =>
        let lane := lowest w.lanes
        let v := ((kGet vals (if uni then 0 else lane)).getD 0).toNat
        (match pushOne t q v w.ctr s with
          | .entered s => some (measureFull t q (if uni then completeWait t g k none s else completeLane t g k lane s))
          | .ovf i1 => some (measureFull t q (completeWait t g k (some { code := 0x13, pc := w.pc, i1 := i1 }) s))
          | .waits | .faults => none)
      | _ => none
/-- Parked pushes retry in R93 order. -/
def servePushes (t q : Nat) : Nat → State → State
  | 0, s => measureFull t q s
  | n + 1, s => match servePush t q s with
    | some s => servePushes t q n s
    | none => measureFull t q s
/-- A group that takes the oldest entry of a queue sees CTR_BASE as the group that pushed it did (16 R334). -/
def seePush (t g : Nat) (b : Bind) (s : State) : State :=
  match b with
  | .queue q => seeCtr t g (((s.team t).queue q).ctrs.headD {}) s
  | .port _ => s

/-- The pop that comes first in R93 order receives an entry. -/
def servePop (t : Nat) (b : Bind) (s : State) : Option State :=
  let tm := s.team t
  match firstWait tm (findWaits tm (isPop b)) with
  | none => none
  | some (g, k) =>
    match (tm.group g).waits[k]?, popOne t b (seePush t g b s) with
    | some w, some (s, v) =>
      (match w.kind with
        | .pop _ d b64 =>
          let lane := lowest w.lanes
          let n := if b64 then 2 else 1
          let s := (dropWrite t g (laneBit lane) [.wr d n] s).modGrp t g fun gr => regSet d lane v n gr
          some (match d with
            | .s _ => completeWait t g k none s
            | .v _ => completeLane t g k lane s)
        | _ => none)
    | _, _ => none

/-- QUEUE_ENTRY_ENTER: the k-th wait of the group holds the first push of its queue. -/
def execQueueEntryEnter (t g k : Nat) (s : State) : Res :=
  let tm := s.team t
  match (tm.group g).waits[k]? with
  | some w =>
    (match w.kind with
      | .push q _ _ =>
        if tm.phase == .resident && firstWait tm (findWaits tm (isPush q)) == some (g, k) then
          .next ((servePush t q s).getD s)
        else .next s
      | _ => .next s)
  | none => .next s
/-- QUEUE_POP_COMPLETE: the k-th wait of the group holds the first pop of its queue or port. -/
def execQueuePopComplete (t g k : Nat) (s : State) : Res :=
  let tm := s.team t
  match (tm.group g).waits[k]? with
  | some w =>
    (match w.kind with
      | .pop b _ _ =>
        if tm.phase == .resident && firstWait tm (findWaits tm (isPop b)) == some (g, k) then
          .next ((servePop t b s).getD s)
        else .next s
      | _ => .next s)
  | none => .next s

/-- QUEUE_OVERFLOW_START: the ring has been full for 20 µs with a push parked (R242). A queue whose first entry cannot be
written yet is not in overflow, and its measure stands. -/
def execQueueOverflowStart (t q : Nat) (s : State) : Res :=
  let x := (s.team t).queue q
  match x.fullSince with
  | some a =>
    if !x.inOvf && x.ovf != 0 && x.ovfmax != 0 && decide (20000 ≤ now s - a) && (s.team t).phase == .resident then
      .next (modQueue t q (fun x => if x.ocnt = 0 then { x with inOvf := false, fullSince := some a } else x)
        (servePushes t q 1024 (modQueue t q (fun x => { x with inOvf := true }) s)))
    else .next s
  | none => .next s

/-! Queue registers (R140). -/

/-- The binding of a queue register, or the detail code of ILL. -/
def queueReg (s : State) (t q : Nat) (push : Bool) : Except Word Bind :=
  match kGet (s.team t).qregs q with
  | none => .error 1
  | some (.port n) => if push then .error 2 else .ok (.port n)
  | some (.queue n) => if (s.launchOf t).nqueues ≤ n then .error 3 else .ok (.queue n)

/-! MOV.push, MOV.pop (05 R139, R140). -/

/-- The entries of the lanes in order: how many lanes have entered, and why the next one has not. -/
def pushLanes (t q : Nat) (val : Nat → Nat) (cv : CtrView) : List Nat → State → State × List Nat × Option Word
  | [], s => (s, [], none)
  | l :: ls, s =>
    match pushOne t q (val l) cv s with
    | .entered s => pushLanes t q val cv ls s
    | .waits | .faults => (s, l :: ls, none)
    | .ovf i1 => (s, l :: ls, some i1)

/-- The registers of a type of MOV's queue forms. -/
def entryRegs (ty : Ty) : Nat := if ty == .b64 then 2 else 1

def pushAct (ty : Ty) (q : Nat) (b : Reg) (c : Ctx) (s : State) : Act :=
  let g := s.grp c.t c.g
  match queueReg s c.t q true with
  | .ok (.queue n) =>
    let uni := regUni b
    let val (l : Nat) : Nat := regGet g b l (entryRegs ty)
    let ls := if uni then (lanes c.E).take 1 else lanes c.E
    let r := pushLanes c.t n val g.ctr ls (releaseLanes c.t c.g c.E .team s)
    let rest : Lanes := if uni && !r.2.1.isEmpty then c.E else laneSet fun l => r.2.1.contains l
    (match r.2.1, r.2.2 with
      | [], _ => .adv (measureFull c.t n r.1)
      | _, some i1 => .trap r.1 { code := 0x13, pc := c.pc, lanes := rest, i1 := i1 } 0
      | ls, none => .park (measurePark c.t n r.1) rest (.push n uni (if uni then [(0, BitVec.ofNat 64 (val (lowest c.E)))] else
          ls.map fun l => (l, BitVec.ofNat 64 (val l)))))
  | .ok (.port _) => c.trap s 0x01 c.E 2
  | .error e => c.trap s 0x01 c.E e

def execMovPush (h : Hdr) (ty : Ty) (q : BitVec 4) (b : Reg) (s : State) : Res :=
  simt h (Instr.size (.movPush h ty q b)) [.rd b (entryRegs ty)] noPriv (pushAct ty q.toNat b) s

/-- The lanes in order take entries while there are any: the lanes left. -/
def popLanes (c : Ctx) (b : Bind) (d : Reg) (k : Nat) : List Nat → State → State × List Nat
  | [], s => (s, [])
  | l :: ls, s =>
    match popOne c.t b (seePush c.t c.g b s) with
    | some (s, v) => popLanes c b d k ls (writeReg c (laneBit l) d k (fun _ => v) s)
    | none => (s, l :: ls)

def popAct (ty : Ty) (d : Reg) (q : Nat) (c : Ctx) (s : State) : Act :=
  match queueReg s c.t q false with
  | .ok b =>
    let ls := if regUni d then (lanes c.E).take 1 else lanes c.E
    let r := popLanes c b d (entryRegs ty) ls s
    (match r.2 with
      | [] => .adv r.1
      | ls => .park r.1 (if regUni d then c.E else laneSet fun l => ls.contains l) (.pop b d (ty == .b64)))
  | .error e => c.trap s 0x01 c.E e

def execMovPop (h : Hdr) (ty : Ty) (d : Reg) (q : BitVec 4) (s : State) : Res :=
  simt h (Instr.size (.movPop h ty d q)) [.wr d (entryRegs ty)] noPriv (popAct ty d q.toNat) s

/-! QBIND (R252). -/

def bindReg (t q : Nat) (b : Bind) (s : State) : State := s.modTeam t fun tm => { tm with qregs := kSet tm.qregs q b }

/-- The descriptor of Table 11.4. -/
def queueOf (d : Nat) : Queue :=
  { init := true, ring := fld d 32 32, cap := fld d 64 16, allow := BitVec.ofNat 16 (fld d 80 16),
    ovf := BitVec.ofNat 64 (fld d 96 64), ovfmax := fld d 160 32 }

def qbindAct (q : Nat) (off : ImmU) (c : Ctx) (s : State) : Act :=
  let o := (immUGet (s.grp c.t c.g) off).toNat
  let l := s.launchOf c.t
  let size := l.scratchBytes
  let s := releaseLanes c.t c.g c.E .team s
  if o % 32 ≠ 0 then c.trap s 0x04 c.E (BitVec.ofNat 32 o)
  else match scratchLane c.t 32 .read [] o (fun s => s) s with
    | (s, some b) => .trap s { code := b.code, pc := c.pc, lanes := c.E, i0 := b.i0, i1 := b.i1, i2 := b.i2 } 0
    | (s, none) =>
      let d := Store.readLe (s.team c.t).scratch o 32
      let x := queueOf d
      let n := fld d 0 16
      if l.nqueues ≤ n then c.trap s 0x01 c.E 3
      else if fld d 17 15 != 0 || fld d 192 64 != 0 || x.cap == 0 then c.trap s 0x01 c.E
      else if x.ring % 8 ≠ 0 || x.ovf.toNat % 8 ≠ 0 then c.trap s 0x04 c.E (BitVec.ofNat 32 o)
      else if bitOf d 16 then
        if size < x.ring + 8 * x.cap then c.trap s 0x07 c.E (BitVec.ofNat 32 (max x.ring size))
        else .adv (bindReg c.t q (.queue n) (servePushes c.t n 1024 (modQueue c.t n (fun _ => x) s)))
      else if !((s.team c.t).queue n).init then c.trap s 0x01 c.E 4
      else .adv (bindReg c.t q (.queue n) s)

def execQbindSq (h : Hdr) (q : BitVec 4) (off : ImmU) (s : State) : Res :=
  simt h (Instr.size (.qbindSq h q off)) (immUUse off) noPriv (qbindAct q.toNat off) s

def execQbindPort (h : Hdr) (q : BitVec 4) (port : Byte) (s : State) : Res :=
  simt h (Instr.size (.qbindPort h q port)) [] noPriv (fun c s =>
    if 3 ≤ port.toNat then outside c s port.toNat 3 else .adv (bindReg c.t q.toNat (.port port.toNat) s)) s

/-! QTRY (R253). -/

/-- Pushes that do not wait: the lanes whose entries have entered; the lanes left where one cannot be told yet, and
QOVF's TRAP_INFO1 where its fault cannot be serviced (R242). -/
def tryPushes (t q : Nat) (val : Nat → Nat) (cv : CtrView) : List Nat → State → State × Lanes × List Nat × Option Word
  | [], s => (s, 0, [], none)
  | l :: ls, s =>
    match pushOne t q (val l) cv s with
    | .entered s => let r := tryPushes t q val cv ls s; (r.1, r.2.1 ||| laneBit l, r.2.2)
    | .faults => (s, 0, l :: ls, none)
    | .ovf 1 => (s, 0, l :: ls, some 1)
    | _ => tryPushes t q val cv ls s

/-- The lanes that have been told advance; those whose write of the overflow area faults stay, or trap QOVF. -/
def qtryPushAct (pd q : Nat) (b : Reg) (c : Ctx) (s : State) : Act :=
  let g := s.grp c.t c.g
  match queueReg s c.t q true with
  | .ok (.queue n) =>
    let uni := regUni b
    let r := tryPushes c.t n (fun l => regGet g b l 2) g.ctr (if uni then (lanes c.E).take 1 else lanes c.E)
      (releaseLanes c.t c.g c.E .team s)
    let rest : Lanes := if uni && !r.2.2.1.isEmpty then c.E else laneSet fun l => r.2.2.1.contains l
    let s' := writePred c (c.E &&& ~~~rest) pd (fun l => if uni then r.2.1 != 0 else r.2.1.getLsbD l) (measureFull c.t n r.1)
    (match r.2.2.1, r.2.2.2 with
      | [], _ => .adv s'
      | _, some i1 => .trap s' { code := 0x13, pc := c.pc, lanes := rest, i1 := i1 } 0
      | _, none => .go s' fun l => if rest.getLsbD l then c.pc else c.next)
  | .ok (.port _) => c.trap s 0x01 c.E 2
  | .error e => c.trap s 0x01 c.E e

def execQtryPush (h : Hdr) (pd : BitVec 3) (q : BitVec 4) (b : Reg) (s : State) : Res :=
  simt h (Instr.size (.qtryPush h pd q b)) [.rd b 2, .wp pd.toNat] noPriv (qtryPushAct pd.toNat q.toNat b) s

def qtryPopAct (d : Reg) (q pc : Nat) (c : Ctx) (s : State) : Act :=
  match queueReg s c.t q false with
  | .ok b =>
    let ls := if regUni d then (lanes c.E).take 1 else lanes c.E
    let r := popLanes c b d 2 ls s
    .adv (writePred c c.E pc (fun l => if regUni d then r.2.isEmpty else !(r.2.contains l)) r.1)
  | .error e => c.trap s 0x01 c.E e

def execQtryPop (h : Hdr) (d : Reg) (q : BitVec 4) (pc : BitVec 3) (s : State) : Res :=
  simt h (Instr.size (.qtryPop h d q pc)) [.wr d 2, .wp pc.toNat] noPriv (qtryPopAct d q.toNat pc.toNat) s

/-! QALW (R257). -/

def qalwForm (h : Hdr) (size : Nat) (q : Nat) (v : ImmU) (f : BitVec 16 → Word → BitVec 16) (s : State) : Res :=
  simt h size (immUUse v) noPriv (fun c s =>
    let x := immUGet (s.grp c.t c.g) v
    match queueReg s c.t q true with
    | .ok (.queue n) => .adv (servePushes c.t n 1024 (modQueue c.t n (fun y => { y with allow := f y.allow x }) s))
    | .ok (.port _) => c.trap s 0x01 c.E 2
    | .error e => c.trap s 0x01 c.E e) s

/-- .add: saturating, but for 0xFFFF. -/
def allowAdd (a : BitVec 16) (v : Word) : BitVec 16 :=
  if a == 0xFFFF then a else BitVec.ofNat 16 (wrap 16 (sat ((a.toNat : Int) + sgn 32 v.toNat) 0 0xFFFE))
def allowSet (_ : BitVec 16) (v : Word) : BitVec 16 := v.setWidth 16

def execQalwAdd (h : Hdr) (q : BitVec 4) (n : ImmU) (s : State) : Res :=
  qalwForm h (Instr.size (.qalwAdd h q n)) q.toNat n allowAdd s
def execQalwSet (h : Hdr) (q : BitVec 4) (n : ImmU) (s : State) : Res :=
  qalwForm h (Instr.size (.qalwSet h q n)) q.toNat n allowSet s

end Sys2Proof.Machine
end

