-- ==== Sys2Proof/Machine/Engines.lean ====
section
/-! DEFINITION. Engine commands: layout records (13 R264 to R266), accesses and chunks (R184, R269), issue (R268, R244),
completion (R269), CPY, GSC, ENC, DEC (R283, R284, R288 to R290), NMC (08 R210), FORK (17 R368) and copy packets
(13 R272, R273). A command runs in chunks of at most 4 KiB, in no fixed order (log 27). -/

set_option linter.unusedVariables false

namespace Sys2Proof.Machine

open Codec (tyOf)

/-! The crossing of an element (R266). -/

/-- Types that cross only as themselves, or as bits of the same width. -/
def rawTy (t : Ty) : Bool :=
  t == .bf16x2 || t == .q16 || t == .q8 || t == .x128 || t == .b32 || t == .b64
def crossOk (s d : Ty) : Bool :=
  s == d || (!(rawTy s) && !(rawTy d)) || ((bitTy s || bitTy d) && tyBytes s == tyBytes d)
/-- The bytes of a value converted as CVT converts it (06 R154). -/
def cvtBytes (s d : Ty) (x : Nat) : Nat := (cvtVal d s false .rne false x).1 % 256 ^ tyBytes d
/-- Memory bits of a type as register bits: its value at the type's width. -/
def crossVal (s d : Ty) (x : Nat) : Nat :=
  if s == d || rawTy s || rawTy d then x
  else if cvtInt s && cvtInt d then wrap (tyBits d) (tyVal s x)
  else cvtBytes s d x

/-! Reductions (R271). -/

/-- Table 13.5. -/
def redOk (n : Nat) (t : Ty) : Bool :=
  let int := t == .i32 || t == .n32 || t == .i64 || t == .n64
  match n with
  | 1 => int || t == .f32 || t == .bf16x2 || t == .x128
  | 2 | 3 => int || t == .f32
  | 4 | 5 => bitTy t
  | _ => false

/-! Engine accesses. -/

/-- Why a command's access is not performed: a failing check (status 1, which stalls: 08 R184) or another status, with the
address; uncorrectable data, with the dies that the access has touched; homes on lost dies; a peer that does not answer now; a link that wakes or retrains. -/
inductive Halt where
  | stop (st : Byte) (a : Nat)
  | data (e : EccErr) (dies : BitVec 4)
  | lost (dies : BitVec 4)
  | silent (peer : Nat)
  | retry

/-- The state and a value, or what stops the command. -/
abbrev Eng (α : Type) := Except Halt (State × α)

/-- Who a command acts as. -/
def whoCmd (c : Cmd) : Who := { whoPart c.part c.world c.sup with root := c.ctxRoot }
/-- LAUNCH_ID of a command's log entries. -/
def lidCmd (s : State) (c : Cmd) : Word := match c.team with
  | some t => (s.launchOf t).lid
  | none => 0
/-- Some dies join TOUCHED_DIES of the command's team. -/
def touchDies (c : Cmd) (m : BitVec 4) (s : State) : State := match c.team with
  | some t => s.modTeam t fun tm => { tm with touched := tm.touched ||| m }
  | none => s
/-- The dies of some pieces join TOUCHED_DIES of the command's team (18 R385). -/
def touchCmd (c : Cmd) (ps : List Piece) (s : State) : State := match c.team with
  | some t => touchPieces t c.part ps s
  | none => s

/-- The pieces of an access that passes its checks. -/
def engPieces (c : Cmd) (write words : Bool) (va n : Nat) (s : State) : Except Halt (List Piece) :=
  match engAccess s (whoCmd c) c.lives write words va n with
  | .error (st, a) => .error (.stop st a)
  | .ok ps => .ok ps

/-- What stands between the checks and the bytes: links, peers, lost dies, storage errors. -/
def engReach (c : Cmd) (cover : List Span) (ps : List Piece) (s : State) : Except Halt State :=
  if linkBusy s c.part c.die ps then .error .retry
  else match (peersOf ps).find? fun p => !(peerAnswers s p) with
    | some p => .error (.silent p)
    | none =>
      if lostHomes s c.part ps != 0 then .error (.lost (lostHomes s c.part ps))
      else match meetPieces c.part (lidCmd s c) (fun _ => EccErr.inMem) cover ps s with
        | (_, some e) => .error (.data e (ps.foldl (fun a e => a ||| touchBits s c.part e.1.pa) 0))
        | (s, none) => .ok (touchCmd c ps s)

/-- n bytes of global memory, n at most 64. -/
def engRead (c : Cmd) (words : Bool) (va n : Nat) (s : State) : Eng Nat :=
  match engPieces c false words va n s with
  | .error e => .error e
  | .ok ps =>
    match engReach c [] ps (observe c.observer (spansOf ps) s) with
    | .error e => .error e
    | .ok s => .ok (s, readPieces s c.part ps)

/-- The pieces of a write, with a copy made of each shared page (08 R199), and the state in which they are reached. -/
def engDest (c : Cmd) (store words : Bool) (va n : Nat) (s : State) : Eng (List Piece) :=
  match engPieces c true words va n s with
  | .error e => .error e
  | .ok ps =>
    match copyPieces c.part c.root [] 0 ps s with
    | .error i => .error (.stop 1 (partAddr va n i))
    | .ok s =>
      match engPieces c true words va n s with
      | .error e => .error e
      | .ok ps =>
        match engReach c (if store then spansOf ps else []) ps s with
        | .error e => .error e
        | .ok s => .ok (s, ps)

/-- A write is performed; the supervisor's register acts (22 R406). -/
def performOne (c : Cmd) (h : Held) (s : State) : State :=
  let s := performHeld c h s
  if h.dev then afterSpans c.part h.spans s else s
/-- A write of a command whose checks have passed: it is held until the command performs its chunk; the writes of a command
that performs them one by one are performed now. -/
def putHeld (c : Cmd) (h : Held) (s : State) : State :=
  if c.prompt then performOne c { h with dev := true } s
  else s.modCmd c.id fun x => { x with held := { h with item := c.item } :: x.held }

/-- n bytes written. -/
def engWrite (c : Cmd) (words : Bool) (va n x : Nat) (s : State) : Eng Unit :=
  match engDest c true words va n s with
  | .error e => .error e
  | .ok (s, ps) => .ok (putHeld c { item := 0, sp := false, spans := spansOf ps, dev := anyDevice ps, value := x } s, ())

/-- One atomic at the home slice (13 R271). In a SHADOW region it reads and writes the copy that engine writes go to
(DESIGN CHOICE, log 107). -/
def engAtomic (c : Cmd) (words : Bool) (va n : Nat) (op : AtomOp) (t : Ty) (x : Nat) (s : State) : Eng Unit :=
  match engDest c false words va n s with
  | .error e => .error e
  | .ok (s, ps) =>
    .ok (putHeld c { item := 0, sp := false, spans := spansOf ps, dev := anyDevice ps, red := some (op, t), value := x } s, ())

/-- The scratchpad: an error ends an engine's read, or its write of part of a word, with status 3. -/
def spMeet (c : Cmd) (o n : Nat) (store : Bool) (s : State) : Eng Nat :=
  match c.team with
  | none => .error (.stop 1 o)
  | some t =>
    if (s.launchOf t).scratchBytes < o + n then .error (.stop 1 o)
    else match metCore t 1 o n store s with
      | (_, some e) => .error (.data e 0)
      | (s, none) => .ok (s, t)
def spRead (c : Cmd) (o n : Nat) (s : State) : Eng Nat :=
  match spMeet c o n false s with
  | .error e => .error e
  | .ok (s, t) => .ok (s, Store.readLe (s.team t).scratch o n)
def spWrite (c : Cmd) (o n x : Nat) (s : State) : Eng Unit :=
  match spMeet c o n true s with
  | .error e => .error e
  | .ok (s, _) => .ok (putHeld c { item := 0, sp := true, spans := [(o, n)], value := x } s, ())
/-- n bytes there combined with a value (08 R210). -/
def spAtomic (c : Cmd) (o n : Nat) (op : AtomOp) (ty : Ty) (x : Nat) (s : State) : Eng Unit :=
  match spMeet c o n false s with
  | .error e => .error e
  | .ok (s, _) => .ok (putHeld c { item := 0, sp := true, spans := [(o, n)], red := some (op, ty), value := x } s, ())

def locGet (c : Cmd) (words : Bool) (l : Loc) (n : Nat) (s : State) : Eng Nat :=
  match l with
  | .glb va => engRead c words va n s
  | .sp o => spRead c o n s
def locPut (c : Cmd) (words : Bool) (l : Loc) (n x : Nat) (s : State) : Eng Unit :=
  match l with
  | .glb va => engWrite c words va n x s
  | .sp o => spWrite c o n x s
def Loc.plus (l : Loc) (k : Nat) : Loc :=
  match l with
  | .glb va => .glb ((va + k) % 2 ^ 64)
  | .sp o => .sp (o + k)

/-- k runs of 32 bytes, and a rest. -/
def locGetLong (c : Cmd) (l : Loc) (rest : Nat) : Nat → State → Eng Nat
  | 0, s => if rest = 0 then .ok (s, 0) else locGet c false l rest s
  | k + 1, s =>
    match locGet c false l 32 s with
    | .error e => .error e
    | .ok (s, x) =>
      match locGetLong c (l.plus 32) rest k s with
      | .error e => .error e
      | .ok (s, y) => .ok (s, x + 2 ^ 256 * y)
def locPutLong (c : Cmd) (l : Loc) (rest x : Nat) : Nat → State → Eng Unit
  | 0, s => if rest = 0 then .ok (s, ()) else locPut c false l rest x s
  | k + 1, s =>
    match locPut c false l 32 (x % 2 ^ 256) s with
    | .error e => .error e
    | .ok (s, _) => locPutLong c (l.plus 32) rest (x / 2 ^ 256) k s
/-- n bytes of any length. -/
def getBytes (c : Cmd) (l : Loc) (n : Nat) (s : State) : Eng Nat := locGetLong c l (n % 32) (n / 32) s
def putBytes (c : Cmd) (l : Loc) (n x : Nat) (s : State) : Eng Unit := locPutLong c l (n % 32) x (n / 32) s

/-- An element crossed to a destination type and written, or combined there by one atomic (R271). -/
def putElt (c : Cmd) (red : Nat) (t : Ty) (l : Loc) (x : Nat) (s : State) : Eng Unit :=
  let n := tyBytes t
  if red = 0 then locPut c (bitTy t) l n x s
  else match l with
    | .glb va =>
      if va % n ≠ 0 then .error (.stop 1 va)
      else engAtomic c (bitTy t) va n (redOp red) t x s
    | .sp o => .error (.stop 1 o)

/-! Items: what a command does, one item after the other; each answers the bytes it has written. -/

/-- Item i of a CPY: an element; a record; a scale byte. -/
def copyItem (c : Cmd) (op src dst : Nat) (org : List Word) (e0 e1 : Nat) (xpose : Bool) (i : Nat) (s : State) : Eng Nat :=
  let o (k : Nat) : Nat := orgAt org k
  match layRole src with
  | 0 =>
    let j0 := i % e0
    let j1 := i / e0
    let st := layTy src
    let dt := layTy dst
    (match locGet c (bitTy st) (layLoc src (eltOff src (o 0 + j0) (o 1 + j1) (o 2) (o 3))) (tyBytes st) s with
      | .error e => .error e
      | .ok (s, x) =>
        let d0 := o 4 + (if xpose then j1 else j0)
        let d1 := o 5 + (if xpose then j0 else j1)
        match putElt c op dt (layLoc dst (eltOff dst d0 d1 (o 6) (o 7))) (crossVal st dt x) s with
        | .error e => .error e
        | .ok (s, _) => .ok (s, tyBytes dt))
  | 1 =>
    let n := kSteps (o 0) e0
    let kb := i % n
    let rt := i / n
    let sz := recSize (layQ16 src) (layCap src)
    (match getBytes c (layLoc src (recOff src (o 0 / 64 + kb) (o 1 / 16 + rt) (o 2) (o 3))) sz s with
      | .error e => .error e
      | .ok (s, x) =>
        match putBytes c (layLoc dst (recOff dst (o 4 / 64 + kb) (o 5 / 16 + rt) (o 6) (o 7))) sz x s with
        | .error e => .error e
        | .ok (s, _) => .ok (s, sz))
  | _ =>
    let n := kSteps (o 0) e0
    let kb := i % n
    let j := i / n
    (match locGet c false (layLoc src (scaleOff src (o 0 / 64 + kb) ((o 1 + j) / 16) (o 2) (o 3) + (o 1 + j) % 16)) 1 s with
      | .error e => .error e
      | .ok (s, x) =>
        match locPut c false (layLoc dst (scaleOff dst (o 4 / 64 + kb) ((o 5 + j) / 16) (o 6) (o 7) + (o 5 + j) % 16)) 1 x s with
        | .error e => .error e
        | .ok (s, _) => .ok (s, 1))

/-- The index of a row of a command, read once (R284): its rank among colliding rows is free. -/
def rowIndex (c : Cmd) (row : Nat) (read : State → Eng Nat) (s : State) : Eng Nat :=
  match ((s.cmd? c.id).bind fun x => x.rows.find? fun e => e.1 == row) with
  | some e => .ok (s, e.2.1)
  | none =>
    match read s with
    | .error e => .error e
    | .ok (s, x) => .ok (s.modCmd c.id fun y =>
        { y with rows := (row, x, (Config.freeWord s.tick (2 ^ 46 + row)).toNat) :: y.rows }, x)

/-- Item i of a GSC: element j0 of row i (R284). -/
def gatherItem (c : Cmd) (op src dst idx : Nat) (i : Nat) (s : State) : Eng Nat :=
  let e0 := layDim src 0
  let row := i / e0
  let j0 := i % e0
  let st := layTy src
  let dt := layTy dst
  match rowIndex c row (locGet c false (layLoc idx (4 * row)) 4) s with
  | .error e => .error e
  | .ok (s, x) =>
    let other := if op = 0 then src else dst
    let pad := decide (1 < layRank other) && decide (layDim other 1 ≤ x)
    if pad && op != 0 then .ok (s, 0)
    else
      let val : Eng Nat := if pad then .ok (s, 0)
        else match locGet c (bitTy st) (layLoc src (eltOff src j0 (if op = 0 then x else row) 0 0)) (tyBytes st) s with
          | .error e => .error e
          | .ok (s, v) => .ok (s, crossVal st dt v)
      match val with
      | .error e => .error e
      | .ok (s, v) =>
        match putElt c (if op = 2 then 1 else 0) dt (layLoc dst (eltOff dst j0 (if op = 0 then row else x) 0 0)) v s with
        | .error e => .error e
        | .ok (s, _) => .ok (s, tyBytes dt)

/-- A list of reads, the first error ending it. -/
def readList (f : Nat → State → Eng Nat) : List Nat → State → Eng (List Nat)
  | [], s => .ok (s, [])
  | i :: is, s =>
    match f i s with
    | .error e => .error e
    | .ok (s, x) =>
      match readList f is s with
      | .error e => .error e
      | .ok (s, xs) => .ok (s, x :: xs)
/-- A list of writes. -/
def writeList (f : Nat → State → Eng Unit) : List Nat → State → Eng Unit
  | [], s => .ok (s, ())
  | i :: is, s =>
    match f i s with
    | .error e => .error e
    | .ok (s, _) => writeList f is s

/-- The tile of item i of a box in the order of FEED: K-block ascending, within it row-tile ascending (R285). -/
def tileOf (e1 i : Nat) : Nat × Nat := (i / (e1 / 16), i % (e1 / 16))

/-- FP32 bits of a plain element. -/
def widen (t : Ty) (x : Nat) : Nat := if t == .bf16 then x * 2 ^ 16 else x

/-- Item i of an ENC: a tile (R288). An overflow is an error of status 6 whose address is the number of candidates. -/
def encItem (c : Cmd) (src body scl : Nat) (org : List Word) (e0 e1 : Nat) (i : Nat) (s : State) : Eng Nat :=
  let o (k : Nat) : Nat := orgAt org k
  let k := tileOf e1 i
  let t := layTy src
  match readList (fun j s => match locGet c (bitTy t)
      (layLoc src (eltOff src (o 0 + 64 * k.1 + j % 64) (o 1 + 16 * k.2 + j / 64) (o 2) (o 3))) (tyBytes t) s with
      | .error e => .error e
      | .ok (s, x) => .ok (s, widen t x)) (List.range 1024) s with
  | .error e => .error e
  | .ok (s, xs) =>
    match encodeTile (layQ16 body) (layCap body) (laySpill body) (layTheta body) (laySuper body) xs with
    | .error n => .error (.stop 6 n)
    | .ok (r, bs) =>
      let sz := recSize (layQ16 body) (layCap body)
      let kb := o 4 / 64 + k.1
      let rt := o 5 / 16 + k.2
      let so := scaleOff scl kb rt (o 6) (o 7)
      match putBytes c (layLoc body (recOff body kb rt (o 6) (o 7))) sz r s with
      | .error e => .error e
      | .ok (s, _) =>
        match putBytes c (layLoc scl so) 16 bs s with
        | .error e => .error e
        | .ok (s, _) =>
          match writeList (fun o s => locPut c false (superLoc scl o) 4 (laySuper body) s)
              (if so / 256 = (so + 15) / 256 then [so] else [so, so + 15]) s with
          | .error e => .error e
          | .ok (s, _) => .ok (s, sz + 16 + 4)

/-- Item i of a DEC: a tile; a record or a superscale that fails its check is status 5 (R290). Its 1,024 element writes are
performed one by one (R270). -/
def decItem (c : Cmd) (bf16 : Bool) (body dst scl : Nat) (org : List Word) (e0 e1 : Nat) (i : Nat) (s : State) : Eng Nat :=
  let o (k : Nat) : Nat := orgAt org k
  let k := tileOf e1 i
  let kb := o 0 / 64 + k.1
  let rt := o 1 / 16 + k.2
  let q := layQ16 body
  let sz := recSize q (layCap body)
  let so := scaleOff scl kb rt (o 2) (o 3)
  let f := if bf16 then fmtBf16 else fmtF32
  let t : Ty := if bf16 then .bf16 else .f32
  match getBytes c (layLoc body (recOff body kb rt (o 2) (o 3))) sz s with
  | .error e => .error e
  | .ok (s, r) =>
    match getBytes c (layLoc scl so) 16 s with
    | .error e => .error e
    | .ok (s, bs) =>
      match readList (fun j s => locGet c false (superLoc scl (so + j)) 4 s) (List.range 16) s with
      | .error e => .error e
      | .ok (s, ss) =>
        if !(recordOk q (layCap body) r) || ss.any (fun x => !(goodSuper x)) then .error (.stop 5 0)
        else
          let val (j : Nat) : Nat := (f.write .rne false true (recVal q r j (fld bs (8 * (j / 64)) 8) (ss.getD (j / 64) 0))).1
          match writeList (fun j s => locPut c false
              (layLoc dst (eltOff dst (o 4 + 64 * k.1 + j % 64) (o 5 + 16 * k.2 + j / 64) (o 6) (o 7))) (tyBytes t) (val j) s)
              (List.range 1024) s with
          | .error e => .error e
          | .ok (s, _) => .ok (s, 1024 * tyBytes t)

/-! NMC (08 R210). -/

/-- The die of the engine that performs an NMC, the one of the stack that holds DST, joins TOUCHED_DIES (08 R210, 18 R385).
For a destination in the scratchpad the spec names no stack: no die joins (DESIGN CHOICE, log 100). -/
def touchStack (c : Cmd) (l : Loc) (s : State) : State :=
  match l, c.team with
  | .glb va, some t =>
    (match pageIn s c.part c.ctxRoot va with
      | some pg =>
        if isRemote pg.pa then s
        else s.modTeam t fun tm => { tm with touched := tm.touched ||| BitVec.ofNat 4 (2 ^ memDie pg.pa) }
      | none => s)
  | _, _ => s

/-- The physical address of a page of the list at SRC (R197); an error: the address of its entry. -/
def nmcPage (c : Cmd) (b page : Nat) (s : State) : Eng Nat :=
  let hdr := fld b 0 64
  let ea := (hdr + 64 + 8 * page) % 2 ^ 64
  match engRead c false hdr 4 s with
  | .error e => .error e
  | .ok (s, count) =>
    if count ≤ page then .error (.stop 1 ea)
    else match engRead c false ea 8 s with
      | .error e => .error e
      | .ok (s, e) => if bitOf e 0 then .ok (s, fld e 16 36 * 2 ^ 16) else .error (.stop 1 ea)
/-- A frame of a list, as a page that the command reads; none: it names no memory of the command's world (08 R172, 22 R407). -/
def framePage (s : State) (c : Cmd) (pa : Nat) : Option Page :=
  match resolve s c.part pa with
  | none => none
  | some a =>
    if isDev a || (!(isRemote a) && granuleWorld s a != c.world) then none
    else some { pa := a, alt := a, w := false, x := false, syso := false, cache := 0, cls := 0, shadow := none, secure := c.world,
                cpl := none }
/-- 32 bytes of a page of the list, at an offset: what stands between the command and the frame is met (18 R382 to R388). -/
def nmcRead (c : Cmd) (b page off : Nat) (s : State) : Eng Nat :=
  match nmcPage c b page s with
  | .error e => .error e
  | .ok (s, pa) =>
    match framePage s c (pa + off) with
    | none => .error (.stop 1 (pa + off))
    | some pg =>
      match engReach c [] [(pg, 32)] (observe c.observer [(pg.pa, 32)] s) with
      | .error e => .error e
      | .ok s => .ok (s, physRead s c.part pg.pa 32)

/-- Item i of an NMC command. -/
def nmcItem (c : Cmd) (op b i : Nat) (s : State) : Eng Nat :=
  let d := nmcDst b
  let n := nmcSize op b
  let s := touchStack c (d.plus (n * i)) s
  let put (words : Bool) (x : Nat) (s : State) : Eng Nat := match locPut c words (d.plus (n * i)) n x s with
    | .error e => .error e
    | .ok (s, _) => .ok (s, n)
  match op with
  | 0 =>
    let per := fld b 384 32 / 32
    (match rowIndex c (i / per) (engRead c false ((fld b 256 64 + 4 * (i / per)) % 2 ^ 64) 4) s with
      | .error e => .error e
      | .ok (s, page) =>
        match nmcRead c b page (fld b 352 32 + 32 * (i % per)) s with
        | .error e => .error e
        | .ok (s, x) => put false x s)
  | 1 =>
    (match engRead c false ((fld b 0 64 + 32 * i) % 2 ^ 64) 32 s with
      | .error e => .error e
      | .ok (s, x) => put false x s)
  | 2 =>
    let st := nmcS b
    (match engRead c (bitTy st) ((fld b 0 64 + tyBytes st * i) % 2 ^ 64) (tyBytes st) s with
      | .error e => .error e
      | .ok (s, x) => put (bitTy (nmcD b)) (cvtBytes st (nmcD b) x) s)
  | _ =>
    let t := nmcD b
    (match engRead c (bitTy t) ((fld b 0 64 + n * i) % 2 ^ 64) n s with
      | .error e => .error e
      | .ok (s, x) =>
        let op := redOp (fld b 202 4 + 1)
        match (match d.plus (n * i) with
          | .glb va => engAtomic c (bitTy t) va n op t x s
          | .sp o => spAtomic c o n op t x s) with
        | .error e => .error e
        | .ok (s, _) => .ok (s, n))

/-! FORK (17 R368). -/

/-- The frames of the source entries that are valid. -/
def forkFrames (c : Cmd) (src count : Nat) (s : State) : Eng (List Nat) :=
  match readList (fun n s => engRead c false ((src + 64 + 8 * n) % 2 ^ 64) 8 s) (List.range count) s with
  | .error e => .error e
  | .ok (s, es) => .ok (s, es.filterMap fun e => if bitOf e 0 then some (fld e 16 36) else none)
/-- A count would pass 65,535. -/
def forkOver (s : State) (fs : List Nat) : Bool :=
  fs.any fun f => decide (65535 < (s.frames.get f).toNat + (fs.filter fun g => g == f).length)

/-- The part keeps the header of a list that FORK has made, for CANCEL (17 R369). -/
def noteList (c : Cmd) (dst : Nat) (s : State) : State :=
  match engPieces c true false dst 4 s with
  | .ok ((pg, _) :: _) => s.modPart c.part fun p => { p with lists := if p.lists.contains pg.pa then p.lists else p.lists ++ [pg.pa] }
  | _ => s

/-- Item i of a FORK: the check of every count; an entry; the header. -/
def forkItem (c : Cmd) (src dst count i : Nat) (s : State) : Eng Nat :=
  if i = 0 then
    match forkFrames c src count s with
    | .error e => .error e
    | .ok (s, fs) => if forkOver s fs then .error (.stop 5 0) else .ok (s, 0)
  else if i ≤ count then
    match engRead c false ((src + 64 + 8 * (i - 1)) % 2 ^ 64) 8 s with
    | .error e => .error e
    | .ok (s, e) =>
      let f := fld e 16 36
      match engWrite c false ((dst + 64 + 8 * (i - 1)) % 2 ^ 64) 8 e s with
      | .error e => .error e
      | .ok (s, _) =>
        if bitOf e 0 then
          let s := performStores (fun q => q.overlaps (f * 2 ^ 16) (2 ^ 16)) (flushHeld (f * 2 ^ 16) (2 ^ 16) s)
          .ok ({ s with frames := s.frames.set f (s.frames.get f + 1) }, 8)
        else .ok (s, 8)
  else
    match engWrite c false dst 4 count s with
    | .error e => .error e
    | .ok (s, _) =>
      let lin := match c.team with
        | some t => (s.launchOf t).lineage.toNat
        | none => 0
      match engWrite c false ((dst + 8) % 2 ^ 64) 8 lin s with
      | .error e => .error e
      | .ok (s, _) =>
        match engWrite c false ((dst + 16) % 2 ^ 64) 4 0 s with
        | .error e => .error e
        | .ok (s, _) => .ok (noteList c dst s, 16)

/-! Copy packets (Table 13.7). -/

def packetItem (c : Cmd) (b i : Nat) (s : State) : Eng Nat :=
  let n := fld b 192 32
  let st := pktS b
  let dt := pktD b
  match engRead c (bitTy st) ((fld b 64 64 + (i / n) * fld b 256 64 + (i % n) * tyBytes st) % 2 ^ 64) (tyBytes st) s with
  | .error e => .error e
  | .ok (s, x) =>
    match putElt c (fld b 18 4) dt (.glb ((fld b 128 64 + (i / n) * fld b 320 64 + (i % n) * tyBytes dt) % 2 ^ 64))
        (crossVal st dt x) s with
    | .error e => .error e
    | .ok (s, _) => .ok (s, tyBytes dt)

/-! Chunks. -/

/-- Item i of a command: its reads, and the checks of its writes; FEED and COLL have steps of their own. -/
def runItem (c : Cmd) (i : Nat) (s : State) : Eng Nat :=
  let c := { c with item := i }
  match c.kind with
  | .copy op src dst org e0 e1 x => copyItem c op src.toNat dst.toNat org e0 e1 x i s
  | .gather op src dst idx => gatherItem c op src.toNat dst.toNat idx.toNat i s
  | .enc src body scl org e0 e1 => encItem c src.toNat body.toNat scl.toNat org e0 e1 i s
  | .dec b body dst scl org e0 e1 => decItem c b body.toNat dst.toNat scl.toNat org e0 e1 i s
  | .nmc op blk => nmcItem c op blk.toNat i s
  | .fork src dst n => forkItem c src.toNat dst.toNat n i s
  | .packet blk => packetItem c blk.toNat i s
  | .feed _ _ _ _ _ | .coll _ _ _ _ => .ok (s, 0)

/-- The items of a chunk. -/
def chunkItems (k : CmdKind) (chunk : Nat) : List Nat :=
  let x := itemCount k
  (List.range (min x.2 (x.1 - chunk * x.2))).map (chunk * x.2 + ·)

/-- Some items in order; the bytes that they write. -/
def runItems (c : Cmd) : List Nat → Nat → State → Eng Nat
  | [], n, s => .ok (s, n)
  | i :: is, n, s =>
    match runItem c i s with
    | .error e => .error e
    | .ok (s, m) => runItems c is (n + m) s

/-- Whether a command can be performed further: it runs, no fault stalls it, its team is resident. -/
def cmdRuns (s : State) (c : Cmd) : Bool :=
  c.status.isNone && c.fault.isNone && c.ending.isNone && (match c.team with
    | some t => (s.team t).phase == .resident || (s.team t).phase == .saved
    | none => true)

/-! Completion (R269). -/

/-- The result port of a command. -/
def cmdPort (k : CmdKind) : Nat := match k with
  | .nmc _ _ => 1
  | _ => 0

/-- A port entry is delivered where there is room; the command is complete then (11 R243). -/
def deliverCmd (n : Nat) (s : State) : State :=
  match s.cmd? n with
  | none => s
  | some c =>
    match c.team, c.port, c.status with
    | some t, some (p, tag), some st =>
      if portRoom (s.team t) p then
        wakeTokens t ((deliverPort t p (portEntry tag st.toNat) s).modCmd n fun c => { c with signalled := true })
      else s
    | some t, none, some _ => wakeTokens t (s.modCmd n fun c => { c with signalled := true })
    | _, _, _ => s

/-- The completion record of a copy packet (R273, R274). -/
def packetRecord (c : Cmd) (n blk st : Nat) (s : State) : State :=
  let slot := completionSlot (fld blk 32 32) st 1 0 0 0 0 0 0
  putRecord { part := c.part, ring := BitVec.ofNat 64 (fld blk 384 64), phys := false, slots := [slot],
              signal := BitVec.ofNat 64 (fld blk 448 64), cmd := some n, world := c.world } s

/-- The scope for which a command's writes are performed at its completion: its own; a packet's record is a release at .sys
(10 Table 10.2, R274). -/
def endScope (c : Cmd) : Scope :=
  match c.kind with
  | .packet blk => if fld blk.toNat 384 64 = 0 then c.scope else .sys
  | _ => c.scope
/-- A command's waiting writes are performed for the threads of a scope. -/
def releaseCmd (n : Nat) (sc : Scope) (s : State) : State := release (fun q => q.eng == some n) sc s

/-- Bytes performed count on the barrier (11 R237), for whose waits they are performed (10 Table 10.2). -/
def countBytes (n : Nat) (c : Cmd) (k : Nat) (s : State) : State :=
  match c.team, c.bar with
  | some t, some b =>
    if k = 0 then s
    -- a saved team's barriers are in its save area: the bytes count when it is back
    else if (s.team t).phase == .saved then s.modTeam t fun tm => { tm with lateBytes := tm.lateBytes ++ [(b, k)] }
    else barBytes t b k c.ctr (releaseCmd n c.scope s)
  | _, _ => s

/-- A chunk whose writes have all been performed is done, and its bytes count (R269, 11 R237). -/
def chunkDone (n chunk : Nat) (s : State) : State :=
  match s.cmd? n with
  | none => s
  | some c =>
    if decide (c.sizes.length ≤ chunk) || c.doneChunks.contains chunk || c.held.any (fun h => chunkOf c.kind h.item == chunk) then s
    else countBytes n c (c.sizes.getD chunk 0) (s.modCmd n fun c => { c with doneChunks := c.doneChunks ++ [chunk] })
/-- Every chunk whose checks have passed is performed; what stands beyond it is not (R269). -/
def settleChunks (n : Nat) (s : State) : State :=
  match s.cmd? n with
  | none => s
  | some c =>
    let s := (performSome performOne n (fun h => c.passed h.item) s).modCmd n fun c => { c with held := [], early := [], rows := [] }
    (List.range c.sizes.length).foldl (fun s k => chunkDone n k s) s

/-- A command ends with a status: its writes are performed, and this is signalled. -/
def endCommand (n : Nat) (st : Byte) (s : State) : State :=
  let s := (settleChunks n s).modCmd n fun c => { c with status := some st, fault := none, ending := none }
  match s.cmd? n with
  | none => s
  | some c =>
    let s := releaseCmd n (endScope c) s
    match c.kind with
    | .packet blk => packetRecord c n blk.toNat st.toNat s
    | _ => deliverCmd n s

/-- What stops a chunk: a failing check stalls the command there; a peer that has not answered for 100 µs ends it with
status 4 (22 R412), and a link that wakes lets it try again (18 R386); anything else ends it with its status. -/
def chunkError (n chunk : Nat) (c : Cmd) (h : Halt) (s : State) : State :=
  match h with
  | .stop st a =>
    if st = 1 then s.modCmd n fun c => { c with fault := some (chunk, BitVec.ofNat 64 a) }
    else if st = 6 then
      endCommand n 6 (s.modCmd n fun c => { c with info0 := BitVec.ofNat 32 chunk, info1 := BitVec.ofNat 32 a, tiles := chunk })
    else endCommand n st s
  | .data e m => endCommand n 3 (logErrs c.part (lidCmd s c) [e] (touchDies c m s))
  | .lost m => endCommand n 4 (touchDies c m s)
  | .silent _ =>
    (match c.since with
      | none => s.modCmd n fun c => { c with since := some (now s) }
      | some t => if t + 100000 ≤ now s then endCommand n 4 s else s)
  | .retry => s

/-- The first chunk whose checks have not passed: its items read their sources and pass the checks, all of them; what fails
one of them stops the command (08 R184, 13 R269). -/
def passChunk (n : Nat) (c : Cmd) (s : State) : State :=
  let k := c.sizes.length
  let mine (i : Nat) : Bool := chunkOf c.kind i == k
  let done := c.early.filter fun e => mine e.1
  match runItems c ((chunkItems c.kind k).filter fun i => !(done.any fun e => e.1 == i)) 0 s with
  | .error h => chunkError n k c h s
  | .ok (s, m) => s.modCmd n fun c =>
      { c with sizes := c.sizes ++ [done.foldl (fun a e => a + e.2) m], since := none, early := c.early.filter fun e => !(mine e.1) }
/-- Items of a later chunk that read their sources before their turn (10 R217): those of a free choice that nothing stops;
their writes are held. -/
def readEarly (n chunk : Nat) (s : State) : State :=
  match s.cmd? n with
  | none => s
  | some c =>
    let x := (itemCount c.kind).2
    ((chunkItems c.kind chunk).filter fun i =>
        !(c.early.any fun e => e.1 == i) && Config.freeBit s.tick (2 ^ 47 + i % x)).foldl (fun s i =>
      match runItem c i s with
      | .ok (s, m) => s.modCmd n fun c => { c with early := c.early ++ [(i, m)] }
      | .error _ => s) s
/-- A free choice of the writes of a chunk whose checks have passed is performed, in no order (13 R270; log 27); with the
last of them the chunk is done. -/
def performChunk (n chunk : Nat) (s : State) : State :=
  match s.cmd? n with
  | none => s
  | some c =>
    if c.sizes.length ≤ chunk then s
    else
      let x := (itemCount c.kind).2
      chunkDone n chunk (performSome performOne n (fun h =>
        chunkOf c.kind h.item == chunk && Config.freeBit s.tick (2 ^ 45 + 2 * (h.item % x) + b2n h.sp)) s)

/-- A step on one chunk of a command. -/
def chunkStep (n chunk : Nat) (s : State) : State :=
  match s.cmd? n with
  | none => s
  | some c =>
    if c.status.isSome || c.chunks ≤ chunk then s
    else if chunk < c.sizes.length then performChunk n chunk s
    else if !(cmdRuns s c) then s
    else if chunk = c.sizes.length then performChunk n chunk (passChunk n c s)
    else if stepwise c.kind then s
    else readEarly n chunk s

/-- The command's own kind of step. -/
def isFeed : CmdKind → Bool
  | .feed _ _ _ _ _ => true
  | _ => false
def isColl : CmdKind → Bool
  | .coll _ _ _ _ => true
  | _ => false

/-- ENGINE_CHUNK_PERFORMED. -/
def execEngineChunkPerformed (cmd chunk : Nat) (s : State) : Res :=
  match s.cmd? cmd with
  | some c => if isFeed c.kind || isColl c.kind then .next s else .next (chunkStep cmd chunk s)
  | none => .next s

/-- ENGINE_FAULT_RESUME: the fault has been serviced, or the command ends with status 1 (R184). -/
def execEngineFaultResume (cmd : Nat) (serviced : Bool) (s : State) : Res :=
  match s.cmd? cmd with
  | some c =>
    if c.fault.isNone then .next s
    else if serviced then .next (s.modCmd cmd fun c => { c with fault := none })
    else .next (endCommand cmd 1 s)
  | none => .next s

/-- ENGINE_COMMAND_COMPLETE: every chunk has been performed (a COLL completes in its own steps). -/
def execEngineCommandComplete (cmd : Nat) (s : State) : Res :=
  match s.cmd? cmd with
  | some c =>
    if cmdRuns s c && !(isColl c.kind) && decide (c.doneChunks.length = c.chunks) then .next (endCommand cmd 0 s) else .next s
  | none => .next s

/-- PORT_ENTRY_DELIVER: an entry that a full buffer held back enters it (11 R243). -/
def execPortEntryDeliver (t port : Nat) (s : State) : Res :=
  if port = 2 then
    match (List.range s.launches.length).find? fun n => match (s.launch n).port with
        | some (u, _) => u == t && (doneStatus (s.launch n)).isSome && !(s.records.any fun r => r.launch == some n)
        | none => false with
    | some n => .next (deliverChild n s)
    | none => .next s
  else
    match (List.range s.cmds.length).find? fun n => match s.cmd? n with
        | some c => c.team == some t && c.status.isSome && !c.signalled && (match c.port with
          | some (p, _) => p == port
          | none => false)
        | none => false with
    | some n => .next (deliverCmd n s)
    | none => .next s

/-! Issue (R263, R267, R268, R244). -/

/-- The outstanding commands of a core's local copy engine: one whose port entry a full buffer holds back has not completed
(11 R243). -/
def coreCommands (s : State) (t : Nat) : Nat :=
  (s.cmds.filter fun c => !c.signalled && c.core == some ((s.team t).die, (s.team t).core) && (match c.kind with
    | .copy _ _ _ _ _ _ _ | .gather _ _ _ _ | .feed _ _ _ _ _ | .enc _ _ _ _ _ _ | .dec _ _ _ _ _ _ _ => true
    | _ => false)).length

/-- A command of the issuing group, at a scope. -/
def newCmd (c : Ctx) (sc : Scope) (k : CmdKind) (bar : Option Nat) (port : Option (Nat × BitVec 16)) (s : State) : Cmd :=
  let l := s.launchOf c.t
  let tm := s.team c.t
  { part := l.part, team := some c.t, group := c.g, kind := k, bar := bar, port := port, die := tm.die,
    core := some (tm.die, tm.core), id := s.cmds.length, scope := sc, world := l.world, sup := l.sys, ctxRoot := l.ctxRoot,
    root := rootOf l.lineage, issued := now s, chunks := chunkCount k,
    ctr := (s.grp c.t c.g).ctr }

/-- The token wait, then the start of the command, a release of the group's stores at its scope (10 Table 10.2); the token
names the command. `local_`: it takes a place of the local copy engine. -/
def startCommand (c : Ctx) (k : Nat) (local_ : Bool) (cmd : Cmd) (s : State) : Act :=
  let g := s.grp c.t c.g
  let m := BitVec.ofNat 16 (2 ^ k)
  if outstanding s g m then .stall
  else match tokenTrap c.pc (tokenErrors s g m) with
    | some tr => .trap (emptyTokens c.t c.g m s) { tr with lanes := c.E } 0
    | none =>
      if local_ && decide (64 ≤ coreCommands s c.t) then .stall
      else
        let s := releaseGroup c.t c.g cmd.scope s
        let n := s.cmds.length
        .adv ({ s with cmds := s.cmds ++ [cmd] }.modGrp c.t c.g fun gr => gr.setToken k (.names n))

/-- BAR and the port of EXT64 (Table 13.3). -/
def tokUse (k : BitVec 4) : List Use := [.tk k.toNat, .wt k.toNat]
def extBar (e : EngExt) : Option Nat := if e.baren then some e.bar.toNat else none
def extPort (e : EngExt) : Option (Nat × BitVec 16) := if e.port then some (0, e.tag) else none
/-- E0, E1: a stored 0 means 65,536 (R265). -/
def extent (x : BitVec 16) : Nat := if x = 0 then 65536 else x.toNat
/-- The origin block s(n) to s(n+7). -/
def origin (g : Group) (n : Nat) : List Word := (List.range 8).map fun k => g.s.get (n + k)

/-- What the issue checks of R268 come to: FMT; PERM of a slot and a dimension; ILL of a barrier. -/
inductive Issue where
  | fmt
  | perm (slot dim : Nat)
  deriving DecidableEq, Repr

/-- A box in a tensor (R268 step 3): the first dimension it breaks. -/
def boxBad (r slot o0 o1 o2 o3 e0 e1 : Nat) : Option Issue :=
  let rank := layRank r
  if layDim r 0 < o0 + e0 then some (.perm slot 0)
  else if 1 < rank && layDim r 1 < o1 + e1 then some (.perm slot 1)
  else if 2 < rank && layDim r 2 ≤ o2 then some (.perm slot 2)
  else if 3 < rank && layDim r 3 ≤ o3 then some (.perm slot 3)
  else none
/-- The end of a box in the window, past its last byte: strides are never negative, so the last element ends it. -/
def boxEnd (r o0 o1 o2 o3 e0 e1 : Nat) : Nat :=
  layBase r + (match layRole r with
    | 0 => eltOff r (o0 + e0 - 1) (o1 + e1 - 1) o2 o3 + tyBytes (layTy r)
    | 1 => recOff r ((o0 + e0 - 1) / 64) ((o1 + e1 - 1) / 16) o2 o3 + recSize (layQ16 r) (layCap r)
    | _ => scaleOff r ((o0 + e0 - 1) / 64) ((o1 + e1 - 1) / 16) o2 o3 + 16)
/-- A scratchpad box outside the team's window. R268 names slot and dimension for the DIM checks only; here TRAP_INFO0 is the
slot and TRAP_INFO1 is 0 (DESIGN CHOICE, log 134). -/
def windowBad (size r slot o0 o1 o2 o3 e0 e1 : Nat) : Option Issue :=
  if laySp r && decide (size < boxEnd r o0 o1 o2 o3 e0 e1) then some (.perm slot 0) else none

/-- The first of some checks that fails. -/
def firstBad : List (Option Issue) → Option Issue
  | [] => none
  | some x :: _ => some x
  | none :: r => firstBad r
/-- A form that must hold, else FMT. -/
def need (b : Bool) : Option Issue := if b then none else some .fmt

/-- Both boxes of a command: in the dimensions, in the window. -/
def boxes (size src ss dst ds : Nat) (org : List Word) (e0 e1 : Nat) (xpose : Bool) : List (Option Issue) :=
  let o (k : Nat) : Nat := orgAt org k
  let d0 := if xpose then e1 else e0
  let d1 := if xpose then e0 else e1
  [boxBad src ss (o 0) (o 1) (o 2) (o 3) e0 e1, boxBad dst ds (o 4) (o 5) (o 6) (o 7) d0 d1,
   windowBad size src ss (o 0) (o 1) (o 2) (o 3) e0 e1, windowBad size dst ds (o 4) (o 5) (o 6) (o 7) d0 d1]

/-- The trap of a failing check, then ILL of the barrier, then the start. -/
def issueChecked (c : Ctx) (k : Nat) (local_ : Bool) (bad : Option Issue) (cmd : Cmd) (s : State) : Act :=
  match bad with
  | some .fmt => c.trap s 0x0D c.E
  | some (.perm slot dim) => c.trap s 0x07 c.E (BitVec.ofNat 32 slot) (BitVec.ofNat 32 dim)
  | none =>
    match cmd.bar with
    | some b => if (s.launchOf c.t).bars ≤ b then outside c s b 1 else startCommand c k local_ cmd s
    | none => startCommand c k local_ cmd s

/-- The registers of an origin block, and the token. -/
def engUse (k : BitVec 4) (n : BitVec 6) : List Use := [.rd (.s n) 8, .tk k.toNat, .wt k.toNat]

/-! CPY (R283). -/

def cpyChecks (op src ss dst ds size : Nat) (org : List Word) (e0 e1 : Nat) (xpose : Bool) : Option Issue :=
  firstBad ([need (layOk src), need (layOk dst),
    need (layRole src == layRole dst && crossOk (layTy src) (layTy dst)),
    need (layRole src != 1 || (layQ16 src == layQ16 dst && layCap src == layCap dst)),
    need (!xpose || layRole src == 0),
    need (op == 0 || (layRole src == 0 && redOk op (layTy dst) && !(laySp dst)))] ++
    boxes size src ss dst ds org e0 e1 xpose)

def cpyAct (op : Nat) (sc : Scope) (k : BitVec 4) (a b : BitVec 5) (org : BitVec 6) (e : EngExt) (c : Ctx) (s : State) : Act :=
  let g := s.grp c.t c.g
  let tm := s.team c.t
  match tm.slot a.toNat, tm.slot b.toNat with
  | some src, some dst =>
    let o := origin g org.toNat
    issueChecked c k.toNat true
      (cpyChecks op src.toNat a.toNat dst.toNat b.toNat (s.launchOf c.t).scratchBytes o (extent e.e0) (extent e.e1) e.xpose)
      (newCmd c sc (.copy op src dst o (extent e.e0) (extent e.e1) e.xpose) (extBar e) (extPort e) s) s
  | _, _ => c.trap s 0x0D c.E

def cpyForm (h : Hdr) (size op : Nat) (sc : Scope) (k : BitVec 4) (a b : BitVec 5) (org : BitVec 6) (e : EngExt) (s : State) : Res :=
  simt h size (engUse k org) noPriv (cpyAct op sc k a b org e) s

def execCpy (h : Hdr) (sc : Scope) (k : BitVec 4) (a b : BitVec 5) (org : BitVec 6) (e : EngExt) (s : State) : Res :=
  cpyForm h (Instr.size (.cpy h sc k a b org e)) 0 sc k a b org e s
def execCpyAdd (h : Hdr) (sc : Scope) (k : BitVec 4) (a b : BitVec 5) (org : BitVec 6) (e : EngExt) (s : State) : Res :=
  cpyForm h (Instr.size (.cpyAdd h sc k a b org e)) 1 sc k a b org e s
def execCpyMin (h : Hdr) (sc : Scope) (k : BitVec 4) (a b : BitVec 5) (org : BitVec 6) (e : EngExt) (s : State) : Res :=
  cpyForm h (Instr.size (.cpyMin h sc k a b org e)) 2 sc k a b org e s
def execCpyMax (h : Hdr) (sc : Scope) (k : BitVec 4) (a b : BitVec 5) (org : BitVec 6) (e : EngExt) (s : State) : Res :=
  cpyForm h (Instr.size (.cpyMax h sc k a b org e)) 3 sc k a b org e s
def execCpyAnd (h : Hdr) (sc : Scope) (k : BitVec 4) (a b : BitVec 5) (org : BitVec 6) (e : EngExt) (s : State) : Res :=
  cpyForm h (Instr.size (.cpyAnd h sc k a b org e)) 4 sc k a b org e s
def execCpyOr (h : Hdr) (sc : Scope) (k : BitVec 4) (a b : BitVec 5) (org : BitVec 6) (e : EngExt) (s : State) : Res :=
  cpyForm h (Instr.size (.cpyOr h sc k a b org e)) 5 sc k a b org e s

/-! GSC (R284). -/

def gscChecks (op src ss dst ds idx xs size : Nat) : Option Issue :=
  let rows := layDim idx 0
  let e0 := layDim src 0
  -- the rows of the side that is not indexed, and the window of both
  let side (r slot : Nat) : Option Issue := if 1 < layRank r && layDim r 1 < rows then some (.perm slot 1) else none
  let win (r slot n : Nat) : Option Issue :=
    if e0 = 0 || n = 0 then none else windowBad size r slot 0 0 0 0 e0 n
  firstBad [need (layRole src == 0 && layRole dst == 0 && crossOk (layTy src) (layTy dst)),
    need (layRole idx == 0 && layTy idx == .n32 && layRank idx == 1 && decide (1 ≤ rows) && decide (rows ≤ 65536)),
    need (layDim src 0 == layDim dst 0),
    need (op != 2 || (redOk 1 (layTy dst) && !(laySp dst))),
    if op = 0 then side dst ds else side src ss,
    win src ss (if op = 0 then layDim src 1 else rows), win dst ds (if op = 0 then rows else layDim dst 1),
    if laySp idx && decide (size < layBase idx + 4 * rows) then some (.perm xs 0) else none]

def gscAct (op : Nat) (sc : Scope) (k : BitVec 4) (a b : BitVec 5) (e : EngExt) (c : Ctx) (s : State) : Act :=
  let tm := s.team c.t
  match tm.slot a.toNat, tm.slot b.toNat, tm.slot e.aux.toNat with
  | some src, some dst, some idx =>
    issueChecked c k.toNat true
      (gscChecks op src.toNat a.toNat dst.toNat b.toNat idx.toNat e.aux.toNat (s.launchOf c.t).scratchBytes)
      (newCmd c sc (.gather op src dst idx) (extBar e) (extPort e) s) s
  | _, _, _ => c.trap s 0x0D c.E

def execGscG (h : Hdr) (sc : Scope) (k : BitVec 4) (a b : BitVec 5) (e : EngExt) (s : State) : Res :=
  simt h (Instr.size (.gscG h sc k a b e)) (tokUse k) noPriv (gscAct 0 sc k a b e) s
def execGscS (h : Hdr) (sc : Scope) (k : BitVec 4) (a b : BitVec 5) (e : EngExt) (s : State) : Res :=
  simt h (Instr.size (.gscS h sc k a b e)) (tokUse k) noPriv (gscAct 1 sc k a b e) s
def execGscSadd (h : Hdr) (sc : Scope) (k : BitVec 4) (a b : BitVec 5) (e : EngExt) (s : State) : Res :=
  simt h (Instr.size (.gscSadd h sc k a b e)) (tokUse k) noPriv (gscAct 2 sc k a b e) s

/-! ENC, DEC (R288, R290). -/

/-- Whole tiles: E0 and origins along dimension 0 multiples of 64, E1 and those along dimension 1 of 16. -/
def tileBox (org : List Word) (e0 e1 : Nat) : Bool :=
  let o (k : Nat) : Nat := orgAt org k
  e0 % 64 == 0 && o 0 % 64 == 0 && o 4 % 64 == 0 && e1 % 16 == 0 && o 1 % 16 == 0 && o 5 % 16 == 0

/-- The box of the scale tensor that AUX names, in its dimensions and in the window (log 112). -/
def scaleBox (size scl xs : Nat) (org : List Word) (e0 e1 : Nat) : List (Option Issue) :=
  let o (k : Nat) : Nat := orgAt org k
  [boxBad scl xs (o 0) (o 1) (o 2) (o 3) e0 e1, windowBad size scl xs (o 0) (o 1) (o 2) (o 3) e0 e1]

def encChecks (src ss body bs scl xs size : Nat) (org : List Word) (e0 e1 : Nat) : Option Issue :=
  firstBad ([need (layRole src == 0 && (layTy src == .bf16 || layTy src == .f32)),
    need (layRole body == 1 && layOk body), need (layRole scl == 2 && layOk scl), need (tileBox org e0 e1),
    need (!(badParams (layTheta body) (laySuper body)))] ++ boxes size src ss body bs org e0 e1 false ++
    scaleBox size scl xs (org.drop 4) e0 e1)

def encAct (sc : Scope) (k : BitVec 4) (a b : BitVec 5) (org : BitVec 6) (e : EngExt) (c : Ctx) (s : State) : Act :=
  let g := s.grp c.t c.g
  let tm := s.team c.t
  match tm.slot a.toNat, tm.slot b.toNat, tm.slot e.aux.toNat with
  | some src, some body, some scl =>
    let o := origin g org.toNat
    issueChecked c k.toNat true
      (encChecks src.toNat a.toNat body.toNat b.toNat scl.toNat e.aux.toNat (s.launchOf c.t).scratchBytes o (extent e.e0)
        (extent e.e1))
      (newCmd c sc (.enc src body scl o (extent e.e0) (extent e.e1)) (extBar e) (extPort e) s) s
  | _, _, _ => c.trap s 0x0D c.E

def execEnc (h : Hdr) (sc : Scope) (k : BitVec 4) (a b : BitVec 5) (org : BitVec 6) (e : EngExt) (s : State) : Res :=
  simt h (Instr.size (.enc h sc k a b org e)) (engUse k org) noPriv (encAct sc k a b org e) s

def decChecks (bf16 : Bool) (body bs dst ds scl xs size : Nat) (org : List Word) (e0 e1 : Nat) : Option Issue :=
  firstBad ([need (layRole body == 1 && layOk body),
    need (layRole dst == 0 && layTy dst == (if bf16 then .bf16 else .f32)),
    need (layRole scl == 2 && layOk scl), need (tileBox org e0 e1)] ++ boxes size body bs dst ds org e0 e1 false ++
    scaleBox size scl xs org e0 e1)

def decAct (bf16 : Bool) (sc : Scope) (k : BitVec 4) (a b : BitVec 5) (org : BitVec 6) (e : EngExt) (c : Ctx) (s : State) : Act :=
  let g := s.grp c.t c.g
  let tm := s.team c.t
  match tm.slot a.toNat, tm.slot b.toNat, tm.slot e.aux.toNat with
  | some body, some dst, some scl =>
    let o := origin g org.toNat
    issueChecked c k.toNat true
      (decChecks bf16 body.toNat a.toNat dst.toNat b.toNat scl.toNat e.aux.toNat (s.launchOf c.t).scratchBytes o
        (extent e.e0) (extent e.e1))
      (newCmd c sc (.dec bf16 body dst scl o (extent e.e0) (extent e.e1)) (extBar e) (extPort e) s) s
  | _, _, _ => c.trap s 0x0D c.E

def execDecF32 (h : Hdr) (sc : Scope) (k : BitVec 4) (a b : BitVec 5) (org : BitVec 6) (e : EngExt) (s : State) : Res :=
  simt h (Instr.size (.decF32 h sc k a b org e)) (engUse k org) noPriv (decAct false sc k a b org e) s
def execDecBf16 (h : Hdr) (sc : Scope) (k : BitVec 4) (a b : BitVec 5) (org : BitVec 6) (e : EngExt) (s : State) : Res :=
  simt h (Instr.size (.decBf16 h sc k a b org e)) (engUse k org) noPriv (decAct true sc k a b org e) s

/-! Blocks in memory, read by the issuing group. -/

/-- The traps of a failed access of the group. -/
def badTrap (c : Ctx) (b : Bad) (s : State) : Act :=
  .trap (if b.ofPeer then dropExpired c.t c.g s else s) { code := b.code, pc := c.pc, lanes := c.E, i0 := b.i0, i1 := b.i1, i2 := b.i2 } 0
/-- 32-byte pieces of a block, read as ordinary loads. -/
def blockPieces (c : Ctx) (va : Nat) : Nat → State → State × Except Bad Nat
  | 0, s => (s, .ok 0)
  | n + 1, s =>
    match laneAccess c.t c.g .read false [] va 32
        (fun ps s => beforeLoad c.t c.g c.E .ordinary ps (observe (.lanes c.t c.g c.E) (spansOf ps) s)) s with
    | (s, some b) => (s, .error b)
    | (s, none) =>
      match checkAccess s (whoGroup s c.t c.g) .read false va 32 with
      | .error (code, a) => (s, .error (badAt code .read a))
      | .ok ps =>
        let x := readPieces s (s.launchOf c.t).part ps
        match blockPieces c ((va + 32) % 2 ^ 64) n s with
        | (s, .ok y) => (s, .ok (x + 2 ^ 256 * y))
        | e => e
/-- A block of 32 n bytes at an address, read once for the group. -/
def blockAct (c : Ctx) (va n : Nat) (f : Nat → State → Act) (s : State) : Act :=
  match gateLanes c .read false 32 ((List.range n).map fun i => (va + 32 * i) % 2 ^ 64) s with
  | some a => a
  | none =>
    match blockPieces c va n s with
    | (s, .error b) => badTrap c b s
    | (s, .ok x) => f x s

/-! NMC (08 R210). -/

/-- The command accepts the types, the operation, the lengths. .red takes one type: STYPE unlike DTYPE is FMT (DESIGN CHOICE,
log 108). R210 admits .x128 with R81, which defines its sum alone, and does not speak of its minimum and maximum: FMT
(DESIGN CHOICE, log 133). -/
def nmcForm (op b : Nat) : Bool :=
  match op with
  | 0 => decide (1 ≤ fld b 320 32) && decide (fld b 320 32 ≤ 4096) && fld b 384 32 % 32 == 0 &&
      decide (fld b 352 32 + fld b 384 32 ≤ 65536)
  | 1 => fld b 128 64 % 32 == 0
  | 2 => (nmcTy b 192).isSome && (nmcTy b 197).isSome && cvtTy (nmcS b) && cvtTy (nmcD b) &&
      !(intTy (nmcS b) && intTy (nmcD b))
  | _ => (nmcTy b 197).isSome && fld b 192 5 == fld b 197 5 && decide (fld b 202 4 ≤ 2) &&
      (nmcD b == .i32 || nmcD b == .n32 || nmcD b == .f32 || (nmcD b == .x128 && fld b 202 4 == 0))

def nmcAct (op : Nat) (sc : Scope) (k : BitVec 4) (a : BitVec 6) (c : Ctx) (s : State) : Act :=
  let va := regGet (s.grp c.t c.g) (.s a) 0 2
  if va % 64 ≠ 0 then c.trap s 0x01 c.E
  else blockAct c va 2 (fun b s =>
    let size := (s.launchOf c.t).scratchBytes
    let fin := fld b 64 32 + nmcItems op b * nmcSize op b
    if fld b 206 18 != 0 || fld b 233 23 != 0 || fld b 416 96 != 0 then c.trap s 0x01 c.E
    else if bitOf b 127 && decide (size < fin) then c.trap s 0x07 c.E (BitVec.ofNat 32 (max (fld b 64 32) size))
    else if !(nmcForm op b) then c.trap s 0x0D c.E
    else
      let bar := if bitOf b 232 then some (fld b 224 8) else none
      issueChecked c k.toNat false none (newCmd c sc (.nmc op (BitVec.ofNat 512 b)) bar none s) s) s

def execNmcGather (h : Hdr) (sc : Scope) (k : BitVec 4) (a : BitVec 6) (s : State) : Res :=
  simt h (Instr.size (.nmcGather h sc k a)) [.rd (.s a) 2, .tk k.toNat, .wt k.toNat] noPriv (nmcAct 0 sc k a) s
def execNmcCopy (h : Hdr) (sc : Scope) (k : BitVec 4) (a : BitVec 6) (s : State) : Res :=
  simt h (Instr.size (.nmcCopy h sc k a)) [.rd (.s a) 2, .tk k.toNat, .wt k.toNat] noPriv (nmcAct 1 sc k a) s
def execNmcCvt (h : Hdr) (sc : Scope) (k : BitVec 4) (a : BitVec 6) (s : State) : Res :=
  simt h (Instr.size (.nmcCvt h sc k a)) [.rd (.s a) 2, .tk k.toNat, .wt k.toNat] noPriv (nmcAct 2 sc k a) s
def execNmcRed (h : Hdr) (sc : Scope) (k : BitVec 4) (a : BitVec 6) (s : State) : Res :=
  simt h (Instr.size (.nmcRed h sc k a)) [.rd (.s a) 2, .tk k.toNat, .wt k.toNat] noPriv (nmcAct 3 sc k a) s

/-! FORK (17 R368). -/

def forkAct (k : BitVec 4) (a b : BitVec 6) (c : Ctx) (s : State) : Act :=
  let g := s.grp c.t c.g
  let src := regGet g (.s a) 0 2
  let dst := regGet g (.s b) 0 2
  let misaligned (va : Nat) : Act := c.trap s 0x04 c.E (BitVec.ofNat 32 va) (BitVec.ofNat 32 (va / 2 ^ 32)) 0
  if src % 64 ≠ 0 then misaligned src
  else if dst % 64 ≠ 0 then misaligned dst
  else blockAct c src 2 (fun x s => blockAct c dst 2 (fun y s =>
    if fld x 160 352 != 0 || fld y 160 352 != 0 then c.trap s 0x0D c.E
    else if fld y 32 32 < fld x 0 32 then c.trap s 0x0D c.E
    else startCommand c k.toNat false
      { newCmd c .dev (.fork (BitVec.ofNat 64 src) (BitVec.ofNat 64 dst) (fld x 0 32)) none none s with prompt := true } s) s) s

def execFork (h : Hdr) (k : BitVec 4) (a b : BitVec 6) (s : State) : Res :=
  simt h (Instr.size (.fork h k a b)) [.rd (.s a) 2, .rd (.s b) 2, .tk k.toNat, .wt k.toNat] noPriv (forkAct k a b) s

/-! Copy packets (R272, R273). -/

/-- A reserved KIND, code or bit, an element count of 0, or a pair or reduction that R266 and R271 reject. R273 gives status
5 for a reserved KIND or bit; that COUNT 0, ROWS 0, a code out of range and a rejected pair or reduction complete so too is
the model's choice (DESIGN CHOICE, log 135). -/
def packetIll (b : Nat) : Bool :=
  fld b 0 8 != 1 || fld b 25 7 != 0 || decide (5 < fld b 22 3) || decide (5 < fld b 18 4) ||
  (tyOf (BitVec.ofNat 5 (fld b 8 5))).isNone || (tyOf (BitVec.ofNat 5 (fld b 13 5))).isNone ||
  fld b 192 32 == 0 || fld b 224 32 == 0 || !(crossOk (pktS b) (pktD b)) || (fld b 18 4 != 0 && !(redOk (fld b 18 4) (pktD b)))

/-- What a queue's next slot is (R273): its descriptor's fields, the slot's address; none: no slot is claimed, or an
access fails. -/
def queueHead (s : State) (p : Nat) (q : QueueReg) (size : Nat) : Option (Nat × Nat) :=
  let w := whoPart p q.world q.sys
  match partRead s w q.desc.toNat 64 with
  | none => none
  | some d =>
    let r := fld d 192 64
    if fld d 128 64 = r then none else some (r, (fld d 0 64 + size * (r % 2 ^ fld d 64 5)) % 2 ^ 64)
/-- What the part meets as it looks at a queue: the descriptor, and the next slot. -/
def queueSee (p : Nat) (q : QueueReg) (size : Nat) (s : State) : State :=
  let w := whoPart p q.world q.sys
  let s := partSee w q.desc.toNat 64 s
  match queueHead s p q size with
  | some x => partSee w x.2 size s
  | none => s
/-- KIND := 0 and RIDX advances; none: one of the two accesses fails its checks. -/
def queueAdvance (p : Nat) (q : QueueReg) (r slot : Nat) (s : State) : Option State :=
  let w := whoPart p q.world q.sys
  (partWrite w q.root.toNat slot 1 0 s).bind
    (partWrite w q.root.toNat (q.desc.toNat + 24) 8 ((r + 1) % 2 ^ 64))

/-- COPY_PACKET_START: the next packet of copy queue q of partition p. It waits while an access of the queue fails its
checks (08 R184). -/
def execCopyPacketStart (p qi : Nat) (s : State) : Res :=
  match (s.part p).queues[qi]? with
  | none => .next s
  | some q =>
    let s := queueSee p q 64 s
    if (match partRead s (whoPart p q.world q.sys) q.desc.toNat 16 with
        | some d => bitOf d 69
        | none => true) then .next s
    else match queueHead s p q 64 with
      | none => .next s
      | some (r, slot) =>
        match partRead s (whoPart p q.world q.sys) slot 64 with
        | none => .next s
        | some b =>
          if fld b 0 8 = 0 then .next s
          else
            let n := s.cmds.length
            let bad := packetIll b
            let k : CmdKind := .packet (BitVec.ofNat 512 b)
            let cmd : Cmd := { part := p, team := none, group := 0, kind := k, id := n, die := (partDies (s.part p)).headD 0,
                               scope := (Codec.scopeOf (BitVec.ofNat 3 (fld b 22 3))).getD .dev, world := q.world,
                               sup := q.sys, root := q.root.toNat, issued := now s,
                               chunks := if bad then 0 else chunkCount k }
            match queueAdvance p q r slot { s with cmds := s.cmds ++ [cmd] } with
            | none => .next s
            | some s => .next (if bad then endCommand n 5 s else s)

end Sys2Proof.Machine
end

