-- ==== Sys2Proof/Machine/Coll.lean ====
section
/-! DEFINITION. Collectives (13 R275 to R282, R287). A member's receive buffer is cut into chunks of CHUNK elements; chunk
c lies in stream c mod S, and the chunks of a stream become final in order. Members of this part run as commands of
this machine; what an outside member sends is an argument of the step (log 16). -/

set_option linter.unusedVariables false

namespace Sys2Proof.Machine

open Codec (tyOf)

/-! The parameter block (Table 13.10). -/

def blkOp (b : Nat) : Nat := fld b 0 4
def blkRop (b : Nat) : Nat := fld b 4 4
def blkTy (b : Nat) : Ty := (tyOf (BitVec.ofNat 5 (fld b 8 5))).getD .n8
def blkStreams (b : Nat) : Nat := fld b 32 7
def blkSend (b : Nat) : Nat := fld b 64 64
def blkRecv (b : Nat) : Nat := fld b 128 64
def blkCount (b : Nat) : Nat := fld b 192 64
def blkChunk (b : Nat) : Nat := fld b 256 32
def blkRoot (b : Nat) : Nat := fld b 288 32
def blkProgress (b : Nat) : Nat := fld b 320 64
def blkCword (b : Nat) : Nat := fld b 384 64
def blkTag (b : Nat) : Nat := fld b 458 16
/-- The size of an element: a byte of a record-gather. -/
def blkSize (b : Nat) : Nat := if blkOp b = 5 then 1 else tyBytes (blkTy b)
/-- OP, ROP, TYPE, ALG, ORDERED, GROUP, STREAMS, COUNT, CHUNK, ROOT: what members must agree in (R276). -/
def blkAgree (b : Nat) : Nat × Nat × Nat × Nat := (fld b 0 39, blkCount b, blkChunk b, blkRoot b)

/-- A reserved code or bit, and the forms that R276, R279 and Table 13.10 shut out: a CHUNK of 0, a PROGRESS that is not at a
multiple of 64 and a record-gather's COUNT that is not one are FMT at issue too (DESIGN CHOICE, log 127). -/
def blkBad (b : Nat) : Bool :=
  decide (5 < blkOp b) || blkStreams b == 0 || decide (64 < blkStreams b) || fld b 39 25 != 0 || fld b 474 550 != 0 ||
  decide (0x11 < fld b 8 5) || (blkOp b == 5 && (fld b 8 5 != 0 || blkCount b % 64 != 0)) ||
  (decide (blkOp b < 2) && decide (4 < blkRop b)) || (fld b 13 2 == 3 && bitOf b 15) || blkChunk b == 0 ||
  blkProgress b % 64 != 0
/-- ROOT names no rank, where it is used (R287). -/
def rootBad (b n : Nat) : Bool :=
  (blkOp b == 3 || (blkOp b == 5 && blkRoot b != 0xFFFFFFFF)) && decide (n ≤ blkRoot b)

/-! Members. -/

/-- Command c is a COLL of a rank of a group of a partition. -/
def collMember (p id r : Nat) (c : Cmd) : Bool :=
  match c.kind with
  | .coll _ _ g q => c.part == p && g == id && q == r
  | _ => false
/-- A collective of a group has ended with an error in some member (R281): no member joins it any more. -/
def instClosed (s : State) (p id k : Nat) : Bool :=
  s.cmds.any fun c => (match c.kind with
    | .coll _ _ g _ => c.part == p && g == id
    | _ => false) && c.inst == k && c.status.isSome && c.status != some 0
/-- Which collective the next COLL of a rank belongs to: the first after the rank's own that no member has seen fail, so
that a member re-admitted for a failed one resumes with the others (R282, log 113). -/
def nextInst (s : State) (p id r : Nat) : Nat :=
  let own := (s.cmds.filter (collMember p id r)).foldl (fun a c => max a (c.inst + 1)) 0
  ((List.range (s.cmds.length + 1)).map (own + ·)).find? (fun k => !(instClosed s p id k)) |>.getD own

/-! Issue (R287). -/

def collAct (resume : Bool) (k : BitVec 4) (a : BitVec 6) (c : Ctx) (s : State) : Act :=
  let va := regGet (s.grp c.t c.g) (.s a) 0 2
  if va % 128 ≠ 0 then c.trap s 0x04 c.E (BitVec.ofNat 32 va) (BitVec.ofNat 32 (va / 2 ^ 32)) 0
  else blockAct c va 4 (fun b s =>
    let l := s.launchOf c.t
    let id : BitVec 16 := BitVec.ofNat 16 (fld b 16 16)
    if blkBad b then c.trap s 0x0D c.E
    else match collOf s l.part id with
      | none => c.trap s 0x01 c.E (id.setWidth 32)
      | some g =>
        match rankOf g l.lid with
        | none => c.trap s 0x01 c.E (id.setWidth 32)
        | some r =>
          if rootBad b g.members.length then c.trap s 0x0D c.E (BitVec.ofNat 32 (blkRoot b))
          else
            let bar := if bitOf b 456 then some (fld b 448 8) else none
            let port := if bitOf b 457 then some (0, BitVec.ofNat 16 (blkTag b)) else none
            issueChecked c k.toNat false none
              { newCmd c g.scope (.coll resume (BitVec.ofNat 1024 b) id.toNat r) bar port s with
                inst := nextInst s l.part id.toNat r, prompt := true } s) s

def execCollStart (h : Hdr) (k : BitVec 4) (a : BitVec 6) (s : State) : Res :=
  simt h (Instr.size (.collStart h k a)) [.rd (.s a) 2, .tk k.toNat, .wt k.toNat] noPriv (collAct false k a) s
def execCollResume (h : Hdr) (k : BitVec 4) (a : BitVec 6) (s : State) : Res :=
  simt h (Instr.size (.collResume h k a)) [.rd (.s a) 2, .tk k.toNat, .wt k.toNat] noPriv (collAct true k a) s

def blkOf (c : Cmd) : Nat :=
  match c.kind with
  | .coll _ b _ _ => b.toNat
  | _ => 0
def isResume (c : Cmd) : Bool :=
  match c.kind with
  | .coll r _ _ _ => r
  | _ => false

/-- The ranks of a group that lie on this part. -/
def localRanks (g : CollGroup) : List Nat :=
  (List.range g.members.length).filter fun r => fld ((g.members.getD r 0).toNat) 32 21 == ownNumber
/-- The commands of a collective's members on this part: rank and command; none: some member has not issued it. -/
def collPeers (s : State) (p : Nat) (g : CollGroup) (k : Nat) : Option (List (Nat × Nat)) :=
  (localRanks g).mapM fun r => (s.cmds.findIdx? fun c => collMember p g.id.toNat r c && c.inst == k).map fun n => (r, n)

/-! Chunks. -/

/-- The elements of a member's receive buffer (Table 13.11). -/
def recvElts (b n r : Nat) : Nat :=
  match blkOp b with
  | 0 | 1 | 3 => blkCount b
  | 2 | 4 => n * blkCount b
  | _ => if blkRoot b = 0xFFFFFFFF || blkRoot b = r then n * blkCount b else 0
/-- The elements of a member's send buffer. -/
def sendElts (b n r : Nat) : Nat :=
  match blkOp b with
  | 1 | 4 => n * blkCount b
  | 3 => if blkRoot b = r then blkCount b else 0
  | _ => blkCount b
def recvChunks (b n r : Nat) : Nat := ceilDiv (recvElts b n r) (blkChunk b)
/-- Every stream has no chunk left. -/
def streamsDone (b n r : Nat) (prog : List Nat) : Bool :=
  (List.range (blkStreams b)).all fun i => decide (recvChunks b n r ≤ prog.getD i 0 * blkStreams b + i)

/-- Where element e of the receive buffer of rank r comes from: ranks, with the element of their send buffers. -/
def sources (b n r e : Nat) : List (Nat × Nat) :=
  let k := blkCount b
  match blkOp b with
  | 0 => (List.range n).map fun q => (q, e)
  | 1 => (List.range n).map fun q => (q, r * k + e)
  | 3 => [(blkRoot b, e)]
  | 4 => [(e / k, r * k + e % k)]
  | _ => [(e / k, e % k)]

/-- The tree of R279: neighbours combine level by level; `fuel` bounds the levels. -/
def foldPairs (f : Nat → Nat → Nat) : List Nat → List Nat
  | a :: b :: r => f a b :: foldPairs f r
  | l => l
def foldTree (f : Nat → Nat → Nat) : Nat → List Nat → Nat
  | 0, l => l.headD 0
  | n + 1, l => if l.length ≤ 1 then l.headD 0 else foldTree f n (foldPairs f l)
/-- Any order: two operands are chosen freely and combined, until one is left (log 16). -/
def foldFree (f : Nat → Nat → Nat) (tick key : Nat) : Nat → List Nat → Nat
  | 0, l => l.headD 0
  | n + 1, l =>
    if l.length ≤ 1 then l.headD 0
    else
      let i := (Config.freeWord tick (key + 2 * n)).toNat % l.length
      let a := l.getD i 0
      let l := l.eraseIdx i
      let j := (Config.freeWord tick (key + 2 * n + 1)).toNat % l.length
      foldFree f tick key n (f a (l.getD j 0) :: l.eraseIdx j)
/-- The combination of the values of one element, in rank order (R279). -/
def combine (b tick key : Nat) (xs : List Nat) : Nat :=
  let f (x y : Nat) : Nat := (atomVal (redOp (blkRop b + 1)) (blkTy b) x y).1
  if bitOf b 15 then
    if fld b 13 2 = 1 then foldTree f xs.length xs
    else (match xs with
      | [] => 0
      | x :: r => r.foldl f x)
  else foldFree f tick (2 ^ 54 + 2 * xs.length * key) xs.length xs

/-- An error of a collective names the command whose access fails. -/
abbrev CollEng (α : Type) := Except (Nat × Halt) (State × α)
def byCmd {α : Type} (n : Nat) (e : Eng α) : CollEng α :=
  match e with
  | .ok x => .ok x
  | .error h => .error (n, h)

/-- One operand: a member of this part reads its send buffer, and has sent it by its completion; one that ended with an
error sends no more; an outside member's bytes are given, from the chunk's first element on. -/
def readOperand (peers : List (Nat × Nat)) (contrib : List (List Byte)) (size first e : Nat) (x : Nat × Nat) (s : State) :
    CollEng Nat :=
  match kGet peers x.1 with
  | some n =>
    (match s.cmd? n with
      | some c =>
        if c.status == some 0 then .ok (s, leNat ((c.sent.drop (size * x.2)).take size))
        else if c.status.isSome then .error (n, .retry)
        else byCmd n (engRead c false ((blkSend (blkOf c) + size * x.2) % 2 ^ 64) size s)
      | none => .ok (s, 0))
  | none => .ok (s, leNat (((contrib.getD x.1 []).drop (size * (e - first))).take size))

def readOperands (peers : List (Nat × Nat)) (contrib : List (List Byte)) (size first e : Nat) :
    List (Nat × Nat) → State → CollEng (List Nat)
  | [], s => .ok (s, [])
  | x :: xs, s =>
    match readOperand peers contrib size first e x s with
    | .error err => .error err
    | .ok (s, v) =>
      match readOperands peers contrib size first e xs s with
      | .error err => .error err
      | .ok (s, vs) => .ok (s, v :: vs)

/-- Element e of the receive buffer is formed and written. -/
def runElement (cmd : Nat) (c : Cmd) (peers : List (Nat × Nat)) (contrib : List (List Byte)) (b n r first e : Nat) (s : State) :
    CollEng Unit :=
  let size := blkSize b
  match readOperands peers contrib size first e (sources b n r e) s with
  | .error err => .error err
  | .ok (s, vs) =>
    byCmd cmd (engWrite c false ((blkRecv b + size * e) % 2 ^ 64) size
      (if blkOp b < 2 then combine b s.tick e vs else vs.headD 0) s)
/-- An element has been performed. -/
def noteElement (cmd e size : Nat) (s : State) : State := s.modCmd cmd fun c => { c with early := c.early ++ [(e, size)] }
/-- Some elements of a chunk, up to the first that is stopped. -/
def runElements (cmd : Nat) (c : Cmd) (peers : List (Nat × Nat)) (contrib : List (List Byte)) (b n r first : Nat) :
    List Nat → State → State × Option (Nat × Halt)
  | [], s => (s, none)
  | e :: es, s =>
    match runElement cmd c peers contrib b n r first e s with
    | .error err => (s, some err)
    | .ok (s, _) => runElements cmd c peers contrib b n r first es (noteElement cmd e (blkSize b) s)

/-- The elements of a chunk. -/
def chunkElts (b n r chunk : Nat) : List Nat :=
  (List.range (min (blkChunk b) (recvElts b n r - chunk * blkChunk b))).map (chunk * blkChunk b + ·)
/-- The elements of a chunk that are still to be performed. -/
def eltsLeft (c : Cmd) (es : List Nat) : List Nat := es.filter fun e => !(c.early.any fun x => x.1 == e)
/-- The progress word of a chunk's stream, written after the chunk's writes (R280); then the chunk is final, and its bytes
count (11 R237). -/
def finalChunk (n chunk bytes : Nat) (c : Cmd) (s : State) : CollEng Unit :=
  let b := blkOf c
  let i := chunk % blkStreams b
  match byCmd n (engWrite c false ((blkProgress b + 4 * i) % 2 ^ 64) 4 (c.prog.getD i 0 + 1) s) with
  | .error e => .error e
  | .ok (s, _) =>
    .ok (countBytes n c bytes (s.modCmd n fun c =>
      { c with prog := c.prog.set i (c.prog.getD i 0 + 1), doneChunks := c.doneChunks ++ [chunk], waitFor := none, since := none,
               early := c.early.filter fun x => x.1 / blkChunk b != chunk }), ())

/-! The end. -/

/-- The progress vector as words. -/
def vectorBytes (v : List Nat) : Nat := pack ((List.range 64).map fun i => (32, v.getD i 0))
def readVector (x : Nat) : List Nat := (List.range 64).map fun i => fld x (32 * i) 32

/-- The last writes: the agreed or undefined vector of a collective that failed (R281), then CWORD (R287). -/
def lastWrites (c : Cmd) (st : Byte) (s : State) : Eng Unit :=
  let b := blkOf c
  let cword (s : State) : Eng Unit :=
    if blkCword b = 0 then .ok (s, ()) else engWrite c false (blkCword b) 8 (st.toNat * 2 ^ 32 + blkTag b) s
  if st = 7 || st = 8 then
    match putBytes c (.glb (blkProgress b)) 256 (vectorBytes c.prog) s with
    | .error e => .error e
    | .ok (s, _) => cword s
  else cword s

/-- The end with a status; while a last write faults the status waits (08 R184). -/
def finishColl (n : Nat) (st : Byte) (s : State) : State :=
  match s.cmd? n with
  | none => s
  | some c =>
    match lastWrites c st s with
    | .ok (s, _) => endCommand n st s
    | .error (.stop e a) =>
      if e = 1 then s.modCmd n fun c => { c with ending := some st, fault := some (0, BitVec.ofNat 64 a) }
      else endCommand n e s
    | .error h => chunkError n 0 c h (s.modCmd n fun c => { c with ending := some st })

/-- .start writes 64 zero words; .resume reads the vector (R280, R282). -/
def beginColl (n : Nat) (c : Cmd) (s : State) : Except Halt State :=
  let l : Loc := .glb (blkProgress (blkOf c))
  if isResume c then
    match getBytes c l 256 s with
    | .error e => .error e
    | .ok (s, x) => .ok (s.modCmd n fun c => { c with begun := true, prog := readVector x })
  else
    match putBytes c l 256 0 s with
    | .error e => .error e
    | .ok (s, _) => .ok (s.modCmd n fun c => { c with begun := true, prog := List.replicate 64 0 })

/-- A member has everything that it receives. -/
def memberDone (s : State) (size : Nat) (x : Nat × Nat) : Bool :=
  match s.cmd? x.2 with
  | some c => c.status.isSome || (c.begun && streamsDone (blkOf c) size x.1 c.prog)
  | none => true

/-- A member whose receive buffer and vector are final completes (R287). What other members still need of its send buffer
has left it by then: software may write the buffer again (R276, log 67). -/
def finishMember (n r : Nat) (peers : List (Nat × Nat)) (size : Nat) (s : State) : State :=
  match s.cmd? n with
  | none => s
  | some c =>
    if c.ending.isSome || c.fault.isSome || !(memberDone s size (r, n)) then s
    else if peers.all (memberDone s size) then finishColl n 0 s
    else
      let len := blkSize (blkOf c) * sendElts (blkOf c) size r
      match getBytes c (.glb (blkSend (blkOf c))) len s with
      | .error h => chunkError n 0 c h s
      | .ok (s, x) => finishColl n 0 (s.modCmd n fun c => { c with sent := bytesOf len x })

/-- The members disagree in their blocks (R276): on this part, or, as one free bit of the collective decides, with one
outside. -/
def disagree (g : CollGroup) (peers : List (Nat × Nat)) (s : State) : Bool :=
  let bs := peers.filterMap fun x => (s.cmd? x.2).map fun c => blkAgree (blkOf c)
  (bs.any fun b => b != bs.headD b) ||
    (decide (peers.length < g.members.length) &&
      Config.freeBit (peers.foldl (fun a x => min a x.2) s.cmds.length) (2 ^ 55))

/-- Member n waits for a chunk of another member (R281): since now, where it did not wait for it before. -/
def waitsFor (n m : Nat) (s : State) : State :=
  if n = m then s
  else s.modCmd n fun c => match c.waitFor with
    | some (k, t) => if k = m then c else { c with waitFor := some (m, now s) }
    | none => { c with waitFor := some (m, now s) }

/-- A step on the next chunk of a stream of member n: a free choice of the elements left is performed, in no order (R217); with
the last of them the chunk becomes final. -/
def collChunk (n chunk : Nat) (contrib : List (List Byte)) (size r : Nat) (peers : List (Nat × Nat)) (c : Cmd) (s : State) : State :=
  let b := blkOf c
  let es := chunkElts b size r chunk
  let stopped (m : Nat) (h : Halt) (s : State) : State := match s.cmd? m with
    | some x => waitsFor n m (if x.status.isSome then s else chunkError m chunk x h s)
    | none => s
  match runElements n c peers contrib b size r (chunk * blkChunk b)
      ((eltsLeft c es).filter fun e => Config.freeBit s.tick (2 ^ 47 + e % blkChunk b)) s with
  | (s, some (m, h)) => stopped m h s
  | (s, none) =>
    match s.cmd? n with
    | none => s
    | some c =>
      if !(eltsLeft c es).isEmpty then s
      else match finalChunk n chunk (es.length * blkSize b) c s with
        | .error (m, h) => stopped m h s
        | .ok (s, _) => finishMember n r peers size s

/-- The next step of member n: its begin, elements of a chunk, or its last writes. -/
def collStep (n chunk : Nat) (contrib : List (List Byte)) (g : CollGroup) (r : Nat) (peers : List (Nat × Nat)) (c : Cmd)
    (s : State) : State :=
  let size := g.members.length
  let b := blkOf c
  let endAll (st : Byte) (s : State) : State := peers.foldl (fun s x => match s.cmd? x.2 with
    | some c => if c.status.isNone then finishColl x.2 st s else s
    | none => s) s
  if disagree g peers s then endAll 5 s
  else if decide (blkOp b < 2) && !(redOk (blkRop b + 1) (blkTy b)) then finishColl n 5 s
  else
    match (if c.begun then Except.ok s else beginColl n c s) with
    | .error h => chunkError n 0 c h s
    | .ok s =>
      match s.cmd? n with
      | none => s
      | some c =>
        if decide (recvChunks b size r ≤ chunk) || c.prog.getD (chunk % blkStreams b) 0 != chunk / blkStreams b then
          finishMember n r peers size s
        else collChunk n chunk contrib size r peers c s

/-- COLL_CHUNK_FINAL. -/
def execCollChunkFinal (cmd chunk : Nat) (contrib : List (List Byte)) (s : State) : Res :=
  match s.cmd? cmd with
  | some c => (match c.kind with
    | .coll _ _ id r =>
      if c.status.isSome || c.fault.isSome then .next s
      else (match c.ending with
        | some st => .next (finishColl cmd st (s.modCmd cmd fun c => { c with ending := none }))
        | none =>
          match collOf s c.part (BitVec.ofNat 16 id) with
          | none => .next s
          | some g =>
            match collPeers s c.part g c.inst with
            | none => .next s
            | some peers => if cmdRuns s c then .next (collStep cmd chunk contrib g r peers c s) else .next s)
    | _ => .next s)
  | none => .next s

/-! Failure (R281). -/

/-- The unfinished members on this part of one of a group's collectives. -/
def openColls (s : State) (p : Nat) (g : CollGroup) (k : Nat) : List Nat :=
  (List.range s.cmds.length).filter fun n => match s.cmd? n with
    | some c => c.status.isNone && c.ending.isNone && c.inst == k && (match c.kind with
        | .coll _ _ x _ => c.part == p && x == g.id.toNat
        | _ => false)
    | none => false

/-- The vector of a member: as it stands in the command, or zeros, or as a .resume finds it. -/
def memberVector (s : State) (c : Cmd) : List Nat :=
  if c.begun then c.prog
  else if isResume c then
    match getBytes c (.glb (blkProgress (blkOf c))) 256 s with
    | .ok (_, x) => readVector x
    | .error _ => []
  else []
/-- Word by word the least. -/
def minVector (vs : List (List Nat)) : List Nat :=
  (List.range 64).map fun i => match vs with
    | [] => 0
    | v :: r => r.foldl (fun a v => min a (v.getD i 0)) (v.getD i 0)

/-- DEADLINE has passed since the first issue of a collective that some member of this part has not issued (R281). -/
def memberLate (s : State) (p : Nat) (g : CollGroup) (c : Cmd) : Bool :=
  let first := (s.cmds.filter fun x => x.inst == c.inst && x.part == p && (match x.kind with
    | .coll _ _ y _ => y == g.id.toNat
    | _ => false)).foldl (fun a x => min a x.issued) c.issued
  (collPeers s p g c.inst).isNone && decide (g.deadline.toNat * 1000 ≤ now s - first)
/-- The members' commands that others have waited for longer than DEADLINE: they are declared failed. -/
def lateSenders (s : State) (g : CollGroup) (cs : List Cmd) : List Nat :=
  cs.filterMap fun c => match c.waitFor with
    | some (m, t) => if g.deadline.toNat * 1000 ≤ now s - t then some m else none
    | none => none

/-- Which unfinished members of a collective survive, and whether some member of it has failed: one outside, as the event says;
one that others have waited for, or that has not issued it in time; one whose grid is lost. -/
def collSurvivors (s : State) (p : Nat) (g : CollGroup) (k : Nat) : List Nat × Bool :=
  let opens := openColls s p g k
  let failed := lateSenders s g (opens.filterMap s.cmd?)
  let lostRank (c : Cmd) : Bool := match c.kind with
    | .coll _ _ _ r => memberLost s p (g.members.getD r 0)
    | _ => false
  let ns := opens.filter fun n => !(failed.contains n) && (match s.cmd? n with
    | some c => !(lostRank c)
    | none => false)
  (ns, !opens.isEmpty && (decide ((localRanks g).length < g.members.length) || !failed.isEmpty ||
    (ns.filterMap s.cmd?).any (memberLate s p g) || g.members.any (memberLost s p)))

/-- Members end with a vector and a status. -/
def endColls (st : Byte) (v : Nat → List Nat) (ns : List Nat) (s : State) : State :=
  ns.foldl (fun s n => finishColl n st (s.modCmd n fun c => { c with fault := none, begun := true, prog := v n })) s

/-- COLL_MEMBER_FAILURE: a member of group id failed or missed DEADLINE, in the oldest collective of which this holds (R281).
`others`: the vectors of the survivors outside the part; `agreed`: the agreement succeeds. The survivors on this part end with
the minimum over the survivors; without agreement, and where nobody survives, the vector is undefined: free words. -/
def execCollMemberFailure (p : Nat) (id : BitVec 16) (others : List (List Word)) (agreed : Bool) (s : State) : Res :=
  match collOf s p id with
  | none => .next s
  | some g =>
    match (List.range s.cmds.length).find? fun k => (collSurvivors s p g k).2 with
    | none => .next s
    | some k =>
      let ns := (collSurvivors s p g k).1
      let undefined (n : Nat) : List Nat := (List.range 64).map fun i => (Config.freeWord s.tick (2 ^ 53 + 64 * n + i)).toNat
      let away := decide ((localRanks g).length < g.members.length)
      if ns.isEmpty then
        if (away && agreed) || instClosed s p id.toNat k then .next s else .next (endColls 7 undefined (openColls s p g k) s)
      else if agreed then
        let least := minVector ((ns.filterMap s.cmd?).map (memberVector s) ++ others.map fun v => v.map fun w => w.toNat)
        .next (endColls 8 (fun _ => least) ns s)
      else .next (endColls 7 undefined ns s)

end Sys2Proof.Machine
end

