-- ==== Sys2Proof/Machine/Counters.lean ====
section
/-! DEFINITION. Probabilistic counters (16): addresses (R335), the increment test and its chain of draws (R336, R337),
estimates (R338), merges (R339), the six instructions (R341 to R347), their order under a replay (R340, 17 R364). -/

set_option linter.unusedVariables false

namespace Sys2Proof.Machine

/-! Levels (R336 to R339). -/

/-- T[j] (Table 16.2). -/
def thresholds : List Nat :=
  [0x100000000, 0xEAC0C6E7, 0xD744FCCA, 0xC5672A11, 0xB504F333, 0xA5FED6A9, 0x9837F051, 0x8B95C1E3]
/-- INC(ℓ, dr) under base exponent m. -/
def incPasses (m l dr : Nat) : Bool := decide (dr < thresholds.getD (l % 2 ^ m * 2 ^ (3 - m)) 0 / 2 ^ (l / 2 ^ m))
/-- The next draw of a chain. -/
def nextDraw (dr : Nat) : Nat := mix32 ((dr + 0x9E3779B9) % 2 ^ 32)

/-- n tests on a level: the level, whether one found it saturated (R343). -/
def runTests (w m : Nat) : Nat → Nat → Nat → Bool → Nat × Bool
  | 0, l, _, sat => (l, sat)
  | n + 1, l, dr, sat =>
    if l = 2 ^ w - 1 then runTests w m n l (nextDraw dr) true
    else runTests w m n (if incPasses m l dr then l + 1 else l) (nextDraw dr) sat

/-- Steps i on of MERGE (R339). -/
def mergeSteps (w m : Nat) : Nat → Nat → Nat → Nat → Bool → Nat × Bool
  | 0, _, cur, _, sat => (cur, sat)
  | n + 1, i, cur, dr, sat =>
    if cur = 2 ^ w - 1 then mergeSteps w m n (i + 1) cur (nextDraw dr) true
    else mergeSteps w m n (i + 1) (if incPasses m (cur - i) dr then cur + 1 else cur) (nextDraw dr) sat
def mergeLevels (w m r y dr : Nat) : Nat × Bool := mergeSteps w m (min r y) 0 (max r y) dr false

/-- a in fixed point with 400 fraction bits: a square root of 2, taken m times. -/
def ctrBaseFx : Nat → Nat
  | 0 => 2 ^ 401
  | m + 1 => isqrtBits (ctrBaseFx m * 2 ^ 400) 402 0
/-- a^f. -/
def ctrPowFx (m : Nat) : Nat → Nat
  | 0 => 2 ^ 400
  | f + 1 => ctrPowFx m f * ctrBaseFx m / 2 ^ 400
/-- The sum of a^i for i below ℓ, in fixed point: the powers of one residue sum to a^f (2^n − 1). -/
def estimateFx (m l : Nat) : Nat :=
  (List.range (2 ^ m)).foldl (fun a f => a + ctrPowFx m f * (2 ^ ceilDiv (l - f) (2 ^ m) - 1)) 0
/-- The estimate of a level as FP32 (R338, R344): exact for m = 0 and for ℓ ≤ 1, else irrational. -/
def estimate (m l : Nat) : Nat × Flags :=
  if m = 0 || l ≤ 1 then fmtF32.write .rne false true (.fin false (2 ^ l - 1) 0)
  else roundIrr .rne false false (estimateFx m l) 0

/-! Requests (R334, R335, R340). -/

/-- CTR_BASE as a request carries it: the width w and m. -/
def ctrWidth (b : Word) : Nat := if b.getLsbD 0 then 8 else 4
def ctrExp (b : Word) : Nat := fld b.toNat 1 2

/-- Where a lane's counter lies: base + disp, its number. -/
def ctrPlace (g : Group) (a : Addr) (l : Nat) : Nat × Nat :=
  let base : Int := regGet g a.base l 2
  match a.form with
  | .plain => (wrap 64 base, 0)
  | .disp d => (wrap 64 (base + sgn 32 d.toNat), 0)
  | .full d none => (wrap 64 (base + sgn 32 d.toNat), 0)
  | .full d (some (r, _)) => (wrap 64 (base + sgn 32 d.toNat), regGet g r l 1)
/-- The address of its word, and its lowest bit there. -/
def ctrWord (w : Nat) (x : Nat × Nat) : Nat := (x.1 + 4 * (x.2 * w / 32)) % 2 ^ 64
def ctrBit (w : Nat) (x : Nat × Nat) : Nat := w * (x.2 % (32 / w))

/-- What the entries of a slice, and of the team there, are in a trace (Table 17.8). -/
def sliceOf (s : State) (p pa : Nat) : Option Nat := (homeDie (s.part p) pa).map fun _ => homeSlice (partDies (s.part p)).length pa
def runOwn (slice : Nat) (e : BitVec 128) : Bool := entCore e == slice
def runMine (s : State) (t : Nat) (e : BitVec 128) : Bool :=
  entTeam e == (s.team t).linear && entLid e == (s.launchOf t).lid.toNat

/-- A request at the home slice of an address is noted in a recording, or uses its entry of a replay. -/
def noteRequest (t p pa : Nat) (s : State) : State :=
  match sliceOf s p pa with
  | some k => useEntry t 2 (runOwn k) (noteCounter t k s)
  | none => s
/-- The home slice of an address holds the request of a team until its run comes due (17 R364). -/
def requestHeld (s : State) (t p pa : Nat) : Bool :=
  match sliceOf s p pa with
  | some k => !(replayDue s t 2 (runOwn k) (runMine s t))
  | none => false

/-- The words of the 256-byte block of an address. -/
def blockOf (va : Nat) : List Nat := (List.range 64).map fun i => va / 256 * 256 + 4 * i
/-- One lane's counter access: the checks, then `f` on the word, or on the whole `block` of it: the new word, the value for d,
the flags. -/
def ctrLane (c : Ctx) (k : Kind) (x : Nat × Nat) (fmt block : Bool) (f : List Piece → State → State) (w : Nat) (s : State) :
    State × Option Bad :=
  let va := ctrWord w x
  if x.1 % 4 ≠ 0 then (s, some (badAt 0x04 k va))
  else if fmt then
    match checkAccess s (whoGroup s c.t c.g) k true va 4 with
    | .error (code, a) => (s, some (badAt code k a))
    | .ok _ => (s, some { code := 0x0D, i0 := 0, i1 := 0, i2 := 0 })
  else laneAccess c.t c.g k true (if block then blockOf va else []) va 4 f s

/-- The counter's word changed by `f`: level, old level for d where it is given, GSTAT's flags. -/
def ctrUpdate (c : Ctx) (o : Order) (sc : Scope) (w bit l : Nat) (d : Option (BitVec 8)) (f : Nat → Nat × Nat × Flags)
    (write : Bool) (ps : List Piece) (s : State) : State :=
  let p := (s.launchOf c.t).part
  let s := beforeAtomic c.t c.g (laneBit l) o sc ps (observe (.lanes c.t c.g (laneBit l)) (spansOf ps) s)
  let s := noteRequest c.t p ((ps.map fun e => e.1.pa).headD 0) s
  let old := readPieces s p ps
  let r := f (fld old bit w)
  let s := if write then writePieces p ps (setFld old bit w r.1) s else s
  let s := match d with
    | some d => writeReg c (laneBit l) (.v d) 1 (fun _ => r.2.1) s
    | none => s
  orFlags c r.2.2 s

/-- The lanes in order. Under a replay a home slice holds a lane's request until its run comes due, and with it the later
ones of the instruction there (R340, 17 R364): the lanes that failed, and those that are held. `pa`: where a lane's request
goes, if it passes its checks. -/
def ctrLanes (t p : Nat) (pa : State → Nat → Option Nat) (f : Nat → State → State × Option Bad) :
    List Nat → List Nat → State → (State × List (Nat × Bad)) × Lanes
  | [], _, s => ((s, []), 0)
  | l :: ls, busy, s =>
    let at0 := pa s l
    let slice := at0.bind (sliceOf s p)
    let held := match at0, slice with
      | some a, some k => busy.contains k || requestHeld s t p a
      | _, _ => false
    if held then
      let r := ctrLanes t p pa f ls (slice.toList ++ busy) s
      (r.1, r.2 ||| laneBit l)
    else match f l s with
      | (s, none) => ctrLanes t p pa f ls busy s
      | (s, some b) =>
        let r := ctrLanes t p pa f ls busy s
        ((r.1.1, (l, b) :: r.1.2), r.2)

/-- What becomes of the lanes: those that are held stay at the instruction (log 115). -/
def ctrFinish (c : Ctx) (r : (State × List (Nat × Bad)) × Lanes) : Act :=
  if r.2 = c.E then .stall
  else match finishLanes c false r.1 with
    | .adv s => if r.2 = 0 then .adv s else .go s fun l => if r.2.getLsbD l then c.pc else c.next
    | .trap s tr stay => .trap s tr (stay ||| r.2)
    | a => a

/-- A counter instruction; it carries CTR_BASE as its group sees it (R334). -/
def ctrAct (k : Kind) (block : Bool) (ad : Addr) (fmt : Group → Nat → Nat → Bool)
    (f : Nat → Nat → Nat → Nat → List Piece → State → State) (c : Ctx) (s : State) : Act :=
  let g := s.grp c.t c.g
  let b := g.ctr.val
  let w := ctrWidth b
  let at_ (l : Nat) : Nat × Nat := ctrPlace g ad l
  let who := whoGroup s c.t c.g
  match reachLanes c k true 4 ((lanes c.E).map fun l => ctrWord w (at_ l)) s with
  | .error a => a
  | .ok s =>
    let pa (s : State) (l : Nat) : Option Nat :=
      if (at_ l).1 % 4 ≠ 0 || fmt g w l then none
      else match checkAccess s who k true (ctrWord w (at_ l)) 4 with
        | .ok ps => ps.head?.map fun e => e.1.pa
        | .error _ => none
    ctrFinish c (ctrLanes c.t who.part pa (fun l =>
      ctrLane c k (at_ l) (fmt g w l) block (f w (ctrExp b) (ctrBit w (at_ l)) l) w) (lanes c.E) [] s)

/-- A counter request at the home slice: the word after it and the level that it answers, under the CTR_BASE that it
carries (R334, R340). -/
def ctrRequest (op : CtrOp) (base : Word) (pos draw arg word : Nat) : Nat × Nat :=
  let w := ctrWidth base
  let bit := w * (pos % (32 / w))
  let old := fld word bit w
  match op with
  | .add => (setFld word bit w (runTests w (ctrExp base) arg old draw false).1, old)
  | .merge => (setFld word bit w (mergeLevels w (ctrExp base) old arg draw).1, old)
  | .read | .clear => (word, old)

def noFmt (_ : Group) (_ _ : Nat) : Bool := false
/-- Draw and count, or seed and level, of a lane. -/
def ctrDraw (g : Group) (n : BitVec 8) (l : Nat) : Nat := regGet g (.v n) l 1
def ctrArg (g : Group) (n : BitVec 8) (l : Nat) : Nat := fld (regGet g (.v n) l 2) 32 8

/-! PCADD (R343). -/

def pcaddAct (o : Order) (sc : Scope) (d : Option (BitVec 8)) (ad : Addr) (n : BitVec 8) (c : Ctx) (s : State) : Act :=
  let g := s.grp c.t c.g
  ctrAct .ctrUpd false ad noFmt (fun w m bit l =>
    ctrUpdate c o sc w bit l d (fun old =>
      let r := runTests w m (ctrArg g n l) old (ctrDraw g n l) false
      (r.1, old, flagIf (r.2 && d.isSome) fPCSAT)) true) c s

def execPcadd (h : Hdr) (o : Order) (sc : Scope) (hint : Hint) (ad : Addr) (c : BitVec 8) (s : State) : Res :=
  simt h (Instr.size (.pcadd h o sc hint ad c)) (.rd (.v c) 2 :: addrUse 2 ad) noPriv (pcaddAct o sc none ad c) s
def execPcaddRtn (h : Hdr) (o : Order) (sc : Scope) (hint : Hint) (d : BitVec 8) (ad : Addr) (c : BitVec 8) (s : State) : Res :=
  simt h (Instr.size (.pcaddRtn h o sc hint d ad c)) (.wr (.v d) 1 :: .rd (.v c) 2 :: addrUse 2 ad) noPriv
    (pcaddAct o sc (some d) ad c) s

/-! PCRD (R344). -/

def pcrdAct (raw : Bool) (o : Order) (sc : Scope) (d : BitVec 8) (ad : Addr) (c : Ctx) (s : State) : Act :=
  ctrAct .ctrRead false ad noFmt (fun w m bit l =>
    ctrUpdate c o sc w bit l (some d) (fun old =>
      let r := if raw then (old, 0) else estimate m old
      (old, r.1, r.2 &&& (fNX ||| fOF))) false) c s

def execPcrd (h : Hdr) (o : Order) (sc : Scope) (hint : Hint) (d : BitVec 8) (ad : Addr) (s : State) : Res :=
  simt h (Instr.size (.pcrd h o sc hint d ad)) (.wr (.v d) 1 :: addrUse 2 ad) noPriv (pcrdAct false o sc d ad) s
def execPcrdRaw (h : Hdr) (o : Order) (sc : Scope) (hint : Hint) (d : BitVec 8) (ad : Addr) (s : State) : Res :=
  simt h (Instr.size (.pcrdRaw h o sc hint d ad)) (.wr (.v d) 1 :: addrUse 2 ad) noPriv (pcrdAct true o sc d ad) s

/-! PCMRG (R345). -/

def pcmrgAct (o : Order) (sc : Scope) (d : BitVec 8) (ad : Addr) (n : BitVec 8) (c : Ctx) (s : State) : Act :=
  let g := s.grp c.t c.g
  ctrAct .ctrUpd false ad (fun g w l => decide (2 ^ w - 1 < ctrArg g n l)) (fun w m bit l =>
    ctrUpdate c o sc w bit l (some d) (fun old =>
      let r := mergeLevels w m old (ctrArg g n l) (ctrDraw g n l)
      (r.1, old, flagIf r.2 fPCSAT)) true) c s

def execPcmrg (h : Hdr) (o : Order) (sc : Scope) (hint : Hint) (d : BitVec 8) (ad : Addr) (c : BitVec 8) (s : State) : Res :=
  simt h (Instr.size (.pcmrg h o sc hint d ad c)) (.wr (.v d) 1 :: .rd (.v c) 2 :: addrUse 2 ad) noPriv (pcmrgAct o sc d ad c) s

/-! PCCLR (R346). -/

/-- The 256-byte block of a counter := 0, as one write. -/
def clearBlock (c : Ctx) (o : Order) (sc : Scope) (l : Nat) (ps : List Piece) (s : State) : State :=
  let p := (s.launchOf c.t).part
  let block := ps.map fun e => ({ e.1 with pa := e.1.pa / 256 * 256 }, 256)
  let s := beforeAtomic c.t c.g (laneBit l) o sc block s
  let s := block.foldl (fun s e => coverMem (.lanes c.t c.g (laneBit l)) p e.1.pa e.2 s) s
  writePieces p block 0 (noteRequest c.t p ((ps.map fun e => e.1.pa).headD 0) s)

def pcclrAct (o : Order) (sc : Scope) (ad : Addr) (c : Ctx) (s : State) : Act :=
  ctrAct .ctrUpd true ad noFmt (fun _ _ _ l => clearBlock c o sc l) c s

def execPcclr (h : Hdr) (o : Order) (sc : Scope) (hint : Hint) (ad : Addr) (s : State) : Res :=
  simt h (Instr.size (.pcclr h o sc hint ad)) (addrUse 2 ad) noPriv (pcclrAct o sc ad) s

/-! PCBASE (R347). -/

def execPcbase (h : Hdr) (v : ImmU) (s : State) : Res :=
  simt h (Instr.size (.pcbase h v)) (immUUse v) noPriv (fun c s =>
    let x := immUGet (s.grp c.t c.g) v
    .adv (setCtrBase c.t c.g (x &&& 7) s)) s

end Sys2Proof.Machine
end

