-- ==== Sys2Proof/Machine/Tasks.lean ====
section
/-! DEFINITION. The task class (17 R359 to R361, R366, R367, R369 to R372): LAUNCH, TWAIT, CANCEL, ALLOC, FREE, TMARK,
HVC, its return and the monitor's services 0x0001 to 0x0005. -/

set_option linter.unusedVariables false

namespace Sys2Proof.Machine

/-! LAUNCH (R366). -/

/-- A launch is added: its LAUNCH_ID and LINEAGE are assigned, and it is admitted. -/
def addLaunch (l : Launch) (root depth : Nat) (bad : Bool) (s : State) : State :=
  let a := takeLid l.part l.pkt s
  let b := takeLineage l.part root depth a.1
  let n := b.1.launches.length
  startLaunch n bad { b.1 with launches := b.1.launches ++ [{ l with lid := a.2, lineage := b.2 }] }

/-- The child of a team's launch: PLIN := LINEAGE, PRIO at most the parent's. SYS is honoured for the child of a launch that the
partition supervisor made with it, and not for one whose parent has rights by its handler alone (04 R100, R349; log 128). -/
def childLaunch (s : State) (t : Nat) (pkt : Nat) (port : Option (BitVec 16)) : Launch :=
  let l := s.launchOf t
  { part := l.part, pkt := BitVec.ofNat 1024 (setFld pkt 960 64 l.lineage.toNat), lid := 0, lineage := 0, world := l.world,
    ctxRoot := l.ctxRoot, parent := some (s.team t).launch, prio := BitVec.ofNat 4 (min (fld pkt 8 4) l.prio.toNat), sys := bitOf pkt 15 && l.sys,
    port := port.map fun tag => (t, tag), trace := l.trace }

/-- A uniform register written once. -/
def setUni (c : Ctx) (d : Nat) (x : Word) (s : State) : State := s.modGrp c.t c.g fun g => { g with s := g.s.set d x }

def launchAct (d a : BitVec 6) (port : Option (BitVec 16)) (c : Ctx) (s : State) : Act :=
  let l := s.launchOf c.t
  let va := regGet (s.grp c.t c.g) (.s a) 0 2
  if c.g ≠ 0 || !(c.E.getLsbD 0) then c.trap s 0x01 c.E 5
  else if l.depth = 10 then c.trap s 0x11 c.E
  else if va % 128 ≠ 0 then c.trap s 0x04 c.E (BitVec.ofNat 32 va) (BitVec.ofNat 32 (va / 2 ^ 32)) 0
  else blockAct c va 4 (fun x s =>
    if bitOf x 15 && !(supervisor s c.t c.g) then c.trap s 0x03 c.E
    else match packetBad (BitVec.ofNat 1024 x) true with
      | some b => c.trap s 0x0D c.E (BitVec.ofNat 32 b)
      | none =>
        if tablesFull s l.part (BitVec.ofNat 1024 x) then .adv (setUni c d.toNat 0 s)
        else
          let n := s.launches.length
          let s := releaseLanes c.t c.g 1 .dev s
          let s := addLaunch (childLaunch s c.t x port) (rootOf l.lineage) (l.depth + 1) false s
          let lid := (s.launch n).lid
          .adv (setUni c d.toNat lid (s.modTeam c.t fun tm => { tm with children := tm.children ++ [{ launch := n, lid := lid }] })))
    s

def execLaunch (h : Hdr) (d a : BitVec 6) (tag : BitVec 16) (port : Bool) (s : State) : Res :=
  simt h (Instr.size (.launch h d a tag port)) [.wr (.s d) 1, .rd (.s a) 2] noPriv
    (launchAct d a (if port then some tag else none)) s

/-! TWAIT (R367). -/

def twaitAct (d : BitVec 6) (a : Option (BitVec 6)) (c : Ctx) (s : State) : Act :=
  let tm := s.team c.t
  let all := List.range tm.children.length
  let which : List Nat := match a with
    | none => all
    | some r =>
      let lid := (tm.group c.g).s.get r.toNat
      all.filter fun i => match tm.children[i]? with
        | some x => x.lid == lid
        | none => false
  if a.isSome && which.isEmpty then c.trap s 0x01 c.E 6
  else match childFailures tm which with
    | some n => .adv (setUni c d.toNat (BitVec.ofNat 32 n) s)
    | none => .park s c.E (.children d.toNat which)

def twaitUse : Option (BitVec 6) → List Use
  | some r => [.rd (.s r) 1]
  | none => []
def execTwait (h : Hdr) (d : BitVec 6) (a : Option (BitVec 6)) (s : State) : Res :=
  simt h (Instr.size (.twait h d a)) (.wr (.s d) 1 :: twaitUse a) noPriv (twaitAct d a) s

/-! CANCEL (R369). -/

def cancelAct (a : BitVec 6) (c : Ctx) (s : State) : Act :=
  let x := regGet (s.grp c.t c.g) (.s a) 0 2
  let own := (s.team c.t).launch
  match byLineage s (s.launchOf c.t).part (BitVec.ofNat 64 x) with
  | some n =>
    if supervisor s c.t c.g || (n != own && inSubtree s own 10 n) then .adv (cancelTree n s)
    else c.trap s 0x07 c.E (BitVec.ofNat 32 x) (BitVec.ofNat 32 (x / 2 ^ 32))
  | none => c.trap s 0x07 c.E (BitVec.ofNat 32 x) (BitVec.ofNat 32 (x / 2 ^ 32))

def execCancel (h : Hdr) (a : BitVec 6) (s : State) : Res :=
  simt h (Instr.size (.cancel h a)) [.rd (.s a) 2] noPriv (cancelAct a) s

/-! The allocator (R359 to R361, R370). -/

/-- An arena: its base, its size, the team and home group that own it (the shared pool has none). -/
structure Arena where
  base  : Nat
  size  : Nat
  owner : Option (Nat × Nat)
  deriving DecidableEq, Repr

def poolBase (l : Launch) : Nat := l.f 832 64
def groupArena (l : Launch) (linear g : Nat) : Arena :=
  let sub := l.f 768 32
  ⟨poolBase l + linear * sub + g * (sub / l.groups), sub / l.groups, some (linear, g)⟩
def sharedPool (l : Launch) : Arena :=
  ⟨poolBase l + l.teamCount * l.f 768 32, l.f 800 32 * 65536 - l.teamCount * l.f 768 32, none⟩

/-- The arena that holds an address. -/
def arenaAt (l : Launch) (a : Nat) : Option Arena :=
  let sub := l.f 768 32
  let off := a - poolBase l
  if poolBase l = 0 || a < poolBase l || l.f 800 32 * 65536 ≤ off then none
  else if l.teamCount * sub ≤ off then some (sharedPool l)
  else some (groupArena l (off / sub) (off % sub / (sub / l.groups)))

/-- Granules of an arena, and the first one beyond its map. -/
def Arena.granules (a : Arena) : Nat := a.size / 64
def Arena.first (a : Arena) : Nat := mapBytes a.size / 64
/-- The map's byte of a granule, and its bit there. -/
def Arena.mapAt (a : Arena) (i : Nat) : Nat := a.base + i / 4

/-- The two state bits of a granule; none: its map byte cannot be read. -/
def granuleState (s : State) (w : Who) (a : Arena) (i : Nat) : Option Nat :=
  (partRead s w (a.mapAt i) 1).map fun x => fld x (2 * (i % 4)) 2
def setGranule (w : Who) (root : Nat) (a : Arena) (i v : Nat) (s : State) : Option State :=
  match partRead s w (a.mapAt i) 1 with
  | none => none
  | some x => partWrite w root (a.mapAt i) 1 (setFld x (2 * (i % 4)) 2 v) s

/-- First fit: the lowest run of n free granules; `run`: the free ones that stand before i. An error: the granule whose
state cannot be read. -/
def firstFit (s : State) (w : Who) (a : Arena) (n : Nat) : Nat → Nat → Nat → Except Nat (Option Nat)
  | 0, _, _ => .ok none
  | k + 1, i, run =>
    match granuleState s w a i with
    | none => .error i
    | some x =>
      let run := if x % 2 = 0 then run + 1 else 0
      if run = n then .ok (some (i + 1 - n)) else firstFit s w a n k (i + 1) run

/-- What the part meets as it reads the map's bytes of k granules from i on. -/
def seeMap (w : Who) (a : Arena) (i k : Nat) (s : State) : State :=
  (List.range ((i + k + 3) / 4 - i / 4)).foldl (fun s j => partSee w (a.mapAt (4 * (i / 4 + j))) 1 s) s

/-- Granules from i on marked: in use, the first one as a beginning; or free. -/
def markBlock (w : Who) (root : Nat) (a : Arena) (use : Bool) (begins : Nat) : Nat → Nat → State → Except Nat State
  | 0, _, s => .ok s
  | k + 1, i, s =>
    match setGranule w root a i (if use then (if i = begins then 3 else 1) else 0) s with
    | none => .error i
    | some s => markBlock w root a use begins k (i + 1) s

/-- The number of an arena, or of the pool that a launch shares, in a trace's counts. -/
def arenaKey (n : Nat) (a : Arena) : Nat :=
  n * 2 ^ 48 + (match a.owner with
    | none => 0
    | some (t, g) => 1 + t * 2 ^ 8 + g)
/-- The requests that an arena has served so far (R361, R363). -/
def servedCount (s : State) (n : Nat) (a : Arena) : Nat :=
  match (traceIdx s n).bind fun i => s.traces[i]? with
  | some tr => (kGet tr.served (arenaKey n a)).getD 0
  | none => 0
/-- TEAM and CORE of a KIND 3 entry: the arena's, for a foreign FREE; the requester's, for the shared pool. -/
def serveName (tm : Team) (g : Nat) (a : Arena) : Nat × Nat := a.owner.getD (tm.linear, g)
/-- An entry that a request takes in its turn (R364, log 118): of the shared pool, the one with its position; of an
arena, the next one that names it. -/
def servePick (s : State) (tm : Team) (g : Nat) (a : Arena) (e : BitVec 128) : Bool :=
  entLid e == (s.launch tm.launch).lid.toNat &&
    (match a.owner with
      | none => entOrder e == servedCount s tm.launch a
      | some k => entTeam e == k.1 && entCore e == k.2)
/-- The entry is this request's. -/
def serveMine (s : State) (tm : Team) (g : Nat) (a : Arena) (e : BitVec 128) : Bool :=
  match a.owner with
  | none => entTeam e == tm.linear && entCore e == g
  | some _ => entOrder e == servedCount s tm.launch a
/-- Under a replay, whether an arena serves the request now: a foreign FREE or a request of the shared pool in the
recorded order; the owner's request unless a foreign FREE has the next position. -/
def serveDue (s : State) (c : Ctx) (a : Arena) : Bool :=
  let tm := s.team c.t
  if a.owner != some (tm.linear, c.g) then replayDue s c.t 3 (servePick s tm c.g a) (serveMine s tm c.g a)
  else match replayOf s tm.launch with
    | none => true
    | some (_, tr) =>
      match (firstEntry tr.entries 3 (servePick s tm c.g a)).bind fun k => tr.entries[k]? with
      | none => true
      | some e => !(serveMine s tm c.g a e) || entOrder e == servedCount s tm.launch (sharedPool (s.launch tm.launch))
/-- An arena has served a request: its count rises; a foreign FREE or a request of the shared pool writes a KIND 3 entry,
or uses one up. -/
def noteServed (c : Ctx) (a : Arena) (s : State) : State :=
  let tm := s.team c.t
  let n := tm.launch
  match traceIdx s n with
  | none => s
  | some i =>
    let k := servedCount s n a
    let e := traceEntry (serveName tm c.g a).1 (serveName tm c.g a).2 3 k (s.launch n).lid.toNat
    let s1 := if a.owner == some (tm.linear, c.g) then s else appendEntry i e (useEntry c.t 3 (servePick s tm c.g a) s)
    s1.modTrace i fun tr => { tr with served := kSet tr.served (arenaKey n a) (k + 1) }

/-- What a request comes to: an address, or done; held by a replay; a failing access. -/
inductive Served where
  | ok (s : State) (a : Nat)
  | held
  | bad (s : State) (b : Bad)

/-- The trap of a map byte that cannot be reached. -/
def mapBad (s : State) (c : Ctx) (a : Arena) (i : Nat) : Bad :=
  match checkAccess s (whoGroup s c.t c.g) .write true (a.mapAt i) 1 with
  | .error (code, x) => badAt code .atom x
  | .ok _ => badAt 0x07 .atom (a.mapAt i)

/-- An allocation of n granules in an arena: none where it has no run. -/
def allocIn (c : Ctx) (a : Arena) (n : Nat) (s : State) : Except Nat (State × Option Nat) :=
  let l := s.launchOf c.t
  let w := whoLaunch l
  match firstFit s w a n (a.granules - a.first) a.first 0 with
  | .error i => .error i
  | .ok none => .ok (seeMap w a a.first (a.granules - a.first) s, none)
  | .ok (some i) =>
    match markBlock w (rootOf l.lineage) a true i n i (seeMap w a a.first (i + n - a.first) s) with
    | .error j => .error j
    | .ok s => .ok (s, some (a.base + 64 * i))

/-- ALLOC of a size: the group arena, then the shared pool. -/
def serveAlloc (c : Ctx) (size : Nat) (s : State) : Served :=
  let l := s.launchOf c.t
  let n := ceilDiv size 64
  let own := groupArena l (s.team c.t).linear c.g
  if n = 0 || poolBase l = 0 then .ok s 0
  else if !(serveDue s c own) then .held
  else match allocIn c own n s with
    | .error i => .bad s (mapBad s c own i)
    | .ok (s, some a) => .ok (noteServed c own s) a
    | .ok (s, none) =>
      let s := noteServed c own s
      if !(serveDue s c (sharedPool l)) then .held
      else match allocIn c (sharedPool l) n s with
        | .error i => .bad s (mapBad s c (sharedPool l) i)
        | .ok (s, some a) => .ok (noteServed c (sharedPool l) s) a
        | .ok (s, none) => .ok (noteServed c (sharedPool l) s) 0

/-- The granules of the block that begins at i: up to the next beginning or free one. -/
def blockLength (s : State) (w : Who) (a : Arena) : Nat → Nat → Except Nat Nat
  | 0, _ => .ok 0
  | k + 1, i =>
    match granuleState s w a i with
    | none => .error i
    | some 1 => (match blockLength s w a k (i + 1) with
        | .ok n => .ok (n + 1)
        | e => e)
    | some _ => .ok 0

/-- FREE of an address. -/
def serveFree (c : Ctx) (x : Nat) (s : State) : Served :=
  let l := s.launchOf c.t
  let w := whoLaunch l
  let perm : Served := .bad s { code := 0x07, i0 := BitVec.ofNat 32 x, i1 := BitVec.ofNat 32 (x / 2 ^ 32), i2 := 0 }
  if x = 0 then .ok s 0
  else match arenaAt l x with
    | none => perm
    | some a =>
      let i := (x - a.base) / 64
      if (x - a.base) % 64 ≠ 0 || i < a.first || a.granules ≤ i then perm
      else match granuleState s w a i with
        | none => .bad s (mapBad s c a i)
        | some 3 =>
          if !(serveDue s c a) then .held
          else
            (match blockLength s w a (a.granules - i - 1) (i + 1) with
              | .error j => .bad s (mapBad s c a j)
              | .ok n =>
                match markBlock w (rootOf l.lineage) a false 0 (n + 1) i (seeMap w a i (n + 2) s) with
                | .error j => .bad s (mapBad s c a j)
                | .ok s => .ok (noteServed c a s) 0)
        | some _ => perm

/-- The lanes in order; none where a replay holds one of them. -/
def serveLanes (f : Nat → State → Served) (put : Nat → Nat → State → State) : List Nat → State →
    Option (State × List (Nat × Bad))
  | [], s => some (s, [])
  | l :: ls, s =>
    match f l s with
    | .held => none
    | .ok s a => serveLanes f put ls (put l a s)
    | .bad s b => (serveLanes f put ls s).map fun r => (r.1, (l, b) :: r.2)
/-- A request of every lane of E, or one for the group. Where one of them traps, none has an effect (00 R10). -/
def serveAct (once : Bool) (f : Nat → State → Served) (put : Nat → Nat → State → State) (c : Ctx) (s : State) : Act :=
  match serveLanes f put (if once then (lanes c.E).take 1 else lanes c.E) s with
  | none => .stall
  | some r => match finishLanes c once r with
    | .trap _ tr _ => .trap s tr c.E
    | a => a

def execAlloc (h : Hdr) (d : Reg) (size : Opd) (s : State) : Res :=
  simt h (Instr.size (.alloc h d size)) (.wr d 2 :: opdUse size 1) noPriv (fun c s =>
    serveAct (onceReg d) (fun l s => serveAlloc c (opdGet (s.grp c.t c.g) size l 1 false) s)
      (fun l a s => writeReg c (laneBit l) d 2 (fun _ => a) s) c s) s
def execFree (h : Hdr) (a : Reg) (s : State) : Res :=
  simt h (Instr.size (.free h a)) [.rd a 2] noPriv (fun c s =>
    serveAct (onceReg a) (fun l s => serveFree c (regGet (s.grp c.t c.g) a l 2) s) (fun _ _ s => s) c s) s

/-! TMARK (R371). -/

/-- The number of a team in the start order of its core within its trace (R363). -/
def startNumber (s : State) (t : Nat) : Nat :=
  let tm := s.team t
  ((List.range t).filter fun u =>
    (s.team u).logical == tm.logical && (s.launchOf u).trace == (s.launchOf t).trace && (s.launchOf u).part == (s.launchOf t).part).length

def execTmark (h : Hdr) (v : ImmU) (s : State) : Res :=
  simt h (Instr.size (.tmark h v)) (immUUse v) noPriv (fun c s =>
    let tm := s.team c.t
    let e := traceEntry (immUGet (s.grp c.t c.g) v).toNat tm.logical 1 (startNumber s c.t) (s.launchOf c.t).lid.toNat
    .adv (recordEntry tm.launch e s)) s

/-! HVC (R372). -/

/-- The called side writes s0 and s1, so far as the team declares them. -/
def setResults (t g : Nat) (s0 s1 : Word) (s : State) : State :=
  let n := (s.launchOf t).sregs
  (dropWrite t g (-1) [.wr (.s 0) (min n 2)] s).modGrp t g fun gr => { gr with s := (if 0 < n then (if 1 < n then (gr.s.set 0 s0).set 1 s1 else gr.s.set 0 s0) else gr.s) }

/-- The lanes park until the called side returns. -/
def hvcPark (svc : BitVec 16) (c : Ctx) (s : State) : Act := .park (releaseLanes c.t c.g c.E .dev s) c.E (.hvc svc)
/-- The called side defines a service: the partition's system image, or the monitor where the caller has supervisor rights. -/
def calledDefines (s : State) (t g : Nat) (svc : BitVec 16) : Bool :=
  Config.calledDefines (if supervisor s t g then s.monitor else (s.part (s.launchOf t).part).image) svc

def execHvc (h : Hdr) (svc : BitVec 16) (s : State) : Res :=
  simt h (Instr.size (.hvc h svc)) [] noPriv (hvcPark svc) s

/-- HVC_RETURN: the k-th parked wait of the group is a call, and the called side returns; a service it does not define
returns 0xFFFF_FFFF in s0. -/
def execHvcReturn (t g k : Nat) (s0 s1 : Word) (s : State) : Res :=
  match (s.grp t g).waits[k]? with
  | some w => (match w.kind with
      | .hvc svc =>
        if w.done.isNone && (s.team t).phase == .resident then
          .next (completeWait t g k none (setResults t g (if calledDefines s t g svc then s0 else 0xFFFFFFFF) s1 s))
        else .next s
      | _ => .next s)
  | none => .next s

/-- A monitor service: a group with supervisor rights calls the monitor, which does `f` and returns (s0, s1); results
the spec does not state are free words (log 12). Without rights the partition supervisor is called. -/
def serviceForm (h : Hdr) (size : Nat) (svc : BitVec 16) (f : Ctx → State → State) (s0 : Ctx → State → Option Word)
    (s : State) : Res :=
  simt h size [] noPriv (fun c s =>
    if supervisor s c.t c.g then
      let s1 := releaseLanes c.t c.g c.E .dev s
      .adv (setResults c.t c.g ((s0 c s).getD (Config.freeWord s.tick (2 ^ 52))) (Config.freeWord s.tick (2 ^ 52 + 1)) (f c s1))
    else hvcPark svc c s) s

def noResult (_ : Ctx) (_ : State) : Option Word := none
/-- Argument registers. -/
def arg32 (s : State) (c : Ctx) (n : Nat) : Nat := ((s.grp c.t c.g).s.get n).toNat
def arg64 (s : State) (c : Ctx) (n : Nat) : Nat := arg32 s c n + 2 ^ 32 * arg32 s c (n + 1)

/-- Service 0x0001: a queue, in the world of the granule that holds its descriptor (22 R407). -/
def registerQueue (c : Ctx) (s : State) : State :=
  let p := (s.launchOf c.t).part
  let desc := arg64 s c 0
  match pageIn s p (s.launchOf c.t).ctxRoot desc with
  | none => s
  | some pg =>
    let q : QueueReg := { desc := BitVec.ofNat 64 desc, sys := bitOf (arg32 s c 2) 0, root := BitVec.ofNat 16 (arg32 s c 3),
                          world := granuleWorld s pg.pa }
    if q.root = 0 then s
    else s.modPart p fun pt => { pt with queues := pt.queues.filter (fun x => x.desc != q.desc) ++ [q] }

/-- Service 0x0002: a collective group, whose descriptor and members are read (13 Table 13.9). -/
def registerColl (c : Ctx) (s : State) : State :=
  let l := s.launchOf c.t
  let w := { whoPart l.part l.world true with root := l.ctxRoot }
  let a := arg64 s c 0
  match partGet w a 16 s with
  | (s, none) => s
  | (s, some x) =>
    let n := fld x 32 32
    let id : BitVec 16 := BitVec.ofNat 16 x
    let sc : Option Scope := match fld x 16 3 with
      | 4 => some .pod
      | 5 => some .sys
      | _ => none
    let ms := (List.range n).mapM fun i => partRead s w (a + 16 + 8 * i) 8
    let s := (List.range n).foldl (fun s i => partSee w (a + 16 + 8 * i) 8 s) s
    match sc, ms with
    | some sc, some ms =>
      if n = 0 || 2097152 < n || (collOf s l.part id).isSome then s
      else s.modPart l.part fun pt => { pt with colls := pt.colls ++
        [{ id := id, scope := sc, deadline := BitVec.ofNat 32 (fld x 64 32), members := ms.map (BitVec.ofNat 64) }] }
    | _, _ => s

/-- Service 0x0003: frames join a pool; the list holds 8 bytes a frame, its number in [51:16] as in a CPL entry. -/
def addFrames (c : Ctx) (s : State) : State :=
  let l := s.launchOf c.t
  let w := { whoPart l.part l.world true with root := l.ctxRoot }
  let at_ (i : Nat) : Nat := arg64 s c 2 + 8 * i
  let seen := (List.range (arg32 s c 4)).foldl (fun s i => partSee w (at_ i) 8 s) s
  match (List.range (arg32 s c 4)).mapM fun i => partRead s w (at_ i) 8 with
  | some es => setPool l.part (arg32 s c 0) (poolOf s l.part (arg32 s c 0) ++ es.map fun e => fld e 16 36) seen
  | none => seen

/-- Service 0x0004: a ROOT without a live launch loses its pool and its queues. -/
def retireRoot (c : Ctx) (s : State) : State :=
  let p := (s.launchOf c.t).part
  let root := arg32 s c 0
  if (List.range s.launches.length).any fun n => launchLive s n && (s.launch n).part == p && rootOf (s.launch n).lineage == root then s
  else s.modPart p fun pt => { pt with pools := kErase pt.pools root, queues := pt.queues.filter fun q => q.root.toNat != root }

/-- Service 0x0005: the hang threshold. -/
def hangOk (c : Ctx) (s : State) : Bool := decide (1 ≤ arg32 s c 0) && decide (arg32 s c 0 ≤ 60000)
def setHang (c : Ctx) (s : State) : State :=
  if hangOk c s then s.modPart (s.launchOf c.t).part fun pt => { pt with hangMs := arg32 s c 0 } else s

def execRegisterQueue (h : Hdr) (s : State) : Res :=
  serviceForm h (Instr.size (.registerQueue h)) 1 registerQueue noResult s
def execRegisterCollectiveGroup (h : Hdr) (s : State) : Res :=
  serviceForm h (Instr.size (.registerCollectiveGroup h)) 2 registerColl noResult s
def execAddFrames (h : Hdr) (s : State) : Res := serviceForm h (Instr.size (.addFrames h)) 3 addFrames noResult s
def execRetireRoot (h : Hdr) (s : State) : Res := serviceForm h (Instr.size (.retireRoot h)) 4 retireRoot noResult s
def execSetHangThreshold (h : Hdr) (s : State) : Res :=
  serviceForm h (Instr.size (.setHangThreshold h)) 5 setHang (fun c s => some (if hangOk c s then 0 else 0xFFFFFFFF)) s

end Sys2Proof.Machine
end

