-- ==== Sys2Proof/Machine/Dispatcher.lean ====
section
/-! DEFINITION. The dispatcher: launch queues (17 R348, R349, R353, 13 R273), placement (R353 to R355, R364), the ends of
teams and grids (04 R98, 17 R358), event rings (13 R274). -/

namespace Sys2Proof.Machine

/-! LAUNCH_PACKET_START. -/

/-- A launch packet of a queue starts: it is admitted, or is to complete with status 5; its slot is emptied. A packet
that the tables have no room for holds the queue back (R351, R357). -/
def startPacket (p : Nat) (q : QueueReg) (s : State) : State :=
  let w := whoPart p q.world q.sys
  let s := queueSee p q 128 s
  match partRead s w q.desc.toNat 16, queueHead s p q 128 with
  | some d, some (r, slot) =>
    if !(bitOf d 69) then s
    else match partRead s w slot 128 with
      | none => s
      | some x =>
        let pkt : BitVec 1024 := BitVec.ofNat 1024 x
        if fld x 0 8 = 0 || tablesFull s p pkt then s
        else
          let l : Launch := { part := p, pkt := pkt, lid := 0, lineage := 0, world := q.world, ctxRoot := Config.contextRoot s.tick,
                              prio := BitVec.ofNat 4 (fld x 8 4), sys := bitOf x 15 && q.sys }
          let bad := (packetBad pkt false).isSome || (bitOf x 15 && !q.sys)
          match queueAdvance p q r slot s with
          | none => s
          | some s => addLaunch l q.root.toNat 0 bad s
  | _, _ => s

def execLaunchPacketStart (p q : Nat) (s : State) : Res :=
  match (s.part p).queues[q]? with
  | some x => .next (startPacket p x s)
  | none => .next s

/-! TEAM_PLACE. -/

/-- Under a replay, were the teams of `out` absent: the recorded core of the launch's next team, where that start is the core's next one (R364). -/
def replayCore (s : State) (out : Nat → Bool) (l : Launch) (tr : Trace) : Option Core :=
  let p := s.part l.part
  let pair := bitOf l.pkt.toNat 14
  let mine (t : Nat) (e : BitVec 128) : Bool := entTeam e == t && entLid e == l.lid.toNat
  let due (c t : Nat) : Bool := match firstEntry tr.entries 0 fun e => entCore e == c with
    | some i => (tr.entries[i]?.map (mine t)).getD false
    | none => false
  match (tr.entries.find? fun e => entKind e == 0 && mine l.next e).bind fun e => (partCores p)[entCore e]? with
  | none => none
  | some k =>
    let o := pairOf k
    if due (logicalOf p k) l.next && canHold s out l k &&
        (!pair || (canHold s out l o && due (logicalOf p o) (l.next + 1))) then some k else none

/-- Where the next team of a launch, or the next unit, can be placed, were the teams of `out` absent. -/
def placeAt (s : State) (out : Nat → Bool) (n : Nat) : Option Core :=
  let l := s.launch n
  match replayOf s n with
  | some (_, tr) => replayCore s out l tr
  | none => corePick s out l l.next

/-- The launches of a partition's ready pool, with a team to start. -/
def readyLaunches (s : State) (p : Nat) : List Nat :=
  (List.range s.launches.length).filter fun n =>
    let l := s.launch n
    l.part == p && l.phase == .ready && decide (l.next < l.teamCount)
/-- Launch a comes before launch b: PRIO, then the order of entry. -/
def launchBefore (s : State) (a b : Nat) : Bool :=
  let x := s.launch a
  let y := s.launch b
  decide (y.prio < x.prio) || (x.prio == y.prio && decide (x.order < y.order))

/-- The pre-empted teams of a partition; those of a PAIR launch by the even team of their unit. -/
def savedTeams (s : State) (p : Nat) : List Nat :=
  (List.range s.teams.length).filter fun t =>
    let tm := s.team t
    let l := s.launchOf t
    l.part == p && tm.phase == .saved && (!(bitOf l.pkt.toNat 14) || tm.linear % 2 == 0)
/-- Where a pre-empted team, or unit, can be placed now (R354). -/
def resumeAt (s : State) (t : Nat) : Option Core := corePick s (fun _ => false) (s.launchOf t) (s.team t).linear
/-- A pre-empted team of at least a priority can be placed: it comes first (R356). -/
def savedFirst (s : State) (p : Nat) (above : BitVec 4 → Bool) : Bool :=
  (savedTeams s p).any fun t => above (s.launchOf t).prio && (resumeAt s t).isSome

/-- The first launch of the pool whose next team can be placed. -/
def nextPlace (s : State) (p : Nat) : Option (Nat × Core) :=
  let can := (readyLaunches s p).filterMap fun n => (placeAt s (fun _ => false) n).map fun k => (n, k)
  can.find? fun x => can.all fun y => y.1 == x.1 || launchBefore s x.1 y.1

def execTeamPlace (p : Nat) (s : State) : Res :=
  match nextPlace s p with
  | none => .next s
  | some (n, k) =>
    let l := s.launch n
    if savedFirst s p fun x => decide (l.prio ≤ x) then .next s
    else
      let s1 := startTeam n l.next k s
      .next (if bitOf l.pkt.toNat 14 then startTeam n (l.next + 1) (pairOf k) s1 else s1)

/-! TEAM_RETIRE, GRID_COMPLETION. -/

/-- What a team keeps when it has ended: the dispatcher's record. -/
def stripTeam (phase : TeamPhase) (tm : Team) : Team :=
  { launch := tm.launch, linear := tm.linear, die := tm.die, core := tm.core, logical := tm.logical, phase := phase,
    groups := tm.groups.map fun _ => { ended := true }, seq := { named := tm.seq.named, stat := tm.seq.stat },
    touched := tm.touched, children := tm.children, order := tm.order }

def execTeamRetire (t : Nat) (s : State) : Res :=
  let s1 := endGroups t s
  let tm := s1.team t
  match tm.phase with
  | .resident =>
    if teamOver tm then
      let s2 := freeSave t (performStores (fun q => q.team == t) s1)
      .next (s2.modTeam t (stripTeam (if childrenOver tm then .retired else .retiredPending)))
    else .next s
  | .retiredPending => .next (if childrenOver tm then s.modTeam t (stripTeam .retired) else s)
  | .saved | .retired => .next s

def execGridCompletion (l : Nat) (s : State) : Res :=
  .next (if decide (l < s.launches.length) && gridOver s l then completeGrid l s else s)

/-! Event rings (13 R274). -/

def execEventRecordWrite (k : Nat) (s : State) : Res := .next (tryRecord k s)

/-- EVENT_RING_TIME_TRIGGER: a watched record that has been read is watched no more; one that has stayed unread for COALNS
raises an interrupt. -/
def execEventRingTimeTrigger (k : Nat) (s : State) : Res :=
  match s.unread[k]? with
  | none => .next s
  | some u =>
    match ringRead { whoPart u.part u.world true with root := u.ctxRoot } u.phys u.ring.toNat 64 s with
    | .error _ => .next s
    | .ok (s, d) =>
      let gone := { s with unread := s.unread.eraseIdx k }
      if (fld d 128 64 + 2 ^ 64 - u.index) % 2 ^ 64 ≤ (fld d 128 64 + 2 ^ 64 - fld d 192 64) % 2 ^ 64 then
        if fld d 272 32 ≠ 0 && fld d 272 32 ≤ now s - u.since then
          .next { gone with interrupts := s.interrupts ++ [(BitVec.ofNat 16 (fld d 304 16), u.ring)] }
        else .next s
      else .next gone

end Sys2Proof.Machine
end

