-- ==== Sys2Proof/Machine/Idle.lean ====
section
/-! DEFINITION. Waits that never end (11 R247, R248): which cores and which teams wait, since when, and the gating of
cores, which changes nothing but power. -/

namespace Sys2Proof.Machine

/-- Every lane of a group that has not exited is parked. -/
def groupParked (g : Group) : Bool := g.active == 0 && g.stopped.isNone && g.taken.isNone && g.drain.isNone
/-- WAITKIND (14 Table 14.1). -/
def waitKind (q : Seq) : Nat := fld q.stat.toNat 3 4
/-- The sequencer has ended, or none is named. -/
def seqOver (q : Seq) : Bool := bitOf q.stat.toNat statEnded
/-- The sequencer runs and is stalled: on a barrier, a tile, FA, FB or a scale slot (a FIFO of Table 11.9). -/
def seqStalled (q : Seq) : Bool := bitOf q.stat.toNat statRun && decide (1 ≤ waitKind q) && decide (waitKind q ≤ 5)

/-! Cores. -/

/-- Every resident group of the core has all its lanes parked and every resident sequencer is stalled. -/
def coreWaits (s : State) (k : Core) : Bool :=
  (residents s (fun _ => false) k).all fun t =>
    let tm := s.team t
    tm.groups.all (fun g => g.ended || groupParked g) && (seqOver tm.seq || seqStalled tm.seq)
/-- The cores with resident teams that wait. -/
def waitingCores (s : State) : List Core :=
  ((s.teams.filter fun tm => tm.phase == .resident).map fun tm => (tm.die, tm.core)).eraseDups.filter (coreWaits s)
/-- Since when each waiting core waits. -/
def noteCores (s : State) : List (Nat × Nat × Nat) :=
  (waitingCores s).map fun k =>
    (s.coreIdle.find? fun e => e.1 == k.1 && e.2.1 == k.2).getD (k.1, k.2, now s)

/-- The gate of a core: 1 clock, 2 power. -/
def setGate (die core v : Nat) (s : State) : State :=
  { s with gates := without s.gates (fun e => e.1 == die && e.2.1 == core) ++ (if v = 0 then [] else [(die, core, v)]) }
/-- The core has waited for so many nanoseconds. -/
def waitedFor (s : State) (die core ns : Nat) : Bool :=
  coreWaits s (die, core) && s.coreIdle.any fun e => e.1 == die && e.2.1 == core && decide (ns ≤ now s - e.2.2)

/-- CORE_CLOCK_GATE, CORE_POWER_GATE, CORE_WAKE (Table 11.8). An arrival ends the gating by itself (`arrival`); an
unpark, a pre-emption or a placement ends the core's waiting. -/
def execCoreClockGate (die core : Nat) (s : State) : Res :=
  .next (if waitedFor s die core 2000 && !(s.gates.any fun e => e.1 == die && e.2.1 == core) then setGate die core 1 s else s)
def execCorePowerGate (die core : Nat) (s : State) : Res :=
  .next (if waitedFor s die core 500000 then setGate die core 2 s else s)
def execCoreWake (die core : Nat) (s : State) : Res :=
  .next (if coreWaits s (die, core) && !(residents s (fun _ => false) (die, core)).isEmpty then s else setGate die core 0 s)

/-! Teams. -/

/-- A wake event can come from outside the team (R248); calls of the supervisor and the monitor return from outside. -/
def wakeFromOutside (s : State) (t : Nat) : Bool :=
  let tm := s.team t
  let mine (c : Cmd) : Bool := c.team == some t
  tm.groups.any (fun g => g.tok.any (fun e => !(tokenDone s e.2)) || g.waits.any fun w => match w.kind with
    | .children _ _ | .cbar _ | .hvc _ => true
    -- the measure runs, or the queue is to enter overflow now; without an allowance no entry could enter
    | .push q _ _ => (let x := tm.queues.getD q {}
        match x.fullSince with
        | some a => decide (now s < a + 20000) || x.allow != 0
        | none => false)
    | _ => false) ||
  s.cmds.any (fun c => mine c && ((c.status.isNone && c.bar.isSome) || (c.port.isSome && !c.signalled))) ||
  s.launches.any fun l => match l.port with
    | some (u, _) => u == t
    | none => false

/-- All groups and the sequencer of a team are parked, one at least, and no wake event can come from outside. -/
def cyclicWait (s : State) (t : Nat) : Bool :=
  let tm := s.team t
  tm.phase == .resident &&
  tm.groups.all (fun g => g.ended || (groupParked g && !g.waits.isEmpty)) &&
  (seqOver tm.seq || seqStalled tm.seq) &&
  (tm.groups.any (fun g => !g.ended) || !(seqOver tm.seq)) && !(wakeFromOutside s t)

/-- When the threshold of the partition passes for the wait that begins now, or has begun; no wait: nothing is kept. -/
def noteHang (s : State) (t : Nat) (tm : Team) : Team :=
  if cyclicWait s t then
    { tm with hangAt := some (tm.hangAt.getD (now s + (s.partOf t).hangMs * 1000000)) }
  else { tm with hangAt := none, hangDone := false }

/-- Waiting cores and teams are noted. -/
def noteIdle (s : State) : State := { s with coreIdle := noteCores s, teams := s.teams.mapIdx (noteHang s) }

end Sys2Proof.Machine
end

