-- ==== Sys2Proof/Machine/Matrix.lean ====
section
/-! DEFINITION. The matrix sequencer (14): FEED and its steps (13 R285, R286; 14 R295, R298), attempts of MMS and VPROJ
(R296 to R302, R304 to R309), the value of a tile (R300), ACLR, SQIF, SQWH, SQCW (R310 to R313). -/

set_option linter.unusedVariables false

namespace Sys2Proof.Machine

/-! FEED (13 R285, R286). -/

/-- The tiles of a box. -/
def boxTiles (e0 e1 : Nat) : Nat := e0 / 64 * (e1 / 16)

/-- The checks of FEED into FIFO f (0 FA, 1 FB, 2 scale memory). -/
def feedChecks (f src ss size : Nat) (org : List Word) (e0 e1 : Nat) : Option Issue :=
  let o (k : Nat) : Nat := orgAt org k
  let rank := layRank src
  firstBad [need (layOk src),
    need (if f = 2 then layRole src == 2 else layRole src == 1 || (layRole src == 0 && layTy src == .bf16)),
    need (e0 % 64 == 0 && o 0 % 64 == 0 && e1 % 16 == 0 && o 1 % 16 == 0),
    need (f != 2 || o 4 % 16 == 0),
    need (f != 2 || (layStride src 1 % 16 == 0 && (rank ≤ 2 || layStride src 2 % 16 == 0) &&
      (rank ≤ 3 || layStride src 3 % 16 == 0))),
    boxBad src ss (o 0) (o 1) (o 2) (o 3) e0 e1, windowBad size src ss (o 0) (o 1) (o 2) (o 3) e0 e1,
    if f = 2 && decide (65536 < o 4 + 16 * boxTiles e0 e1) then some (.perm ss 0) else none]

/-- The team may fill the FIFOs: it names a matrix stream whose sequencer has not ended (R286). -/
def mayFeed (tm : Team) : Bool := tm.seq.named && !(bitOf tm.seq.stat.toNat statEnded)

def feedAct (f : Nat) (k : BitVec 4) (a : BitVec 5) (org : BitVec 6) (e : EngExt) (c : Ctx) (s : State) : Act :=
  let tm := s.team c.t
  if !(mayFeed tm) then c.trap s 0x01 c.E 7
  else match tm.slot a.toNat with
    | none => c.trap s 0x0D c.E
    | some src =>
      let o := origin (s.grp c.t c.g) org.toNat
      issueChecked c k.toNat true
        (feedChecks f src.toNat a.toNat (s.launchOf c.t).scratchBytes o (extent e.e0) (extent e.e1))
        (newCmd c .dev (.feed f src o (extent e.e0) (extent e.e1)) (extBar e) (extPort e) s) s

def execFeedFa (h : Hdr) (k : BitVec 4) (a : BitVec 5) (org : BitVec 6) (e : EngExt) (s : State) : Res :=
  simt h (Instr.size (.feedFa h k a org e)) (engUse k org) noPriv (feedAct 0 k a org e) s
def execFeedFb (h : Hdr) (k : BitVec 4) (a : BitVec 5) (org : BitVec 6) (e : EngExt) (s : State) : Res :=
  simt h (Instr.size (.feedFb h k a org e)) (engUse k org) noPriv (feedAct 1 k a org e) s
def execFeedSc (h : Hdr) (k : BitVec 4) (a : BitVec 5) (org : BitVec 6) (e : EngExt) (s : State) : Res :=
  simt h (Instr.size (.feedSc h k a org e)) (engUse k org) noPriv (feedAct 2 k a org e) s

/-! The steps of a FEED. -/

/-- Bytes held in a FIFO (R295). -/
def heldBytes (es : List Entry) : Nat := es.foldl (fun a e => a + e.bytes.length) 0
def fifoOf (tm : Team) (f : Nat) : List Entry := if f = 0 then tm.fa else tm.fb

/-- No earlier FEED of the team into the FIFO is unfinished (R285). -/
def feedTurn (s : State) (n : Nat) (c : Cmd) (f : Nat) : Bool :=
  (s.cmds.take n).all fun x => match x.kind with
    | .feed f' _ _ _ _ => f' != f || x.team != c.team || x.status.isSome
    | _ => true

/-- A FEED runs: its team is on a core, since the FIFOs are the core's (18 R377). -/
def feedRuns (s : State) (c : Cmd) (t : Nat) : Bool := cmdRuns s c && (s.team t).phase == .resident

/-- The entry of tile i of a FEED's box. -/
def feedEntry (c : Cmd) (src : Nat) (org : List Word) (e1 i : Nat) (s : State) : Eng Entry :=
  let o (k : Nat) : Nat := orgAt org k
  let k := tileOf e1 i
  if layRole src = 1 then
    let sz := recSize (layQ16 src) (layCap src)
    match getBytes c (layLoc src (recOff src (o 0 / 64 + k.1) (o 1 / 16 + k.2) (o 2) (o 3))) sz s with
    | .error e => .error e
    | .ok (s, x) => .ok (s, { record := true, q16 := layQ16 src, cap := BitVec.ofNat 6 (layCap src), bytes := bytesOf sz x })
  else
    match readList (fun j s => locGet c false
        (layLoc src (eltOff src (o 0 + 64 * k.1 + j % 64) (o 1 + 16 * k.2 + j / 64) (o 2) (o 3))) 2 s) (List.range 1024) s with
    | .error e => .error e
    | .ok (s, xs) => .ok (s, { record := false, q16 := false, cap := 0, bytes := xs.flatMap (bytesOf 2) })

/-- FIFO_TILE_ENTER: the next tile of a FEED into FA or FB, where it fits. -/
def enterTile (n : Nat) (s : State) : State :=
  match s.cmd? n with
  | none => s
  | some c =>
    match c.kind, c.team with
    | .feed f src org e0 e1, some t =>
      let i := c.doneChunks.length
      if f ≥ 2 || !(feedRuns s c t) || c.chunks ≤ i || !(feedTurn s n c f) then s
      else match feedEntry c src.toNat org e1 i s with
        | .error h => chunkError n i c h s
        | .ok (s', e) =>
          if 131072 < heldBytes (fifoOf (s.team t) f) + e.bytes.length then s
          else
            let place := fifoPlace (f == 1) + heldBytes (fifoOf (s.team t) f)
            let s := (arrival t (metCore t 6 place e.bytes.length true s').1).modTeam t fun tm =>
              if f = 0 then { tm with fa := tm.fa ++ [e] } else { tm with fb := tm.fb ++ [e] }
            countBytes n c e.bytes.length (s.modCmd n fun c => { c with doneChunks := c.doneChunks ++ [i], since := none })
    | _, _ => s

def execFifoTileEnter (cmd : Nat) (s : State) : Res := .next (enterTile cmd s)

/-- SCALE_SLOT_FILL: the scale bytes and the superscale of the next tile of a FEED.sc, where the slot is free (R298). -/
def fillSlot (n : Nat) (s : State) : State :=
  match s.cmd? n with
  | none => s
  | some c =>
    match c.kind, c.team with
    | .feed f src org e0 e1, some t =>
      let i := c.doneChunks.length
      let o (k : Nat) : Nat := orgAt org k
      let slot := o 4 / 16 + i
      let r := src.toNat
      let k := tileOf e1 i
      let so := scaleOff r (o 0 / 64 + k.1) (o 1 / 16 + k.2) (o 2) (o 3)
      if f < 2 || !(feedRuns s c t) || c.chunks ≤ i || (s.team t).valid.get slot != 0 then s
      else match getBytes c (layLoc r so) 16 s with
        | .error h => chunkError n i c h s
        | .ok (s', x) =>
          match locGet c false (superLoc r so) 4 s' with
          | .error h => chunkError n i c h s
          | .ok (s', y) =>
            let s := (metCore t 6 (latchPlace slot) 8 true (metCore t 6 (scalePlace + 16 * slot) 16 true s').1).1
            let s := (arrival t s).modTeam t fun tm =>
              { tm with scale := tm.scale.set slot (BitVec.ofNat 128 x), latch := tm.latch.set slot (BitVec.ofNat 32 y),
                        valid := tm.valid.set slot 1 }
            countBytes n c 16 (s.modCmd n fun c => { c with doneChunks := c.doneChunks ++ [i], since := none })
    | _, _ => s

def execScaleSlotFill (cmd : Nat) (s : State) : Res := .next (fillSlot cmd s)

/-! Attempts. -/

/-- What an attempt's instruction says: EXT64, X128 mode, VPROJ with .b, .first, .last. -/
structure MatOp where
  e     : MmsExt
  x     : Bool
  vproj : Bool
  back  : Bool
  first : Bool
  last  : Bool
  pair  : Bool

def matOp (i : Instr) : MatOp :=
  match i with
  | .mms x _ _ _ e => ⟨e, x, false, false, false, false, false⟩
  | .mmsPair x _ _ _ e => ⟨e, x, false, false, false, false, true⟩
  | .vprojF f l _ _ _ e => ⟨e.m, false, true, false, f, l, false⟩
  | .vprojB f l _ _ _ e => ⟨e.m, false, true, true, f, l, false⟩
  | _ => ⟨⟨0, 0, 0, false, false⟩, false, false, false, false, false, false⟩

/-- Entries of each operand that an instruction consumes. -/
def entriesOf (e : MmsExt) : Nat := 8 * e.kb.toNat
/-- A slot holds records; else tiles that are split on the fly. -/
def stored (r : Nat) : Bool := layRole r == 1
/-- The size of an entry (R295). -/
def entrySize (r : Nat) : Nat := if stored r then recSize (layQ16 r) (layCap r) else 2048

/-- Step 3 of R308 for one operand. -/
def slotGood (x : Option (BitVec 512)) (sc : Nat) : Bool :=
  match x with
  | none => false
  | some x =>
    let r := x.toNat
    if stored r then (layTy r == .q16 || layTy r == .q8) && layOk r
    else layRole r == 0 && layTy r == .bf16 && !(badParams (layTheta r) (laySuper r)) && sc == 0

/-- TRAP_INFO2 of an operand (R307). -/
def operandInfo (slot : BitVec 5) (b : Bool) : Word := BitVec.ofNat 32 (slot.toNat + 256 * b2n b)
/-- A check made when an attempt starts (R307). -/
def startTrap (code : Byte) (i2 : Word := 0) : Trap := { code := code, i0 := 0xFFFFFFFF, i2 := i2 }

/-- Steps 2 to 6 of R308: the first failure. Where both operands fail one step, A is reported (DESIGN CHOICE, log 126). -/
def startBad (x tileX : Bool) (sa sb : Option (BitVec 512)) (a b : BitVec 5) (e : MmsExt) : Option Trap :=
  let ra := (sa.getD 0).toNat
  let rb := (sb.getD 0).toNat
  let ia := operandInfo a false
  let ib := operandInfo b true
  let n := entriesOf e
  let large (r : Nat) : Bool := decide (131072 < n * entrySize r)
  let out (r sc : Nat) : Bool := stored r && decide (4096 < sc + n)
  if x != tileX then some (startTrap 0x0D)
  else if !(slotGood sa e.asc.toNat) then some (startTrap 0x0D ia)
  else if !(slotGood sb e.bsc.toNat) then some (startTrap 0x0D ib)
  else if decide (16 < e.kb.toNat) && (layQ16 ra || layQ16 rb) then some (startTrap 0x0D)
  else if large ra then some (startTrap 0x0D ia)
  else if large rb then some (startTrap 0x0D ib)
  else if out ra e.asc.toNat then some (startTrap 0x07 ia)
  else if out rb e.bsc.toNat then some (startTrap 0x07 ib)
  else none

/-- The read positions of FA and FB: entries that running attempts hold (R295, R296). -/
def readPos (q : Seq) (b : Bool) : Nat := q.running.foldl (fun n a => n + (if b then a.posB else a.posA)) 0

/-- The scale slots of team t that an attempt frees when it commits (R299). -/
def slotsFreed (t : Nat) (a : Attempt) : List Nat :=
  let e := (matOp a.ins).e
  let r (keep : Bool) (x : BitVec 512) (sc : Nat) : List Nat :=
    if keep || !(stored x.toNat) then [] else (List.range (entriesOf e)).map fun k => sc + k
  r e.keepa a.aslot e.asc.toNat ++ (if a.bTeam = t then r e.keepb a.bslot e.bsc.toNat else [])
/-- A slot is VALID and no running attempt is to free it. -/
def slotReady (t : Nat) (tm : Team) (slot : Nat) : Bool :=
  tm.valid.get slot != 0 && tm.seq.running.all fun a => !((slotsFreed t a).contains slot)

/-- What the consumption of entries comes to: all are there; a wait, by WAITKIND; a bad entry. -/
inductive Consumed where
  | ok
  | wait (kind : Nat)
  | bad (b : Bool) (pos : Nat) (code : Byte) (i1 : Nat)
  deriving DecidableEq, Repr

/-- The record, scale bytes and superscale of an entry; a tile that is split on the fly passes the splitter (R297). An
error: the number of candidates (SPLITOVF). -/
def entryData (tm : Team) (r : Nat) (e : Entry) (slot : Nat) : Except Nat (Nat × Nat × Nat) :=
  if stored r then .ok (leNat e.bytes, (tm.scale.get slot).toNat, (tm.latch.get slot).toNat)
  else
    let x := leNat e.bytes
    match encodeTile (layQ16 r) (layCap r) (laySpill r) (layTheta r) (laySuper r)
        ((List.range 1024).map fun j => fld x (16 * j) 16 * 2 ^ 16) with
    | .ok (rec, bs) => .ok (rec, bs, laySuper r)
    | .error n => .error n

/-- An uncorrectable error in a team's SRAM of SOURCE 6 (18 R382). -/
def coreBad (s : State) (t a n : Nat) : Bool :=
  s.ecc.any fun e => e.team == some t && e.source == 6 && e.cls == 2 && e.meets a n

/-- One entry, checked as it is consumed (R297, R299; 18 R382). -/
def consumeOne (s : State) (t : Nat) (b : Bool) (r first sc pos : Nat) : Consumed :=
  let tm := s.team t
  let fifo := if b then tm.fb else tm.fa
  match fifo[first + pos]? with
  | none => .wait (if b then 4 else 3)
  | some e =>
    if stored r && !(slotReady t tm (sc + pos)) then .wait 5
    else if coreBad s t (fifoPlace b + heldBytes (fifo.take (first + pos))) e.bytes.length ||
        (stored r && (coreBad s t (scalePlace + 16 * (sc + pos)) 16 || coreBad s t (latchPlace (sc + pos)) 8)) then .bad b pos 0x09 0
    else if e.record != stored r then .bad b pos 0x0D 0
    else if stored r && (e.q16 != layQ16 r || e.cap.toNat != layCap r || !(recordOk (layQ16 r) (layCap r) (leNat e.bytes)) ||
        !(goodSuper (tm.latch.get (sc + pos)).toNat)) then .bad b pos 0x0D 0
    else match entryData tm r e (sc + pos) with
      | .ok _ => .ok
      | .error n => .bad b pos 0x0E n

/-- n positions from pos on, A before B at each; `own`: only A. -/
def consume (fa fb : Nat → Consumed) (own : Bool) : Nat → Nat → Consumed
  | 0, _ => .ok
  | n + 1, pos =>
    match fa pos with
    | .ok =>
      (match if own then Consumed.ok else fb pos with
        | .ok => consume fa fb own n (pos + 1)
        | x => x)
    | x => x

/-- The bytes of an attempt's tile; it reads them but where it is a VPROJ.first or a running attempt writes them first. -/
def tileRange (a : Attempt) : Nat × Nat := (accPlace a.tile, if (matOp a.ins).x then 262144 else 65536)
def readsTile (q : Seq) (a : Attempt) : Bool := !(matOp a.ins).first && q.running.all fun r => r.tile != a.tile

/-- The consumption of an attempt of team t; a paired one reads B from the team of the even core (R302). -/
def consumeAll (s : State) (t : Nat) (a : Attempt) : Consumed :=
  let e := (matOp a.ins).e
  let q := (s.team t).seq
  let fa := consumeOne s t false a.aslot.toNat (readPos q false) e.asc.toNat
  let fb := consumeOne s t true a.bslot.toNat (readPos q true) e.bsc.toNat
  match consume fa fb (a.bTeam != t) (entriesOf e) 0 with
  | .ok =>
    if readsTile q a && coreBad s t (tileRange a).1 (tileRange a).2 then .bad false (entriesOf e) 0x09 0 else .ok
  | x => x

/-- The errors that the reads of an attempt meet are corrected and logged, an uncorrectable one is logged (18 R381). -/
def meetReads (t : Nat) (a : Attempt) (s : State) : State :=
  let e := (matOp a.ins).e
  let tm := s.team t
  let q := tm.seq
  let part (b : Bool) (n : Nat) (s : State) : State :=
    let fifo := if b then tm.fb else tm.fa
    let p := readPos q b
    (metCore t 6 (fifoPlace b + heldBytes (fifo.take p)) (heldBytes ((fifo.drop p).take n)) false s).1
  let scales (x : BitVec 512) (sc : Nat) (s : State) : State :=
    if stored x.toNat then
      (metCore t 6 (latchPlace sc) (8 * entriesOf e) false (metCore t 6 (scalePlace + 16 * sc) (16 * entriesOf e) false s).1).1
    else s
  let s := scales a.aslot e.asc.toNat (part false a.posA s)
  let s := if a.bTeam = t then scales a.bslot e.bsc.toNat (part true a.posB s) else s
  if readsTile q a then (metCore t 6 (tileRange a).1 (tileRange a).2 false s).1 else s

/-- The slot of an operand in the trap registers. -/
def operandSlot (i : Instr) (b : Bool) : BitVec 5 :=
  match i with
  | .mms _ _ sa sb _ | .mmsPair _ _ sa sb _ | .vprojF _ _ _ sa sb _ | .vprojB _ _ _ sa sb _ => if b then sb else sa
  | _ => 0
/-- TRAP_INFO3: the offset from the stream's base. -/
def withOffset (q : Seq) (pc : DWord) (tr : Trap) : Trap := { tr with i3 := (pc - q.base).setWidth 32 }
/-- The trap of a bad entry (R307); UNCOR gives what R382 says of a core SRAM (log 114). -/
def entryTrap (i : Instr) (b : Bool) (pos : Nat) (code : Byte) (i1 : Nat) : Trap :=
  if code = 0x09 then { code := code, i2 := (badEcc .read 6 0).i2 }
  else { code := code, i0 := BitVec.ofNat 32 pos, i1 := BitVec.ofNat 32 i1, i2 := operandInfo (operandSlot i b) b }

/-- An abandoned attempt (R305). -/
def abandon (t : Nat) (s : State) : State :=
  s.modSeq t fun q => { q with attempt := none, rendezvous := none, stat := countReplay q.stat }
/-- A trap that abandons an attempt. -/
def attemptTrap (t : Nat) (pc : DWord) (tr : Trap) (s : State) : SAct :=
  .trap (abandon t s) (withOffset (s.team t).seq pc tr) pc

/-- The sequencer's use of a tile acquires what the group that released it saw (16 R334). -/
def seesTile (t k : Nat) (s : State) : State := seqSees t ((s.team t).tile k).ctr s

/-- An attempt that has started goes on: it waits, traps, or runs. A VPROJ.last holds the sequencer until its stage has
finished (15 R330). -/
def goOn (t : Nat) (a : Attempt) (s : State) : SAct :=
  match consumeAll s t a with
  | .wait k => .stall (s.modSeq t fun q => { q with attempt := some a }) k
  | .bad b pos code i1 =>
    attemptTrap t a.pc (entryTrap a.ins b pos code i1) (if code = 0x09 then meetReads t a s else s)
  | .ok =>
    let s := (meetReads t a (seesTile t a.tile s)).modSeq t fun q => { q with attempt := none, running := q.running ++ [a] }
    if (matOp a.ins).last then .stall s 7 else .adv s

/-- The tile lies below the declared count, an X128 tile with all four (02 R39). -/
def tileIn (s : State) (t : Nat) (d : BitVec 3) (k : Nat) : Bool := decide (d.toNat + k ≤ (s.launchOf t).accs)
def seqIll (pc : DWord) (s : State) : SAct := .trap s { code := 0x01 } pc

/-- A tile under a running attempt that p names. -/
def tileRunning (q : Seq) (d k : Nat) (p : Attempt → Bool) : Bool :=
  q.running.any fun a => p a && decide (a.tile < d + k) && decide (d < a.tile + (if (matOp a.ins).x then 4 else 1))
/-- WAITKIND of a wait for a tile that is not SEQ (R308 step 1). -/
def tileKind (x : TileState) : Nat :=
  match x with
  | .sealed _ _ => 7
  | _ => 2

/-- An attempt of a multiply of team t. -/
def newAttempt (s : State) (t : Nat) (i : Instr) (pc : DWord) (d : BitVec 3) (a b : BitVec 5) (bTeam : Nat) : Attempt :=
  let tm := s.team t
  let n := entriesOf (matOp i).e
  { ins := i, pc := pc, aslot := (tm.slot a.toNat).getD 0, bslot := (tm.slot b.toNat).getD 0, posA := n,
    posB := if bTeam = t then n else 0, bTeam := bTeam, tile := d.toNat }

/-- Step 1 of R308: the tile is SEQ, else WAITKIND. -/
def tileWait (tm : Team) (d : BitVec 3) : Option Nat :=
  let x := (tm.tile (tileBase tm d.toNat)).state
  if x != .seq then some (tileKind x)
  else if tileRunning tm.seq d.toNat 1 (fun a => (matOp a.ins).vproj) then some 7
  else none

/-- MMS (R308, R309). -/
def mmsAct (x : Bool) (d : BitVec 3) (a b : BitVec 5) (e : MmsExt) (t : Nat) (pc next : DWord) (s : State) : SAct :=
  let tm := s.team t
  if !(tileIn s t d (if x then 4 else 1)) then seqIll pc s
  else match tm.seq.attempt with
    | some at0 => goOn t at0 s
    | none =>
      match tileWait tm d with
      | some k => .stall s k
      | none =>
        match startBad x (tm.tile (tileBase tm d.toNat)).x128 (tm.slot a.toNat) (tm.slot b.toNat) a b e with
        | some tr => attemptTrap t pc tr s
        | none => goOn t (newAttempt s t (.mms x d a b e) pc d a b t) s

def execMms (x : Bool) (d : BitVec 3) (a b : BitVec 5) (e : MmsExt) (s : State) : Res :=
  seqForm (Instr.size (.mms x d a b e)) (mmsAct x d a b e) s

/-! MMS.pair (R302). -/

/-- The team on the other core of the pair: of the same launch, with the partner TEAM_LINEAR. -/
def pairTeam (s : State) (t : Nat) : Option Nat :=
  let tm := s.team t
  if tm.linear % 2 ≠ tm.core % 2 || !(coreOn tm.die (tm.core ^^^ 1)) then none
  else (List.range s.teams.length).find? fun u =>
    let o := s.team u
    o.phase == .resident && o.launch == tm.launch && o.linear == tm.linear ^^^ 1 && o.die == tm.die && o.core == tm.core ^^^ 1

/-- The other sequencer of a pair goes on at its successor, or stalls, or traps. -/
def partnerGo (u : Nat) (a : Attempt) (s : State) : State :=
  (seesTile u a.tile s).modSeq u fun q => { q with
    attempt := none, rendezvous := none, running := q.running ++ [a], pc := nextAddr a.pc 16,
    stat := setWaitKind 0 q.stat }
def partnerTrap (u : Nat) (pc : DWord) (tr : Trap) (s : State) : State :=
  raiseSeqTrap u (withOffset (s.team u).seq pc tr) pc (abandon u s)

/-- Two attempts that have started together go on: both run, both wait, or a bad entry, the one at the lower position,
abandons both. -/
def pairGoOn (t u : Nat) (a b : Attempt) (s : State) : SAct :=
  let ra := consumeAll s t a
  let rb := consumeAll s u b
  let met (x y : Consumed) (s : State) : State :=
    let uncor (z : Consumed) : Bool := match z with
      | .bad _ _ c _ => c == 0x09
      | _ => false
    let s := if uncor x || (x == .ok && y == .ok) then meetReads t a s else s
    if uncor y || (x == .ok && y == .ok) then meetReads u b s else s
  let s := met ra rb s
  let wait (k : Nat) : SAct :=
    .stall ((s.modSeq t fun q => { q with attempt := some a, rendezvous := none }).modSeq u fun q =>
      { q with attempt := some b, rendezvous := none }) k
  match ra, rb with
  | .ok, .ok =>
    .adv (partnerGo u b ((seesTile t a.tile s).modSeq t fun q => { q with
      attempt := none, rendezvous := none, running := q.running ++ [a] }))
  | .bad x p c i, .bad y p' c' i' =>
    if p < p' || (p = p' && a.bTeam = t) then attemptTrap t a.pc (entryTrap a.ins x p c i) (abandon u s)
    else .stall (partnerTrap u b.pc (entryTrap b.ins y p' c' i') (abandon t s)) 6
  | .bad x p c i, _ => attemptTrap t a.pc (entryTrap a.ins x p c i) (abandon u s)
  | _, .bad y p' c' i' => .stall (partnerTrap u b.pc (entryTrap b.ins y p' c' i') (abandon t s)) 6
  | .wait k, _ => wait k
  | _, .wait k => wait (if k = 3 then 6 else k)

/-- PAIRMIS (R302). -/
def pairMis (n : Word) : Trap := { code := 0x17, i0 := n }

/-- Both have arrived: the comparison, the checks of each, the start. PAIRMIS 1 and 2 stand after step 1 of R308 and before its
step 2, PAIRMIS 3 before step 1 (DESIGN CHOICE, log 126). -/
def pairStart (t u : Nat) (i j : Instr) (pc : DWord) (x : Bool) (d : BitVec 3) (a b : BitVec 5) (e : MmsExt) (s : State) :
    SAct :=
  let tm := s.team t
  let o := s.team u
  let both (n : Word) : SAct := attemptTrap t pc (pairMis n) (partnerTrap u o.seq.pc (pairMis n) s)
  if i != j then both 1
  else if tm.slot b.toNat != o.slot b.toNat then both 2
  else
    let bad (tm : Team) : Option Trap :=
      startBad x (tm.tile (tileBase tm d.toNat)).x128 (tm.slot a.toNat) (tm.slot b.toNat) a b e
    match bad tm, bad o with
    | some tr, some tr' => attemptTrap t pc tr (partnerTrap u o.seq.pc tr' s)
    | some tr, none => attemptTrap t pc tr (abandon u s)
    | none, some tr' => .stall (partnerTrap u o.seq.pc tr' (abandon t s)) 6
    | none, none =>
      let even := if tm.core % 2 = 0 then t else u
      pairGoOn t u (newAttempt s t i pc d a b even) (newAttempt s u i o.seq.pc d a b even) s

def mmsPairAct (x : Bool) (d : BitVec 3) (a b : BitVec 5) (e : MmsExt) (t : Nat) (pc next : DWord) (s : State) : SAct :=
  let tm := s.team t
  let i : Instr := .mmsPair x d a b e
  if !(tileIn s t d (if x then 4 else 1)) then seqIll pc s
  else match pairTeam s t with
    | none => attemptTrap t pc (pairMis 3) s
    | some u =>
      match tm.seq.attempt, (s.team u).seq.attempt with
      | some p, some q => pairGoOn t u p q s
      | _, _ =>
        match tileWait tm d with
        | some k => .stall s k
        | none =>
          match (s.team u).seq.rendezvous with
          | none => .stall (s.modSeq t fun q => { q with rendezvous := some i }) 6
          | some j => pairStart t u i j pc x d a b e s

def execMmsPair (x : Bool) (d : BitVec 3) (a b : BitVec 5) (e : MmsExt) (s : State) : Res :=
  seqForm (Instr.size (.mmsPair x d a b e)) (mmsPairAct x d a b e) s

/-! The value of a tile (R300). -/

/-- One row of a tile of an operand: T of each code, b, S, the valid outliers (column, BF16). -/
structure RowK where
  ts   : List Int
  b    : Nat
  sup  : Nat
  outs : List (Nat × Nat)

/-- Row r of a tile from its record, scale bytes and superscale. -/
def rowK (q16 : Bool) (x : Nat × Nat × Nat) (r : Nat) : RowK :=
  { ts := (List.range 64).map fun c => codeInt q16 (recCode q16 x.1 (64 * r + c)),
    b := fld x.2.1 (8 * r) 8, sup := x.2.2,
    outs := (recEntries q16 x.1).filterMap fun e => if e.1 / 64 = r then some (e.1 % 64, e.2) else none }

/-- An operand: its 128 rows, each by K-block. -/
def operandRows (q16 : Bool) (kb : Nat) (tiles : List (Nat × Nat × Nat)) : List (List RowK) :=
  (List.range 128).map fun i => (List.range kb).map fun k => rowK q16 (tiles.getD (8 * k + i / 16) (0, 0, 0)) (i % 16)

/-- T × (b + 1) × S × 2^−14. -/
def tVal (t : Int) (b sup : Nat) : FV :=
  match fmtF32.read false sup with
  | .fin _ m e => .fin (decide (t < 0)) (t.natAbs * (b + 1) * m) (e - 14)
  | v => v
/-- The FP32 decode of column c, rounded once: of the body alone, or with its outlier (R78). -/
def RowK.dec (r : RowK) (full : Bool) (c : Nat) : Nat :=
  let body := (fmtF32.write .rne false true (tVal (r.ts.getD c 0) r.b r.sup)).1
  match r.outs.find? fun e => e.1 == c with
  | some e => if full then (fmtF32.write .rne false true (fmtBf16.read false e.2)).1 else 0
  | none => body

/-- I × S_a × S_b × 2^−28 of a K-block. -/
def blockSum (a b : RowK) : FV :=
  let i := (List.zipWith (fun x y => x * y) a.ts b.ts).foldl (· + ·) 0
  match fmtF32.read false a.sup, fmtF32.read false b.sup with
  | .fin _ m e, .fin _ n k => .fin (decide (i < 0)) (i.natAbs * (a.b + 1) * (b.b + 1) * m * n) (e + k - 28)
  | _, _ => .nan
/-- D: the exact body sum, rounded once. -/
def bodySum (a b : List RowK) : Nat × Flags :=
  fmtF32.write .rne false true ((List.zipWith blockSum a b).foldl (fun t x => (t.add .rne x).1) (.fin false 0 0))

/-- A product of an outlier, with its place in the order of terms. -/
def insertTerm (x : Nat × Nat × Flags) : List (Nat × Nat × Flags) → List (Nat × Nat × Flags)
  | [] => [x]
  | y :: ys => if x.1 < y.1 then x :: y :: ys else y :: insertTerm x ys
def blockTerms (a b : RowK) : List (Nat × Nat × Flags) :=
  let wide (v : Nat) : Nat := v * 2 ^ 16
  let ta := a.outs.map fun e => (2 * e.1, fMul fmtF32 .rne false (wide e.2) (b.dec true e.1))
  let tb := b.outs.map fun e => (2 * e.1 + 1, fMul fmtF32 .rne false (a.dec false e.1) (wide e.2))
  (ta ++ tb).foldl (fun l x => insertTerm x l) []

/-- new[i][j] of R300, from the old element: FP32 bits, or an X128 number. -/
def newElement (x : Bool) (acc : Nat) (a b : List RowK) : Nat × Flags :=
  let d := bodySum a b
  let terms := (List.zipWith blockTerms a b).flatMap fun l => l.map fun e => e.2
  let step (t : Nat × Flags) (p : Nat × Flags) : Nat × Flags :=
    if x then
      let q := xOfF32 p.1
      let u := xAdd t.1 q.1
      (u.1, t.2 ||| p.2 ||| q.2 ||| u.2)
    else
      let u := fAdd fmtF32 .rne false t.1 p.1
      (u.1, t.2 ||| p.2 ||| u.2)
  terms.foldl step (step (acc, 0) d)

/-- X128 numbers from words, and back. -/
def quads : List Word → List Nat
  | a :: b :: c :: d :: r => (a.toNat + 2 ^ 32 * b.toNat + 2 ^ 64 * c.toNat + 2 ^ 96 * d.toNat) :: quads r
  | _ => []
def unquad (x : Nat) : List Word := (List.range 4).map fun i => BitVec.ofNat 32 (fld x (32 * i) 32)
/-- The elements of a tile, and the data of elements. -/
def tileElts (x : Tile) : List Nat :=
  if x.x128 then quads (Store.dense x.data 0 65536) else (Store.dense x.data 0 16384).map fun w => w.toNat
def tileData (x : Bool) (es : List Nat) : Store 32 :=
  Store.ofWords 0 (if x then es.flatMap unquad else es.map fun e => BitVec.ofNat 32 e)

/-- Rows of 128. -/
def rows128 : Nat → List Nat → List (List Nat)
  | 0, _ => []
  | n + 1, l => l.take 128 :: rows128 n (l.drop 128)
/-- Every element of the new tile. -/
def newTile (x : Bool) (acc : List Nat) (ra rb : List (List RowK)) : List (Nat × Flags) :=
  (List.zip ra (rows128 128 acc)).flatMap fun r => List.zipWith (fun v b => newElement x v r.1 b) r.2 rb

/-- The decoded entries of an operand. -/
def operandTiles (tm : Team) (b : Bool) (r sc n : Nat) : List (Nat × Nat × Nat) :=
  (List.range n).map fun p =>
    match (if b then tm.fb else tm.fa)[p]? with
    | some e => (match entryData tm r e (sc + p) with
        | .ok d => d
        | .error _ => (0, 0, 0))
    | none => (0, 0, 0)

/-- The tile that an attempt of team t commits; its entries stand first in the FIFOs (R301). -/
def attemptTile (s : State) (t : Nat) (a : Attempt) : List (Nat × Flags) :=
  let o := matOp a.ins
  let n := entriesOf o.e
  let kb := o.e.kb.toNat
  let ra := operandTiles (s.team t) false a.aslot.toNat o.e.asc.toNat n
  let rb := operandTiles (s.team a.bTeam) true a.bslot.toNat o.e.bsc.toNat n
  let x := (s.team t).tile a.tile
  newTile o.x (if o.first then List.replicate 16384 0 else tileElts x)
    (operandRows (layQ16 a.aslot.toNat) kb ra) (operandRows (layQ16 a.bslot.toNat) kb rb)

/-- The state of a tile after a commit (15 R319). -/
def committedState (o : MatOp) (x : TileState) : TileState :=
  if o.vproj then .sealed (if o.first then o.back else (match x with
    | .sealed b _ => b
    | _ => o.back)) o.last
  else x

/-- The commit of an attempt with the tile it has computed (R309): the tile, the flags, the entries, the slots, and for
a VPROJ.last its stage. -/
def commitAttempt (t : Nat) (a : Attempt) (new : List (Nat × Flags)) (s : State) : State :=
  let o := matOp a.ins
  let s := ((metCore t 6 (tileRange a).1 (tileRange a).2 true s).1).modTeam t fun tm =>
    { tm with
      tiles := tm.tiles.modify a.tile fun x =>
        { x with data := tileData o.x (new.map fun e => e.1), state := committedState o x.state },
      fa := tm.fa.drop a.posA, fb := tm.fb.drop a.posB,
      valid := (slotsFreed t a).foldl (fun v k => v.set k 0) tm.valid }
  s.modSeq t fun q =>
    { q with
      running := q.running.drop 1,
      stat := orStatFlags (seqFlags (unionFlags (new.map fun e => e.2))) q.stat,
      stage := if o.last then some { ins := a.ins, pc := a.pc, tile := a.tile, dirB := o.back, params := a.params,
                                     selCfg := a.selCfg } else q.stage }

/-- MMS_COMMIT: the oldest running attempt of a team commits, a paired one with its partner. -/
def commitOldest (t : Nat) (s : State) : State :=
  match (s.team t).seq.running with
  | [] => s
  | a :: _ =>
    if (matOp a.ins).pair then
      match (pairTeam s t).map fun u => (u, (s.team u).seq.running) with
      | some (u, b :: _) =>
        if b.ins = a.ins then
          let x := attemptTile s t a
          let y := attemptTile s u b
          commitAttempt u b y (commitAttempt t a x s)
        else s
      | _ => s
    else commitAttempt t a (attemptTile s t a) s

def execMmsCommit (t : Nat) (s : State) : Res := .next (commitOldest t s)

/-! ACLR (R310). -/

/-- The tiles that an ACLR changes: first and count. -/
def aclrTiles (tm : Team) (x : Bool) (d : Nat) : Nat × Nat :=
  if x then (d, 4) else if (tm.tile (d / 4 * 4)).x128 then (d / 4 * 4, 4) else (d, 1)
/-- Every element := v; NaN is canonical. -/
def canonical32 (v : Nat) : Nat := if isNan32 v then fmtF32.nanBits else v

/-- The tiles after an ACLR. -/
def clearTiles (x : Bool) (d v : Nat) (r : Nat × Nat) (tm : Team) : Team :=
  let elts := tileData x (List.replicate 16384 (if x then (xOfF32 v).1 else v))
  { tm with tiles := tm.tiles.mapIdx fun k y =>
      if k < r.1 || r.1 + r.2 ≤ k then y
      else { y with x128 := x, state := .seq, data := if k = d then elts else [] } }

def aclrAct (x : Bool) (d : BitVec 3) (v : Word) (t : Nat) (pc next : DWord) (s : State) : SAct :=
  let tm := s.team t
  if !(tileIn s t d (if x then 4 else 1)) then seqIll pc s
  else
    let r := aclrTiles tm x d.toNat
    let st (k : Nat) : TileState := (tm.tile (tileBase tm (r.1 + k))).state
    match (List.range r.2).find? fun k => st k != .seq with
    | some k => .stall s (if (List.range r.2).any fun k => tileKind (st k) == 7 then 7 else 2)
    | none =>
      if tileRunning tm.seq r.1 r.2 (fun _ => true) then .stall s 2
      else
        let v := canonical32 v.toNat
        let gone := (List.range r.2).foldl (fun s k => (metCore t 6 (accPlace (r.1 + k)) (2 ^ 20) true s).1) s
        let s := gone.modTeam t (clearTiles x d.toNat v r)
        .adv (if x then s.modSeq t fun q => { q with stat := orStatFlags (seqFlags (xOfF32 v).2) q.stat } else s)

def execAclrF32Zero (d : BitVec 3) (s : State) : Res := seqForm (Instr.size (.aclrF32Zero d)) (aclrAct false d 0) s
def execAclrF32Broadcast (d : BitVec 3) (v : Word) (s : State) : Res :=
  seqForm (Instr.size (.aclrF32Broadcast d v)) (aclrAct false d v) s
def execAclrX128Zero (d : BitVec 3) (s : State) : Res := seqForm (Instr.size (.aclrX128Zero d)) (aclrAct true d 0) s
def execAclrX128Broadcast (d : BitVec 3) (v : Word) (s : State) : Res :=
  seqForm (Instr.size (.aclrX128Broadcast d v)) (aclrAct true d v) s

/-! SQIF, SQWH, SQCW (R311 to R313). -/

/-- A test of cw. -/
def sqTest (c : SqCond) (cw v : Word) : Bool :=
  match c with
  | .eq => cw == v
  | .ne => cw != v
  | .lt => decide (cw.toNat < v.toNat)
  | .ge => decide (v.toNat ≤ cw.toNat)
  | .bs => cw.getLsbD (v.toNat % 32)
  | .bc => !(cw.getLsbD (v.toNat % 32))

/-- On at the successor where the test holds, else at the displaced address. -/
def sqBranch (c : SqCond) (v off : Word) (t : Nat) (pc next : DWord) (s : State) : SAct :=
  if sqTest c (s.team t).seq.cw v then .adv s else .go s (jumpTo pc off)

def execSqif (c : SqCond) (v off : Word) (s : State) : Res := seqForm (Instr.size (.sqif c v off)) (sqBranch c v off) s
def execSqwhWhile (c : SqCond) (v off : Word) (s : State) : Res :=
  seqForm (Instr.size (.sqwhWhile c v off)) (sqBranch c v off) s
def execSqwhEndw (off : Word) (s : State) : Res :=
  seqForm (Instr.size (.sqwhEndw off)) (fun t pc _ s =>
    .go (s.modSeq t fun q => { q with endw := true }) (jumpTo pc off)) s

/-- cw written. -/
def setCw (t : Nat) (x : Word) (s : State) : State := s.modSeq t fun q => { q with cw := x }

def execSqcwSet (v : Word) (s : State) : Res :=
  seqForm (Instr.size (.sqcwSet v)) (fun t _ _ s => .adv (setCw t v s)) s
def execSqcwSetSp (off : Word) (s : State) : Res :=
  seqForm (Instr.size (.sqcwSetSp off)) (fun t pc _ s =>
    let o := off.toNat
    if o % 4 ≠ 0 || (s.launchOf t).scratchBytes < o + 4 then .trap s { code := 0x07, i0 := off } pc
    else match coreEcc t 1 o 4 .read [] s with
      | (s, some b) => .trap s { code := b.code, i0 := b.i0, i1 := b.i1, i2 := b.i2 } pc
      | (s, none) => .adv (setCw t (BitVec.ofNat 32 (Store.readLe (s.team t).scratch o 4)) s)) s
def execSqcwAdd (v : Word) (s : State) : Res :=
  seqForm (Instr.size (.sqcwAdd v)) (fun t _ _ s => .adv (setCw t ((s.team t).seq.cw + v) s)) s
/-- cw[31] := cw[30:0] < v[30:0]. -/
def sqCmp (cw v : Word) : Word :=
  BitVec.ofNat 32 (setFld cw.toNat 31 1 (b2n (decide (fld cw.toNat 0 31 < fld v.toNat 0 31))))
def execSqcwCmp (v : Word) (s : State) : Res :=
  seqForm (Instr.size (.sqcwCmp v)) (fun t _ _ s => .adv (setCw t (sqCmp (s.team t).seq.cw v) s)) s
def execSqcwEnd (s : State) : Res :=
  seqForm (Instr.size .sqcwEnd) (fun t _ _ s =>
    let q := (s.team t).seq
    if seqCommitted q then .fin s else .stall s (commitKind q)) s

end Sys2Proof.Machine
end

