-- ==== Sys2Proof/Machine/Vocab.lean ====
section
/-! DEFINITION. Streaming vocabulary projection (15): SEL_CFG and its checks (R315), the heap (R317), VPROJ (R318 to
R320, R330), the forward and backward stages (R321, R322, R328), row records (R324), VMRG (R325, R326), VOUT (R332). -/

set_option linter.unusedVariables false

namespace Sys2Proof.Machine

/-! SEL_CFG (R315). -/

def cfgH (c : Word) : Nat := fld c.toNat 0 7
def cfgRows (c : Word) : Nat := fld c.toNat 8 8

/-- The checks of the selection unit as it starts: H, ROWS, the heaps of the rows in use; `i0`: TRAP_INFO0 of the first two,
which R315 does not name: all ones as an attempt starts (14 R307), else 0 (18 Table 18.1). -/
def selBadCfg (s : State) (t : Nat) (i0 : Word) : Option Trap :=
  let tm := s.team t
  let h := cfgH tm.selCfg
  let n := cfgRows tm.selCfg
  if h < 1 || 64 < h || (s.launchOf t).selRows < n then some { code := 0x0D, i0 := i0 }
  else match (List.range n).find? fun i => decide (h < (tm.rows.getD i {}).heap.length) with
    | some i => some { code := 0x0D, i0 := BitVec.ofNat 32 i }
    | none => none

/-! Storage errors that the unit meets (18 R381, R382; log 114). -/

/-- UNCOR of the sequencer. -/
def seqUncor : Trap := { code := 0x09, i2 := (badEcc .read 6 0).i2 }
/-- The header and the labels of a selection row in the addresses of errors (R314); with its heap. -/
def rowPlaces (i : Nat) : List (Nat × Nat) := [(selPlace + 48 * i, 48), (selPlace + 38912 + 16 * i, 16)]
def rowAll (tm : Team) (i : Nat) : List (Nat × Nat) := (heapPlace i, 8 * (tm.rows.getD i {}).heap.length) :: rowPlaces i
/-- Row i of a tile. -/
def tileRowPlace (tile i : Nat) : Nat × Nat := (accPlace tile + 512 * i, 512)
/-- Reads of some places: errors are corrected and logged; an uncorrectable one is reported. -/
def unitReads (t : Nat) : List (Nat × Nat) → State → State × Bool
  | [], s => (s, false)
  | p :: ps, s =>
    match metCore t 6 p.1 p.2 false s with
    | (s, some _) => (s, true)
    | (s, none) => unitReads t ps s

/-! The heap (R317). -/

/-- An order of FP32 bits other than NaN, in which −0 equals +0. -/
def logitKey (x : Nat) : Int := if x < 2 ^ 31 then x else -((x % 2 ^ 31 : Nat) : Int)
/-- (id, logit) a outranks b. -/
def outranks (a b : Word × Word) : Bool :=
  decide (logitKey b.2.toNat < logitKey a.2.toNat) || (logitKey b.2.toNat == logitKey a.2.toNat && decide (a.1.toNat < b.1.toNat))
/-- An entry put before the first that it outranks. -/
def rankInsert (e : Word × Word) : List (Word × Word) → List (Word × Word)
  | [] => [e]
  | x :: xs => if outranks e x then e :: x :: xs else x :: rankInsert e xs
/-- The insertion rule: the top H of the heap and the candidate. -/
def heapInsert (h : Nat) (heap : List (Word × Word)) (e : Word × Word) : List (Word × Word) := (rankInsert e heap).take h

/-- The pool entries that are free (Table 15.1). -/
def freePool (tm : Team) : Nat := 4096 - tm.rows.foldl (fun a r => a + r.reserved) 0
/-- What a row still needs. -/
def rowNeed (h : Nat) (r : SelRow) : Nat := h - r.reserved
/-- A row that is built with h reserves its need. -/
def growRow (h : Nat) (r : SelRow) : SelRow := { r with reserved := max h r.reserved, h := BitVec.ofNat 7 h }

/-! FP32 arithmetic of the unit: RNE, never flushed, flags collected. -/

def vMul (a b : Nat) : Nat × Flags := fMul fmtF32 .rne false a b
def vAdd (a b : Nat) : Nat × Flags := fAdd fmtF32 .rne false a b
def vSub (a b : Nat) : Nat × Flags := vAdd a (b ^^^ 2 ^ 31)
/-- d(a, b) of R321. -/
def vDiff (a b : Nat) : Nat × Flags :=
  if (fmtF32.read false a).cmp (fmtF32.read false b) == some .eq then (0, 0) else vSub a b
/-- a > b, in numbers. -/
def vGt (a b : Nat) : Bool := (fmtF32.read false a).cmp (fmtF32.read false b) == some .gt
def negInf : Nat := 0xFF800000
def one32 : Nat := 0x3F800000

/-! The forward stage (R321, R322). -/

def parVbase (p : BitVec 512) : Nat := fld p.toNat 0 32
def parVlimit (p : BitVec 512) : Nat := fld p.toNat 32 32
def parTau (p : BitVec 512) : Nat := fld p.toNat 64 32
def parGamma (p : BitVec 512) : Nat := fld p.toNat 96 32
/-- The columns that count, with their ids: VBASE + j, exact, below VLIMIT. -/
def columns (p : BitVec 512) : List Nat := (List.range 128).filter fun j => decide (parVbase p + j < parVlimit p)

/-- The labels of a row that have an id. -/
def labelsOf (r : SelRow) (id : Nat) : List Nat := (List.range 4).filter fun k => (r.lid.getD k 0).toNat == id
/-- The first label, in the order of columns, that has been captured already: SELCONF. -/
def labelConflict (p : BitVec 512) (r : SelRow) : Option Nat :=
  ((columns p).flatMap fun j => labelsOf r (parVbase p + j)).find? fun k => r.lflag.getLsbD k

/-- One column of a row. -/
def stageColumn (p : BitVec 512) (h : Nat) (x : Nat) (id : Nat) (r : SelRow × Flags) : SelRow × Flags :=
  let y := vMul x (parTau p)
  let row := (labelsOf r.1 id).foldl (fun (q : SelRow) k =>
    { q with log := q.log.set k (BitVec.ofNat 32 y.1), lflag := q.lflag ||| BitVec.ofNat 4 (2 ^ k) }) r.1
  let fl := r.2 ||| y.2
  if isNan32 y.1 then ({ row with nanf := true }, fl)
  else
    let e : Word × Word := (BitVec.ofNat 32 id, BitVec.ofNat 32 y.1)
    let row := { row with heap := heapInsert h row.heap e }
    if y.1 = negInf then (row, fl)
    else if vGt y.1 row.m.toNat then
      let d := vDiff row.m.toNat y.1
      let e := exp2Cr d.1
      let u := vMul row.s.toNat e.1
      let w := vAdd u.1 one32
      ({ row with s := BitVec.ofNat 32 w.1, m := BitVec.ofNat 32 y.1 }, fl ||| d.2 ||| e.2 ||| u.2 ||| w.2)
    else
      let d := vDiff y.1 row.m.toNat
      let e := exp2Cr d.1
      let w := vAdd row.s.toNat e.1
      ({ row with s := BitVec.ofNat 32 w.1 }, fl ||| d.2 ||| e.2 ||| w.2)

/-- A row of a tile. -/
def tileRow (elts : List Nat) (i : Nat) : List Nat := (elts.drop (128 * i)).take 128

/-- Every column of a row. -/
def stageRow (p : BitVec 512) (h : Nat) (xs : List Nat) (r : SelRow) : SelRow × Flags :=
  (columns p).foldl (fun r j => stageColumn p h (xs.getD j 0) (parVbase p + j) r) (growRow h r, 0)

/-- SEQ_STAT's NV and OF. -/
def statFlags (t : Nat) (f : Flags) (s : State) : State := s.modSeq t fun q => { q with stat := orStatFlags (seqFlags f) q.stat }

/-- Rows from i on; a trap leaves row i and the rows above as they stood. -/
def stageRows (t : Nat) (st : Stage) (elts : List Nat) : Nat → Nat → State → State × Option (Nat × Trap)
  | 0, _, s => (s, none)
  | n + 1, i, s =>
    let tm := s.team t
    let h := cfgH st.selCfg
    let r := tm.rows.getD i {}
    let need := rowNeed h r
    let met := unitReads t (tileRowPlace st.tile i :: rowAll tm i) s
    let s := met.1
    if met.2 then (s, some (i, seqUncor))
    else if freePool tm < need then
      (s, some (i, { code := 0x0F, i0 := BitVec.ofNat 32 i, i1 := BitVec.ofNat 32 (freePool tm), i2 := BitVec.ofNat 32 need }))
    else match labelConflict st.params r with
      | some k => (s, some (i, { code := 0x10, i0 := BitVec.ofNat 32 i, i1 := BitVec.ofNat 32 k }))
      | none =>
        let x := stageRow st.params h (tileRow elts i) r
        stageRows t st elts n (i + 1)
          (statFlags t x.2 (s.modTeam t fun tm => { tm with rows := tm.rows.set i x.1 }))

/-- The stage has finished: the sequencer goes on at the successor of its VPROJ. -/
def stageDone (t : Nat) (st : Stage) (x : Tile) (s : State) : State :=
  let tm := s.team t
  let x := { x with ctr := laterCtr (tm.tile st.tile).ctr tm.seq.ctr }
  let s := s.modTeam t fun tm => { tm with tiles := tm.tiles.set st.tile x }
  s.modSeq t fun q => { q with stage := none, pc := nextAddr st.pc 16, stat := setWaitKind 0 q.stat }

/-- FORWARD_SELECTION_STAGE. -/
def forwardStage (t : Nat) (s : State) : State :=
  match (s.team t).seq.stage with
  | none => s
  | some st =>
    if st.pending || st.dirB || (s.team t).phase != .resident then s
    else
      let elts := tileElts ((s.team t).tile st.tile)
      match stageRows t st elts (cfgRows st.selCfg - st.row) st.row s with
      | (s, none) => stageDone t st { x128 := false, state := .seq, data := [] } s
      | (s, some (i, tr)) =>
        let s := s.modSeq t fun q => { q with stage := some { st with row := i, pending := true } }
        let tr := if tr.code == 0x0F then withOffset (s.team t).seq st.pc tr else tr
        raiseSeqTrap t tr st.pc s

def execForwardSelectionStage (t : Nat) (s : State) : Res := .next (forwardStage t s)

/-! The backward stage (R328). -/

def gradElement (p : BitVec 512) (r : SelRow) (q : Nat) (x j : Nat) : Nat × Flags :=
  let id := parVbase p + j
  if parVlimit p ≤ id then (0, 0)
  else
    let y := vMul x (parTau p)
    let d := vDiff y.1 r.m.toNat
    let e := exp2Cr d.1
    let z := vMul e.1 q
    let g := vSub z.1 (if (labelsOf r id).isEmpty then 0 else one32)
    let w := vMul g.1 (parGamma p)
    (w.1, y.2 ||| d.2 ||| e.2 ||| z.2 ||| g.2 ||| w.2)

def gradRow (p : BitVec 512) (rows : Nat) (tm : Team) (i : Nat) (xs : List Nat) : List (Nat × Flags) :=
  if rows ≤ i then List.replicate 128 (0, 0)
  else
    let r := tm.rows.getD i {}
    let q := ffnRcpVal .rne false r.s.toNat
    (List.range 128).map fun j =>
      let w := gradElement p r q.1 (xs.getD j 0) j
      (w.1, w.2 ||| q.2)

/-- BACKWARD_GRADIENT_STAGE. -/
def backwardStage (t : Nat) (s : State) : State :=
  match (s.team t).seq.stage with
  | none => s
  | some st =>
    if st.pending || !st.dirB || (s.team t).phase != .resident then s
    else
      let met := unitReads t ((List.range (cfgRows st.selCfg)).flatMap fun i => tileRowPlace st.tile i :: rowPlaces i) s
      let s := met.1
      let tm := s.team t
      if met.2 then raiseSeqTrap t seqUncor st.pc (s.modSeq t fun q => { q with stage := some { st with pending := true } })
      else
      let g := (List.zip (List.range 128) (rows128 128 (tileElts (tm.tile st.tile)))).flatMap fun r =>
        gradRow st.params (cfgRows st.selCfg) tm r.1 r.2
      let s := statFlags t (unionFlags (g.map fun e => e.2)) s
      serveTile t st.tile (stageDone t st { x128 := false, state := .team, data := tileData false (g.map fun e => e.1) } s)

def execBackwardGradientStage (t : Nat) (s : State) : Res := .next (backwardStage t s)

/-! VPROJ (R318 to R320, R330). -/

/-- The checks of R319 and R320 on the tile: a wait, by WAITKIND, or FMT. -/
inductive Sealed where
  | ok
  | wait (kind : Nat)
  | bad
  deriving DecidableEq, Repr

def sealedCheck (tm : Team) (o : MatOp) (d : BitVec 3) : Sealed :=
  let x := tm.tile (tileBase tm d.toNat)
  if tileRunning tm.seq d.toNat 1 (fun _ => true) then .wait 7
  else if x.x128 then .bad
  else if o.first then
    match x.state with
    | .seq => .ok
    | .sealed _ sel => if sel then .wait 7 else .bad
    | _ => .wait 2
  else match x.state with
    | .sealed b sel => if !sel && b == o.back then .ok else .bad
    | _ => .bad

/-- The parameter block (R318), as a VPROJ.last reads it: the block, or the trap; beyond the window, with the lowest offending
offset (08 R174). -/
def readParams (t : Nat) (blk : BitVec 14) (s : State) : State × Except Trap (BitVec 512) :=
  let o := 64 * blk.toNat
  let size := (s.launchOf t).scratchBytes
  if size < o + 64 then (s, .error { code := 0x07, i0 := BitVec.ofNat 32 (max o size) })
  else match coreEcc t 1 o 64 .read [] s with
    | (s, some b) => (s, .error { code := b.code, i0 := b.i0, i1 := b.i1, i2 := b.i2 })
    | (s, none) =>
      let x := Store.readLe (s.team t).scratch o 64
      if fld x 128 384 != 0 then (s, .error (startTrap 0x0D)) else (s, .ok (BitVec.ofNat 512 x))

/-- The start of an attempt: SEL_CFG and the block for a .last, then R308. -/
def vprojStart (i : Instr) (d : BitVec 3) (a b : BitVec 5) (e : VprojExt) (t : Nat) (pc : DWord) (s : State) : SAct :=
  let o := matOp i
  let start (p : BitVec 512) (s : State) : SAct :=
    let tm := s.team t
    match startBad false false (tm.slot a.toNat) (tm.slot b.toNat) a b e.m with
    | some tr => attemptTrap t pc tr s
    | none => goOn t { newAttempt s t i pc d a b t with params := p, selCfg := tm.selCfg } s
  if !o.last then start 0 s
  else match selBadCfg s t 0xFFFFFFFF with
    | some tr => attemptTrap t pc tr s
    | none =>
      match readParams t e.pblk s with
      | (s, .error tr) => attemptTrap t pc tr s
      | (s, .ok p) => start p s

/-- A VPROJ that finds a stage (R322): one that runs is its own, and is waited for; a pending one takes the spill path
once, or resumes; another VPROJ traps. -/
def vprojStage (st : Stage) (spoff : BitVec 16) (t : Nat) (pc : DWord) (s : State) : SAct :=
  if !st.pending then .stall s 7
  else if st.pc != pc then attemptTrap t pc (startTrap 0x0D) s
  else if spoff != 0 && !st.branched then
    .go (s.modSeq t fun q => { q with stage := some { st with branched := true } }) (pc + spoff.signExtend 64)
  else match selBadCfg s t 0 with
    | some tr => .trap s (withOffset (s.team t).seq pc tr) pc
    | none =>
      .stall (s.modSeq t fun q =>
        { q with stage := some { st with pending := false, branched := false, selCfg := (s.team t).selCfg } }) 7

def vprojAct (i : Instr) (d : BitVec 3) (a b : BitVec 5) (e : VprojExt) (t : Nat) (pc next : DWord) (s : State) : SAct :=
  let tm := s.team t
  let o := matOp i
  if !(tileIn s t d 1) then seqIll pc s
  else if tm.seq.running.any fun r => (matOp r.ins).last then .stall s 7
  else match tm.seq.stage with
    | some st => vprojStage st e.spoff t pc s
    | none =>
      match tm.seq.attempt with
      | some at0 => goOn t at0 s
      | none =>
        match sealedCheck tm o d with
        | .wait k => .stall s k
        | .bad => attemptTrap t pc (startTrap 0x0D) s
        | .ok => vprojStart i d a b e t pc s

def execVprojF (first last : Bool) (d : BitVec 3) (a b : BitVec 5) (e : VprojExt) (s : State) : Res :=
  seqForm (Instr.size (.vprojF first last d a b e)) (vprojAct (.vprojF first last d a b e) d a b e) s
def execVprojB (first last : Bool) (d : BitVec 3) (a b : BitVec 5) (e : VprojExt) (s : State) : Res :=
  seqForm (Instr.size (.vprojB first last d a b e)) (vprojAct (.vprojB first last d a b e) d a b e) s

/-! Row records (R324). -/

/-- RS. -/
def recordStride (h : Nat) : Nat := 64 * ceilDiv (64 + 8 * h) 64

/-- A row as a record, as a number. -/
def rowRecord (r : SelRow) (i : Nat) : Nat :=
  rowHeader r i + 2 ^ 512 * pack (r.heap.flatMap fun e => [(32, e.1.toNat), (32, e.2.toNat)])

/-- An incoming record. -/
structure InRow where
  row  : Nat
  inc  : SelRow

/-- The entries of a record. -/
def recordHeap (x n : Nat) : List (Word × Word) :=
  (List.range n).map fun k => (BitVec.ofNat 32 (fld x (512 + 64 * k) 32), BitVec.ofNat 32 (fld x (544 + 64 * k) 32))
/-- Entries stand in rank order. -/
def inRank : List (Word × Word) → Bool
  | a :: b :: r => !(outranks b a) && inRank (b :: r)
  | _ => true

/-- A record, checked but for its labels (R326); none: FMT. -/
def parseRecord (h rows x : Nat) : Option InRow :=
  let n := fld x 72 7
  let heap := recordHeap x (min n h)
  if fld x 64 7 != h || rows ≤ fld x 96 7 || h < n || bitOf x 71 || fld x 84 12 != 0 || fld x 103 25 != 0 ||
      fld x 384 128 != 0 || !(inRank heap) || heap.any (fun e => isNan32 e.2.toNat) then none
  else some ⟨fld x 96 7, {
    m := BitVec.ofNat 32 (fld x 0 32), s := BitVec.ofNat 32 (fld x 32 32), h := BitVec.ofNat 7 h, nanf := bitOf x 79,
    lflag := BitVec.ofNat 4 (fld x 80 4), lid := (List.range 4).map fun k => BitVec.ofNat 32 (fld x (128 + 32 * k) 32),
    log := (List.range 4).map fun k => BitVec.ofNat 32 (fld x (256 + 32 * k) 32), heap := heap }⟩

/-! VMRG (R325, R326). -/

/-- The labels of a record differ from the row's where it has captured them. -/
def labelsDiffer (q : SelRow) (r : SelRow) : Bool :=
  (List.range 4).any fun k => r.lflag.getLsbD k && (r.lid.getD k 0) != (q.lid.getD k 0)

/-- FMT of the first bad record. -/
def mergeFmt (tm : Team) (heapOnly : Bool) (rs : List (Option InRow)) : Option Nat :=
  rs.findIdx? fun r => match r with
    | none => true
    | some x => !heapOnly && labelsDiffer (tm.rows.getD x.row {}) x.inc

/-- SELCONF: a label captured both in a record and in its row as the earlier records leave it. -/
def mergeConf (tm : Team) : List InRow → List (Nat × BitVec 4) → Nat → Option (Nat × Nat)
  | [], _, _ => none
  | r :: rs, seen, n =>
    let have_ := (kGet seen r.row).getD (tm.rows.getD r.row {}).lflag
    let hit := have_ &&& r.inc.lflag
    if hit != 0 then some (n, ((List.range 4).find? fun k => hit.getLsbD k).getD 0)
    else mergeConf tm rs (kSet seen r.row (have_ ||| r.inc.lflag)) (n + 1)

/-- The rows that grow, in record order: row, need, the first of its records. -/
def mergeGrow (tm : Team) (h : Nat) : List InRow → List Nat → Nat → List (Nat × Nat × Nat)
  | [], _, _ => []
  | r :: rs, seen, n =>
    let need := rowNeed h (tm.rows.getD r.row {})
    -- the first record of a grown row, be it one without entries
    let grows := (r :: rs).any fun x => x.row == r.row && !x.inc.heap.isEmpty
    if need = 0 || seen.contains r.row || !grows then mergeGrow tm h rs (r.row :: seen) (n + 1)
    else (r.row, need, n) :: mergeGrow tm h rs (r.row :: seen) (n + 1)
/-- The first record whose row's need no longer fits. -/
def growBad : List (Nat × Nat × Nat) → Nat → Option Nat
  | [], _ => none
  | (_, need, n) :: r, free => if free < need then some n else growBad r (free - need)

/-- One record merged into its row. -/
def mergeRow (heapOnly : Bool) (h : Nat) (i : SelRow) (r : SelRow) : SelRow × Flags :=
  let r := { r with heap := i.heap.foldl (heapInsert h) r.heap }
  if heapOnly then (r, 0)
  else
    let m := if vGt i.m.toNat r.m.toNat then i.m.toNat else r.m.toNat
    let d := vDiff r.m.toNat m
    let e := exp2Cr d.1
    let u := vMul r.s.toNat e.1
    let d' := vDiff i.m.toNat m
    let e' := exp2Cr d'.1
    let u' := vMul i.s.toNat e'.1
    let w := vAdd u.1 u'.1
    ({ r with
        s := BitVec.ofNat 32 w.1, m := BitVec.ofNat 32 m, nanf := r.nanf || i.nanf, lflag := r.lflag ||| i.lflag,
        log := (List.range 4).map fun k => if i.lflag.getLsbD k then i.log.getD k 0 else r.log.getD k 0 },
     d.2 ||| e.2 ||| u.2 ||| d'.2 ||| e'.2 ||| u'.2 ||| w.2)

/-- The merge, in record order. -/
def mergeAll (t : Nat) (heapOnly : Bool) (h : Nat) : List InRow → State → State
  | [], s => s
  | r :: rs, s =>
    let x := mergeRow heapOnly h r.inc ((s.team t).rows.getD r.row {})
    mergeAll t heapOnly h rs (statFlags t x.2 (s.modTeam t fun tm => { tm with rows := tm.rows.set r.row x.1 }))

/-- The records of VMRG from the bytes of its entries. -/
def mergeRecords (h rows cnt : Nat) (bytes : List Byte) : List (Option InRow) :=
  let rs := recordStride h
  (List.range cnt).map fun j => parseRecord h rows (leNat ((bytes.drop (j * rs)).take rs))

def vmrgChecked (heapOnly : Bool) (h : Nat) (t : Nat) (pc : DWord) (k : Nat) (rs : List (Option InRow)) (s : State) : SAct :=
  let tm := s.team t
  let trap (tr : Trap) : SAct := .trap s tr pc
  match mergeFmt tm heapOnly rs with
  | some n => trap { code := 0x0D, i0 := BitVec.ofNat 32 n }
  | none =>
    let rs := rs.filterMap id
    match (if heapOnly then none else mergeConf tm rs [] 0) with
    | some (n, l) => trap { code := 0x10, i0 := BitVec.ofNat 32 n, i1 := BitVec.ofNat 32 l }
    | none =>
      let gs := mergeGrow tm h rs [] 0
      match growBad gs (freePool tm) with
      | some n => trap (withOffset tm.seq pc { code := 0x0F, i0 := BitVec.ofNat 32 n, i1 := BitVec.ofNat 32 (freePool tm),
                                               i2 := BitVec.ofNat 32 (gs.foldl (fun a g => a + g.2.1) 0) })
      | none =>
        let s := s.modTeam t fun tm =>
          { tm with rows := gs.foldl (fun rows g => rows.modify g.1 (growRow h)) tm.rows, fa := tm.fa.drop k }
        .adv (mergeAll t heapOnly h rs s)

/-- SEL_CFG is read and checked as the VMRG starts, before it waits for its entries (R315). FMT of a split-record entry (log 56)
and of a pending stage names nothing. -/
def vmrgAct (heapOnly : Bool) (cnt : Byte) (t : Nat) (pc next : DWord) (s : State) : SAct :=
  let q := (s.team t).seq
  let trap (tr : Trap) (s : State) : SAct := .trap s tr pc
  let go (cfg : Word) (s : State) : SAct :=
    let fa := (s.team t).fa
    let h := cfgH cfg
    let k := ceilDiv (cnt.toNat * recordStride h) 2048
    let es := fa.take k
    if es.any fun e => e.record then trap { code := 0x0D } s
    else if es.length < k then .stall (s.modSeq t fun q => { q with vmrg := some cfg }) 3
    else
      let rs := mergeRecords h (cfgRows cfg) cnt.toNat (es.flatMap fun e => e.bytes)
      let met := unitReads t ((fifoPlace false, heldBytes es) :: rs.flatMap fun r => match r with
        | some x => rowAll (s.team t) x.row
        | none => []) (s.modSeq t fun q => { q with vmrg := none })
      if met.2 then trap seqUncor met.1 else vmrgChecked heapOnly h t pc k rs met.1
  if !q.running.isEmpty then .stall s 0
  else if q.stage.isSome then trap { code := 0x0D } s
  else match q.vmrg with
    | some cfg => go cfg s
    | none =>
      match selBadCfg s t 0 with
      | some tr => trap tr s
      | none => go (s.team t).selCfg s

def execVmrgRow (cnt : Byte) (s : State) : Res := seqForm (Instr.size (.vmrgRow cnt)) (vmrgAct false cnt) s
def execVmrgHeap (cnt : Byte) (s : State) : Res := seqForm (Instr.size (.vmrgHeap cnt)) (vmrgAct true cnt) s

/-! VOUT (R332). -/

/-- A row after its record is written. -/
def clearRow (heapOnly : Bool) (cfg : Word) (r : SelRow) : SelRow :=
  if heapOnly then { r with heap := [], reserved := 0 }
  else { h := BitVec.ofNat 7 (cfgH cfg), lid := r.lid }

/-- The local copy engine acting for VOUT: its writes are performed before it commits. -/
def voutCmd (s : State) (t : Nat) : Cmd :=
  let l := s.launchOf t
  { part := l.part, team := some t, group := 0, kind := .packet 0, die := (s.team t).die, prompt := true, bySeq := true, world := l.world,
    sup := l.sys, ctxRoot := l.ctxRoot, root := rootOf l.lineage }

/-- The checks as VOUT starts. -/
def voutBad (x : Option (BitVec 512)) (a : BitVec 5) (e : VoutExt) (cfg : Word) : Option Trap :=
  match x with
  | none => some (startTrap 0x0D (operandInfo a false))
  | some x =>
    let r := x.toNat
    if layRole r != 0 || layTy r != .b64 || layBase r % 64 != 0 || cfgRows cfg < e.row0.toNat + e.cnt.toNat then
      some (startTrap 0x0D (operandInfo a false))
    else if layDim r 0 * 8 < (e.ridx.toNat + e.cnt.toNat) * recordStride (cfgH cfg) then
      some (startTrap 0x07 (operandInfo a false))
    else none

/-- What stops a record of a VOUT: a failing check stalls it, and its fault is serviced or not by a free bit (log 22); a peer
has 100 µs to answer (22 R412), a link wakes (18 R386); else ENGERR with the status, or what an error is logged as. -/
def voutStop (h : Halt) (i t : Nat) (pc : DWord) (s0 s : State) : SAct :=
  let fail (st : Byte) (s : State) : SAct :=
    .trap (s.modSeq t fun q => { q with vout := none, silence := none })
      { code := 0x14, i0 := BitVec.ofNat 32 i, i1 := st.setWidth 32 } pc
  let touched (m : BitVec 4) (s : State) : State := s.modTeam t fun tm => { tm with touched := tm.touched ||| m }
  match h with
  | .stop st _ => if st = 1 && Config.freeBit s.tick (2 ^ 56 + t) then .stall s0 0 else fail st s
  | .data e m => fail 3 (logErrs (s.launchOf t).part (s.launchOf t).lid [e] (touched m s))
  | .lost m => fail 4 (touched m s)
  | .silent _ =>
    (match (s.team t).seq.silence with
      | none => .stall (s0.modSeq t fun q => { q with silence := some (now s) }) 0
      | some a => if a + 100000 ≤ now s then fail 4 s else .stall s0 0)
  | .retry => .stall s0 0

/-- The next record of a VOUT that has started. -/
def voutGo (heapOnly : Bool) (e : VoutExt) (k : Nat) (x : BitVec 512) (cfg : Word) (t : Nat) (pc : DWord) (s : State) : SAct :=
  let i := e.row0.toNat + k
  let rs := recordStride (cfgH cfg)
  let s0 := s.modSeq t fun q => { q with vout := some (k, x, cfg) }
  let r := (s.team t).rows.getD i {}
  match unitReads t (rowAll (s.team t) i) s with
  | (s, true) => .trap (s.modSeq t fun q => { q with vout := none }) seqUncor pc
  | (s, false) =>
    match putBytes (voutCmd s t) (layLoc x.toNat ((e.ridx.toNat + k) * rs)) rs (rowRecord r i) s with
    | .error h => voutStop h i t pc s0 s
    | .ok (s, _) =>
      let s := s.modTeam t fun tm => { tm with rows := tm.rows.modify i (clearRow heapOnly cfg) }
      if k + 1 < e.cnt.toNat then .stall (s.modSeq t fun q => { q with vout := some (k + 1, x, cfg), silence := none }) 0
      else .adv (s.modSeq t fun q => { q with vout := none, silence := none })

def voutAct (heapOnly : Bool) (a : BitVec 5) (e : VoutExt) (t : Nat) (pc next : DWord) (s : State) : SAct :=
  let tm := s.team t
  let q := tm.seq
  if !q.running.isEmpty then .stall s 0
  else if !heapOnly && q.stage.isSome then .trap s { code := 0x0D } pc
  else match q.vout with
    | some (k, x, cfg) => voutGo heapOnly e k x cfg t pc s
    | none =>
      match selBadCfg s t 0 with
      | some tr => .trap s tr pc
      | none =>
        match voutBad (tm.slot a.toNat) a e tm.selCfg with
        | some tr => .trap s (withOffset q pc tr) pc
        | none => voutGo heapOnly e 0 ((tm.slot a.toNat).getD 0) tm.selCfg t pc s

def execVoutRow (a : BitVec 5) (e : VoutExt) (s : State) : Res := seqForm (Instr.size (.voutRow a e)) (voutAct false a e) s
def execVoutHeap (a : BitVec 5) (e : VoutExt) (s : State) : Res := seqForm (Instr.size (.voutHeap a e)) (voutAct true a e) s

end Sys2Proof.Machine
end

