-- ==== Sys2Proof/Machine/Preempt.lean ====
section
/-! DEFINITION. Pre-emption: the request (17 R356), the taking of groups and sequencers (18 R377, R378; 02 R48), the save
area (R380), the resumption (R377, R379). -/

set_option linter.unusedVariables false

namespace Sys2Proof.Machine

/-! Units. -/

/-- The teams that go together: a team, or both teams of a PAIR unit, the even one first (R356). -/
def unitOf (s : State) (t : Nat) : List Nat :=
  let tm := s.team t
  if bitOf (s.launchOf t).pkt.toNat 14 then
    (List.range s.teams.length).filter fun u =>
      (s.team u).launch == tm.launch && (s.team u).linear / 2 == tm.linear / 2 && (s.team u).phase == tm.phase
  else [t]

/-! The layout of a save area (R380). -/

/-- The sizes of the sections, Table 18.2. -/
def areaSizes (l : Launch) : List Nat :=
  [512, l.groups * (1024 + 128 * l.vregs + roundUp (4 * l.sregs) 64), 16 * l.bars, 64 * l.nqueues, 128, 2048,
    65536 * l.accs, 576 * l.selRows, if l.stream = 0 then 0 else 345088 + 4096, l.scratchBytes]
/-- Offsets of the sections: each at a multiple of 256, and the end. -/
def areaOffsets : List Nat → Nat → List Nat
  | [], a => [a]
  | n :: ns, a => (if n = 0 then a else roundUp a 256) :: areaOffsets ns (if n = 0 then a else roundUp a 256 + n)
def areaSection (l : Launch) (k : Nat) : Nat := (areaOffsets (areaSizes l) 0).getD k 0
def areaSize (l : Launch) : Nat := areaSection l 10

/-! Allocation (log 18). -/

/-- Bytes [a, a + n) lie in the save region and touch no save area. -/
def areaFree (p : Part) (a n : Nat) : Bool :=
  decide (p.saveBase ≤ a) && decide (a + n ≤ p.saveBase + p.saveSize) &&
    p.saveUsed.all fun u => decide (a + n ≤ u.1) || decide (u.1 + u.2 ≤ a)
/-- Where an area goes: at a free place that the dispatcher likes, else at the lowest free one; none: the region is
full. -/
def pickArea (s : State) (p : Part) (n : Nat) : Option Nat :=
  let like := p.saveBase + 256 * (Config.spare s.tick % (p.saveSize / 256 + 1))
  ((like :: p.saveBase :: p.saveUsed.map fun u => roundUp (u.1 + u.2) 256).filter fun a => areaFree p a n) |>.foldl
    (fun acc a => match acc with
      | none => some a
      | some b => if b = like then some b else some (min a b)) none

/-- Areas for some teams; none where the region has no room for one of them. -/
def allocAreas : List Nat → State → Option State
  | [], s => some s
  | t :: ts, s =>
    let l := s.launchOf t
    match pickArea s (s.part l.part) (areaSize l) with
    | none => none
    | some a =>
      allocAreas ts ((s.modPart l.part fun p => { p with saveUsed := p.saveUsed ++ [(a, areaSize l)] }).modTeam t
        fun tm => { tm with saveArea := some a })

/-! PREEMPTION_REQUEST (R356). -/

/-- A launch that records or replays is never pre-empted under R356. -/
def traced (s : State) (t : Nat) : Bool := (s.launchOf t).trace.isSome
/-- The resident teams of a partition. -/
def residentTeams (s : State) (p : Nat) : List Nat :=
  (List.range s.teams.length).filter fun t => (s.team t).phase == .resident && (s.launchOf t).part == p
/-- The lowest PRIO among them. -/
def lowestPrio (s : State) (p : Nat) : Option (BitVec 4) :=
  (residentTeams s p).foldl (fun a t =>
    let x := (s.launchOf t).prio
    some (match a with
      | none => x
      | some y => if x ≤ y then x else y)) none

/-- The victims in the order given, until the team fits. -/
def takeUntil (s : State) (fits : (Nat → Bool) → Bool) : List Nat → List Nat → Option (List Nat)
  | [], out => if fits (fun t => out.contains t) then some out else none
  | t :: ts, out =>
    if fits (fun t => out.contains t) then some out
    else takeUntil s fits ts (if out.contains t then out else out ++ unitOf s t)

/-- The teams on a core, the latest started first. -/
def startInsert (s : State) (t : Nat) : List Nat → List Nat
  | [] => [t]
  | u :: us => if (s.team u).order ≤ (s.team t).order then t :: u :: us else u :: startInsert s t us
def latestFirst (s : State) (ts : List Nat) : List Nat := ts.foldr (startInsert s) []

/-- The teams that a launch pre-empts: none where it may not, or need not, or the team would not fit. Teams that are being
pre-empted already count as absent. -/
def victims (s : State) (n : Nat) : Option (List Nat) :=
  let l := s.launch n
  let going (t : Nat) : Bool := (s.team t).preemptAt.isSome
  match lowestPrio s l.part with
  | none => none
  | some low =>
    let isLow (t : Nat) : Bool := (s.launchOf t).part == l.part && (s.launchOf t).prio == low
    if l.phase != .ready || l.teamCount ≤ l.next || l.prio.toNat < low.toNat + 4 || (placeAt s going n).isSome then none
    else match placeAt s (fun t => going t || isLow t) n with
      | none => none
      | some k =>
        let pair := bitOf l.pkt.toNat 14
        let cores := if pair then [k, pairOf k] else [k]
        let fits (out : Nat → Bool) : Bool := cores.all fun c => canHold s (fun t => going t || out t) l c
        let ts := latestFirst s ((residentTeams s l.part).filter fun t =>
          isLow t && !(going t) && !(traced s t) && cores.contains ((s.team t).die, (s.team t).core))
        takeUntil s fits ts []

def execPreemptionRequest (l : Nat) (s : State) : Res :=
  if decide (l < s.launches.length) then
    match victims s l with
    | none => .next s
    | some ts =>
      match allocAreas ts s with
      | none => .next s
      | some s1 => .next (ts.foldl (fun s t => s.modTeam t fun tm => { tm with preemptAt := some (now s) }) s1)
  else .next s

/-! Taking a group (R378). -/

/-- The lanes that have not exited stand at the successor of the last instruction with SP = 1, or are parked at it. -/
def atSafePoint (g : Group) (pc next : DWord) : Bool :=
  lanesAt g.pcv g.active next == g.active &&
  g.waits.all fun w => w.running || (w.lanes &&& ~~~g.exited) == 0 || w.pc == pc

/-- Every lane that has not exited is parked. -/
def allParked (g : Group) : Bool := g.active == 0
/-- A group that is still to be taken. -/
def toTake (s : State) (t g : Nat) : Bool :=
  let tm := s.team t
  decide (t < s.teams.length) && decide (g < tm.groups.length) && tm.phase == .resident && tm.preemptAt.isSome &&
    !(tm.group g).ended && (tm.group g).taken.isNone

/-- The group is taken; its instruction that no peer has answered is begun afresh. -/
def takeGroup (t g : Nat) (mask : BitVec 61) (forced : Bool) (s : State) : State :=
  { s with silent := without s.silent fun e => e.team == t && e.group == g && !e.expired }.modGrp t g fun gr =>
    { gr with taken := some (mask, forced) }

/-! What a save keeps (02 R48). -/

/-- The live mask of a taken group; a group that has ended has every granule marked, without FLAGS.FORCED (DESIGN CHOICE,
log 129). -/
def Group.live (g : Group) : BitVec 61 := (g.taken.getD (-1, true)).1
/-- The state that a soft error lies in is kept. -/
def softKept (m : BitVec 61) (e : SoftErr) : Bool :=
  match e.cls.toNat with
  | 0 => m.getLsbD (e.idx.toNat / 8)
  | 1 => m.getLsbD (32 + e.idx.toNat / 8)
  | 3 => m.getLsbD (56 + e.idx.toNat / 4)
  | _ => true
/-- A group as it is saved: registers of granules that are not marked read zero, tokens of such granules are complete;
lanes that are parked stand at the blocking instruction (18 R379). -/
def keepLive (g : Group) : Group :=
  let m := g.live
  let pcv := g.waits.foldl (fun p w => if w.running then p else setLanes p (w.lanes &&& ~~~g.exited) fun _ => w.pc) g.pcv
  { g with v := g.v.filter (fun e => m.getLsbD (e.1 / 32 / 8)), s := g.s.filter (fun e => m.getLsbD (32 + e.1 / 8)),
           tok := g.tok.filter (fun e => m.getLsbD (56 + e.1 / 4)), soft := g.soft.filter (softKept m), pcv := pcv,
           formed := false, half := none }
/-- Some group of the team marks a queue register live. -/
def queueLive (tm : Team) (i : Nat) : Bool := tm.groups.any fun g => g.taken.isSome && g.live.getLsbD (40 + i)

/-- What the part keeps of a group while its team is saved: its waits and tokens, and what is pending in it. -/
def bareGroup (g : Group) : Group :=
  { waits := g.waits, tok := g.tok, soft := g.soft, lost := g.lost, stopped := g.stopped, exited := g.exited,
    safeAt := g.safeAt, ended := g.ended, drain := g.drain }
/-- What the part keeps of a saved team: the rest lies in its save area alone. Tags of FIFO entries stay with the part
(log 18). -/
def bareTeam (tm : Team) : Team :=
  { tm with
    groups := tm.groups.map bareGroup, bars := tm.bars.map (fun b => { overrun := b.overrun }),
    queues := tm.queues.map (fun q => { fullSince := q.fullSince }), qregs := [], slots := [], tiles := tm.tiles.map (fun _ => {}),
    rows := tm.rows.map (fun _ => {}), scratch := [], seq := { named := tm.seq.named, base := tm.seq.base },
    fa := tm.fa.map (fun e => { e with bytes := e.bytes.map fun _ => 0 }),
    fb := tm.fb.map (fun e => { e with bytes := e.bytes.map fun _ => 0 }), scale := [], latch := [], valid := [], trapBase := 0,
    selCfg := 0, rngKey := 0, ctrBase := { ver := tm.ctrBase.ver } }

/-! The bytes of a save area (Tables 18.2 to 18.4). The layouts of the queue section, the sequencer state and the saved
FEED work, whose contents the spec names, are the model's (DESIGN CHOICE, log 18). -/

/-- The number of a tile state in TILES. -/
def tileCode : TileState → Nat
  | .seq => 0
  | .team => 1
  | .group g => 2 + 4 * g
  | .sealed b sel => 3 + 4 * b2n b + 8 * b2n sel
def tileOfCode (x : Nat) : TileState :=
  match x % 4 with
  | 0 => .seq
  | 1 => .team
  | 2 => .group (fld x 2 5)
  | _ => .sealed (bitOf x 2) (bitOf x 3)

/-- Writes of a save: offset, bytes, value. -/
abbrev SaveField := Nat × Nat × Nat

/-- Valid and phase bits of recorded barriers (R239). -/
def phaseBits (b : List (Nat × Bool)) (n : Nat) : Nat :=
  (List.range n).foldl (fun a i => match kGet b i with
    | some ph => a + 2 ^ (2 * i) + b2n ph * 2 ^ (2 * i + 1)
    | none => a) 0
def phasesOf (x n : Nat) : List (Nat × Bool) :=
  (List.range n).filterMap fun i => if bitOf x (2 * i) then some (i, bitOf x (2 * i + 1)) else none

/-- The team header; `rv`: the team held the rendezvous. -/
def headerBytes (s : State) (t : Nat) (rv : Bool) : List SaveField :=
  let tm := s.team t
  let l := s.launchOf t
  let q := tm.seq
  let slots := (List.range 32).foldl (fun a i => a + b2n (tm.slot i).isSome * 2 ^ i) 0
  let modes := (List.range 8).foldl (fun a i => a + b2n (tm.tile i).x128 * 2 ^ i) 0
  let tiles := (List.range 8).foldl (fun a i => a + (if i < tm.tiles.length then tileCode (tm.tile i).state else 0) * 2 ^ (8 * i)) 0
  let seqf := pack [(1, b2n (bitOf q.stat.toNat statStopped)), (1, b2n (bitOf q.stat.toNat statEnded)),
    (1, b2n (q.stage.any fun st => st.pending)), (1, b2n (q.stage.any fun st => st.branched)), (1, b2n rv), (3, 0)]
  let row := match q.stage with
    | some st => st.row
    | none => 0
  [(0, 512, pack [(32, 1), (32, l.lid.toNat), (64, l.lineage.toNat), (32, tm.linear), (32, slots), (8, modes),
    (8, fld tm.ctrBase.val.toNat 0 3), (16, 0), (32, q.cw.toNat), (64, q.pc.toNat), (8, seqf), (8, row), (8, 0),
    (8, tm.touched.toNat), (64, now s), (32, tm.logical), (64, tiles), (64, tm.trapBase.toNat), (32, tm.selCfg.toNat),
    (32, tm.rngKey.toNat), (32, q.stat.toNat), (512, phaseBits q.bphase 256)])]

/-- A token: empty, complete, its error, an outstanding COLL; the code of a stalled FEED's is free (log 18). -/
def tokenCode (s : State) (k : Token) : Nat :=
  match k with
  | .empty => 0
  | .names c => match s.cmd? c with
    | none => 1
    | some x => match x.status with
      | some st => if st = 0 then 1 else 2 + 256 * st.toNat
      | none => if isColl x.kind then 3 else (Config.freeWord s.tick (2 ^ 50 + c)).toNat
/-- A token as it returns: empty where its code says so; what it names is the part's. -/
def loadToken (s : State) (code : Nat) (k : Token) : Token :=
  match k with
  | .empty => .empty
  | .names c => if code = 0 && ((s.cmd? c).all fun x => x.status.isSome || isColl x.kind) then .empty else k

/-- A group record: header, live vector registers, live uniform registers. -/
def groupBytes (s : State) (t i : Nat) : List SaveField :=
  let l := s.launchOf t
  let g := keepLive (s.grp t i)
  let live := g.live
  let forced := g.taken.any fun x => x.2
  let by32 (off : Nat) (m : Store 32) : List SaveField := (List.range 32).map fun k => (off + 4 * k, 4, (m.get k).toNat)
  let by64 (off : Nat) (m : Store 64) : List SaveField := (List.range 32).map fun k => (off + 8 * k, 8, (m.get k).toNat)
  let flags := pack [(1, b2n g.handler), (1, b2n g.serial), (1, b2n forced)]
  let mask := if forced then 2 ^ 64 - 1 else 3 + 4 * live.toNat
  by64 0 g.pcv ++ by64 256 g.spcv ++ by32 512 g.draw ++ by32 640 g.rng ++
  ((List.range 7).map fun k => (768 + 4 * k, 4, (g.pred (k + 1)).toNat)) ++
  [(796, 4, g.exited.toNat), (800, 4, g.parked.toNat), (804, 4, g.gstat.toNat), (808, 4, g.mode.toNat),
   (812, 32, pack [(32, g.cause.toNat), (64, g.tpc.toNat), (32, g.tlanes.toNat), (32, g.info0.toNat), (32, g.info1.toNat),
     (32, g.info2.toNat), (32, g.info3.toNat)]), (844, 4, flags), (848, 8, mask)] ++
  ((List.range 16).map fun k => (856 + 4 * k, 4, tokenCode s (g.token k))) ++
  [(920, 64, phaseBits g.bphase 256), (984, 40, 0)] ++
  ((List.range l.vregs).filter (fun n => live.getLsbD (n / 8))).flatMap (fun n =>
    (List.range 32).map fun k => (1024 + 4 * (32 * n + k), 4, (g.v.get (32 * n + k)).toNat)) ++
  ((List.range l.sregs).filter (fun n => live.getLsbD (32 + n / 8))).map fun n =>
    (1024 + 128 * l.vregs + 4 * n, 4, (g.s.get n).toNat)

/-- A barrier record (11 Table 11.2). -/
def barBytes16 (b : Barrier) : Nat :=
  pack [(56, b.pending.toNat), (1, b2n b.phase), (1, b2n b.armed), (1, b2n b.touched), (1, b2n b.faulted), (1, b2n b.expset),
    (3, 0), (6, b.expected.toNat), (6, b.arrived.toNat)]
/-- A queue record: read and write positions, count, allowance, overflow head, tail and count, OVF, OVFMAX; then the
ring and its state. -/
def queueBytes (q : Queue) : Nat :=
  pack [(32, q.rd), (32, if q.cap = 0 then 0 else (q.rd + q.cnt) % q.cap), (32, q.cnt), (32, q.allow.toNat), (32, q.ohead),
    (32, if q.ovfmax = 0 then 0 else (q.ohead + q.ocnt) % q.ovfmax), (32, q.ocnt), (32, 0), (64, q.ovf.toNat), (32, q.ovfmax),
    (32, q.ring), (32, q.cap), (1, b2n q.init), (1, b2n q.inOvf)]

/-- A selection row: header, reserved count, heap in rank order. -/
def rowBytes (r : SelRow) (i : Nat) : List SaveField :=
  [(0, 48, rowHeader r i), (48, 4, r.reserved), (52, 12, 0)] ++
  (List.range 64).map fun k => (64 + 8 * k, 8, match r.heap[k]? with
    | some e => e.1.toNat + 2 ^ 32 * e.2.toNat
    | none => 0)

/-- The number of some bytes. -/
def instrBytes (i : Instr) : List Byte := (encode i).getD []
/-- The sequencer's state beyond the header: where RESUME goes on, the barrier it waits at, a pending stage. -/
def seqBytes (q : Seq) : Nat :=
  let w := q.wait.getD (0, false, 0)
  let stage := match q.stage with
    | none => 0
    | some st => pack [(1, 1), (1, b2n st.dirB), (6, 0), (8, st.tile), (8, (instrBytes st.ins).length), (8, 0), (32, st.selCfg.toNat),
        (64, st.pc.toNat), (512, st.params.toNat), (256, leNat (instrBytes st.ins))]
  pack [(64, q.resumeAt.toNat), (1, b2n q.wait.isSome), (1, b2n w.2.1), (1, b2n q.endw), (13, 0), (16, w.1), (32, 0),
    (64, w.2.2.toNat), (64, 0), (1024, stage)]

/-- The FEEDs of a team that are not over. -/
def openFeeds (s : State) (t : Nat) : List Nat :=
  (List.range s.cmds.length).filter fun n => match s.cmd? n with
    | some c => c.team == some t && c.status.isNone && isFeed c.kind
    | none => false
/-- The matrix unit. -/
def matrixBytes (s : State) (t : Nat) : List SaveField :=
  let tm := s.team t
  let held (f : List Entry) : List Byte := f.flatMap fun e => e.bytes
  [(0, 256, seqBytes tm.seq)] ++
  (List.range 131072).zipWith (fun i b => (256 + i, 1, b.toNat)) (held tm.fa) ++
  (List.range 131072).zipWith (fun i b => (131328 + i, 1, b.toNat)) (held tm.fb) ++
  ((List.range 4096).map fun i => (262400 + 16 * i, 16, (tm.scale.get i).toNat)) ++
  ((List.range 4096).map fun i => (327936 + 4 * i, 4, (tm.latch.get i).toNat)) ++
  ((List.range 512).map fun i => (344320 + i, 1, (List.range 8).foldl (fun a j => a + (tm.valid.get (8 * i + j)).toNat * 2 ^ j) 0)) ++
  [(344832, 256, 0)] ++
  (List.range 64).map fun i => (345088 + 64 * i, 64, match (openFeeds s t)[i]? with
    | some n => n + 1 + 2 ^ 32 * ((s.cmd? n).map fun c => c.doneChunks.length).getD 0
    | none => 0)

/-- Fields moved by an offset. -/
def at_ (o : Nat) (fs : List SaveField) : List SaveField := fs.map fun f => (o + f.1, f.2.1, f.2.2)

/-- The size of a group record. -/
def recordSize (l : Launch) : Nat := 1024 + 128 * l.vregs + roundUp (4 * l.sregs) 64

/-- The whole area of a team. -/
def saveFields (s : State) (t : Nat) (rv : Bool) : List SaveField :=
  let tm := s.team t
  let l := s.launchOf t
  let o (k : Nat) : Nat := areaSection l k
  at_ (o 0) (headerBytes s t rv) ++
  ((List.range l.groups).flatMap fun i => at_ (o 1 + recordSize l * i) (groupBytes s t i)) ++
  ((List.range l.bars).map fun i => (o 2 + 16 * i, 16, barBytes16 (tm.bar i))) ++
  ((List.range l.nqueues).map fun i => (o 3 + 64 * i, 64, queueBytes (tm.queue i))) ++
  ((List.range 16).filter (queueLive tm)).map (fun i => (o 4 + 8 * i, 8, match kGet tm.qregs i with
    | some (.queue n) => 2 ^ 63 + n
    | some (.port n) => 2 ^ 63 + 2 ^ 62 + n
    | none => 0)) ++
  ((List.range 32).map fun i => (o 5 + 64 * i, 64, ((tm.slot i).getD 0).toNat)) ++
  ((List.range l.accs).flatMap fun i =>
    if subTile tm i then []
    else (List.range (if (tm.tile i).x128 then 65536 else 16384)).map fun k =>
      (o 6 + 65536 * i + 4 * k, 4, ((tm.tile i).data.get k).toNat)) ++
  ((List.range l.selRows).flatMap fun i => at_ (o 7 + 576 * i) (rowBytes (tm.rows.getD i {}) i)) ++
  (if l.stream = 0 then [] else at_ (o 8) (matrixBytes s t)) ++
  (List.range l.scratchBytes).map fun i => (o 9 + i, 1, (tm.scratch.get i).toNat)

/-- The area is written (R377 step 3). -/
def writeArea (s : State) (t a : Nat) (rv : Bool) : Memory :=
  (saveFields s t rv).foldl (fun m f => Store.writeLe m (a + f.1) f.2.1 f.2.2) s.mem
/-- What stands in the way of an area's bytes: stores that the part sees, and errors (18 R381, R382). -/
def coverArea (t a : Nat) (rv : Bool) (s : State) : State :=
  let l := s.launchOf t
  let s := observe .part [(a, areaSize l)] s
  if s.ecc.isEmpty then s else partMeets l.part a (areaSize l) ((saveFields s t rv).map fun f => (a + f.1, f.2.1)) s

/-! What a restore reads (R377, R380). -/

/-- n numbers of k bytes each. -/
def numsLe (k : Nat) : Nat → List Byte → List Nat
  | 0, _ => []
  | n + 1, bs => leNat (bs.take k) :: numsLe k n (bs.drop k)
/-- k bytes at an offset, as a number. -/
def numAt (bs : List Byte) (off k : Nat) : Nat := leNat ((bs.drop off).take k)
/-- A register file of n words at an offset, its first word under key k. -/
def fileAt (w : Nat) (bs : List Byte) (off n k : Nat) : Store w := Store.ofWords k ((numsLe (w / 8) n (bs.drop off)).map (BitVec.ofNat w))

/-- The granules that a group record marks live. -/
def recordLive (bs : List Byte) : BitVec 61 := BitVec.ofNat 61 (numAt bs 848 8 / 4)
/-- A group from its record; what the spec keeps at 0 in its registers reads as 0 (00 R5). -/
def loadGroup (s : State) (l : Launch) (bs : List Byte) (g : Group) : Group :=
  let live := recordLive bs
  let regs := numAt bs 812 32
  let flags := numAt bs 844 4
  { g with
    pcv := fileAt 64 bs 0 32 0, spcv := fileAt 64 bs 256 32 0, draw := fileAt 32 bs 512 32 0, rng := fileAt 32 bs 640 32 0,
    p := fileAt 32 bs 768 7 1, exited := BitVec.ofNat 32 (numAt bs 796 4),
    waits := g.waits.map fun w =>
      if w.running then w else { w with lanes := w.lanes &&& BitVec.ofNat 32 (numAt bs 800 4) },
    gstat := BitVec.ofNat 32 (numAt bs 804 4) &&& 0xFFFF01FF, mode := BitVec.ofNat 32 (numAt bs 808 4) &&& 7,
    cause := BitVec.ofNat 32 (fld regs 0 10),
    tpc := BitVec.ofNat 64 (fld regs 32 64), tlanes := BitVec.ofNat 32 (fld regs 96 32), info0 := BitVec.ofNat 32 (fld regs 128 32),
    info1 := BitVec.ofNat 32 (fld regs 160 32), info2 := BitVec.ofNat 32 (fld regs 192 32),
    info3 := BitVec.ofNat 32 (fld regs 224 32), handler := bitOf flags 0, serial := bitOf flags 1,
    tok := (List.range 16).foldl (fun a k => match loadToken s (numAt bs (856 + 4 * k) 4) (g.token k) with
      | .empty => a
      | x => kSet a k x) [],
    bphase := phasesOf (numAt bs 920 64) 256,
    v := (fileAt 32 bs 1024 (32 * l.vregs) 0).filter (fun e => live.getLsbD (e.1 / 32 / 8)),
    s := (fileAt 32 bs (1024 + 128 * l.vregs) l.sregs 0).filter (fun e => live.getLsbD (32 + e.1 / 8)), taken := none }

/-- A barrier from its record. -/
def loadBar (x : Nat) (b : Barrier) : Barrier :=
  { b with pending := BitVec.ofNat 56 (fld x 0 56), phase := bitOf x 56, armed := bitOf x 57, touched := bitOf x 58,
           faulted := bitOf x 59, expset := bitOf x 60, expected := BitVec.ofNat 6 (fld x 64 6), arrived := BitVec.ofNat 6 (fld x 70 6) }
/-- A queue from its record. -/
def loadQueue (x : Nat) (q : Queue) : Queue :=
  { q with rd := fld x 0 32, cnt := fld x 64 32, allow := BitVec.ofNat 16 (fld x 96 32), ohead := fld x 128 32, ocnt := fld x 192 32,
           ovf := BitVec.ofNat 64 (fld x 256 64), ovfmax := fld x 320 32, ring := fld x 352 32, cap := fld x 384 32,
           init := bitOf x 416, inOvf := bitOf x 417 }
/-- A selection row from its 576 bytes. -/
def loadRow (bs : List Byte) : SelRow :=
  let x := numAt bs 0 48
  let word (i : Nat) : Word := BitVec.ofNat 32 (fld x i 32)
  { m := word 0, s := word 32, h := BitVec.ofNat 7 (fld x 64 7), nanf := bitOf x 79, lflag := BitVec.ofNat 4 (fld x 80 4),
    lid := [word 128, word 160, word 192, word 224], log := [word 256, word 288, word 320, word 352],
    heap := ((numsLe 8 64 (bs.drop 64)).take (fld x 72 7)).map fun e => (BitVec.ofNat 32 e, BitVec.ofNat 32 (e / 2 ^ 32)),
    reserved := numAt bs 48 4 }
/-- A binding from its 8 bytes. -/
def loadBind (x : Nat) : Option Bind :=
  if !(bitOf x 63) then none else if bitOf x 62 then some (.port (fld x 0 16)) else some (.queue (fld x 0 16))
/-- FIFO entries, their bytes one after the other. -/
def loadEntries : List Entry → List Byte → List Entry
  | [], _ => []
  | e :: es, bs => { e with bytes := bs.take e.bytes.length } :: loadEntries es (bs.drop e.bytes.length)

/-- The sequencer, from the header and its 256 bytes; an abandoned instruction begins afresh. -/
def loadSeq (hd x : Nat) (q : Seq) : Seq :=
  let st := fld x 256 1024
  let stage : Option Stage := if !(bitOf st 0) then none
    else match decode true (leBytes (fld st 16 8) (fld st 640 256)) with
      | .error _ => none
      | .ok i => some { ins := i, pc := BitVec.ofNat 64 (fld st 64 64), tile := fld st 8 8, dirB := bitOf st 1,
                        params := BitVec.ofNat 512 (fld st 128 512), selCfg := BitVec.ofNat 32 (fld st 32 32), row := fld hd 328 8,
                        pending := bitOf hd 322, branched := bitOf hd 323 }
  { q with pc := BitVec.ofNat 64 (fld hd 256 64), cw := BitVec.ofNat 32 (fld hd 224 32), stat := BitVec.ofNat 32 (fld hd 640 26),
           bphase := phasesOf (fld hd 672 512) 256, resumeAt := BitVec.ofNat 64 (fld x 0 64), endw := bitOf x 66,
           wait := if bitOf x 64 then some (fld x 80 16, bitOf x 65, BitVec.ofNat 64 (fld x 128 64)) else none, stage := stage }

/-- A team from its save area at address a of memory (log 18). -/
def loadTeam (s : State) (l : Launch) (a : Nat) (tm : Team) : Team :=
  let m := goodMem s
  let part (k off n : Nat) : List Byte := Store.window m (a + areaSection l k + off) n
  let hd := leNat (part 0 0 512)
  let recs := (List.range l.groups).map fun i => part 1 (recordSize l * i) (recordSize l)
  let modes := fld hd 192 8
  let ctr : CtrView := { ver := tm.ctrBase.ver, val := BitVec.ofNat 32 (fld hd 200 3) }
  let stream := l.stream != 0
  let tile (i : Nat) (x : Tile) : Tile :=
    { x with x128 := bitOf modes i, state := tileOfCode (fld hd (448 + 8 * i) 8), ctr := ctr,
             data := if bitOf modes (i / 4 * 4) && i % 4 != 0 then []
               else fileAt 32 (part 6 (65536 * i) (if bitOf modes i then 262144 else 65536)) 0 (if bitOf modes i then 65536 else 16384) 0 }
  { tm with
    groups := tm.groups.zipWith (fun g bs => { loadGroup s l bs g with ctr := ctr }) recs,
    bars := tm.bars.mapIdx fun i b => { loadBar (leNat (part 2 (16 * i) 16)) b with ctr := ctr, lastCtr := ctr },
    queues := tm.queues.mapIdx fun i q =>
      let q := loadQueue (leNat (part 3 (64 * i) 64)) q
      { q with ctrs := List.replicate (q.cnt + q.ocnt) ctr },
    qregs := (List.range 16).filterMap fun i =>
      if (tm.groups.zip recs).any fun x => !x.1.ended && (recordLive x.2).getLsbD (40 + i) then (loadBind (leNat (part 4 (8 * i) 8))).map fun b => (i, b) else none,
    slots := (List.range 32).filterMap fun i =>
      if bitOf hd (160 + i) then some (i, BitVec.ofNat 512 (leNat (part 5 (64 * i) 64))) else none,
    tiles := tm.tiles.mapIdx tile, rows := (List.range l.selRows).map fun i => loadRow (part 7 (576 * i) 576),
    scratch := (m.filter fun e => decide (a + areaSection l 9 ≤ e.1) && decide (e.1 < a + areaSection l 9 + l.scratchBytes)).map
      fun e => (e.1 - (a + areaSection l 9), e.2),
    seq := { loadSeq hd (if stream then leNat (part 8 0 256) else 0) tm.seq with ctr := ctr },
    fa := if stream then loadEntries tm.fa (part 8 256 131072) else [],
    fb := if stream then loadEntries tm.fb (part 8 131328 131072) else [],
    scale := if stream then fileAt 128 (part 8 262400 65536) 0 4096 0 else [],
    latch := if stream then fileAt 32 (part 8 327936 16384) 0 4096 0 else [],
    valid := if stream then Store.ofWords 0 ((part 8 344320 512).flatMap fun b => (List.range 8).map fun j => b.extractLsb' j 1) else [],
    trapBase := BitVec.ofNat 64 (fld hd 512 64), selCfg := BitVec.ofNat 32 (fld hd 576 32) &&& 0xFF7F, rngKey := BitVec.ofNat 32 (fld hd 608 32),
    ctrBase := ctr, touched := tm.touched ||| BitVec.ofNat 4 (fld hd 344 4) }

/-- The saved FEED work: each command goes on after the tiles that it has delivered, on the new core, which may hold more than
64 commands then (13 R263; DESIGN CHOICE, log 129). -/
def loadFeeds (t a : Nat) (k : Core) (s : State) : State :=
  if (s.launchOf t).stream = 0 then s
  else (numsLe 64 64 (Store.window (goodMem s) (a + areaSection (s.launchOf t) 8 + 345088) 4096)).foldl (fun s x =>
    if fld x 0 32 = 0 || !((openFeeds s t).contains (fld x 0 32 - 1)) then s
    else s.modCmd (fld x 0 32 - 1) fun c => { c with doneChunks := List.range (fld x 32 32), core := some k, die := k.1 }) s

/-! The save of a team (R377). -/

/-- A command that a save drains: every local engine command but a COLL. -/
def drains (k : CmdKind) : Bool := !(isColl k)
/-- The next tile of a FEED does not fit its FIFO, or its slot is VALID. -/
def feedFull (tm : Team) (c : Cmd) : Bool :=
  match c.kind with
  | .feed f src org _ _ =>
    if 2 ≤ f then tm.valid.get (orgAt org 4 / 16 + c.doneChunks.length) != 0
    else decide (131072 < heldBytes (fifoOf tm f) + entrySize src.toNat)
  | _ => false
/-- A FEED that is stalled on a full FIFO or a VALID slot, or that waits behind one that must be (R377). -/
def feedStalled (s : State) (n : Nat) : Bool :=
  match s.cmd? n with
  | some c =>
    isFeed c.kind && c.status.isNone && c.fault.isNone &&
      (match c.kind, c.team with
        | .feed f _ _ _ _, some t => !(feedTurn s n c f) || feedFull (s.team t) c
        | _, _ => false)
  | none => false
/-- The local commands of a team are drained, but for such FEEDs; one that waits behind such a FEED is stalled with it. -/
def drained (s : State) (t : Nat) : Bool :=
  (List.range s.cmds.length).all fun n => match s.cmd? n with
    | some c => c.team != some t || c.status.isSome || !(drains c.kind) || feedStalled s n
    | none => true

/-- Running attempts complete (R305). -/
def commitAll (t : Nat) (s : State) : State :=
  (List.range (s.team t).seq.running.length).foldl (fun s _ => commitOldest t s) s
/-- Groups taken or ended, commands drained, no stage and no VOUT under way. -/
def savable (s : State) (t : Nat) : Bool :=
  let tm := s.team t
  tm.phase == .resident && tm.preemptAt.isSome && tm.saveArea.isSome && tm.groups.all (fun g => g.ended || g.taken.isSome) &&
    tm.seq.running.isEmpty && tm.seq.vout.isNone && tm.seq.stage.all (fun st => st.pending) && drained s t

/-- The save: an attempt that waits, for an entry or for the rendezvous, is abandoned, and counts in REPLAYS (14 R305; log
130); the area is written, soft errors are
logged, the core is free. -/
def saveTeam (t : Nat) (s : State) : State :=
  let q := (s.team t).seq
  let rv := q.rendezvous.isSome
  let s := if q.attempt.isSome || rv then abandon t s else s
  let s := (s.team t).groups.foldl (fun s g => g.soft.foldl (fun s _ => logSoft t s) s) s
  let a := (s.team t).saveArea.getD 0
  let s := coverArea t a rv s
  let s := arrival t { s with mem := writeArea s t a rv }
  let s := (openFeeds s t).foldl (fun s n => s.modCmd n fun c => { c with core := none }) s
  s.modTeam t fun tm => bareTeam { tm with phase := .saved, preemptAt := none, groups := tm.groups.map keepLive }

/-- The unit of a team is saved where all of it is ready. -/
def trySave (t : Nat) (s : State) : State :=
  let us := unitOf s t
  let s := if us.all fun u => (s.team u).groups.all fun g => g.ended || g.taken.isSome then us.foldl (fun s u => commitAll u s) s else s
  if us.all (savable s) then us.foldl (fun s u => saveTeam u s) s else s

/-- SAFE_POINT_TAKE: the group is taken after its safe point, or at once where all its lanes are parked (where both hold,
a free bit says with which mask); a group that is taken already: its team is saved where it is ready. -/
def execSafePointTake (t g : Nat) (s : State) : Res :=
  if toTake s t g then
    let gr := s.grp t g
    let safe : Option (BitVec 61) := match gr.safeAt with
      | some (m, pc, next) => if atSafePoint gr pc next then some m else none
      | none => none
    let parked := allParked gr
    match safe with
    | some m =>
      if parked && Config.freeBit s.tick (2 ^ 50) then .next (trySave t (takeGroup t g (-1) true s))
      else .next (trySave t (takeGroup t g m false s))
    | none => if parked then .next (trySave t (takeGroup t g (-1) true s)) else .next s
  else .next (trySave t s)

/-- FORCED_SAVE_TIMEOUT: 50 µs after the request. -/
def execForcedSaveTimeout (t g : Nat) (s : State) : Res :=
  let late := match (s.team t).preemptAt with
    | some a => decide (50000 ≤ now s - a)
    | none => false
  if toTake s t g && late then .next (trySave t (takeGroup t g (-1) true s)) else .next s

/-! TEAM_RESUME (R377, R379). -/

/-- DIELOST becomes pending in a group. Its parked lanes unpark, those under a running handler too: at the blocking
instruction, or where a wait that is over sends them. Lanes that run the handler are not parked. -/
def loseGroup (d : Nat) (g : Group) : Group :=
  if g.ended then g
  else
    let to_ (w : Wait) : DWord := match w.done with
      | some none => w.next
      | some (some tr) => tr.pc
      | none => w.pc
    let put (p : Store 64) (ws : List Wait) : Store 64 :=
      ws.foldl (fun p w => setLanes p (w.lanes &&& ~~~g.exited) fun _ => to_ w) p
    let free := g.waits.filter fun w => !w.running
    { g with lost := g.lost ||| BitVec.ofNat 4 (2 ^ d), pcv := put g.pcv free, spcv := put g.spcv (free.filter fun w => w.held),
             waits := g.waits.filter fun w => w.running }
/-- Its sequencer stops. -/
def loseSeq (d t : Nat) (s : State) : State :=
  let q := (s.team t).seq
  if q.named && bitOf q.stat.toNat statRun then raiseSeqTrap t { code := 0x12, i0 := BitVec.ofNat 32 (2 ^ d) } q.pc s else s

/-- A context that has touched a lost die: DIELOST is pending in its groups, its sequencer stops. A saved team takes it at
its return. -/
def loseDieOf (d t : Nat) (s : State) : State :=
  if (s.team t).phase == .saved then s.modTeam t fun tm => { tm with seqLost := tm.seqLost ||| BitVec.ofNat 4 (2 ^ d) }
  else loseSeq d t (s.modTeam t fun tm => { tm with groups := tm.groups.map (loseGroup d) })

/-- What happened to a team while it was saved takes effect: bytes that a COLL counts, lost dies, the supervisor's acts. -/
def catchUp (t : Nat) (s : State) : State :=
  let late := (s.team t).lateBytes
  let s := late.foldl (fun s e => barBytes t e.1 e.2 {} s) (s.modTeam t fun tm => { tm with lateBytes := [] })
  let lost := (s.team t).seqLost
  let s := s.modTeam t fun tm => { tm with seqLost := 0 }
  let s := (List.range 4).foldl (fun s d => if lost.getLsbD d then loseDieOf d t s else s) s
  supLate t s

/-- A team stands on a core again, as its save area says. -/
def restoreTeam (t : Nat) (k : Core) (s : State) : State :=
  let p := s.partOf t
  let a := (s.team t).saveArea.getD 0
  let s := loadFeeds t a k (seeMem .part (s.launchOf t).part a (areaSize (s.launchOf t)) s)
  let s := freeSave t (s.modTeam t fun tm =>
    { loadTeam s (s.launchOf t) a tm with phase := .resident, die := k.1, core := k.2, logical := logicalOf p k })
  let s := arrival t (s.modTeam t fun tm => { tm with touched := tm.touched ||| BitVec.ofNat 4 (2 ^ k.1) })
  let s := settleTeam t (fun _ w s => match w.kind with
    | .yield _ => some (s, none)
    | _ => none) s
  let s := settleTeam t (twaitDone t) s
  let s := (List.range (s.team t).groups.length).foldl (fun s g => releaseDone t g (s.grp t g).waits.length s) s
  catchUp t s

def execTeamResume (t : Nat) (s : State) : Res :=
  let l := s.launchOf t
  if decide (t < s.teams.length) && (savedTeams s l.part).contains t then
    match resumeAt s t with
    | none => .next s
    | some k =>
      if savedFirst s l.part (fun x => decide (l.prio < x)) || (match nextPlace s l.part with
          | some (n, _) => decide (l.prio < (s.launch n).prio)
          | none => false) then .next s
      else
        .next ((unitOf s t).foldl (fun s u => restoreTeam u (if (s.team u).linear == (s.team t).linear then k else pairOf k) s) s)
  else .next s

end Sys2Proof.Machine
end

