-- ==== Sys2Proof/Machine/Blocks.lean ====
section
/-! DEFINITION. The coding of a 256-byte block on links (08 R188, R189): the selector, the payload, the expansion. It
changes no value, so no access goes through it; Laws/Blocks.lean proves that it gives the block back. -/

namespace Sys2Proof.Machine

/-- A coded block: its coding and its payload (Table 8.7). `reserved`: selectors 6 and 7, which the part never
produces. -/
inductive Coded where
  | raw (ws : List Word)
  | zero
  | const (w : Word)
  | delta8 (w : Word) (ds : List (BitVec 8))
  | delta16 (w : Word) (ds : List (BitVec 16))
  | floats (e : BitVec 8) (ms : List (BitVec 24))
  | reserved (sel : BitVec 3)
  deriving DecidableEq, Repr

/-- The 3-bit selector. -/
def Coded.selector : Coded → BitVec 3
  | .raw _ => 0
  | .zero => 1
  | .const _ => 2
  | .delta8 _ _ => 3
  | .delta16 _ _ => 4
  | .floats _ _ => 5
  | .reserved k => k
/-- Bytes of payload. -/
def Coded.payload : Coded → Nat
  | .raw ws => 4 * ws.length
  | .zero | .reserved _ => 0
  | .const _ => 4
  | .delta8 _ ds => 4 + ds.length
  | .delta16 _ ds => 4 + 2 * ds.length
  | .floats _ ms => 1 + 3 * ms.length
/-- Beats of 32 bytes on a link. -/
def Coded.beats (c : Coded) : Nat := (c.payload + 31) / 32

/-- Word i less word 0, read signed, fits n bits. -/
def fitsDelta (n : Nat) (w0 w : Word) : Bool :=
  decide (-(2 ^ (n - 1) : Int) ≤ (w - w0).toInt) && decide ((w - w0).toInt < (2 ^ (n - 1) : Int))
/-- Bits [30:23] of a word; its bits 31 and [22:0]. -/
def exponentOf (w : Word) : BitVec 8 := w.extractLsb' 23 8
def restOf (w : Word) : BitVec 24 := w.extractLsb' 31 1 ++ w.extractLsb' 0 23
def floatOf (e : BitVec 8) (m : BitVec 24) : Word := m.extractLsb' 23 1 ++ e ++ m.extractLsb' 0 23

/-- The coding of a block: the smallest payload among those whose condition holds. The order of the tests is that of the
payloads: 0, 4, 68, 132, 193, 256 bytes. -/
def encodeBlock (ws : List Word) : Coded :=
  let w0 := ws.headD 0
  if ws.all (· == 0) then .zero
  else if ws.all (· == w0) then .const w0
  else if ws.all (fitsDelta 8 w0) then .delta8 w0 (ws.map fun w => (w - w0).setWidth 8)
  else if ws.all (fitsDelta 16 w0) then .delta16 w0 (ws.map fun w => (w - w0).setWidth 16)
  else if ws.all (fun w => exponentOf w == exponentOf w0) then .floats (exponentOf w0) (ws.map restOf)
  else .raw ws

/-- The 64 words of a coded block. None: a reserved selector, which counts as a lasting error (R189; UNCOR, 18 R382). -/
def expandBlock : Coded → Option (List Word)
  | .raw ws => some ws
  | .zero => some (List.replicate 64 0)
  | .const w => some (List.replicate 64 w)
  | .delta8 w ds => some (ds.map fun d => w + d.signExtend 32)
  | .delta16 w ds => some (ds.map fun d => w + d.signExtend 32)
  | .floats e ms => some (ms.map (floatOf e))
  | .reserved _ => none

/-- A coded block as it arrives: its selector and its payload, as a number. -/
def codedOf (sel : BitVec 3) (x : Nat) : Coded :=
  match sel.toNat with
  | 0 => .raw ((List.range 64).map fun i => BitVec.ofNat 32 (x >>> (32 * i)))
  | 1 => .zero
  | 2 => .const (BitVec.ofNat 32 x)
  | 3 => .delta8 (BitVec.ofNat 32 x) ((List.range 64).map fun i => BitVec.ofNat 8 (x >>> (32 + 8 * i)))
  | 4 => .delta16 (BitVec.ofNat 32 x) ((List.range 64).map fun i => BitVec.ofNat 16 (x >>> (32 + 16 * i)))
  | 5 => .floats (BitVec.ofNat 8 x) ((List.range 64).map fun i => BitVec.ofNat 24 (x >>> (8 + 24 * i)))
  | _ => .reserved sel

end Sys2Proof.Machine
end

