-- ==== Sys2Proof/Machine/Fetch.lean ====
section
/-! DEFINITION. What comes before an instruction's effect: which agent moves next (log 4), the stores that are performed
meanwhile (10 R216), and the fetch of a group's or a sequencer's next instruction (02 R31, R53; 04 R90; 14 R291). -/

namespace Sys2Proof.Machine

/-! The next move (log 4). -/

/-- A step of the part, which no word encodes. -/
def isStep (i : Instr) : Bool := (encode i).isNone

/-- The agents that can issue. -/
def issuers (s : State) : List Move :=
  (List.range s.teams.length).flatMap fun t =>
    ((List.range (s.team t).groups.length).filterMap fun g => if canIssue s t g then some (.issue (.group t g)) else none) ++
      (if canSeq s t then [.issue (.seq t)] else [])

/-- The error that some numbers name (log 119), or the world that the monitor assigns (log 85). -/
def strikeOf : List Nat → Option Move
  | [0, src, unit, die, team, addr, cls] =>
    some (.strike { source := BitVec.ofNat 4 src, unit := BitVec.ofNat 16 unit, die := BitVec.ofNat 4 die,
                    team := if team = 0 then none else some (team - 1), addr := addr, cls := cls % 3 })
  | [1, t, g, cls, idx, ls, sev] =>
    some (.soft t g { cls := BitVec.ofNat 4 cls, idx := BitVec.ofNat 8 idx, lanes := BitVec.ofNat 32 ls, sev := sev % 3 })
  | [2, 0, n, w] => some (.assign (.granule n) (w == 1))
  | [2, 1, n, w] => some (.assign (.port (n == 1)) (w == 1))
  | [2, 2, n, w] => some (.assign (.station n) (w == 1))
  | [2, 3, n, w] => some (.assign (.engines n) (w == 1))
  | _ => none

/-- The next move: a scheduled one; the boot of the part after reset; else a free choice among the agents that can issue,
the steps of the part, errors in storage, and the monitor's assignments. -/
def nextMove (s : State) : Option Move :=
  match s.agenda with
  | m :: _ => some m
  | [] =>
    if s.boot = .off then some (.event .powerOnBoot)
    else if Config.freeBit s.tick (2 ^ 61) then
      match strikeOf (Config.strike s.tick) with
      | some m => some m
      | none => (Config.event s.tick).map .event
    else (issuers s)[Config.pick s.tick (issuers s).length]?

/-- A number for a waiting store. -/
def storeKey (q : Pending) : Nat := 2 ^ 63 * (1 + q.id)

/-- Waiting stores are performed when the part likes (08 R191): those of a free set. -/
def settleStores (s : State) : State :=
  if s.buffer.isEmpty then s else performStores (fun q => Config.freeBit s.tick (storeKey q)) s

/-- Time passes (04 R108, log 5). -/
def advance (s : State) : State := { s with tick := s.tick + 1, cycle := s.cycle + 1 + Config.elapsed s.tick }

/-! Fetching (02 R31). -/

/-- What a fetch comes to: an instruction to run, or a state that already holds the outcome. -/
inductive Fetched where
  | run (i : Instr) (s : State)
  | done (s : State)
  deriving DecidableEq, Repr

/-- The bytes of the instruction that begins with some bytes; none where they end before it does (FETCHX). `seq`: in a
matrix stream no live-mask word follows. -/
def wholeInstr (seq : Bool) (bs : List Byte) : Option (List Byte) :=
  match takeLe 8 bs with
  | none => none
  | some w =>
    let n := 8 + extBytes (BitVec.ofNat 2 w) + (if bitOf w 9 && !seq && w % 4 != 3 then 8 else 0)
    if bs.length < n then none else some (bs.take n)

/-- The rest of the fetch block from an address; a fetch is an access of the group with X = 1. -/
def fetchBytes (s : State) (t g : Nat) (pc : DWord) : State × Except Bad (List Byte) :=
  let n := 32 - pc.toNat % 32
  match laneAccess t g .fetch false [] pc.toNat n (fun ps s => observe (.lanes t g (s.grp t g).issueSet) (spansOf ps) s) s with
  | (s, some b) => (s, .error b)
  | (s, none) =>
    match checkAccess s (whoGroup s t g) .fetch false pc.toNat n with
    | .ok ps => (s, .ok (bytesOf n (readPieces s (whoGroup s t g).part ps)))
    | .error (c, a) => (s, .error (badAt c .fetch a))

/-- No instruction may begin at an address: it is not a multiple of 4, or it stands at offset 28 of its fetch block
(02 R31); seen before the fetch (R53 step 1). -/
def noIssueAt (pc : DWord) : Bool := pc.toNat % 4 != 0 || pc.toNat % 32 == 28

/-- The next instruction of a group: FETCHX, a fault of the fetch, ILL, or an instruction (02 R53). A fetch over a link
that is not up, or from a silent peer, is repeated (18 R386, 22 R412). -/
def fetchGroup (t g : Nat) (s : State) : Fetched :=
  let gr := s.grp t g
  let pc := gr.issuePc
  let stop (code : Byte) (i0 i1 i2 : Word) (s : State) : Fetched :=
    .done (trapIssue t g gr.issueSet { code := code, lanes := gr.issueSet, pc := pc, i0 := i0, i1 := i1, i2 := i2 } s)
  if !canIssue s t g then .done s
  else if noIssueAt pc then stop 0x02 0 0 0 s
  else match gateLanes (ctxOf s t g ⟨0, false, none⟩ 8) .fetch false (32 - pc.toNat % 32) [pc.toNat] s with
  | some (.hold s) => .done s
  | some _ => .done s
  | none => match fetchBytes s t g pc with
    | (s, .error b) => stop b.code b.i0 b.i1 b.i2 (if b.ofPeer then dropExpired t g s else s)
    | (s, .ok bs) =>
      match wholeInstr false bs with
      | none => stop 0x02 0 0 0 s
      | some bs =>
        match decode false bs with
        | .ok i => .run i { s with cur := .group t g }
        | .error _ => stop 0x01 0 0 0 s

/-- What an SQWH.endw must find at its target (14 R312). -/
def isWhile : Instr → Bool
  | .sqwhWhile _ _ _ => true
  | _ => false

/-- What a sequencer's fetch comes to: its bytes; it is not performed yet; the supervisor's fault; a trap. -/
inductive SeqFetch where
  | bytes (s : State) (bs : List Byte)
  | wait (s : State)
  | fault
  | trap (s : State) (tr : Trap)
  deriving DecidableEq, Repr

/-- The fetch of n bytes for a sequencer, with the team's translation and its launch's rights: a lost die, an
uncorrectable error or a peer that does not answer is a sequencer trap (18 R388; DEDUCED, log 120). -/
def fetchStream (t : Nat) (pc : DWord) (n : Nat) (s : State) : SeqFetch :=
  let l := s.launchOf t
  match checkAccess s (whoLaunch l) .fetch false pc.toNat n with
  | .error _ => .fault
  | .ok ps =>
    let lost := lostHomes s l.part ps
    if lost != 0 then
      .trap (s.modTeam t fun tm => { tm with touched := tm.touched ||| lost }) { code := 0x12, i0 := lost.setWidth 32 }
    else if linkBusy s l.part (s.team t).die ps then .wait s
    else if (peersOf ps).any fun p => !(peerAnswers s p) then
      match (s.team t).seq.fetchWait with
      | none => .wait (s.modSeq t fun q => { q with fetchWait := some (now s) })
      | some a =>
        if 100000 ≤ now s - a then
          let b := badEcc .fetch 7 ((ps.map fun e => e.1.pa).headD 0)
          .trap (s.modSeq t fun q => { q with fetchWait := none }) { code := b.code, i0 := b.i0, i1 := b.i1, i2 := b.i2 }
        else .wait s
    else
      match meetPieces l.part l.lid (fun pg e => e.metBy .fetch (s.team t) pg) [] ps
          (touchPieces t l.part ps (observe (.seq t) (spansOf ps) s)) with
      | (s, some e) =>
        let b := badEcc .fetch e.source.toNat (if e.inMem then e.addr else 0)
        .trap s { code := b.code, i0 := b.i0, i1 := b.i1, i2 := b.i2 }
      | (s, none) =>
        .bytes (if (s.team t).seq.fetchWait.isSome then s.modSeq t fun q => { q with fetchWait := none } else s)
          (bytesOf n (readPieces s l.part ps))

/-- The next instruction of a team's sequencer: a fault of its fetch is the supervisor's (14 R291), FETCHX and ILL are
sequencer traps. -/
def fetchSeq (t : Nat) (s : State) : Fetched :=
  let pc := (s.team t).seq.pc
  let stop (tr : Trap) (s : State) : Fetched := .done (raiseSeqTrap t tr pc s)
  if !canSeq s t then .done s
  else if noIssueAt pc then stop { code := 0x02 } s
  else match fetchStream t pc (32 - pc.toNat % 32) s with
    | .fault => .done (s.modSeq t fun q => { q with fetchFault := true })
    | .wait s => .done s
    | .trap s tr => stop tr s
    | .bytes s bs =>
      match wholeInstr true bs with
      | none => stop { code := 0x02 } s
      | some bs =>
        match decode true bs with
        | .ok i =>
          if (s.team t).seq.endw && !(isWhile i) then
            stop { code := 0x01 } (s.modSeq t fun q => { q with endw := false })
          else .run i ({ s with cur := .seq t }.modSeq t fun q => { q with endw := false })
        | .error _ => stop { code := 0x01 } s

/-- The monitor assigns a granule, a port, a station or a die's engines to a world (22 R407). -/
def assignWorld (x : Assigned) (secure : Bool) (s : State) : State :=
  match x with
  | .granule n => { s with worlds := kSet s.worlds n secure }
  | .port second => { s with portSecure := s.portSecure.set (b2n second) secure }
  | .station n => { s with stations := s.stations.modify n fun y => { y with secure := secure } }
  | .engines d => s.modDie d fun y => { y with engines := secure }

/-- What a move runs. A group with a pending DIELOST takes it at its next issue (18 R376, R388). -/
def fetchMove (m : Move) (s : State) : Fetched :=
  match m with
  | .event i => if isStep i then .run i { s with cur := .none } else .done s
  | .strike e => .done { s with ecc := s.ecc ++ [e] }
  | .soft t g e => .done (s.modGrp t g fun gr => { gr with soft := gr.soft ++ [e] })
  | .assign x w => .done (if s.boot == .monitor then assignWorld x w s else s)
  | .issue (.group t g) =>
    if (s.grp t g).lost ≠ 0 then .run (.dielostTrap t g) { s with cur := .none } else fetchGroup t g s
  | .issue (.seq t) => fetchSeq t s
  | .issue .none => .done s

/-- The state before a step's effect: the scheduled move is taken off, waiting stores are performed, waiting cores and
teams are noted (11 R247). -/
def beforeStep (s : State) : State := noteIdle (settleStores { s with agenda := s.agenda.drop 1 })

/-! A program placed for the next step (log 24). -/

/-- Where the placed instruction stands, and the tables that map it. -/
def placeCode : Nat := 0x400000
def placeRoot : Nat := 0x1000

/-- The packet of the placed launch: one team of one group that declares the most a team may. -/
def placePacket : BitVec 1024 :=
  BitVec.ofNat 1024 (pack [(8, 1), (56, 0), (64, placeCode), (64, placeCode), (32, 1), (32, 1), (32, 1), (5, 0), (5, 31),
    (7, 64), (9, 256), (5, 16), (1, 0), (11, 1024), (4, 8), (8, 128), (7, 64)])

/-- The translation of the code page: three levels of tables and a 2 MiB leaf with W and X. -/
def placeTables (m : Memory) : Memory :=
  let m := Store.writeLe m placeRoot 8 (1 + 0x300000)
  let m := Store.writeLe m 0x300000 8 (1 + 0x310000)
  Store.writeLe m (0x310000 + 8 * 2) 8 (1 + 2 + 4 + 8 + placeCode)

/-- The state with a part booted, a partition of die 0, a launch and a resident team whose group 0, or whose sequencer
where the opcode is a matrix one (02 R51), issues next at the code address; the instruction's bytes stand there. -/
def placeInstr (s : State) (nbits w : Nat) : State :=
  let t := s.teams.length
  let seq := decide (0x68 ≤ fld w 2 7) && decide (fld w 2 7 ≤ 0x6F)
  let code : DWord := BitVec.ofNat 64 placeCode
  let part : Part := { noPart with dies := 1, started := true, root := placeRoot }
  let launch : Launch := { part := 0, pkt := placePacket, lid := 1, lineage := BitVec.ofNat 64 (1 + 2 ^ 20), world := false, next := 1 }
  let team : Team :=
    { launch := s.launches.length, linear := 0, die := 0, core := 0, logical := 0,
      groups := [{ pcv := setLanes [] (-1) fun _ => code }],
      bars := List.replicate 256 {}, queues := List.replicate 16 {},
      tiles := List.replicate 8 { state := .seq }, rows := List.replicate 128 { h := 64 },
      seq := { named := true, base := code, pc := code, stat := 1 },
      selCfg := 64 + 128 * 256, touched := 1 }
  { s with
    powered := true, boot := .monitor, buffer := [], ecc := [],
    dies := s.dies.modify 0 fun d => { d with lost := false },
    parts := kSet s.parts 0 part, launches := s.launches ++ [launch], teams := s.teams ++ [team],
    mem := Store.writeBytes (placeTables s.mem) placeCode (leBytes 24 (w % 2 ^ nbits)),
    agenda := [.issue (if seq then .seq t else .group t 0)] }

end Sys2Proof.Machine
end

