-- ==== Sys2Proof/Machine/System.lean ====
section
/-! DEFINITION. The part around the cores: hang reports (11 R248), the error log (18 R384), links, heartbeats and lost
dies (R386 to R388), peers (22 R412, 08 R179), power (22 R414), boot and recovery (R401 to R403), semaphores (R409, R410),
partitions (R404, R405), attestation (R408), host ports (R407), stations (R411), the sequencer's fetch faults (14 R291). -/

set_option linter.unusedVariables false

namespace Sys2Proof.Machine

/-! Hang reports (R248). -/

/-- A wait-graph entry (11 Table 11.9). -/
def waitEntry (kind party obj team pc : Nat) : Nat := pack [(8, kind), (8, party), (16, obj), (32, team), (64, pc)]
/-- KIND and OBJECT of a wait. -/
def waitObject (s : State) (g : Group) (w : Wait) : Nat × Nat :=
  match w.kind with
  | .barrier b _ => (1, b)
  | .push q _ _ => (2, q)
  | .pop (.queue q) _ _ => (3, q)
  | .pop (.port n) _ _ => (3, n)
  | .tokens m => (4, ((maskTokens m).filter fun k => !(tokenDone s (g.token k))).headD 0)
  | .tile a => (5, a)
  | .yield _ => (7, 0)
  | .children _ _ | .cbar _ | .hvc _ => (0, 0)
/-- The wait of a group that began first. -/
def firstOf (g : Group) : Option Wait :=
  g.waits.foldl (fun a w => match a with
    | none => some w
    | some x => if w.order < x.order then some w else some x) none

/-- The instruction that a sequencer waits at. -/
def seqInstr (s : State) (t : Nat) : Option Instr :=
  let l := s.launchOf t
  let pc := (s.team t).seq.pc.toNat
  let n := 32 - pc % 32
  match checkAccess s (whoLaunch l) .fetch false pc n with
  | .ok ps => (wholeInstr true (bytesOf n (readPieces s l.part ps))).bind fun bs => match decode true bs with
    | .ok i => some i
    | .error _ => none
  | .error _ => none
/-- The tile that a sequencer instruction names. -/
def seqTile (i : Instr) : Nat :=
  match i with
  | .mms _ d _ _ _ | .mmsPair _ d _ _ _ | .vprojF _ _ d _ _ _ | .vprojB _ _ d _ _ _ | .rel _ d
  | .aclrF32Zero d | .aclrF32Broadcast d _ | .aclrX128Zero d | .aclrX128Broadcast d _ => d.toNat
  | _ => 0
/-- KIND and OBJECT of the sequencer's wait. -/
def seqObject (s : State) (t : Nat) : Nat × Nat :=
  let q := (s.team t).seq
  match waitKind q with
  | 1 => (1, match q.wait with
    | some (b, _, _) => b
    | none => 0)
  | 2 => (5, ((seqInstr s t).map seqTile).getD 0)
  | k => (6, k - 3)

/-- One entry for each waiting party: groups ascending, the sequencer last. -/
def waitGraph (s : State) (t : Nat) : List Nat :=
  let tm := s.team t
  ((List.range tm.groups.length).filterMap fun g => if (tm.group g).ended then none
    else (firstOf (tm.group g)).map fun w =>
      let o := waitObject s (tm.group g) w
      waitEntry o.1 g o.2 tm.linear w.pc.toNat) ++
  (if seqOver tm.seq then [] else
    let o := seqObject s t
    [waitEntry o.1 0xFF o.2 tm.linear tm.seq.pc.toNat])
/-- Two entries a slot. -/
def pairSlots : List Nat → List (BitVec 256)
  | [] => []
  | [a] => [BitVec.ofNat 256 a]
  | a :: b :: r => BitVec.ofNat 256 (a + 2 ^ 128 * b) :: pairSlots r

/-- HANG_REPORT: once for a wait that has lasted the threshold. -/
def execHangReport (t : Nat) (s : State) : Res :=
  let tm := s.team t
  let l := s.launchOf t
  let due := match tm.hangAt with
    | some a => decide (a ≤ now s)
    | none => false
  if due && !tm.hangDone && cyclicWait s t then
    let es := pairSlots (waitGraph s t)
    let slot := completionSlot l.lid.toNat 3 2 (touchedOf s tm.launch).toNat es.length 0 0 tm.linear l.lineage.toNat
    .next (putRecord { part := l.part, ring := BitVec.ofNat 64 (l.f 448 64), phys := false, slots := slot :: es,
                       world := l.world, ctxRoot := l.ctxRoot } (s.modTeam t fun tm => { tm with hangDone := true }))
  else .next s

/-! The error log (R384). -/

/-- ERROR_LOG_LOST_ENTRIES: one entry of KIND 7 with the count and the time of the first entry lost, once a slot is free. -/
def execErrorLogLostEntries (p : Nat) (s : State) : Res :=
  let n := (s.part p).lostErrs
  if n = 0 then .next s
  else match writeRecord { part := p, ring := (s.part p).errRing, phys := true,
                           slots := [logSlot (s.part p).lostAt 7 0 0 0 (min n (2 ^ 32 - 1)) 0 0] } s with
    | .done _ s _ => .next (s.modPart p fun q => { q with lostErrs := 0 })
    | _ => .next s

/-! Links and heartbeats (R386, R387). -/

/-- The partition that holds a die. -/
def partOfDie (s : State) (d : Nat) : Option Nat := (s.parts.find? fun e => e.2.dies.getLsbD d).map fun e => e.1
/-- An entry in the log of the die's partition. -/
def logDie (d kind source : Nat) (s : State) : State :=
  match partOfDie s d with
  | some p => logError p kind d source 0 0 0 s
  | none => s

/-- LINK_WAKE_RETRY: a request reaches a power-gated link, which begins to wake; or one is repeated, and finds the link
awake or still waking (a free bit). -/
def execLinkWakeRetry (die : Nat) (s : State) : Res :=
  let d := s.die die
  if d.lost then .next s
  else if d.linkState = 0 then .next (s.modDie die fun d => { d with linkState := 1, linkSince := now s })
  else if d.linkState = 1 && decide (now s - d.linkSince ≤ 10000) && Config.freeBit s.tick (2 ^ 49 + die) then
    .next (s.modDie die fun d => { d with linkState := 0 })
  else .next s

/-- LINK_RETRAIN: a link that is not awake within 10 µs is retrained, and KIND 5 is logged; a retrained link is up. -/
def execLinkRetrain (die : Nat) (s : State) : Res :=
  let d := s.die die
  if d.lost then .next s
  else if d.linkState = 1 && decide (10000 < now s - d.linkSince) then
    .next (logDie die 5 7 (s.modDie die fun d => { d with linkState := 2 }))
  else if d.linkState = 2 then .next (s.modDie die fun d => { d with linkState := 0 })
  else .next s

def execDieHeartbeat (die : Nat) (s : State) : Res :=
  .next (if (s.die die).lost || !(s.die die).clocked then s else s.modDie die fun d => { d with lastBeat := now s })

/-! The loss of a die (R388). -/

/-- A team that is resident on the die ends, and its grid with status DIELOST. -/
def loseTeam (t : Nat) (s : State) : State :=
  let n := (s.team t).launch
  let s := (killTeam t 4 s).modLaunch n fun l => { l with dieLost := true }
  match traceIdx s n with
  | some i => s.modTrace i fun tr => { tr with incomplete := true }
  | none => s

/-- Die d is declared lost. -/
def loseDie (d : Nat) (s : State) : State :=
  let here := (List.range s.teams.length).filter fun t => (s.team t).phase == .resident && (s.team t).die == d
  let touched := (List.range s.teams.length).filter fun t =>
    ((s.team t).phase == .resident || (s.team t).phase == .saved) && (s.team t).touched.getLsbD d && !(here.contains t)
  let s := s.modDie d fun x => { x with lost := true }
  let s := here.foldl (fun s t => loseTeam t s) s
  let s := touched.foldl (fun s t => loseDieOf d t s) s
  logDie d 4 0 s

/-- DIE_LOST: no heartbeat for 1 ms, or no usable link for 1 ms. -/
def execDieLost (die : Nat) (s : State) : Res :=
  let d := s.die die
  if decide (die < 4) && d.clocked && !d.lost && (decide (1000000 ≤ now s - d.lastBeat) ||
      (d.linkState != 0 && decide (1000000 ≤ now s - d.linkSince))) then .next (loseDie die s)
  else .next s

/-- DIELOST_TRAP: at the group's next issue. -/
def execDielostTrap (t g : Nat) (s : State) : Res :=
  let gr := s.grp t g
  if canIssue s t g && gr.lost != 0 then
    .next (trapIssue t g gr.issueSet { code := 0x12, lanes := gr.issueSet, pc := gr.issuePc, i0 := gr.lost.setWidth 32 }
      (s.modGrp t g fun x => { x with lost := 0 }))
  else .next s

/-! Peers (R412, 08 R179, R194). -/

/-- REMOTE_ACCESS_TIMEOUT: the requests that a peer has not answered for 100 µs end when their instructions issue again. -/
def execRemoteAccessTimeout (peer : Nat) (s : State) : Res :=
  .next { s with silent := s.silent.map fun e =>
    if e.peer == peer && decide (100000 ≤ now s - e.since) then { e with expired := true } else e }

/-- Bytes that a peer or a host reads, writes, or changes by an atomic: it meets what waits and the errors (18 R381, R382); the
bytes of an uncorrectable word are free. -/
def outRead (o : Observer) (a n : Nat) (s : State) : State × List Byte :=
  let s := seeMem o ((partAt s a).getD 0) a n s
  (s, Store.readBytes (goodMem s) a n)
def outWrite (o : Observer) (a : Nat) (bytes : List Byte) (s : State) : State :=
  let s := coverMem o ((partAt s a).getD 0) a bytes.length s
  { s with mem := Store.writeBytes s.mem a bytes }
def outAtom (o : Observer) (a n : Nat) (f : Nat → Nat) (s : State) : State × List Byte :=
  let r := outRead o a n s
  ({ r.1 with mem := Store.writeLe r.1.mem a n (f (leNat r.2)) }, r.2)

/-- A block that arrives in coded form: its 64 words; a reserved selector is a lasting error of the whole block (08 R189), of L2
at its home slice (DESIGN CHOICE, log 131). -/
def putCoded (a : Nat) (c : Coded) (s : State) : State :=
  match expandBlock c with
  | some ws => outWrite .peer a (ws.flatMap fun x => leBytes 4 x.toNat) s
  | none =>
    let p := s.part ((partAt s a).getD 0)
    { s with ecc := s.ecc ++ (List.range 32).map fun i =>
        { source := 3, unit := BitVec.ofNat 16 (homeSlice (partDies p).length a), die := BitVec.ofNat 4 ((homeDie p a).getD 0),
          team := none, addr := a + 8 * i, cls := 2 } }

/-- PEER_REMOTE_ACCESS: a request of a peer part at a local address; what a read answers goes to the peer. An address that
is not populated answers nothing and writes nothing. -/
def execPeerRemoteAccess (addr : BitVec 41) (acc : PeerAcc) (s : State) : Res :=
  let a := addr.toNat
  let there (n : Nat) : Bool := (List.range n).all fun i => s.parts.any fun e => populated s e.2 (a + i)
  let answer (x : State × List Byte) : Res := .next { x.1 with peerData := x.1.peerData ++ [x.2] }
  match acc with
  | .read n => if there n then answer (outRead .peer a n s) else .next s
  | .write bytes => .next (if there bytes.length then outWrite .peer a bytes s else s)
  | .atom op ty x =>
    let n := tyBytes ty
    if !(there n) || a % n ≠ 0 || !(atomAccepts op ty) then .next s
    else answer (outAtom .peer a n (fun old => (atomVal op ty old x).1) s)
  | .counter op base pos draw arg =>
    if !(there 4) || a % 4 ≠ 0 then .next s
    else if op = .clear then .next (outWrite .peer (a / 256 * 256) (List.replicate 256 0) s)
    else
      let req (old : Nat) : Nat × Nat := ctrRequest op base pos draw.toNat arg.toNat old
      let r := outAtom .peer a 4 (fun old => (req old).1) s
      answer (r.1, [BitVec.ofNat 8 (req (leNat r.2)).2])
  | .coded sel payload => .next (if there 256 && a % 256 == 0 then putCoded a (codedOf sel (leNat payload)) s else s)

/-! Power (R107, R414). -/

def execHeadroomUpdate (die : Nat) (v : BitVec 16) (s : State) : Res := .next (s.modDie die fun d => { d with headroom := v })
def execThermalThrottle (die : Nat) (s : State) : Res := .next (s.modDie die fun d => { d with headroom := 0 })

/-- The semaphores that a port holds are free. -/
def dropPort (port : Bool) (s : State) : State :=
  { s with sems := s.sems.map fun x => if x.held && x.owner == port then {} else x }
/-- THERMAL_TRIP: the module powers off, and the event is logged; both host ports see a link-down (log 81). -/
def execThermalTrip (die : Nat) (s : State) : Res :=
  .next { dropPort true (dropPort false s) with powered := false, trips := s.trips ++ [die] }

/-! Boot (R401 to R403). -/

/-- n bytes of an image from a; zeros behind its end. -/
def slice (img : List Byte) (a n : Nat) : List Byte :=
  let x := (img.drop a).take n
  x ++ List.replicate (n - x.length) 0
def imgHeader (img : List Byte) : Nat := leNat (slice img 0 256)
def imgPayload (img : List Byte) : List Byte := slice img 256 (fld (imgHeader img) 96 32)
def sigBytes : Nat := 7856

/-- The step of R401 that an image fails: 5 malformed, 2 the key, 3 the version, 4 the signature. -/
def imageFails (img : List Byte) : Option Nat :=
  let h := imgHeader img
  let len := fld h 96 32
  let fin := roundUp (256 + len) 64
  if fld h 0 32 ≠ 0x1D9C0A01 || fld h 32 16 ≠ 1 || fld h 48 16 ≠ 0 || fld h 512 1536 ≠ 0 || len % 64 ≠ 0 ||
      2 ^ 26 < fin + sigBytes then some 5
  else if Config.sha256 (slice img 32 32) ≠ Config.fusedKeyHash then some 2
  else if fld h 64 32 < Config.fusedMinVersion.toNat then some 3
  else if !(Config.verify (BitVec.ofNat 256 (fld h 256 256)) (slice img 0 (256 + len)) (slice img fin sigBytes)) then some 4
  else none

/-- POWER_ON_BOOT: the ROM verifies the image in flash and starts the monitor, and the dies are clocked; or it enters
recovery. -/
def execPowerOnBoot (s : State) : Res :=
  if s.boot = .off then
    match imageFails s.flash with
    | some _ => .next { s with boot := .recovery }
    | none =>
      .next { s with boot := .monitor, monitor := imgPayload s.flash,
                     monLoad := BitVec.ofNat 64 (fld (imgHeader s.flash) 128 64),
                     monEntry := BitVec.ofNat 64 (fld (imgHeader s.flash) 192 64),
                     dies := s.dies.map fun d => { d with clocked := true, lastBeat := now s } }
  else .next s

/-- The port that holds a semaphore. -/
def holds (s : State) (k : Nat) (port : Bool) : Bool :=
  match s.sems[k]? with
  | some x => x.held && x.owner == port
  | none => false

/-- A module reset, with an image in flash: everything as right after reset; TIME goes on (04 R108). -/
def moduleReset (img : List Byte) (s : State) : State :=
  { State.reset with flash := img, trips := s.trips, tick := s.tick, timeBase := now s }

/-- STATE of a status word. -/
def stateOf (x : DWord) : Nat := fld x.toNat 0 4
/-- A write of v to GO by a port: by the holder of semaphore 15, 1 starts the verification. -/
def writeGo (port : Bool) (v : DWord) (s : State) : State :=
  if s.boot = .recovery && holds s 15 port && v == 1 && stateOf s.recStatus != 1 && stateOf s.recStatus != 2 then
    { s with recStatus := 1 }
  else s

/-- RECOVERY_GO, one step of it: a host writes the image, where one is given, and GO; then the ROM verifies what the window
holds, writes it to flash or clears the mailbox; then the module resets (R402, R403). -/
def execRecoveryGo (port : Bool) (image : List Byte) (v : DWord) (s : State) : Res :=
  if s.boot != .recovery then .next s
  else match stateOf s.recStatus with
    | 1 =>
      match imageFails s.window with
      | none => .next { s with flash := s.window, recStatus := 2 }
      | some k => .next { s with window := [], recStatus := BitVec.ofNat 64 (3 + 16 * k) }
    | 2 => .next (moduleReset s.flash s)
    | _ =>
      if holds s 15 port && v == 1 then
        .next (writeGo port v { s with window := if image.isEmpty then s.window else image })
      else .next s

/-! Semaphores (R409, R410). -/

/-- What a read returns (22 Table 22.3). -/
def semValue (grant : Bool) (x : Sem) : Word := BitVec.ofNat 32 (pack [(1, b2n grant), (1, b2n x.held), (1, b2n (x.held && x.owner))])

/-- A read of a semaphore by a port: a claim, and the value that it returns. -/
def claimSem (port : Bool) (k : Nat) (s : State) : State × Word :=
  let x := s.sems.getD k {}
  if x.held then (s, semValue false x)
  else ({ s with sems := s.sems.set k { held := true, owner := port } }, semValue true { held := true, owner := port })
/-- A write of a semaphore by a port. -/
def releaseSem (port : Bool) (k : Nat) (s : State) : State := if holds s k port then { s with sems := s.sems.set k {} } else s

/-- SEMAPHORE_CLAIM: a read by one port, or by both in one cycle; semRead takes the values, port 0's first. -/
def execSemaphoreClaim (sem : BitVec 4) (who : Claimant) (s : State) : Res :=
  let k := sem.toNat
  let x := s.sems.getD k {}
  match who with
  | .port p => .next { (claimSem p k s).1 with semRead := [(claimSem p k s).2] }
  | .both =>
    if x.held then .next { s with semRead := [semValue false x, semValue false x] }
    else
      let y : Sem := { held := true, owner := s.tieBit }
      .next { s with sems := s.sems.set k y, tieBit := !s.tieBit, semRead := [semValue (!s.tieBit) y, semValue s.tieBit y] }

def execSemaphoreRelease (sem : BitVec 4) (port : Bool) (s : State) : Res :=
  .next (releaseSem port sem.toNat s)
def execPortReset (port : Bool) (s : State) : Res := .next (dropPort port s)

/-! Partitions (R404, R405). -/

def reqPart (r : Nat) : Nat := fld r 0 2
def reqOp (r : Nat) : Nat := fld r 2 2
def reqDies (r : Nat) : BitVec 4 := BitVec.ofNat 4 (fld r 4 4)
def reqCarve (r d : Nat) : Nat := fld r (16 + 4 * d) 4

/-- The granules that hold bytes [a, a + n), by their first addresses. -/
def granulesOf (a n : Nat) : List Nat :=
  (List.range ((a + n + 2 ^ 21 - 1) / 2 ^ 21 - a / 2 ^ 21)).map fun i => a / 2 ^ 21 * 2 ^ 21 + i * 2 ^ 21
/-- A granule is memory of the partition that a request describes: HBM4E of its dies, or near store that it carves out. -/
def granuleIn (r a : Nat) : Bool :=
  if a < hbmTop then (reqDies r).getLsbD (granuleDie a)
  else decide (nearBase ≤ a) && decide (a < nearBase + 4 * nearWindow) && (reqDies r).getLsbD (memDie a) &&
    decide ((a - nearBase) % nearWindow < reqCarve r (memDie a) * 128 * 2 ^ 20)
/-- The world that a granule begins in. -/
def granuleStart (r a : Nat) : Bool := bitOf r (8 + memDie a)
/-- Bytes [a, a + n) lie in memory of the new partition, in one of its worlds. -/
def inPart (r a n : Nat) : Bool :=
  (decide (a + n ≤ hbmTop) || decide (nearBase ≤ a)) && (granulesOf a n).all fun x => granuleIn r x && granuleStart r x == granuleStart r a

/-- The form of a request: OP, HANG, and at least one die where a partition is created. A reserved bit is read as nothing. -/
def reqMalformed (op r : Nat) : Bool :=
  reqOp r != op || decide (60000 < fld r 32 32) || (op != 1 && reqDies r == 0)

/-- REASON of a refused creation; `s`: the state in which PART is free. `back`: dies that a re-creation returns to
service. -/
def createRefused (s : State) (back : BitVec 4) (r : Nat) : Option Nat :=
  let dies := reqDies r
  let mine := (List.range 4).filter dies.getLsbD
  if mine.any fun d => (partOfDie s d).isSome || ((s.die d).lost && !(back.getLsbD d)) then some 1
  else if mine.any fun d => decide (4 < reqCarve r d) then some 2
  else if fld r 64 64 % 65536 ≠ 0 || fld r 128 64 % 65536 ≠ 0 || !(inPart r (fld r 64 64) (fld r 128 64)) ||
      fld r 192 64 % 64 ≠ 0 || !(inPart r (fld r 192 64) 64) || fld r 256 64 % 64 ≠ 0 || !(inPart r (fld r 256 64) 64) then
    some 3
  else none

/-- Device memory that a host port reaches: populated, in the port's world (R407). -/
def portReaches (s : State) (port : Bool) (a : Nat) : Bool :=
  (decide (a < hbmTop) || s.parts.any fun e => populated s e.2 a) &&
    granuleWorld s a == s.portSecure.getD (if port then 1 else 0) false
/-- A port reaches bytes [a, a + n). -/
def portHas (s : State) (port : Bool) (a n : Nat) : Bool := (List.range n).all fun i => portReaches s port (a + i)

/-- Bytes of memory. -/
def imageBytes (s : State) (a n : Nat) : List Byte := Store.readBytes s.mem a n

/-- The system image is verified: the last bytes are its signature. -/
def systemVerified (r : Nat) (img : List Byte) : Bool :=
  decide (sigBytes ≤ img.length) && Config.verify (BitVec.ofNat 256 (fld r 448 256)) (img.take (img.length - sigBytes)) (img.drop (img.length - sigBytes))

/-- The device registers of a partition as at reset. -/
def clearDevs (p : Nat) (m : Store 8) : Store 8 := m.filter fun e => e.1 / 2 ^ 33 != p

/-- The queues that a supervisor registers as it starts, each in its granule's world (R404, 17 R351). -/
def firstQueues (s : State) (p root : Nat) : List QueueReg :=
  (Config.bootQueues s.tick).filterMap fun e =>
    if e.2.2 = 0 then none
    else (pageIn s p (some root) e.1.toNat).map fun pg => { desc := e.1, sys := e.2.1, root := e.2.2, world := granuleWorld s pg.pa }

/-- The stations of a die (log 123). -/
def dieStation (i : Nat) : Nat := i / 8
/-- The worlds that a partition's dies, their granules, stations and copy engines begin in. -/
def setWorlds (dies : BitVec 4) (sec : Nat → Bool) (s : State) : State :=
  { s with
    dies := s.dies.mapIdx fun d x => if dies.getLsbD d then { x with secure := sec d, engines := sec d } else x,
    stations := s.stations.mapIdx fun i x => if dies.getLsbD (dieStation i) then { x with secure := sec (dieStation i) } else x,
    worlds := s.worlds.filter fun e => !(dies.getLsbD (memDie (e.1 * 2 ^ 21))) }

/-- The partition stands; its supervisor runs where its image is verified. An image that the port does not reach is not
(DESIGN CHOICE, log 122). -/
def createPart (port : Bool) (r root : Nat) (s : State) : State :=
  let p := reqPart r
  let ok := portHas s port (fld r 320 64) (fld r 384 32) && systemVerified r (imageBytes s (fld r 320 64) (fld r 384 32))
  let hang := fld r 32 32
  let part : Part :=
    { dies := reqDies r, hangMs := if hang = 0 then 5000 else hang, saveBase := fld r 64 64, saveSize := fld r 128 64,
      errRing := BitVec.ofNat 64 (fld r 192 64), faultRing := BitVec.ofNat 64 (fld r 256 64),
      started := ok, root := root, image := imageBytes s (fld r 320 64) (fld r 384 32), key := BitVec.ofNat 256 (fld r 448 256) }
  let s := setWorlds (reqDies r) (fun d => bitOf r (8 + d))
    { s with
      parts := kSet s.parts p part, devRegs := clearDevs p s.devRegs,
      dies := s.dies.mapIdx fun d x => if (reqDies r).getLsbD d then
          { x with carve := reqCarve r d, lost := false, lastBeat := now s, linkState := 0 } else x,
      mailbox := BitVec.ofNat 64 (2 + 16 * (if ok then 0 else 4)) }
  if ok then s.modPart p fun pt => { pt with queues := firstQueues s p root } else s

/-- Every launch of the partition ends as under CANCEL and its record is written, where its ring can take it; then nothing
of the partition is left. -/
def removePart (p : Nat) (s : State) : State :=
  let open_ (s : State) : List Nat := (List.range s.launches.length).filter fun n =>
    (s.launch n).part == p && (doneStatus (s.launch n)).isNone
  let s := (open_ s).foldl (fun s n => if (s.launch n).parent.isNone then cancelTree n s else s) s
  let s := { s with teams := s.teams.map fun tm =>
    if (s.launch tm.launch).part == p && tm.phase != .retired then stripTeam .retired tm else tm }
  let s := (open_ s).reverse.foldl (fun s n => if gridOver s n then completeGrid n s else s) s
  setWorlds (s.part p).dies (fun _ => false) { s with
    parts := kErase s.parts p, records := s.records.filter fun r => r.part != p, unread := s.unread.filter fun u => u.part != p,
    cmds := s.cmds.map fun c => if c.part == p && c.status.isNone then { c with status := some 9, signalled := true } else c,
    faults := s.faults.filter fun f => (s.launchOf f.team).part != p, devRegs := clearDevs p s.devRegs,
    dies := s.dies.mapIdx fun d x => if (s.part p).dies.getLsbD d then { x with carve := 0 } else x,
    mailbox := 2 }

/-- The result word of a refusal (22 Table 22.9): nothing else changes. -/
def refuse (why : Nat) (s : State) : State := { s with mailbox := BitVec.ofNat 64 (3 + 16 * why) }
/-- The partition exists. -/
def partExists (s : State) (p : Nat) : Bool := (kGet s.parts p).isSome
/-- The monitor takes up a request: one that a port has rung for, or one that the holder of semaphore 14 writes and rings for
in the same step. The event is that of the request's OP; a reserved OP comes with a creation. -/
def takesUp (s : State) (port : Bool) (op r : Nat) : Bool :=
  s.boot == .monitor && (reqOp r == op || (op == 0 && reqOp r == 3)) &&
    (if stateOf s.mailbox = 1 then leNat (slice s.request 0 256) == r && s.rungBy == port else holds s 14 port)
/-- The request stands in the mailbox. -/
def withRequest (r : Nat) (port : Bool) (s : State) : State := { s with request := leBytes 256 r, rungBy := port }

def execPartitionCreate (port : Bool) (req : BitVec 2048) (root : Nat) (s : State) : Res :=
  let r := req.toNat
  if !(takesUp s port 0 r) then .next s
  else
    let s := withRequest r port s
    if reqMalformed 0 r then .next (refuse 5 s)
    else if partExists s (reqPart r) then .next (refuse 6 s)
    else match createRefused s 0 r with
      | some k => .next (refuse k s)
      | none => .next (createPart port r root s)

def execPartitionRemove (port : Bool) (req : BitVec 2048) (root : Nat) (s : State) : Res :=
  let r := req.toNat
  if !(takesUp s port 1 r) then .next s
  else
    let s := withRequest r port s
    if reqMalformed 1 r then .next (refuse 5 s)
    else if !(partExists s (reqPart r)) then .next (refuse 6 s)
    else .next (removePart (reqPart r) s)

def execPartitionRecreate (port : Bool) (req : BitVec 2048) (root : Nat) (s : State) : Res :=
  let r := req.toNat
  if !(takesUp s port 2 r) then .next s
  else
    let s := withRequest r port s
    if reqMalformed 2 r then .next (refuse 5 s)
    else if !(partExists s (reqPart r)) then .next (refuse 6 s)
    else
      let s1 := removePart (reqPart r) s
      match createRefused s1 (s.part (reqPart r)).dies r with
      | some k => .next (refuse k s)
      | none => .next (createPart port r root s1)

/-! Attestation (R408). -/

/-- The firmware image that stands in flash (R403): what lies behind its signature is no part of it. -/
def flashImage (img : List Byte) : List Byte := img.take (roundUp (256 + fld (imgHeader img) 96 32) 64 + sigBytes)
/-- The quote on a partition, its signature last. -/
def quoteBytes (s : State) (p : Nat) (nonce : BitVec 256) : List Byte :=
  let pt := s.part p
  let ds := partDies pt
  let msg := Config.quoteOf nonce (Config.sha256 (flashImage s.flash)) (Config.sha256 pt.image) pt.dies (ds.map harvest)
    (BitVec.ofNat 4 (ds.foldl (fun a d => a + b2n (s.die d).secure * 2 ^ d) 0))
  msg ++ Config.sign msg

def execHostAttestationRequest (port : Bool) (p : Nat) (nonce : BitVec 256) (s : State) : Res :=
  .next (if s.boot == .monitor && partExists s p then { s with quotes := s.quotes ++ [quoteBytes s p nonce] } else s)

/-- Bytes written one by one; none: a check fails. -/
def putList (w : Who) (root : Nat) : Nat → List Byte → State → Option State
  | _, [], s => some s
  | a, b :: bs, s =>
    match partWrite w root a 1 b.toNat s with
    | none => none
    | some s => putList w root ((a + 1) % 2 ^ 64) bs s

/-- Service 0x0010: the nonce at s0:s1, the quote to s2:s3. -/
def writeQuote (c : Ctx) (s : State) : State :=
  let l := s.launchOf c.t
  let w := { whoPart l.part l.world true with root := l.ctxRoot }
  match partGet w (arg64 s c 0) 32 s with
  | (s, none) => s
  | (s, some x) => (putList w (rootOf l.lineage) (arg64 s c 2) (quoteBytes s l.part (BitVec.ofNat 256 x)) s).getD s

def execAttestationQuote (h : Hdr) (s : State) : Res :=
  serviceForm h (Instr.size (.attestationQuote h)) 0x10 writeQuote noResult s

/-! Host ports (R403, R405, R407, R409). -/

/-- Bytes that start at off, written into a window of a size that starts at lo; what lies outside it is dropped. -/
def splice (w : List Byte) (lo size off : Nat) (bytes : List Byte) : List Byte :=
  if off + bytes.length ≤ lo || lo + size ≤ off then w
  else
    let b := (bytes.drop (lo - off)).take (size - (off - lo))
    slice w 0 (off - lo) ++ b ++ w.drop (off - lo + b.length)
/-- What a write leaves of the 8-byte word at lo; none: it does not reach it. -/
def wordWritten (lo off : Nat) (bytes : List Byte) : Option DWord :=
  if off + bytes.length ≤ lo || lo + 8 ≤ off then none else some (BitVec.ofNat 64 (leNat (splice (List.replicate 8 0) lo 8 off bytes)))
/-- The semaphores that an access to BAR 0 reaches. -/
def semsAt (off n : Nat) : List Nat := (List.range 16).filter fun i => decide (off < 0x108 + 8 * i) && decide (0x100 + 8 * i < off + n)

/-- A byte of BAR 0 that no semaphore holds (Table 22.5, R405). -/
def barByte (s : State) (a : Nat) : Byte :=
  match s.boot with
  | .recovery =>
    if 0x1008 ≤ a && a < 0x1010 then BitVec.ofNat 8 (s.recStatus.toNat / 256 ^ (a - 0x1008))
    else if 0x4000000 ≤ a && a < 0x8000000 then s.window.getD (a - 0x4000000) 0
    else 0
  | .monitor =>
    if 0x2000 ≤ a && a < 0x2100 then s.request.getD (a - 0x2000) 0
    else if 0x2108 ≤ a && a < 0x2110 then BitVec.ofNat 8 (s.mailbox.toNat / 256 ^ (a - 0x2108))
    else 0
  | .off => 0
/-- A read of BAR 0 by a port: each semaphore that it reaches is claimed. -/
def barRead (port : Bool) (off n : Nat) (s : State) : State × List Byte :=
  let r := (semsAt off n).foldl (fun (a : State × List (Nat × Word)) k =>
    let x := claimSem port k a.1
    (x.1, a.2 ++ [(k, x.2)])) (s, [])
  (r.1, (List.range n).map fun i =>
    let a := off + i
    if 0x100 ≤ a && a < 0x180 then BitVec.ofNat 8 (((kGet r.2 ((a - 0x100) / 8)).getD 0).toNat / 256 ^ (a % 8)) else barByte s a)
/-- A doorbell of a port: from the holder of semaphore 14, 1 sets the monitor to work. -/
def writeBell (port : Bool) (v : DWord) (s : State) : State :=
  if holds s 14 port && v == 1 && stateOf s.mailbox != 1 then { s with mailbox := 1, rungBy := port } else s
/-- A write to BAR 0 by a port. -/
def barWrite (port : Bool) (off : Nat) (bytes : List Byte) (s : State) : State :=
  let s := (semsAt off bytes.length).foldl (fun s k => releaseSem port k s) s
  match s.boot with
  | .off => s
  | .recovery =>
    let s := { s with window := splice s.window 0x4000000 0x4000000 off bytes }
    match wordWritten 0x1000 off bytes with
    | some v => writeGo port v s
    | none => s
  | .monitor =>
    let s := { s with request := splice s.request 0x2000 256 off bytes }
    match wordWritten 0x2100 off bytes with
    | some v => writeBell port v s
    | none => s

/-- The offset in BAR 0 that an address names: every address until the monitor runs, then those from 2^63 on
(DESIGN CHOICE, log 121); none: device memory. -/
def barOffset (s : State) (a : Nat) : Option Nat :=
  if s.boot = .monitor then (if 2 ^ 63 ≤ a then some (a - 2 ^ 63) else none) else some (a % 2 ^ 63)

/-- HOST_PORT_ACCESS: BAR 0; once the monitor runs, device memory too. Unsupported Request answers no bytes and writes
nothing. -/
def execHostPortAccess (port : Bool) (addr : DWord) (acc : HostAcc) (s : State) : Res :=
  let a := addr.toNat
  let answer (x : State × List Byte) : Res := .next { x.1 with hostData := x.1.hostData ++ [x.2] }
  match barOffset s a, acc with
  | some off, .read n => answer (barRead port off n s)
  | some off, .write bytes => .next (barWrite port off bytes s)
  | some _, .atom _ _ _ => answer (s, [])
  | none, .read n => answer (if portHas s port a n then outRead .host a n s else (s, []))
  | none, .write bytes => .next (if portHas s port a bytes.length then outWrite .host a bytes s else s)
  | none, .atom op ty x =>
    let n := tyBytes ty
    answer (if !(portHas s port a n) || a % n ≠ 0 || !(atomAccepts op ty) then (s, [])
      else outAtom .host a n (fun old => (atomVal op ty old x).1) s)

/-- DEVICE_REGISTER_WRITE: by the supervisor of a partition, to its own register. -/
def execDeviceRegisterWrite (p : Nat) (addr v : DWord) (s : State) : Res :=
  let a := addr.toNat
  if !(partExists s p) || !(s.part p).started || !(isDev a) || a % 8 ≠ 0 then .next s
  else
    let s1 := physWrite p a 8 v.toNat s
    .next (if a = devBase + 0x2000 then supAct p s1 else s1)

/-! Stations (R411). -/

def execStationRetraining (st : Nat) (width : BitVec 3) (compress : Bool) (s : State) : Res :=
  .next (if width == 4 || width == 2 || width == 1 then
    { s with stations := s.stations.modify st fun x => { x with width := width, compress := compress } } else s)

/-! The sequencer's fetch faults (14 R291). -/

def execSequencerFetchFault (t : Nat) (serviced : Bool) (s : State) : Res :=
  if (s.team t).seq.fetchFault then
    if serviced then .next (s.modSeq t fun q => { q with fetchFault := false })
    else .next (endFaulted t 0x06 (s.modSeq t fun q => { q with fetchFault := false }))
  else .next s

end Sys2Proof.Machine
end

