-- ==== Sys2Proof/Machine/Dispatch.lean ====
section
/-! DEFINITION. The one dispatch: each instruction to its meaning. -/

namespace Sys2Proof.Machine

def exec (i : Instr) (s : State) : Host.Outcome State Fault Refusal :=
  match i with
  | .nop h ext => Sys2Proof.Machine.execNop h ext s
  | .bra h off => Sys2Proof.Machine.execBra h off s
  | .bru h off => Sys2Proof.Machine.execBru h off s
  | .jmpi h a => Sys2Proof.Machine.execJmpi h a s
  | .call h d off => Sys2Proof.Machine.execCall h d off s
  | .callI h d a => Sys2Proof.Machine.execCallI h d a s
  | .ret h a => Sys2Proof.Machine.execRet h a s
  | .exit h => Sys2Proof.Machine.execExit h s
  | .yield h => Sys2Proof.Machine.execYield h s
  | .yieldUnpark t g k => Sys2Proof.Machine.execYieldUnpark t g k s
  | .trap h info => Sys2Proof.Machine.execTrap h info s
  | .rft h => Sys2Proof.Machine.execRft h s
  | .sysrd h d id => Sys2Proof.Machine.execSysrd h d id s
  | .syswr h id a => Sys2Proof.Machine.execSyswr h id a s
  | .seqCtlResume h a => Sys2Proof.Machine.execSeqCtlResume h a s
  | .plop h tbl d a b c => Sys2Proof.Machine.execPlop h tbl d a b c s
  | .unassignedOpcode w => Sys2Proof.Machine.execUnassignedOpcode w s
  | .iadd h ty sat d a b => Sys2Proof.Machine.execIadd h ty sat d a b s
  | .iaddCc h ty d a b pc => Sys2Proof.Machine.execIaddCc h ty d a b pc s
  | .isub h ty sat d a b => Sys2Proof.Machine.execIsub h ty sat d a b s
  | .isubCc h ty d a b pc => Sys2Proof.Machine.execIsubCc h ty d a b pc s
  | .imulLo h ty sat d a b => Sys2Proof.Machine.execImulLo h ty sat d a b s
  | .imulHi h ty d a b => Sys2Proof.Machine.execImulHi h ty d a b s
  | .imulWide h ty d a b => Sys2Proof.Machine.execImulWide h ty d a b s
  | .imadLo h ty sat d a b c => Sys2Proof.Machine.execImadLo h ty sat d a b c s
  | .imadHi h ty d a b c => Sys2Proof.Machine.execImadHi h ty d a b c s
  | .imadWide h ty d a b c => Sys2Proof.Machine.execImadWide h ty d a b c s
  | .shfL h ty d a b => Sys2Proof.Machine.execShfL h ty d a b s
  | .shfR h ty d a b => Sys2Proof.Machine.execShfR h ty d a b s
  | .shfRa h ty d a b => Sys2Proof.Machine.execShfRa h ty d a b s
  | .shfRol h ty d a b => Sys2Proof.Machine.execShfRol h ty d a b s
  | .shfLf h d a b c => Sys2Proof.Machine.execShfLf h d a b c s
  | .shfRf h d a b c => Sys2Proof.Machine.execShfRf h d a b c s
  | .ltab h ty tbl d a b c => Sys2Proof.Machine.execLtab h ty tbl d a b c s
  | .icmp h ty cond pd a b => Sys2Proof.Machine.execIcmp h ty cond pd a b s
  | .imnmxMin h ty d a b => Sys2Proof.Machine.execImnmxMin h ty d a b s
  | .imnmxMax h ty d a b => Sys2Proof.Machine.execImnmxMax h ty d a b s
  | .bfe h ty d a b => Sys2Proof.Machine.execBfe h ty d a b s
  | .bfi h ty d a b c => Sys2Proof.Machine.execBfi h ty d a b c s
  | .bitsPopc h ty d a => Sys2Proof.Machine.execBitsPopc h ty d a s
  | .bitsClz h ty d a => Sys2Proof.Machine.execBitsClz h ty d a s
  | .bitsCtz h ty d a => Sys2Proof.Machine.execBitsCtz h ty d a s
  | .bitsBrev h ty d a => Sys2Proof.Machine.execBitsBrev h ty d a s
  | .sel h ty d a b pc => Sys2Proof.Machine.execSel h ty d a b pc s
  | .mov h ty d b => Sys2Proof.Machine.execMov h ty d b s
  | .movPush h ty q b => Sys2Proof.Machine.execMovPush h ty q b s
  | .movPop h ty d q => Sys2Proof.Machine.execMovPop h ty d q s
  | .queueEntryEnter t g k => Sys2Proof.Machine.execQueueEntryEnter t g k s
  | .queuePopComplete t g k => Sys2Proof.Machine.execQueuePopComplete t g k s
  | .movP2v h d => Sys2Proof.Machine.execMovP2v h d s
  | .movV2p h b => Sys2Proof.Machine.execMovV2p h b s
  | .moviVector h d imm => Sys2Proof.Machine.execMoviVector h d imm s
  | .moviVectorPair h d imm => Sys2Proof.Machine.execMoviVectorPair h d imm s
  | .moviUniform h d imm => Sys2Proof.Machine.execMoviUniform h d imm s
  | .moviUniformPair h d imm => Sys2Proof.Machine.execMoviUniformPair h d imm s
  | .lea h ty sh d a b => Sys2Proof.Machine.execLea h ty sh d a b s
  | .dp4 h sa sb sat d a b c => Sys2Proof.Machine.execDp4 h sa sb sat d a b c s
  | .fadd h rnd ftz d a b => Sys2Proof.Machine.execFadd h rnd ftz d a b s
  | .fmul h rnd ftz d a b => Sys2Proof.Machine.execFmul h rnd ftz d a b s
  | .ffma h rnd ftz d a b c => Sys2Proof.Machine.execFfma h rnd ftz d a b c s
  | .fmnmxMin h ftz d a b => Sys2Proof.Machine.execFmnmxMin h ftz d a b s
  | .fmnmxMax h ftz d a b => Sys2Proof.Machine.execFmnmxMax h ftz d a b s
  | .fcmp h cond ftz pd a b => Sys2Proof.Machine.execFcmp h cond ftz pd a b s
  | .ffnRcp h rnd ftz d a => Sys2Proof.Machine.execFfnRcp h rnd ftz d a s
  | .ffnSqrt h rnd ftz d a => Sys2Proof.Machine.execFfnSqrt h rnd ftz d a s
  | .ffnRsqrt h rnd ftz d a => Sys2Proof.Machine.execFfnRsqrt h rnd ftz d a s
  | .ffnExp2 h rnd ftz d a => Sys2Proof.Machine.execFfnExp2 h rnd ftz d a s
  | .ffnLog2 h rnd ftz d a => Sys2Proof.Machine.execFfnLog2 h rnd ftz d a s
  | .ffnSinpi h rnd ftz d a => Sys2Proof.Machine.execFfnSinpi h rnd ftz d a s
  | .ffnCospi h rnd ftz d a => Sys2Proof.Machine.execFfnCospi h rnd ftz d a s
  | .cvt h dty sty nosat rnd ftz d a => Sys2Proof.Machine.execCvt h dty sty nosat rnd ftz d a s
  | .fma2 h rnd ftz d a b c => Sys2Proof.Machine.execFma2 h rnd ftz d a b c s
  | .frnd h rnd ftz d a => Sys2Proof.Machine.execFrnd h rnd ftz d a s
  | .xaccF32 h d a b => Sys2Proof.Machine.execXaccF32 h d a b s
  | .xaccX128 h d a b => Sys2Proof.Machine.execXaccX128 h d a b s
  | .xrnd h rnd d a => Sys2Proof.Machine.execXrnd h rnd d a s
  | .shflIdx h ty d a b pv => Sys2Proof.Machine.execShflIdx h ty d a b pv s
  | .shflUp h ty d a b pv => Sys2Proof.Machine.execShflUp h ty d a b pv s
  | .shflDown h ty d a b pv => Sys2Proof.Machine.execShflDown h ty d a b pv s
  | .shflXor h ty d a b pv => Sys2Proof.Machine.execShflXor h ty d a b pv s
  | .ballot h d a b => Sys2Proof.Machine.execBallot h d a b s
  | .voteAll h pd pa => Sys2Proof.Machine.execVoteAll h pd pa s
  | .voteAny h pd pa => Sys2Proof.Machine.execVoteAny h pd pa s
  | .voteUni h pd pa => Sys2Proof.Machine.execVoteUni h pd pa s
  | .lredAdd h ty d a => Sys2Proof.Machine.execLredAdd h ty d a s
  | .lredMin h ty d a => Sys2Proof.Machine.execLredMin h ty d a s
  | .lredMax h ty d a => Sys2Proof.Machine.execLredMax h ty d a s
  | .lredAnd h ty d a => Sys2Proof.Machine.execLredAnd h ty d a s
  | .lredOr h ty d a => Sys2Proof.Machine.execLredOr h ty d a s
  | .lredXor h ty d a => Sys2Proof.Machine.execLredXor h ty d a s
  | .rngC h d => Sys2Proof.Machine.execRngC h d s
  | .rngCx h d a => Sys2Proof.Machine.execRngCx h d a s
  | .rngSStep h d => Sys2Proof.Machine.execRngSStep h d s
  | .rngSReseed h d seed => Sys2Proof.Machine.execRngSReseed h d seed s
  | .bsel h d a b c => Sys2Proof.Machine.execBsel h d a b c s
  | .ld h ty ord sc hint d ad => Sys2Proof.Machine.execLd h ty ord sc hint d ad s
  | .st h ty ord sc hint ad c => Sys2Proof.Machine.execSt h ty ord sc hint ad c s
  | .lds h ty win d ad => Sys2Proof.Machine.execLds h ty win d ad s
  | .sts h ty win ad d => Sys2Proof.Machine.execSts h ty win ad d s
  | .atomAdd h ty ord sc d ad b => Sys2Proof.Machine.execAtomAdd h ty ord sc d ad b s
  | .atomMin h ty ord sc d ad b => Sys2Proof.Machine.execAtomMin h ty ord sc d ad b s
  | .atomMax h ty ord sc d ad b => Sys2Proof.Machine.execAtomMax h ty ord sc d ad b s
  | .atomAnd h ty ord sc d ad b => Sys2Proof.Machine.execAtomAnd h ty ord sc d ad b s
  | .atomOr h ty ord sc d ad b => Sys2Proof.Machine.execAtomOr h ty ord sc d ad b s
  | .atomXor h ty ord sc d ad b => Sys2Proof.Machine.execAtomXor h ty ord sc d ad b s
  | .atomExch h ty ord sc d ad b => Sys2Proof.Machine.execAtomExch h ty ord sc d ad b s
  | .atomCas h ty ord sc d ad b => Sys2Proof.Machine.execAtomCas h ty ord sc d ad b s
  | .atomsAdd h ty d ad b => Sys2Proof.Machine.execAtomsAdd h ty d ad b s
  | .atomsMin h ty d ad b => Sys2Proof.Machine.execAtomsMin h ty d ad b s
  | .atomsMax h ty d ad b => Sys2Proof.Machine.execAtomsMax h ty d ad b s
  | .atomsAnd h ty d ad b => Sys2Proof.Machine.execAtomsAnd h ty d ad b s
  | .atomsOr h ty d ad b => Sys2Proof.Machine.execAtomsOr h ty d ad b s
  | .atomsXor h ty d ad b => Sys2Proof.Machine.execAtomsXor h ty d ad b s
  | .atomsExch h ty d ad b => Sys2Proof.Machine.execAtomsExch h ty d ad b s
  | .atomsCas h ty d ad b => Sys2Proof.Machine.execAtomsCas h ty d ad b s
  | .fence h ord sc => Sys2Proof.Machine.execFence h ord sc s
  | .publish h sc d a disp => Sys2Proof.Machine.execPublish h sc d a disp s
  | .drainSp h => Sys2Proof.Machine.execDrainSp h s
  | .drainFifo h => Sys2Proof.Machine.execDrainFifo h s
  | .drainGlb h => Sys2Proof.Machine.execDrainGlb h s
  | .drainComplete t g => Sys2Proof.Machine.execDrainComplete t g s
  | .cctlInv h ad => Sys2Proof.Machine.execCctlInv h ad s
  | .cctlPfl1 h ad => Sys2Proof.Machine.execCctlPfl1 h ad s
  | .cctlPfl2 h ad => Sys2Proof.Machine.execCctlPfl2 h ad s
  | .nmcGather h sc k a => Sys2Proof.Machine.execNmcGather h sc k a s
  | .nmcCopy h sc k a => Sys2Proof.Machine.execNmcCopy h sc k a s
  | .nmcCvt h sc k a => Sys2Proof.Machine.execNmcCvt h sc k a s
  | .nmcRed h sc k a => Sys2Proof.Machine.execNmcRed h sc k a s
  | .ldcB32 h d off => Sys2Proof.Machine.execLdcB32 h d off s
  | .ldcB64 h d off => Sys2Proof.Machine.execLdcB64 h d off s
  | .barSync h b => Sys2Proof.Machine.execBarSync h b s
  | .barArrive h b => Sys2Proof.Machine.execBarArrive h b s
  | .barWait h b => Sys2Proof.Machine.execBarWait h b s
  | .bexp h b => Sys2Proof.Machine.execBexp h b s
  | .cbar h sc id => Sys2Proof.Machine.execCbar h sc id s
  | .cbarComplete p id => Sys2Proof.Machine.execCbarComplete p id s
  | .cbarDeadlineExpiry p id rank => Sys2Proof.Machine.execCbarDeadlineExpiry p id rank s
  | .qbindSq h q off => Sys2Proof.Machine.execQbindSq h q off s
  | .qbindPort h q port => Sys2Proof.Machine.execQbindPort h q port s
  | .qtryPush h pd q b => Sys2Proof.Machine.execQtryPush h pd q b s
  | .qtryPop h d q pc => Sys2Proof.Machine.execQtryPop h d q pc s
  | .queueOverflowStart t q => Sys2Proof.Machine.execQueueOverflowStart t q s
  | .waitk h k => Sys2Proof.Machine.execWaitk h k s
  | .waitkMask h m => Sys2Proof.Machine.execWaitkMask h m s
  | .acq h tile => Sys2Proof.Machine.execAcq h tile s
  | .rel h tile => Sys2Proof.Machine.execRel h tile s
  | .tsld h slot a disp => Sys2Proof.Machine.execTsld h slot a disp s
  | .tsev h slot ad => Sys2Proof.Machine.execTsev h slot ad s
  | .qalwAdd h q n => Sys2Proof.Machine.execQalwAdd h q n s
  | .qalwSet h q n => Sys2Proof.Machine.execQalwSet h q n s
  | .cpy h sc k a b org e => Sys2Proof.Machine.execCpy h sc k a b org e s
  | .cpyAdd h sc k a b org e => Sys2Proof.Machine.execCpyAdd h sc k a b org e s
  | .cpyMin h sc k a b org e => Sys2Proof.Machine.execCpyMin h sc k a b org e s
  | .cpyMax h sc k a b org e => Sys2Proof.Machine.execCpyMax h sc k a b org e s
  | .cpyAnd h sc k a b org e => Sys2Proof.Machine.execCpyAnd h sc k a b org e s
  | .cpyOr h sc k a b org e => Sys2Proof.Machine.execCpyOr h sc k a b org e s
  | .gscG h sc k a b e => Sys2Proof.Machine.execGscG h sc k a b e s
  | .gscS h sc k a b e => Sys2Proof.Machine.execGscS h sc k a b e s
  | .gscSadd h sc k a b e => Sys2Proof.Machine.execGscSadd h sc k a b e s
  | .feedFa h k a org e => Sys2Proof.Machine.execFeedFa h k a org e s
  | .feedFb h k a org e => Sys2Proof.Machine.execFeedFb h k a org e s
  | .feedSc h k a org e => Sys2Proof.Machine.execFeedSc h k a org e s
  | .fifoTileEnter cmd => Sys2Proof.Machine.execFifoTileEnter cmd s
  | .scaleSlotFill cmd => Sys2Proof.Machine.execScaleSlotFill cmd s
  | .collStart h k a => Sys2Proof.Machine.execCollStart h k a s
  | .collResume h k a => Sys2Proof.Machine.execCollResume h k a s
  | .collChunkFinal cmd chunk contrib => Sys2Proof.Machine.execCollChunkFinal cmd chunk contrib s
  | .collMemberFailure p id others agreed => Sys2Proof.Machine.execCollMemberFailure p id others agreed s
  | .enc h sc k a b org e => Sys2Proof.Machine.execEnc h sc k a b org e s
  | .decF32 h sc k a b org e => Sys2Proof.Machine.execDecF32 h sc k a b org e s
  | .decBf16 h sc k a b org e => Sys2Proof.Machine.execDecBf16 h sc k a b org e s
  | .engineChunkPerformed cmd chunk => Sys2Proof.Machine.execEngineChunkPerformed cmd chunk s
  | .engineFaultResume cmd serviced => Sys2Proof.Machine.execEngineFaultResume cmd serviced s
  | .engineCommandComplete cmd => Sys2Proof.Machine.execEngineCommandComplete cmd s
  | .portEntryDeliver t port => Sys2Proof.Machine.execPortEntryDeliver t port s
  | .mms x d a b e => Sys2Proof.Machine.execMms x d a b e s
  | .mmsPair x d a b e => Sys2Proof.Machine.execMmsPair x d a b e s
  | .mmsCommit t => Sys2Proof.Machine.execMmsCommit t s
  | .aclrF32Zero d => Sys2Proof.Machine.execAclrF32Zero d s
  | .aclrF32Broadcast d v => Sys2Proof.Machine.execAclrF32Broadcast d v s
  | .aclrX128Zero d => Sys2Proof.Machine.execAclrX128Zero d s
  | .aclrX128Broadcast d v => Sys2Proof.Machine.execAclrX128Broadcast d v s
  | .sqif cond v off => Sys2Proof.Machine.execSqif cond v off s
  | .sqwhWhile cond v off => Sys2Proof.Machine.execSqwhWhile cond v off s
  | .sqwhEndw off => Sys2Proof.Machine.execSqwhEndw off s
  | .sqcwSet v => Sys2Proof.Machine.execSqcwSet v s
  | .sqcwSetSp off => Sys2Proof.Machine.execSqcwSetSp off s
  | .sqcwAdd v => Sys2Proof.Machine.execSqcwAdd v s
  | .sqcwCmp v => Sys2Proof.Machine.execSqcwCmp v s
  | .sqcwEnd => Sys2Proof.Machine.execSqcwEnd s
  | .vprojF first last d a b e => Sys2Proof.Machine.execVprojF first last d a b e s
  | .vprojB first last d a b e => Sys2Proof.Machine.execVprojB first last d a b e s
  | .forwardSelectionStage t => Sys2Proof.Machine.execForwardSelectionStage t s
  | .backwardGradientStage t => Sys2Proof.Machine.execBackwardGradientStage t s
  | .vmrgRow cnt => Sys2Proof.Machine.execVmrgRow cnt s
  | .vmrgHeap cnt => Sys2Proof.Machine.execVmrgHeap cnt s
  | .voutRow a e => Sys2Proof.Machine.execVoutRow a e s
  | .voutHeap a e => Sys2Proof.Machine.execVoutHeap a e s
  | .pcadd h ord sc hint ad c => Sys2Proof.Machine.execPcadd h ord sc hint ad c s
  | .pcaddRtn h ord sc hint d ad c => Sys2Proof.Machine.execPcaddRtn h ord sc hint d ad c s
  | .pcrd h ord sc hint d ad => Sys2Proof.Machine.execPcrd h ord sc hint d ad s
  | .pcrdRaw h ord sc hint d ad => Sys2Proof.Machine.execPcrdRaw h ord sc hint d ad s
  | .pcmrg h ord sc hint d ad c => Sys2Proof.Machine.execPcmrg h ord sc hint d ad c s
  | .pcclr h ord sc hint ad => Sys2Proof.Machine.execPcclr h ord sc hint ad s
  | .pcbase h v => Sys2Proof.Machine.execPcbase h v s
  | .launch h d a tag port => Sys2Proof.Machine.execLaunch h d a tag port s
  | .fork h k a b => Sys2Proof.Machine.execFork h k a b s
  | .cancel h a => Sys2Proof.Machine.execCancel h a s
  | .twait h d a => Sys2Proof.Machine.execTwait h d a s
  | .alloc h d size => Sys2Proof.Machine.execAlloc h d size s
  | .free h a => Sys2Proof.Machine.execFree h a s
  | .tmark h v => Sys2Proof.Machine.execTmark h v s
  | .hvc h svc => Sys2Proof.Machine.execHvc h svc s
  | .hvcReturn t g k s0 s1 => Sys2Proof.Machine.execHvcReturn t g k s0 s1 s
  | .registerQueue h => Sys2Proof.Machine.execRegisterQueue h s
  | .registerCollectiveGroup h => Sys2Proof.Machine.execRegisterCollectiveGroup h s
  | .addFrames h => Sys2Proof.Machine.execAddFrames h s
  | .retireRoot h => Sys2Proof.Machine.execRetireRoot h s
  | .setHangThreshold h => Sys2Proof.Machine.execSetHangThreshold h s
  | .attestationQuote h => Sys2Proof.Machine.execAttestationQuote h s
  | .launchPacketStart p q => Sys2Proof.Machine.execLaunchPacketStart p q s
  | .copyPacketStart p q => Sys2Proof.Machine.execCopyPacketStart p q s
  | .teamPlace p => Sys2Proof.Machine.execTeamPlace p s
  | .teamRetire t => Sys2Proof.Machine.execTeamRetire t s
  | .gridCompletion l => Sys2Proof.Machine.execGridCompletion l s
  | .eventRecordWrite k => Sys2Proof.Machine.execEventRecordWrite k s
  | .eventRingTimeTrigger k => Sys2Proof.Machine.execEventRingTimeTrigger k s
  | .preemptionRequest l => Sys2Proof.Machine.execPreemptionRequest l s
  | .safePointTake t g => Sys2Proof.Machine.execSafePointTake t g s
  | .forcedSaveTimeout t g => Sys2Proof.Machine.execForcedSaveTimeout t g s
  | .teamResume t => Sys2Proof.Machine.execTeamResume t s
  | .coreClockGate die core => Sys2Proof.Machine.execCoreClockGate die core s
  | .corePowerGate die core => Sys2Proof.Machine.execCorePowerGate die core s
  | .coreWake die core => Sys2Proof.Machine.execCoreWake die core s
  | .hangReport t => Sys2Proof.Machine.execHangReport t s
  | .errorLogLostEntries p => Sys2Proof.Machine.execErrorLogLostEntries p s
  | .linkWakeRetry die => Sys2Proof.Machine.execLinkWakeRetry die s
  | .linkRetrain die => Sys2Proof.Machine.execLinkRetrain die s
  | .dieHeartbeat die => Sys2Proof.Machine.execDieHeartbeat die s
  | .dieLost die => Sys2Proof.Machine.execDieLost die s
  | .dielostTrap t g => Sys2Proof.Machine.execDielostTrap t g s
  | .remoteAccessTimeout peer => Sys2Proof.Machine.execRemoteAccessTimeout peer s
  | .headroomUpdate die v => Sys2Proof.Machine.execHeadroomUpdate die v s
  | .thermalThrottle die => Sys2Proof.Machine.execThermalThrottle die s
  | .thermalTrip die => Sys2Proof.Machine.execThermalTrip die s
  | .powerOnBoot => Sys2Proof.Machine.execPowerOnBoot s
  | .recoveryGo port image v => Sys2Proof.Machine.execRecoveryGo port image v s
  | .semaphoreClaim sem who => Sys2Proof.Machine.execSemaphoreClaim sem who s
  | .semaphoreRelease sem port => Sys2Proof.Machine.execSemaphoreRelease sem port s
  | .portReset port => Sys2Proof.Machine.execPortReset port s
  | .partitionCreate port req root => Sys2Proof.Machine.execPartitionCreate port req root s
  | .partitionRemove port req root => Sys2Proof.Machine.execPartitionRemove port req root s
  | .partitionRecreate port req root => Sys2Proof.Machine.execPartitionRecreate port req root s
  | .supactResume p handle => Sys2Proof.Machine.execSupactResume p handle s
  | .supactEndTeam p handle => Sys2Proof.Machine.execSupactEndTeam p handle s
  | .supactDeliver p handle => Sys2Proof.Machine.execSupactDeliver p handle s
  | .hostAttestationRequest port p nonce => Sys2Proof.Machine.execHostAttestationRequest port p nonce s
  | .hostPortAccess port addr acc => Sys2Proof.Machine.execHostPortAccess port addr acc s
  | .deviceRegisterWrite p addr v => Sys2Proof.Machine.execDeviceRegisterWrite p addr v s
  | .peerRemoteAccess addr acc => Sys2Proof.Machine.execPeerRemoteAccess addr acc s
  | .stationRetraining st width compress => Sys2Proof.Machine.execStationRetraining st width compress s
  | .sequencerFetchFault t serviced => Sys2Proof.Machine.execSequencerFetchFault t serviced s

end Sys2Proof.Machine
end

