-- ==== Sys2Proof/Machine/Step.lean ====
section
/-! DEFINITION. One step of the part: the next move is fetched and run, and time passes. -/

namespace Sys2Proof.Machine

/-- What runs after the fetch. -/
def runFetched : Fetched → Res
  | .run i s => exec i s
  | .done s => .next s

/-- Time passes after a step that answers a state. -/
def advanceOutcome : Res → Res
  | .next s => .next (advance s)
  | .fault f => .fault f
  | .refused r => .refused r

/-- One step. A part without power does nothing (22 R414). -/
def step (s : State) : Host.Outcome State Fault Refusal :=
  if s.powered then
    match nextMove s with
    | some m => advanceOutcome (runFetched (fetchMove m (beforeStep s)))
    | none => .next (advance (beforeStep s))
  else .next s

/-- The state with an instruction placed where the next step fetches it (log 24). -/
def State.withFetchWord (s : State) (nbits w : Nat) : State := placeInstr s nbits w

end Sys2Proof.Machine
end

