-- ==== Sys2Proof/Safety.lean ====
section
/-! DEFINITION. What counts as a safe run, in the terms that claims use. -/

namespace Sys2Proof

/-- The form that every state reached keeps: memory and the device registers are canonical stores. -/
def Machine.State.Sound (s : Machine.State) : Prop := Memory.wf s.mem = true ∧ Store.wf s.devRegs = true

/-- A step is safe: it answers a next state, which is sound. -/
def StepSafe (s : Machine.State) : Prop := ∃ t, core.step s = .next t ∧ t.Sound

end Sys2Proof
end

