-- ==== Sys2Proof/Certificates/Slice0/Obligations.lean ====
section
/-! DEFINITION. The statements for the provers, and the terms they are stated in (namespace Claims). Each docstring names
the rules of spec/ that it states; where a clause rests on a choice of the model, it names the log entry. -/

namespace Sys2Proof.Claims

open Sys2Proof.Machine

/-! What the statements say of an issue (04 R90). -/

/-- Home group g of team t issues: it can (04 R88), and no soft error stands in what it holds (18 R383). -/
def Issuing (s : State) (t g : Nat) : Prop :=
  s.cur = .group t g ∧ canIssue s t g = true ∧ (s.grp t g).soft = []

/-- The eligible set E (04 R90 step 3). -/
def eligible (s : State) (t g : Nat) (h : Hdr) : Lanes := (s.grp t g).issueSet &&& (s.grp t g).guard h

/-- Lane l is in E. -/
def InE (s : State) (t g : Nat) (h : Hdr) (l : Nat) : Prop := l < 32 ∧ (eligible s t g h).getLsbD l = true

/-- Lane l is in I. -/
def InI (s : State) (t g : Nat) (l : Nat) : Prop := l < 32 ∧ (s.grp t g).issueSet.getLsbD l = true

/-- The registers that a form names lie below the launch's declared counts, and so do the granules of its live-mask word
(02 R38, R39, R47). -/
def Declared (s : State) (t : Nat) (h : Hdr) (rs : List (Reg × Nat)) : Prop :=
  (∀ r ∈ rs, regIn (s.launchOf t) r.1 r.2 = true) ∧ ∀ m ∈ h.live, maskIn (s.launchOf t) m = true

/-- Nothing outside group g of team t has changed: memory, every other group and team, the part. -/
def OnlyGroup (s s' : State) (t g : Nat) : Prop := s' = s.modGrp t g fun _ => s'.grp t g

/-- A YIELD's set of lanes to wait for, which every issue of the group shortens (04 R117). -/
def shapeOf (w : Wait) : Wait :=
  match w.kind with
  | .yield _ => { w with kind := .yield 0 }
  | _ => w

/-- What a register form never changes in its group: tokens, saved and trap registers, exits, waits, recorded phases,
MODE, handler mode, its view of CTR_BASE. -/
def restOf (g : Group) : Group :=
  { g with v := [], s := [], p := [], pcv := [], draw := [], rng := [], gstat := 0, serial := false, safeAt := none, half := none,
           formed := false, waits := g.waits.map shapeOf }

/-- The sequential successor of an issue (02 R32). -/
def successor (s : State) (t g size : Nat) : DWord := nextAddr (s.grp t g).issuePc size

/-- Lanes of E go to their targets, the other lanes of I to the sequential successor; the others stay (04 R90 step 5). -/
def Moves (s s' : State) (t g : Nat) (h : Hdr) (size : Nat) (tgt : Nat → DWord) : Prop :=
  ∀ l, (InE s t g h l → (s'.grp t g).pcv.get l = tgt l) ∧
    (InI s t g l → ¬InE s t g h l → (s'.grp t g).pcv.get l = successor s t g size) ∧
    (¬InI s t g l → (s'.grp t g).pcv.get l = (s.grp t g).pcv.get l)

/-- Every lane of I takes the sequential successor; the others stay. -/
def Advances (s s' : State) (t g size : Nat) : Prop :=
  ∀ l, (InI s t g l → (s'.grp t g).pcv.get l = successor s t g size) ∧
    (¬InI s t g l → (s'.grp t g).pcv.get l = (s.grp t g).pcv.get l)

/-- Flags of GSTAT[8:0] may be set only where the form sets flags; SERIAL_EVENTS counts entries into serial mode
(04 R97, R103). -/
def FlagsKept (x y : Group) : Prop := ∀ i, i < 16 → y.gstat.getLsbD i = x.gstat.getLsbD i

/-- How many different PCV entries the lanes hold that have not exited. -/
def places (g : Group) : Nat :=
  (((List.range 32).filter fun l => !g.exited.getLsbD l).map fun l => g.pcv.get l).dedup.length

/-- SERIAL_EVENTS. -/
def serialEvents (g : Group) : Nat := g.gstat.toNat / 2 ^ 16

/-- Serial mode after an issue that began with the group x and left y (04 R97): entered with more than 8 different PCV
entries, and counted; left with 4 or fewer. -/
structure SerialRule (x y : Group) : Prop where
  mode  : y.serial = if x.serial then decide (4 < places y) else decide (8 < places y)
  count : serialEvents y = if x.serial = false ∧ y.serial = true then min (serialEvents x + 1) 0xFFFF else serialEvents x

/-! The register forms: those that read and write registers and predicates of their group, and nothing else. -/

/-- The registers of operand b. -/
def ofOpd (b : Opd) (k : Nat) : List (Reg × Nat) :=
  match b with
  | .reg r => [(r, k)]
  | _ => []

/-- What a register form names: its header, the registers it reads and those it writes (first register, count), the
predicates it writes, whether it may set flags, whether it writes DRAW or the RNG.s state of the lanes of E. -/
structure Form where
  hdr    : Hdr
  reads  : List (Reg × Nat)
  writes : List (Reg × Nat) := []
  preds  : List Nat := []
  flags  : Bool := false
  draws  : Bool := false
  rngs   : Bool := false

/-- d, a and b, of the type's width all. -/
def formAb (h : Hdr) (k : Nat) (d a : Reg) (b : Opd) : Form := ⟨h, (a, k) :: ofOpd b k, [(d, k)], [], false, false, false⟩
/-- d and a of a width, b of one register. -/
def formAb1 (h : Hdr) (k : Nat) (d a : Reg) (b : Opd) : Form := ⟨h, (a, k) :: ofOpd b 1, [(d, k)], [], false, false, false⟩
/-- d, a, b and c of the type's width. -/
def formAbc (h : Hdr) (k : Nat) (d a : Reg) (b : Opd) (c : Reg) : Form := ⟨h, (a, k) :: (c, k) :: ofOpd b k, [(d, k)], [], false, false, false⟩
/-- A unary form. -/
def formUn (h : Hdr) (kd ka : Nat) (d a : Reg) : Form := ⟨h, [(a, ka)], [(d, kd)], [], false, false, false⟩
/-- A form that sets flags. -/
def Form.flagged (f : Form) : Form := { f with flags := true }

/-- The register forms of chapters 04 to 07 (a read of FORMED apart: it begins a formed issue). -/
def formOf : Instr → Option Form
  | .nop h _ => some ⟨h, [], [], [], false, false, false⟩
  | .bra h _ => some ⟨h, [], [], [], false, false, false⟩
  | .jmpi h a | .ret h a => some ⟨h, [(a, 2)], [], [], false, false, false⟩
  | .call h d _ => some ⟨h, [], [(.v d, 2)], [], false, false, false⟩
  | .callI h d a => some ⟨h, [(a, 2)], [(.v d, 2)], [], false, false, false⟩
  | .plop h _ d _ _ _ => some ⟨h, [], [], [d.toNat], false, false, false⟩
  | .sysrd h d id => if id = 0x012 then none else some ⟨h, [], [(d, sysRegs id)], [], false, false, false⟩
  | .iadd h ty _ d a b | .isub h ty _ d a b | .imulLo h ty _ d a b | .imulHi h ty d a b | .imnmxMin h ty d a b
  | .imnmxMax h ty d a b => some (formAb h (tyRegs ty) d a b)
  | .iaddCc h _ d a b pc | .isubCc h _ d a b pc => some { formAb h 1 d a b with preds := [pc.toNat] }
  | .imulWide h _ d a b => some ⟨h, (a, 1) :: ofOpd b 1, [(d, 2)], [], false, false, false⟩
  | .imadLo h ty _ d a b c | .imadHi h ty d a b c | .ltab h ty _ d a b c => some (formAbc h (tyRegs ty) d a b c)
  | .imadWide h _ d a b c => some ⟨h, (a, 1) :: (c, 2) :: ofOpd b 1, [(d, 2)], [], false, false, false⟩
  | .shfL h ty d a b | .shfR h ty d a b | .shfRa h ty d a b | .shfRol h ty d a b | .bfe h ty d a b
  | .lea h ty _ d a b => some (formAb1 h (tyRegs ty) d a b)
  | .shfLf h d a b c | .shfRf h d a b c | .dp4 h _ _ _ d a b c | .bsel h d a b c => some (formAbc h 1 d a b c)
  | .icmp h ty _ pd a b => some ⟨h, (a, tyRegs ty) :: ofOpd b (tyRegs ty), [], [pd.toNat], false, false, false⟩
  | .bfi h ty d a b c => some ⟨h, (a, tyRegs ty) :: (c, tyRegs ty) :: ofOpd b 1, [(d, tyRegs ty)], [], false, false, false⟩
  | .bitsPopc h ty d a | .bitsClz h ty d a | .bitsCtz h ty d a => some (formUn h 1 (tyRegs ty) d a)
  | .bitsBrev h ty d a | .mov h ty d a => some (formUn h (tyRegs ty) (tyRegs ty) d a)
  | .sel h ty d a b _ => some (formAb h (tyRegs ty) d a b)
  | .movP2v h d => some ⟨h, [], [(.v d, 1)], [], false, false, false⟩
  | .movV2p h b => some ⟨h, [(b, 1)], [], [1, 2, 3, 4, 5, 6, 7], false, false, false⟩
  | .moviVector h d _ => some ⟨h, [], [(.v d, 1)], [], false, false, false⟩
  | .moviVectorPair h d _ => some ⟨h, [], [(.v d, 2)], [], false, false, false⟩
  | .moviUniform h d _ => some ⟨h, [], [(.s d, 1)], [], false, false, false⟩
  | .moviUniformPair h d _ => some ⟨h, [], [(.s d, 2)], [], false, false, false⟩
  | .fadd h _ _ d a b | .fmul h _ _ d a b => some (formAb h 1 d a b).flagged
  | .fmnmxMin h _ d a b | .fmnmxMax h _ d a b => some (formAb h 1 d a b)
  | .ffma h _ _ d a b c | .fma2 h _ _ d a b c => some (formAbc h 1 d a b c).flagged
  | .fcmp h _ _ pd a b => some ⟨h, (a, 1) :: ofOpd b 1, [], [pd.toNat], true, false, false⟩
  | .ffnRcp h _ _ d a | .ffnSqrt h _ _ d a | .ffnRsqrt h _ _ d a | .ffnExp2 h _ _ d a | .ffnLog2 h _ _ d a
  | .ffnSinpi h _ _ d a | .ffnCospi h _ _ d a => some (formUn h 1 1 d a).flagged
  | .frnd h _ _ d a => some (formUn h 1 1 d a)
  | .cvt h dty sty _ _ _ d a => some (formUn h (tyRegs dty) (tyRegs sty) d a).flagged
  | .xaccF32 h d a b => some ⟨h, (a, 4) :: ofOpd b 1, [(d, 4)], [], true, false, false⟩
  | .xaccX128 h d a b => some ⟨h, [(a, 4), (b, 4)], [(d, 4)], [], true, false, false⟩
  | .xrnd h _ d a => some (formUn h 1 4 d a).flagged
  | .shflIdx h ty d a b pv | .shflUp h ty d a b pv | .shflDown h ty d a b pv | .shflXor h ty d a b pv =>
    some ⟨h, (.v a, tyRegs ty) :: ofOpd b 1, [(.v d, tyRegs ty)], [pv.toNat], false, false, false⟩
  | .ballot h d a b => some (formAb h 1 d a b)
  | .voteAll h pd _ | .voteAny h pd _ | .voteUni h pd _ => some ⟨h, [], [], [pd.toNat], false, false, false⟩
  | .lredAdd h ty d a => some { formUn h (tyRegs ty) (tyRegs ty) d a with flags := ty == .f32 || ty == .x128 }
  | .lredMin h ty d a | .lredMax h ty d a | .lredAnd h ty d a | .lredOr h ty d a | .lredXor h ty d a => some (formUn h (tyRegs ty) (tyRegs ty) d a)
  | .rngCx h d a => some (formUn h 1 1 (.v d) (.v a))
  | .rngC h d => some ⟨h, [], [(.v d, 1)], [], false, true, false⟩
  | .rngSStep h d | .rngSReseed h d _ => some ⟨h, [], [(.v d, 1)], [], false, false, true⟩
  | _ => none

/-- Where a form sends the lanes of E: a branch to its target, a jump to each lane's own, any other to the successor
(04 R111 to R115). -/
def targetOf (i : Instr) (s : State) (t g : Nat) (l : Nat) : DWord :=
  let gr := s.grp t g
  match i with
  | .bra _ off | .call _ _ off => gr.issuePc + off.signExtend 64
  | .jmpi _ a | .ret _ a | .callI _ _ a => BitVec.ofNat 64 (regGet gr a l 2)
  | _ => successor s t g i.size

/-- Register r of lane l is written: it lies in a written group, vector registers for lanes of E, uniform ones where E is
not empty (02 R36, 04 R94). -/
def WritesV (ws : List (Reg × Nat)) (E : Lanes) (r l : Nat) : Prop :=
  E.getLsbD l = true ∧ ∃ n k, (Reg.v n, k) ∈ ws ∧ n.toNat ≤ r ∧ r < n.toNat + k
def WritesS (ws : List (Reg × Nat)) (E : Lanes) (r : Nat) : Prop :=
  E ≠ 0 ∧ ∃ n k, (Reg.s n, k) ∈ ws ∧ n.toNat ≤ r ∧ r < n.toNat + k

/-- The frame of a register form: lanes move as `tgt` says; registers and predicates that it does not write, for lanes outside E none at all;
flags only where it sets flags; serial mode by its rule; nothing else of the group, nothing outside the group. After an
instruction with SP = 1 the group stands at that safe point, whose successor is the sequential one (log 30). -/
structure RegisterFrame (f : Form) (s s' : State) (t g size : Nat) (tgt : Nat → DWord) : Prop where
  outside : OnlyGroup s s' t g
  rest    : restOf (s'.grp t g) = restOf (s.grp t g)
  moves   : Moves s s' t g f.hdr size tgt
  vreg    : ∀ r l, l < 32 → ¬WritesV f.writes (eligible s t g f.hdr) r l →
              (s'.grp t g).v.get (32 * r + l) = (s.grp t g).v.get (32 * r + l)
  sreg    : ∀ r, ¬WritesS f.writes (eligible s t g f.hdr) r → (s'.grp t g).s.get r = (s.grp t g).s.get r
  pred    : ∀ i l, ¬((eligible s t g f.hdr).getLsbD l = true ∧ i ∈ f.preds) →
              ((s'.grp t g).pred i).getLsbD l = ((s.grp t g).pred i).getLsbD l
  draw    : ∀ l, ¬(f.draws = true ∧ InE s t g f.hdr l) → (s'.grp t g).draw.get l = (s.grp t g).draw.get l
  rng     : ∀ l, ¬(f.rngs = true ∧ InE s t g f.hdr l) → (s'.grp t g).rng.get l = (s.grp t g).rng.get l
  flags   : (f.flags = false → FlagsKept (s.grp t g) (s'.grp t g)) ∧
              ∀ i, i < 16 → (s.grp t g).gstat.getLsbD i = true → (s'.grp t g).gstat.getLsbD i = true
  serial  : SerialRule (s.grp t g) (s'.grp t g)
  safe    : (s'.grp t g).safeAt = f.hdr.live.map fun m => (m, (s.grp t g).issuePc, successor s t g size)

end Sys2Proof.Claims

namespace Sys2Proof.Claims

open Sys2Proof.Machine

/-- A register form issues: what it names is declared; RNG.s needs MODE.TEST (02 R52, 07 R169). -/
def Ready (i : Instr) (s : State) (t g : Nat) : Prop :=
  Issuing s t g ∧ (∀ f, formOf i = some f → Declared s t f.hdr (f.reads ++ f.writes) ∧
    (f.rngs = true → (s.grp t g).mode.getLsbD 2 = true))

end Sys2Proof.Claims

open Sys2Proof Sys2Proof.Machine Sys2Proof.Claims in
/-- Every register form of chapters 04 to 07, the branches, calls and jumps among them, completes whenever its group issues and the registers it names are declared,
and changes its destination, for lanes of E, and nothing else. (The safe point a form leaves is log 30's.) -/
def Obligations.RegisterFormsComplete : Prop :=
  ∀ (i : Instr) (f : Form) (s : State) (t g : Nat), formOf i = some f → Ready i s t g →
    ∃ s', exec i s = .next s' ∧ RegisterFrame f s s' t g i.size (targetOf i s t g)

namespace Sys2Proof.Claims

open Sys2Proof.Machine

/-! What a register form writes. -/

/-- The lane whose value a lane of E finds in d: its own, or for a uniform register that of the lowest lane of E (04 R94). -/
def laneOf (d : Reg) (E : Lanes) (l : Nat) : Nat :=
  match d with
  | .v _ => l
  | .s _ => lowest E

/-- The form completes, and every lane l of E then finds a value in the k registers from d that is as P says. -/
def Gives (i : Instr) (s : State) (t g : Nat) (h : Hdr) (d : Reg) (k : Nat) (P : Nat → Nat → Prop) : Prop :=
  ∃ s', exec i s = .next s' ∧
    ∀ l, InE s t g h l → P (laneOf d (eligible s t g h) l) (regGet (s'.grp t g) d l k)

/-- The form completes, and predicate i of every lane l of E is then as P says; p0 reads true whatever is written. -/
def GivesPred (j : Instr) (s : State) (t g : Nat) (h : Hdr) (i : BitVec 3) (P : Nat → Prop) : Prop :=
  ∃ s', exec j s = .next s' ∧
    ∀ l, InE s t g h l → (((s'.grp t g).pred i.toNat).getLsbD l = true ↔ i = 0 ∨ P l)

/-- Bits r read in a type as the value v, and nothing but v (05 R124): narrow results fill the register. -/
def Reads (ty : Ty) (r : Nat) (v : Int) : Prop :=
  tyVal ty r = v ∧ (r : Int) = v % ((2 ^ (32 * tyRegs ty) : Nat) : Int)

/-- An exact integer result, clamped or wrapped into the type (05 R128, R129). -/
def IntResult (ty : Ty) (clamp : Bool) (x : Int) (r : Nat) : Prop :=
  if clamp then Reads ty r (max (tyMin ty) (min (tyMax ty) x))
  else ∃ v, Reads ty r v ∧ tyMin ty ≤ v ∧ v ≤ tyMax ty ∧ (v - x) % ((2 ^ tyBits ty : Nat) : Int) = 0

/-- A register source in a type. -/
def regVal (ty : Ty) (gr : Group) (a : Reg) (l : Nat) : Int := tyVal ty (regGet gr a l (tyRegs ty))

/-- Operand b in a type: an IMM32 in the place of an .i64 pair is sign-extended (05 R124, R125). -/
def opdVal (ty : Ty) (gr : Group) (b : Opd) (l : Nat) : Int :=
  match b with
  | .reg r => regVal ty gr r l
  | .imm w => if ty = .i64 then w.toInt else tyVal ty w.toNat
  | .wide x => tyVal ty x.toNat

/-- Operand b as an unsigned number of 32 bits: an amount, a position, an index. -/
def amount (gr : Group) (b : Opd) (l : Nat) : Nat :=
  match b with
  | .reg r => regGet gr r l 1
  | .imm w => w.toNat
  | .wide x => x.toNat

/-- A relation of ICMP (05 R133). -/
def Compares (c : ICond) (x y : Int) : Prop :=
  match c with
  | .eq => x = y
  | .ne => x ≠ y
  | .lt => x < y
  | .le => x ≤ y
  | .gt => y < x
  | .ge => y ≤ x

/-- Byte i of a word, signed or unsigned. -/
def byteOf (signed : Bool) (x i : Nat) : Int :=
  let b : Nat := x / 2 ^ (8 * i) % 256
  if signed && decide (128 ≤ b) then (b : Int) - 256 else b

end Sys2Proof.Claims

open Sys2Proof Sys2Proof.Machine Sys2Proof.Claims in
/-- R129: sums and differences, clamped or wrapped; the .cc forms carry or borrow through a predicate. -/
def Obligations.AddSubtractResults : Prop :=
  ∀ (s : State) (t g : Nat) (h : Hdr) (ty : Ty) (clamp : Bool) (d a : Reg) (b : Opd) (pc : BitVec 3),
    (intTy ty = true → Ready (.iadd h ty clamp d a b) s t g →
      Gives (.iadd h ty clamp d a b) s t g h d (tyRegs ty) fun l r =>
        IntResult ty clamp (regVal ty (s.grp t g) a l + opdVal ty (s.grp t g) b l) r) ∧
    (intTy ty = true → Ready (.isub h ty clamp d a b) s t g →
      Gives (.isub h ty clamp d a b) s t g h d (tyRegs ty) fun l r =>
        IntResult ty clamp (regVal ty (s.grp t g) a l - opdVal ty (s.grp t g) b l) r) ∧
    (legal (.iaddCc h ty d a b pc) = true → Ready (.iaddCc h ty d a b pc) s t g →
      let x (l : Nat) : Nat := regGet (s.grp t g) a l 1 + amount (s.grp t g) b l + b2n (((s.grp t g).pred pc.toNat).getLsbD l)
      (Gives (.iaddCc h ty d a b pc) s t g h d 1 fun l r => r = x l % 2 ^ 32) ∧
      GivesPred (.iaddCc h ty d a b pc) s t g h pc fun l => 2 ^ 32 ≤ x l) ∧
    (legal (.isubCc h ty d a b pc) = true → Ready (.isubCc h ty d a b pc) s t g →
      let x (l : Nat) : Int := (regGet (s.grp t g) a l 1 : Int) - amount (s.grp t g) b l - b2n (((s.grp t g).pred pc.toNat).getLsbD l)
      (Gives (.isubCc h ty d a b pc) s t g h d 1 fun l r => (r : Int) = x l % (2 ^ 32 : Int)) ∧
      GivesPred (.isubCc h ty d a b pc) s t g h pc fun l => x l < 0)

open Sys2Proof Sys2Proof.Machine Sys2Proof.Claims in
/-- R130: the low, high and wide forms of IMUL and IMAD, from the exact product. -/
def Obligations.MultiplyResults : Prop :=
  ∀ (s : State) (t g : Nat) (h : Hdr) (ty : Ty) (clamp : Bool) (d a : Reg) (b : Opd) (c : Reg),
    let gr := s.grp t g
    let x (l : Nat) : Int := regVal ty gr a l * opdVal ty gr b l
    let high (l : Nat) : Int := x l / ((2 ^ tyBits ty : Nat) : Int)
    (intTy ty = true → Ready (.imulLo h ty clamp d a b) s t g →
      Gives (.imulLo h ty clamp d a b) s t g h d (tyRegs ty) fun l r => IntResult ty clamp (x l) r) ∧
    (intTy ty = true → Ready (.imadLo h ty clamp d a b c) s t g →
      Gives (.imadLo h ty clamp d a b c) s t g h d (tyRegs ty) fun l r => IntResult ty clamp (x l + regVal ty gr c l) r) ∧
    (wideIntTy ty = true → Ready (.imulHi h ty d a b) s t g →
      Gives (.imulHi h ty d a b) s t g h d (tyRegs ty) fun l r => IntResult ty false (high l) r) ∧
    (wideIntTy ty = true → Ready (.imadHi h ty d a b c) s t g →
      Gives (.imadHi h ty d a b c) s t g h d (tyRegs ty) fun l r => IntResult ty false (high l + regVal ty gr c l) r) ∧
    (int32Ty ty = true → Ready (.imulWide h ty d a b) s t g →
      Gives (.imulWide h ty d a b) s t g h d 2 fun l r => (r : Int) = x l % (2 ^ 64 : Int)) ∧
    (int32Ty ty = true → Ready (.imadWide h ty d a b c) s t g →
      Gives (.imadWide h ty d a b c) s t g h d 2 fun l r =>
        (r : Int) = (x l + (if ty = .i32 then sgn 64 (regGet gr c l 2) else regGet gr c l 2)) % (2 ^ 64 : Int))

open Sys2Proof Sys2Proof.Machine Sys2Proof.Claims in
/-- R131: shifts, the rotation and the funnel shifts, with any amount. -/
def Obligations.ShiftResults : Prop :=
  ∀ (s : State) (t g : Nat) (h : Hdr) (ty : Ty) (d a : Reg) (b : Opd) (c : Reg), bitTy ty = true →
    let gr := s.grp t g
    let w := tyBits ty
    let x (l : Nat) : Nat := regGet gr a l (tyRegs ty)
    let f (l : Nat) : Nat := regGet gr c l 1 * 2 ^ 32 + regGet gr a l 1
    (Ready (.shfL h ty d a b) s t g → Gives (.shfL h ty d a b) s t g h d (tyRegs ty) fun l r =>
      r = if amount gr b l < w then x l * 2 ^ amount gr b l % 2 ^ w else 0) ∧
    (Ready (.shfR h ty d a b) s t g → Gives (.shfR h ty d a b) s t g h d (tyRegs ty) fun l r =>
      r = if amount gr b l < w then x l / 2 ^ amount gr b l else 0) ∧
    (Ready (.shfRa h ty d a b) s t g → Gives (.shfRa h ty d a b) s t g h d (tyRegs ty) fun l r =>
      (r : Int) = sgn w (x l) / ((2 ^ min (amount gr b l) (w - 1) : Nat) : Int) % ((2 ^ w : Nat) : Int)) ∧
    (Ready (.shfRol h ty d a b) s t g → Gives (.shfRol h ty d a b) s t g h d (tyRegs ty) fun l r =>
      ∀ j < w, r.testBit ((j + amount gr b l) % w) = (x l).testBit j) ∧
    (Ready (.shfLf h d a b c) s t g → Gives (.shfLf h d a b c) s t g h d 1 fun l r =>
      r = f l * 2 ^ min (amount gr b l) 32 / 2 ^ 32 % 2 ^ 32) ∧
    (Ready (.shfRf h d a b c) s t g → Gives (.shfRf h d a b c) s t g h d 1 fun l r =>
      r = f l / 2 ^ min (amount gr b l) 32 % 2 ^ 32)

open Sys2Proof Sys2Proof.Machine Sys2Proof.Claims in
/-- R133: comparisons, minimum and maximum in the type; R136: the selection by a predicate. -/
def Obligations.CompareSelectResults : Prop :=
  ∀ (s : State) (t g : Nat) (h : Hdr) (ty : Ty) (c : ICond) (pd : BitVec 3) (d a : Reg) (b : Opd),
    let gr := s.grp t g
    (legal (.icmp h ty c pd a b) = true → Ready (.icmp h ty c pd a b) s t g →
      GivesPred (.icmp h ty c pd a b) s t g h pd fun l => Compares c (regVal ty gr a l) (opdVal ty gr b l)) ∧
    (intTy ty = true → Ready (.imnmxMin h ty d a b) s t g →
      Gives (.imnmxMin h ty d a b) s t g h d (tyRegs ty) fun l r => Reads ty r (min (regVal ty gr a l) (opdVal ty gr b l))) ∧
    (intTy ty = true → Ready (.imnmxMax h ty d a b) s t g →
      Gives (.imnmxMax h ty d a b) s t g h d (tyRegs ty) fun l r => Reads ty r (max (regVal ty gr a l) (opdVal ty gr b l))) ∧
    (bitTy ty = true → Ready (.sel h ty d a b pd) s t g →
      Gives (.sel h ty d a b pd) s t g h d (tyRegs ty) fun l r =>
        (r : Int) = if (gr.pred pd.toNat).getLsbD l then regVal ty gr a l else opdVal ty gr b l)

open Sys2Proof Sys2Proof.Machine Sys2Proof.Claims in
/-- R132 and R122: every bit of LTAB and every lane of PLOP by its table; R134: fields extracted and inserted; R135: bits
counted and reversed. -/
def Obligations.BitResults : Prop :=
  ∀ (s : State) (t g : Nat) (h : Hdr) (ty : Ty) (tbl : Byte) (d a : Reg) (b : Opd) (c : Reg) (pd pa pb pc : BitVec 3),
    let gr := s.grp t g
    let w := tyBits ty
    let x (l : Nat) : Nat := regGet gr a l (tyRegs ty)
    let z (l : Nat) : Nat := regGet gr c l (tyRegs ty)
    let p (l : Nat) : Nat := min (amount gr b l % 256) w
    let n (l : Nat) : Nat := min (amount gr b l / 256 % 256) (w - p l)
    (bitTy ty = true → Ready (.ltab h ty tbl d a b c) s t g →
      Gives (.ltab h ty tbl d a b c) s t g h d (tyRegs ty) fun l r => ∀ k < w,
        r.testBit k = tbl.getLsbD (b2n ((x l).testBit k) + 2 * b2n ((opdVal ty gr b l).toNat.testBit k) + 4 * b2n ((z l).testBit k))) ∧
    (Ready (.plop h tbl pd pa pb pc) s t g → GivesPred (.plop h tbl pd pa pb pc) s t g h pd fun l =>
      tbl.getLsbD (4 * b2n ((gr.pred pa.toNat).getLsbD l) + 2 * b2n ((gr.pred pb.toNat).getLsbD l)
        + b2n ((gr.pred pc.toNat).getLsbD l)) = true) ∧
    (wideIntTy ty = true → Ready (.bfe h ty d a b) s t g →
      Gives (.bfe h ty d a b) s t g h d (tyRegs ty) fun l r => ∀ k < w,
        r.testBit k = if k < n l then (x l).testBit (p l + k)
          else tySigned ty && decide (0 < n l) && (x l).testBit (p l + n l - 1)) ∧
    (bitTy ty = true → Ready (.bfi h ty d a b c) s t g →
      Gives (.bfi h ty d a b c) s t g h d (tyRegs ty) fun l r => ∀ k < w,
        r.testBit k = if p l ≤ k ∧ k < p l + n l then (x l).testBit (k - p l) else (z l).testBit k) ∧
    (bitTy ty = true → Ready (.bitsPopc h ty d a) s t g →
      Gives (.bitsPopc h ty d a) s t g h d 1 fun l r => r = (List.range w).countP fun k => (x l).testBit k) ∧
    (bitTy ty = true → Ready (.bitsClz h ty d a) s t g →
      Gives (.bitsClz h ty d a) s t g h d 1 fun l r => (x l = 0 → r = w) ∧ (x l ≠ 0 → r < w ∧ x l / 2 ^ (w - 1 - r) = 1)) ∧
    (bitTy ty = true → Ready (.bitsCtz h ty d a) s t g →
      Gives (.bitsCtz h ty d a) s t g h d 1 fun l r => (x l = 0 → r = w) ∧ (x l ≠ 0 → x l % 2 ^ r = 0 ∧ (x l).testBit r = true)) ∧
    (bitTy ty = true → Ready (.bitsBrev h ty d a) s t g →
      Gives (.bitsBrev h ty d a) s t g h d (tyRegs ty) fun l r => ∀ k < w, r.testBit k = (x l).testBit (w - 1 - k))

open Sys2Proof Sys2Proof.Machine Sys2Proof.Claims in
/-- R138, R141, R142, R143: predicates to and from a register, immediates, an address formed, the dot product of bytes;
MOV copies its source. -/
def Obligations.MoveResults : Prop :=
  ∀ (s : State) (t g : Nat) (h : Hdr) (ty : Ty) (sh : BitVec 3) (sa sb clamp : Bool) (d a : Reg) (b : Opd) (c : Reg)
    (n : BitVec 8) (u : BitVec 6) (w : Word) (x : DWord),
    let gr := s.grp t g
    (bitTy ty = true → Ready (.mov h ty d a) s t g →
      Gives (.mov h ty d a) s t g h d (tyRegs ty) fun l r => r = regGet gr a l (tyRegs ty)) ∧
    (Ready (.movP2v h n) s t g → Gives (.movP2v h n) s t g h (.v n) 1 fun l r =>
      r < 256 ∧ ∀ i < 8, r.testBit i = (gr.pred i).getLsbD l) ∧
    (Ready (.movV2p h a) s t g → ∀ i : BitVec 3, i ≠ 0 →
      GivesPred (.movV2p h a) s t g h i fun l => (regGet gr a l 1).testBit i.toNat = true) ∧
    (Ready (.moviVector h n w) s t g → Gives (.moviVector h n w) s t g h (.v n) 1 fun _ r => r = w.toNat) ∧
    (Ready (.moviVectorPair h n x) s t g → Gives (.moviVectorPair h n x) s t g h (.v n) 2 fun _ r => r = x.toNat) ∧
    (Ready (.moviUniform h u w) s t g → Gives (.moviUniform h u w) s t g h (.s u) 1 fun _ r => r = w.toNat) ∧
    (Ready (.moviUniformPair h u x) s t g → Gives (.moviUniformPair h u x) s t g h (.s u) 2 fun _ r => r = x.toNat) ∧
    (legal (.lea h ty sh d a b) = true → Ready (.lea h ty sh d a b) s t g →
      Gives (.lea h ty sh d a b) s t g h d (tyRegs ty) fun l r =>
        (r : Int) = ((regGet gr a l (tyRegs ty) : Int) +
          (if ty = .i64 then sgn 32 (amount gr b l) else (amount gr b l : Int)) * 2 ^ sh.toNat) % ((2 ^ tyBits ty : Nat) : Int)) ∧
    (Ready (.dp4 h sa sb clamp d a b c) s t g →
      Gives (.dp4 h sa sb clamp d a b c) s t g h d 1 fun l r =>
        let y (i : Nat) : Int := byteOf sa (regGet gr a l 1) i * byteOf sb (amount gr b l) i
        IntResult .i32 clamp (regVal .i32 gr c l + (y 0 + y 1 + y 2 + y 3)) r)

namespace Sys2Proof.Claims

open Sys2Proof.Machine

/-! FP32 as bits and exact values, apart from the model's own reading of it (03 R62). -/

/-- A NaN, an infinity, a finite pattern. -/
def Nan (x : Nat) : Prop := 0x7F800000 < x % 2 ^ 31
def Inf (x : Nat) : Prop := x % 2 ^ 31 = 0x7F800000
def Finite (x : Nat) : Prop := x < 2 ^ 32 ∧ x % 2 ^ 31 < 0x7F800000
/-- The sign bit. -/
def Neg (x : Nat) : Bool := x.testBit 31
/-- The value of a finite pattern in units of 2^−149. -/
def units (x : Nat) : Int :=
  let ex := x / 2 ^ 23 % 256
  let m : Nat := if ex = 0 then x % 2 ^ 23 else (2 ^ 23 + x % 2 ^ 23) * 2 ^ (ex - 1)
  if Neg x then -(m : Int) else m
/-- A subnormal as the zero of its sign, where the instruction flushes (03 R64, 06 R146). -/
def flushedTo (gr : Group) (ftz : Bool) (x : Nat) : Nat :=
  if (ftz || gr.mode.getLsbD 1) && x / 2 ^ 23 % 256 == 0 then x / 2 ^ 31 * 2 ^ 31 else x
/-- A key in the order of values, −0 just below +0 (06 R151). -/
def orderKey (x : Nat) : Int := if Neg x then -((x % 2 ^ 31 : Nat) : Int) - 1 else ((x % 2 ^ 31 : Nat) : Int)

/-- The lower, or the higher, of two patterns; NaN ignored; two NaNs give the canonical one (06 R151). -/
def MinMaxIs (higher : Bool) (a b r : Nat) : Prop :=
  (Nan a → Nan b → r = 0x7FC00000) ∧ (Nan a → ¬Nan b → r = b) ∧ (¬Nan a → Nan b → r = a) ∧
  (¬Nan a → ¬Nan b → r = if (if higher then orderKey b ≤ orderKey a else orderKey a ≤ orderKey b) then a else b)

/-- A relation of FCMP: NaN is unordered, −0 equals +0 (06 R152). -/
def Floats (c : FCond) (a b : Nat) : Prop :=
  let unordered := Nan a ∨ Nan b
  let k (x : Nat) : Int := if Neg x then -((x % 2 ^ 31 : Nat) : Int) else ((x % 2 ^ 31 : Nat) : Int)
  match c with
  | .eq => ¬unordered ∧ k a = k b
  | .ne => unordered ∨ k a ≠ k b
  | .lt => ¬unordered ∧ k a < k b
  | .le => ¬unordered ∧ k a ≤ k b
  | .gt => ¬unordered ∧ k b < k a
  | .ge => ¬unordered ∧ k b ≤ k a
  | .un => unordered
  | .ord => ¬unordered

/-- The ordered comparisons, which set NV on a NaN (06 R147, R152). -/
def ordered (c : FCond) : Bool := c == .lt || c == .le || c == .gt || c == .ge

/-- The pattern r is the exact nonzero value x, in units of 2^−298, rounded once in a direction (02 Table 2.6, IEEE 754):
to nearest with ties to the even pattern, or the nearest on the direction's side; beyond the range, the infinity or the
largest finite value that the direction gives. -/
def RoundedOnce (rnd : Rnd) (x : Int) (r : Nat) : Prop :=
  let u (y : Nat) : Int := units y * 2 ^ 149
  let inf : Nat := if x < 0 then 0xFF800000 else 0x7F800000
  let limit : Int := (2 ^ 25 - 1) * 2 ^ 401
  let top : Int := (2 ^ 24 - 1) * 2 ^ 402
  r < 2 ^ 32 ∧ Neg r = decide (x < 0) ∧
  match rnd with
  | .rne => if limit ≤ |x| then r = inf
      else Finite r ∧ ∀ y, Finite y → |u r - x| ≤ |u y - x| ∧ (|u r - x| = |u y - x| → u y = u r ∨ r % 2 = 0)
  | .rtz => Finite r ∧ |u r| ≤ |x| ∧ ∀ y, Finite y → |u y| ≤ |x| → |u y| ≤ |u r|
  | .rdn => if x < -top then r = inf else Finite r ∧ u r ≤ x ∧ ∀ y, Finite y → u y ≤ x → u y ≤ u r
  | .rup => if top < x then r = inf else Finite r ∧ x ≤ u r ∧ ∀ y, Finite y → x ≤ u y → u r ≤ u y

/-! Patterns of any floating format (03 Table 3.1), and what is rounded into it. -/

/-- A NaN, an infinity, a finite pattern, its sign; E4M3 has no infinity. -/
def NanIn (f : Fmt) (x : Nat) : Prop := if f.noInf then x % f.top = f.top - 1 else f.infBits < x % f.top
def InfIn (f : Fmt) (x : Nat) : Prop := f.noInf = false ∧ x % f.top = f.infBits
def FinIn (f : Fmt) (x : Nat) : Prop := x % f.top < if f.noInf then f.top - 1 else f.infBits
def negIn (f : Fmt) (x : Nat) : Bool := x.testBit (f.eb + f.fb)
/-- The value of a finite pattern. -/
def valueOf (f : Fmt) (x : Nat) : ℚ :=
  let ex := x / 2 ^ f.fb % 2 ^ f.eb
  let m : Nat := if ex = 0 then x % 2 ^ f.fb else (2 ^ f.fb + x % 2 ^ f.fb) * 2 ^ (ex - 1)
  (if negIn f x then -1 else 1) * m * 2 ^ f.emin
/-- A magnitude under a sign. -/
def withSign (f : Fmt) (neg : Bool) (m : Nat) : Nat := if neg then f.top + m else m
/-- A subnormal as the zero of its sign, where the instruction flushes (03 R64). -/
def flushIn (f : Fmt) (fl : Bool) (x : Nat) : Nat :=
  let y := x % (2 * f.top)
  if fl && y / 2 ^ f.fb % 2 ^ f.eb == 0 then y / f.top * f.top else y
/-- The distance of the greatest finite patterns. -/
def topGap (f : Fmt) : ℚ := 2 ^ (f.emin + ((2 ^ f.eb - if f.noInf then 2 else 3 : Nat) : Int))
/-- A value rounded with an unbounded exponent lies beyond the greatest finite one (06 Table 6.2). -/
def Beyond (f : Fmt) (rnd : Rnd) (x : ℝ) : Prop :=
  let m : ℝ := (valueOf f f.maxBits : ℚ)
  let u : ℝ := (topGap f : ℚ)
  match rnd with
  | .rne => m + u / 2 < |x| ∨ (f.noInf = false ∧ m + u / 2 = |x|)
  | .rtz => m + u ≤ |x|
  | .rdn => (x < 0 ∧ m < |x|) ∨ (0 < x ∧ m + u ≤ |x|)
  | .rup => (0 < x ∧ m < |x|) ∨ (x < 0 ∧ m + u ≤ |x|)
/-- What it is then (03 Table 3.2, 06 R147, R154): the infinity or the greatest finite pattern of the direction; in a format
narrower than BF16 the greatest, or under .nosat NaN (E4M3) or the infinity (E5M2; in a directed rounding log 104). -/
def OverflowIs (f : Fmt) (rnd : Rnd) (nosat neg : Bool) (r : Nat) : Prop :=
  if f.eb = 8 then r = withSign f neg (if rnd = .rne ∨ (rnd = .rdn ∧ neg = true) ∨ (rnd = .rup ∧ neg = false) then f.infBits else f.maxBits)
  else if nosat = false then r = withSign f neg f.maxBits
  else if f.noInf = true then r = f.nanBits
  else rnd = .rne → r = withSign f neg f.infBits
/-- The pattern nearest to a nonzero value on the direction's side, the even one at a tie. -/
def NearestIn (f : Fmt) (rnd : Rnd) (x : ℝ) (r : Nat) : Prop :=
  let v (y : Nat) : ℝ := (valueOf f y : ℚ)
  r < 2 * f.top ∧ FinIn f r ∧ (negIn f r = true ↔ x < 0) ∧
  match rnd with
  | .rne => ∀ y, FinIn f y → |v r - x| ≤ |v y - x| ∧ (|v r - x| = |v y - x| → v y = v r ∨ r % 2 = 0)
  | .rtz => |v r| ≤ |x| ∧ ∀ y, FinIn f y → |v y| ≤ |x| → |v y| ≤ |v r|
  | .rdn => v r ≤ x ∧ ∀ y, FinIn f y → v y ≤ x → v y ≤ v r
  | .rup => x ≤ v r ∧ ∀ y, FinIn f y → x ≤ v y → v r ≤ v y
/-- A nonzero exact value rounded once into a format, and flushed where the instruction flushes. -/
def RoundsTo (f : Fmt) (rnd : Rnd) (fl nosat : Bool) (x : ℝ) (r : Nat) : Prop :=
  (Beyond f rnd x → ∃ neg, (neg = true ↔ x < 0) ∧ OverflowIs f rnd nosat neg r) ∧
  (¬Beyond f rnd x → ∃ q, NearestIn f rnd x q ∧ r = flushIn f fl q)
/-- A value rounded to an integer in a direction (02 Table 2.6). -/
def RoundsInt (rnd : Rnd) (x : ℝ) (n : Int) : Prop :=
  match rnd with
  | .rne => |(n : ℝ) - x| ≤ 1 / 2 ∧ (|(n : ℝ) - x| = 1 / 2 → n % 2 = 0)
  | .rtz => if 0 ≤ x then (n : ℝ) ≤ x ∧ x < n + 1 else x ≤ n ∧ (n : ℝ) < x + 1
  | .rdn => (n : ℝ) ≤ x ∧ x < n + 1
  | .rup => x ≤ n ∧ (n : ℝ) < x + 1

/-- A zero that a sum of finite values comes to (06 R148): `p`, `q`: the signs of its terms; `zero`: both are zeros. -/
def zeroSum (f : Fmt) (rnd : Rnd) (zero p q : Bool) : Nat := withSign f (if zero && p == q then p else rnd == .rdn) 0
/-- A sum (06 R148, R150): x, y: the operands after the flush. -/
def SumIs (f : Fmt) (rnd : Rnd) (fl : Bool) (x y r : Nat) : Prop :=
  let v := valueOf f
  (NanIn f x ∨ NanIn f y → r = f.nanBits) ∧
  (InfIn f x → InfIn f y → r = if negIn f x = negIn f y then x else f.nanBits) ∧
  (InfIn f x → FinIn f y → r = x) ∧ (FinIn f x → InfIn f y → r = y) ∧
  (FinIn f x → FinIn f y → if v x + v y = 0 then r = zeroSum f rnd (v x == 0) (negIn f x) (negIn f y)
    else RoundsTo f rnd fl true ((v x + v y : ℚ) : ℝ) r)
/-- A product. -/
def ProductIs (f : Fmt) (rnd : Rnd) (fl : Bool) (x y r : Nat) : Prop :=
  let v := valueOf f
  let neg := negIn f x != negIn f y
  let zero (a : Nat) : Prop := FinIn f a ∧ v a = 0
  (NanIn f x ∨ NanIn f y ∨ (InfIn f x ∧ zero y) ∨ (zero x ∧ InfIn f y) → r = f.nanBits) ∧
  ((InfIn f x ∧ ¬NanIn f y ∧ ¬zero y) ∨ (InfIn f y ∧ ¬NanIn f x ∧ ¬zero x) → r = withSign f neg f.infBits) ∧
  (FinIn f x → FinIn f y → if v x * v y = 0 then r = withSign f neg 0 else RoundsTo f rnd fl true ((v x * v y : ℚ) : ℝ) r)
/-- x × y + z, rounded once (06 R150, R156). -/
def FusedIs (f : Fmt) (rnd : Rnd) (fl : Bool) (x y z r : Nat) : Prop :=
  let v := valueOf f
  let neg := negIn f x != negIn f y
  let zero (a : Nat) : Prop := FinIn f a ∧ v a = 0
  let inf : Prop := (InfIn f x ∧ ¬NanIn f y ∧ ¬zero y) ∨ (InfIn f y ∧ ¬NanIn f x ∧ ¬zero x)
  (NanIn f x ∨ NanIn f y ∨ NanIn f z ∨ (InfIn f x ∧ zero y) ∨ (zero x ∧ InfIn f y) → r = f.nanBits) ∧
  (inf → InfIn f z → r = if neg = negIn f z then z else f.nanBits) ∧ (inf → FinIn f z → r = withSign f neg f.infBits) ∧
  (FinIn f x → FinIn f y → InfIn f z → r = z) ∧
  (FinIn f x → FinIn f y → FinIn f z → if v x * v y + v z = 0 then r = zeroSum f rnd (v z == 0) neg (negIn f z)
    else RoundsTo f rnd fl true ((v x * v y + v z : ℚ) : ℝ) r)

/-- The floating types of CVT. -/
def floatTy (t : Ty) : Prop := t = .f32 ∨ t = .bf16 ∨ t = .e4m3 ∨ t = .e5m2
def integerTy (t : Ty) : Prop :=
  t = .i8 ∨ t = .n8 ∨ t = .i16 ∨ t = .n16 ∨ t = .i32 ∨ t = .n32 ∨ t = .i64 ∨ t = .n64
/-- A conversion of register bits x to register bits r (06 R154, R155). -/
def ConvertsTo (d s : Ty) (nosat : Bool) (rnd : Rnd) (fl : Bool) (x r : Nat) : Prop :=
  let f := fmtOf d
  let fs := fmtOf s
  let y := flushIn fs (fl && d != s) x
  let v : ℝ := (valueOf fs y : ℚ)
  (integerTy s → floatTy d → if tyVal s x = 0 then r = 0 else RoundsTo f rnd fl nosat (tyVal s x : ℝ) r) ∧
  (floatTy s → integerTy d →
    (NanIn fs y → r = 0) ∧ (InfIn fs y → Reads d r (if negIn fs y then tyMin d else tyMax d)) ∧
    (FinIn fs y → ∃ n, RoundsInt rnd v n ∧ Reads d r (max (tyMin d) (min (tyMax d) n)))) ∧
  (floatTy s → floatTy d →
    (NanIn fs y → r = f.nanBits) ∧
    (d = s → ¬NanIn fs y → r = flushIn f fl y) ∧
    (d ≠ s → InfIn fs y → r = if f.eb = 8 then withSign f (negIn fs y) f.infBits
      else if nosat = false then withSign f (negIn fs y) f.maxBits
      else if f.noInf = true then f.nanBits else withSign f (negIn fs y) f.infBits) ∧
    (d ≠ s → FinIn fs y → if valueOf fs y = 0 then r = withSign f (negIn fs y) 0 else RoundsTo f rnd fl nosat v r))

/-- The functions of FFN that are algebraic, on an operand x after the flush (06 Table 6.5). -/
def ReciprocalIs (rnd : Rnd) (fl : Bool) (x r : Nat) : Prop :=
  (Nan x → r = 0x7FC00000) ∧ (Inf x → r = withSign fmtF32 (Neg x) 0) ∧
  (Finite x → if units x = 0 then r = withSign fmtF32 (Neg x) 0x7F800000
    else RoundsTo fmtF32 rnd fl true (1 / ((valueOf fmtF32 x : ℚ) : ℝ)) r)
def RootIs (inverse : Bool) (rnd : Rnd) (fl : Bool) (x r : Nat) : Prop :=
  let root : ℝ := Real.sqrt ((valueOf fmtF32 x : ℚ) : ℝ)
  (Nan x → r = 0x7FC00000) ∧ (Inf x → r = if Neg x then 0x7FC00000 else if inverse then 0 else 0x7F800000) ∧
  (Finite x → (units x = 0 → r = withSign fmtF32 (Neg x) (if inverse then 0x7F800000 else 0)) ∧ (units x < 0 → r = 0x7FC00000) ∧
    (0 < units x → RoundsTo fmtF32 rnd fl true (if inverse then 1 / root else root) r))
/-- The others where the exact value is a power of two, an integer, 0, 1 or −1, and their special cases; what they are
elsewhere is not stated. -/
def Exp2Is (rnd : Rnd) (fl : Bool) (x r : Nat) : Prop :=
  (Nan x → r = 0x7FC00000) ∧ (Inf x → r = if Neg x then 0 else 0x7F800000) ∧
  ∀ n : Int, Finite x → valueOf fmtF32 x = n → RoundsTo fmtF32 rnd fl true ((2 : ℝ) ^ n) r
def Log2Is (rnd : Rnd) (fl : Bool) (x r : Nat) : Prop :=
  (Nan x → r = 0x7FC00000) ∧ (Inf x → r = if Neg x then 0x7FC00000 else 0x7F800000) ∧
  (Finite x → (units x = 0 → r = 0xFF800000) ∧ (units x < 0 → r = 0x7FC00000) ∧
    ∀ n : Int, valueOf fmtF32 x = 2 ^ n → if n = 0 then r = 0 else RoundsTo fmtF32 rnd fl true (n : ℝ) r)
def SinPiIs (x r : Nat) : Prop :=
  (Nan x ∨ Inf x → r = 0x7FC00000) ∧ (Finite x → units x = 0 → r = withSign fmtF32 (Neg x) 0) ∧
  ∀ n : Int, Finite x → (valueOf fmtF32 x = n → n ≠ 0 → r = withSign fmtF32 (decide (n < 0)) 0) ∧
    (valueOf fmtF32 x = n + 1 / 2 → r = withSign fmtF32 (n % 2 == 1) 0x3F800000)
def CosPiIs (x r : Nat) : Prop :=
  (Nan x ∨ Inf x → r = 0x7FC00000) ∧
  ∀ n : Int, Finite x → (valueOf fmtF32 x = n → r = withSign fmtF32 (n % 2 == 1) 0x3F800000) ∧
    (valueOf fmtF32 x = n + 1 / 2 → r = 0)
/-- FRND (06 R157). -/
def IntegralIs (rnd : Rnd) (x r : Nat) : Prop :=
  (Nan x → r = 0x7FC00000) ∧ (Inf x ∨ (Finite x ∧ units x = 0) → r = x) ∧
  (Finite x → units x ≠ 0 → ∃ n, RoundsInt rnd ((valueOf fmtF32 x : ℚ) : ℝ) n ∧ Finite r ∧ Neg r = Neg x ∧ valueOf fmtF32 r = n)

/-! X128 (03 R79 to R81). -/

/-- The number that 128 bits stand for. -/
def wide (x : Nat) : Int := if x < 2 ^ 127 then (x : Int) else (x : Int) - 2 ^ 128
/-- The sum of R81: the result, and whether XNAN and XOVF are set. -/
def XSum (a c r : Nat) (xnan xovf : Prop) : Prop :=
  let nan : Nat := 2 ^ 127
  let pos : Nat := 2 ^ 127 - 1
  let neg : Nat := 2 ^ 127 + 1
  let t := wide a + wide c
  if a = nan ∨ c = nan ∨ (a = pos ∧ c = neg) ∨ (a = neg ∧ c = pos) then r = nan ∧ xnan ∧ ¬xovf
  else if a = pos ∨ a = neg then r = a ∧ ¬xnan ∧ ¬xovf
  else if c = pos ∨ c = neg then r = c ∧ ¬xnan ∧ ¬xovf
  else if 2 ^ 127 - 2 < t then r = pos ∧ ¬xnan ∧ xovf
  else if t < -(2 ^ 127 - 2) then r = neg ∧ ¬xnan ∧ xovf
  else (r : Int) = t % 2 ^ 128 ∧ ¬xnan ∧ ¬xovf
/-- The conversion of R80: the value, and whether XNAN and XOVF are set. -/
def XOf (b c : Nat) (xnan xovf : Prop) : Prop :=
  (Nan b → c = 2 ^ 127 ∧ xnan ∧ ¬xovf) ∧
  (Inf b → c = (if Neg b then 2 ^ 127 + 1 else 2 ^ 127 - 1) ∧ ¬xnan ∧ xovf) ∧
  (Finite b → ¬xnan ∧ ∃ n : Int, 2 * |n * 2 ^ 69 - units b| ≤ 2 ^ 69 ∧ (2 * |n * 2 ^ 69 - units b| = 2 ^ 69 → n % 2 = 0) ∧
    if 2 ^ 127 - 2 < |n| then c = (if Neg b then 2 ^ 127 + 1 else 2 ^ 127 - 1) ∧ xovf else (c : Int) = n % 2 ^ 128 ∧ ¬xovf)

/-- X128 to FP32 (03 R83, 06 R159). -/
def XRounds (rnd : Rnd) (a r : Nat) : Prop :=
  if a = 2 ^ 127 then r = 0x7FC00000
  else if a = 2 ^ 127 - 1 then r = 0x7F800000
  else if a = 2 ^ 127 + 1 then r = 0xFF800000
  else if a = 0 then r = 0
  else RoundsTo fmtF32 rnd false true ((wide a : ℝ) / 2 ^ 80) r

/-- A fold over a list, one step after the other, from its first element. -/
def FoldedBy (step : Nat → Nat → Nat → Prop) (xs : List Nat) (r : Nat) : Prop :=
  ∃ ys : Nat → Nat, ys 0 = xs.headD 0 ∧ ys (xs.length - 1) = r ∧
    ∀ j, j + 1 < xs.length → step (ys j) (xs.getD (j + 1) 0) (ys (j + 1))

/-- GSTAT's flag i after an issue: as it was, or set by one of the lanes that the form computes for (06 R147). -/
def FlagIs (s s' : State) (t g i : Nat) (d : Reg) (h : Hdr) (P : Nat → Prop) : Prop :=
  (s'.grp t g).gstat.getLsbD i = true ↔
    (s.grp t g).gstat.getLsbD i = true ∨ ∃ l, InE s t g h l ∧ P (laneOf d (eligible s t g h) l)

/-! Lanes (07). -/

/-- The source lane of SHFL; 32 and above, none (07 R163). -/
def sourceLane (i : Instr) (l k : Nat) : Nat :=
  match i with
  | .shflIdx _ _ _ _ _ _ => k
  | .shflUp _ _ _ _ _ _ => if k ≤ l then l - k else 32
  | .shflDown _ _ _ _ _ _ => l + k
  | _ => l ^^^ k

/-- The values of the participants, ascending (07 R160, R166). -/
def participants (s : State) (t g : Nat) (h : Hdr) (a : Reg) (k : Nat) : List Nat :=
  (lanes (eligible s t g h)).map fun l => regGet (s.grp t g) a l k

/-- What a step of xorshift and MIX32 give (07 R167, R169), in 32-bit words. -/
def mix (x : Word) : Word :=
  let x := x ^^^ (x >>> 16)
  let x := x * 0x7FEB352D
  let x := x ^^^ (x >>> 15)
  let x := x * 0x846CA68B
  x ^^^ (x >>> 16)
def xorStep (x : Word) : Word :=
  let x := x ^^^ (x <<< 13)
  let x := x ^^^ (x >>> 17)
  x ^^^ (x <<< 5)
/-- Draw n of the counter generator for lane l (07 R168). -/
def draw (s : State) (t g l : Nat) (n : Word) : Word :=
  let tm := s.team t
  let lin := BitVec.ofNat 32 tm.linear
  mix (mix (tm.rngKey ^^^ (s.launchOf t).lid ^^^ lin * 0x85EBCA6B) ^^^ BitVec.ofNat 32 (32 * g + l) * 0x01000193 ^^^ n * 0x9E3779B9)

end Sys2Proof.Claims

open Sys2Proof Sys2Proof.Machine Sys2Proof.Claims in
/-- R151, R152: minimum and maximum by value with −0 below +0 and NaN ignored; comparisons with NaN unordered. An ordered
comparison with a NaN sets NV. -/
def Obligations.FloatCompareResults : Prop :=
  ∀ (s : State) (t g : Nat) (h : Hdr) (ftz : Bool) (c : FCond) (pd : BitVec 3) (d a : Reg) (b : Opd),
    legal (.fcmp h c ftz pd a b) = true →
    let gr := s.grp t g
    let x (l : Nat) : Nat := flushedTo gr ftz (regGet gr a l 1)
    let y (l : Nat) : Nat := flushedTo gr ftz (amount gr b l)
    (Ready (.fmnmxMin h ftz d a b) s t g → Gives (.fmnmxMin h ftz d a b) s t g h d 1 fun l r => MinMaxIs false (x l) (y l) r) ∧
    (Ready (.fmnmxMax h ftz d a b) s t g → Gives (.fmnmxMax h ftz d a b) s t g h d 1 fun l r => MinMaxIs true (x l) (y l) r) ∧
    (Ready (.fcmp h c ftz pd a b) s t g →
      GivesPred (.fcmp h c ftz pd a b) s t g h pd (fun l => Floats c (x l) (y l)) ∧
      ∃ s', exec (.fcmp h c ftz pd a b) s = .next s' ∧
        FlagIs s s' t g 0 (.v 0) h fun l => ordered c = true ∧ (Nan (x l) ∨ Nan (y l)))

open Sys2Proof Sys2Proof.Machine Sys2Proof.Claims in
/-- R63, R64, R148, R150, R156: FADD, FMUL and FFMA, on FP32 and (FMA2) on each BF16 half, give the exact result of their
operands rounded once in the instruction's direction: infinities, zeros with their signs, NaN canonical, subnormal operands
and results flushed under .ftz or MODE.FTZ. -/
def Sys2Proof.Claims.Arithmetic : Prop :=
  ∀ (s : State) (t g : Nat) (h : Hdr) (rnd : Rnd) (ftz : Bool) (d a : Reg) (b : Opd) (c : Reg),
    legal (.fadd h rnd ftz d a b) = true →
    let gr := s.grp t g
    let fl : Bool := ftz || gr.mode.getLsbD 1
    let x (l : Nat) : Nat := flushIn fmtF32 fl (regGet gr a l 1)
    let y (l : Nat) : Nat := flushIn fmtF32 fl (amount gr b l)
    let z (l : Nat) : Nat := flushIn fmtF32 fl (regGet gr c l 1)
    let half (w e : Nat) : Nat := w / 2 ^ (16 * e) % 2 ^ 16
    let gives (i : Instr) (p : Nat → Nat → Prop) : Prop := Ready i s t g → Gives i s t g h d 1 p
    gives (.fadd h rnd ftz d a b) (fun l r => SumIs fmtF32 rnd fl (x l) (y l) r) ∧
    gives (.fmul h rnd ftz d a b) (fun l r => ProductIs fmtF32 rnd fl (x l) (y l) r) ∧
    gives (.ffma h rnd ftz d a b c) (fun l r => FusedIs fmtF32 rnd fl (x l) (y l) (z l) r) ∧
    gives (.fma2 h rnd ftz d a b c) (fun l r => r < 2 ^ 32 ∧ ∀ e < 2,
      FusedIs fmtBf16 rnd fl (flushIn fmtBf16 fl (half (regGet gr a l 1) e)) (flushIn fmtBf16 fl (half (amount gr b l) e))
        (flushIn fmtBf16 fl (half (regGet gr c l 1) e)) (half r e))

open Sys2Proof Sys2Proof.Machine Sys2Proof.Claims in
/-- R83, R154, R155, R157, R159: CVT between integer and floating types, FRND and XRND. -/
def Sys2Proof.Claims.Conversions : Prop :=
  ∀ (s : State) (t g : Nat) (h : Hdr) (rnd : Rnd) (ftz nosat : Bool) (dt st : Ty) (d a : Reg),
    let gr := s.grp t g
    let fl : Bool := ftz || gr.mode.getLsbD 1
    (legal (.cvt h dt st nosat rnd ftz d a) = true → Ready (.cvt h dt st nosat rnd ftz d a) s t g →
      Gives (.cvt h dt st nosat rnd ftz d a) s t g h d (tyRegs dt) fun l r =>
        ConvertsTo dt st nosat rnd fl (regGet gr a l (tyRegs st)) r) ∧
    (Ready (.frnd h rnd ftz d a) s t g → Gives (.frnd h rnd ftz d a) s t g h d 1 fun l r =>
      IntegralIs rnd (flushIn fmtF32 fl (regGet gr a l 1)) r) ∧
    (Ready (.xrnd h rnd d a) s t g → Gives (.xrnd h rnd d a) s t g h d 1 fun l r => XRounds rnd (regGet gr a l 4) r)

open Sys2Proof Sys2Proof.Machine Sys2Proof.Claims in
/-- R153: FFN .rcp, .sqrt and .rsqrt rounded once; the other functions where their exact value is a power of two, an integer,
0, 1 or −1; the special cases of Table 6.5. -/
def Sys2Proof.Claims.Functions : Prop :=
  ∀ (s : State) (t g : Nat) (h : Hdr) (rnd : Rnd) (ftz : Bool) (d a : Reg),
    let gr := s.grp t g
    let fl : Bool := ftz || gr.mode.getLsbD 1
    let x (l : Nat) : Nat := flushIn fmtF32 fl (regGet gr a l 1)
    let gives (i : Instr) (p : Nat → Nat → Prop) : Prop := Ready i s t g → Gives i s t g h d 1 p
    gives (.ffnRcp h rnd ftz d a) (fun l r => ReciprocalIs rnd fl (x l) r) ∧
    gives (.ffnSqrt h rnd ftz d a) (fun l r => RootIs false rnd fl (x l) r) ∧
    gives (.ffnRsqrt h rnd ftz d a) (fun l r => RootIs true rnd fl (x l) r) ∧
    gives (.ffnExp2 h rnd ftz d a) (fun l r => Exp2Is rnd fl (x l) r) ∧
    gives (.ffnLog2 h rnd ftz d a) (fun l r => Log2Is rnd fl (x l) r) ∧
    gives (.ffnSinpi h rnd ftz d a) (fun l r => SinPiIs (x l) r) ∧
    gives (.ffnCospi h rnd ftz d a) (fun l r => CosPiIs (x l) r)

open Sys2Proof Sys2Proof.Machine Sys2Proof.Claims in
/-- R63, R64, R83, R148, R150, R153 to R157, R159: the values of the floating instructions: sums and products, conversions, functions. -/
def Obligations.FloatArithmeticRoundsOnce : Prop :=
  Sys2Proof.Claims.Arithmetic ∧ Sys2Proof.Claims.Conversions ∧ Sys2Proof.Claims.Functions

open Sys2Proof Sys2Proof.Machine Sys2Proof.Claims in
/-- R158: XACC adds an X128 contribution, or an FP32 one converted under R80, by the rule of R81, and sets XOVF and XNAN. -/
def Obligations.ExactSumResults : Prop :=
  ∀ (s : State) (t g : Nat) (h : Hdr) (d a q : Reg) (b : Opd),
    opdAligned 1 false b = true →
    let gr := s.grp t g
    let x (l : Nat) : Nat := regGet gr a l 4
    (Ready (.xaccX128 h d a q) s t g → ∃ s', exec (.xaccX128 h d a q) s = .next s' ∧
      ∃ xn xo : Nat → Prop, FlagIs s s' t g 5 d h xo ∧ FlagIs s s' t g 6 d h xn ∧
        ∀ l, InE s t g h l → let m := laneOf d (eligible s t g h) l
          XSum (x m) (regGet gr q m 4) (regGet (s'.grp t g) d l 4) (xn m) (xo m)) ∧
    (Ready (.xaccF32 h d a b) s t g → ∃ s', exec (.xaccF32 h d a b) s = .next s' ∧
      ∃ (c : Nat → Nat) (cn co xn xo : Nat → Prop), FlagIs s s' t g 5 d h (fun l => co l ∨ xo l) ∧
        FlagIs s s' t g 6 d h (fun l => cn l ∨ xn l) ∧
        ∀ l, InE s t g h l → let m := laneOf d (eligible s t g h) l
          XOf (amount gr b m) (c m) (cn m) (co m) ∧ XSum (x m) (c m) (regGet (s'.grp t g) d l 4) (xn m) (xo m))

open Sys2Proof Sys2Proof.Machine Sys2Proof.Claims in
/-- R163, R164, R165: exchanges, ballots and votes among the lanes of E, absent lanes supplying nothing. -/
def Obligations.LaneExchangeResults : Prop :=
  ∀ (s : State) (t g : Nat) (h : Hdr) (ty : Ty) (dv av : BitVec 8) (d a : Reg) (b : Opd) (pd pa : BitVec 3) (i : Instr),
    opdAligned 1 false b = true →
    let gr := s.grp t g
    let k (l : Nat) : Nat := amount gr b l % 32
    (i ∈ [Instr.shflIdx h ty dv av b pd, .shflUp h ty dv av b pd, .shflDown h ty dv av b pd, .shflXor h ty dv av b pd] →
      Ready i s t g →
      let from_ (l : Nat) : Nat := sourceLane i l (k l)
      Gives i s t g h (.v dv) (tyRegs ty) (fun l r =>
        (InE s t g h (from_ l) → r = regGet gr (.v av) (from_ l) (tyRegs ty)) ∧
        (¬InE s t g h (from_ l) → r = regGet gr (.v av) l (tyRegs ty))) ∧
      GivesPred i s t g h pd fun l => InE s t g h (from_ l)) ∧
    (Ready (.ballot h d a b) s t g → Gives (.ballot h d a b) s t g h d 1 fun _ r =>
      r < 2 ^ 32 ∧ ∀ l < 32, r.testBit l = true ↔ InE s t g h l ∧ (regGet gr a l 1).testBit (k l) = true) ∧
    (Ready (.voteAll h pd pa) s t g → GivesPred (.voteAll h pd pa) s t g h pd fun _ =>
      ∀ l, InE s t g h l → (gr.pred pa.toNat).getLsbD l = true) ∧
    (Ready (.voteAny h pd pa) s t g → GivesPred (.voteAny h pd pa) s t g h pd fun _ =>
      ∃ l, InE s t g h l ∧ (gr.pred pa.toNat).getLsbD l = true) ∧
    (Ready (.voteUni h pd pa) s t g → GivesPred (.voteUni h pd pa) s t g h pd fun _ =>
      ∀ l m, InE s t g h l → InE s t g h m → (gr.pred pa.toNat).getLsbD l = (gr.pred pa.toNat).getLsbD m)

open Sys2Proof Sys2Proof.Machine Sys2Proof.Claims in
/-- R166: the sum modulo 2^w, the least and the greatest, and, or and exclusive or over the participants; the rows of FP32 and
of X128 fold them one after the other, ascending. -/
def Obligations.ReductionResults : Prop :=
  ∀ (s : State) (t g : Nat) (h : Hdr) (ty : Ty) (d a : Reg),
    let xs := participants s t g h a (tyRegs ty)
    (wideIntTy ty = true → Ready (.lredAdd h ty d a) s t g → Gives (.lredAdd h ty d a) s t g h d (tyRegs ty) fun _ r =>
      r = xs.sum % 2 ^ tyBits ty) ∧
    (wideIntTy ty = true → Ready (.lredMin h ty d a) s t g → Gives (.lredMin h ty d a) s t g h d (tyRegs ty) fun _ r =>
      r ∈ xs ∧ ∀ x ∈ xs, tyVal ty r ≤ tyVal ty x) ∧
    (wideIntTy ty = true → Ready (.lredMax h ty d a) s t g → Gives (.lredMax h ty d a) s t g h d (tyRegs ty) fun _ r =>
      r ∈ xs ∧ ∀ x ∈ xs, tyVal ty x ≤ tyVal ty r) ∧
    (bitTy ty = true → Ready (.lredAnd h ty d a) s t g → Gives (.lredAnd h ty d a) s t g h d (tyRegs ty) fun _ r =>
      ∀ k < tyBits ty, r.testBit k = xs.all fun x => x.testBit k) ∧
    (bitTy ty = true → Ready (.lredOr h ty d a) s t g → Gives (.lredOr h ty d a) s t g h d (tyRegs ty) fun _ r =>
      ∀ k < tyBits ty, r.testBit k = xs.any fun x => x.testBit k) ∧
    (bitTy ty = true → Ready (.lredXor h ty d a) s t g → Gives (.lredXor h ty d a) s t g h d (tyRegs ty) fun _ r =>
      ∀ k < tyBits ty, r.testBit k = decide ((xs.countP fun x => x.testBit k) % 2 = 1)) ∧
    (let fl : Bool := (s.grp t g).mode.getLsbD 1
     let ys := participants s t g h a 1
     let single (r : Nat) : Prop := ys.length = 1 → r = if ys.headD 0 % 2 ^ 31 ≤ 0x7F800000 then ys.headD 0 else 0x7FC00000
     let folds (i : Instr) (step : Nat → Nat → Nat → Prop) : Prop := Ready i s t g →
       Gives i s t g h d 1 fun _ r => single r ∧ (1 < ys.length → FoldedBy step ys r)
     folds (.lredAdd h .f32 d a) (fun x y r => SumIs fmtF32 .rne fl (flushIn fmtF32 fl x) (flushIn fmtF32 fl y) r) ∧
     folds (.lredMin h .f32 d a) (fun x y r => MinMaxIs false (flushIn fmtF32 fl x) (flushIn fmtF32 fl y) r) ∧
     folds (.lredMax h .f32 d a) (fun x y r => MinMaxIs true (flushIn fmtF32 fl x) (flushIn fmtF32 fl y) r)) ∧
    (Ready (.lredAdd h .x128 d a) s t g → Gives (.lredAdd h .x128 d a) s t g h d 4 fun _ r =>
      FoldedBy (fun x y r => ∃ p q, XSum x y r p q) (participants s t g h a 4) r)

open Sys2Proof Sys2Proof.Machine Sys2Proof.Claims in
/-- R167, R168, R169, R170: the counter generator and its draw count, the stateful generator, bytes selected and shaped. -/
def Obligations.RandomAndByteResults : Prop :=
  ∀ (s : State) (t g : Nat) (h : Hdr) (dv av : BitVec 8) (seed : Word) (d a : Reg) (b : Opd) (c : Reg),
    opdAligned 1 false b = true →
    let gr := s.grp t g
    let id (l : Nat) : Word := BitVec.ofNat 32 ((s.team t).linear * (s.launchOf t).groups * 32 + 32 * g + l)
    let start (l : Nat) : Word := if mix (seed ^^^ id l) = 0 then 1 else mix (seed ^^^ id l)
    (Ready (.rngC h dv) s t g → ∃ s', exec (.rngC h dv) s = .next s' ∧ ∀ l, InE s t g h l →
      (s'.grp t g).v.get (32 * dv.toNat + l) = draw s t g l (gr.draw.get l) ∧ (s'.grp t g).draw.get l = gr.draw.get l + 1) ∧
    (Ready (.rngCx h dv av) s t g → ∃ s', exec (.rngCx h dv av) s = .next s' ∧ ∀ l, InE s t g h l →
      (s'.grp t g).v.get (32 * dv.toNat + l) = draw s t g l (gr.v.get (32 * av.toNat + l))) ∧
    (Ready (.rngSStep h dv) s t g → ∃ s', exec (.rngSStep h dv) s = .next s' ∧ ∀ l, InE s t g h l →
      (s'.grp t g).v.get (32 * dv.toNat + l) = xorStep (gr.rng.get l) ∧ (s'.grp t g).rng.get l = xorStep (gr.rng.get l)) ∧
    (Ready (.rngSReseed h dv seed) s t g → ∃ s', exec (.rngSReseed h dv seed) s = .next s' ∧ ∀ l, InE s t g h l →
      (s'.grp t g).v.get (32 * dv.toNat + l) = xorStep (start l) ∧ (s'.grp t g).rng.get l = xorStep (start l)) ∧
    (Ready (.bsel h d a b c) s t g → Gives (.bsel h d a b c) s t g h d 1 fun l r => r < 2 ^ 32 ∧ ∀ i < 4,
      let e := amount gr b l / 2 ^ (8 * i) % 256
      let y := (regGet gr c l 1 * 2 ^ 32 + regGet gr a l 1) / 2 ^ (8 * (e % 8)) % 256
      let z := r / 2 ^ (8 * i) % 256
      (e / 8 % 4 = 0 → z = y) ∧ (e / 8 % 4 = 1 → z = 0) ∧ (e / 8 % 4 = 2 → z = if y.testBit 7 then 255 else 0) ∧
      (e / 8 % 4 = 3 → ∀ k < 8, z.testBit k = y.testBit (7 - k)))

namespace Sys2Proof.Claims

open Sys2Proof.Machine

/-! Traps (04 R101, R105; 18 R373, R375; 22 Table 22.1). -/

/-- What handler entry never changes in its group: registers, predicates, tokens, draws, exits, MODE, GSTAT, what the
waits are. -/
def outsideTrap (g : Group) : Group :=
  { g with cause := 0, tpc := 0, tlanes := 0, info0 := 0, info1 := 0, info2 := 0, info3 := 0, spcv := [], pcv := [],
           handler := false, soft := [], half := none, waits := g.waits.map fun w => { w with held := false, running := false } }

/-- TRAP_CAUSE of a trap: CODE, SEQ, NEST (04 Table 4.5). -/
def CauseIs (cause : Word) (tr : Trap) : Prop := cause.toNat = tr.code.toNat + 256 * b2n tr.seq + 512 * b2n tr.nest

/-- Handler entry of a group x, for the lanes of `run` (04 R101): the trap registers; SPCV of each lane that has not
exited, TRAP_PC for the listed ones; the lanes of `run` at the handler's address, the others where they stood. -/
structure EntersHandler (base : DWord) (tr : Trap) (run : Lanes) (x y : Group) : Prop where
  cause   : CauseIs y.cause tr
  saved   : y.tpc = tr.pc ∧ y.tlanes = tr.lanes ∧ y.info0 = tr.i0 ∧ y.info1 = tr.i1 ∧ y.info2 = tr.i2 ∧ y.info3 = tr.i3
  handler : y.handler = true
  spcv    : ∀ l < 32, x.exited.getLsbD l = false →
              y.spcv.get l = if tr.lanes.getLsbD l then tr.pc else x.pcv.get l
  runs    : ∀ l < 32, run.getLsbD l = true → y.pcv.get l = base
  others  : ∀ l < 32, run.getLsbD l = false → x.exited.getLsbD l = false →
              y.pcv.get l = if tr.lanes.getLsbD l then tr.pc else x.pcv.get l
  rest    : outsideTrap y = outsideTrap x

/-- The fault record's bits from lo, n of them (22 Table 22.1). -/
def recordBits (r : Record) (lo n : Nat) : Nat :=
  ((r.slots.getD 0 0).toNat + 2 ^ 256 * (r.slots.getD 1 0).toNat) / 2 ^ lo % 2 ^ n

/-- A trap goes to the partition supervisor: a fault record waits for the partition's fault ring under a new handle; the
group stops in place where `stop`, its trap registers as they were (04 R105, 18 R375). -/
structure GoesToSupervisor (s s' : State) (t g : Nat) (stop : Bool) (tr : Trap) : Prop where
  group  : s'.grp t g = { s.grp t g with stopped := if stop then some (s.partOf t).nextHandle else (s.grp t g).stopped }
  others : ∀ u k, ¬(u = t ∧ k = g) → s'.grp u k = s.grp u k
  memory : s'.mem = s.mem
  fault  : s'.faults = s.faults ++ [{ handle := (s.partOf t).nextHandle, team := t, group := g, trap := tr }]
  record : ∃ r, s'.records = s.records ++ [r] ∧ r.ring = (s.partOf t).faultRing ∧ r.phys = true ∧ r.slots.length = 2 ∧
    recordBits r 0 32 = (s.partOf t).nextHandle.toNat ∧ CauseIs (BitVec.ofNat 32 (recordBits r 32 32)) tr ∧
    recordBits r 64 64 = tr.pc.toNat ∧ recordBits r 128 32 = tr.lanes.toNat ∧ recordBits r 160 32 = tr.i0.toNat ∧
    recordBits r 192 32 = tr.i1.toNat ∧ recordBits r 224 32 = tr.i2.toNat ∧ recordBits r 256 32 = tr.i3.toNat ∧
    recordBits r 288 32 = (s.launchOf t).lid.toNat ∧ recordBits r 320 64 = (s.launchOf t).lineage.toNat ∧
    recordBits r 384 128 = 0

/-- What follows the trap of an issue: serial mode by its rule, no part of a load that was read before, no formed issue
(04 R96, R97). -/
def settled (g : Group) : Group := { updateSerial g with half := none, formed := false }

/-- What taking a trap does to group g of team t: its handler, or the supervisor, with NEST in handler mode. -/
def TakesTrap (s s' : State) (t g : Nat) (tr : Trap) : Prop :=
  if (s.grp t g).handler = false ∧ routeS tr.code = false ∧ (s.team t).trapBase ≠ 0 then
    OnlyGroup s s' t g ∧ EntersHandler (s.team t).trapBase tr (s.grp t g).active (s.grp t g) (s'.grp t g)
  else GoesToSupervisor s s' t g true (if (s.grp t g).handler then { tr with nest := true } else tr)

/-- The lanes I of an issue of group g leave the sets that earlier YIELDs wait for (04 R117). -/
def issued (s : State) (t g : Nat) (I : Lanes) : State := s.modGrp t g (noteMoved s.tick I)

/-- An issue of the lanes I of group g of team t takes a trap: it counts for YIELD sets and serial mode like any other. -/
def Traps (s s' : State) (t g : Nat) (I : Lanes) (tr : Trap) : Prop :=
  ∃ s₁, TakesTrap (issued s t g I) s₁ t g tr ∧ s' = s₁.modGrp t g settled

/-- Group g of team t stands in the lists. -/
def Exists (s : State) (t g : Nat) : Prop := t < s.teams.length ∧ g < (s.team t).groups.length

/-- Lanes of a set take an address, in group g of team t alone. -/
def Placed (s s' : State) (t g : Nat) (ls : Lanes) (a : DWord) : Prop :=
  OnlyGroup s s' t g ∧ { s'.grp t g with pcv := [] } = { s.grp t g with pcv := [] } ∧
    ∀ l, (s'.grp t g).pcv.get l = if l < 32 ∧ ls.getLsbD l = true then a else (s.grp t g).pcv.get l

/-- Held waits: those whose lanes were parked when the handler was entered (04 R101). -/
def heldAt (g : Group) (l : Nat) : Prop := ∃ w ∈ g.waits, w.held = true ∧ w.lanes.getLsbD l = true
/-- Where the lanes of a wait stand: at the blocking instruction, or past a YIELD (04 R91, R117). -/
def standsAt (w : Wait) : DWord :=
  match w.kind with
  | .yield _ => w.next
  | _ => w.pc

/-! Control. -/

/-- What EXIT, and the operations that end with it, leave of another group of its team: all but that its end may now be
noted. -/
def unended (g : Group) : Group := { g with ended := false }

/-- The registers of a group, in registers and tokens. -/
def SameRegisters (x y : Group) : Prop :=
  y.v = x.v ∧ y.s = x.s ∧ y.p = x.p ∧ y.tok = x.tok ∧ y.draw = x.draw ∧ y.rng = x.rng ∧ FlagsKept x y

/-- The source that a SYSWR of one register per group takes: the lowest lane of E's, or the uniform one (04 R121). -/
def source (s : State) (t g : Nat) (h : Hdr) (a : Reg) (k : Nat) : Nat := regGet (s.grp t g) a (lowest (eligible s t g h)) k

/-- A group has supervisor rights: in handler mode, or in a system-flagged launch (04 R100). -/
def Rights (s : State) (t g : Nat) : Prop := (s.grp t g).handler = true ∨ (s.launchOf t).sys = true

/-- MODE after a write of v (04 R104): UVT alone without rights; TEST in a system-flagged launch alone. -/
def modeBit (s : State) (t g : Nat) (v : Word) (i : Nat) : Bool :=
  let old := (s.grp t g).mode
  let may : Bool := i == 0 || (i == 1 && ((s.grp t g).handler || (s.launchOf t).sys)) || (i == 2 && (s.launchOf t).sys)
  if may then v.getLsbD i else old.getLsbD i

/-- The rights that SYSWR of an id needs, on the value it writes (04 R102, R104, R121). -/
def mayWrite (s : State) (t g : Nat) (h : Hdr) (id : BitVec 12) (a : Reg) : Prop :=
  let v := source s t g h a 1
  let old := (s.grp t g).mode
  id = 0x071 ∨ (id ≠ 0x041 ∧ Rights s t g) ∨
  (id = 0x041 ∧ (Rights s t g → (s.launchOf t).sys = true ∨ v.testBit 2 = false) ∧
    (¬Rights s t g → v.testBit 1 = old.getLsbD 1 ∧ v.testBit 2 = old.getLsbD 2))

/-- What SYSWR with a lane in E leaves of its group and team: the register named holds what was written, as its fields
allow, every other register is as it was (SERIAL_EVENTS counts an entry into serial mode after the write; CTR_BASE is seen
by the writing group). -/
structure SystemWritten (s s' : State) (t g : Nat) (h : Hdr) (id : BitVec 12) (a : Reg) : Prop where
  events : let x := if id = 0x040 then source s t g h a 1 / 2 ^ 16 % 2 ^ 16 else serialEvents (s.grp t g)
           serialEvents (s'.grp t g) =
             if (s.grp t g).serial = false ∧ (s'.grp t g).serial = true then min (x + 1) 0xFFFF else x
  gstat  : ∀ i < 9, (s'.grp t g).gstat.getLsbD i =
             ((s.grp t g).gstat.getLsbD i && !(id == 0x040 && (source s t g h a 1).testBit i))
  mode   : ∀ i < 32, (s'.grp t g).mode.getLsbD i =
             if id = 0x041 ∧ i < 3 then modeBit s t g (BitVec.ofNat 32 (source s t g h a 1)) i
             else (s.grp t g).mode.getLsbD i && (id != 0x041)
  cause  : (s'.grp t g).cause.toNat = if id = 0x051 then source s t g h a 1 % 2 ^ 10 else (s.grp t g).cause.toNat
  tpc    : (s'.grp t g).tpc.toNat = if id = 0x052 then source s t g h a 2 else (s.grp t g).tpc.toNat
  tlanes : (s'.grp t g).tlanes.toNat = if id = 0x053 then source s t g h a 1 else (s.grp t g).tlanes.toNat
  info   : (s'.grp t g).info0.toNat = (if id = 0x054 then source s t g h a 1 else (s.grp t g).info0.toNat) ∧
           (s'.grp t g).info1.toNat = (if id = 0x055 then source s t g h a 1 else (s.grp t g).info1.toNat) ∧
           (s'.grp t g).info2.toNat = (if id = 0x056 then source s t g h a 1 else (s.grp t g).info2.toNat) ∧
           (s'.grp t g).info3.toNat = (if id = 0x057 then source s t g h a 1 else (s.grp t g).info3.toNat)
  base   : (s'.team t).trapBase.toNat = if id = 0x050 then source s t g h a 2 else (s.team t).trapBase.toNat
  selCfg : (s'.team t).selCfg.toNat =
             if id = 0x062 then source s t g h a 1 % 2 ^ 7 + 2 ^ 8 * (source s t g h a 1 / 2 ^ 8 % 2 ^ 8)
             else (s.team t).selCfg.toNat
  rngKey : (s'.team t).rngKey.toNat = if id = 0x070 then source s t g h a 1 else (s.team t).rngKey.toNat
  ctr    : (s'.team t).ctrBase.val.toNat = (if id = 0x072 then source s t g h a 1 % 8 else (s.team t).ctrBase.val.toNat) ∧
           (s'.grp t g).ctr.val.toNat = if id = 0x072 then source s t g h a 1 % 8 else (s.grp t g).ctr.val.toNat
  draw   : ∀ l < 32, ((s'.grp t g).draw.get l).toNat =
             if id = 0x071 ∧ (eligible s t g h).getLsbD l = true then regGet (s.grp t g) a l 1 else ((s.grp t g).draw.get l).toNat
  spcv   : ∀ l < 32, ((s'.grp t g).spcv.get l).toNat =
             if id = 0x101 ∧ (eligible s t g h).getLsbD l = true then regGet (s.grp t g) a l 2 else ((s.grp t g).spcv.get l).toNat
  rest   : (s'.grp t g).v = (s.grp t g).v ∧ (s'.grp t g).s = (s.grp t g).s ∧ (s'.grp t g).p = (s.grp t g).p ∧
             (s'.grp t g).tok = (s.grp t g).tok ∧ (s'.grp t g).rng = (s.grp t g).rng ∧ (s'.grp t g).exited = (s.grp t g).exited ∧
             (s'.grp t g).handler = (s.grp t g).handler
  moves  : Advances s s' t g (Instr.size (.syswr h id a))
  outside : s'.mem = s.mem ∧ (∀ u, u ≠ t → s'.team u = s.team u) ∧ ∀ k, k ≠ g → s'.grp t k = s.grp t k

/-- An issue that writes nothing: every lane of I takes the successor. -/
structure Idles (s s' : State) (t g size : Nat) : Prop where
  outside : OnlyGroup s s' t g
  rest    : restOf (s'.grp t g) = restOf (s.grp t g)
  regs    : (s'.grp t g).v = (s.grp t g).v ∧ (s'.grp t g).s = (s.grp t g).s ∧ (s'.grp t g).p = (s.grp t g).p ∧
              (s'.grp t g).draw = (s.grp t g).draw ∧ (s'.grp t g).rng = (s.grp t g).rng
  flags   : FlagsKept (s.grp t g) (s'.grp t g)
  serial  : SerialRule (s.grp t g) (s'.grp t g)
  moves   : Advances s s' t g size

/-- What SYSRD reads of the identity registers, of the part's and of the group's own (04 Table 4.2), for the ids whose value the
state determines. R107: a die outside the partition reads 0; DIE_COUNT counts the partition's dies and holds their mask. -/
def systemValue (s : State) (t g l : Nat) (id : Nat) : Option Nat :=
  let tm := s.team t
  let la := s.launchOf t
  let gr := s.grp t g
  let dies := (s.partOf t).dies
  let mapOf (d : Nat) : Nat := if dies.getLsbD d then (harvest d).toNat else 0
  let headroomOf (d : Nat) : Nat := if dies.getLsbD d then (s.die d).headroom.toNat else 0
  match id with
  | 0x020 => some (mapOf 0)
  | 0x021 => some (mapOf 1)
  | 0x022 => some (mapOf 2)
  | 0x023 => some (mapOf 3)
  | 0x024 => some (b2n (dies.getLsbD 0) + b2n (dies.getLsbD 1) + b2n (dies.getLsbD 2) + b2n (dies.getLsbD 3) + 16 * dies.toNat)
  | 0x028 => some (headroomOf 0)
  | 0x029 => some (headroomOf 1)
  | 0x02A => some (headroomOf 2)
  | 0x02B => some (headroomOf 3)
  | 0x031 => some (now s)
  | 0x000 => some l
  | 0x001 => some g
  | 0x005 => some tm.linear
  | 0x006 => some la.gx
  | 0x007 => some la.gy
  | 0x008 => some la.gz
  | 0x009 => some la.groups
  | 0x00A => some la.lid.toNat
  | 0x00B => some la.lineage.toNat
  | 0x00C => some (la.lineage.toNat / 2 ^ 16 % 16)
  | 0x010 => some (tm.core + 256 * tm.die)
  | 0x011 => some tm.logical
  | 0x040 => some gr.gstat.toNat
  | 0x041 => some gr.mode.toNat
  | 0x050 => some tm.trapBase.toNat
  | 0x051 => some gr.cause.toNat
  | 0x052 => some gr.tpc.toNat
  | 0x053 => some gr.tlanes.toNat
  | 0x054 => some gr.info0.toNat
  | 0x055 => some gr.info1.toNat
  | 0x056 => some gr.info2.toNat
  | 0x057 => some gr.info3.toNat
  | 0x060 => some 0
  | 0x061 => some tm.seq.stat.toNat
  | 0x062 => some tm.selCfg.toNat
  | 0x070 => some tm.rngKey.toNat
  | 0x071 => some (gr.draw.get l).toNat
  | 0x072 => some gr.ctr.val.toNat
  | 0x080 => some tm.touched.toNat
  | 0x081 => some (b2n la.world)
  | 0x100 => some gr.issuePc.toNat
  | 0x101 => some (if gr.handler then (gr.spcv.get l).toNat else 0)
  | _ => none

end Sys2Proof.Claims

open Sys2Proof Sys2Proof.Machine Sys2Proof.Claims in
/-- Taking a trap: it enters the launch's handler as R101 says, or stops the group and leaves a fault record for the
supervisor, its trap registers unchanged (R105), with NEST where the group was in handler mode (R373, R375). -/
def Sys2Proof.Claims.TakingATrap : Prop :=
  ∀ (s : State) (t g : Nat) (tr : Trap), Exists s t g → (kGet s.parts (s.launchOf t).part).isSome = true →
    TakesTrap s (takeTrap t g tr s) t g tr

open Sys2Proof Sys2Proof.Machine Sys2Proof.Claims in
/-- A sequencer trap goes to home group 0 with SEQ set, TRAP_PC its least entry and TRAP_LANES the lanes there; it is held
while that group is in handler mode (R101). Where the group has ended (all its lanes have exited), or no handler takes it,
a fault record goes to the supervisor and the group runs on (log 20); a group that is stopped at the supervisor enters the
handler too (log 103). -/
def Sys2Proof.Claims.TakingASequencerTrap : Prop :=
  ∀ (s : State) (t : Nat) (tr : Trap), Exists s t 0 → (kGet s.parts (s.launchOf t).part).isSome = true →
    let g := s.grp t 0
    let s' := deliverSeqTrap t tr s
    let some_ := g.active ≠ 0
    let over_ := g.ended = true ∨ g.exited = -1
    let at_ : Trap := { tr with seq := true, pc := if g.active = 0 then leastPc g.pcv (~~~g.exited) else g.issuePc,
                                lanes := if g.active = 0 then 0 else g.issueSet }
    (¬over_ → g.handler = true → s'.team t = { s.team t with heldTrap := some at_ }) ∧
    (¬over_ → g.handler = false → routeS tr.code = false → (s.team t).trapBase ≠ 0 → OnlyGroup s s' t 0 ∧
      (some_ → EntersHandler (s.team t).trapBase at_ g.active g (s'.grp t 0)) ∧
      (¬some_ → EntersHandler (s.team t).trapBase at_ (~~~g.exited) g (s'.grp t 0))) ∧
    (¬over_ → g.handler = false → routeS tr.code = true ∨ (s.team t).trapBase = 0 → GoesToSupervisor s s' t 0 false at_) ∧
    (over_ → GoesToSupervisor s s' t 0 false { at_ with pc := 0, lanes := 0 })

open Sys2Proof Sys2Proof.Machine Sys2Proof.Claims in
/-- R101, R105, R373, R375: taking a trap raised by lanes of a group, and one raised by a sequencer; R97, R117: an issue that
traps counts for serial mode and for the sets of earlier YIELDs like any other. -/
def Obligations.TakingTraps : Prop :=
  Sys2Proof.Claims.TakingATrap ∧ Sys2Proof.Claims.TakingASequencerTrap ∧
  ∀ g : Group, SerialRule g (settled g) ∧
    settled g = { g with serial := (settled g).serial, gstat := (settled g).gstat, half := none, formed := false } ∧
    FlagsKept g (settled g) ∧
    ∀ (order : Nat) (I : Lanes), noteMoved order I g = { g with waits := (noteMoved order I g).waits } ∧
      (noteMoved order I g).waits.map shapeOf = g.waits.map shapeOf ∧
      ∀ (k : Nat) (w : Wait) (ls : Lanes), g.waits[k]? = some w → w.kind = .yield ls → ∃ y,
        (noteMoved order I g).waits[k]? = some y ∧
          y.kind = .yield (if w.order < order then ls &&& ~~~(I ||| g.exited ||| g.parked) else ls)

open Sys2Proof Sys2Proof.Machine Sys2Proof.Claims in
/-- R119: RFT leaves handler mode; lanes that were parked when the handler was entered go back to their waits; of all the
others that have not exited the listed ones go to TRAP_PC, the rest to SPCV, those that parked inside the handler too
(their waits end: log 21). Outside handler mode it traps PRIV, and only an unguarded RFT is an instruction. -/
def Obligations.ReturnFromTrap : Prop :=
  (∀ h : Hdr, legal (.rft h) = true ↔ h.pg = 0 ∧ h.pn = false) ∧
  ∀ (s : State) (t g : Nat) (h : Hdr), legal (.rft h) = true → Issuing s t g → Declared s t h [] →
    let gr := s.grp t g
    (gr.handler = false → (kGet s.parts (s.launchOf t).part).isSome = true →
      ∃ s', exec (.rft h) s = .next s' ∧ Traps s s' t g (s.grp t g).issueSet { code := 0x03, pc := gr.issuePc, lanes := gr.issueSet }) ∧
    (gr.handler = true → (s.team t).heldTrap = none → (∀ w ∈ gr.waits, w.done = none) →
      ∃ s', exec (.rft h) s = .next s' ∧ OnlyGroup s s' t g ∧ (s'.grp t g).handler = false ∧
        SameRegisters gr (s'.grp t g) ∧ (s'.grp t g).exited = gr.exited ∧ (s'.grp t g).mode = gr.mode ∧
        (s'.grp t g).waits.map shapeOf =
          ((gr.waits.filter fun w => w.held).map fun w => shapeOf { w with held := false, running := false }) ∧
        ∀ l < 32, gr.exited.getLsbD l = false →
          (heldAt gr l → ∃ w ∈ gr.waits, w.held = true ∧ w.lanes.getLsbD l = true ∧ (s'.grp t g).pcv.get l = standsAt w) ∧
          (¬heldAt gr l → (s'.grp t g).pcv.get l = if gr.tlanes.getLsbD l then gr.tpc else gr.spcv.get l))

open Sys2Proof Sys2Proof.Machine Sys2Proof.Claims in
/-- R112: the lowest lane of I decides for every lane of I; where a lane disagrees UV is set, and under MODE.UVT the issue
traps UNIFORM with every lane of I, no PC changed. -/
def Obligations.UniformBranch : Prop :=
  ∀ (s : State) (t g : Nat) (h : Hdr) (off : Word), Issuing s t g → Declared s t h [] →
    (kGet s.parts (s.launchOf t).part).isSome = true →
    let gr := s.grp t g
    let e := eligible s t g h
    let take := e.getLsbD (lowest gr.issueSet)
    let agree := ∀ l, InI s t g l → e.getLsbD l = take
    ∃ s', exec (.bru h off) s = .next s' ∧
      ((e = 0 ∨ agree ∨ gr.mode.getLsbD 0 = false) → OnlyGroup s s' t g ∧ restOf (s'.grp t g) = restOf gr ∧
        (s'.grp t g).v = gr.v ∧ (s'.grp t g).s = gr.s ∧ (s'.grp t g).p = gr.p ∧
        (∀ i < 16, (s'.grp t g).gstat.getLsbD i = true ↔ gr.gstat.getLsbD i = true ∨ (i = 7 ∧ e ≠ 0 ∧ ¬agree)) ∧
        ∀ l, (InI s t g l → (s'.grp t g).pcv.get l =
            if take = true then gr.issuePc + off.signExtend 64 else successor s t g (Instr.size (.bru h off))) ∧
          (¬InI s t g l → (s'.grp t g).pcv.get l = gr.pcv.get l)) ∧
      (e ≠ 0 → ¬agree → gr.mode.getLsbD 0 = true →
        ∃ s₁, OnlyGroup s s₁ t g ∧ s₁.grp t g = { gr with gstat := gr.gstat ||| 0x80 } ∧
          Traps s₁ s' t g (s.grp t g).issueSet { code := 0x15, pc := gr.issuePc, lanes := gr.issueSet })

open Sys2Proof Sys2Proof.Machine Sys2Proof.Claims in
/-- R116, R98: EXIT ends the lanes of E, the other lanes of I take the successor; a group ends when all its lanes have
exited and its tokens' operations have completed. An EXIT that would end a group holding a tile traps TOKEN and ends no
lane. -/
def Obligations.ExitEndsLanes : Prop :=
  ∀ (s : State) (t g : Nat) (h : Hdr), Issuing s t g → Declared s t h [] →
    let gr := s.grp t g
    let out := gr.exited ||| eligible s t g h
    let held (k : Nat) : Prop := ∃ x, (s.team t).tiles[k]? = some x ∧ x.state = .group g
    (eligible s t g h ≠ 0 → (out = -1 → ∀ k, ¬held k) →
      ∃ s', exec (.exit h) s = .next s' ∧ (s'.grp t g).exited = out ∧ SameRegisters gr (s'.grp t g) ∧
        ((s'.grp t g).ended = true ↔ out = -1 ∧ ∀ e ∈ gr.tok, tokenDone s e.2 = true) ∧
        (∀ l, InI s t g l → ¬InE s t g h l → (s'.grp t g).pcv.get l = successor s t g (Instr.size (.exit h))) ∧
        (∀ l, ¬InI s t g l → (s'.grp t g).pcv.get l = gr.pcv.get l) ∧
        s'.mem = s.mem ∧ (∀ k, k ≠ g → unended (s'.grp t k) = unended (s.grp t k)) ∧ ∀ u, u ≠ t → s'.team u = s.team u) ∧
    (eligible s t g h ≠ 0 → out = -1 → (kGet s.parts (s.launchOf t).part).isSome = true →
      ∀ k, held k → (∀ j < k, ¬held j) →
        ∃ s₁ s', Placed s s₁ t g (gr.issueSet &&& ~~~(eligible s t g h)) (successor s t g (Instr.size (.exit h))) ∧
          exec (.exit h) s = .next s' ∧
          Traps s₁ s' t g (s.grp t g).issueSet { code := 0x0C, pc := gr.issuePc, lanes := eligible s t g h, i0 := BitVec.ofNat 32 k, i1 := 2 })

open Sys2Proof Sys2Proof.Machine Sys2Proof.Claims in
/-- R117: the lanes of E take the successor and park until the lanes of W have moved, W being the lanes that neither exited
nor parked but those of E; where W is empty they run on. Every lane that issues, exits or parks leaves the set. They unpark
when no lane of W is left to wait for, and not before. (While they are parked their PCV entries stand at the successor
already: log 32.) -/
def Obligations.YieldParksUntilOthersMove : Prop :=
  (∀ (s : State) (t g : Nat) (h : Hdr), Issuing s t g → Declared s t h [] → eligible s t g h ≠ 0 →
    let gr := s.grp t g
    let w := gr.active &&& ~~~(eligible s t g h)
    ∃ s', exec (.yield h) s = .next s' ∧ OnlyGroup s s' t g ∧ Advances s s' t g (Instr.size (.yield h)) ∧
      SameRegisters gr (s'.grp t g) ∧ (w = 0 → (s'.grp t g).waits.length = gr.waits.length) ∧
      (w ≠ 0 → ∃ x, (s'.grp t g).waits.getLast? = some x ∧ (s'.grp t g).waits.length = gr.waits.length + 1 ∧
        x.lanes = eligible s t g h ∧ x.next = successor s t g (Instr.size (.yield h)) ∧ x.pc = gr.issuePc ∧
        x.done = none ∧ x.held = false ∧ x.kind = .yield w)) ∧
  (∀ (s : State) (t g k : Nat) (h : Hdr) (ext : NopExt) (x : Wait) (ls : Lanes), Issuing s t g → Declared s t h [] →
    (s.grp t g).waits[k]? = some x → x.kind = .yield ls → x.order < s.tick →
    ∃ s' y, exec (.nop h ext) s = .next s' ∧ (s'.grp t g).waits[k]? = some y ∧
      y = { x with kind := .yield (ls &&& ~~~((s.grp t g).issueSet ||| (s.grp t g).exited ||| (s.grp t g).parked)) }) ∧
  (∀ (s : State) (t g k : Nat) (x : Wait) (ls : Lanes), (s.grp t g).waits[k]? = some x → x.kind = .yield ls → ls ≠ 0 →
    exec (.yieldUnpark t g k) s = .next s) ∧
  (∀ (s : State) (t g k : Nat) (x : Wait), Exists s t g → (s.grp t g).waits[k]? = some x → x.kind = .yield 0 →
    x.done = none → x.held = false → (s.grp t g).stopped = none → (s.grp t g).taken = none →
    (s.team t).phase = .resident →
    ∃ s', exec (.yieldUnpark t g k) s = .next s' ∧ OnlyGroup s s' t g ∧
      s'.grp t g = { s.grp t g with waits := (s.grp t g).waits.eraseIdx k, pcv := (s'.grp t g).pcv } ∧
      ∀ l < 32, (s'.grp t g).pcv.get l =
        if x.lanes.getLsbD l = true ∧ (s.grp t g).exited.getLsbD l = false then x.next else (s.grp t g).pcv.get l)

open Sys2Proof Sys2Proof.Machine Sys2Proof.Claims in
/-- R118: TRAP takes trap 0x00 for the lanes of E, with its operand in TRAP_INFO0 and the successor in TRAP_PC; an empty E
has no effect. In a matrix stream it stops the sequencer behind it, and SEQ_CTL.RESUME restarts it there. -/
def Obligations.SoftwareTrap : Prop :=
  ∀ (s : State) (t g : Nat) (h : Hdr) (info : Option Word), (kGet s.parts (s.launchOf t).part).isSome = true →
    (Issuing s t g → Declared s t h [] → eligible s t g h ≠ 0 →
      let nx := successor s t g (Instr.size (.trap h info))
      ∃ s₁ s', Placed s s₁ t g ((s.grp t g).issueSet &&& ~~~(eligible s t g h)) nx ∧
        exec (.trap h info) s = .next s' ∧
        Traps s₁ s' t g (s.grp t g).issueSet { code := 0x00, pc := nx, lanes := eligible s t g h, i0 := info.getD 0 }) ∧
    (s.cur = .seq t → canSeq s t = true → h.pg = 0 → h.pn = false → h.live = none → (s.team t).seq.running = [] →
      (s.team t).seq.stage = none →
      let nx := nextAddr (s.team t).seq.pc (Instr.size (.trap h info))
      ∃ s₁ s', exec (.trap h info) s = .next s' ∧ s' = deliverSeqTrap t { code := 0x00, i0 := info.getD 0 } s₁ ∧
        (∀ u, u ≠ t → s₁.team u = s.team u) ∧ s₁.mem = s.mem ∧
        s₁.team t = { s.team t with seq := (s₁.team t).seq } ∧ (s₁.team t).seq.pc = nx ∧ (s₁.team t).seq.resumeAt = nx ∧
        bitOf (s₁.team t).seq.stat.toNat 0 = false ∧ bitOf (s₁.team t).seq.stat.toNat 1 = true ∧
        (s₁.team t).seq.stat.toNat / 2 ^ 7 % 256 = 0)

open Sys2Proof Sys2Proof.Machine Sys2Proof.Claims in
/-- R121, with R102 to R105: SYSWR writes the register it names as its fields allow, and no other; a read-only register
ignores it. Without the right it needs it traps PRIV. R106: SEQ_CTL.RESUME restarts a stopped sequencer. With an empty E
either writes nothing. R104, R52: while MODE.TEST is 0 the forms of RNG.s trap PRIV. -/
def Obligations.SystemRegisterWrites : Prop :=
  (∀ (s : State) (t g : Nat) (h : Hdr) (id : BitVec 12) (a : Reg), legal (.syswr h id a) = true → Issuing s t g →
    Declared s t h [(a, sysRegs id)] →
    (mayWrite s t g h id a → eligible s t g h ≠ 0 →
      ∃ s', exec (.syswr h id a) s = .next s' ∧ SystemWritten s s' t g h id a) ∧
    (id ≠ 0x071 → id ≠ 0x041 → ¬Rights s t g → (kGet s.parts (s.launchOf t).part).isSome = true →
      ∃ s', exec (.syswr h id a) s = .next s' ∧
        Traps s s' t g (s.grp t g).issueSet { code := 0x03, pc := (s.grp t g).issuePc, lanes := (s.grp t g).issueSet }) ∧
    (id = 0x041 → ¬mayWrite s t g h id a → eligible s t g h ≠ 0 → (kGet s.parts (s.launchOf t).part).isSome = true →
      ∃ s', exec (.syswr h id a) s = .next s' ∧
        Traps s s' t g (s.grp t g).issueSet { code := 0x03, pc := (s.grp t g).issuePc, lanes := (s.grp t g).issueSet }) ∧
    (∀ (dv : BitVec 8) (seed : Word), ∀ i ∈ [Instr.rngSStep h dv, .rngSReseed h dv seed], Declared s t h [(.v dv, 1)] →
      (s.grp t g).mode.getLsbD 2 = false → (kGet s.parts (s.launchOf t).part).isSome = true →
      ∃ s', exec i s = .next s' ∧
        Traps s s' t g (s.grp t g).issueSet { code := 0x03, pc := (s.grp t g).issuePc, lanes := (s.grp t g).issueSet }) ∧
    (id = 0x071 ∨ id = 0x041 ∨ Rights s t g → eligible s t g h = 0 →
      ∃ s', exec (.syswr h id a) s = .next s' ∧ Idles s s' t g (Instr.size (.syswr h id a)))) ∧
  (∀ (s : State) (t g : Nat) (h : Hdr) (a : Reg), Issuing s t g → Declared s t h [(a, 1)] → eligible s t g h = 0 →
    ∃ s', exec (.seqCtlResume h a) s = .next s' ∧ Idles s s' t g (Instr.size (.seqCtlResume h a))) ∧
  (∀ (s : State) (t g : Nat) (h : Hdr) (a : Reg), Issuing s t g → Declared s t h [(a, 1)] → eligible s t g h ≠ 0 →
    ∃ s', exec (.seqCtlResume h a) s = .next s' ∧ Advances s s' t g (Instr.size (.seqCtlResume h a)) ∧ s'.mem = s.mem ∧
      SameRegisters (s.grp t g) (s'.grp t g) ∧ (∀ u, u ≠ t → s'.team u = s.team u) ∧
      let q := (s.team t).seq
      let q' := (s'.team t).seq
      let resumes := (source s t g h a 1).testBit 0 = true ∧ bitOf q.stat.toNat 1 = true
      (¬resumes → q' = q) ∧
      (resumes → q'.pc = q.resumeAt ∧ bitOf q'.stat.toNat 0 = true ∧ bitOf q'.stat.toNat 1 = false ∧
        ∀ i, 2 ≤ i → q'.stat.getLsbD i = q.stat.getLsbD i))

open Sys2Proof Sys2Proof.Machine Sys2Proof.Claims in
/-- R120 with Table 4.2: SYSRD gives each lane of E what the register named holds as that lane sees it. R107: HARVEST_MAPd,
DIE_COUNT and DIE_HEADROOMd; R108: TIME, and CYCLE to within 4 cycles (what the counts start from is log 5). R85: a team's
coordinates are below the grid's dimensions and give its linear number back. R95, R96: FORMED reads 0 or 1, the same in
every lane; 1 where the group joined an issue that had begun, 0 where it is in serial mode or in its handler; a formed issue
that begins with the read has other groups of the team issue next, and changes nothing else (which issues form is log 10's). -/
def Obligations.SystemRegisterReads : Prop :=
  (∀ (s : State) (t g : Nat) (h : Hdr) (d : Reg) (id : BitVec 12), legal (.sysrd h d id) = true → id ≠ 0x012 →
    Ready (.sysrd h d id) s t g → Gives (.sysrd h d id) s t g h d (sysRegs id) fun l r =>
      (∀ v, systemValue s t g l id.toNat = some v → r = v % 2 ^ (32 * sysRegs id)) ∧
      -- CYCLE: the package's count, which no two cores see more than 4 cycles apart (R108)
      (id = 0x030 → ∃ c ≤ 4, r = (s.cycle + c) % 2 ^ 64)) ∧
  (∀ (s : State) (t g : Nat) (h : Hdr) (d : Reg), Issuing s t g → Declared s t h [(d, 1)] →
    ∃ s' s₁, exec (.sysrd h d 0x012) s = .next s' ∧
      s₁ = { s with teams := s₁.teams, agenda := s₁.agenda } ∧
      (∀ u k, { s₁.grp u k with formed := false } = { s.grp u k with formed := false } ∧
        ((u ≠ t ∨ k = g) → s₁.grp u k = s.grp u k)) ∧
      (∀ u, { s₁.team u with groups := [] } = { s.team u with groups := [] }) ∧
      (∃ ms, s₁.agenda = ms ++ s.agenda ∧ ∀ m ∈ ms, ∃ k, k ≠ g ∧ m = .issue (.group t k) ∧ (s₁.grp t k).formed = true) ∧
      RegisterFrame ⟨h, [], [(d, 1)], [], false, false, false⟩ s₁ s' t g (Instr.size (.sysrd h d 0x012))
        (fun _ => successor s t g (Instr.size (.sysrd h d 0x012))) ∧
      ∃ f < 2, (∀ l, InE s t g h l → regGet (s'.grp t g) d l 1 = f) ∧ ((s.grp t g).formed = true → f = 1) ∧
        ((s.grp t g).formed = false → (s.grp t g).serial = true ∨ (s.grp t g).handler = true → f = 0)) ∧
  (∀ (s : State) (t g : Nat) (h : Hdr) (d : Reg), Ready (.sysrd h d 0x002) s t g →
    0 < (s.launchOf t).gx → 0 < (s.launchOf t).gy → (s.team t).linear < (s.launchOf t).teamCount →
    (s.launchOf t).teamCount < 2 ^ 32 →
    ∃ x y z : Nat, Gives (.sysrd h d 0x002) s t g h d 1 (fun _ r => r = x) ∧
      Gives (.sysrd h d 0x003) s t g h d 1 (fun _ r => r = y) ∧ Gives (.sysrd h d 0x004) s t g h d 1 (fun _ r => r = z) ∧
      x < (s.launchOf t).gx ∧ y < (s.launchOf t).gy ∧ z < (s.launchOf t).gz ∧
      (s.team t).linear = x + (s.launchOf t).gx * (y + (s.launchOf t).gy * z))

namespace Sys2Proof.Claims

open Sys2Proof.Machine

/-! What the SIMT forms beyond formOf name: the header, the registers they read and write, the tiles they name. -/

/-- The registers of an address: its base of k registers, its index. -/
def ofAddr (k : Nat) (a : Addr) : List (Reg × Nat) :=
  (a.base, k) :: (match a.form with
    | .full _ (some (r, _)) => [(r, 1)]
    | _ => [])
def ofImm (v : ImmU) : List (Reg × Nat) :=
  match v with
  | .uni n => [(.s n, 1)]
  | .imm _ => []
def ofBexp (o : BexpOpd) : List (Reg × Nat) :=
  match o with
  | .regs b n => [(.s b, 1), (.s n, 1)]
  | .immReg _ n => [(.s n, 1)]
  | .imms _ _ => []
def ofWindow (w : Window) : List Nat :=
  match w with
  | .acc k => [k.toNat]
  | _ => []

/-- Header, registers, tiles. -/
structure Names where
  hdr   : Hdr
  regs  : List (Reg × Nat)
  tiles : List Nat := []

def namesOf : Instr → Option Names
  | .ld h ty _ _ _ d ad => some ⟨h, (d, tyRegs ty) :: ofAddr 2 ad, []⟩
  | .st h ty _ _ _ ad d => some ⟨h, (d, tyRegs ty) :: ofAddr 2 ad, []⟩
  | .lds h ty w d ad | .sts h ty w ad d => some ⟨h, (d, tyRegs ty) :: ofAddr 1 ad, ofWindow w⟩
  | .atomAdd h ty _ _ d ad b | .atomMin h ty _ _ d ad b | .atomMax h ty _ _ d ad b | .atomAnd h ty _ _ d ad b
  | .atomOr h ty _ _ d ad b | .atomXor h ty _ _ d ad b | .atomExch h ty _ _ d ad b =>
    some ⟨h, (d, tyRegs ty) :: (b, tyRegs ty) :: ofAddr 2 ad, []⟩
  | .atomCas h ty _ _ d ad b => some ⟨h, (d, tyRegs ty) :: (b, 2 * tyRegs ty) :: ofAddr 2 ad, []⟩
  | .atomsAdd h ty d ad b | .atomsMin h ty d ad b | .atomsMax h ty d ad b | .atomsAnd h ty d ad b | .atomsOr h ty d ad b
  | .atomsXor h ty d ad b | .atomsExch h ty d ad b => some ⟨h, (d, tyRegs ty) :: (b, tyRegs ty) :: ofAddr 1 ad, []⟩
  | .atomsCas h ty d ad b => some ⟨h, (d, tyRegs ty) :: (b, 2 * tyRegs ty) :: ofAddr 1 ad, []⟩
  | .fence h _ _ | .drainSp h | .drainFifo h | .drainGlb h => some ⟨h, [], []⟩
  | .publish h _ d a _ => some ⟨h, [(.s d, 2), (.s a, 2)], []⟩
  | .cctlInv h ad | .cctlPfl1 h ad | .cctlPfl2 h ad => some ⟨h, ofAddr 2 ad, []⟩
  | .nmcGather h _ _ a | .nmcCopy h _ _ a | .nmcCvt h _ _ a | .nmcRed h _ _ a => some ⟨h, [(.s a, 2)], []⟩
  | .ldcB32 h d off => some ⟨h, (d, 1) :: ofOpd off 1, []⟩
  | .ldcB64 h d off => some ⟨h, (d, 2) :: ofOpd off 1, []⟩
  | .barSync h v | .barArrive h v | .barWait h v | .cbar h _ v | .qbindSq h _ v | .qalwAdd h _ v | .qalwSet h _ v
  | .pcbase h v | .tmark h v => some ⟨h, ofImm v, []⟩
  | .bexp h o => some ⟨h, ofBexp o, []⟩
  | .movPush h ty _ r | .movPop h ty r _ => some ⟨h, [(r, if ty = .b64 then 2 else 1)], []⟩
  | .qbindPort h _ _ | .waitk h _ | .waitkMask h _ => some ⟨h, [], []⟩
  | .qtryPush h _ _ r | .qtryPop h r _ _ => some ⟨h, [(r, 2)], []⟩
  | .acq h k | .rel h k => some ⟨h, [], [k.toNat]⟩
  | .tsld h _ a _ => some ⟨h, [(.s a, 2)], []⟩
  | .tsev h _ ad => some ⟨h, (match ad with
      | some (a, _) => [(.s a, 2)]
      | none => []), []⟩
  | .cpy h _ _ _ _ o _ | .cpyAdd h _ _ _ _ o _ | .cpyMin h _ _ _ _ o _ | .cpyMax h _ _ _ _ o _ | .cpyAnd h _ _ _ _ o _
  | .cpyOr h _ _ _ _ o _ | .enc h _ _ _ _ o _ | .decF32 h _ _ _ _ o _ | .decBf16 h _ _ _ _ o _ | .feedFa h _ _ o _
  | .feedFb h _ _ o _ | .feedSc h _ _ o _ => some ⟨h, [(.s o, 8)], []⟩
  | .gscG h _ _ _ _ _ | .gscS h _ _ _ _ _ | .gscSadd h _ _ _ _ _ => some ⟨h, [], []⟩
  | .collStart h _ a | .collResume h _ a => some ⟨h, [(.s a, 2)], []⟩
  | .pcadd h _ _ _ ad c => some ⟨h, (.v c, 2) :: ofAddr 2 ad, []⟩
  | .pcaddRtn h _ _ _ d ad c | .pcmrg h _ _ _ d ad c => some ⟨h, (.v d, 1) :: (.v c, 2) :: ofAddr 2 ad, []⟩
  | .pcrd h _ _ _ d ad | .pcrdRaw h _ _ _ d ad => some ⟨h, (.v d, 1) :: ofAddr 2 ad, []⟩
  | .pcclr h _ _ _ ad => some ⟨h, ofAddr 2 ad, []⟩
  | .launch h d a _ _ => some ⟨h, [(.s d, 1), (.s a, 2)], []⟩
  | .fork h _ a b => some ⟨h, [(.s a, 2), (.s b, 2)], []⟩
  | .cancel h a => some ⟨h, [(.s a, 2)], []⟩
  | .twait h d a => some ⟨h, (.s d, 1) :: (match a with
      | some r => [(.s r, 1)]
      | none => []), []⟩
  | .alloc h d size => some ⟨h, (d, 2) :: ofOpd size 1, []⟩
  | .free h a => some ⟨h, [(a, 2)], []⟩
  | .hvc h _ | .registerQueue h | .registerCollectiveGroup h | .addFrames h | .retireRoot h | .setHangThreshold h
  | .attestationQuote h => some ⟨h, [], []⟩
  | .exit h | .yield h | .trap h _ => some ⟨h, [], []⟩
  | _ => none

/-- What a form names lies below what the launch declared. -/
def Declares (s : State) (t : Nat) (n : Names) : Prop :=
  Declared s t n.hdr n.regs ∧ ∀ k ∈ n.tiles, k < (s.launchOf t).accs

/-- Group g of team t issues a form that names what it may. -/
def ReadyFor (i : Instr) (s : State) (t g : Nat) : Prop :=
  Issuing s t g ∧ ∀ n, namesOf i = some n → Declares s t n

/-- The group's partition is there to take a trap. -/
def HasPart (s : State) (t : Nat) : Prop := (kGet s.parts (s.launchOf t).part).isSome = true

/-- Registers, predicates and tokens of every group, and every lane's entry but as `moves` says: what an instruction
without a register result leaves of its group. -/
def KeepsGroup (s s' : State) (t g size : Nat) : Prop :=
  SameRegisters (s.grp t g) (s'.grp t g) ∧ (s'.grp t g).exited = (s.grp t g).exited ∧
    (s'.grp t g).mode = (s.grp t g).mode ∧ (s'.grp t g).handler = (s.grp t g).handler ∧
    (s'.grp t g).spcv = (s.grp t g).spcv ∧ (s'.grp t g).cause = (s.grp t g).cause ∧ Advances s s' t g size

/-- Every byte of memory reads as before but those of some range; device registers as before. -/
def MemoryKept (s s' : State) (inside : Nat → Prop) : Prop :=
  s'.devRegs = s.devRegs ∧ ∀ a, ¬inside a → s'.mem.get a = s.mem.get a

/-- The forms that a matrix stream alone holds (02 R51). -/
def seqOnly : Instr → Bool
  | .mms _ _ _ _ _ | .mmsPair _ _ _ _ _ | .aclrF32Zero _ | .aclrF32Broadcast _ _ | .aclrX128Zero _ | .aclrX128Broadcast _ _
  | .sqif _ _ _ | .sqwhWhile _ _ _ | .sqwhEndw _ | .sqcwSet _ | .sqcwSetSp _ | .sqcwAdd _ | .sqcwCmp _ | .sqcwEnd
  | .vprojF _ _ _ _ _ _ | .vprojB _ _ _ _ _ _ | .vmrgRow _ | .vmrgHeap _ | .voutRow _ _ | .voutHeap _ _ => true
  | _ => false
/-- The forms that either stream may hold. -/
def bothStreams : Instr → Bool
  | .barSync _ _ | .barArrive _ _ | .barWait _ _ | .bexp _ _ | .rel _ _ | .nop _ _ | .trap _ _ => true
  | _ => false

end Sys2Proof.Claims

open Sys2Proof Sys2Proof.Machine Sys2Proof.Claims in
/-- Decoding what the encoder writes gives the instruction back: every encoded form, every operand at every value, the
live-mask word included. -/
def Obligations.DecodeEncode : Prop :=
  ∀ (i : Instr) (bs : List Byte), i.WellFormed → encode i = some bs →
    decode false bs = .ok i ∧ bs.length = i.size ∧
      ((∀ w, i ≠ .unassignedOpcode w) → ∀ rest, wholeInstr false (bs ++ rest) = some bs)

open Sys2Proof Sys2Proof.Machine Sys2Proof.Claims in
/-- A word that decodes is the word its instruction encodes to: no two words of one stream stand for one term, and no
decoded term is ill-formed. -/
def Obligations.EncodeDecode : Prop :=
  ∀ (bs xs : List Byte) (i : Instr), wholeInstr false bs = some xs → decode false xs = .ok i →
    i.WellFormed ∧ ((∀ w, i ≠ .unassignedOpcode w) → encode i = some xs)

open Sys2Proof Sys2Proof.Machine Sys2Proof.Claims in
/-- A step runs the instruction that the bytes at the issue address decode to, after what comes before every step (a
scheduled move is taken off, waiting stores may be performed: log 4, 11), and lets time pass (log 5); a sequencer fetches
its stream in the same way, and meets the stores that are performed as far as it can tell (log 11); a step of the part runs
as it is. An error that arises is noted where it lies (log 119), and a world that the monitor assigns at what it is assigned
to (log 85). -/
def Obligations.StepRunsDecoded : Prop :=
  (∀ (s s1 : State) (t g : Nat) (bs xs : List Byte) (i : Instr), s.powered = true →
    nextMove s = some (.issue (.group t g)) → canIssue (beforeStep s) t g = true → ((beforeStep s).grp t g).lost = 0 →
    ((beforeStep s).grp t g).issuePc.toNat % 4 = 0 → ((beforeStep s).grp t g).issuePc.toNat % 32 ≠ 28 →
    gateLanes (ctxOf (beforeStep s) t g ⟨0, false, none⟩ 8) .fetch false (32 - ((beforeStep s).grp t g).issuePc.toNat % 32)
      [((beforeStep s).grp t g).issuePc.toNat] (beforeStep s) = none →
    fetchBytes (beforeStep s) t g ((beforeStep s).grp t g).issuePc = (s1, .ok bs) →
    wholeInstr false bs = some xs → decode false xs = .ok i →
    step s = advanceOutcome (exec i { s1 with cur := .group t g })) ∧
  (∀ (s s1 : State) (t : Nat) (bs xs : List Byte) (i : Instr), s.powered = true →
    nextMove s = some (.issue (.seq t)) → canSeq (beforeStep s) t = true →
    let pc := ((beforeStep s).team t).seq.pc
    pc.toNat % 4 = 0 → pc.toNat % 32 ≠ 28 → fetchStream t pc (32 - pc.toNat % 32) (beforeStep s) = .bytes s1 bs →
    wholeInstr true bs = some xs → decode true xs = .ok i →
    ((s1.team t).seq.endw = true → isWhile i = true) →
    step s = advanceOutcome (exec i ({ s1 with cur := .seq t }.modSeq t fun q => { q with endw := false }))) ∧
  (∀ (s s1 : State) (t : Nat) (pc : DWord) (n : Nat) (bs : List Byte) (ps : List Piece),
    checkAccess s (whoLaunch (s.launchOf t)) .fetch false pc.toNat n = .ok ps → s.ecc = [] →
    (∀ e ∈ ps, isRemote e.1.pa = false ∧ ∀ d, homeDie (s.partOf t) e.1.pa = some d →
      (s.die d).lost = false ∧ (s.die d).linkState = 0 ∧ (s.die (s.team t).die).linkState = 0) →
    (s.team t).seq.fetchWait = none →
    fetchStream t pc n s = .bytes s1 bs →
      let seen := observe (.seq t) (spansOf ps) s
      bs = bytesOf n (readPieces seen (s.launchOf t).part ps) ∧
        s1 = seen.modTeam t fun tm => { tm with touched := (s1.team t).touched }) ∧
  (∀ (s : State) (i : Instr), s.powered = true → nextMove s = some (.event i) → encode i = none →
    step s = advanceOutcome (exec i { beforeStep s with cur := .none })) ∧
  (∀ (s : State) (e : EccErr), s.powered = true → nextMove s = some (.strike e) →
    ∃ s', step s = .next s' ∧ s'.ecc = s.ecc ++ [e] ∧ s'.mem = (beforeStep s).mem ∧ ∀ t g, s'.grp t g = s.grp t g) ∧
  (∀ (s : State) (t g : Nat) (e : SoftErr), s.powered = true → nextMove s = some (.soft t g e) → Exists s t g →
    ∃ s', step s = .next s' ∧ s'.grp t g = { s.grp t g with soft := (s.grp t g).soft ++ [e] } ∧ s'.mem = (beforeStep s).mem) ∧
  (∀ (s : State) (x : Assigned) (w : Bool), s.powered = true → nextMove s = some (.assign x w) →
    ∃ s', step s = .next s' ∧ s'.mem = (beforeStep s).mem ∧ (∀ t g, s'.grp t g = s.grp t g) ∧
      (s.boot ≠ .monitor → s'.worlds = s.worlds ∧ s'.portSecure = s.portSecure ∧ s'.stations = s.stations ∧ s'.dies = s.dies) ∧
      (s.boot = .monitor → match x with
        | .granule n => ∀ m, kGet s'.worlds m = if m = n then some w else kGet s.worlds m
        | .port second => s'.portSecure = s.portSecure.set (b2n second) w
        | .station n => ∀ m, s'.stations[m]? = (s.stations[m]?).map fun y => if m = n then { y with secure := w } else y
        | .engines n => ∀ m, s'.dies[m]? = (s.dies[m]?).map fun y => if m = n then { y with engines := w } else y))

open Sys2Proof Sys2Proof.Machine Sys2Proof.Claims in
/-- Every step of every state answers a next state: no instruction of the table, no event and no fetch ends a run. -/
def Obligations.StepAlwaysAnswers : Prop := ∀ s : State, ∃ s', core.step s = .next s'

open Sys2Proof Sys2Proof.Machine Sys2Proof.Claims in
/-- Every step keeps memory and the device registers in canonical form. -/
def Obligations.StepKeepsSound : Prop := ∀ s s' : State, s.Sound → core.step s = .next s' → s'.Sound

open Sys2Proof Sys2Proof.Machine Sys2Proof.Claims in
/-- Reset: memory is in canonical form, no partition, launch or team exists, each of the 32 stations has its 4 lanes, and
the next move is the boot ROM's (that unlisted memory reads as 0 is log 1's choice). -/
def Obligations.ResetState : Prop :=
  core.reset.Sound ∧ (∀ a, core.reset.mem.get a = 0) ∧ core.reset.parts = [] ∧ core.reset.launches = [] ∧
    core.reset.teams = [] ∧ core.reset.cmds = [] ∧ core.reset.boot = .off ∧ core.reset.powered = true ∧
    nextMove core.reset = some (.event .powerOnBoot) ∧ (∀ q, (core.reset.sems.getD q {}).held = false) ∧
    core.reset.stations.length = 32 ∧ ∀ x ∈ core.reset.stations, x.width = 4

open Sys2Proof Sys2Proof.Machine Sys2Proof.Claims in
/-- A word of each of some families, written out from the encoding tables, decodes to the instruction it stands for. -/
def Obligations.DecodeWords : Prop :=
  -- IADD.sat.i32 v(3) = v(1) + v(2): OPC 0x10, MD 0x84
  decodeTableWord 64 (0x10 * 4 + 3 * 2 ^ 16 + 1 * 2 ^ 24 + 2 * 2 ^ 32 + 0x84 * 2 ^ 56)
    = some (.iadd ⟨0, false, none⟩ .i32 true (.v 3) (.v 1) (.reg (.v 2))) ∧
  -- EXIT under @!p2: OPC 0x06, PG 2, PN 1
  decodeTableWord 64 (0x06 * 4 + 2 * 2 ^ 10 + 1 * 2 ^ 13) = some (.exit ⟨2, true, none⟩) ∧
  -- YIELD: OPC 0x07
  decodeTableWord 64 (0x07 * 4) = some (.yield ⟨0, false, none⟩) ∧
  -- a word of LEN 3 is no instruction
  decodeTableWord 64 3 = some (.unassignedOpcode 3)

open Sys2Proof Sys2Proof.Machine Sys2Proof.Claims in
/-- R90, R110: where no lane of I passes the guard, every SIMT form only sends I to the successor: no register, no memory,
nothing outside the group changes. -/
def Obligations.EmptyGuardOnlyAdvances : Prop :=
  ∀ (i : Instr) (n : Names) (s : State) (t g : Nat), namesOf i = some n → ReadyFor i s t g → eligible s t g n.hdr = 0 →
    ∃ s', exec i s = .next s' ∧ OnlyGroup s s' t g ∧ KeepsGroup s s' t g i.size ∧ s'.mem = s.mem ∧
      (s'.grp t g).waits.map shapeOf = (s.grp t g).waits.map shapeOf

open Sys2Proof Sys2Proof.Machine Sys2Proof.Claims in
/-- R53: a register beyond the declared counts traps ILL with every lane of I listed and TRAP_PC at the instruction,
whatever the guard. So does a word that is no instruction, and a form of the matrix sequencer in a SIMT stream; a SIMT
form in a matrix stream stops the sequencer with ILL. -/
def Sys2Proof.Claims.EncodingTraps : Prop :=
  (∀ (i : Instr) (n : Names) (s : State) (t g : Nat), namesOf i = some n → Issuing s t g → ¬Declares s t n → HasPart s t →
    ∃ s', exec i s = .next s' ∧ Traps s s' t g (s.grp t g).issueSet { code := 0x01, pc := (s.grp t g).issuePc, lanes := (s.grp t g).issueSet }) ∧
  (∀ (i : Instr) (f : Form) (s : State) (t g : Nat), formOf i = some f → Issuing s t g →
    ¬Declared s t f.hdr (f.reads ++ f.writes) → HasPart s t →
    ∃ s', exec i s = .next s' ∧ Traps s s' t g (s.grp t g).issueSet { code := 0x01, pc := (s.grp t g).issuePc, lanes := (s.grp t g).issueSet }) ∧
  (∀ (i : Instr) (s : State) (t g : Nat), (seqOnly i = true ∨ ∃ w, i = .unassignedOpcode w) → Issuing s t g → HasPart s t →
    ∃ s', exec i s = .next s' ∧ Traps s s' t g (s.grp t g).issueSet { code := 0x01, pc := (s.grp t g).issuePc, lanes := (s.grp t g).issueSet }) ∧
  (∀ (i : Instr) (s : State) (t : Nat), ((namesOf i).isSome = true ∨ (formOf i).isSome = true) → bothStreams i = false →
    s.cur = .seq t → canSeq s t = true →
    ∃ s1, exec i s = .next (deliverSeqTrap t { code := 0x01 } s1) ∧ (∀ u, u ≠ t → s1.team u = s.team u) ∧ s1.mem = s.mem ∧
      (s1.team t).seq.resumeAt = (s.team t).seq.pc ∧ bitOf (s1.team t).seq.stat.toNat 0 = false ∧
      bitOf (s1.team t).seq.stat.toNat 1 = true ∧ (s1.team t).seq.stat.toNat / 2 ^ 7 % 256 = 1)

open Sys2Proof Sys2Proof.Machine Sys2Proof.Claims in
/-- R383: a register form that reads a register, its guard's predicate or a PCV entry whose stored bits hold an
uncorrectable error does not act and traps SOFT, naming class, index and lanes. Memory is as it was but for the COUNT of an
error entry that stands in the ring (R384). -/
def Sys2Proof.Claims.SoftErrorTraps : Prop :=
  ∀ (i : Instr) (f : Form) (s : State) (t g : Nat) (e : SoftErr),
    formOf i = some f → f.rngs = false → s.cur = .group t g → canIssue s t g = true → Declared s t f.hdr (f.reads ++ f.writes) →
    (s.grp t g).soft = [e] → e.sev = 2 → (s.grp t g).handler = false → (s.team t).trapBase ≠ 0 →
    let E := eligible s t g f.hdr
    let within (n k : Nat) : Prop := n ≤ e.idx.toNat ∧ e.idx.toNat < n + k
    ((e.cls = 0 ∧ (∃ n k, (Reg.v n, k) ∈ f.reads ∧ within n.toNat k) ∧ e.lanes &&& E ≠ 0) ∨
      (e.cls = 1 ∧ (∃ n k, (Reg.s n, k) ∈ f.reads ∧ within n.toNat k) ∧ E ≠ 0) ∨
      (e.cls = 2 ∧ f.hdr.pg ≠ 0 ∧ e.idx.toNat = f.hdr.pg.toNat ∧ e.lanes &&& (s.grp t g).issueSet ≠ 0) ∨
      (e.cls = 4 ∧ e.lanes &&& (s.grp t g).issueSet ≠ 0)) →
    ∃ s', exec i s = .next s' ∧ (∀ u, u ≠ t → s'.team u = s.team u) ∧
      (∀ a, s'.mem.get a ≠ s.mem.get a → ∃ x ∈ (s.partOf t).recent, x.2.1 + 12 ≤ a ∧ a < x.2.1 + 16) ∧
      (s'.grp t g).handler = true ∧ (s'.grp t g).cause = 0x16 ∧ (s'.grp t g).tpc = (s.grp t g).issuePc ∧
      (s'.grp t g).tlanes = (if E = 0 then (s.grp t g).issueSet else E) ∧
      (s'.grp t g).info0.toNat = e.cls.toNat + 256 * e.idx.toNat ∧
      (s'.grp t g).info1 = e.lanes ∧ (s'.grp t g).v = (s.grp t g).v ∧ (s'.grp t g).s = (s.grp t g).s ∧
      (s'.grp t g).p = (s.grp t g).p

open Sys2Proof Sys2Proof.Machine Sys2Proof.Claims in
/-- R53, R383: encoding traps, and the trap of a register whose stored bits hold an uncorrectable error. -/
def Obligations.EncodingAndSoftErrorTraps : Prop := Sys2Proof.Claims.EncodingTraps ∧ Sys2Proof.Claims.SoftErrorTraps

namespace Sys2Proof.Claims

open Sys2Proof.Machine

/-! Accesses (08). -/

/-- Lane l makes an access: it is in E; where the data register is uniform the access is made once, by the lowest lane
(08 R201). -/
def Acting (s : State) (t g : Nat) (h : Hdr) (d : Reg) (l : Nat) : Prop :=
  InE s t g h l ∧ (regUni d = true → l = lowest (eligible s t g h))

/-- The byte that a value has at address a, where pieces cover a; the pieces take the value's bytes in order, the first
lowest (00 R3). -/
def byteIn : List Piece → Nat → Nat → Option Byte
  | [], _, _ => none
  | (pg, n) :: r, x, a =>
    if pg.pa ≤ a ∧ a < pg.pa + n then some (BitVec.ofNat 8 (x / 256 ^ (a - pg.pa))) else byteIn r (x / 256 ^ n) a
/-- Pieces cover an address. -/
def Covers (ps : List Piece) (a : Nat) : Prop := ∃ e ∈ ps, e.1.pa ≤ a ∧ a < e.1.pa + e.2

/-- The value that the bytes of a memory under some pieces make. -/
def valueIn (m : Memory) : List Piece → Nat
  | [] => 0
  | (pg, n) :: r => (List.range n).foldr (fun i x => (m.get (pg.pa + i)).toNat + 256 * x) 0 + 256 ^ n * valueIn m r

/-- The part of lane l's load that an earlier step of the same load has read (08 R187). -/
def firstHalf (gr : Group) (l : Nat) : Option Half :=
  match gr.half with
  | some (pc, hs) => if pc = gr.issuePc then hs.find? fun h => h.lane == l else none
  | none => none
/-- What a load reads: the bytes under its pieces, of which one may have been read before. -/
def loaded (m : Memory) (gr : Group) (l : Nat) (ps : List Piece) : Nat :=
  match firstHalf gr l, ps with
  | some h, [a, b] =>
    if h.addr = (if h.second then b.1.pa else a.1.pa) then
      (if h.second then valueIn m [a] + 256 ^ a.2 * h.value else h.value + 256 ^ a.2 * valueIn m [b])
    else valueIn m ps
  | _, _ => valueIn m ps
/-- The load is made in one step: no lane's access crosses a 128-byte line, or a part of it has been read. -/
def InOneStep (gr : Group) (acting : Nat → Prop) (addr : Nat → Nat) (n : Nat) : Prop :=
  gr.half.isSome = true ∨ ∀ l, acting l → addr l % 128 + n ≤ 128

/-- A memory after a value has been stored under some pieces: its bytes there, every other byte as before. -/
def StoredIn (ps : List Piece) (x : Nat) (m m' : Memory) : Prop := ∀ a, m'.get a = (byteIn ps x a).getD (m.get a)

/-- The address that lane l accesses: base pair, displacement, scaled index, modulo 2^64 (02 R43). -/
def addressOf (gr : Group) (ad : Addr) (l : Nat) : Nat := globalAddr gr ad l
/-- The byte offset in a window, modulo 2^32 (02 R44). -/
def offsetOf (gr : Group) (ad : Addr) (l : Nat) : Nat := windowOff gr ad l

/-- Pieces of ordinary memory of the part, on dies that answer, their frames not shared where they are written. -/
def OrdinaryPieces (s : State) (t : Nat) (k : Kind) (ps : List Piece) : Prop :=
  ∀ e ∈ ps, isRemote e.1.pa = false ∧ isDev e.1.pa = false ∧ e.1.cache ≠ 2 ∧
    (k.writes = true → needsCopy s e.1 = false) ∧
    ∀ d, homeDie (s.partOf t) e.1.pa = some d →
      (s.die d).lost = false ∧ (s.die d).linkState = 0 ∧ (s.die (s.team t).die).linkState = 0

/-- Every acting lane's access passes the checks of 08 R182, on ordinary memory, and goes on passing whatever the lanes'
stores leave under their pieces; no error stands in storage and no store waits. -/
def Passes (s : State) (t g : Nat) (h : Hdr) (d : Reg) (k : Kind) (words : Bool) (n : Nat) (addr : Nat → Nat)
    (ps : Nat → List Piece) : Prop :=
  s.ecc = [] ∧ s.buffer = [] ∧
  ∀ l, Acting s t g h d l → OrdinaryPieces s t k (ps l) ∧
    ∀ m : Memory, (m = s.mem ∨ (k.writes = true ∧
        ∀ a, (∀ l', Acting s t g h d l' → ¬Covers (ps l') a) → m.get a = s.mem.get a)) →
      checkAccess { s with mem := m } (whoGroup s t g) k words (addr l) n = .ok (ps l)

/-- Outside the group, an access of global memory changes memory, the waiting stores and TOUCHED_DIES of its team. -/
def OnlyGlobal (s s' : State) (t g : Nat) : Prop :=
  s' = { (s.modTeam t fun tm => { tm with touched := (s'.team t).touched }).modGrp t g (fun _ => s'.grp t g) with
    mem := s'.mem, buffer := s'.buffer, nextStore := s'.nextStore } ∧ (s.team t).touched &&& (s'.team t).touched = (s.team t).touched
/-- An access of a window changes the team's scratchpad, tiles and selection rows. -/
def OnlyWindows (s s' : State) (t g : Nat) : Prop :=
  s' = (s.modTeam t fun tm => { tm with scratch := (s'.team t).scratch, tiles := (s'.team t).tiles, rows := (s'.team t).rows
      }).modGrp t g fun _ => s'.grp t g

/-- In its group, a memory form changes its destination, for the lanes of E, and nothing else; every lane of I takes the
successor. -/
def GroupFrame (f : Form) (s s' : State) (t g size : Nat) : Prop :=
  RegisterFrame f (s'.modGrp t g fun _ => s.grp t g) s' t g size fun _ => successor s t g size

/-- Loaded bytes x fill a register group as r (08 Table 8.12): integers narrower than a register by sign, BF16 as FP32. -/
def LoadIs (ty : Ty) (x r : Nat) : Prop :=
  match ty with
  | .i8 => Reads .i8 r (sgn 8 x)
  | .i16 => Reads .i16 r (sgn 16 x)
  | .bf16 => (Nan (x * 2 ^ 16) → r = 0x7FC00000) ∧ (¬Nan (x * 2 ^ 16) → r = x * 2 ^ 16)
  | .e4m3 | .e5m2 | .q8 => r = loadVal ty x
  | _ => r = x
/-- A register value r is stored as the bytes x. -/
def StoreIs (ty : Ty) (r x : Nat) : Prop :=
  match ty with
  | .bf16 | .e4m3 | .e5m2 | .q8 => x = (storeVal ty r).1
  | _ => x = r % 256 ^ tyBytes ty

/-- What an atomic makes of the old value and its operand (08 Table 8.13); FP32 and BF16 pairs by the model's own float
operations (06). -/
def AtomicIs (op : AtomOp) (ty : Ty) (old b new : Nat) : Prop :=
  let w := 8 * tyBytes ty
  match op with
  | .add => if ty = .x128 then ∃ p q, XSum old b new p q
      else if ty = .f32 ∨ ty = .bf16x2 then new = (atomVal op ty old b).1 else new = (old + b) % 2 ^ w
  | .min => if ty = .f32 ∨ ty = .bf16x2 then new = (atomVal op ty old b).1
      else (new : Int) = min (tyVal ty old) (tyVal ty b) % ((2 ^ w : Nat) : Int)
  | .max => if ty = .f32 ∨ ty = .bf16x2 then new = (atomVal op ty old b).1
      else (new : Int) = max (tyVal ty old) (tyVal ty b) % ((2 ^ w : Nat) : Int)
  | .and => ∀ i, new.testBit i = (old.testBit i && b.testBit i)
  | .or => ∀ i, new.testBit i = (old.testBit i || b.testBit i)
  | .xor => ∀ i, new.testBit i = (old.testBit i != b.testBit i)
  | .exch => new = b % 2 ^ w
  | .cas => new = if old = b % 2 ^ w then b / 2 ^ w % 2 ^ w else old

/-- The forms of ATOM and ATOMS by operation. -/
def atomForms (h : Hdr) (ty : Ty) (o : Order) (sc : Scope) (d : Reg) (ad : Addr) (b : Reg) : AtomOp → Instr
  | .add => .atomAdd h ty o sc d ad b
  | .min => .atomMin h ty o sc d ad b
  | .max => .atomMax h ty o sc d ad b
  | .and => .atomAnd h ty o sc d ad b
  | .or => .atomOr h ty o sc d ad b
  | .xor => .atomXor h ty o sc d ad b
  | .exch => .atomExch h ty o sc d ad b
  | .cas => .atomCas h ty o sc d ad b
def atomsForms (h : Hdr) (ty : Ty) (d : Reg) (ad : Addr) (b : Reg) : AtomOp → Instr
  | .add => .atomsAdd h ty d ad b
  | .min => .atomsMin h ty d ad b
  | .max => .atomsMax h ty d ad b
  | .and => .atomsAnd h ty d ad b
  | .or => .atomsOr h ty d ad b
  | .xor => .atomsXor h ty d ad b
  | .exch => .atomsExch h ty d ad b
  | .cas => .atomsCas h ty d ad b

/-- n bytes of a store of bytes, as a number. -/
def bytesAt (m : Store 8) (o n : Nat) : Nat := (List.range n).foldr (fun i x => (m.get (o + i)).toNat + 256 * x) 0
/-- n bytes of x put at o, every other byte as before. -/
def PutAt (m m' : Store 8) (o n x : Nat) : Prop :=
  ∀ a, m'.get a = if o ≤ a ∧ a < o + n then BitVec.ofNat 8 (x / 256 ^ (a - o)) else m.get a

/-- States of a store, one per lane in ascending order (04 R93): the lanes that act change it one after the other. -/
def LaneByLane {α : Type} (acting : Nat → Prop) (x₀ x₁ : α) (does : Nat → α → α → Prop) : Prop :=
  ∃ xs : Nat → α, xs 0 = x₀ ∧ xs 32 = x₁ ∧
    ∀ l < 32, (acting l → does l (xs l) (xs (l + 1))) ∧ (¬acting l → xs (l + 1) = xs l)

/-- The order of the checks (08 R182). -/
def earlier (a b : Byte) : Prop :=
  let rank (c : Byte) : Nat := if c = 0x04 then 0 else if c = 0x06 then 1 else if c = 0x08 then 2 else if c = 0x05 then 3 else 4
  rank a < rank b

end Sys2Proof.Claims

open Sys2Proof Sys2Proof.Machine Sys2Proof.Claims in
/-- R201 to R203, R182: a load whose lanes' accesses pass gives each lane of E the bytes at its address in the form of the
type; memory stays as it was. R187: one that crosses a 128-byte line may be made in two steps, the first of which reads one
part of each such lane's bytes and leaves the group where it stands. -/
def Obligations.LoadResults : Prop :=
  ∀ (s : State) (t g : Nat) (h : Hdr) (ty : Ty) (o : Order) (sc : Scope) (hint : Hint) (d : Reg) (ad : Addr)
    (ps : Nat → List Piece),
    let i : Instr := .ld h ty o sc hint d ad
    let gr := s.grp t g
    i.WellFormed → ReadyFor i s t g → Passes s t g h d .read (bitTy ty) (tyBytes ty) (addressOf gr ad) ps →
    let completes (s' : State) : Prop :=
      GroupFrame ⟨h, [], [(d, tyRegs ty)], [], false, false, false⟩ s s' t g i.size ∧
      ∀ l, InE s t g h l → let m := laneOf d (eligible s t g h) l
        LoadIs ty (loaded s.mem gr m (ps m)) (regGet (s'.grp t g) d l (tyRegs ty))
    let begins (s' : State) : Prop :=
      s'.grp t g = { gr with half := (s'.grp t g).half } ∧ ∃ hs, (s'.grp t g).half = some (gr.issuePc, hs) ∧
        ∀ e ∈ hs, Acting s t g h d e.lane ∧ 128 < addressOf gr ad e.lane % 128 + tyBytes ty ∧
          ∃ p, (ps e.lane)[if e.second then 1 else 0]? = some p ∧ e.addr = p.1.pa ∧ e.value = valueIn s.mem [p]
    ∃ s', exec i s = .next s' ∧ OnlyGlobal s s' t g ∧ s'.mem = s.mem ∧ s'.buffer = s.buffer ∧ s'.nextStore = s.nextStore ∧
      (completes s' ∨ begins s') ∧
      (InOneStep gr (Acting s t g h d) (addressOf gr ad) (tyBytes ty) → completes s')

open Sys2Proof Sys2Proof.Machine Sys2Proof.Claims in
/-- R201 to R203, R93: a store whose lanes' accesses pass puts each lane's bytes to wait, at its address, and memory stays
as it was; whichever of them are performed first, once all are, memory holds what the lanes stored one after the other in
ascending order, and every other byte as it was (when a waiting store is performed is log 11's). -/
def Obligations.StoreResults : Prop :=
  ∀ (s : State) (t g : Nat) (h : Hdr) (ty : Ty) (o : Order) (sc : Scope) (hint : Hint) (d : Reg) (ad : Addr)
    (ps : Nat → List Piece),
    let i : Instr := .st h ty o sc hint ad d
    let gr := s.grp t g
    i.WellFormed → ReadyFor i s t g → Passes s t g h d .write (bitTy ty) (tyBytes ty) (addressOf gr ad) ps →
    ∃ s', exec i s = .next s' ∧ OnlyGlobal s s' t g ∧ GroupFrame ⟨h, [], [], [], true, false, false⟩ s s' t g i.size ∧
      s'.mem = s.mem ∧
      (∀ l, Acting s t g h d l → ∃ x, StoreIs ty (regGet gr d l (tyRegs ty)) x ∧
        ∀ a b, byteIn (ps l) x a = some b → ∃ q ∈ s'.buffer, q.lanes.getLsbD l = true ∧
          q.addr ≤ a ∧ q.bytes[a - q.addr]? = some b) ∧
      (∀ q ∈ s'.buffer, q.team = t ∧ q.group = g ∧ q.eng = none ∧ q.due = none ∧
        q.lanes &&& ~~~(eligible s t g h) = 0 ∧ (q.plain = true ↔ o = .ordinary) ∧
        ∀ a, q.addr ≤ a → a < q.addr + q.bytes.length → ∃ l, Acting s t g h d l ∧ Covers (ps l) a) ∧
      ∀ sel : Pending → Bool,
        let after := performStores (fun _ => true) (performStores sel s')
        after.buffer = [] ∧ LaneByLane (Acting s t g h d) s.mem after.mem fun l m m' =>
          ∃ x, StoreIs ty (regGet gr d l (tyRegs ty)) x ∧ StoredIn (ps l) x m m'

open Sys2Proof Sys2Proof.Machine Sys2Proof.Claims in
/-- R205: an atomic gives each acting lane, in ascending order, the old value at its address and leaves there what Table
8.13 makes of it and the operand. -/
def Obligations.AtomicResults : Prop :=
  ∀ (s : State) (t g : Nat) (h : Hdr) (op : AtomOp) (ty : Ty) (o : Order) (sc : Scope) (d : Reg) (ad : Addr) (b : Reg)
    (ps : Nat → List Piece),
    let i := atomForms h ty o sc d ad b op
    let gr := s.grp t g
    i.WellFormed → ReadyFor i s t g → Passes s t g h d .atom (bitTy ty) (tyBytes ty) (addressOf gr ad) ps →
    ∃ s', exec i s = .next s' ∧ OnlyGlobal s s' t g ∧ s'.buffer = [] ∧
      GroupFrame ⟨h, [], [(d, tyRegs ty)], [], true, false, false⟩ s s' t g i.size ∧
      LaneByLane (Acting s t g h d) s.mem s'.mem fun l m m' =>
        regGet (s'.grp t g) d l (tyRegs ty) = valueIn m (ps l) ∧
        ∃ x, AtomicIs op ty (valueIn m (ps l)) (regGet gr b l (atomRegs op ty)) x ∧ StoredIn (ps l) x m m'

open Sys2Proof Sys2Proof.Machine Sys2Proof.Claims in
/-- R183: where lanes of a load, a store or an atomic fail checks, the others' accesses are performed; the trap is the
earliest check that failed, lists the lanes that fail it, and names the first failing byte address of the lowest of them,
with the kind of access; failing lanes stay at the instruction, and their accesses are not performed. An access made once
lists every lane of E. -/
def Sys2Proof.Claims.FailingGlobalLanes : Prop :=
  ∀ (s : State) (t g : Nat) (h : Hdr) (op : AtomOp) (ty : Ty) (o : Order) (sc : Scope) (hint : Hint) (d : Reg) (ad : Addr)
    (b : Reg) (i : Instr) (k : Kind) (code : Nat → Byte) (at_ : Nat → Nat) (ps : Nat → List Piece) (fails : Nat → Bool)
    (best : Nat),
    let gr := s.grp t g
    let act (l : Nat) : Prop := Acting s t g h d l
    (i = .ld h ty o sc hint d ad ∧ k = .read ∧ InOneStep gr act (addressOf gr ad) (tyBytes ty)) ∨
      (i = .st h ty o sc hint ad d ∧ k = .write) ∨ (i = atomForms h ty o sc d ad b op ∧ k = .atom) →
    i.WellFormed → ReadyFor i s t g → s.ecc = [] → s.buffer = [] → HasPart s t →
    (∀ l, act l → (fails l = false → OrdinaryPieces s t k (ps l)) ∧
      ∀ m : Memory, (m = s.mem ∨ (k = .atom ∧
          ∀ a, (∀ l', act l' → fails l' = false → ¬Covers (ps l') a) → m.get a = s.mem.get a)) →
        checkAccess { s with mem := m } (whoGroup s t g) k (bitTy ty) (addressOf gr ad l) (tyBytes ty) =
          if fails l then .error (code l, at_ l) else .ok (ps l)) →
    act best → fails best = true → (∀ l, act l → fails l = true → ¬earlier (code l) (code best) ∧
      (code l = code best → best ≤ l)) →
    ∃ s₁ s', exec i s = .next s' ∧ OnlyGlobal s s₁ t g ∧
      (k = .read → s₁.mem = s.mem ∧ s₁.buffer = [] ∧
        (∀ l, act l → fails l = false → LoadIs ty (loaded s.mem gr l (ps l)) (regGet (s₁.grp t g) d l (tyRegs ty))) ∧
        ∀ l, act l → fails l = true → regGet (s₁.grp t g) d l (tyRegs ty) = regGet gr d l (tyRegs ty)) ∧
      (k = .write → s₁.mem = s.mem ∧
        LaneByLane (fun l => act l ∧ fails l = false) s.mem (performStores (fun _ => true) s₁).mem fun l m m' =>
          ∃ x, StoreIs ty (regGet gr d l (tyRegs ty)) x ∧ StoredIn (ps l) x m m') ∧
      (k = .atom → s₁.buffer = [] ∧
        (∀ l, act l → fails l = true → regGet (s₁.grp t g) d l (tyRegs ty) = regGet gr d l (tyRegs ty)) ∧
        LaneByLane (fun l => act l ∧ fails l = false) s.mem s₁.mem fun l m m' =>
          regGet (s₁.grp t g) d l (tyRegs ty) = valueIn m (ps l) ∧
          ∃ x, AtomicIs op ty (valueIn m (ps l)) (regGet gr b l (atomRegs op ty)) x ∧ StoredIn (ps l) x m m') ∧
      (∀ l, let stays := ¬InI s t g l ∨ (InE s t g h l ∧ (regUni d = true ∨ fails l = true))
        (stays → (s₁.grp t g).pcv.get l = gr.pcv.get l) ∧ (¬stays → (s₁.grp t g).pcv.get l = successor s t g i.size)) ∧
      ∃ ls : Lanes, (∀ l < 32, ls.getLsbD l = true ↔
          InE s t g h l ∧ (regUni d = true ∨ (fails l = true ∧ code l = code best))) ∧
        Traps s₁ s' t g (s.grp t g).issueSet
          { code := code best, pc := gr.issuePc, lanes := ls, i0 := BitVec.ofNat 32 (at_ best),
            i1 := BitVec.ofNat 32 (at_ best / 2 ^ 32), i2 := BitVec.ofNat 32 k.code }

open Sys2Proof Sys2Proof.Machine Sys2Proof.Claims in
/-- R174, R183: where lanes of an LDS or STS reach beyond the team's scratchpad bytes, the others' accesses are performed;
the trap is PERM and lists the lanes that do. It names the lowest offending offset of the lowest of them: that this is the
first byte beyond the window, or the access's own first byte, is the model's reading of R174 (DEDUCED, log 40). -/
def Sys2Proof.Claims.FailingScratchLanes : Prop :=
  ∀ (s : State) (t g : Nat) (h : Hdr) (ty : Ty) (d : Reg) (ad : Addr) (i : Instr) (store : Bool) (best : Nat),
    let gr := s.grp t g
    let tm := s.team t
    let n := tyBytes ty
    let off (l : Nat) : Nat := offsetOf gr ad l
    let size := (s.launchOf t).scratchBytes
    let act (l : Nat) : Prop := Acting s t g h d l
    i = (if store then .sts h ty .scratch ad d else .lds h ty .scratch d ad) →
    i.WellFormed → ReadyFor i s t g → s.ecc = [] → s.buffer = [] → HasPart s t →
    act best → size < off best + n → (∀ l, act l → size < off l + n → best ≤ l) →
    ∃ s₁ s', exec i s = .next s' ∧ OnlyWindows s s₁ t g ∧ (s₁.team t).tiles = tm.tiles ∧ (s₁.team t).rows = tm.rows ∧
      (store = false → (s₁.team t).scratch = tm.scratch ∧
        (∀ l, act l → off l + n ≤ size → LoadIs ty (bytesAt tm.scratch (off l) n) (regGet (s₁.grp t g) d l (tyRegs ty))) ∧
        ∀ l, act l → size < off l + n → regGet (s₁.grp t g) d l (tyRegs ty) = regGet gr d l (tyRegs ty)) ∧
      (store = true → LaneByLane (fun l => act l ∧ off l + n ≤ size) tm.scratch (s₁.team t).scratch fun l m m' =>
        ∃ x, StoreIs ty (regGet gr d l (tyRegs ty)) x ∧ PutAt m m' (off l) n x) ∧
      (∀ l, let stays := ¬InI s t g l ∨ (InE s t g h l ∧ (regUni d = true ∨ size < off l + n))
        (stays → (s₁.grp t g).pcv.get l = gr.pcv.get l) ∧ (¬stays → (s₁.grp t g).pcv.get l = successor s t g i.size)) ∧
      ∃ ls : Lanes, (∀ l < 32, ls.getLsbD l = true ↔ InE s t g h l ∧ (regUni d = true ∨ size < off l + n)) ∧
        Traps s₁ s' t g (s.grp t g).issueSet { code := 0x07, pc := gr.issuePc, lanes := ls, i0 := BitVec.ofNat 32 (max (off best) size) }

open Sys2Proof Sys2Proof.Machine Sys2Proof.Claims in
/-- R183, R174: failing lanes of global accesses, and of scratchpad accesses, whose TRAP_INFO0 is log 40's. -/
def Obligations.FailingLanesTrap : Prop :=
  Sys2Proof.Claims.FailingGlobalLanes ∧ Sys2Proof.Claims.FailingScratchLanes

open Sys2Proof Sys2Proof.Machine Sys2Proof.Claims in
/-- R174 to R176, R204: LDS and STS on the three windows: the bytes of the scratchpad, the words of an accumulator tile that
the group holds, the header words M and S and the labels of a selection row; nothing else of the windows changes. (What a store to a header
reports is log 40's, the order of an X128 element's words log 43's.) -/
def Obligations.WindowResults : Prop :=
  ∀ (s : State) (t g : Nat) (h : Hdr) (ty : Ty) (d : Reg) (ad : Addr) (k : BitVec 3),
    let gr := s.grp t g
    let tm := s.team t
    let off (l : Nat) : Nat := offsetOf gr ad l
    let n := tyBytes ty
    let val (l : Nat) : Nat := regGet gr d l (tyRegs ty)
    let act (l : Nat) : Prop := Acting s t g h d l
    let frame (i : Instr) (ws : List (Reg × Nat)) (fl : Bool) (s' : State) : Prop :=
      exec i s = .next s' ∧ OnlyWindows s s' t g ∧ GroupFrame ⟨h, [], ws, [], fl, false, false⟩ s s' t g i.size
    let fits : Prop := s.ecc = [] ∧ s.buffer = [] ∧ ∀ l, act l → off l + n ≤ (s.launchOf t).scratchBytes
    (Instr.WellFormed (.lds h ty .scratch d ad) → ReadyFor (.lds h ty .scratch d ad) s t g → fits →
      ∃ s', frame (.lds h ty .scratch d ad) [(d, tyRegs ty)] false s' ∧ s'.team t = { tm with groups := (s'.team t).groups } ∧
        ∀ l, InE s t g h l → LoadIs ty (bytesAt tm.scratch (off (laneOf d (eligible s t g h) l)) n) (regGet (s'.grp t g) d l (tyRegs ty))) ∧
    (Instr.WellFormed (.sts h ty .scratch ad d) → ReadyFor (.sts h ty .scratch ad d) s t g → fits →
      ∃ s', frame (.sts h ty .scratch ad d) [] true s' ∧ (s'.team t).tiles = tm.tiles ∧ (s'.team t).rows = tm.rows ∧
        LaneByLane act tm.scratch (s'.team t).scratch fun l m m' => ∃ x, StoreIs ty (val l) x ∧ PutAt m m' (off l) n x) ∧
    -- an FP32 tile
    (∀ x : Tile, tm.tiles[k.toNat]? = some x → (tm.tiles.getD (k.toNat / 4 * 4) {}).x128 = false → x.x128 = false →
      x.state = .group g → ty = .f32 ∨ ty = .b32 → s.ecc = [] → s.buffer = [] →
      (∀ l, act l → off l % 4 = 0 ∧ off l + 4 ≤ 65536) →
      (Instr.WellFormed (.lds h ty (.acc k) d ad) → ReadyFor (.lds h ty (.acc k) d ad) s t g →
        ∃ s', frame (.lds h ty (.acc k) d ad) [(d, 1)] false s' ∧ s'.team t = { tm with groups := (s'.team t).groups } ∧
          ∀ l, InE s t g h l → regGet (s'.grp t g) d l 1 = (x.data.get (off (laneOf d (eligible s t g h) l) / 4)).toNat) ∧
      (Instr.WellFormed (.sts h ty (.acc k) ad d) → ReadyFor (.sts h ty (.acc k) ad d) s t g →
        ∃ s', frame (.sts h ty (.acc k) ad d) [] true s' ∧ (s'.team t).scratch = tm.scratch ∧ (s'.team t).rows = tm.rows ∧
          (∀ j, j ≠ k.toNat → (s'.team t).tiles[j]? = tm.tiles[j]?) ∧ ∃ y : Tile, (s'.team t).tiles[k.toNat]? = some y ∧
            y = { x with data := y.data } ∧
            LaneByLane act x.data y.data fun l m m' =>
              ∀ a, m'.get a = if a = off l / 4 then BitVec.ofNat 32 (val l) else m.get a)) ∧
    -- an X128 tile: four words an element
    (∀ x : Tile, tm.tiles[k.toNat]? = some x → k.toNat % 4 = 0 → x.x128 = true → x.state = .group g → ty = .x128 →
      s.ecc = [] → s.buffer = [] → (∀ l, act l → off l % 16 = 0 ∧ off l + 16 ≤ 262144) →
      (Instr.WellFormed (.lds h ty (.acc k) d ad) → ReadyFor (.lds h ty (.acc k) d ad) s t g →
        ∃ s', frame (.lds h ty (.acc k) d ad) [(d, 4)] false s' ∧ s'.team t = { tm with groups := (s'.team t).groups } ∧
          ∀ l, InE s t g h l → ∀ j < 4, regGet (s'.grp t g) d l 4 / 2 ^ (32 * j) % 2 ^ 32 =
            (x.data.get (off (laneOf d (eligible s t g h) l) / 4 + j)).toNat) ∧
      (Instr.WellFormed (.sts h ty (.acc k) ad d) → ReadyFor (.sts h ty (.acc k) ad d) s t g →
        ∃ s', frame (.sts h ty (.acc k) ad d) [] true s' ∧
          (∀ j, j ≠ k.toNat → (s'.team t).tiles[j]? = tm.tiles[j]?) ∧ ∃ y : Tile, (s'.team t).tiles[k.toNat]? = some y ∧
            y = { x with data := y.data } ∧
            LaneByLane act x.data y.data fun l m m' => ∀ a, m'.get a =
              if off l / 4 ≤ a ∧ a < off l / 4 + 4 then BitVec.ofNat 32 (val l / 2 ^ (32 * (a - off l / 4))) else m.get a)) ∧
    -- the selection window: a row's M and S, its labels; a store to a header traps PERM with the offset
    (selBusy tm = false → s.ecc = [] → s.buffer = [] → ty = .b32 →
      (Instr.WellFormed (.lds h ty .sel d ad) → ReadyFor (.lds h ty .sel d ad) s t g →
        ∀ row j : Nat → Nat, (∀ l, act l → row l < tm.rows.length ∧ row l < 128 ∧ j l < 4) →
          ∀ lab : Bool, (∀ l, act l → off l = if lab then 38912 + 16 * row l + 4 * j l else 48 * row l + 4 * (j l % 2)) →
          ∃ s', frame (.lds h ty .sel d ad) [(d, 1)] false s' ∧ s'.team t = { tm with groups := (s'.team t).groups } ∧
            ∀ l, InE s t g h l → let m := laneOf d (eligible s t g h) l
              let r := tm.rows.getD (row m) {}
              regGet (s'.grp t g) d l 1 = if lab then (r.lid.getD (j m) 0).toNat else if j m % 2 = 0 then r.m.toNat else r.s.toNat) ∧
      (Instr.WellFormed (.sts h ty .sel ad d) → ReadyFor (.sts h ty .sel ad d) s t g →
        ∀ l row j : Nat, act l → (∀ l', act l' → l' = l) → row < tm.rows.length → row < 128 → j < 4 →
          (off l = 38912 + 16 * row + 4 * j → (tm.rows.getD row {}).lid.length = 4 →
            ∃ s', frame (.sts h ty .sel ad d) [] true s' ∧ (∀ k, k ≠ row → (s'.team t).rows[k]? = tm.rows[k]?) ∧
              (s'.team t).rows[row]? = (tm.rows[row]?).map fun r => { r with lid := r.lid.set j (BitVec.ofNat 32 (val l)) }) ∧
          (off l = 48 * row + 4 * j → HasPart s t →
            ∃ s₁ s', exec (.sts h ty .sel ad d) s = .next s' ∧
              Placed s s₁ t g ((s.grp t g).issueSet &&& ~~~(eligible s t g h)) (successor s t g (Instr.size (.sts h ty .sel ad d))) ∧
              Traps s₁ s' t g (s.grp t g).issueSet { code := 0x07, pc := gr.issuePc, lanes := eligible s t g h, i0 := BitVec.ofNat 32 (off l) })))

open Sys2Proof Sys2Proof.Machine Sys2Proof.Claims in
/-- R187, R205: ATOMS in the scratchpad, lane after lane, at offsets that are multiples of the type's size; another offset
traps ALIGN (here the first acting lane's). -/
def Obligations.ScratchAtomicResults : Prop :=
  ∀ (s : State) (t g : Nat) (h : Hdr) (op : AtomOp) (ty : Ty) (d : Reg) (ad : Addr) (b : Reg),
    let i := atomsForms h ty d ad b op
    let gr := s.grp t g
    let off (l : Nat) : Nat := offsetOf gr ad l
    let n := tyBytes ty
    i.WellFormed → ReadyFor i s t g → s.ecc = [] → s.buffer = [] →
    ((∀ l, Acting s t g h d l → off l % n = 0 ∧ off l + n ≤ (s.launchOf t).scratchBytes) →
      ∃ s', exec i s = .next s' ∧ OnlyWindows s s' t g ∧ (s'.team t).tiles = (s.team t).tiles ∧
        (s'.team t).rows = (s.team t).rows ∧ GroupFrame ⟨h, [], [(d, tyRegs ty)], [], true, false, false⟩ s s' t g i.size ∧
        LaneByLane (Acting s t g h d) (s.team t).scratch (s'.team t).scratch fun l m m' =>
          regGet (s'.grp t g) d l (tyRegs ty) = bytesAt m (off l) n ∧
          ∃ x, AtomicIs op ty (bytesAt m (off l) n) (regGet gr b l (atomRegs op ty)) x ∧ PutAt m m' (off l) n x) ∧
    (∀ l, Acting s t g h d l → off l % n ≠ 0 → (∀ l', Acting s t g h d l' → l' = l) → HasPart s t →
      ∃ s₁ s', exec i s = .next s' ∧ Placed s s₁ t g ((s.grp t g).issueSet &&& ~~~(eligible s t g h)) (successor s t g i.size) ∧
        Traps s₁ s' t g (s.grp t g).issueSet
          { code := 0x04, pc := gr.issuePc, lanes := eligible s t g h, i0 := BitVec.ofNat 32 (off l), i1 := 0,
            i2 := 2 })

namespace Sys2Proof.Claims

open Sys2Proof.Machine

/-- A waiting store apart from who can tell that it is performed, and from the fences that follow it. -/
def undue (q : Pending) : Pending := { q with due := none, fenced := none }

/-- The stores of some lanes of a group that still wait after a release at a scope are performed for its threads: none of
those threads finds one waiting when it meets its bytes (08 R190, R206). -/
def Released (t g : Nat) (ls : Lanes) (sc : Scope) (s s' : State) : Prop :=
  (s'.buffer.map undue).Perm (s.buffer.map undue) ∧
  (∀ r ∈ s'.buffer, r.ofLanes t g ls = true → ∃ c, r.due = some c ∧ scopeRank sc ≤ scopeRank c) ∧
  (∀ (o : Observer) (rs : List Span), ∀ r ∈ (observe o rs s').buffer, r.ofLanes t g ls = true → r.meets rs = true →
    r.reaches sc o = false) ∧
  ∀ (o : Observer) (rs : List Span) (q : Pending), s.buffer = [q] → q.ofLanes t g ls = true → q.meets rs = true →
    q.reaches sc o = true → ∀ a, (observe o rs s').mem.get a =
      if q.addr ≤ a ∧ a < q.addr + q.bytes.length then q.bytes.getD (a - q.addr) 0 else s.mem.get a

/-- The waiting stores of some lanes stand before a fence: once a later store of one of those lanes is performed, each of
them that such a lane made is performed for the threads of the scope (10 Table 10.1, row 6). -/
def Fenced (t g : Nat) (ls : Lanes) (sc : Scope) (s s' : State) : Prop :=
  s'.buffer.map undue = s.buffer.map undue ∧ (s'.buffer.map fun q => q.due) = (s.buffer.map fun q => q.due) ∧
  (∀ (k : Nat) (q r : Pending), s.buffer[k]? = some q → s'.buffer[k]? = some r →
    if q.ofLanes t g ls = true then ∃ c, r.fenced = some c ∧ scopeRank sc ≤ scopeRank c else r = q) ∧
  ∀ (p : Pending) (before : Option Scope), p.eng = none → p.team = t → p.group = g →
    (∀ r ∈ s.buffer, r.id < s.nextStore) →
    let later := pendStore p before s'
    let after := performStores (fun r => r.id == s.nextStore) later
    ∀ r ∈ s.buffer, r.ofLanes t g ls = true → r.ofLanes t g p.lanes = true →
      ∀ r' ∈ after.buffer, r'.id = r.id → ∃ c, r'.due = some c ∧ scopeRank sc ≤ scopeRank c

/-- The commands that a DRAIN in team t waits for: issued from its core, writing into a memory, not completed (08 R208). -/
def Outstanding (s : State) (t : Nat) (d : Dest) (k : Nat) : Prop :=
  ∃ c, s.cmds[k]? = some c ∧ c.status = none ∧ writesTo c.kind d = true ∧ c.core = some ((s.team t).die, (s.team t).core)

end Sys2Proof.Claims

open Sys2Proof Sys2Proof.Machine Sys2Proof.Claims in
/-- R206, R208, R209: a fence, a cache operation and a DRAIN send the lanes on and change no register and no byte. A fence
.sc, whatever stores wait, has those of its lanes performed for the threads of its scope; .rel and .ar put them before every
later store of the lanes, and before no load (10 Table 10.1; log 111); .acq changes none. A DRAIN holds its group while commands of its core that write the named memory are outstanding, until DRAIN_COMPLETE. -/
def Obligations.FenceDrainCacheComplete : Prop :=
  (∀ (s : State) (t g : Nat) (h : Hdr) (o : Order) (sc : Scope), Instr.WellFormed (.fence h o sc) →
    ReadyFor (.fence h o sc) s t g → eligible s t g h ≠ 0 →
    ∃ s', exec (.fence h o sc) s = .next s' ∧ OnlyGroup { s with buffer := s'.buffer } s' t g ∧
      KeepsGroup s s' t g (Instr.size (.fence h o sc)) ∧
      (o = .acq → s'.buffer = s.buffer) ∧
      (o = .sc → Released t g (eligible s t g h) sc s s') ∧
      (o = .rel ∨ o = .ar → Fenced t g (eligible s t g h) sc s s')) ∧
  (∀ (s : State) (t g : Nat) (i : Instr) (n : Names), namesOf i = some n → ReadyFor i s t g → eligible s t g n.hdr ≠ 0 →
    ((∃ h ad, i = .cctlInv h ad ∨ i = .cctlPfl1 h ad ∨ i = .cctlPfl2 h ad) →
      ∃ s', exec i s = .next s' ∧ OnlyGroup s s' t g ∧ KeepsGroup s s' t g i.size) ∧
    (∀ (h : Hdr) (d : Dest), (i = .drainSp h ∧ d = .sp) ∨ (i = .drainFifo h ∧ d = .fifo) ∨ (i = .drainGlb h ∧ d = .glb) →
      ∃ s', exec i s = .next s' ∧ OnlyGroup s s' t g ∧ KeepsGroup s s' t g i.size ∧
        ((∀ k, ¬Outstanding s t d k) → (s'.grp t g).drain = none) ∧
        ∀ k, Outstanding s t d k → canIssue s' t g = false ∧
          ∃ ls, (s'.grp t g).drain = some ls ∧ ∀ j, j ∈ ls ↔ Outstanding s t d j)) ∧
  (∀ (s : State) (t g : Nat) (ls : List Nat), (s.grp t g).drain = some ls →
    ((∀ k ∈ ls, ∀ c, s.cmds[k]? = some c → c.status.isSome = true) →
      ∃ s', exec (.drainComplete t g) s = .next s' ∧ OnlyGroup s s' t g ∧ s'.grp t g = { s.grp t g with drain := none, ctr := (s'.grp t g).ctr }) ∧
    (∀ k ∈ ls, ∀ c, s.cmds[k]? = some c → c.status = none → exec (.drainComplete t g) s = .next s))

open Sys2Proof Sys2Proof.Machine Sys2Proof.Claims in
/-- R207, R196: PUBLISH (which brings the group's view of CTR_BASE to its team: log 117) replaces word 0 of a shadow descriptor as one 64-bit atomic: LIVE the other copy, GEN one more, the
new word in d; commands in flight keep the LIVE that stood at their issue. A descriptor that is not 64-byte aligned traps
ALIGN. -/
def Sys2Proof.Claims.PublishResults : Prop :=
  ∀ (s : State) (t g : Nat) (h : Hdr) (sc : Scope) (d a : BitVec 6) (disp : Option Word) (ps : Nat → List Piece),
    let i : Instr := .publish h sc d a disp
    let gr := s.grp t g
    let va := (regGet gr (.s a) 0 2 + (match disp with
      | some w => (w.signExtend 64).toNat
      | none => 0)) % 2 ^ 64
    i.WellFormed → ReadyFor i s t g → eligible s t g h ≠ 0 →
    (va % 64 = 0 → Passes s t g h (.s d) .atom true 8 (fun _ => va) ps →
      let q := ps (lowest (eligible s t g h))
      let old := valueIn s.mem q
      ∃ s', exec i s = .next s' ∧ (∀ u, u ≠ t → s'.team u = s.team u) ∧
        (∀ k, k ≠ g → k < (s.team t).groups.length →
          s'.grp t k = { s.grp t k with ctr := laterCtr (s.grp t k).ctr gr.ctr }) ∧
        GroupFrame ⟨h, [], [(.s d, 2)], [], false, false, false⟩ s s' t g i.size ∧
        let new := regGet (s'.grp t g) (.s d) 0 2
        StoredIn q new s.mem s'.mem ∧ new % 2 ≠ old % 2 ∧ new / 2 = (old / 2 + 1) % 2 ^ 63 ∧
          (s'.cmds.map fun c => { c with lives := [] }) = (s.cmds.map fun c => { c with lives := [] }) ∧
          ∀ (j : Nat) (c c' : Cmd) (e : Piece), s.cmds[j]? = some c → s'.cmds[j]? = some c' → q.head? = some e →
            (c.status ≠ none → c' = c) ∧
            (c.status = none → kGet c'.lives e.1.pa = some ((kGet c.lives e.1.pa).getD (decide (old % 2 = 1))))) ∧
    (va % 64 ≠ 0 → HasPart s t →
      ∃ s₁ s', exec i s = .next s' ∧ Placed s s₁ t g ((s.grp t g).issueSet &&& ~~~(eligible s t g h)) (successor s t g i.size) ∧
        Traps s₁ s' t g (s.grp t g).issueSet
          { code := 0x04, pc := gr.issuePc, lanes := eligible s t g h, i0 := BitVec.ofNat 32 va,
            i1 := BitVec.ofNat 32 (va / 2 ^ 32), i2 := 2 })

open Sys2Proof Sys2Proof.Machine Sys2Proof.Claims in
/-- R211: LDC reads 4 or 8 bytes of the launch's parameter bank at the offset; an offset that is no multiple of the size
traps ALIGN, one beyond the bank's bytes PERM (here where one lane acts; the addresses these report are log 96's, the lane
of a uniform read log 109's). -/
def Sys2Proof.Claims.ParameterBankResults : Prop :=
  ∀ (s : State) (t g : Nat) (h : Hdr) (d : Reg) (off : Opd) (k : Nat) (i : Instr) (ps : Nat → List Piece),
    ((i = .ldcB32 h d off ∧ k = 1) ∨ (i = .ldcB64 h d off ∧ k = 2)) → i.WellFormed → ReadyFor i s t g →
    let gr := s.grp t g
    let la := s.launchOf t
    let o (l : Nat) : Nat := amount gr off l
    let base := la.f 384 64
    let size := la.f 352 32
    let trap (code : Byte) (a : Nat) : Prop :=
      ∃ s₁ s', exec i s = .next s' ∧ Placed s s₁ t g ((s.grp t g).issueSet &&& ~~~(eligible s t g h)) (successor s t g i.size) ∧
        Traps s₁ s' t g (s.grp t g).issueSet
          { code := code, pc := gr.issuePc, lanes := eligible s t g h, i0 := BitVec.ofNat 32 a,
            i1 := BitVec.ofNat 32 (a / 2 ^ 32), i2 := 0 }
    ((∀ l, Acting s t g h d l → o l % (4 * k) = 0 ∧ o l + 4 * k ≤ size) →
      Passes s t g h d .read true (4 * k) (fun l => (base + o l) % 2 ^ 64) ps →
      ∃ s', exec i s = .next s' ∧ OnlyGlobal s s' t g ∧ s'.mem = s.mem ∧
        GroupFrame ⟨h, [], [(d, k)], [], false, false, false⟩ s s' t g i.size ∧
        ∀ l, InE s t g h l → regGet (s'.grp t g) d l k = valueIn s.mem (ps (laneOf d (eligible s t g h) l))) ∧
    (∀ l, Acting s t g h d l → (∀ l', Acting s t g h d l' → l' = l) → HasPart s t →
      (o l % (4 * k) ≠ 0 → trap 0x04 ((base + o l) % 2 ^ 64)) ∧
      (o l % (4 * k) = 0 → size < o l + 4 * k → trap 0x07 ((base + max (o l) size) % 2 ^ 64)))

open Sys2Proof Sys2Proof.Machine Sys2Proof.Claims in
/-- R196, R195: PUBLISH, and reads of the parameter bank. -/
def Obligations.PublishAndParameters : Prop := Sys2Proof.Claims.PublishResults ∧ Sys2Proof.Claims.ParameterBankResults

namespace Sys2Proof.Claims

open Sys2Proof.Machine

/-! Barriers, tokens, tiles, slots (11). -/

/-- The same stores wait as before; for whom they are performed may have changed. -/
def BufferKept (s s' : State) : Prop := (s'.buffer.map undue).Perm (s.buffer.map undue)

/-- Nothing outside team t has changed, but for whom the waiting stores are performed. -/
def OnlyTeam (s s' : State) (t : Nat) : Prop :=
  s' = { s.modTeam t (fun _ => s'.team t) with buffer := s'.buffer } ∧ BufferKept s s'

/-- The entries of other cores in a list of gated or waiting cores: an arrival ends the gating of its core and has its wait
measured anew (11 R247). -/
def ArrivedAt (s : State) (t : Nat) (xs ys : List (Nat × Nat × Nat)) : Prop :=
  ys = xs.filter fun e => !(e.1 == (s.team t).die && e.2.1 == (s.team t).core)
/-- The same where entries or bytes have arrived at the team's core. -/
def OnlyTeamArrived (s s' : State) (t : Nat) : Prop :=
  OnlyTeam { s with gates := s'.gates, coreIdle := s'.coreIdle } s' t ∧ ArrivedAt s t s.gates s'.gates ∧
    ArrivedAt s t s.coreIdle s'.coreIdle

/-- The other groups of team t are as they were. -/
def OtherGroupsKept (s s' : State) (t g : Nat) : Prop := ∀ k, k ≠ g → s'.grp t k = s.grp t k

/-- An instruction's own trap: lanes of E listed, the rest of I at the successor. -/
def EffectTrap (i : Instr) (s : State) (t g : Nat) (h : Hdr) (code : Byte) (i0 i1 i2 i3 : Word) : Prop :=
  ∃ s₁ s', exec i s = .next s' ∧ BufferKept s s₁ ∧
    Placed { s with buffer := s₁.buffer } s₁ t g ((s.grp t g).issueSet &&& ~~~(eligible s t g h)) (successor s t g i.size) ∧
    Traps s₁ s' t g (s.grp t g).issueSet { code := code, pc := (s.grp t g).issuePc, lanes := eligible s t g h, i0 := i0, i1 := i1, i2 := i2, i3 := i3 }

/-- Registers of a group but its tokens. -/
def RegistersKept (x y : Group) : Prop := y.v = x.v ∧ y.s = x.s ∧ y.p = x.p ∧ y.draw = x.draw ∧ y.rng = x.rng ∧ FlagsKept x y

/-- Lanes of E park at the instruction, for what `kind` says; the rest of I takes the successor (04 R91, R95). -/
def Parks (s s' : State) (t g : Nat) (size : Nat) (ls : Lanes) (kind : WaitKind) : Prop :=
  (∃ x, (s'.grp t g).waits.getLast? = some x ∧ (s'.grp t g).waits.length = (s.grp t g).waits.length + 1 ∧ x.lanes = ls ∧
    x.pc = (s.grp t g).issuePc ∧ x.next = successor s t g size ∧ x.kind = kind ∧ x.done = none ∧ x.held = false ∧
    x.running = false) ∧
  ∀ l, (InI s t g l → ls.getLsbD l = false → (s'.grp t g).pcv.get l = successor s t g size) ∧
    (¬(InI s t g l ∧ ls.getLsbD l = false) → (s'.grp t g).pcv.get l = (s.grp t g).pcv.get l)

/-- The word that an ImmU operand gives. -/
def wordOf (gr : Group) (v : ImmU) : Word :=
  match v with
  | .imm w => w
  | .uni n => gr.s.get n.toNat

/-- A barrier is complete (11 R238). -/
def IsComplete (r : Barrier) : Prop :=
  r.expset = true ∧ r.arrived = r.expected ∧ (r.armed = true ∨ r.touched = false) ∧
    (r.pending = 0 ∨ (r.armed = true ∧ r.pending.toInt < 0))
/-- What an update leaves of a barrier: completion flips the phase and clears the record (11 R238); the view of CTR_BASE that
its arrivals had stays for those that leave it (16 R334; log 117). -/
def Settles (r r' : Barrier) : Prop :=
  (¬IsComplete r → r' = r) ∧
  (IsComplete r → r'.pending = 0 ∧ r'.phase = !r.phase ∧ r'.armed = false ∧ r'.touched = false ∧ r'.expset = false ∧
    r'.arrived = 0 ∧ r'.faulted = decide (r.pending ≠ 0) ∧ r'.ctr = {} ∧ r'.lastCtr = r.ctr)
/-- The record after one arrival with a count (11 R236). -/
def withArrival (r : Barrier) (n : Nat) : Barrier :=
  { r with expected := if r.expset then r.expected else BitVec.ofNat 6 n, expset := true, arrived := r.arrived + 1 }
/-- The same of a group, whose view of CTR_BASE the barrier keeps for those that leave it (16 R334). -/
def withGroup (r : Barrier) (n : Nat) (gr : Group) : Barrier := { withArrival r n with ctr := laterCtr r.ctr gr.ctr }
/-- The arrival breaks R236. -/
def Mismatch (groups : Nat) (r : Barrier) (n : Nat) : Prop :=
  groups + 1 < n ∨ (r.expset = true ∧ (n ≠ r.expected.toNat ∨ r.arrived = r.expected))

/-- Lanes of a group wait on barrier b. -/
def waitsOn (gr : Group) (b : Nat) : Prop := ∃ w ∈ gr.waits, ∃ ph, w.kind = .barrier b ph
/-- No party of the team waits on barrier b. -/
def NoneWaits (s : State) (t b : Nat) : Prop :=
  (∀ k, ¬waitsOn (s.grp t k) b) ∧ ∀ x, (s.team t).seq.wait = some x → x.1 ≠ b

/-- Barrier b of a team is changed so, no other. -/
def BarrierIs (s s' : State) (t b : Nat) (p : Barrier → Prop) : Prop :=
  (∃ r, (s'.team t).bars[b]? = some r ∧ p r) ∧ ∀ j, j ≠ b → (s'.team t).bars[j]? = (s.team t).bars[j]?

/-- A SIMT form whose group issues it with a lane in E. -/
def Acts (i : Instr) (s : State) (t g : Nat) (h : Hdr) : Prop :=
  i.WellFormed ∧ ReadyFor i s t g ∧ eligible s t g h ≠ 0

end Sys2Proof.Claims

open Sys2Proof Sys2Proof.Machine Sys2Proof.Claims in
/-- R236 to R239, R249: an arrival sets the count, adds one to ARRIVED and records the phase; the barrier completes when all
have arrived and its bytes are in, and flips its phase; a wait ends when the phase is not the recorded one, and traps
BAROVER at its successor after a faulted completion; otherwise the lanes park. A wrong count traps BARMIS, an index beyond
the launch's barriers ILL. The sequencer's forms do the same to the barrier. An arrival has every waiting store of every
lane of its group performed for the team (10 R217). -/
def Sys2Proof.Claims.BarrierResults : Prop :=
  (∀ (s : State) (t g : Nat) (h : Hdr) (v : ImmU) (r : Barrier),
    let gr := s.grp t g
    let b := (wordOf gr v).toNat % 256
    let c := (wordOf gr v).toNat / 256 % 64
    let n := if c = 0 then (s.launchOf t).groups else c
    let r₁ := withGroup r n gr
    let released (s' : State) : Prop := Released t g (-1) .team s s'
    b < (s.launchOf t).bars → (s.team t).bars[b]? = some r →
    -- the arrival
    (Acts (.barArrive h v) s t g h → ¬Mismatch (s.launchOf t).groups r n → NoneWaits s t b →
      ∃ s', exec (.barArrive h v) s = .next s' ∧ OnlyTeam s s' t ∧ OtherGroupsKept s s' t g ∧
        KeepsGroup s s' t g (Instr.size (.barArrive h v)) ∧ BarrierIs s s' t b (Settles r₁) ∧ released s' ∧
        kGet (s'.grp t g).bphase b = some r.phase) ∧
    -- the arrival and the wait
    (Acts (.barSync h v) s t g h → ¬Mismatch (s.launchOf t).groups r n → NoneWaits s t b →
      (¬IsComplete r₁ → ∃ s', exec (.barSync h v) s = .next s' ∧ OnlyTeam s s' t ∧ OtherGroupsKept s s' t g ∧
        SameRegisters gr (s'.grp t g) ∧ BarrierIs s s' t b (fun x => x = r₁) ∧ released s' ∧ kGet (s'.grp t g).bphase b = some r.phase ∧
        Parks s s' t g (Instr.size (.barSync h v)) (eligible s t g h) (.barrier b r.phase)) ∧
      (IsComplete r₁ → r₁.pending = 0 → ∃ s', exec (.barSync h v) s = .next s' ∧ OnlyTeam s s' t ∧ OtherGroupsKept s s' t g ∧
        KeepsGroup s s' t g (Instr.size (.barSync h v)) ∧ BarrierIs s s' t b (Settles r₁) ∧ released s' ∧
        kGet (s'.grp t g).bphase b = none ∧ (s'.grp t g).ctr = laterCtr gr.ctr r₁.ctr)) ∧
    -- the wait
    (Acts (.barWait h v) s t g h →
      (kGet gr.bphase b ≠ some (!r.phase) → ∃ s', exec (.barWait h v) s = .next s' ∧ OnlyGroup s s' t g ∧
        SameRegisters gr (s'.grp t g) ∧ kGet (s'.grp t g).bphase b = some r.phase ∧
        Parks s s' t g (Instr.size (.barWait h v)) (eligible s t g h) (.barrier b r.phase)) ∧
      (kGet gr.bphase b = some (!r.phase) → r.faulted = false → ∃ s', exec (.barWait h v) s = .next s' ∧ OnlyGroup s s' t g ∧
        KeepsGroup s s' t g (Instr.size (.barWait h v)) ∧ kGet (s'.grp t g).bphase b = none ∧
        (s'.grp t g).ctr = laterCtr gr.ctr r.lastCtr) ∧
      (kGet gr.bphase b = some (!r.phase) → r.faulted = true → HasPart s t → ∃ s₁ s', exec (.barWait h v) s = .next s' ∧
        OnlyGroup s s₁ t g ∧ kGet (s₁.grp t g).bphase b = none ∧
        Traps s₁ s' t g (s.grp t g).issueSet
          { code := 0x0B, pc := successor s t g (Instr.size (.barWait h v)), lanes := eligible s t g h,
            i0 := BitVec.ofNat 32 b, i1 := r.overrun.setWidth 32, i2 := (r.overrun.extractLsb' 32 24).signExtend 32 })) ∧
    -- BARMIS
    (∀ i, i = .barArrive h v ∨ i = .barSync h v → Acts i s t g h → Mismatch (s.launchOf t).groups r n → HasPart s t →
      EffectTrap i s t g h 0x0A (BitVec.ofNat 32 b) (BitVec.ofNat 32 n) (if r.expset then r.expected.setWidth 32 else 0) 0) ∧
    -- lanes of another group that wait are released
    (∀ (k : Nat) (w : Wait), Acts (.barArrive h v) s t g h → ¬Mismatch (s.launchOf t).groups r n → IsComplete r₁ →
      r₁.pending = 0 → k ≠ g → k < (s.team t).groups.length → (s.grp t k).waits = [w] → w.kind = .barrier b r.phase →
      w.done = none → w.held = false → (s.grp t k).stopped = none → (s.grp t k).taken = none →
      (∀ j, j ≠ k → ¬waitsOn (s.grp t j) b) → (s.team t).seq.wait = none →
      ∃ s', exec (.barArrive h v) s = .next s' ∧ OnlyTeam s s' t ∧ (s'.grp t k).waits = [] ∧
        kGet (s'.grp t k).bphase b = none ∧ (s'.grp t k).ctr = laterCtr (s.grp t k).ctr r₁.ctr ∧ (∀ j, j ≠ g → j ≠ k → s'.grp t j = s.grp t j) ∧
        ∀ l < 32, (s.grp t k).exited.getLsbD l = false → (s'.grp t k).pcv.get l =
          if w.lanes.getLsbD l then w.next else (s.grp t k).pcv.get l)) ∧
  -- an index beyond the launch's barriers
  (∀ (s : State) (t g : Nat) (h : Hdr) (v : ImmU) (i : Instr), i = .barArrive h v ∨ i = .barSync h v ∨ i = .barWait h v →
    Acts i s t g h → HasPart s t → (s.launchOf t).bars ≤ (wordOf (s.grp t g) v).toNat % 256 →
    EffectTrap i s t g h 0x01 (BitVec.ofNat 32 ((wordOf (s.grp t g) v).toNat % 256)) 0 0 1) ∧
  -- the sequencer's arrival and wait
  (∀ (s : State) (t : Nat) (h : Hdr) (w : Word) (r : Barrier), s.cur = .seq t → canSeq s t = true → h = ⟨0, false, none⟩ →
    (s.team t).seq.wait = none → (s.team t).seq.running = [] → (s.team t).seq.stage = none →
    let b := w.toNat % 256
    let c := w.toNat / 256 % 64
    let n := if c = 0 then (s.launchOf t).groups else c
    let q := (s.team t).seq
    b < (s.launchOf t).bars → (s.team t).bars[b]? = some r → NoneWaits s t b →
    (¬Mismatch (s.launchOf t).groups r n → ∃ s', exec (.barArrive h (.imm w)) s = .next s' ∧ OnlyTeam s s' t ∧
      (s'.team t).groups = (s.team t).groups ∧ BarrierIs s s' t b (Settles { withArrival r n with ctr := laterCtr r.ctr q.ctr }) ∧
      (s'.team t).seq.pc = nextAddr q.pc (Instr.size (.barArrive h (.imm w))) ∧
      kGet (s'.team t).seq.bphase b = some r.phase) ∧
    (kGet q.bphase b ≠ some (!r.phase) → ∃ s', exec (.barWait h (.imm w)) s = .next s' ∧ OnlyTeam s s' t ∧
      (s'.team t).seq.pc = q.pc ∧ (s'.team t).seq.wait = some (b, r.phase, nextAddr q.pc (Instr.size (.barWait h (.imm w)))) ∧
      (s'.team t).seq.stat.toNat / 8 % 16 = 1))

open Sys2Proof Sys2Proof.Machine Sys2Proof.Claims in
/-- R237, R250: BEXP adds its bytes to PENDING, saturating at 2^55 − 1, arms the barrier, and completion is evaluated. An
index beyond the launch's barriers traps ILL. -/
def Sys2Proof.Claims.ExpectedBytes : Prop :=
  ∀ (s : State) (t g : Nat) (h : Hdr) (o : BexpOpd),
    let gr := s.grp t g
    let b := match o with
      | .regs x _ => (gr.s.get x.toNat).toNat % 256
      | .immReg x _ => x.toNat
      | .imms x _ => x.toNat
    let n := match o with
      | .regs _ x => (gr.s.get x.toNat).toNat
      | .immReg _ x => (gr.s.get x.toNat).toNat
      | .imms _ x => x.toNat
    Acts (.bexp h o) s t g h →
    (∀ r, b < (s.launchOf t).bars → (s.team t).bars[b]? = some r → NoneWaits s t b →
      ∃ s', exec (.bexp h o) s = .next s' ∧ OnlyTeam s s' t ∧ OtherGroupsKept s s' t g ∧
        KeepsGroup s s' t g (Instr.size (.bexp h o)) ∧
        ∃ x : BitVec 56, x.toInt = min (2 ^ 55 - 1) (r.pending.toInt + n) ∧
          BarrierIs s s' t b (Settles { r with pending := x, armed := true, touched := true })) ∧
    ((s.launchOf t).bars ≤ b → HasPart s t → EffectTrap (.bexp h o) s t g h 0x01 (BitVec.ofNat 32 b) 0 0 1)

open Sys2Proof Sys2Proof.Machine Sys2Proof.Claims in
/-- R236 to R239, R249, R237, R250: arrivals, waits and expected bytes. What TRAP_INFO0 holds where an index is out of range
is log 95's for one from a register, log 125's for an immediate. -/
def Obligations.BarriersAndBytes : Prop := Sys2Proof.Claims.BarrierResults ∧ Sys2Proof.Claims.ExpectedBytes

open Sys2Proof Sys2Proof.Machine Sys2Proof.Claims in
/-- R251: CBAR parks its lanes in the named collective barrier and has every waiting store of its team performed for the
scope (10 R217); a member arrives when every group of its team that has not
ended is there; the groups leave when no member of the part is missing. An id that names no group of this scope with the
launch as a member traps ILL; DEADLINE microseconds after the first arrival the groups trap, naming the lowest rank missing. -/
def Obligations.CollectiveBarrier : Prop :=
  (∀ (s : State) (t g : Nat) (h : Hdr) (sc : Scope) (v : ImmU),
    let p := (s.launchOf t).part
    let id : BitVec 16 := BitVec.ofNat 16 (wordOf (s.grp t g) v).toNat
    Acts (.cbar h sc v) s t g h → HasPart s t →
    (∀ c, collOf s p id = some c → c.scope = sc → ∀ r, rankOf c (s.launchOf t).lid = some r → (∀ x ∈ c.here, x.1 = t) →
      ∃ s', exec (.cbar h sc v) s = .next s' ∧ s'.mem = s.mem ∧ (∀ k, Released t k (-1) sc s s') ∧ s'.teams = (s.modGrp t g fun _ => s'.grp t g).teams ∧
        SameRegisters (s.grp t g) (s'.grp t g) ∧
        Parks s s' t g (Instr.size (.cbar h sc v)) (eligible s t g h) (.cbar id) ∧
        ∃ c', collOf s' p id = some c' ∧ c'.here = c.here ++ [(t, g)] ∧ c'.members = c.members ∧
          ∀ x, x ∈ c'.arrived ↔ x ∈ c.arrived ∨ (x = r ∧ ∀ k < (s.team t).groups.length,
            (s.grp t k).ended = true ∨ (t, k) ∈ c'.here)) ∧
    ((∀ c, collOf s p id = some c → c.scope ≠ sc ∨ rankOf c (s.launchOf t).lid = none) →
      EffectTrap (.cbar h sc v) s t g h 0x01 (id.setWidth 32) 0 0 0)) ∧
  (∀ (s : State) (p t g : Nat) (id : BitVec 16) (c : CollGroup) (w : Wait), (kGet s.parts p).isSome = true →
    collOf s p id = some c → c.here = [(t, g)] → Exists s t g → (s.grp t g).waits = [w] → w.kind = .cbar id →
    w.done = none → w.held = false → (s.grp t g).stopped = none → (s.grp t g).taken = none →
    (s.team t).phase = .resident → (∀ k, k ≠ g → ∀ x ∈ (s.grp t k).waits, x.kind ≠ .cbar id) →
    (∀ r, rankOf c (s.launchOf t).lid = some r → r ∈ c.arrived) →
    ((∀ r < c.members.length, (c.members.getD r 0).toNat / 2 ^ 32 % 2 ^ 21 = ownNumber → r ∈ c.arrived) →
      ∃ s', exec (.cbarComplete p id) s = .next s' ∧ s'.mem = s.mem ∧ (s'.grp t g).waits = [] ∧
        OtherGroupsKept s s' t g ∧ SameRegisters (s.grp t g) (s'.grp t g) ∧
        (∀ l < 32, (s.grp t g).exited.getLsbD l = false → (s'.grp t g).pcv.get l =
          if w.lanes.getLsbD l then w.next else (s.grp t g).pcv.get l) ∧
        ∃ c', collOf s' p id = some c' ∧ c' = { c with here := [], arrived := [], since := none }) ∧
    (∀ (r : Word) (x : Nat), c.since = some x → c.deadline.toNat * 1000 ≤ now s - x → r.toNat < c.members.length →
      r.toNat ∉ c.arrived →
      (∀ k < r.toNat, (c.members.getD k 0).toNat / 2 ^ 32 % 2 ^ 21 = ownNumber → k ∈ c.arrived) →
      (s.grp t g).handler = false → (s.team t).trapBase ≠ 0 →
      ∃ s', exec (.cbarDeadlineExpiry p id r) s = .next s' ∧ s'.mem = s.mem ∧ OtherGroupsKept s s' t g ∧
        (s'.grp t g).waits = [] ∧ (s'.grp t g).handler = true ∧ (s'.grp t g).cause = 0x14 ∧ (s'.grp t g).tpc = w.pc ∧
        (s'.grp t g).tlanes = w.lanes ∧ (s'.grp t g).info0 = id.setWidth 32 ∧ (s'.grp t g).info1 = r))

open Sys2Proof Sys2Proof.Machine Sys2Proof.Claims in
/-- R254, R289: WAITK waits until the operations of its tokens have completed, then empties the tokens; tokens whose
operation ended in error trap ENGERR, the lowest one named, or SPLITOVF where all are stopped ENCs (here one token). -/
def Obligations.TokenWaits : Prop :=
  ∀ (s : State) (t g : Nat) (h : Hdr) (m : BitVec 16) (i : Instr),
    ((∃ k : BitVec 4, i = .waitk h k ∧ m = BitVec.ofNat 16 (2 ^ k.toNat)) ∨ i = .waitkMask h m) → Acts i s t g h →
    let gr := s.grp t g
    let named (k : Nat) : Prop := m.getLsbD k = true
    let open_ : Prop := ∃ k c x, named k ∧ gr.token k = .names c ∧ s.cmds[c]? = some x ∧ (x.status = none ∨ x.signalled = false)
    let bad (k : Nat) (x : Cmd) : Prop := ∃ c, named k ∧ gr.token k = .names c ∧ s.cmds[c]? = some x ∧ ∃ st, x.status = some st ∧ st ≠ 0
    (open_ → ∃ s', exec i s = .next s' ∧ OnlyGroup s s' t g ∧ SameRegisters gr (s'.grp t g) ∧
      Parks s s' t g i.size (eligible s t g h) (.tokens m)) ∧
    (¬open_ → (∀ k x, ¬bad k x) → ∃ s', exec i s = .next s' ∧ OnlyGroup s s' t g ∧ RegistersKept gr (s'.grp t g) ∧
      Advances s s' t g i.size ∧ ∀ k < 16, (s'.grp t g).token k = if m.getLsbD k then .empty else gr.token k) ∧
    (¬open_ → HasPart s t → ∀ k x, bad k x → (∀ j y, bad j y → j = k) →
      ∃ s₁ s', exec i s = .next s' ∧ OnlyGroup s s₁ t g ∧ RegistersKept gr (s₁.grp t g) ∧
        (∀ j < 16, (s₁.grp t g).token j = if m.getLsbD j then .empty else gr.token j) ∧
        Traps s₁ s' t g (s.grp t g).issueSet (if x.status = some 6 then
            { code := 0x0E, pc := gr.issuePc, lanes := eligible s t g h, i0 := x.info0, i1 := x.info1,
              i2 := BitVec.ofNat 32 (2 ^ k), i3 := BitVec.ofNat 32 (k * 2 ^ 28 + x.tiles % 2 ^ 28) }
          else { code := 0x14, pc := gr.issuePc, lanes := eligible s t g h, i0 := BitVec.ofNat 32 k,
                 i1 := (x.status.getD 0).setWidth 32, i2 := BitVec.ofNat 32 (2 ^ k) }))

open Sys2Proof Sys2Proof.Machine Sys2Proof.Claims in
/-- R245, R255: ACQ takes a tile in state TEAM for the group, parks where the sequencer or another group holds it, traps
TOKEN where the group itself holds it or it is sealed (15 R320). REL by the group gives it to the sequencer of a team with a stream,
else to TEAM; REL by the sequencer gives it to TEAM. A name of an X128 tile's other quarters traps TOKEN. -/
def Sys2Proof.Claims.TileTokens : Prop :=
  (∀ (s : State) (t g : Nat) (h : Hdr) (k : BitVec 3) (x : Tile),
    let tm := s.team t
    let j := k.toNat
    let bad (i : Instr) : Prop := ((∀ d e, x.state ≠ .sealed d e) →
        EffectTrap i s t g h 0x0C (BitVec.ofNat 32 j) (BitVec.ofNat 32 (tileNum x.state)) 0 0) ∧
      ((∃ d e, x.state = .sealed d e) → EffectTrap i s t g h 0x0C 0xFFFFFFFF 3 0 0)
    -- the tile that carries the state the name reaches
    tm.tiles[if (tm.tiles.getD (j / 4 * 4) {}).x128 then j / 4 * 4 else j]? = some x → HasPart s t →
    let own : Prop := (tm.tiles.getD (j / 4 * 4) {}).x128 = false ∨ j % 4 = 0
    let waits : Prop := ∃ g', ∃ w ∈ (s.grp t g').waits, w.kind = .tile j ∧ w.done = none
    (Acts (.acq h k) s t g h →
      (own → x.state = .team → ¬waits → ∃ s', exec (.acq h k) s = .next s' ∧ OnlyTeam s s' t ∧ OtherGroupsKept s s' t g ∧
        KeepsGroup s s' t g (Instr.size (.acq h k)) ∧ (s'.team t).tiles = tm.tiles.set j { x with state := .group g } ∧
        (s'.grp t g).ctr = laterCtr (s.grp t g).ctr x.ctr) ∧
      (own → x.state = .seq ∨ (x.state = .team ∧ waits) ∨ (∃ g', g' ≠ g ∧ x.state = .group g') → ∃ s', exec (.acq h k) s = .next s' ∧ OnlyGroup s s' t g ∧
        SameRegisters (s.grp t g) (s'.grp t g) ∧ Parks s s' t g (Instr.size (.acq h k)) (eligible s t g h) (.tile j)) ∧
      (¬own ∨ x.state = .group g ∨ (∃ d e, x.state = .sealed d e) → bad (.acq h k))) ∧
    (Acts (.rel h k) s t g h →
      (own → x.state = .group g → ¬waits → ∃ s', exec (.rel h k) s = .next s' ∧ OnlyTeam s s' t ∧ OtherGroupsKept s s' t g ∧
        KeepsGroup s s' t g (Instr.size (.rel h k)) ∧ Released t g (-1) .team s s' ∧
        (s'.team t).tiles = tm.tiles.set j { x with state := if tm.seq.named then .seq else .team,
                                                     ctr := laterCtr x.ctr (s.grp t g).ctr }) ∧
      (¬own ∨ x.state ≠ .group g → bad (.rel h k)))) ∧
  (∀ (s : State) (t : Nat) (k : BitVec 3) (x : Tile) (h : Hdr), s.cur = .seq t → canSeq s t = true → h = ⟨0, false, none⟩ →
    k.toNat < (s.launchOf t).accs → (s.team t).seq.running = [] → (s.team t).seq.stage = none →
    let tm := s.team t
    ((tm.tiles.getD (k.toNat / 4 * 4) {}).x128 = false ∨ k.toNat % 4 = 0) → tm.tiles[k.toNat]? = some x → x.state = .seq →
    (∀ g, ∀ w ∈ (s.grp t g).waits, w.kind ≠ .tile k.toNat) →
    ∃ s', exec (.rel h k) s = .next s' ∧ OnlyTeam s s' t ∧ (s'.team t).groups = tm.groups ∧
      (s'.team t).tiles = tm.tiles.set k.toNat { x with state := .team, ctr := laterCtr x.ctr tm.seq.ctr } ∧
      (s'.team t).seq.pc = nextAddr tm.seq.pc (Instr.size (.rel h k)))

open Sys2Proof Sys2Proof.Machine Sys2Proof.Claims in
/-- R246, R256: TSLD loads a slot's record of 64 bytes, and traps FMT where the record has a reserved code or a reserved
bit, the slot unchanged; TSEV empties a slot, and with an address stores what it held, 0 where it was empty (the store waits: log 11). -/
def Sys2Proof.Claims.ShapeSlots : Prop :=
  ∀ (s : State) (t g : Nat) (h : Hdr) (k : BitVec 5) (a : BitVec 6) (disp : Option Word) (ps : Nat → List Piece),
    let gr := s.grp t g
    let tm := s.team t
    let va := (regGet gr (.s a) 0 2 + (match disp with
      | some w => (w.signExtend 64).toNat
      | none => 0)) % 2 ^ 64
    let q := ps (lowest (eligible s t g h))
    let held (s' : State) (j : Nat) : Option (BitVec 512) := kGet (s'.team t).slots j
    let others (s' : State) : Prop := OtherGroupsKept s s' t g ∧ (∀ u, u ≠ t → s'.team u = s.team u) ∧
      s'.team t = { tm with slots := (s'.team t).slots, groups := (s'.team t).groups, touched := (s'.team t).touched } ∧
      ∀ j, j ≠ k.toNat → held s' j = held s j
    (Acts (.tsld h k a disp) s t g h → va % 64 = 0 → Passes s t g h (.s a) .read false 64 (fun _ => va) ps →
      let x := valueIn s.mem q
      let reserved : Prop := 0x11 < x / 2 ^ 312 % 2 ^ 5 ∨ 1 < x / 2 ^ 317 % 4 ∨ x / 2 ^ 321 % 4 = 3 ∨ x / 2 ^ 460 % 2 ^ 52 ≠ 0
      (¬reserved → ∃ s', exec (.tsld h k a disp) s = .next s' ∧ others s' ∧ s'.mem = s.mem ∧
        KeepsGroup s s' t g (Instr.size (.tsld h k a disp)) ∧ held s' k.toNat = some (BitVec.ofNat 512 x)) ∧
      (reserved → gr.handler = false → tm.trapBase ≠ 0 → ∃ s', exec (.tsld h k a disp) s = .next s' ∧ others s' ∧
        s'.mem = s.mem ∧ held s' k.toNat = held s k.toNat ∧ (s'.grp t g).cause = 0x0D ∧ (s'.grp t g).tpc = gr.issuePc ∧
        (s'.grp t g).tlanes = eligible s t g h ∧ (s'.grp t g).handler = true)) ∧
    (Acts (.tsev h k none) s t g h → ∃ s', exec (.tsev h k none) s = .next s' ∧ others s' ∧ s'.mem = s.mem ∧
      KeepsGroup s s' t g (Instr.size (.tsev h k none)) ∧ held s' k.toNat = none) ∧
    (Acts (.tsev h k (some (a, disp))) s t g h → va % 64 = 0 → Passes s t g h (.s a) .write false 64 (fun _ => va) ps →
      ∃ s', exec (.tsev h k (some (a, disp))) s = .next s' ∧ others s' ∧
        KeepsGroup s s' t g (Instr.size (.tsev h k (some (a, disp)))) ∧ held s' k.toNat = none ∧
        s'.mem = s.mem ∧ StoredIn q ((held s k.toNat).getD 0).toNat s.mem (performStores (fun _ => true) s').mem) ∧
    (va % 64 ≠ 0 → HasPart s t → (∀ i c, (i = .tsld h k a disp ∧ c = 0) ∨ (i = .tsev h k (some (a, disp)) ∧ c = 1) →
      Acts i s t g h → EffectTrap i s t g h 0x04 (BitVec.ofNat 32 va) (BitVec.ofNat 32 (va / 2 ^ 32)) c 0))

open Sys2Proof Sys2Proof.Machine Sys2Proof.Claims in
/-- R245, R255, R246, R256: tile tokens and tensor-shape slots. -/
def Obligations.TilesAndSlots : Prop := Sys2Proof.Claims.TileTokens ∧ Sys2Proof.Claims.ShapeSlots

namespace Sys2Proof.Claims

open Sys2Proof.Machine

/-! Queues (11 R240 to R243, R252, R253, R257; 05 R139, R140). -/

/-- The lanes that push or pop, in order: those of E, or one for a uniform register (05 R139). -/
def takers (E : Lanes) (r : Reg) : List Nat :=
  ((List.range 32).filter fun l => E.getLsbD l).take (if regUni r then 1 else 32)
/-- The ring position of the i-th entry after the oldest (11 R240). -/
def ringPlace (x : Queue) (i : Nat) : Nat := x.ring + 8 * ((x.rd + i) % x.cap)
/-- The ring has room for k entries, the allowance lets them in, nothing stands in the overflow area (11 R241). -/
def RoomFor (x : Queue) (k : Nat) : Prop :=
  x.ocnt = 0 ∧ x.inOvf = false ∧ x.cnt + k ≤ x.cap ∧ x.allow ≠ 0 ∧ (x.allow = 0xFFFF ∨ k ≤ x.allow.toNat)
/-- A queue after k entries have entered its ring, of a group that sees CTR_BASE as `cv` (16 R334; log 117); `fullSince` is a
measure of time (11 R242). -/
def Grown (x y : Queue) (k : Nat) (cv : CtrView) : Prop :=
  y = { x with cnt := x.cnt + k, allow := if x.allow = 0xFFFF then x.allow else x.allow - BitVec.ofNat 16 k,
               fullSince := y.fullSince, ctrs := x.ctrs ++ List.replicate k cv }
/-- A queue that a push has left as it was. -/
def Unmoved (x y : Queue) : Prop := y = { x with fullSince := y.fullSince }
/-- A queue after its k oldest entries have left. -/
def Shrunk (x y : Queue) (k : Nat) : Prop :=
  y = { x with cnt := x.cnt - k, rd := (x.rd + k) % x.cap, fullSince := y.fullSince, ctrs := x.ctrs.drop k }
/-- CTR_BASE as a group sees it that has taken the k oldest entries of a queue (16 R334; log 117). -/
def seesPushers (x : Queue) (v : CtrView) (k : Nat) : CtrView :=
  (List.range k).foldl (fun v j => laterCtr v (x.ctrs.getD j {})) v
/-- Queue n of a team is changed so, no other. -/
def QueueIs (s s' : State) (t n : Nat) (p : Queue → Prop) : Prop :=
  (∃ y, (s'.team t).queues[n]? = some y ∧ p y) ∧ ∀ j, j ≠ n → (s'.team t).queues[j]? = (s.team t).queues[j]?
/-- Values stand in the ring from its first free place on; every other byte of the scratchpad is as before. -/
def Entered (m m' : Store 8) (x : Queue) (vs : List Nat) : Prop :=
  (∀ j < vs.length, bytesAt m' (ringPlace x (x.cnt + j)) 8 = vs.getD j 0) ∧
  ∀ a, (∀ j < vs.length, ¬(ringPlace x (x.cnt + j) ≤ a ∧ a < ringPlace x (x.cnt + j) + 8)) → m'.get a = m.get a
/-- No push waits on queue n of a team. -/
def NoPush (s : State) (t n : Nat) : Prop := ∀ g, ∀ w ∈ (s.grp t g).waits, ∀ u vs, w.kind ≠ .push n u vs
/-- The one wait of a group, not held back by a handler, a stop, a pre-emption. -/
def OnlyWait (s : State) (t g : Nat) (w : Wait) : Prop :=
  Exists s t g ∧ (s.grp t g).waits = [w] ∧ w.done = none ∧ w.held = false ∧ (s.grp t g).stopped = none ∧
    (s.grp t g).taken = none ∧ (s.team t).phase = .resident
/-- The lanes of a wait go on at its successor. -/
def LanesGoOn (s s' : State) (t g : Nat) (w : Wait) : Prop :=
  (s'.grp t g).waits = [] ∧ ∀ l < 32, (s.grp t g).exited.getLsbD l = false →
    (s'.grp t g).pcv.get l = if w.lanes.getLsbD l then w.next else (s.grp t g).pcv.get l
/-- A predicate of the lanes of E is written, nothing else of the group but the lanes' addresses. -/
def PredicateIs (s s' : State) (t g : Nat) (h : Hdr) (size pd : Nat) (p : Nat → Bool) : Prop :=
  (s'.grp t g).v = (s.grp t g).v ∧ (s'.grp t g).s = (s.grp t g).s ∧ (s'.grp t g).tok = (s.grp t g).tok ∧
    FlagsKept (s.grp t g) (s'.grp t g) ∧ Advances s s' t g size ∧
    ∀ i l, (i = pd → i ≠ 0 → InE s t g h l → ((s'.grp t g).pred i).getLsbD l = p l) ∧
      (¬(i = pd ∧ i ≠ 0 ∧ InE s t g h l) → ((s'.grp t g).pred i).getLsbD l = ((s.grp t g).pred i).getLsbD l)

end Sys2Proof.Claims

open Sys2Proof Sys2Proof.Machine Sys2Proof.Claims in
/-- R139, R241, R253: a push enters its entries in order of lanes while the ring has room and the allowance lets them in,
each entry lowering an allowance but 0xFFFF by one; without them MOV.push parks, QTRY.push gives false. At the limit of the
overflow area a push traps QOVF. A queue register that is not bound traps ILL with 1, one bound to a port 2, one bound to a
queue beyond the launch's 3. A parked push enters when it may. The order of the places of the overflow area is log 26, with
which rights the part writes it log 23. -/
def Obligations.QueuePush : Prop :=
  (∀ (s : State) (t g : Nat) (h : Hdr) (ty : Ty) (q : BitVec 4) (pd : BitVec 3) (b : Reg) (n : Nat) (x : Queue),
    let gr := s.grp t g
    let ls := takers (eligible s t g h) b
    kGet (s.team t).qregs q.toNat = some (.queue n) → n < (s.launchOf t).nqueues → (s.team t).queues[n]? = some x →
    (Acts (.movPush h ty q b) s t g h →
      let vs := ls.map fun l => regGet gr b l (if ty = .b64 then 2 else 1)
      (RoomFor x ls.length → ∃ s', exec (.movPush h ty q b) s = .next s' ∧ OnlyTeamArrived s s' t ∧ OtherGroupsKept s s' t g ∧
        KeepsGroup s s' t g (Instr.size (.movPush h ty q b)) ∧
        QueueIs s s' t n (fun y => Grown x y ls.length gr.ctr) ∧
        Entered (s.team t).scratch (s'.team t).scratch x vs) ∧
      (x.inOvf = false → x.ocnt = 0 → x.allow = 0 ∨ x.cap ≤ x.cnt → ∃ s', exec (.movPush h ty q b) s = .next s' ∧
        OnlyTeam s s' t ∧ OtherGroupsKept s s' t g ∧ SameRegisters gr (s'.grp t g) ∧
        QueueIs s s' t n (Unmoved x) ∧
        ∃ us, (∀ l ∈ ls, kGet us (if regUni b then 0 else l) =
            some (BitVec.ofNat 64 (regGet gr b l (if ty = .b64 then 2 else 1)))) ∧
          Parks s s' t g (Instr.size (.movPush h ty q b)) (eligible s t g h) (.push n (regUni b) us)) ∧
      (x.inOvf = true → x.ovfmax ≤ x.ocnt → HasPart s t → ∃ s₁ s', exec (.movPush h ty q b) s = .next s' ∧ OnlyTeam s s₁ t ∧
        OtherGroupsKept s s₁ t g ∧ (s₁.team t).scratch = (s.team t).scratch ∧ QueueIs s s₁ t n (Unmoved x) ∧
        Placed { s with teams := (s₁.modGrp t g fun _ => gr).teams, buffer := s₁.buffer } s₁ t g
          (gr.issueSet &&& ~~~(eligible s t g h)) (successor s t g (Instr.size (.movPush h ty q b))) ∧
        Traps s₁ s' t g (s.grp t g).issueSet { code := 0x13, pc := gr.issuePc, lanes := eligible s t g h })) ∧
    (Acts (.qtryPush h pd q b) s t g h →
      (RoomFor x ls.length → ∃ s', exec (.qtryPush h pd q b) s = .next s' ∧ OnlyTeamArrived s s' t ∧ OtherGroupsKept s s' t g ∧
        PredicateIs s s' t g h (Instr.size (.qtryPush h pd q b)) pd.toNat (fun _ => true) ∧
        QueueIs s s' t n (fun y => Grown x y ls.length gr.ctr) ∧
        Entered (s.team t).scratch (s'.team t).scratch x (ls.map fun l => regGet gr b l 2)) ∧
      (x.inOvf = false → x.ocnt = 0 → x.allow = 0 ∨ x.cap ≤ x.cnt → ∃ s', exec (.qtryPush h pd q b) s = .next s' ∧
        OnlyTeam s s' t ∧ OtherGroupsKept s s' t g ∧
        PredicateIs s s' t g h (Instr.size (.qtryPush h pd q b)) pd.toNat (fun _ => false) ∧
        QueueIs s s' t n (Unmoved x)))) ∧
  (∀ (s : State) (t g : Nat) (h : Hdr) (i : Instr) (q : BitVec 4), Acts i s t g h → HasPart s t →
    let push : Prop := (∃ ty b, i = .movPush h ty q b) ∨ (∃ pd b, i = .qtryPush h pd q b) ∨
      ∃ v, i = .qalwAdd h q v ∨ i = .qalwSet h q v
    let pop : Prop := (∃ ty d, i = .movPop h ty d q) ∨ ∃ d pc, i = .qtryPop h d q pc
    (push ∨ pop → kGet (s.team t).qregs q.toNat = none → EffectTrap i s t g h 0x01 1 0 0 0) ∧
    (push → ∀ n, kGet (s.team t).qregs q.toNat = some (.port n) → EffectTrap i s t g h 0x01 2 0 0 0) ∧
    (push ∨ pop → ∀ n, kGet (s.team t).qregs q.toNat = some (.queue n) → (s.launchOf t).nqueues ≤ n →
      EffectTrap i s t g h 0x01 3 0 0 0)) ∧
  (∀ (s : State) (t g q : Nat) (w : Wait) (uni : Bool) (us : List (Nat × DWord)) (v : DWord) (x : Queue),
    OnlyWait s t g w → w.kind = .push q uni us → (s.team t).queues[q]? = some x →
    (∀ k, k ≠ g → ∀ y ∈ (s.grp t k).waits, ∀ u vs, y.kind ≠ .push q u vs) →
    (uni = true ∨ ∀ l < 32, w.lanes.getLsbD l = true ↔ l = lowest w.lanes) → kGet us (if uni then 0 else lowest w.lanes) = some v →
    (RoomFor x 1 → ∃ s', exec (.queueEntryEnter t g 0) s = .next s' ∧ OnlyTeamArrived s s' t ∧ OtherGroupsKept s s' t g ∧
      SameRegisters (s.grp t g) (s'.grp t g) ∧ LanesGoOn s s' t g w ∧ QueueIs s s' t q (fun y => Grown x y 1 w.ctr) ∧
      Entered (s.team t).scratch (s'.team t).scratch x [v.toNat]) ∧
    (x.inOvf = false → x.ocnt = 0 → x.allow = 0 ∨ x.cap ≤ x.cnt → exec (.queueEntryEnter t g 0) s = .next s) ∧
    -- the overflow area opens after 20 µs of a full ring with a push parked, and takes the entry
    (∀ a s₁, x.fullSince = some a → 20000 ≤ now s - a → x.cnt = x.cap → x.ocnt = 0 → x.inOvf = false → x.allow ≠ 0 → x.ovf ≠ 0 →
      x.ovfmax ≠ 0 →
      partWrite (whoLaunch (s.launchOf t)) (rootOf (s.launchOf t).lineage) ((x.ovf.toNat + 8 * (x.ohead % x.ovfmax)) % 2 ^ 64) 8
        v.toNat (modQueue t q (fun y => { y with inOvf := true }) s) = some s₁ →
      ∃ s', exec (.queueOverflowStart t q) s = .next s' ∧ s'.mem = s₁.mem ∧ OtherGroupsKept s s' t g ∧
        (s'.team t).scratch = (s.team t).scratch ∧ SameRegisters (s.grp t g) (s'.grp t g) ∧ LanesGoOn s s' t g w ∧
        QueueIs s s' t q (fun y => y.allow = (if x.allow = 0xFFFF then x.allow else x.allow - 1) ∧
          y = { x with inOvf := true, ocnt := 1, fullSince := none, allow := y.allow, ctrs := x.ctrs ++ [w.ctr] })))

open Sys2Proof Sys2Proof.Machine Sys2Proof.Claims in
/-- R139, R243, R253: a pop takes the oldest entries in order of lanes, of a queue or of a result port; where there is none
MOV.pop parks and QTRY.pop gives false. A parked pop receives the next entry. -/
def Sys2Proof.Claims.QueuePop : Prop :=
  (∀ (s : State) (t g : Nat) (h : Hdr) (ty : Ty) (q : BitVec 4) (pc : BitVec 3) (d : Reg) (n : Nat),
    let tm := s.team t
    let ls := takers (eligible s t g h) d
    let k := if ty = .b64 then 2 else 1
    let took (s' : State) (k : Nat) (from_ : Nat → Nat) : Prop :=
      ∀ j < ls.length, regGet (s'.grp t g) d (ls.getD j 0) k = from_ j % 2 ^ (32 * k)
    -- the group sees CTR_BASE as the pushers did (16 R334)
    let frame (i : Instr) (k : Nat) (preds : List Nat) (v : CtrView) (s' : State) : Prop := exec i s = .next s' ∧
      OnlyTeam s s' t ∧ (s'.grp t g).ctr = v ∧
      GroupFrame ⟨h, [], [(d, k)], preds, false, false, false⟩ (s.modGrp t g fun gr => { gr with ctr := v }) s' t g i.size
    (∀ x, kGet tm.qregs q.toNat = some (.queue n) → n < (s.launchOf t).nqueues → tm.queues[n]? = some x → x.ocnt = 0 →
      let from_ (j : Nat) : Nat := bytesAt tm.scratch (ringPlace x j) 8
      (ls.length ≤ x.cnt →
        (Acts (.movPop h ty d q) s t g h → ∃ s', frame (.movPop h ty d q) k [] (seesPushers x (s.grp t g).ctr ls.length) s' ∧ (s'.team t).scratch = tm.scratch ∧
          QueueIs s s' t n (fun y => Shrunk x y ls.length) ∧ took s' k from_) ∧
        (Acts (.qtryPop h d q pc) s t g h → ∃ s', frame (.qtryPop h d q pc) 2 [pc.toNat] (seesPushers x (s.grp t g).ctr ls.length) s' ∧ (s'.team t).scratch = tm.scratch ∧
          QueueIs s s' t n (fun y => Shrunk x y ls.length) ∧ took s' 2 from_ ∧
          ∀ l, InE s t g h l → pc ≠ 0 → ((s'.grp t g).pred pc.toNat).getLsbD l = true)) ∧
      (x.cnt = 0 →
        (Acts (.movPop h ty d q) s t g h → ∃ s', exec (.movPop h ty d q) s = .next s' ∧ OnlyGroup s s' t g ∧
          SameRegisters (s.grp t g) (s'.grp t g) ∧
          Parks s s' t g (Instr.size (.movPop h ty d q)) (eligible s t g h) (.pop (.queue n) d (ty == .b64))) ∧
        (Acts (.qtryPop h d q pc) s t g h → ∃ s', exec (.qtryPop h d q pc) s = .next s' ∧ OnlyGroup s s' t g ∧
          PredicateIs s s' t g h (Instr.size (.qtryPop h d q pc)) pc.toNat (fun _ => false)))) ∧
    (∀ es, kGet tm.qregs q.toNat = some (.port n) → tm.ports[n]? = some es → ls.length ≤ es.length →
      Acts (.movPop h ty d q) s t g h → ∃ s', frame (.movPop h ty d q) k [] (s.grp t g).ctr s' ∧
        (s'.team t).ports = tm.ports.set n (es.drop ls.length) ∧ took s' k (fun j => (es.getD j 0).toNat))) ∧
  (∀ (s : State) (t g : Nat) (w : Wait) (q : Nat) (d : Reg) (b64 : Bool) (x : Queue), OnlyWait s t g w →
    w.kind = .pop (.queue q) d b64 → (s.team t).queues[q]? = some x → x.ocnt = 0 → (s.grp t g).soft = [] →
    (∀ k, k ≠ g → ∀ y ∈ (s.grp t k).waits, ∀ e f, y.kind ≠ .pop (.queue q) e f) →
    (regUni d = true ∨ ∀ l < 32, w.lanes.getLsbD l = true ↔ l = lowest w.lanes) →
    (0 < x.cnt → ∃ s', exec (.queuePopComplete t g 0) s = .next s' ∧ OnlyTeam s s' t ∧ OtherGroupsKept s s' t g ∧
      LanesGoOn s s' t g w ∧ QueueIs s s' t q (fun y => Shrunk x y 1) ∧ (s'.team t).scratch = (s.team t).scratch ∧
      (s'.grp t g).p = (s.grp t g).p ∧ (s'.grp t g).ctr = seesPushers x (s.grp t g).ctr 1 ∧
      regGet (s'.grp t g) d (lowest w.lanes) (if b64 then 2 else 1) =
        bytesAt (s.team t).scratch (ringPlace x 0) 8 % 2 ^ (if b64 then 64 else 32)) ∧
    (x.cnt = 0 → exec (.queuePopComplete t g 0) s = .next s))

open Sys2Proof Sys2Proof.Machine Sys2Proof.Claims in
/-- R252, R257: QBIND.sq binds a queue register to the queue of the descriptor, setting the queue up where INIT is set;
QBIND.port binds it to a port; QALW sets an allowance, or adds to it within 0 to 0xFFFE. -/
def Sys2Proof.Claims.QueueBinding : Prop :=
  ∀ (s : State) (t g : Nat) (h : Hdr) (q : BitVec 4) (v : ImmU),
    let tm := s.team t
    let gr := s.grp t g
    let la := s.launchOf t
    let word := wordOf gr v
    let o := word.toNat
    let d := bytesAt tm.scratch o 32
    let n := d % 2 ^ 16
    let ring := d / 2 ^ 32 % 2 ^ 32
    let cap := d / 2 ^ 64 % 2 ^ 16
    let bound (i : Instr) (b : Bind) (s' : State) : Prop := exec i s = .next s' ∧ OnlyTeam s s' t ∧ OtherGroupsKept s s' t g ∧
      KeepsGroup s s' t g i.size ∧ kGet (s'.team t).qregs q.toNat = some b ∧
      (∀ j, j ≠ q.toNat → kGet (s'.team t).qregs j = kGet tm.qregs j) ∧ (s'.team t).scratch = tm.scratch
    (Acts (.qbindSq h q v) s t g h → s.ecc = [] →
      (o % 32 = 0 → o + 32 ≤ la.scratchBytes → n < la.nqueues → d / 2 ^ 17 % 2 ^ 15 = 0 → d / 2 ^ 192 % 2 ^ 64 = 0 → cap ≠ 0 →
        ring % 8 = 0 → d / 2 ^ 96 % 8 = 0 →
        (d.testBit 16 = true → ring + 8 * cap ≤ la.scratchBytes → NoPush s t n → n < tm.queues.length →
          ∃ s', bound (.qbindSq h q v) (.queue n) s' ∧ QueueIs s s' t n fun y => y =
            { init := true, ring := ring, cap := cap, allow := BitVec.ofNat 16 (d / 2 ^ 80 % 2 ^ 16),
              ovf := BitVec.ofNat 64 (d / 2 ^ 96 % 2 ^ 64), ovfmax := d / 2 ^ 160 % 2 ^ 32 }) ∧
        (d.testBit 16 = false → ∀ x, tm.queues[n]? = some x →
          (x.init = true → ∃ s', bound (.qbindSq h q v) (.queue n) s' ∧ (s'.team t).queues = tm.queues) ∧
          (x.init = false → HasPart s t → EffectTrap (.qbindSq h q v) s t g h 0x01 4 0 0 0))) ∧
      (o % 32 ≠ 0 → HasPart s t → EffectTrap (.qbindSq h q v) s t g h 0x04 (BitVec.ofNat 32 o) 0 0 0) ∧
      (o % 32 = 0 → la.scratchBytes < o + 32 → HasPart s t →
        EffectTrap (.qbindSq h q v) s t g h 0x07 (BitVec.ofNat 32 (max o la.scratchBytes)) 0 0 0) ∧
      (o % 32 = 0 → o + 32 ≤ la.scratchBytes → la.nqueues ≤ n → HasPart s t → EffectTrap (.qbindSq h q v) s t g h 0x01 3 0 0 0)) ∧
    (∀ port : Byte, Acts (.qbindPort h q port) s t g h →
      (port.toNat < 3 → ∃ s', bound (.qbindPort h q port) (.port port.toNat) s' ∧ (s'.team t).queues = tm.queues) ∧
      (3 ≤ port.toNat → HasPart s t →
        EffectTrap (.qbindPort h q port) s t g h 0x01 (BitVec.ofNat 32 port.toNat) 0 0 3)) ∧
    (∀ k x, kGet tm.qregs q.toNat = some (.queue k) → k < la.nqueues → tm.queues[k]? = some x → NoPush s t k →
      let changed (i : Instr) (a : Nat) : Prop := ∃ s', exec i s = .next s' ∧ OnlyTeam s s' t ∧ OtherGroupsKept s s' t g ∧
        KeepsGroup s s' t g i.size ∧ QueueIs s s' t k fun y => y.allow.toNat = a ∧
          y = { x with allow := y.allow, fullSince := none }
      (Acts (.qalwSet h q v) s t g h → changed (.qalwSet h q v) (o % 2 ^ 16)) ∧
      (Acts (.qalwAdd h q v) s t g h → changed (.qalwAdd h q v) (if x.allow = 0xFFFF then 0xFFFF else
        (max 0 (min 0xFFFE ((x.allow.toNat : Int) + word.toInt))).toNat)))

open Sys2Proof Sys2Proof.Machine Sys2Proof.Claims in
/-- R240 to R243, R252, R253: a pop, and the binding of queue registers and pushers. -/
def Obligations.QueuePopAndBinding : Prop := Sys2Proof.Claims.QueuePop ∧ Sys2Proof.Claims.QueueBinding

namespace Sys2Proof.Claims

open Sys2Proof.Machine

/-! Engine commands (13). A layout record's fields are read by the accessors of Machine/Engines.lean (11 Table 11.7). -/

/-- Whose writes are performed one by one, in the order of the command's steps: COLL's and FORK's (13 R280, 17 R368). -/
def inOrder : CmdKind → Bool
  | .coll _ _ _ _ | .fork _ _ _ => true
  | _ => false

/-- The command starts: it stands last in the list, in flight, with the scope, the core and the root of its issue; its token
names it, the lanes of I go on, and every waiting store of the group is performed for the scope (10 R217); no register, no
byte, no other group or team changes (13 R268, R244). -/
def Starts (i : Instr) (s : State) (t g k : Nat) (sc : Scope) (kind : CmdKind) (bar : Option Nat)
    (port : Option (Nat × BitVec 16)) : Prop :=
  ∃ s' c, exec i s = .next s' ∧ s'.cmds = s.cmds ++ [c] ∧ c.kind = kind ∧ c.team = some t ∧ c.group = g ∧ c.bar = bar ∧
    c.port = port ∧ c.scope = sc ∧ c.core = some ((s.team t).die, (s.team t).core) ∧ c.die = (s.team t).die ∧
    c.part = (s.launchOf t).part ∧ c.ctxRoot = (s.launchOf t).ctxRoot ∧ c.prompt = inOrder kind ∧ c.id = s.cmds.length ∧
    c.status = none ∧ c.doneChunks = [] ∧ c.sizes = [] ∧ c.early = [] ∧ c.held = [] ∧ c.rows = [] ∧ c.fault = none ∧
    c.signalled = false ∧ c.bySeq = false ∧ c.ctr = (s.grp t g).ctr ∧ Released t g (-1) sc s s' ∧
    (s'.grp t g).token k = .names s.cmds.length ∧ (∀ j, j ≠ k → (s'.grp t g).token j = (s.grp t g).token j) ∧
    RegistersKept (s.grp t g) (s'.grp t g) ∧ Advances s s' t g i.size ∧ s'.mem = s.mem ∧ OtherGroupsKept s s' t g ∧
    ∀ u, u ≠ t → s'.team u = s.team u

/-- The issue finds its token free, a place in the engine and its barrier among the launch's (13 R268 steps 1, 4, 5). -/
def MayStart (i : Instr) (s : State) (t g : Nat) (h : Hdr) (k : Nat) (bar : Option Nat) : Prop :=
  Acts i s t g h ∧ (s.grp t g).token k = .empty ∧ coreCommands s t < 64 ∧ ∀ b, bar = some b → b < (s.launchOf t).bars

/-- A box lies in the dimensions of its tensor, and in a window of a size where the tensor lies in the scratchpad: each of
its elements, records or rows of scale bytes does (13 R264, R268 step 3). -/
def InDims (r o0 o1 o2 o3 e0 e1 : Nat) : Prop :=
  o0 + e0 ≤ layDim r 0 ∧ (1 < layRank r → o1 + e1 ≤ layDim r 1) ∧ (2 < layRank r → o2 < layDim r 2) ∧ (3 < layRank r → o3 < layDim r 3)
def InWindow (size r o0 o1 o2 o3 e0 e1 : Nat) : Prop :=
  laySp r = true → ∀ i < e0, ∀ j < e1,
    let off : Nat := if layRole r = 0 then eltOff r (o0 + i) (o1 + j) o2 o3 + tyBytes (layTy r)
      else if layRole r = 1 then recOff r ((o0 + i) / 64) ((o1 + j) / 16) o2 o3 + recSize (layQ16 r) (layCap r)
      else scaleOff r ((o0 + i) / 64) ((o1 + j) / 16) o2 o3 + 16
    layBase r + off ≤ size
def BoxIn (size r o0 o1 o2 o3 e0 e1 : Nat) : Prop := InDims r o0 o1 o2 o3 e0 e1 ∧ InWindow size r o0 o1 o2 o3 e0 e1
/-- TYPE and FMTQ16 agree with a record's role (11 R246). -/
def RoleOk (r : Nat) : Prop :=
  layRole r ≠ 3 ∧ (layRole r = 1 → (layTy r = .q16 ∧ layQ16 r = true) ∨ (layTy r = .q8 ∧ layQ16 r = false)) ∧
    (layRole r = 2 → layTy r = .n8)
/-- Types that cross only as bits (13 R266). -/
def Raw (t : Ty) : Prop := t = .bf16x2 ∨ t = .q16 ∨ t = .q8 ∨ t = .x128 ∨ t = .b32 ∨ t = .b64
/-- Elements of one type may become elements of another (13 R266). -/
def Crosses (a b : Ty) : Prop :=
  a = b ∨ (¬Raw a ∧ ¬Raw b) ∨ ((a = .b32 ∨ a = .b64 ∨ b = .b32 ∨ b = .b64) ∧ tyBytes a = tyBytes b)
/-- The types of a reduction (13 Table 13.5). -/
def Reduces (op : Nat) (t : Ty) : Prop :=
  let int : Prop := t = .i32 ∨ t = .n32 ∨ t = .i64 ∨ t = .n64
  (op = 1 ∧ (int ∨ t = .f32 ∨ t = .bf16x2 ∨ t = .x128)) ∨ ((op = 2 ∨ op = 3) ∧ (int ∨ t = .f32)) ∨
    ((op = 4 ∨ op = 5) ∧ (t = .b32 ∨ t = .b64))
/-- Origin k of an origin block, an extent, the barrier and the port of a command (13 Table 13.3, R265). -/
def orgOf (gr : Group) (n : BitVec 6) (k : Nat) : Nat := (gr.s.get (n.toNat + k)).toNat
def extOf (x : BitVec 16) : Nat := if x = 0 then 65536 else x.toNat
def barOf (e : EngExt) : Option Nat := if e.baren then some e.bar.toNat else none
def portOf (e : EngExt) : Option (Nat × BitVec 16) := if e.port then some (0, e.tag) else none
def orgList (gr : Group) (n : BitVec 6) : List Word := (List.range 8).map fun k => gr.s.get (n.toNat + k)
/-- θ and S of a record are legal (03 R75). -/
def ParamsOk (r : Nat) : Prop :=
  let s := if r / 2 ^ 364 % 2 ^ 32 = 0 then r / 2 ^ 332 % 2 ^ 32 else r / 2 ^ 364 % 2 ^ 32
  (r / 2 ^ 332 % 2 ^ 32 = 0x80000000 ∨ r / 2 ^ 332 % 2 ^ 32 < 0x7F800000) ∧ 1 ≤ s / 2 ^ 23 ∧ s / 2 ^ 23 ≤ 254
/-- Whole tiles (13 R288, R290). -/
def WholeTiles (gr : Group) (n : BitVec 6) (e0 e1 : Nat) : Prop :=
  e0 % 64 = 0 ∧ e1 % 16 = 0 ∧ orgOf gr n 0 % 64 = 0 ∧ orgOf gr n 1 % 16 = 0 ∧ orgOf gr n 4 % 64 = 0 ∧ orgOf gr n 5 % 16 = 0
/-- The forms of CPY by their reduction. -/
def cpyForms (h : Hdr) (sc : Scope) (k : BitVec 4) (a b : BitVec 5) (o : BitVec 6) (e : EngExt) : Nat → Instr
  | 0 => .cpy h sc k a b o e
  | 1 => .cpyAdd h sc k a b o e
  | 2 => .cpyMin h sc k a b o e
  | 3 => .cpyMax h sc k a b o e
  | 4 => .cpyAnd h sc k a b o e
  | _ => .cpyOr h sc k a b o e
/-- The forms of GSC, of DEC, of FEED, of NMC. -/
def gscForms (h : Hdr) (sc : Scope) (k : BitVec 4) (a b : BitVec 5) (e : EngExt) : Nat → Instr
  | 0 => .gscG h sc k a b e
  | 1 => .gscS h sc k a b e
  | _ => .gscSadd h sc k a b e
def decForms (h : Hdr) (sc : Scope) (k : BitVec 4) (a b : BitVec 5) (o : BitVec 6) (e : EngExt) : Bool → Instr
  | false => .decF32 h sc k a b o e
  | true => .decBf16 h sc k a b o e
def feedForms (h : Hdr) (k : BitVec 4) (a : BitVec 5) (o : BitVec 6) (e : EngExt) : Nat → Instr
  | 0 => .feedFa h k a o e
  | 1 => .feedFb h k a o e
  | _ => .feedSc h k a o e
def nmcForms (h : Hdr) (sc : Scope) (k : BitVec 4) (a : BitVec 6) : Nat → Instr
  | 0 => .nmcGather h sc k a
  | 1 => .nmcCopy h sc k a
  | 2 => .nmcCvt h sc k a
  | _ => .nmcRed h sc k a
/-- The n 32-byte pieces of a block at an address pass their checks and hold x. -/
def BlockIs (s : State) (t g : Nat) (h : Hdr) (a : BitVec 6) (va n x : Nat) : Prop :=
  x < 2 ^ (256 * n) ∧ ∀ j < n, ∃ ps, Passes s t g h (.s a) .read false 32 (fun _ => (va + 32 * j) % 2 ^ 64) ps ∧
    valueIn s.mem (ps (lowest (eligible s t g h))) = x / 2 ^ (256 * j) % 2 ^ 256

end Sys2Proof.Claims

open Sys2Proof Sys2Proof.Machine Sys2Proof.Claims in
/-- R268, R244: CPY, GSC, ENC, DEC and FEED whose records, boxes and operands are as their rules ask start one command,
named by their token; an empty slot traps FMT, a box beyond a dimension PERM with the slot and the dimension, a box in the
scratchpad beyond the window PERM with the slot and 0 (log 134; log 112 for AUX), a barrier beyond the launch's ILL; while
the token's last command is in flight the issue waits. That ENC's scale tensor is checked in the destination's box and DEC's in
the source's is log 112; FEED, which has no scope, starts at .dev. -/
def Obligations.TensorCommandsStart : Prop :=
  ∀ (s : State) (t g : Nat) (h : Hdr) (sc : Scope) (k : BitVec 4) (a b : BitVec 5) (o : BitVec 6) (e : EngExt),
    let gr := s.grp t g
    let slot (j : BitVec 5) : Option (BitVec 512) := kGet (s.team t).slots j.toNat
    let og (j : Nat) : Nat := orgOf gr o j
    let e0 := extOf e.e0
    let e1 := extOf e.e1
    let list := orgList gr o
    let starts (i : Instr) (sc : Scope) (kind : CmdKind) : Prop := Starts i s t g k.toNat sc kind (barOf e) (portOf e)
    let may (i : Instr) : Prop := MayStart i s t g h k.toNat (barOf e)
    let size := (s.launchOf t).scratchBytes
    let srcIn (r : BitVec 512) : Prop := BoxIn size r.toNat (og 0) (og 1) (og 2) (og 3) e0 e1
    let dstIn (r : BitVec 512) : Prop := BoxIn size r.toNat (og 4) (og 5) (og 6) (og 7) e0 e1
    -- a box whose dimensions hold, but not its window, in a tensor of slot j
    let srcOut (r : BitVec 512) : Prop :=
      InDims r.toNat (og 0) (og 1) (og 2) (og 3) e0 e1 ∧ ¬InWindow size r.toNat (og 0) (og 1) (og 2) (og 3) e0 e1
    let dstOut (r : BitVec 512) : Prop :=
      InDims r.toNat (og 4) (og 5) (og 6) (og 7) e0 e1 ∧ ¬InWindow size r.toNat (og 4) (og 5) (og 6) (og 7) e0 e1
    let perm (i : Instr) (j : BitVec 5) : Prop := Acts i s t g h → HasPart s t → EffectTrap i s t g h 0x07 (BitVec.ofNat 32 j.toNat) 0 0 0
    -- CPY
    (∀ op ≤ 5, ∀ x y, let i := cpyForms h sc k a b o e op
      let d0 := if e.xpose then e1 else e0
      let d1 := if e.xpose then e0 else e1
      slot a = some x → slot b = some y → layRole x.toNat = layRole y.toNat → RoleOk x.toNat → RoleOk y.toNat →
      Crosses (layTy x.toNat) (layTy y.toNat) →
      (layRole x.toNat = 1 → layQ16 x.toNat = layQ16 y.toNat ∧ layCap x.toNat = layCap y.toNat) →
      (e.xpose = true → layRole x.toNat = 0) →
      (op ≠ 0 → layRole x.toNat = 0 ∧ Reduces op (layTy y.toNat) ∧ laySp y.toNat = false) →
      (srcIn x → BoxIn size y.toNat (og 4) (og 5) (og 6) (og 7) d0 d1 → may i → starts i sc (.copy op x y list e0 e1 e.xpose)) ∧
      (layDim x.toNat 0 < og 0 + e0 → perm i a) ∧
      (srcOut x → InDims y.toNat (og 4) (og 5) (og 6) (og 7) d0 d1 → perm i a) ∧
      (srcIn x → InDims y.toNat (og 4) (og 5) (og 6) (og 7) d0 d1 → ¬InWindow size y.toNat (og 4) (og 5) (og 6) (og 7) d0 d1 →
        perm i b)) ∧
    -- GSC
    (∀ op ≤ 2, ∀ x y z, let i := gscForms h sc k a b e op
      let rows := layDim z.toNat 0
      let width := layDim x.toNat 0
      slot a = some x → slot b = some y → slot e.aux = some z → layRole x.toNat = 0 → layRole y.toNat = 0 →
      layRole z.toNat = 0 → Crosses (layTy x.toNat) (layTy y.toNat) → layTy z.toNat = .n32 → layRank z.toNat = 1 → 1 ≤ rows →
      rows ≤ 65536 → width = layDim y.toNat 0 → (op = 2 → Reduces 1 (layTy y.toNat) ∧ laySp y.toNat = false) →
      (let r := if op = 0 then y.toNat else x.toNat
       1 < layRank r → rows ≤ layDim r 1) →
      let inX : Prop := InWindow size x.toNat 0 0 0 0 width (if op = 0 then layDim x.toNat 1 else rows)
      let inY : Prop := InWindow size y.toNat 0 0 0 0 width (if op = 0 then rows else layDim y.toNat 1)
      let inZ : Prop := laySp z.toNat = true → layBase z.toNat + 4 * rows ≤ size
      (inX → inY → inZ → may i → starts i sc (.gather op x y z)) ∧ (¬inX → perm i a) ∧ (inX → ¬inY → perm i b) ∧
      (inX → inY → ¬inZ → perm i e.aux)) ∧
    -- ENC, DEC
    (∀ x y z, let i : Instr := .enc h sc k a b o e
      slot a = some x → slot b = some y → slot e.aux = some z → layRole x.toNat = 0 →
      layTy x.toNat = .bf16 ∨ layTy x.toNat = .f32 → layRole y.toNat = 1 → RoleOk y.toNat → layRole z.toNat = 2 → RoleOk z.toNat →
      WholeTiles gr o e0 e1 → ParamsOk y.toNat →
      (srcIn x → dstIn y → dstIn z → may i → starts i sc (.enc x y z list e0 e1)) ∧
      (srcIn x → dstIn y → layDim z.toNat 0 < og 4 + e0 → perm i e.aux) ∧
      (srcOut x → InDims y.toNat (og 4) (og 5) (og 6) (og 7) e0 e1 → perm i a) ∧ (srcIn x → dstOut y → perm i b) ∧
      (srcIn x → dstIn y → dstOut z → perm i e.aux)) ∧
    (∀ bf x y z, let i := decForms h sc k a b o e bf
      slot a = some x → slot b = some y → slot e.aux = some z → layRole x.toNat = 1 → RoleOk x.toNat →
      layRole y.toNat = 0 → layTy y.toNat = (if bf then .bf16 else .f32) → layRole z.toNat = 2 → RoleOk z.toNat →
      WholeTiles gr o e0 e1 →
      (srcIn x → dstIn y → srcIn z → may i → starts i sc (.dec bf x y z list e0 e1)) ∧
      (srcIn x → dstIn y → layDim z.toNat 0 < og 0 + e0 → perm i e.aux) ∧
      (srcOut x → InDims y.toNat (og 4) (og 5) (og 6) (og 7) e0 e1 → perm i a) ∧ (srcIn x → dstOut y → perm i b) ∧
      (srcIn x → dstIn y → srcOut z → perm i e.aux)) ∧
    -- FEED
    (∀ f ≤ 2, ∀ x, let i := feedForms h k a o e f
      let streams : Prop := (s.team t).seq.named = true ∧ bitOf (s.team t).seq.stat.toNat 2 = false
      (streams → slot a = some x → RoleOk x.toNat →
        (if f = 2 then layRole x.toNat = 2 else layRole x.toNat = 1 ∨ (layRole x.toNat = 0 ∧ layTy x.toNat = .bf16)) →
        e0 % 64 = 0 → e1 % 16 = 0 → og 0 % 64 = 0 → og 1 % 16 = 0 →
        (f = 2 → og 4 % 16 = 0 ∧ layStride x.toNat 1 % 16 = 0 ∧ (∀ j, 2 ≤ j → j < layRank x.toNat → layStride x.toNat j % 16 = 0) ∧
          og 4 + 16 * (e0 / 64 * (e1 / 16)) ≤ 65536) →
        (srcIn x → may i → starts i .dev (.feed f x list e0 e1)) ∧ (srcOut x → perm i a)) ∧
      (¬streams → Acts i s t g h → HasPart s t → EffectTrap i s t g h 0x01 7 0 0 0)) ∧
    -- an empty slot; a token in flight
    (∀ i, (∃ op ≤ 5, i = cpyForms h sc k a b o e op) ∨ (∃ op ≤ 2, i = gscForms h sc k a b e op) ∨ i = .enc h sc k a b o e ∨
        (∃ f, i = decForms h sc k a b o e f) →
      slot a = none ∨ slot b = none → Acts i s t g h → HasPart s t → EffectTrap i s t g h 0x0D 0 0 0 0) ∧
    (∀ x y c m, slot a = some x → slot b = some y → layRole x.toNat = 0 → layRole y.toNat = 0 → layTy x.toNat = layTy y.toNat →
      e.xpose = false → srcIn x → dstIn y → Acts (.cpy h sc k a b o e) s t g h →
      ((∀ j, barOf e = some j → j < (s.launchOf t).bars) → gr.token k.toNat = .names c → s.cmds[c]? = some m → m.status = none →
        exec (.cpy h sc k a b o e) s = .next s) ∧
      (∀ j, barOf e = some j → (s.launchOf t).bars ≤ j → HasPart s t →
        EffectTrap (.cpy h sc k a b o e) s t g h 0x01 (BitVec.ofNat 32 j) 0 0 1))

open Sys2Proof Sys2Proof.Machine Sys2Proof.Claims in
/-- R210, R287, R368: NMC, COLL and FORK read their block as the group's own load and start one command on it. A block of a
collective that is not 128-byte aligned, and a list of FORK that is not 64-byte aligned, traps ALIGN; a block of NMC that
is not 64-byte aligned traps ILL. A COLL starts at its group's scope, FORK, which has none, at .dev. -/
def Obligations.BlockCommandsStart : Prop :=
  ∀ (s : State) (t g : Nat) (h : Hdr) (k : BitVec 4) (a : BitVec 6) (x : Nat),
    let gr := s.grp t g
    let va := regGet gr (.s a) 0 2
    let la := s.launchOf t
    let misaligned (i : Instr) (va : Nat) : Prop :=
      EffectTrap i s t g h 0x04 (BitVec.ofNat 32 va) (BitVec.ofNat 32 (va / 2 ^ 32)) 0 0
    -- NMC
    (∀ (sc : Scope) (op : Nat), op ≤ 3 → let i := nmcForms h sc k a op
      let bar := if x.testBit 232 then some (x / 2 ^ 224 % 256) else none
      (va % 64 = 0 → MayStart i s t g h k.toNat bar → BlockIs s t g h a va 2 x → x / 2 ^ 206 % 2 ^ 18 = 0 →
        x / 2 ^ 233 % 2 ^ 23 = 0 → x / 2 ^ 416 % 2 ^ 96 = 0 →
        (x.testBit 127 = true → x / 2 ^ 64 % 2 ^ 32 + nmcItems op x * nmcSize op x ≤ la.scratchBytes) → nmcForm op x = true →
        Starts i s t g k.toNat sc (.nmc op (BitVec.ofNat 512 x)) bar none) ∧
      (va % 64 ≠ 0 → Acts i s t g h → HasPart s t → EffectTrap i s t g h 0x01 0 0 0 0)) ∧
    -- COLL
    (∀ (resume : Bool) (c : CollGroup) (r : Nat), let i : Instr := if resume then .collResume h k a else .collStart h k a
      let bar := if x.testBit 456 then some (x / 2 ^ 448 % 256) else none
      let port := if x.testBit 457 then some (0, BitVec.ofNat 16 (x / 2 ^ 458)) else none
      let id : BitVec 16 := BitVec.ofNat 16 (x / 2 ^ 16)
      (va % 128 = 0 → MayStart i s t g h k.toNat bar → BlockIs s t g h a va 4 x → blkBad x = false →
        collOf s la.part id = some c → rankOf c la.lid = some r →
        (x % 16 = 3 ∨ (x % 16 = 5 ∧ x / 2 ^ 288 % 2 ^ 32 ≠ 0xFFFFFFFF) → x / 2 ^ 288 % 2 ^ 32 < c.members.length) →
        Starts i s t g k.toNat c.scope (.coll resume (BitVec.ofNat 1024 x) id.toNat r) bar port) ∧
      (va % 128 = 0 → Acts i s t g h → BlockIs s t g h a va 4 x → blkBad x = false → collOf s la.part id = none →
        (s.grp t g).handler = false → (s.team t).trapBase ≠ 0 →
        ∃ s', exec i s = .next s' ∧ s'.mem = s.mem ∧ s'.cmds = s.cmds ∧ (s'.grp t g).handler = true ∧
          (s'.grp t g).cause = 0x01 ∧ (s'.grp t g).tpc = gr.issuePc ∧ (s'.grp t g).info0 = id.setWidth 32) ∧
      (va % 128 ≠ 0 → Acts i s t g h → HasPart s t → misaligned i va)) ∧
    -- FORK
    (∀ (b : BitVec 6) (y : Nat), let i : Instr := .fork h k a b
      let vb := regGet gr (.s b) 0 2
      (va % 64 = 0 → vb % 64 = 0 → MayStart i s t g h k.toNat none → BlockIs s t g h a va 2 x → BlockIs s t g h b vb 2 y →
        x / 2 ^ 160 = 0 → y / 2 ^ 160 = 0 → x % 2 ^ 32 ≤ y / 2 ^ 32 % 2 ^ 32 →
        Starts i s t g k.toNat .dev (.fork (BitVec.ofNat 64 va) (BitVec.ofNat 64 vb) (x % 2 ^ 32)) none none) ∧
      (va % 64 ≠ 0 → Acts i s t g h → HasPart s t → misaligned i va) ∧
      (va % 64 = 0 → vb % 64 ≠ 0 → Acts i s t g h → HasPart s t → misaligned i vb))

namespace Sys2Proof.Claims

open Sys2Proof.Machine

/-- Command n is in flight for team t, nothing holds it, its team is on a core, no error stands in storage. -/
def Runs (s : State) (n : Nat) (c : Cmd) (t : Nat) : Prop :=
  s.cmds[n]? = some c ∧ c.team = some t ∧ t < s.teams.length ∧ c.status = none ∧ c.fault = none ∧ c.ending = none ∧
    (s.team t).phase = .resident ∧ s.ecc = []
/-- Bytes of a command count on its barrier (11 R237). -/
def Counted (s s' : State) (t : Nat) (c : Cmd) (n : Nat) : Prop :=
  match c.bar with
  | none => (s'.team t).bars = (s.team t).bars
  | some b => (n = 0 → (s'.team t).bars = (s.team t).bars) ∧ (n ≠ 0 → NoneWaits s t b → ∀ r, (s.team t).bars[b]? = some r →
      ∃ x : BitVec 56, x.toInt = max (-(2 ^ 55)) (r.pending.toInt - n) ∧
        BarrierIs s s' t b (Settles { r with pending := x, touched := true }))
/-- Command n is changed so, no other. -/
def CommandIs (s s' : State) (n : Nat) (c : Cmd) : Prop := s'.cmds = s.cmds.set n c
/-- The offset in the window of an element, of a record, of a scale byte (13 R264). -/
def spAt (r off : Nat) : Nat := (layBase r + off) % 2 ^ 32

/-- An access of a command passes its checks on ordinary memory that can be reached, whatever stands at the addresses W. -/
def EngPasses (s : State) (c : Cmd) (W : Nat → Prop) (write : Bool) (va n : Nat) (ps : List Piece) : Prop :=
  (∀ e ∈ ps, isRemote e.1.pa = false ∧ isDev e.1.pa = false ∧ (write = true → needsCopy s e.1 = false) ∧
    ∀ d, homeDie (s.part c.part) e.1.pa = some d →
      (s.die d).lost = false ∧ (s.die d).linkState = 0 ∧ (s.die c.die).linkState = 0) ∧
  ∀ m : Memory, (∀ a, ¬W a → m.get a = s.mem.get a) →
    engAccess { s with mem := m } (whoCmd c) c.lives write false va n = .ok ps

/-- Table 13.11: the elements of the receive buffer of rank r of N, with blocks of COUNT elements. -/
def collElements (x N r : Nat) : Nat :=
  let k := x / 2 ^ 192 % 2 ^ 64
  let root := x / 2 ^ 288 % 2 ^ 32
  if x % 16 = 0 ∨ x % 16 = 1 ∨ x % 16 = 3 then k
  else if x % 16 = 2 ∨ x % 16 = 4 then N * k
  else if root = 0xFFFFFFFF ∨ root = r then N * k else 0
/-- Table 13.11: the rank and the element of its send buffer that element e of the receive buffer of rank r comes from. -/
def collOperands (x N r e : Nat) : List (Nat × Nat) :=
  let k := x / 2 ^ 192 % 2 ^ 64
  if x % 16 = 0 then (List.range N).map fun q => (q, e)
  else if x % 16 = 1 then (List.range N).map fun q => (q, r * k + e)
  else if x % 16 = 3 then [(x / 2 ^ 288 % 2 ^ 32, e)]
  else if x % 16 = 4 then [(e / k, r * k + e % k)]
  else [(e / k, e % k)]
/-- The bytes of an element; a record-gather moves bytes. -/
def collSize (x : Nat) : Nat := if x % 16 = 5 then 1 else tyBytes (blkTy x)
/-- One tree level: neighbours combine, an odd last one is carried up (13 R279). -/
def treeLevel (f : Nat → Nat → Nat) (vs : List Nat) : List Nat :=
  (List.range ((vs.length + 1) / 2)).map fun i =>
    if 2 * i + 1 < vs.length then f (vs.getD (2 * i) 0) (vs.getD (2 * i + 1) 0) else vs.getD (2 * i) 0
/-- All combined, two at a time, in some order (13 R279). -/
inductive Combines (f : Nat → Nat → Nat) : List Nat → Nat → Prop
  | one (v : Nat) : Combines f [v] v
  | both (vs xs ys : List Nat) (x y : Nat) : vs.Perm (xs ++ ys) → Combines f xs x → Combines f ys y → Combines f vs (f x y)
/-- The order of combination: fixed by the block (ring and direct: ascending ranks; tree: level by level), or any
(13 R279). -/
def CombinedAs (f : Nat → Nat → Nat) (x : Nat) (vs : List Nat) (v : Nat) : Prop :=
  (x.testBit 15 = true → x / 2 ^ 13 % 4 ≠ 1 → v = vs.tail.foldl f (vs.headD 0)) ∧
  (x.testBit 15 = true → x / 2 ^ 13 % 4 = 1 → ∃ k, (treeLevel f)^[k] vs = [v]) ∧
  (x.testBit 15 = false → Combines f vs v)
/-- The block of a COLL. -/
def blockOf (c : Cmd) : Nat :=
  match c.kind with
  | .coll _ b _ _ => b.toNat
  | _ => 0
/-- Every member of a group is on this part, and its command of the same collective runs: rank q's is number cm q. -/
def AllHere (s : State) (c : Cmd) (g : CollGroup) (r n : Nat) (cm : Nat → Nat) (cs : Nat → Cmd) (x : Nat) : Prop :=
  collOf s c.part g.id = some g ∧ collPeers s c.part g c.inst = some ((List.range g.members.length).map fun q => (q, cm q)) ∧
  r < g.members.length ∧ cm r = n ∧ cs r = c ∧
  ∀ q < g.members.length, s.cmds[cm q]? = some (cs q) ∧ (cs q).status = none ∧ (q ≠ r → cm q ≠ n) ∧
    -- the blocks agree (13 R276)
    blockOf (cs q) % 2 ^ 39 = x % 2 ^ 39 ∧ blockOf (cs q) / 2 ^ 192 % 2 ^ 64 = x / 2 ^ 192 % 2 ^ 64 ∧
    blockOf (cs q) / 2 ^ 256 % 2 ^ 64 = x / 2 ^ 256 % 2 ^ 64

end Sys2Proof.Claims

namespace Sys2Proof.Claims

open Sys2Proof.Machine

/-! The chunks of a command. What an item reads and writes, by 13 R264 to R273, R283 to R290, 08 R197, R210; how a command is cut
into items and chunks is log 27, how many bytes an item counts is log 47. -/

/-- Command n is in flight, nothing holds it, its team, if it has one, is on a core, no error stands in storage, no store
waits; its writes are performed as the engine chooses (13 R270). -/
def InFlight (s : State) (n : Nat) (c : Cmd) : Prop :=
  s.cmds[n]? = some c ∧ c.id = n ∧ c.status = none ∧ c.fault = none ∧ c.ending = none ∧ c.prompt = false ∧
    (∀ t, c.team = some t → t < s.teams.length ∧ (s.team t).phase = .resident) ∧ s.ecc = [] ∧ s.buffer = [] ∧
    (∀ f r o a b, c.kind ≠ .feed f r o a b) ∧ ∀ r b g k, c.kind ≠ .coll r b g k
/-- Every chunk whose checks have passed is performed. -/
def Settled (c : Cmd) : Prop := c.held = [] ∧ ∀ k < c.sizes.length, k ∈ c.doneChunks
/-- A command as it stands after its end with a status (13 R269). -/
def ended (c : Cmd) (st : Byte) : Cmd := { c with status := some st, early := [], held := [], rows := [], signalled := true }

/-- A read of an item: where, how many bytes, whether a page that no cache serves takes it (08 R185). -/
structure Get where
  loc   : Loc
  size  : Nat
  words : Bool := false
/-- A write of an item: besides, the operation that combines it with what stands there (13 R271), and the value. -/
structure Put where
  loc   : Loc
  size  : Nat
  words : Bool := false
  red   : Option (AtomOp × Ty) := none
  value : Nat
/-- What an item reads, writes and counts. -/
structure Work where
  gets  : List Get
  puts  : List Put
  bytes : Nat

/-- n bytes in pieces of 32. -/
def pieces32 (n : Nat) : List (Nat × Nat) := (List.range ((n + 31) / 32)).map fun j => (32 * j, min 32 (n - 32 * j))
def longGets (l : Loc) (n : Nat) : List Get := (pieces32 n).map fun p => { loc := l.plus p.1, size := p.2 }
def longAt (f : Loc → Nat → Nat) (l : Loc) (n : Nat) : Nat := ((pieces32 n).map fun p => f (l.plus p.1) p.2 * 256 ^ p.1).sum
def longPuts (l : Loc) (n v : Nat) : List Put :=
  (pieces32 n).map fun p => { loc := l.plus p.1, size := p.2, value := v / 256 ^ p.1 % 256 ^ p.2 }
/-- An element read, and an element written or combined with what stands there. -/
def eltGet (t : Ty) (l : Loc) : Get := { loc := l, size := tyBytes t, words := bitTy t }
def eltPut (op : Nat) (t : Ty) (l : Loc) (v : Nat) : Put :=
  { loc := l, size := tyBytes t, words := bitTy t, red := if op = 0 then none else some (redOp op, t), value := v }

/-- The row of an item whose source or destination an index names, and where that index stands (13 R284, 08 R210). -/
def rowOf (k : CmdKind) (i : Nat) : Option Nat :=
  match k with
  | .gather _ src _ _ => some (i / layDim src.toNat 0)
  | .nmc 0 b => some (i / (b.toNat / 2 ^ 384 % 2 ^ 32 / 32))
  | _ => none
def indexLoc (k : CmdKind) (row : Nat) : Loc :=
  match k with
  | .gather _ _ _ idx => layLoc idx.toNat (4 * row)
  | .nmc _ b => .glb ((b.toNat / 2 ^ 256 % 2 ^ 64 + 4 * row) % 2 ^ 64)
  | _ => .sp 0

/-- Item i of a CPY: an element, a record, a scale byte (13 R283). -/
def copyWork (f : Loc → Nat → Nat) (op x y : Nat) (o : Nat → Nat) (e0 e1 : Nat) (xp : Bool) (i : Nat) : Work :=
  let k := i % kSteps (o 0) e0
  let r := i / kSteps (o 0) e0
  if layRole x = 0 then
    let a := layLoc x (eltOff x (o 0 + i % e0) (o 1 + i / e0) (o 2) (o 3))
    let b := layLoc y (eltOff y (o 4 + if xp then i / e0 else i % e0) (o 5 + if xp then i % e0 else i / e0) (o 6) (o 7))
    { gets := [eltGet (layTy x) a], bytes := tyBytes (layTy y),
      puts := [eltPut op (layTy y) b (crossVal (layTy x) (layTy y) (f a (tyBytes (layTy x))))] }
  else if layRole x = 1 then
    let n := recSize (layQ16 x) (layCap x)
    let a := layLoc x (recOff x (o 0 / 64 + k) (o 1 / 16 + r) (o 2) (o 3))
    let b := layLoc y (recOff y (o 4 / 64 + k) (o 5 / 16 + r) (o 6) (o 7))
    { gets := longGets a n, puts := longPuts b n (longAt f a n), bytes := n }
  else
    let a := layLoc x (scaleOff x (o 0 / 64 + k) ((o 1 + r) / 16) (o 2) (o 3) + (o 1 + r) % 16)
    let b := layLoc y (scaleOff y (o 4 / 64 + k) ((o 5 + r) / 16) (o 6) (o 7) + (o 5 + r) % 16)
    { gets := [{ loc := a, size := 1 }], puts := [{ loc := b, size := 1, value := f a 1 }], bytes := 1 }

/-- Item i of a GSC: element j of a row, with the row's index; beyond the indexed side, zero to a gather, nothing to a
scatter (13 R284). -/
def gatherWork (f : Loc → Nat → Nat) (ix : Nat → Nat) (op x y i : Nat) : Work :=
  let row := i / layDim x 0
  let j := i % layDim x 0
  let q := ix row
  let other := if op = 0 then x else y
  let b := layLoc y (eltOff y j (if op = 0 then row else q) 0 0)
  if 1 < layRank other ∧ layDim other 1 ≤ q then
    if op = 0 then { gets := [], puts := [eltPut 0 (layTy y) b 0], bytes := tyBytes (layTy y) } else { gets := [], puts := [], bytes := 0 }
  else
    let a := layLoc x (eltOff x j (if op = 0 then q else row) 0 0)
    { gets := [eltGet (layTy x) a], bytes := tyBytes (layTy y),
      puts := [eltPut (if op = 2 then 1 else 0) (layTy y) b (crossVal (layTy x) (layTy y) (f a (tyBytes (layTy x))))] }

/-- The superscales of a row of scale bytes that begins at an offset. -/
def superAts (scl so : Nat) : List Nat := if so / 256 = (so + 15) / 256 then [so] else [so, so + 15]
/-- The elements of a tile of an ENC as FP32, and what the codec makes of them (13 R288, 03 R75, R76). -/
def encLocs (x : Nat) (o : Nat → Nat) (e1 i : Nat) : List Loc :=
  (List.range 1024).map fun j => layLoc x (eltOff x (o 0 + 64 * (i / (e1 / 16)) + j % 64) (o 1 + 16 * (i % (e1 / 16)) + j / 64) (o 2) (o 3))
def encTile (f : Loc → Nat → Nat) (x y : Nat) (o : Nat → Nat) (e1 i : Nat) : Except Nat (Nat × Nat) :=
  encodeTile (layQ16 y) (layCap y) (laySpill y) (layTheta y) (laySuper y)
    ((encLocs x o e1 i).map fun l => f l (tyBytes (layTy x)) * if layTy x = .bf16 then 2 ^ 16 else 1)
def encWork (f : Loc → Nat → Nat) (x y z : Nat) (o : Nat → Nat) (e1 i : Nat) : Work :=
  let kb := o 4 / 64 + i / (e1 / 16)
  let rt := o 5 / 16 + i % (e1 / 16)
  let so := scaleOff z kb rt (o 6) (o 7)
  let n := recSize (layQ16 y) (layCap y)
  { gets := (encLocs x o e1 i).map (eltGet (layTy x)), bytes := n + 20,
    puts := match encTile f x y o e1 i with
      | .error _ => []
      | .ok (r, bs) => longPuts (layLoc y (recOff y kb rt (o 6) (o 7))) n r ++ longPuts (layLoc z so) 16 bs ++
          (superAts z so).map fun a => { loc := superLoc z a, size := 4, value := laySuper y } }

/-- The record, the scale bytes and the superscales of a tile of a DEC (13 R290). -/
def decTile (x z : Nat) (o : Nat → Nat) (e1 i : Nat) : Loc × Nat :=
  let kb := o 0 / 64 + i / (e1 / 16)
  let rt := o 1 / 16 + i % (e1 / 16)
  (layLoc x (recOff x kb rt (o 2) (o 3)), scaleOff z kb rt (o 2) (o 3))
def decSound (f : Loc → Nat → Nat) (x z : Nat) (o : Nat → Nat) (e1 i : Nat) : Prop :=
  let p := decTile x z o e1 i
  recordOk (layQ16 x) (layCap x) (longAt f p.1 (recSize (layQ16 x) (layCap x))) = true ∧
    ∀ j < 16, goodSuper (f (superLoc z (p.2 + j)) 4) = true
def decWork (f : Loc → Nat → Nat) (bf16 : Bool) (x y z : Nat) (o : Nat → Nat) (e1 i : Nat) : Work :=
  let p := decTile x z o e1 i
  let n := recSize (layQ16 x) (layCap x)
  let t : Ty := if bf16 then .bf16 else .f32
  { gets := longGets p.1 n ++ longGets (layLoc z p.2) 16 ++ (List.range 16).map fun j => { loc := superLoc z (p.2 + j), size := 4 },
    bytes := 1024 * tyBytes t,
    puts := (List.range 1024).map fun j =>
      { loc := layLoc y (eltOff y (o 4 + 64 * (i / (e1 / 16)) + j % 64) (o 5 + 16 * (i % (e1 / 16)) + j / 64) (o 6) (o 7)),
        size := tyBytes t,
        value := ((fmtOf t).write .rne false true (recVal (layQ16 x) (longAt f p.1 n) j
          (f (layLoc z p.2) 16 / 256 ^ (j / 64) % 256) (f (superLoc z (p.2 + j / 64)) 4))).1 } }

/-- Item i of an NMC (08 R197, R210); `ph`: 32 bytes at a physical address. -/
def nmcEntry (b page : Nat) : Loc := .glb ((b % 2 ^ 64 + 64 + 8 * page) % 2 ^ 64)
def nmcFrame (f : Loc → Nat → Nat) (ix : Nat → Nat) (b i : Nat) : Nat :=
  let per := b / 2 ^ 384 % 2 ^ 32 / 32
  f (nmcEntry b (ix (i / per))) 8 / 2 ^ 16 % 2 ^ 36 * 2 ^ 16 + (b / 2 ^ 352 % 2 ^ 32 + 32 * (i % per))
def nmcWork (f : Loc → Nat → Nat) (ix : Nat → Nat) (ph : Nat → Nat) (op b i : Nat) : Work :=
  let n := nmcSize op b
  let at_ (t : Nat) : Loc := .glb ((b % 2 ^ 64 + t * i) % 2 ^ 64)
  let put (words : Bool) (red : Option (AtomOp × Ty)) (v : Nat) : List Put :=
    [{ loc := (nmcDst b).plus (n * i), size := n, words := words, red := red, value := v }]
  match op with
  | 0 =>
    { gets := [{ loc := .glb (b % 2 ^ 64), size := 4 }, { loc := nmcEntry b (ix (i / (b / 2 ^ 384 % 2 ^ 32 / 32))), size := 8 }],
      puts := put false none (ph (nmcFrame f ix b i)), bytes := n }
  | 1 => { gets := [{ loc := at_ 32, size := 32 }], puts := put false none (f (at_ 32) 32), bytes := n }
  | 2 =>
    let t := nmcS b
    { gets := [eltGet t (at_ (tyBytes t))], bytes := n,
      puts := put (bitTy (nmcD b)) none (cvtBytes t (nmcD b) (f (at_ (tyBytes t)) (tyBytes t))) }
  | _ =>
    { gets := [eltGet (nmcD b) (at_ n)], bytes := n,
      puts := put (bitTy (nmcD b)) (some (redOp (b / 2 ^ 202 % 16 + 1), nmcD b)) (f (at_ n) n) }

/-- Item i of a copy packet (13 R273, Table 13.7). -/
def packetWork (f : Loc → Nat → Nat) (b i : Nat) : Work :=
  let n := b / 2 ^ 192 % 2 ^ 32
  let place (lo stride size : Nat) : Loc :=
    .glb ((b / 2 ^ lo % 2 ^ 64 + i / n * (b / 2 ^ stride % 2 ^ 64) + i % n * size) % 2 ^ 64)
  let a := place 64 256 (tyBytes (pktS b))
  { gets := [eltGet (pktS b) a], bytes := tyBytes (pktD b),
    puts := [eltPut (b / 2 ^ 18 % 16) (pktD b) (place 128 320 (tyBytes (pktD b))) (crossVal (pktS b) (pktD b) (f a (tyBytes (pktS b))))] }

/-- What item i of a command reads, writes and counts; `f`: the bytes at a place, `ix`: the index of a row. -/
def workOf (f : Loc → Nat → Nat) (ix : Nat → Nat) (ph : Nat → Nat) (k : CmdKind) (i : Nat) : Work :=
  match k with
  | .copy op src dst org e0 e1 xp => copyWork f op src.toNat dst.toNat (fun j => (org.getD j 0).toNat) e0 e1 xp i
  | .gather op src dst _ => gatherWork f ix op src.toNat dst.toNat i
  | .enc src body scl org _ e1 => encWork f src.toNat body.toNat scl.toNat (fun j => (org.getD j 0).toNat) e1 i
  | .dec b body dst scl org _ e1 => decWork f b body.toNat dst.toNat scl.toNat (fun j => (org.getD j 0).toNat) e1 i
  | .nmc op b => nmcWork f ix ph op b.toNat i
  | .packet b => packetWork f b.toNat i
  | _ => { gets := [], puts := [], bytes := 0 }

/-- A place of memory that the command reaches: on the part, no device, its die and the link to it up. -/
def InReach (s : State) (c : Cmd) (a : Nat) : Prop :=
  isRemote a = false ∧ isDev a = false ∧ ∀ d, homeDie (s.part c.part) a = some d →
    (s.die d).lost = false ∧ (s.die d).linkState = 0 ∧ (s.die c.die).linkState = 0
/-- What passes 08 R182 and the window's bound; `rd`, `wr`: where the bytes of an access lie. -/
def CanGet (s : State) (c : Cmd) (rd : Nat → Nat → List Piece) (g : Get) : Prop :=
  match g.loc with
  | .sp o => ∃ t, c.team = some t ∧ o + g.size ≤ (s.launchOf t).scratchBytes
  | .glb va => engAccess s (whoCmd c) c.lives false g.words va g.size = .ok (rd va g.size) ∧ ∀ e ∈ rd va g.size, InReach s c e.1.pa
/-- A reduction of CPY, of GSC and of a packet acts on aligned global memory (13 R271), NMC's where it lies (08 R210). -/
def Aligned (c : Cmd) (p : Put) : Prop :=
  p.red.isSome = true → (∃ op b, c.kind = .nmc op b) ∨ ∃ va, p.loc = .glb va ∧ va % p.size = 0
def CanPut (s : State) (c : Cmd) (wr : Nat → Nat → List Piece) (p : Put) : Prop :=
  Aligned c p ∧ match p.loc with
  | .sp o => ∃ t, c.team = some t ∧ o + p.size ≤ (s.launchOf t).scratchBytes
  | .glb va => engAccess s (whoCmd c) c.lives true p.words va p.size = .ok (wr va p.size) ∧
      ∀ e ∈ wr va p.size, InReach s c e.1.pa ∧ needsCopy s e.1 = false
/-- What stands at a place. -/
def seen (s : State) (c : Cmd) (rd : Nat → Nat → List Piece) (l : Loc) (n : Nat) : Nat :=
  match l, c.team with
  | .glb va, _ => valueIn s.mem (rd va n)
  | .sp o, some t => bytesAt (s.team t).scratch o n
  | .sp _, none => 0
/-- The index of a row: as the command has read it, else as it stands. -/
def indexAs (c : Cmd) (f : Loc → Nat → Nat) (row : Nat) : Nat :=
  match c.rows.find? fun e => e.1 == row with
  | some e => e.2.1
  | none => f (indexLoc c.kind row) 4
/-- The work of an item in a state; `fr`: where the frames of physical addresses lie. -/
def workIn (s : State) (c : Cmd) (rd : Nat → Nat → List Piece) (fr : Nat → Nat) (i : Nat) : Work :=
  workOf (seen s c rd) (indexAs c (seen s c rd)) (fun pa => bytesAt s.mem (fr pa) 32) c.kind i
/-- The row's index can be read, or has been. -/
def IndexOk (s : State) (c : Cmd) (rd : Nat → Nat → List Piece) (i : Nat) : Prop :=
  ∀ row, rowOf c.kind i = some row → c.rows.find? (fun e => e.1 == row) = none →
    CanGet s c rd { loc := indexLoc c.kind row, size := 4 }
/-- What an item's own data must be for its writes to be made: a tile that encodes, a record and superscales that pass
(13 R288, R290), a page that the list holds, in the command's world (08 R197, 22 R407). -/
def DataOk (s : State) (c : Cmd) (rd : Nat → Nat → List Piece) (fr : Nat → Nat) (i : Nat) : Prop :=
  let f := seen s c rd
  match c.kind with
  | .enc src body _ org _ e1 => ∃ x, encTile f src.toNat body.toNat (fun j => (org.getD j 0).toNat) e1 i = .ok x
  | .dec _ body _ scl org _ e1 => decSound f body.toNat scl.toNat (fun j => (org.getD j 0).toNat) e1 i
  | .nmc 0 b =>
    let page := indexAs c f (i / (b.toNat / 2 ^ 384 % 2 ^ 32 / 32))
    let pa := nmcFrame f (indexAs c f) b.toNat i
    page < f (.glb (b.toNat % 2 ^ 64)) 4 ∧ f (nmcEntry b.toNat page) 8 % 2 = 1 ∧
      resolve s c.part pa = some (fr pa) ∧ granuleWorld s (fr pa) = c.world ∧ InReach s c (fr pa)
  | _ => True
/-- An item passes all its checks. -/
def Goes (s : State) (c : Cmd) (rd wr : Nat → Nat → List Piece) (fr : Nat → Nat) (i : Nat) : Prop :=
  let w := workIn s c rd fr i
  IndexOk s c rd i ∧ (∀ g ∈ w.gets, CanGet s c rd g) ∧ DataOk s c rd fr i ∧ ∀ p ∈ w.puts, CanPut s c wr p

/-- An access that fails with a status and an address (08 R184, 13 Table 13.4). -/
def GetFails (s : State) (c : Cmd) (g : Get) (a : Nat) : Prop :=
  match g.loc with
  | .sp o => a = o ∧ ∀ t, c.team = some t → (s.launchOf t).scratchBytes < o + g.size
  | .glb va => engAccess s (whoCmd c) c.lives false g.words va g.size = .error (1, a)
def PutFails (s : State) (c : Cmd) (p : Put) (st : Byte) (a : Nat) : Prop :=
  match p.loc with
  | .sp o => st = 1 ∧ a = o ∧ p.red = none ∧ ∀ t, c.team = some t → (s.launchOf t).scratchBytes < o + p.size
  | .glb va => (st = 1 ∧ a = va ∧ ¬Aligned c p) ∨
      (Aligned c p ∧ engAccess s (whoCmd c) c.lives true p.words va p.size = .error (st, a))
/-- An item is stopped at the first of its accesses that fails. -/
def StoppedAt (s : State) (c : Cmd) (rd wr : Nat → Nat → List Piece) (fr : Nat → Nat) (i : Nat) (st : Byte) (a : Nat) : Prop :=
  let w := workIn s c rd fr i
  (st = 1 ∧ ∃ row, rowOf c.kind i = some row ∧ c.rows.find? (fun e => e.1 == row) = none ∧
    GetFails s c { loc := indexLoc c.kind row, size := 4 } a) ∨
  (st = 1 ∧ (∀ op b, c.kind ≠ .nmc op b) ∧ IndexOk s c rd i ∧ ∃ j g, w.gets[j]? = some g ∧ (∀ x ∈ w.gets.take j, CanGet s c rd x) ∧
    GetFails s c g a) ∨
  (IndexOk s c rd i ∧ (∀ g ∈ w.gets, CanGet s c rd g) ∧ DataOk s c rd fr i ∧
    ∃ j p, w.puts[j]? = some p ∧ (∀ x ∈ w.puts.take j, CanPut s c wr x) ∧ PutFails s c p st a)

/-- A write that waits in a command, as an item makes it. -/
def HeldIs (wr : Nat → Nat → List Piece) (x : Nat × Put) (h : Held) : Prop :=
  h.item = x.1 ∧ h.red = x.2.red ∧ h.value % 256 ^ x.2.size = x.2.value % 256 ^ x.2.size ∧
  match x.2.loc with
  | .sp o => h.sp = true ∧ h.spans = [(o, x.2.size)] ∧ h.dev = false
  | .glb va => h.sp = false ∧ h.spans = spansOf (wr va x.2.size) ∧ h.dev = anyDevice (wr va x.2.size)
/-- Items have read and passed their checks: their writes stand in the command, the latest first; the rows' indexes that
they have read stay there; otherwise the command is as `up` says, and only TOUCHED_DIES of its team changes. -/
def ItemsPass (s s' : State) (n : Nat) (c : Cmd) (rd wr : Nat → Nat → List Piece) (fr : Nat → Nat) (items : List Nat)
    (up : Cmd → Cmd) : Prop :=
  ∃ hs rows, s' = { s with cmds := s.cmds.set n (up { c with held := hs.reverse ++ c.held, rows := rows }), teams := s'.teams } ∧
    (∀ u, s'.team u = { s.team u with touched := (s'.team u).touched }) ∧ (∀ u, c.team ≠ some u → s'.team u = s.team u) ∧
    List.Forall₂ (HeldIs wr) (items.flatMap fun i => (workIn s c rd fr i).puts.map fun p => (i, p)) hs ∧
    (∀ e ∈ rows, e ∈ c.rows ∨ ∃ i ∈ items, rowOf c.kind i = some e.1 ∧ e.2.1 = indexAs c (seen s c rd) e.1) ∧
    (∀ e ∈ c.rows, e ∈ rows) ∧ ∀ i ∈ items, ∀ row, rowOf c.kind i = some row → ∃ e ∈ rows, e.1 = row
/-- The items of chunk k that have not been read before. -/
def itemsLeft (c : Cmd) (k : Nat) : List Nat :=
  let x := itemCount c.kind
  ((List.range (min x.2 (x.1 - k * x.2))).map (k * x.2 + ·)).filter fun i => !(c.early.any fun e => e.1 == i)

/-- The row of an element loses to another row with the same index, the one of a greater free rank, that has written it
(13 R284); `rest`: the writes still to come. -/
def Loses (c : Cmd) (rest : List Held) (h : Held) : Prop :=
  ∃ src dst idx, c.kind = .gather 1 src dst idx ∧ let n := layDim src.toNat 0
    ∃ e ∈ c.rows, ∃ d ∈ c.rows, e.1 = h.item / n ∧ d.2.1 = e.2.1 ∧ (e.2.2 < d.2.2 ∨ (e.2.2 = d.2.2 ∧ e.1 < d.1)) ∧
      (d.1 * n + h.item % n) / (itemCount c.kind).2 < c.sizes.length ∧ ∀ o ∈ rest, o.item ≠ d.1 * n + h.item % n
/-- Which of some writes are made, in their order. -/
def Survive (c : Cmd) (rest : List Held) : List Held → List Held → Prop
  | [], ys => ys = []
  | h :: hs, ys => (Loses c (hs ++ rest) h → Survive c rest hs ys) ∧
      (¬Loses c (hs ++ rest) h → ∃ zs, ys = h :: zs ∧ Survive c rest hs zs)
/-- The byte that a value has at a place of some spans, and the value that stands there. -/
def spanByte : List Span → Nat → Nat → Option Byte
  | [], _, _ => none
  | (b, n) :: r, x, a => if b ≤ a ∧ a < b + n then some (BitVec.ofNat 8 (x / 256 ^ (a - b))) else spanByte r (x / 256 ^ n) a
def spanValue (m : Memory) : List Span → Nat
  | [] => 0
  | (b, n) :: r => bytesAt m b n + 256 ^ n * spanValue m r
/-- A write is made: in memory m, in the window w. -/
def Made (h : Held) (m m' : Memory) (w w' : Store 8) : Prop :=
  let new (old v : Nat) : Prop := match h.red with
    | none => v = h.value
    | some (op, ty) => AtomicIs op ty old h.value v
  if h.sp then m' = m ∧ ∃ o n v, h.spans = [(o, n)] ∧ new (bytesAt w o n) v ∧ PutAt w w' o n v
  else w' = w ∧ ∃ v, new (spanValue m h.spans) v ∧ ∀ a, m'.get a = (spanByte h.spans v a).getD (m.get a)
/-- Memory when every waiting store has been performed. -/
def settledMem (s : State) : Memory := (performStores (fun _ => true) s).mem

/-- What crosses into another type: the same bits where a type is a bit type or both are one; an integer's value; else as CVT
has it (13 R266). -/
def Crossed (s d : Ty) (x r : Nat) : Prop :=
  (s = d ∨ Raw s ∨ Raw d → r = x) ∧
  (s ≠ d → ¬Raw s → ¬Raw d →
    (integerTy s → integerTy d → (r : Int) = tyVal s x % ((256 ^ tyBytes d : Nat) : Int)) ∧
    (floatTy s ∨ floatTy d → ∃ v, ConvertsTo d s false .rne false x v ∧ r = v % 256 ^ tyBytes d))

end Sys2Proof.Claims

open Sys2Proof Sys2Proof.Machine Sys2Proof.Claims in
/-- R184, R269, R270, R283, R284, R288, R290, 08 R197, R210, 13 R273: a step on a command's first chunk that has not passed its
checks has each of its items read its sources and pass, whole or not at all, and then is as a step on a chunk that has; the
first access that fails stalls the command there, and changes nothing else; an item of a chunk further on that a free bit
chooses reads before its turn, unless the command is an ENC or a FORK. Which items are chosen is log 27. -/
def Sys2Proof.Claims.ChunkChecks : Prop :=
  (∀ (s : State) (n : Nat) (c : Cmd) (rd wr : Nat → Nat → List Piece) (fr : Nat → Nat), InFlight s n c →
    let k := c.sizes.length
    let step := exec (.engineChunkPerformed n k)
    let own (e : Nat × Nat) : Bool := e.1 / (itemCount c.kind).2 == k
    k < c.chunks →
    ((∀ i ∈ itemsLeft c k, Goes s c rd wr fr i) → ∃ s₁ s', step s = .next s' ∧ step s₁ = .next s' ∧
      ItemsPass s s₁ n c rd wr fr (itemsLeft c k) fun c' =>
        { c' with sizes := c.sizes ++ [((c.early.filter own).map Prod.snd).sum + ((itemsLeft c k).map fun i => (workIn s c rd fr i).bytes).sum],
                  since := none, early := c.early.filter fun e => !own e }) ∧
    (∀ pre i post st a, itemsLeft c k = pre ++ i :: post → (∀ j ∈ pre, Goes s c rd wr fr j) → StoppedAt s c rd wr fr i st a →
      (st = 1 → step s = .next { s with cmds := s.cmds.set n { c with fault := some (k, BitVec.ofNat 64 a) } }) ∧
      (st = 2 → Settled c → c.port = none → (∀ b, c.kind ≠ .packet b) → c.team.isSome = true →
        ∃ s', step s = .next s' ∧ s'.mem = s.mem ∧ CommandIs s s' n (ended c 2)))) ∧
  (∀ (s : State) (n k : Nat) (c : Cmd) (rd wr : Nat → Nat → List Piece) (fr : Nat → Nat), InFlight s n c → c.sizes.length < k → k < c.chunks →
    (stepwise c.kind = true → exec (.engineChunkPerformed n k) s = .next s) ∧
    (stepwise c.kind = false →
      let items := (itemsLeft c k).filter fun i => Config.freeBit s.tick (2 ^ 47 + i % (itemCount c.kind).2)
      (∀ i ∈ items, Goes s c rd wr fr i) → ∃ s', exec (.engineChunkPerformed n k) s = .next s' ∧
        ItemsPass s s' n c rd wr fr items fun c' =>
          { c' with early := c.early ++ items.map fun i => (i, (workIn s c rd fr i).bytes) })) ∧
  (∀ s d x, x < 256 ^ tyBytes s → Crosses s d → Crossed s d x (crossVal s d x))

open Sys2Proof Sys2Proof.Machine Sys2Proof.Claims in
/-- R269 to R271, R284, R237: a step on a chunk whose checks have passed performs a free choice of its writes (log 27), the
oldest first: stores wait at their places in memory, reductions combine with what stands there, a window takes its bytes;
of colliding rows of a GSC.s one remains. With the last write the chunk is done and its bytes count on the barrier. -/
def Sys2Proof.Claims.ChunkWrites : Prop :=
  ∀ (s : State) (n k : Nat) (c : Cmd), s.cmds[n]? = some c → c.id = n → c.status = none → s.ecc = [] → s.buffer = [] →
    (∀ t, c.team = some t → t < s.teams.length ∧ (s.team t).phase = .resident) → (∀ f r o a b, c.kind ≠ .feed f r o a b) →
    (∀ r b g q, c.kind ≠ .coll r b g q) → k < c.sizes.length → k < c.chunks → (c.rows.map Prod.fst).Nodup →
    let per := (itemCount c.kind).2
    let taken (h : Held) : Bool := h.item / per == k && Config.freeBit s.tick (2 ^ 45 + 2 * (h.item % per) + b2n h.sp)
    let rest := c.held.filter fun h => !taken h
    let open_ : Prop := k ∈ c.doneChunks ∨ ∃ h ∈ rest, h.item / per = k
    (∀ h ∈ c.held, taken h = true → h.dev = false ∧ (h.sp = true → c.prompt = false ∧ c.team.isSome = true ∧ ∃ o m, h.spans = [(o, m)]) ∧
      (h.sp = false → c.prompt = false ∧ ∀ r ∈ h.spans, isDev r.1 = false)) →
    ((∀ h ∈ c.held, taken h = true → h.red = none) ∨ ∀ h ∈ c.held, taken h = true → h.red.isSome = true) →
    ∃ s' ys, exec (.engineChunkPerformed n k) s = .next s' ∧ Survive c rest (c.held.filter taken).reverse ys ∧
      (open_ → CommandIs s s' n { c with held := rest } ∧ ∀ t, c.team = some t → Counted s s' t c 0) ∧
      (¬open_ → CommandIs s s' n { c with held := rest, doneChunks := c.doneChunks ++ [k] } ∧
        ∀ t, c.team = some t → Counted s s' t c (c.sizes.getD k 0)) ∧
      (∀ u, c.team ≠ some u → s'.team u = s.team u) ∧
      ∃ (ms : Nat → Memory) (ws : Nat → Store 8), ms 0 = s.mem ∧ ms ys.length = settledMem s' ∧
        (∀ t, c.team = some t → ws 0 = (s.team t).scratch ∧ ws ys.length = (s'.team t).scratch) ∧
        ∀ j h, ys[j]? = some h → Made h (ms j) (ms (j + 1)) (ws j) (ws (j + 1))

open Sys2Proof Sys2Proof.Machine Sys2Proof.Claims in
/-- R288, R290, 17 R368: an ENC whose tile has too many candidates ends with status 6, the chunk and their number; a DEC whose
record or superscale fails its check ends with status 5. A FORK that is one chunk copies the source's entries, adds each
valid one to the count of its frame, and writes COUNT, LINEAGE and GENERATION 0; where a count would pass 65,535 it ends with
status 5 and changes no memory. -/
def Sys2Proof.Claims.TilesAndForks : Prop :=
  (∀ (s : State) (n t i : Nat) (c : Cmd) (rd : Nat → Nat → List Piece) (fr : Nat → Nat), InFlight s n c → c.team = some t → Settled c →
    c.port = none → c.early = [] → i = c.sizes.length → i < c.chunks →
    IndexOk s c rd i → (∀ g ∈ (workIn s c rd fr i).gets, CanGet s c rd g) →
    let stops (d : Cmd) : Prop := ∃ s', exec (.engineChunkPerformed n i) s = .next s' ∧ s'.mem = s.mem ∧ CommandIs s s' n d
    (∀ src body scl org e0 e1 m, c.kind = .enc src body scl org e0 e1 → i < e0 / 64 * (e1 / 16) →
      encTile (seen s c rd) src.toNat body.toNat (fun j => (org.getD j 0).toNat) e1 i = .error m →
      stops (ended { c with info0 := BitVec.ofNat 32 i, info1 := BitVec.ofNat 32 m, tiles := i } 6)) ∧
    (∀ bf body dst scl org e0 e1, c.kind = .dec bf body dst scl org e0 e1 → i < e0 / 64 * (e1 / 16) →
      ¬decSound (seen s c rd) body.toNat scl.toNat (fun j => (org.getD j 0).toNat) e1 i → stops (ended c 5))) ∧
  (∀ (s : State) (n t cnt : Nat) (c : Cmd) (src dst : DWord) (sn en : Nat → List Piece) (h0 h1 h2 : List Piece), Runs s n c t →
    c.kind = .fork src dst cnt → c.prompt = true → c.id = n → Settled c → c.sizes = [] → c.early = [] → c.doneChunks = [] → 0 < c.chunks →
    cnt + 2 ≤ 512 → s.buffer = [] → (∀ x ∈ s.cmds, x.held = []) →
    let W (a : Nat) : Prop := (∃ j < cnt, Covers (en j) a) ∨ Covers h0 a ∨ Covers h1 a ∨ Covers h2 a
    let writes (va m : Nat) (ps : List Piece) : Prop := EngPasses s c W true (va % 2 ^ 64) m ps ∧ ∀ e ∈ ps, e.1.cpl = none ∧ e.1.cache ≠ 2
    let entry (j : Nat) : Nat := valueIn s.mem (sn j)
    let adds (f : Nat) : Nat := ((List.range cnt).filter fun j => entry j % 2 == 1 && entry j / 2 ^ 16 % 2 ^ 36 == f).length
    let room : Prop := ∀ f, 0 < adds f → (s.frames.get f).toNat + adds f ≤ 65535
    (∀ j < cnt, EngPasses s c W false ((src.toNat + 64 + 8 * j) % 2 ^ 64) 8 (sn j) ∧ ∀ a, Covers (sn j) a → ¬W a) →
    (∀ j < cnt, writes (dst.toNat + 64 + 8 * j) 8 (en j)) → writes dst.toNat 4 h0 → writes (dst.toNat + 8) 8 h1 → writes (dst.toNat + 16) 4 h2 →
    (room → ∃ (s' : State) (ms : Nat → Memory), exec (.engineChunkPerformed n 0) s = .next s' ∧ ms 0 = s.mem ∧
      (∀ j < cnt, StoredIn (en j) (entry j) (ms j) (ms (j + 1))) ∧ StoredIn h0 cnt (ms cnt) (ms (cnt + 1)) ∧
      StoredIn h1 (s.launchOf t).lineage.toNat (ms (cnt + 1)) (ms (cnt + 2)) ∧ StoredIn h2 0 (ms (cnt + 2)) s'.mem ∧
      (∀ f, (s'.frames.get f).toNat = (s.frames.get f).toNat + adds f) ∧
      CommandIs s s' n { c with sizes := [8 * cnt + 16], doneChunks := [0], since := none } ∧ Counted s s' t c (8 * cnt + 16)) ∧
    (¬room → c.port = none → ∃ s', exec (.engineChunkPerformed n 0) s = .next s' ∧ s'.mem = s.mem ∧ s'.frames = s.frames ∧
      CommandIs s s' n (ended c 5)))

open Sys2Proof Sys2Proof.Machine Sys2Proof.Claims in
/-- R295, R298, R237: a FEED's record enters its FIFO, a FEED.sc's bytes their slot of the scale memory, and both count on the
barrier; how many bytes a tile of FEED.sc counts is log 47. -/
def Sys2Proof.Claims.FeedSteps : Prop :=
  -- a record of a FEED
  (∀ (s : State) (n t f : Nat) (c : Cmd) (src : BitVec 512) (org : List Word) (e0 e1 : Nat), Runs s n c t → f < 2 →
    c.kind = .feed f src org e0 e1 → layRole src.toNat = 1 → laySp src.toNat = true → c.doneChunks.length < c.chunks →
    (∀ j < n, ∀ x, s.cmds[j]? = some x → x.status.isSome = true) →
    let r := src.toNat
    let i := c.doneChunks.length
    let o (k : Nat) : Nat := (org.getD k 0).toNat
    let size := recSize (layQ16 r) (layCap r)
    let at_ := spAt r (recOff r (o 0 / 64 + i / (e1 / 16)) (o 1 / 16 + i % (e1 / 16)) (o 2) (o 3))
    let q := if f = 0 then (s.team t).fa else (s.team t).fb
    at_ + size ≤ (s.launchOf t).scratchBytes → (q.map fun e => e.bytes.length).sum + size ≤ 131072 →
    ∃ s' e, exec (.fifoTileEnter n) s = .next s' ∧ s'.mem = s.mem ∧ (s'.team t).scratch = (s.team t).scratch ∧
      (if f = 0 then (s'.team t).fa = q ++ [e] ∧ (s'.team t).fb = (s.team t).fb
        else (s'.team t).fb = q ++ [e] ∧ (s'.team t).fa = (s.team t).fa) ∧
      e.record = true ∧ e.q16 = layQ16 r ∧ e.cap.toNat = layCap r ∧ e.bytes.length = size ∧
      (∀ j < size, e.bytes.getD j 0 = (s.team t).scratch.get (at_ + j)) ∧
      CommandIs s s' n { c with doneChunks := c.doneChunks ++ [i], since := none } ∧ Counted s s' t c size) ∧
  -- a slot of the scale memory; a tile counts 16 bytes on the barrier (log 47)
  (∀ (s : State) (n t : Nat) (c : Cmd) (src : BitVec 512) (org : List Word) (e0 e1 : Nat) (ps : List Piece), Runs s n c t →
    c.kind = .feed 2 src org e0 e1 → laySp src.toNat = true → c.doneChunks.length < c.chunks →
    let r := src.toNat
    let i := c.doneChunks.length
    let o (k : Nat) : Nat := (org.getD k 0).toNat
    let off := scaleOff r (o 0 / 64 + i / (e1 / 16)) (o 1 / 16 + i % (e1 / 16)) (o 2) (o 3)
    let slot := o 4 / 16 + i
    spAt r off + 16 ≤ (s.launchOf t).scratchBytes → (s.team t).valid.get slot = 0 →
    engAccess s (whoCmd c) c.lives false false ((laySsaddr r + 4 * (off / 256)) % 2 ^ 64) 4 = .ok ps →
    OrdinaryPieces s t .read ps → c.part = (s.launchOf t).part → c.die = (s.team t).die → s.buffer = [] →
    ∃ s', exec (.scaleSlotFill n) s = .next s' ∧ s'.mem = s.mem ∧
      (∀ k, ((s'.team t).scale.get k).toNat = if k = slot then bytesAt (s.team t).scratch (spAt r off) 16
        else ((s.team t).scale.get k).toNat) ∧
      (∀ k, ((s'.team t).latch.get k).toNat = if k = slot then valueIn s.mem ps else ((s.team t).latch.get k).toNat) ∧
      (∀ k, (s'.team t).valid.get k = if k = slot then 1 else (s.team t).valid.get k) ∧
      CommandIs s s' n { c with doneChunks := c.doneChunks ++ [i], since := none } ∧ Counted s s' t c 16)

open Sys2Proof Sys2Proof.Machine Sys2Proof.Claims in
/-- R184, R243, R269: a serviced fault lets the command go on, another ends it with status 1; a command with every chunk
performed ends with status 0, and the lanes that wait for its token go on; a held port entry enters when its buffer has
room. -/
def Sys2Proof.Claims.CommandEnds : Prop :=
  -- the service of a fault; the end
  (∀ (s : State) (n t : Nat) (c : Cmd) (x : Nat × DWord), s.cmds[n]? = some c → c.fault = some x → c.id = n → Settled c →
    exec (.engineFaultResume n true) s = .next { s with cmds := s.cmds.set n { c with fault := none } } ∧
    (c.team = some t → c.port = none → (∀ b, c.kind ≠ .packet b) → ∃ s', exec (.engineFaultResume n false) s = .next s' ∧
      s'.mem = s.mem ∧ CommandIs s s' n (ended { c with fault := none, ending := none } 1))) ∧
  (∀ (s : State) (n t : Nat) (c : Cmd), Runs s n c t → c.id = n → Settled c → c.port = none → c.doneChunks.length = c.chunks →
    (∀ b, c.kind ≠ .packet b) → (∀ r b i k, c.kind ≠ .coll r b i k) →
    ∃ s', exec (.engineCommandComplete n) s = .next s' ∧ s'.mem = s.mem ∧
      CommandIs s s' n (ended c 0) ∧
      ∀ (g k : Nat) (w : Wait), OnlyWait s t g w → k < 16 → w.kind = .tokens (BitVec.ofNat 16 (2 ^ k)) →
        (s.grp t g).token k = .names n → LanesGoOn s s' t g w ∧ (s'.grp t g).token k = .empty ∧
          ∀ j, j ≠ k → (s'.grp t g).token j = (s.grp t g).token j) ∧
  -- an entry that a full buffer held back
  (∀ (s : State) (t p n : Nat) (c : Cmd) (tag : BitVec 16) (st : Byte) (es : List DWord), t < s.teams.length →
    (s.team t).ports[p]? = some es → es.length < 64 →
    (p ≠ 2 → s.cmds[n]? = some c → c.team = some t → c.port = some (p, tag) → c.status = some st → c.signalled = false →
      (∀ j < n, ∀ x, s.cmds[j]? = some x → x.team ≠ some t ∨ x.signalled = true ∨ x.status = none) →
      ∃ s', exec (.portEntryDeliver t p) s = .next s' ∧ s'.mem = s.mem ∧ CommandIs s s' n { c with signalled := true } ∧
        (s'.team t).ports = (s.team t).ports.set p (es ++ [BitVec.ofNat 64 (tag.toNat +
          2 ^ 32 * (if st = 0 then 0 else if st = 9 then 2 else 1))])) ∧
    (p = 2 → n < s.launches.length → (s.launch n).port = some (t, tag) → (s.launch n).phase = .done st → s.records = [] →
      (∀ j < n, (s.launch j).port = none) →
      ∃ s', exec (.portEntryDeliver t 2) s = .next s' ∧ s'.mem = s.mem ∧ (s'.launch n).port = none ∧
        (s'.team t).ports = (s.team t).ports.set 2 (es ++ [BitVec.ofNat 64 (tag.toNat +
          2 ^ 32 * (if st = 0 then 0 else if st = 9 then 2 else 1))])))

open Sys2Proof Sys2Proof.Machine Sys2Proof.Claims in
/-- R184, R237, R243, R269 to R271, R273, R283, R284, R288, R290, R295, R298: the checks and the writes of chunks, tiles and
lists that stop a command, the steps of a FEED, the end. -/
def Obligations.EngineCommandSteps : Prop :=
  Sys2Proof.Claims.ChunkChecks ∧ Sys2Proof.Claims.ChunkWrites ∧ Sys2Proof.Claims.TilesAndForks ∧ Sys2Proof.Claims.FeedSteps ∧
    Sys2Proof.Claims.CommandEnds

open Sys2Proof Sys2Proof.Machine Sys2Proof.Claims in
/-- R277, R279 to R282, R287: a step on a chunk of a collective whose members are all here, and have all issued it, performs a
free choice of the elements that it has not performed (log 27): each is the combination of its operands, or the copy of its
one operand. With the last of them the chunk becomes final: its stream's progress word goes up by one, and its bytes count. A .start begins with 64 zero words of progress, a .resume with the words that stand there. A
member whose receive buffer is final ends with status 0 and writes its completion word. A member that misses DEADLINE fails
the collective: with agreement the open member ends with status 8 and, word by word, the least progress of the survivors;
without it with status 7 (log 16). -/
def Obligations.CollectiveSteps : Prop :=
  -- a chunk
  (∀ (s : State) (n chunk t r id : Nat) (c : Cmd) (b : BitVec 1024) (res : Bool) (g : CollGroup) (cm : Nat → Nat) (cs : Nat → Cmd)
    (src : Nat → Nat → List Piece) (dst : Nat → List Piece) (word : List Piece), Runs s n c t →
    let x := b.toNat
    let N := g.members.length
    let size := collSize x
    let S := x / 2 ^ 32 % 128
    let per := x / 2 ^ 256 % 2 ^ 32
    let first := chunk * per
    let count := min per (collElements x N r - first)
    let i := chunk % S
    let W (a : Nat) : Prop := (∃ e, first ≤ e ∧ e < first + count ∧ Covers (dst e) a) ∨ Covers word a
    s.buffer = [] → AllHere s c g r n cm cs x → c.kind = .coll res b id r → g.id.toNat = id →
    (x % 16 < 2 → Reduces (x / 16 % 16 + 1) (blkTy x)) → c.begun = true → c.prompt = true → 0 < S → S ≤ 64 → 0 < per →
    c.prog.length = 64 → c.prog.getD i 0 = chunk / S → first < collElements x N r →
    (∃ j < S, j ≠ i ∧ (c.prog.getD j 0 * S + j) * per < collElements x N r) →
    (∀ e, first ≤ e → e < first + count →
      EngPasses s c W true ((x / 2 ^ 128 % 2 ^ 64 + size * e) % 2 ^ 64) size (dst e) ∧
      ∀ o ∈ collOperands x N r e, EngPasses s (cs o.1) W false ((blockOf (cs o.1) / 2 ^ 64 % 2 ^ 64 + size * o.2) % 2 ^ 64) size
        (src o.1 o.2)) →
    EngPasses s c W true ((x / 2 ^ 320 % 2 ^ 64 + 4 * i) % 2 ^ 64) 4 word →
    let left := ((List.range count).map (first + ·)).filter fun e => !(c.early.any fun y => y.1 == e)
    let now_ (e : Nat) : Bool := Config.freeBit s.tick (2 ^ 47 + e % per)
    let es := left.filter now_
    ∃ (s' : State) (ms : Nat → Memory), exec (.collChunkFinal n chunk []) s = .next s' ∧ ms 0 = s.mem ∧
      (∀ j e, es[j]? = some e →
        let vs := (collOperands x N r e).map fun o => valueIn (ms j) (src o.1 o.2)
        ∃ v, StoredIn (dst e) v (ms j) (ms (j + 1)) ∧ (2 ≤ x % 16 → vs = [v]) ∧
          (x % 16 < 2 → CombinedAs (fun p q => (atomVal (redOp (x / 16 % 16 + 1)) (blkTy x) p q).1) x vs v)) ∧
      ((∀ e ∈ left, now_ e = true) → StoredIn word (chunk / S + 1) (ms es.length) s'.mem ∧
        CommandIs s s' n { c with prog := c.prog.set i (chunk / S + 1), doneChunks := c.doneChunks ++ [chunk], waitFor := none,
                                  since := none, early := c.early.filter fun y => y.1 / per != chunk } ∧
        Counted s s' t c (size * count)) ∧
      ((∃ e ∈ left, now_ e = false) → s'.mem = ms es.length ∧
        CommandIs s s' n { c with early := c.early ++ es.map fun e => (e, size) } ∧ Counted s s' t c 0)) ∧
  -- the begin, by a step on a chunk that the buffer does not have
  (∀ (s : State) (n chunk t r id : Nat) (c : Cmd) (b : BitVec 1024) (res : Bool) (g : CollGroup) (cm : Nat → Nat) (cs : Nat → Cmd)
    (vec : Nat → List Piece), Runs s n c t →
    let x := b.toNat
    let S := x / 2 ^ 32 % 128
    let W (a : Nat) : Prop := ∃ j < 8, Covers (vec j) a
    s.buffer = [] → AllHere s c g r n cm cs x → c.kind = .coll res b id r → g.id.toNat = id →
    (x % 16 < 2 → Reduces (x / 16 % 16 + 1) (blkTy x)) → c.begun = false →
    c.prompt = true → 0 < S → S ≤ 64 → 0 < x / 2 ^ 256 % 2 ^ 32 → collElements x g.members.length r ≤ chunk * (x / 2 ^ 256 % 2 ^ 32) →
    (∀ j < 8, EngPasses s c W (!res) ((x / 2 ^ 320 % 2 ^ 64 + 32 * j) % 2 ^ 64) 32 (vec j)) →
    0 < collElements x g.members.length r →
    (res = false → ∃ (s' : State) (ms : Nat → Memory), exec (.collChunkFinal n chunk []) s = .next s' ∧ ms 0 = s.mem ∧ ms 8 = s'.mem ∧
      (∀ j < 8, StoredIn (vec j) 0 (ms j) (ms (j + 1))) ∧ CommandIs s s' n { c with begun := true, prog := List.replicate 64 0 }) ∧
    (res = true → (let v := (List.range 64).map fun k => valueIn s.mem (vec (k / 8)) / 2 ^ (32 * (k % 8)) % 2 ^ 32
      (∃ j < S, (v.getD j 0 * S + j) * (x / 2 ^ 256 % 2 ^ 32) < collElements x g.members.length r) →
      ∃ s', exec (.collChunkFinal n chunk []) s = .next s' ∧ s'.mem = s.mem ∧ CommandIs s s' n { c with begun := true, prog := v }))) ∧
  -- the end of one member, the others being done
  (∀ (s : State) (n chunk t r id : Nat) (c : Cmd) (b : BitVec 1024) (res : Bool) (g : CollGroup) (cm : Nat → Nat) (cs : Nat → Cmd)
    (word : List Piece), Runs s n c t →
    let x := b.toNat
    let N := g.members.length
    let per := x / 2 ^ 256 % 2 ^ 32
    let cw := x / 2 ^ 384 % 2 ^ 64
    s.buffer = [] → AllHere s c g r n cm cs x → c.kind = .coll res b id r → g.id.toNat = id →
    (x % 16 < 2 → Reduces (x / 16 % 16 + 1) (blkTy x)) → c.prompt = true →
    c.port = none → 0 < per → collElements x N r ≤ chunk * per → 0 < x / 2 ^ 32 % 128 → x / 2 ^ 32 % 128 ≤ 64 →
    (∀ q < N, (cs q).begun = true ∧ ∀ j < blockOf (cs q) / 2 ^ 32 % 128,
      collElements (blockOf (cs q)) N q ≤ ((cs q).prog.getD j 0 * (blockOf (cs q) / 2 ^ 32 % 128) + j) * (blockOf (cs q) / 2 ^ 256 % 2 ^ 32)) →
    (cw ≠ 0 → EngPasses s c (Covers word) true cw 8 word) → c.held = [] → c.sizes = [] →
    ∃ s', exec (.collChunkFinal n chunk []) s = .next s' ∧ CommandIs s s' n (ended c 0) ∧
      (cw = 0 → s'.mem = s.mem) ∧ (cw ≠ 0 → StoredIn word (x / 2 ^ 458 % 2 ^ 16) s.mem s'.mem)) ∧
  -- a failure
  (∀ (s : State) (p n t r : Nat) (id : BitVec 16) (c : Cmd) (b : BitVec 1024) (res : Bool) (g : CollGroup) (others : List (List Word))
    (agreed : Bool) (vec : Nat → List Piece),
    let W (a : Nat) : Prop := ∃ j < 8, Covers (vec j) a
    Runs s n c t → s.buffer = [] → c.kind = .coll res b id.toNat r → c.part = p → collOf s p id = some g → g.id = id →
    r < g.members.length → c.begun = true → c.prog.length = 64 → c.port = none → c.prompt = true → c.waitFor = none → b.toNat / 2 ^ 384 % 2 ^ 64 = 0 → c.inst < s.cmds.length → c.held = [] → c.sizes = [] →
    collPeers s p g c.inst = none → (∀ x ∈ s.cmds, x.inst = c.inst → c.issued ≤ x.issued) →
    g.deadline.toNat * 1000 ≤ now s - c.issued → (∀ m ∈ g.members, memberLost s p m = false) →
    (∀ j x, j ≠ n → s.cmds[j]? = some x → x.status.isSome = true) →
    (∀ j < 8, EngPasses s c W true ((b.toNat / 2 ^ 320 % 2 ^ 64 + 32 * j) % 2 ^ 64) 32 (vec j)) →
    ∃ (s' : State) (d : Cmd) (ms : Nat → Memory), exec (.collMemberFailure p id others agreed) s = .next s' ∧ s'.cmds[n]? = some d ∧ d.signalled = true ∧
      d.status = some (if agreed then 8 else 7) ∧ ms 0 = s.mem ∧ ms 8 = s'.mem ∧
      (∀ j < 8, StoredIn (vec j) (((List.range 8).map fun k => d.prog.getD (8 * j + k) 0 % 2 ^ 32 * 2 ^ (32 * k)).sum)
        (ms j) (ms (j + 1))) ∧
      (agreed = true → ∀ i < 64, d.prog.getD i 0 = others.foldl (fun a v => min a (v.getD i 0).toNat) (c.prog.getD i 0)))

namespace Sys2Proof.Claims

open Sys2Proof.Machine

/-! The matrix sequencer (14, 15). -/

/-- The sequencer of team t issues. -/
def SeqIssues (s : State) (t : Nat) : Prop := s.cur = .seq t ∧ canSeq s t = true
/-- Its successor. -/
def seqNext (s : State) (t : Nat) (i : Instr) : DWord := nextAddr (s.team t).seq.pc i.size
/-- SEQ_STAT keeps its bits but WAITKIND and, where `flags`, the sticky flags, which may only be set (14 Table 14.1). -/
def StatKept (x y : Word) (kind : Nat) (flags : Bool) : Prop :=
  y.toNat / 8 % 16 = kind ∧ ∀ i, ¬(3 ≤ i ∧ i < 7) → ¬(flags = true ∧ 15 ≤ i ∧ i < 19) → y.getLsbD i = x.getLsbD i
/-- The sequencer goes to an address and changes nothing but what `f` says of its record. -/
def SeqGoes (i : Instr) (s : State) (t : Nat) (pc : DWord) (f : Seq → Seq) : Prop :=
  ∃ s', exec i s = .next s' ∧ s' = (s.modSeq t fun _ => (s'.team t).seq) ∧
    (s'.team t).seq = { f (s.team t).seq with pc := pc, stat := (s'.team t).seq.stat } ∧
    StatKept (s.team t).seq.stat (s'.team t).seq.stat 0 false
/-- It waits at its instruction: only WAITKIND, and what `f` says, changes. -/
def SeqWaits (i : Instr) (s : State) (t kind : Nat) (f : Seq → Seq) : Prop :=
  ∃ s', exec i s = .next s' ∧ s' = (s.modSeq t fun _ => (s'.team t).seq) ∧
    (s'.team t).seq = { f (s.team t).seq with stat := (s'.team t).seq.stat } ∧
    StatKept (s.team t).seq.stat (s'.team t).seq.stat kind false
/-- The record of a sequencer that stops at a trap (04 R106). -/
def SeqStops (x q : Seq) (code : Byte) (resume : DWord) (replay : Bool) : Prop :=
  q.pc = resume ∧ q.resumeAt = resume ∧ bitOf q.stat.toNat 0 = false ∧ bitOf q.stat.toNat 1 = true ∧
    q.stat.toNat / 2 ^ 7 % 256 = code.toNat ∧ q.wait = none ∧ q.attempt = none ∧ q.rendezvous = none ∧
    q.stat.toNat / 2 ^ 19 % 128 = (let n := x.stat.toNat / 2 ^ 19 % 128
      if replay then min (n + 1) 127 else n)
/-- It stops at a trap, to be resumed at an address; `replay`: REPLAYS counts it (14 R305, 04 R106). -/
def SeqTraps (i : Instr) (s : State) (t : Nat) (tr : Trap) (resume : DWord) (replay : Bool) : Prop :=
  ∃ s₁, exec i s = .next (deliverSeqTrap t tr s₁) ∧ (∀ u, u ≠ t → s₁.team u = s.team u) ∧ s₁.mem = s.mem ∧
    s₁.team t = { s.team t with seq := (s₁.team t).seq } ∧ SeqStops (s.team t).seq (s₁.team t).seq tr.code resume replay

/-- A test of SQIF and SQWH (14 R311). -/
def Tests (c : SqCond) (cw v : Word) : Prop :=
  match c with
  | .eq => cw = v
  | .ne => cw ≠ v
  | .lt => cw.toNat < v.toNat
  | .ge => v.toNat ≤ cw.toNat
  | .bs => cw.toNat.testBit (v.toNat % 32) = true
  | .bc => cw.toNat.testBit (v.toNat % 32) = false

/-- A tile of team t is cleared as ACLR does: the elements of the tile named, zeros in the others of an X128 quad
(14 R310). -/
def ClearedTile (x128 : Bool) (v : Nat) (y : Tile) : Prop :=
  y.x128 = x128 ∧ y.state = .seq ∧
    if x128 then ∃ w p q, XOf v w p q ∧ ∀ k, (y.data.get k).toNat = if k < 65536 then w / 2 ^ (32 * (k % 4)) % 2 ^ 32 else 0
    else ∀ k, (y.data.get k).toNat = if k < 16384 then v else 0

/-- The FP32 pattern that ACLR puts in: a NaN is canonical. -/
def canon (v : Word) : Nat := if 0x7F800000 < v.toNat % 2 ^ 31 then 0x7FC00000 else v.toNat

end Sys2Proof.Claims

open Sys2Proof Sys2Proof.Machine Sys2Proof.Claims in
/-- R311 to R313: SQIF and SQWH.while go on where their test of cw holds, else to their target; SQWH.endw goes back to its
.while; SQCW sets cw, from an immediate or the scratchpad, adds to it, compares into bit 31, or ends the stream behind its
commits (the trap of an offset outside the window is log 62, the WAITKIND of that wait log 44). R310: ACLR clears a tile that
is SEQ, changing between the FP32 and the X128 mode, and waits where it is not. -/
def Obligations.SequencerControl : Prop :=
  (∀ (s : State) (t : Nat) (c : SqCond) (v off : Word) (i : Instr), SeqIssues s t →
    let q := (s.team t).seq
    (i = .sqif c v off ∨ i = .sqwhWhile c v off →
      (Tests c q.cw v → SeqGoes i s t (seqNext s t i) id) ∧ (¬Tests c q.cw v → SeqGoes i s t (q.pc + off.signExtend 64) id)) ∧
    SeqGoes (.sqwhEndw off) s t (q.pc + off.signExtend 64) (fun q => { q with endw := true }) ∧
    SeqGoes (.sqcwSet v) s t (seqNext s t (.sqcwSet v)) (fun q => { q with cw := v }) ∧
    SeqGoes (.sqcwAdd v) s t (seqNext s t (.sqcwAdd v)) (fun q => { q with cw := q.cw + v }) ∧
    (∃ x : Word, (x.toNat = q.cw.toNat % 2 ^ 31 + if q.cw.toNat % 2 ^ 31 < v.toNat % 2 ^ 31 then 2 ^ 31 else 0) ∧
      SeqGoes (.sqcwCmp v) s t (seqNext s t (.sqcwCmp v)) (fun q => { q with cw := x })) ∧
    (s.ecc = [] → off.toNat % 4 = 0 → off.toNat + 4 ≤ (s.launchOf t).scratchBytes →
      SeqGoes (.sqcwSetSp off) s t (seqNext s t (.sqcwSetSp off))
        (fun q => { q with cw := BitVec.ofNat 32 (bytesAt (s.team t).scratch off.toNat 4) })) ∧
    (off.toNat % 4 ≠ 0 ∨ (s.launchOf t).scratchBytes < off.toNat + 4 →
      SeqTraps (.sqcwSetSp off) s t { code := 0x07, i0 := off } q.pc false) ∧
    (q.running = [] → q.stage = none → ∃ s', exec .sqcwEnd s = .next s' ∧ s' = (s.modSeq t fun _ => (s'.team t).seq) ∧
      (s'.team t).seq = { q with stat := (s'.team t).seq.stat } ∧ bitOf (s'.team t).seq.stat.toNat 0 = false ∧
      bitOf (s'.team t).seq.stat.toNat 2 = true) ∧
    (q.running ≠ [] → q.stage = none → SeqWaits .sqcwEnd s t 0 id)) ∧
  (∀ (s : State) (t : Nat) (d : BitVec 3) (v w : Word) (i : Instr), SeqIssues s t →
    let tm := s.team t
    let k := d.toNat
    let b := k / 4 * 4
    let done (put : Nat → Tile → Prop) : Prop := ∃ s', exec i s = .next s' ∧ s'.mem = s.mem ∧
      s'.team t = { tm with tiles := (s'.team t).tiles, seq := (s'.team t).seq } ∧ (∀ u, u ≠ t → s'.team u = s.team u) ∧
      (s'.team t).seq = { tm.seq with pc := seqNext s t i, stat := (s'.team t).seq.stat } ∧
      StatKept tm.seq.stat (s'.team t).seq.stat 0 true ∧ (s'.team t).tiles.length = tm.tiles.length ∧
      ∀ j y, (s'.team t).tiles[j]? = some y → put j y
    let kept (j : Nat) (y : Tile) : Prop := tm.tiles[j]? = some y
    tm.seq.running = [] → tm.tiles.length = (s.launchOf t).accs →
    ((i = .aclrF32Zero d ∧ w = 0) ∨ (i = .aclrF32Broadcast d v ∧ w = v) → k < tm.tiles.length →
      -- an FP32 tile; a tile of an X128 quad
      ((tm.tiles.getD b {}).x128 = false → (tm.tiles.getD k {}).state = .seq →
        done fun j y => if j = k then ClearedTile false (canon w) y else kept j y) ∧
      ((tm.tiles.getD b {}).x128 = true → (tm.tiles.getD b {}).state = .seq →
        done fun j y => if j = k then ClearedTile false (canon w) y
          else if b ≤ j ∧ j < b + 4 then ClearedTile false 0 y else kept j y) ∧
      (∀ g, (tm.tiles.getD b {}).x128 = false → (tm.tiles.getD k {}).state = .group g → SeqWaits i s t 2 id)) ∧
    ((i = .aclrX128Zero d ∧ w = 0) ∨ (i = .aclrX128Broadcast d v ∧ w = v) → k % 4 = 0 → k + 4 ≤ tm.tiles.length →
      (∀ j, k ≤ j → j < k + 4 → (tm.tiles.getD j {}).state = .seq) →
      done fun j y => if j = k then ClearedTile true (canon w) y
        else if k < j ∧ j < k + 4 then y.x128 = true ∧ y.state = .seq ∧ y.data = [] else kept j y))

namespace Sys2Proof.Claims

open Sys2Proof.Machine

/-- Nothing stands in the way of a multiply's start: its tile is SEQ and declared, no attempt is under way, its slots pass
the checks of 14 R308, no error stands in storage. -/
def Ready0 (s : State) (t : Nat) (x : Bool) (d : BitVec 3) (a b : BitVec 5) (e : MmsExt) : Prop :=
  let tm := s.team t
  let tile := tm.tiles.getD (if (tm.tiles.getD (d.toNat / 4 * 4) {}).x128 then d.toNat / 4 * 4 else d.toNat) {}
  s.ecc = [] ∧ d.toNat + (if x then 4 else 1) ≤ (s.launchOf t).accs ∧ tile.state = .seq ∧ tm.seq.running = [] ∧ tm.seq.attempt = none ∧
    startBad x tile.x128 (kGet tm.slots a.toNat) (kGet tm.slots b.toNat) a b e = none
/-- The entries that an instruction consumes are all there and pass their checks: A's at the front of FA, B's of FB
(14 R297, R299). -/
def EntriesOk (s : State) (t : Nat) (sa sb : BitVec 512) (e : MmsExt) (readA readB : Bool) : Prop :=
  ∀ pos < 8 * e.kb.toNat, (readA = true → consumeOne s t false sa.toNat 0 e.asc.toNat pos = .ok) ∧
    (readB = true → consumeOne s t true sb.toNat 0 e.bsc.toNat pos = .ok)
/-- The attempt that an instruction makes. -/
def AttemptIs (p : Attempt) (i : Instr) (pc : DWord) (sa sb : BitVec 512) (e : MmsExt) (tile : Nat) : Prop :=
  p.ins = i ∧ p.pc = pc ∧ p.aslot = sa ∧ p.bslot = sb ∧ p.posA = 8 * e.kb.toNat ∧ p.tile = tile
/-- The operands' rows that an attempt reads: row i of A, row j of B. -/
def rowsOf (tm : Team) (second : Bool) (slot : BitVec 512) (sc : Nat) (kb i : Nat) : List RowK :=
  (operandRows (layQ16 slot.toNat) kb (operandTiles tm second slot.toNat sc (8 * kb))).getD i []

/-- The pattern r is the exact value x, in units of 2^−(149 + n), rounded to nearest with ties to the even pattern; an exact
zero is +0. -/
def NearestTo (n : Nat) (x : Int) (r : Nat) : Prop :=
  (x = 0 → r = 0) ∧ (x ≠ 0 → r < 2 ^ 32 ∧ Neg r = decide (x < 0) ∧
    if (2 ^ 25 - 1) * 2 ^ (252 + n) ≤ |x| then r = (if x < 0 then 0xFF800000 else 0x7F800000)
    else Finite r ∧ ∀ y, Finite y → |units r * 2 ^ n - x| ≤ |units y * 2 ^ n - x| ∧
      (|units r * 2 ^ n - x| = |units y * 2 ^ n - x| → units y = units r ∨ r % 2 = 0))
/-- The outlier of a row at column c. -/
def outlierAt (a : RowK) (c : Nat) : Option Nat := (a.outs.find? fun e => e.1 == c).map fun e => e.2
/-- Column c of a row, decoded and rounded once: with its outlier, or with +0 in the outlier's place (03 R68, R78). -/
def DecodedAs (a : RowK) (full : Bool) (c r : Nat) : Prop :=
  match outlierAt a c with
  | some v => r = if full then (if 0x7F80 < v % 2 ^ 15 then 0x7FC00000 else v * 2 ^ 16) else 0
  | none => NearestTo 14 (a.ts.getD c 0 * ((a.b + 1 : Nat) : Int) * units a.sup) r
/-- One K-block of a row: superscale legal (03 R75), every outlier at a column of its own. -/
def RowGood (a : RowK) : Prop :=
  a.sup < 2 ^ 31 ∧ 2 ^ 23 ≤ a.sup ∧ a.sup < 0x7F800000 ∧ (a.outs.map fun e => e.1).Nodup ∧ (∀ e ∈ a.outs, e.1 < 64 ∧ e.2 < 2 ^ 16) ∧
    ∀ e ∈ a.outs, a.ts.getD e.1 0 = 0
/-- The products of the outliers of one K-block, by column, A's before B's (14 R300). -/
def termsOf (a b : RowK) (da db : Nat → Nat) : List Nat :=
  (List.range 64).flatMap fun c =>
    ((outlierAt a c).toList.map fun v => (fMul fmtF32 .rne false (v * 2 ^ 16) (db c)).1) ++
    ((outlierAt b c).toList.map fun v => (fMul fmtF32 .rne false (da c) (v * 2 ^ 16)).1)
/-- The exact sum of the bodies over the K-blocks, in units of 2^−326 (14 R300). -/
def bodyUnits (a b : List RowK) : Int :=
  (List.zipWith (fun x y => (List.zipWith (fun p q => p * q) x.ts y.ts).sum * (((x.b + 1) * (y.b + 1) : Nat) : Int) *
    units x.sup * units y.sup) a b).sum
/-- The value of an element after a commit, from its value before and the K-blocks of its rows (14 R300): the body sum,
rounded once, then the outlier products, added one after the other; exactly in X128 mode. -/
def ElementIs (x : Bool) (acc : Nat) (a b : List RowK) (r : Nat) : Prop :=
  ∃ (d : Nat) (da db : Nat → Nat → Nat), NearestTo 177 (bodyUnits a b) d ∧
    (∀ k < a.length, ∀ c < 64, DecodedAs (a.getD k ⟨[], 0, 0, []⟩) false c (da k c) ∧
      DecodedAs (b.getD k ⟨[], 0, 0, []⟩) true c (db k c)) ∧
    let terms := d :: (List.range a.length).flatMap fun k =>
      termsOf (a.getD k ⟨[], 0, 0, []⟩) (b.getD k ⟨[], 0, 0, []⟩) (da k) (db k)
    if x then ∃ ts : Nat → Nat, ts 0 = acc ∧ ts terms.length = r ∧
      ∀ j < terms.length, ∃ c p₁ p₂ p₃ p₄, XOf (terms.getD j 0) c p₁ p₂ ∧ XSum (ts j) c (ts (j + 1)) p₃ p₄
    else r = terms.foldl (fun t p => (fAdd fmtF32 .rne false t p).1) acc

end Sys2Proof.Claims

open Sys2Proof Sys2Proof.Machine Sys2Proof.Claims in
/-- R308, R309, R302, R307: MMS starts on a SEQ tile of its mode when its slots and entries pass, and the sequencer goes on;
without entries it waits; another mode or an empty slot traps FMT and counts a replay. Both cores of a pair start together,
or trap PAIRMIS in both, or in the issuing one without a partner. A commit gives every element its value from its row of A and
its row of B, and takes the entries; R300 says that value, with several K-blocks, outliers and X128 sums. A start sees the CTR_BASE that the
tile's releaser saw (16 R334; log 117). How many attempts
run before they commit is log 91; what a pair's faults report is log 59. -/
def Obligations.MatrixMultiply : Prop :=
  (∀ (s : State) (t : Nat) (x : Bool) (d : BitVec 3) (a b : BitVec 5) (e : MmsExt), SeqIssues s t →
    let i : Instr := .mms x d a b e
    let tm := s.team t
    let q := tm.seq
    let off : Word := (q.pc - q.base).setWidth 32
    (∀ sa sb, kGet tm.slots a.toNat = some sa → kGet tm.slots b.toNat = some sb → Ready0 s t x d a b e →
      (EntriesOk s t sa sb e true true → ∃ p, AttemptIs p i q.pc sa sb e d.toNat ∧ p.posB = 8 * e.kb.toNat ∧ p.bTeam = t ∧
        SeqGoes i s t (seqNext s t i) fun q => { q with running := [p], ctr := laterCtr q.ctr (tm.tile d.toNat).ctr }) ∧
      (tm.fa = [] → 0 < e.kb.toNat → ∃ p, AttemptIs p i q.pc sa sb e d.toNat ∧
        SeqWaits i s t 3 fun q => { q with attempt := some p })) ∧
    (d.toNat + (if x then 4 else 1) ≤ (s.launchOf t).accs → q.running = [] → q.attempt = none →
      let tile := tm.tiles.getD (if (tm.tiles.getD (d.toNat / 4 * 4) {}).x128 then d.toNat / 4 * 4 else d.toNat) {}
      (tile.state = .team ∨ (∃ g, tile.state = .group g) → SeqWaits i s t 2 id) ∧
      (tile.state = .seq → tile.x128 ≠ x → SeqTraps i s t { code := 0x0D, i0 := 0xFFFFFFFF, i3 := off } q.pc true) ∧
      (tile.state = .seq → tile.x128 = x → kGet tm.slots a.toNat = none →
        SeqTraps i s t { code := 0x0D, i0 := 0xFFFFFFFF, i2 := a.setWidth 32, i3 := off } q.pc true))) ∧
  (∀ (s : State) (t u : Nat) (x : Bool) (d : BitVec 3) (a b : BitVec 5) (e : MmsExt), SeqIssues s t →
    let i : Instr := .mmsPair x d a b e
    let q := (s.team t).seq
    let off : Word := (q.pc - q.base).setWidth 32
    (∀ sa sa' sb, pairTeam s t = some u → u ≠ t → kGet (s.team t).slots a.toNat = some sa → kGet (s.team u).slots a.toNat = some sa' →
      kGet (s.team t).slots b.toNat = some sb → kGet (s.team u).slots b.toNat = some sb → Ready0 s t x d a b e →
      startBad x ((s.team u).tile (tileBase (s.team u) d.toNat)).x128 (some sa') (some sb) a b e = none →
      (s.team u).seq.running = [] → (s.team u).seq.attempt = none →
      ((s.team u).seq.rendezvous = none → SeqWaits i s t 6 fun q => { q with rendezvous := some i }) ∧
      ((s.team u).seq.rendezvous = some i → (s.team t).core % 2 = 0 → EntriesOk s t sa sb e true true →
        EntriesOk s u sa' sb e true false → ∃ s' p p', exec i s = .next s' ∧ s'.mem = s.mem ∧
        (s'.team t).seq.running = [p] ∧ (s'.team u).seq.running = [p'] ∧ AttemptIs p i q.pc sa sb e d.toNat ∧
        AttemptIs p' i (s.team u).seq.pc sa' sb e d.toNat ∧ p.bTeam = t ∧ p'.bTeam = t ∧ p'.posB = 0 ∧
        (s'.team t).seq.pc = seqNext s t i ∧ (s'.team u).seq.pc = nextAddr (s.team u).seq.pc 16 ∧
        (s'.team u).seq.rendezvous = none)) ∧
    (d.toNat + (if x then 4 else 1) ≤ (s.launchOf t).accs → pairTeam s t = none →
      SeqTraps i s t { code := 0x17, i0 := 3, i3 := off } q.pc true) ∧
    -- the instructions differ, or the slots of B
    (∀ n j, pairTeam s t = some u → u ≠ t → d.toNat + (if x then 4 else 1) ≤ (s.launchOf t).accs → q.running = [] → q.attempt = none →
      ((s.team t).tiles.getD (if ((s.team t).tiles.getD (d.toNat / 4 * 4) {}).x128 then d.toNat / 4 * 4 else d.toNat) {}).state = .seq →
      (s.team u).seq.rendezvous = some j →
      ((n = 1 ∧ j ≠ i) ∨ (n = 2 ∧ j = i ∧ kGet (s.team t).slots b.toNat ≠ kGet (s.team u).slots b.toNat)) →
      let r := (s.team u).seq
      let tr : Trap := { code := 0x17, i0 := BitVec.ofNat 32 n }
      ∃ s₁ s₂, exec i s = .next (deliverSeqTrap t { tr with i3 := off } s₂) ∧ (∀ v, v ≠ u → s₁.team v = s.team v) ∧ s₁.mem = s.mem ∧
        s₁.team u = { s.team u with seq := (s₁.team u).seq } ∧ SeqStops r (s₁.team u).seq 0x17 r.pc true ∧
        s₂ = ((deliverSeqTrap u { tr with i3 := (r.pc - r.base).setWidth 32 } s₁).modSeq t fun _ => (s₂.team t).seq) ∧
        SeqStops q (s₂.team t).seq 0x17 q.pc true)) ∧
  -- the commit
  (∀ (s : State) (t : Nat) (p : Attempt) (rest : List Attempt) (x : Bool) (d : BitVec 3) (a b : BitVec 5) (e : MmsExt) (y : Tile),
    (s.team t).seq.running = p :: rest → p.ins = .mms x d a b e → p.bTeam = t → (s.team t).tiles[p.tile]? = some y →
    y.x128 = x → y.data.wf = true → t < s.teams.length →
    let tm := s.team t
    let kb := e.kb.toNat
    ∃ s' z, exec (.mmsCommit t) s = .next s' ∧ s'.mem = s.mem ∧ (∀ u, u ≠ t → s'.team u = s.team u) ∧
      (s'.team t).tiles[p.tile]? = some z ∧ (∀ j, j ≠ p.tile → (s'.team t).tiles[j]? = tm.tiles[j]?) ∧
      z.state = y.state ∧ z.x128 = x ∧ (s'.team t).seq.running = rest ∧ (s'.team t).fa = tm.fa.drop p.posA ∧
      (s'.team t).fb = tm.fb.drop p.posB ∧ (s'.team t).rows = tm.rows ∧ (s'.team t).groups = tm.groups ∧
      (∀ k, (s'.team t).valid.get k = if k ∈ slotsFreed t p then 0 else tm.valid.get k) ∧
      ∀ i < 128, ∀ j < 128,
        let ra := rowsOf tm false p.aslot e.asc.toNat kb i
        let rb := rowsOf tm true p.bslot e.bsc.toNat kb j
        if x then ∀ w < 4, (z.data.get (4 * (128 * i + j) + w)).toNat =
            (newElement true ((List.range 4).foldr (fun w n => (y.data.get (4 * (128 * i + j) + w)).toNat + 2 ^ 32 * n) 0) ra rb).1
              / 2 ^ (32 * w) % 2 ^ 32
        else (z.data.get (128 * i + j)).toNat = (newElement false (y.data.get (128 * i + j)).toNat ra rb).1) ∧
  (∀ (s : State) (t u : Nat) (p p' : Attempt) (rest rest' : List Attempt) (x : Bool) (d : BitVec 3) (a b : BitVec 5) (e : MmsExt),
    t < s.teams.length → u < s.teams.length → u ≠ t → pairTeam s t = some u → (s.team t).seq.running = p :: rest →
    (s.team u).seq.running = p' :: rest' →
    p.ins = .mmsPair x d a b e → p'.ins = .mmsPair x d a b e →
    ∃ s', exec (.mmsCommit t) s = .next s' ∧ s'.mem = s.mem ∧ (s'.team t).seq.running = rest ∧ (s'.team u).seq.running = rest' ∧
      (s'.team t).fa = (s.team t).fa.drop p.posA ∧ (s'.team u).fa = (s.team u).fa.drop p'.posA) ∧
  -- the value of an element
  (∀ (x : Bool) (acc : Nat) (a b : List RowK), a.length = b.length → (∀ y ∈ a, RowGood y) → (∀ y ∈ b, RowGood y) →
    (if x then acc < 2 ^ 128 else acc < 2 ^ 32) → ElementIs x acc a b (newElement x acc a b).1)

namespace Sys2Proof.Claims

open Sys2Proof.Machine

/-! The selection unit (15). -/

/-- SEL_CFG passes the checks of R315: H from 1 to 64, ROWS at most the launch's, every heap in use at most H. -/
def SelOk (s : State) (t : Nat) : Prop :=
  let tm := s.team t
  let h := tm.selCfg.toNat % 128
  let n := tm.selCfg.toNat / 256 % 256
  1 ≤ h ∧ h ≤ 64 ∧ n ≤ (s.launchOf t).selRows ∧ ∀ i < n, (tm.rows.getD i {}).heap.length ≤ h
/-- Entries of the pool that are free (15 Table 15.1). -/
def poolFree (tm : Team) : Int := 4096 - (tm.rows.map fun r => r.reserved).sum
/-- The forms of VPROJ by direction. -/
def vprojForms (back first last : Bool) (d : BitVec 3) (a b : BitVec 5) (e : VprojExt) : Instr :=
  if back then .vprojB first last d a b e else .vprojF first last d a b e
def vmrgForms (heapOnly : Bool) (cnt : Byte) : Instr := if heapOnly then .vmrgHeap cnt else .vmrgRow cnt
def voutForms (heapOnly : Bool) (a : BitVec 5) (e : VoutExt) : Instr := if heapOnly then .voutHeap a e else .voutRow a e
/-- Entries in strict rank order: greater logit first, at equal logits the lower id (15 R317). -/
def Ranked (l : List (Word × Word)) : Prop := l.Pairwise fun a b => outranks a b = true
/-- FP32 patterns that order (no NaN). -/
def Orders (l : List (Word × Word)) : Prop := ∀ e ∈ l, ¬Nan e.2.toNat

/-- The unit's FP32 operations, by the machine's own (06): the difference of 15 R321 is +0 of equals. -/
def timesF (a b : Nat) : Nat := (fMul fmtF32 .rne false a b).1
def plusF (a b : Nat) : Nat := (fAdd fmtF32 .rne false a b).1
def minusF (a b : Nat) : Nat := plusF a (b ^^^ 2 ^ 31)
def DiffIs (a b d : Nat) : Prop := (Floats .eq a b → d = 0) ∧ (¬Floats .eq a b → d = minusF a b)
/-- The parameter block (15 Table 15.5). -/
def vbaseOf (p : BitVec 512) : Nat := p.toNat % 2 ^ 32
def vlimitOf (p : BitVec 512) : Nat := p.toNat / 2 ^ 32 % 2 ^ 32
def tauOf (p : BitVec 512) : Nat := p.toNat / 2 ^ 64 % 2 ^ 32
def gammaOf (p : BitVec 512) : Nat := p.toNat / 2 ^ 96 % 2 ^ 32

/-- A column that counts, of token id `id` and logit element x, taken into a row (15 R321). -/
structure ColumnIs (tau h x id : Nat) (r r' : SelRow) : Prop where
  labels : ∀ k < 4, r'.log[k]? = (if (r.lid.getD k 0).toNat = id then some (BitVec.ofNat 32 (timesF x tau)) else r.log[k]?) ∧
    (r'.lflag.getLsbD k = true ↔ r.lflag.getLsbD k = true ∨ (r.lid.getD k 0).toNat = id)
  kept   : r'.lid = r.lid ∧ r'.h = r.h ∧ r'.reserved = r.reserved
  nan    : Nan (timesF x tau) → r'.nanf = true ∧ r'.heap = r.heap ∧ r'.m = r.m ∧ r'.s = r.s
  heap   : ¬Nan (timesF x tau) → r'.nanf = r.nanf ∧ r'.heap = heapInsert h r.heap (BitVec.ofNat 32 id, BitVec.ofNat 32 (timesF x tau))
  low    : timesF x tau = 0xFF800000 → r'.m = r.m ∧ r'.s = r.s
  new    : ¬Nan (timesF x tau) → timesF x tau ≠ 0xFF800000 → Floats .gt (timesF x tau) r.m.toNat →
    r'.m.toNat = timesF x tau ∧ ∃ d, DiffIs r.m.toNat (timesF x tau) d ∧
      r'.s.toNat = plusF (timesF r.s.toNat (exp2Cr d).1) 0x3F800000
  sum    : ¬Nan (timesF x tau) → timesF x tau ≠ 0xFF800000 → ¬Floats .gt (timesF x tau) r.m.toNat →
    r'.m = r.m ∧ ∃ d, DiffIs (timesF x tau) r.m.toNat d ∧ r'.s.toNat = plusF r.s.toNat (exp2Cr d).1
/-- A row after its columns: grown to H reserved entries, then taken column by column (15 R321; the H that its header shows is
log 54). -/
def RowIs (p : BitVec 512) (h : Nat) (xs : Nat → Nat) (r r' : SelRow) : Prop :=
  ∃ rs : Nat → SelRow, rs 0 = { r with reserved := max h r.reserved, h := BitVec.ofNat 7 h } ∧ rs 128 = r' ∧
    ∀ j < 128, (vbaseOf p + j < vlimitOf p → ColumnIs (tauOf p) h (xs j) (vbaseOf p + j) (rs j) (rs (j + 1))) ∧
      (vlimitOf p ≤ vbaseOf p + j → rs (j + 1) = rs j)
/-- Label k of a row has been captured and would be again (15 R321). -/
def Conflicts (p : BitVec 512) (r : SelRow) (k : Nat) : Prop :=
  k < 4 ∧ r.lflag.getLsbD k = true ∧ ∃ j < 128, (r.lid.getD k 0).toNat = vbaseOf p + j ∧ vbaseOf p + j < vlimitOf p
/-- An element of the gradient (15 R328). -/
def GradIs (p : BitVec 512) (r : SelRow) (x j g : Nat) : Prop :=
  if vlimitOf p ≤ vbaseOf p + j then g = 0
  else ∃ d δ, DiffIs (timesF x (tauOf p)) r.m.toNat d ∧
    ((∃ k < 4, (r.lid.getD k 0).toNat = vbaseOf p + j) → δ = 0x3F800000) ∧
    ((∀ k < 4, (r.lid.getD k 0).toNat ≠ vbaseOf p + j) → δ = 0) ∧
    g = timesF (minusF (timesF (exp2Cr d).1 (ffnRcpVal .rne false r.s.toNat).1) δ) (gammaOf p)

/-- The number x is the record of a row (15 Table 15.3, R324): header, entries in order, zero padding. -/
structure RecordIs (r : SelRow) (row x : Nat) : Prop where
  fields : x % 2 ^ 32 = r.m.toNat ∧ x / 2 ^ 32 % 2 ^ 32 = r.s.toNat ∧ x / 2 ^ 64 % 2 ^ 7 = r.h.toNat ∧ x / 2 ^ 71 % 2 = 0 ∧
    x / 2 ^ 72 % 2 ^ 7 = r.heap.length ∧ x.testBit 79 = r.nanf ∧ x / 2 ^ 80 % 2 ^ 4 = r.lflag.toNat ∧ x / 2 ^ 84 % 2 ^ 12 = 0 ∧
    x / 2 ^ 96 % 2 ^ 7 = row ∧ x / 2 ^ 103 % 2 ^ 25 = 0 ∧ x / 2 ^ 384 % 2 ^ 128 = 0
  labels : ∀ k < 4, x / 2 ^ (128 + 32 * k) % 2 ^ 32 = (r.lid.getD k 0).toNat ∧
    x / 2 ^ (256 + 32 * k) % 2 ^ 32 = (r.log.getD k 0).toNat
  heap   : ∀ k < r.heap.length, x / 2 ^ (512 + 64 * k) % 2 ^ 64 = (r.heap.getD k (0, 0)).1.toNat + 2 ^ 32 * (r.heap.getD k (0, 0)).2.toNat
/-- A record merged into a row (15 R326; a NaN in M is log 55). -/
structure MergedIs (heapOnly : Bool) (h : Nat) (i r r' : SelRow) : Prop where
  heap : r'.heap = i.heap.foldl (heapInsert h) r.heap
  kept : r'.lid = r.lid ∧ (heapOnly = true → r'.m = r.m ∧ r'.s = r.s ∧ r'.lflag = r.lflag ∧ r'.nanf = r.nanf ∧ r'.log = r.log)
  row  : heapOnly = false → r'.lflag = r.lflag ||| i.lflag ∧ r'.nanf = (r.nanf || i.nanf) ∧
    (∀ k < 4, r'.log.getD k 0 = if i.lflag.getLsbD k then i.log.getD k 0 else r.log.getD k 0) ∧
    (Floats .gt i.m.toNat r.m.toNat → r'.m = i.m) ∧ (¬Floats .gt i.m.toNat r.m.toNat → r'.m = r.m) ∧
    ∃ d e, DiffIs r.m.toNat r'.m.toNat d ∧ DiffIs i.m.toNat r'.m.toNat e ∧
      r'.s.toNat = plusF (timesF r.s.toNat (exp2Cr d).1) (timesF i.s.toNat (exp2Cr e).1)

end Sys2Proof.Claims

open Sys2Proof Sys2Proof.Machine Sys2Proof.Claims in
/-- R317 to R322, R328, R330: a VPROJ starts on a SEQ tile where it is .first, on the tile that its projection has sealed where
it is not, and its commit seals the tile; a .last waits for its stage. The forward stage builds the rows and gives the tile
back to the sequencer, or stops before a row whose need or whose labels do not allow it; the backward stage leaves the gradient in
the tile, for the team. A pending stage resumes, or takes the spill path once. Insertion into a heap keeps the H best entries
in rank order. The overlap of a stage with the next instruction is log 29, what a resume that fails again keeps log 53, the
order of the start's checks log 51, their TRAP_INFO log 52. -/
def Obligations.SelectionAndGradient : Prop :=
  -- the start
  (∀ (s : State) (t : Nat) (back first last : Bool) (d : BitVec 3) (a b : BitVec 5) (e : VprojExt) (sa sb : BitVec 512) (x : Tile),
    let i := vprojForms back first last d a b e
    let tm := s.team t
    let q := tm.seq
    let off : Word := (q.pc - q.base).setWidth 32
    SeqIssues s t → s.ecc = [] → d.toNat < (s.launchOf t).accs → q.running = [] → q.stage = none → q.attempt = none →
    tm.tiles[d.toNat]? = some x → (tm.tiles.getD (d.toNat / 4 * 4) {}).x128 = false → x.x128 = false →
    ((if first then x.state = .seq else x.state = .sealed back false) → kGet tm.slots a.toNat = some sa →
      kGet tm.slots b.toNat = some sb → startBad false false (some sa) (some sb) a b e.m = none →
      EntriesOk s t sa sb e.m true true →
      (last = false → ∃ p, AttemptIs p i q.pc sa sb e.m d.toNat ∧
        SeqGoes i s t (seqNext s t i) fun q => { q with running := [p], ctr := laterCtr q.ctr x.ctr }) ∧
      (last = true → SelOk s t → (s.launchOf t).scratchBytes < 64 * e.pblk.toNat + 64 →
        SeqTraps i s t { code := 0x07, i0 := BitVec.ofNat 32 (max (64 * e.pblk.toNat) (s.launchOf t).scratchBytes), i3 := off } q.pc true) ∧
      (last = true → SelOk s t → 64 * e.pblk.toNat + 64 ≤ (s.launchOf t).scratchBytes →
        bytesAt tm.scratch (64 * e.pblk.toNat) 64 < 2 ^ 128 →
        ∃ p, AttemptIs p i q.pc sa sb e.m d.toNat ∧ p.params.toNat = bytesAt tm.scratch (64 * e.pblk.toNat) 64 ∧
          p.selCfg = tm.selCfg ∧ SeqWaits i s t 7 fun q => { q with running := [p], ctr := laterCtr q.ctr x.ctr })) ∧
    ((if first then x.state = .sealed (!back) false else x.state = .seq ∨ x.state = .sealed (!back) false) →
      SeqTraps i s t { code := 0x0D, i0 := 0xFFFFFFFF, i3 := off } q.pc true) ∧
    (∀ c, first = true → x.state = .sealed c true → SeqWaits i s t 7 id)) ∧
  -- the commit
  (∀ (s : State) (t : Nat) (p : Attempt) (rest : List Attempt) (back first last : Bool) (d : BitVec 3) (a b : BitVec 5) (e : VprojExt)
    (y : Tile), (s.team t).seq.running = p :: rest → p.ins = vprojForms back first last d a b e →
    (s.team t).tiles[p.tile]? = some y → t < s.teams.length → p.bTeam = t → y.x128 = false → y.data.wf = true →
    (first = false → y.state = .sealed back false) →
    ∃ s' z, exec (.mmsCommit t) s = .next s' ∧ s'.mem = s.mem ∧ (s'.team t).tiles[p.tile]? = some z ∧ z.state = .sealed back last ∧
      (s'.team t).seq.running = rest ∧
      (∀ i < 128, ∀ j < 128, (z.data.get (128 * i + j)).toNat =
        (newElement false (if first then 0 else (y.data.get (128 * i + j)).toNat)
          (rowsOf (s.team t) false p.aslot e.m.asc.toNat e.m.kb.toNat i)
          (rowsOf (s.team t) true p.bslot e.m.bsc.toNat e.m.kb.toNat j)).1) ∧
      (last = true → ∃ st, (s'.team t).seq.stage = some st ∧ st.ins = p.ins ∧ st.pc = p.pc ∧ st.tile = p.tile ∧ st.dirB = back ∧
        st.params = p.params ∧ st.selCfg = p.selCfg ∧ st.row = 0 ∧ st.pending = false)) ∧
  -- a pending stage
  (∀ (s : State) (t : Nat) (back first last : Bool) (d : BitVec 3) (a b : BitVec 5) (e : VprojExt) (st : Stage),
    let i := vprojForms back first last d a b e
    SeqIssues s t → d.toNat < (s.launchOf t).accs → (s.team t).seq.running = [] → (s.team t).seq.stage = some st →
    st.pending = true → st.pc = (s.team t).seq.pc →
    (e.spoff ≠ 0 → st.branched = false → SeqGoes i s t ((s.team t).seq.pc + e.spoff.signExtend 64)
      fun q => { q with stage := some { st with branched := true } }) ∧
    (e.spoff = 0 ∨ st.branched = true → SelOk s t → SeqWaits i s t 7
      fun q => { q with stage := some { st with pending := false, branched := false, selCfg := (s.team t).selCfg } })) ∧
  -- the forward stage: its rows, from the resume row on; the row that stops it
  (∀ (s : State) (t : Nat) (st : Stage) (x : Tile), t < s.teams.length → (s.team t).phase = .resident → s.ecc = [] →
    (s.team t).seq.stage = some st → st.pending = false → st.dirB = false → (s.team t).tiles[st.tile]? = some x →
    x.x128 = false → x.data.wf = true →
    let tm := s.team t
    let h := st.selCfg.toNat % 128
    let n := st.selCfg.toNat / 256 % 256
    let r (i : Nat) : SelRow := tm.rows.getD i {}
    let need (i : Nat) : Nat := h - (r i).reserved
    let off : Word := (st.pc - tm.seq.base).setWidth 32
    let stops (tr : Trap) : Prop := ∃ s₁, exec (.forwardSelectionStage t) s = .next (deliverSeqTrap t tr s₁) ∧
      (s₁.team t).rows = tm.rows ∧ (s₁.team t).tiles = tm.tiles ∧ SeqStops tm.seq (s₁.team t).seq tr.code st.pc false ∧
      (s₁.team t).seq.stage = some { st with pending := true }
    (n ≤ tm.rows.length → n ≤ 128 → (((List.range n).map fun i => if st.row ≤ i then (need i : Int) else 0).sum) ≤ poolFree tm →
      (∀ i < n, st.row ≤ i → ∀ k, ¬Conflicts st.params (r i) k) →
      ∃ s', exec (.forwardSelectionStage t) s = .next s' ∧ s'.mem = s.mem ∧ (s'.team t).rows.length = tm.rows.length ∧
        (∀ i < tm.rows.length, (st.row ≤ i ∧ i < n →
            RowIs st.params h (fun j => (x.data.get (128 * i + j)).toNat) (r i) ((s'.team t).rows.getD i {})) ∧
          (¬(st.row ≤ i ∧ i < n) → (s'.team t).rows.getD i {} = r i)) ∧
        (s'.team t).seq.stage = none ∧ (s'.team t).seq.pc = nextAddr st.pc 16 ∧
        (s'.team t).tiles = tm.tiles.set st.tile { x128 := false, state := .seq, data := [], ctr := laterCtr x.ctr tm.seq.ctr }) ∧
    (st.row < n → poolFree tm < (need st.row : Int) → 0 ≤ poolFree tm →
      stops ⟨0x0F, false, false, 0, 0, BitVec.ofNat 32 st.row, BitVec.ofNat 32 (poolFree tm).toNat,
        BitVec.ofNat 32 (need st.row), off⟩) ∧
    (∀ k, st.row < n → (need st.row : Int) ≤ poolFree tm → Conflicts st.params (r st.row) k →
      (∀ k', Conflicts st.params (r st.row) k' → k' = k) →
      stops ⟨0x10, false, false, 0, 0, BitVec.ofNat 32 st.row, BitVec.ofNat 32 k, 0, 0⟩)) ∧
  -- the backward stage
  (∀ (s : State) (t : Nat) (st : Stage) (x : Tile), t < s.teams.length → (s.team t).phase = .resident →
    (s.team t).seq.stage = some st → st.pending = false → st.dirB = true → (s.team t).tiles[st.tile]? = some x →
    x.x128 = false → x.data.wf = true → st.tile < 8 → s.ecc = [] → (∀ g, ∀ w ∈ (s.grp t g).waits, ∀ k, w.kind ≠ .tile k) →
    (∀ y ∈ (s.team t).tiles, y.x128 = false) →
    let tm := s.team t
    ∃ s' z, exec (.backwardGradientStage t) s = .next s' ∧ s'.mem = s.mem ∧ (s'.team t).rows = tm.rows ∧
      (s'.team t).seq.stage = none ∧ (s'.team t).seq.pc = nextAddr st.pc 16 ∧ (s'.team t).tiles = tm.tiles.set st.tile z ∧
      z.state = .team ∧ z.x128 = false ∧ ∀ i < 128, ∀ j < 128, let g := (z.data.get (128 * i + j)).toNat
        (st.selCfg.toNat / 256 % 256 ≤ i → g = 0) ∧
        (i < st.selCfg.toNat / 256 % 256 → GradIs st.params (tm.rows.getD i {}) (x.data.get (128 * i + j)).toNat j g)) ∧
  -- insertion
  (∀ (h : Nat) (heap : List (Word × Word)) (e : Word × Word), Ranked heap → Orders (e :: heap) → (∀ y ∈ heap, y.1 ≠ e.1) →
    heap.length ≤ h →
    let new := heapInsert h heap e
    Ranked new ∧ new.length = min h (heap.length + 1) ∧ (∀ y ∈ new, y = e ∨ y ∈ heap) ∧
      ∀ y, (y = e ∨ y ∈ heap) → y ∉ new → ∀ z ∈ new, outranks z y = true)

open Sys2Proof Sys2Proof.Machine Sys2Proof.Claims in
/-- R324 to R326, R332: VMRG reads its records from the front of FA, waits where they are not all there, traps FMT, SELCONF or
SELSPILL on a bad one, naming it, and merges a good one into its row; VOUT writes a row's record of RS bytes and clears the
row, or, with .heap, its heap alone. A NaN in a record's M is log 55; what VMRG waits for and its FMT of a split-record entry
log 56; the record that a SELSPILL of a grown row names log 57. -/
def Obligations.MergeAndOutput : Prop :=
  (∀ (s : State) (t : Nat) (heapOnly : Bool) (cnt : Byte), SeqIssues s t → s.ecc = [] → (s.team t).seq.running = [] →
    (s.team t).seq.stage = none → (s.team t).seq.vmrg = none → SelOk s t →
    let i := vmrgForms heapOnly cnt
    let tm := s.team t
    let q := tm.seq
    let h := tm.selCfg.toNat % 128
    let n := tm.selCfg.toNat / 256 % 256
    let off : Word := (q.pc - q.base).setWidth 32
    -- RS, and the 2,048-byte entries that the records fill
    let rs := 64 * ((64 + 8 * h + 63) / 64)
    let k := (cnt.toNat * rs + 2047) / 2048
    let rec_ := leNat (((tm.fa.take k).flatMap fun e => e.bytes).take rs)
    ((∀ e ∈ tm.fa, e.record = false) → tm.fa.length < k → SeqWaits i s t 3 fun q => { q with vmrg := some tm.selCfg }) ∧
    ((∀ e ∈ tm.fa, e.record = false) → k ≤ tm.fa.length → cnt = 1 →
      (rec_ / 2 ^ 64 % 2 ^ 7 ≠ h ∨ n ≤ rec_ / 2 ^ 96 % 2 ^ 7 ∨ h < rec_ / 2 ^ 72 % 2 ^ 7 ∨ rec_ / 2 ^ 71 % 2 ≠ 0 ∨
          rec_ / 2 ^ 84 % 2 ^ 12 ≠ 0 ∨ rec_ / 2 ^ 103 % 2 ^ 25 ≠ 0 ∨ rec_ / 2 ^ 384 % 2 ^ 128 ≠ 0 →
        SeqTraps i s t { code := 0x0D } q.pc false) ∧
      (∀ (inc : SelRow) (row : Nat), RecordIs inc row rec_ → inc.h.toNat = h → row < n → n ≤ tm.rows.length → n ≤ 128 →
        inc.heap.length ≤ h → (inc.heap.Pairwise fun a b => outranks b a = false) → Orders inc.heap →
        let old := tm.rows.getD row {}
        let need := h - old.reserved
        let free := poolFree tm
        let labels : Prop := ∀ j < 4, inc.lflag.getLsbD j = true → old.lid.getD j 0 = inc.lid.getD j 0
        (heapOnly = false → ¬labels → SeqTraps i s t { code := 0x0D } q.pc false) ∧
        (∀ l < 4, heapOnly = false → labels → (old.lflag &&& inc.lflag).getLsbD l = true →
          (∀ j < l, (old.lflag &&& inc.lflag).getLsbD j = false) →
          SeqTraps i s t { code := 0x10, i1 := BitVec.ofNat 32 l } q.pc false) ∧
        ((heapOnly = false → labels ∧ old.lflag &&& inc.lflag = 0) →
          (inc.heap ≠ [] → free < (need : Int) → 0 ≤ free →
            SeqTraps i s t ⟨0x0F, false, false, 0, 0, 0, BitVec.ofNat 32 free.toNat, BitVec.ofNat 32 need, off⟩ q.pc false) ∧
          ((inc.heap ≠ [] → (need : Int) ≤ free) →
            ∃ s', exec i s = .next s' ∧ s'.mem = s.mem ∧ (s'.team t).fa = tm.fa.drop k ∧ (s'.team t).tiles = tm.tiles ∧
              (s'.team t).seq.pc = seqNext s t i ∧ (∀ j, j ≠ row → (s'.team t).rows[j]? = tm.rows[j]?) ∧
              ∃ new, (s'.team t).rows[row]? = some new ∧ MergedIs heapOnly h inc old new ∧
                new.reserved = if inc.heap = [] then old.reserved else max h old.reserved)))) ∧
    (tm.fa.length = k → (∃ e ∈ tm.fa, e.record = true) → SeqTraps i s t { code := 0x0D } q.pc false)) ∧
  -- a stage that is pending
  (∀ (s : State) (t : Nat) (heapOnly : Bool) (cnt : Byte) (a : BitVec 5) (e : VoutExt), SeqIssues s t → (s.team t).seq.running = [] →
    (s.team t).seq.stage.isSome = true → let pc := (s.team t).seq.pc
    SeqTraps (vmrgForms heapOnly cnt) s t { code := 0x0D } pc false ∧ SeqTraps (.voutRow a e) s t { code := 0x0D } pc false) ∧
  (∀ (s : State) (t : Nat) (heapOnly : Bool) (a : BitVec 5) (e : VoutExt) (x : BitVec 512), SeqIssues s t → s.ecc = [] → s.buffer = [] →
    (s.team t).seq.running = [] → (s.team t).seq.stage = none → (s.team t).seq.vout = none → SelOk s t →
    kGet (s.team t).slots a.toNat = some x →
    let i := voutForms heapOnly a e
    let tm := s.team t
    let h := tm.selCfg.toNat % 128
    let rs := 64 * ((64 + 8 * h + 63) / 64)
    let row := e.row0.toNat
    let old := tm.rows.getD row {}
    let to_ := e.ridx.toNat * rs
    layRole x.toNat = 0 → layTy x.toNat = .b64 → layBase x.toNat % 64 = 0 → 1 ≤ e.cnt.toNat →
    row + e.cnt.toNat ≤ tm.selCfg.toNat / 256 % 256 →
    (e.ridx.toNat + e.cnt.toNat) * rs ≤ layDim x.toNat 0 * 8 → row < tm.rows.length → row < 128 → old.lid.length = 4 → old.log.length = 4 →
    -- what the row becomes, where the sequencer goes
    let after (s' : State) : Prop := ∃ new, (s'.team t).rows = tm.rows.set row new ∧ new.lid = old.lid ∧ new.heap = [] ∧ new.reserved = 0 ∧
      (heapOnly = true → new = { old with heap := [], reserved := 0 }) ∧
      (heapOnly = false → new.m = 0xFF800000 ∧ new.s = 0 ∧ new.lflag = 0 ∧ new.nanf = false ∧ new.h.toNat = h) ∧
      (e.cnt = 1 → (s'.team t).seq.pc = seqNext s t i ∧ (s'.team t).seq.vout = none) ∧
      (1 < e.cnt.toNat → (s'.team t).seq.pc = tm.seq.pc ∧ (s'.team t).seq.vout = some (1, x, tm.selCfg))
    -- a tensor in the scratchpad; one in global memory
    (laySp x.toNat = true → spAt x.toNat to_ + rs ≤ (s.launchOf t).scratchBytes →
      ∃ s' rec_, exec i s = .next s' ∧ s'.mem = s.mem ∧ RecordIs old row rec_ ∧ rec_ < 2 ^ (512 + 64 * old.heap.length) ∧
        PutAt tm.scratch (s'.team t).scratch (spAt x.toNat to_) rs rec_ ∧ after s') ∧
    (∀ ps : Nat → List Piece, laySp x.toNat = false →
      (let W (b : Nat) : Prop := ∃ j < rs / 32, Covers (ps j) b
       ∀ j < rs / 32, EngPasses s (voutCmd s t) W true ((layBase x.toNat + to_ + 32 * j) % 2 ^ 64) 32 (ps j)) →
      ∃ (s' : State) (rec_ : Nat) (ms : Nat → Memory), exec i s = .next s' ∧ RecordIs old row rec_ ∧ rec_ < 2 ^ (512 + 64 * old.heap.length) ∧
        (s'.team t).scratch = tm.scratch ∧ ms 0 = s.mem ∧ ms (rs / 32) = s'.mem ∧
        (∀ j < rs / 32, StoredIn (ps j) (rec_ / 2 ^ (256 * j) % 2 ^ 256) (ms j) (ms (j + 1))) ∧ after s'))

namespace Sys2Proof.Claims

open Sys2Proof.Machine

/-! Counters (16). -/

/-- T[j] (16 Table 16.2). -/
def levelTable : List Nat :=
  [0x100000000, 0xEAC0C6E7, 0xD744FCCA, 0xC5672A11, 0xB504F333, 0xA5FED6A9, 0x9837F051, 0x8B95C1E3]
/-- The test of level l by a draw, base exponent m (16 R336). -/
def levelTest (m l : Nat) (dr : Word) : Bool := decide (dr.toNat < levelTable.getD (l % 2 ^ m * 2 ^ (3 - m)) 0 / 2 ^ (l / 2 ^ m))
/-- The draws of a chain (16 R337). -/
def drawAt (dr : Word) : Nat → Word
  | 0 => dr
  | n + 1 => mix (drawAt dr n + 0x9E3779B9)
/-- Levels after one test each, the k-th on the k-th draw; `less`: a merge tests the level less k; a saturated level stays
(16 R336, R339, R343). -/
def Tested (w m : Nat) (less : Bool) (dr : Word) (n l l' : Nat) : Prop :=
  ∃ ls : Nat → Nat, ls 0 = l ∧ ls n = l' ∧ ∀ k < n,
    ls (k + 1) = if ls k = 2 ^ w - 1 then ls k
      else if levelTest m (if less then ls k - k else ls k) (drawAt dr k) then ls k + 1 else ls k
/-- Width and base exponent of CTR_BASE (16 R334). -/
def counterWidth (b : Word) : Nat := if b.getLsbD 0 then 8 else 4
def counterExp (b : Word) : Nat := b.toNat / 2 % 4
/-- A counter's field of a word (16 R335): bits lo to lo + w − 1. -/
def fieldAt (x lo w : Nat) : Nat := x / 2 ^ lo % 2 ^ w
def withField (x lo w v : Nat) : Nat := x % 2 ^ lo + 2 ^ lo * (v % 2 ^ w) + 2 ^ (lo + w) * (x / 2 ^ (lo + w))
/-- The forms that update a counter by tests, and their results. -/
def pcaddForms (h : Hdr) (o : Order) (sc : Scope) (hint : Hint) (ad : Addr) (c : BitVec 8) : Option (BitVec 8) → Instr
  | none => .pcadd h o sc hint ad c
  | some d => .pcaddRtn h o sc hint d ad c

end Sys2Proof.Claims

open Sys2Proof Sys2Proof.Machine Sys2Proof.Claims in
/-- R334 to R339, R341 to R347: PCADD makes its tests on the lane's counter, PCMRG merges a level into it, PCRD reads its
estimate (here where it is a rational number) or its level, PCCLR clears the 256-byte block of it, all as their group sees
CTR_BASE; PCBASE sets it, and its own group sees that at once, another one only by a synchronisation; lanes act in order, on
their own bits of the word. A base that is not 4-byte aligned traps ALIGN, a level beyond the
width FMT. -/
def Obligations.Counters : Prop :=
  ∀ (s : State) (t g : Nat) (h : Hdr) (o : Order) (sc : Scope) (hint : Hint) (ad : Addr) (ps : Nat → List Piece),
    let gr := s.grp t g
    let base := gr.ctr.val
    let w := counterWidth base
    let m := counterExp base
    let place (l : Nat) : Nat × Nat := ctrPlace gr ad l
    let addr (l : Nat) : Nat := ((place l).1 + 4 * ((place l).2 * w / 32)) % 2 ^ 64
    let bit (l : Nat) : Nat := w * ((place l).2 % (32 / w))
    let aligned : Prop := ∀ l, InE s t g h l → (place l).1 % 4 = 0
    (s.launchOf t).trace = none →
    -- PCADD
    (∀ (d : Option (BitVec 8)) (c : BitVec 8), let i := pcaddForms h o sc hint ad c d
      Acts i s t g h → aligned → Passes s t g h (.v c) .ctrUpd true 4 addr ps →
      ∃ s', exec i s = .next s' ∧ OnlyGlobal s s' t g ∧
        GroupFrame ⟨h, [], (match d with
          | some d => [(.v d, 1)]
          | none => []), [], d.isSome, false, false⟩ s s' t g i.size ∧
        LaneByLane (InE s t g h) s.mem s'.mem fun l a a' =>
          let x := valueIn a (ps l)
          let old := fieldAt x (bit l) w
          (∀ r, d = some r → regGet (s'.grp t g) (.v r) l 1 = old) ∧
          ∃ new, Tested w m false (BitVec.ofNat 32 (regGet gr (.v c) l 1)) (regGet gr (.v c) l 2 / 2 ^ 32 % 256) old new ∧
            StoredIn (ps l) (withField x (bit l) w new) a a') ∧
    -- PCMRG
    (∀ (d c : BitVec 8), let i : Instr := .pcmrg h o sc hint d ad c
      let y (l : Nat) : Nat := regGet gr (.v c) l 2 / 2 ^ 32 % 256
      Acts i s t g h → aligned → Passes s t g h (.v c) .ctrUpd true 4 addr ps →
      ((∀ l, InE s t g h l → y l < 2 ^ w) → ∃ s', exec i s = .next s' ∧ OnlyGlobal s s' t g ∧
        GroupFrame ⟨h, [], [(.v d, 1)], [], true, false, false⟩ s s' t g i.size ∧
        LaneByLane (InE s t g h) s.mem s'.mem fun l a a' =>
          let x := valueIn a (ps l)
          let old := fieldAt x (bit l) w
          regGet (s'.grp t g) (.v d) l 1 = old ∧
          ∃ new, Tested w m true (BitVec.ofNat 32 (regGet gr (.v c) l 1)) (min old (y l)) (max old (y l)) new ∧
            StoredIn (ps l) (withField x (bit l) w new) a a') ∧
      (∀ l, InE s t g h l → (∀ l', InE s t g h l' → l' = l) → 2 ^ w ≤ y l → HasPart s t → EffectTrap i s t g h 0x0D 0 0 0 0)) ∧
    -- PCRD
    (∀ (d : BitVec 8) (raw : Bool), let i : Instr := if raw then .pcrdRaw h o sc hint d ad else .pcrd h o sc hint d ad
      Acts i s t g h → aligned → Passes s t g h (.v d) .ctrRead true 4 addr ps →
      ∃ s', exec i s = .next s' ∧ OnlyGlobal s s' t g ∧ s'.mem = s.mem ∧
        GroupFrame ⟨h, [], [(.v d, 1)], [], !raw, false, false⟩ s s' t g i.size ∧
        ∀ l, InE s t g h l →
          let lev := fieldAt (valueIn s.mem (ps l)) (bit l) w
          let r := regGet (s'.grp t g) (.v d) l 1
          (raw = true → r = lev) ∧
          (raw = false → (lev = 0 → r = 0) ∧ (0 < lev → m = 0 ∨ lev = 1 → RoundedOnce .rne ((2 ^ lev - 1) * 2 ^ 298) r))) ∧
    -- PCCLR, one lane
    (∀ (l : Nat) (pg : Page), let i : Instr := .pcclr h o sc hint ad
      Acts i s t g h → InE s t g h l → (∀ l', InE s t g h l' → l' = l) → aligned → ps l = [(pg, 4)] →
      Passes s t g h (.v 0) .ctrUpd true 4 addr ps →
      ∃ s', exec i s = .next s' ∧ OnlyGlobal s s' t g ∧ GroupFrame ⟨h, [], [], [], false, false, false⟩ s s' t g i.size ∧
        ∀ a, s'.mem.get a = if pg.pa / 256 * 256 ≤ a ∧ a < pg.pa / 256 * 256 + 256 then 0 else s.mem.get a) ∧
    -- PCBASE
    (∀ v : ImmU, let i : Instr := .pcbase h v
      Acts i s t g h → ∃ s', exec i s = .next s' ∧ OnlyTeam s s' t ∧ OtherGroupsKept s s' t g ∧ KeepsGroup s s' t g i.size ∧
        (s'.grp t g).ctr.val.toNat = (wordOf gr v).toNat % 8 ∧ (s'.team t).ctrBase = (s'.grp t g).ctr ∧
        (s'.team t).ctrBase.ver = (s.team t).ctrBase.ver + 1 ∧
        s'.team t = { s.team t with ctrBase := (s'.team t).ctrBase, groups := (s'.team t).groups }) ∧
    -- a base that is not aligned
    (∀ (l : Nat) (i : Instr) (c d : BitVec 8), i = .pcadd h o sc hint ad c ∨ i = .pcaddRtn h o sc hint d ad c ∨
        i = .pcmrg h o sc hint d ad c ∨ i = .pcclr h o sc hint ad ∨ i = .pcrd h o sc hint d ad ∨ i = .pcrdRaw h o sc hint d ad →
      Acts i s t g h → InE s t g h l → (∀ l', InE s t g h l' → l' = l) → (place l).1 % 4 ≠ 0 → HasPart s t →
      EffectTrap i s t g h 0x04 (BitVec.ofNat 32 (addr l)) (BitVec.ofNat 32 (addr l / 2 ^ 32)) 2 0)

namespace Sys2Proof.Claims

open Sys2Proof.Machine

/-! Tasks (17). -/

/-- One lane acts, or the access is made once (08 R201). -/
def OneActs (s : State) (t g : Nat) (h : Hdr) (d : Reg) (l : Nat) : Prop :=
  Acting s t g h d l ∧ ∀ l', Acting s t g h d l' → l' = l
/-- A scalar register of the group is written, the lanes of I go on, nothing else of the group changes. -/
def ScalarIs (s s' : State) (t g size r : Nat) (x : Word) : Prop :=
  (s'.grp t g).s.get r = x ∧ (∀ k, k ≠ r → (s'.grp t g).s.get k = (s.grp t g).s.get k) ∧ (s'.grp t g).v = (s.grp t g).v ∧
    (s'.grp t g).p = (s.grp t g).p ∧ (s'.grp t g).tok = (s.grp t g).tok ∧ FlagsKept (s.grp t g) (s'.grp t g) ∧
    Advances s s' t g size

end Sys2Proof.Claims

open Sys2Proof Sys2Proof.Machine Sys2Proof.Claims in
/-- R366, R367, R369, R371: LAUNCH adds a child launch and gives its LAUNCH_ID, or 0 where the tables are full (that SYS makes a
system launch of the child of a system launch alone is log 128); TWAIT gives
the number of failed children once all have retired, else parks (log 66); CANCEL ends, in one step (log 35), a launch of the
caller's own subtree, or with rights any live one, and every descendant of it, with status 9 for every grid; TMARK adds its
entry to a recording and nothing else. -/
def Obligations.Tasks : Prop :=
  ∀ (s : State) (t g : Nat) (h : Hdr),
    let gr := s.grp t g
    let tm := s.team t
    let la := s.launchOf t
    let lin := la.lineage.toNat
    -- LAUNCH
    (∀ (d a : BitVec 6) (tag : BitVec 16) (port : Bool) (x : Nat), let i : Instr := .launch h d a tag port
      let va := regGet gr (.s a) 0 2
      let n := s.launches.length
      Acts i s t g h →
      (g = 0 → (eligible s t g h).getLsbD 0 = true → lin / 2 ^ 16 % 16 ≠ 10 → va % 128 = 0 → BlockIs s t g h a va 4 x →
        (x.testBit 15 = true → Rights s t g) → packetBad (BitVec.ofNat 1024 x) true = none →
        (tablesFull s la.part (BitVec.ofNat 1024 x) = true →
          ∃ s', exec i s = .next s' ∧ ScalarIs s s' t g i.size d.toNat 0 ∧ s'.launches = s.launches ∧ s'.mem = s.mem) ∧
        (tablesFull s la.part (BitVec.ofNat 1024 x) = false → HasPart s t →
          ∃ s' c, exec i s = .next s' ∧ s'.launches.length = n + 1 ∧ (s'.launch n).parent = some tm.launch ∧
            (s'.launch n).part = la.part ∧ (s'.launch n).world = la.world ∧ (s'.launch n).ctxRoot = la.ctxRoot ∧
            (s'.launch n).lineage.toNat % 2 ^ 16 = lin % 2 ^ 16 ∧ (s'.launch n).lineage.toNat / 2 ^ 16 % 16 = (lin / 2 ^ 16 % 16 + 1) % 16 ∧
            (s'.launch n).prio.toNat = min (x / 2 ^ 8 % 16) la.prio.toNat ∧ (s'.launch n).sys = (x.testBit 15 && la.sys) ∧
            (s'.launch n).lid = (if x / 2 ^ 32 % 2 ^ 32 = 0 then (s.partOf t).nextLid else BitVec.ofNat 32 (x / 2 ^ 32)) ∧
            (s'.launch n).port = (if port then some (t, tag) else none) ∧
            (s'.team t).children = tm.children ++ [c] ∧ c.launch = n ∧ c.lid = (s'.launch n).lid ∧
            ScalarIs s s' t g i.size d.toNat (s'.launch n).lid)) ∧
      (g ≠ 0 ∨ (eligible s t g h).getLsbD 0 = false → HasPart s t → EffectTrap i s t g h 0x01 5 0 0 0) ∧
      (g = 0 → (eligible s t g h).getLsbD 0 = true → lin / 2 ^ 16 % 16 = 10 → HasPart s t → EffectTrap i s t g h 0x11 0 0 0 0) ∧
      (g = 0 → (eligible s t g h).getLsbD 0 = true → lin / 2 ^ 16 % 16 ≠ 10 → va % 128 ≠ 0 → HasPart s t →
        EffectTrap i s t g h 0x04 (BitVec.ofNat 32 va) (BitVec.ofNat 32 (va / 2 ^ 32)) 0 0)) ∧
    -- TWAIT
    (∀ (d : BitVec 6) (a : Option (BitVec 6)), let i : Instr := .twait h d a
      let mine (c : Child) : Prop := ∀ r, a = some r → c.lid = gr.s.get r.toNat
      Acts i s t g h →
      ((∀ c ∈ tm.children, mine c → c.status.isSome = true) → (∀ r, a = some r → ∃ c ∈ tm.children, mine c) →
        ∃ s' k, exec i s = .next s' ∧ OnlyGroup s s' t g ∧ ScalarIs s s' t g i.size d.toNat (BitVec.ofNat 32 k) ∧
          k = (tm.children.filter fun c => (a.all fun r => c.lid == gr.s.get r.toNat) && c.status != some 0).length) ∧
      ((∃ c ∈ tm.children, mine c ∧ c.status = none) → ∃ s' which, exec i s = .next s' ∧ OnlyGroup s s' t g ∧
        SameRegisters gr (s'.grp t g) ∧ Parks s s' t g i.size (eligible s t g h) (.children d.toNat which) ∧
        ∀ k, k ∈ which ↔ ∃ c, tm.children[k]? = some c ∧ mine c) ∧
      (∀ r, a = some r → (∀ c ∈ tm.children, ¬mine c) → HasPart s t → EffectTrap i s t g h 0x01 6 0 0 0)) ∧
    -- CANCEL
    (∀ (a : BitVec 6) (n : Nat), let i : Instr := .cancel h a
      let x : DWord := BitVec.ofNat 64 (regGet gr (.s a) 0 2)
      Acts i s t g h →
      let named : Prop := n < s.launches.length ∧ (s.launch n).lineage = x ∧ (s.launch n).part = la.part ∧ launchLive s n = true ∧
        ∀ j < n, (s.launch j).lineage ≠ x
      let perm : Prop := EffectTrap i s t g h 0x07 (BitVec.ofNat 32 x.toNat) (BitVec.ofNat 32 (x.toNat / 2 ^ 32)) 0 0
      (named → Rights s t g ∨ (n ≠ tm.launch ∧ inSubtree s tm.launch 10 n = true) → inSubtree s n 10 tm.launch = false →
        ∃ s', exec i s = .next s' ∧ OtherGroupsKept s s' t g ∧ KeepsGroup s s' t g i.size ∧
          ∀ m < s.launches.length,
            (inSubtree s n 10 m = true → (∀ st, (s.launch m).phase ≠ .done st) →
              ((∀ st, (s.launch m).phase ≠ .ending st) → (s'.launch m).phase = .ending 9) ∧
              ∀ u < s.teams.length, (s.team u).launch = m → (s'.team u).phase = .retiredPending ∨ (s'.team u).phase = .retired) ∧
            -- a grid that is done while its record waits for its ring is live yet (17 R351)
            (∀ st, inSubtree s n 10 m = true → launchLive s m = true → (s.launch m).phase = .done st →
              (s'.launch m).phase = .done (if st = 0 then 9 else st) ∧
              ∀ (k : Nat) (r : Record), s.records[k]? = some r → r.launch = some m → ∃ r', s'.records[k]? = some r' ∧
                r'.slots.length = r.slots.length ∧ (r.slots ≠ [] → recordBits r' 96 8 = (if st = 0 then 9 else st).toNat)) ∧
            (inSubtree s n 10 m = false → (s'.launch m).phase = (s.launch m).phase)) ∧
      (named → ¬Rights s t g → n = tm.launch ∨ inSubtree s tm.launch 10 n = false → HasPart s t → perm) ∧
      ((∀ j < s.launches.length, (s.launch j).lineage ≠ x) → HasPart s t → perm)) ∧
    -- TMARK
    (∀ v : ImmU, let i : Instr := .tmark h v
      Acts i s t g h →
      (la.trace = none → ∃ s', exec i s = .next s' ∧ OnlyGroup s s' t g ∧ KeepsGroup s s' t g i.size) ∧
      (∀ r tr, la.trace = some r → s.traces = [tr] → tr.root = r → tr.replay = false →
        let w := whoLaunch (s.launch r)
        let only (s' : State) (tr' : Trace) : Prop :=
          s' = { s.modGrp t g (fun _ => s'.grp t g) with mem := s'.mem, traces := [tr'] } ∧ KeepsGroup s s' t g i.size
        -- a place is left: the entry stands there; none is left: the recording stops
        (∀ (pd : List Piece) (pe : Page), tr.stopped = false → tr.count < tr.cap →
          engAccess s w [] false true tr.desc.toNat 8 = .ok pd → (∀ e ∈ pd, isRemote e.1.pa = false ∧ isDev e.1.pa = false) →
          engAccess s w [] true true (valueIn s.mem pd + 16 * tr.count) 16 = .ok [(pe, 16)] →
          isRemote pe.pa = false → isDev pe.pa = false → needsCopy s pe = false →
          ∃ s' x, exec i s = .next s' ∧ only s' { tr with count := tr.count + 1 } ∧ StoredIn [(pe, 16)] x s.mem s'.mem ∧
            x % 2 ^ 32 = (wordOf gr v).toNat ∧ x / 2 ^ 32 % 2 ^ 16 = tm.logical % 2 ^ 16 ∧ x / 2 ^ 48 % 2 ^ 4 = 1 ∧
            x / 2 ^ 52 % 2 ^ 12 = 0 ∧ x / 2 ^ 96 = la.lid.toNat ∧
            x / 2 ^ 64 % 2 ^ 32 = ((List.range t).filter fun u => (s.team u).logical == tm.logical &&
              (s.launchOf u).trace == la.trace && (s.launchOf u).part == la.part).length % 2 ^ 32) ∧
        (tr.stopped = false → tr.cap ≤ tr.count → ∃ s', exec i s = .next s' ∧ s'.mem = s.mem ∧
          only s' { tr with stopped := true, overflow := true }) ∧
        (tr.stopped = true → ∃ s', exec i s = .next s' ∧ OnlyGroup s s' t g ∧ KeepsGroup s s' t g i.size)))

namespace Sys2Proof.Claims

open Sys2Proof.Machine

/-- No store waits and no storage error lies anywhere: an access of the part meets nothing. -/
def Plain (s : State) : Prop := s.buffer = [] ∧ s.ecc = []

/-- Base and bytes of a group arena, of the shared pool (17 R359). -/
def groupPool (la : Launch) (linear g : Nat) : Nat × Nat :=
  let sub := la.f 768 32
  (la.f 832 64 + linear * sub + g * (sub / la.groups), sub / la.groups)
def sharedPoolOf (la : Launch) : Nat × Nat :=
  let sub := la.f 768 32
  (la.f 832 64 + la.teamCount * sub, la.f 800 32 * 65536 - la.teamCount * sub)
/-- The granules of an arena; the bytes of its map; the granules that the map takes. -/
def granulesOf (ar : Nat × Nat) : Nat := ar.2 / 64
def mapBytesOf (ar : Nat × Nat) : Nat := (granulesOf ar + 3) / 4
def mapGranules (ar : Nat × Nat) : Nat := (mapBytesOf ar + 63) / 64
/-- Byte b of an arena's map lies at pa b, in ordinary memory that the launch can read and write, whatever stands there. -/
def MapAt (s : State) (w : Who) (ar : Nat × Nat) (pa : Nat → Nat) : Prop :=
  (∀ b c, b < mapBytesOf ar → c < mapBytesOf ar → pa b = pa c → b = c) ∧
  ∀ b < mapBytesOf ar, ∃ pg : Page, pg.pa = pa b ∧ isRemote pg.pa = false ∧ isDev pg.pa = false ∧ needsCopy s pg = false ∧
    ∀ (m : Memory) (write : Bool), (∀ a, (∀ c < mapBytesOf ar, pa c ≠ a) → m.get a = s.mem.get a) →
      engAccess { s with mem := m } w [] write true (ar.1 + b) 1 = .ok [(pg, 1)]
/-- The two state bits of granule i: bit 0 in use, bit 1 a block begins there. -/
def granuleIs (m : Memory) (pa : Nat → Nat) (i : Nat) : Nat := (m.get (pa (i / 4))).toNat / 4 ^ (i % 4) % 4
/-- Run j of n granules is the lowest free one (17 R360). -/
def FirstFit (m : Memory) (pa : Nat → Nat) (ar : Nat × Nat) (n j : Nat) : Prop :=
  let free (k : Nat) : Prop := granuleIs m pa k % 2 = 0
  mapGranules ar ≤ j ∧ j + n ≤ granulesOf ar ∧ (∀ k, j ≤ k → k < j + n → free k) ∧
    ∀ i, mapGranules ar ≤ i → i < j → ∃ k, i ≤ k ∧ k < i + n ∧ ¬free k
/-- Only the map of an arena has changed, granule i to what `f` says. -/
def MapIs (m m' : Memory) (pa : Nat → Nat) (ar : Nat × Nat) (f : Nat → Nat) : Prop :=
  (∀ i < 4 * mapBytesOf ar, granuleIs m' pa i = f i) ∧ ∀ a, (∀ b < mapBytesOf ar, pa b ≠ a) → m'.get a = m.get a

end Sys2Proof.Claims

open Sys2Proof Sys2Proof.Machine Sys2Proof.Claims in
/-- R359 to R361, R370: ALLOC gives the address of the lowest run of free granules in the group's arena, else in the shared
pool, and marks it in the map: in use, the first granule as a beginning; it gives 0 where neither arena has one, or the
launch no pool, or the size is 0. FREE of a block that begins there clears its granules, FREE of 0 does nothing; any other
address, unaligned, in a map, not the beginning of a block in use, or outside the pool, traps PERM and changes nothing. What
the map holds of its own granules is log 63. -/
def Obligations.Allocator : Prop :=
  (∀ (s : State) (t g : Nat) (h : Hdr) (d : Reg) (size : Opd) (l : Nat),
    let i : Instr := .alloc h d size
    let gr := s.grp t g
    let la := s.launchOf t
    let n := (amount gr size l + 63) / 64
    let own := groupPool la (s.team t).linear g
    let shared := sharedPoolOf la
    let w := whoLaunch la
    let gives (a : Nat) (s' : State) : Prop := exec i s = .next s' ∧ s'.buffer = s.buffer ∧ OtherGroupsKept s s' t g ∧
      GroupFrame ⟨h, [], [(d, 2)], [], false, false, false⟩ s s' t g i.size ∧ regGet (s'.grp t g) d l 2 = a
    let marked (m : Memory) (pa : Nat → Nat) (j k : Nat) : Nat :=
      if j ≤ k ∧ k < j + n then (if k = j then 3 else 1) else granuleIs m pa k
    Acts i s t g h → OneActs s t g h d l → la.trace = none → Plain s →
    ((n = 0 ∨ la.f 832 64 = 0) → ∃ s', gives 0 s' ∧ OnlyGroup s s' t g) ∧
    (n ≠ 0 → la.f 832 64 ≠ 0 →
      (∀ pa j, MapAt s w own pa → FirstFit s.mem pa own n j → own.1 + 64 * j < 2 ^ 64 →
        ∃ s', gives (own.1 + 64 * j) s' ∧ MapIs s.mem s'.mem pa own (marked s.mem pa j)) ∧
      (∀ pa qa, MapAt s w own pa → MapAt s w shared qa → (∀ j, ¬FirstFit s.mem pa own n j) →
        (∀ j, FirstFit s.mem qa shared n j → shared.1 + 64 * j < 2 ^ 64 →
          ∃ s', gives (shared.1 + 64 * j) s' ∧ MapIs s.mem s'.mem qa shared (marked s.mem qa j)) ∧
        ((∀ j, ¬FirstFit s.mem qa shared n j) → ∃ s', gives 0 s' ∧ OnlyGroup s s' t g)))) ∧
  (∀ (s : State) (t g : Nat) (h : Hdr) (a : Reg) (l : Nat),
    let i : Instr := .free h a
    let gr := s.grp t g
    let la := s.launchOf t
    let w := whoLaunch la
    let x := regGet gr a l 2
    let range := la.f 800 32 * 65536
    let perm : Prop := EffectTrap i s t g h 0x07 (BitVec.ofNat 32 x) (BitVec.ofNat 32 (x / 2 ^ 32)) 0 0
    Acts i s t g h → OneActs s t g h a l → la.trace = none → Plain s → la.teamCount * la.f 768 32 ≤ range →
    (x = 0 → ∃ s', exec i s = .next s' ∧ OnlyGroup s s' t g ∧ KeepsGroup s s' t g i.size) ∧
    (∀ (ar : Nat × Nat) (k r : Nat) (pa : Nat → Nat), x ≠ 0 → la.f 832 64 ≠ 0 →
      (ar = sharedPoolOf la ∨ ∃ u j, u < la.teamCount ∧ j < la.groups ∧ ar = groupPool la u j) → ar.1 ≤ x → x < ar.1 + ar.2 →
      x - ar.1 = 64 * k + r → r < 64 → MapAt s w ar pa →
      (r = 0 → mapGranules ar ≤ k → k < granulesOf ar → granuleIs s.mem pa k = 3 →
        ∀ n, 0 < n → k + n ≤ granulesOf ar → (∀ j, k < j → j < k + n → granuleIs s.mem pa j = 1) →
          (k + n = granulesOf ar ∨ granuleIs s.mem pa (k + n) ≠ 1) →
          ∃ s', exec i s = .next s' ∧ OtherGroupsKept s s' t g ∧ KeepsGroup s s' t g i.size ∧
            MapIs s.mem s'.mem pa ar (fun j => if k ≤ j ∧ j < k + n then 0 else granuleIs s.mem pa j)) ∧
      (r ≠ 0 ∨ k < mapGranules ar ∨ (k < granulesOf ar ∧ granuleIs s.mem pa k ≠ 3) → HasPart s t → perm)) ∧
    (x ≠ 0 → la.f 832 64 = 0 ∨ x < la.f 832 64 ∨ la.f 832 64 + range ≤ x → HasPart s t → perm)) ∧
  (∀ (s : State) (w : Who) (a : Arena) (n fuel i j : Nat), 0 < n → firstFit s w a n fuel i 0 = .ok (some j) →
    let free (k : Nat) : Prop := ∃ x, granuleState s w a k = some x ∧ x % 2 = 0
    i ≤ j ∧ j + n ≤ i + fuel ∧ (∀ k, j ≤ k → k < j + n → free k) ∧ ∀ j', i ≤ j' → j' < j → ∃ k, j' ≤ k ∧ k < j' + n ∧ ¬free k)

namespace Sys2Proof.Claims

open Sys2Proof.Machine

/-! Calls of the supervisor and the monitor (17 R372). -/

/-- s0 and s1 after a call, so far as the team declares them; every other register as it was. -/
def Returned (x y : Group) (declared : Nat) (s0 s1 : Word) : Prop :=
  (0 < declared → y.s.get 0 = s0) ∧ (1 < declared → y.s.get 1 = s1) ∧
    (∀ k, 2 ≤ k ∨ declared ≤ k → y.s.get k = x.s.get k) ∧ y.v = x.v ∧ y.p = x.p ∧ y.tok = x.tok ∧ y.draw = x.draw ∧
    y.rng = x.rng ∧ FlagsKept x y

/-- The lanes of E park for the called side, whose service it is; their waiting stores are performed for the device (10
Table 10.2). -/
def Calls (i : Instr) (s : State) (t g : Nat) (h : Hdr) (svc : BitVec 16) : Prop :=
  ∃ s', exec i s = .next s' ∧ OnlyGroup { s with buffer := s'.buffer } s' t g ∧ Released t g (eligible s t g h) .dev s s' ∧
    SameRegisters (s.grp t g) (s'.grp t g) ∧ Parks s s' t g i.size (eligible s t g h) (.hvc svc)

/-- What holds of the state as the monitor meets it: the waiting stores of the lanes of E are due for the device. -/
def MonitorMeets (s : State) (t g : Nat) (h : Hdr) (P : State → Prop) : Prop :=
  ∃ b, Released t g (eligible s t g h) .dev s { s with buffer := b } ∧ P { s with buffer := b }

/-- A monitor service has acted on the state that it met: s0 holds what it states, where it states one, the lanes of I go
on, and the partition is as `p` says; no byte, no other group, team or launch changes. -/
def Serves (i : Instr) (s s₁ : State) (t g : Nat) (result : Option Word) (p : Part → Prop) : Prop :=
  ∃ s' a b, exec i s = .next s' ∧ Returned (s.grp t g) (s'.grp t g) (s.launchOf t).sregs a b ∧
    (∀ x, result = some x → a = x) ∧ Advances s s' t g i.size ∧ OtherGroupsKept s s' t g ∧ s'.mem = s₁.mem ∧
    s'.buffer = s₁.buffer ∧ s'.launches = s.launches ∧ p (s'.partOf t)

/-- Two uniform registers as an address. -/
def pairAt (g : Group) (n : Nat) : Nat := (g.s.get n).toNat + 2 ^ 32 * (g.s.get (n + 1)).toNat

/-- Group g of team t stands, runs freely and holds this wait alone. -/
def OneWait (s : State) (t g : Nat) (w : Wait) : Prop :=
  Exists s t g ∧ (s.team t).phase = .resident ∧ (s.grp t g).waits = [w] ∧ w.done = none ∧ w.held = false ∧
    (s.grp t g).stopped = none ∧ (s.grp t g).taken = none

end Sys2Proof.Claims

open Sys2Proof Sys2Proof.Machine Sys2Proof.Claims in
/-- R372: HVC parks its lanes until the called side returns s0 and s1; a service that the called side does not define returns
0xFFFF_FFFF in s0 (which ones it defines is free, log 12). A group with supervisor rights is served by the monitor: 0x0001
registers a queue, in the world of the granule of its descriptor, 0x0002 a collective group, 0x0003 adds frames to a pool,
0x0004 retires a ROOT without a live launch, 0x0005 sets the hang threshold, 0x0010 writes a quote; results that no rule
states are free (log 12). Registrations that change nothing: log 64; the layout of the list of frames: log 65. -/
def Sys2Proof.Claims.SupervisorCalls : Prop :=
  (∀ (s : State) (t g : Nat) (h : Hdr),
    let gr := s.grp t g
    let la := s.launchOf t
    let pt := s.partOf t
    let w : Who := { whoPart la.part la.world true with root := la.ctxRoot }
    (∀ svc, Acts (.hvc h svc) s t g h → Calls (.hvc h svc) s t g h svc) ∧
    -- without rights every service is a call of the partition supervisor
    (¬Rights s t g →
      (∀ x ∈ [(Instr.registerQueue h, (1 : BitVec 16)), (.registerCollectiveGroup h, 2), (.addFrames h, 3), (.retireRoot h, 4),
          (.setHangThreshold h, 5), (.attestationQuote h, 0x10)], Acts x.1 s t g h → Calls x.1 s t g h x.2)) ∧
    (Rights s t g → HasPart s t →
      (Acts (.registerQueue h) s t g h → MonitorMeets s t g h fun s₁ =>
        let i := Instr.registerQueue h
        (∀ pg, pageIn s₁ la.part la.ctxRoot (pairAt gr 0) = some pg → (gr.s.get 3).toNat % 2 ^ 16 ≠ 0 →
          Serves i s s₁ t g none fun p => p = { pt with
            queues := pt.queues.filter (fun x => x.desc.toNat != pairAt gr 0) ++
              [{ desc := BitVec.ofNat 64 (pairAt gr 0), sys := (gr.s.get 2).getLsbD 0, root := (gr.s.get 3).setWidth 16,
                 world := granuleWorld s pg.pa }] }) ∧
        (pageIn s₁ la.part la.ctxRoot (pairAt gr 0) = none ∨ (gr.s.get 3).toNat % 2 ^ 16 = 0 →
          Serves i s s₁ t g none fun p => p = pt)) ∧
      (Acts (.registerCollectiveGroup h) s t g h → MonitorMeets s t g h fun s₁ =>
        Plain s → ∀ (x : Nat) (ms : List Nat), partRead s₁ w (pairAt gr 0) 16 = some x →
          (x / 2 ^ 16 % 8 = 4 ∨ x / 2 ^ 16 % 8 = 5) → ms.length = x / 2 ^ 32 % 2 ^ 32 → 1 ≤ ms.length → ms.length ≤ 2097152 →
          (∀ j < ms.length, partRead s₁ w (pairAt gr 0 + 16 + 8 * j) 8 = ms[j]?) →
          (∀ c ∈ pt.colls, c.id ≠ BitVec.ofNat 16 x) →
          Serves (.registerCollectiveGroup h) s s₁ t g none fun p => p = { pt with colls := pt.colls ++
            [{ id := BitVec.ofNat 16 x, scope := if x / 2 ^ 16 % 8 = 4 then .pod else .sys,
               deadline := BitVec.ofNat 32 (x / 2 ^ 64), members := ms.map (BitVec.ofNat 64) }] }) ∧
      (Acts (.addFrames h) s t g h → MonitorMeets s t g h fun s₁ =>
        Plain s → ∀ es : List Nat, es.length = (gr.s.get 4).toNat → (∀ j < es.length, partRead s₁ w (pairAt gr 2 + 8 * j) 8 = es[j]?) →
          let root := (gr.s.get 0).toNat
          Serves (.addFrames h) s s₁ t g none fun p => (kGet p.pools root).getD [] =
            (kGet pt.pools root).getD [] ++ es.map (fun e => e / 2 ^ 16 % 2 ^ 36)) ∧
      (Acts (.retireRoot h) s t g h → MonitorMeets s t g h fun s₁ =>
        let root := (gr.s.get 0).toNat
        ((∀ n, launchLive s n = true → (s.launch n).part = la.part → (s.launch n).lineage.toNat % 2 ^ 16 ≠ root) →
          Serves (.retireRoot h) s s₁ t g none fun p => kGet p.pools root = none ∧
            ∀ q, q ∈ p.queues ↔ q ∈ pt.queues ∧ q.root.toNat ≠ root) ∧
        ((∃ n, launchLive s n = true ∧ (s.launch n).part = la.part ∧ (s.launch n).lineage.toNat % 2 ^ 16 = root) →
          Serves (.retireRoot h) s s₁ t g none fun p => p = pt)) ∧
      (Acts (.setHangThreshold h) s t g h → MonitorMeets s t g h fun s₁ =>
        let n := (gr.s.get 0).toNat
        (1 ≤ n → n ≤ 60000 → Serves (.setHangThreshold h) s s₁ t g (some 0) fun p => p = { pt with hangMs := n }) ∧
        (n = 0 ∨ 60000 < n → Serves (.setHangThreshold h) s s₁ t g (some 0xFFFFFFFF) fun p => p = pt)) ∧
      (Acts (.attestationQuote h) s t g h → MonitorMeets s t g h fun s₁ =>
        Plain s → ∀ x s₂, partRead s₁ w (pairAt gr 0) 32 = some x →
          putList w (la.lineage.toNat % 2 ^ 16) (pairAt gr 2) (quoteBytes s la.part (BitVec.ofNat 256 x)) s₁ = some s₂ →
          s₂.teams = s.teams →
          ∃ s' a b, exec (.attestationQuote h) s = .next s' ∧ Returned gr (s'.grp t g) la.sregs a b ∧ s'.mem = s₂.mem ∧
            Advances s s' t g (Instr.size (.attestationQuote h)) ∧ OtherGroupsKept s s' t g))) ∧
  -- the return of a call
  (∀ (s : State) (t g : Nat) (w : Wait) (svc : BitVec 16) (a b : Word), OneWait s t g w → w.kind = .hvc svc →
    ∃ s', exec (.hvcReturn t g 0 a b) s = .next s' ∧ OnlyGroup s s' t g ∧
      Returned (s.grp t g) (s'.grp t g) (s.launchOf t).sregs (if calledDefines s t g svc = true then a else 0xFFFFFFFF) b ∧
      (s'.grp t g).waits = [] ∧
      ∀ l < 32, (s.grp t g).exited.getLsbD l = false →
        (s'.grp t g).pcv.get l = if w.lanes.getLsbD l then w.next else (s.grp t g).pcv.get l)

namespace Sys2Proof.Claims

open Sys2Proof.Machine

/-! The dispatcher (17, 13 R273, R274) and pre-emption (18 R377 to R379). -/

/-- Fields of a ring's descriptor, read at a physical address (13 Table 13.8). -/
def ringField (s : State) (a lo n : Nat) : Nat := Store.readLe s.mem a 64 / 2 ^ lo % 2 ^ n

/-- A new team of launch n: its place and what R85, R87, R104 and R169 give it. -/
def TeamStarts (s : State) (n : Nat) (k : Core) (tm : Team) : Prop :=
  let l := s.launch n
  tm.launch = n ∧ tm.linear = l.next ∧ tm.die = k.1 ∧ tm.core = k.2 ∧ tm.phase = .resident ∧ tm.groups.length = l.groups ∧
    tm.bars = List.replicate l.bars {} ∧ tm.scratch = [] ∧ tm.slots = [] ∧ tm.children = [] ∧
    tm.trapBase = BitVec.ofNat 64 (l.f 576 64) ∧ tm.rngKey = BitVec.ofNat 32 (l.f 512 32) ∧
    tm.seq.named = decide (l.stream ≠ 0) ∧ tm.seq.pc = l.stream ∧ tm.touched = BitVec.ofNat 4 (2 ^ k.1) ∧
    tm.ctrBase.val = BitVec.ofNat 32 (l.f 20 3) ∧ (∀ g < l.groups, (tm.group g).ctr = tm.ctrBase) ∧
    ∀ g < l.groups, (tm.group g).exited = 0 ∧ (tm.group g).waits = [] ∧ (tm.group g).handler = false ∧ (tm.group g).gstat = 0 ∧
      (tm.group g).mode = BitVec.ofNat 32 (l.f 18 2) ∧ ∀ lane < 32, (tm.group g).pcv.get lane = l.code

/-- A launch in the ready pool of partition p whose next team can be placed. -/
def Placeable (s : State) (p n : Nat) : Prop :=
  n < s.launches.length ∧ (s.launch n).part = p ∧ (s.launch n).phase = .ready ∧ (s.launch n).next < (s.launch n).teamCount ∧
    (placeAt s (fun _ => false) n).isSome = true

/-- A group that pre-emption asks for and has not taken; its team is no PAIR unit. -/
def Asked (s : State) (t g : Nat) : Prop :=
  Exists s t g ∧ (s.team t).phase = .resident ∧ (s.team t).preemptAt.isSome = true ∧ (s.grp t g).ended = false ∧
    (s.grp t g).taken = none ∧ (s.launchOf t).pkt.getLsbD 14 = false ∧ s.silent = []
/-- Another group of the team is still to be taken. -/
def OneMore (s : State) (t g : Nat) : Prop :=
  ∃ k, k ≠ g ∧ k < (s.team t).groups.length ∧ (s.grp t k).ended = false ∧ (s.grp t k).taken = none
/-- The group, and nothing else, is taken with a live mask. -/
def Takes (i : Instr) (s : State) (t g : Nat) (mask : BitVec 61) (forced : Bool) : Prop :=
  ∃ s', exec i s = .next s' ∧ OnlyGroup s s' t g ∧ s'.grp t g = { s.grp t g with taken := some (mask, forced) }

end Sys2Proof.Claims

open Sys2Proof Sys2Proof.Machine Sys2Proof.Claims in
/-- R273, R348 to R358, R98, R274: a queue's next packet becomes a launch or a copy command, its slot is emptied and RIDX
advances; the ready launch of highest PRIO, then the earliest, starts its next team on a core that can hold it; an ended
team leaves its core; a grid whose teams have retired completes with the lowest nonzero status that applies; records enter
their rings, or wait. What memory and registers hold that nothing has written: logs 1, 2; the rings' addresses: log 37;
where raised interrupts are kept: log 93; with which rights the part reads packets and rings: log 23; the context root of a packet's launch is free, log 14. -/
def Obligations.Dispatcher : Prop :=
  -- LAUNCH_PACKET_START
  (∀ (s s₂ : State) (p q : Nat) (x : QueueReg) (d₀ d b : Nat), (kGet s.parts p).isSome = true →
    (s.part p).queues[q]? = some x →
    let s₁ := queueSee p x 128 s
    let w := whoPart p x.world x.sys
    let r := d / 2 ^ 192 % 2 ^ 64
    let slot := (d % 2 ^ 64 + 128 * (r % 2 ^ (d / 2 ^ 64 % 2 ^ 5))) % 2 ^ 64
    partRead s₁ w x.desc.toNat 16 = some d₀ → d₀.testBit 69 = true → partRead s₁ w x.desc.toNat 64 = some d →
    d / 2 ^ 128 % 2 ^ 64 ≠ r → partRead s₁ w slot 128 = some b → b < 2 ^ 1024 →
    b % 2 ^ 8 ≠ 0 → tablesFull s p (BitVec.ofNat 1024 b) = false → b.testBit 16 = false → b.testBit 17 = false →
    b / 2 ^ 640 % 2 ^ 64 = 0 →
    ((partWrite w x.root.toNat slot 1 0 s₁).bind fun s => partWrite w x.root.toNat (x.desc.toNat + 24) 8 ((r + 1) % 2 ^ 64) s) =
      some s₂ →
    let n := s.launches.length
    ∃ s', exec (.launchPacketStart p q) s = .next s' ∧ (b / 2 ^ 832 % 2 ^ 64 = 0 → s'.mem = s₂.mem) ∧ s'.teams = s.teams ∧
      s'.launches.length = n + 1 ∧ (∀ j < n, s'.launch j = s.launch j) ∧
      let l := s'.launch n
      l.part = p ∧ l.pkt = BitVec.ofNat 1024 b ∧ l.parent = none ∧ l.world = x.world ∧ l.prio.toNat = b / 2 ^ 8 % 2 ^ 4 ∧
        l.sys = (b.testBit 15 && x.sys) ∧ l.ctxRoot = Config.contextRoot s.tick ∧ l.lineage.toNat % 2 ^ 20 = x.root.toNat ∧
        l.lid = (if b / 2 ^ 32 % 2 ^ 32 = 0 then (s.part p).nextLid else BitVec.ofNat 32 (b / 2 ^ 32)) ∧
        l.phase = (if packetBad (BitVec.ofNat 1024 b) false = none ∧ (b.testBit 15 = true → x.sys = true) ∧
            packetRefused s { noLaunch with part := p, pkt := BitVec.ofNat 1024 b } = false then .ready else .ending 5)) ∧
  -- COPY_PACKET_START
  (∀ (s : State) (p q : Nat) (x : QueueReg) (d r slot b : Nat),
    let s₁ := queueSee p x 64 s
    let w := whoPart p x.world x.sys
    (s.part p).queues[q]? = some x → partRead s₁ w x.desc.toNat 16 = some d → d.testBit 69 = false →
    queueHead s₁ p x 64 = some (r, slot) → partRead s₁ w slot 64 = some b → b % 2 ^ 8 ≠ 0 →
    ∀ s₂, queueAdvance p x r slot s₁ = some s₂ →
    ∃ s' c, exec (.copyPacketStart p q) s = .next s' ∧ s'.teams = s.teams ∧ s'.launches = s.launches ∧
      s'.cmds[s.cmds.length]? = some c ∧ c.kind = .packet (BitVec.ofNat 512 b) ∧ c.part = p ∧ c.team = none ∧
      c.world = x.world ∧ c.status = (if packetIll b then some 5 else none) ∧
      (packetIll b = false → s'.mem = s₂.mem ∧ s'.records = s₁.records)) ∧
  -- TEAM_PLACE
  (∀ (s : State) (p n : Nat) (k : Core), nextPlace s p = some (n, k) →
    Placeable s p n ∧ canHold s (fun _ => false) (s.launch n) k = true ∧
    (∀ m, m ≠ n → Placeable s p m → (s.launch m).prio < (s.launch n).prio ∨
      ((s.launch n).prio = (s.launch m).prio ∧ (s.launch n).order < (s.launch m).order)) ∧
    ((s.launch n).pkt.getLsbD 14 = false → (s.launch n).trace = none → (∀ t < s.teams.length, (s.team t).phase ≠ .saved) →
      ∃ s' tm, exec (.teamPlace p) s = .next s' ∧ s'.teams = s.teams ++ [tm] ∧ s'.mem = s.mem ∧ TeamStarts s n k tm ∧
        s'.launch n = { s.launch n with next := (s.launch n).next + 1 } ∧ ∀ j, j ≠ n → s'.launch j = s.launch j)) ∧
  -- TEAM_RETIRE
  (∀ (s : State) (t : Nat), t < s.teams.length →
    let tm := s.team t
    let left : TeamPhase := if (∀ c ∈ tm.children, c.status.isSome = true) then .retired else .retiredPending
    (tm.phase = .resident → (∀ g ∈ tm.groups, g.ended = true) → tm.seq.stat.getLsbD 2 = true → tm.heldTrap = none →
      tm.saveArea = none →
      ∃ s', exec (.teamRetire t) s = .next s' ∧
        s' = { s.modTeam t (fun _ => s'.team t) with mem := s'.mem, buffer := s'.buffer } ∧
        (∀ r ∈ s'.buffer, r.team ≠ t) ∧ (s.buffer = [] → s'.mem = s.mem) ∧ (s'.team t).phase = left ∧
        (∀ g ∈ (s'.team t).groups, g = { ended := true }) ∧ (s'.team t).scratch = [] ∧ (s'.team t).tiles = [] ∧
        (s'.team t).touched = tm.touched ∧ (s'.team t).children = tm.children) ∧
    (tm.phase = .retiredPending → left = .retired → tm.heldTrap = none →
      ∃ s', exec (.teamRetire t) s = .next s' ∧ OnlyTeam s s' t ∧ (s'.team t).phase = .retired)) ∧
  -- GRID_COMPLETION
  (∀ (s : State) (n : Nat), n < s.launches.length → (∀ t < s.teams.length, (s.team t).launch = n → (s.team t).phase = .retired) →
    let l := s.launch n
    ((l.phase = .ready ∧ l.teamCount ≤ l.next) ∨ ∃ st, l.phase = .ending st) →
    ∃ s' st, exec (.gridCompletion n) s = .next s' ∧ (s'.launch n).phase = .done st ∧
      (l.fcount ≠ 0 → st = 1) ∧ (l.fcount = 0 → l.dieLost = true → st = 2) ∧
      (l.fcount = 0 → l.dieLost = false → l.phase = .ready → st = 0) ∧
      (l.fcount = 0 → l.dieLost = false → ∀ e, l.phase = .ending e → st = e) ∧
      -- where an earlier record waits for the ring, this one waits behind it
      (l.f 448 64 ≠ 0 → (∃ q ∈ s.records, q.part = l.part ∧ q.ring.toNat = l.f 448 64 ∧ q.phys = false ∧ q.ctxRoot = l.ctxRoot ∧
          q.slots ≠ []) →
        ∃ r, s'.records = s.records ++ [r] ∧ r.ring.toNat = l.f 448 64 ∧ r.slots.length = 1 ∧ r.launch = some n ∧
          (∀ d < 4, (recordBits r 112 4).testBit d = true ↔
            ∃ t < s.teams.length, (s.team t).launch = n ∧ (s.team t).touched.getLsbD d = true) ∧
          recordBits r 64 32 = l.lid.toNat ∧ recordBits r 96 8 = st.toNat ∧ recordBits r 104 2 = 0 ∧
          recordBits r 128 8 = l.fcode.toNat ∧ recordBits r 136 24 = min l.fcount (2 ^ 24 - 1) ∧
          recordBits r 160 32 = l.fteam.toNat ∧ recordBits r 192 64 = l.lineage.toNat)) ∧
  -- EVENT_RECORD_WRITE, for the error and fault rings
  (∀ (s : State) (r : Record), Plain s → s.records = [r] → r.phys = true → r.launch = none → r.cmd = none → r.signal = 0 →
    r.slots ≠ [] →
    let a := r.ring.toNat
    let f (lo n : Nat) : Nat := ringField s a lo n
    let size := 2 ^ f 64 5
    let n := r.slots.length
    a + 64 ≤ devBase → f 0 64 + 32 * size ≤ devBase → (a + 64 ≤ f 0 64 ∨ f 0 64 + 32 * size ≤ a) →
    ((f 128 64 + 2 ^ 64 - f 192 64) % 2 ^ 64 + n ≤ size →
      ∃ s', exec (.eventRecordWrite 0) s = .next s' ∧ s'.records = [] ∧ s'.teams = s.teams ∧
        (∀ j < n, Store.readLe s'.mem (f 0 64 + 32 * ((f 128 64 + j) % size)) 32 = (r.slots.getD j 0).toNat) ∧
        Store.readLe s'.mem (a + 16) 8 = (f 128 64 + n) % 2 ^ 64 ∧
        (f 256 16 ≠ 0 → f 256 16 ≤ (f 128 64 + n + 2 ^ 64 - f 192 64) % 2 ^ 64 →
          s'.interrupts = s.interrupts ++ [(BitVec.ofNat 16 (f 304 16), r.ring)])) ∧
    (size < (f 128 64 + 2 ^ 64 - f 192 64) % 2 ^ 64 + n →
      (n ≠ 1 → exec (.eventRecordWrite 0) s = .next s) ∧
      -- an error entry is counted; the entry that will tell the count has the first one's time (18 R384)
      (n = 1 → (kGet s.parts r.part).isSome = true → ∃ s', exec (.eventRecordWrite 0) s = .next s' ∧ s'.records = [] ∧
        s'.mem = s.mem ∧ (s'.part r.part).lostErrs = (s.part r.part).lostErrs + 1 ∧
        ((s.part r.part).lostErrs = 0 → (s'.part r.part).lostAt = recordBits r 0 64)))) ∧
  -- EVENT_RING_TIME_TRIGGER
  (∀ (s s₁ : State) (u : Unread) (k d : Nat), s.unread[k]? = some u →
    ringRead { whoPart u.part u.world true with root := u.ctxRoot } u.phys u.ring.toNat 64 s = .ok (s₁, d) →
    let f (lo n : Nat) : Nat := d / 2 ^ lo % 2 ^ n
    let unread : Prop := (f 128 64 + 2 ^ 64 - u.index) % 2 ^ 64 ≤ (f 128 64 + 2 ^ 64 - f 192 64) % 2 ^ 64
    (¬unread → exec (.eventRingTimeTrigger k) s = .next { s₁ with unread := s₁.unread.eraseIdx k }) ∧
    (unread → f 272 32 ≠ 0 → f 272 32 ≤ now s₁ - u.since → exec (.eventRingTimeTrigger k) s = .next
      { s₁ with unread := s₁.unread.eraseIdx k, interrupts := s₁.interrupts ++ [(BitVec.ofNat 16 (f 304 16), u.ring)] }))

namespace Sys2Proof.Claims

open Sys2Proof.Machine

/-! The save area (18 R380). -/

/-- A number rounded up to a multiple of n. -/
def upTo (n x : Nat) : Nat := (x + n - 1) / n * n
/-- Bytes of a group record. -/
def groupRecordSize (l : Launch) : Nat := 1024 + 128 * l.vregs + upTo 64 (4 * l.sregs)
/-- Sizes of the sections, and where they start (Table 18.2). -/
def sectionSize (l : Launch) : Nat → Nat
  | 0 => 512
  | 1 => l.groups * groupRecordSize l
  | 2 => 16 * l.bars
  | 3 => 64 * l.nqueues
  | 4 => 128
  | 5 => 2048
  | 6 => 65536 * l.accs
  | 7 => 576 * l.selRows
  | 8 => if l.stream = 0 then 0 else 345088 + 4096
  | 9 => l.scratchBytes
  | _ => 0
def sectionStart (l : Launch) : Nat → Nat
  | 0 => 0
  | k + 1 =>
    let a := sectionStart l k + sectionSize l k
    if sectionSize l (k + 1) = 0 then a else upTo 256 a
/-- n bytes of an area at a, o bytes into section k. -/
def areaAt (m : Memory) (l : Launch) (a k o n : Nat) : Nat := Store.readLe m (a + sectionStart l k + o) n
/-- The same in the record of group i. -/
def recordAt (m : Memory) (l : Launch) (a i o n : Nat) : Nat := areaAt m l a 1 (groupRecordSize l * i + o) n

/-- TILES' byte of a state (Table 18.3). -/
def tileByte : TileState → Nat
  | .seq => 0
  | .team => 1
  | .group g => 2 + 4 * g
  | .sealed b sel => 3 + 4 * b2n b + 8 * b2n sel
/-- Valid and phase bits of recorded phases (11 R239), in a number. -/
def PhasesAre (x : Nat) (b : List (Nat × Bool)) : Prop :=
  ∀ k < 256, x.testBit (2 * k) = (kGet b k).isSome ∧ x.testBit (2 * k + 1) = (kGet b k).getD false

/-- The team header (Table 18.3), of a team without a stage under way; `time`: TIME at the save. -/
def HeaderSaved (m : Memory) (l : Launch) (tm : Team) (a time : Nat) : Prop :=
  let r (o n : Nat) : Nat := areaAt m l a 0 o n
  r 0 4 = 1 ∧ r 4 4 = l.lid.toNat ∧ r 8 8 = l.lineage.toNat ∧ r 16 4 = tm.linear % 2 ^ 32 ∧
  (∀ i < 32, (r 20 4).testBit i = (tm.slot i).isSome) ∧ (∀ i < 8, (r 24 1).testBit i = (tm.tile i).x128) ∧
  r 25 1 = tm.ctrBase.val.toNat % 8 ∧ r 26 2 = 0 ∧ r 28 4 = tm.seq.cw.toNat ∧ r 32 8 = tm.seq.pc.toNat ∧
  r 40 1 = b2n (tm.seq.stat.getLsbD 1) + 2 * b2n (tm.seq.stat.getLsbD 2) ∧ r 41 2 = 0 ∧ r 43 1 = tm.touched.toNat ∧
  r 44 8 = time % 2 ^ 64 ∧ r 52 4 = tm.logical % 2 ^ 32 ∧
  (∀ i < tm.tiles.length, r (56 + i) 1 = tileByte (tm.tile i).state) ∧ r 64 8 = tm.trapBase.toNat ∧
  r 72 4 = tm.selCfg.toNat ∧ r 76 4 = tm.rngKey.toNat ∧ r 80 4 = tm.seq.stat.toNat ∧ PhasesAre (r 84 64) tm.seq.bphase ∧
  r 148 364 = 0

/-- The record of group i (Table 18.4), with a live mask; bytes of registers that it does not mark are as they were in m₀.
Tokens: 0 empty, 1 complete, 2 an error with its code, 3 an outstanding COLL. -/
def GroupSaved (s : State) (m₀ m : Memory) (l : Launch) (x : Group) (a i : Nat) (mask : BitVec 61) (forced : Bool) : Prop :=
  let r (o n : Nat) : Nat := recordAt m l a i o n
  (∀ lane < 32,
    -- a parked lane stands at its blocking instruction (R379)
    (x.parked.getLsbD lane = false ∨ x.exited.getLsbD lane = true → r (8 * lane) 8 = (x.pcv.get lane).toNat) ∧
    (∀ w ∈ x.waits, w.running = false → w.lanes.getLsbD lane = true → x.exited.getLsbD lane = false →
      (∀ w' ∈ x.waits, w'.running = false → w'.lanes.getLsbD lane = true → w'.pc = w.pc) → r (8 * lane) 8 = w.pc.toNat) ∧
    r (256 + 8 * lane) 8 = (x.spcv.get lane).toNat ∧ r (512 + 4 * lane) 4 = (x.draw.get lane).toNat ∧
    r (640 + 4 * lane) 4 = (x.rng.get lane).toNat) ∧
  (∀ k < 7, r (768 + 4 * k) 4 = (x.pred (k + 1)).toNat) ∧ r 796 4 = x.exited.toNat ∧ r 800 4 = x.parked.toNat ∧
  r 804 4 = x.gstat.toNat ∧ r 808 4 = x.mode.toNat ∧ r 812 4 = x.cause.toNat ∧ r 816 8 = x.tpc.toNat ∧
  r 824 4 = x.tlanes.toNat ∧ r 828 4 = x.info0.toNat ∧ r 832 4 = x.info1.toNat ∧ r 836 4 = x.info2.toNat ∧
  r 840 4 = x.info3.toNat ∧ r 844 4 = b2n x.handler + 2 * b2n x.serial + 4 * b2n forced ∧
  r 848 8 = (if forced then 2 ^ 64 - 1 else 3 + 4 * mask.toNat) ∧
  (∀ k < 16, (x.token k = .empty ∨ mask.getLsbD (56 + k / 4) = false → r (856 + 4 * k) 4 = 0) ∧
    ∀ n, x.token k = .names n → mask.getLsbD (56 + k / 4) = true →
      (s.cmd? n = none → r (856 + 4 * k) 4 = 1) ∧
      ∀ c, s.cmd? n = some c →
        (∀ st, c.status = some st → r (856 + 4 * k) 4 = if st = 0 then 1 else 2 + 256 * st.toNat) ∧
        (c.status = none → isColl c.kind = true → r (856 + 4 * k) 4 = 3)) ∧
  PhasesAre (r 920 64) x.bphase ∧ r 984 40 = 0 ∧
  (∀ n < l.vregs, ∀ lane < 32, r (1024 + 4 * (32 * n + lane)) 4 =
    if mask.getLsbD (n / 8) then (x.v.get (32 * n + lane)).toNat else recordAt m₀ l a i (1024 + 4 * (32 * n + lane)) 4) ∧
  ∀ n < l.sregs, r (1024 + 128 * l.vregs + 4 * n) 4 =
    if mask.getLsbD (32 + n / 8) then (x.s.get n).toNat else recordAt m₀ l a i (1024 + 128 * l.vregs + 4 * n) 4

/-- The other sections: barriers (11 Table 11.2), queues and queue registers, slots, tiles, selection rows, FIFOs, scale
memory, latches and VALID bits, the window. The places of a queue's fields, and the codes of its ring, are log 18's. -/
def RestSaved (m : Memory) (l : Launch) (tm : Team) (a : Nat) : Prop :=
  let r (k o n : Nat) : Nat := areaAt m l a k o n
  (∀ i < l.bars, let b := tm.bar i
    r 2 (16 * i) 7 = b.pending.toNat ∧
    r 2 (16 * i + 7) 1 = b2n b.phase + 2 * b2n b.armed + 4 * b2n b.touched + 8 * b2n b.faulted + 16 * b2n b.expset ∧
    r 2 (16 * i + 8) 8 = b.expected.toNat + 64 * b.arrived.toNat) ∧
  (∀ i < l.nqueues, let q := tm.queue i
    r 3 (64 * i) 4 = q.rd % 2 ^ 32 ∧ r 3 (64 * i + 8) 4 = q.cnt % 2 ^ 32 ∧ r 3 (64 * i + 12) 4 = q.allow.toNat ∧
    r 3 (64 * i + 16) 4 = q.ohead % 2 ^ 32 ∧ r 3 (64 * i + 24) 4 = q.ocnt % 2 ^ 32 ∧ r 3 (64 * i + 32) 8 = q.ovf.toNat ∧
    r 3 (64 * i + 40) 4 = q.ovfmax % 2 ^ 32) ∧
  (∀ k < 16, (∃ x ∈ tm.groups, ∃ e, x.taken = some e ∧ e.1.getLsbD (40 + k) = true) → r 4 (8 * k) 8 =
    match kGet tm.qregs k with
    | some (.queue n) => (2 ^ 63 + n) % 2 ^ 64
    | some (.port n) => (2 ^ 63 + 2 ^ 62 + n) % 2 ^ 64
    | none => 0) ∧
  (∀ k < 32, r 5 (64 * k) 64 = ((tm.slot k).getD 0).toNat) ∧
  (∀ i < l.accs, ((tm.tile (i / 4 * 4)).x128 = true → i % 4 = 0) →
    ∀ k, k < (if (tm.tile i).x128 then 65536 else 16384) → r 6 (65536 * i + 4 * k) 4 = ((tm.tile i).data.get k).toNat) ∧
  (∀ i < l.selRows, let x := tm.rows.getD i {}
    r 7 (576 * i) 48 = rowHeader x i % 2 ^ 384 ∧ r 7 (576 * i + 48) 4 = x.reserved % 2 ^ 32 ∧ r 7 (576 * i + 52) 12 = 0 ∧
    ∀ k < 64, r 7 (576 * i + 64 + 8 * k) 8 = ((x.heap[k]?).map fun e => e.1.toNat + 2 ^ 32 * e.2.toNat).getD 0) ∧
  (l.stream ≠ 0 →
    (∀ k < 131072, k < (tm.fa.flatMap Entry.bytes).length →
      r 8 (256 + k) 1 = ((tm.fa.flatMap Entry.bytes).getD k 0).toNat) ∧
    (∀ k < 131072, k < (tm.fb.flatMap Entry.bytes).length →
      r 8 (131328 + k) 1 = ((tm.fb.flatMap Entry.bytes).getD k 0).toNat) ∧
    (∀ k < 4096, r 8 (262400 + 16 * k) 16 = (tm.scale.get k).toNat ∧ r 8 (327936 + 4 * k) 4 = (tm.latch.get k).toNat ∧
      (r 8 (344320 + k / 8) 1).testBit (k % 8) = (tm.valid.get k == 1)) ∧ r 8 344832 256 = 0) ∧
  ∀ k < l.scratchBytes, r 9 k 1 = (tm.scratch.get k).toNat

/-- What a restored team reads in its area (R380): the header's fields, its groups' records. Bits that the spec keeps at 0 read
as 0 (00 R5). -/
def HeaderRestored (m : Memory) (l : Launch) (a : Nat) (tm : Team) : Prop :=
  let r (o n : Nat) : Nat := areaAt m l a 0 o n
  tm.trapBase = BitVec.ofNat 64 (r 64 8) ∧ tm.selCfg = BitVec.ofNat 32 (r 72 4) &&& 0xFF7F ∧ tm.rngKey = BitVec.ofNat 32 (r 76 4) ∧
  tm.ctrBase.val = BitVec.ofNat 32 (r 25 1 % 8) ∧ tm.seq.stat = BitVec.ofNat 32 (r 80 4 % 2 ^ 26) ∧ tm.seq.cw = BitVec.ofNat 32 (r 28 4) ∧
  tm.seq.pc = BitVec.ofNat 64 (r 32 8) ∧
  (∀ k < 256, kGet tm.seq.bphase k = if (r 84 64).testBit (2 * k) then some ((r 84 64).testBit (2 * k + 1)) else none) ∧
  (∀ i < tm.tiles.length, i < 8 → (tm.tile i).x128 = (r 24 1).testBit i ∧
    ∀ st, r (56 + i) 1 = tileByte st → (∀ g, st = .group g → g < 32) → (tm.tile i).state = st) ∧
  (∀ k < 32, tm.slot k = if (r 20 4).testBit k then some (BitVec.ofNat 512 (areaAt m l a 5 (64 * k) 64)) else none) ∧
  (∀ i < tm.bars.length, (tm.bar i).pending = BitVec.ofNat 56 (areaAt m l a 2 (16 * i) 7) ∧
    (tm.bar i).phase = (areaAt m l a 2 (16 * i + 7) 1).testBit 0 ∧ (tm.bar i).faulted = (areaAt m l a 2 (16 * i + 7) 1).testBit 3 ∧
    (tm.bar i).arrived = BitVec.ofNat 6 (areaAt m l a 2 (16 * i + 8) 8 / 64)) ∧
  ∀ k < l.scratchBytes, tm.scratch.get k = m.get (a + sectionStart l 9 + k)
def GroupRestored (m : Memory) (l : Launch) (a i : Nat) (y : Group) : Prop :=
  let r (o n : Nat) : Nat := recordAt m l a i o n
  let live (k : Nat) : Bool := (r 848 8).testBit (k + 2)
  (∀ lane < 32, y.pcv.get lane = BitVec.ofNat 64 (r (8 * lane) 8) ∧ y.spcv.get lane = BitVec.ofNat 64 (r (256 + 8 * lane) 8) ∧
    y.draw.get lane = BitVec.ofNat 32 (r (512 + 4 * lane) 4) ∧ y.rng.get lane = BitVec.ofNat 32 (r (640 + 4 * lane) 4)) ∧
  (∀ k < 7, y.pred (k + 1) = BitVec.ofNat 32 (r (768 + 4 * k) 4)) ∧ y.exited = BitVec.ofNat 32 (r 796 4) ∧
  y.gstat = BitVec.ofNat 32 (r 804 4) &&& 0xFFFF01FF ∧ y.mode = BitVec.ofNat 32 (r 808 4 % 2 ^ 3) ∧
  y.cause = BitVec.ofNat 32 (r 812 4 % 2 ^ 10) ∧
  y.tpc = BitVec.ofNat 64 (r 816 8) ∧ y.tlanes = BitVec.ofNat 32 (r 824 4) ∧ y.info0 = BitVec.ofNat 32 (r 828 4) ∧
  y.info1 = BitVec.ofNat 32 (r 832 4) ∧ y.info2 = BitVec.ofNat 32 (r 836 4) ∧ y.info3 = BitVec.ofNat 32 (r 840 4) ∧
  y.handler = (r 844 4).testBit 0 ∧ y.serial = (r 844 4).testBit 1 ∧ y.taken = none ∧
  (∀ k < 256, kGet y.bphase k = if (r 920 64).testBit (2 * k) then some ((r 920 64).testBit (2 * k + 1)) else none) ∧
  (∀ n < l.vregs, ∀ lane < 32, y.v.get (32 * n + lane) =
    if live (n / 8) then BitVec.ofNat 32 (r (1024 + 4 * (32 * n + lane)) 4) else 0) ∧
  ∀ n < l.sregs, y.s.get n = if live (32 + n / 8) then BitVec.ofNat 32 (r (1024 + 128 * l.vregs + 4 * n) 4) else 0

end Sys2Proof.Claims

open Sys2Proof Sys2Proof.Machine Sys2Proof.Claims in
/-- R377, R379, R380, R48: the save writes the area of the team, its section by section, and no other byte; what the granules'
masks do not mark keeps the bytes that stood there. A resumed team stands on the core as the area says; lanes that are
parked there re-enter only the waiting part. Where an area lies, and what the tables leave open in it, is log 18; that the
part keeps waits and tokens itself, log 38. -/
def Sys2Proof.Claims.SaveArea : Prop :=
  (∀ (s : State) (t g a : Nat), Plain s → Exists s t g → (s.launchOf t).pkt.getLsbD 14 = false → (s.grp t g).taken.isSome = true →
    savable s t = true → (s.team t).seq.attempt = none → (s.team t).seq.rendezvous = none → (s.team t).seq.stage = none →
    (∀ x ∈ (s.team t).groups, x.soft = []) → (s.team t).saveArea = some a →
    (s.team t).groups.length = (s.launchOf t).groups → (s.team t).tiles.length ≤ 8 →
    (∀ i < 8, tileByte ((s.team t).tile i).state < 128) →
    -- the four tiles of an X128 tile go together
    (∀ i < 8, ((s.team t).tile i).x128 = ((s.team t).tile (i / 4 * 4)).x128 ∧
      (((s.team t).tile i).x128 = true → i / 4 * 4 + 4 ≤ (s.launchOf t).accs)) →
    let l := s.launchOf t
    ∃ s', exec (.safePointTake t g) s = .next s' ∧ (∀ u, u ≠ t → s'.team u = s.team u) ∧ (s'.team t).phase = .saved ∧
      (s'.team t).preemptAt = none ∧ (s'.team t).saveArea = some a ∧ s'.buffer = s.buffer ∧
      HeaderSaved s'.mem l (s.team t) a (now s) ∧
      (∀ k m forced, k < l.groups → (s.grp t k).taken = some (m, forced) →
        GroupSaved s s.mem s'.mem l (s.grp t k) a k m forced) ∧
      RestSaved s'.mem l (s.team t) a ∧
      ∀ b, (b < a ∨ a + sectionStart l 10 ≤ b) → s'.mem.get b = s.mem.get b) ∧
  -- the resumption
  (∀ (s : State) (t a : Nat) (k : Core), Plain s → t < s.teams.length → (s.team t).phase = .saved → (s.team t).saveArea = some a →
    (s.launchOf t).pkt.getLsbD 14 = false → Machine.resumeAt s t = some k → (∀ u, u ≠ t → (s.team u).phase ≠ .saved) →
    nextPlace s (s.launchOf t).part = none → (s.team t).answers = [] → (s.team t).lateBytes = [] → (s.team t).seqLost = 0 →
    (s.team t).groups.length = (s.launchOf t).groups →
    (∀ x ∈ (s.team t).groups, ∀ w ∈ x.waits, w.done = none ∧ (∀ ls, w.kind ≠ .yield ls) ∧ ∀ d ks, w.kind ≠ .children d ks) →
    let l := s.launchOf t
    canHold s (fun _ => false) l k = true ∧
    ∃ s', exec (.teamResume t) s = .next s' ∧ s'.mem = s.mem ∧ (∀ u, u ≠ t → s'.team u = s.team u) ∧
      (s'.team t).phase = .resident ∧ (s'.team t).die = k.1 ∧ (s'.team t).core = k.2 ∧
      (s'.team t).logical = logicalOf (s.partOf t) k ∧ (s'.team t).saveArea = none ∧
      HeaderRestored s.mem l a (s'.team t) ∧
      ∀ i < l.groups, GroupRestored s.mem l a i (s'.grp t i) ∧
        (s'.grp t i).waits = (s.grp t i).waits.map fun w =>
          if w.running then w else { w with lanes := w.lanes &&& BitVec.ofNat 32 (recordAt s.mem l a i 800 4) })

open Sys2Proof Sys2Proof.Machine Sys2Proof.Claims in
/-- R356, R377 to R380, R48: a launch whose team fits nowhere pre-empts teams of the lowest PRIO, at least four below its
own, none of them traced; each gets a place in the save region. A group is taken at its safe point with that point's live
mask, or with every bit where all its lanes are parked or 50 µs have passed; a save writes the area, and a saved team
resumes on a core that can hold it as its area says (logs 18, 38). -/
def Obligations.Preemption : Prop :=
  (∀ (s : State) (n : Nat) (ts : List Nat), victims s n = some ts →
    let l := s.launch n
    l.phase = .ready ∧ l.next < l.teamCount ∧
    (∀ t ∈ ts, t < s.teams.length ∧ (s.team t).phase = .resident ∧ (s.launchOf t).part = l.part ∧
      (s.launchOf t).trace = none ∧ (s.launchOf t).prio.toNat + 4 ≤ l.prio.toNat ∧
      ∀ u < s.teams.length, (s.team u).phase = .resident → (s.launchOf u).part = l.part →
        (s.launchOf t).prio ≤ (s.launchOf u).prio) ∧
    ∀ s₁, n < s.launches.length → allocAreas ts s = some s₁ →
      ∃ s', exec (.preemptionRequest n) s = .next s' ∧ s'.mem = s.mem ∧ s'.launches = s.launches ∧
        (∀ t, t ∉ ts → s'.team t = s.team t) ∧
        ∀ t ∈ ts, (s'.team t).preemptAt = some (now s) ∧ (s'.team t).groups = (s.team t).groups ∧
          ∃ a, (s'.team t).saveArea = some a ∧ (s.part l.part).saveBase ≤ a ∧
            a + sectionStart (s.launchOf t) 10 ≤ (s.part l.part).saveBase + (s.part l.part).saveSize) ∧
  (∀ (s : State) (t g : Nat), Asked s t g → OneMore s t g →
    let gr := s.grp t g
    (∀ m pc next, gr.safeAt = some (m, pc, next) → gr.waits = [] → gr.exited ≠ -1 →
      (∀ l < 32, gr.exited.getLsbD l = false → gr.pcv.get l = next) → Takes (.safePointTake t g) s t g m false) ∧
    (gr.active = 0 → gr.safeAt = none → Takes (.safePointTake t g) s t g (-1) true) ∧
    (∀ a, (s.team t).preemptAt = some a → 50000 ≤ now s - a → Takes (.forcedSaveTimeout t g) s t g (-1) true) ∧
    (∀ m pc next l, gr.safeAt = some (m, pc, next) → gr.waits = [] → l < 32 → gr.exited.getLsbD l = false →
      gr.pcv.get l ≠ next → exec (.safePointTake t g) s = .next s)) ∧
  Sys2Proof.Claims.SaveArea

namespace Sys2Proof.Claims

open Sys2Proof.Machine

/-! Power, links, lost dies, hangs (01, 11, 18, 22). -/

/-- Nothing changes but the gates. -/
def OnlyGates (s s' : State) : Prop := s' = { s with gates := s'.gates }
/-- The gate of a core. -/
def gatedAs (s : State) (die core v : Nat) : Prop := (die, core, v) ∈ s.gates
/-- The core has waited since a time. -/
def IdleSince (s : State) (die core a : Nat) : Prop := coreWaits s (die, core) = true ∧ (die, core, a) ∈ s.coreIdle
/-- Die d of four is clocked and not lost. -/
def Lives (s : State) (d : Nat) : Prop := d < 4 ∧ s.dies.length = 4 ∧ (s.die d).clocked = true ∧ (s.die d).lost = false
/-- Only die d changes so. -/
def DieIs (s s' : State) (d : Nat) (x : Die) : Prop := s' = s.modDie d fun _ => x

end Sys2Proof.Claims

open Sys2Proof Sys2Proof.Machine Sys2Proof.Claims in
/-- R107, R247, R248, R384 to R388, R412, R414: gating changes nothing but power; a hang report is written once for a wait
past the threshold (from when it is measured: log 70); a link wakes, retrains after 10 µs
and is logged (log 78); a die without a heartbeat for 1 ms is lost: its teams end with status DIELOST, and teams that touched
it take DIELOST traps, their lanes parked no more (logs 76, 79; where these stand: at their blocking instruction, log 77); a request that a peer has left unanswered for 100 µs expires; a
thermal trip turns the module off, is logged, and frees its semaphores (log 81). -/
def Obligations.PartSteps : Prop :=
  -- gates
  (∀ (s : State) (die core a : Nat),
    (IdleSince s die core a → 2000 ≤ now s - a → (∀ v, ¬gatedAs s die core v) →
      ∃ s', exec (.coreClockGate die core) s = .next s' ∧ OnlyGates s s' ∧ gatedAs s' die core 1) ∧
    (IdleSince s die core a → 500000 ≤ now s - a →
      ∃ s', exec (.corePowerGate die core) s = .next s' ∧ OnlyGates s s' ∧ gatedAs s' die core 2 ∧ ¬gatedAs s' die core 1) ∧
    (coreWaits s (die, core) = false →
      ∃ s', exec (.coreWake die core) s = .next s' ∧ OnlyGates s s' ∧ (∀ v, ¬gatedAs s' die core v) ∧
        ∀ e, e ∈ s'.gates ↔ e ∈ s.gates ∧ ¬(e.1 = die ∧ e.2.1 = core)) ∧
    (coreWaits s (die, core) = false → exec (.coreClockGate die core) s = .next s ∧ exec (.corePowerGate die core) s = .next s)) ∧
  -- hang reports
  (∀ (s : State) (t a : Nat), t < s.teams.length → (s.team t).hangAt = some a → (s.team t).hangDone = false → cyclicWait s t = true →
    let l := s.launchOf t
    (a ≤ now s → ∃ s', exec (.hangReport t) s = .next s' ∧ (s'.team t).hangDone = true ∧
      (∀ u, u ≠ t → s'.team u = s.team u) ∧ (s'.team t).groups = (s.team t).groups ∧
      (l.f 448 64 ≠ 0 → (∃ q ∈ s.records, q.part = l.part ∧ q.ring.toNat = l.f 448 64 ∧ q.phys = false ∧ q.ctxRoot = l.ctxRoot ∧
          q.slots ≠ []) →
        ∃ r, s'.records = s.records ++ [r] ∧ r.ring.toNat = l.f 448 64 ∧ r.slots.tail = pairSlots (waitGraph s t) ∧
          recordBits r 64 32 = l.lid.toNat ∧ recordBits r 96 8 = 3 ∧ recordBits r 104 2 = 2 ∧
          recordBits r 116 12 = (r.slots.length - 1) % 2 ^ 12 ∧ recordBits r 160 32 = (s.team t).linear % 2 ^ 32 ∧
          recordBits r 192 64 = l.lineage.toNat)) ∧
    (now s < a → exec (.hangReport t) s = .next s)) ∧
  (∀ (s : State) (t : Nat), (s.team t).hangDone = true → exec (.hangReport t) s = .next s) ∧
  -- lost error-log entries
  (∀ (s s₁ : State) (p : Nat), (kGet s.parts p).isSome = true → (s.part p).lostErrs ≠ 0 →
    let r : Record := { part := p, ring := (s.part p).errRing, phys := true,
                        slots := [logSlot (s.part p).lostAt 7 0 0 0 (min (s.part p).lostErrs (2 ^ 32 - 1)) 0 0] }
    (∀ i slot, writeRecord r s = .done i s₁ slot → ∃ s', exec (.errorLogLostEntries p) s = .next s' ∧ s'.mem = s₁.mem ∧
      (s'.part p).lostErrs = 0 ∧ s'.teams = s.teams) ∧
    (writeRecord r s = .full → exec (.errorLogLostEntries p) s = .next s)) ∧
  -- links and heartbeats
  (∀ (s : State) (d : Nat), Lives s d →
    let x := s.die d
    (x.linkState = 0 → ∃ s', exec (.linkWakeRetry d) s = .next s' ∧ DieIs s s' d { x with linkState := 1, linkSince := now s }) ∧
    (x.linkState = 1 → 10000 < now s - x.linkSince → exec (.linkWakeRetry d) s = .next s ∧
      ∃ s', exec (.linkRetrain d) s = .next s' ∧ s'.die d = { x with linkState := 2 } ∧
        ∀ p, partOfDie s d = some p → s.records = [] → (s.part p).recent = [] → s'.mem = s.mem ∧ ∃ r, s'.records = [r] ∧ r.part = p ∧ r.ring = (s.part p).errRing ∧
          recordBits r 64 8 = 5 ∧ recordBits r 72 4 = d) ∧
    (x.linkState = 2 → ∃ s', exec (.linkRetrain d) s = .next s' ∧ DieIs s s' d { x with linkState := 0 }) ∧
    (∃ s', exec (.dieHeartbeat d) s = .next s' ∧ DieIs s s' d { x with lastBeat := now s }) ∧
    -- the loss of a die
    (1000000 ≤ now s - x.lastBeat ∨ (x.linkState ≠ 0 ∧ 1000000 ≤ now s - x.linkSince) →
      ∃ s', exec (.dieLost d) s = .next s' ∧ (s'.die d).lost = true ∧ (∀ e, e ≠ d → s'.die e = s.die e) ∧
        ∀ t < s.teams.length,
          ((s.team t).phase = .resident → (s.team t).die = d →
            (s'.team t).phase = .retiredPending ∧ ((s.team t).launch < s.launches.length → (s'.launchOf t).dieLost = true)) ∧
          ((s.team t).phase = .resident → (s.team t).die ≠ d → (s.team t).touched.getLsbD d = true →
            ∀ g < (s.team t).groups.length, (s.grp t g).ended = false → (s'.grp t g).lost.getLsbD d = true ∧
              ((s.team t).seq.named = false → (∀ w ∈ (s'.grp t g).waits, w.running = true) ∧
                ∀ w l, (s.grp t g).waits = [w] → w.running = false → w.done = none → w.lanes.getLsbD l = true →
                  (s.grp t g).exited.getLsbD l = false → l < 32 → (s'.grp t g).pcv.get l = w.pc)) ∧
          ((s.team t).phase = .resident → (s.team t).die ≠ d → (s.team t).touched.getLsbD d = false →
            (s'.team t).groups = (s.team t).groups)) ∧
    (now s - x.lastBeat < 1000000 → x.linkState = 0 → exec (.dieLost d) s = .next s)) ∧
  (∀ (s : State) (t g : Nat), canIssue s t g = true → HasPart s t → (s.grp t g).lost ≠ 0 →
    ∃ s₁ s', exec (.dielostTrap t g) s = .next s' ∧ OnlyGroup s s₁ t g ∧ s₁.grp t g = { s.grp t g with lost := 0 } ∧
      Traps s₁ s' t g (s.grp t g).issueSet
        { code := 0x12, lanes := (s.grp t g).issueSet, pc := (s.grp t g).issuePc,
          i0 := (s.grp t g).lost.setWidth 32 }) ∧
  -- peers
  (∀ (s : State) (peer : Nat), ∃ s', exec (.remoteAccessTimeout peer) s = .next s' ∧ s' = { s with silent := s'.silent } ∧
    s'.silent.length = s.silent.length ∧ ∀ (j : Nat) (e : Silent), s.silent[j]? = some e →
      ((e.peer = peer ∧ 100000 ≤ now s - e.since) → s'.silent[j]? = some { e with expired := true }) ∧
      (¬(e.peer = peer ∧ 100000 ≤ now s - e.since) → s'.silent[j]? = some e)) ∧
  -- power
  (∀ (s : State) (d : Nat) (v : BitVec 16),
    (∃ s', exec (.headroomUpdate d v) s = .next s' ∧ DieIs s s' d { s.die d with headroom := v }) ∧
    (∃ s', exec (.thermalThrottle d) s = .next s' ∧ DieIs s s' d { s.die d with headroom := 0 }) ∧
    (∃ s', exec (.thermalTrip d) s = .next s' ∧ s' = { s with powered := false, trips := s.trips ++ [d], sems := s'.sems } ∧
      ∀ x ∈ s'.sems, x.held = false))

namespace Sys2Proof.Claims

open Sys2Proof.Machine

/-! The module (22): boot, semaphores, partitions, host ports, peers. -/

/-- What a read of a semaphore returns to a port (22 Table 22.3). -/
def semWord (grant : Bool) (x : Sem) : Word := BitVec.ofNat 32 (b2n grant + 2 * b2n x.held + 4 * b2n (x.held && x.owner))
/-- Semaphore k is x, every other as it was, and a read answered these words. -/
def SemIs (s s' : State) (k : Nat) (x : Sem) (read : List Word) : Prop :=
  s' = { s with sems := s.sems.set k x, semRead := read, tieBit := s'.tieBit }

/-- The monitor takes up a request: the holder of semaphore 14 rings for it while the monitor runs, or the port has rung and it
stands in the mailbox (22 R404, R405). -/
def Rings (s : State) (port : Bool) (r : BitVec 2048) : Prop :=
  s.boot = .monitor ∧
    if s.mailbox.toNat % 16 = 1 then leNat (slice s.request 0 256) = r.toNat ∧ s.rungBy = port
    else ∃ x, s.sems[14]? = some x ∧ x.held = true ∧ x.owner = port
/-- The request stands in the mailbox. -/
def asked (s : State) (port : Bool) (r : BitVec 2048) : State := { s with request := leBytes 256 r.toNat, rungBy := port }
/-- Fields of a partition request (22 Table 22.8). -/
def req (r : BitVec 2048) (lo n : Nat) : Nat := r.toNat / 2 ^ lo % 2 ^ n
/-- The form of a request of an operation (22 R404; the least number of dies and the range of HANG are the model's reading,
log 31). Reserved bits are read as nothing (00 R5). -/
def WellAsked (op : Nat) (r : BitVec 2048) : Prop := req r 2 2 = op ∧ req r 32 32 ≤ 60000 ∧ (op ≠ 1 → req r 4 4 ≠ 0)
/-- The partition that a request makes: its supervisor runs where its image, which the port reaches, is verified (what an
image that the port does not reach comes to: log 122; the queues that the supervisor registers first are free, log 124). -/
def MadeAs (s : State) (port : Bool) (r : BitVec 2048) (root : Nat) (x : Part) : Prop :=
  x.dies.toNat = req r 4 4 ∧ x.hangMs = (if req r 32 32 = 0 then 5000 else req r 32 32) ∧ x.saveBase = req r 64 64 ∧
    x.saveSize = req r 128 64 ∧ x.errRing.toNat = req r 192 64 ∧ x.faultRing.toNat = req r 256 64 ∧ x.root = root ∧
    x.image = Store.readBytes s.mem (req r 320 64) (req r 384 32) ∧ x.key.toNat = req r 448 256 ∧ x.saveUsed = [] ∧
    x.colls = [] ∧ x.pools = [] ∧ x.nextLid = 1 ∧ (x.started = false → x.queues = []) ∧
    (x.started = true ↔ portHas s port (req r 320 64) (req r 384 32) = true ∧ systemVerified r.toNat x.image = true)
/-- A creation's checks on the dies, the near store and the region (22 Table 22.9). -/
def CreateOk (s : State) (r : BitVec 2048) : Prop := createRefused s 0 r.toNat = none

/-- Device memory that a host port reaches: populated, in the port's world (22 R407). -/
def Reached (s : State) (port : Bool) (a : Nat) : Prop :=
  (a < hbmTop ∨ ∃ e ∈ s.parts, populated s e.2 a = true) ∧ granuleWorld s a = s.portSecure.getD (b2n port) false

/-- A fault record of the partition's supervisor names a stopped group (18 R375). -/
def Stopped (s : State) (f : FaultRec) : Prop :=
  s.faults = [f] ∧ Exists s f.team f.group ∧ (s.grp f.team f.group).stopped = some f.handle ∧
    (∀ w ∈ (s.grp f.team f.group).waits, w.done = none)
/-- The record is used up: its group runs again. -/
def Unstopped (s' : State) (f : FaultRec) : Prop := s'.faults = [] ∧ (s'.grp f.team f.group).stopped = none

end Sys2Proof.Claims

open Sys2Proof Sys2Proof.Machine Sys2Proof.Claims in
/-- R375, R406: SUPACT.resume sends the listed lanes to the record's PC; end_team ends the team, its fault counted; deliver
enters the launch's handler, and is ignored where there is none or the record has NEST. A handle of no record does nothing.
One of a partition whose supervisor does not run does nothing; an act on a saved team waits for its return (log 38). -/
def Sys2Proof.Claims.SupervisorActs : Prop :=
  (∀ (s : State) (p : Nat) (h : Word), (s.part p).started = false →
    ∀ i ∈ [Instr.supactResume p h, .supactEndTeam p h, .supactDeliver p h], exec i s = .next s) ∧
  ∀ (s : State) (p : Nat) (f : FaultRec), Stopped s f → (s.launchOf f.team).part = p → f.trap.seq = false →
    (s.part p).started = true → (s.team f.team).answers = [] → (s.team f.team).phase ≠ .saved →
    let t := f.team
    let g := f.group
    let gr := s.grp t g
    let tm := s.team t
    (∃ s', exec (.supactResume p f.handle) s = .next s' ∧ Unstopped s' f ∧ s'.mem = s.mem ∧ OtherGroupsKept s s' t g ∧
      SameRegisters gr (s'.grp t g) ∧ ∀ l < 32, gr.exited.getLsbD l = false →
        (s'.grp t g).pcv.get l = if f.trap.lanes.getLsbD l then f.trap.pc else gr.pcv.get l) ∧
    (tm.phase = .resident → tm.launch < s.launches.length →
      ∃ s', exec (.supactEndTeam p f.handle) s = .next s' ∧ s'.faults = [] ∧ (s'.team t).phase = .retiredPending ∧
        (∀ x ∈ (s'.team t).groups, x.ended = true) ∧ (s'.launchOf t).fcount = (s.launchOf t).fcount + 1 ∧
        ((s.launchOf t).fcount = 0 → (s'.launchOf t).fcode = f.trap.code ∧ (s'.launchOf t).fteam.toNat = tm.linear % 2 ^ 32) ∧
        ∀ u, u ≠ t → s'.team u = s.team u) ∧
    (tm.trapBase ≠ 0 → f.trap.nest = false → gr.ended = false →
      ∃ s', exec (.supactDeliver p f.handle) s = .next s' ∧ Unstopped s' f ∧ s'.mem = s.mem ∧ OtherGroupsKept s s' t g ∧
        EntersHandler tm.trapBase f.trap gr.active { gr with stopped := none } (s'.grp t g)) ∧
    (tm.trapBase = 0 ∨ f.trap.nest = true → exec (.supactDeliver p f.handle) s = .next s) ∧
    (∀ h, h ≠ f.handle → ∀ i ∈ [Instr.supactResume p h, .supactEndTeam p h, .supactDeliver p h], exec i s = .next s)

open Sys2Proof Sys2Proof.Machine Sys2Proof.Claims in
/-- R372, R375, R406: calls of the supervisor and the monitor, and the supervisor's acts on a stopped group. -/
def Obligations.CallsAndActs : Prop := Sys2Proof.Claims.SupervisorCalls ∧ Sys2Proof.Claims.SupervisorActs

open Sys2Proof Sys2Proof.Machine Sys2Proof.Claims in
/-- R291, R401 to R412, R179: the ROM starts a verified image or enters recovery, where the holder of semaphore 15 sets it to
verify the window's image; a claim of a free semaphore is granted, ties alternate; the monitor makes, removes and remakes
partitions, a refusal changes nothing but its result word; a host port reaches memory of its own world, and BAR 0; a peer's
request reads, writes or updates memory; a quote is made on request; a sequencer's fetch fault is serviced, or ends the team.
The model's readings here: the die that memory belongs to, log 9; where a partition's root comes from, log 14; the order of
a request's faults, log 31; what a reset leaves, log 82, and a removal, log 86; where what hosts and peers receive is kept, log
83; what a host's address names, logs 84, 121; worlds of granules and stations, logs 85, 123. -/
def Obligations.ModuleSteps : Prop :=
  -- boot
  (∀ s : State, s.boot = .off →
    (imageFails s.flash = none → exec .powerOnBoot s = .next { s with
      boot := .monitor, monitor := imgPayload s.flash, monLoad := BitVec.ofNat 64 (leNat (slice s.flash 16 8)),
      monEntry := BitVec.ofNat 64 (leNat (slice s.flash 24 8)),
      dies := s.dies.map fun d => { d with clocked := true, lastBeat := now s } }) ∧
    (imageFails s.flash ≠ none → exec .powerOnBoot s = .next { s with boot := .recovery })) ∧
  (∀ (s : State) (port : Bool) (img : List Byte) (v : DWord), s.boot = .recovery →
    let st := s.recStatus.toNat % 16
    let holds : Prop := ∃ x, s.sems[15]? = some x ∧ x.held = true ∧ x.owner = port
    (st ≠ 1 → st ≠ 2 →
      (holds → exec (.recoveryGo port img 1) s = .next { s with window := if img = [] then s.window else img, recStatus := 1 }) ∧
      (¬holds ∨ v ≠ 1 → exec (.recoveryGo port img v) s = .next s)) ∧
    (st = 1 →
      (imageFails s.window = none → exec (.recoveryGo port img v) s = .next { s with flash := s.window, recStatus := 2 }) ∧
      (∀ k, imageFails s.window = some k → exec (.recoveryGo port img v) s = .next
        { s with window := [], recStatus := BitVec.ofNat 64 (3 + 16 * k) })) ∧
    (st = 2 → ∃ s', exec (.recoveryGo port img v) s = .next s' ∧ s'.boot = .off ∧ s'.flash = s.flash ∧
      s'.parts = [] ∧ s'.teams = [] ∧ s'.launches = [] ∧ s'.sems = State.reset.sems ∧ now s' = now s)) ∧
  -- semaphores
  (∀ (s : State) (k : BitVec 4) (x : Sem) (port : Bool), s.sems[k.toNat]? = some x →
    let mine : Bool := x.held && x.owner == port
    (x.held = false → ∃ s', exec (.semaphoreClaim k (.port port)) s = .next s' ∧ s'.tieBit = s.tieBit ∧
      SemIs s s' k.toNat { held := true, owner := port } [semWord true { held := true, owner := port }]) ∧
    (x.held = true → ∃ s', exec (.semaphoreClaim k (.port port)) s = .next s' ∧ s'.tieBit = s.tieBit ∧
      SemIs s s' k.toNat x [semWord false x]) ∧
    (x.held = false → ∃ s', exec (.semaphoreClaim k .both) s = .next s' ∧ s'.tieBit = (!s.tieBit) ∧
      let y : Sem := { held := true, owner := s.tieBit }
      SemIs s s' k.toNat y [semWord (!s.tieBit) y, semWord s.tieBit y]) ∧
    (mine = true → ∃ s', exec (.semaphoreRelease k port) s = .next s' ∧ s' = { s with sems := s.sems.set k.toNat {} }) ∧
    (mine = false → exec (.semaphoreRelease k port) s = .next s) ∧
    ∃ s', exec (.portReset port) s = .next s' ∧ s' = { s with sems := s'.sems } ∧ ∀ (j : Nat) (y : Sem), s.sems[j]? = some y →
      s'.sems[j]? = some (if y.held = true ∧ y.owner = port then {} else y)) ∧
  -- partitions
  (∀ (s : State) (port : Bool) (r : BitVec 2048) (root : Nat),
    let p := req r 0 2
    let op := req r 2 2
    let a := asked s port r
    let there : Prop := (kGet s.parts p).isSome = true
    let create := Instr.partitionCreate port r root
    let remove := Instr.partitionRemove port r root
    let remake := Instr.partitionRecreate port r root
    (¬Rings s port r → ∀ i ∈ [create, remove, remake], exec i s = .next s) ∧
    (op ≠ 0 → op ≠ 3 → exec create s = .next s) ∧ (op ≠ 1 → exec remove s = .next s) ∧ (op ≠ 2 → exec remake s = .next s) ∧
    (Rings s port r →
      (WellAsked 0 r → ¬there → CreateOk s r →
        ∃ s' x, exec create s = .next s' ∧ kGet s'.parts p = some x ∧ MadeAs s port r root x ∧
          s'.mem = s.mem ∧ s'.mailbox = BitVec.ofNat 64 (2 + 16 * (if x.started then 0 else 4)) ∧
          (∀ q, q ≠ p → kGet s'.parts q = kGet s.parts q) ∧
          ∀ d < 4, s.dies.length = 4 → r.getLsbD (4 + d) = true → (s'.die d).carve = req r (16 + 4 * d) 4 ∧
            (s'.die d).secure = r.getLsbD (8 + d) ∧ (s'.die d).engines = r.getLsbD (8 + d) ∧ (s'.die d).lost = false ∧
            ∀ (j : Nat) (x : Station), s.stations[j]? = some x → j / 8 = d →
              s'.stations[j]? = some { x with secure := r.getLsbD (8 + d) }) ∧
      (WellAsked 0 r → there → exec create s = .next { a with mailbox := BitVec.ofNat 64 (3 + 16 * 6) }) ∧
      (op = 0 ∨ op = 3 → ¬WellAsked 0 r → exec create s = .next { a with mailbox := BitVec.ofNat 64 (3 + 16 * 5) }) ∧
      (∀ k, WellAsked 0 r → ¬there → createRefused s 0 r.toNat = some k →
        exec create s = .next { a with mailbox := BitVec.ofNat 64 (3 + 16 * k) }) ∧
      (WellAsked 1 r → there →
        ∃ s', exec remove s = .next s' ∧ kGet s'.parts p = none ∧ s'.mailbox = 2 ∧
          (∀ t < s.teams.length, (s.launchOf t).part = p → (s'.team t).phase = .retired) ∧
          ∀ q, q ≠ p → (kGet s'.parts q = none ↔ kGet s.parts q = none)) ∧
      (WellAsked 1 r → ¬there → exec remove s = .next { a with mailbox := BitVec.ofNat 64 (3 + 16 * 6) }) ∧
      (op = 1 → ¬WellAsked 1 r → exec remove s = .next { a with mailbox := BitVec.ofNat 64 (3 + 16 * 5) }) ∧
      (WellAsked 2 r → there → createRefused (removePart p a) (s.part p).dies r.toNat = none →
        ∃ s' x, exec remake s = .next s' ∧ kGet s'.parts p = some x ∧ MadeAs (removePart p a) port r root x ∧
          ∀ t < s.teams.length, (s.launchOf t).part = p → (s'.team t).phase = .retired) ∧
      (∀ k, WellAsked 2 r → there → createRefused (removePart p a) (s.part p).dies r.toNat = some k →
        exec remake s = .next { a with mailbox := BitVec.ofNat 64 (3 + 16 * k) }) ∧
      (WellAsked 2 r → ¬there → exec remake s = .next { a with mailbox := BitVec.ofNat 64 (3 + 16 * 6) }) ∧
      (op = 2 → ¬WellAsked 2 r → exec remake s = .next { a with mailbox := BitVec.ofNat 64 (3 + 16 * 5) }))) ∧
  -- attestation
  (∀ (s : State) (port : Bool) (p : Nat) (nonce : BitVec 256), s.boot = .monitor → (kGet s.parts p).isSome = true →
    exec (.hostAttestationRequest port p nonce) s = .next { s with quotes := s.quotes ++ [quoteBytes s p nonce] }) ∧
  -- host ports and peers
  (∀ (s : State) (port : Bool) (a n : Nat) (bytes : List Byte), s.ecc = [] → a + n ≤ 2 ^ 41 → a + bytes.length ≤ 2 ^ 41 →
    let h (k : Nat) := observe .host [(a, k)] s
    let q (k : Nat) := observe .peer [(a, k)] s
    let all (P : Nat → Prop) (k : Nat) : Prop := ∀ j < k, P (a + j)
    let pop (b : Nat) : Prop := ∃ e ∈ s.parts, populated s e.2 b = true
    let wrote (m m' : Memory) : Prop := ∀ b, m'.get b = if a ≤ b ∧ b < a + bytes.length then bytes.getD (b - a) 0 else m.get b
    let updates (i : Instr) (m : Memory) (op : AtomOp) (ty : Ty) (x : Nat) (read : State → List (List Byte)) (old : List (List Byte)) :
        Prop :=
      ∃ s', exec i s = .next s' ∧ Store.readLe s'.mem a (tyBytes ty) = (atomVal op ty (Store.readLe m a (tyBytes ty)) x).1 %
        256 ^ tyBytes ty ∧ read s' = old ++ [Store.readBytes m a (tyBytes ty)]
    let host := Instr.hostPortAccess port (BitVec.ofNat 64 a)
    let peer := Instr.peerRemoteAccess (BitVec.ofNat 41 a)
    (s.boot = .monitor →
      (all (Reached s port) n → exec (host (.read n)) s = .next
        { h n with hostData := s.hostData ++ [Store.readBytes (h n).mem a n] }) ∧
      (all (Reached s port) bytes.length → ∃ s', exec (host (.write bytes)) s = .next s' ∧
        s' = { h bytes.length with mem := s'.mem } ∧ wrote (h bytes.length).mem s'.mem) ∧
      (∀ op ty x, all (Reached s port) (tyBytes ty) → a % tyBytes ty = 0 → atomAccepts op ty = true →
        updates (host (.atom op ty x)) (h (tyBytes ty)).mem op ty x State.hostData s.hostData) ∧
      -- Unsupported Request
      (¬all (Reached s port) n → exec (host (.read n)) s = .next { s with hostData := s.hostData ++ [[]] }) ∧
      (¬all (Reached s port) bytes.length → exec (host (.write bytes)) s = .next s)) ∧
    (a < 2 ^ 41 → all pop n → exec (peer (.read n)) s = .next
      { q n with peerData := s.peerData ++ [Store.readBytes (q n).mem a n] }) ∧
    (a < 2 ^ 41 → all pop bytes.length → ∃ s', exec (peer (.write bytes)) s = .next s' ∧
      s' = { q bytes.length with mem := s'.mem } ∧ wrote (q bytes.length).mem s'.mem) ∧
    (∀ op ty x, a < 2 ^ 41 → all pop (tyBytes ty) → a % tyBytes ty = 0 → atomAccepts op ty = true →
      updates (peer (.atom op ty x)) (q (tyBytes ty)).mem op ty x State.peerData s.peerData) ∧
    (∀ op base pos draw arg, a < 2 ^ 41 → all pop 4 → a % 4 = 0 → op ≠ CtrOp.clear →
      ∃ s', exec (peer (.counter op base pos draw arg)) s = .next s' ∧
        Store.readLe s'.mem a 4 = (ctrRequest op base pos draw.toNat arg.toNat (Store.readLe (q 4).mem a 4)).1 % 2 ^ 32) ∧
    (∀ (sel : BitVec 3) (payload : List Byte), a < 2 ^ 41 → all pop 256 → a % 256 = 0 →
      (∀ ws, expandBlock (codedOf sel (leNat payload)) = some ws → ∃ s', exec (peer (.coded sel payload)) s = .next s' ∧
        ∀ j < ws.length, Store.readLe s'.mem (a + 4 * j) 4 = (ws.getD j 0).toNat) ∧
      (expandBlock (codedOf sel (leNat payload)) = none → ∃ s' es, exec (peer (.coded sel payload)) s = .next s' ∧
        s' = { s with ecc := es } ∧ es.length = 32 ∧ ∀ j < 32, ∃ e, es[j]? = some e ∧ e.addr = a + 8 * j ∧ e.cls = 2))) ∧
  -- BAR 0
  (∀ (s : State) (port : Bool) (k : Nat) (x : Sem), k < 16 → s.sems[k]? = some x →
    let y : Sem := if x.held then x else { held := true, owner := port }
    ∃ s', exec (.hostPortAccess port (BitVec.ofNat 64 (2 ^ 63 + 0x100 + 8 * k)) (.read 4)) s = .next s' ∧
      s' = { s with sems := s.sems.set k y, hostData := s.hostData ++ [leBytes 4 (semWord (!x.held) y).toNat] }) ∧
  (∀ (s : State) (port : Bool),
    let mine (k : Nat) : Prop := ∃ x, s.sems[k]? = some x ∧ x.held = true ∧ x.owner = port
    (s.boot = .monitor → mine 14 → s.mailbox.toNat % 16 ≠ 1 →
      exec (.hostPortAccess port (BitVec.ofNat 64 (2 ^ 63 + 0x2100)) (.write (leBytes 8 1))) s = .next
        { s with mailbox := 1, rungBy := port }) ∧
    (s.boot = .recovery → mine 15 → s.recStatus.toNat % 16 ≠ 1 → s.recStatus.toNat % 16 ≠ 2 →
      exec (.hostPortAccess port (BitVec.ofNat 64 0x1000) (.write (leBytes 8 1))) s = .next { s with recStatus := 1 })) ∧
  -- device registers, stations
  (∀ (s : State) (p : Nat) (a v : DWord), (kGet s.parts p).isSome = true → (s.part p).started = true → a.toNat % 8 = 0 →
    devBase + 0x12000 ≤ a.toNat → a.toNat < devTop →
    ∃ s', exec (.deviceRegisterWrite p a v) s = .next s' ∧ s' = { s with devRegs := s'.devRegs } ∧
      Store.readLe s'.devRegs (p * 2 ^ 33 + (a.toNat - devBase)) 8 = v.toNat) ∧
  (∀ (s : State) (k : Nat) (w : BitVec 3) (c : Bool) (x : Station), s.stations[k]? = some x → w = 4 ∨ w = 2 ∨ w = 1 →
    exec (.stationRetraining k w c) s = .next
      { s with stations := s.stations.set k { width := w, compress := c, secure := x.secure } }) ∧
  -- the sequencer's fetch faults
  (∀ (s : State) (t : Nat), t < s.teams.length → (s.team t).seq.fetchFault = true →
    (exec (.sequencerFetchFault t true) s = .next (s.modSeq t fun q => { q with fetchFault := false })) ∧
    ((s.team t).phase = .resident → (s.team t).launch < s.launches.length →
      ∃ s', exec (.sequencerFetchFault t false) s = .next s' ∧ (s'.team t).phase = .retiredPending ∧
        (s'.launchOf t).fcount = (s.launchOf t).fcount + 1 ∧
        ((s.launchOf t).fcount = 0 → (s'.launchOf t).fcode = 0x06)))
end

