-- ==== Sys2Proof/Laws/Blocks.lean ====
section
/-! SUPPORT. The coding of blocks on links gives every block back (08 R188). -/

namespace Sys2Proof.Machine

theorem signExtend8_of_fits (x : Word) (h : -(2 ^ 7 : Int) ≤ x.toInt ∧ x.toInt < 2 ^ 7) :
    (x.setWidth 8).signExtend 32 = x := by
  apply BitVec.eq_of_toInt_eq
  rw [BitVec.toInt_signExtend_of_le (by decide)]
  simp only [BitVec.toInt_eq_toNat_cond, BitVec.toNat_setWidth] at *
  omega

theorem signExtend16_of_fits (x : Word) (h : -(2 ^ 15 : Int) ≤ x.toInt ∧ x.toInt < 2 ^ 15) :
    (x.setWidth 16).signExtend 32 = x := by
  apply BitVec.eq_of_toInt_eq
  rw [BitVec.toInt_signExtend_of_le (by decide)]
  simp only [BitVec.toInt_eq_toNat_cond, BitVec.toNat_setWidth] at *
  omega

theorem floatOf_restOf (w : Word) : floatOf (exponentOf w) (restOf w) = w := by
  apply BitVec.eq_of_getLsbD_eq
  intro i hi
  simp only [floatOf, exponentOf, restOf, BitVec.getLsbD_append, BitVec.getLsbD_extractLsb']
  by_cases h1 : i < 23
  · simp [h1]
  · by_cases h2 : i < 31
    · have : i - 23 < 8 := by omega
      simp [h1, this, show 23 + (i - 23) = i by omega]
    · have : i = 31 := by omega
      subst this
      simp

theorem map_eq_self {α : Type} (f : α → α) (l : List α) (h : ∀ a ∈ l, f a = a) : l.map f = l := by
  conv_rhs => rw [← List.map_id l]
  exact List.map_congr_left h

/-- A coded block expands to the block it was made of. -/
theorem expandBlock_encodeBlock (ws : List Word) (h : ws.length = 64) : expandBlock (encodeBlock ws) = some ws := by
  have same (w : Word) (e : ∀ x ∈ ws, x = w) : List.replicate 64 w = ws := (List.eq_replicate_iff.2 ⟨h, e⟩).symm
  dsimp only [encodeBlock]
  generalize ws.headD 0 = w0
  split
  · simp_all [expandBlock]
  · split
    · rename_i _ e
      simp only [List.all_eq_true, beq_iff_eq] at e
      simp [expandBlock, same w0 e]
    · split
      · rename_i _ _ e
        simp only [List.all_eq_true, fitsDelta, Bool.and_eq_true, decide_eq_true_eq] at e
        simp only [expandBlock, List.map_map, Option.some.injEq]
        exact map_eq_self _ _ fun w hw => by
          simp only [Function.comp_apply]
          rw [signExtend8_of_fits _ (e w hw), BitVec.add_comm, BitVec.sub_add_cancel]
      · split
        · rename_i _ _ _ e
          simp only [List.all_eq_true, fitsDelta, Bool.and_eq_true, decide_eq_true_eq] at e
          simp only [expandBlock, List.map_map, Option.some.injEq]
          exact map_eq_self _ _ fun w hw => by
            simp only [Function.comp_apply]
            rw [signExtend16_of_fits _ (e w hw), BitVec.add_comm, BitVec.sub_add_cancel]
        · split
          · rename_i _ _ _ _ e
            simp only [List.all_eq_true, beq_iff_eq] at e
            simp only [expandBlock, List.map_map, Option.some.injEq]
            exact map_eq_self _ _ fun w hw => by
              simp only [Function.comp_apply]
              rw [← e w hw, floatOf_restOf]
          · rfl

end Sys2Proof.Machine
end

