-- ==== Sys2Proof/Laws/State.lean ====
section
/-! SUPPORT. The small lemmas of the state's access paths: one per field per update, and reading after writing. -/

namespace Sys2Proof.Machine

/-! Every field after every update. -/

@[simp] theorem State.modTeam_cur (s : State) (t : Nat) (f : Team → Team) : (s.modTeam t f).cur = s.cur := rfl
@[simp] theorem State.modTeam_agenda (s : State) (t : Nat) (f : Team → Team) : (s.modTeam t f).agenda = s.agenda := rfl
@[simp] theorem State.modTeam_tick (s : State) (t : Nat) (f : Team → Team) : (s.modTeam t f).tick = s.tick := rfl
@[simp] theorem State.modTeam_cycle (s : State) (t : Nat) (f : Team → Team) : (s.modTeam t f).cycle = s.cycle := rfl
@[simp] theorem State.modTeam_timeBase (s : State) (t : Nat) (f : Team → Team) : (s.modTeam t f).timeBase = s.timeBase := rfl
@[simp] theorem State.modTeam_powered (s : State) (t : Nat) (f : Team → Team) : (s.modTeam t f).powered = s.powered := rfl
@[simp] theorem State.modTeam_boot (s : State) (t : Nat) (f : Team → Team) : (s.modTeam t f).boot = s.boot := rfl
@[simp] theorem State.modTeam_flash (s : State) (t : Nat) (f : Team → Team) : (s.modTeam t f).flash = s.flash := rfl
@[simp] theorem State.modTeam_window (s : State) (t : Nat) (f : Team → Team) : (s.modTeam t f).window = s.window := rfl
@[simp] theorem State.modTeam_recStatus (s : State) (t : Nat) (f : Team → Team) : (s.modTeam t f).recStatus = s.recStatus := rfl
@[simp] theorem State.modTeam_sems (s : State) (t : Nat) (f : Team → Team) : (s.modTeam t f).sems = s.sems := rfl
@[simp] theorem State.modTeam_tieBit (s : State) (t : Nat) (f : Team → Team) : (s.modTeam t f).tieBit = s.tieBit := rfl
@[simp] theorem State.modTeam_mailbox (s : State) (t : Nat) (f : Team → Team) : (s.modTeam t f).mailbox = s.mailbox := rfl
@[simp] theorem State.modTeam_nextStore (s : State) (t : Nat) (f : Team → Team) : (s.modTeam t f).nextStore = s.nextStore := rfl
@[simp] theorem State.modTeam_request (s : State) (t : Nat) (f : Team → Team) : (s.modTeam t f).request = s.request := rfl
@[simp] theorem State.modTeam_rungBy (s : State) (t : Nat) (f : Team → Team) : (s.modTeam t f).rungBy = s.rungBy := rfl
@[simp] theorem State.modTeam_monLoad (s : State) (t : Nat) (f : Team → Team) : (s.modTeam t f).monLoad = s.monLoad := rfl
@[simp] theorem State.modTeam_monEntry (s : State) (t : Nat) (f : Team → Team) : (s.modTeam t f).monEntry = s.monEntry := rfl
@[simp] theorem State.modTeam_worlds (s : State) (t : Nat) (f : Team → Team) : (s.modTeam t f).worlds = s.worlds := rfl
@[simp] theorem State.modTeam_portSecure (s : State) (t : Nat) (f : Team → Team) : (s.modTeam t f).portSecure = s.portSecure := rfl
@[simp] theorem State.modTeam_semRead (s : State) (t : Nat) (f : Team → Team) : (s.modTeam t f).semRead = s.semRead := rfl
@[simp] theorem State.modTeam_hostData (s : State) (t : Nat) (f : Team → Team) : (s.modTeam t f).hostData = s.hostData := rfl
@[simp] theorem State.modTeam_quotes (s : State) (t : Nat) (f : Team → Team) : (s.modTeam t f).quotes = s.quotes := rfl
@[simp] theorem State.modTeam_peerData (s : State) (t : Nat) (f : Team → Team) : (s.modTeam t f).peerData = s.peerData := rfl
@[simp] theorem State.modTeam_trips (s : State) (t : Nat) (f : Team → Team) : (s.modTeam t f).trips = s.trips := rfl
@[simp] theorem State.modTeam_monitor (s : State) (t : Nat) (f : Team → Team) : (s.modTeam t f).monitor = s.monitor := rfl
@[simp] theorem State.modTeam_dies (s : State) (t : Nat) (f : Team → Team) : (s.modTeam t f).dies = s.dies := rfl
@[simp] theorem State.modTeam_stations (s : State) (t : Nat) (f : Team → Team) : (s.modTeam t f).stations = s.stations := rfl
@[simp] theorem State.modTeam_mem (s : State) (t : Nat) (f : Team → Team) : (s.modTeam t f).mem = s.mem := rfl
@[simp] theorem State.modTeam_buffer (s : State) (t : Nat) (f : Team → Team) : (s.modTeam t f).buffer = s.buffer := rfl
@[simp] theorem State.modTeam_frames (s : State) (t : Nat) (f : Team → Team) : (s.modTeam t f).frames = s.frames := rfl
@[simp] theorem State.modTeam_devRegs (s : State) (t : Nat) (f : Team → Team) : (s.modTeam t f).devRegs = s.devRegs := rfl
@[simp] theorem State.modTeam_silent (s : State) (t : Nat) (f : Team → Team) : (s.modTeam t f).silent = s.silent := rfl
@[simp] theorem State.modTeam_ecc (s : State) (t : Nat) (f : Team → Team) : (s.modTeam t f).ecc = s.ecc := rfl
@[simp] theorem State.modTeam_gates (s : State) (t : Nat) (f : Team → Team) : (s.modTeam t f).gates = s.gates := rfl
@[simp] theorem State.modTeam_coreIdle (s : State) (t : Nat) (f : Team → Team) : (s.modTeam t f).coreIdle = s.coreIdle := rfl
@[simp] theorem State.modTeam_interrupts (s : State) (t : Nat) (f : Team → Team) : (s.modTeam t f).interrupts = s.interrupts := rfl
@[simp] theorem State.modTeam_unread (s : State) (t : Nat) (f : Team → Team) : (s.modTeam t f).unread = s.unread := rfl
@[simp] theorem State.modTeam_parts (s : State) (t : Nat) (f : Team → Team) : (s.modTeam t f).parts = s.parts := rfl
@[simp] theorem State.modTeam_launches (s : State) (t : Nat) (f : Team → Team) : (s.modTeam t f).launches = s.launches := rfl
@[simp] theorem State.modTeam_cmds (s : State) (t : Nat) (f : Team → Team) : (s.modTeam t f).cmds = s.cmds := rfl
@[simp] theorem State.modTeam_records (s : State) (t : Nat) (f : Team → Team) : (s.modTeam t f).records = s.records := rfl
@[simp] theorem State.modTeam_faults (s : State) (t : Nat) (f : Team → Team) : (s.modTeam t f).faults = s.faults := rfl
@[simp] theorem State.modTeam_traces (s : State) (t : Nat) (f : Team → Team) : (s.modTeam t f).traces = s.traces := rfl

@[simp] theorem State.modLaunch_cur (s : State) (n : Nat) (f : Launch → Launch) : (s.modLaunch n f).cur = s.cur := rfl
@[simp] theorem State.modLaunch_agenda (s : State) (n : Nat) (f : Launch → Launch) : (s.modLaunch n f).agenda = s.agenda := rfl
@[simp] theorem State.modLaunch_tick (s : State) (n : Nat) (f : Launch → Launch) : (s.modLaunch n f).tick = s.tick := rfl
@[simp] theorem State.modLaunch_cycle (s : State) (n : Nat) (f : Launch → Launch) : (s.modLaunch n f).cycle = s.cycle := rfl
@[simp] theorem State.modLaunch_timeBase (s : State) (n : Nat) (f : Launch → Launch) : (s.modLaunch n f).timeBase = s.timeBase := rfl
@[simp] theorem State.modLaunch_powered (s : State) (n : Nat) (f : Launch → Launch) : (s.modLaunch n f).powered = s.powered := rfl
@[simp] theorem State.modLaunch_boot (s : State) (n : Nat) (f : Launch → Launch) : (s.modLaunch n f).boot = s.boot := rfl
@[simp] theorem State.modLaunch_flash (s : State) (n : Nat) (f : Launch → Launch) : (s.modLaunch n f).flash = s.flash := rfl
@[simp] theorem State.modLaunch_window (s : State) (n : Nat) (f : Launch → Launch) : (s.modLaunch n f).window = s.window := rfl
@[simp] theorem State.modLaunch_recStatus (s : State) (n : Nat) (f : Launch → Launch) : (s.modLaunch n f).recStatus = s.recStatus := rfl
@[simp] theorem State.modLaunch_sems (s : State) (n : Nat) (f : Launch → Launch) : (s.modLaunch n f).sems = s.sems := rfl
@[simp] theorem State.modLaunch_tieBit (s : State) (n : Nat) (f : Launch → Launch) : (s.modLaunch n f).tieBit = s.tieBit := rfl
@[simp] theorem State.modLaunch_mailbox (s : State) (n : Nat) (f : Launch → Launch) : (s.modLaunch n f).mailbox = s.mailbox := rfl
@[simp] theorem State.modLaunch_nextStore (s : State) (n : Nat) (f : Launch → Launch) : (s.modLaunch n f).nextStore = s.nextStore := rfl
@[simp] theorem State.modLaunch_request (s : State) (n : Nat) (f : Launch → Launch) : (s.modLaunch n f).request = s.request := rfl
@[simp] theorem State.modLaunch_rungBy (s : State) (n : Nat) (f : Launch → Launch) : (s.modLaunch n f).rungBy = s.rungBy := rfl
@[simp] theorem State.modLaunch_monLoad (s : State) (n : Nat) (f : Launch → Launch) : (s.modLaunch n f).monLoad = s.monLoad := rfl
@[simp] theorem State.modLaunch_monEntry (s : State) (n : Nat) (f : Launch → Launch) : (s.modLaunch n f).monEntry = s.monEntry := rfl
@[simp] theorem State.modLaunch_worlds (s : State) (n : Nat) (f : Launch → Launch) : (s.modLaunch n f).worlds = s.worlds := rfl
@[simp] theorem State.modLaunch_portSecure (s : State) (n : Nat) (f : Launch → Launch) : (s.modLaunch n f).portSecure = s.portSecure := rfl
@[simp] theorem State.modLaunch_semRead (s : State) (n : Nat) (f : Launch → Launch) : (s.modLaunch n f).semRead = s.semRead := rfl
@[simp] theorem State.modLaunch_hostData (s : State) (n : Nat) (f : Launch → Launch) : (s.modLaunch n f).hostData = s.hostData := rfl
@[simp] theorem State.modLaunch_quotes (s : State) (n : Nat) (f : Launch → Launch) : (s.modLaunch n f).quotes = s.quotes := rfl
@[simp] theorem State.modLaunch_peerData (s : State) (n : Nat) (f : Launch → Launch) : (s.modLaunch n f).peerData = s.peerData := rfl
@[simp] theorem State.modLaunch_trips (s : State) (n : Nat) (f : Launch → Launch) : (s.modLaunch n f).trips = s.trips := rfl
@[simp] theorem State.modLaunch_monitor (s : State) (n : Nat) (f : Launch → Launch) : (s.modLaunch n f).monitor = s.monitor := rfl
@[simp] theorem State.modLaunch_dies (s : State) (n : Nat) (f : Launch → Launch) : (s.modLaunch n f).dies = s.dies := rfl
@[simp] theorem State.modLaunch_stations (s : State) (n : Nat) (f : Launch → Launch) : (s.modLaunch n f).stations = s.stations := rfl
@[simp] theorem State.modLaunch_mem (s : State) (n : Nat) (f : Launch → Launch) : (s.modLaunch n f).mem = s.mem := rfl
@[simp] theorem State.modLaunch_buffer (s : State) (n : Nat) (f : Launch → Launch) : (s.modLaunch n f).buffer = s.buffer := rfl
@[simp] theorem State.modLaunch_frames (s : State) (n : Nat) (f : Launch → Launch) : (s.modLaunch n f).frames = s.frames := rfl
@[simp] theorem State.modLaunch_devRegs (s : State) (n : Nat) (f : Launch → Launch) : (s.modLaunch n f).devRegs = s.devRegs := rfl
@[simp] theorem State.modLaunch_silent (s : State) (n : Nat) (f : Launch → Launch) : (s.modLaunch n f).silent = s.silent := rfl
@[simp] theorem State.modLaunch_ecc (s : State) (n : Nat) (f : Launch → Launch) : (s.modLaunch n f).ecc = s.ecc := rfl
@[simp] theorem State.modLaunch_gates (s : State) (n : Nat) (f : Launch → Launch) : (s.modLaunch n f).gates = s.gates := rfl
@[simp] theorem State.modLaunch_coreIdle (s : State) (n : Nat) (f : Launch → Launch) : (s.modLaunch n f).coreIdle = s.coreIdle := rfl
@[simp] theorem State.modLaunch_interrupts (s : State) (n : Nat) (f : Launch → Launch) : (s.modLaunch n f).interrupts = s.interrupts := rfl
@[simp] theorem State.modLaunch_unread (s : State) (n : Nat) (f : Launch → Launch) : (s.modLaunch n f).unread = s.unread := rfl
@[simp] theorem State.modLaunch_parts (s : State) (n : Nat) (f : Launch → Launch) : (s.modLaunch n f).parts = s.parts := rfl
@[simp] theorem State.modLaunch_teams (s : State) (n : Nat) (f : Launch → Launch) : (s.modLaunch n f).teams = s.teams := rfl
@[simp] theorem State.modLaunch_cmds (s : State) (n : Nat) (f : Launch → Launch) : (s.modLaunch n f).cmds = s.cmds := rfl
@[simp] theorem State.modLaunch_records (s : State) (n : Nat) (f : Launch → Launch) : (s.modLaunch n f).records = s.records := rfl
@[simp] theorem State.modLaunch_faults (s : State) (n : Nat) (f : Launch → Launch) : (s.modLaunch n f).faults = s.faults := rfl
@[simp] theorem State.modLaunch_traces (s : State) (n : Nat) (f : Launch → Launch) : (s.modLaunch n f).traces = s.traces := rfl

@[simp] theorem State.modCmd_cur (s : State) (c : Nat) (f : Cmd → Cmd) : (s.modCmd c f).cur = s.cur := rfl
@[simp] theorem State.modCmd_agenda (s : State) (c : Nat) (f : Cmd → Cmd) : (s.modCmd c f).agenda = s.agenda := rfl
@[simp] theorem State.modCmd_tick (s : State) (c : Nat) (f : Cmd → Cmd) : (s.modCmd c f).tick = s.tick := rfl
@[simp] theorem State.modCmd_cycle (s : State) (c : Nat) (f : Cmd → Cmd) : (s.modCmd c f).cycle = s.cycle := rfl
@[simp] theorem State.modCmd_timeBase (s : State) (c : Nat) (f : Cmd → Cmd) : (s.modCmd c f).timeBase = s.timeBase := rfl
@[simp] theorem State.modCmd_powered (s : State) (c : Nat) (f : Cmd → Cmd) : (s.modCmd c f).powered = s.powered := rfl
@[simp] theorem State.modCmd_boot (s : State) (c : Nat) (f : Cmd → Cmd) : (s.modCmd c f).boot = s.boot := rfl
@[simp] theorem State.modCmd_flash (s : State) (c : Nat) (f : Cmd → Cmd) : (s.modCmd c f).flash = s.flash := rfl
@[simp] theorem State.modCmd_window (s : State) (c : Nat) (f : Cmd → Cmd) : (s.modCmd c f).window = s.window := rfl
@[simp] theorem State.modCmd_recStatus (s : State) (c : Nat) (f : Cmd → Cmd) : (s.modCmd c f).recStatus = s.recStatus := rfl
@[simp] theorem State.modCmd_sems (s : State) (c : Nat) (f : Cmd → Cmd) : (s.modCmd c f).sems = s.sems := rfl
@[simp] theorem State.modCmd_tieBit (s : State) (c : Nat) (f : Cmd → Cmd) : (s.modCmd c f).tieBit = s.tieBit := rfl
@[simp] theorem State.modCmd_mailbox (s : State) (c : Nat) (f : Cmd → Cmd) : (s.modCmd c f).mailbox = s.mailbox := rfl
@[simp] theorem State.modCmd_nextStore (s : State) (c : Nat) (f : Cmd → Cmd) : (s.modCmd c f).nextStore = s.nextStore := rfl
@[simp] theorem State.modCmd_request (s : State) (c : Nat) (f : Cmd → Cmd) : (s.modCmd c f).request = s.request := rfl
@[simp] theorem State.modCmd_rungBy (s : State) (c : Nat) (f : Cmd → Cmd) : (s.modCmd c f).rungBy = s.rungBy := rfl
@[simp] theorem State.modCmd_monLoad (s : State) (c : Nat) (f : Cmd → Cmd) : (s.modCmd c f).monLoad = s.monLoad := rfl
@[simp] theorem State.modCmd_monEntry (s : State) (c : Nat) (f : Cmd → Cmd) : (s.modCmd c f).monEntry = s.monEntry := rfl
@[simp] theorem State.modCmd_worlds (s : State) (c : Nat) (f : Cmd → Cmd) : (s.modCmd c f).worlds = s.worlds := rfl
@[simp] theorem State.modCmd_portSecure (s : State) (c : Nat) (f : Cmd → Cmd) : (s.modCmd c f).portSecure = s.portSecure := rfl
@[simp] theorem State.modCmd_semRead (s : State) (c : Nat) (f : Cmd → Cmd) : (s.modCmd c f).semRead = s.semRead := rfl
@[simp] theorem State.modCmd_hostData (s : State) (c : Nat) (f : Cmd → Cmd) : (s.modCmd c f).hostData = s.hostData := rfl
@[simp] theorem State.modCmd_quotes (s : State) (c : Nat) (f : Cmd → Cmd) : (s.modCmd c f).quotes = s.quotes := rfl
@[simp] theorem State.modCmd_peerData (s : State) (c : Nat) (f : Cmd → Cmd) : (s.modCmd c f).peerData = s.peerData := rfl
@[simp] theorem State.modCmd_trips (s : State) (c : Nat) (f : Cmd → Cmd) : (s.modCmd c f).trips = s.trips := rfl
@[simp] theorem State.modCmd_monitor (s : State) (c : Nat) (f : Cmd → Cmd) : (s.modCmd c f).monitor = s.monitor := rfl
@[simp] theorem State.modCmd_dies (s : State) (c : Nat) (f : Cmd → Cmd) : (s.modCmd c f).dies = s.dies := rfl
@[simp] theorem State.modCmd_stations (s : State) (c : Nat) (f : Cmd → Cmd) : (s.modCmd c f).stations = s.stations := rfl
@[simp] theorem State.modCmd_mem (s : State) (c : Nat) (f : Cmd → Cmd) : (s.modCmd c f).mem = s.mem := rfl
@[simp] theorem State.modCmd_buffer (s : State) (c : Nat) (f : Cmd → Cmd) : (s.modCmd c f).buffer = s.buffer := rfl
@[simp] theorem State.modCmd_frames (s : State) (c : Nat) (f : Cmd → Cmd) : (s.modCmd c f).frames = s.frames := rfl
@[simp] theorem State.modCmd_devRegs (s : State) (c : Nat) (f : Cmd → Cmd) : (s.modCmd c f).devRegs = s.devRegs := rfl
@[simp] theorem State.modCmd_silent (s : State) (c : Nat) (f : Cmd → Cmd) : (s.modCmd c f).silent = s.silent := rfl
@[simp] theorem State.modCmd_ecc (s : State) (c : Nat) (f : Cmd → Cmd) : (s.modCmd c f).ecc = s.ecc := rfl
@[simp] theorem State.modCmd_gates (s : State) (c : Nat) (f : Cmd → Cmd) : (s.modCmd c f).gates = s.gates := rfl
@[simp] theorem State.modCmd_coreIdle (s : State) (c : Nat) (f : Cmd → Cmd) : (s.modCmd c f).coreIdle = s.coreIdle := rfl
@[simp] theorem State.modCmd_interrupts (s : State) (c : Nat) (f : Cmd → Cmd) : (s.modCmd c f).interrupts = s.interrupts := rfl
@[simp] theorem State.modCmd_unread (s : State) (c : Nat) (f : Cmd → Cmd) : (s.modCmd c f).unread = s.unread := rfl
@[simp] theorem State.modCmd_parts (s : State) (c : Nat) (f : Cmd → Cmd) : (s.modCmd c f).parts = s.parts := rfl
@[simp] theorem State.modCmd_launches (s : State) (c : Nat) (f : Cmd → Cmd) : (s.modCmd c f).launches = s.launches := rfl
@[simp] theorem State.modCmd_teams (s : State) (c : Nat) (f : Cmd → Cmd) : (s.modCmd c f).teams = s.teams := rfl
@[simp] theorem State.modCmd_records (s : State) (c : Nat) (f : Cmd → Cmd) : (s.modCmd c f).records = s.records := rfl
@[simp] theorem State.modCmd_faults (s : State) (c : Nat) (f : Cmd → Cmd) : (s.modCmd c f).faults = s.faults := rfl
@[simp] theorem State.modCmd_traces (s : State) (c : Nat) (f : Cmd → Cmd) : (s.modCmd c f).traces = s.traces := rfl

@[simp] theorem State.modDie_cur (s : State) (d : Nat) (f : Die → Die) : (s.modDie d f).cur = s.cur := rfl
@[simp] theorem State.modDie_agenda (s : State) (d : Nat) (f : Die → Die) : (s.modDie d f).agenda = s.agenda := rfl
@[simp] theorem State.modDie_tick (s : State) (d : Nat) (f : Die → Die) : (s.modDie d f).tick = s.tick := rfl
@[simp] theorem State.modDie_cycle (s : State) (d : Nat) (f : Die → Die) : (s.modDie d f).cycle = s.cycle := rfl
@[simp] theorem State.modDie_timeBase (s : State) (d : Nat) (f : Die → Die) : (s.modDie d f).timeBase = s.timeBase := rfl
@[simp] theorem State.modDie_powered (s : State) (d : Nat) (f : Die → Die) : (s.modDie d f).powered = s.powered := rfl
@[simp] theorem State.modDie_boot (s : State) (d : Nat) (f : Die → Die) : (s.modDie d f).boot = s.boot := rfl
@[simp] theorem State.modDie_flash (s : State) (d : Nat) (f : Die → Die) : (s.modDie d f).flash = s.flash := rfl
@[simp] theorem State.modDie_window (s : State) (d : Nat) (f : Die → Die) : (s.modDie d f).window = s.window := rfl
@[simp] theorem State.modDie_recStatus (s : State) (d : Nat) (f : Die → Die) : (s.modDie d f).recStatus = s.recStatus := rfl
@[simp] theorem State.modDie_sems (s : State) (d : Nat) (f : Die → Die) : (s.modDie d f).sems = s.sems := rfl
@[simp] theorem State.modDie_tieBit (s : State) (d : Nat) (f : Die → Die) : (s.modDie d f).tieBit = s.tieBit := rfl
@[simp] theorem State.modDie_mailbox (s : State) (d : Nat) (f : Die → Die) : (s.modDie d f).mailbox = s.mailbox := rfl
@[simp] theorem State.modDie_nextStore (s : State) (d : Nat) (f : Die → Die) : (s.modDie d f).nextStore = s.nextStore := rfl
@[simp] theorem State.modDie_request (s : State) (d : Nat) (f : Die → Die) : (s.modDie d f).request = s.request := rfl
@[simp] theorem State.modDie_rungBy (s : State) (d : Nat) (f : Die → Die) : (s.modDie d f).rungBy = s.rungBy := rfl
@[simp] theorem State.modDie_monLoad (s : State) (d : Nat) (f : Die → Die) : (s.modDie d f).monLoad = s.monLoad := rfl
@[simp] theorem State.modDie_monEntry (s : State) (d : Nat) (f : Die → Die) : (s.modDie d f).monEntry = s.monEntry := rfl
@[simp] theorem State.modDie_worlds (s : State) (d : Nat) (f : Die → Die) : (s.modDie d f).worlds = s.worlds := rfl
@[simp] theorem State.modDie_portSecure (s : State) (d : Nat) (f : Die → Die) : (s.modDie d f).portSecure = s.portSecure := rfl
@[simp] theorem State.modDie_semRead (s : State) (d : Nat) (f : Die → Die) : (s.modDie d f).semRead = s.semRead := rfl
@[simp] theorem State.modDie_hostData (s : State) (d : Nat) (f : Die → Die) : (s.modDie d f).hostData = s.hostData := rfl
@[simp] theorem State.modDie_quotes (s : State) (d : Nat) (f : Die → Die) : (s.modDie d f).quotes = s.quotes := rfl
@[simp] theorem State.modDie_peerData (s : State) (d : Nat) (f : Die → Die) : (s.modDie d f).peerData = s.peerData := rfl
@[simp] theorem State.modDie_trips (s : State) (d : Nat) (f : Die → Die) : (s.modDie d f).trips = s.trips := rfl
@[simp] theorem State.modDie_monitor (s : State) (d : Nat) (f : Die → Die) : (s.modDie d f).monitor = s.monitor := rfl
@[simp] theorem State.modDie_stations (s : State) (d : Nat) (f : Die → Die) : (s.modDie d f).stations = s.stations := rfl
@[simp] theorem State.modDie_mem (s : State) (d : Nat) (f : Die → Die) : (s.modDie d f).mem = s.mem := rfl
@[simp] theorem State.modDie_buffer (s : State) (d : Nat) (f : Die → Die) : (s.modDie d f).buffer = s.buffer := rfl
@[simp] theorem State.modDie_frames (s : State) (d : Nat) (f : Die → Die) : (s.modDie d f).frames = s.frames := rfl
@[simp] theorem State.modDie_devRegs (s : State) (d : Nat) (f : Die → Die) : (s.modDie d f).devRegs = s.devRegs := rfl
@[simp] theorem State.modDie_silent (s : State) (d : Nat) (f : Die → Die) : (s.modDie d f).silent = s.silent := rfl
@[simp] theorem State.modDie_ecc (s : State) (d : Nat) (f : Die → Die) : (s.modDie d f).ecc = s.ecc := rfl
@[simp] theorem State.modDie_gates (s : State) (d : Nat) (f : Die → Die) : (s.modDie d f).gates = s.gates := rfl
@[simp] theorem State.modDie_coreIdle (s : State) (d : Nat) (f : Die → Die) : (s.modDie d f).coreIdle = s.coreIdle := rfl
@[simp] theorem State.modDie_interrupts (s : State) (d : Nat) (f : Die → Die) : (s.modDie d f).interrupts = s.interrupts := rfl
@[simp] theorem State.modDie_unread (s : State) (d : Nat) (f : Die → Die) : (s.modDie d f).unread = s.unread := rfl
@[simp] theorem State.modDie_parts (s : State) (d : Nat) (f : Die → Die) : (s.modDie d f).parts = s.parts := rfl
@[simp] theorem State.modDie_launches (s : State) (d : Nat) (f : Die → Die) : (s.modDie d f).launches = s.launches := rfl
@[simp] theorem State.modDie_teams (s : State) (d : Nat) (f : Die → Die) : (s.modDie d f).teams = s.teams := rfl
@[simp] theorem State.modDie_cmds (s : State) (d : Nat) (f : Die → Die) : (s.modDie d f).cmds = s.cmds := rfl
@[simp] theorem State.modDie_records (s : State) (d : Nat) (f : Die → Die) : (s.modDie d f).records = s.records := rfl
@[simp] theorem State.modDie_faults (s : State) (d : Nat) (f : Die → Die) : (s.modDie d f).faults = s.faults := rfl
@[simp] theorem State.modDie_traces (s : State) (d : Nat) (f : Die → Die) : (s.modDie d f).traces = s.traces := rfl

@[simp] theorem State.modGrp_cur (s : State) (t g : Nat) (f : Group → Group) : (s.modGrp t g f).cur = s.cur := rfl
@[simp] theorem State.modGrp_agenda (s : State) (t g : Nat) (f : Group → Group) : (s.modGrp t g f).agenda = s.agenda := rfl
@[simp] theorem State.modGrp_tick (s : State) (t g : Nat) (f : Group → Group) : (s.modGrp t g f).tick = s.tick := rfl
@[simp] theorem State.modGrp_cycle (s : State) (t g : Nat) (f : Group → Group) : (s.modGrp t g f).cycle = s.cycle := rfl
@[simp] theorem State.modGrp_timeBase (s : State) (t g : Nat) (f : Group → Group) : (s.modGrp t g f).timeBase = s.timeBase := rfl
@[simp] theorem State.modGrp_powered (s : State) (t g : Nat) (f : Group → Group) : (s.modGrp t g f).powered = s.powered := rfl
@[simp] theorem State.modGrp_boot (s : State) (t g : Nat) (f : Group → Group) : (s.modGrp t g f).boot = s.boot := rfl
@[simp] theorem State.modGrp_flash (s : State) (t g : Nat) (f : Group → Group) : (s.modGrp t g f).flash = s.flash := rfl
@[simp] theorem State.modGrp_window (s : State) (t g : Nat) (f : Group → Group) : (s.modGrp t g f).window = s.window := rfl
@[simp] theorem State.modGrp_recStatus (s : State) (t g : Nat) (f : Group → Group) : (s.modGrp t g f).recStatus = s.recStatus := rfl
@[simp] theorem State.modGrp_sems (s : State) (t g : Nat) (f : Group → Group) : (s.modGrp t g f).sems = s.sems := rfl
@[simp] theorem State.modGrp_tieBit (s : State) (t g : Nat) (f : Group → Group) : (s.modGrp t g f).tieBit = s.tieBit := rfl
@[simp] theorem State.modGrp_mailbox (s : State) (t g : Nat) (f : Group → Group) : (s.modGrp t g f).mailbox = s.mailbox := rfl
@[simp] theorem State.modGrp_nextStore (s : State) (t g : Nat) (f : Group → Group) : (s.modGrp t g f).nextStore = s.nextStore := rfl
@[simp] theorem State.modGrp_request (s : State) (t g : Nat) (f : Group → Group) : (s.modGrp t g f).request = s.request := rfl
@[simp] theorem State.modGrp_rungBy (s : State) (t g : Nat) (f : Group → Group) : (s.modGrp t g f).rungBy = s.rungBy := rfl
@[simp] theorem State.modGrp_monLoad (s : State) (t g : Nat) (f : Group → Group) : (s.modGrp t g f).monLoad = s.monLoad := rfl
@[simp] theorem State.modGrp_monEntry (s : State) (t g : Nat) (f : Group → Group) : (s.modGrp t g f).monEntry = s.monEntry := rfl
@[simp] theorem State.modGrp_worlds (s : State) (t g : Nat) (f : Group → Group) : (s.modGrp t g f).worlds = s.worlds := rfl
@[simp] theorem State.modGrp_portSecure (s : State) (t g : Nat) (f : Group → Group) : (s.modGrp t g f).portSecure = s.portSecure := rfl
@[simp] theorem State.modGrp_semRead (s : State) (t g : Nat) (f : Group → Group) : (s.modGrp t g f).semRead = s.semRead := rfl
@[simp] theorem State.modGrp_hostData (s : State) (t g : Nat) (f : Group → Group) : (s.modGrp t g f).hostData = s.hostData := rfl
@[simp] theorem State.modGrp_quotes (s : State) (t g : Nat) (f : Group → Group) : (s.modGrp t g f).quotes = s.quotes := rfl
@[simp] theorem State.modGrp_peerData (s : State) (t g : Nat) (f : Group → Group) : (s.modGrp t g f).peerData = s.peerData := rfl
@[simp] theorem State.modGrp_trips (s : State) (t g : Nat) (f : Group → Group) : (s.modGrp t g f).trips = s.trips := rfl
@[simp] theorem State.modGrp_monitor (s : State) (t g : Nat) (f : Group → Group) : (s.modGrp t g f).monitor = s.monitor := rfl
@[simp] theorem State.modGrp_dies (s : State) (t g : Nat) (f : Group → Group) : (s.modGrp t g f).dies = s.dies := rfl
@[simp] theorem State.modGrp_stations (s : State) (t g : Nat) (f : Group → Group) : (s.modGrp t g f).stations = s.stations := rfl
@[simp] theorem State.modGrp_mem (s : State) (t g : Nat) (f : Group → Group) : (s.modGrp t g f).mem = s.mem := rfl
@[simp] theorem State.modGrp_buffer (s : State) (t g : Nat) (f : Group → Group) : (s.modGrp t g f).buffer = s.buffer := rfl
@[simp] theorem State.modGrp_frames (s : State) (t g : Nat) (f : Group → Group) : (s.modGrp t g f).frames = s.frames := rfl
@[simp] theorem State.modGrp_devRegs (s : State) (t g : Nat) (f : Group → Group) : (s.modGrp t g f).devRegs = s.devRegs := rfl
@[simp] theorem State.modGrp_silent (s : State) (t g : Nat) (f : Group → Group) : (s.modGrp t g f).silent = s.silent := rfl
@[simp] theorem State.modGrp_ecc (s : State) (t g : Nat) (f : Group → Group) : (s.modGrp t g f).ecc = s.ecc := rfl
@[simp] theorem State.modGrp_gates (s : State) (t g : Nat) (f : Group → Group) : (s.modGrp t g f).gates = s.gates := rfl
@[simp] theorem State.modGrp_coreIdle (s : State) (t g : Nat) (f : Group → Group) : (s.modGrp t g f).coreIdle = s.coreIdle := rfl
@[simp] theorem State.modGrp_interrupts (s : State) (t g : Nat) (f : Group → Group) : (s.modGrp t g f).interrupts = s.interrupts := rfl
@[simp] theorem State.modGrp_unread (s : State) (t g : Nat) (f : Group → Group) : (s.modGrp t g f).unread = s.unread := rfl
@[simp] theorem State.modGrp_parts (s : State) (t g : Nat) (f : Group → Group) : (s.modGrp t g f).parts = s.parts := rfl
@[simp] theorem State.modGrp_launches (s : State) (t g : Nat) (f : Group → Group) : (s.modGrp t g f).launches = s.launches := rfl
@[simp] theorem State.modGrp_cmds (s : State) (t g : Nat) (f : Group → Group) : (s.modGrp t g f).cmds = s.cmds := rfl
@[simp] theorem State.modGrp_records (s : State) (t g : Nat) (f : Group → Group) : (s.modGrp t g f).records = s.records := rfl
@[simp] theorem State.modGrp_faults (s : State) (t g : Nat) (f : Group → Group) : (s.modGrp t g f).faults = s.faults := rfl
@[simp] theorem State.modGrp_traces (s : State) (t g : Nat) (f : Group → Group) : (s.modGrp t g f).traces = s.traces := rfl

@[simp] theorem State.modSeq_cur (s : State) (t : Nat) (f : Seq → Seq) : (s.modSeq t f).cur = s.cur := rfl
@[simp] theorem State.modSeq_agenda (s : State) (t : Nat) (f : Seq → Seq) : (s.modSeq t f).agenda = s.agenda := rfl
@[simp] theorem State.modSeq_tick (s : State) (t : Nat) (f : Seq → Seq) : (s.modSeq t f).tick = s.tick := rfl
@[simp] theorem State.modSeq_cycle (s : State) (t : Nat) (f : Seq → Seq) : (s.modSeq t f).cycle = s.cycle := rfl
@[simp] theorem State.modSeq_timeBase (s : State) (t : Nat) (f : Seq → Seq) : (s.modSeq t f).timeBase = s.timeBase := rfl
@[simp] theorem State.modSeq_powered (s : State) (t : Nat) (f : Seq → Seq) : (s.modSeq t f).powered = s.powered := rfl
@[simp] theorem State.modSeq_boot (s : State) (t : Nat) (f : Seq → Seq) : (s.modSeq t f).boot = s.boot := rfl
@[simp] theorem State.modSeq_flash (s : State) (t : Nat) (f : Seq → Seq) : (s.modSeq t f).flash = s.flash := rfl
@[simp] theorem State.modSeq_window (s : State) (t : Nat) (f : Seq → Seq) : (s.modSeq t f).window = s.window := rfl
@[simp] theorem State.modSeq_recStatus (s : State) (t : Nat) (f : Seq → Seq) : (s.modSeq t f).recStatus = s.recStatus := rfl
@[simp] theorem State.modSeq_sems (s : State) (t : Nat) (f : Seq → Seq) : (s.modSeq t f).sems = s.sems := rfl
@[simp] theorem State.modSeq_tieBit (s : State) (t : Nat) (f : Seq → Seq) : (s.modSeq t f).tieBit = s.tieBit := rfl
@[simp] theorem State.modSeq_mailbox (s : State) (t : Nat) (f : Seq → Seq) : (s.modSeq t f).mailbox = s.mailbox := rfl
@[simp] theorem State.modSeq_nextStore (s : State) (t : Nat) (f : Seq → Seq) : (s.modSeq t f).nextStore = s.nextStore := rfl
@[simp] theorem State.modSeq_request (s : State) (t : Nat) (f : Seq → Seq) : (s.modSeq t f).request = s.request := rfl
@[simp] theorem State.modSeq_rungBy (s : State) (t : Nat) (f : Seq → Seq) : (s.modSeq t f).rungBy = s.rungBy := rfl
@[simp] theorem State.modSeq_monLoad (s : State) (t : Nat) (f : Seq → Seq) : (s.modSeq t f).monLoad = s.monLoad := rfl
@[simp] theorem State.modSeq_monEntry (s : State) (t : Nat) (f : Seq → Seq) : (s.modSeq t f).monEntry = s.monEntry := rfl
@[simp] theorem State.modSeq_worlds (s : State) (t : Nat) (f : Seq → Seq) : (s.modSeq t f).worlds = s.worlds := rfl
@[simp] theorem State.modSeq_portSecure (s : State) (t : Nat) (f : Seq → Seq) : (s.modSeq t f).portSecure = s.portSecure := rfl
@[simp] theorem State.modSeq_semRead (s : State) (t : Nat) (f : Seq → Seq) : (s.modSeq t f).semRead = s.semRead := rfl
@[simp] theorem State.modSeq_hostData (s : State) (t : Nat) (f : Seq → Seq) : (s.modSeq t f).hostData = s.hostData := rfl
@[simp] theorem State.modSeq_quotes (s : State) (t : Nat) (f : Seq → Seq) : (s.modSeq t f).quotes = s.quotes := rfl
@[simp] theorem State.modSeq_peerData (s : State) (t : Nat) (f : Seq → Seq) : (s.modSeq t f).peerData = s.peerData := rfl
@[simp] theorem State.modSeq_trips (s : State) (t : Nat) (f : Seq → Seq) : (s.modSeq t f).trips = s.trips := rfl
@[simp] theorem State.modSeq_monitor (s : State) (t : Nat) (f : Seq → Seq) : (s.modSeq t f).monitor = s.monitor := rfl
@[simp] theorem State.modSeq_dies (s : State) (t : Nat) (f : Seq → Seq) : (s.modSeq t f).dies = s.dies := rfl
@[simp] theorem State.modSeq_stations (s : State) (t : Nat) (f : Seq → Seq) : (s.modSeq t f).stations = s.stations := rfl
@[simp] theorem State.modSeq_mem (s : State) (t : Nat) (f : Seq → Seq) : (s.modSeq t f).mem = s.mem := rfl
@[simp] theorem State.modSeq_buffer (s : State) (t : Nat) (f : Seq → Seq) : (s.modSeq t f).buffer = s.buffer := rfl
@[simp] theorem State.modSeq_frames (s : State) (t : Nat) (f : Seq → Seq) : (s.modSeq t f).frames = s.frames := rfl
@[simp] theorem State.modSeq_devRegs (s : State) (t : Nat) (f : Seq → Seq) : (s.modSeq t f).devRegs = s.devRegs := rfl
@[simp] theorem State.modSeq_silent (s : State) (t : Nat) (f : Seq → Seq) : (s.modSeq t f).silent = s.silent := rfl
@[simp] theorem State.modSeq_ecc (s : State) (t : Nat) (f : Seq → Seq) : (s.modSeq t f).ecc = s.ecc := rfl
@[simp] theorem State.modSeq_gates (s : State) (t : Nat) (f : Seq → Seq) : (s.modSeq t f).gates = s.gates := rfl
@[simp] theorem State.modSeq_coreIdle (s : State) (t : Nat) (f : Seq → Seq) : (s.modSeq t f).coreIdle = s.coreIdle := rfl
@[simp] theorem State.modSeq_interrupts (s : State) (t : Nat) (f : Seq → Seq) : (s.modSeq t f).interrupts = s.interrupts := rfl
@[simp] theorem State.modSeq_unread (s : State) (t : Nat) (f : Seq → Seq) : (s.modSeq t f).unread = s.unread := rfl
@[simp] theorem State.modSeq_parts (s : State) (t : Nat) (f : Seq → Seq) : (s.modSeq t f).parts = s.parts := rfl
@[simp] theorem State.modSeq_launches (s : State) (t : Nat) (f : Seq → Seq) : (s.modSeq t f).launches = s.launches := rfl
@[simp] theorem State.modSeq_cmds (s : State) (t : Nat) (f : Seq → Seq) : (s.modSeq t f).cmds = s.cmds := rfl
@[simp] theorem State.modSeq_records (s : State) (t : Nat) (f : Seq → Seq) : (s.modSeq t f).records = s.records := rfl
@[simp] theorem State.modSeq_faults (s : State) (t : Nat) (f : Seq → Seq) : (s.modSeq t f).faults = s.faults := rfl
@[simp] theorem State.modSeq_traces (s : State) (t : Nat) (f : Seq → Seq) : (s.modSeq t f).traces = s.traces := rfl

theorem State.modPart_eq (s : State) (p : Nat) (f : Part → Part) :
    s.modPart p f = { s with parts := (s.modPart p f).parts } := by
  unfold State.modPart
  split <;> rfl

@[simp] theorem State.modPart_cur (s : State) (p : Nat) (f : Part → Part) : (s.modPart p f).cur = s.cur := by rw [State.modPart_eq]
@[simp] theorem State.modPart_agenda (s : State) (p : Nat) (f : Part → Part) : (s.modPart p f).agenda = s.agenda := by rw [State.modPart_eq]
@[simp] theorem State.modPart_tick (s : State) (p : Nat) (f : Part → Part) : (s.modPart p f).tick = s.tick := by rw [State.modPart_eq]
@[simp] theorem State.modPart_cycle (s : State) (p : Nat) (f : Part → Part) : (s.modPart p f).cycle = s.cycle := by rw [State.modPart_eq]
@[simp] theorem State.modPart_timeBase (s : State) (p : Nat) (f : Part → Part) : (s.modPart p f).timeBase = s.timeBase := by rw [State.modPart_eq]
@[simp] theorem State.modPart_powered (s : State) (p : Nat) (f : Part → Part) : (s.modPart p f).powered = s.powered := by rw [State.modPart_eq]
@[simp] theorem State.modPart_boot (s : State) (p : Nat) (f : Part → Part) : (s.modPart p f).boot = s.boot := by rw [State.modPart_eq]
@[simp] theorem State.modPart_flash (s : State) (p : Nat) (f : Part → Part) : (s.modPart p f).flash = s.flash := by rw [State.modPart_eq]
@[simp] theorem State.modPart_window (s : State) (p : Nat) (f : Part → Part) : (s.modPart p f).window = s.window := by rw [State.modPart_eq]
@[simp] theorem State.modPart_recStatus (s : State) (p : Nat) (f : Part → Part) : (s.modPart p f).recStatus = s.recStatus := by rw [State.modPart_eq]
@[simp] theorem State.modPart_sems (s : State) (p : Nat) (f : Part → Part) : (s.modPart p f).sems = s.sems := by rw [State.modPart_eq]
@[simp] theorem State.modPart_tieBit (s : State) (p : Nat) (f : Part → Part) : (s.modPart p f).tieBit = s.tieBit := by rw [State.modPart_eq]
@[simp] theorem State.modPart_mailbox (s : State) (p : Nat) (f : Part → Part) : (s.modPart p f).mailbox = s.mailbox := by rw [State.modPart_eq]
@[simp] theorem State.modPart_nextStore (s : State) (p : Nat) (f : Part → Part) : (s.modPart p f).nextStore = s.nextStore := by rw [State.modPart_eq]
@[simp] theorem State.modPart_request (s : State) (p : Nat) (f : Part → Part) : (s.modPart p f).request = s.request := by rw [State.modPart_eq]
@[simp] theorem State.modPart_rungBy (s : State) (p : Nat) (f : Part → Part) : (s.modPart p f).rungBy = s.rungBy := by rw [State.modPart_eq]
@[simp] theorem State.modPart_monLoad (s : State) (p : Nat) (f : Part → Part) : (s.modPart p f).monLoad = s.monLoad := by rw [State.modPart_eq]
@[simp] theorem State.modPart_monEntry (s : State) (p : Nat) (f : Part → Part) : (s.modPart p f).monEntry = s.monEntry := by rw [State.modPart_eq]
@[simp] theorem State.modPart_worlds (s : State) (p : Nat) (f : Part → Part) : (s.modPart p f).worlds = s.worlds := by rw [State.modPart_eq]
@[simp] theorem State.modPart_portSecure (s : State) (p : Nat) (f : Part → Part) : (s.modPart p f).portSecure = s.portSecure := by rw [State.modPart_eq]
@[simp] theorem State.modPart_semRead (s : State) (p : Nat) (f : Part → Part) : (s.modPart p f).semRead = s.semRead := by rw [State.modPart_eq]
@[simp] theorem State.modPart_hostData (s : State) (p : Nat) (f : Part → Part) : (s.modPart p f).hostData = s.hostData := by rw [State.modPart_eq]
@[simp] theorem State.modPart_quotes (s : State) (p : Nat) (f : Part → Part) : (s.modPart p f).quotes = s.quotes := by rw [State.modPart_eq]
@[simp] theorem State.modPart_peerData (s : State) (p : Nat) (f : Part → Part) : (s.modPart p f).peerData = s.peerData := by rw [State.modPart_eq]
@[simp] theorem State.modPart_trips (s : State) (p : Nat) (f : Part → Part) : (s.modPart p f).trips = s.trips := by rw [State.modPart_eq]
@[simp] theorem State.modPart_monitor (s : State) (p : Nat) (f : Part → Part) : (s.modPart p f).monitor = s.monitor := by rw [State.modPart_eq]
@[simp] theorem State.modPart_dies (s : State) (p : Nat) (f : Part → Part) : (s.modPart p f).dies = s.dies := by rw [State.modPart_eq]
@[simp] theorem State.modPart_stations (s : State) (p : Nat) (f : Part → Part) : (s.modPart p f).stations = s.stations := by rw [State.modPart_eq]
@[simp] theorem State.modPart_mem (s : State) (p : Nat) (f : Part → Part) : (s.modPart p f).mem = s.mem := by rw [State.modPart_eq]
@[simp] theorem State.modPart_buffer (s : State) (p : Nat) (f : Part → Part) : (s.modPart p f).buffer = s.buffer := by rw [State.modPart_eq]
@[simp] theorem State.modPart_frames (s : State) (p : Nat) (f : Part → Part) : (s.modPart p f).frames = s.frames := by rw [State.modPart_eq]
@[simp] theorem State.modPart_devRegs (s : State) (p : Nat) (f : Part → Part) : (s.modPart p f).devRegs = s.devRegs := by rw [State.modPart_eq]
@[simp] theorem State.modPart_silent (s : State) (p : Nat) (f : Part → Part) : (s.modPart p f).silent = s.silent := by rw [State.modPart_eq]
@[simp] theorem State.modPart_ecc (s : State) (p : Nat) (f : Part → Part) : (s.modPart p f).ecc = s.ecc := by rw [State.modPart_eq]
@[simp] theorem State.modPart_gates (s : State) (p : Nat) (f : Part → Part) : (s.modPart p f).gates = s.gates := by rw [State.modPart_eq]
@[simp] theorem State.modPart_coreIdle (s : State) (p : Nat) (f : Part → Part) : (s.modPart p f).coreIdle = s.coreIdle := by rw [State.modPart_eq]
@[simp] theorem State.modPart_interrupts (s : State) (p : Nat) (f : Part → Part) : (s.modPart p f).interrupts = s.interrupts := by rw [State.modPart_eq]
@[simp] theorem State.modPart_unread (s : State) (p : Nat) (f : Part → Part) : (s.modPart p f).unread = s.unread := by rw [State.modPart_eq]
@[simp] theorem State.modPart_launches (s : State) (p : Nat) (f : Part → Part) : (s.modPart p f).launches = s.launches := by rw [State.modPart_eq]
@[simp] theorem State.modPart_teams (s : State) (p : Nat) (f : Part → Part) : (s.modPart p f).teams = s.teams := by rw [State.modPart_eq]
@[simp] theorem State.modPart_cmds (s : State) (p : Nat) (f : Part → Part) : (s.modPart p f).cmds = s.cmds := by rw [State.modPart_eq]
@[simp] theorem State.modPart_records (s : State) (p : Nat) (f : Part → Part) : (s.modPart p f).records = s.records := by rw [State.modPart_eq]
@[simp] theorem State.modPart_faults (s : State) (p : Nat) (f : Part → Part) : (s.modPart p f).faults = s.faults := by rw [State.modPart_eq]
@[simp] theorem State.modPart_traces (s : State) (p : Nat) (f : Part → Part) : (s.modPart p f).traces = s.traces := by rw [State.modPart_eq]

/-! A group changed within its team. -/

@[simp] theorem Team.modGroup_launch (tm : Team) (g : Nat) (f : Group → Group) : (tm.modGroup g f).launch = tm.launch := rfl
@[simp] theorem Team.modGroup_linear (tm : Team) (g : Nat) (f : Group → Group) : (tm.modGroup g f).linear = tm.linear := rfl
@[simp] theorem Team.modGroup_die (tm : Team) (g : Nat) (f : Group → Group) : (tm.modGroup g f).die = tm.die := rfl
@[simp] theorem Team.modGroup_core (tm : Team) (g : Nat) (f : Group → Group) : (tm.modGroup g f).core = tm.core := rfl
@[simp] theorem Team.modGroup_logical (tm : Team) (g : Nat) (f : Group → Group) : (tm.modGroup g f).logical = tm.logical := rfl
@[simp] theorem Team.modGroup_phase (tm : Team) (g : Nat) (f : Group → Group) : (tm.modGroup g f).phase = tm.phase := rfl
@[simp] theorem Team.modGroup_bars (tm : Team) (g : Nat) (f : Group → Group) : (tm.modGroup g f).bars = tm.bars := rfl
@[simp] theorem Team.modGroup_queues (tm : Team) (g : Nat) (f : Group → Group) : (tm.modGroup g f).queues = tm.queues := rfl
@[simp] theorem Team.modGroup_qregs (tm : Team) (g : Nat) (f : Group → Group) : (tm.modGroup g f).qregs = tm.qregs := rfl
@[simp] theorem Team.modGroup_ports (tm : Team) (g : Nat) (f : Group → Group) : (tm.modGroup g f).ports = tm.ports := rfl
@[simp] theorem Team.modGroup_slots (tm : Team) (g : Nat) (f : Group → Group) : (tm.modGroup g f).slots = tm.slots := rfl
@[simp] theorem Team.modGroup_tiles (tm : Team) (g : Nat) (f : Group → Group) : (tm.modGroup g f).tiles = tm.tiles := rfl
@[simp] theorem Team.modGroup_rows (tm : Team) (g : Nat) (f : Group → Group) : (tm.modGroup g f).rows = tm.rows := rfl
@[simp] theorem Team.modGroup_scratch (tm : Team) (g : Nat) (f : Group → Group) : (tm.modGroup g f).scratch = tm.scratch := rfl
@[simp] theorem Team.modGroup_seq (tm : Team) (g : Nat) (f : Group → Group) : (tm.modGroup g f).seq = tm.seq := rfl
@[simp] theorem Team.modGroup_fa (tm : Team) (g : Nat) (f : Group → Group) : (tm.modGroup g f).fa = tm.fa := rfl
@[simp] theorem Team.modGroup_fb (tm : Team) (g : Nat) (f : Group → Group) : (tm.modGroup g f).fb = tm.fb := rfl
@[simp] theorem Team.modGroup_scale (tm : Team) (g : Nat) (f : Group → Group) : (tm.modGroup g f).scale = tm.scale := rfl
@[simp] theorem Team.modGroup_latch (tm : Team) (g : Nat) (f : Group → Group) : (tm.modGroup g f).latch = tm.latch := rfl
@[simp] theorem Team.modGroup_valid (tm : Team) (g : Nat) (f : Group → Group) : (tm.modGroup g f).valid = tm.valid := rfl
@[simp] theorem Team.modGroup_trapBase (tm : Team) (g : Nat) (f : Group → Group) : (tm.modGroup g f).trapBase = tm.trapBase := rfl
@[simp] theorem Team.modGroup_selCfg (tm : Team) (g : Nat) (f : Group → Group) : (tm.modGroup g f).selCfg = tm.selCfg := rfl
@[simp] theorem Team.modGroup_rngKey (tm : Team) (g : Nat) (f : Group → Group) : (tm.modGroup g f).rngKey = tm.rngKey := rfl
@[simp] theorem Team.modGroup_ctrBase (tm : Team) (g : Nat) (f : Group → Group) : (tm.modGroup g f).ctrBase = tm.ctrBase := rfl
@[simp] theorem Team.modGroup_touched (tm : Team) (g : Nat) (f : Group → Group) : (tm.modGroup g f).touched = tm.touched := rfl
@[simp] theorem Team.modGroup_heldTrap (tm : Team) (g : Nat) (f : Group → Group) : (tm.modGroup g f).heldTrap = tm.heldTrap := rfl
@[simp] theorem Team.modGroup_children (tm : Team) (g : Nat) (f : Group → Group) : (tm.modGroup g f).children = tm.children := rfl
@[simp] theorem Team.modGroup_preemptAt (tm : Team) (g : Nat) (f : Group → Group) : (tm.modGroup g f).preemptAt = tm.preemptAt := rfl
@[simp] theorem Team.modGroup_saveArea (tm : Team) (g : Nat) (f : Group → Group) : (tm.modGroup g f).saveArea = tm.saveArea := rfl
@[simp] theorem Team.modGroup_lateBytes (tm : Team) (g : Nat) (f : Group → Group) : (tm.modGroup g f).lateBytes = tm.lateBytes := rfl
@[simp] theorem Team.modGroup_answers (tm : Team) (g : Nat) (f : Group → Group) : (tm.modGroup g f).answers = tm.answers := rfl
@[simp] theorem Team.modGroup_seqLost (tm : Team) (g : Nat) (f : Group → Group) : (tm.modGroup g f).seqLost = tm.seqLost := rfl
@[simp] theorem Team.modGroup_hangDone (tm : Team) (g : Nat) (f : Group → Group) : (tm.modGroup g f).hangDone = tm.hangDone := rfl
@[simp] theorem Team.modGroup_hangAt (tm : Team) (g : Nat) (f : Group → Group) : (tm.modGroup g f).hangAt = tm.hangAt := rfl
@[simp] theorem Team.modGroup_order (tm : Team) (g : Nat) (f : Group → Group) : (tm.modGroup g f).order = tm.order := rfl

@[simp] theorem Team.modGroup_length (tm : Team) (g : Nat) (f : Group → Group) :
    (tm.modGroup g f).groups.length = tm.groups.length := by simp [Team.modGroup]

theorem Team.group_modGroup (tm : Team) (g k : Nat) (f : Group → Group) (h : g < tm.groups.length) :
    (tm.modGroup g f).group k = if g = k then f (tm.group k) else tm.group k := by
  by_cases hk : g = k
  · subst hk
    simp [Team.modGroup, Team.group, List.getD_eq_getElem?_getD, h]
  · simp [Team.modGroup, Team.group, List.getD_eq_getElem?_getD, List.getElem?_modify_ne, hk]

theorem Team.group_modGroup_same {tm : Team} {g : Nat} (f : Group → Group) (h : g < tm.groups.length) :
    (tm.modGroup g f).group g = f (tm.group g) := by simp [Team.group_modGroup, h]

theorem Team.group_modGroup_ne (tm : Team) {g k : Nat} (f : Group → Group) (h : g ≠ k) :
    (tm.modGroup g f).group k = tm.group k := by
  simp [Team.modGroup, Team.group, List.getD_eq_getElem?_getD, List.getElem?_modify_ne, h]

@[simp] theorem Team.modGroup_modGroup (tm : Team) (g : Nat) (f f' : Group → Group) :
    (tm.modGroup g f).modGroup g f' = tm.modGroup g fun x => f' (f x) := by
  simp only [Team.modGroup, List.modify_modify_eq]
  rfl

/-! A team changed. -/

@[simp] theorem State.modTeam_length (s : State) (t : Nat) (f : Team → Team) :
    (s.modTeam t f).teams.length = s.teams.length := by simp [State.modTeam]

theorem State.team_modTeam_same {s : State} {t : Nat} (f : Team → Team) (h : t < s.teams.length) :
    (s.modTeam t f).team t = f (s.team t) := by
  simp [State.modTeam, State.team, List.getD_eq_getElem?_getD, h]

theorem State.team_modTeam_ne (s : State) {t k : Nat} (f : Team → Team) (h : t ≠ k) :
    (s.modTeam t f).team k = s.team k := by
  simp [State.modTeam, State.team, List.getD_eq_getElem?_getD, List.getElem?_modify_ne, h]

@[simp] theorem State.modTeam_modTeam (s : State) (t : Nat) (f f' : Team → Team) :
    (s.modTeam t f).modTeam t f' = s.modTeam t fun x => f' (f x) := by
  simp only [State.modTeam, List.modify_modify_eq]
  rfl

@[simp] theorem State.modGrp_modGrp (s : State) (t g : Nat) (f f' : Group → Group) :
    (s.modGrp t g f).modGrp t g f' = s.modGrp t g fun x => f' (f x) := by
  simp [State.modGrp]

@[simp] theorem State.modGrp_length (s : State) (t g : Nat) (f : Group → Group) :
    (s.modGrp t g f).teams.length = s.teams.length := by simp [State.modGrp]

theorem State.team_modGrp_ne (s : State) {t k : Nat} (g : Nat) (f : Group → Group) (h : t ≠ k) :
    (s.modGrp t g f).team k = s.team k := State.team_modTeam_ne s _ h

theorem State.team_modGrp {s : State} {t : Nat} (g : Nat) (f : Group → Group) (h : t < s.teams.length) :
    (s.modGrp t g f).team t = (s.team t).modGroup g f := State.team_modTeam_same _ h

theorem State.grp_modGrp_same {s : State} {t g : Nat} (f : Group → Group) (h : t < s.teams.length)
    (hg : g < (s.team t).groups.length) : (s.modGrp t g f).grp t g = f (s.grp t g) := by
  rw [State.grp, State.team_modGrp g f h, Team.group_modGroup_same f hg, State.grp]

theorem State.grp_modGrp_ne (s : State) {t g t' g' : Nat} (f : Group → Group) (h : ¬(t = t' ∧ g = g')) :
    (s.modGrp t g f).grp t' g' = s.grp t' g' := by
  by_cases ht : t = t'
  · subst ht
    by_cases hl : t < s.teams.length
    · rw [State.grp, State.team_modGrp g f hl, Team.group_modGroup_ne _ _ (fun e => h ⟨rfl, e⟩), State.grp]
    · have : s.modGrp t g f = s := by
        simp only [State.modGrp, State.modTeam]
        rw [List.modify_eq_self (by omega)]
      rw [this]
  · rw [State.grp, State.team_modGrp_ne s g f ht, State.grp]

theorem State.team_ge {s : State} {t : Nat} (h : ¬t < s.teams.length) : s.team t = noTeam := by
  simp [State.team, List.getD_eq_getElem?_getD, List.getElem?_eq_none (by omega : s.teams.length ≤ t)]

/-- What an update of a group leaves of any team, read through a function that no group's update changes. -/
theorem State.team_modGrp_congr {α : Type} (s : State) (t g k : Nat) (f : Group → Group) (p : Team → α)
    (hp : ∀ tm : Team, p (tm.modGroup g f) = p tm) : p ((s.modGrp t g f).team k) = p (s.team k) := by
  by_cases hk : t = k
  · subst hk
    by_cases hl : t < s.teams.length
    · rw [State.team_modGrp g f hl, hp]
    · rw [State.team_ge hl, State.team_ge (by simpa using hl)]
  · rw [State.team_modGrp_ne s g f hk]

@[simp] theorem State.launch_modGrp (s : State) (t g k : Nat) (f : Group → Group) :
    (s.modGrp t g f).launch k = s.launch k := rfl

@[simp] theorem State.part_modGrp (s : State) (t g k : Nat) (f : Group → Group) :
    (s.modGrp t g f).part k = s.part k := rfl

@[simp] theorem State.launchOf_modGrp (s : State) (t g k : Nat) (f : Group → Group) :
    (s.modGrp t g f).launchOf k = s.launchOf k := by
  simp only [State.launchOf, State.launch_modGrp]
  rw [State.team_modGrp_congr (p := Team.launch) s t g k f (fun _ => rfl)]

/-- A change at a place depends on the function only at what stands there. -/
theorem modify_congr {α : Type} (l : List α) (i : Nat) {f f' : α → α} (h : ∀ x, l[i]? = some x → f x = f' x) :
    l.modify i f = l.modify i f' := by
  apply List.ext_getElem?
  intro j
  simp only [List.getElem?_modify]
  by_cases hj : i = j
  · subst hj
    cases hx : l[i]? with
    | none => rfl
    | some x => simp [h x hx]
  · simp [hj]

theorem modify_id {α : Type} (l : List α) (i : Nat) : l.modify i (fun x => x) = l := by
  apply List.ext_getElem?
  intro j
  simp only [List.getElem?_modify]
  split <;> simp

theorem Team.modGroup_congr (tm : Team) (g : Nat) {f f' : Group → Group} (h : f (tm.group g) = f' (tm.group g)) :
    tm.modGroup g f = tm.modGroup g f' := by
  simp only [Team.modGroup, Team.mk.injEq, true_and, and_true]
  refine modify_congr _ _ fun x hx => ?_
  have : tm.group g = x := by simp [Team.group, List.getD_eq_getElem?_getD, hx]
  rw [← this, h]

/-- An update of a team depends on its function only at what the team holds. -/
theorem State.modTeam_congr (s : State) (t : Nat) {f f' : Team → Team} (h : f (s.team t) = f' (s.team t)) :
    s.modTeam t f = s.modTeam t f' := by
  simp only [State.modTeam, State.mk.injEq, true_and, and_true]
  refine modify_congr _ _ fun x hx => ?_
  have : s.team t = x := by simp [State.team, List.getD_eq_getElem?_getD, hx]
  rw [← this, h]

/-- An update of a group depends on its function only at what the group holds. -/
theorem State.modGrp_congr (s : State) (t g : Nat) {f f' : Group → Group} (h : f (s.grp t g) = f' (s.grp t g)) :
    s.modGrp t g f = s.modGrp t g f' :=
  State.modTeam_congr s t (Team.modGroup_congr _ g h)

/-- Changing a team, or a group, to what it is changes nothing. -/
theorem State.modTeam_id (s : State) (t : Nat) : (s.modTeam t fun x => x) = s := by
  simp only [State.modTeam, modify_id]

theorem State.modGrp_id (s : State) (t g : Nat) : (s.modGrp t g fun x => x) = s := by
  have : (fun tm : Team => tm.modGroup g fun x => x) = fun tm => tm := by
    funext tm
    simp only [Team.modGroup, modify_id]
  rw [State.modGrp, this, State.modTeam_id]

/-- A group in range changed twice: only the last counts where it forgets what stood there. -/
theorem State.modGrp_const (s : State) (t g : Nat) (f : Group → Group) :
    s.modGrp t g f = s.modGrp t g fun _ => f (s.grp t g) := State.modGrp_congr s t g rfl

end Sys2Proof.Machine
end

