-- ==== Sys2Proof/Laws/Store.lean ====
section
/-! SUPPORT. Sparse storage: a read after a write, and the canonical form that every write keeps. -/

namespace Sys2Proof

variable {w : Nat}

/-! Reads after writes. -/

@[simp] theorem Store.get_nil (a : Nat) : Store.get ([] : Store w) a = 0 := rfl

theorem Store.get_erase (m : Store w) (a b : Nat) : (m.erase a).get b = if a = b then 0 else m.get b := by
  induction m with
  | nil => simp [Store.erase]
  | cons e m ih =>
    obtain ⟨k, v⟩ := e
    simp only [Store.erase, Store.get]
    split_ifs with h1 h2 h3 <;> simp_all [Store.get]

theorem Store.get_insert (m : Store w) (a b : Nat) (x : BitVec w) :
    (m.insert a x).get b = if a = b then x else m.get b := by
  induction m with
  | nil => simp [Store.insert, Store.get]
  | cons e m ih =>
    obtain ⟨k, v⟩ := e
    simp only [Store.insert, Store.get]
    split_ifs <;> simp_all [Store.get]

/-- What a key holds after a write. -/
theorem Store.get_set (m : Store w) (a b : Nat) (x : BitVec w) : (m.set a x).get b = if a = b then x else m.get b := by
  unfold Store.set
  split_ifs with h h1 h1 <;> simp_all [Store.get_erase, Store.get_insert]

@[simp] theorem Store.get_set_same (m : Store w) (a : Nat) (x : BitVec w) : (m.set a x).get a = x := by
  simp [Store.get_set]

theorem Store.get_set_ne (m : Store w) {a b : Nat} (x : BitVec w) (h : a ≠ b) : (m.set a x).get b = m.get b := by
  simp [Store.get_set, h]

/-- Bytes after a write of bytes. -/
theorem Store.get_writeBytes (bs : List Byte) (m : Store 8) (a b : Nat) :
    (m.writeBytes a bs).get b = if a ≤ b ∧ b < a + bs.length then bs.getD (b - a) 0 else m.get b := by
  induction bs generalizing m a with
  | nil => simp [Store.writeBytes]
  | cons x bs ih =>
    simp only [Store.writeBytes, ih, Store.get_set, List.length_cons]
    by_cases h0 : a = b
    · subst h0; simp
    · by_cases h1 : a + 1 ≤ b ∧ b < a + 1 + bs.length
      · have h2 : a ≤ b ∧ b < a + (bs.length + 1) := by omega
        have h3 : b - a = (b - (a + 1)) + 1 := by omega
        simp [h1, h2, h3]
      · have h2 : ¬(a ≤ b ∧ b < a + (bs.length + 1)) := by omega
        rw [if_neg h1, if_neg h0, if_neg h2]

/-- A byte outside a little-endian write. -/
theorem Store.get_writeLe_out (n : Nat) (m : Store 8) (a x b : Nat) (h : b < a ∨ a + n ≤ b) :
    (m.writeLe a n x).get b = m.get b := by
  induction n generalizing m a x with
  | zero => rfl
  | succ n ih =>
    simp only [Store.writeLe]
    rw [ih _ _ _ (by omega), Store.get_set_ne _ _ (by omega)]

/-- A byte inside a little-endian write. -/
theorem Store.get_writeLe_in (n : Nat) (m : Store 8) (a x i : Nat) (h : i < n) :
    (m.writeLe a n x).get (a + i) = BitVec.ofNat 8 (x / 256 ^ i) := by
  induction n generalizing m a x i with
  | zero => omega
  | succ n ih =>
    simp only [Store.writeLe]
    cases i with
    | zero => rw [Nat.add_zero, Store.get_writeLe_out _ _ _ _ _ (by omega)]; simp
    | succ i =>
      have h2 := ih (m.set a (BitVec.ofNat 8 x)) (a + 1) (x / 256) i (by omega)
      rw [show a + (i + 1) = a + 1 + i by omega, h2, Nat.div_div_eq_div_mul, pow_succ, Nat.mul_comm]

/-- Little-endian reads of equal bytes agree. -/
theorem Store.readLe_congr (n : Nat) (m m' : Store 8) (a : Nat) (h : ∀ i < n, m.get (a + i) = m'.get (a + i)) :
    m.readLe a n = m'.readLe a n := by
  induction n generalizing a with
  | zero => rfl
  | succ n ih =>
    simp only [Store.readLe]
    rw [ih (a + 1) fun i hi => by have := h (i + 1) (by omega); rwa [show a + (i + 1) = a + 1 + i by omega] at this]
    have := h 0 (by omega)
    rw [Nat.add_zero] at this
    rw [this]

/-- A little-endian read outside a little-endian write. -/
theorem Store.readLe_writeLe_out (m : Store 8) (a n x b k : Nat) (h : b + k ≤ a ∨ a + n ≤ b) :
    (m.writeLe a n x).readLe b k = m.readLe b k :=
  Store.readLe_congr _ _ _ _ fun i hi => Store.get_writeLe_out _ _ _ _ _ (by omega)

/-- A little-endian read of what was written there. -/
theorem Store.readLe_writeLe (n : Nat) (m : Store 8) (a x : Nat) : (m.writeLe a n x).readLe a n = x % 256 ^ n := by
  induction n generalizing m a x with
  | zero => simp [Store.readLe, Nat.mod_one]
  | succ n ih =>
    have h0 : (m.writeLe a (n + 1) x).get a = BitVec.ofNat 8 x := by
      simpa using Store.get_writeLe_in (n + 1) m a x 0 (by omega)
    simp only [Store.readLe]
    rw [h0]
    have h1 : (m.writeLe a (n + 1) x).readLe (a + 1) n = x / 256 % 256 ^ n := by
      simp only [Store.writeLe]
      exact ih _ _ _
    rw [h1, BitVec.toNat_ofNat, Nat.pow_succ' (n := n), Nat.mod_mul]

/-! The canonical form. -/

theorem Store.wfFrom_mono {m : Store w} {a b : Nat} (h : b ≤ a) (hm : m.wfFrom a = true) : m.wfFrom b = true := by
  cases m with
  | nil => rfl
  | cons e m =>
    obtain ⟨k, v⟩ := e
    simp only [Store.wfFrom, Bool.and_eq_true, decide_eq_true_eq] at hm ⊢
    exact ⟨⟨by omega, hm.1.2⟩, hm.2⟩

theorem Store.wfFrom_erase (m : Store w) (a lo : Nat) (h : m.wfFrom lo = true) : (m.erase a).wfFrom lo = true := by
  induction m generalizing lo with
  | nil => rfl
  | cons e m ih =>
    obtain ⟨k, v⟩ := e
    simp only [Store.wfFrom, Bool.and_eq_true, decide_eq_true_eq] at h
    simp only [Store.erase]
    split_ifs
    · exact ih _ (Store.wfFrom_mono (by omega) h.2)
    · simp only [Store.wfFrom, Bool.and_eq_true, decide_eq_true_eq]
      exact ⟨h.1, ih _ h.2⟩

theorem Store.wfFrom_insert (m : Store w) (a lo : Nat) (x : BitVec w) (hx : x ≠ 0) (hlo : lo ≤ a) (h : m.wfFrom lo = true) :
    (m.insert a x).wfFrom lo = true := by
  induction m generalizing lo with
  | nil => simpa [Store.insert, Store.wfFrom, hlo] using hx
  | cons e m ih =>
    obtain ⟨k, v⟩ := e
    simp only [Store.wfFrom, Bool.and_eq_true, decide_eq_true_eq] at h
    simp only [Store.insert]
    split_ifs with h1 h2
    · simp only [Store.wfFrom, Bool.and_eq_true, decide_eq_true_eq]
      exact ⟨⟨hlo, hx⟩, ⟨by omega, h.1.2⟩, h.2⟩
    · subst h2
      simp only [Store.wfFrom, Bool.and_eq_true, decide_eq_true_eq]
      exact ⟨⟨hlo, hx⟩, h.2⟩
    · simp only [Store.wfFrom, Bool.and_eq_true, decide_eq_true_eq]
      exact ⟨h.1, ih _ (by omega) h.2⟩

/-- A write keeps the canonical form. -/
theorem Store.wf_set {m : Store w} (a : Nat) (x : BitVec w) (h : m.wf = true) : (m.set a x).wf = true := by
  unfold Store.wf Store.set at *
  split_ifs with hx
  · exact Store.wfFrom_erase _ _ _ h
  · exact Store.wfFrom_insert _ _ _ _ hx (Nat.zero_le _) h

theorem Store.wf_writeBytes (bs : List Byte) {m : Store 8} (a : Nat) (h : m.wf = true) : (m.writeBytes a bs).wf = true := by
  induction bs generalizing m a with
  | nil => exact h
  | cons b bs ih => exact ih _ (Store.wf_set _ _ h)

theorem Store.wf_writeLe (n : Nat) {m : Store 8} (a x : Nat) (h : m.wf = true) : (m.writeLe a n x).wf = true := by
  induction n generalizing m a x with
  | zero => exact h
  | succ n ih => exact ih _ _ (Store.wf_set _ _ h)

theorem Store.wfFrom_filter (m : Store w) (p : Nat × BitVec w → Bool) (lo : Nat) (h : m.wfFrom lo = true) :
    Store.wfFrom (m.filter p) lo = true := by
  induction m generalizing lo with
  | nil => rfl
  | cons e m ih =>
    obtain ⟨k, v⟩ := e
    simp only [Store.wfFrom, Bool.and_eq_true, decide_eq_true_eq] at h
    rw [List.filter_cons]
    split_ifs
    · simp only [Store.wfFrom, Bool.and_eq_true, decide_eq_true_eq]
      exact ⟨h.1, ih _ h.2⟩
    · exact ih _ (Store.wfFrom_mono (by omega) h.2)

theorem Store.wfFrom_ne {m : Store w} {lo : Nat} (h : m.wfFrom lo = true) : ∀ e ∈ m, e.2 ≠ 0 := by
  induction m generalizing lo with
  | nil => simp
  | cons e m ih =>
    obtain ⟨k, v⟩ := e
    simp only [Store.wfFrom, Bool.and_eq_true, decide_eq_true_eq] at h
    intro x hx
    rcases List.mem_cons.mp hx with rfl | hx
    · exact h.1.2
    · exact ih h.2 x hx

/-- A copied range keeps the canonical form. -/
theorem Store.wf_copyRange {m : Store w} (src dst n : Nat) (h : m.wf = true) : (m.copyRange src dst n).wf = true := by
  unfold Store.copyRange
  have hs : ∀ e ∈ m.filter fun e => decide (src ≤ e.1) && decide (e.1 < src + n), e.2 ≠ 0 :=
    fun e he => Store.wfFrom_ne h e (List.mem_of_mem_filter he)
  have hd : Store.wf (m.filter fun e => !(decide (dst ≤ e.1) && decide (e.1 < dst + n))) = true :=
    Store.wfFrom_filter _ _ _ h
  revert hs hd
  generalize m.filter (fun e => decide (src ≤ e.1) && decide (e.1 < src + n)) = l
  generalize m.filter (fun e => !(decide (dst ≤ e.1) && decide (e.1 < dst + n))) = a
  intro hs hd
  induction l generalizing a with
  | nil => exact hd
  | cons e l ih =>
    exact ih _ (fun x hx => hs x (List.mem_cons_of_mem _ hx))
      (Store.wfFrom_insert _ _ _ _ (hs e List.mem_cons_self) (Nat.zero_le _) hd)

/-- Two canonical stores that hold the same at every key are the same. -/
theorem Store.get_of_lt {m : Store w} {lo a : Nat} (h : m.wfFrom lo = true) (ha : a < lo) : m.get a = 0 := by
  induction m generalizing lo with
  | nil => rfl
  | cons e m ih =>
    obtain ⟨k, v⟩ := e
    simp only [Store.wfFrom, Bool.and_eq_true, decide_eq_true_eq] at h
    have hk : k ≠ a := by omega
    simp [Store.get, hk, ih h.2 (by omega)]

theorem Store.ext_wf {m m' : Store w} (h : m.wf = true) (h' : m'.wf = true) (he : ∀ a, m.get a = m'.get a) : m = m' := by
  suffices H : ∀ (m m' : Store w) (lo lo' : Nat), m.wfFrom lo = true → m'.wfFrom lo' = true → (∀ a, m.get a = m'.get a) → m = m' from
    H m m' 0 0 h h' he
  intro m
  induction m with
  | nil =>
    intro m' lo lo' _ h' he
    cases m' with
    | nil => rfl
    | cons e m' =>
      obtain ⟨k, v⟩ := e
      simp only [Store.wfFrom, Bool.and_eq_true, decide_eq_true_eq] at h'
      exact absurd (by simpa [Store.get] using (he k).symm) h'.1.2
  | cons e m ih =>
    intro m' lo lo' h h' he
    obtain ⟨k, v⟩ := e
    simp only [Store.wfFrom, Bool.and_eq_true, decide_eq_true_eq] at h
    cases m' with
    | nil => exact absurd (by simpa [Store.get] using he k) h.1.2
    | cons e' m' =>
      obtain ⟨k', v'⟩ := e'
      simp only [Store.wfFrom, Bool.and_eq_true, decide_eq_true_eq] at h'
      have hk : k = k' := by
        rcases Nat.lt_trichotomy k k' with hlt | heq | hgt
        · have := he k
          rw [Store.get_of_lt (m := (k', v') :: m') (lo := k') (by simpa [Store.wfFrom, h'.2] using h'.1.2) hlt] at this
          exact absurd (by simpa [Store.get] using this) h.1.2
        · exact heq
        · have := he k'
          rw [Store.get_of_lt (m := (k, v) :: m) (lo := k) (by simpa [Store.wfFrom, h.2] using h.1.2) hgt] at this
          exact absurd (by simpa [Store.get] using this.symm) h'.1.2
      subst hk
      have hv : v = v' := by simpa [Store.get] using he k
      subst hv
      congr 1
      refine ih m' _ _ h.2 h'.2 fun a => ?_
      by_cases ha : k = a
      · subst ha
        rw [Store.get_of_lt h.2 (by omega), Store.get_of_lt h'.2 (by omega)]
      · simpa [Store.get, ha] using he a

end Sys2Proof
end

