-- ==== Sys2Proof/Laws/Lanes.lean ====
section
/-! SUPPORT. Lane sets read lane by lane, and the stores that are written for the lanes of a set. -/

namespace Sys2Proof.Machine

theorem mem_lanes {m : Lanes} {l : Nat} : l ∈ lanes m ↔ l < 32 ∧ m.getLsbD l = true := by
  simp [lanes]

theorem lanes_eq_nil {m : Lanes} : lanes m = [] ↔ m = 0 := by
  constructor
  · intro h
    apply BitVec.eq_of_getLsbD_eq
    intro i hi
    by_contra hc
    have : i ∈ lanes m := mem_lanes.mpr ⟨hi, by simpa using hc⟩
    simp [h] at this
  · rintro rfl
    simp [lanes]

/-- The lowest lane of a set that holds one belongs to it. -/
theorem lowest_mem {m : Lanes} (h : m ≠ 0) : lowest m < 32 ∧ m.getLsbD (lowest m) = true := by
  have hn : lanes m ≠ [] := fun e => h (lanes_eq_nil.mp e)
  have : lowest m ∈ lanes m := by
    unfold lowest
    cases hl : lanes m with
    | nil => exact absurd hl hn
    | cons x xs => simp
  exact mem_lanes.mp this

/-- The sum that laneSet forms, below a bound. -/
theorem laneSum_spec (p : Nat → Bool) (n : Nat) :
    ((List.range n).foldl (fun a l => a + (if p l then 1 <<< l else 0)) 0) < 2 ^ n ∧
    ∀ l, ((List.range n).foldl (fun a l => a + (if p l then 1 <<< l else 0)) 0).testBit l = (decide (l < n) && p l) := by
  induction n with
  | zero => simp
  | succ n ih =>
    rw [List.range_succ, List.foldl_append]
    simp only [List.foldl_cons, List.foldl_nil]
    generalize (List.range n).foldl (fun a l => a + (if p l then 1 <<< l else 0)) 0 = x at ih
    obtain ⟨hx, hb⟩ := ih
    have hn : (1 <<< n : Nat) = 2 ^ n := by simp [Nat.shiftLeft_eq]
    by_cases hp : p n
    · simp only [hp, if_true, hn]
      refine ⟨by rw [Nat.pow_succ]; omega, fun l => ?_⟩
      by_cases hl : l = n
      · subst hl
        rw [Nat.add_comm, Nat.testBit_two_pow_add_eq]
        simp [hp, Nat.testBit_lt_two_pow hx]
      · by_cases hlt : l < n
        · rw [Nat.add_comm, Nat.testBit_two_pow_add_gt hlt, hb]
          simp [hlt, show l < n + 1 by omega]
        · have : x + 2 ^ n < 2 ^ l := by
            have : 2 ^ (n + 1) ≤ 2 ^ l := Nat.pow_le_pow_right (by omega) (by omega)
            rw [Nat.pow_succ] at this
            omega
          rw [Nat.testBit_lt_two_pow this]
          simp [show ¬l < n + 1 by omega]
    · simp only [hp, Bool.false_eq_true, if_false, Nat.add_zero]
      refine ⟨by rw [Nat.pow_succ]; omega, fun l => ?_⟩
      rw [hb]
      by_cases hl : l = n
      · subst hl
        simp [hp]
      · by_cases hlt : l < n
        · simp [hlt, show l < n + 1 by omega]
        · simp [hlt, show ¬l < n + 1 by omega]

/-- A set from a test holds the lanes that pass it. -/
@[simp] theorem getLsbD_laneSet (p : Nat → Bool) (l : Nat) : (laneSet p).getLsbD l = (decide (l < 32) && p l) := by
  unfold laneSet
  rw [BitVec.getLsbD_ofNat, (laneSum_spec p 32).2]
  by_cases h : l < 32 <;> simp [h]

@[simp] theorem getLsbD_laneBit (k l : Nat) : (laneBit k).getLsbD l = (decide (l < 32) && decide (l = k)) := by
  unfold laneBit
  rw [BitVec.getLsbD_ofNat, Nat.shiftLeft_eq, Nat.one_mul, Nat.testBit_two_pow]
  by_cases h : l = k
  · subst h
    by_cases hl : l < 32 <;> simp [hl]
  · simp [h, Ne.symm h]

theorem get_foldl_set {w : Nat} (ls : List Nat) (m : Store w) (f : Nat → BitVec w) (k : Nat) :
    (ls.foldl (fun a l => a.set l (f l)) m).get k = if k ∈ ls then f k else m.get k := by
  induction ls generalizing m with
  | nil => simp
  | cons x xs ih =>
    simp only [List.foldl_cons, ih, List.mem_cons]
    by_cases hk : k ∈ xs
    · simp [hk]
    · by_cases hx : k = x
      · subst hx
        simp
      · simp [hk, hx, Store.get_set_ne _ _ (Ne.symm hx)]

/-- A store written for the lanes of a set. -/
theorem get_setLanes {w : Nat} (m : Store w) (ls : Lanes) (f : Nat → BitVec w) (k : Nat) :
    (setLanes m ls f).get k = if k < 32 ∧ ls.getLsbD k = true then f k else m.get k := by
  unfold setLanes
  rw [get_foldl_set]
  simp only [mem_lanes]

theorem wf_setLanes {w : Nat} {m : Store w} (ls : Lanes) (f : Nat → BitVec w) (h : m.wf = true) :
    (setLanes m ls f).wf = true := by
  unfold setLanes
  induction lanes ls generalizing m with
  | nil => exact h
  | cons x xs ih => exact ih (Store.wf_set _ _ h)

@[simp] theorem setLanes_zero {w : Nat} (m : Store w) (f : Nat → BitVec w) : setLanes m 0 f = m := by
  simp [setLanes, lanes]

/-! The issue address and the issue set (04 R90). -/

theorem foldl_min_le (f : Nat → Nat) (ls : List Nat) (b : Nat) :
    ls.foldl (fun a l => min a (f l)) b ≤ b ∧ ∀ l ∈ ls, ls.foldl (fun a l => min a (f l)) b ≤ f l := by
  induction ls generalizing b with
  | nil => simp
  | cons x xs ih =>
    simp only [List.foldl_cons, List.mem_cons]
    have := ih (min b (f x))
    refine ⟨by omega, ?_⟩
    rintro l (rfl | hl)
    · omega
    · exact this.2 l hl

theorem foldl_min_mem (f : Nat → Nat) (ls : List Nat) (b : Nat) :
    ls.foldl (fun a l => min a (f l)) b = b ∨ ∃ l ∈ ls, ls.foldl (fun a l => min a (f l)) b = f l := by
  induction ls generalizing b with
  | nil => simp
  | cons x xs ih =>
    simp only [List.foldl_cons, List.mem_cons]
    rcases ih (min b (f x)) with h | ⟨l, hl, h⟩
    · rcases Nat.le_total b (f x) with hb | hb
      · left; rw [h]; omega
      · right; exact ⟨x, Or.inl rfl, by rw [h]; omega⟩
    · exact Or.inr ⟨l, Or.inr hl, h⟩

/-- The issue address is the least PCV entry among the lanes that run. -/
theorem leastPc_le (pcv : Store 64) (ls : Lanes) {l : Nat} (h : l ∈ lanes ls) : (leastPc pcv ls).toNat ≤ (pcv.get l).toNat := by
  have h1 := (foldl_min_le (fun l => (pcv.get l).toNat) (lanes ls) (2 ^ 64 - 1)).2 l h
  have h2 := (pcv.get l).isLt
  unfold leastPc
  rw [BitVec.toNat_ofNat, Nat.mod_eq_of_lt (by omega)]
  exact h1

theorem leastPc_mem (pcv : Store 64) {ls : Lanes} (h : ls ≠ 0) : ∃ l ∈ lanes ls, leastPc pcv ls = pcv.get l := by
  have hn : lanes ls ≠ [] := fun e => h (lanes_eq_nil.mp e)
  obtain ⟨x, hx⟩ := List.exists_mem_of_ne_nil _ hn
  rcases foldl_min_mem (fun l => (pcv.get l).toNat) (lanes ls) (2 ^ 64 - 1) with e | ⟨l, hl, e⟩
  · refine ⟨x, hx, ?_⟩
    have h1 := (foldl_min_le (fun l => (pcv.get l).toNat) (lanes ls) (2 ^ 64 - 1)).2 x hx
    have h2 := (pcv.get x).isLt
    unfold leastPc
    rw [e]
    apply BitVec.eq_of_toNat_eq
    rw [BitVec.toNat_ofNat]
    rw [e] at h1
    omega
  · refine ⟨l, hl, ?_⟩
    unfold leastPc
    rw [e]
    simp

/-- A group with a lane that runs has an issue set. -/
theorem issueSet_ne_zero {g : Group} (h : g.active ≠ 0) : g.issueSet ≠ 0 := by
  obtain ⟨l, hl, e⟩ := leastPc_mem g.pcv h
  obtain ⟨h32, hb⟩ := mem_lanes.mp hl
  intro hz
  have : g.issueSet.getLsbD l = true := by
    unfold Group.issueSet lanesAt
    rw [getLsbD_laneSet]
    simp [h32, hb, Group.issuePc, e]
  rw [hz] at this
  simp at this

/-- The lanes of the issue set run, and stand at the issue address. -/
theorem getLsbD_issueSet (g : Group) (l : Nat) :
    g.issueSet.getLsbD l = (decide (l < 32) && (g.active.getLsbD l && g.pcv.get l == g.issuePc)) := by
  simp [Group.issueSet, lanesAt]

end Sys2Proof.Machine
end

