-- ==== Sys2Proof/Laws/Ops.lean ====
section
/-! SUPPORT. What the drivers of Machine/Ops.lean answer, said once: an issue that nothing stands in the way of acts and
completes; a range violation traps ILL, a missing right PRIV; otherwise there is no issuer. -/

namespace Sys2Proof.Machine

theorem meetSoft_nil {c : Ctx} {h : Hdr} {us : List Use} {s : State} (hs : (s.grp c.t c.g).soft = []) :
    meetSoft c h us s = s := by
  simp [meetSoft, hs]

/-- The issue of a group that can issue, the checks passed and no soft error in the group: the act is performed. -/
theorem simt_acts {h : Hdr} {size : Nat} {us : List Use} {priv : State → Ctx → Bool} {act : Ctx → State → Act} {s : State}
    {t g : Nat} (hc : s.cur = .group t g) (hi : canIssue s t g = true) (hs : (s.grp t g).soft = [])
    (hr : rangeOk (s.launchOf t) h us = true) (hp : priv s (ctxOf s t g h size) = false) :
    simt h size us priv act s =
      .next (perform (ctxOf s t g h size) h us
        (if (ctxOf s t g h size).E = 0 then .adv s else act (ctxOf s t g h size) s) s) := by
  have : meetSoft (ctxOf s t g h size) h us s = s := meetSoft_nil hs
  simp only [simt, hc, hi, hr, hp, softHit, hs, this, Bool.not_true, Bool.false_eq_true, if_false, List.find?_nil]

/-- What simt answers, whatever the state: a next state where the agent can issue, else no issuer. -/
theorem simt_cases (h : Hdr) (size : Nat) (us : List Use) (priv : State → Ctx → Bool) (act : Ctx → State → Act) (s : State) :
    (∃ s', simt h size us priv act s = .next s') ∨ simt h size us priv act s = .fault .noIssuer := by
  unfold simt
  split
  · split
    · exact Or.inr rfl
    · dsimp only
      split
      · exact Or.inl ⟨_, rfl⟩
      · split
        · exact Or.inl ⟨_, rfl⟩
        · split <;> exact Or.inl ⟨_, rfl⟩
  · split
    · exact Or.inl ⟨_, rfl⟩
    · exact Or.inr rfl
  · exact Or.inr rfl

/-- A group that can issue gets an answer. -/
theorem simt_next {h : Hdr} {size : Nat} {us : List Use} {priv : State → Ctx → Bool} {act : Ctx → State → Act} {s : State}
    {t g : Nat} (hc : s.cur = .group t g) (hi : canIssue s t g = true) : ∃ s', simt h size us priv act s = .next s' := by
  simp only [simt, hc, hi, Bool.not_true, Bool.false_eq_true, if_false]
  split
  · exact ⟨_, rfl⟩
  · split
    · exact ⟨_, rfl⟩
    · split <;> exact ⟨_, rfl⟩

/-- A register range that is not declared traps ILL with every lane of I (02 R53). -/
theorem simt_range {h : Hdr} {size : Nat} {us : List Use} {priv : State → Ctx → Bool} {act : Ctx → State → Act} {s : State}
    {t g : Nat} (hc : s.cur = .group t g) (hi : canIssue s t g = true) (hr : rangeOk (s.launchOf t) h us = false) :
    simt h size us priv act s = .next (encodingTrap (ctxOf s t g h size) 0x01 s) := by
  simp only [simt, hc, hi, hr, Bool.not_true, Bool.not_false, Bool.false_eq_true, if_false, if_true]

/-- A missing right traps PRIV with every lane of I (02 R52). -/
theorem simt_priv {h : Hdr} {size : Nat} {us : List Use} {priv : State → Ctx → Bool} {act : Ctx → State → Act} {s : State}
    {t g : Nat} (hc : s.cur = .group t g) (hi : canIssue s t g = true) (hr : rangeOk (s.launchOf t) h us = true)
    (hp : priv s (ctxOf s t g h size) = true) :
    simt h size us priv act s = .next (encodingTrap (ctxOf s t g h size) 0x03 s) := by
  simp only [simt, hc, hi, hr, hp, Bool.not_true, Bool.false_eq_true, if_false, if_true]

/-- A sequencer that can issue gets an answer. -/
theorem seqForm_next {size : Nat} {act : Nat → DWord → DWord → State → SAct} {s : State} {t : Nat}
    (hc : s.cur = .seq t) (hi : canSeq s t = true) : ∃ s', seqForm size act s = .next s' := by
  simp only [seqForm, hc, hi, Bool.not_true, Bool.false_eq_true, if_false]
  split <;> exact ⟨_, rfl⟩

theorem seqForm_group {size : Nat} {act : Nat → DWord → DWord → State → SAct} {s : State} {t g : Nat}
    (hc : s.cur = .group t g) (hi : canIssue s t g = true) :
    seqForm size act s = .next (encodingTrap (ctxOf s t g ⟨0, false, none⟩ size) 0x01 s) := by
  simp only [seqForm, hc, hi, Bool.not_true, Bool.false_eq_true, if_false]

/-! A group that can issue. -/

/-- What canIssue says. -/
theorem canIssue_spec {s : State} {t g : Nat} (h : canIssue s t g = true) :
    t < s.teams.length ∧ g < (s.team t).groups.length ∧ (s.team t).phase = .resident ∧ (s.grp t g).ended = false ∧
    (s.grp t g).stopped = none ∧ (s.grp t g).taken = none ∧ (s.grp t g).drain = none ∧ (s.grp t g).active ≠ 0 := by
  simp only [canIssue, Bool.and_eq_true, decide_eq_true_eq, Bool.not_eq_true', Option.isNone_iff_eq_none] at h
  obtain ⟨⟨⟨⟨⟨⟨⟨⟨h1, h2⟩, h3⟩, h4⟩, h5⟩, h6⟩, h7⟩, h8⟩, -⟩ := h
  refine ⟨h1, h2, by simpa using h3, h4, h5, h6, h7, by simpa [State.grp] using h8⟩

/-! What an act that advances leaves: one update of the group. -/

/-- A group after an issue: the lanes of I at the successor, YIELD sets, serial mode, the safe point. -/
def issueGroup (c : Ctx) (h : Hdr) (order : Nat) (g : Group) : Group :=
  { updateSerial (noteMoved order c.I { g with pcv := setLanes g.pcv (c.I &&& ~~~g.exited) fun _ => c.next }) with
    safeAt := h.live.map fun m => (m, c.pc, c.next), half := none, formed := false }

theorem dropSoft_nil {c : Ctx} {us : List Use} {s : State} (h : (s.grp c.t c.g).soft = []) : dropSoft c us s = s := by
  simp [dropSoft, changeSoft, h]

/-- An act that changes only its group and lets it advance. -/
theorem perform_adv_modGrp {c : Ctx} {h : Hdr} {us : List Use} {s : State} (f : Group → Group)
    (ht : c.t < s.teams.length) (hg : c.g < (s.team c.t).groups.length) (hs : (f (s.grp c.t c.g)).soft = []) :
    perform c h us (.adv (s.modGrp c.t c.g f)) s = s.modGrp c.t c.g fun g => issueGroup c h s.tick (f g) := by
  have : dropSoft c us (s.modGrp c.t c.g f) = s.modGrp c.t c.g f :=
    dropSoft_nil (by rw [State.grp_modGrp_same f ht hg]; exact hs)
  simp only [perform, this, setPcs, afterIssue, State.modGrp_modGrp, State.modGrp_tick]
  rfl

theorem perform_adv_self {c : Ctx} {h : Hdr} {us : List Use} {s : State}
    (ht : c.t < s.teams.length) (hg : c.g < (s.team c.t).groups.length) (hs : (s.grp c.t c.g).soft = []) :
    perform c h us (.adv s) s = s.modGrp c.t c.g fun g => issueGroup c h s.tick g := by
  have := perform_adv_modGrp (c := c) (h := h) (us := us) (s := s) (fun g => g) ht hg hs
  rwa [State.modGrp_id] at this

/-! The fields of a group after an issue. -/

theorem updateSerial_eq (g : Group) : updateSerial g = { g with serial := (updateSerial g).serial, gstat := (updateSerial g).gstat } := by
  unfold updateSerial
  split
  · rfl
  · split <;> rfl

theorem testBit_setFld_high (x lo n v i : Nat) (h : i < lo) : (setFld x lo n v).testBit i = x.testBit i := by
  unfold setFld fld
  have e : ((x >>> lo) % 2 ^ n) <<< lo ≤ x := by
    rw [Nat.shiftLeft_eq, Nat.shiftRight_eq_div_pow]
    calc (x / 2 ^ lo % 2 ^ n) * 2 ^ lo ≤ x / 2 ^ lo * 2 ^ lo := Nat.mul_le_mul_right _ (Nat.mod_le _ _)
      _ ≤ x := Nat.div_mul_le_self _ _
  generalize hr : (x >>> lo) % 2 ^ n = r at *
  rw [Nat.testBit_eq_decide_div_mod_eq, Nat.testBit_eq_decide_div_mod_eq]
  rw [Nat.shiftLeft_eq] at e ⊢
  rw [Nat.shiftLeft_eq]
  have hp : 2 ^ lo = 2 ^ i * (2 * 2 ^ (lo - i - 1)) := by
    rw [← Nat.mul_assoc, ← Nat.pow_succ, ← Nat.pow_add]
    congr 1
    omega
  generalize 2 ^ (lo - i - 1) = q at hp
  have e1 : x - r * 2 ^ lo + v % 2 ^ n * 2 ^ lo = x - 2 ^ i * (2 * q * r) + 2 ^ i * (2 * q * (v % 2 ^ n)) := by
    rw [hp]; ring_nf
  have e2 : 2 ^ i * (2 * q * r) ≤ x := by
    calc 2 ^ i * (2 * q * r) = r * 2 ^ lo := by rw [hp]; ring
      _ ≤ x := e
  have hd : (x - r * 2 ^ lo + v % 2 ^ n * 2 ^ lo) / 2 ^ i = x / 2 ^ i - 2 * q * r + 2 * q * (v % 2 ^ n) := by
    rw [e1, Nat.add_mul_div_left _ _ (Nat.two_pow_pos i), Nat.sub_mul_div_of_le _ _ _ e2]
  have hle : 2 * q * r ≤ x / 2 ^ i := (Nat.le_div_iff_mul_le (Nat.two_pow_pos i)).mpr (by rw [Nat.mul_comm]; exact e2)
  have a1 : 2 * q * r = 2 * (q * r) := by ring
  have a2 : 2 * q * (v % 2 ^ n) = 2 * (q * (v % 2 ^ n)) := by ring
  rw [a1] at hle
  have hm : (x / 2 ^ i - 2 * q * r + 2 * q * (v % 2 ^ n)) % 2 = x / 2 ^ i % 2 := by
    rw [a1, a2]
    omega
  rw [hd, hm]

/-- The low half of GSTAT is not what serial mode counts in. -/
theorem updateSerial_gstat_low (g : Group) (i : Nat) (h : i < 16) : (updateSerial g).gstat.getLsbD i = g.gstat.getLsbD i := by
  unfold updateSerial
  split
  · simp only [countSerial, BitVec.getLsbD_ofNat]
    rw [testBit_setFld_high _ _ _ _ _ h]
    simp [show i < 32 by omega, BitVec.testBit_toNat]
  · split <;> rfl

end Sys2Proof.Machine
end

