-- ==== Sys2Proof/Laws/PerInstr.lean ====
section
/-! SUPPORT. The family Length: an instruction word takes 8, 12 or 16 bytes, or 8 more with its live-mask word; a step of
the part takes none (02 R30, R32). -/

namespace Sys2Proof.Laws

/-- The size of an instruction. -/
def Length.Statement (i : Instr) : Prop := i.size = 0 ∨ (8 ≤ i.size ∧ i.size ≤ 24 ∧ i.size % 4 = 0)

/-- The bytes of an extension are 0, 4 or 8. -/
theorem extBytes_cases (l : BitVec 2) : extBytes l = 0 ∨ extBytes l = 4 ∨ extBytes l = 8 := by
  unfold extBytes
  split
  · exact Or.inr (Or.inl rfl)
  · split
    · exact Or.inr (Or.inr rfl)
    · exact Or.inl rfl

theorem length_all (i : Instr) : Length.Statement i := by
  unfold Length.Statement Instr.size
  split
  · decide
  · split
    · rename_i f _
      rcases extBytes_cases f.len with h | h | h <;> rw [h] <;> split <;> decide
    · exact Or.inl rfl

theorem Length.nop (h : Hdr) (ext : NopExt) : Length.Statement (Instr.nop h ext) := length_all _
theorem Length.bra (h : Hdr) (off : Word) : Length.Statement (Instr.bra h off) := length_all _
theorem Length.bru (h : Hdr) (off : Word) : Length.Statement (Instr.bru h off) := length_all _
theorem Length.jmpi (h : Hdr) (a : Reg) : Length.Statement (Instr.jmpi h a) := length_all _
theorem Length.call (h : Hdr) (d : BitVec 8) (off : Word) : Length.Statement (Instr.call h d off) := length_all _
theorem Length.callI (h : Hdr) (d : BitVec 8) (a : Reg) : Length.Statement (Instr.callI h d a) := length_all _
theorem Length.ret (h : Hdr) (a : Reg) : Length.Statement (Instr.ret h a) := length_all _
theorem Length.exit (h : Hdr) : Length.Statement (Instr.exit h) := length_all _
theorem Length.yield (h : Hdr) : Length.Statement (Instr.yield h) := length_all _
theorem Length.yieldUnpark (t g k : Nat) : Length.Statement (Instr.yieldUnpark t g k) := length_all _
theorem Length.trap (h : Hdr) (info : Option Word) : Length.Statement (Instr.trap h info) := length_all _
theorem Length.rft (h : Hdr) : Length.Statement (Instr.rft h) := length_all _
theorem Length.sysrd (h : Hdr) (d : Reg) (id : BitVec 12) : Length.Statement (Instr.sysrd h d id) := length_all _
theorem Length.syswr (h : Hdr) (id : BitVec 12) (a : Reg) : Length.Statement (Instr.syswr h id a) := length_all _
theorem Length.seqCtlResume (h : Hdr) (a : Reg) : Length.Statement (Instr.seqCtlResume h a) := length_all _
theorem Length.plop (h : Hdr) (tbl : Byte) (d a b c : BitVec 3) : Length.Statement (Instr.plop h tbl d a b c) := length_all _
theorem Length.unassignedOpcode (w : DWord) : Length.Statement (Instr.unassignedOpcode w) := length_all _
theorem Length.iadd (h : Hdr) (ty : Ty) (sat : Bool) (d a : Reg) (b : Opd) : Length.Statement (Instr.iadd h ty sat d a b) := length_all _
theorem Length.iaddCc (h : Hdr) (ty : Ty) (d a : Reg) (b : Opd) (pc : BitVec 3) : Length.Statement (Instr.iaddCc h ty d a b pc) := length_all _
theorem Length.isub (h : Hdr) (ty : Ty) (sat : Bool) (d a : Reg) (b : Opd) : Length.Statement (Instr.isub h ty sat d a b) := length_all _
theorem Length.isubCc (h : Hdr) (ty : Ty) (d a : Reg) (b : Opd) (pc : BitVec 3) : Length.Statement (Instr.isubCc h ty d a b pc) := length_all _
theorem Length.imulLo (h : Hdr) (ty : Ty) (sat : Bool) (d a : Reg) (b : Opd) : Length.Statement (Instr.imulLo h ty sat d a b) := length_all _
theorem Length.imulHi (h : Hdr) (ty : Ty) (d a : Reg) (b : Opd) : Length.Statement (Instr.imulHi h ty d a b) := length_all _
theorem Length.imulWide (h : Hdr) (ty : Ty) (d a : Reg) (b : Opd) : Length.Statement (Instr.imulWide h ty d a b) := length_all _
theorem Length.imadLo (h : Hdr) (ty : Ty) (sat : Bool) (d a : Reg) (b : Opd) (c : Reg) : Length.Statement (Instr.imadLo h ty sat d a b c) := length_all _
theorem Length.imadHi (h : Hdr) (ty : Ty) (d a : Reg) (b : Opd) (c : Reg) : Length.Statement (Instr.imadHi h ty d a b c) := length_all _
theorem Length.imadWide (h : Hdr) (ty : Ty) (d a : Reg) (b : Opd) (c : Reg) : Length.Statement (Instr.imadWide h ty d a b c) := length_all _
theorem Length.shfL (h : Hdr) (ty : Ty) (d a : Reg) (b : Opd) : Length.Statement (Instr.shfL h ty d a b) := length_all _
theorem Length.shfR (h : Hdr) (ty : Ty) (d a : Reg) (b : Opd) : Length.Statement (Instr.shfR h ty d a b) := length_all _
theorem Length.shfRa (h : Hdr) (ty : Ty) (d a : Reg) (b : Opd) : Length.Statement (Instr.shfRa h ty d a b) := length_all _
theorem Length.shfRol (h : Hdr) (ty : Ty) (d a : Reg) (b : Opd) : Length.Statement (Instr.shfRol h ty d a b) := length_all _
theorem Length.shfLf (h : Hdr) (d a : Reg) (b : Opd) (c : Reg) : Length.Statement (Instr.shfLf h d a b c) := length_all _
theorem Length.shfRf (h : Hdr) (d a : Reg) (b : Opd) (c : Reg) : Length.Statement (Instr.shfRf h d a b c) := length_all _
theorem Length.ltab (h : Hdr) (ty : Ty) (tbl : Byte) (d a : Reg) (b : Opd) (c : Reg) : Length.Statement (Instr.ltab h ty tbl d a b c) := length_all _
theorem Length.icmp (h : Hdr) (ty : Ty) (cond : ICond) (pd : BitVec 3) (a : Reg) (b : Opd) : Length.Statement (Instr.icmp h ty cond pd a b) := length_all _
theorem Length.imnmxMin (h : Hdr) (ty : Ty) (d a : Reg) (b : Opd) : Length.Statement (Instr.imnmxMin h ty d a b) := length_all _
theorem Length.imnmxMax (h : Hdr) (ty : Ty) (d a : Reg) (b : Opd) : Length.Statement (Instr.imnmxMax h ty d a b) := length_all _
theorem Length.bfe (h : Hdr) (ty : Ty) (d a : Reg) (b : Opd) : Length.Statement (Instr.bfe h ty d a b) := length_all _
theorem Length.bfi (h : Hdr) (ty : Ty) (d a : Reg) (b : Opd) (c : Reg) : Length.Statement (Instr.bfi h ty d a b c) := length_all _
theorem Length.bitsPopc (h : Hdr) (ty : Ty) (d a : Reg) : Length.Statement (Instr.bitsPopc h ty d a) := length_all _
theorem Length.bitsClz (h : Hdr) (ty : Ty) (d a : Reg) : Length.Statement (Instr.bitsClz h ty d a) := length_all _
theorem Length.bitsCtz (h : Hdr) (ty : Ty) (d a : Reg) : Length.Statement (Instr.bitsCtz h ty d a) := length_all _
theorem Length.bitsBrev (h : Hdr) (ty : Ty) (d a : Reg) : Length.Statement (Instr.bitsBrev h ty d a) := length_all _
theorem Length.sel (h : Hdr) (ty : Ty) (d a : Reg) (b : Opd) (pc : BitVec 3) : Length.Statement (Instr.sel h ty d a b pc) := length_all _
theorem Length.mov (h : Hdr) (ty : Ty) (d b : Reg) : Length.Statement (Instr.mov h ty d b) := length_all _
theorem Length.movPush (h : Hdr) (ty : Ty) (q : BitVec 4) (b : Reg) : Length.Statement (Instr.movPush h ty q b) := length_all _
theorem Length.movPop (h : Hdr) (ty : Ty) (d : Reg) (q : BitVec 4) : Length.Statement (Instr.movPop h ty d q) := length_all _
theorem Length.queueEntryEnter (t g k : Nat) : Length.Statement (Instr.queueEntryEnter t g k) := length_all _
theorem Length.queuePopComplete (t g k : Nat) : Length.Statement (Instr.queuePopComplete t g k) := length_all _
theorem Length.movP2v (h : Hdr) (d : BitVec 8) : Length.Statement (Instr.movP2v h d) := length_all _
theorem Length.movV2p (h : Hdr) (b : Reg) : Length.Statement (Instr.movV2p h b) := length_all _
theorem Length.moviVector (h : Hdr) (d : BitVec 8) (imm : Word) : Length.Statement (Instr.moviVector h d imm) := length_all _
theorem Length.moviVectorPair (h : Hdr) (d : BitVec 8) (imm : DWord) : Length.Statement (Instr.moviVectorPair h d imm) := length_all _
theorem Length.moviUniform (h : Hdr) (d : BitVec 6) (imm : Word) : Length.Statement (Instr.moviUniform h d imm) := length_all _
theorem Length.moviUniformPair (h : Hdr) (d : BitVec 6) (imm : DWord) : Length.Statement (Instr.moviUniformPair h d imm) := length_all _
theorem Length.lea (h : Hdr) (ty : Ty) (sh : BitVec 3) (d a : Reg) (b : Opd) : Length.Statement (Instr.lea h ty sh d a b) := length_all _
theorem Length.dp4 (h : Hdr) (sa sb sat : Bool) (d a : Reg) (b : Opd) (c : Reg) : Length.Statement (Instr.dp4 h sa sb sat d a b c) := length_all _
theorem Length.fadd (h : Hdr) (rnd : Rnd) (ftz : Bool) (d a : Reg) (b : Opd) : Length.Statement (Instr.fadd h rnd ftz d a b) := length_all _
theorem Length.fmul (h : Hdr) (rnd : Rnd) (ftz : Bool) (d a : Reg) (b : Opd) : Length.Statement (Instr.fmul h rnd ftz d a b) := length_all _
theorem Length.ffma (h : Hdr) (rnd : Rnd) (ftz : Bool) (d a : Reg) (b : Opd) (c : Reg) : Length.Statement (Instr.ffma h rnd ftz d a b c) := length_all _
theorem Length.fmnmxMin (h : Hdr) (ftz : Bool) (d a : Reg) (b : Opd) : Length.Statement (Instr.fmnmxMin h ftz d a b) := length_all _
theorem Length.fmnmxMax (h : Hdr) (ftz : Bool) (d a : Reg) (b : Opd) : Length.Statement (Instr.fmnmxMax h ftz d a b) := length_all _
theorem Length.fcmp (h : Hdr) (cond : FCond) (ftz : Bool) (pd : BitVec 3) (a : Reg) (b : Opd) : Length.Statement (Instr.fcmp h cond ftz pd a b) := length_all _
theorem Length.ffnRcp (h : Hdr) (rnd : Rnd) (ftz : Bool) (d a : Reg) : Length.Statement (Instr.ffnRcp h rnd ftz d a) := length_all _
theorem Length.ffnSqrt (h : Hdr) (rnd : Rnd) (ftz : Bool) (d a : Reg) : Length.Statement (Instr.ffnSqrt h rnd ftz d a) := length_all _
theorem Length.ffnRsqrt (h : Hdr) (rnd : Rnd) (ftz : Bool) (d a : Reg) : Length.Statement (Instr.ffnRsqrt h rnd ftz d a) := length_all _
theorem Length.ffnExp2 (h : Hdr) (rnd : Rnd) (ftz : Bool) (d a : Reg) : Length.Statement (Instr.ffnExp2 h rnd ftz d a) := length_all _
theorem Length.ffnLog2 (h : Hdr) (rnd : Rnd) (ftz : Bool) (d a : Reg) : Length.Statement (Instr.ffnLog2 h rnd ftz d a) := length_all _
theorem Length.ffnSinpi (h : Hdr) (rnd : Rnd) (ftz : Bool) (d a : Reg) : Length.Statement (Instr.ffnSinpi h rnd ftz d a) := length_all _
theorem Length.ffnCospi (h : Hdr) (rnd : Rnd) (ftz : Bool) (d a : Reg) : Length.Statement (Instr.ffnCospi h rnd ftz d a) := length_all _
theorem Length.cvt (h : Hdr) (dty sty : Ty) (nosat : Bool) (rnd : Rnd) (ftz : Bool) (d a : Reg) : Length.Statement (Instr.cvt h dty sty nosat rnd ftz d a) := length_all _
theorem Length.fma2 (h : Hdr) (rnd : Rnd) (ftz : Bool) (d a : Reg) (b : Opd) (c : Reg) : Length.Statement (Instr.fma2 h rnd ftz d a b c) := length_all _
theorem Length.frnd (h : Hdr) (rnd : Rnd) (ftz : Bool) (d a : Reg) : Length.Statement (Instr.frnd h rnd ftz d a) := length_all _
theorem Length.xaccF32 (h : Hdr) (d a : Reg) (b : Opd) : Length.Statement (Instr.xaccF32 h d a b) := length_all _
theorem Length.xaccX128 (h : Hdr) (d a b : Reg) : Length.Statement (Instr.xaccX128 h d a b) := length_all _
theorem Length.xrnd (h : Hdr) (rnd : Rnd) (d a : Reg) : Length.Statement (Instr.xrnd h rnd d a) := length_all _
theorem Length.shflIdx (h : Hdr) (ty : Ty) (d a : BitVec 8) (b : Opd) (pv : BitVec 3) : Length.Statement (Instr.shflIdx h ty d a b pv) := length_all _
theorem Length.shflUp (h : Hdr) (ty : Ty) (d a : BitVec 8) (b : Opd) (pv : BitVec 3) : Length.Statement (Instr.shflUp h ty d a b pv) := length_all _
theorem Length.shflDown (h : Hdr) (ty : Ty) (d a : BitVec 8) (b : Opd) (pv : BitVec 3) : Length.Statement (Instr.shflDown h ty d a b pv) := length_all _
theorem Length.shflXor (h : Hdr) (ty : Ty) (d a : BitVec 8) (b : Opd) (pv : BitVec 3) : Length.Statement (Instr.shflXor h ty d a b pv) := length_all _
theorem Length.ballot (h : Hdr) (d a : Reg) (b : Opd) : Length.Statement (Instr.ballot h d a b) := length_all _
theorem Length.voteAll (h : Hdr) (pd pa : BitVec 3) : Length.Statement (Instr.voteAll h pd pa) := length_all _
theorem Length.voteAny (h : Hdr) (pd pa : BitVec 3) : Length.Statement (Instr.voteAny h pd pa) := length_all _
theorem Length.voteUni (h : Hdr) (pd pa : BitVec 3) : Length.Statement (Instr.voteUni h pd pa) := length_all _
theorem Length.lredAdd (h : Hdr) (ty : Ty) (d a : Reg) : Length.Statement (Instr.lredAdd h ty d a) := length_all _
theorem Length.lredMin (h : Hdr) (ty : Ty) (d a : Reg) : Length.Statement (Instr.lredMin h ty d a) := length_all _
theorem Length.lredMax (h : Hdr) (ty : Ty) (d a : Reg) : Length.Statement (Instr.lredMax h ty d a) := length_all _
theorem Length.lredAnd (h : Hdr) (ty : Ty) (d a : Reg) : Length.Statement (Instr.lredAnd h ty d a) := length_all _
theorem Length.lredOr (h : Hdr) (ty : Ty) (d a : Reg) : Length.Statement (Instr.lredOr h ty d a) := length_all _
theorem Length.lredXor (h : Hdr) (ty : Ty) (d a : Reg) : Length.Statement (Instr.lredXor h ty d a) := length_all _
theorem Length.rngC (h : Hdr) (d : BitVec 8) : Length.Statement (Instr.rngC h d) := length_all _
theorem Length.rngCx (h : Hdr) (d a : BitVec 8) : Length.Statement (Instr.rngCx h d a) := length_all _
theorem Length.rngSStep (h : Hdr) (d : BitVec 8) : Length.Statement (Instr.rngSStep h d) := length_all _
theorem Length.rngSReseed (h : Hdr) (d : BitVec 8) (seed : Word) : Length.Statement (Instr.rngSReseed h d seed) := length_all _
theorem Length.bsel (h : Hdr) (d a : Reg) (b : Opd) (c : Reg) : Length.Statement (Instr.bsel h d a b c) := length_all _
theorem Length.ld (h : Hdr) (ty : Ty) (ord : Order) (sc : Scope) (hint : Hint) (d : Reg) (ad : Addr) : Length.Statement (Instr.ld h ty ord sc hint d ad) := length_all _
theorem Length.st (h : Hdr) (ty : Ty) (ord : Order) (sc : Scope) (hint : Hint) (ad : Addr) (c : Reg) : Length.Statement (Instr.st h ty ord sc hint ad c) := length_all _
theorem Length.lds (h : Hdr) (ty : Ty) (win : Window) (d : Reg) (ad : Addr) : Length.Statement (Instr.lds h ty win d ad) := length_all _
theorem Length.sts (h : Hdr) (ty : Ty) (win : Window) (ad : Addr) (d : Reg) : Length.Statement (Instr.sts h ty win ad d) := length_all _
theorem Length.atomAdd (h : Hdr) (ty : Ty) (ord : Order) (sc : Scope) (d : Reg) (ad : Addr) (b : Reg) : Length.Statement (Instr.atomAdd h ty ord sc d ad b) := length_all _
theorem Length.atomMin (h : Hdr) (ty : Ty) (ord : Order) (sc : Scope) (d : Reg) (ad : Addr) (b : Reg) : Length.Statement (Instr.atomMin h ty ord sc d ad b) := length_all _
theorem Length.atomMax (h : Hdr) (ty : Ty) (ord : Order) (sc : Scope) (d : Reg) (ad : Addr) (b : Reg) : Length.Statement (Instr.atomMax h ty ord sc d ad b) := length_all _
theorem Length.atomAnd (h : Hdr) (ty : Ty) (ord : Order) (sc : Scope) (d : Reg) (ad : Addr) (b : Reg) : Length.Statement (Instr.atomAnd h ty ord sc d ad b) := length_all _
theorem Length.atomOr (h : Hdr) (ty : Ty) (ord : Order) (sc : Scope) (d : Reg) (ad : Addr) (b : Reg) : Length.Statement (Instr.atomOr h ty ord sc d ad b) := length_all _
theorem Length.atomXor (h : Hdr) (ty : Ty) (ord : Order) (sc : Scope) (d : Reg) (ad : Addr) (b : Reg) : Length.Statement (Instr.atomXor h ty ord sc d ad b) := length_all _
theorem Length.atomExch (h : Hdr) (ty : Ty) (ord : Order) (sc : Scope) (d : Reg) (ad : Addr) (b : Reg) : Length.Statement (Instr.atomExch h ty ord sc d ad b) := length_all _
theorem Length.atomCas (h : Hdr) (ty : Ty) (ord : Order) (sc : Scope) (d : Reg) (ad : Addr) (b : Reg) : Length.Statement (Instr.atomCas h ty ord sc d ad b) := length_all _
theorem Length.atomsAdd (h : Hdr) (ty : Ty) (d : Reg) (ad : Addr) (b : Reg) : Length.Statement (Instr.atomsAdd h ty d ad b) := length_all _
theorem Length.atomsMin (h : Hdr) (ty : Ty) (d : Reg) (ad : Addr) (b : Reg) : Length.Statement (Instr.atomsMin h ty d ad b) := length_all _
theorem Length.atomsMax (h : Hdr) (ty : Ty) (d : Reg) (ad : Addr) (b : Reg) : Length.Statement (Instr.atomsMax h ty d ad b) := length_all _
theorem Length.atomsAnd (h : Hdr) (ty : Ty) (d : Reg) (ad : Addr) (b : Reg) : Length.Statement (Instr.atomsAnd h ty d ad b) := length_all _
theorem Length.atomsOr (h : Hdr) (ty : Ty) (d : Reg) (ad : Addr) (b : Reg) : Length.Statement (Instr.atomsOr h ty d ad b) := length_all _
theorem Length.atomsXor (h : Hdr) (ty : Ty) (d : Reg) (ad : Addr) (b : Reg) : Length.Statement (Instr.atomsXor h ty d ad b) := length_all _
theorem Length.atomsExch (h : Hdr) (ty : Ty) (d : Reg) (ad : Addr) (b : Reg) : Length.Statement (Instr.atomsExch h ty d ad b) := length_all _
theorem Length.atomsCas (h : Hdr) (ty : Ty) (d : Reg) (ad : Addr) (b : Reg) : Length.Statement (Instr.atomsCas h ty d ad b) := length_all _
theorem Length.fence (h : Hdr) (ord : Order) (sc : Scope) : Length.Statement (Instr.fence h ord sc) := length_all _
theorem Length.publish (h : Hdr) (sc : Scope) (d a : BitVec 6) (disp : Option Word) : Length.Statement (Instr.publish h sc d a disp) := length_all _
theorem Length.drainSp (h : Hdr) : Length.Statement (Instr.drainSp h) := length_all _
theorem Length.drainFifo (h : Hdr) : Length.Statement (Instr.drainFifo h) := length_all _
theorem Length.drainGlb (h : Hdr) : Length.Statement (Instr.drainGlb h) := length_all _
theorem Length.drainComplete (t g : Nat) : Length.Statement (Instr.drainComplete t g) := length_all _
theorem Length.cctlInv (h : Hdr) (ad : Addr) : Length.Statement (Instr.cctlInv h ad) := length_all _
theorem Length.cctlPfl1 (h : Hdr) (ad : Addr) : Length.Statement (Instr.cctlPfl1 h ad) := length_all _
theorem Length.cctlPfl2 (h : Hdr) (ad : Addr) : Length.Statement (Instr.cctlPfl2 h ad) := length_all _
theorem Length.nmcGather (h : Hdr) (sc : Scope) (k : BitVec 4) (a : BitVec 6) : Length.Statement (Instr.nmcGather h sc k a) := length_all _
theorem Length.nmcCopy (h : Hdr) (sc : Scope) (k : BitVec 4) (a : BitVec 6) : Length.Statement (Instr.nmcCopy h sc k a) := length_all _
theorem Length.nmcCvt (h : Hdr) (sc : Scope) (k : BitVec 4) (a : BitVec 6) : Length.Statement (Instr.nmcCvt h sc k a) := length_all _
theorem Length.nmcRed (h : Hdr) (sc : Scope) (k : BitVec 4) (a : BitVec 6) : Length.Statement (Instr.nmcRed h sc k a) := length_all _
theorem Length.ldcB32 (h : Hdr) (d : Reg) (off : Opd) : Length.Statement (Instr.ldcB32 h d off) := length_all _
theorem Length.ldcB64 (h : Hdr) (d : Reg) (off : Opd) : Length.Statement (Instr.ldcB64 h d off) := length_all _
theorem Length.barSync (h : Hdr) (b : ImmU) : Length.Statement (Instr.barSync h b) := length_all _
theorem Length.barArrive (h : Hdr) (b : ImmU) : Length.Statement (Instr.barArrive h b) := length_all _
theorem Length.barWait (h : Hdr) (b : ImmU) : Length.Statement (Instr.barWait h b) := length_all _
theorem Length.bexp (h : Hdr) (b : BexpOpd) : Length.Statement (Instr.bexp h b) := length_all _
theorem Length.cbar (h : Hdr) (sc : Scope) (id : ImmU) : Length.Statement (Instr.cbar h sc id) := length_all _
theorem Length.cbarComplete (p : Nat) (id : BitVec 16) : Length.Statement (Instr.cbarComplete p id) := length_all _
theorem Length.cbarDeadlineExpiry (p : Nat) (id : BitVec 16) (rank : Word) : Length.Statement (Instr.cbarDeadlineExpiry p id rank) := length_all _
theorem Length.qbindSq (h : Hdr) (q : BitVec 4) (off : ImmU) : Length.Statement (Instr.qbindSq h q off) := length_all _
theorem Length.qbindPort (h : Hdr) (q : BitVec 4) (port : Byte) : Length.Statement (Instr.qbindPort h q port) := length_all _
theorem Length.qtryPush (h : Hdr) (pd : BitVec 3) (q : BitVec 4) (b : Reg) : Length.Statement (Instr.qtryPush h pd q b) := length_all _
theorem Length.qtryPop (h : Hdr) (d : Reg) (q : BitVec 4) (pc : BitVec 3) : Length.Statement (Instr.qtryPop h d q pc) := length_all _
theorem Length.queueOverflowStart (t q : Nat) : Length.Statement (Instr.queueOverflowStart t q) := length_all _
theorem Length.waitk (h : Hdr) (k : BitVec 4) : Length.Statement (Instr.waitk h k) := length_all _
theorem Length.waitkMask (h : Hdr) (m : BitVec 16) : Length.Statement (Instr.waitkMask h m) := length_all _
theorem Length.acq (h : Hdr) (tile : BitVec 3) : Length.Statement (Instr.acq h tile) := length_all _
theorem Length.rel (h : Hdr) (tile : BitVec 3) : Length.Statement (Instr.rel h tile) := length_all _
theorem Length.tsld (h : Hdr) (slot : BitVec 5) (a : BitVec 6) (disp : Option Word) : Length.Statement (Instr.tsld h slot a disp) := length_all _
theorem Length.tsev (h : Hdr) (slot : BitVec 5) (ad : Option (BitVec 6 × Option Word)) : Length.Statement (Instr.tsev h slot ad) := length_all _
theorem Length.qalwAdd (h : Hdr) (q : BitVec 4) (n : ImmU) : Length.Statement (Instr.qalwAdd h q n) := length_all _
theorem Length.qalwSet (h : Hdr) (q : BitVec 4) (n : ImmU) : Length.Statement (Instr.qalwSet h q n) := length_all _
theorem Length.cpy (h : Hdr) (sc : Scope) (k : BitVec 4) (a b : BitVec 5) (org : BitVec 6) (e : EngExt) : Length.Statement (Instr.cpy h sc k a b org e) := length_all _
theorem Length.cpyAdd (h : Hdr) (sc : Scope) (k : BitVec 4) (a b : BitVec 5) (org : BitVec 6) (e : EngExt) : Length.Statement (Instr.cpyAdd h sc k a b org e) := length_all _
theorem Length.cpyMin (h : Hdr) (sc : Scope) (k : BitVec 4) (a b : BitVec 5) (org : BitVec 6) (e : EngExt) : Length.Statement (Instr.cpyMin h sc k a b org e) := length_all _
theorem Length.cpyMax (h : Hdr) (sc : Scope) (k : BitVec 4) (a b : BitVec 5) (org : BitVec 6) (e : EngExt) : Length.Statement (Instr.cpyMax h sc k a b org e) := length_all _
theorem Length.cpyAnd (h : Hdr) (sc : Scope) (k : BitVec 4) (a b : BitVec 5) (org : BitVec 6) (e : EngExt) : Length.Statement (Instr.cpyAnd h sc k a b org e) := length_all _
theorem Length.cpyOr (h : Hdr) (sc : Scope) (k : BitVec 4) (a b : BitVec 5) (org : BitVec 6) (e : EngExt) : Length.Statement (Instr.cpyOr h sc k a b org e) := length_all _
theorem Length.gscG (h : Hdr) (sc : Scope) (k : BitVec 4) (a b : BitVec 5) (e : EngExt) : Length.Statement (Instr.gscG h sc k a b e) := length_all _
theorem Length.gscS (h : Hdr) (sc : Scope) (k : BitVec 4) (a b : BitVec 5) (e : EngExt) : Length.Statement (Instr.gscS h sc k a b e) := length_all _
theorem Length.gscSadd (h : Hdr) (sc : Scope) (k : BitVec 4) (a b : BitVec 5) (e : EngExt) : Length.Statement (Instr.gscSadd h sc k a b e) := length_all _
theorem Length.feedFa (h : Hdr) (k : BitVec 4) (a : BitVec 5) (org : BitVec 6) (e : EngExt) : Length.Statement (Instr.feedFa h k a org e) := length_all _
theorem Length.feedFb (h : Hdr) (k : BitVec 4) (a : BitVec 5) (org : BitVec 6) (e : EngExt) : Length.Statement (Instr.feedFb h k a org e) := length_all _
theorem Length.feedSc (h : Hdr) (k : BitVec 4) (a : BitVec 5) (org : BitVec 6) (e : EngExt) : Length.Statement (Instr.feedSc h k a org e) := length_all _
theorem Length.fifoTileEnter (cmd : Nat) : Length.Statement (Instr.fifoTileEnter cmd) := length_all _
theorem Length.scaleSlotFill (cmd : Nat) : Length.Statement (Instr.scaleSlotFill cmd) := length_all _
theorem Length.collStart (h : Hdr) (k : BitVec 4) (a : BitVec 6) : Length.Statement (Instr.collStart h k a) := length_all _
theorem Length.collResume (h : Hdr) (k : BitVec 4) (a : BitVec 6) : Length.Statement (Instr.collResume h k a) := length_all _
theorem Length.collChunkFinal (cmd : Nat) (chunk : Nat) (contrib : List (List Byte)) : Length.Statement (Instr.collChunkFinal cmd chunk contrib) := length_all _
theorem Length.collMemberFailure (p : Nat) (id : BitVec 16) (others : List (List Word)) (agreed : Bool) : Length.Statement (Instr.collMemberFailure p id others agreed) := length_all _
theorem Length.enc (h : Hdr) (sc : Scope) (k : BitVec 4) (a b : BitVec 5) (org : BitVec 6) (e : EngExt) : Length.Statement (Instr.enc h sc k a b org e) := length_all _
theorem Length.decF32 (h : Hdr) (sc : Scope) (k : BitVec 4) (a b : BitVec 5) (org : BitVec 6) (e : EngExt) : Length.Statement (Instr.decF32 h sc k a b org e) := length_all _
theorem Length.decBf16 (h : Hdr) (sc : Scope) (k : BitVec 4) (a b : BitVec 5) (org : BitVec 6) (e : EngExt) : Length.Statement (Instr.decBf16 h sc k a b org e) := length_all _
theorem Length.engineChunkPerformed (cmd chunk : Nat) : Length.Statement (Instr.engineChunkPerformed cmd chunk) := length_all _
theorem Length.engineFaultResume (cmd : Nat) (serviced : Bool) : Length.Statement (Instr.engineFaultResume cmd serviced) := length_all _
theorem Length.engineCommandComplete (cmd : Nat) : Length.Statement (Instr.engineCommandComplete cmd) := length_all _
theorem Length.portEntryDeliver (t port : Nat) : Length.Statement (Instr.portEntryDeliver t port) := length_all _
theorem Length.mms (x : Bool) (d : BitVec 3) (a b : BitVec 5) (e : MmsExt) : Length.Statement (Instr.mms x d a b e) := length_all _
theorem Length.mmsPair (x : Bool) (d : BitVec 3) (a b : BitVec 5) (e : MmsExt) : Length.Statement (Instr.mmsPair x d a b e) := length_all _
theorem Length.mmsCommit (t : Nat) : Length.Statement (Instr.mmsCommit t) := length_all _
theorem Length.aclrF32Zero (d : BitVec 3) : Length.Statement (Instr.aclrF32Zero d) := length_all _
theorem Length.aclrF32Broadcast (d : BitVec 3) (v : Word) : Length.Statement (Instr.aclrF32Broadcast d v) := length_all _
theorem Length.aclrX128Zero (d : BitVec 3) : Length.Statement (Instr.aclrX128Zero d) := length_all _
theorem Length.aclrX128Broadcast (d : BitVec 3) (v : Word) : Length.Statement (Instr.aclrX128Broadcast d v) := length_all _
theorem Length.sqif (cond : SqCond) (v off : Word) : Length.Statement (Instr.sqif cond v off) := length_all _
theorem Length.sqwhWhile (cond : SqCond) (v off : Word) : Length.Statement (Instr.sqwhWhile cond v off) := length_all _
theorem Length.sqwhEndw (off : Word) : Length.Statement (Instr.sqwhEndw off) := length_all _
theorem Length.sqcwSet (v : Word) : Length.Statement (Instr.sqcwSet v) := length_all _
theorem Length.sqcwSetSp (off : Word) : Length.Statement (Instr.sqcwSetSp off) := length_all _
theorem Length.sqcwAdd (v : Word) : Length.Statement (Instr.sqcwAdd v) := length_all _
theorem Length.sqcwCmp (v : Word) : Length.Statement (Instr.sqcwCmp v) := length_all _
theorem Length.sqcwEnd : Length.Statement (Instr.sqcwEnd) := length_all _
theorem Length.vprojF (first last : Bool) (d : BitVec 3) (a b : BitVec 5) (e : VprojExt) : Length.Statement (Instr.vprojF first last d a b e) := length_all _
theorem Length.vprojB (first last : Bool) (d : BitVec 3) (a b : BitVec 5) (e : VprojExt) : Length.Statement (Instr.vprojB first last d a b e) := length_all _
theorem Length.forwardSelectionStage (t : Nat) : Length.Statement (Instr.forwardSelectionStage t) := length_all _
theorem Length.backwardGradientStage (t : Nat) : Length.Statement (Instr.backwardGradientStage t) := length_all _
theorem Length.vmrgRow (cnt : Byte) : Length.Statement (Instr.vmrgRow cnt) := length_all _
theorem Length.vmrgHeap (cnt : Byte) : Length.Statement (Instr.vmrgHeap cnt) := length_all _
theorem Length.voutRow (a : BitVec 5) (e : VoutExt) : Length.Statement (Instr.voutRow a e) := length_all _
theorem Length.voutHeap (a : BitVec 5) (e : VoutExt) : Length.Statement (Instr.voutHeap a e) := length_all _
theorem Length.pcadd (h : Hdr) (ord : Order) (sc : Scope) (hint : Hint) (ad : Addr) (c : BitVec 8) : Length.Statement (Instr.pcadd h ord sc hint ad c) := length_all _
theorem Length.pcaddRtn (h : Hdr) (ord : Order) (sc : Scope) (hint : Hint) (d : BitVec 8) (ad : Addr) (c : BitVec 8) : Length.Statement (Instr.pcaddRtn h ord sc hint d ad c) := length_all _
theorem Length.pcrd (h : Hdr) (ord : Order) (sc : Scope) (hint : Hint) (d : BitVec 8) (ad : Addr) : Length.Statement (Instr.pcrd h ord sc hint d ad) := length_all _
theorem Length.pcrdRaw (h : Hdr) (ord : Order) (sc : Scope) (hint : Hint) (d : BitVec 8) (ad : Addr) : Length.Statement (Instr.pcrdRaw h ord sc hint d ad) := length_all _
theorem Length.pcmrg (h : Hdr) (ord : Order) (sc : Scope) (hint : Hint) (d : BitVec 8) (ad : Addr) (c : BitVec 8) : Length.Statement (Instr.pcmrg h ord sc hint d ad c) := length_all _
theorem Length.pcclr (h : Hdr) (ord : Order) (sc : Scope) (hint : Hint) (ad : Addr) : Length.Statement (Instr.pcclr h ord sc hint ad) := length_all _
theorem Length.pcbase (h : Hdr) (v : ImmU) : Length.Statement (Instr.pcbase h v) := length_all _
theorem Length.launch (h : Hdr) (d a : BitVec 6) (tag : BitVec 16) (port : Bool) : Length.Statement (Instr.launch h d a tag port) := length_all _
theorem Length.fork (h : Hdr) (k : BitVec 4) (a b : BitVec 6) : Length.Statement (Instr.fork h k a b) := length_all _
theorem Length.cancel (h : Hdr) (a : BitVec 6) : Length.Statement (Instr.cancel h a) := length_all _
theorem Length.twait (h : Hdr) (d : BitVec 6) (a : Option (BitVec 6)) : Length.Statement (Instr.twait h d a) := length_all _
theorem Length.alloc (h : Hdr) (d : Reg) (size : Opd) : Length.Statement (Instr.alloc h d size) := length_all _
theorem Length.free (h : Hdr) (a : Reg) : Length.Statement (Instr.free h a) := length_all _
theorem Length.tmark (h : Hdr) (v : ImmU) : Length.Statement (Instr.tmark h v) := length_all _
theorem Length.hvc (h : Hdr) (svc : BitVec 16) : Length.Statement (Instr.hvc h svc) := length_all _
theorem Length.hvcReturn (t g k : Nat) (s0 s1 : Word) : Length.Statement (Instr.hvcReturn t g k s0 s1) := length_all _
theorem Length.registerQueue (h : Hdr) : Length.Statement (Instr.registerQueue h) := length_all _
theorem Length.registerCollectiveGroup (h : Hdr) : Length.Statement (Instr.registerCollectiveGroup h) := length_all _
theorem Length.addFrames (h : Hdr) : Length.Statement (Instr.addFrames h) := length_all _
theorem Length.retireRoot (h : Hdr) : Length.Statement (Instr.retireRoot h) := length_all _
theorem Length.setHangThreshold (h : Hdr) : Length.Statement (Instr.setHangThreshold h) := length_all _
theorem Length.attestationQuote (h : Hdr) : Length.Statement (Instr.attestationQuote h) := length_all _
theorem Length.launchPacketStart (p q : Nat) : Length.Statement (Instr.launchPacketStart p q) := length_all _
theorem Length.copyPacketStart (p q : Nat) : Length.Statement (Instr.copyPacketStart p q) := length_all _
theorem Length.teamPlace (p : Nat) : Length.Statement (Instr.teamPlace p) := length_all _
theorem Length.teamRetire (t : Nat) : Length.Statement (Instr.teamRetire t) := length_all _
theorem Length.gridCompletion (l : Nat) : Length.Statement (Instr.gridCompletion l) := length_all _
theorem Length.eventRecordWrite (k : Nat) : Length.Statement (Instr.eventRecordWrite k) := length_all _
theorem Length.eventRingTimeTrigger (k : Nat) : Length.Statement (Instr.eventRingTimeTrigger k) := length_all _
theorem Length.preemptionRequest (l : Nat) : Length.Statement (Instr.preemptionRequest l) := length_all _
theorem Length.safePointTake (t g : Nat) : Length.Statement (Instr.safePointTake t g) := length_all _
theorem Length.forcedSaveTimeout (t g : Nat) : Length.Statement (Instr.forcedSaveTimeout t g) := length_all _
theorem Length.teamResume (t : Nat) : Length.Statement (Instr.teamResume t) := length_all _
theorem Length.coreClockGate (die core : Nat) : Length.Statement (Instr.coreClockGate die core) := length_all _
theorem Length.corePowerGate (die core : Nat) : Length.Statement (Instr.corePowerGate die core) := length_all _
theorem Length.coreWake (die core : Nat) : Length.Statement (Instr.coreWake die core) := length_all _
theorem Length.hangReport (t : Nat) : Length.Statement (Instr.hangReport t) := length_all _
theorem Length.errorLogLostEntries (p : Nat) : Length.Statement (Instr.errorLogLostEntries p) := length_all _
theorem Length.linkWakeRetry (die : Nat) : Length.Statement (Instr.linkWakeRetry die) := length_all _
theorem Length.linkRetrain (die : Nat) : Length.Statement (Instr.linkRetrain die) := length_all _
theorem Length.dieHeartbeat (die : Nat) : Length.Statement (Instr.dieHeartbeat die) := length_all _
theorem Length.dieLost (die : Nat) : Length.Statement (Instr.dieLost die) := length_all _
theorem Length.dielostTrap (t g : Nat) : Length.Statement (Instr.dielostTrap t g) := length_all _
theorem Length.remoteAccessTimeout (peer : Nat) : Length.Statement (Instr.remoteAccessTimeout peer) := length_all _
theorem Length.headroomUpdate (die : Nat) (v : BitVec 16) : Length.Statement (Instr.headroomUpdate die v) := length_all _
theorem Length.thermalThrottle (die : Nat) : Length.Statement (Instr.thermalThrottle die) := length_all _
theorem Length.thermalTrip (die : Nat) : Length.Statement (Instr.thermalTrip die) := length_all _
theorem Length.powerOnBoot : Length.Statement (Instr.powerOnBoot) := length_all _
theorem Length.recoveryGo (port : Bool) (image : List Byte) (v : DWord) : Length.Statement (Instr.recoveryGo port image v) := length_all _
theorem Length.semaphoreClaim (sem : BitVec 4) (who : Claimant) : Length.Statement (Instr.semaphoreClaim sem who) := length_all _
theorem Length.semaphoreRelease (sem : BitVec 4) (port : Bool) : Length.Statement (Instr.semaphoreRelease sem port) := length_all _
theorem Length.portReset (port : Bool) : Length.Statement (Instr.portReset port) := length_all _
theorem Length.partitionCreate (port : Bool) (req : BitVec 2048) (root : Nat) : Length.Statement (Instr.partitionCreate port req root) := length_all _
theorem Length.partitionRemove (port : Bool) (req : BitVec 2048) (root : Nat) : Length.Statement (Instr.partitionRemove port req root) := length_all _
theorem Length.partitionRecreate (port : Bool) (req : BitVec 2048) (root : Nat) : Length.Statement (Instr.partitionRecreate port req root) := length_all _
theorem Length.supactResume (p : Nat) (handle : Word) : Length.Statement (Instr.supactResume p handle) := length_all _
theorem Length.supactEndTeam (p : Nat) (handle : Word) : Length.Statement (Instr.supactEndTeam p handle) := length_all _
theorem Length.supactDeliver (p : Nat) (handle : Word) : Length.Statement (Instr.supactDeliver p handle) := length_all _
theorem Length.hostAttestationRequest (port : Bool) (p : Nat) (nonce : BitVec 256) : Length.Statement (Instr.hostAttestationRequest port p nonce) := length_all _
theorem Length.hostPortAccess (port : Bool) (addr : DWord) (acc : HostAcc) : Length.Statement (Instr.hostPortAccess port addr acc) := length_all _
theorem Length.deviceRegisterWrite (p : Nat) (addr v : DWord) : Length.Statement (Instr.deviceRegisterWrite p addr v) := length_all _
theorem Length.peerRemoteAccess (addr : BitVec 41) (acc : PeerAcc) : Length.Statement (Instr.peerRemoteAccess addr acc) := length_all _
theorem Length.stationRetraining (st : Nat) (width : BitVec 3) (compress : Bool) : Length.Statement (Instr.stationRetraining st width compress) := length_all _
theorem Length.sequencerFetchFault (t : Nat) (serviced : Bool) : Length.Statement (Instr.sequencerFetchFault t serviced) := length_all _

end Sys2Proof.Laws
end

