-- ==== Sys2Proof/Laws/Registers.lean ====
section
/-! SUPPORT. The register forms: what writing registers, predicates and flags of a group leaves of it, what an
issue leaves of it, and the operations' acts as updates of the group. -/

namespace Sys2Proof.Claims
open Sys2Proof.Machine

theorem rangeOk_of {s : State} {t : Nat} {h : Hdr} {rs : List (Reg × Nat)} {us : List Use}
    (hd : Declared s t h rs) (hu : ∀ u ∈ us, (∃ r k, (r, k) ∈ rs ∧ (u = .rd r k ∨ u = .wr r k)) ∨ (∃ i, u = .pd i) ∨ ∃ i, u = .tk i) :
    rangeOk (s.launchOf t) h us = true := by
  unfold rangeOk
  rw [Bool.and_eq_true, List.all_eq_true]
  refine ⟨fun u hm => ?_, ?_⟩
  · rcases hu u hm with ⟨r, k, hr, rfl | rfl⟩ | ⟨i, rfl⟩ | ⟨i, rfl⟩
    · exact hd.1 _ hr
    · exact hd.1 _ hr
    · rfl
    · rfl
  · split
    · rename_i m hm; exact hd.2 m (by simp [hm])
    · rfl

/-- What a register update of a group keeps. -/
structure Upd (f : Form) (E : Lanes) (x y : Group) : Prop where
  rest : restOf y = restOf x
  waits : y.waits = x.waits
  pcv : y.pcv = x.pcv
  vreg : ∀ r l, l < 32 → ¬WritesV f.writes E r l → y.v.get (32 * r + l) = x.v.get (32 * r + l)
  sreg : ∀ r, ¬WritesS f.writes E r → y.s.get r = x.s.get r
  pred : ∀ i l, ¬(E.getLsbD l = true ∧ i ∈ f.preds) → (y.pred i).getLsbD l = (x.pred i).getLsbD l
  draw : y.draw = x.draw
  rng : y.rng = x.rng
  flags : (f.flags = false → y.gstat = x.gstat) ∧ ∀ i, x.gstat.getLsbD i = true → y.gstat.getLsbD i = true

theorem shapeOf_noteMoved (order : Nat) (I : Lanes) (g : Group) : (noteMoved order I g).waits.map shapeOf = g.waits.map shapeOf := by
  simp only [noteMoved, List.map_map]
  apply List.map_congr_left
  intro w _
  simp only [Function.comp, shapeOf]
  cases hk : w.kind <;> simp only [hk]
  by_cases ho : w.order < order <;> simp [ho, hk]

theorem restOf_issueGroup (c : Ctx) (h : Hdr) (o : Nat) (g : Group) : restOf (issueGroup c h o g) = restOf g := by
  unfold issueGroup
  rw [updateSerial_eq]
  have := shapeOf_noteMoved o c.I { g with pcv := setLanes g.pcv (c.I &&& ~~~g.exited) fun _ => c.next }
  simp only [restOf, this]
  rfl

theorem issueGroup_v (c h o g) : (issueGroup c h o g).v = g.v := by unfold issueGroup; rw [updateSerial_eq]; rfl
theorem issueGroup_s (c h o g) : (issueGroup c h o g).s = g.s := by unfold issueGroup; rw [updateSerial_eq]; rfl
theorem issueGroup_p (c h o g) : (issueGroup c h o g).p = g.p := by unfold issueGroup; rw [updateSerial_eq]; rfl
theorem issueGroup_draw (c h o g) : (issueGroup c h o g).draw = g.draw := by unfold issueGroup; rw [updateSerial_eq]; rfl
theorem issueGroup_rng (c h o g) : (issueGroup c h o g).rng = g.rng := by unfold issueGroup; rw [updateSerial_eq]; rfl
theorem issueGroup_pcv (c h o g) : (issueGroup c h o g).pcv = setLanes g.pcv (c.I &&& ~~~g.exited) fun _ => c.next := by unfold issueGroup; rw [updateSerial_eq]; rfl
theorem issueGroup_gstat (c h o g) (i : Nat) (hi : i < 16) : (issueGroup c h o g).gstat.getLsbD i = g.gstat.getLsbD i := by
  unfold issueGroup; exact updateSerial_gstat_low _ _ hi
theorem issueGroup_pred (c h o g i) : (issueGroup c h o g).pred i = g.pred i := by simp only [Group.pred, issueGroup_p]

theorem exited_of_restOf {x y : Group} (h : restOf y = restOf x) : y.exited = x.exited := by
  have := congrArg Group.exited h
  simpa [restOf] using this

theorem inI_not_exited {g : Group} {l : Nat} (hl : l < 32) (h : g.issueSet.getLsbD l = true) : g.exited.getLsbD l = false := by
  rw [getLsbD_issueSet] at h
  simp only [hl, decide_true, Bool.true_and, Bool.and_eq_true] at h
  have := h.1
  simp only [Group.active, BitVec.getLsbD_not, BitVec.getLsbD_or, hl, decide_true, Bool.true_and] at this
  cases hx : g.exited.getLsbD l <;> simp [hx] at this ⊢

theorem Upd.refl (f : Form) (E : Lanes) (x : Group) : Upd f E x x :=
  ⟨rfl, rfl, rfl, fun _ _ _ _ => rfl, fun _ _ => rfl, fun _ _ _ => rfl, rfl, rfl, fun _ => rfl, fun _ h => h⟩

theorem Upd.trans {f : Form} {E : Lanes} {x y z : Group} (a : Upd f E x y) (b : Upd f E y z) : Upd f E x z :=
  ⟨b.rest.trans a.rest, b.waits.trans a.waits, b.pcv.trans a.pcv, fun r l hl h => (b.vreg r l hl h).trans (a.vreg r l hl h),
   fun r h => (b.sreg r h).trans (a.sreg r h), fun i l h => (b.pred i l h).trans (a.pred i l h), b.draw.trans a.draw, b.rng.trans a.rng,
   ⟨fun h => (b.flags.1 h).trans (a.flags.1 h), fun i h => b.flags.2 i (a.flags.2 i h)⟩⟩

theorem upd_regSet {f : Form} {E : Lanes} (r : Reg) (l x : Nat) (hl : l < 32) :
    ∀ (k : Nat) (K : Nat) (hk : k ≤ K) (hw : (r, K) ∈ f.writes) (hE : match r with | .v _ => E.getLsbD l = true | .s _ => E ≠ 0) (g : Group), Upd f E g (regSet r l x k g)
  | 0, _, _, _, _, g => Upd.refl _ _ _
  | k + 1, K, hk, hw, hE, g => by
    refine Upd.trans (upd_regSet r l x hl k K (by omega) hw hE g) ?_
    simp only [regSet]
    generalize regSet r l x k g = y
    cases r with
    | v n =>
      refine ⟨rfl, rfl, rfl, ?_, fun _ _ => rfl, fun _ _ _ => rfl, rfl, rfl, fun _ => rfl, fun _ h => h⟩
      intro r' l' hl' hn
      refine Store.get_set_ne _ _ ?_
      intro e
      apply hn
      have e1 : r' = n.toNat + k := by omega
      have e2 : l' = l := by omega
      subst e2
      exact ⟨hE, n, K, hw, by omega, by omega⟩
    | s n =>
      refine ⟨rfl, rfl, rfl, fun _ _ _ _ => rfl, ?_, fun _ _ _ => rfl, rfl, rfl, fun _ => rfl, fun _ h => h⟩
      intro r' hn
      refine Store.get_set_ne _ _ ?_
      intro e
      apply hn
      exact ⟨hE, n, K, hw, by omega, by omega⟩

/-- writeReg as an update of the group. -/
def writeRegG (ls : Lanes) (d : Reg) (k : Nat) (f : Nat → Nat) (g : Group) : Group :=
  match d with
  | .v _ => (lanes ls).foldl (fun g l => regSet d l (f l) k g) g
  | .s _ => if ls = 0 then g else regSet d 0 (f (lowest ls)) k g

theorem writeReg_eq (c : Ctx) (ls : Lanes) (d : Reg) (k : Nat) (f : Nat → Nat) (s : State) :
    writeReg c ls d k f s = s.modGrp c.t c.g (writeRegG ls d k f) := by
  cases d <;> rfl

theorem upd_writeReg {f : Form} {E : Lanes} {d : Reg} {k : Nat} (v : Nat → Nat) (g : Group) (hw : (d, k) ∈ f.writes) :
    Upd f E g (writeRegG E d k v g) := by
  unfold writeRegG
  cases d with
  | v n =>
    have : ∀ (ls : List Nat), (∀ l ∈ ls, l < 32 ∧ E.getLsbD l = true) → ∀ g : Group, Upd f E g (ls.foldl (fun g l => regSet (.v n) l (v l) k g) g) := by
      intro ls
      induction ls with
      | nil => exact fun _ g => Upd.refl _ _ _
      | cons l ls ih =>
        intro h g
        obtain ⟨h1, h2⟩ := h l (by simp)
        exact Upd.trans (upd_regSet (.v n) l _ h1 k k (Nat.le_refl _) hw h2 g) (ih (fun l' hl' => h l' (by simp [hl'])) _)
    exact this _ (fun l hl => mem_lanes.mp hl) g
  | s n =>
    dsimp only
    split
    · exact Upd.refl _ _ _
    · rename_i h
      exact upd_regSet (.s n) 0 _ (by omega) k k (Nat.le_refl _) hw h g

theorem upd_writePred {f : Form} {E : Lanes} {i : Nat} (v : Nat → Bool) (g : Group) (hw : i ∈ f.preds) :
    Upd f E g (g.setPred i E (laneSet fun l => E.getLsbD l && v l)) := by
  unfold Group.setPred
  split
  · exact Upd.refl _ _ _
  · rename_i h0
    refine ⟨rfl, rfl, rfl, fun _ _ _ _ => rfl, fun _ _ => rfl, ?_, rfl, rfl, fun _ => rfl, fun _ h => h⟩
    intro j l hn
    unfold Group.pred
    split
    · rfl
    · by_cases hj : i = j
      · subst hj
        have hE : E.getLsbD l = false := by
          cases hx : E.getLsbD l
          · rfl
          · exact absurd ⟨hx, hw⟩ hn
        simp only [Store.get_set_same, BitVec.getLsbD_or, BitVec.getLsbD_and, BitVec.getLsbD_not, hE]
        by_cases hl : l < 32
        · simp [hl]
        · simp [BitVec.getLsbD_of_ge _ _ (by omega : 32 ≤ l)]
      · rw [Store.get_set_ne _ _ hj]

theorem upd_orFlags {f : Form} {E : Lanes} (b : BitVec 9) (g : Group) (hf : f.flags = true) :
    Upd f E g { g with gstat := g.gstat ||| b.setWidth 32 } := by
  refine ⟨rfl, rfl, rfl, fun _ _ _ _ => rfl, fun _ _ => rfl, fun _ _ _ => rfl, rfl, rfl, ?_, ?_⟩
  · intro h; simp [hf] at h
  · intro i h; simp [h]

theorem uses_ofOpd {b : Opd} {k : Nat} {rs : List (Reg × Nat)} (h : ∀ x ∈ ofOpd b k, x ∈ rs) :
    ∀ u ∈ opdUse b k, (∃ r k, (r, k) ∈ rs ∧ (u = .rd r k ∨ u = .wr r k)) ∨ (∃ i, u = .pd i) ∨ ∃ i, u = .tk i := by
  intro u hu
  cases b with
  | reg r =>
    simp only [opdUse, List.mem_singleton] at hu
    exact Or.inl ⟨r, k, h _ (by simp [ofOpd]), Or.inl hu⟩
  | imm w => simp [opdUse] at hu
  | wide w => simp [opdUse] at hu

theorem adv_writeReg {c : Ctx} {d k f} {s : State} : Act.adv (writeReg c c.E d k f s) = Act.adv (s.modGrp c.t c.g (writeRegG c.E d k f)) := by rw [writeReg_eq]

/-- The registers that uses name are among those of a form. -/
def UseOk (rs : List (Reg × Nat)) (us : List Use) : Prop :=
  ∀ u ∈ us, (∃ r k, (r, k) ∈ rs ∧ (u = .rd r k ∨ u = .wr r k)) ∨ (∃ i, u = .pd i) ∨ ∃ i, u = .tk i

theorem useOk_nil (rs) : UseOk rs [] := by intro u h; simp at h
theorem useOk_rd {rs us r k} (h : (r, k) ∈ rs) (h' : UseOk rs us) : UseOk rs (.rd r k :: us) := by
  intro u hu
  rcases List.mem_cons.mp hu with rfl | hu
  · exact Or.inl ⟨r, k, h, Or.inl rfl⟩
  · exact h' u hu
theorem useOk_wr {rs us r k} (h : (r, k) ∈ rs) (h' : UseOk rs us) : UseOk rs (.wr r k :: us) := by
  intro u hu
  rcases List.mem_cons.mp hu with rfl | hu
  · exact Or.inl ⟨r, k, h, Or.inr rfl⟩
  · exact h' u hu
theorem useOk_pd {rs us i} (h' : UseOk rs us) : UseOk rs (.pd i :: us) := by
  intro u hu
  rcases List.mem_cons.mp hu with rfl | hu
  · exact Or.inr (Or.inl ⟨i, rfl⟩)
  · exact h' u hu
theorem useOk_app {rs us vs} (h : UseOk rs us) (h' : UseOk rs vs) : UseOk rs (us ++ vs) := by
  intro u hu
  rcases List.mem_append.mp hu with hu | hu
  · exact h u hu
  · exact h' u hu
theorem useOk_opd {b : Opd} {k : Nat} {rs : List (Reg × Nat)} (h : ∀ x ∈ ofOpd b k, x ∈ rs) : UseOk rs (opdUse b k) := uses_ofOpd h

theorem adv_writePred {c : Ctx} {i v} {s : State} : Act.adv (writePred c c.E i v s) = Act.adv (s.modGrp c.t c.g (fun g => g.setPred i c.E (laneSet fun l => c.E.getLsbD l && v l))) := rfl

theorem adv_predReg {c : Ctx} {d k f} {i v} {s : State} : Act.adv (writePred c c.E i v (writeReg c c.E d k f s)) =
    Act.adv (s.modGrp c.t c.g (fun g => (writeRegG c.E d k f g).setPred i c.E (laneSet fun l => c.E.getLsbD l && v l))) := by
  rw [writeReg_eq, writePred, State.modGrp_modGrp]

theorem adv_flagReg {c : Ctx} {d k f} {b} {s : State} : Act.adv (orFlags c b (writeReg c c.E d k f s)) =
    Act.adv (s.modGrp c.t c.g (fun g => { writeRegG c.E d k f g with gstat := (writeRegG c.E d k f g).gstat ||| b.setWidth 32 })) := by
  rw [writeReg_eq, orFlags, State.modGrp_modGrp]

theorem upd_orFlags' {f : Form} {E : Lanes} (b : BitVec 9) (g : Group) (hf : f.flags = false → b = 0) :
    Upd f E g { g with gstat := g.gstat ||| b.setWidth 32 } := by
  refine ⟨rfl, rfl, rfl, fun _ _ _ _ => rfl, fun _ _ => rfl, fun _ _ _ => rfl, rfl, rfl, ?_, ?_⟩
  · intro h; simp [hf h]
  · intro i h; simp [h]

theorem unionFlags_zero (l : List Nat) : unionFlags (l.map fun _ => (0 : Flags)) = 0 := by
  unfold unionFlags
  induction l with
  | nil => rfl
  | cons x xs ih => simpa using ih

end Sys2Proof.Claims
end

