-- ==== Sys2Proof/Tests/Slice0.lean ====
section
/-! SUPPORT. Tests: ill-formed terms that each check refuses, words written out from the encoding tables of spec/ and the
instructions they stand for, results of the spec's own examples, and for every statement a state that meets its
hypotheses. -/

set_option Elab.async false

namespace Sys2Proof.Tests

open Sys2Proof.Machine Sys2Proof.Claims

/-! Ill-formed terms (02 R35 to R41, R47). -/

def h0 : Hdr := ⟨0, false, none⟩

/-- Pairs and quads are aligned; types, classes and operand forms are those of the entry. -/
theorem test_illFormed : ([
    Instr.jmpi h0 (.v 3), .call h0 5 0, .callI h0 4 (.s 1), .ret h0 (.v 1), .rft ⟨1, false, none⟩, .sysrd h0 (.v 0) 0xFFF,
    .iadd h0 .f32 false (.v 0) (.v 1) (.reg (.v 2)), .iadd h0 .i64 false (.v 1) (.v 2) (.reg (.v 4)),
    .iadd h0 .i32 false (.s 0) (.v 1) (.reg (.v 2)), .iaddCc h0 .i64 (.v 0) (.v 2) (.reg (.v 4)) 1,
    .imulHi h0 .i8 (.v 0) (.v 1) (.reg (.v 2)), .imulWide h0 .i32 (.v 1) (.v 2) (.reg (.v 3)),
    .shfL h0 .i32 (.v 0) (.v 1) (.imm 3), .icmp h0 .b32 .lt 1 (.v 0) (.imm 3), .bfe h0 .i8 (.v 0) (.v 1) (.imm 3),
    .sel h0 .b32 (.s 0) (.s 1) (.reg (.s 2)) 1, .lea h0 .i32 1 (.v 0) (.v 1) (.imm 3), .moviVectorPair h0 3 0,
    .xaccX128 h0 (.v 2) (.v 4) (.v 8), .cvt h0 .i8 .q16 false .rne false (.v 0) (.v 1), .lredAdd h0 .b32 (.v 0) (.v 1),
    .ld h0 .f32 .rel .dflt .normal (.v 0) ⟨.v 2, .plain⟩, .st h0 .f32 .acq .dflt .normal ⟨.v 2, .plain⟩ (.v 0),
    .ld h0 .f32 .ordinary .dflt .normal (.v 0) ⟨.v 3, .plain⟩, .atomAdd h0 .b32 .ordinary .dflt (.v 0) ⟨.v 2, .plain⟩ (.v 1),
    .atomsExch h0 .x128 (.v 0) ⟨.v 2, .plain⟩ (.v 4), .fence h0 .rlx .dev, .publish h0 .pod 2 4 none, .cbar h0 .dev (.imm 1),
    .qtryPop h0 (.v 3) 1 1, .tsld h0 1 3 none, .acq ⟨0, false, none⟩ 3]
    |>.map legal) = List.replicate 31 false ++ [true] := by decide +kernel

/-! Words (02 Table 2.2). -/

/-- Word 0: length code, opcode, FN, MD, DST, SA, SB, SC; u: 1 UA, 2 UB. -/
def w0 (len opc fn md dst sa sb sc u : Nat) : Nat :=
  len + 4 * opc + 2 ^ 14 * u + 2 ^ 16 * dst + 2 ^ 24 * sa + 2 ^ 32 * sb + 2 ^ 40 * sc + 2 ^ 48 * fn + 2 ^ 56 * md
/-- IMM32 or EXT64 behind word 0. -/
def ext (w x : Nat) : Nat := w + 2 ^ 64 * x
/-- Every word decodes to its instruction. -/
def Decodes (l : List (Nat × Instr)) : Prop :=
  ∀ x ∈ l, decodeTableWord (if x.1 % 4 = 0 then 64 else if x.1 % 4 = 1 then 96 else 128) x.1 = some x.2

/-- 02 Table 2.9, the three worked encodings; the second has a live-mask word. -/
theorem decode_worked :
    decodeTableWord 96 (ext 0x0400000002040041 0x100) = some (.iadd h0 .i32 false (.v 4) (.v 2) (.imm 0x100)) ∧
    decodeTableWord 128 (ext 0x0A00000B0A0A2E80 0x000000040000000B) =
      some (.fadd ⟨3, true, some 0x100000002⟩ .rne false (.v 10) (.v 10) (.reg (.v 11))) ∧
    decodeTableWord 128 (ext 0x000A000308074102 0x0000000600000010) =
      some (.ld h0 .f32 .ordinary .dflt .normal (.v 7) ⟨.s 8, .full 16 (some (.v 3, 2))⟩) := by
  decide +kernel

/-- 04 Table 4.7. -/
theorem decode_control : Decodes [
    (0, .nop h0 .none), (ext (w0 1 0 0 0 0 0 0 0 0) 9, .nop h0 (.imm 9)), (ext (w0 2 0 0 0 0 0 0 0 0) 9, .nop h0 (.ext 9)),
    (ext 0x405 0xFFFFFFE0, .bra ⟨1, false, none⟩ 0xFFFFFFE0), (ext (w0 1 2 0 0 0 0 0 0 0) 64, .bru h0 64),
    (w0 0 3 0 0 0 6 0 0 0, .jmpi h0 (.v 6)), (w0 0 3 0 0 0 2 0 0 1, .jmpi h0 (.s 2)),
    (ext (w0 1 4 0 0 2 0 0 0 0) 8, .call h0 2 8), (w0 0 4 1 0 2 4 0 0 0, .callI h0 2 (.v 4)), (w0 0 5 0 0 0 2 0 0 0, .ret h0 (.v 2)),
    (0x18, .exit h0), (w0 0 7 0 0 0 0 0 0 0 + 2 ^ 10 * 4, .yield ⟨4, false, none⟩), (w0 0 8 0 0 0 0 0 0 0, .trap h0 none),
    (ext (w0 1 8 0 0 0 0 0 0 0) 0x42, .trap h0 (some 0x42)), (w0 0 9 0 0 0 0 0 0 0, .rft h0),
    (0x00010029, .sysrd h0 (.v 1) 0), (ext (w0 1 10 0 0 4 0 0 0 0) 0x100B, .sysrd h0 (.s 4) 0x00B),
    (ext (w0 1 11 0 0 0 3 0 0 0) 0x071, .syswr h0 0x071 (.v 3)), (ext (w0 1 11 0 0 0 3 0 0 1) 0x060, .seqCtlResume h0 (.s 3)),
    (0x00C0000201030030, .plop h0 0xC0 3 1 2 0), (w0 0 0x0D 0 0 0 0 0 0 0, .unassignedOpcode 0x34)] := by
  unfold Decodes; decide +kernel

/-- 05 Table 5.2. -/
theorem decode_integer : Decodes [
    (w0 0 0x10 0 0x84 3 1 2 0 0, .iadd h0 .i32 true (.v 3) (.v 1) (.reg (.v 2))), (0x0501010402060040, .iaddCc h0 .n32 (.v 6) (.v 2) (.reg (.v 4)) 1),
    (0x8400000503030044, .isub h0 .i32 true (.v 3) (.v 3) (.reg (.v 5))), (w0 0 0x11 1 5 6 2 4 3 0, .isubCc h0 .n32 (.v 6) (.v 2) (.reg (.v 4)) 3),
    (w0 0 0x12 0 6 2 4 6 0 0, .imulLo h0 .i64 false (.v 2) (.v 4) (.reg (.v 6))), (w0 0 0x12 1 7 2 4 6 0 0, .imulHi h0 .n64 (.v 2) (.v 4) (.reg (.v 6))),
    (0x0502000302080048, .imulWide h0 .n32 (.v 8) (.v 2) (.reg (.v 3))), (ext 0x040002000104404D 12, .imadLo h0 .i32 false (.s 4) (.s 1) (.imm 12) (.s 2)),
    (w0 0 0x13 1 4 1 2 3 4 0, .imadHi h0 .i32 (.v 1) (.v 2) (.reg (.v 3)) (.v 4)), (w0 0 0x13 2 5 2 5 3 6 0, .imadWide h0 .n32 (.v 2) (.v 5) (.reg (.v 3)) (.v 6)),
    (w0 0 0x14 0 8 1 2 3 0 2, .shfL h0 .b32 (.v 1) (.v 2) (.reg (.s 3))), (w0 0 0x14 1 9 2 4 3 0 0, .shfR h0 .b64 (.v 2) (.v 4) (.reg (.v 3))),
    (w0 0 0x14 2 8 1 2 3 0 0, .shfRa h0 .b32 (.v 1) (.v 2) (.reg (.v 3))), (w0 0 0x14 3 8 1 2 3 0 0, .shfRol h0 .b32 (.v 1) (.v 2) (.reg (.v 3))),
    (ext 0x0804030002050051 8, .shfLf h0 (.v 5) (.v 2) (.imm 8) (.v 3)), (w0 0 0x14 5 8 1 2 3 4 0, .shfRf h0 (.v 1) (.v 2) (.reg (.v 3)) (.v 4)),
    (0x0896040302010054, .ltab h0 .b32 0x96 (.v 1) (.v 2) (.reg (.v 3)) (.v 4)), (0x0502000701020058, .icmp h0 .n32 .lt 2 (.v 1) (.reg (.v 7))),
    (w0 0 0x17 0 4 1 2 3 0 0, .imnmxMin h0 .i32 (.v 1) (.v 2) (.reg (.v 3))), (ext 0x020100000303005D 0xFFFFFFFB, .imnmxMax h0 .i16 (.v 3) (.v 3) (.imm 0xFFFFFFFB))] := by
  unfold Decodes; decide +kernel
theorem decode_bits : Decodes [
    (ext 0x0400000001020061 0x804, .bfe h0 .i32 (.v 2) (.v 1) (.imm 0x804)), (0x0500000401038060, .bfe h0 .n32 (.v 3) (.v 1) (.reg (.s 4))),
    (ext 0x0800020001020065 0x410, .bfi h0 .b32 (.v 2) (.v 1) (.imm 0x410) (.v 2)), (0x0900000004030068, .bitsPopc h0 .b64 (.v 3) (.v 4)),
    (w0 0 0x1A 1 8 3 4 0 0 0, .bitsClz h0 .b32 (.v 3) (.v 4)), (w0 0 0x1A 2 8 3 4 0 0 0, .bitsCtz h0 .b32 (.v 3) (.v 4)),
    (w0 0 0x1A 3 9 2 4 0 0 0, .bitsBrev h0 .b64 (.v 2) (.v 4)), (0x080003020106006C, .sel h0 .b32 (.v 6) (.v 1) (.reg (.v 2)) 3),
    (0x0800000300018070, .mov h0 .b32 (.v 1) (.s 3)), (0x0901000600020070, .movPush h0 .b64 2 (.v 6)), (w0 0 0x1C 2 9 4 2 0 0 0, .movPop h0 .b64 (.v 4) 2),
    (w0 0 0x1C 3 8 4 0 0 0 0, .movP2v h0 4), (w0 0 0x1C 4 8 0 0 4 0 0, .movV2p h0 (.v 4)), (ext 0x0000000000090075 0xFF00, .moviVector h0 9 0xFF00),
    (ext (w0 2 0x1D 1 0 8 0 0 0 0) 0x123456789, .moviVectorPair h0 8 0x123456789), (ext (w0 1 0x1D 2 0 8 0 0 0 1) 7, .moviUniform h0 8 7),
    (ext (w0 2 0x1D 3 0 8 0 0 0 1) 7, .moviUniformPair h0 8 7), (0x070300030A0A0078, .lea h0 .n64 3 (.v 10) (.v 10) (.reg (.v 3))),
    (0x040107020107007C, .dp4 h0 true false false (.v 7) (.v 1) (.reg (.v 2)) (.v 7))] := by
  unfold Decodes; decide +kernel

/-- 06 Table 6.3. -/
theorem decode_float : Decodes [
    (ext 0x0A00000002020081 0x3FC00000, .fadd h0 .rne false (.v 2) (.v 2) (.imm 0x3FC00000)), (0x2A00000706050084, .fmul h0 .rtz false (.v 5) (.v 6) (.reg (.v 7))),
    (0x0A00030201040088, .ffma h0 .rne false (.v 4) (.v 1) (.reg (.v 2)) (.v 3)), (0x0A0000040303008C, .fmnmxMin h0 false (.v 3) (.v 3) (.reg (.v 4))),
    (w0 0 0x23 1 0x8A 3 3 4 0 0, .fmnmxMax h0 true (.v 3) (.v 3) (.reg (.v 4))), (0x0A06000101020090, .fcmp h0 .un false 2 (.v 1) (.reg (.v 1))),
    (w0 0 0x25 0 0x4A 8 9 0 0 0, .ffnRcp h0 .rdn false (.v 8) (.v 9)), (w0 0 0x25 1 0x0A 8 9 0 0 0, .ffnSqrt h0 .rne false (.v 8) (.v 9)),
    (0x0A02000009080094, .ffnRsqrt h0 .rne false (.v 8) (.v 9)), (w0 0 0x25 3 0x0A 8 9 0 0 0, .ffnExp2 h0 .rne false (.v 8) (.v 9)),
    (w0 0 0x25 4 0x0A 8 9 0 0 0, .ffnLog2 h0 .rne false (.v 8) (.v 9)), (w0 0 0x25 5 0x0A 8 9 0 0 0, .ffnSinpi h0 .rne false (.v 8) (.v 9)),
    (w0 0 0x25 6 0x0A 8 9 0 0 1, .ffnCospi h0 .rne false (.s 8) (.s 9)), (0x0D0A000002010098, .cvt h0 .e4m3 .f32 false .rne false (.v 1) (.v 2)),
    (0x0D2A000002010098, .cvt h0 .e4m3 .f32 true .rne false (.v 1) (.v 2)), (0x0C0003020104009C, .fma2 h0 .rne false (.v 4) (.v 1) (.reg (.v 2)) (.v 3)),
    (0x4A000000030200A0, .frnd h0 .rdn false (.v 2) (.v 3)), (0x11000002080800A4, .xaccF32 h0 (.v 8) (.v 8) (.reg (.v 2))),
    (w0 0 0x29 1 0x11 8 4 12 0 0, .xaccX128 h0 (.v 8) (.v 4) (.v 12)), (0x6A000000080300A8, .xrnd h0 .rup (.v 3) (.v 8))] := by
  unfold Decodes; decide +kernel

/-- 07 Table 7.3. -/
theorem decode_lanes : Decodes [
    (w0 0 0x30 0 8 3 4 5 2 0, .shflIdx h0 .b32 3 4 (.reg (.v 5)) 2), (w0 0 0x30 1 9 2 4 5 2 0, .shflUp h0 .b64 2 4 (.reg (.v 5)) 2),
    (ext 0x08020200030300C1 1, .shflDown h0 .b32 3 3 (.imm 1) 2), (w0 0 0x30 3 8 3 4 5 2 2, .shflXor h0 .b32 3 4 (.reg (.s 5)) 2),
    (ext 0x08000000010400C5 5, .ballot h0 (.v 4) (.v 1) (.imm 5)), (w0 0 0x32 0 8 3 1 0 0 0, .voteAll h0 3 1), (0x08010000010300C8, .voteAny h0 3 1),
    (w0 0 0x32 2 8 3 1 0 0 0, .voteUni h0 3 1), (0x110000000C0800CC, .lredAdd h0 .x128 (.v 8) (.v 12)), (w0 0 0x33 1 4 8 12 0 0 0, .lredMin h0 .i32 (.v 8) (.v 12)),
    (w0 0 0x33 2 5 8 12 0 0 0, .lredMax h0 .n32 (.v 8) (.v 12)), (w0 0 0x33 3 8 8 12 0 0 0, .lredAnd h0 .b32 (.v 8) (.v 12)),
    (w0 0 0x33 4 9 8 12 0 0 0, .lredOr h0 .b64 (.v 8) (.v 12)), (w0 0 0x33 5 8 8 12 0 0 1, .lredXor h0 .b32 (.s 8) (.s 12)),
    (0x08000000000900D0, .rngC h0 9), (0x08010000040900D0, .rngCx h0 9 4), (w0 0 0x34 2 8 9 0 0 0 0, .rngSStep h0 9),
    (ext 0x08020000000900D1 1, .rngSReseed h0 9 1), (ext 0x08000300020100D5 0x10203, .bsel h0 (.v 1) (.v 2) (.imm 0x10203) (.v 3))] := by
  unfold Decodes; decide +kernel

/-- 08 Table 8.11. -/
theorem decode_memory : Decodes [
    (ext 0x000B000004030101 0x40, .ld h0 .bf16 .ordinary .dflt .normal (.v 3) ⟨.v 4, .disp 0x40⟩), (0x1B08060002004104, .st h0 .b32 .rel .dev .normal ⟨.s 2, .plain⟩ (.s 6)),
    (w0 0 0x40 0x0A 0x62 3 4 0 0 0, .ld h0 .f32 .acq .pod .stream (.v 3) ⟨.v 4, .plain⟩), (ext 0x002A030002060109 8, .lds h0 .f32 (.acc 3) (.v 6) ⟨.v 2, .disp 8⟩),
    (w0 0 0x42 0x48 0 6 2 0 0 0, .lds h0 .b32 .sel (.v 6) ⟨.v 2, .plain⟩), (0x000800000107010C, .sts h0 .b32 .scratch ⟨.v 1, .plain⟩ (.v 7)),
    (0x0060090002050110, .atomAdd h0 .f32 .ordinary .dflt (.v 5) ⟨.v 2, .plain⟩ (.v 9)), (w0 0 0x44 0x01 1 5 2 0 9 0, .atomMin h0 .i32 .rlx .dflt (.v 5) ⟨.v 2, .plain⟩ (.v 9)),
    (w0 0 0x44 0x12 0 5 2 0 9 0, .atomMax h0 .n32 .ordinary .dflt (.v 5) ⟨.v 2, .plain⟩ (.v 9)), (w0 0 0x44 0x43 0 5 2 0 9 0, .atomAnd h0 .b32 .ordinary .dflt (.v 5) ⟨.v 2, .plain⟩ (.v 9)),
    (w0 0 0x44 0x54 0 4 2 0 8 0, .atomOr h0 .b64 .ordinary .dflt (.v 4) ⟨.v 2, .plain⟩ (.v 8)), (w0 0 0x44 0x45 0 5 2 0 9 0, .atomXor h0 .b32 .ordinary .dflt (.v 5) ⟨.v 2, .plain⟩ (.v 9)),
    (w0 0 0x44 0x86 0 4 2 0 8 0, .atomExch h0 .x128 .ordinary .dflt (.v 4) ⟨.v 2, .plain⟩ (.v 8)), (0x2247080002044110, .atomCas h0 .b32 .acq .pod (.s 4) ⟨.s 2, .plain⟩ (.s 8)),
    (w0 0 0x45 0x00 0 5 2 0 9 0, .atomsAdd h0 .i32 (.v 5) ⟨.v 2, .plain⟩ (.v 9)), (w0 0 0x45 0x31 0 4 2 0 8 0, .atomsMin h0 .n64 (.v 4) ⟨.v 2, .plain⟩ (.v 8)),
    (w0 0 0x45 0x22 0 4 2 0 8 0, .atomsMax h0 .i64 (.v 4) ⟨.v 2, .plain⟩ (.v 8)), (w0 0 0x45 0x43 0 5 2 0 9 0, .atomsAnd h0 .b32 (.v 5) ⟨.v 2, .plain⟩ (.v 9)),
    (w0 0 0x45 0x44 0 5 2 0 9 0, .atomsOr h0 .b32 (.v 5) ⟨.v 2, .plain⟩ (.v 9)), (w0 0 0x45 0x45 0 5 2 0 9 0, .atomsXor h0 .b32 (.v 5) ⟨.v 2, .plain⟩ (.v 9)),
    (w0 0 0x45 0x46 0 5 2 0 9 0, .atomsExch h0 .b32 (.v 5) ⟨.v 2, .plain⟩ (.v 9)), (ext 0x0047060001040115 8, .atomsCas h0 .b32 (.v 4) ⟨.v 1, .disp 8⟩ (.v 6))] := by
  unfold Decodes; decide +kernel
theorem decode_memory_rest : Decodes [
    (0x2500000000000118, .fence h0 .sc .pod), (0x00000000040A411C, .publish h0 .dflt 10 4 none), (w0 0 0x48 0 0 0 0 0 0 0, .drainSp h0),
    (0x0001000000000120, .drainFifo h0), (w0 0 0x48 2 0 0 0 0 0 0, .drainGlb h0), (w0 0 0x49 0 0 0 2 0 0 0, .cctlInv h0 ⟨.v 2, .plain⟩),
    (w0 0 0x49 1 0 0 2 0 0 0, .cctlPfl1 h0 ⟨.v 2, .plain⟩), (ext 0x0002000000004125 0x2000, .cctlPfl2 h0 ⟨.s 0, .disp 0x2000⟩),
    (0x0000000006034128, .nmcGather h0 .dflt 3 6), (w0 0 0x4A 1 0x18 3 6 0 0 1, .nmcCopy h0 .dev 3 6), (w0 0 0x4A 2 0 3 6 0 0 1, .nmcCvt h0 .dflt 3 6),
    (w0 0 0x4A 3 0 3 6 0 0 1, .nmcRed h0 .dflt 3 6), (w0 0 0x4B 0 0 3 0 5 0 0, .ldcB32 h0 (.v 3) (.reg (.v 5))), (ext 0x000100000000412D 0, .ldcB64 h0 (.s 0) (.imm 0))] := by
  unfold Decodes; decide +kernel

/-- 11 Table 11.1. -/
theorem decode_sync : Decodes [
    (ext 0x0000000000000141 0x402, .barSync h0 (.imm 0x402)), (0x0001000006004140, .barArrive h0 (.uni 6)), (ext (w0 1 0x50 2 0 0 0 0 0 0) 2, .barWait h0 (.imm 2)),
    (ext 0x0000000000000146 0x0000100000000003, .bexp h0 (.imms 3 4096)), (w0 0 0x51 0 0 0 4 5 0 3, .bexp h0 (.regs 4 5)), (ext (w0 1 0x51 0 0 0 0 5 0 2) 7, .bexp h0 (.immReg 7 5)),
    (ext 0x2000000000000149 7, .cbar h0 .pod (.imm 7)), (ext 0x000000000002014D 0x200, .qbindSq h0 2 (.imm 0x200)), (ext 0x000100000005014D 0, .qbindPort h0 5 0),
    (w0 0 0x54 0 0 1 2 6 0 0, .qtryPush h0 1 2 (.v 6)), (0x0001010002040150, .qtryPop h0 (.v 4) 2 1), (w0 0 0x55 0 0 0 3 0 0 0, .waitk h0 3),
    (ext 0x0001000000000155 0xC, .waitkMask h0 0xC), (0x0000000000030158, .acq h0 3), (0x000000000003015C, .rel h0 3), (0x0000000004094160, .tsld h0 9 4 none),
    (0x0000000000090164, .tsev h0 9 none), (ext 0x0000000000020169 4, .qalwAdd h0 2 (.imm 4)), (w0 0 0x5A 1 0 2 6 0 0 1, .qalwSet h0 2 (.uni 6))] := by
  unfold Decodes; decide +kernel

/-- 13 Tables 13.2, 13.3. -/
theorem decode_engines :
    let e (aux e0 e1 : Nat) : EngExt := ⟨0, false, false, aux, false, 0, e0, e1⟩
    Decodes [
    (ext (w0 2 0x60 0 0 2 5 6 8 0) 0x0001010000000103, .cpy h0 .dflt 2 5 6 8 ⟨3, true, false, 0, false, 0, 256, 1⟩),
    (ext 0x1801080605020182 0x0001010000000000, .cpyAdd h0 .dev 2 5 6 8 (e 0 256 1)), (ext (w0 2 0x60 2 0 2 5 6 8 0) (2 ^ 32), .cpyMin h0 .dflt 2 5 6 8 (e 0 1 0)),
    (ext (w0 2 0x60 3 0 2 5 6 8 0) (2 ^ 32), .cpyMax h0 .dflt 2 5 6 8 (e 0 1 0)), (ext (w0 2 0x60 4 0 2 5 6 8 0) (2 ^ 32), .cpyAnd h0 .dflt 2 5 6 8 (e 0 1 0)),
    (ext (w0 2 0x60 5 0 2 5 6 8 0) (2 ^ 32), .cpyOr h0 .dflt 2 5 6 8 (e 0 1 0)), (ext (w0 2 0x61 0 0 4 5 6 0 0) 0x1C00, .gscG h0 .dflt 4 5 6 (e 7 0 0)),
    (ext (w0 2 0x61 1 0 4 5 6 0 0) 0x1C00, .gscS h0 .dflt 4 5 6 (e 7 0 0)), (ext 0x1802000605040186 0x1C00, .gscSadd h0 .dev 4 5 6 (e 7 0 0)),
    (ext 0x000008000100018A 0x0080040000000000, .feedFa h0 0 1 8 (e 0 1024 128)), (ext (w0 2 0x62 1 0 0 1 0 8 0) 0x0080040000000000, .feedFb h0 0 1 8 (e 0 1024 128)),
    (ext (w0 2 0x62 2 0 0 1 0 8 0) 0x0080040000050200, .feedSc h0 0 1 8 ⟨0, false, true, 0, false, 5, 1024, 128⟩), (0x000000000A02418C, .collStart h0 2 10),
    (w0 0 0x63 1 0 2 10 0 0 1, .collResume h0 2 10), (ext 0x1800080201050192 0x0040020000000C00, .enc h0 .dev 5 1 2 8 (e 3 512 64)),
    (ext 0x1800080902060196 0x0040020000000C00, .decF32 h0 .dev 6 2 9 8 (e 3 512 64)), (ext (w0 2 0x65 1 0 6 2 9 8 0) 0x0040020000000C00, .decBf16 h0 .dflt 6 2 9 8 (e 3 512 64))] := by
  unfold Decodes; decide +kernel

/-- 14 Tables 14.5, 14.6; 15 Tables 15.6, 15.7. -/
theorem decode_matrix : Decodes [
    (ext 0x00000002010201A2 0x4020000, .mms false 2 1 2 ⟨0, 32, 4, false, false⟩), (ext 0x01000002010401A2 0x2010000, .mms true 4 1 2 ⟨0, 16, 2, false, false⟩),
    (ext 0x00010002010001A2 0x10080000, .mmsPair false 0 1 2 ⟨0, 128, 16, false, false⟩), (w0 0 0x6C 0 0 2 0 0 0 0, .aclrF32Zero 2),
    (ext 0x00010000000201B1 0x3F800000, .aclrF32Broadcast 2 0x3F800000), (0x00020000000001B0, .aclrX128Zero 0), (ext (w0 1 0x6C 3 0 4 0 0 0 0) 5, .aclrX128Broadcast 4 5),
    (ext 0x00020000000001B6 0x0000003000000008, .sqif .lt 8 0x30), (ext (w0 2 0x6E 0 4 0 0 0 0 0) 0x2000000008, .sqwhWhile .bs 8 0x20), (ext 0x00010000000001B9 0xFFFFFFD4, .sqwhEndw 0xFFFFFFD4),
    (ext (w0 1 0x6F 0 0 0 0 0 0 0) 7, .sqcwSet 7), (ext 0x01000000000001BD 0x40, .sqcwSetSp 0x40), (ext (w0 1 0x6F 1 0 0 0 0 0 0) 7, .sqcwAdd 7),
    (ext (w0 1 0x6F 2 0 0 0 0 0 0) 7, .sqcwCmp 7), (0x00030000000001BC, .sqcwEnd), (ext 0x00060002010201A6 0x0000001001008000, .vprojF true true 2 1 2 ⟨⟨0, 8, 1, false, false⟩, 16, 0⟩),
    (ext (w0 2 0x69 5 0 2 1 2 0 0) 0x61008000, .vprojB false true 2 1 2 ⟨⟨0, 8, 1, true, true⟩, 0, 0⟩), (ext 0x00000000000001A9 2, .vmrgRow 2), (ext (w0 1 0x6A 1 0 0 0 0 0 0) 2, .vmrgHeap 2),
    (ext 0x00000000070001AE 0x200, .voutRow 7 ⟨0, 2, 0⟩), (ext (w0 2 0x6B 1 0 0 7 0 0 0) 0x90203, .voutHeap 7 ⟨3, 2, 9⟩)] := by
  unfold Decodes; decide +kernel

/-- 16 Table 16.5; 17 Tables 17.9, 17.10. -/
theorem decode_counters_tasks :
    let i : Addr := ⟨.s 2, .full 0 (some (.v 4, 0))⟩
    let x : Nat := 0x400000000
    Decodes [
    (ext (w0 2 0x70 0 0 0 2 4 6 1) x, .pcadd h0 .ordinary .dflt .normal i 6), (ext 0x00010604020941C2 x, .pcaddRtn h0 .ordinary .dflt .normal 9 i 6),
    (ext 0x00000004020541C6 x, .pcrd h0 .ordinary .dflt .normal 5 i), (ext (w0 2 0x71 1 2 5 2 4 0 1) x, .pcrdRaw h0 .acq .dflt .normal 5 i),
    (ext 0x00000604020941CA x, .pcmrg h0 .ordinary .dflt .normal 9 i 6), (ext 0x00000002000041CE x, .pcclr h0 .ordinary .dflt .normal ⟨.s 0, .full 0 (some (.v 2, 0))⟩),
    (ext 0x00000000000001D1 7, .pcbase h0 (.imm 7)), (w0 0 0x74 0 0 0 3 0 0 1, .pcbase h0 (.uni 3)), (ext 0x00000000020641E1 0x10005, .launch h0 6 2 5 true),
    (0x00000000000701EC, .twait h0 7 none), (w0 0 0x7B 0 0 7 3 0 0 1, .twait h0 7 (some 3)), (0x000000080402C1E4, .fork h0 2 4 8), (0x000000000A0041E8, .cancel h0 10),
    (ext 0x00000000000C41F1 0x1000, .alloc h0 (.s 12) (.imm 0x1000)), (w0 0 0x7C 0 0 4 0 6 0 0, .alloc h0 (.v 4) (.reg (.v 6))), (0x00000000040001F4, .free h0 (.v 4)),
    (ext 0x00000000000001F9 0x77, .tmark h0 (.imm 0x77)), (w0 0 0x7E 0 0 0 3 0 0 1, .tmark h0 (.uni 3)), (ext 0x00000000000001FD 2, .registerCollectiveGroup h0),
    (ext 0x1FD 1, .registerQueue h0), (ext 0x1FD 3, .addFrames h0), (ext 0x1FD 4, .retireRoot h0), (ext 0x1FD 5, .setHangThreshold h0), (ext 0x1FD 0x10, .attestationQuote h0),
    (ext 0x1FD 0x77, .hvc h0 0x77)] := by
  unfold Decodes; decide +kernel

/-- A set reserved bit, a reserved code, a live-mask word without SP are no instruction. -/
theorem decode_refuses :
    ([w0 0 0x10 0 0x24 3 1 2 0 0, w0 0 0x10 2 4 3 1 2 0 0, w0 0 0x10 0 0x12 3 1 2 0 0, w0 0 0x06 0 0 1 0 0 0 0, w0 0 0x46 0 6 0 0 0 0 0,
      w0 0 0x44 0x08 0 5 2 0 9 0, w0 0 0x55 2 0 0 3 0 0 0, w0 0 0x1A 4 8 3 4 0 0 0].map fun w => (decodeTableWord 64 w).isNone) =
    List.replicate 8 true := by decide +kernel

/-! States of one team. Addresses translate to themselves: a root table at 0x10000, two leaves of 1 GiB at 0x11000, the
second of the counter class. -/

def prt : Part :=
  { dies := 1, hangMs := 5000, saveBase := 0x1000000, saveSize := 0x1000000, errRing := 0x30000, faultRing := 0x30040, started := true,
    root := 0x10000 }
/-- Two groups, every register, 4 barriers, 4 queues, 64 KiB, 8 tiles, 16 rows, a stream, a bank of 256 bytes, a pool. -/
def la : Launch :=
  { part := 0, lid := 7, lineage := 0x100001, world := false,
    pkt := BitVec.ofNat 1024 (2 ^ 64 * 0x40000 + 2 ^ 128 * 0x50000 + 2 ^ 192 + 2 ^ 224 + 2 ^ 256 + 2 ^ 288 + 2 ^ 293 * 31 +
      2 ^ 298 * 64 + 2 ^ 305 * 4 + 2 ^ 314 * 4 + 2 ^ 320 * 64 + 2 ^ 331 * 8 + 2 ^ 335 * 16 + 2 ^ 352 * 0x100 + 2 ^ 384 * 0x60000) }
/-- Uniform pairs 2 to 10 hold addresses; lane l of v4 holds l, of v5 2 l. -/
def gr : Group :=
  { s := [(2, 0x20000), (4, 0x40000000), (6, 0x20100), (8, 0x20008), (10, 0x20001)],
    v := (List.range 31).map (fun l => (32 * 4 + l + 1, BitVec.ofNat 32 (l + 1))) ++
         (List.range 31).map fun l => (32 * 5 + l + 1, BitVec.ofNat 32 (2 * l + 2)) }
/-- Lane 0 alone. -/
def gr1 : Group := { gr with exited := 0xFFFFFFFE }
def sq : Seq := { named := true, base := 0x50000, pc := 0x50000, stat := 1 }
def tm : Team :=
  { launch := 0, linear := 0, die := 0, core := 0, logical := 0, groups := [gr, gr], bars := List.replicate 4 {},
    queues := List.replicate 4 {}, tiles := List.replicate 8 { state := .seq }, rows := List.replicate 16 {}, seq := sq,
    trapBase := 0x70000 }
def tables : Memory :=
  [(0x10000, 0x01), (0x10001, 0x10), (0x10002, 0x01), (0x11000, 0x0F), (0x11008, 0x0F), (0x1100B, 0x40), (0x1100E, 0x40)]
def st (x : Team) : State :=
  { State.reset with boot := .monitor, cur := .group 0 0, mem := tables, parts := [(0, prt)], launches := [la], teams := [x],
                     flash := [] }
/-- One group issues with one lane. -/
def one (x : Group) : State := st { tm with groups := [x] }
def S : State := st tm
/-- The sequencer issues. -/
def sqs (f : Seq → Seq) : State := { st { tm with seq := f sq } with cur := .seq 0 }

/-! Checks that compute, and what they show. -/

def issuingB (s : State) (t g : Nat) : Bool := s.cur == .group t g && canIssue s t g && (s.grp t g).soft == []
theorem issuing_of {s : State} {t g : Nat} (h : issuingB s t g = true) : Issuing s t g := by
  simpa [issuingB, Issuing, and_assoc] using h

def declaredB (s : State) (t : Nat) (h : Hdr) (rs : List (Reg × Nat)) : Bool :=
  rs.all (fun r => regIn (s.launchOf t) r.1 r.2) && (match h.live with
    | some m => maskIn (s.launchOf t) m
    | none => true)
theorem declared_of {s : State} {t : Nat} {h : Hdr} {rs : List (Reg × Nat)} (hd : declaredB s t h rs = true) : Declared s t h rs := by
  simp only [declaredB, Bool.and_eq_true, List.all_eq_true] at hd
  refine ⟨hd.1, fun m hm => ?_⟩
  have := hd.2
  rw [Option.mem_def] at hm
  simpa [hm] using this

def readyB (s : State) (t g : Nat) (i : Instr) : Bool :=
  issuingB s t g && (match formOf i with
    | some f => declaredB s t f.hdr (f.reads ++ f.writes) && (!f.rngs || (s.grp t g).mode.getLsbD 2)
    | none => true)
theorem ready_of {s : State} {t g : Nat} {i : Instr} (h : readyB s t g i = true) : Ready i s t g := by
  simp only [readyB, Bool.and_eq_true] at h
  refine ⟨issuing_of h.1, fun f hf => ?_⟩
  have := h.2
  simp only [hf, Bool.and_eq_true, Bool.or_eq_true, Bool.not_eq_true'] at this
  exact ⟨declared_of this.1, fun hr => by simpa [hr] using this.2⟩
theorem all_ready {s : State} {t g : Nat} {l : List Instr} (h : l.all (readyB s t g) = true) : ∀ i ∈ l, Ready i s t g :=
  fun i hi => ready_of (List.all_eq_true.1 h i hi)

def readyForB (s : State) (t g : Nat) (i : Instr) : Bool :=
  issuingB s t g && (match namesOf i with
    | some n => declaredB s t n.hdr n.regs && n.tiles.all fun k => decide (k < (s.launchOf t).accs)
    | none => true)
theorem readyFor_of {s : State} {t g : Nat} {i : Instr} (h : readyForB s t g i = true) : ReadyFor i s t g := by
  simp only [readyForB, Bool.and_eq_true] at h
  refine ⟨issuing_of h.1, fun n hn => ?_⟩
  have := h.2
  simp only [hn, Bool.and_eq_true, List.all_eq_true, decide_eq_true_eq] at this
  exact ⟨declared_of this.1, this.2⟩

theorem all_readyFor {s : State} {t g : Nat} {l : List Instr} (h : l.all (readyForB s t g) = true) : ∀ i ∈ l, ReadyFor i s t g :=
  fun i hi => readyFor_of (List.all_eq_true.1 h i hi)

def actsB (s : State) (t g : Nat) (h : Hdr) (i : Instr) : Bool :=
  legal i && readyForB s t g i && (eligible s t g h != 0) && s.buffer == []
theorem acts_of {s : State} {t g : Nat} {h : Hdr} {i : Instr} (ha : actsB s t g h i = true) : Acts i s t g h := by
  simp only [actsB, Bool.and_eq_true, bne_iff_ne, beq_iff_eq] at ha
  exact ⟨ha.1.1.1, readyFor_of ha.1.1.2, ha.1.2⟩
theorem all_act {s : State} {t g : Nat} {h : Hdr} {l : List Instr} (ha : l.all (actsB s t g h) = true) :
    ∀ i ∈ l, Acts i s t g h := fun i hi => acts_of (List.all_eq_true.1 ha i hi)

/-- What holds of each group listed, and of an absent one, holds of every group. -/
theorem grp_all {p : Group → Prop} {s : State} {t : Nat} (h : ∀ x ∈ (s.team t).groups, p x) (h0 : p {}) (g : Nat) : p (s.grp t g) := by
  unfold State.grp Team.group
  rw [List.getD_eq_getElem?_getD]
  by_cases hg : g < (s.team t).groups.length
  · rw [List.getElem?_eq_getElem hg]; exact h _ (List.getElem_mem hg)
  · rw [List.getElem?_eq_none (by omega)]; exact h0
/-- No group of the team waits. -/
def idleB (s : State) (t : Nat) : Bool := (s.team t).groups.all fun x => x.waits == []
theorem no_waits {s : State} {t : Nat} (h : idleB s t = true) (g : Nat) : (s.grp t g).waits = [] :=
  grp_all (p := fun x => x.waits = []) (fun x hx => by simpa using List.all_eq_true.1 h x hx) rfl g
theorem noneWaits_of {s : State} {t b : Nat} (h : idleB s t = true) (hw : (s.team t).seq.wait.isNone = true) : NoneWaits s t b := by
  refine ⟨fun k ⟨w, hm, _⟩ => ?_, fun x hx => ?_⟩
  · rw [no_waits h] at hm; cases hm
  · rw [hx] at hw; cases hw
theorem noPush_of {s : State} {t n : Nat} (h : idleB s t = true) : NoPush s t n := fun g w hm => by
  rw [no_waits h] at hm; cases hm

/-- What a check finds of every lane that acts. -/
theorem acting_all {s : State} {t g : Nat} {h : Hdr} {d : Reg} {p : Nat → Prop}
    (hp : ∀ l ∈ List.range 32, (eligible s t g h).getLsbD l = true → (regUni d = true → l = lowest (eligible s t g h)) → p l) :
    ∀ l, Acting s t g h d l → p l := fun l ⟨⟨h1, h2⟩, h3⟩ => hp l (List.mem_range.2 h1) h2 h3

/-! Translation of the addresses that the tables map, whatever else memory holds. -/

theorem pageIn_congr {s s' : State} {r : Option Nat} {va : Nat} (hpart : s'.part 0 = s.part 0) (hpop : populated s' = populated s)
    (hres : resolve s' 0 = resolve s 0) (hr : r.getD (s.part 0).root = 0x10000) (h0 : s.mem.readLe 0x10000 8 = 0x11001)
    (h1 : s'.mem.readLe 0x10000 8 = 0x11001) (hva : va < 2 ^ 31) {E : Nat}
    (hE : s.mem.readLe (0x11000 + 8 * (va / 2 ^ 30)) 8 = E) (hE' : s'.mem.readLe (0x11000 + 8 * (va / 2 ^ 30)) 8 = E)
    (h3 : bitOf E 1 = true) (h4 : bitOf E 5 = false) (h5 : bitOf E 56 = false) : pageIn s' 0 r va = pageIn s 0 r va := by
  have f1 : fld va 39 18 = 0 := by simp only [fld, Nat.shiftRight_eq_div_pow]; omega
  have f2 : fld va 30 9 = va / 2 ^ 30 := by simp only [fld, Nat.shiftRight_eq_div_pow]; omega
  have ha : entryAddr 0x11001 = 0x11000 := by decide
  have hok1 : populated s (s.part 0) (0x11000 + 8 * (va / 2 ^ 30)) = true := by
    have hlt : 0x11000 + 8 * (va / 2 ^ 30) < hbmTop := by unfold hbmTop; omega
    simp only [populated, decide_eq_true hlt, Bool.true_or]
  have w : ∀ x : Memory, x.readLe 0x10000 8 = 0x11001 → x.readLe (0x11000 + 8 * (va / 2 ^ 30)) 8 = E →
      walkFrom x (populated s (s.part 0)) va levels true 0x10000 = if badEntry false E then none else some (E, 30) := by
    intro x hx hy
    have hok : populated s (s.part 0) 0x10000 = true := by simp [populated, hbmTop]
    have hb : badEntry false 0x11001 = false := by decide
    have hl : bitOf 0x11001 1 = false := by decide
    simp only [levels, walkFrom, f1, f2, Nat.mul_zero, Nat.add_zero, hx, hy, hok, hok1, hb, hl, ha, h3, List.isEmpty_cons,
      Bool.not_true, Bool.false_eq_true, if_false, if_true]
  unfold pageIn
  simp only [hpart, hpop, hres, hr, w _ h0 hE, w _ h1 hE']
  cases badEntry false E <;> simp only [h4, h5, if_true, if_false, Bool.false_eq_true]

/-- The bytes of the tables are as the tables say. -/
def TablesStand (m : Memory) : Prop := ∀ a, 0x10000 ≤ a → a < 0x11010 → m.get a = tables.get a

theorem TablesStand.readLe {m : Memory} (h : TablesStand m) (a n : Nat) (h1 : 0x10000 ≤ a) (h2 : a + n ≤ 0x11010) :
    m.readLe a n = Store.readLe tables a n := Store.readLe_congr n m tables a fun i hi => h _ (by omega) (by omega)

/-- A check of an access to mapped addresses does not depend on the rest of memory. -/
theorem check_congr {s s' : State} {w : Who} {k : Kind} {words : Bool} {va n : Nat} (hpart : s'.part 0 = s.part 0)
    (hpop : populated s' = populated s) (hres : resolve s' 0 = resolve s 0) (hr : w.root.getD (s.part 0).root = 0x10000) (hw : w.part = 0)
    (hs : TablesStand s.mem) (hm : TablesStand s'.mem) (hva : va + n < 2 ^ 31) :
    checkAccess s' w k words va n = checkAccess s w k words va n := by
  have e0 : Store.readLe tables 0x10000 8 = 0x11001 := by decide
  have hl : ∀ i < 2, bitOf (Store.readLe tables (0x11000 + 8 * i) 8) 1 = true ∧
      bitOf (Store.readLe tables (0x11000 + 8 * i) 8) 5 = false ∧ bitOf (Store.readLe tables (0x11000 + 8 * i) 8) 56 = false := by
    decide
  have key : ∀ q ∈ lineParts va n, pageIn s' w.part w.root q.1 = pageIn s w.part w.root q.1 := by
    intro q hq
    have hlt : q.1 < 2 ^ 31 := by
      unfold lineParts at hq
      split at hq
      · simp only [List.mem_singleton] at hq; subst hq; simp only; omega
      · simp only [List.mem_cons, List.not_mem_nil, or_false] at hq
        rcases hq with rfl | rfl <;> simp only <;> omega
    rw [hw]
    have d2 : q.1 / 2 ^ 30 < 2 := by omega
    obtain ⟨l1, l2, l3⟩ := hl _ d2
    have b1 : 0x10000 ≤ 0x11000 + 8 * (q.1 / 2 ^ 30) := by omega
    have b2 : 0x11000 + 8 * (q.1 / 2 ^ 30) + 8 ≤ 0x11010 := by omega
    have r1 := hs.readLe 0x10000 8 (by omega) (by omega)
    have r2 := hm.readLe 0x10000 8 (by omega) (by omega)
    rw [e0] at r1 r2
    exact pageIn_congr hpart hpop hres hr r1 r2 hlt (hs.readLe _ 8 b1 b2) (hm.readLe _ 8 b1 b2) l1 l2 l3
  have : (lineParts va n).map (fun q => (q.1, q.2, pageIn s' w.part w.root q.1)) =
      (lineParts va n).map fun q => (q.1, q.2, pageIn s w.part w.root q.1) :=
    List.map_congr_left fun q hq => by rw [key q hq]
  unfold checkAccess
  simp only [this]

/-- The pieces that the check gives. -/
def piecesAt (s : State) (t g : Nat) (k : Kind) (words : Bool) (n : Nat) (addr : Nat → Nat) (l : Nat) : List Piece :=
  match checkAccess s (whoGroup s t g) k words (addr l) n with
  | .ok ps => ps
  | .error _ => []

def ordinaryB (s : State) (t : Nat) (k : Kind) (ps : List Piece) : Bool :=
  ps.all fun e => !isRemote e.1.pa && !isDev e.1.pa && e.1.cache != 2 && (!k.writes || !needsCopy s e.1) &&
    (match homeDie (s.partOf t) e.1.pa with
      | some d => !(s.die d).lost && (s.die d).linkState == 0
      | none => true)
theorem ordinary_of {s : State} {t : Nat} {k : Kind} {ps : List Piece} (h : ordinaryB s t k ps = true)
    (hl : (s.die (s.team t).die).linkState = 0) : OrdinaryPieces s t k ps := by
  intro e he
  have := List.all_eq_true.1 h e he
  simp only [Bool.and_eq_true, Bool.not_eq_true', bne_iff_ne, Bool.or_eq_true] at this
  obtain ⟨⟨⟨⟨h1, h2⟩, h3⟩, h4⟩, h5⟩ := this
  refine ⟨h1, h2, h3, fun hw => by simpa [hw] using h4, fun d hd => ?_⟩
  rw [hd] at h5
  simp only [Bool.and_eq_true, Bool.not_eq_true', beq_iff_eq] at h5
  exact ⟨h5.1, h5.2, hl⟩

/-- Lane l's access passes, on ordinary memory apart from the tables. -/
def passB (s : State) (t g : Nat) (k : Kind) (words : Bool) (n : Nat) (addr : Nat → Nat) (l : Nat) : Bool :=
  (match checkAccess s (whoGroup s t g) k words (addr l) n with
    | .ok ps => ordinaryB s t k ps && ps.all fun e => decide (e.1.pa + e.2 ≤ 0x10000) || decide (0x11010 ≤ e.1.pa)
    | .error _ => false) && decide (addr l + n < 2 ^ 31)
/-- The state's own part of Passes. -/
def standsB (s : State) (t : Nat) : Bool :=
  s.ecc == [] && s.buffer == [] && (s.launchOf t).ctxRoot.getD (s.part 0).root == 0x10000 && (s.launchOf t).part == 0 && (s.die (s.team t).die).linkState == 0

theorem passes_of {s : State} {t g : Nat} {h : Hdr} {d : Reg} {k : Kind} {words : Bool} {n : Nat} {addr : Nat → Nat}
    (hs : standsB s t = true) (hm : TablesStand s.mem)
    (hp : ∀ l ∈ List.range 32, (eligible s t g h).getLsbD l = true → (regUni d = true → l = lowest (eligible s t g h)) →
      passB s t g k words n addr l = true) :
    Passes s t g h d k words n addr (piecesAt s t g k words n addr) := by
  simp only [standsB, Bool.and_eq_true, beq_iff_eq] at hs
  obtain ⟨⟨⟨⟨h1, h2⟩, h3⟩, h4⟩, h5⟩ := hs
  refine ⟨by simpa using h1, by simpa using h2, fun l hl => ?_⟩
  have hact := acting_all hp
  have at_ : ∀ l', Acting s t g h d l' → ∃ ps, checkAccess s (whoGroup s t g) k words (addr l') n = .ok ps ∧
      piecesAt s t g k words n addr l' = ps ∧ ordinaryB s t k ps = true ∧
      (∀ e ∈ ps, e.1.pa + e.2 ≤ 0x10000 ∨ 0x11010 ≤ e.1.pa) ∧ addr l' + n < 2 ^ 31 := by
    intro l' hl'
    have := hact l' hl'
    unfold passB at this
    unfold piecesAt
    cases hc : checkAccess s (whoGroup s t g) k words (addr l') n with
    | error e => simp [hc] at this
    | ok ps =>
      simp only [hc, Bool.and_eq_true, List.all_eq_true, Bool.or_eq_true, decide_eq_true_eq] at this
      exact ⟨ps, rfl, rfl, this.1.1, this.1.2, this.2⟩
  obtain ⟨ps, c1, c2, c3, -, c5⟩ := at_ l hl
  refine ⟨c2 ▸ ordinary_of c3 h5, fun m hmm => ?_⟩
  have hm' : TablesStand m := by
    rcases hmm with rfl | ⟨-, hk⟩
    · exact hm
    · intro a ha hb
      rw [hk a fun l' hl' ⟨e, he, e1, e2⟩ => ?_]
      · exact hm a ha hb
      · obtain ⟨ps', d1, d2, -, d4, -⟩ := at_ l' hl'
        rw [d2] at he
        have := d4 e he
        omega
  rw [check_congr (s := s) (s' := { s with mem := m }) rfl rfl rfl h3 h4 hm hm' c5, c1, c2]
theorem tables_st (x : Team) : TablesStand (st x).mem := fun _ _ _ => rfl

/-! For every statement, states and operands that meet its hypotheses. -/

/-! Register forms: every register declared, MODE.TEST set, no lane exited. -/

def T : State := one { gr with mode := 4 }

theorem witness_RegisterFormsComplete : ∀ i ∈ [Instr.nop h0 .none, .bra h0 64, .jmpi h0 (.v 2), .ret h0 (.v 2), .call h0 6 64,
      .callI h0 6 (.v 2), .rngC h0 255, .rngSStep h0 255, .rngSReseed h0 255 1, .sysrd h0 (.v 2) 0x100],
    (formOf i).isSome = true ∧ Ready i T 0 0 :=
  fun i hi => ⟨by revert i; decide +kernel, all_ready (by decide +kernel) i hi⟩

theorem witness_AddSubtractResults : (intTy .i8 = true ∧ intTy .i64 = true) ∧
    ∀ i ∈ [Instr.iadd h0 .i8 true (.v 255) (.v 4) (.reg (.v 4)), .isub h0 .i64 false (.s 62) (.s 4) (.reg (.s 4)),
      .iaddCc h0 .n32 (.v 9) (.v 4) (.reg (.v 5)) 7, .isubCc h0 .n32 (.v 9) (.v 4) (.reg (.v 5)) 7],
    legal i = true ∧ Ready i T 0 0 :=
  ⟨by decide, fun i hi => ⟨by revert i; decide +kernel, all_ready (by decide +kernel) i hi⟩⟩

theorem witness_MultiplyResults : (intTy .n16 = true ∧ wideIntTy .i64 = true ∧ int32Ty .i32 = true) ∧
    ∀ i ∈ [Instr.imulLo h0 .n16 true (.v 6) (.v 4) (.reg (.v 4)), .imadLo h0 .n16 false (.v 6) (.v 4) (.reg (.v 4)) (.v 4),
      .imulHi h0 .i64 (.v 254) (.v 4) (.reg (.v 6)), .imadHi h0 .i64 (.v 254) (.v 4) (.reg (.v 6)) (.v 8),
      .imulWide h0 .i32 (.v 254) (.v 4) (.imm 7), .imadWide h0 .i32 (.v 254) (.v 4) (.reg (.v 255)) (.v 4)], Ready i T 0 0 :=
  ⟨by decide, all_ready (by decide +kernel)⟩

theorem witness_ShiftResults : (bitTy .b32 = true ∧ bitTy .b64 = true) ∧
    ∀ i ∈ [Instr.shfL h0 .b64 (.v 6) (.v 4) (.reg (.v 4)), .shfR h0 .b64 (.v 6) (.v 4) (.imm 64), .shfRa h0 .b32 (.v 6) (.v 4) (.imm 99),
      .shfRol h0 .b32 (.v 6) (.v 4) (.imm 33), .shfLf h0 (.v 6) (.v 4) (.imm 32) (.v 5), .shfRf h0 (.v 6) (.v 4) (.imm 0) (.v 5)],
    Ready i T 0 0 := ⟨by decide, all_ready (by decide +kernel)⟩

theorem witness_CompareSelectResults : (intTy .i64 = true ∧ bitTy .b64 = true ∧ legal (.icmp h0 .i64 .lt 0 (.v 4) (.imm 9)) = true) ∧
    ∀ i ∈ [Instr.icmp h0 .i64 .lt 0 (.v 4) (.imm 9), .imnmxMin h0 .i64 (.v 8) (.v 4) (.imm 0x80000000), .imnmxMax h0 .i64 (.v 8) (.v 4) (.imm 1),
      .sel h0 .b64 (.v 8) (.v 4) (.reg (.v 6)) 7], Ready i T 0 0 := ⟨by decide +kernel, all_ready (by decide +kernel)⟩

theorem witness_BitResults : (bitTy .b32 = true ∧ wideIntTy .n64 = true) ∧
    ∀ i ∈ [Instr.ltab h0 .b32 0xE8 (.v 6) (.v 4) (.reg (.v 4)) (.v 5), .plop h0 0x96 7 1 2 3, .bfe h0 .n64 (.v 6) (.v 4) (.imm 0x4001),
      .bfi h0 .b32 (.v 6) (.v 4) (.imm 0x801F) (.v 5), .bitsPopc h0 .b32 (.v 6) (.v 4), .bitsClz h0 .b32 (.v 6) (.v 4),
      .bitsCtz h0 .b32 (.v 6) (.v 4), .bitsBrev h0 .b32 (.v 6) (.v 4)], Ready i T 0 0 := ⟨by decide, all_ready (by decide +kernel)⟩

theorem witness_MoveResults : (bitTy .b64 = true ∧ legal (.lea h0 .i64 7 (.v 6) (.v 4) (.imm 5)) = true) ∧
    ∀ i ∈ [Instr.mov h0 .b64 (.v 254) (.s 62), .movP2v h0 255, .movV2p h0 (.v 4), .moviVector h0 255 5, .moviVectorPair h0 254 5,
      .moviUniform h0 63 5, .moviUniformPair h0 62 5, .lea h0 .i64 7 (.v 6) (.v 4) (.imm 5),
      .dp4 h0 true false true (.v 6) (.v 4) (.imm 5) (.v 7)], Ready i T 0 0 := ⟨by decide +kernel, all_ready (by decide +kernel)⟩

theorem witness_FloatCompareResults : legal (.fcmp h0 .lt true 1 (.v 4) (.imm 0x7FC00000)) = true ∧
    ∀ i ∈ [Instr.fmnmxMin h0 true (.v 6) (.v 4) (.imm 0x7FC00000), .fmnmxMax h0 true (.v 6) (.v 4) (.imm 0x7FC00000),
      .fcmp h0 .lt true 1 (.v 4) (.imm 0x7FC00000)], Ready i T 0 0 := ⟨by decide +kernel, all_ready (by decide +kernel)⟩

/-- Each form can run; NaN, an infinity, a finite number, a zero and a subnormal of each format that has them; a value that
rounds to an infinity and one that does not. -/
theorem witness_FloatArithmeticRoundsOnce :
    (legal (.fadd h0 .rdn true (.v 6) (.v 4) (.imm 0x3F800000)) = true ∧
      ∀ i ∈ [Instr.fadd h0 .rdn true (.v 6) (.v 4) (.imm 0x3F800000), .fmul h0 .rdn true (.v 6) (.v 4) (.imm 0x3F800000),
        .ffma h0 .rdn true (.v 6) (.v 4) (.imm 0x3F800000) (.v 5), .fma2 h0 .rdn true (.v 6) (.v 4) (.imm 0x3F800000) (.v 5)], Ready i T 0 0) ∧
    (∀ x ∈ [(Ty.bf16, Ty.i64), (.i64, .f32), (.f32, .f32), (.f32, .bf16), (.e4m3, .f32), (.e5m2, .n8), (.n8, .e5m2)],
      legal (.cvt h0 x.1 x.2 false .rup false (.v 6) (.v 4)) = true ∧ Ready (.cvt h0 x.1 x.2 false .rup false (.v 6) (.v 4)) T 0 0) ∧
    (∀ i ∈ [Instr.frnd h0 .rup true (.v 6) (.v 4), .xrnd h0 .rup (.v 6) (.v 4), .ffnRcp h0 .rne true (.v 6) (.v 4),
      .ffnSqrt h0 .rne true (.v 6) (.v 4), .ffnRsqrt h0 .rne true (.v 6) (.v 4), .ffnExp2 h0 .rne true (.v 6) (.v 4),
      .ffnLog2 h0 .rne true (.v 6) (.v 4), .ffnSinpi h0 .rne true (.v 6) (.v 4), .ffnCospi h0 .rne true (.v 6) (.v 4)], Ready i T 0 0) ∧
    (∀ f ∈ [fmtF32, fmtBf16, fmtE4m3, fmtE5m2], NanIn f f.nanBits ∧ (f.noInf = false → InfIn f f.infBits) ∧ FinIn f f.maxBits ∧ FinIn f 0 ∧
      valueOf f 0 = 0 ∧ FinIn f 1 ∧ flushIn f true (f.top + 1) = f.top ∧ flushIn f false 1 = 1) ∧
    (Beyond fmtF32 .rtz (2 ^ 128) ∧ ¬Beyond fmtF32 .rtz 1) ∧ (Claims.Finite 0x80000001 ∧ units 0x80000001 < 0 ∧ 0 < units 1 ∧ Nan 0xFFC00000 ∧ Inf 0xFF800000) := by
  have hm : valueOf fmtF32 fmtF32.maxBits = 2 ^ 128 - 2 ^ 104 := by
    rw [show fmtF32.maxBits = 0x7F7FFFFF from by decide]
    norm_num [valueOf, negIn, fmtF32, Fmt.emin, Nat.testBit, Nat.shiftRight_eq_div_pow]
  have hu : topGap fmtF32 = 2 ^ 104 := by norm_num [topGap, fmtF32, Fmt.emin]
  refine ⟨⟨by decide +kernel, all_ready (by decide +kernel)⟩, fun x hx => ⟨by revert x; decide +kernel, ready_of (by revert x; decide +kernel)⟩,
    all_ready (by decide +kernel), ?_, ⟨?_, ?_⟩, by unfold Claims.Finite; decide, by decide +kernel, by decide +kernel, by unfold Nan; decide, by unfold Inf; decide⟩
  · intro f hf
    have hd : ∀ f ∈ [fmtF32, fmtBf16, fmtE4m3, fmtE5m2], NanIn f f.nanBits ∧ (f.noInf = false → InfIn f f.infBits) ∧ FinIn f f.maxBits ∧ FinIn f 0 ∧
        FinIn f 1 ∧ flushIn f true (f.top + 1) = f.top ∧ flushIn f false 1 = 1 := by
      unfold NanIn InfIn FinIn flushIn
      decide +kernel
    obtain ⟨h1, h2, h3, h4, h5, h6, h7⟩ := hd f hf
    exact ⟨h1, h2, h3, h4, by simp [valueOf], h5, h6, h7⟩
  · show ((valueOf fmtF32 fmtF32.maxBits : ℚ) : ℝ) + ((topGap fmtF32 : ℚ) : ℝ) ≤ |2 ^ 128|
    rw [hm, hu]
    norm_num
  · show ¬((valueOf fmtF32 fmtF32.maxBits : ℚ) : ℝ) + ((topGap fmtF32 : ℚ) : ℝ) ≤ |1|
    rw [hm, hu]
    norm_num

theorem witness_ExactSumResults : opdAligned 1 false (.imm 0x3F800000) = true ∧
    ∀ i ∈ [Instr.xaccX128 h0 (.v 252) (.v 4) (.v 8), .xaccF32 h0 (.v 252) (.v 4) (.imm 0x3F800000)], Ready i T 0 0 :=
  ⟨by decide, all_ready (by decide +kernel)⟩

theorem witness_LaneExchangeResults : opdAligned 1 false (.imm 31) = true ∧
    ∀ i ∈ [Instr.shflIdx h0 .b64 6 4 (.imm 31) 1, .shflUp h0 .b64 6 4 (.imm 31) 1, .shflDown h0 .b64 6 4 (.imm 31) 1,
      .shflXor h0 .b64 6 4 (.imm 31) 1, .ballot h0 (.v 6) (.v 4) (.imm 31), .voteAll h0 1 2, .voteAny h0 0 2, .voteUni h0 1 0],
    Ready i T 0 0 := ⟨by decide, all_ready (by decide +kernel)⟩

theorem witness_ReductionResults : (wideIntTy .i32 = true ∧ bitTy .b64 = true) ∧
    ((participants T 0 0 h0 (.v 4) 1).length = 32 ∧ (participants (one { gr1 with mode := 4 }) 0 0 h0 (.v 4) 1).length = 1) ∧
    ∀ i ∈ [Instr.lredAdd h0 .f32 (.s 6) (.v 4), .lredMin h0 .f32 (.s 6) (.v 4), .lredMax h0 .f32 (.s 6) (.v 4), .lredAdd h0 .x128 (.s 8) (.v 4),
      .lredAdd h0 .i32 (.s 6) (.v 4), .lredMin h0 .i32 (.s 6) (.v 4), .lredMax h0 .i32 (.s 6) (.v 4),
      .lredAnd h0 .b64 (.s 6) (.v 4), .lredOr h0 .b64 (.s 6) (.v 4), .lredXor h0 .b64 (.s 6) (.v 4)], Ready i T 0 0 :=
  ⟨by decide, by decide +kernel, all_ready (by decide +kernel)⟩

theorem witness_RandomAndByteResults : opdAligned 1 false (.imm 0x07060504) = true ∧
    ∀ i ∈ [Instr.rngC h0 6, .rngCx h0 6 4, .rngSStep h0 6, .rngSReseed h0 6 0, .bsel h0 (.v 6) (.v 4) (.imm 0x1F0E0D0C) (.v 5)],
    Ready i T 0 0 := ⟨by decide, all_ready (by decide +kernel)⟩

/-! Traps and control. -/

/-- A trap for the handler; one for the supervisor; one in handler mode. -/
theorem witness_TakingTraps : (Exists S 0 1 ∧ HasPart S 0 ∧ routeS 0x07 = false ∧ routeS 0x03 = true) ∧
    (Exists (one { gr with handler := true }) 0 0 ∧ HasPart (one { gr with handler := true }) 0 ∧
      ((one { gr with handler := true }).grp 0 0).ended = false ∧ ((one { gr with handler := true }).grp 0 0).handler = true) ∧
    (Exists (one { gr with ended := true }) 0 0 ∧ HasPart (one { gr with ended := true }) 0 ∧
      ((one { gr with ended := true }).grp 0 0).ended = true) ∧
    ((S.grp 0 0).ended = false ∧ (S.grp 0 0).handler = false ∧ (S.team 0).trapBase ≠ 0) ∧
    ((st { tm with trapBase := 0 }).team 0).trapBase = 0 := by
  unfold Claims.Exists HasPart; decide +kernel

def inHandler : Group :=
  { gr with handler := true, tlanes := 1, tpc := 0x40010,
            waits := [{ lanes := 0x80000000, pc := 0x40020, next := 0x40028, order := 0, kind := .tile 1, held := true, running := true },
                      { lanes := 2, pc := 0x70000, next := 0x70008, order := 1, kind := .tile 2 }] }

theorem witness_ReturnFromTrap : legal (.rft h0) = true ∧
    (Issuing S 0 0 ∧ Declared S 0 h0 [] ∧ (S.grp 0 0).handler = false ∧ HasPart S 0) ∧
    (Issuing (one inHandler) 0 0 ∧ Declared (one inHandler) 0 h0 [] ∧ ((one inHandler).grp 0 0).handler = true ∧
      ((one inHandler).team 0).heldTrap = none ∧ (∀ w ∈ ((one inHandler).grp 0 0).waits, w.done = none) ∧
      heldAt ((one inHandler).grp 0 0) 31 ∧ ¬heldAt ((one inHandler).grp 0 0) 1 ∧ ¬heldAt ((one inHandler).grp 0 0) 0) := by
  refine ⟨by decide, ⟨issuing_of (by decide +kernel), declared_of (by decide +kernel), by decide +kernel, by unfold HasPart; decide +kernel⟩,
    issuing_of (by decide +kernel), declared_of (by decide +kernel), ?_⟩
  unfold heldAt
  decide +kernel

/-- All of I agree; they disagree, without and with UVT. -/
theorem witness_UniformBranch : ∀ m : Word, m = 0 ∨ m = 1 → ∀ h ∈ [h0, ⟨1, false, none⟩],
    let s := one { gr with mode := m, p := [(1, 1)] }
    Issuing s 0 0 ∧ Declared s 0 h [] ∧ HasPart s 0 ∧ eligible s 0 0 h ≠ 0 ∧
      ((∀ l < 32, (eligible s 0 0 h).getLsbD l = true) ∨ (eligible s 0 0 h).getLsbD 1 = false) := by
  intro m hm h hh
  rcases hm with rfl | rfl <;> simp only [List.mem_cons, List.not_mem_nil, or_false] at hh <;> rcases hh with rfl | rfl <;>
    exact ⟨issuing_of (by decide +kernel), declared_of (by decide +kernel), by unfold HasPart; decide +kernel, by decide +kernel, by decide +kernel⟩

theorem witness_ExitEndsLanes :
    (Issuing S 0 0 ∧ Declared S 0 h0 [] ∧ eligible S 0 0 h0 ≠ 0 ∧ (S.grp 0 0).exited ||| eligible S 0 0 h0 = -1 ∧
      ∀ k : Nat, ¬∃ x : Tile, (S.team 0).tiles[k]? = some x ∧ x.state = .group 0) ∧
    (let s := st { tm with tiles := [{ state := .seq }, { state := .group 0 }] }
     Issuing s 0 0 ∧ Declared s 0 h0 [] ∧ HasPart s 0 ∧ eligible s 0 0 h0 ≠ 0 ∧ (s.grp 0 0).exited ||| eligible s 0 0 h0 = -1 ∧
      (∃ x : Tile, (s.team 0).tiles[1]? = some x ∧ x.state = .group 0) ∧ ∀ j < 1, ¬∃ x : Tile, (s.team 0).tiles[j]? = some x ∧ x.state = .group 0) := by
  refine ⟨⟨issuing_of (by decide +kernel), declared_of (by decide +kernel), by decide +kernel, by decide +kernel, fun k ⟨x, hx, hs⟩ => ?_⟩,
    issuing_of (by decide +kernel), declared_of (by decide +kernel), by unfold HasPart; decide +kernel, by decide +kernel, by decide +kernel,
    ⟨_, rfl, rfl⟩, fun j hj ⟨x, hx, hs⟩ => ?_⟩
  · have : x ∈ List.replicate 8 ({ state := .seq } : Tile) := List.mem_of_getElem? hx
    rw [List.eq_of_mem_replicate this] at hs; cases hs
  · have : j = 0 := by omega
    subst this
    have : x = { state := .seq } := (Option.some.inj hx).symm
    rw [this] at hs; cases hs

/-- Others to wait for; none; a wait that the group's issue shortens; one that is not over; a YIELD whose others have moved. -/
theorem witness_YieldParksUntilOthersMove :
    (let s := one { gr with p := [(1, 1)] }
     Issuing s 0 0 ∧ Declared s 0 ⟨1, false, none⟩ [] ∧ eligible s 0 0 ⟨1, false, none⟩ ≠ 0 ∧
      (s.grp 0 0).active &&& ~~~(eligible s 0 0 ⟨1, false, none⟩) ≠ 0) ∧
    (Issuing S 0 0 ∧ Declared S 0 h0 [] ∧ eligible S 0 0 h0 ≠ 0 ∧ (S.grp 0 0).active &&& ~~~(eligible S 0 0 h0) = 0) ∧
    (let x : Wait := { lanes := 1, pc := 8, next := 16, order := 0, kind := .yield 0x80000000 }
     let s := { one { gr with waits := [x] } with tick := 1 }
     Issuing s 0 0 ∧ Declared s 0 h0 [] ∧ (s.grp 0 0).waits[0]? = some x ∧ x.order < s.tick ∧ x.kind = .yield 0x80000000 ∧ (0x80000000 : Lanes) ≠ 0) ∧
    (let x : Wait := { lanes := 1, pc := 8, next := 8, order := 0, kind := .yield 0 }
     let s := one { gr with waits := [x] }
     Exists s 0 0 ∧ (s.grp 0 0).waits[0]? = some x ∧ x.kind = .yield 0 ∧ x.done = none ∧ x.held = false ∧
      (s.grp 0 0).stopped = none ∧ (s.grp 0 0).taken = none ∧ (s.team 0).phase = .resident) := by
  refine ⟨⟨issuing_of (by decide +kernel), declared_of (by decide +kernel), by decide +kernel, by decide +kernel⟩,
    ⟨issuing_of (by decide +kernel), declared_of (by decide +kernel), by decide +kernel, by decide +kernel⟩,
    ⟨issuing_of (by decide +kernel), declared_of (by decide +kernel), by decide +kernel⟩, ?_⟩
  unfold Claims.Exists; decide +kernel

theorem witness_SoftwareTrap :
    (HasPart S 0 ∧ Issuing S 0 0 ∧ Declared S 0 h0 [] ∧ eligible S 0 0 h0 ≠ 0) ∧
    (let s := sqs id
     HasPart s 0 ∧ s.cur = .seq 0 ∧ canSeq s 0 = true ∧ (s.team 0).seq.running = [] ∧ (s.team 0).seq.stage = none) := by
  refine ⟨⟨by unfold HasPart; decide +kernel, issuing_of (by decide +kernel), declared_of (by decide +kernel), by decide +kernel⟩, ?_⟩
  unfold HasPart; decide +kernel

/-- With rights every register, without them DRAW, and MODE of UVT alone; the traps; an empty E; a stopped sequencer. -/
theorem witness_SystemRegisterWrites :
    (∀ n ∈ [0x040, 0x041, 0x050, 0x051, 0x052, 0x053, 0x054, 0x055, 0x056, 0x057, 0x062, 0x070, 0x071, 0x072, 0x101, 0x000],
      let id := BitVec.ofNat 12 n
      let s := one { gr with handler := true }
      legal (.syswr h0 id (.v 2)) = true ∧ Issuing s 0 0 ∧ Declared s 0 h0 [(.v 2, sysRegs id)] ∧ mayWrite s 0 0 h0 id (.v 2) ∧
        eligible s 0 0 h0 ≠ 0) ∧
    (mayWrite S 0 0 h0 0x071 (.v 4) ∧ mayWrite S 0 0 h0 0x041 (.v 9) ∧ ¬Rights S 0 0 ∧ HasPart S 0) ∧
    -- s2 would set FTZ
    (let s := one { gr with s := [(2, 2)] }
     legal (.syswr h0 0x041 (.s 2)) = true ∧ Issuing s 0 0 ∧ Declared s 0 h0 [(.s 2, 1)] ∧ ¬mayWrite s 0 0 h0 0x041 (.s 2) ∧
       eligible s 0 0 h0 ≠ 0 ∧ HasPart s 0 ∧ Declared s 0 h0 [(.v 255, 1)] ∧ (s.grp 0 0).mode.getLsbD 2 = false) ∧
    (let h : Hdr := ⟨1, false, none⟩
     Issuing S 0 0 ∧ Declared S 0 h [(.v 2, 1)] ∧ eligible S 0 0 h = 0) ∧
    (let s := st { tm with seq := { sq with stat := 2 } }
     Issuing s 0 0 ∧ Declared s 0 h0 [(.v 5, 1)] ∧ eligible s 0 0 h0 ≠ 0 ∧ bitOf (s.team 0).seq.stat.toNat 1 = true) := by
  refine ⟨fun n hn => ⟨by revert n; decide +kernel, issuing_of (by decide +kernel), declared_of (by revert n; decide +kernel), ?_,
    by decide +kernel⟩, ?_, ⟨by decide +kernel, issuing_of (by decide +kernel), declared_of (by decide +kernel), by unfold mayWrite Rights; decide +kernel,
    by decide +kernel, by unfold HasPart; decide +kernel, declared_of (by decide +kernel), by decide +kernel⟩,
    ⟨issuing_of (by decide +kernel), declared_of (by decide +kernel), by decide +kernel⟩,
    issuing_of (by decide +kernel), declared_of (by decide +kernel), by decide +kernel⟩
  · revert n; unfold mayWrite Rights; decide +kernel
  · unfold mayWrite Rights HasPart; decide +kernel

theorem witness_SystemRegisterReads :
    (∀ n ∈ [0x000, 0x001, 0x005, 0x006, 0x00B, 0x010, 0x020, 0x021, 0x022, 0x023, 0x024, 0x028, 0x029, 0x02A, 0x02B, 0x031, 0x040, 0x050, 0x052, 0x060, 0x071, 0x080, 0x081, 0x100, 0x101],
      let id := BitVec.ofNat 12 n
      legal (.sysrd h0 (.v 6) id) = true ∧ Ready (.sysrd h0 (.v 6) id) S 0 0 ∧ (systemValue S 0 0 0 id.toNat).isSome = true) ∧
    (Issuing S 0 0 ∧ Declared S 0 h0 [(.s 6, 1)] ∧ (S.grp 0 0).formed = false) ∧
    (let s := one { gr with formed := true, serial := true }
     Issuing s 0 0 ∧ Declared s 0 h0 [(.v 6, 1)] ∧ (s.grp 0 0).formed = true) ∧
    (legal (.sysrd h0 (.v 6) 0x030) = true ∧ Ready (.sysrd h0 (.v 6) 0x030) S 0 0) ∧
    (Ready (.sysrd h0 (.v 6) 0x002) S 0 0 ∧ 0 < (S.launchOf 0).gx ∧ 0 < (S.launchOf 0).gy ∧ (S.team 0).linear < (S.launchOf 0).teamCount ∧
      (S.launchOf 0).teamCount < 2 ^ 32) :=
  ⟨fun n hn => ⟨by revert n; decide +kernel, ready_of (by revert n; decide +kernel), by revert n; decide +kernel⟩,
    ⟨issuing_of (by decide +kernel), declared_of (by decide +kernel), by decide +kernel⟩,
    ⟨issuing_of (by decide +kernel), declared_of (by decide +kernel), by decide +kernel⟩, ⟨by decide +kernel, ready_of (by decide +kernel)⟩,
    ready_of (by decide +kernel), by decide +kernel⟩

/-! Encoding, steps. -/

theorem witness_DecodeEncode : (Instr.iadd h0 .i32 false (.v 4) (.v 2) (.imm 0x100)).WellFormed ∧
    encode (.iadd h0 .i32 false (.v 4) (.v 2) (.imm 0x100)) = some (bytesOf 12 (ext 0x0400000002040041 0x100)) ∧
    wholeInstr false (bytesOf 12 (ext 0x0400000002040041 0x100)) = some (bytesOf 12 (ext 0x0400000002040041 0x100)) ∧
    decode false (bytesOf 12 (ext 0x0400000002040041 0x100)) = .ok (.iadd h0 .i32 false (.v 4) (.v 2) (.imm 0x100)) := by decide +kernel

theorem witness_EncodeDecode : wholeInstr false (List.replicate 8 0) = some (List.replicate 8 0) ∧
    decode false (List.replicate 8 0) = .ok (.nop h0 .none) := by decide +kernel

/-- A group's next instruction, a sequencer's, a step of the part: memory that nothing has written holds NOPs. -/
def scheduled (m : Move) : State := { S with agenda := [m] }
def streamB (f : SeqFetch) (bs : List Byte) : Bool := match f with
  | .bytes s1 b => b == bs && !(s1.team 0).seq.endw
  | _ => false
theorem stream_of {f : SeqFetch} {bs : List Byte} (h : streamB f bs = true) : ∃ s1, f = .bytes s1 bs ∧ (s1.team 0).seq.endw = false := by
  unfold streamB at h
  split at h
  · simp only [Bool.and_eq_true, beq_iff_eq, Bool.not_eq_true'] at h
    exact ⟨_, by rw [h.1], h.2⟩
  · cases h
theorem witness_StepRunsDecoded :
    (let s := scheduled (.issue (.group 0 0))
     s.powered = true ∧ nextMove s = some (.issue (.group 0 0)) ∧ canIssue (beforeStep s) 0 0 = true ∧
      ((beforeStep s).grp 0 0).lost = 0 ∧ ((beforeStep s).grp 0 0).issuePc.toNat % 4 = 0 ∧
      ((beforeStep s).grp 0 0).issuePc.toNat % 32 ≠ 28 ∧
      gateLanes (ctxOf (beforeStep s) 0 0 ⟨0, false, none⟩ 8) .fetch false (32 - ((beforeStep s).grp 0 0).issuePc.toNat % 32)
        [((beforeStep s).grp 0 0).issuePc.toNat] (beforeStep s) = none ∧
      (fetchBytes (beforeStep s) 0 0 ((beforeStep s).grp 0 0).issuePc).2 = .ok (List.replicate 32 0) ∧
      wholeInstr false (List.replicate 32 0) = some (List.replicate 8 0) ∧
      decode false (List.replicate 8 0) = .ok (.nop h0 .none)) ∧
    (let s := scheduled (.issue (.seq 0))
     let b := beforeStep s
     let pc := (b.team 0).seq.pc
     s.powered = true ∧ nextMove s = some (.issue (.seq 0)) ∧ canSeq b 0 = true ∧ pc.toNat % 4 = 0 ∧ pc.toNat % 32 ≠ 28 ∧
      (∃ s1, fetchStream 0 pc 32 b = .bytes s1 (List.replicate 32 0) ∧ (s1.team 0).seq.endw = false) ∧
      wholeInstr true (List.replicate 32 0) = some (List.replicate 8 0) ∧ decode true (List.replicate 8 0) = .ok (.nop h0 .none)) ∧
    ((∃ ps, checkAccess S (whoLaunch (S.launchOf 0)) .fetch false 0x50000 32 = .ok ps ∧ S.ecc = [] ∧
        (∀ e ∈ ps, isRemote e.1.pa = false ∧ ∀ d, homeDie (S.partOf 0) e.1.pa = some d →
          (S.die d).lost = false ∧ (S.die d).linkState = 0 ∧ (S.die (S.team 0).die).linkState = 0)) ∧
      (S.team 0).seq.fetchWait = none ∧ ∃ s1, fetchStream 0 0x50000 32 S = .bytes s1 (List.replicate 32 0) ∧ (s1.team 0).seq.endw = false) ∧
    (let s := scheduled (.event (.dieHeartbeat 0))
     s.powered = true ∧ nextMove s = some (.event (.dieHeartbeat 0)) ∧ encode (.dieHeartbeat 0) = none) ∧
    (let e : EccErr := { source := 3, unit := 0, die := 0, team := none, addr := 0x20000, cls := 2 }
     let s := scheduled (.strike e)
     s.powered = true ∧ nextMove s = some (.strike e)) ∧
    (let s := scheduled (.soft 0 1 ⟨0, 4, 1, 2⟩)
     s.powered = true ∧ nextMove s = some (.soft 0 1 ⟨0, 4, 1, 2⟩) ∧ Exists s 0 1) := by
  refine ⟨by decide +kernel, ⟨by decide +kernel, by decide +kernel, by decide +kernel, by decide +kernel, by decide +kernel,
    stream_of (by decide +kernel), by decide +kernel⟩, ⟨⟨[(⟨0x50000, 0x50000, true, true, false, 0, 0, none, false, none⟩, 32)], by decide +kernel,
    by decide +kernel, fun e he => ?_⟩, by decide +kernel, stream_of (by decide +kernel)⟩, by decide +kernel, by decide +kernel,
    by unfold Claims.Exists; decide +kernel⟩
  simp only [List.mem_singleton] at he
  subst he
  have h0 : homeDie (S.partOf 0) 0x50000 = some 0 := by decide +kernel
  exact ⟨by decide, fun d hd => by rw [h0] at hd; cases hd; decide +kernel⟩

/-- The result of a step that answers a state. -/
def nextB (r : Res) : Bool := match r with
  | .next _ => true
  | _ => false
theorem next_of {r : Res} (h : nextB r = true) : ∃ s, r = .next s := by
  cases r with
  | next s => exact ⟨s, rfl⟩
  | fault f => cases h
  | refused f => cases h

theorem witness_StepKeepsSound : (scheduled (.issue (.group 0 0))).Sound ∧ ∃ s', core.step (scheduled (.issue (.group 0 0))) = .next s' :=
  ⟨by unfold State.Sound; decide +kernel, next_of (by decide +kernel)⟩

theorem witness_EmptyGuardOnlyAdvances : ∀ i ∈ [Instr.ld ⟨1, false, none⟩ .f32 .ordinary .dflt .normal (.v 6) ⟨.v 8, .plain⟩,
      .exit ⟨1, false, none⟩, .collStart ⟨1, false, none⟩ 2 3, .barSync ⟨0, true, none⟩ (.imm 99)],
    ∃ n, namesOf i = some n ∧ ReadyFor i S 0 0 ∧ eligible S 0 0 n.hdr = 0 := by
  intro i hi
  have hr := all_readyFor (s := S) (t := 0) (g := 0) (by decide +kernel) i hi
  simp only [List.mem_cons, List.not_mem_nil, or_false] at hi
  rcases hi with rfl | rfl | rfl | rfl <;> exact ⟨_, rfl, hr, by decide +kernel⟩

/-- A launch that declares 8 vector registers and nothing else. -/
def little : State := { one gr with launches := [{ la with pkt := 0 }] }
theorem witness_EncodingTraps :
    ((namesOf (.acq h0 0)).isSome = true ∧ Issuing little 0 0 ∧ ¬Declares little 0 ⟨h0, [], [0]⟩ ∧ namesOf (.acq h0 0) = some ⟨h0, [], [0]⟩ ∧
      HasPart little 0) ∧
    (∃ f, formOf (.movP2v h0 8) = some f ∧ ¬Declared little 0 f.hdr (f.reads ++ f.writes)) ∧
    (seqOnly .sqcwEnd = true ∧ Issuing S 0 0 ∧ HasPart S 0) ∧
    ((formOf (.movP2v h0 8)).isSome = true ∧ bothStreams (.movP2v h0 8) = false ∧ (sqs id).cur = .seq 0 ∧ canSeq (sqs id) 0 = true) := by
  refine ⟨⟨rfl, issuing_of (by decide +kernel), fun h => ?_, rfl, by unfold HasPart; decide +kernel⟩, ⟨_, rfl, fun h => ?_⟩,
    ⟨rfl, issuing_of (by decide +kernel), by unfold HasPart; decide +kernel⟩, by decide +kernel⟩
  · exact absurd (h.2 0 (by decide)) (by decide +kernel)
  · exact absurd (h.1 (.v 8, 1) (by decide)) (by decide +kernel)

theorem witness_SoftErrorTraps :
    ∀ e ∈ [(⟨0, 5, 1, 2⟩ : SoftErr), ⟨1, 5, 0, 2⟩, ⟨2, 1, 1, 2⟩, ⟨4, 0, 0x80000000, 2⟩],
      let s := one { gr with soft := [e], p := [(1, 0xFFFFFFFF)] }
      ∃ f ∈ [formAb ⟨1, false, none⟩ 1 (.v 6) (.v 5) (.reg (.s 5))],
        formOf (.fadd ⟨1, false, none⟩ .rne false (.v 6) (.v 5) (.reg (.s 5))) = some f.flagged ∧ f.rngs = false ∧ s.cur = .group 0 0 ∧
        canIssue s 0 0 = true ∧ Declared s 0 f.hdr (f.reads ++ f.writes) ∧ (Reg.v 5, 1) ∈ f.reads ∧ (Reg.s 5, 1) ∈ f.reads ∧
        (s.grp 0 0).soft = [e] ∧ e.sev = 2 ∧ f.hdr.pg = 1 ∧ eligible s 0 0 f.hdr = -1 ∧ (s.grp 0 0).issueSet = -1 ∧
        (s.grp 0 0).handler = false ∧ (s.team 0).trapBase ≠ 0 :=
  fun e he => ⟨_, List.mem_singleton.2 rfl, rfl, rfl, rfl, by revert e; decide +kernel, declared_of (by revert e; decide +kernel), by decide, by decide,
    rfl, by revert e; decide, rfl, by revert e; decide +kernel, by revert e; decide +kernel, rfl, by revert e; decide +kernel⟩

/-! Accesses. -/

/-- Lane l at 0x2007E + 4 l: the accesses cross a line. -/
def ad4 : Addr := ⟨.s 2, .full 0x7E (some (.v 4, 2))⟩
theorem witness_LoadResults :
    let i : Instr := .ld h0 .f32 .ordinary .dflt .normal (.v 6) ad4
    i.WellFormed ∧ ReadyFor i S 0 0 ∧ Passes S 0 0 h0 (.v 6) .read (bitTy .f32) (tyBytes .f32) (addressOf (S.grp 0 0) ad4)
      (piecesAt S 0 0 .read (bitTy .f32) (tyBytes .f32) (addressOf (S.grp 0 0) ad4)) :=
  ⟨by decide, readyFor_of (by decide +kernel), passes_of (by decide +kernel) (tables_st _) (by decide +kernel)⟩

theorem witness_StoreResults : ∀ o ∈ [Order.ordinary, .rlx, .rel],
    let i : Instr := .st h0 .b64 o .dflt .normal ad4 (.v 6)
    i.WellFormed ∧ ReadyFor i S 0 0 ∧ Passes S 0 0 h0 (.v 6) .write (bitTy .b64) (tyBytes .b64) (addressOf (S.grp 0 0) ad4)
      (piecesAt S 0 0 .write (bitTy .b64) (tyBytes .b64) (addressOf (S.grp 0 0) ad4)) :=
  fun o ho => ⟨by revert o; decide, readyFor_of (by revert o; decide +kernel),
    passes_of (by decide +kernel) (tables_st _) (by decide +kernel)⟩

theorem witness_AtomicResults : ∀ op ∈ [AtomOp.add, .min, .max, .and, .or, .xor, .exch, .cas],
    let ty : Ty := if op == .add || op == .min || op == .max then .i32 else .b32
    let ad : Addr := ⟨.s 2, .full 0 (some (.v 4, 2))⟩
    let i := atomForms h0 ty .ordinary .dflt (.v 6) ad (.v 8) op
    i.WellFormed ∧ ReadyFor i S 0 0 ∧ Passes S 0 0 h0 (.v 6) .atom (bitTy ty) (tyBytes ty) (addressOf (S.grp 0 0) ad)
      (piecesAt S 0 0 .atom (bitTy ty) (tyBytes ty) (addressOf (S.grp 0 0) ad)) := by
  intro op ho
  simp only [List.mem_cons, List.not_mem_nil, or_false] at ho
  rcases ho with rfl | rfl | rfl | rfl | rfl | rfl | rfl | rfl <;>
    exact ⟨by decide, readyFor_of (by decide +kernel), passes_of (by decide +kernel) (tables_st _) (by decide +kernel)⟩

/-- Lanes 0 and 1 act; lane 1's access fails as given, lane 0's passes. -/
def two (x : Word) : State := one { gr with exited := 0xFFFFFFFC, v := [(64, 0x20000), (65, x)] }
def plainV2 : Addr := ⟨.v 2, .plain⟩
def LaneOneFails (s : State) (k : Kind) (ty : Ty) (code : Byte) (x : Nat) : Prop :=
  let act (l : Nat) : Prop := Acting s 0 0 h0 (.v 6) l
  let fails (l : Nat) : Bool := l == 1
  let ps := piecesAt s 0 0 k (bitTy ty) (tyBytes ty) (addressOf (s.grp 0 0) plainV2)
  s.ecc = [] ∧ s.buffer = [] ∧ HasPart s 0 ∧
  (∀ l, act l → (fails l = false → OrdinaryPieces s 0 k (ps l)) ∧
    ∀ m : Memory, (m = s.mem ∨ (k = .atom ∧ ∀ a, (∀ l', act l' → fails l' = false → ¬Covers (ps l') a) → m.get a = s.mem.get a)) →
      checkAccess { s with mem := m } (whoGroup s 0 0) k (bitTy ty) (addressOf (s.grp 0 0) plainV2 l) (tyBytes ty) =
        if fails l then .error (code, x) else .ok (ps l)) ∧
  act 1 ∧ fails 1 = true ∧ ∀ l, act l → fails l = true → ¬earlier code code ∧ (code = code → 1 ≤ l)

/-- The two lanes are 0 and 1, on memory that is as before where nothing is stored. -/
theorem laneOneFails_of {s : State} {k : Kind} {ty : Ty} {code : Byte} {x : Nat} (hp : (kGet s.parts (s.launchOf 0).part).isSome = true)
    (hs : standsB s 0 = true) (hi : ∀ l ∈ List.range 32, (eligible s 0 0 h0).getLsbD l = true ↔ l = 0 ∨ l = 1)
    (ho : ordinaryB s 0 k (piecesAt s 0 0 k (bitTy ty) (tyBytes ty) (addressOf (s.grp 0 0) plainV2) 0) = true)
    (hc : ∀ l ∈ [0, 1], ∀ m : Memory, (m = s.mem ∨ (k = .atom ∧ TablesStand m)) →
      checkAccess { s with mem := m } (whoGroup s 0 0) k (bitTy ty) (addressOf (s.grp 0 0) plainV2 l) (tyBytes ty) =
        if l == 1 then .error (code, x) else .ok (piecesAt s 0 0 k (bitTy ty) (tyBytes ty) (addressOf (s.grp 0 0) plainV2) l))
    (hm : TablesStand s.mem)
    (hq : (piecesAt s 0 0 k (bitTy ty) (tyBytes ty) (addressOf (s.grp 0 0) plainV2) 0).all fun e =>
      decide (e.1.pa + e.2 ≤ 0x10000) || decide (0x11010 ≤ e.1.pa)) : LaneOneFails s k ty code x := by
  simp only [standsB, Bool.and_eq_true, beq_iff_eq] at hs
  obtain ⟨⟨⟨⟨h1, h2⟩, -⟩, -⟩, h5⟩ := hs
  have is : ∀ l, Acting s 0 0 h0 (.v 6) l → l = 0 ∨ l = 1 := fun l ⟨⟨a, b⟩, _⟩ => (hi l (List.mem_range.2 a)).1 b
  refine ⟨h1, h2, hp, fun l hl => ?_, ⟨⟨by decide, (hi 1 (by decide)).2 (.inr rfl)⟩, by simp [regUni]⟩, rfl, fun l hl hf =>
    ⟨by unfold earlier; simp, fun _ => ?_⟩⟩
  · refine ⟨fun hf => ?_, fun m hm' => hc l ?_ m ?_⟩
    · rcases is l hl with rfl | rfl
      · exact ordinary_of ho h5
      · cases hf
    · rcases is l hl with rfl | rfl <;> simp
    · rcases hm' with rfl | ⟨hk, ha⟩
      · exact .inl rfl
      · refine .inr ⟨hk, fun a a1 a2 => ?_⟩
        rw [← hm a a1 a2]
        refine ha a fun l' hl' hf' hcov => ?_
        rcases is l' hl' with rfl | rfl
        · obtain ⟨e, he, c1, c2⟩ := hcov
          have := List.all_eq_true.1 hq e he
          simp only [Bool.or_eq_true, decide_eq_true_eq] at this
          omega
        · cases hf'
  · rcases is l hl with rfl | rfl
    · cases hf
    · omega

theorem witness_FailingGlobalLanes :
    (let i : Instr := .ld h0 .i16 .ordinary .dflt .normal (.v 6) plainV2
     let s := two 0x80000000
     i.WellFormed ∧ ReadyFor i s 0 0 ∧ LaneOneFails s .read .i16 0x06 0x80000000 ∧
      InOneStep (s.grp 0 0) (Acting s 0 0 h0 (.v 6)) (addressOf (s.grp 0 0) plainV2) 2) ∧
    (let i : Instr := .st h0 .b32 .rel .pod .normal plainV2 (.v 6)
     let s := two 0x80000000
     i.WellFormed ∧ ReadyFor i s 0 0 ∧ LaneOneFails s .write .b32 0x06 0x80000000) ∧
    (let i : Instr := .atomAdd h0 .i32 .ordinary .dflt (.v 6) plainV2 (.v 8)
     let s := two 0x20006
     i.WellFormed ∧ ReadyFor i s 0 0 ∧ LaneOneFails s .atom .i32 0x04 0x20006) := by
  have still : ∀ (s : State) (k : Kind) (m : Memory) {q : Prop}, k ≠ .atom → (m = s.mem ∨ (k = .atom ∧ q)) → ({ s with mem := m } : State) = s :=
    fun s k m q hk hm => by
      rcases hm with rfl | ⟨h, _⟩
      · rfl
      · exact absurd h hk
  refine ⟨⟨by decide, readyFor_of (by decide +kernel), laneOneFails_of (by decide +kernel) (by decide +kernel) (by decide +kernel)
      (by decide +kernel) (fun l hl m hm => ?_) (tables_st _) (by decide +kernel), .inr fun l hl => ?_⟩,
    ⟨by decide, readyFor_of (by decide +kernel), laneOneFails_of (by decide +kernel) (by decide +kernel) (by decide +kernel)
      (by decide +kernel) (fun l hl m hm => ?_) (tables_st _) (by decide +kernel)⟩,
    by decide, readyFor_of (by decide +kernel), laneOneFails_of (by decide +kernel) (by decide +kernel) (by decide +kernel)
      (by decide +kernel) (fun l hl m hm => ?_) (tables_st _) (by decide +kernel)⟩
  · rw [still _ _ m (by decide) hm]
    revert l; decide +kernel
  · revert hl; revert l
    exact fun l hl => acting_all (p := fun l => addressOf ((two 0x80000000).grp 0 0) plainV2 l % 128 + 2 ≤ 128) (by decide +kernel) l hl
  · rw [still _ _ m (by decide) hm]
    revert l; decide +kernel
  · have ts : TablesStand m := by
      rcases hm with rfl | ⟨_, h⟩
      · exact tables_st _
      · exact h
    rw [check_congr (s := two 0x20006) (s' := { two 0x20006 with mem := m }) rfl rfl rfl rfl rfl (tables_st _) ts
      (by revert l; decide +kernel)]
    revert l; decide +kernel

/-- The scratchpad has 64 KiB: lane 0's access ends with it, lane 1's begins with its last byte. -/
theorem witness_FailingScratchLanes :
    let s := one { gr with exited := 0xFFFFFFFC, v := [(64, 0xFFFC), (65, 0xFFFF)] }
    ∀ i ∈ [Instr.lds h0 .b32 .scratch (.v 6) plainV2, .sts h0 .b32 .scratch plainV2 (.v 6)],
      i.WellFormed ∧ ReadyFor i s 0 0 ∧ s.ecc = [] ∧ s.buffer = [] ∧ HasPart s 0 ∧ Acting s 0 0 h0 (.v 6) 1 ∧
        (s.launchOf 0).scratchBytes < offsetOf (s.grp 0 0) plainV2 1 + 4 ∧
        ∀ l, Acting s 0 0 h0 (.v 6) l → (s.launchOf 0).scratchBytes < offsetOf (s.grp 0 0) plainV2 l + 4 → 1 ≤ l :=
  fun i hi => ⟨by revert i; decide, readyFor_of (by revert i; decide +kernel), rfl, rfl, by unfold HasPart; decide +kernel,
    ⟨⟨by decide, by decide +kernel⟩, by simp [regUni]⟩, by decide +kernel, acting_all (by decide +kernel)⟩

/-- Offset 16 l of the scratchpad, ending with it; word l of a tile; element l of an X128 tile; a row's words and labels. -/
def adOff (x : Word) (sc : BitVec 2) (r : BitVec 8 := 4) : Addr := ⟨.s 0, .full x (some (.v r, sc))⟩
theorem witness_WindowResults_scratch :
    (Instr.lds h0 .x128 .scratch (.v 8) (adOff 0xFE00 3 5)).WellFormed ∧ ReadyFor (.lds h0 .x128 .scratch (.v 8) (adOff 0xFE00 3 5)) S 0 0 ∧
    (Instr.sts h0 .x128 .scratch (adOff 0xFE00 3 5) (.v 8)).WellFormed ∧ ReadyFor (.sts h0 .x128 .scratch (adOff 0xFE00 3 5) (.v 8)) S 0 0 ∧
    S.ecc = [] ∧ S.buffer = [] ∧ ∀ l, Acting S 0 0 h0 (.v 8) l → offsetOf (S.grp 0 0) (adOff 0xFE00 3 5) l + tyBytes .x128 ≤ (S.launchOf 0).scratchBytes :=
  ⟨by decide, readyFor_of (by decide +kernel), by decide, readyFor_of (by decide +kernel), rfl, rfl, acting_all (by decide +kernel)⟩

def tiled (x : Tile) : State := st { tm with tiles := [x, x, x, x, {}, {}, {}, {}] }
theorem witness_WindowResults_tile :
    (let x : Tile := { state := .group 0 }
     let s := tiled x
     let ad := adOff 0xFF80 2
     (s.team 0).tiles[(2 : BitVec 3).toNat]? = some x ∧ ((s.team 0).tiles.getD ((2 : BitVec 3).toNat / 4 * 4) {}).x128 = false ∧ x.x128 = false ∧
      s.ecc = [] ∧ s.buffer = [] ∧ (∀ l, Acting s 0 0 h0 (.v 8) l → offsetOf (s.grp 0 0) ad l % 4 = 0 ∧ offsetOf (s.grp 0 0) ad l + 4 ≤ 65536) ∧
      (Instr.lds h0 .f32 (.acc 2) (.v 8) ad).WellFormed ∧ ReadyFor (.lds h0 .f32 (.acc 2) (.v 8) ad) s 0 0 ∧
      (Instr.sts h0 .b32 (.acc 2) ad (.v 8)).WellFormed ∧ ReadyFor (.sts h0 .b32 (.acc 2) ad (.v 8)) s 0 0) ∧
    (let x : Tile := { x128 := true, state := .group 0 }
     let s := tiled x
     let ad := adOff 0x3FE00 3 5
     (s.team 0).tiles[(0 : BitVec 3).toNat]? = some x ∧ x.x128 = true ∧
      s.ecc = [] ∧ s.buffer = [] ∧ (∀ l, Acting s 0 0 h0 (.v 8) l → offsetOf (s.grp 0 0) ad l % 16 = 0 ∧ offsetOf (s.grp 0 0) ad l + 16 ≤ 262144) ∧
      (Instr.lds h0 .x128 (.acc 0) (.v 8) ad).WellFormed ∧ ReadyFor (.lds h0 .x128 (.acc 0) (.v 8) ad) s 0 0 ∧
      (Instr.sts h0 .x128 (.acc 0) ad (.v 8)).WellFormed ∧ ReadyFor (.sts h0 .x128 (.acc 0) ad (.v 8)) s 0 0) :=
  ⟨⟨by decide +kernel, by decide +kernel, rfl, rfl, rfl, acting_all (by decide +kernel), by decide, readyFor_of (by decide +kernel), by decide,
      readyFor_of (by decide +kernel)⟩,
    by decide +kernel, rfl, rfl, rfl, acting_all (by decide +kernel), by decide, readyFor_of (by decide +kernel), by decide, readyFor_of (by decide +kernel)⟩

/-- Every lane reads the last row's last label, its S; one lane stores a label, or to the header. -/
theorem witness_WindowResults_selection :
    (∀ lab : Bool, let off : Nat := if lab then 38912 + 16 * 15 + 4 * 3 else 48 * 15 + 4 * 1
      let ad : Addr := ⟨.v 10, .disp (BitVec.ofNat 32 off)⟩
      selBusy (S.team 0) = false ∧ (Instr.lds h0 .b32 .sel (.v 8) ad).WellFormed ∧ ReadyFor (.lds h0 .b32 .sel (.v 8) ad) S 0 0 ∧
      (∀ l, Acting S 0 0 h0 (.v 8) l → 15 < (S.team 0).rows.length ∧ 15 < 128 ∧ 3 < 4) ∧
      ∀ l, Acting S 0 0 h0 (.v 8) l → offsetOf (S.grp 0 0) ad l = if lab then 38912 + 16 * 15 + 4 * 3 else 48 * 15 + 4 * (3 % 2)) ∧
    (let s := one gr1
     ∀ off ∈ [38912 + 16 * 15 + 4 * 3, 48 * 15 + 4 * 3], let ad : Addr := ⟨.v 10, .disp (BitVec.ofNat 32 off)⟩
      selBusy (s.team 0) = false ∧ (Instr.sts h0 .b32 .sel ad (.v 8)).WellFormed ∧ ReadyFor (.sts h0 .b32 .sel ad (.v 8)) s 0 0 ∧
      Acting s 0 0 h0 (.v 8) 0 ∧ (∀ l', Acting s 0 0 h0 (.v 8) l' → l' = 0) ∧ 15 < (s.team 0).rows.length ∧
      offsetOf (s.grp 0 0) ad 0 = off ∧ ((s.team 0).rows.getD 15 {}).lid.length = 4 ∧ HasPart s 0) := by
  refine ⟨fun lab => ⟨by decide +kernel, by cases lab <;> decide, by cases lab <;> exact readyFor_of (by decide +kernel),
    acting_all (by decide +kernel), by cases lab <;> exact acting_all (by decide +kernel)⟩, fun off ho => ?_⟩
  simp only [List.mem_cons, List.not_mem_nil, or_false] at ho
  rcases ho with rfl | rfl <;>
    exact ⟨by decide +kernel, by decide, readyFor_of (by decide +kernel), ⟨⟨by decide, by decide +kernel⟩, by simp [regUni]⟩,
      acting_all (by decide +kernel), by decide +kernel, by decide +kernel, by decide +kernel, by unfold HasPart; decide +kernel⟩

theorem witness_ScratchAtomicResults :
    (∀ op ∈ [AtomOp.add, .min, .max, .and, .or, .xor, .exch, .cas],
      let ty : Ty := if op == .add || op == .min || op == .max then .i64 else .b64
      let i := atomsForms h0 ty (.v 6) (adOff 0xFF00 3) (.v 8) op
      i.WellFormed ∧ ReadyFor i S 0 0 ∧ S.ecc = [] ∧ S.buffer = [] ∧ ∀ l, Acting S 0 0 h0 (.v 6) l →
        offsetOf (S.grp 0 0) (adOff 0xFF00 3) l % tyBytes ty = 0 ∧ offsetOf (S.grp 0 0) (adOff 0xFF00 3) l + tyBytes ty ≤ (S.launchOf 0).scratchBytes) ∧
    (let s := one gr1
     let i := atomsForms h0 .b64 (.v 6) (adOff 4 3) (.v 8) .exch
     i.WellFormed ∧ ReadyFor i s 0 0 ∧ Acting s 0 0 h0 (.v 6) 0 ∧ offsetOf (s.grp 0 0) (adOff 4 3) 0 % tyBytes .b64 ≠ 0 ∧
      (∀ l', Acting s 0 0 h0 (.v 6) l' → l' = 0) ∧ HasPart s 0) := by
  refine ⟨fun op ho => ?_, by decide, readyFor_of (by decide +kernel), ⟨⟨by decide, by decide +kernel⟩, by simp [regUni]⟩, by decide +kernel,
    acting_all (by decide +kernel), by unfold HasPart; decide +kernel⟩
  simp only [List.mem_cons, List.not_mem_nil, or_false] at ho
  rcases ho with rfl | rfl | rfl | rfl | rfl | rfl | rfl | rfl <;>
    exact ⟨by decide, readyFor_of (by decide +kernel), rfl, rfl, acting_all (by decide +kernel)⟩

/-- Nothing to wait for; a store that waits; a command of the core that writes global memory, in flight and completed. -/
def cpy0 : Cmd := { part := 0, team := some 0, group := 0, kind := .copy 0 0 0 [] 16 1 false, chunks := 1, core := some (0, 0) }
def late : Pending := { id := 0, team := 0, group := 0, lanes := 1, addr := 0x20000, bytes := [9] }
theorem outstanding_0 : Outstanding { S with cmds := [cpy0] } 0 .glb 0 := ⟨cpy0, rfl, rfl, by decide +kernel, rfl⟩
theorem witness_FenceDrainCacheComplete :
    (∀ b ∈ [[], [late]], ∀ o ∈ [Order.acq, .rel, .ar, .sc], let s := { S with buffer := b }
      Instr.WellFormed (.fence h0 o .pod) ∧ ReadyFor (.fence h0 o .pod) s 0 0 ∧ eligible s 0 0 h0 ≠ 0) ∧
    (∀ i ∈ [Instr.cctlInv h0 ⟨.s 2, .plain⟩, .cctlPfl1 h0 ⟨.s 2, .plain⟩, .cctlPfl2 h0 ⟨.s 2, .plain⟩, .drainSp h0, .drainFifo h0,
        .drainGlb h0], (namesOf i).isSome = true ∧ ReadyFor i S 0 0 ∧ eligible S 0 0 h0 ≠ 0) ∧
    (∀ d k, ¬Outstanding S 0 d k) ∧ (let s := { S with cmds := [cpy0] }
     ReadyFor (.drainGlb h0) s 0 0 ∧ eligible s 0 0 h0 ≠ 0 ∧ Outstanding s 0 .glb 0) ∧
    (∀ st, (let s := { one { gr with drain := some [0] } with cmds := [{ cpy0 with status := st }] }
     (s.grp 0 0).drain = some [0] ∧ (0 : Nat) ∈ [0] ∧ s.cmds[0]? = some { cpy0 with status := st })) :=
  ⟨fun b hb o ho => ⟨by revert o; decide, readyFor_of (by revert b; revert o; decide +kernel), by revert b; decide +kernel⟩,
    fun i hi => ⟨by revert i; decide, all_readyFor (by decide +kernel) i hi, by decide +kernel⟩,
    fun d k ⟨c, hc, _⟩ => (by cases hc), ⟨readyFor_of (by decide +kernel), by decide +kernel, outstanding_0⟩,
    fun _ => ⟨rfl, List.mem_singleton.2 rfl, rfl⟩⟩

theorem witness_PublishResults :
    (let i : Instr := .publish h0 .dev 12 2 (some 0x40)
     i.WellFormed ∧ ReadyFor i S 0 0 ∧ eligible S 0 0 h0 ≠ 0 ∧
      Passes S 0 0 h0 (.s 12) .atom true 8 (fun _ => 0x20040) (piecesAt S 0 0 .atom true 8 fun _ => 0x20040)) ∧
    (let i : Instr := .publish h0 .dev 12 8 none
     i.WellFormed ∧ ReadyFor i S 0 0 ∧ (regGet (S.grp 0 0) (.s 8) 0 2) % 2 ^ 64 % 64 ≠ 0 ∧ HasPart S 0) :=
  ⟨⟨by decide, readyFor_of (by decide +kernel), by decide +kernel, passes_of (by decide +kernel) (tables_st _) (by decide +kernel)⟩,
    by decide, readyFor_of (by decide +kernel), by decide +kernel, by unfold HasPart; decide +kernel⟩

/-- The bank's last double word; an offset that is no multiple; one beyond the bank. -/
theorem witness_ParameterBankResults :
    (let i : Instr := .ldcB64 h0 (.v 6) (.imm 0xF8)
     i.WellFormed ∧ ReadyFor i S 0 0 ∧ 0xF8 % (4 * 2) = 0 ∧ 0xF8 + 4 * 2 ≤ (S.launchOf 0).f 352 32 ∧ (S.launchOf 0).f 384 64 = 0x60000 ∧
      Passes S 0 0 h0 (.v 6) .read true (4 * 2) (fun _ => 0x600F8) (piecesAt S 0 0 .read true (4 * 2) fun _ => 0x600F8)) ∧
    (∀ off ∈ [0x2, 0x100], let s := one gr1
     let i : Instr := .ldcB32 h0 (.v 6) (.imm (BitVec.ofNat 32 off))
     i.WellFormed ∧ ReadyFor i s 0 0 ∧ Acting s 0 0 h0 (.v 6) 0 ∧ (∀ l', Acting s 0 0 h0 (.v 6) l' → l' = 0) ∧ HasPart s 0 ∧
      (off % (4 * 1) ≠ 0 ∨ (s.launchOf 0).f 352 32 < off + 4 * 1)) := by
  refine ⟨⟨by decide, readyFor_of (by decide +kernel), by decide, by decide +kernel, by decide +kernel,
    passes_of (by decide +kernel) (tables_st _) (by decide +kernel)⟩, fun off ho => ?_⟩
  simp only [List.mem_cons, List.not_mem_nil, or_false] at ho
  rcases ho with rfl | rfl <;>
    exact ⟨by decide, readyFor_of (by decide +kernel), ⟨⟨by decide, by decide +kernel⟩, by simp [regUni]⟩, acting_all (by decide +kernel),
      by unfold HasPart; decide +kernel, by decide +kernel⟩

/-! Barriers, tokens, tiles, slots. -/

/-- Barrier 0 of the team. -/
def barred (r : Barrier) (x y : Group) : State := st { tm with bars := [r, {}, {}, {}], groups := [x, y] }
theorem no_waits_but {s : State} {t k : Nat} (h : ((s.team t).groups.zipIdx.all fun e => e.2 == k || e.1.waits == []) = true) (j : Nat)
    (hj : j ≠ k) : (s.grp t j).waits = [] := by
  unfold State.grp Team.group
  rw [List.getD_eq_getElem?_getD]
  by_cases hg : j < (s.team t).groups.length
  · rw [List.getElem?_eq_getElem hg]
    have := List.all_eq_true.1 h ((s.team t).groups[j], j) (by rw [List.mem_zipIdx_iff_getElem?]; simp [List.getElem?_eq_getElem hg])
    simpa [hj] using this
  · rw [List.getElem?_eq_none (by omega)]; rfl
theorem not_waitsOn {g : Group} {b : Nat} (h : g.waits = []) : ¬waitsOn g b := fun ⟨w, hw, _⟩ => by rw [h] at hw; cases hw

/-- A count of one more than the groups is none too many, one more is; the last arrival completes; a phase that has changed. -/
theorem witness_BarrierResults_arrival :
    (let s := barred {} gr gr
     0 < (s.launchOf 0).bars ∧ (s.team 0).bars[0]? = some ({} : Barrier) ∧ NoneWaits s 0 0 ∧ ¬Mismatch (s.launchOf 0).groups {} 3 ∧
      ¬Claims.IsComplete (withGroup {} 3 gr) ∧ (∀ i ∈ [Instr.barArrive h0 (.imm 0x300), .barSync h0 (.imm 0x300)], Acts i s 0 0 h0)) ∧
    (let r : Barrier := { expset := true, expected := 2, arrived := 1 }
     let s := barred r gr gr
     (s.team 0).bars[0]? = some r ∧ NoneWaits s 0 0 ∧ ¬Mismatch (s.launchOf 0).groups r 2 ∧ Claims.IsComplete (withGroup r 2 gr) ∧
      (withGroup r 2 gr).pending = 0 ∧ (∀ i ∈ [Instr.barArrive h0 (.imm 0), .barSync h0 (.imm 0)], Acts i s 0 0 h0)) ∧
    (let s := barred {} gr gr
     Mismatch (s.launchOf 0).groups {} 4 ∧ HasPart s 0 ∧ ∀ i ∈ [Instr.barArrive h0 (.imm 0x400), .barSync h0 (.imm 0x400)], Acts i s 0 0 h0) := by
  refine ⟨⟨by decide +kernel, rfl, noneWaits_of (by decide) (by decide), by unfold Mismatch; decide +kernel, by unfold Claims.IsComplete; decide +kernel,
      all_act (by decide +kernel)⟩,
    ⟨rfl, noneWaits_of (by decide) (by decide), by unfold Mismatch; decide +kernel, by unfold Claims.IsComplete; decide +kernel, rfl,
      all_act (by decide +kernel)⟩,
    by unfold Mismatch; decide +kernel, by unfold HasPart; decide +kernel, all_act (by decide +kernel)⟩

theorem witness_BarrierResults_wait : ∀ f : Bool,
    (let s := barred {} { gr with bphase := [(0, false)] } gr
     Acts (.barWait h0 (.imm 0)) s 0 0 h0 ∧ kGet (s.grp 0 0).bphase 0 ≠ some (!false)) ∧
    (let s := barred { faulted := f } { gr with bphase := [(0, true)] } gr
     Acts (.barWait h0 (.imm 0)) s 0 0 h0 ∧ kGet (s.grp 0 0).bphase 0 = some (!false) ∧ HasPart s 0) ∧
    (let s := barred {} gr gr
     HasPart s 0 ∧ (s.launchOf 0).bars ≤ (wordOf (s.grp 0 0) (.imm 4)).toNat % 256 ∧
      ∀ i ∈ [Instr.barArrive h0 (.imm 4), .barSync h0 (.imm 4), .barWait h0 (.imm 4)], Acts i s 0 0 h0) := by
  intro f
  cases f <;> exact ⟨⟨acts_of (by decide +kernel), by decide +kernel⟩,
    ⟨acts_of (by decide +kernel), by decide +kernel, by unfold HasPart; decide +kernel⟩, by unfold HasPart; decide +kernel, by decide +kernel,
    all_act (by decide +kernel)⟩

def waiting (k : WaitKind) : Wait := { lanes := 1, pc := 8, next := 16, order := 0, kind := k }
theorem witness_BarrierResults_release :
    let w := waiting (.barrier 0 false)
    let r : Barrier := { expset := true, expected := 2, arrived := 1 }
    let s := barred r gr { gr with waits := [w] }
    Acts (.barArrive h0 (.imm 0)) s 0 0 h0 ∧ ¬Mismatch (s.launchOf 0).groups r 2 ∧ Claims.IsComplete (withGroup r 2 gr) ∧
      (withGroup r 2 gr).pending = 0 ∧ 1 < (s.team 0).groups.length ∧ (s.grp 0 1).waits = [w] ∧ w.kind = .barrier 0 r.phase ∧
      w.done = none ∧ w.held = false ∧ (s.grp 0 1).stopped = none ∧ (s.grp 0 1).taken = none ∧
      (∀ j, j ≠ 1 → ¬waitsOn (s.grp 0 j) 0) ∧ (s.team 0).seq.wait = none :=
  ⟨acts_of (by decide +kernel), by unfold Mismatch; decide +kernel, by unfold Claims.IsComplete; decide +kernel, rfl, by decide +kernel, rfl, rfl, rfl,
    rfl, rfl, rfl, fun j hj => not_waitsOn (no_waits_but (by decide) j hj), rfl⟩

theorem witness_BarrierResults_sequencer :
    let s := { barred {} gr gr with cur := .seq 0 }
    s.cur = .seq 0 ∧ canSeq s 0 = true ∧ (s.team 0).seq.wait = none ∧ (s.team 0).seq.running = [] ∧ (s.team 0).seq.stage = none ∧
      0 < (s.launchOf 0).bars ∧ (s.team 0).bars[0]? = some ({} : Barrier) ∧ NoneWaits s 0 0 ∧ ¬Mismatch (s.launchOf 0).groups {} 3 ∧
      kGet (s.team 0).seq.bphase 0 ≠ some (!false) :=
  ⟨rfl, by decide +kernel, rfl, rfl, rfl, by decide +kernel, rfl, noneWaits_of (by decide) (by decide), by unfold Mismatch; decide +kernel,
    by decide +kernel⟩

theorem witness_ExpectedBytes :
    (∀ o ∈ [BexpOpd.imms 3 100, .immReg 3 8, .regs 12 8], Acts (.bexp h0 o) S 0 0 h0) ∧ 3 < (S.launchOf 0).bars ∧
      (S.team 0).bars[3]? = some ({} : Barrier) ∧ NoneWaits S 0 3 ∧ Acts (.bexp h0 (.imms 4 100)) S 0 0 h0 ∧ (S.launchOf 0).bars ≤ 4 ∧ HasPart S 0 := by
  refine ⟨fun o ho => ?_, by decide +kernel, by decide, noneWaits_of (by decide) (by decide), acts_of (by decide +kernel), by decide +kernel,
    by unfold HasPart; decide +kernel⟩
  simp only [List.mem_cons, List.not_mem_nil, or_false] at ho
  rcases ho with rfl | rfl | rfl <;> exact acts_of (by decide +kernel)

/-- The launch as a member, and another part's launch. -/
def me : DWord := BitVec.ofNat 64 (7 + 2 ^ 32 * ownNumber)
theorem own_lt : ownNumber < 2 ^ 21 := by
  have h1 := Config.ownUaid.isLt
  have h2 := Config.ownPod.isLt
  unfold ownNumber; omega
theorem me_toNat : me.toNat = 7 + 2 ^ 32 * ownNumber := by
  have := own_lt
  rw [me, BitVec.toNat_ofNat]; omega
theorem me_here : memberHere 7 me = true := by
  have := own_lt
  have e7 : (7 : Word).toNat = 7 := rfl
  simp only [memberHere, me_toNat, fld, Nat.shiftRight_eq_div_pow, e7, Bool.and_eq_true, beq_iff_eq]
  omega
def collective : CollGroup := { id := 5, scope := .pod, deadline := 1, members := [me, 0xFFFFFFFF] }
def grouped (c : CollGroup) (x : Group) (base : DWord := 0x70000) : State :=
  { one x with parts := [(0, { prt with colls := [c] })], teams := [{ tm with groups := [x], trapBase := base }] }
theorem rank_me (c : CollGroup) (h : c.members = [me, 0xFFFFFFFF]) : rankOf c 7 = some 0 := by
  simp [rankOf, h, List.findIdx?_cons]; exact me_here

theorem witness_CollectiveBarrier_issue :
    (let s := grouped collective gr
     Acts (.cbar h0 .pod (.imm 5)) s 0 0 h0 ∧ HasPart s 0 ∧ collOf s 0 5 = some collective ∧ collective.scope = .pod ∧
      rankOf collective (s.launchOf 0).lid = some 0 ∧ ∀ x ∈ collective.here, x.1 = 0) ∧
    (Acts (.cbar h0 .sys (.imm 5)) (grouped collective gr) 0 0 h0 ∧ collective.scope ≠ .sys) ∧
    (Acts (.cbar h0 .pod (.imm 4)) (grouped collective gr) 0 0 h0 ∧ collOf (grouped collective gr) 0 4 = none) :=
  ⟨⟨acts_of (by decide +kernel), by unfold HasPart; decide +kernel, rfl, rfl, rank_me _ rfl, by decide⟩,
    ⟨acts_of (by decide +kernel), by decide⟩, acts_of (by decide +kernel), by decide +kernel⟩

/-- All members here have arrived; rank 0 is missing at its deadline. -/
theorem witness_CollectiveBarrier_end :
    let w := waiting (.cbar 5)
    let x := { gr with waits := [w] }
    (let c := { collective with here := [(0, 0)], arrived := [0, 1] }
     let s := grouped c x
     (kGet s.parts 0).isSome = true ∧ collOf s 0 5 = some c ∧ c.here = [(0, 0)] ∧ Claims.Exists s 0 0 ∧ (s.grp 0 0).waits = [w] ∧
      w.kind = .cbar 5 ∧ w.done = none ∧ w.held = false ∧ (s.grp 0 0).stopped = none ∧ (s.grp 0 0).taken = none ∧
      (s.team 0).phase = .resident ∧ (∀ k, k ≠ 0 → ∀ y ∈ (s.grp 0 k).waits, y.kind ≠ .cbar 5) ∧
      (∀ r, rankOf c (s.launchOf 0).lid = some r → r ∈ c.arrived) ∧
      ∀ r < c.members.length, (c.members.getD r 0).toNat / 2 ^ 32 % 2 ^ 21 = ownNumber → r ∈ c.arrived) ∧
    (let c := { collective with members := [me, me], here := [(0, 0)], arrived := [0], since := some 0 }
     let s := { grouped c x with cycle := 1000 }
     collOf s 0 5 = some c ∧ (∀ r, rankOf c (s.launchOf 0).lid = some r → r ∈ c.arrived) ∧ c.since = some 0 ∧
      c.deadline.toNat * 1000 ≤ now s - 0 ∧ (1 : Word).toNat < c.members.length ∧ (1 : Word).toNat ∉ c.arrived ∧
      (∀ k < (1 : Word).toNat, (c.members.getD k 0).toNat / 2 ^ 32 % 2 ^ 21 = ownNumber → k ∈ c.arrived) ∧
      (s.grp 0 0).handler = false ∧ (s.team 0).trapBase ≠ 0) := by
  refine ⟨⟨rfl, rfl, rfl, by unfold Claims.Exists; decide +kernel, rfl, rfl, rfl, rfl, rfl, rfl, rfl, fun k hk y hy => ?_, fun r hr => ?_,
    fun r hr _ => ?_⟩, rfl, fun r hr => ?_, rfl, by decide, by decide, by decide, fun k hk _ => ?_, rfl, by decide +kernel⟩
  · rw [no_waits_but (k := 0) (by decide) k hk] at hy; cases hy
  · have : some r = some 0 := hr.symm.trans (rank_me _ rfl)
    cases this; decide
  · have : r < 2 := hr
    have : r = 0 ∨ r = 1 := by omega
    rcases this with rfl | rfl <;> decide
  · have h1 : rankOf { collective with members := [me, me], here := [(0, 0)], arrived := [0], since := some 0 } 7 = some 0 := by
      simp [rankOf, List.findIdx?_cons]; exact me_here
    have : some r = some 0 := hr.symm.trans h1
    cases this; decide
  · have : k < 1 := hk
    have : k = 0 := by omega
    subst this; decide

/-- Token 3 names a command: in flight, done, ended in error, a stopped ENC. -/
def tokened (c : Option Byte) : State :=
  { one { gr with tok := [(3, .names 0)] } with cmds := [{ cpy0 with status := c, signalled := c.isSome }] }
theorem witness_TokenWaits :
    (∀ i ∈ [Instr.waitk h0 3, .waitkMask h0 8], ∀ c ∈ [none, some (0 : Byte), some 1, some 6], Acts i (tokened c) 0 0 h0) ∧
    ((8 : BitVec 16).getLsbD 3 = true ∧ ∀ c, ((tokened c).grp 0 0).token 3 = .names 0 ∧
      (tokened c).cmds[0]? = some { cpy0 with status := c, signalled := c.isSome }) ∧ HasPart (tokened (some 1)) 0 := by
  refine ⟨fun i hi c hc => acts_of (by revert c; revert i; decide +kernel), ⟨by decide, fun c => ⟨rfl, rfl⟩⟩, by unfold HasPart; decide +kernel⟩

/-- Tile 2: TEAM; SEQ; held by the other group; by the group; sealed. Tile 1 of an X128 quad. -/
theorem witness_TileTokens :
    (∀ x ∈ [TileState.team, .seq, .group 1, .group 0, .sealed true false],
      let s := tiled { state := x }
      (s.team 0).tiles[2]? = some { state := x } ∧ ((s.team 0).tiles.getD 0 {}).x128 = false ∧ HasPart s 0 ∧
        Acts (.acq h0 2) s 0 0 h0 ∧ Acts (.rel h0 2) s 0 0 h0 ∧ ¬∃ g', ∃ w ∈ (s.grp 0 g').waits, w.kind = .tile 2 ∧ w.done = none) ∧
    (let s := tiled { x128 := true, state := .group 0 }
     (s.team 0).tiles[if ((s.team 0).tiles.getD (1 / 4 * 4) {}).x128 then 1 / 4 * 4 else 1]? = some { x128 := true, state := .group 0 } ∧
      ¬(((s.team 0).tiles.getD (1 / 4 * 4) {}).x128 = false ∨ 1 % 4 = 0) ∧ Acts (.acq h0 1) s 0 0 h0 ∧ Acts (.rel h0 1) s 0 0 h0) ∧
    (let s := sqs id
     s.cur = .seq 0 ∧ canSeq s 0 = true ∧ (7 : BitVec 3).toNat < (s.launchOf 0).accs ∧ (s.team 0).seq.running = [] ∧
      (s.team 0).seq.stage = none ∧ ((s.team 0).tiles.getD 4 {}).x128 = false ∧ (s.team 0).tiles[7]? = some { state := .seq } ∧
      ∀ g, ∀ w ∈ (s.grp 0 g).waits, w.kind ≠ .tile 7) := by
  refine ⟨fun x hx => ?_, ⟨rfl, by decide +kernel, acts_of (by decide +kernel), acts_of (by decide +kernel)⟩, rfl, by decide +kernel,
    by decide +kernel, rfl, rfl, by decide +kernel, by decide +kernel, fun g w hw => ?_⟩
  · simp only [List.mem_cons, List.not_mem_nil, or_false] at hx
    rcases hx with rfl | rfl | rfl | rfl | rfl <;>
      exact ⟨rfl, rfl, by unfold HasPart; decide +kernel, acts_of (by decide +kernel), acts_of (by decide +kernel),
        fun ⟨g, w, hw, _⟩ => by rw [no_waits (by decide)] at hw; cases hw⟩
  · rw [no_waits (by decide)] at hw; cases hw

theorem get_append {w : Nat} (m b : Store w) (a : Nat) (h : ∀ e ∈ b, e.1 ≠ a) : Store.get (m ++ b) a = m.get a := by
  induction m with
  | nil =>
    induction b with
    | nil => rfl
    | cons e b ih =>
      have := h e (List.mem_cons_self ..)
      simp only [List.nil_append, Store.get, if_neg this] at ih ⊢
      exact ih fun x hx => h x (List.mem_cons_of_mem _ hx)
  | cons e m ih => simp only [List.cons_append, Store.get, ih]
/-- Some bytes of memory above the tables. -/
def recorded (b : Memory) (x : Group := gr) : State := { one x with mem := tables ++ b }
theorem stand_recorded {b : Memory} (x : Group) (h : (b.all fun e => decide (0x11010 ≤ e.1)) = true) : TablesStand (recorded b x).mem :=
  fun a _ ha => get_append tables b a fun e he => by have := List.all_eq_true.1 h e he; simp only [decide_eq_true_eq] at this; omega
theorem witness_ShapeSlots :
    (Acts (.tsld h0 31 2 none) S 0 0 h0 ∧ Acts (.tsev h0 31 none) S 0 0 h0 ∧ Acts (.tsev h0 31 (some (2, none))) S 0 0 h0 ∧
      Passes S 0 0 h0 (.s 2) .read true 64 (fun _ => 0x20000) (piecesAt S 0 0 .read true 64 fun _ => 0x20000) ∧
      Passes S 0 0 h0 (.s 2) .write true 64 (fun _ => 0x20000) (piecesAt S 0 0 .write true 64 fun _ => 0x20000)) ∧
    (let s := recorded [(0x20027, 0x12)]
     Acts (.tsld h0 31 2 none) s 0 0 h0 ∧ Passes s 0 0 h0 (.s 2) .read true 64 (fun _ => 0x20000) (piecesAt s 0 0 .read true 64 fun _ => 0x20000) ∧
      0x11 < valueIn s.mem (piecesAt s 0 0 .read true 64 (fun _ => 0x20000) 0) / 2 ^ 312 % 2 ^ 5 ∧ (s.grp 0 0).handler = false ∧
      (s.team 0).trapBase ≠ 0) ∧
    (Acts (.tsld h0 31 8 none) S 0 0 h0 ∧ Acts (.tsev h0 31 (some (8, none))) S 0 0 h0 ∧ regGet (S.grp 0 0) (.s 8) 0 2 % 2 ^ 64 % 64 ≠ 0 ∧
      HasPart S 0) :=
  ⟨⟨acts_of (by decide +kernel), acts_of (by decide +kernel), acts_of (by decide +kernel),
      passes_of (by decide +kernel) (tables_st _) (by decide +kernel), passes_of (by decide +kernel) (tables_st _) (by decide +kernel)⟩,
    ⟨acts_of (by decide +kernel), passes_of (by decide +kernel) (stand_recorded _ (by decide)) (by decide +kernel), by decide +kernel, rfl,
      by decide +kernel⟩,
    acts_of (by decide +kernel), acts_of (by decide +kernel), by decide +kernel, by unfold HasPart; decide +kernel⟩

/-! Queues. -/

/-- Queue register 1 is bound to queue 3, which is as x says. -/
def queued (x : Queue) (g : Group := gr) : State :=
  st { tm with qregs := [(1, .queue 3)], queues := [{}, {}, {}, x], groups := [g] }
/-- An empty ring of 32 entries at 0x100, with an allowance for just as many. -/
def ring : Queue := { init := true, ring := 0x100, cap := 32, allow := 32, ovf := 0x20000, ovfmax := 16 }
def pushes : List Instr := [.movPush h0 .b64 1 (.v 6), .qtryPush h0 7 1 (.v 6)]
/-- Room for just 32 entries; no allowance; a full ring; an overflow area at its limit. -/
theorem witness_QueuePush_issue :
    (∀ x ∈ [ring, { ring with allow := 0 }, { ring with cnt := 32 }, { ring with inOvf := true, ocnt := 16, allow := 1 }],
      kGet ((queued x).team 0).qregs (1 : BitVec 4).toNat = some (.queue 3) ∧ 3 < ((queued x).launchOf 0).nqueues ∧
        ((queued x).team 0).queues[3]? = some x ∧ (∀ i ∈ pushes, Acts i (queued x) 0 0 h0) ∧ HasPart (queued x) 0) ∧
    RoomFor ring (takers (eligible (queued ring) 0 0 h0) (.v 6)).length ∧ ¬RoomFor { ring with allow := 31 } 32 ∧
    RoomFor { ring with cnt := 31, allow := 0xFFFF } (takers (eligible S 0 0 h0) (.s 6)).length := by
  refine ⟨fun x hx => ?_, by unfold RoomFor; decide +kernel, by unfold RoomFor; decide +kernel, by unfold RoomFor; decide +kernel⟩
  simp only [List.mem_cons, List.not_mem_nil, or_false] at hx
  rcases hx with rfl | rfl | rfl | rfl <;>
    exact ⟨rfl, by decide +kernel, rfl, all_act (by decide +kernel), by unfold HasPart; decide +kernel⟩

/-- An unbound register, a port, a queue beyond the launch's. -/
theorem witness_QueuePush_bound : ∀ b ∈ [none, some (Bind.port 2), some (.queue 4)],
    let s := st { tm with qregs := (b.map fun x => (1, x)).toList }
    HasPart s 0 ∧ kGet (s.team 0).qregs (1 : BitVec 4).toNat = b ∧ (s.launchOf 0).nqueues ≤ 4 ∧
      ∀ i ∈ pushes ++ [.qalwAdd h0 1 (.imm 1), .qalwSet h0 1 (.imm 1), .movPop h0 .b32 (.v 6) 1, .qtryPop h0 (.v 6) 1 7], Acts i s 0 0 h0 := by
  intro b hb
  simp only [List.mem_cons, List.not_mem_nil, or_false] at hb
  rcases hb with rfl | rfl | rfl <;> exact ⟨by unfold HasPart; decide +kernel, rfl, by decide +kernel, all_act (by decide +kernel)⟩

/-- One group, one wait, run freely. -/
theorem onlyWait_of {s : State} {w : Wait} (h : (decide (0 < s.teams.length) && decide (0 < (s.team 0).groups.length) &&
    decide ((s.grp 0 0).waits = [w]) && w.done.isNone && !w.held && (s.grp 0 0).stopped.isNone && (s.grp 0 0).taken.isNone &&
    (s.team 0).phase == .resident) = true) : OnlyWait s 0 0 w := by
  simp only [Bool.and_eq_true, decide_eq_true_eq, Option.isNone_iff_eq_none, Bool.not_eq_true', beq_iff_eq] at h
  obtain ⟨⟨⟨⟨⟨⟨⟨h1, h2⟩, h3⟩, h4⟩, h5⟩, h6⟩, h7⟩, h8⟩ := h
  exact ⟨⟨h1, h2⟩, h3, h4, h5, h6, h7, h8⟩
/-- No other group waits. -/
theorem alone {s : State} {k : Nat} (h : decide ((s.team 0).groups.length ≤ 1) = true) (hk : k ≠ 0) : (s.grp 0 k).waits = [] := by
  unfold State.grp Team.group
  rw [List.getD_eq_getElem?_getD, List.getElem?_eq_none (by simp only [decide_eq_true_eq] at h; omega)]
  rfl

theorem witness_QueuePush_parked :
    let w := waiting (.push 3 false [(0, 5)])
    let g := { gr with waits := [w] }
    (∀ x ∈ [ring, { ring with allow := 0 }, { ring with cnt := 32, fullSince := some 0 }],
      OnlyWait (queued x g) 0 0 w ∧ ((queued x g).team 0).queues[3]? = some x ∧
      (∀ k, k ≠ 0 → ∀ y ∈ ((queued x g).grp 0 k).waits, ∀ u vs, y.kind ≠ .push 3 u vs) ∧
      (∀ l < 32, w.lanes.getLsbD l = true ↔ l = lowest w.lanes) ∧ kGet [(0, (5 : DWord))] (lowest w.lanes) = some 5) ∧
    RoomFor ring 1 ∧
    (let x : Queue := { ring with cnt := 32, fullSince := some 0 }
     let s := { queued x g with cycle := 20000 }
     20000 ≤ now s - 0 ∧ x.allow ≠ 0 ∧ x.ovf ≠ 0 ∧ x.ovfmax ≠ 0 ∧
      (partWrite (whoLaunch (s.launchOf 0)) (rootOf (s.launchOf 0).lineage) ((x.ovf.toNat + 8 * (x.ohead % x.ovfmax)) % 2 ^ 64) 8 5
        (modQueue 0 3 (fun y => { y with inOvf := true }) s)).isSome = true) := by
  refine ⟨fun x hx => ?_, by unfold RoomFor; decide, by decide, by decide, by decide, by decide, by decide +kernel⟩
  simp only [List.mem_cons, List.not_mem_nil, or_false] at hx
  rcases hx with rfl | rfl | rfl <;>
    exact ⟨onlyWait_of (by decide +kernel), rfl, fun k hk y hy => (by rw [alone (by decide) hk] at hy; cases hy), by decide +kernel,
      by decide +kernel⟩

/-- Just 32 entries, none; a port's entries for the lowest lane. -/
theorem witness_QueuePop_issue :
    (∀ x ∈ [{ ring with cnt := 32 }, ring],
      kGet ((queued x).team 0).qregs (1 : BitVec 4).toNat = some (.queue 3) ∧ 3 < ((queued x).launchOf 0).nqueues ∧
        ((queued x).team 0).queues[3]? = some x ∧ x.ocnt = 0 ∧
        ∀ i ∈ [Instr.movPop h0 .b32 (.v 6) 1, .qtryPop h0 (.v 6) 1 7], Acts i (queued x) 0 0 h0) ∧
    ((takers (eligible (queued ring) 0 0 h0) (.v 6)).length ≤ 32) ∧
    (let s := st { tm with qregs := [(1, .port 2)], ports := [[], [], [9]] }
     kGet (s.team 0).qregs (1 : BitVec 4).toNat = some (.port 2) ∧ (s.team 0).ports[2]? = some [9] ∧
      (takers (eligible s 0 0 h0) (.s 6)).length ≤ [(9 : DWord)].length ∧ Acts (.movPop h0 .b64 (.s 6) 1) s 0 0 h0) := by
  refine ⟨fun x hx => ?_, by decide +kernel, rfl, rfl, by decide +kernel, acts_of (by decide +kernel)⟩
  simp only [List.mem_cons, List.not_mem_nil, or_false] at hx
  rcases hx with rfl | rfl <;> exact ⟨rfl, by decide +kernel, rfl, rfl, all_act (by decide +kernel)⟩

theorem witness_QueuePop_parked :
    let w := waiting (.pop (.queue 3) (.v 6) true)
    let g := { gr with waits := [w] }
    ∀ x ∈ [{ ring with cnt := 1 }, ring],
      OnlyWait (queued x g) 0 0 w ∧ ((queued x g).team 0).queues[3]? = some x ∧ x.ocnt = 0 ∧
      (∀ k, k ≠ 0 → ∀ y ∈ ((queued x g).grp 0 k).waits, ∀ e f, y.kind ≠ .pop (.queue 3) e f) ∧
      ∀ l < 32, w.lanes.getLsbD l = true ↔ l = lowest w.lanes := by
  intro w g x hx
  simp only [List.mem_cons, List.not_mem_nil, or_false] at hx
  rcases hx with rfl | rfl <;>
    exact ⟨onlyWait_of (by decide +kernel), rfl, rfl, fun k hk y hy => (by rw [alone (by decide) hk] at hy; cases hy), by decide +kernel⟩

/-- A descriptor at the end of the scratchpad that sets queue 3 up, with a ring that ends with it; one that does not, of a
queue that is and of one that is not set up; a queue number of 4. -/
def described (n init : Nat) (x : Queue) : State :=
  st { tm with queues := [{}, {}, {}, x], qregs := [(1, .queue 3)], scratch :=
    Store.writeLe [] (65536 - 32) 32 (n + 2 ^ 16 * init + 2 ^ 32 * (65536 - 64) + 2 ^ 64 * 4 + 2 ^ 80 * 7 + 2 ^ 96 * 0x20000 + 2 ^ 160 * 16) }
theorem witness_QueueBinding :
    (∀ n init x, (n, init, x) ∈ [(3, 1, {}), (3, 0, ring), (3, 0, ({} : Queue)), (4, 1, {})] →
      let s := described n init x
      let o := (wordOf (s.grp 0 0) (.imm 65504)).toNat
      let d := bytesAt (s.team 0).scratch o 32
      Acts (.qbindSq h0 1 (.imm 65504)) s 0 0 h0 ∧ s.ecc = [] ∧
        (o % 32 = 0 ∧ o + 32 ≤ (s.launchOf 0).scratchBytes ∧ d % 2 ^ 16 = n ∧ d.testBit 16 = decide (init = 1) ∧ d / 2 ^ 17 % 2 ^ 15 = 0 ∧
          d / 2 ^ 192 % 2 ^ 64 = 0 ∧ d / 2 ^ 64 % 2 ^ 16 ≠ 0 ∧ d / 2 ^ 32 % 2 ^ 32 % 8 = 0 ∧ d / 2 ^ 96 % 8 = 0 ∧
          d / 2 ^ 32 % 2 ^ 32 + 8 * (d / 2 ^ 64 % 2 ^ 16) ≤ (s.launchOf 0).scratchBytes) ∧
        NoPush s 0 n ∧ (n < (s.launchOf 0).nqueues ↔ n = 3) ∧ 3 < (s.team 0).queues.length ∧ (s.team 0).queues[3]? = some x ∧ HasPart s 0) ∧
    (∀ o ∈ [16, 65536], (o % 32 ≠ 0 ∨ (S.launchOf 0).scratchBytes < o + 32) ∧ Acts (.qbindSq h0 1 (.imm (BitVec.ofNat 32 o))) S 0 0 h0) ∧
    (∀ p ∈ [2, 3], Acts (.qbindPort h0 1 (BitVec.ofNat 8 p)) S 0 0 h0) ∧
    (let s := described 3 0 ring
     kGet (s.team 0).qregs (1 : BitVec 4).toNat = some (.queue 3) ∧ 3 < (s.launchOf 0).nqueues ∧ (s.team 0).queues[3]? = some ring ∧ NoPush s 0 3 ∧
      Acts (.qalwSet h0 1 (.imm 5)) s 0 0 h0 ∧ Acts (.qalwAdd h0 1 (.imm 0xFFFFFFFF)) s 0 0 h0) := by
  refine ⟨fun n init x hx => ?_, fun o ho => ?_, fun p hp => ?_, rfl, by decide +kernel, rfl, noPush_of (by decide), acts_of (by decide +kernel),
    acts_of (by decide +kernel)⟩
  · simp only [List.mem_cons, List.not_mem_nil, or_false, Prod.mk.injEq] at hx
    rcases hx with ⟨rfl, rfl, rfl⟩ | ⟨rfl, rfl, rfl⟩ | ⟨rfl, rfl, rfl⟩ | ⟨rfl, rfl, rfl⟩ <;>
      exact ⟨acts_of (by decide +kernel), rfl, by decide +kernel, noPush_of (by decide +kernel), by decide +kernel,
        by decide +kernel, rfl, by unfold HasPart; decide +kernel⟩
  · simp only [List.mem_cons, List.not_mem_nil, or_false] at ho
    rcases ho with rfl | rfl <;> exact ⟨by decide +kernel, acts_of (by decide +kernel)⟩
  · simp only [List.mem_cons, List.not_mem_nil, or_false] at hp
    rcases hp with rfl | rfl <;> exact acts_of (by decide +kernel)

/-! Engine commands. -/

/-- A record of rank 2 with dimensions 1024 and 128: base, TYPE, ROLE, the rest. -/
def tensor (base ty role x : Nat) : BitVec 512 :=
  BitVec.ofNat 512 (base + 2 ^ 64 * 1024 + 2 ^ 96 * 128 + 2 ^ 192 * 8192 + 2 ^ 312 * ty + 2 ^ 319 + 2 ^ 321 * role + x)
/-- FP32, BF16, Q16 records with S = 1, scale bytes, an index list of 128 rows. -/
def tF : BitVec 512 := tensor 0x20000 10 0 0
def tB : BitVec 512 := tensor 0x20000 11 0 (2 ^ 364 * 0x3F800000)
def tQ : BitVec 512 := tensor 0x20000 15 1 (2 ^ 323 + 2 ^ 364 * 0x3F800000)
def tS : BitVec 512 := tensor 0x20000 1 2 0
def tI : BitVec 512 := BitVec.ofNat 512 (0x20000 + 2 ^ 64 * 128 + 2 ^ 312 * 5)
/-- Scale bytes of 64 elements a row. -/
def tN : BitVec 512 := BitVec.ofNat 512 (0x20000 + 2 ^ 64 * 64 + 2 ^ 96 * 128 + 2 ^ 192 * 8192 + 2 ^ 312 + 2 ^ 319 + 2 ^ 321 * 2)
/-- A tensor in the scratchpad with dimensions 64 and 16, rows 256 bytes apart; an index list of 16 rows there. -/
def small (base ty role x : Nat) : BitVec 512 :=
  BitVec.ofNat 512 (base + 2 ^ 64 * 64 + 2 ^ 96 * 16 + 2 ^ 192 * 256 + 2 ^ 312 * ty + 2 ^ 317 + 2 ^ 319 + 2 ^ 321 * role + x)
def smallIdx (base : Nat) : BitVec 512 := BitVec.ofNat 512 (base + 2 ^ 64 * 16 + 2 ^ 312 * 5 + 2 ^ 317)
def params : Nat := 2 ^ 364 * 0x3F800000
def slotted : State := st { tm with slots := [(1, tF), (2, tF), (3, tI), (4, tB), (5, tQ), (6, tS), (7, tN),
  -- within the window, FP32 and BF16 at its very end, and beyond it by a byte or more
  (20, small 0x100 10 0 0), (21, small (65536 - 4096) 10 0 0), (22, small (65536 - 4092) 10 0 0),
  (23, smallIdx (65536 - 64)), (24, smallIdx (65536 - 60)),
  (25, small (65536 - 3968) 11 0 params), (26, small (65536 - 3966) 11 0 params),
  (27, small (65536 - recSize true 0) 15 1 (2 ^ 323 + params)), (28, small (65536 - recSize true 0 + 32) 15 1 (2 ^ 323 + params)),
  (29, small (65536 - 16) 1 2 0), (30, small (65536 - 15) 1 2 0)] }
theorem glob_in {size r a b c d e f : Nat} (h : laySp r = false) (hd : InDims r a b c d e f) : BoxIn size r a b c d e f :=
  ⟨hd, fun h' => by rw [h] at h'; cases h'⟩
def ee (aux : BitVec 5) (e0 e1 : BitVec 16) : EngExt := ⟨3, true, true, aux, false, 5, e0, e1⟩
theorem mayStart_of {i : Instr} {s : State} {k : Nat} (h : (actsB s 0 0 h0 i && decide ((s.grp 0 0).token k = .empty) &&
    decide (coreCommands s 0 < 64) && decide (3 < (s.launchOf 0).bars)) = true) (e : EngExt) (he : e.bar = 3) :
    MayStart i s 0 0 h0 k (barOf e) := by
  simp only [Bool.and_eq_true, decide_eq_true_eq] at h
  refine ⟨acts_of h.1.1.1, h.1.1.2, h.1.2, fun b hb => ?_⟩
  unfold barOf at hb
  split at hb
  · cases hb; rw [he]; exact h.2
  · cases hb

/-- A copy, and an addition, that end at the bounds of dimension 0; one beyond it. -/
theorem witness_TensorCommandsStart_copy :
    (kGet (slotted.team 0).slots 1 = some tF ∧ kGet (slotted.team 0).slots 2 = some tF ∧ layRole tF.toNat = layRole tF.toNat ∧
      RoleOk tF.toNat ∧ Crosses (layTy tF.toNat) (layTy tF.toNat) ∧ layRole tF.toNat = 0 ∧ Reduces 1 (layTy tF.toNat) ∧
      BoxIn 65536 tF.toNat 0 0 0 0 (extOf 1024) (extOf 128) ∧ (slotted.launchOf 0).scratchBytes = 65536) ∧
    (∀ op ∈ [0, 1], MayStart (cpyForms h0 .dflt 7 1 2 16 (ee 0 1024 128) op) slotted 0 0 h0 7 (barOf (ee 0 1024 128))) ∧
    (layDim tF.toNat 0 < 0 + extOf 0 ∧ Acts (.cpy h0 .dflt 7 1 2 16 (ee 0 0 128)) slotted 0 0 h0 ∧ HasPart slotted 0) := by
  refine ⟨⟨rfl, rfl, rfl, by unfold RoleOk; decide +kernel, Or.inl rfl, by decide +kernel, by unfold Reduces; decide +kernel,
    glob_in (by decide +kernel) (by unfold InDims; decide +kernel), by decide +kernel⟩, fun op ho => ?_, by decide +kernel, acts_of (by decide +kernel),
    by unfold HasPart; decide +kernel⟩
  simp only [List.mem_cons, List.not_mem_nil, or_false] at ho
  rcases ho with rfl | rfl <;> exact mayStart_of (by decide +kernel) _ rfl

/-- Boxes in the scratchpad: within the window, at its very end, beyond it. -/
theorem witness_TensorCommandsStart_window :
    let r (j : Nat) : Nat := ((kGet (slotted.team 0).slots j).getD 0).toNat
    (∀ j ∈ [20, 21, 25, 27, 29], BoxIn 65536 (r j) 0 0 0 0 64 16) ∧
    (∀ j ∈ [22, 26, 28, 30], InDims (r j) 0 0 0 0 64 16 ∧ ¬InWindow 65536 (r j) 0 0 0 0 64 16) ∧
    (layBase (r 23) + 4 * layDim (r 23) 0 = 65536 ∧ layBase (r 24) + 4 * layDim (r 24) 0 = 65540 ∧ laySp (r 23) = true ∧ laySp (r 24) = true) ∧
    (layRole (r 20) = 0 ∧ layRole (r 25) = 0 ∧ layTy (r 25) = .bf16 ∧ layRole (r 27) = 1 ∧ layQ16 (r 27) = true ∧ layTy (r 27) = .q16 ∧
      layRole (r 29) = 2 ∧ layTy (r 29) = .n8 ∧ layTy (r 23) = .n32 ∧ layRank (r 23) = 1 ∧ layDim (r 23) 0 ≤ layDim (r 20) 1) ∧
    (RoleOk (r 25) ∧ RoleOk (r 27) ∧ RoleOk (r 28) ∧ RoleOk (r 29) ∧ RoleOk (r 30) ∧ ParamsOk (r 27) ∧ ParamsOk (r 28) ∧
      WholeTiles (slotted.grp 0 0) 16 64 16) ∧
    (MayStart (.cpy h0 .dflt 7 20 21 16 (ee 0 64 16)) slotted 0 0 h0 7 (barOf (ee 0 64 16)) ∧
      MayStart (.gscG h0 .dflt 7 20 21 (ee 23 0 0)) slotted 0 0 h0 7 (barOf (ee 23 0 0)) ∧
      MayStart (.enc h0 .dflt 7 25 27 16 (ee 29 64 16)) slotted 0 0 h0 7 (barOf (ee 29 64 16)) ∧
      MayStart (.decBf16 h0 .dflt 7 27 25 16 (ee 29 64 16)) slotted 0 0 h0 7 (barOf (ee 29 64 16)) ∧
      MayStart (feedForms h0 7 25 16 (ee 0 64 16) 0) slotted 0 0 h0 7 (barOf (ee 0 64 16))) ∧
    (∀ i ∈ [Instr.cpy h0 .dflt 7 22 21 16 (ee 0 64 16), .cpy h0 .dflt 7 20 22 16 (ee 0 64 16), .gscG h0 .dflt 7 22 21 (ee 23 0 0),
        .gscG h0 .dflt 7 20 22 (ee 23 0 0), .gscG h0 .dflt 7 20 21 (ee 24 0 0), .enc h0 .dflt 7 26 27 16 (ee 29 64 16),
        .enc h0 .dflt 7 25 28 16 (ee 29 64 16), .enc h0 .dflt 7 25 27 16 (ee 30 64 16), .decBf16 h0 .dflt 7 28 25 16 (ee 29 64 16),
        .decBf16 h0 .dflt 7 27 26 16 (ee 29 64 16), .decBf16 h0 .dflt 7 27 25 16 (ee 30 64 16), feedForms h0 7 26 16 (ee 0 64 16) 0],
      Acts i slotted 0 0 h0) := by
  refine ⟨fun j hj => ?_, fun j hj => ?_, by decide +kernel, by decide +kernel, ?_,
    by refine ⟨?_, ?_, ?_, ?_, ?_⟩ <;> exact mayStart_of (by decide +kernel) _ rfl, all_act (by decide +kernel)⟩
  · revert j; unfold BoxIn InDims InWindow; decide +kernel
  · revert j; unfold InDims InWindow; decide +kernel
  · refine ⟨?_, ?_, ?_, ?_, ?_, ?_, ?_, by unfold WholeTiles; decide +kernel⟩ <;>
      first | (unfold RoleOk; decide +kernel) | (unfold ParamsOk; decide +kernel)

theorem witness_TensorCommandsStart_gather :
    (layRole tF.toNat = 0 ∧ layRole tI.toNat = 0 ∧ laySp tF.toNat = false ∧ laySp tI.toNat = false ∧ layTy tI.toNat = .n32 ∧
      layRank tI.toNat = 1 ∧ layDim tF.toNat 0 = layDim tF.toNat 0 ∧ 1 ≤ layDim tI.toNat 0 ∧ layDim tI.toNat 0 ≤ 65536 ∧ (1 < layRank tF.toNat → layDim tI.toNat 0 ≤ layDim tF.toNat 1)) ∧
    ∀ op ∈ [0, 1, 2], MayStart (gscForms h0 .dflt 7 1 2 (ee 3 0 0) op) slotted 0 0 h0 7 (barOf (ee 3 0 0)) := by
  refine ⟨by decide +kernel, fun op ho => ?_⟩
  simp only [List.mem_cons, List.not_mem_nil, or_false] at ho
  rcases ho with rfl | rfl | rfl <;> exact mayStart_of (by decide +kernel) _ rfl

theorem witness_TensorCommandsStart_tiles :
    (layTy tB.toNat = .bf16 ∧ layRole tQ.toNat = 1 ∧ RoleOk tQ.toNat ∧ layRole tS.toNat = 2 ∧ RoleOk tS.toNat ∧ layRole tB.toNat = 0 ∧
      RoleOk tB.toNat ∧ WholeTiles (slotted.grp 0 0) 16 64 16 ∧ ParamsOk tQ.toNat ∧ BoxIn 65536 tB.toNat 0 0 0 0 64 16 ∧
      BoxIn 65536 tQ.toNat 0 0 0 0 64 16 ∧ BoxIn 65536 tS.toNat 0 0 0 0 64 16) ∧
    ((slotted.team 0).seq.named = true ∧ bitOf (slotted.team 0).seq.stat.toNat 2 = false ∧ (∀ j, 1 ≤ j → j ≤ 3 → layStride tS.toNat j % 16 = 0)) ∧
    (∀ i ∈ [Instr.enc h0 .dflt 7 4 5 16 (ee 6 64 16), decForms h0 .dflt 7 5 4 16 (ee 6 64 16) true, decForms h0 .dflt 7 5 1 16 (ee 6 64 16) false,
        feedForms h0 7 4 16 (ee 0 64 16) 0, feedForms h0 7 5 16 (ee 0 64 16) 1, feedForms h0 7 6 16 (ee 0 64 16) 2],
      MayStart i slotted 0 0 h0 7 (barOf (ee 6 64 16))) ∧
    -- a scale tensor whose rows are too short
    (kGet (slotted.team 0).slots 7 = some tN ∧ layRole tN.toNat = 2 ∧ RoleOk tN.toNat ∧ WholeTiles (slotted.grp 0 0) 16 128 16 ∧
      BoxIn 65536 tB.toNat 0 0 0 0 128 16 ∧ BoxIn 65536 tQ.toNat 0 0 0 0 128 16 ∧ layDim tN.toNat 0 < 0 + extOf 128 ∧ HasPart slotted 0 ∧
      ∀ i ∈ [Instr.enc h0 .dflt 7 4 5 16 (ee 7 128 16), decForms h0 .dflt 7 5 4 16 (ee 7 128 16) true], Acts i slotted 0 0 h0) ∧
    (let s := st { tm with seq := {} }
     (s.team 0).seq.named = false ∧ HasPart s 0 ∧ Acts (feedForms h0 7 4 16 (ee 0 64 16) 0) s 0 0 h0) := by
  refine ⟨⟨by decide +kernel, by decide +kernel, by unfold RoleOk; decide +kernel, by decide +kernel, by unfold RoleOk; decide +kernel,
      by decide +kernel, by unfold RoleOk; decide +kernel, by unfold WholeTiles; decide +kernel, by unfold ParamsOk; decide +kernel,
      glob_in (by decide +kernel) (by unfold InDims; decide +kernel), glob_in (by decide +kernel) (by unfold InDims; decide +kernel),
      glob_in (by decide +kernel) (by unfold InDims; decide +kernel)⟩,
    ⟨rfl, by decide +kernel, fun j h1 h2 => ?_⟩, fun i hi => ?_,
    ⟨rfl, by decide +kernel, by unfold RoleOk; decide +kernel, by unfold WholeTiles; decide +kernel, glob_in (by decide +kernel) (by unfold InDims; decide +kernel),
      glob_in (by decide +kernel) (by unfold InDims; decide +kernel), by decide +kernel, by unfold HasPart; decide +kernel, all_act (by decide +kernel)⟩,
    rfl, by unfold HasPart; decide +kernel, acts_of (by decide +kernel)⟩
  · have : j = 1 ∨ j = 2 ∨ j = 3 := by omega
    rcases this with rfl | rfl | rfl <;> decide +kernel
  · simp only [List.mem_cons, List.not_mem_nil, or_false] at hi
    rcases hi with rfl | rfl | rfl | rfl | rfl | rfl <;> exact mayStart_of (by decide +kernel) _ rfl

/-- An empty slot; a token whose command is in flight; a barrier beyond the launch's. -/
theorem witness_TensorCommandsStart_refused :
    (kGet (S.team 0).slots 1 = none ∧ HasPart S 0 ∧ ∀ i ∈ [Instr.cpy h0 .dflt 7 1 2 16 (ee 0 1 1), .gscG h0 .dflt 7 1 2 (ee 3 0 0),
        .enc h0 .dflt 7 1 2 16 (ee 3 64 16), .decF32 h0 .dflt 7 1 2 16 (ee 3 64 16)], Acts i S 0 0 h0) ∧
    (let s := { slotted with teams := [{ slotted.team 0 with groups := [{ gr with tok := [(7, .names 0)] }] }], cmds := [cpy0] }
     kGet (s.team 0).slots 1 = some tF ∧ BoxIn 65536 tF.toNat 0 0 0 0 1 1 ∧ (s.grp 0 0).token 7 = .names 0 ∧ s.cmds[0]? = some cpy0 ∧
      cpy0.status = none ∧ Acts (.cpy h0 .dflt 7 1 2 16 (ee 0 1 1)) s 0 0 h0) ∧
    (let e : EngExt := { ee 0 1 1 with bar := 4 }
     barOf e = some 4 ∧ (slotted.launchOf 0).bars ≤ 4 ∧ HasPart slotted 0 ∧ Acts (.cpy h0 .dflt 7 1 2 16 e) slotted 0 0 h0) :=
  ⟨⟨rfl, by unfold HasPart; decide +kernel, all_act (by decide +kernel)⟩,
    ⟨rfl, glob_in (by decide +kernel) (by unfold InDims; decide +kernel), rfl, rfl, rfl, acts_of (by decide +kernel)⟩,
    rfl, by decide +kernel, by unfold HasPart; decide +kernel, acts_of (by decide +kernel)⟩

/-- The block at s2: a broadcast of 4 words by rank 0 in 2 streams. -/
def broadcast : Nat := 3 + 4 * 2 ^ 8 + 5 * 2 ^ 16 + 2 * 2 ^ 32 + 2 ^ 64 * 0x21000 + 2 ^ 128 * 0x22000 + 2 ^ 192 * 4 + 2 ^ 256
def blocks : State :=
  { recorded [(0x20000, 3), (0x20001, 4), (0x20002, 5), (0x20004, 2), (0x20009, 0x10), (0x2000A, 2), (0x20011, 0x20), (0x20012, 2), (0x20018, 4),
      (0x20020, 1)] with parts := [(0, { prt with colls := [{ collective with members := [me] }] })] }
/-- What a state shows of a block of n pieces. -/
def blockB (s : State) (_a : BitVec 6) (va n x : Nat) : Bool :=
  decide (x < 2 ^ (256 * n)) && (List.range n).all fun j =>
    ((List.range 32).all fun l => !(eligible s 0 0 h0).getLsbD l || passB s 0 0 .read false 32 (fun _ => (va + 32 * j) % 2 ^ 64) l) &&
    valueIn s.mem (piecesAt s 0 0 .read false 32 (fun _ => (va + 32 * j) % 2 ^ 64) (lowest (eligible s 0 0 h0))) == x / 2 ^ (256 * j) % 2 ^ 256
theorem block_of {s : State} {a : BitVec 6} {va n x : Nat} (hs : standsB s 0 = true) (hm : TablesStand s.mem) (h : blockB s a va n x = true) :
    BlockIs s 0 0 h0 a va n x := by
  simp only [blockB, Bool.and_eq_true, decide_eq_true_eq, List.all_eq_true, List.mem_range, Bool.or_eq_true, Bool.not_eq_true', beq_iff_eq] at h
  refine ⟨h.1, fun j hj => ⟨_, passes_of hs hm fun l hl he _ => ?_, (h.2 j hj).2⟩⟩
  rcases (h.2 j hj).1 l (List.mem_range.1 hl) with h' | h'
  · rw [he] at h'; cases h'
  · exact h'
theorem mayStartNone {i : Instr} {s : State} {k : Nat} (h : (actsB s 0 0 h0 i && decide ((s.grp 0 0).token k = .empty) &&
    decide (coreCommands s 0 < 64)) = true) : MayStart i s 0 0 h0 k none := by
  simp only [Bool.and_eq_true, decide_eq_true_eq] at h
  exact ⟨acts_of h.1.1, h.1.2, h.2, fun b hb => by cases hb⟩

theorem witness_BlockCommandsStart :
    -- NMC: a copy of no bytes; a block that is not aligned
    (MayStart (nmcForms h0 .dflt 7 2 1) S 0 0 h0 7 none ∧ BlockIs S 0 0 h0 2 0x20000 2 0 ∧ nmcForm 1 0 = true ∧
      regGet (S.grp 0 0) (.s 2) 0 2 = 0x20000 ∧ regGet (S.grp 0 0) (.s 8) 0 2 % 64 ≠ 0 ∧ HasPart S 0 ∧
      ∀ op ∈ [0, 1, 2, 3], Acts (nmcForms h0 .dflt 7 8 op) S 0 0 h0) ∧
    -- COLL
    (∀ resume : Bool, let i : Instr := if resume then .collResume h0 7 2 else .collStart h0 7 2
      MayStart i blocks 0 0 h0 7 none ∧ BlockIs blocks 0 0 h0 2 0x20000 4 broadcast ∧ blkBad broadcast = false ∧ broadcast.testBit 456 = false ∧
        collOf blocks 0 (BitVec.ofNat 16 (broadcast / 2 ^ 16)) = some { collective with members := [me] } ∧
        rankOf { collective with members := [me] } (blocks.launchOf 0).lid = some 0 ∧ broadcast / 2 ^ 288 % 2 ^ 32 < [me].length) ∧
    (let s := { blocks with parts := [(0, prt)] }
     Acts (.collStart h0 7 2) s 0 0 h0 ∧ BlockIs s 0 0 h0 2 0x20000 4 broadcast ∧ collOf s 0 (BitVec.ofNat 16 (broadcast / 2 ^ 16)) = none ∧
      (s.grp 0 0).handler = false ∧ (s.team 0).trapBase ≠ 0) ∧
    (regGet (S.grp 0 0) (.s 8) 0 2 % 128 ≠ 0 ∧ Acts (.collStart h0 7 8) S 0 0 h0) ∧
    -- FORK
    (regGet (S.grp 0 0) (.s 6) 0 2 % 64 = 0 ∧ MayStart (.fork h0 7 2 6) S 0 0 h0 7 none ∧ BlockIs S 0 0 h0 2 0x20000 2 0 ∧
      BlockIs S 0 0 h0 6 0x20100 2 0 ∧ Acts (.fork h0 7 8 2) S 0 0 h0 ∧ Acts (.fork h0 7 2 8) S 0 0 h0) := by
  have e7 : (blocks.launchOf 0).lid = 7 := rfl
  refine ⟨⟨mayStartNone (by decide +kernel), block_of (by decide +kernel) (tables_st _) (by decide +kernel), by decide +kernel, by decide +kernel,
      by decide +kernel, by unfold HasPart; decide +kernel, fun op ho => acts_of (by revert op; decide +kernel)⟩,
    fun resume => ⟨mayStartNone (by cases resume <;> decide +kernel), block_of (by decide +kernel) (stand_recorded gr (by decide)) (by decide +kernel),
      by decide +kernel, by decide +kernel, rfl, by rw [e7]; simp [rankOf, List.findIdx?_cons]; exact me_here, by decide +kernel⟩,
    ⟨acts_of (by decide +kernel), block_of (by decide +kernel) (stand_recorded gr (by decide)) (by decide +kernel), by decide +kernel, rfl,
      by decide +kernel⟩,
    ⟨by decide +kernel, acts_of (by decide +kernel)⟩,
    by decide +kernel, mayStartNone (by decide +kernel), block_of (by decide +kernel) (tables_st _) (by decide +kernel),
    block_of (by decide +kernel) (tables_st _) (by decide +kernel), acts_of (by decide +kernel), acts_of (by decide +kernel)⟩

/-! Engine steps, collectives. -/

def sp (base ty role x : Nat) : BitVec 512 := tensor base ty role (2 ^ 317 + x)
/-- One command of team 0 in flight. -/
def flying (c : Cmd) (x : Team := tm) : State := { st x with cmds := [c] }
theorem runs_of {s : State} {n t : Nat} {c : Cmd} (h : (s.cmds[n]? == some c && c.team == some t && decide (t < s.teams.length) &&
    c.status.isNone && c.fault.isNone && c.ending.isNone && (s.team t).phase == .resident && s.ecc == []) = true) : Runs s n c t := by
  simpa [Runs, and_assoc] using h

def feedSp (f : Nat) (r : BitVec 512) : Cmd := { cpy0 with kind := .feed f r [] 64 16 }
def tQs : BitVec 512 := sp 0x1000 15 1 (2 ^ 323)
def tSs : BitVec 512 := sp 0x200 1 2 (2 ^ 396 * 0x20000)
theorem witness_EngineCommandSteps_feed :
    (∀ f < 2, let c := feedSp f tQs
      let s := flying c
      Runs s 0 c 0 ∧ layRole tQs.toNat = 1 ∧ laySp tQs.toNat = true ∧ c.doneChunks.length < c.chunks ∧
        (∀ j < 0, ∀ x, s.cmds[j]? = some x → x.status.isSome = true) ∧
        spAt tQs.toNat (recOff tQs.toNat 0 0 0 0) + recSize (layQ16 tQs.toNat) (layCap tQs.toNat) ≤ (s.launchOf 0).scratchBytes ∧
        ((if f = 0 then (s.team 0).fa else (s.team 0).fb).map fun e => e.bytes.length).sum +
          recSize (layQ16 tQs.toNat) (layCap tQs.toNat) ≤ 131072) ∧
    (let c := feedSp 2 tSs
     let s := flying c
     Runs s 0 c 0 ∧ laySp tSs.toNat = true ∧ c.doneChunks.length < c.chunks ∧
      spAt tSs.toNat (scaleOff tSs.toNat 0 0 0 0) + 16 ≤ (s.launchOf 0).scratchBytes ∧ (s.team 0).valid.get 0 = 0 ∧
      (∃ ps, engAccess s (whoCmd c) c.lives false false ((laySsaddr tSs.toNat + 4 * (0 / 256)) % 2 ^ 64) 4 = .ok ps ∧ OrdinaryPieces s 0 .read ps) ∧
      c.part = (s.launchOf 0).part ∧ c.die = (s.team 0).die ∧ s.buffer = []) := by
  refine ⟨fun f hf => ?_, runs_of (by decide +kernel), by decide +kernel, by decide, by decide +kernel, by decide +kernel,
    ⟨(match engAccess (flying (feedSp 2 tSs)) (whoCmd (feedSp 2 tSs)) [] false false ((laySsaddr tSs.toNat + 4 * (0 / 256)) % 2 ^ 64) 4 with
      | .ok ps => ps
      | .error _ => []), by decide +kernel, ordinary_of (by decide +kernel) (by decide)⟩, rfl, rfl, rfl⟩
  have : f = 0 ∨ f = 1 := by omega
  rcases this with rfl | rfl <;>
    exact ⟨runs_of (by decide +kernel), by decide +kernel, by decide +kernel, by decide, fun j hj => by omega, by decide +kernel, by decide +kernel⟩

/-- A fault to serve, a command whose chunks are all performed and whose token a group awaits, a full buffer's entries. -/
theorem witness_EngineCommandSteps_end :
    (let c := { cpy0 with fault := some (0, 5) }
     (flying c).cmds[0]? = some c ∧ c.fault = some (0, 5) ∧ c.id = 0 ∧ Settled c ∧ c.team = some 0 ∧ c.port = none ∧
      ∀ b, c.kind ≠ .packet b) ∧
    (let c := { cpy0 with sizes := [64], doneChunks := [0] }
     let w : Wait := waiting (.tokens (BitVec.ofNat 16 (2 ^ 3)))
     let s := flying c { tm with groups := [{ gr with waits := [w], tok := [(3, .names 0)] }] }
     Runs s 0 c 0 ∧ c.id = 0 ∧ Settled c ∧ c.port = none ∧ c.doneChunks.length = c.chunks ∧ (∀ b, c.kind ≠ .packet b) ∧ (∀ r b i k, c.kind ≠ .coll r b i k) ∧
      OnlyWait s 0 0 w ∧ w.kind = .tokens (BitVec.ofNat 16 (2 ^ 3)) ∧ (s.grp 0 0).token 3 = .names 0) ∧
    (let c := { cpy0 with port := some (1, 7), status := some 0 }
     let s := flying c
     (s.team 0).ports[1]? = some [] ∧ s.cmds[0]? = some c ∧ c.team = some 0 ∧ c.port = some (1, 7) ∧ c.status = some 0 ∧ c.signalled = false) ∧
    (let s := { S with launches := [la, { la with port := some (0, 7), phase := .done 9 }] }
     (s.team 0).ports[2]? = some [] ∧ 1 < s.launches.length ∧ (s.launch 1).port = some (0, 7) ∧ (s.launch 1).phase = .done 9 ∧ s.records = [] ∧
      ∀ j < 1, (s.launch j).port = none) := by
  refine ⟨⟨rfl, rfl, rfl, ⟨rfl, fun k hk => (by cases hk)⟩, rfl, rfl, fun b hb => (by cases hb)⟩,
    ⟨runs_of (by decide +kernel), rfl, ⟨rfl, by decide⟩, rfl, rfl, fun b hb => (by cases hb),
    fun r b i k hb => (by cases hb), ⟨by unfold Claims.Exists; decide, rfl, rfl, rfl, rfl, rfl, rfl⟩, rfl, rfl⟩, ⟨rfl, rfl, rfl, rfl, rfl, rfl⟩,
    rfl, by decide, rfl, rfl, rfl, by decide⟩

/-- What a state shows of an access of a command. -/
def engPs (s : State) (c : Cmd) (write : Bool) (va n : Nat) : List Piece :=
  match engAccess s (whoCmd c) c.lives write false va n with
  | .ok ps => ps
  | .error _ => []
def engB (s : State) (c : Cmd) (write : Bool) (va n : Nat) : Bool :=
  (match engAccess s (whoCmd c) c.lives write false va n with
    | .ok ps => ps.all fun e => !isRemote e.1.pa && !isDev e.1.pa && (!write || !needsCopy s e.1) && e.1.shadow.isNone &&
        match homeDie (s.part c.part) e.1.pa with
        | some d => !(s.die d).lost && (s.die d).linkState == 0 && (s.die c.die).linkState == 0
        | none => true
    | .error _ => false) && decide (va + n < 2 ^ 31) && (whoCmd c).root.getD (s.part 0).root == 0x10000 && (whoCmd c).part == 0
theorem engAccess_congr {s s' : State} {w : Who} {ls : List (Nat × Bool)} {write words : Bool} {va n : Nat} {ps : List Piece}
    (hc : checkAccess s' w .read words va n = checkAccess s w .read words va n)
    (h : engAccess s w ls write words va n = .ok ps) (hs : ∀ e ∈ ps, e.1.shadow = none) : engAccess s' w ls write words va n = .ok ps := by
  unfold engAccess at h ⊢
  rw [hc]
  cases hq : checkAccess s w .read words va n with
  | error e => rw [hq] at h; cases h
  | ok qs =>
    rw [hq] at h
    simp only at h ⊢
    split_ifs at h ⊢
    · exact h
    · cases h
      refine congrArg Except.ok (List.map_congr_left fun e he => ?_)
      have := hs _ (List.mem_map.2 ⟨e, he, rfl⟩)
      simp only at this
      simp only [writeAddr, this]
theorem engPasses_of {s : State} {c : Cmd} {W : Nat → Prop} {write : Bool} {va n : Nat} (h : engB s c write va n = true)
    (hm : TablesStand s.mem) (hW : ∀ a, W a → a < 0x10000 ∨ 0x11010 ≤ a) : EngPasses s c W write va n (engPs s c write va n) := by
  simp only [engB, Bool.and_eq_true, decide_eq_true_eq, beq_iff_eq] at h
  obtain ⟨⟨⟨h1, h2⟩, h3⟩, h4⟩ := h
  split at h1
  · next ps he =>
    rw [show engPs s c write va n = ps by unfold engPs; rw [he]]
    refine ⟨fun e he => ?_, fun m hmem => ?_⟩
    · have k := List.all_eq_true.1 h1 e he
      simp only [Bool.and_eq_true, Bool.not_eq_true', Bool.or_eq_true] at k
      obtain ⟨⟨⟨⟨k1, k2⟩, k3⟩, -⟩, k5⟩ := k
      refine ⟨k1, k2, fun hw => by simpa [hw] using k3, fun d hd => ?_⟩
      rw [hd] at k5
      simp only [Bool.and_eq_true, Bool.not_eq_true', beq_iff_eq] at k5
      exact ⟨k5.1.1, k5.1.2, k5.2⟩
    · have hm' : TablesStand m := fun a a1 a2 => by
        rw [hmem a fun hw => by rcases hW a hw with h' | h' <;> omega]
        exact hm a a1 a2
      have hc : checkAccess { s with mem := m } (whoCmd c) .read false va n = checkAccess s (whoCmd c) .read false va n :=
        check_congr (s := s) (s' := { s with mem := m }) rfl rfl rfl h3 h4 hm hm' h2
      refine engAccess_congr hc he fun e he => ?_
      have k := List.all_eq_true.1 h1 e he
      simp only [Bool.and_eq_true, Option.isNone_iff_eq_none] at k
      exact k.1.2
  · cases h1
/-- Pieces lie above the tables. -/
theorem above_of {ps : List Piece} (h : ps.all (fun e => decide (0x11010 ≤ e.1.pa)) = true) (a : Nat) (hc : Covers ps a) : a < 0x10000 ∨ 0x11010 ≤ a := by
  obtain ⟨e, he, h1, h2⟩ := hc
  have := List.all_eq_true.1 h e he
  simp only [decide_eq_true_eq] at this
  omega

/-! The chunks of commands. -/

def cmdRd (s : State) (c : Cmd) (va n : Nat) : List Piece := engPs s c false va n
def cmdWr (s : State) (c : Cmd) (va n : Nat) : List Piece := engPs s c true va n
def cmdFr (s : State) (c : Cmd) (pa : Nat) : Nat := (resolve s c.part pa).getD 0
def reachB (s : State) (c : Cmd) (a : Nat) : Bool :=
  !isRemote a && !isDev a && match homeDie (s.part c.part) a with
    | some d => !(s.die d).lost && (s.die d).linkState == 0 && (s.die c.die).linkState == 0
    | none => true
theorem reach_of {s : State} {c : Cmd} {a : Nat} (h : reachB s c a = true) : InReach s c a := by
  simp only [reachB, Bool.and_eq_true, Bool.not_eq_true'] at h
  refine ⟨h.1.1, h.1.2, fun d hd => ?_⟩
  have := h.2
  rw [hd] at this
  simpa [and_assoc] using this
def okB (a : Except (Byte × Nat) (List Piece)) (ps : List Piece) : Bool := match a with
  | .ok x => x == ps
  | .error _ => false
theorem ok_of' {a : Except (Byte × Nat) (List Piece)} {ps : List Piece} (h : okB a ps = true) : a = .ok ps := by
  unfold okB at h
  split at h
  · exact congrArg _ (eq_of_beq h)
  · cases h
def getB (s : State) (c : Cmd) (g : Get) : Bool := match g.loc with
  | .sp o => c.team == some 0 && decide (o + g.size ≤ (s.launchOf 0).scratchBytes)
  | .glb va => okB (engAccess s (whoCmd c) c.lives false g.words va g.size) (cmdRd s c va g.size) &&
      (cmdRd s c va g.size).all fun e => reachB s c e.1.pa
theorem get_of {s : State} {c : Cmd} {g : Get} (h : getB s c g = true) : CanGet s c (cmdRd s c) g := by
  unfold getB at h
  unfold CanGet
  cases hl : g.loc with
  | sp o =>
    simp only [hl, Bool.and_eq_true, beq_iff_eq, decide_eq_true_eq] at h ⊢
    exact ⟨0, h⟩
  | glb va =>
    simp only [hl, Bool.and_eq_true, List.all_eq_true] at h ⊢
    exact ⟨ok_of' h.1, fun e he => reach_of (h.2 e he)⟩
def putB (s : State) (c : Cmd) (p : Put) : Bool :=
  (p.red.isNone || match c.kind, p.loc with
    | .nmc _ _, _ => true
    | _, .glb va => va % p.size == 0
    | _, _ => false) && match p.loc with
  | .sp o => c.team == some 0 && decide (o + p.size ≤ (s.launchOf 0).scratchBytes)
  | .glb va => okB (engAccess s (whoCmd c) c.lives true p.words va p.size) (cmdWr s c va p.size) &&
      (cmdWr s c va p.size).all fun e => reachB s c e.1.pa && !needsCopy s e.1
theorem put_of {s : State} {c : Cmd} {p : Put} (h : putB s c p = true) : CanPut s c (cmdWr s c) p := by
  simp only [putB, Bool.and_eq_true] at h
  refine ⟨fun hr => ?_, ?_⟩
  · have h1 := h.1
    simp only [Bool.or_eq_true, Option.isNone_iff_eq_none] at h1
    rcases h1 with h1 | h1
    · rw [h1] at hr; cases hr
    · split at h1
      · next op b hk => exact .inl ⟨op, b, hk⟩
      · next va hk _ => exact .inr ⟨va, hk, eq_of_beq h1⟩
      · cases h1
  · have h2 := h.2
    cases hl : p.loc with
    | sp o =>
      simp only [hl, Bool.and_eq_true, beq_iff_eq, decide_eq_true_eq] at h2 ⊢
      exact ⟨0, h2⟩
    | glb va =>
      simp only [hl, Bool.and_eq_true, List.all_eq_true, Bool.not_eq_true'] at h2 ⊢
      exact ⟨ok_of' h2.1, fun e he => ⟨reach_of (h2.2 e he).1, (h2.2 e he).2⟩⟩
def indexB (s : State) (c : Cmd) (i : Nat) : Bool := match rowOf c.kind i with
  | none => true
  | some row => getB s c { loc := indexLoc c.kind row, size := 4 }
theorem index_of {s : State} {c : Cmd} {i : Nat} (h : indexB s c i = true) : IndexOk s c (cmdRd s c) i := by
  intro row hr _
  simp only [indexB, hr] at h
  exact get_of h
def soundB (f : Loc → Nat → Nat) (x z : Nat) (o : Nat → Nat) (e1 i : Nat) : Bool :=
  recordOk (layQ16 x) (layCap x) (longAt f (decTile x z o e1 i).1 (recSize (layQ16 x) (layCap x))) &&
    (List.range 16).all fun j => goodSuper (f (superLoc z ((decTile x z o e1 i).2 + j)) 4)
theorem sound_of {f : Loc → Nat → Nat} {x z : Nat} {o : Nat → Nat} {e1 i : Nat} (h : soundB f x z o e1 i = true) : decSound f x z o e1 i := by
  obtain ⟨h1, h2⟩ := Bool.and_eq_true_iff.1 h
  exact ⟨h1, fun j hj => List.all_eq_true.1 h2 j (List.mem_range.2 hj)⟩
theorem isOk_of {ε α : Type} {x : Except ε α} (h : x.toOption.isSome = true) : ∃ a, x = .ok a := by
  cases x with
  | error _ => cases h
  | ok a => exact ⟨a, rfl⟩
def dataB (s : State) (c : Cmd) (i : Nat) : Bool :=
  let f := seen s c (cmdRd s c)
  match c.kind with
  | .enc src body _ org _ e1 => (encTile f src.toNat body.toNat (fun j => (org.getD j 0).toNat) e1 i).toOption.isSome
  | .dec _ body _ scl org _ e1 =>
    soundB f body.toNat scl.toNat (fun j => (org.getD j 0).toNat) e1 i
  | .nmc 0 b =>
    let page := indexAs c f (i / (b.toNat / 2 ^ 384 % 2 ^ 32 / 32))
    let pa := nmcFrame f (indexAs c f) b.toNat i
    decide (page < f (.glb (b.toNat % 2 ^ 64)) 4) && f (nmcEntry b.toNat page) 8 % 2 == 1 &&
      resolve s c.part pa == some (cmdFr s c pa) && granuleWorld s (cmdFr s c pa) == c.world && reachB s c (cmdFr s c pa)
  | _ => true
theorem data_of {s : State} {c : Cmd} {i : Nat} (h : dataB s c i = true) : DataOk s c (cmdRd s c) (cmdFr s c) i := by
  unfold dataB at h
  unfold DataOk
  cases hk : c.kind with
  | enc =>
    simp only [hk] at h ⊢
    exact isOk_of h
  | dec =>
    simp only [hk] at h ⊢
    exact sound_of h
  | nmc op b =>
    cases op with
    | zero =>
      simp only [hk, Bool.and_eq_true, decide_eq_true_eq, beq_iff_eq] at h ⊢
      exact ⟨h.1.1.1.1, h.1.1.1.2, h.1.1.2, h.1.2, reach_of h.2⟩
    | succ _ => trivial
  | _ => trivial
def goesB (s : State) (c : Cmd) (i : Nat) : Bool :=
  let w := workIn s c (cmdRd s c) (cmdFr s c) i
  indexB s c i && w.gets.all (getB s c) && dataB s c i && w.puts.all (putB s c)
theorem goes_of {s : State} {c : Cmd} {i : Nat} (h : goesB s c i = true) : Goes s c (cmdRd s c) (cmdWr s c) (cmdFr s c) i := by
  simp only [goesB, Bool.and_eq_true, List.all_eq_true] at h
  exact ⟨index_of h.1.1.1, fun g hg => get_of (h.1.1.2 g hg), data_of h.1.2, fun p hp => put_of (h.2 p hp)⟩
theorem inFlight_of {s : State} {n : Nat} {c : Cmd} (h : (s.cmds[n]? == some c && c.id == n && c.status.isNone && c.fault.isNone &&
    c.ending.isNone && !c.prompt && c.team == some 0 && decide (0 < s.teams.length) && (s.team 0).phase == .resident && s.ecc == [] &&
    s.buffer == [] && match c.kind with
      | .feed _ _ _ _ _ | .coll _ _ _ _ => false
      | _ => true) = true) : InFlight s n c := by
  simp only [Bool.and_eq_true, beq_iff_eq, Option.isNone_iff_eq_none, Bool.not_eq_true', decide_eq_true_eq] at h
  obtain ⟨⟨⟨⟨⟨⟨⟨⟨⟨⟨⟨h1, h2⟩, h3⟩, h4⟩, h5⟩, h6⟩, h7⟩, h8⟩, h9⟩, ha⟩, hb⟩, hc⟩ := h
  refine ⟨h1, h2, h3, h4, h5, h6, fun t ht => ?_, ha, hb, fun f r o a b hk => ?_, fun r b g k hk => ?_⟩
  · rw [h7] at ht; cases ht; exact ⟨h8, h9⟩
  · rw [hk] at hc; cases hc
  · rw [hk] at hc; cases hc

/-- Of each kind one command whose first chunk passes: a copy at the window's end, one that converts into memory and
transposes, one that adds, of a record, of scale bytes; the gathers, one index of which lies beyond; a tile encoded and one
decoded; the transfers near memory. -/
def tiny (base rows : Nat) : BitVec 512 := BitVec.ofNat 512 (base + 2 ^ 64 * 4 + 2 ^ 96 * rows + 2 ^ 192 * 16 + 2 ^ 312 * 10 + 2 ^ 319)
def tinyIdx : BitVec 512 := BitVec.ofNat 512 (0x200 + 2 ^ 64 * 2 + 2 ^ 312 * 5 + 2 ^ 317)
def spPlain (base ty : Nat) (r : Nat := 0) : BitVec 512 := sp base ty r 0
def chunkKinds : List CmdKind :=
  [.copy 0 (spPlain 0x100 10) (sp 0xFFF0 10 0 0) [] 4 1 false,
   .copy 0 (spPlain 0x100 10) (tensor 0x20000 11 0 0) [] 2 2 true,
   .copy 1 (spPlain 0x100 10) (tensor 0x20000 10 0 0) [] 2 1 false,
   .copy 0 (tensor 0x20000 15 1 (2 ^ 323)) (tensor 0x24000 15 1 (2 ^ 323)) [] 64 16 false,
   .copy 0 (tensor 0x20000 1 2 0) (sp 0x100 1 2 0) [] 128 2 false,
   .gather 0 (tiny 0x20000 1) (tiny (0x100 + 2 ^ 317) 8) tinyIdx, .gather 1 (tiny 0x20000 8) (tiny 0x21000 1) tinyIdx,
   .gather 2 (tiny 0x20000 8) (tiny 0x21000 8) tinyIdx,
   .nmc 1 (BitVec.ofNat 512 (0x20000 + 2 ^ 64 * 0x23000 + 2 ^ 128 * 96)),
   .nmc 2 (BitVec.ofNat 512 (0x20000 + 2 ^ 64 * 0x23000 + 2 ^ 128 * 5 + 10 * 2 ^ 192 + 11 * 2 ^ 197)),
   .nmc 3 (BitVec.ofNat 512 (0x20000 + 2 ^ 64 * 0x23000 + 2 ^ 128 * 5 + 10 * 2 ^ 192 + 10 * 2 ^ 197 + 2 ^ 202)),
   .packet (BitVec.ofNat 512 (1 + 10 * 2 ^ 8 + 11 * 2 ^ 13 + 2 ^ 64 * 0x20000 + 2 ^ 128 * 0x23000 + 2 ^ 192 * 3 + 2 ^ 224 * 2 + 2 ^ 256 * 32 +
     2 ^ 320 * 64))]
def ofKind (k : CmdKind) : Cmd := { cpy0 with kind := k }
theorem witness_EngineCommandSteps_checks : ∀ k ∈ chunkKinds,
    InFlight (flying (ofKind k)) 0 (ofKind k) ∧ itemsLeft (ofKind k) 0 ≠ [] ∧
      ∀ i ∈ itemsLeft (ofKind k) 0,
        Goes (flying (ofKind k)) (ofKind k) (cmdRd (flying (ofKind k)) (ofKind k)) (cmdWr (flying (ofKind k)) (ofKind k))
          (cmdFr (flying (ofKind k)) (ofKind k)) i := by
  have h : ∀ k ∈ chunkKinds, (itemsLeft (ofKind k) 0 ≠ []) ∧ ((itemsLeft (ofKind k) 0).all (goesB (flying (ofKind k)) (ofKind k))) = true := by
    decide +kernel
  have h' : ∀ k ∈ chunkKinds, InFlight (flying (ofKind k)) 0 (ofKind k) := fun k hk => inFlight_of (by revert k; decide +kernel)
  exact fun k hk => ⟨h' k hk, (h k hk).1, fun i hi => goes_of (List.all_eq_true.1 (h k hk).2 i hi)⟩

/-- A tile to encode, zeros; a tile to decode with S = 1 throughout; two pages of a list, in near memory. -/
def encKind (cap : Nat) (base : Nat := 0x100) : CmdKind :=
  .enc (small base 10 0 0) (tensor 0x24000 15 1 (2 ^ 323 + 2 ^ 324 * cap + params)) (tensor 0x28000 1 2 (2 ^ 396 * 0x2A000)) [] 64 16
def decKind : CmdKind :=
  .dec true (tensor 0x24000 16 1 params) (small 0x8000 11 0 0) (tensor 0x28000 1 2 (2 ^ 396 * 0x2A000)) [] 64 16
def pageKind : CmdKind := .nmc 0 (BitVec.ofNat 512 (0x20000 + 2 ^ 64 * 0x23000 + 2 ^ 256 * 0x21000 + 2 ^ 320 * 2 + 2 ^ 352 * 32 + 2 ^ 384 * 64))
def listed : Memory :=
  [(0x20000, 2), (0x20040, 1), (0x20044, 0x80), (0x20048, 1), (0x2004A, 1), (0x2004C, 0x80), (0x21000, 1), (0x2A002, 0x80), (0x2A003, 0x3F)]
def overList (k : CmdKind) : State := { flying (ofKind k) with mem := tables ++ listed, dies := List.replicate 4 { carve := 1 } }
theorem witness_EngineCommandSteps_tiles : ∀ k ∈ [encKind 63, decKind, pageKind],
    InFlight (overList k) 0 (ofKind k) ∧ itemsLeft (ofKind k) 0 ≠ [] ∧
      ∀ i ∈ itemsLeft (ofKind k) 0,
        Goes (overList k) (ofKind k) (cmdRd (overList k) (ofKind k)) (cmdWr (overList k) (ofKind k)) (cmdFr (overList k) (ofKind k)) i := by
  have h : ∀ k ∈ [encKind 63, decKind, pageKind], (itemsLeft (ofKind k) 0 ≠ []) ∧
      ((itemsLeft (ofKind k) 0).all (goesB (overList k) (ofKind k))) = true := by
    decide +kernel
  have h' : ∀ k ∈ [encKind 63, decKind, pageKind], InFlight (overList k) 0 (ofKind k) := fun k hk => inFlight_of (by revert k; decide +kernel)
  exact fun k hk => ⟨h' k hk, (h k hk).1, fun i hi => goes_of (List.all_eq_true.1 (h k hk).2 i hi)⟩

/-- The first access that fails: the index, a source, a destination. -/
def failB (a : Except (Byte × Nat) (List Piece)) (st : Byte) (x : Nat) : Bool := match a with
  | .error e => e == (st, x)
  | .ok _ => false
theorem fail_of {a : Except (Byte × Nat) (List Piece)} {st : Byte} {x : Nat} (h : failB a st x = true) : a = .error (st, x) := by
  unfold failB at h
  split at h
  · exact congrArg _ (eq_of_beq h)
  · cases h
def getFailB (s : State) (c : Cmd) (g : Get) (a : Nat) : Bool := match g.loc with
  | .sp o => a == o && c.team == some 0 && decide ((s.launchOf 0).scratchBytes < o + g.size)
  | .glb va => failB (engAccess s (whoCmd c) c.lives false g.words va g.size) 1 a
theorem getFail_of {s : State} {c : Cmd} {g : Get} {a : Nat} (h : getFailB s c g a = true) : GetFails s c g a := by
  unfold getFailB at h
  unfold GetFails
  cases hl : g.loc with
  | sp o =>
    simp only [hl, Bool.and_eq_true, beq_iff_eq, decide_eq_true_eq] at h ⊢
    exact ⟨h.1.1, fun t ht => by rw [h.1.2] at ht; cases ht; exact h.2⟩
  | glb va =>
    simp only [hl] at h ⊢
    exact fail_of h
/-- A plain write. -/
def putFailB (s : State) (c : Cmd) (p : Put) (st : Byte) (a : Nat) : Bool := match p.loc with
  | .sp o => st == 1 && a == o && p.red.isNone && c.team == some 0 && decide ((s.launchOf 0).scratchBytes < o + p.size)
  | .glb va => p.red.isNone && failB (engAccess s (whoCmd c) c.lives true p.words va p.size) st a
theorem putFail_of {s : State} {c : Cmd} {p : Put} {st : Byte} {a : Nat} (h : putFailB s c p st a = true) : PutFails s c p st a := by
  unfold putFailB at h
  unfold PutFails
  cases hl : p.loc with
  | sp o =>
    simp only [hl, Bool.and_eq_true, beq_iff_eq, decide_eq_true_eq, Option.isNone_iff_eq_none] at h ⊢
    exact ⟨h.1.1.1.1, h.1.1.1.2, h.1.1.2, fun t ht => by rw [h.1.2] at ht; cases ht; exact h.2⟩
  | glb va =>
    simp only [hl, Bool.and_eq_true, Option.isNone_iff_eq_none] at h ⊢
    exact .inr ⟨fun hr => absurd hr (by rw [h.1]; decide), fail_of h.2⟩
/-- Items 0 to i - 1 pass, item i is stopped with the status st at a. -/
def StopsAt (s : State) (c : Cmd) (i : Nat) (st : Byte) (a : Nat) : Prop :=
  InFlight s 0 c ∧ (∃ post, itemsLeft c 0 = List.range i ++ i :: post) ∧
    (∀ j < i, Goes s c (cmdRd s c) (cmdWr s c) (cmdFr s c) j) ∧ StoppedAt s c (cmdRd s c) (cmdWr s c) (cmdFr s c) i st a
theorem stopsAt_of {k : CmdKind} {i : Nat} {st : Byte} {a : Nat}
    (h1 : (let c := ofKind k
      InFlight (flying c) 0 c ∧ itemsLeft c 0 = List.range i ++ i :: (itemsLeft c 0).drop (i + 1)) ∧
      ((List.range i).all (goesB (flying (ofKind k)) (ofKind k))) = true)
    (h2 : StoppedAt (flying (ofKind k)) (ofKind k) (cmdRd (flying (ofKind k)) (ofKind k)) (cmdWr (flying (ofKind k)) (ofKind k))
      (cmdFr (flying (ofKind k)) (ofKind k)) i st a) : StopsAt (flying (ofKind k)) (ofKind k) i st a :=
  ⟨h1.1.1, ⟨_, h1.1.2⟩, fun j hj => goes_of (List.all_eq_true.1 h1.2 j (List.mem_range.2 hj)), h2⟩
/-- Beyond the window: a destination's third word, a source's third word, an index; a source that nothing maps; a word in a
counter page; a reduction that is misaligned. -/
theorem witness_EngineCommandSteps_stops :
    StopsAt (flying (ofKind (.copy 0 (spPlain 0x100 10) (spPlain 0xFFF8 10) [] 4 1 false)))
      (ofKind (.copy 0 (spPlain 0x100 10) (spPlain 0xFFF8 10) [] 4 1 false)) 2 1 0x10000 ∧
    StopsAt (flying (ofKind (.copy 0 (spPlain 0xFFF8 10) (spPlain 0x100 10) [] 4 1 false)))
      (ofKind (.copy 0 (spPlain 0xFFF8 10) (spPlain 0x100 10) [] 4 1 false)) 2 1 0x10000 ∧
    StopsAt (flying (ofKind (.gather 0 (tiny 0x20000 8) (tiny 0x21000 8) (tinyIdx + 0xFDFC)))) (ofKind (.gather 0 (tiny 0x20000 8) (tiny 0x21000 8)
      (tinyIdx + 0xFDFC))) 4 1 0x10000 ∧
    StopsAt (flying (ofKind (.copy 0 (tensor 0x80000000 10 0 0) (spPlain 0x100 10) [] 4 1 false)))
      (ofKind (.copy 0 (tensor 0x80000000 10 0 0) (spPlain 0x100 10) [] 4 1 false)) 0 1 0x80000000 ∧
    StopsAt (flying (ofKind (.copy 0 (spPlain 0x100 10) (tensor 0x40000000 10 0 0) [] 4 1 false)))
      (ofKind (.copy 0 (spPlain 0x100 10) (tensor 0x40000000 10 0 0) [] 4 1 false)) 0 2 0x40000000 ∧
    StopsAt (flying (ofKind (.copy 1 (spPlain 0x100 10) (tensor 0x20002 10 0 0) [] 4 1 false)))
      (ofKind (.copy 1 (spPlain 0x100 10) (tensor 0x20002 10 0 0) [] 4 1 false)) 0 1 0x20002 ∧
    Settled (ofKind pageKind) ∧ (ofKind pageKind).port = none := by
  refine ⟨stopsAt_of ⟨⟨inFlight_of (by decide +kernel), by decide +kernel⟩, by decide +kernel⟩ (.inr (.inr ⟨index_of (by decide +kernel),
      fun g hg => get_of (by revert g; decide +kernel), trivial, 0, _, rfl, fun x hx => (by cases hx), putFail_of (by decide +kernel)⟩)),
    stopsAt_of ⟨⟨inFlight_of (by decide +kernel), by decide +kernel⟩, by decide +kernel⟩ (.inr (.inl ⟨rfl, fun _ _ h => (by cases h),
      index_of (by decide +kernel), 0, _, rfl, fun x hx => (by cases hx), getFail_of (by decide +kernel)⟩)),
    stopsAt_of ⟨⟨inFlight_of (by decide +kernel), by decide +kernel⟩, by decide +kernel⟩ (.inl ⟨rfl, 1, by decide +kernel, rfl,
      getFail_of (by decide +kernel)⟩),
    stopsAt_of ⟨⟨inFlight_of (by decide +kernel), by decide +kernel⟩, by decide +kernel⟩ (.inr (.inl ⟨rfl, fun _ _ h => (by cases h),
      index_of (by decide +kernel), 0, _, rfl, fun x hx => (by cases hx), getFail_of (by decide +kernel)⟩)),
    stopsAt_of ⟨⟨inFlight_of (by decide +kernel), by decide +kernel⟩, by decide +kernel⟩ (.inr (.inr ⟨index_of (by decide +kernel),
      fun g hg => get_of (by revert g; decide +kernel), trivial, 0, _, rfl, fun x hx => (by cases hx), putFail_of (by decide +kernel)⟩)),
    stopsAt_of ⟨⟨inFlight_of (by decide +kernel), by decide +kernel⟩, by decide +kernel⟩ (.inr (.inr ⟨index_of (by decide +kernel),
      fun g hg => get_of (by revert g; decide +kernel), trivial, 0, _, rfl, fun x hx => (by cases hx), .inl ⟨rfl, by decide +kernel, fun hp => ?_⟩⟩)), ?_, rfl⟩
  · rcases hp (by decide +kernel) with ⟨_, _, h⟩ | ⟨va, h1, h2⟩
    · cases h
    · cases h1.symm.trans (by decide +kernel : _ = Loc.glb 0x20002); exact absurd h2 (by decide +kernel)
  · exact ⟨rfl, fun k hk => by cases hk⟩

/-- A chunk further on: of an ENC and of a FORK; the second of a copy, of one word. -/
def inTwo (k : CmdKind) : Cmd := { ofKind k with chunks := 2 }
def longCopy : Cmd := inTwo (.copy 0 (tensor 0x20000 10 0 0) (tensor 0x200000 10 0 0) [] 41 25 false)
theorem witness_EngineCommandSteps_later :
    (∀ k ∈ [encKind 63, .fork 0x20000 0x21000 1], InFlight (flying (inTwo k)) 0 (inTwo k) ∧ (inTwo k).sizes.length < 1 ∧ 1 < (inTwo k).chunks ∧
      stepwise (inTwo k).kind = true) ∧
    (InFlight (flying longCopy) 0 longCopy ∧ longCopy.sizes.length < 1 ∧ 1 < longCopy.chunks ∧ stepwise longCopy.kind = false ∧
      itemsLeft longCopy 1 = [1024] ∧
      ∀ i ∈ (itemsLeft longCopy 1).filter fun i => Config.freeBit (flying longCopy).tick (2 ^ 47 + i % (itemCount longCopy.kind).2),
        Goes (flying longCopy) longCopy (cmdRd (flying longCopy) longCopy) (cmdWr (flying longCopy) longCopy) (cmdFr (flying longCopy) longCopy) i) ∧
    (0x3F800000 < 256 ^ tyBytes .f32 ∧ Crosses .f32 .bf16) := by
  have h : ∀ i ∈ itemsLeft longCopy 1, goesB (flying longCopy) longCopy i = true := by decide +kernel
  exact ⟨fun k hk => ⟨inFlight_of (by revert k; decide +kernel), Nat.zero_lt_one, Nat.one_lt_two, by revert k; decide +kernel⟩,
    ⟨inFlight_of (by decide +kernel), by decide, by decide, rfl, by decide +kernel, fun i hi => goes_of (h i (List.mem_of_mem_filter hi))⟩,
    by decide, by unfold Crosses Raw; decide⟩

/-- A write that waits: in the window, in memory, a sum there. -/
def awaited (h : List Held) (done : List Nat) : Cmd := { ofKind (.copy 0 (spPlain 0x100 10) (spPlain 0x8000 10) [] 4 1 false) with held := h, sizes := [16], doneChunks := done }
theorem witness_EngineCommandSteps_writes : ∀ x ∈ [([⟨0, true, [(0x8000, 4)], false, none, 7⟩], []), ([⟨0, false, [(0x20000, 4)], false, none, 7⟩], []),
      ([⟨0, false, [(0x20000, 4)], false, some (.add, .f32), 7⟩], []), ([], []), ([⟨0, true, [(0x8000, 4)], false, none, 7⟩], [0])],
    let c := awaited x.1 x.2
    let s := flying c
    s.cmds[0]? = some c ∧ c.id = 0 ∧ c.status = none ∧ s.ecc = [] ∧ s.buffer = [] ∧
      (∀ t, c.team = some t → t < s.teams.length ∧ (s.team t).phase = .resident) ∧ (∀ f r o a b, c.kind ≠ .feed f r o a b) ∧
      (∀ r b g q, c.kind ≠ .coll r b g q) ∧ 0 < c.sizes.length ∧ 0 < c.chunks ∧ (c.rows.map Prod.fst).Nodup ∧
      (∀ h ∈ c.held, h.dev = false ∧ (h.sp = true → c.prompt = false ∧ c.team.isSome = true ∧ ∃ o m, h.spans = [(o, m)]) ∧
        (h.sp = false → c.prompt = false ∧ ∀ r ∈ h.spans, isDev r.1 = false)) ∧
      ((∀ h ∈ c.held, h.red = none) ∨ ∀ h ∈ c.held, h.red.isSome = true) := by
  intro x hx c s
  refine ⟨rfl, rfl, rfl, rfl, rfl, fun t ht => (by cases ht; exact ⟨Nat.zero_lt_one, rfl⟩), fun _ _ _ _ _ h => (by cases h), fun _ _ _ _ h => (by cases h),
    Nat.zero_lt_one, Nat.zero_lt_one, List.nodup_nil, ?_, ?_⟩ <;>
  · simp only [List.mem_cons, List.not_mem_nil, or_false] at hx
    rcases hx with rfl | rfl | rfl | rfl | rfl <;> simp [c, awaited, ofKind, cpy0, isDev, devBase, devTop]

/-- A tile with more exceptions than its record holds; superscales that are zero. -/
def overfull : State := flying (ofKind (encKind 0 0x1000)) { tm with scratch := [(0x1003, 0x3F)] }
def errorIs {α : Type} (x : Except Nat α) : Option Nat := match x with
  | .error m => some m
  | .ok _ => none
theorem error_of {α : Type} {x : Except Nat α} (h : (errorIs x).isSome = true) : ∃ m, x = .error m := by
  cases x with
  | error m => exact ⟨m, rfl⟩
  | ok _ => cases h
def tileB (s : State) (c : Cmd) : Bool := indexB s c 0 && (workIn s c (cmdRd s c) (cmdFr s c) 0).gets.all (getB s c)
theorem tile_of {s : State} {c : Cmd} (h : tileB s c = true) : IndexOk s c (cmdRd s c) 0 ∧
    ∀ g ∈ (workIn s c (cmdRd s c) (cmdFr s c) 0).gets, CanGet s c (cmdRd s c) g := by
  obtain ⟨h1, h2⟩ := Bool.and_eq_true_iff.1 h
  exact ⟨index_of h1, fun g hg => get_of (List.all_eq_true.1 h2 g hg)⟩
theorem witness_EngineCommandSteps_badTiles :
    (∀ e ∈ [(overfull, ofKind (encKind 0 0x1000)), (flying (ofKind decKind), ofKind decKind)],
      InFlight e.1 0 e.2 ∧ e.2.team = some 0 ∧ Settled e.2 ∧ e.2.port = none ∧ e.2.early = [] ∧ e.2.sizes.length = 0 ∧ 0 < e.2.chunks ∧
        IndexOk e.1 e.2 (cmdRd e.1 e.2) 0 ∧ ∀ g ∈ (workIn e.1 e.2 (cmdRd e.1 e.2) (cmdFr e.1 e.2) 0).gets, CanGet e.1 e.2 (cmdRd e.1 e.2) g) ∧
    0 < 64 / 64 * (16 / 16) ∧
    (∃ m, encTile (seen overfull (ofKind (encKind 0 0x1000)) (cmdRd overfull (ofKind (encKind 0 0x1000)))) (small 0x1000 10 0 0).toNat
      (tensor 0x24000 15 1 (2 ^ 323 + 2 ^ 324 * 0 + params)).toNat (fun j => (([] : List Word).getD j 0).toNat) 16 0 = .error m) ∧
    ¬decSound (seen (flying (ofKind decKind)) (ofKind decKind) (cmdRd (flying (ofKind decKind)) (ofKind decKind)))
      (tensor 0x24000 16 1 params).toNat (tensor 0x28000 1 2 (2 ^ 396 * 0x2A000)).toNat (fun j => (([] : List Word).getD j 0).toNat) 16 0 := by
  refine ⟨fun e he => ?_, by decide, error_of (by decide +kernel), fun h => absurd (h.2 0 (by decide)) (by decide +kernel)⟩
  have h : ∀ e ∈ [(overfull, ofKind (encKind 0 0x1000)), (flying (ofKind decKind), ofKind decKind)], tileB e.1 e.2 = true := by decide +kernel
  have ht := tile_of (h e he)
  simp only [List.mem_cons, List.not_mem_nil, or_false] at he
  rcases he with rfl | rfl <;>
    exact ⟨inFlight_of (by decide +kernel), rfl, ⟨rfl, fun k hk => (by cases hk)⟩, rfl, rfl, rfl, Nat.zero_lt_one, ht.1, ht.2⟩

/-- A FORK of one valid page: into counts that have room, and into one that is full. -/
def forkCmd : Cmd := { ofKind (.fork 0x20000 0x21000 1) with prompt := true }
def forking (m : BitVec 16) : State := { flying forkCmd with mem := tables ++ [(0x20040, 1), (0x20042, 3)], frames := [(3, m)] }
def forkAt : List (Nat × Nat) := [(0x21040, 8), (0x21000, 4), (0x21008, 8), (0x21010, 4)]
theorem witness_EngineCommandSteps_fork : ∀ m ∈ [(9 : BitVec 16), 65535],
    let s := forking m
    let c := forkCmd
    let W (a : Nat) : Prop := ∃ x ∈ forkAt, Covers (cmdWr s c x.1 x.2) a
    let sn := cmdRd s c 0x20040 8
    let adds (f : Nat) : Nat := ((List.range 1).filter fun _ => valueIn s.mem sn % 2 == 1 && valueIn s.mem sn / 2 ^ 16 % 2 ^ 36 == f).length
    Runs s 0 c 0 ∧ c.id = 0 ∧ Settled c ∧ c.sizes = [] ∧ c.early = [] ∧ c.doneChunks = [] ∧ 0 < c.chunks ∧ s.buffer = [] ∧
      (∀ x ∈ s.cmds, x.held = []) ∧ c.port = none ∧ EngPasses s c W false 0x20040 8 sn ∧ (∀ a, Covers sn a → ¬W a) ∧
      (∀ x ∈ forkAt, EngPasses s c W true x.1 x.2 (cmdWr s c x.1 x.2) ∧ ∀ e ∈ cmdWr s c x.1 x.2, e.1.cpl = none ∧ e.1.cache ≠ 2) ∧
      adds 3 = 1 ∧ (m = 9 → ∀ f, 0 < adds f → (s.frames.get f).toNat + adds f ≤ 65535) ∧ (m = 65535 → 65535 < (s.frames.get 3).toNat + adds 3) := by
  intro m hm s c W sn adds
  have hd : m = 9 ∨ m = 65535 := by simpa using hm
  have hs : TablesStand s.mem := fun a h1 h2 => by
    rw [show s.mem = tables ++ [(0x20040, 1), (0x20042, 3)] from rfl]
    exact get_append _ _ _ fun e he => by
      have : e.1 = 0x20040 ∨ e.1 = 0x20042 := by
        simp only [List.mem_cons, List.not_mem_nil, or_false] at he
        rcases he with rfl | rfl <;> simp
      omega
  have hb : ∀ x ∈ forkAt, engB s c true x.1 x.2 = true ∧ (cmdWr s c x.1 x.2).all (fun e => decide (0x21000 ≤ e.1.pa) && e.1.cpl.isNone && e.1.cache != 2) = true := by
    rcases hd with rfl | rfl <;> decide +kernel
  have hb' : ∀ x ∈ forkAt, ∀ e ∈ cmdWr s c x.1 x.2, 0x21000 ≤ e.1.pa ∧ e.1.cpl = none ∧ e.1.cache ≠ 2 := fun x hx e he => by
    have := List.all_eq_true.1 (hb x hx).2 e he
    simpa [and_assoc] using this
  have hW : ∀ a, W a → 0x21000 ≤ a := fun a ⟨x, hx, e, he, h1, _⟩ => (hb' x hx e he).1.trans h1
  have hr : engB s c false 0x20040 8 = true ∧ sn.all (fun e => decide (e.1.pa + e.2 ≤ 0x20048)) = true := by
    rcases hd with rfl | rfl <;> decide +kernel
  have hv : valueIn s.mem sn = 1 + 2 ^ 16 * 3 := by rcases hd with rfl | rfl <;> decide +kernel
  have ha : ∀ f, adds f = if f = 3 then 1 else 0 := fun f => by
    simp only [adds, hv]
    split_ifs with h
    · subst h; decide
    · simpa using Ne.symm h
  refine ⟨runs_of (by rcases hd with rfl | rfl <;> decide +kernel), rfl, ⟨rfl, fun k hk => (by cases hk)⟩, rfl, rfl, rfl, Nat.zero_lt_one, rfl,
    fun x hx => by rw [List.mem_singleton.1 hx]; rfl, rfl, engPasses_of hr.1 hs fun a h => Or.inr (by have := hW a h; omega), fun a ⟨e, he, h1, h2⟩ hw => ?_,
    fun x hx => ⟨engPasses_of (hb x hx).1 hs fun a h => Or.inr (by have := hW a h; omega), fun e he => (hb' x hx e he).2⟩, ha 3, fun h f hf => ?_, fun h => ?_⟩
  · have := hW a hw
    have := List.all_eq_true.1 hr.2 e he
    simp only [decide_eq_true_eq] at this
    omega
  · rw [ha] at hf ⊢
    have : f = 3 := by by_contra hn; simp [hn] at hf
    subst this h
    decide
  · rw [ha]
    subst h
    decide

/-- Two members of a group, both here; an ordered sum of four words in two streams, a word a chunk. -/
def reduceOf (q cw : Nat) : BitVec 1024 :=
  BitVec.ofNat 1024 (4 * 2 ^ 8 + 2 ^ 15 + 5 * 2 ^ 16 + 2 * 2 ^ 32 + 2 ^ 64 * (0x21000 + 0x100 * q) + 2 ^ 128 * (0x22000 + 0x100 * q) + 2 ^ 192 * 4 +
    2 ^ 256 + 2 ^ 320 * (0x23000 + 0x100 * q) + 2 ^ 384 * cw)
def memberCmd (q : Nat) (res begun : Bool) (done cw : Nat) : Cmd :=
  { cpy0 with id := q, kind := .coll res (reduceOf q cw) 5 q, chunks := 0, prog := List.replicate 64 done, begun := begun, prompt := true }
def pair2 : CollGroup := { collective with members := [me, me] }
def collecting (res begun : Bool) (done cw : Nat) : State :=
  { flying cpy0 with cmds := [memberCmd 0 res begun done cw, memberCmd 1 res begun done cw], parts := [(0, { prt with colls := [pair2] })] }
theorem ranks_pair : localRanks pair2 = [0, 1] := by
  have := own_lt
  have e : fld me.toNat 32 21 = ownNumber := by simp only [fld, Nat.shiftRight_eq_div_pow, me_toNat]; omega
  have hr : List.range 2 = [0, 1] := rfl
  simp [localRanks, pair2, hr, e]
def csOf (res begun : Bool) (done cw q : Nat) : Cmd := memberCmd q res begun done cw
theorem allHere_of (res begun : Bool) (done cw : Nat) (hc : cw = 0 ∨ cw = 0x24000) :
    AllHere (collecting res begun done cw) (memberCmd 0 res begun done cw) pair2 0 0 id (csOf res begun done cw) (reduceOf 0 cw).toNat := by
  refine ⟨rfl, ?_, by decide, rfl, rfl, fun q hq => ?_⟩
  · have e : collPeers (collecting res begun done cw) 0 pair2 0 = some [(0, 0), (1, 1)] := by
      have a0 : (collecting res begun done cw).cmds.findIdx? (fun c => collMember 0 5 0 c && c.inst == 0) = some 0 := by cases res <;> cases begun <;> rfl
      have a1 : (collecting res begun done cw).cmds.findIdx? (fun c => collMember 0 5 1 c && c.inst == 0) = some 1 := by cases res <;> cases begun <;> rfl
      have hid : pair2.id.toNat = 5 := rfl
      simp [collPeers, ranks_pair, hid, a0, a1]
    exact e
  · have hb : ∀ q, blockOf (csOf res begun done cw q) = (reduceOf q cw).toNat := fun _ => rfl
    have : q = 0 ∨ q = 1 := by have : q < 2 := hq; omega
    rcases this with rfl | rfl <;> refine ⟨rfl, rfl, by decide, ?_⟩ <;> simp only [hb] <;> rcases hc with rfl | rfl <;> decide +kernel

/-- The ends of the receive buffer's first word, of its progress word. -/
theorem witness_CollectiveSteps_chunk : ∀ res : Bool,
    let c := memberCmd 0 res true 0 0
    let s := collecting res true 0 0
    let x := (reduceOf 0 0).toNat
    let dst (e : Nat) : List Piece := engPs s c true ((x / 2 ^ 128 % 2 ^ 64 + 4 * e) % 2 ^ 64) 4
    let word := engPs s c true ((x / 2 ^ 320 % 2 ^ 64 + 4 * 0) % 2 ^ 64) 4
    let W (a : Nat) : Prop := (∃ e, 0 ≤ e ∧ e < 0 + 1 ∧ Covers (dst e) a) ∨ Covers word a
    Runs s 0 c 0 ∧ s.buffer = [] ∧ AllHere s c pair2 0 0 id (csOf res true 0 0) x ∧ c.kind = .coll res (reduceOf 0 0) 5 0 ∧ pair2.id.toNat = 5 ∧
      collSize x = 4 ∧ x / 2 ^ 32 % 128 = 2 ∧ x / 2 ^ 256 % 2 ^ 32 = 1 ∧ min 1 (collElements x 2 0 - 0) = 1 ∧
      (x % 16 < 2 ∧ Reduces (x / 16 % 16 + 1) (blkTy x)) ∧ c.begun = true ∧ c.prompt = true ∧ c.prog.length = 64 ∧ c.prog.getD 0 0 = 0 / 2 ∧
      0 < collElements x 2 0 ∧ (∃ j < 2, j ≠ 0 ∧ (c.prog.getD j 0 * 2 + j) * 1 < collElements x 2 0) ∧
      (∀ e, 0 ≤ e → e < 0 + 1 → EngPasses s c W true ((x / 2 ^ 128 % 2 ^ 64 + 4 * e) % 2 ^ 64) 4 (dst e) ∧
        ∀ o ∈ collOperands x 2 0 e, EngPasses s (csOf res true 0 0 o.1) W false
          ((blockOf (csOf res true 0 0 o.1) / 2 ^ 64 % 2 ^ 64 + 4 * o.2) % 2 ^ 64) 4
          (engPs s (csOf res true 0 0 o.1) false ((blockOf (csOf res true 0 0 o.1) / 2 ^ 64 % 2 ^ 64 + 4 * o.2) % 2 ^ 64) 4)) ∧
      EngPasses s c W true ((x / 2 ^ 320 % 2 ^ 64 + 4 * 0) % 2 ^ 64) 4 word ∧ x.testBit 15 = true ∧ x / 2 ^ 13 % 4 ≠ 1 := by
  intro res c s x dst word W
  have hm : TablesStand s.mem := tables_st tm
  have hW : ∀ a, W a → a < 0x10000 ∨ 0x11010 ≤ a := by
    rintro a (⟨e, -, he, hc⟩ | hc)
    · have : e = 0 := by omega
      subst this
      exact above_of (by cases res <;> decide +kernel) a hc
    · exact above_of (by cases res <;> decide +kernel) a hc
  refine ⟨runs_of (by cases res <;> decide +kernel), rfl, allHere_of res true 0 0 (.inl rfl), rfl, rfl, by decide +kernel,
    by decide +kernel, by decide +kernel, by decide +kernel, ⟨by decide +kernel, by unfold Reduces; decide +kernel⟩, rfl, rfl, rfl, rfl,
    by decide +kernel, ⟨1, by decide, by decide, by cases res <;> decide +kernel⟩, fun e _ he => ?_, engPasses_of (by cases res <;> decide +kernel) hm hW,
    by decide +kernel, by decide +kernel⟩
  have : e = 0 := by omega
  subst this
  refine ⟨engPasses_of (by cases res <;> decide +kernel) hm hW, fun o ho => engPasses_of ?_ hm hW⟩
  have : o = (0, 0) ∨ o = (1, 0) := by revert o; decide +kernel
  rcases this with rfl | rfl <;> cases res <;> decide +kernel

theorem witness_CollectiveSteps_begin : ∀ res : Bool,
    let c := memberCmd 0 res false 0 0
    let s := collecting res false 0 0
    let x := (reduceOf 0 0).toNat
    let vec (j : Nat) : List Piece := engPs s c (!res) ((x / 2 ^ 320 % 2 ^ 64 + 32 * j) % 2 ^ 64) 32
    let W (a : Nat) : Prop := ∃ j < 8, Covers (vec j) a
    Runs s 0 c 0 ∧ s.buffer = [] ∧ AllHere s c pair2 0 0 id (csOf res false 0 0) x ∧ c.begun = false ∧ c.prompt = true ∧
      collElements x 2 0 ≤ 4 * (x / 2 ^ 256 % 2 ^ 32) ∧ 0 < collElements x 2 0 ∧
      (∀ j < 8, EngPasses s c W (!res) ((x / 2 ^ 320 % 2 ^ 64 + 32 * j) % 2 ^ 64) 32 (vec j)) ∧
      (let v := (List.range 64).map fun k => valueIn s.mem (vec (k / 8)) / 2 ^ (32 * (k % 8)) % 2 ^ 32
       ∃ j < 2, (v.getD j 0 * 2 + j) * (x / 2 ^ 256 % 2 ^ 32) < collElements x 2 0) := by
  intro res c s x vec W
  have hm : TablesStand s.mem := tables_st tm
  have hv : ∀ j < 8, ((vec j).all fun e => decide (0x11010 ≤ e.1.pa)) = true := by cases res <;> decide +kernel
  have hW : ∀ a, W a → a < 0x10000 ∨ 0x11010 ≤ a := fun a ⟨j, hj, hc⟩ => above_of (hv j hj) a hc
  refine ⟨runs_of (by cases res <;> decide +kernel), rfl, allHere_of res false 0 0 (.inl rfl), rfl, rfl, by decide +kernel,
    by decide +kernel, fun j hj => engPasses_of (by revert j; cases res <;> decide +kernel) hm hW, ⟨0, by decide, by cases res <;> decide +kernel⟩⟩

theorem witness_CollectiveSteps_end : ∀ cw ∈ [0, 0x24000],
    let c := memberCmd 0 false true 2 cw
    let s := collecting false true 2 cw
    let x := (reduceOf 0 cw).toNat
    let word := engPs s c true cw 8
    Runs s 0 c 0 ∧ s.buffer = [] ∧ AllHere s c pair2 0 0 id (csOf false true 2 cw) x ∧ c.port = none ∧ c.held = [] ∧ c.sizes = [] ∧ x / 2 ^ 384 % 2 ^ 64 = cw ∧
      collElements x 2 0 ≤ 4 * (x / 2 ^ 256 % 2 ^ 32) ∧
      (∀ q < 2, (csOf false true 2 cw q).begun = true ∧ ∀ j < blockOf (csOf false true 2 cw q) / 2 ^ 32 % 128,
        collElements (blockOf (csOf false true 2 cw q)) 2 q ≤ ((csOf false true 2 cw q).prog.getD j 0 *
          (blockOf (csOf false true 2 cw q) / 2 ^ 32 % 128) + j) * (blockOf (csOf false true 2 cw q) / 2 ^ 256 % 2 ^ 32)) ∧
      (cw ≠ 0 → EngPasses s c (Covers word) true cw 8 word) := by
  intro cw hc c s x word
  have hm : TablesStand s.mem := tables_st tm
  have hc' : cw = 0 ∨ cw = 0x24000 := by simpa using hc
  rcases hc' with rfl | rfl
  · exact ⟨runs_of (by decide +kernel), rfl, allHere_of false true 2 _ (.inl rfl), rfl, rfl, rfl, by decide +kernel, by decide +kernel, by decide +kernel,
      fun h => absurd rfl h⟩
  · exact ⟨runs_of (by decide +kernel), rfl, allHere_of false true 2 _ (.inr rfl), rfl, rfl, rfl, by decide +kernel, by decide +kernel, by decide +kernel,
      fun _ => engPasses_of (by decide +kernel) hm (above_of (by decide +kernel))⟩

/-- Rank 1 has not issued its COLL when DEADLINE is over. -/
theorem witness_CollectiveSteps_failure :
    let c := memberCmd 0 false true 1 0
    let s := { collecting false true 1 0 with cmds := [c], cycle := 1000 }
    let vec (j : Nat) : List Piece := engPs s c true (((reduceOf 0 0).toNat / 2 ^ 320 % 2 ^ 64 + 32 * j) % 2 ^ 64) 32
    let W (a : Nat) : Prop := ∃ j < 8, Covers (vec j) a
    Runs s 0 c 0 ∧ s.buffer = [] ∧ c.kind = .coll false (reduceOf 0 0) (5 : BitVec 16).toNat 0 ∧ c.part = 0 ∧ collOf s 0 5 = some pair2 ∧
      pair2.id = 5 ∧ c.waitFor = none ∧ c.inst < s.cmds.length ∧ c.held = [] ∧ c.sizes = [] ∧ (reduceOf 0 0).toNat / 2 ^ 384 % 2 ^ 64 = 0 ∧ collPeers s 0 pair2 c.inst = none ∧
      (∀ x ∈ s.cmds, x.inst = c.inst → c.issued ≤ x.issued) ∧ pair2.deadline.toNat * 1000 ≤ now s - c.issued ∧
      (∀ m ∈ pair2.members, memberLost s 0 m = false) ∧ (∀ j x, j ≠ 0 → s.cmds[j]? = some x → x.status.isSome = true) ∧
      ∀ j < 8, EngPasses s c W true (((reduceOf 0 0).toNat / 2 ^ 320 % 2 ^ 64 + 32 * j) % 2 ^ 64) 32 (vec j) := by
  intro c s vec W
  have hm : TablesStand s.mem := tables_st tm
  have hv : ∀ j < 8, ((vec j).all fun e => decide (0x11010 ≤ e.1.pa)) = true := by decide +kernel
  have hW : ∀ a, W a → a < 0x10000 ∨ 0x11010 ≤ a := fun a ⟨j, hj, hc⟩ => above_of (hv j hj) a hc
  have hp : collPeers s 0 pair2 c.inst = none := by
    have a0 : s.cmds.findIdx? (fun c => collMember 0 5 0 c && c.inst == 0) = some 0 := rfl
    have a1 : s.cmds.findIdx? (fun c => collMember 0 5 1 c && c.inst == 0) = none := rfl
    have hid : pair2.id.toNat = 5 := rfl
    have hi : c.inst = 0 := rfl
    simp [collPeers, ranks_pair, hid, hi, a0, a1]
  refine ⟨runs_of (by decide +kernel), rfl, rfl, rfl, rfl, rfl, rfl, by decide, rfl, rfl, by decide +kernel, hp, fun x hx _ => ?_, by decide +kernel, fun m hmem => ?_,
    fun j x hj hx => ?_, fun j hj => engPasses_of (by revert j; decide +kernel) hm hW⟩
  · simp only [List.mem_singleton, show s.cmds = [c] from rfl] at hx
    rw [hx]
  · have : m = me := by simpa [pair2] using hmem
    subst this
    have hl : s.launches = [la] := rfl
    have hf : ([la].filter fun l => l.part == 0 && memberHere l.lid me) = [la] := by
      have h7 : memberHere la.lid me = true := me_here
      simp [h7, show la.part = 0 from rfl]
    rw [memberLost, hl, hf]
    rfl
  · rcases j with _ | j
    · exact absurd rfl hj
    · cases hx

/-! The sequencer. -/

def seqs (x : Team) : State := { st x with cur := .seq 0 }
theorem seqIssues {x : Team} (h : canSeq (seqs x) 0 = true) : SeqIssues (seqs x) 0 := ⟨rfl, h⟩
/-- The slots of `slotted`, some FIFO entries, a pool of one state of tiles. -/
def mats (fa fb : List Entry) (y : Tile := { state := .seq }) (f : Seq → Seq := id) (cfg : Word := 0x0102) : Team :=
  { slotted.team 0 with fa := fa, fb := fb, tiles := List.replicate 8 y, seq := f sq, selCfg := cfg }
def zeros : Entry := ⟨false, false, 0, List.replicate 2048 0⟩
def e1 : MmsExt := ⟨0, 0, 1, false, false⟩
def fifo : List Entry := List.replicate 8 zeros

theorem witness_SequencerControl :
    SeqIssues (sqs id) 0 ∧ (sqs id).ecc = [] ∧ (4 : Word).toNat % 4 = 0 ∧ (4 : Word).toNat + 4 ≤ ((sqs id).launchOf 0).scratchBytes ∧
    ((sqs id).team 0).seq.running = [] ∧ ((sqs id).team 0).seq.stage = none ∧
    (Tests .bs 8 3 ∧ ¬Tests .bs 8 4 ∧ Tests .lt 1 2 ∧ ¬Tests .ge 1 2) ∧
    (let s := seqs (mats [] [] {} fun q => { q with running := [{ ins := .sqcwEnd, pc := 0, aslot := 0, bslot := 0, posA := 0, posB := 0, bTeam := 0, tile := 0 }] })
     SeqIssues s 0 ∧ (s.team 0).seq.running ≠ [] ∧ (s.team 0).seq.stage = none) ∧
    -- ACLR
    (((sqs id).team 0).tiles.length = ((sqs id).launchOf 0).accs ∧ ((sqs id).team 0).tiles[7]? = some { state := .seq }) ∧
    (let s := seqs (mats [] [] { x128 := true, state := .seq })
     SeqIssues s 0 ∧ ((s.team 0).tiles.getD 4 {}).x128 = true ∧ ((s.team 0).tiles.getD 4 {}).state = .seq ∧ (s.team 0).tiles.length = (s.launchOf 0).accs ∧
      (s.team 0).seq.running = []) ∧
    (let s := seqs (mats [] [] { state := .group 1 })
     SeqIssues s 0 ∧ ((s.team 0).tiles.getD 4 {}).x128 = false ∧ ((s.team 0).tiles.getD 7 {}).state = .group 1) ∧
    (4 : BitVec 3).toNat % 4 = 0 ∧ ∀ j, 4 ≤ j → j < 8 → (((sqs id).team 0).tiles.getD j {}).state = .seq :=
  ⟨⟨rfl, by decide +kernel⟩, rfl, by decide, by decide +kernel, rfl, rfl, ⟨by unfold Tests; decide, by unfold Tests; decide, by unfold Tests; decide,
      by unfold Tests; decide⟩, ⟨seqIssues (by decide +kernel), by decide +kernel, rfl⟩, ⟨by decide +kernel, rfl⟩,
    ⟨seqIssues (by decide +kernel), rfl, rfl, by decide +kernel, rfl⟩, ⟨seqIssues (by decide +kernel), rfl, rfl⟩, by decide,
    fun j h1 h2 => by
      have : j = 4 ∨ j = 5 ∨ j = 6 ∨ j = 7 := by omega
      rcases this with rfl | rfl | rfl | rfl <;> rfl⟩

/-- Entries that pass, and a bound on them. -/
def entriesB (s : State) (sa sb : BitVec 512) (e : MmsExt) : Bool :=
  (List.range (8 * e.kb.toNat)).all fun pos => consumeOne s 0 false sa.toNat 0 e.asc.toNat pos == .ok &&
    consumeOne s 0 true sb.toNat 0 e.bsc.toNat pos == .ok
theorem entries_of {s : State} {sa sb : BitVec 512} {e : MmsExt} (h : entriesB s sa sb e = true) (ra rb : Bool) : EntriesOk s 0 sa sb e ra rb := by
  intro pos hp
  have := List.all_eq_true.1 h pos (List.mem_range.2 hp)
  simp only [Bool.and_eq_true, beq_iff_eq] at this
  exact ⟨fun _ => this.1, fun _ => this.2⟩
theorem zeros_ok : entriesB (seqs (mats fifo fifo)) tB tB e1 = true := by decide +kernel

theorem witness_MatrixMultiply_start :
    (let s := seqs (mats fifo fifo)
     SeqIssues s 0 ∧ kGet (s.team 0).slots 4 = some tB ∧ Ready0 s 0 false 7 4 4 e1 ∧ EntriesOk s 0 tB tB e1 true true) ∧
    (let s := seqs (mats [] [])
     SeqIssues s 0 ∧ kGet (s.team 0).slots 4 = some tB ∧ Ready0 s 0 false 7 4 4 e1 ∧ (s.team 0).fa = [] ∧ 0 < e1.kb.toNat ∧
      (7 : BitVec 3).toNat + 1 ≤ (s.launchOf 0).accs ∧ kGet (s.team 0).slots 9 = none ∧ ((s.team 0).tiles.getD 7 {}).x128 ≠ true) ∧
    (∀ x ∈ [TileState.team, .group 1], let s := seqs (mats [] [] { state := x })
      SeqIssues s 0 ∧ (((s.team 0).tiles.getD 7 {}).state = .team ∨ ∃ g, ((s.team 0).tiles.getD 7 {}).state = .group g)) := by
  refine ⟨⟨seqIssues (by decide +kernel), rfl, by unfold Ready0; decide +kernel, entries_of zeros_ok _ _⟩,
    ⟨seqIssues (by decide +kernel), rfl, by unfold Ready0; decide +kernel, rfl, by decide, by decide +kernel, by decide +kernel, by decide +kernel⟩,
    fun x hx => ?_⟩
  simp only [List.mem_cons, List.not_mem_nil, or_false] at hx
  rcases hx with rfl | rfl
  · exact ⟨seqIssues (by decide +kernel), Or.inl rfl⟩
  · exact ⟨seqIssues (by decide +kernel), Or.inr ⟨1, rfl⟩⟩

/-- At most two cores of a die are off, so one of three pairs is complete. -/
theorem some_pair (d : Nat) : ∃ k < 3, coreOn d (2 * k) = true ∧ coreOn d (2 * k + 1) = true := by
  have hh : 34 ≤ ((List.range 36).filter fun c => (harvest d).getLsbD c).length := by
    unfold harvest
    split
    · assumption
    · decide
  by_contra hn
  have hn : ∀ k < 3, coreOn d (2 * k) = true → coreOn d (2 * k + 1) = false := fun k hk h => by
    by_contra hc
    exact hn ⟨k, hk, h, by simpa using hc⟩
  have off : ∀ k, k < 3 → ∃ c, c / 2 = k ∧ c < 36 ∧ (harvest d).getLsbD c = false := by
    intro k hk
    have := hn k hk
    by_cases h : coreOn d (2 * k) = true
    · refine ⟨2 * k + 1, by omega, by omega, ?_⟩
      have := this h
      simpa [coreOn, show 2 * k + 1 < 36 by omega] using this
    · refine ⟨2 * k, by omega, by omega, ?_⟩
      simpa [coreOn, show 2 * k < 36 by omega] using h
  obtain ⟨a, a1, a2, a3⟩ := off 0 (by decide)
  obtain ⟨b, b1, b2, b3⟩ := off 1 (by decide)
  obtain ⟨c, c1, c2, c3⟩ := off 2 (by decide)
  have h1 := List.length_eq_length_filter_add (l := List.range 36) fun c => (harvest d).getLsbD c
  have h2 : [a, b, c].length ≤ ((List.range 36).filter fun c => !(harvest d).getLsbD c).length := by
    apply List.Subperm.length_le
    apply List.subperm_of_subset
    · simp only [List.nodup_cons, List.mem_cons, List.not_mem_nil, or_false, not_or, not_false_eq_true, List.nodup_nil, and_true]
      omega
    · intro x hx
      simp only [List.mem_cons, List.not_mem_nil, or_false] at hx
      rcases hx with rfl | rfl | rfl <;> exact List.mem_filter.2 ⟨List.mem_range.2 ‹_›, by simp only [*]; rfl⟩
  simp only [List.length_cons, List.length_nil, List.length_range] at h1 h2
  omega

/-- Two teams of a launch on the cores of a pair. -/
def paired (k : Nat) (r : Option Instr) (y : BitVec 512 := tB) : State :=
  { seqs tm with teams := [{ mats fifo fifo with core := 2 * k },
      { mats fifo fifo { state := .seq } (fun q => { q with rendezvous := r }) with core := 2 * k + 1, linear := 1, slots := [(4, y)] }] }
theorem pair_of (k : Nat) (hk : k < 3) (h : coreOn 0 (2 * k + 1) = true) (r : Option Instr) (y : BitVec 512) : pairTeam (paired k r y) 0 = some 1 := by
  have hx : (2 * k) ^^^ 1 = 2 * k + 1 := by
    rcases k with _ | _ | _ | k
    · rfl
    · rfl
    · rfl
    · omega
  have e0 : ((paired k r y).team 0).core = 2 * k := rfl
  have e1 : ((paired k r y).team 0).die = 0 := rfl
  have hl : (paired k r y).teams.length = 2 := rfl
  unfold pairTeam
  simp only [e0, e1, hx, h, hl]
  rw [if_neg (by simp [paired, State.team, mats, slotted, st]; rfl)]
  simp [List.range_succ, paired, State.team, mats, slotted, st, tm]

theorem consume_congr {s s' : State} {t u : Nat} (h1 : (s.team t).fa = (s'.team u).fa) (h2 : (s.team t).fb = (s'.team u).fb)
    (h3 : (s.team t).scale = (s'.team u).scale) (h4 : (s.team t).latch = (s'.team u).latch) (h5 : (s.team t).valid = (s'.team u).valid)
    (h6 : (s.team t).seq.running = []) (h7 : (s'.team u).seq.running = []) (h8 : s.ecc = []) (h9 : s'.ecc = []) (b : Bool) (r f sc pos : Nat) :
    consumeOne s t b r f sc pos = consumeOne s' u b r f sc pos := by
  unfold consumeOne slotReady entryData coreBad
  simp only [h1, h2, h3, h4, h5, h6, h7, h8, h9, List.all_nil, List.any_nil]
/-- A team whose FIFOs begin with 8 tiles of zeros. -/
theorem zeros_for {s : State} {t : Nat} (h1 : (s.team t).fa = fifo) (h2 : (s.team t).fb = fifo) (h3 : (s.team t).scale = [])
    (h4 : (s.team t).latch = []) (h5 : (s.team t).valid = []) (h6 : (s.team t).seq.running = []) (h7 : s.ecc = []) (ra rb : Bool) :
    EntriesOk s t tB tB e1 ra rb := by
  intro pos hp
  have c := fun b sc => consume_congr (s := s) (s' := seqs (mats fifo fifo)) (t := t) (u := 0) h1 h2 h3 h4 h5 h6 rfl h7 rfl b tB.toNat 0 sc pos
  rw [c, c]
  exact entries_of zeros_ok ra rb pos hp
theorem issues2 (k : Nat) (r : Option Instr) (y : BitVec 512) : canSeq (paired k r y) 0 = true := by
  simp [canSeq, paired, State.team, mats, slotted, seqs, st, tm, sq, bitOf, statRun]

/-- Both wait, or start; other instructions; another slot of B. -/
theorem witness_MatrixMultiply_pair : ∃ k < 3,
    (∀ r y, pairTeam (paired k r y) 0 = some 1 ∧ SeqIssues (paired k r y) 0 ∧ kGet ((paired k r y).team 0).slots 4 = some tB ∧
      kGet ((paired k r y).team 1).slots 4 = some y) ∧
    (∀ r ∈ [none, some (Instr.mmsPair false 7 4 4 e1)], let s := paired k r
      Ready0 s 0 false 7 4 4 e1 ∧ startBad false ((s.team 1).tile (tileBase (s.team 1) 7)).x128 (some tB) (some tB) 4 4 e1 = none ∧
        (s.team 1).seq.running = [] ∧ (s.team 1).seq.attempt = none ∧ (s.team 1).seq.rendezvous = r ∧ (s.team 0).core % 2 = 0) ∧
    (∀ r, EntriesOk (paired k r) 0 tB tB e1 true true ∧ EntriesOk (paired k r) 1 tB tB e1 true false) ∧
    (∀ n j y, (n, j, y) ∈ [(1, Instr.mmsPair false 6 4 4 e1, tB), (2, .mmsPair false 7 4 4 e1, tF)] → let s := paired k (some j) y
      (7 : BitVec 3).toNat + 1 ≤ (s.launchOf 0).accs ∧ (s.team 0).seq.running = [] ∧ (s.team 0).seq.attempt = none ∧
        ((s.team 0).tiles.getD (if ((s.team 0).tiles.getD (7 / 4 * 4) {}).x128 then 7 / 4 * 4 else 7) {}).state = .seq ∧
        (s.team 1).seq.rendezvous = some j ∧ ((n = 1 ∧ j ≠ .mmsPair false 7 4 4 e1) ∨ (n = 2 ∧ j = .mmsPair false 7 4 4 e1 ∧
          kGet (s.team 0).slots (4 : BitVec 5).toNat ≠ kGet (s.team 1).slots (4 : BitVec 5).toNat))) := by
  obtain ⟨k, hk, h0, h1⟩ := some_pair 0
  refine ⟨k, hk, fun r y => ⟨pair_of k hk h1 r y, ⟨rfl, issues2 k r y⟩, rfl, rfl⟩, fun r hr => ⟨?_, ?_, rfl, rfl, rfl, ?_⟩, fun r => ⟨?_, ?_⟩,
    fun n j y hn => ⟨by show 8 ≤ la.accs; decide +kernel, rfl, rfl, rfl, rfl, ?_⟩⟩
  · exact (by unfold Ready0; decide +kernel : Ready0 (seqs (mats fifo fifo)) 0 false 7 4 4 e1)
  · exact (by decide +kernel : startBad false (((seqs (mats fifo fifo)).team 0).tile 7).x128 (some tB) (some tB) 4 4 e1 = none)
  · show 2 * k % 2 = 0
    omega
  · exact zeros_for rfl rfl rfl rfl rfl rfl rfl _ _
  · exact zeros_for rfl rfl rfl rfl rfl rfl rfl _ _
  · simp only [List.mem_cons, List.not_mem_nil, or_false, Prod.mk.injEq] at hn
    rcases hn with ⟨rfl, rfl, rfl⟩ | ⟨rfl, rfl, rfl⟩
    · exact .inl ⟨rfl, by decide⟩
    · exact .inr ⟨rfl, rfl, (by decide +kernel : some tB ≠ some tF)⟩

def mmsRun (i : Instr) : Attempt := { ins := i, pc := 0x50000, aslot := tB, bslot := tB, posA := 8, posB := 8, bTeam := 0, tile := 7 }
theorem witness_MatrixMultiply_commit :
    (∀ x : Bool, let p := mmsRun (.mms x 7 4 4 e1)
      let s := seqs (mats fifo fifo { x128 := x, state := .seq } fun q => { q with running := [p] })
      (s.team 0).seq.running = [p] ∧ p.ins = .mms x 7 4 4 e1 ∧ p.bTeam = 0 ∧ (s.team 0).tiles[p.tile]? = some { x128 := x, state := .seq } ∧
        (({ x128 := x, state := .seq } : Tile).data).wf = true ∧ 0 < s.teams.length) ∧
    (∃ k < 3, let p := mmsRun (.mmsPair false 7 4 4 e1)
      let s := { paired k none with teams := (paired k none).teams.map fun x => { x with seq := { x.seq with running := [p] } } }
      pairTeam s 0 = some 1 ∧ (s.team 0).seq.running = [p] ∧ (s.team 1).seq.running = [p] ∧ p.ins = .mmsPair false 7 4 4 e1 ∧ 1 < s.teams.length) ∧
    -- two K-blocks, the least and the greatest superscale, an outlier
    (let a : RowK := ⟨[1, 0, 5], 255, 0x00800000, [(1, 0x4000), (63, 0xFF80)]⟩
     let b : RowK := ⟨[0, -7], 0, 0x7F7FFFFF, []⟩
     RowGood a ∧ RowGood b ∧ [a, b].length = [b, a].length ∧ (0 : Nat) < 2 ^ 32 ∧ (0 : Nat) < 2 ^ 128) ∧
    (let s := seqs { mats [] [] with linear := 1 }
     SeqIssues s 0 ∧ pairTeam s 0 = none ∧ (7 : BitVec 3).toNat + 1 ≤ (s.launchOf 0).accs) := by
  obtain ⟨k, hk, -, h1⟩ := some_pair 0
  refine ⟨fun x => ⟨rfl, rfl, rfl, rfl, rfl, by show 0 < 1; decide⟩, ⟨k, hk, ?_, rfl, rfl, rfl, by show 1 < 2; decide⟩,
    ⟨by unfold RowGood; decide, by unfold RowGood; decide, rfl, by decide, by decide⟩, seqIssues (by decide +kernel), ?_, by decide +kernel⟩
  · exact pair_of k hk h1 none tB
  · rfl

def ve : VprojExt := ⟨e1, 0, 0x10⟩
theorem witness_SelectionAndGradient_start :
    (∀ back first last : Bool, let y : Tile := { state := if first then .seq else .sealed back false }
      let s := seqs (mats fifo fifo y)
      SeqIssues s 0 ∧ (7 : BitVec 3).toNat < (s.launchOf 0).accs ∧ (s.team 0).seq.running = [] ∧ (s.team 0).seq.stage = none ∧
        (s.team 0).seq.attempt = none ∧ (s.team 0).tiles[7]? = some y ∧ ((s.team 0).tiles.getD 4 {}).x128 = false ∧
        (if first then y.state = .seq else y.state = .sealed back false) ∧ kGet (s.team 0).slots 4 = some tB ∧
        startBad false false (some tB) (some tB) 4 4 ve.m = none ∧ EntriesOk s 0 tB tB ve.m true true ∧ SelOk s 0 ∧ s.ecc = [] ∧
        64 * ve.pblk.toNat + 64 ≤ (s.launchOf 0).scratchBytes ∧ bytesAt (s.team 0).scratch (64 * ve.pblk.toNat) 64 < 2 ^ 128 ∧
        (Instr.size (vprojForms back first last 7 4 4 ve) = 16)) ∧
    -- parameters at the window's end, and beyond it
    (64 * (1023 : BitVec 14).toNat + 64 ≤ ((seqs (mats fifo fifo)).launchOf 0).scratchBytes ∧
      ((seqs (mats fifo fifo)).launchOf 0).scratchBytes < 64 * (1024 : BitVec 14).toNat + 64) ∧
    (∀ back first : Bool, let y : Tile := { state := if first then .sealed (!back) false else .seq }
      let s := seqs (mats [] [] y)
      SeqIssues s 0 ∧ (s.team 0).tiles[7]? = some y ∧
        if first then y.state = .sealed (!back) false else y.state = .seq ∨ y.state = .sealed (!back) false) ∧
    (∀ c : Bool, let y : Tile := { state := .sealed c true }
      let s := seqs (mats [] [] y)
      SeqIssues s 0 ∧ s.ecc = [] ∧ (7 : BitVec 3).toNat < (s.launchOf 0).accs ∧ (s.team 0).tiles[7]? = some y ∧
        ((s.team 0).tiles.getD 4 {}).x128 = false ∧ y.state = .sealed c true) := by
  refine ⟨fun back first last => ?_, by decide +kernel, fun back first => ?_, fun c => ?_⟩
  · cases back <;> cases first <;> cases last <;>
      exact ⟨seqIssues (by decide +kernel), by decide +kernel, rfl, rfl, rfl, rfl, rfl, rfl, rfl, by decide +kernel,
        zeros_for rfl rfl rfl rfl rfl rfl rfl _ _,
        by unfold SelOk; decide +kernel, rfl, by decide +kernel, by decide +kernel, rfl⟩
  · cases back <;> cases first
    · exact ⟨seqIssues (by decide +kernel), rfl, Or.inl rfl⟩
    · exact ⟨seqIssues (by decide +kernel), rfl, rfl⟩
    · exact ⟨seqIssues (by decide +kernel), rfl, Or.inl rfl⟩
    · exact ⟨seqIssues (by decide +kernel), rfl, rfl⟩
  · cases c <;> exact ⟨seqIssues (by decide +kernel), rfl, by decide +kernel, rfl, rfl, rfl⟩

/-- A stage on tile 7, with the selection of one row and H = 2. -/
def staged (back pending : Bool) : Stage :=
  { ins := vprojForms back true true 7 4 4 ve, pc := 0x50000, tile := 7, dirB := back, params := 0, selCfg := 0x0102, pending := pending }
theorem witness_SelectionAndGradient_stage :
    (∀ back first last : Bool, let p := mmsRun (vprojForms back first last 7 4 4 ve)
      let y : Tile := { state := if first then .seq else .sealed back false }
      let s := seqs (mats fifo fifo y fun q => { q with running := [p] })
      (s.team 0).seq.running = [p] ∧ (s.team 0).tiles[p.tile]? = some y ∧ 0 < s.teams.length ∧ p.bTeam = 0 ∧ y.x128 = false ∧ y.data.wf = true ∧
        (first = false → y.state = .sealed back false)) ∧
    (∀ back branched : Bool, let st := { staged back true with branched := branched }
      let s := seqs (mats [] [] {} fun q => { q with stage := some st })
      SeqIssues s 0 ∧ (7 : BitVec 3).toNat < (s.launchOf 0).accs ∧ (s.team 0).seq.running = [] ∧ (s.team 0).seq.stage = some st ∧ st.pending = true ∧
        st.pc = (s.team 0).seq.pc ∧ ve.spoff ≠ 0 ∧ SelOk s 0) ∧
    -- one row; no room in the pool
    (let st := staged false false
     let s := seqs (mats [] [] { state := .sealed false true } fun q => { q with stage := some st })
     0 < s.teams.length ∧ (s.team 0).phase = .resident ∧ (s.team 0).seq.stage = some st ∧
      (s.team 0).tiles[st.tile]? = some { state := .sealed false true } ∧ s.ecc = [] ∧ st.selCfg.toNat / 256 % 256 = 1 ∧
      1 ≤ (s.team 0).rows.length ∧ st.row < 1 ∧
      (((List.range 1).map fun i => if st.row ≤ i then ((2 - ((s.team 0).rows.getD i {}).reserved : Nat) : Int) else 0).sum) ≤ poolFree (s.team 0) ∧
      ∀ i < 1, ∀ k, ¬Conflicts st.params ((s.team 0).rows.getD i {}) k) ∧
    -- the last column's label again
    (let st := { staged false false with params := BitVec.ofNat 512 (2 ^ 32 * 128) }
     let s := seqs { mats [] [] { state := .sealed false true } fun q => { q with stage := some st } with rows := [{ lflag := 8, lid := [127, 1, 2, 127] }] }
     (s.team 0).seq.stage = some st ∧ st.row < st.selCfg.toNat / 256 % 256 ∧ Conflicts st.params ((s.team 0).rows.getD 0 {}) 3 ∧
      ((2 - ((s.team 0).rows.getD 0 {}).reserved : Nat) : Int) ≤ poolFree (s.team 0) ∧
      ∀ k, Conflicts st.params ((s.team 0).rows.getD 0 {}) k → k = 3) ∧
    (let st := staged false false
     let s := seqs { mats [] [] { state := .sealed false true } fun q => { q with stage := some st } with rows := [{}, { reserved := 4096 }] }
     (s.team 0).seq.stage = some st ∧ st.row < st.selCfg.toNat / 256 % 256 ∧
      poolFree (s.team 0) < ((2 - ((s.team 0).rows.getD st.row {}).reserved : Nat) : Int) ∧ 0 ≤ poolFree (s.team 0)) ∧
    (let st := staged true false
     let y : Tile := { state := .sealed true true }
     let s := seqs (mats [] [] y fun q => { q with stage := some st })
     (s.team 0).seq.stage = some st ∧ (s.team 0).tiles[st.tile]? = some y ∧ y.data.wf = true ∧ st.tile < 8 ∧
      (∀ g, ∀ w ∈ (s.grp 0 g).waits, ∀ k, w.kind ≠ .tile k) ∧ ∀ y ∈ (s.team 0).tiles, y.x128 = false) := by
  refine ⟨fun back first last => ?_, fun back branched => ?_, ⟨by decide +kernel, rfl, rfl, rfl, rfl, by decide +kernel, by decide +kernel, by decide,
    by decide +kernel, fun i hi k ⟨h4, hl, _⟩ => ?_⟩, ⟨rfl, by decide +kernel, ?_, by decide +kernel, fun k ⟨h4, hl, _⟩ => ?_⟩,
    ⟨rfl, by decide +kernel, by decide +kernel, by decide +kernel⟩, rfl, rfl, rfl, by decide, fun g w hw => ?_, by decide +kernel⟩
  · cases first <;> exact ⟨rfl, rfl, by show 0 < 1; decide, rfl, rfl, rfl, by simp⟩
  · cases back <;> cases branched <;>
      exact ⟨seqIssues (by decide +kernel), by decide +kernel, rfl, rfl, rfl, rfl, by decide, by unfold SelOk; decide +kernel⟩
  · have : i = 0 := by omega
    subst this
    exact absurd hl (by simp [seqs, st, State.team, mats, slotted, tm])
  · exact ⟨by decide, by decide, 127, by decide, by decide +kernel⟩
  · have hl : (8 : BitVec 4).getLsbD k = true := hl
    have hk : ∀ k < 4, (8 : BitVec 4).getLsbD k = true → k = 3 := by decide
    exact hk k h4 hl
  · rw [no_waits (by decide)] at hw; cases hw

/-- A heap of 5.0 and 3.0, and 4.0, at H = 2. -/
theorem witness_SelectionAndGradient_insertion :
    let heap : List (Word × Word) := [(1, 0x40A00000), (2, 0x40400000)]
    let e : Word × Word := (3, 0x40800000)
    Ranked heap ∧ Orders (e :: heap) ∧ (∀ y ∈ heap, y.1 ≠ e.1) ∧ heap.length ≤ 2 := by
  refine ⟨by unfold Ranked; decide, fun y hy => ?_, by simp, by decide⟩
  simp only [List.mem_cons, List.not_mem_nil, or_false] at hy
  rcases hy with rfl | rfl | rfl <;> unfold Nan <;> decide

theorem ok_of {ε α : Type} {x : Except ε α} {p : α → Bool} (h : x.toOption.any p = true) : ∃ a, x = .ok a ∧ p a = true := by
  cases x with
  | error e => cases h
  | ok a => exact ⟨a, rfl, h⟩
/-- The FIFO entry that begins with a record of row 0: M = 1.0, H; a captured label and a heap entry. -/
def recNum (h : Nat) : Nat := 0x3F800000 + 2 ^ 64 * h + 2 ^ 128 * 0xFFFFFFFF * (1 + 2 ^ 32 + 2 ^ 64 + 2 ^ 96)
def recHeap : Nat := 0x3F800000 + 2 ^ 64 * 2 + 2 ^ 72 + 2 ^ 80 + 2 ^ 128 * (5 + 2 ^ 32 * 0xFFFFFFFF * (1 + 2 ^ 32 + 2 ^ 64)) + 2 ^ 512 * (9 + 2 ^ 32 * 0x40000000)
def recEntry (x : Nat) : Entry := ⟨false, false, 0, bytesOf 128 x ++ List.replicate 1920 0⟩
theorem some_of {α : Type} {o : Option α} {p : α → Bool} (h : o.any p = true) : ∃ r, o = some r ∧ p r = true := by
  cases o with
  | none => cases h
  | some r => exact ⟨r, rfl, h⟩
/-- H = 2 and one row; rows as given. -/
def merging (x : Nat) (rows : List SelRow := [{}, {}]) : State := seqs { mats [recEntry x] [] with rows := rows }
def incNone : SelRow := { m := 0x3F800000, h := 2 }
def incHeap : SelRow := { m := 0x3F800000, h := 2, lflag := 1, lid := [5, 0xFFFFFFFF, 0xFFFFFFFF, 0xFFFFFFFF], heap := [(9, 0x40000000)] }
def recOf (s : State) : Nat := leNat ((((s.team 0).fa.take 1).flatMap fun e => e.bytes).take 128)

/-- The sequencer may merge one record: H = 2, records of 128 bytes, one row. -/
def MayMerge (s : State) : Prop :=
  SeqIssues s 0 ∧ s.ecc = [] ∧ (s.team 0).seq.running = [] ∧ (s.team 0).seq.stage = none ∧ (s.team 0).seq.vmrg = none ∧ SelOk s 0 ∧
    (∀ e ∈ (s.team 0).fa, e.record = false) ∧ (1 * (64 * ((64 + 8 * 2 + 63) / 64)) + 2047) / 2048 ≤ (s.team 0).fa.length ∧
    (s.team 0).selCfg.toNat % 128 = 2 ∧ (s.team 0).selCfg.toNat / 256 % 256 = 1 ∧ 1 ≤ (s.team 0).rows.length
/-- A record of another H; one that fits, without and with a heap; labels that differ, that are captured twice; a full pool;
too few entries; an entry of the other kind. -/
theorem witness_MergeAndOutput_merge :
    (MayMerge (merging (recNum 3)) ∧ MayMerge (merging (recNum 2)) ∧ MayMerge (merging recHeap)) ∧
    recOf (merging (recNum 3)) / 2 ^ 64 % 2 ^ 7 ≠ 2 ∧
    (RecordIs incNone 0 (recOf (merging (recNum 2))) ∧ incNone.heap = [] ∧ incNone.lflag = 0) ∧
    (RecordIs incHeap 0 (recOf (merging recHeap)) ∧ incHeap.heap.length ≤ 2 ∧ (incHeap.heap.Pairwise fun a b => outranks b a = false) ∧
      Orders incHeap.heap ∧ incHeap.lflag.getLsbD 0 = true) ∧
    (((merging recHeap).team 0).rows.getD 0 {}).lid.getD 0 0 ≠ incHeap.lid.getD 0 0 ∧
    (∀ r ∈ [({ lid := [5, 0, 0, 0], lflag := 1 } : SelRow), { lid := [5, 0, 0, 0] }], ∀ j < 4, incHeap.lflag.getLsbD j = true →
      r.lid.getD j 0 = incHeap.lid.getD j 0) ∧
    ((1 : BitVec 4) &&& incHeap.lflag).getLsbD 0 = true ∧
    ((let s := merging recHeap [{ lid := [5, 0, 0, 0] }, { reserved := 4096 }]
      poolFree (s.team 0) < 2 ∧ 0 ≤ poolFree (s.team 0)) ∧ 2 ≤ poolFree ((merging recHeap [{ lid := [5, 0, 0, 0] }]).team 0)) ∧
    (let s := seqs (mats [] [])
     SeqIssues s 0 ∧ SelOk s 0 ∧ (∀ e ∈ (s.team 0).fa, e.record = false) ∧ (s.team 0).fa.length < (1 * 128 + 2047) / 2048) ∧
    (let s := seqs (mats [⟨true, true, 0, []⟩] [])
     SeqIssues s 0 ∧ SelOk s 0 ∧ (s.team 0).fa.length = (1 * 128 + 2047) / 2048 ∧ ∃ e ∈ (s.team 0).fa, e.record = true) := by
  refine ⟨⟨by unfold MayMerge SeqIssues SelOk; decide +kernel, by unfold MayMerge SeqIssues SelOk; decide +kernel,
      by unfold MayMerge SeqIssues SelOk; decide +kernel⟩, by decide +kernel, ⟨⟨by decide +kernel, by decide +kernel, by decide +kernel⟩, rfl, rfl⟩,
    ⟨⟨by decide +kernel, by decide +kernel, by decide +kernel⟩, by decide, by decide, fun e he => ?_, by decide⟩, by decide +kernel, by decide,
    by decide, by decide +kernel, ⟨seqIssues (by decide +kernel), by unfold SelOk; decide +kernel, by decide, by decide⟩,
    seqIssues (by decide +kernel), by unfold SelOk; decide +kernel, rfl, ⟨true, true, 0, []⟩, List.mem_singleton.2 rfl, rfl⟩
  · simp only [incHeap, List.mem_cons, List.not_mem_nil, or_false] at he
    rw [he]; unfold Nan; decide

/-- An output tensor of 64 double words, in the scratchpad, in global memory; its last record. -/
def outT : BitVec 512 := BitVec.ofNat 512 (0x400 + 2 ^ 64 * 64 + 2 ^ 312 * 9 + 2 ^ 317)
def outG : BitVec 512 := BitVec.ofNat 512 (0x20000 + 2 ^ 64 * 64 + 2 ^ 312 * 9)
def merged : State := seqs { mats [] [] with slots := [(1, outT), (2, outG)] }
theorem witness_MergeAndOutput_output :
    SeqIssues merged 0 ∧ merged.ecc = [] ∧ merged.buffer = [] ∧ (merged.team 0).seq.running = [] ∧ (merged.team 0).seq.stage = none ∧
    (merged.team 0).seq.vout = none ∧ SelOk merged 0 ∧ kGet (merged.team 0).slots 1 = some outT ∧ kGet (merged.team 0).slots 2 = some outG ∧
    (∀ g : Bool, let x := if g then outG.toNat else outT.toNat
      layRole x = 0 ∧ layTy x = .b64 ∧ layBase x % 64 = 0 ∧ ((3 : Word).toNat + (1 : Byte).toNat) * 128 ≤ layDim x 0 * 8) ∧
    ((0 : BitVec 7).toNat + (1 : Byte).toNat ≤ (merged.team 0).selCfg.toNat / 256 % 256 ∧ 0 < (merged.team 0).rows.length ∧
      ((merged.team 0).rows.getD 0 {}).lid.length = 4 ∧ ((merged.team 0).rows.getD 0 {}).log.length = 4) ∧
    (laySp outT.toNat = true ∧ spAt outT.toNat (3 * 128) + 128 ≤ (merged.launchOf 0).scratchBytes) ∧
    (laySp outG.toNat = false ∧
      let ps (j : Nat) : List Piece := engPs merged (voutCmd merged 0) true ((layBase outG.toNat + 3 * 128 + 32 * j) % 2 ^ 64) 32
      let W (b : Nat) : Prop := ∃ j < 128 / 32, Covers (ps j) b
      ∀ j < 128 / 32, EngPasses merged (voutCmd merged 0) W true ((layBase outG.toNat + 3 * 128 + 32 * j) % 2 ^ 64) 32 (ps j)) := by
  refine ⟨seqIssues (by decide +kernel), rfl, rfl, rfl, rfl, rfl, by unfold SelOk; decide +kernel, rfl, rfl, by decide +kernel, by decide +kernel,
    by decide +kernel, by decide +kernel, fun j hj => ?_⟩
  have hv : ∀ j < 128 / 32, ((engPs merged (voutCmd merged 0) true ((layBase outG.toNat + 3 * 128 + 32 * j) % 2 ^ 64) 32).all fun e =>
    decide (0x11010 ≤ e.1.pa)) = true := by decide +kernel
  have hp : ∀ j < 128 / 32, engB merged (voutCmd merged 0) true ((layBase outG.toNat + 3 * 128 + 32 * j) % 2 ^ 64) 32 = true := by decide +kernel
  exact engPasses_of (hp j hj) (tables_st { mats [] [] with slots := [(1, outT), (2, outG)] }) fun a ⟨j, hj, hc⟩ => above_of (hv j hj) a hc

theorem witness_MergeAndOutput_pending : let s := seqs (mats [] [] {} fun q => { q with stage := some (staged false true) })
    SeqIssues s 0 ∧ (s.team 0).seq.running = [] ∧ (s.team 0).seq.stage.isSome = true := ⟨seqIssues (by decide +kernel), rfl, rfl⟩

/-! Counters, tasks, the allocator. -/

def ctrAddr (s : State) (ad : Addr) (l : Nat) : Nat :=
  ((ctrPlace (s.grp 0 0) ad l).1 + 4 * ((ctrPlace (s.grp 0 0) ad l).2 * counterWidth (s.grp 0 0).ctr.val / 32)) % 2 ^ 64
/-- Counter l of the base at s4, for lane l; the base alone. -/
def adC : Addr := ⟨.s 4, .full 0 (some (.v 4, 0))⟩
def adP : Addr := ⟨.s 4, .plain⟩
theorem aligned_of {s : State} {ad : Addr} (h : ((List.range 32).all fun l => (ctrPlace (s.grp 0 0) ad l).1 % 4 == 0) = true) :
    ∀ l, InE s 0 0 h0 l → (ctrPlace (s.grp 0 0) ad l).1 % 4 = 0 := fun l hl => by
  simpa using List.all_eq_true.1 h l (List.mem_range.2 hl.1)
/-- One lane, whose v9 holds a level. -/
def leveled (y : Word) : State := one { gr1 with v := [(9 * 32, y)] }
theorem only_lane0 {s : State} (h : eligible s 0 0 h0 = 1) : ∀ l, InE s 0 0 h0 l → l = 0 := fun l hl => by
  have := hl.2
  rw [h] at this
  rcases l with _ | l
  · rfl
  · have := hl.1
    simp_all

theorem witness_Counters :
    ((S.launchOf 0).trace = none ∧ (leveled 16).cur = S.cur) ∧
    ((∀ d ∈ [none, some 9], Acts (pcaddForms h0 .ordinary .dflt .normal adC 8 d) S 0 0 h0) ∧ Acts (.pcmrg h0 .ordinary .dflt .normal 9 adC 8) S 0 0 h0 ∧
      (∀ l, InE S 0 0 h0 l → (ctrPlace (S.grp 0 0) adC l).1 % 4 = 0) ∧
      Passes S 0 0 h0 (.v 8) .ctrUpd true 4 (ctrAddr S adC) (piecesAt S 0 0 .ctrUpd true 4 (ctrAddr S adC)) ∧
      ∀ l, InE S 0 0 h0 l → regGet (S.grp 0 0) (.v 8) l 2 / 2 ^ 32 % 256 < 2 ^ 4) ∧
    (Acts (.pcmrg h0 .ordinary .dflt .normal 10 adP 8) (leveled 16) 0 0 h0 ∧ InE (leveled 16) 0 0 h0 0 ∧ (∀ l, InE (leveled 16) 0 0 h0 l → l = 0) ∧
      2 ^ 4 ≤ regGet ((leveled 16).grp 0 0) (.v 8) 0 2 / 2 ^ 32 % 256 ∧ HasPart (leveled 16) 0) ∧
    (∀ raw : Bool, Acts (if raw then .pcrdRaw h0 .ordinary .dflt .normal 9 adC else .pcrd h0 .ordinary .dflt .normal 9 adC) S 0 0 h0) ∧
    Passes S 0 0 h0 (.v 9) .ctrRead true 4 (ctrAddr S adC) (piecesAt S 0 0 .ctrRead true 4 (ctrAddr S adC)) ∧
    (let s := leveled 0
     Acts (.pcclr h0 .ordinary .dflt .normal adP) s 0 0 h0 ∧ InE s 0 0 h0 0 ∧ (∀ l, InE s 0 0 h0 l → l = 0) ∧
      (∀ l, InE s 0 0 h0 l → (ctrPlace (s.grp 0 0) adP l).1 % 4 = 0) ∧
      (∃ pg : Page, piecesAt s 0 0 .ctrUpd true 4 (ctrAddr s adP) 0 = [(pg, 4)]) ∧
      Passes s 0 0 h0 (.v 0) .ctrUpd true 4 (ctrAddr s adP) (piecesAt s 0 0 .ctrUpd true 4 (ctrAddr s adP))) ∧
    (∀ v ∈ [ImmU.imm 7, .uni 3], Acts (.pcbase h0 v) S 0 0 h0) ∧
    (let s := one { gr1 with s := [(4, 0x40000001)] }
     (∀ i ∈ [Instr.pcadd h0 .ordinary .dflt .normal adP 8, .pcmrg h0 .ordinary .dflt .normal 9 adP 8, .pcclr h0 .ordinary .dflt .normal adP,
        .pcrd h0 .ordinary .dflt .normal 9 adP, .pcrdRaw h0 .ordinary .dflt .normal 9 adP], Acts i s 0 0 h0) ∧ InE s 0 0 h0 0 ∧
      (∀ l, InE s 0 0 h0 l → l = 0) ∧ (ctrPlace (s.grp 0 0) adP 0).1 % 4 ≠ 0 ∧ HasPart s 0) := by
  refine ⟨⟨rfl, rfl⟩, ⟨fun d hd => acts_of ?_, acts_of (by decide +kernel), aligned_of (by decide +kernel),
      passes_of (by decide +kernel) (tables_st _) (by decide +kernel), fun l hl => ?_⟩,
    ⟨acts_of (by decide +kernel), ⟨by decide, by decide +kernel⟩, only_lane0 (by decide +kernel), by decide +kernel, by unfold HasPart; decide +kernel⟩,
    fun raw => acts_of (by cases raw <;> decide +kernel), passes_of (by decide +kernel) (tables_st _) (by decide +kernel),
    ⟨acts_of (by decide +kernel), ⟨by decide, by decide +kernel⟩, only_lane0 (by decide +kernel), aligned_of (by decide +kernel), ?_,
      passes_of (by decide +kernel) (tables_st _) (by decide +kernel)⟩,
    fun v hv => acts_of ?_, all_act (by decide +kernel), ⟨by decide, by decide +kernel⟩, only_lane0 (by decide +kernel), by decide +kernel,
    by unfold HasPart; decide +kernel⟩
  · simp only [List.mem_cons, List.not_mem_nil, or_false] at hd
    rcases hd with rfl | rfl <;> decide +kernel
  · have h : ((List.range 32).all fun l => decide (regGet (S.grp 0 0) (.v 8) l 2 / 2 ^ 32 % 256 < 2 ^ 4)) = true := by decide +kernel
    simpa using List.all_eq_true.1 h l (List.mem_range.2 hl.1)
  · have h : (piecesAt (leveled 0) 0 0 .ctrUpd true 4 (ctrAddr (leveled 0) adP) 0).map (fun e => e.2) = [4] := by decide +kernel
    match hp : piecesAt (leveled 0) 0 0 .ctrUpd true 4 (ctrAddr (leveled 0) adP) 0, h with
    | [(pg, n)], h => exact ⟨pg, by cases h; rfl⟩
  · simp only [List.mem_cons, List.not_mem_nil, or_false] at hv
    rcases hv with rfl | rfl <;> decide +kernel

/-- A packet of one team with the least of everything; it stands at s2. -/
def packet : Nat := 1 + 2 ^ 192 + 2 ^ 224 + 2 ^ 256
def packed : State := recorded [(0x20000, 1), (0x20018, 1), (0x2001C, 1), (0x20020, 1)]
/-- As many launches as the tables hold. -/
def full : State := { packed with launches := List.replicate 262144 la }
theorem full_launch (n : Nat) (h : n < 262144) : full.launch n = la := by
  show (List.replicate 262144 la).getD n noLaunch = la
  rw [List.getD_eq_getElem?_getD, List.getElem?_replicate, if_pos h]; rfl
theorem full_tables (p : BitVec 1024) : tablesFull full 0 p = true := by
  have hl : full.launches.length = 262144 := List.length_replicate
  have h : (List.range full.launches.length).filter (fun n => launchLive full n && (full.launch n).part == 0) =
      List.range full.launches.length := by
    rw [List.filter_eq_self]
    intro n hn
    have hn : n < 262144 := hl ▸ List.mem_range.1 hn
    unfold launchLive
    rw [full_launch n hn, hl]
    simp [hn, la]
  unfold tablesFull liveCount
  rw [h, List.length_range, hl]
  rfl
/-- Children that have retired with a status. -/
def parents (cs : List Child) : State := st { tm with children := cs, groups := [{ gr with s := [(0, 9), (2, 0x20000)] }] }
def deep : State := { one gr with launches := [{ la with lineage := 0x1A0001 }] }

theorem witness_Tasks_launch :
    (Acts (.launch h0 12 2 5 true) packed 0 0 h0 ∧ (eligible packed 0 0 h0).getLsbD 0 = true ∧ (packed.launchOf 0).lineage.toNat / 2 ^ 16 % 16 ≠ 10 ∧
      regGet (packed.grp 0 0) (.s 2) 0 2 % 128 = 0 ∧ BlockIs packed 0 0 h0 2 0x20000 4 packet ∧ packet.testBit 15 = false ∧
      packetBad (BitVec.ofNat 1024 packet) true = none ∧ tablesFull packed 0 (BitVec.ofNat 1024 packet) = false ∧ HasPart packed 0) ∧
    (Acts (.launch h0 12 2 5 true) full 0 0 h0 ∧ BlockIs full 0 0 h0 2 0x20000 4 packet ∧ tablesFull full 0 (BitVec.ofNat 1024 packet) = true) ∧
    (let s := { S with cur := .group 0 1 }
     Acts (.launch h0 12 2 5 true) s 0 1 h0 ∧ HasPart s 0) ∧
    (Acts (.launch h0 12 2 5 true) deep 0 0 h0 ∧ (eligible deep 0 0 h0).getLsbD 0 = true ∧ (deep.launchOf 0).lineage.toNat / 2 ^ 16 % 16 = 10 ∧
      HasPart deep 0) ∧
    (Acts (.launch h0 12 8 5 true) S 0 0 h0 ∧ (eligible S 0 0 h0).getLsbD 0 = true ∧ regGet (S.grp 0 0) (.s 8) 0 2 % 128 ≠ 0) :=
  ⟨⟨acts_of (by decide +kernel), by decide +kernel, by decide +kernel, by decide +kernel,
      block_of (by decide +kernel) (stand_recorded gr (by decide)) (by decide +kernel), by decide +kernel, by decide +kernel, by decide +kernel,
      by unfold HasPart; decide +kernel⟩,
    ⟨acts_of (by decide +kernel), block_of (by decide +kernel) (stand_recorded gr (by decide)) (by decide +kernel), full_tables _⟩,
    ⟨acts_of (by decide +kernel), by unfold HasPart; decide +kernel⟩,
    ⟨acts_of (by decide +kernel), by decide +kernel, by decide +kernel, by unfold HasPart; decide +kernel⟩,
    acts_of (by decide +kernel), by decide +kernel, by decide +kernel⟩

/-- The page of an ordinary address. -/
def pageAt (a : Nat) : Page := ⟨a, a, true, true, false, 0, 0, none, false, none⟩
/-- A recording whose entries begin at 0x31000. -/
def traced (tr : Trace) : State := { recorded [(0x30001, 0x10), (0x30002, 3)] with launches := [{ la with trace := some 0 }], traces := [tr] }
theorem witness_Tasks_others :
    -- TWAIT: of child 9, of all; a child that runs; no such child
    (let s := parents [{ launch := 1, lid := 9, status := some 5 }]
     (∀ a ∈ [none, some (0 : BitVec 6)], Acts (.twait h0 12 a) s 0 0 h0) ∧ (∀ c ∈ (s.team 0).children, c.status.isSome = true) ∧
      (s.grp 0 0).s.get 0 = 9) ∧
    (let s := parents [{ launch := 1, lid := 9 }]
     (∀ a ∈ [none, some (0 : BitVec 6)], Acts (.twait h0 12 a) s 0 0 h0) ∧ ∃ c ∈ (s.team 0).children, c.lid = 9 ∧ c.status = none) ∧
    (Acts (.twait h0 12 (some 2)) (parents []) 0 0 h0 ∧ HasPart (parents []) 0) ∧
    -- CANCEL
    (let s := { one gr with launches := [la, { la with lineage := 0x20000, parent := some 0 }] }
     Acts (.cancel h0 2) s 0 0 h0 ∧ 1 < s.launches.length ∧ (s.launch 1).lineage = BitVec.ofNat 64 (regGet (s.grp 0 0) (.s 2) 0 2) ∧
      (s.launch 1).part = (s.launchOf 0).part ∧ launchLive s 1 = true ∧ ¬Rights s 0 0 ∧ HasPart s 0 ∧
      (∀ j < 1, (s.launch j).lineage ≠ BitVec.ofNat 64 (regGet (s.grp 0 0) (.s 2) 0 2)) ∧ 1 ≠ (s.team 0).launch ∧
      inSubtree s (s.team 0).launch 10 1 = true ∧ inSubtree s 1 10 (s.team 0).launch = false ∧ inSubtree s 1 10 1 = true) ∧
    -- a launch that is not in the subtree; its grandparent's other child
    (let s := { one gr with launches := [la, { la with lineage := 0x20000 }] }
     Acts (.cancel h0 2) s 0 0 h0 ∧ launchLive s 1 = true ∧ inSubtree s (s.team 0).launch 10 1 = false ∧ ¬Rights s 0 0 ∧ HasPart s 0) ∧
    (Acts (.cancel h0 2) S 0 0 h0 ∧ ∀ j < S.launches.length, (S.launch j).lineage ≠ BitVec.ofNat 64 (regGet (S.grp 0 0) (.s 2) 0 2)) ∧
    -- TMARK
    (∀ v ∈ [ImmU.imm 7, .uni 3], Acts (.tmark h0 v) S 0 0 h0) ∧
    (∀ stopped : Bool, ∀ n ∈ [7, 8], let tr : Trace := { root := 0, replay := false, desc := 0x30000, cap := 8, count := n, stopped := stopped }
     let s := traced tr
     Acts (.tmark h0 (.imm 7)) s 0 0 h0 ∧ (s.launchOf 0).trace = some 0 ∧ s.traces = [tr] ∧ tr.root = 0 ∧ tr.replay = false ∧ tr.stopped = stopped) ∧
    (let s := traced { root := 0, replay := false, desc := 0x30000, cap := 8, count := 7 }
     ∃ pd pe, engAccess s (whoLaunch (s.launch 0)) [] false true 0x30000 8 = .ok pd ∧ (∀ e ∈ pd, isRemote e.1.pa = false ∧ isDev e.1.pa = false) ∧
      engAccess s (whoLaunch (s.launch 0)) [] true true (valueIn s.mem pd + 16 * 7) 16 = .ok [(pe, 16)] ∧ isRemote pe.pa = false ∧
      isDev pe.pa = false ∧ needsCopy s pe = false) := by
  refine ⟨⟨fun a ha => acts_of ?_, by decide, rfl⟩, ⟨fun a ha => acts_of ?_, ⟨1, 9, none⟩, List.mem_singleton.2 rfl, rfl, rfl⟩,
    ⟨acts_of (by decide +kernel), by unfold HasPart; decide +kernel⟩,
    ⟨acts_of (by decide +kernel), by decide, by decide +kernel, rfl, by decide +kernel, by unfold Rights; decide +kernel,
      by unfold HasPart; decide +kernel, by decide +kernel, by decide, by decide +kernel, by decide +kernel, by decide +kernel⟩,
    ⟨acts_of (by decide +kernel), by decide +kernel, by decide +kernel, by unfold Rights; decide +kernel, by unfold HasPart; decide +kernel⟩,
    ⟨acts_of (by decide +kernel), by decide +kernel⟩, fun v hv => acts_of ?_, fun stopped n hn => ⟨acts_of ?_, rfl, rfl, rfl, rfl, rfl⟩,
    [(pageAt 0x30000, 8)], pageAt 0x31070, by decide +kernel, by decide +kernel, by decide +kernel, by decide, by decide, by decide +kernel⟩
  · simp only [List.mem_cons, List.not_mem_nil, or_false] at ha
    rcases ha with rfl | rfl <;> decide +kernel
  · simp only [List.mem_cons, List.not_mem_nil, or_false] at ha
    rcases ha with rfl | rfl <;> decide +kernel
  · simp only [List.mem_cons, List.not_mem_nil, or_false] at hv
    rcases hv with rfl | rfl <;> decide +kernel
  · revert n; cases stopped <;> decide +kernel

/-- A child that is done, and whose record waits for its ring: live yet. -/
theorem witness_Tasks_cancelDone : ∀ st ∈ [(0 : Byte), 5],
    let r : Record := { part := 0, ring := 0x30000, phys := false, slots := [0], launch := some 1 }
    let s := { one gr with launches := [la, { la with lineage := 0x20000, parent := some 0, phase := .done st }], records := [r] }
    Acts (.cancel h0 2) s 0 0 h0 ∧ (s.launch 1).lineage = BitVec.ofNat 64 (regGet (s.grp 0 0) (.s 2) 0 2) ∧ (s.launch 1).part = (s.launchOf 0).part ∧
      launchLive s 1 = true ∧ (∀ j < 1, (s.launch j).lineage ≠ BitVec.ofNat 64 (regGet (s.grp 0 0) (.s 2) 0 2)) ∧ 1 ≠ (s.team 0).launch ∧
      inSubtree s (s.team 0).launch 10 1 = true ∧ inSubtree s 1 10 (s.team 0).launch = false ∧ inSubtree s 1 10 1 = true ∧
      (s.launch 1).phase = .done st ∧ s.records[0]? = some r ∧ r.launch = some 1 ∧ r.slots ≠ [] := by
  intro st hst
  have hd : st = 0 ∨ st = 5 := by simpa using hst
  rcases hd with rfl | rfl <;>
    exact ⟨acts_of (by decide +kernel), by decide +kernel, rfl, by decide +kernel, by decide +kernel, by decide, by decide +kernel, by decide +kernel,
      by decide +kernel, rfl, rfl, rfl, by decide⟩

/-- A pool of one frame: a group arena of 256 bytes with a map of 64, a block of one granule in use. -/
def pool (frames : Nat) : Launch := { la with pkt := la.pkt + BitVec.ofNat 1024 (2 ^ 768 * 512 + 2 ^ 800 * frames + 2 ^ 832 * 0x80000) }
def pooled (frames : Nat) (b : Memory) (x : Nat) : State :=
  { recorded b { gr with s := [(2, BitVec.ofNat 32 x)] } with launches := [pool frames] }
theorem pooled_stand (frames : Nat) {b : Memory} (x : Nat) (h : (b.all fun e => decide (0x11010 ≤ e.1)) = true) :
    TablesStand (pooled frames b x).mem := by
  have e : (pooled frames b x).mem = (recorded b).mem := by unfold pooled recorded; rfl
  rw [e]; exact stand_recorded gr h
theorem oneActs {s : State} {n : BitVec 6} (h1 : lowest (eligible s 0 0 h0) < 32)
    (h2 : (eligible s 0 0 h0).getLsbD (lowest (eligible s 0 0 h0)) = true) : OneActs s 0 0 h0 (.s n) (lowest (eligible s 0 0 h0)) :=
  ⟨⟨⟨h1, h2⟩, fun _ => rfl⟩, fun _ h => h.2 rfl⟩
theorem oneActs0 {s : State} {n : BitVec 6} (h : lowest (eligible s 0 0 h0) = 0) (h2 : (eligible s 0 0 h0).getLsbD 0 = true) :
    OneActs s 0 0 h0 (.s n) 0 := by
  have := oneActs (s := s) (n := n) (by rw [h]; decide) (by rw [h]; exact h2)
  rwa [h] at this

/-- Byte a of a map: one page, read and written, ordinary memory. -/
def mapB (s : State) (w : Who) (a : Nat) : Bool :=
  [true, false].all fun write => match engAccess s w [] write true a 1 with
    | .ok ps => decide (ps = [(pageAt a, 1)])
    | .error _ => false
def mapAtB (s : State) (w : Who) (ar : Nat × Nat) : Bool :=
  w.part == 0 && w.root.getD (s.part 0).root == 0x10000 && decide (0x11010 ≤ ar.1) && decide (ar.1 + mapBytesOf ar < 2 ^ 31) &&
    (List.range (mapBytesOf ar)).all fun b => mapB s w (ar.1 + b) && !isRemote (ar.1 + b) && !isDev (ar.1 + b) && !needsCopy s (pageAt (ar.1 + b))
theorem mapAt_of {s : State} {w : Who} {ar : Nat × Nat} (hm : TablesStand s.mem) (h : mapAtB s w ar = true) : MapAt s w ar fun b => ar.1 + b := by
  simp only [mapAtB, Bool.and_eq_true, beq_iff_eq, decide_eq_true_eq] at h
  obtain ⟨⟨⟨⟨hw, hr⟩, h1⟩, h2⟩, h⟩ := h
  refine ⟨fun b c _ _ e => by simpa using e, fun b hb => ?_⟩
  have k := List.all_eq_true.1 h b (List.mem_range.2 hb)
  simp only [Bool.and_eq_true, Bool.not_eq_true', mapB] at k
  obtain ⟨⟨⟨k1, k0⟩, k2⟩, k3⟩ := k
  refine ⟨pageAt (ar.1 + b), rfl, k0, k2, k3, fun m write hmem => ?_⟩
  have e := List.all_eq_true.1 k1 write (by cases write <;> simp)
  split at e
  · next ps hps =>
    rw [of_decide_eq_true e] at hps
    have hm' : TablesStand m := fun a a1 a2 => by
      rw [hmem a fun c hc hac => by have : ar.1 + c = a := hac; omega]
      exact hm a a1 a2
    exact engAccess_congr (check_congr (s := s) (s' := { s with mem := m }) rfl rfl rfl hr hw hm hm' (by omega)) hps
      fun e he => by rw [List.mem_singleton.1 he]; rfl
  · cases e
def ownPool : Nat × Nat := (0x80000, 256)
def restPool : Nat × Nat := (0x80200, 65024)

/-- No pool; the group's arena has three granules, one or none of them fits; the shared one's 1,012. -/
theorem witness_Allocator_alloc :
    (Acts (.alloc h0 (.s 12) (.imm 64)) S 0 0 h0 ∧ OneActs S 0 0 h0 (.s 12) 0 ∧ (S.launchOf 0).trace = none ∧ Plain S ∧ (S.launchOf 0).f 832 64 = 0) ∧
    (let s := pooled 1 [] 0
     (∀ n ∈ [64, 256, 65536], Acts (.alloc h0 (.s 12) (.imm n)) s 0 0 h0) ∧ OneActs s 0 0 h0 (.s 12) 0 ∧ (s.launchOf 0).trace = none ∧ Plain s ∧
      (s.launchOf 0).f 832 64 ≠ 0 ∧ groupPool (s.launchOf 0) 0 0 = ownPool ∧ sharedPoolOf (s.launchOf 0) = restPool ∧
      MapAt s (whoLaunch (s.launchOf 0)) ownPool (fun b => ownPool.1 + b) ∧ MapAt s (whoLaunch (s.launchOf 0)) restPool (fun b => restPool.1 + b) ∧
      FirstFit s.mem (fun b => ownPool.1 + b) ownPool 1 1 ∧ ownPool.1 + 64 * 1 < 2 ^ 64 ∧
      (∀ j, ¬FirstFit s.mem (fun b => ownPool.1 + b) ownPool 4 j) ∧ FirstFit s.mem (fun b => restPool.1 + b) restPool 4 4 ∧
      ∀ j, ¬FirstFit s.mem (fun b => restPool.1 + b) restPool 1024 j) := by
  refine ⟨⟨acts_of (by decide +kernel), oneActs0 (by decide +kernel) (by decide +kernel), rfl, ⟨rfl, rfl⟩, by decide +kernel⟩, fun n hn => acts_of ?_,
    oneActs0 (by decide +kernel) (by decide +kernel), rfl, ⟨rfl, rfl⟩, by decide +kernel, by decide +kernel, by decide +kernel,
    mapAt_of (pooled_stand _ _ (by decide)) (by decide +kernel), mapAt_of (pooled_stand _ _ (by decide)) (by decide +kernel),
    ⟨by decide, by decide, fun k k1 k2 => ?_, fun i i1 i2 => ?_⟩, by decide, fun j ⟨j1, j2, _⟩ => ?_,
    ⟨by decide, by decide, fun k k1 k2 => ?_, fun i i1 i2 => ?_⟩, fun j ⟨j1, j2, _⟩ => ?_⟩
  · simp only [List.mem_cons, List.not_mem_nil, or_false] at hn
    rcases hn with rfl | rfl | rfl <;> decide +kernel
  · have : k = 1 := by omega
    subst this; decide +kernel
  · have i1 : 1 ≤ i := i1
    omega
  · have e1 : mapGranules ownPool = 1 := by decide
    have e2 : granulesOf ownPool = 4 := by decide
    omega
  · have : k = 4 ∨ k = 5 ∨ k = 6 ∨ k = 7 := by omega
    rcases this with rfl | rfl | rfl | rfl <;> decide +kernel
  · have i1 : 4 ≤ i := i1
    omega
  · have e2 : granulesOf restPool = 1016 := by decide
    omega

/-- The block at the arena's first granule; addresses of no block: within a granule, in the map, of a free granule, before and
behind the pool; 0. -/
theorem witness_Allocator_free :
    (∀ x ∈ [0, 0x80040, 0x80041, 0x80000, 0x7FFC0, 0x90000], let s := pooled 1 [(0x80000, 0x0C)] x
      Acts (.free h0 (.s 2)) s 0 0 h0 ∧ OneActs s 0 0 h0 (.s 2) 0 ∧ (s.launchOf 0).trace = none ∧ Plain s ∧ HasPart s 0 ∧
        (s.launchOf 0).teamCount * (s.launchOf 0).f 768 32 ≤ (s.launchOf 0).f 800 32 * 65536 ∧ regGet (s.grp 0 0) (.s 2) 0 2 = x ∧
        MapAt s (whoLaunch (s.launchOf 0)) ownPool (fun b => ownPool.1 + b) ∧ (s.launchOf 0).f 832 64 = 0x80000 ∧
        (s.launchOf 0).f 800 32 * 65536 = 0x10000) ∧
    (let m := (pooled 1 [(0x80000, 0x0C)] 0x80040).mem
     ∃ u j, u < (pool 1).teamCount ∧ j < (pool 1).groups ∧ ownPool = groupPool (pool 1) u j ∧ 0x80040 - ownPool.1 = 64 * 1 + 0 ∧
      mapGranules ownPool ≤ 1 ∧ 1 < granulesOf ownPool ∧ granuleIs m (fun b => ownPool.1 + b) 1 = 3 ∧ 1 + 1 ≤ granulesOf ownPool ∧
      granuleIs m (fun b => ownPool.1 + b) (1 + 1) ≠ 1) ∧
    (let s := pooled 1 [] 0x80040
     Acts (.free h0 (.s 2)) s 0 0 h0 ∧ granuleIs s.mem (fun b => ownPool.1 + b) 1 ≠ 3 ∧ HasPart s 0) ∧
    (Acts (.free h0 (.s 2)) S 0 0 h0 ∧ (S.launchOf 0).f 832 64 = 0) ∧
    (let s := pooled 1 [(0x80000, 0x0C)] 0x80040
     0 < 1 ∧ firstFit s (whoLaunch (s.launchOf 0)) (groupArena (s.launchOf 0) 0 0) 1 3 1 0 = .ok (some 2)) := by
  refine ⟨fun x hx => ?_, ⟨0, 0, by decide +kernel, by decide +kernel, by decide +kernel, by decide, by decide, by decide, by decide +kernel, by decide,
    by decide +kernel⟩, ⟨acts_of (by decide +kernel), by decide +kernel, by unfold HasPart; decide +kernel⟩,
    ⟨acts_of (by decide +kernel), by decide +kernel⟩, by decide, ?_⟩
  · simp only [List.mem_cons, List.not_mem_nil, or_false] at hx
    rcases hx with rfl | rfl | rfl | rfl | rfl | rfl <;>
      exact ⟨acts_of (by decide +kernel), oneActs0 (by decide +kernel) (by decide +kernel), rfl, ⟨rfl, rfl⟩, by unfold HasPart; decide +kernel,
        by decide +kernel, by decide +kernel, mapAt_of (pooled_stand _ _ (by decide)) (by decide +kernel), by decide +kernel, by decide +kernel⟩
  · obtain ⟨a, ha, hb⟩ := ok_of (x := firstFit (pooled 1 [(0x80000, 0x0C)] 0x80040) (whoLaunch ((pooled 1 [(0x80000, 0x0C)] 0x80040).launchOf 0))
      (groupArena ((pooled 1 [(0x80000, 0x0C)] 0x80040).launchOf 0) 0 0) 1 3 1 0) (p := fun a => a == some 2) (by decide +kernel)
    rw [ha, beq_iff_eq.1 hb]

/-! Calls and acts. -/

/-- A system launch's group, with uniform registers and some bytes of memory. -/
def sup (s : Store 32) (b : Memory := []) : State := { recorded b { gr with s := s } with launches := [{ la with sys := true }] }
theorem rights_sup (s : Store 32) (b : Memory) : Rights (sup s b) 0 0 := Or.inr rfl
def services : List (Instr × BitVec 16) :=
  [(.registerQueue h0, 1), (.registerCollectiveGroup h0, 2), (.addFrames h0, 3), (.retireRoot h0, 4), (.setHangThreshold h0, 5),
    (.attestationQuote h0, 0x10)]
/-- Two pairs of addresses: s0, s2; a count in s4. -/
def regs : Store 32 := [(0, 0x20000), (2, 0x21000), (3, 0), (4, 1)]

theorem witness_SupervisorCalls :
    Acts (.hvc h0 7) S 0 0 h0 ∧ (¬Rights S 0 0 ∧ ∀ x ∈ services, Acts x.1 S 0 0 h0) ∧
    (Rights (sup regs) 0 0 ∧ HasPart (sup regs) 0 ∧ ∀ x ∈ services, Acts x.1 (sup regs) 0 0 h0) ∧
    (let s := sup [(0, 0x20000), (3, 5)]
     Acts (.registerQueue h0) s 0 0 h0 ∧ (∃ pg, pageIn s 0 (s.launchOf 0).ctxRoot (pairAt (s.grp 0 0) 0) = some pg) ∧
      ((s.grp 0 0).s.get 3).toNat % 2 ^ 16 ≠ 0) ∧
    -- stores wait nowhere: the monitor meets memory as it stands
    (∀ x b, Plain (sup x b) ∧ (sup x b).launchOf 0 = { la with sys := true }) ∧
    -- a group of one member
    (let s := sup regs [(0x20000, 5), (0x20002, 4), (0x20004, 1), (0x20008, 1), (0x20010, 7)]
     let w : Who := { whoPart 0 false true with root := la.ctxRoot }
     Acts (.registerCollectiveGroup h0) s 0 0 h0 ∧ ∃ x, partRead s w (pairAt (s.grp 0 0) 0) 16 = some x ∧
      (x / 2 ^ 16 % 8 = 4 ∨ x / 2 ^ 16 % 8 = 5) ∧ [7].length = x / 2 ^ 32 % 2 ^ 32 ∧
      (∀ j < 1, partRead s w (pairAt (s.grp 0 0) 0 + 16 + 8 * j) 8 = [7][j]?) ∧
      ∀ c ∈ (s.partOf 0).colls, c.id ≠ BitVec.ofNat 16 x) ∧
    -- one frame
    (let s := sup regs [(0x21002, 9)]
     Acts (.addFrames h0) s 0 0 h0 ∧ [0x90000].length = ((s.grp 0 0).s.get 4).toNat ∧
      ∀ j < 1, partRead s { whoPart 0 false true with root := la.ctxRoot } (pairAt (s.grp 0 0) 2 + 8 * j) 8 = [0x90000][j]?) ∧
    -- a ROOT without a launch, and the launch's own
    (let s := sup [(0, 0x40)]
     ∀ n, launchLive s n = true → (s.launch n).part = 0 → (s.launch n).lineage.toNat % 2 ^ 16 ≠ 0x40) ∧
    (let s := sup [(0, 1)]
     Acts (.retireRoot h0) s 0 0 h0 ∧ launchLive s 0 = true ∧ (s.launch 0).part = 0 ∧
      (s.launch 0).lineage.toNat % 2 ^ 16 = ((s.grp 0 0).s.get 0).toNat) ∧
    -- thresholds at the bounds
    (∀ n ∈ [(0 : Word), 1, 60000, 60001], Acts (.setHangThreshold h0) (sup [(0, n)]) 0 0 h0) ∧
    -- a nonce that can be read, and room for a quote of one byte, whatever it is
    ((∃ x, partRead (sup regs) { whoPart 0 false true with root := la.ctxRoot } (pairAt ((sup regs).grp 0 0) 0) 32 = some x) ∧
      ∀ b : Byte, ∃ s₁, putList { whoPart 0 false true with root := la.ctxRoot } 1 (pairAt ((sup regs).grp 0 0) 2) [b] (sup regs) = some s₁ ∧ s₁.teams = (sup regs).teams) ∧
    (let w := waiting (.hvc 7)
     OneWait (one { gr with waits := [w] }) 0 0 w ∧ w.kind = .hvc 7) := by
  refine ⟨acts_of (by decide +kernel), ⟨by simp only [Rights]; decide +kernel, fun x hx => acts_of ?_⟩,
    ⟨rights_sup _ _, by unfold HasPart; decide +kernel, fun x hx => acts_of ?_⟩, ⟨acts_of (by decide +kernel), ?_, by decide⟩, fun x b => ⟨⟨rfl, rfl⟩, rfl⟩,
    ⟨acts_of (by decide +kernel), 5 + 2 ^ 18 + 2 ^ 32 + 2 ^ 64, by decide +kernel, Or.inl (by decide), by decide, by decide +kernel, by decide +kernel⟩,
    ⟨acts_of (by decide +kernel), by decide, by decide +kernel⟩, fun n hn _ => ?_, ⟨acts_of (by decide +kernel), by decide +kernel, rfl, by decide⟩,
    fun n hn => acts_of ?_, ⟨⟨0, by decide +kernel⟩, fun b => ?_⟩, ⟨by unfold Claims.Exists; decide, rfl, rfl, rfl, rfl, rfl, rfl⟩, rfl⟩
  · exact List.all_eq_true.1 (by decide +kernel : services.all (fun x => actsB S 0 0 h0 x.1) = true) x hx
  · exact List.all_eq_true.1 (by decide +kernel : services.all (fun x => actsB (sup regs) 0 0 h0 x.1) = true) x hx
  · rw [← Option.isSome_iff_exists]; decide +kernel
  · have h : n < 1 := by
      unfold launchLive at hn
      simp only [Bool.and_eq_true, decide_eq_true_eq] at hn
      exact hn.1
    have : n = 0 := by omega
    subst this
    decide
  · simp only [List.mem_cons, List.not_mem_nil, or_false] at hn
    rcases hn with rfl | rfl | rfl | rfl <;> decide +kernel
  · obtain ⟨s₁, e, h⟩ := some_of (o := putList { whoPart 0 false true with root := la.ctxRoot } 1 (pairAt ((sup regs).grp 0 0) 2) [b] (sup regs))
      (p := fun s' => decide (s'.teams = (sup regs).teams)) (by revert b; decide +kernel)
    exact ⟨s₁, e, of_decide_eq_true h⟩

/-- Group 0 is stopped under handle 3. -/
def record (nest : Bool) : FaultRec := ⟨3, 0, 0, { code := 0x05, nest := nest, lanes := 1, pc := 8 }⟩
def stopped (nest : Bool) (base : DWord) : State :=
  { st { tm with groups := [{ gr with stopped := some 3 }], trapBase := base } with faults := [record nest] }
theorem witness_SupervisorActs : ∀ nest : Bool, ∀ base ∈ [(0 : DWord), 0x70000],
    let s := stopped nest base
    Stopped s (record nest) ∧ (s.launchOf 0).part = 0 ∧ (record nest).trap.seq = false ∧ (s.team 0).phase = .resident ∧
      (s.team 0).launch < s.launches.length ∧ (s.team 0).trapBase = base ∧ (s.grp 0 0).ended = false ∧ (4 : Word) ≠ (record nest).handle ∧ (s.part 0).started = true ∧
      (s.team 0).answers = [] ∧ (s.team 0).phase ≠ .saved ∧ (State.reset.part 0).started = false := by
  intro nest base hb
  exact ⟨⟨rfl, by unfold Claims.Exists; show 0 < 1 ∧ 0 < 1; decide, rfl, fun w hw => by cases hw⟩, rfl, rfl, rfl, by show 0 < 1; decide, rfl, rfl, by decide +revert, rfl, rfl,
    by show TeamPhase.resident ≠ .saved; decide, rfl⟩

/-! The part. -/

/-- Every lane of the one group is parked at a barrier since its start; no sequencer. -/
def hung (at_ : Option Nat) (done : Bool) : State :=
  let l := { la with pkt := la.pkt + BitVec.ofNat 1024 (2 ^ 448 * 0x38000) }
  { st { tm with groups := [{ gr with waits := [{ waiting (.barrier 0 false) with lanes := -1 }] }], seq := { stat := 4 }, hangAt := at_,
                 hangDone := done } with
    launches := [l], coreIdle := [(0, 0, 0)], cycle := 1000000, records := [{ part := 0, ring := 0x38000, phys := false, slots := [5] }] }
theorem witness_PartSteps_idle :
    (let s := hung none false
     IdleSince s 0 0 0 ∧ 500000 ≤ now s - 0 ∧ ∀ v, ¬gatedAs s 0 0 v) ∧ coreWaits S (0, 0) = false ∧
    (∀ a ∈ [1000000, 1000001], let s := hung (some a) false
      0 < s.teams.length ∧ (s.team 0).hangAt = some a ∧ (s.team 0).hangDone = false ∧ cyclicWait s 0 = true ∧ (s.launchOf 0).f 448 64 ≠ 0 ∧
        ∃ q ∈ s.records, q.part = (s.launchOf 0).part ∧ q.ring.toNat = (s.launchOf 0).f 448 64 ∧ q.phys = false ∧ q.slots ≠ []) ∧
    ((hung none true).team 0).hangDone = true := by
  refine ⟨⟨⟨by decide +kernel, List.mem_singleton.2 rfl⟩, by decide, fun v h => by cases h⟩, by decide +kernel, fun a ha => ?_, rfl⟩
  simp only [List.mem_cons, List.not_mem_nil, or_false] at ha
  rcases ha with rfl | rfl <;>
    exact ⟨by show 0 < 1; decide, rfl, rfl, by decide +kernel, by decide +kernel, _, List.mem_singleton.2 rfl, rfl, by decide +kernel, rfl, by decide⟩

/-- Two errors that were lost; the ring of one slot is empty, or full. -/
def losing (b : Memory) : State := { S with mem := tables ++ b, parts := [(0, { prt with lostErrs := 2 })] }
def lostRec (s : State) : Record :=
  { part := 0, ring := (s.part 0).errRing, phys := true, slots := [logSlot (s.part 0).lostAt 7 0 0 0 (min (s.part 0).lostErrs (2 ^ 32 - 1)) 0 0] }
theorem witness_PartSteps_lostErrors : (kGet (losing []).parts 0).isSome = true ∧ ((losing []).part 0).lostErrs ≠ 0 ∧
    (∃ i s₁ slot, writeRecord (lostRec (losing [])) (losing []) = .done i s₁ slot) ∧
    (let s := losing [(0x30010, 1)]
     (s.part 0).lostErrs ≠ 0 ∧ writeRecord (lostRec s) s = .full) := by
  have h1 : (match writeRecord (lostRec (losing [])) (losing []) with
    | .done _ _ _ => true
    | _ => false) = true := by decide +kernel
  have h2 : (match writeRecord (lostRec (losing [(0x30010, 1)])) (losing [(0x30010, 1)]) with
    | .full => true
    | _ => false) = true := by decide +kernel
  refine ⟨rfl, by decide, ?_, by decide, ?_⟩
  · generalize writeRecord (lostRec (losing [])) (losing []) = x at h1
    cases x with
    | done i s slot => exact ⟨i, s, slot, rfl⟩
    | full => cases h1
    | lost a => cases h1
  · generalize writeRecord (lostRec (losing [(0x30010, 1)])) (losing [(0x30010, 1)]) = x at h2 ⊢
    cases x with
    | done i s slot => cases h2
    | full => rfl
    | lost a => cases h2

/-- A team on die 1 without a stream; lane 0 waits. -/
def wait0 : Wait := { waiting (.barrier 0 false) with lanes := 1 }
def elsewhere (touched : BitVec 4) : Team :=
  { tm with die := 1, linear := 1, touched := touched, seq := {}, groups := [{ gr with waits := [wait0] }] }
/-- Die 0 in a state of its link since time 0; team 0 on it, team 1 on die 1, which has touched die 0 or not. -/
def linked (k : Nat) (touched : BitVec 4) : State :=
  { S with dies := { clocked := true, linkState := k } :: List.replicate 3 { clocked := true }, cycle := 1000000,
           teams := [tm, elsewhere touched] }
theorem witness_PartSteps_links : (∀ k ∈ [0, 1, 2], ∀ b ∈ [(0 : BitVec 4), 1], let s := linked k b
    Lives s 0 ∧ (s.die 0).linkState = k ∧ 10000 < now s - (s.die 0).linkSince ∧ partOfDie s 0 = some 0 ∧ s.records = [] ∧ (s.part 0).recent = [] ∧
      1000000 ≤ now s - (s.die 0).lastBeat ∧ (s.team 0).phase = .resident ∧ (s.team 0).die = 0 ∧ (s.team 0).launch < s.launches.length ∧
      (s.team 1).phase = .resident ∧ (s.team 1).die ≠ 0 ∧ (s.team 1).touched = b ∧ (s.grp 1 0).ended = false ∧
      (s.team 1).seq.named = false ∧ ∃ w, (s.grp 1 0).waits = [w] ∧ w.running = false ∧ w.done = none ∧ w.lanes.getLsbD 0 = true ∧
        (s.grp 1 0).exited.getLsbD 0 = false) ∧
    (let s := { linked 0 0 with cycle := 999999 }
     Lives s 0 ∧ now s - (s.die 0).lastBeat < 1000000 ∧ (s.die 0).linkState = 0) ∧
    (let s := one { gr with lost := 1 }
     canIssue s 0 0 = true ∧ HasPart s 0 ∧ (s.grp 0 0).lost ≠ 0) ∧
    (let s := { S with silent := [⟨5, 0, 0, 0, false⟩, ⟨6, 0, 0, 0, false⟩], cycle := 100000 }
     s.silent[0]? = some ⟨5, 0, 0, 0, false⟩ ∧ 100000 ≤ now s - 0 ∧ s.silent[1]? = some ⟨6, 0, 0, 0, false⟩) := by
  refine ⟨fun k hk b hb => ?_, ⟨⟨by decide, rfl, rfl, rfl⟩, by decide, rfl⟩, ⟨by decide +kernel, by unfold HasPart; decide +kernel, by decide⟩,
    rfl, by decide, rfl⟩
  simp only [List.mem_cons, List.not_mem_nil, or_false] at hk hb
  rcases hk with rfl | rfl | rfl <;> rcases hb with rfl | rfl <;>
    exact ⟨⟨by decide, rfl, rfl, rfl⟩, rfl, by decide, by decide +kernel, rfl, rfl, by decide, rfl, rfl, by show 0 < 1; decide, rfl, by decide, rfl, rfl, rfl, wait0, rfl, rfl, rfl,
      by decide, by decide⟩

/-! The module. -/

/-- Port 1 holds semaphores 14 and 15. -/
def held : List Sem := (State.reset.sems.set 14 ⟨true, true⟩).set 15 ⟨true, true⟩
/-- In recovery, with a status and a window. -/
def recovering (status : DWord) (window : List Byte) : State :=
  { State.reset with boot := .recovery, sems := held, recStatus := status, window := window }
theorem witness_ModuleSteps_boot :
    (∀ img, let s := { State.reset with flash := img }
      s.boot = .off ∧ s.flash = img) ∧ imageFails [] ≠ none ∧
    (∀ k ∈ [(0 : DWord), 1, 2, 0x53], ∀ img, let s := recovering k img
      s.boot = .recovery ∧ s.recStatus.toNat % 16 = (if k = 0x53 then 3 else k.toNat) ∧ s.window = img ∧
        (∃ x, s.sems[15]? = some x ∧ x.held = true ∧ x.owner = true) ∧ ¬∃ x, s.sems[15]? = some x ∧ x.held = true ∧ x.owner = false) ∧
    imageFails (recovering 1 []).window = some 5 := by
  have h : imageFails [] = some 5 := by decide +kernel
  refine ⟨fun img => ⟨rfl, rfl⟩, by rw [h]; decide, fun k hk img => ⟨rfl, ?_, rfl, ⟨⟨true, true⟩, rfl, rfl, rfl⟩, fun ⟨x, hx, _, ho⟩ => ?_⟩, h⟩
  · simp only [List.mem_cons, List.not_mem_nil, or_false] at hk
    rcases hk with rfl | rfl | rfl | rfl
    · show (0 : DWord).toNat % 16 = _; decide
    · show (1 : DWord).toNat % 16 = _; decide
    · show (2 : DWord).toNat % 16 = _; decide
    · show (0x53 : DWord).toNat % 16 = _; decide
  · cases hx; cases ho

theorem witness_ModuleSteps_semaphores :
    State.reset.sems[(15 : BitVec 4).toNat]? = some {} ∧ ({} : Sem).held = false ∧ ({ State.reset with sems := held }).sems[(15 : BitVec 4).toNat]? = some ⟨true, true⟩ ∧
      ((⟨true, true⟩ : Sem).held && (⟨true, true⟩ : Sem).owner == true) = true ∧ ((⟨true, true⟩ : Sem).held && (⟨true, true⟩ : Sem).owner == false) = false :=
  ⟨rfl, rfl, rfl, rfl, rfl⟩

/-- A request on partition 0 and all dies; the save region at 16 MiB. -/
def asks (op carve : Nat) : BitVec 2048 :=
  BitVec.ofNat 2048 (2 ^ 2 * op + 2 ^ 4 * 15 + 2 ^ 16 * carve + 2 ^ 64 * 0x1000000 + 2 ^ 128 * 0x10000 + 2 ^ 192 * 0x30000 + 2 ^ 256 * 0x30040)
/-- The monitor runs; port 1 may ring, or has rung for a request. -/
def monitor (ps : List (Nat × Part)) : State := { State.reset with boot := .monitor, sems := held, parts := ps }
def rung (r : BitVec 2048) : State := { monitor [] with request := leBytes 256 r.toNat, rungBy := true, mailbox := 1 }
theorem memDie_lt {a : Nat} : memDie a < 4 := by
  unfold memDie granuleDie
  split <;> exact Nat.mod_lt _ (by decide)
/-- With all dies, each in the ordinary world, every granule is the partition's. -/
theorem inPart_all {r : Nat} (hd : reqDies r = 15) (hw : fld r 8 4 = 0) {a n : Nat} (h : a + n ≤ hbmTop)
    (hg : ((granulesOf a n).all fun x => decide (x < hbmTop)) = true) : inPart r a n = true := by
  have start (x : Nat) : granuleStart r x = false := by
    have hx := memDie_lt (a := x)
    have e : (r / 2 ^ 8 % 2 ^ 4).testBit (memDie x) = false := by
      have : r / 2 ^ 8 % 2 ^ 4 = 0 := by simpa [fld, Nat.shiftRight_eq_div_pow] using hw
      rw [this]; exact Nat.zero_testBit _
    unfold granuleStart bitOf
    rw [Nat.testBit_mod_two_pow, decide_eq_true hx, Bool.true_and, Nat.testBit_div_two_pow] at e
    rwa [Nat.add_comm]
  unfold inPart
  simp only [decide_eq_true h, Bool.true_or, Bool.true_and, start, beq_self_eq_true, Bool.and_true]
  rw [List.all_eq_true] at hg ⊢
  intro x hx
  have hlt : granuleDie x < 4 := Nat.mod_lt _ (by decide)
  unfold granuleIn
  rw [if_pos (of_decide_eq_true (hg x hx)), hd]
  generalize granuleDie x = d at hlt
  have : d = 0 ∨ d = 1 ∨ d = 2 ∨ d = 3 := by omega
  rcases this with rfl | rfl | rfl | rfl <;> rfl
theorem createOk_of {s : State} {op : Nat} (hop : op < 4) (back : BitVec 4)
    (h : ((List.range 4).any fun d => (partOfDie s d).isSome || (s.die d).lost) = false) : createRefused s back (asks op 1).toNat = none := by
  have e : reqDies (asks op 1).toNat = 15 := by revert op; decide +kernel
  have w : fld (asks op 1).toNat 8 4 = 0 := by revert op; decide +kernel
  have f : fld (asks op 1).toNat 64 64 = 0x1000000 ∧ fld (asks op 1).toNat 128 64 = 0x10000 ∧ fld (asks op 1).toNat 192 64 = 0x30000 ∧
      fld (asks op 1).toNat 256 64 = 0x30040 := by revert op; decide +kernel
  have c : ((List.range 4).filter (15 : BitVec 4).getLsbD).any (fun d => decide (4 < reqCarve (asks op 1).toNat d)) = false := by
    revert op; decide +kernel
  have m : ((List.range 4).filter (15 : BitVec 4).getLsbD).any (fun d => (partOfDie s d).isSome || ((s.die d).lost && !(back.getLsbD d))) = false := by
    rw [List.any_eq_false] at h ⊢
    intro d hd
    have hd' := h d (List.mem_filter.1 hd).1
    simp only [Bool.or_eq_true, not_or] at hd' ⊢
    refine ⟨hd'.1, fun x => hd'.2 ?_⟩
    rw [Bool.and_eq_true] at x
    exact x.1
  have i1 := inPart_all e w (a := 0x1000000) (n := 0x10000) (by decide) (by decide +kernel)
  have i2 := inPart_all e w (a := 0x30000) (n := 64) (by decide) (by decide +kernel)
  have i3 := inPart_all e w (a := 0x30040) (n := 64) (by decide) (by decide +kernel)
  unfold createRefused
  simp only [e, f.1, f.2.1, f.2.2.1, f.2.2.2, c, m, i1, i2, i3]
  decide
theorem witness_ModuleSteps_partitions :
    ((∀ op < 3, WellAsked op (asks op 1)) ∧ ∀ e ∈ [(0, 1), (0, 3), (1, 0), (2, 0)], ¬WellAsked e.1 (asks e.2 1)) ∧
    (∀ op < 4, req (asks op 1) 2 2 = op ∧ ¬Rings (monitor []) false (asks op 1) ∧ Rings (rung (asks op 1)) true (asks op 1) ∧
      ¬Rings (rung (asks op 1)) false (asks op 1) ∧ ∀ ps, Rings (monitor ps) true (asks op 1)) ∧
    (¬(kGet (monitor []).parts (req (asks 0 1) 0 2)).isSome = true ∧ CreateOk (monitor []) (asks 0 1) ∧
      createRefused (monitor []) 0 (asks 0 5).toNat = some 2 ∧ WellAsked 0 (asks 0 5) ∧ (monitor []).dies.length = 4) ∧
    (let s := monitor [(0, prt)]
     (kGet s.parts (req (asks 0 1) 0 2)).isSome = true ∧
      createRefused (removePart 0 (asked s true (asks 2 1))) (s.part 0).dies (asks 2 1).toNat = none ∧
      createRefused (removePart 0 (asked s true (asks 2 5))) (s.part 0).dies (asks 2 5).toNat = some 2 ∧ WellAsked 2 (asks 2 5)) ∧
    State.reset.stations[31]? = some { width := 4 } := by
  have rings : ∀ r, leNat (slice (leBytes 256 (r : BitVec 2048).toNat) 0 256) = r.toNat → Rings (rung r) true r ∧ ¬Rings (rung r) false r := fun r e =>
    ⟨⟨rfl, by rw [if_pos (by rfl)]; exact ⟨e, rfl⟩⟩, fun h => by
      have := h.2
      rw [if_pos (by rfl)] at this
      cases this.2⟩
  refine ⟨by unfold WellAsked req; decide +kernel, fun op hop => ⟨by unfold req; revert op; decide +kernel, fun h => ?_,
      (rings _ (by revert op; decide +kernel)).1, (rings _ (by revert op; decide +kernel)).2,
      fun ps => ⟨rfl, by rw [if_neg (by show ¬((0 : DWord).toNat % 16 = 1); decide)]; exact ⟨⟨true, true⟩, rfl, rfl, rfl⟩⟩⟩,
    ⟨by decide, createOk_of (by decide) 0 (by decide +kernel), by decide +kernel,
      by unfold WellAsked req; decide +kernel, rfl⟩,
    ⟨by decide +kernel, createOk_of (by decide) _ (by decide +kernel), by decide +kernel, by unfold WellAsked req; decide +kernel⟩, rfl⟩
  have := h.2
  rw [if_neg (by show ¬((0 : DWord).toNat % 16 = 1); decide)] at this
  obtain ⟨x, hx, _, ho⟩ := this
  cases hx; cases ho

theorem popS (a : Nat) (h : a < hbmTop) : ∃ e ∈ S.parts, populated S e.2 a = true :=
  ⟨(0, prt), List.mem_singleton.2 rfl, by simp only [populated, decide_eq_true h, Bool.true_or]⟩
theorem world_of {s : State} {v : Bool} (hs : (s.parts.all fun e => e.2.saveUsed.isEmpty) = true) (hw : s.worlds = []) (h4 : s.dies.length = 4) (h : (s.dies.all fun d => d.secure == v) = true) (a : Nat) :
    granuleWorld s a = v := by
  have hd : memDie a < s.dies.length := by rw [h4]; exact memDie_lt
  have ha : areaWorld s a = none := List.findSome?_eq_none_iff.2 fun e he => by
    rw [List.isEmpty_iff.1 (List.all_eq_true.1 hs e he)]; rfl
  unfold granuleWorld State.die
  rw [ha, hw, List.getD_eq_getElem?_getD, List.getElem?_eq_getElem hd]
  show s.dies[memDie a].secure = v
  simpa using List.all_eq_true.1 h _ (List.getElem_mem hd)
/-- The dies are in the secure world; every port is in the ordinary one. -/
def apart : State := { S with dies := List.replicate 4 { secure := true } }
theorem witness_ModuleSteps_accesses :
    S.boot = .monitor ∧ (kGet S.parts 0).isSome = true ∧ (S.part 0).started = true ∧ 0x2000 + 256 ≤ 2 ^ 41 ∧
    (∀ o rs, observe o rs S = S) ∧ S.ecc = [] ∧ (∀ port, ∀ j < 4, Reached S port (0x2000 + j)) ∧ (∀ port, ¬∀ j < 4, Reached apart port (0x2000 + j)) ∧
    (∀ j < 256, ∃ e ∈ S.parts, populated S e.2 (0x2000 + j) = true) ∧ 0x2000 % tyBytes .n32 = 0 ∧ tyBytes .n32 = 4 ∧ atomAccepts .add .n32 = true ∧
    0x2000 % 256 = 0 ∧ (∃ ws, expandBlock (codedOf 1 (leNat [])) = some ws ∧ ws.length = 64) ∧ expandBlock (codedOf 7 (leNat [])) = none ∧
    (let a : DWord := BitVec.ofNat 64 (devBase + 0x12000)
     a.toNat % 8 = 0 ∧ devBase + 0x12000 ≤ a.toNat ∧ a.toNat < devTop) ∧
    S.stations[31]? = some { width := 4 } ∧
    (let s := sqs fun q => { q with fetchFault := true }
     0 < s.teams.length ∧ (s.team 0).seq.fetchFault = true ∧ (s.team 0).phase = .resident ∧ (s.team 0).launch < s.launches.length) := by
  refine ⟨rfl, rfl, rfl, by decide, fun o rs => rfl, rfl, fun port j hj => ⟨Or.inl (by unfold hbmTop; omega), ?_⟩, fun port h => ?_,
    fun j hj => popS _ (by unfold hbmTop; omega), by decide, by decide, by decide, by decide, ⟨_, rfl, rfl⟩, rfl, ⟨by decide, by decide, by decide⟩, rfl,
    by show 0 < 1; decide, rfl, rfl, by show 0 < 1; decide⟩
  · rw [world_of (v := false) rfl rfl rfl (by decide)]; cases port <;> rfl
  · have := (h 0 (by decide)).2
    rw [world_of (v := true) rfl rfl rfl (by decide)] at this
    cases port <;> cases this

/-- BAR 0: a semaphore that is free, one that a port holds; the doorbells of requests and of recovery. -/
theorem witness_ModuleSteps_bar : (monitor []).sems[3]? = some ({} : Sem) ∧ (monitor []).sems[14]? = some ⟨true, true⟩ ∧
    ((monitor []).boot = .monitor ∧ (∃ x, (monitor []).sems[14]? = some x ∧ x.held = true ∧ x.owner = true) ∧ (monitor []).mailbox.toNat % 16 ≠ 1) ∧
    (let s := recovering 0 []
     s.boot = .recovery ∧ (∃ x, s.sems[15]? = some x ∧ x.held = true ∧ x.owner = true) ∧ s.recStatus.toNat % 16 ≠ 1 ∧ s.recStatus.toNat % 16 ≠ 2) :=
  ⟨rfl, rfl, ⟨rfl, ⟨⟨true, true⟩, rfl, rfl, rfl⟩, by decide⟩, rfl, ⟨⟨true, true⟩, rfl, rfl, rfl⟩, by decide, by decide⟩

/-! The dispatcher and pre-emption. -/

/-- A launch whose team goes to the first core of the partition. -/
def first : Launch := { la with pkt := BitVec.ofNat 1024 (packet + 2 ^ 12 * 3), prio := 9 }
theorem first_core : ∃ c, (partCores prt)[0]? = some (0, c) ∧ coreOn 0 c = true := by
  have hd : partCores prt = ((List.range 36).filter (coreOn 0)).map fun c => (0, c) := by
    have : partDies prt = [0] := by decide +kernel
    simp [partCores, this, dieCores]
  obtain ⟨k, hk, h0, -⟩ := some_pair 0
  have hm : 2 * k ∈ (List.range 36).filter (coreOn 0) := List.mem_filter.2 ⟨List.mem_range.2 (by omega), h0⟩
  cases hl : (List.range 36).filter (coreOn 0) with
  | nil => rw [hl] at hm; cases hm
  | cons c cs =>
    exact ⟨c, by rw [hd, hl]; rfl, (List.mem_filter.1 (hl ▸ List.mem_cons_self .. : c ∈ (List.range 36).filter (coreOn 0))).2⟩
/-- A core without teams holds a team of a launch that needs no more than a core has. -/
theorem holds_of {s : State} {out : Nat → Bool} {l : Launch} {c : Nat} (hc : coreOn 0 c = true) (hd : (s.die 0).lost = false)
    (hr : residents s out (0, c) = []) (hl : (decide (l.groups ≤ 64) && decide (l.groups * 32 * l.vregs ≤ 131072) && decide (l.scratchBytes ≤ 2 ^ 20) &&
      decide (l.bars ≤ 256) && decide (l.nqueues ≤ 64) && decide (l.accs ≤ 8) && decide (l.selRows ≤ 128)) = true) : canHold s out l (0, c) = true := by
  simp only [Bool.and_eq_true, decide_eq_true_eq] at hl
  obtain ⟨⟨⟨⟨⟨⟨h1, h2⟩, h3⟩, h4⟩, h5⟩, h6⟩, h7⟩ := hl
  unfold canHold
  simp only [hr, hc, hd, List.foldl_nil, List.length_nil, Nat.zero_add, List.all_nil, Bool.not_false, Bool.and_self, Bool.or_true, Bool.and_true,
    Bool.true_and, h1, h2, h3, h4, h5, h6, h7, decide_true]
  decide
/-- The core of launch `first`, and of any other with its core word, is the first one, if it holds the team. -/
theorem pick_of {s : State} {out : Nat → Bool} {l : Launch} {c : Nat} (hp : s.part l.part = prt) (h12 : l.f 12 2 = 3) (h14 : bitOf l.pkt.toNat 14 = false)
    (h544 : l.f 544 32 = 0) (hc : (partCores prt)[0]? = some (0, c)) (t : Nat) :
    corePick s out l t = if canHold s out l (0, c) = true then some (0, c) else none := by
  unfold corePick chooseCore
  simp only [hp, h12, h14, h544, hc, Bool.not_false, Bool.true_or, Bool.and_true]
theorem first_fields : first.f 12 2 = 3 ∧ bitOf first.pkt.toNat 14 = false ∧ first.f 544 32 = 0 ∧
    (decide (first.groups ≤ 64) && decide (first.groups * 32 * first.vregs ≤ 131072) && decide (first.scratchBytes ≤ 2 ^ 20) &&
      decide (first.bars ≤ 256) && decide (first.nqueues ≤ 64) && decide (first.accs ≤ 8) && decide (first.selRows ≤ 128)) = true := by
  decide +kernel

/-- A queue of partition 0 with its descriptor at 0x20000 and one packet at 0x21000. -/
def queueing (kind : Byte) : State :=
  { recorded [(0x20001, 0x10), (0x20002, 2), (0x20008, kind), (0x20010, 1), (0x21000, 1), (0x21018, 1), (0x2101C, 1), (0x21020, 1)] with
    parts := [(0, { prt with queues := [⟨0x20000, false, 0x40, false⟩] })] }
theorem witness_Dispatcher_packets :
    (∀ kind ∈ [(0x20 : Byte), 0], let s := queueing kind
      let x : QueueReg := ⟨0x20000, false, 0x40, false⟩
      let size := if kind = 0 then 64 else 128
      let s₁ := queueSee 0 x size s
      (kGet s.parts 0).isSome = true ∧ (s.part 0).queues[0]? = some x ∧
        (∃ d, partRead s₁ (whoPart 0 x.world x.sys) x.desc.toNat 16 = some d ∧ d.testBit 69 = decide (kind ≠ 0)) ∧
        (∃ d, partRead s₁ (whoPart 0 x.world x.sys) x.desc.toNat 64 = some d ∧ d / 2 ^ 192 % 2 ^ 64 = 0 ∧ d / 2 ^ 128 % 2 ^ 64 ≠ 0 ∧
          (d % 2 ^ 64 + 128 * (0 % 2 ^ (d / 2 ^ 64 % 2 ^ 5))) % 2 ^ 64 = 0x21000) ∧
        queueHead s₁ 0 x size = some (0, 0x21000) ∧ (∃ s₂, queueAdvance 0 x 0 0x21000 s₁ = some s₂) ∧
        ∃ b, partRead s₁ (whoPart 0 x.world x.sys) 0x21000 size = some b ∧ b < 2 ^ 1024 ∧ b % 2 ^ 8 ≠ 0 ∧ tablesFull s₁ 0 (BitVec.ofNat 1024 b) = false ∧
          b.testBit 16 = false ∧ b.testBit 17 = false ∧ b / 2 ^ 640 % 2 ^ 64 = 0) := by
  intro kind hk
  simp only [List.mem_cons, List.not_mem_nil, or_false] at hk
  have adv : ∀ kind ∈ [(0x20 : Byte), 0], (queueAdvance 0 ⟨0x20000, false, 0x40, false⟩ 0 0x21000
      (queueSee 0 ⟨0x20000, false, 0x40, false⟩ (if kind = 0 then 64 else 128) (queueing kind))).isSome = true := by
    intro kind hk
    simp only [List.mem_cons, List.not_mem_nil, or_false] at hk
    rcases hk with rfl | rfl <;> decide +kernel
  have adv := fun k h => Option.isSome_iff_exists.1 (adv k h)
  rcases hk with rfl | rfl
  · exact ⟨rfl, rfl, ⟨0x21000 + 2 ^ 69, by decide +kernel, by decide +kernel⟩,
      ⟨0x21000 + 2 ^ 69 + 2 ^ 128, by decide +kernel, by decide +kernel, by decide +kernel, by decide +kernel⟩, by decide +kernel, adv _ (by simp),
      ⟨packet, by decide +kernel, by decide +kernel, by decide +kernel, by decide +kernel, by decide +kernel, by decide +kernel, by decide +kernel⟩⟩
  · exact ⟨rfl, rfl, ⟨0x21000, by decide +kernel, by decide +kernel⟩,
      ⟨0x21000 + 2 ^ 128, by decide +kernel, by decide +kernel, by decide +kernel, by decide +kernel⟩, by decide +kernel, adv _ (by simp),
      ⟨packet, by decide +kernel, by decide +kernel, by decide +kernel, by decide +kernel, by decide +kernel, by decide +kernel, by decide +kernel⟩⟩

def placing : State := { S with launches := [first], teams := [] }
theorem witness_Dispatcher_place : ∃ k, nextPlace placing 0 = some (0, k) ∧ (placing.launch 0).pkt.getLsbD 14 = false ∧ (placing.launch 0).trace = none ∧
    ∀ t < placing.teams.length, (placing.team t).phase ≠ .saved := by
  obtain ⟨c, hc, hon⟩ := first_core
  refine ⟨(0, c), ?_, by decide +kernel, rfl, fun t h => by cases h⟩
  have hp : placeAt placing (fun _ => false) 0 = some (0, c) := by
    have : corePick placing (fun _ => false) first 0 = some (0, c) := by
      rw [pick_of rfl first_fields.1 first_fields.2.1 first_fields.2.2.1 hc, if_pos (holds_of hon rfl rfl first_fields.2.2.2)]
    exact this
  have hr : readyLaunches placing 0 = [0] := by decide +kernel
  simp [nextPlace, hr, hp]

/-- A team that has ended. -/
def endedTeam (p : TeamPhase) (cs : List Child) : State :=
  { st { tm with groups := [{ gr with ended := true }], seq := { stat := 4 }, phase := p, children := cs } with launches := [{ la with next := 1 }] }
theorem witness_Dispatcher_ends :
    (∀ cs ∈ [[], [(⟨1, 9, none⟩ : Child)]], let s := endedTeam .resident cs
      0 < s.teams.length ∧ (s.team 0).phase = .resident ∧ (∀ g ∈ (s.team 0).groups, g.ended = true) ∧ (s.team 0).seq.stat.getLsbD 2 = true ∧
        (s.team 0).heldTrap = none ∧ (s.team 0).saveArea = none ∧ s.buffer = []) ∧
    ((endedTeam .retiredPending [⟨1, 9, some 0⟩]).team 0).phase = .retiredPending ∧
    (let s := endedTeam .retired []
     0 < s.launches.length ∧ (∀ t < s.teams.length, (s.team t).launch = 0 → (s.team t).phase = .retired) ∧ (s.launch 0).phase = .ready ∧
      (s.launch 0).teamCount ≤ (s.launch 0).next) ∧
    (let l := { la with next := 1, phase := .ending 5, fcount := 2, pkt := la.pkt + BitVec.ofNat 1024 (2 ^ 448 * 0x38000) }
     let s := { endedTeam .retired [] with launches := [l], records := [{ part := 0, ring := 0x38000, phys := false, slots := [5], ctxRoot := la.ctxRoot }] }
     (s.launch 0).phase = .ending 5 ∧ (s.launch 0).fcount ≠ 0 ∧ (s.launch 0).f 448 64 ≠ 0 ∧
      ∃ q ∈ s.records, q.part = (s.launch 0).part ∧ q.ring.toNat = (s.launch 0).f 448 64 ∧ q.phys = false ∧
        q.ctxRoot = (s.launch 0).ctxRoot ∧ q.slots ≠ []) := by
  refine ⟨fun cs hc => ⟨by show 0 < 1; decide, rfl, fun g hg => ?_, by show (4 : Word).getLsbD 2 = true; decide, rfl, rfl, rfl⟩, rfl,
    ⟨by show 0 < 1; decide, by decide, rfl, by decide +kernel⟩, rfl, by decide, by decide +kernel, _, List.mem_singleton.2 rfl, rfl, by decide +kernel, rfl, rfl, by decide⟩
  have : g ∈ [{ gr with ended := true }] := hg
  rw [List.mem_singleton.1 this]

/-- A record of n slots for the error ring, of one slot, whose index is p. -/
def ringing (p : Byte) (n : Nat) : State :=
  { S with mem := tables ++ [(0x30010, p)], records := [{ part := 0, ring := 0x30000, phys := true, slots := List.replicate n 5 }] }
theorem witness_Dispatcher_records :
    (∀ p ∈ [(0 : Byte), 1], ∀ n ∈ [1, 2], let s := ringing p n
      Plain s ∧ ∃ r, s.records = [r] ∧ r.phys = true ∧ r.launch = none ∧ r.cmd = none ∧ r.signal = 0 ∧ r.slots.length = n ∧ r.slots ≠ [] ∧ r.ring.toNat = 0x30000 ∧
        0x30000 + 64 ≤ devBase ∧ ringField s 0x30000 0 64 = 0 ∧ 2 ^ ringField s 0x30000 64 5 = 1 ∧ 0 + 32 * 1 ≤ 0x30000 ∧
        (ringField s 0x30000 128 64 + 2 ^ 64 - ringField s 0x30000 192 64) % 2 ^ 64 + n = p.toNat + n) ∧
    (let u : Unread := ⟨0, 0x30000, true, false, 0, 0, none⟩
     ∀ c ∈ [(0 : Byte), 1], let s := { S with unread := [u], mem := tables ++ [(0x30010, 1), (0x30018, c), (0x30022, 5)], cycle := 5 }
      s.unread[0]? = some u ∧ ∃ s₁ d, ringRead { whoPart u.part u.world true with root := u.ctxRoot } u.phys u.ring.toNat 64 s = .ok (s₁, d) ∧
        d / 2 ^ 272 % 2 ^ 32 = 5 ∧ 5 ≤ now s₁ - u.since ∧
        ((d / 2 ^ 128 % 2 ^ 64 + 2 ^ 64 - u.index) % 2 ^ 64 ≤ (d / 2 ^ 128 % 2 ^ 64 + 2 ^ 64 - d / 2 ^ 192 % 2 ^ 64) % 2 ^ 64 ↔ c = 0)) := by
  constructor
  · intro p hp n hn
    simp only [List.mem_cons, List.not_mem_nil, or_false] at hp hn
    rcases hp with rfl | rfl <;> rcases hn with rfl | rfl <;>
      exact ⟨⟨rfl, rfl⟩, _, rfl, rfl, rfl, rfl, rfl, rfl, by decide, rfl, by decide, by decide +kernel, by decide +kernel, by decide, by decide +kernel⟩
  · intro u c hc
    simp only [List.mem_cons, List.not_mem_nil, or_false] at hc
    rcases hc with rfl | rfl
    · exact ⟨rfl, _, _, rfl, by decide +kernel, by decide +kernel, by decide +kernel⟩
    · exact ⟨rfl, _, _, rfl, by decide +kernel, by decide +kernel, by decide +kernel⟩

/-! Pre-emption. -/

theorem fold_some {α : Type} {f : Option α → α → Option α} (h1 : ∀ a, (f none a).isSome = true) (h2 : ∀ a b, (f (some a) b).isSome = true) :
    ∀ (l : List α) (o : Option α), (o.isSome = true ∨ l ≠ []) → (l.foldl f o).isSome = true
  | [], o, h => by
    rcases h with h | h
    · exact h
    · exact absurd rfl h
  | a :: l, o, _ => by
    refine fold_some h1 h2 l _ (Or.inl ?_)
    cases o with
    | none => exact h1 a
    | some b => exact h2 b a
/-- An empty save region that holds an area has a place for it. -/
theorem area_of {s : State} {p : Part} {n : Nat} (h : areaFree p p.saveBase n = true) : (pickArea s p n).isSome = true := by
  unfold pickArea
  refine fold_some (fun a => rfl) (fun a b => ?_) _ _ (Or.inr fun he => ?_)
  · split
    · contradiction
    · split <;> rfl
  · have : p.saveBase ∈ ([] : List Nat) := by
      rw [← he]
      exact List.mem_filter.2 ⟨List.mem_cons_of_mem _ (List.mem_cons_self ..), h⟩
    cases this

/-- Launch 1 is bound to the core where team 0, of a launch with a stream as well, stands alone. -/
def high : Launch := { first with pkt := first.pkt + BitVec.ofNat 1024 (2 ^ 128 * 0x60000), order := 1 }
def low : Launch := { la with next := 1 }
def crowded (c : Nat) : State := { S with launches := [low, high], teams := [{ tm with core := c }] }
theorem high_fields : high.f 12 2 = 3 ∧ bitOf high.pkt.toNat 14 = false ∧ high.f 544 32 = 0 ∧ high.teamCount = 1 ∧ (high.stream == 0) = false ∧
    (low.stream == 0) = false ∧ bitOf low.pkt.toNat 14 = false ∧
    (decide (high.groups ≤ 64) && decide (high.groups * 32 * high.vregs ≤ 131072) && decide (high.scratchBytes ≤ 2 ^ 20) &&
      decide (high.bars ≤ 256) && decide (high.nqueues ≤ 64) && decide (high.accs ≤ 8) && decide (high.selRows ≤ 128)) = true := by
  decide +kernel
theorem launch1 (c : Nat) : (crowded c).launch 1 = high := rfl
theorem launch0 (c : Nat) : (crowded c).launchOf 0 = low := rfl
theorem residents_crowded (c : Nat) (out : Nat → Bool) : residents (crowded c) out (0, c) = if out 0 = true then [] else [0] := by
  have h : (crowded c).teams.length = 1 := rfl
  unfold residents
  rw [h, show List.range 1 = [0] from rfl, List.filter_cons, List.filter_nil]
  have : ((crowded c).team 0).phase = .resident ∧ ((crowded c).team 0).die = 0 ∧ ((crowded c).team 0).core = c := ⟨rfl, rfl, rfl⟩
  simp only [this.1, this.2.1, this.2.2, beq_self_eq_true, Bool.true_and]
  cases out 0 <;> rfl
theorem holds_crowded {c : Nat} (hc : coreOn 0 c = true) (out : Nat → Bool) :
    canHold (crowded c) out ((crowded c).launch 1) (0, c) = out 0 := by
  obtain ⟨-, -, -, -, hs, ht, -, hf⟩ := high_fields
  rw [launch1]
  cases ho : out 0 with
  | true => exact holds_of hc rfl (by rw [residents_crowded, ho]; rfl) hf
  | false =>
    unfold canHold
    simp only [residents_crowded, ho, Bool.false_eq_true, if_false, List.all_cons, List.all_nil, hs, launch0, ht, Bool.false_and, Bool.or_self, Bool.and_false]
theorem pick_crowded {c : Nat} (hc : (partCores prt)[0]? = some (0, c)) (hon : coreOn 0 c = true) (out : Nat → Bool) (t : Nat) :
    corePick (crowded c) out ((crowded c).launch 1) t = if out 0 = true then some (0, c) else none := by
  obtain ⟨h1, h2, h3, -⟩ := high_fields
  rw [← holds_crowded hon out, launch1, pick_of rfl h1 h2 h3 hc]
theorem place_crowded {c : Nat} (hc : (partCores prt)[0]? = some (0, c)) (hon : coreOn 0 c = true) (out : Nat → Bool) :
    placeAt (crowded c) out 1 = if out 0 = true then some (0, c) else none := by
  have h : replayOf (crowded c) 1 = none := rfl
  unfold placeAt
  rw [h]
  exact pick_crowded hc hon out _
theorem witness_Preemption_request : ∃ c, victims (crowded c) 1 = some [0] ∧ 1 < (crowded c).launches.length ∧ ∃ s₁, allocAreas [0] (crowded c) = some s₁ := by
  obtain ⟨c, hc, hon⟩ := first_core
  refine ⟨c, ?_, by show 1 < 2; decide, ?_⟩
  · have hl : lowestPrio (crowded c) 0 = some 0 := rfl
    have hp : ((crowded c).launch 1).part = 0 := rfl
    have h1 : ((crowded c).launch 1).phase = .ready := rfl
    have h2 : ((crowded c).launch 1).teamCount = 1 := high_fields.2.2.2.1
    have h3 : ((crowded c).launch 1).next = 0 := rfl
    have h4 : ((crowded c).launch 1).prio = 9 := rfl
    have h6 : bitOf ((crowded c).launch 1).pkt.toNat 14 = false := high_fields.2.1
    have h7 : residentTeams (crowded c) 0 = [0] := rfl
    have h8 : unitOf (crowded c) 0 = [0] := by
      unfold unitOf
      rw [launch0, high_fields.2.2.2.2.2.2.1]; rfl
    have t0 : ((crowded c).team 0).die = 0 ∧ ((crowded c).team 0).core = c ∧ ((crowded c).team 0).preemptAt = none := ⟨rfl, rfl, rfl⟩
    have l0 : ((crowded c).launchOf 0).part = 0 ∧ ((crowded c).launchOf 0).prio = 0 := ⟨rfl, rfl⟩
    have tr : Machine.traced (crowded c) 0 = false := rfl
    unfold victims
    simp only [hp, hl, h1, h2, h3, h4, h6, h7, place_crowded hc hon, t0.2.2, l0.1, l0.2]
    simp [latestFirst, startInsert, takeUntil, holds_crowded hon, h8, t0.1, t0.2.1, t0.2.2, l0.1, l0.2, tr]
  · have h : (pickArea (crowded c) ((crowded c).part ((crowded c).launchOf 0).part) (areaSize ((crowded c).launchOf 0))).isSome = true :=
      area_of (by decide +kernel : areaFree prt prt.saveBase (areaSize low) = true)
    obtain ⟨a, ha⟩ := Option.isSome_iff_exists.1 h
    unfold allocAreas
    simp only [ha, allocAreas]
    exact ⟨_, rfl⟩

/-- Group 0 of two that are to be taken; group 1 is taken or not. -/
def asked (f : Group → Group) (y : Group) (at_ : Nat) : State := { st { tm with groups := [f gr, y], preemptAt := some 0, saveArea := some 0x1000000 } with cycle := at_ }
theorem asked_of (f : Group → Group) (at_ : Nat) (h1 : (f gr).ended = false) (h2 : (f gr).taken = none) : Asked (asked f gr at_) 0 0 ∧ OneMore (asked f gr at_) 0 0 :=
  ⟨⟨by unfold Claims.Exists; show 0 < 1 ∧ 0 < 2; decide, rfl, rfl, h1, h2, by show la.pkt.getLsbD 14 = false; decide +kernel, rfl⟩,
    1, by decide, by show 1 < 2; decide, rfl, rfl⟩
theorem witness_Preemption_taking :
    (∀ pc ∈ [(0 : DWord), 8], let f (x : Group) : Group := { x with safeAt := some (5, 0x100, pc) }
      let s := asked f gr 50000
      Asked s 0 0 ∧ OneMore s 0 0 ∧ (s.grp 0 0).safeAt = some (5, 0x100, pc) ∧ (s.grp 0 0).waits = [] ∧ (s.grp 0 0).exited ≠ -1 ∧
        (s.team 0).preemptAt = some 0 ∧ 50000 ≤ now s - 0 ∧ (s.grp 0 0).exited.getLsbD 31 = false ∧
        ((∀ l < 32, (s.grp 0 0).exited.getLsbD l = false → (s.grp 0 0).pcv.get l = pc) ↔ pc = 0) ∧ ((s.grp 0 0).pcv.get 31 ≠ pc ↔ pc = 8)) ∧
    (let f (x : Group) : Group := { x with waits := [{ waiting (.hvc 1) with lanes := -1 }] }
     let s := asked f gr 0
     Asked s 0 0 ∧ OneMore s 0 0 ∧ (s.grp 0 0).active = 0 ∧ (s.grp 0 0).safeAt = none) := by
  refine ⟨fun pc hp => ?_, (asked_of _ _ rfl rfl).1, (asked_of _ _ rfl rfl).2, by decide +kernel, rfl⟩
  simp only [List.mem_cons, List.not_mem_nil, or_false] at hp
  rcases hp with rfl | rfl <;>
    exact ⟨(asked_of _ _ rfl rfl).1, (asked_of _ _ rfl rfl).2, rfl, rfl, by decide, rfl, by decide, by decide, by decide +kernel, by decide +kernel⟩
/-- A group taken at a safe point, its tokens marked: complete, an error, an outstanding collective, a command that is no
more; a group taken with its lanes parked. -/
def taken0 : Group := { gr with taken := some (2 ^ 56 + 5, false), tok := [(0, .names 0), (1, .names 1), (2, .names 2), (3, .names 9)] }
def taken1 : Group := { gr with taken := some (-1, true), waits := [{ waiting (.hvc 1) with lanes := -1 }] }
def saving : State := { asked (fun _ => taken0) taken1 0 with
  cmds := [{ cpy0 with status := some 0 }, { cpy0 with status := some 3 }, { memberCmd 2 false false 0 0 with status := none }] }
theorem witness_Preemption_save :
    let s := saving
    Plain s ∧ Claims.Exists s 0 0 ∧ (s.launchOf 0).pkt.getLsbD 14 = false ∧ (s.grp 0 0).taken.isSome = true ∧ savable s 0 = true ∧
      (s.team 0).seq.attempt = none ∧ (s.team 0).seq.rendezvous = none ∧ (s.team 0).seq.stage = none ∧
      (∀ x ∈ (s.team 0).groups, x.soft = []) ∧ (s.team 0).saveArea = some 0x1000000 ∧
      (s.team 0).groups.length = (s.launchOf 0).groups ∧ (s.team 0).tiles.length ≤ 8 ∧ (∀ i < 8, tileByte ((s.team 0).tile i).state < 128) ∧
      (∀ i < 8, ((s.team 0).tile i).x128 = ((s.team 0).tile (i / 4 * 4)).x128 ∧
        (((s.team 0).tile i).x128 = true → i / 4 * 4 + 4 ≤ (s.launchOf 0).accs)) ∧
      -- the clauses of the records
      (s.grp 0 0).taken = some (2 ^ 56 + 5, false) ∧ (s.grp 0 1).taken = some (-1, true) ∧
      (s.grp 0 0).parked.getLsbD 0 = false ∧ (∃ w ∈ (s.grp 0 1).waits, w.running = false ∧ w.lanes.getLsbD 0 = true ∧ w.pc = 8) ∧
      (s.grp 0 0).token 4 = .empty ∧ (2 ^ 56 + 5 : BitVec 61).getLsbD (56 + 1 / 4) = true ∧
      (s.grp 0 0).token 0 = .names 0 ∧ (s.cmd? 0).map Cmd.status = some (some 0) ∧
      (s.grp 0 0).token 1 = .names 1 ∧ (s.cmd? 1).map Cmd.status = some (some 3) ∧
      (s.grp 0 0).token 2 = .names 2 ∧ (s.cmd? 2).map (fun c => (c.status, isColl c.kind)) = some (none, true) ∧
      (s.grp 0 0).token 3 = .names 9 ∧ s.cmd? 9 = none :=
  ⟨⟨rfl, rfl⟩, by unfold Claims.Exists; show 0 < 1 ∧ 0 < 2; decide, by show la.pkt.getLsbD 14 = false; decide +kernel, rfl, by decide +kernel, rfl, rfl, rfl, by
    intro x hx
    have : x ∈ [taken0, taken1] := hx
    simp only [List.mem_cons, List.not_mem_nil, or_false] at this
    rcases this with rfl | rfl <;> rfl, rfl, by decide +kernel, by decide, by decide +kernel, by decide +kernel, rfl, rfl, by decide +kernel,
    ⟨_, List.mem_singleton.2 rfl, rfl, by decide, rfl⟩, rfl, by decide, rfl, rfl, rfl, rfl, rfl, by decide +kernel, rfl, rfl⟩
def begun : Launch := { first with next := 1 }
theorem begun_fields : begun.f 12 2 = 3 ∧ bitOf begun.pkt.toNat 14 = false ∧ begun.f 544 32 = 0 ∧
    (decide (begun.groups ≤ 64) && decide (begun.groups * 32 * begun.vregs ≤ 131072) && decide (begun.scratchBytes ≤ 2 ^ 20) &&
      decide (begun.bars ≤ 256) && decide (begun.nqueues ≤ 64) && decide (begun.accs ≤ 8) && decide (begun.selRows ≤ 128)) = true := by
  decide +kernel
/-- A saved team; lane 0 of group 0 waits. -/
def saved : State :=
  { S with launches := [begun], teams := [{ tm with phase := .saved, saveArea := some 0x1000000, groups := [{ gr with waits := [wait0] }] }] }
theorem witness_Preemption_resume : Plain saved ∧ ∃ k, 0 < saved.teams.length ∧ (saved.team 0).phase = .saved ∧ (saved.team 0).saveArea = some 0x1000000 ∧
    (saved.launchOf 0).pkt.getLsbD 14 = false ∧ Machine.resumeAt saved 0 = some k ∧ (∀ u, u ≠ 0 → (saved.team u).phase ≠ .saved) ∧
    nextPlace saved (saved.launchOf 0).part = none ∧ (saved.team 0).answers = [] ∧ (saved.team 0).lateBytes = [] ∧ (saved.team 0).seqLost = 0 ∧
    (saved.team 0).groups.length = (saved.launchOf 0).groups ∧
    ∀ x ∈ (saved.team 0).groups, ∀ w ∈ x.waits, w.done = none ∧ (∀ ls, w.kind ≠ .yield ls) ∧ ∀ d ks, w.kind ≠ .children d ks := by
  obtain ⟨c, hc, hon⟩ := first_core
  refine ⟨⟨rfl, rfl⟩, (0, c), by show 0 < 1; decide, rfl, rfl, by show first.pkt.getLsbD 14 = false; decide +kernel, ?_, fun u hu => ?_, ?_, rfl, rfl, rfl,
    by decide +kernel, fun x hx w hw => ?_⟩
  · have : corePick saved (fun _ => false) begun 0 = some (0, c) := by
      obtain ⟨h1, h2, h3, h4⟩ := begun_fields
      have hh : canHold saved (fun _ => false) begun (0, c) = true := holds_of hon rfl rfl h4
      rw [pick_of rfl h1 h2 h3 hc, if_pos hh]
    exact this
  · rcases u with _ | u
    · exact absurd rfl hu
    · show (noTeam).phase ≠ .saved
      decide
  · have hr : readyLaunches saved (saved.launchOf 0).part = [] := by decide +kernel
    simp [nextPlace, hr]
  · have hx : x ∈ [{ gr with waits := [wait0] }] := hx
    rw [List.mem_singleton.1 hx] at hw
    have hw : w ∈ [wait0] := hw
    rw [List.mem_singleton.1 hw]
    exact ⟨rfl, fun ls h => (by cases h), fun d ks h => by cases h⟩

/-! Results of the spec's own examples. The word is the example's, or is put together from the encoding tables. -/

/-- What the group holds after an instruction's word, of nbits bits, on lane 0 alone. -/
def after (nbits w : Nat) (x : Group) : Option Group :=
  match decodeTableWord nbits w with
  | some i => (match exec i (one { x with exited := 0xFFFFFFFE }) with
    | .next s => some (s.grp 0 0)
    | _ => none)
  | none => none
/-- Lane 0 of vector register d afterwards. -/
def lane0 (nbits w : Nat) (x : Group) (d : Nat) : Option Word := (after nbits w x).map fun g => g.v.get (32 * d)
def lanes0 (l : List (Nat × Word)) : Group := { v := l.map fun e => (32 * e.1, e.2) }

/-- 05 R129's example, and with .sat. -/
theorem test_iadd_wraps : lane0 96 (ext 0x0000000002010041 2) (lanes0 [(2, 0x1234567F)]) 1 = some 0xFFFFFF81 := by decide +kernel
theorem test_iadd_saturates : lane0 96 (ext 0x8000000002010041 2) (lanes0 [(2, 0x1234567F)]) 1 = some 0x7F := by decide +kernel
/-- 05 SHF's example. -/
theorem test_shf_funnel : lane0 96 (ext 0x0804030002050051 8) (lanes0 [(2, 0xAABBCCDD), (3, 0x11223344)]) 5 = some 0x223344AA := by decide +kernel
/-- 05 LTAB's example: a xor b xor c. -/
theorem test_ltab_xor : lane0 64 0x0896040302010054 (lanes0 [(2, 0xAA), (3, 0xCC), (4, 0xF0)]) 1 = some 0x96 := by decide +kernel
/-- 05 BFE's and BFI's examples: bits 11 to 4 sign-extended; bits 3 to 0 into bits 19 to 16. -/
theorem test_bfe_signed : lane0 96 (ext 0x0400000001020061 0x0804) (lanes0 [(1, 0x800)]) 2 = some 0xFFFFFF80 := by decide +kernel
theorem test_bfi_places : lane0 96 (ext 0x0800020001020065 0x0410) (lanes0 [(1, 0xAB), (2, 0xFFFFFFFF)]) 2 = some 0xFFFBFFFF := by decide +kernel
/-- 06 FADD's example: 2.5 + 1.5 = 4. -/
theorem test_fadd : lane0 96 (ext 0x0A00000002020081 0x3FC00000) (lanes0 [(2, 0x40200000)]) 2 = some 0x40800000 := by decide +kernel
/-- 06 FCMP's example: v1 is NaN. -/
theorem test_fcmp_unordered : ((after 64 0x0A06000101020090 (lanes0 [(1, 0x7FC00000)])).map fun g => (g.pred 2).getLsbD 0) = some true := by
  decide +kernel
/-- 07 BALLOT's example: bit 5 of v1. -/
theorem test_ballot : lane0 96 (ext 0x08000000010400C5 5) (lanes0 [(1, 0x20)]) 4 = some 1 := by decide +kernel
/-- 07 BSEL's example: the bytes reversed. -/
theorem test_bsel_reverses : lane0 96 (ext 0x08000300020100D5 0x00010203) (lanes0 [(2, 0x11223344)]) 1 = some 0x44332211 := by decide +kernel
/-- 05 DP4's example: −1 · 255 + 5. -/
theorem test_dp4 : lane0 64 0x040107020107007C (lanes0 [(1, 0xFF), (2, 0xFF), (7, 5)]) 7 = some (-250) := by decide +kernel
/-- 02 R32's example: a 96-bit instruction at 16 ends at 28; the next one issues at 32. -/
theorem test_successor : nextAddr 16 12 = 32 := by decide +kernel
/-- 00's example: 0x300 in memory. -/
theorem test_byteOrder : Store.readBytes (Store.writeLe ([] : Memory) 8 4 0x300) 8 2 = [0x00, 0x03] := by decide +kernel
/-- 03 R67's example: Q16 code 11, b = 99, S = 0.5. -/
theorem test_q16_value : (RowK.dec ⟨[codeInt true 11], 99, 0x3F000000, []⟩ true 0) = 0x3D9C4000 := by decide +kernel
/-- 03's example: Q8 codes 0 to 7. -/
theorem test_q8_codes : (List.range 8).map (recCode false 0xFAC688) = List.range 8 := by decide +kernel
/-- 16's examples: index 21 with w = 4; the levels of the word 0xA3. -/
theorem test_counterPlace : ctrWord 4 (0x1000, 21) = 0x1008 ∧ ctrBit 4 (0x1000, 21) = 20 := by decide +kernel
/-- 16 R337's example: the second draw. -/
theorem test_secondDraw : drawAt 0x61C88647 1 = 0 := by decide +kernel
/-- 15 R324's examples: the record stride of H = 4 and of H = 64. -/
theorem test_recordStride : recordStride 4 = 128 ∧ recordStride 64 = 576 := by decide +kernel
/-- 08 R189's example: 64 successive words take selector 3, 68 bytes, 3 beats. -/
theorem test_block_deltas : let c := encodeBlock ((List.range 64).map fun i => 0x3F800000 + BitVec.ofNat 32 i)
    c.selector = 3 ∧ c.payload = 68 ∧ c.beats = 3 := by decide +kernel

end Sys2Proof.Tests
end

section
/-! What the register forms of the integer class find in their destinations: registers read as words, an issue that
updates its group, and the forms of Machine/Integer.lean as such updates. -/

namespace Sys2Proof.Claims
open Sys2Proof.Machine

/-! Register groups word by word (02 R39). -/

/-- Word j of the registers from r, as lane l sees it. -/
def regWord (g : Group) (r : Reg) (l j : Nat) : Word :=
  match r with
  | .v n => g.v.get (32 * (n.toNat + j) + l)
  | .s n => g.s.get (n.toNat + j)

theorem regGet_succ (g : Group) (r : Reg) (l k : Nat) :
    regGet g r l (k + 1) = regGet g r l k + 2 ^ (32 * k) * (regWord g r l k).toNat := by
  cases r <;> rfl

theorem regGet_lt (g : Group) (r : Reg) (l k : Nat) : regGet g r l k < 2 ^ (32 * k) := by
  induction k with
  | zero => simp [regGet]
  | succ k ih =>
    have hw : (regWord g r l k).toNat + 1 ≤ 2 ^ 32 := (regWord g r l k).isLt
    calc regGet g r l (k + 1)
        < 2 ^ (32 * k) * ((regWord g r l k).toNat + 1) := by rw [regGet_succ, Nat.mul_add, Nat.mul_one]; omega
      _ ≤ 2 ^ (32 * k) * 2 ^ 32 := Nat.mul_le_mul_left _ hw
      _ = 2 ^ (32 * (k + 1)) := by rw [← Nat.pow_add, Nat.mul_add, Nat.mul_one]

/-- Registers whose words are those of a number hold that number, cut to their width. -/
theorem regGet_of_words {g : Group} {r : Reg} {l x : Nat} (k : Nat)
    (h : ∀ j < k, regWord g r l j = BitVec.ofNat 32 (x >>> (32 * j))) : regGet g r l k = x % 2 ^ (32 * k) := by
  induction k with
  | zero => simp [regGet, Nat.mod_one]
  | succ k ih =>
    rw [regGet_succ, ih fun j hj => h j (by omega), h k (by omega), BitVec.toNat_ofNat, Nat.shiftRight_eq_div_pow,
      Nat.mul_add, Nat.mul_one, Nat.pow_add, Nat.mod_mul]

/-- Reading looks at the words only. -/
theorem regGet_congr {g g' : Group} (r : Reg) (l k : Nat) (h : ∀ j, regWord g r l j = regWord g' r l j) :
    regGet g r l k = regGet g' r l k := by
  induction k with
  | zero => rfl
  | succ k ih => rw [regGet_succ, regGet_succ, ih, h]

/-- A uniform register reads the same for every lane. -/
theorem regGet_uniform (g : Group) (n : BitVec 6) (l l' k : Nat) : regGet g (.s n) l k = regGet g (.s n) l' k := by
  induction k with
  | zero => rfl
  | succ k ih => rw [regGet_succ, regGet_succ, ih]; rfl

theorem regWord_regSet_same (g : Group) (r : Reg) (l x : Nat) {j k : Nat} (h : j < k) :
    regWord (regSet r l x k g) r l j = BitVec.ofNat 32 (x >>> (32 * j)) := by
  induction k with
  | zero => omega
  | succ k ih =>
    by_cases hj : j = k
    · subst hj
      cases r <;> simp [regSet, regWord]
    · have hk : j < k := by omega
      cases r with
      | v n => simpa only [regSet, regWord, Store.get_set_ne _ _ (show 32 * (n.toNat + k) + l ≠ 32 * (n.toNat + j) + l by omega)]
          using ih hk
      | s n => simpa only [regSet, regWord, Store.get_set_ne _ _ (show n.toNat + k ≠ n.toNat + j by omega)] using ih hk

/-- Writing a vector register for one lane leaves the other lanes' words. -/
theorem regWord_regSet_lane_ne (g : Group) (n : BitVec 8) {l l' : Nat} (hl : l < 32) (hl' : l' < 32) (hne : l' ≠ l)
    (x j k : Nat) : regWord (regSet (.v n) l' x k g) (.v n) l j = regWord g (.v n) l j := by
  induction k with
  | zero => rfl
  | succ k ih =>
    simpa only [regSet, regWord, Store.get_set_ne _ _ (show 32 * (n.toNat + k) + l' ≠ 32 * (n.toNat + j) + l by omega)] using ih

/-- Writing a vector register lane after lane gives each lane its own value. -/
theorem regWord_foldl_regSet (n : BitVec 8) (v : Nat → Nat) {k l j : Nat} (hl : l < 32) (hj : j < k) (ls : List Nat)
    (h32 : ∀ x ∈ ls, x < 32) (g : Group) :
    regWord (ls.foldl (fun g x => regSet (.v n) x (v x) k g) g) (.v n) l j =
      if l ∈ ls then BitVec.ofNat 32 (v l >>> (32 * j)) else regWord g (.v n) l j := by
  induction ls generalizing g with
  | nil => simp
  | cons x xs ih =>
    rw [List.foldl_cons, ih (fun y hy => h32 y (List.mem_cons_of_mem _ hy))]
    by_cases hx : x = l
    · subst hx
      simp [regWord_regSet_same g (.v n) x (v x) hj]
    · simp [regWord_regSet_lane_ne g n hl (h32 x List.mem_cons_self) hx, Ne.symm hx]

/-- "Write d", read back by a lane that was written (02 R36, 04 R94). -/
theorem regGet_writeRegG (E : Lanes) (d : Reg) (k : Nat) (v : Nat → Nat) (g : Group) {l : Nat} (hl : l < 32)
    (hE : E.getLsbD l = true) : regGet (writeRegG E d k v g) d l k = v (laneOf d E l) % 2 ^ (32 * k) := by
  cases d with
  | v n =>
    refine regGet_of_words k fun j hj => ?_
    rw [writeRegG, regWord_foldl_regSet n v hl hj _ fun x hx => (mem_lanes.mp hx).1, if_pos (mem_lanes.mpr ⟨hl, hE⟩)]
    rfl
  | s n =>
    have hne : E ≠ 0 := by rintro rfl; simp at hE
    rw [regGet_uniform _ n l 0]
    refine regGet_of_words k fun j hj => ?_
    rw [writeRegG, if_neg hne, regWord_regSet_same _ _ _ _ hj]
    rfl

/-! Predicates read after writes (02 R34, 04 R122). -/

theorem setPred_pred_ne (g : Group) {i j : Nat} (m v : Lanes) (h : i ≠ j) : (g.setPred i m v).pred j = g.pred j := by
  unfold Group.setPred Group.pred
  split
  · rfl
  · split
    · rfl
    · rw [Store.get_set_ne _ _ h]

/-- A lane of E finds the result that an instruction wrote to a predicate; p0 reads true. -/
theorem getLsbD_pred_setPred (g : Group) (i : Nat) (E : Lanes) (q : Nat → Bool) {l : Nat} (hl : l < 32)
    (hE : E.getLsbD l = true) :
    ((g.setPred i E (laneSet fun l => E.getLsbD l && q l)).pred i).getLsbD l = (decide (i = 0) || q l) := by
  by_cases hi : i = 0
  · subst hi
    have hall : (-1 : Lanes) = BitVec.allOnes 32 := rfl
    simp only [Group.pred, if_true, hall, BitVec.getLsbD_allOnes, hl, decide_true, Bool.true_or]
  · simp only [Group.setPred, Group.pred, hi, if_false, Store.get_set_same, BitVec.getLsbD_or, BitVec.getLsbD_and,
      BitVec.getLsbD_not, getLsbD_laneSet, hE, hl, decide_true, decide_false, Bool.not_true, Bool.true_and, Bool.and_true,
      Bool.and_false, Bool.false_or]

/-- The predicates of a lane as bits (05 R138). -/
theorem predBits_spec (gr : Group) (l : Nat) : predBits gr l < 2 ^ 8 ∧
    ∀ i, (predBits gr l).testBit i = (decide (i < 8) && (gr.pred i).getLsbD l) := by
  have := laneSum_spec (fun i => (gr.pred i).getLsbD l) 8
  simp only [Nat.shiftLeft_eq, Nat.one_mul] at this
  exact this

/-! The group's bank of soft errors, which no result touches. -/

theorem soft_of_restOf {x y : Group} (h : restOf y = restOf x) : y.soft = x.soft := by
  have := congrArg Group.soft h
  simpa only [restOf] using this

@[simp] theorem writeRegG_soft (E : Lanes) (d : Reg) (k : Nat) (v : Nat → Nat) (g : Group) : (writeRegG E d k v g).soft = g.soft :=
  soft_of_restOf (upd_writeReg (f := ⟨⟨0, false, none⟩, [], [(d, k)], [], false, false, false⟩) v g List.mem_cons_self).rest

@[simp] theorem setPred_soft (g : Group) (i : Nat) (m v : Lanes) : (g.setPred i m v).soft = g.soft := by
  unfold Group.setPred; split <;> rfl

@[simp] theorem setPred_regGet (g : Group) (i : Nat) (m v : Lanes) (r : Reg) (l k : Nat) :
    regGet (g.setPred i m v) r l k = regGet g r l k := by
  refine regGet_congr r l k fun j => ?_
  unfold Group.setPred
  split <;> rfl

/-- Predicates above p0 written for the lanes of E one after the other, predicate i + 1 from q i. -/
def setPredsG (E : Lanes) (q : Nat → Nat → Bool) (ls : List Nat) (gr : Group) : Group :=
  ls.foldl (fun gr i => gr.setPred (i + 1) E (laneSet fun l => E.getLsbD l && q i l)) gr

theorem foldl_writePred (c : Ctx) (E : Lanes) (q : Nat → Nat → Bool) (ls : List Nat) (s : State) :
    ls.foldl (fun s i => writePred c E (i + 1) (q i) s) s = s.modGrp c.t c.g (setPredsG E q ls) := by
  induction ls generalizing s with
  | nil => exact (State.modGrp_id s c.t c.g).symm
  | cons x xs ih => rw [List.foldl_cons, ih, writePred, State.modGrp_modGrp]; rfl

@[simp] theorem setPredsG_soft (E : Lanes) (q : Nat → Nat → Bool) (ls : List Nat) (gr : Group) :
    (setPredsG E q ls gr).soft = gr.soft := by
  induction ls generalizing gr with
  | nil => rfl
  | cons x xs ih => rw [setPredsG, List.foldl_cons]; exact (ih _).trans (setPred_soft _ _ _ _)

/-- A lane of E finds what each predicate was given. -/
theorem getLsbD_pred_setPredsG (E : Lanes) (q : Nat → Nat → Bool) {l : Nat} (hl : l < 32) (hE : E.getLsbD l = true)
    (j : Nat) (ls : List Nat) (gr : Group) : ((setPredsG E q ls gr).pred (j + 1)).getLsbD l =
      if j ∈ ls then q j l else (gr.pred (j + 1)).getLsbD l := by
  induction ls generalizing gr with
  | nil => simp [setPredsG]
  | cons x xs ih =>
    refine (ih _).trans ?_
    by_cases hx : x = j
    · subst hx
      simp [getLsbD_pred_setPred _ _ _ (q x) hl hE]
    · have hne : x + 1 ≠ j + 1 := by omega
      simp [setPred_pred_ne _ _ _ hne, Ne.symm hx]

@[simp] theorem issueGroup_regGet (c : Ctx) (h : Hdr) (o : Nat) (g : Group) (r : Reg) (l k : Nat) :
    regGet (issueGroup c h o g) r l k = regGet g r l k := by
  refine regGet_congr r l k fun j => ?_
  cases r <;> simp only [regWord, issueGroup_v, issueGroup_s]

/-! The checks of an issue, passed by what a form declares (02 R53). -/

/-- A use names a register group of the list, a predicate or a token. -/
def Named (rs : List (Reg × Nat)) : Use → Prop
  | .rd r k | .wr r k => (r, k) ∈ rs
  | .tile _ => False
  | _ => True

theorem rangeOk_of_named {s : State} {t : Nat} {h : Hdr} {rs : List (Reg × Nat)} {us : List Use} (hd : Declared s t h rs)
    (hu : ∀ u ∈ us, Named rs u) : rangeOk (s.launchOf t) h us = true := by
  obtain ⟨hreg, hlive⟩ := hd
  have huse : us.all (useIn (s.launchOf t)) = true := List.all_eq_true.mpr fun u hm => by
    have := hu u hm
    cases u with
    | rd r k => exact hreg (r, k) this
    | wr r k => exact hreg (r, k) this
    | tile n => exact this.elim
    | _ => rfl
  unfold rangeOk
  rw [huse, Bool.true_and]
  split
  · next m hm => exact hlive m (by simp [hm])
  · rfl

/-- The same where operand b is among the uses. -/
theorem rangeOk_append_opdUse {s : State} {t : Nat} {h : Hdr} {rs : List (Reg × Nat)} {us : List Use} {b : Opd} {k : Nat}
    (hd : Declared s t h rs) (hu : ∀ u ∈ us, Named rs u) (hb : ∀ x ∈ ofOpd b k, x ∈ rs) :
    rangeOk (s.launchOf t) h (us ++ opdUse b k) = true := by
  refine rangeOk_of_named hd (List.forall_mem_append.mpr ⟨hu, ?_⟩)
  cases b with
  | reg r => simpa [opdUse, ofOpd, Named] using hb
  | imm w => simp [opdUse]
  | wide x => simp [opdUse]

theorem Ready.issuing {i : Instr} {s : State} {t g : Nat} (h : Ready i s t g) : Issuing s t g := h.1

theorem Ready.declared {i : Instr} {s : State} {t g : Nat} {f : Form} (h : Ready i s t g) (hf : formOf i = some f) :
    Declared s t f.hdr (f.reads ++ f.writes) := (h.2 f hf).1

/-! An issue that updates its group. -/

/-- The instruction completes, and where E is not empty its group is F's result after the issue. -/
def Updates (i : Instr) (s : State) (t g : Nat) (h : Hdr) (F : Group → Group) : Prop :=
  ∃ s' c o, exec i s = .next s' ∧ (eligible s t g h ≠ 0 → s'.grp t g = issueGroup c h o (F (s.grp t g)))

theorem InE.eligible_ne_zero {s : State} {t g : Nat} {h : Hdr} {l : Nat} (hl : InE s t g h l) : eligible s t g h ≠ 0 := by
  intro hz
  have := hl.2
  simp [hz] at this

section
variable {i : Instr} {s : State} {t g : Nat} {h : Hdr}

/-- A SIMT form whose act is an update of its group (04 R90 steps 4 and 5). -/
theorem updates_of_simt {size : Nat} {us : List Use} {act : Ctx → State → Act} (F : Group → Group)
    (hx : exec i s = simt h size us noPriv act s) (hI : Issuing s t g) (hr : rangeOk (s.launchOf t) h us = true)
    (ha : act (ctxOf s t g h size) s = .adv (s.modGrp t g F)) (hF : (F (s.grp t g)).soft = (s.grp t g).soft) :
    Updates i s t g h F := by
  obtain ⟨hc, hi, hs⟩ := hI
  obtain ⟨ht, hg, -⟩ := canIssue_spec hi
  refine ⟨_, ctxOf s t g h size, s.tick, hx.trans (simt_acts hc hi hs hr rfl), fun hE => ?_⟩
  have hp := perform_adv_modGrp (c := ctxOf s t g h size) (h := h) (us := us) (s := s) F ht hg (hF.trans hs)
  rw [if_neg (show (ctxOf s t g h size).E ≠ 0 from hE), ha]
  exact (congrArg (·.grp t g) hp).trans (State.grp_modGrp_same _ ht hg)

theorem Updates.gives {F : Group → Group} {d : Reg} {k : Nat} {P : Nat → Nat → Prop} (hu : Updates i s t g h F)
    (hP : ∀ l, InE s t g h l → P (laneOf d (eligible s t g h) l) (regGet (F (s.grp t g)) d l k)) :
    Gives i s t g h d k P := by
  obtain ⟨s', c, o, hx, hg⟩ := hu
  refine ⟨s', hx, fun l hl => ?_⟩
  rw [hg hl.eligible_ne_zero, issueGroup_regGet]
  exact hP l hl

theorem Updates.givesPred {F : Group → Group} {p : BitVec 3} {P : Nat → Prop} {q : Nat → Bool} (hu : Updates i s t g h F)
    (hF : ∀ l, InE s t g h l → ((F (s.grp t g)).pred p.toNat).getLsbD l = (decide (p.toNat = 0) || q l))
    (hq : ∀ l, q l = true ↔ P l) : GivesPred i s t g h p P := by
  obtain ⟨s', c, o, hx, hg⟩ := hu
  refine ⟨s', hx, fun l hl => ?_⟩
  have hp : p.toNat = 0 ↔ p = 0 := BitVec.toNat_inj (y := 0)
  rw [hg hl.eligible_ne_zero, issueGroup_pred, hF l hl, Bool.or_eq_true, decide_eq_true_eq, hp, hq]

/-- A form that writes k registers, and nothing else: each lane finds the value of its lane, cut to the registers. -/
theorem gives_of_writeReg {size : Nat} {us : List Use} {d : Reg} {k : Nat} {P : Nat → Nat → Prop} (v : Group → Nat → Nat)
    (hx : exec i s = simt h size us noPriv (fun c s => .adv (writeReg c c.E d k (v (s.grp c.t c.g)) s)) s)
    (hI : Issuing s t g) (hr : rangeOk (s.launchOf t) h us = true)
    (hP : ∀ l, P l (v (s.grp t g) l % 2 ^ (32 * k))) : Gives i s t g h d k P := by
  have hu : Updates i s t g h (writeRegG (eligible s t g h) d k (v (s.grp t g))) :=
    updates_of_simt _ hx hI hr adv_writeReg (writeRegG_soft _ _ _ _ _)
  refine hu.gives fun l ⟨hl, hE⟩ => ?_
  rw [regGet_writeRegG _ _ _ _ _ hl hE]
  exact hP _

/-- A form that writes a predicate, and nothing else. -/
theorem givesPred_of_writePred {size : Nat} {us : List Use} {p : BitVec 3} {P : Nat → Prop} (q : Group → Nat → Bool)
    (hx : exec i s = simt h size us noPriv (fun c s => .adv (writePred c c.E p.toNat (q (s.grp c.t c.g)) s)) s)
    (hI : Issuing s t g) (hr : rangeOk (s.launchOf t) h us = true)
    (hP : ∀ l, q (s.grp t g) l = true ↔ P l) : GivesPred i s t g h p P :=
  (updates_of_simt _ hx hI hr adv_writePred (setPred_soft _ _ _ _)).givesPred
    (fun _ ⟨hl, hE⟩ => getLsbD_pred_setPred _ _ _ _ hl hE) hP

/-! The forms of Machine/Integer.lean. -/

theorem gives_intAB {size ka kd kb : Nat} {d a : Reg} {b : Opd} {sx : Bool} {f : Nat → Nat → Nat} {P : Nat → Nat → Prop}
    (hx : exec i s = intAB h size ka kd d a b kb sx f s) (hI : Issuing s t g)
    (hd : Declared s t h (((a, ka) :: ofOpd b kb) ++ [(d, kd)]))
    (hP : ∀ l, P l (f (regGet (s.grp t g) a l ka) (opdGet (s.grp t g) b l kb sx) % 2 ^ (32 * kd))) :
    Gives i s t g h d kd P :=
  gives_of_writeReg (fun gr l => f (regGet gr a l ka) (opdGet gr b l kb sx)) hx hI
    (rangeOk_append_opdUse hd (by simp [Named]) fun x hx => by simp [hx]) hP

theorem gives_intABC {size ka kd kb kc : Nat} {d a cr : Reg} {b : Opd} {sx : Bool} {f : Nat → Nat → Nat → Nat}
    {P : Nat → Nat → Prop} (hx : exec i s = intABC h size ka kd d a b kb sx cr kc f s) (hI : Issuing s t g)
    (hd : Declared s t h (((a, ka) :: (cr, kc) :: ofOpd b kb) ++ [(d, kd)]))
    (hP : ∀ l, P l (f (regGet (s.grp t g) a l ka) (opdGet (s.grp t g) b l kb sx) (regGet (s.grp t g) cr l kc) % 2 ^ (32 * kd))) :
    Gives i s t g h d kd P :=
  gives_of_writeReg (fun gr l => f (regGet gr a l ka) (opdGet gr b l kb sx) (regGet gr cr l kc)) hx hI
    (rangeOk_append_opdUse hd (by simp [Named]) fun x hx => by simp [hx]) hP

theorem gives_intA {size ka kd : Nat} {d a : Reg} {f : Nat → Nat} {P : Nat → Nat → Prop}
    (hx : exec i s = intA h size ka kd d a f s) (hI : Issuing s t g) (hd : Declared s t h ([(a, ka)] ++ [(d, kd)]))
    (hP : ∀ l, P l (f (regGet (s.grp t g) a l ka) % 2 ^ (32 * kd))) : Gives i s t g h d kd P :=
  gives_of_writeReg (fun gr l => f (regGet gr a l ka)) hx hI (rangeOk_of_named hd (by simp [Named])) hP

theorem gives_moviForm {size : Nat} {d : Reg} {k x : Nat} (hx : exec i s = moviForm h size d k x s) (hI : Issuing s t g)
    (hd : Declared s t h ([] ++ [(d, k)])) (hlt : x < 2 ^ (32 * k)) : Gives i s t g h d k fun _ r => r = x :=
  gives_of_writeReg (fun _ _ => x) hx hI (rangeOk_of_named hd (by simp [Named])) fun _ => Nat.mod_eq_of_lt hlt

/-- What a .cc form computes for a lane, the carry before included (05 R129). -/
def laneCarry (f : Nat → Nat → Bool → Nat × Bool) (gr : Group) (a : Reg) (b : Opd) (pc : BitVec 3) (l : Nat) : Nat × Bool :=
  f (regGet gr a l 1) (opdGet gr b l 1 false) ((gr.pred pc.toNat).getLsbD l)

/-- The destination and the predicate of a .cc form, written together. -/
def writeCarryG (E : Lanes) (d : Reg) (pc : Nat) (r : Nat → Nat × Bool) (g : Group) : Group :=
  (writeRegG E d 1 (fun l => (r l).1) g).setPred pc E (laneSet fun l => E.getLsbD l && (r l).2)

theorem updates_carryForm {size : Nat} {d a : Reg} {b : Opd} {pc : BitVec 3} {f : Nat → Nat → Bool → Nat × Bool}
    (hx : exec i s = carryForm h size d a b pc f s) (hI : Issuing s t g)
    (hd : Declared s t h (((a, 1) :: ofOpd b 1) ++ [(d, 1)])) :
    Updates i s t g h (writeCarryG (eligible s t g h) d pc.toNat (laneCarry f (s.grp t g) a b pc)) := by
  have hr := rangeOk_append_opdUse (us := [.rd a 1, .wr d 1, .pd pc.toNat, .wp pc.toNat]) (b := b) (k := 1) hd
    (by simp [Named]) fun x hx => by simp [hx]
  exact updates_of_simt _ hx hI hr adv_predReg ((setPred_soft _ _ _ _).trans (writeRegG_soft _ _ _ _ _))

theorem gives_carryForm {size : Nat} {d a : Reg} {b : Opd} {pc : BitVec 3} {f : Nat → Nat → Bool → Nat × Bool}
    {P : Nat → Nat → Prop} {Q : Nat → Prop} (hx : exec i s = carryForm h size d a b pc f s) (hI : Issuing s t g)
    (hd : Declared s t h (((a, 1) :: ofOpd b 1) ++ [(d, 1)]))
    (hP : ∀ l, P l ((laneCarry f (s.grp t g) a b pc l).1 % 2 ^ 32))
    (hQ : ∀ l, (laneCarry f (s.grp t g) a b pc l).2 = true ↔ Q l) :
    Gives i s t g h d 1 P ∧ GivesPred i s t g h pc Q := by
  have hu := updates_carryForm hx hI hd
  constructor
  · refine hu.gives fun l ⟨hl, hE⟩ => ?_
    rw [writeCarryG, setPred_regGet, regGet_writeRegG _ _ _ _ _ hl hE]
    exact hP _
  · exact hu.givesPred (fun l ⟨hl, hE⟩ => getLsbD_pred_setPred _ _ _ _ hl hE) hQ

end

end Sys2Proof.Claims
end

section
/-! Integer values in a type: operands read under 05 R124, results wrapped or clamped into the type (05 R128). -/

namespace Sys2Proof.Claims
open Sys2Proof.Machine

theorem wrap_cast (w : Nat) (x : Int) : (wrap w x : Int) = x % ((2 ^ w : Nat) : Int) :=
  Int.toNat_of_nonneg (Int.emod_nonneg _ (by positivity))

theorem wrap_lt (w : Nat) (x : Int) : wrap w x < 2 ^ w := by
  have := Int.emod_lt_of_pos x (show (0 : Int) < ((2 ^ w : Nat) : Int) by positivity)
  rw [← wrap_cast] at this
  exact_mod_cast this

/-- The bits of a wrapped integer, read in the type, differ from it by a multiple of 2^w. -/
theorem tyVal_wrap_congr {ty : Ty} (h : intTy ty = true) (x : Int) :
    (tyVal ty (wrap (tyBits ty) x) - x) % ((2 ^ tyBits ty : Nat) : Int) = 0 := by
  have hw := wrap_cast (tyBits ty) x
  cases ty <;> simp only [intTy, Bool.false_eq_true] at h <;>
    simp only [tyVal, tySigned, tyBits, sgn, if_true, Bool.false_eq_true, if_false] at hw ⊢ <;> omega

/-- A value read in an integer type lies between the type's least and greatest. -/
theorem tyVal_range {ty : Ty} (h : intTy ty = true) (r : Nat) : tyMin ty ≤ tyVal ty r ∧ tyVal ty r ≤ tyMax ty := by
  cases ty <;> simp only [intTy, Bool.false_eq_true] at h <;>
    simp only [tyVal, tyMin, tyMax, tySigned, tyBits, sgn, if_true, Bool.false_eq_true, if_false] <;> omega

/-- An integer of the type's range is the value of its own bits. -/
theorem tyVal_wrap_of_range {ty : Ty} (h : intTy ty = true) {x : Int} (hlo : tyMin ty ≤ x) (hhi : x ≤ tyMax ty) :
    tyVal ty (wrap (tyBits ty) x) = x := by
  have hw := wrap_cast (tyBits ty) x
  cases ty <;> simp only [intTy, Bool.false_eq_true] at h <;>
    simp only [tyVal, tyMin, tyMax, tySigned, tyBits, sgn, if_true, Bool.false_eq_true, if_false] at hw hlo hhi ⊢ <;> omega

/-- A result formed at the type's width reads, in its registers, as the value of the wrapped bits: narrow results are
extended (05 R124). -/
theorem reads_tyRes {ty : Ty} (h : intTy ty = true) (x : Int) :
    Reads ty (tyRes ty x % 2 ^ (32 * tyRegs ty)) (tyVal ty (wrap (tyBits ty) x)) := by
  have hw := wrap_lt (tyBits ty) x
  have hs := wrap_cast 32 (sgn (tyBits ty) (wrap (tyBits ty) x))
  cases ty <;> simp only [intTy, Bool.false_eq_true] at h <;>
    simp only [Reads, tyRes, tyVal, tySigned, tyBits, tyRegs, sgn, Bool.true_and, Bool.false_and, Bool.false_eq_true,
      decide_eq_true_eq, Nat.reduceLT, Nat.reduceMul, if_true, if_false] at hw hs ⊢ <;> omega

theorem tyMin_le_tyMax (ty : Ty) : tyMin ty ≤ tyMax ty := by
  cases ty <;> decide

theorem sat_eq (x : Int) {lo hi : Int} (h : lo ≤ hi) : sat x lo hi = max lo (min hi x) := by
  unfold sat
  split <;> [skip; split] <;> omega

/-- A result in the type's range reads as itself. -/
theorem reads_tyRes_of_range {ty : Ty} (h : intTy ty = true) {x : Int} (hlo : tyMin ty ≤ x) (hhi : x ≤ tyMax ty) :
    Reads ty (tyRes ty x % 2 ^ (32 * tyRegs ty)) x := by
  have := reads_tyRes h x
  rwa [tyVal_wrap_of_range h hlo hhi] at this

/-- A result wrapped into the type (05 R128). -/
theorem intResult_tyRes {ty : Ty} (h : intTy ty = true) (x : Int) :
    IntResult ty false x (tyRes ty x % 2 ^ (32 * tyRegs ty)) :=
  ⟨_, reads_tyRes h x, (tyVal_range h _).1, (tyVal_range h _).2, tyVal_wrap_congr h x⟩

/-- A result wrapped or clamped (05 R128, R129). -/
theorem intResult_satRes {ty : Ty} (h : intTy ty = true) (clamp : Bool) (x : Int) :
    IntResult ty clamp x (satRes ty clamp x % 2 ^ (32 * tyRegs ty)) := by
  cases clamp with
  | false => exact intResult_tyRes h x
  | true =>
    have hle := tyMin_le_tyMax ty
    simp only [IntResult, satRes, if_true, sat_eq x hle]
    exact reads_tyRes_of_range h (by omega) (by omega)

/-! Operands (05 R124). -/

/-- Operand b over one register is read as an unsigned number of 32 bits. -/
@[simp] theorem opdGet_one (gr : Group) (b : Opd) (l : Nat) (sx : Bool) : opdGet gr b l 1 sx = amount gr b l := by
  cases b <;> rfl

/-- Operand b in its type. -/
theorem tyVal_opdGet (ty : Ty) (gr : Group) (b : Opd) (l : Nat) :
    tyVal ty (opdGet gr b l (tyRegs ty) (immSx ty)) = opdVal ty gr b l := by
  cases b with
  | reg r => rfl
  | wide x => rfl
  | imm w =>
    by_cases hty : ty = .i64
    · subst hty
      have hw : (wrap 64 (sgn 32 w.toNat) : Int) = _ := wrap_cast 64 _
      have h32 := w.isLt
      simp only [opdGet, opdVal, tyRegs, immSx, tySigned, tyVal, tyBits, BitVec.toInt_eq_toNat_cond, Bool.and_self,
        decide_true, if_true] at hw ⊢
      simp only [sgn] at hw ⊢
      omega
    · have hz : (decide (tyRegs ty = 2) && immSx ty) = false := by revert hty; cases ty <;> decide
      simp only [opdGet, opdVal, hz, hty, Bool.false_eq_true, if_false]

/-- Operand b in a type of one register, the extension apart. -/
theorem tyVal_amount {ty : Ty} (h : tyRegs ty = 1) (gr : Group) (b : Opd) (l : Nat) :
    tyVal ty (amount gr b l) = opdVal ty gr b l := by
  rw [← tyVal_opdGet, h, opdGet_one]

/-- Without sign extension, an operand b of a type that is not signed. -/
theorem tyVal_opdGet_false {ty : Ty} (h : tySigned ty = false) (gr : Group) (b : Opd) (l : Nat) :
    tyVal ty (opdGet gr b l (tyRegs ty) false) = opdVal ty gr b l := by
  rw [← tyVal_opdGet, immSx, h]

/-! The classes of types. -/

theorem intTy_of_int32Ty {ty : Ty} (h : int32Ty ty = true) : intTy ty = true := by
  revert h; cases ty <;> decide

theorem intTy_of_wideIntTy {ty : Ty} (h : wideIntTy ty = true) : intTy ty = true := by
  revert h; cases ty <;> decide

theorem tyRegs_of_int32Ty {ty : Ty} (h : int32Ty ty = true) : tyRegs ty = 1 := by
  revert h; cases ty <;> decide

theorem tySigned_of_bitTy {ty : Ty} (h : bitTy ty = true) : tySigned ty = false := by
  revert h; cases ty <;> decide

/-- A bit type fills its registers. -/
theorem tyBits_of_bitTy {ty : Ty} (h : bitTy ty = true) : tyBits ty = 32 * tyRegs ty := by
  revert h; cases ty <;> decide

/-- A bit type reads a number as its low bits. -/
theorem tyVal_bitTy {ty : Ty} (hty : bitTy ty = true) (x : Nat) : tyVal ty x = ((x % 2 ^ (32 * tyRegs ty) : Nat) : Int) := by
  simp only [tyVal, tySigned_of_bitTy hty, tyBits_of_bitTy hty, Bool.false_eq_true, if_false]

/-- A pair read as signed or as unsigned is one number modulo 2^64. -/
theorem sgn64_emod (x : Nat) : sgn 64 x % (2 ^ 64 : Int) = x % (2 ^ 64 : Int) := by
  unfold sgn; omega

end Sys2Proof.Claims
end

section
/-! The integer class settled: sums, products, shifts, comparisons, moves (05 R129 to R143). -/

namespace Sys2Proof.Claims
open Sys2Proof.Machine

/-! IADD, ISUB (05 R129). -/

section
variable {s : State} {t g : Nat} {h : Hdr} {ty : Ty} {clamp : Bool} {d a : Reg} {b : Opd}

theorem iadd_gives (hty : intTy ty = true) (hR : Ready (.iadd h ty clamp d a b) s t g) :
    Gives (.iadd h ty clamp d a b) s t g h d (tyRegs ty) fun l r =>
      IntResult ty clamp (regVal ty (s.grp t g) a l + opdVal ty (s.grp t g) b l) r :=
  gives_intAB rfl hR.issuing (hR.declared rfl) fun l => by
    rw [addVal, tyVal_opdGet]
    exact intResult_satRes hty clamp _

theorem isub_gives (hty : intTy ty = true) (hR : Ready (.isub h ty clamp d a b) s t g) :
    Gives (.isub h ty clamp d a b) s t g h d (tyRegs ty) fun l r =>
      IntResult ty clamp (regVal ty (s.grp t g) a l - opdVal ty (s.grp t g) b l) r :=
  gives_intAB rfl hR.issuing (hR.declared rfl) fun l => by
    rw [subVal, tyVal_opdGet]
    exact intResult_satRes hty clamp _

variable {pc : BitVec 3}

theorem iaddCc_gives (hR : Ready (.iaddCc h ty d a b pc) s t g) :
    let x (l : Nat) : Nat := regGet (s.grp t g) a l 1 + amount (s.grp t g) b l + b2n (((s.grp t g).pred pc.toNat).getLsbD l)
    (Gives (.iaddCc h ty d a b pc) s t g h d 1 fun l r => r = x l % 2 ^ 32) ∧
      GivesPred (.iaddCc h ty d a b pc) s t g h pc fun l => 2 ^ 32 ≤ x l := by
  refine gives_carryForm rfl hR.issuing (hR.declared rfl) (fun l => ?_) fun l => ?_ <;>
    simp only [laneCarry, addCarry, opdGet_one, Nat.mod_mod, decide_eq_true_eq]

theorem isubCc_gives (hR : Ready (.isubCc h ty d a b pc) s t g) :
    let x (l : Nat) : Int := (regGet (s.grp t g) a l 1 : Int) - amount (s.grp t g) b l - b2n (((s.grp t g).pred pc.toNat).getLsbD l)
    (Gives (.isubCc h ty d a b pc) s t g h d 1 fun l r => (r : Int) = x l % (2 ^ 32 : Int)) ∧
      GivesPred (.isubCc h ty d a b pc) s t g h pc fun l => x l < 0 := by
  refine gives_carryForm rfl hR.issuing (hR.declared rfl) (fun l => ?_) fun l => ?_ <;>
    simp only [laneCarry, subBorrow, opdGet_one, decide_eq_true_eq]
  rw [Nat.mod_eq_of_lt (wrap_lt 32 _), wrap_cast]
  rfl

end

/-- Settles O2: every form computes its exact sum or difference and writes it once. -/
theorem addSubtractResults : Obligations.AddSubtractResults := fun _ _ _ _ _ _ _ _ _ _ =>
  ⟨iadd_gives, isub_gives, fun _ => iaddCc_gives, fun _ => isubCc_gives⟩

/-! IMUL, IMAD (05 R130). -/

section
variable {s : State} {t g : Nat} {h : Hdr} {ty : Ty} {clamp : Bool} {d a c : Reg} {b : Opd}

/-- The upper half of the exact product. -/
theorem mulHiInt_opdGet (gr : Group) (l : Nat) :
    mulHiInt ty (regGet gr a l (tyRegs ty)) (opdGet gr b l (tyRegs ty) (immSx ty)) =
      regVal ty gr a l * opdVal ty gr b l / ((2 ^ tyBits ty : Nat) : Int) := by
  rw [mulHiInt, tyVal_opdGet, regVal]

theorem imulLo_gives (hty : intTy ty = true) (hR : Ready (.imulLo h ty clamp d a b) s t g) :
    Gives (.imulLo h ty clamp d a b) s t g h d (tyRegs ty) fun l r =>
      IntResult ty clamp (regVal ty (s.grp t g) a l * opdVal ty (s.grp t g) b l) r :=
  gives_intAB rfl hR.issuing (hR.declared rfl) fun l => by
    rw [mulLo, tyVal_opdGet]
    exact intResult_satRes hty clamp _

theorem imadLo_gives (hty : intTy ty = true) (hR : Ready (.imadLo h ty clamp d a b c) s t g) :
    Gives (.imadLo h ty clamp d a b c) s t g h d (tyRegs ty) fun l r =>
      IntResult ty clamp (regVal ty (s.grp t g) a l * opdVal ty (s.grp t g) b l + regVal ty (s.grp t g) c l) r :=
  gives_intABC rfl hR.issuing (hR.declared rfl) fun l => by
    rw [madLo, tyVal_opdGet]
    exact intResult_satRes hty clamp _

theorem imulHi_gives (hty : wideIntTy ty = true) (hR : Ready (.imulHi h ty d a b) s t g) :
    Gives (.imulHi h ty d a b) s t g h d (tyRegs ty) fun l r =>
      IntResult ty false (regVal ty (s.grp t g) a l * opdVal ty (s.grp t g) b l / ((2 ^ tyBits ty : Nat) : Int)) r :=
  gives_intAB rfl hR.issuing (hR.declared rfl) fun l => by
    rw [mulHi, mulHiInt_opdGet]
    exact intResult_tyRes (intTy_of_wideIntTy hty) _

theorem imadHi_gives (hty : wideIntTy ty = true) (hR : Ready (.imadHi h ty d a b c) s t g) :
    Gives (.imadHi h ty d a b c) s t g h d (tyRegs ty) fun l r =>
      IntResult ty false (regVal ty (s.grp t g) a l * opdVal ty (s.grp t g) b l / ((2 ^ tyBits ty : Nat) : Int)
        + regVal ty (s.grp t g) c l) r :=
  gives_intABC rfl hR.issuing (hR.declared rfl) fun l => by
    rw [madHi, mulHiInt_opdGet]
    exact intResult_tyRes (intTy_of_wideIntTy hty) _

theorem imulWide_gives (hty : int32Ty ty = true) (hR : Ready (.imulWide h ty d a b) s t g) :
    Gives (.imulWide h ty d a b) s t g h d 2 fun l r =>
      (r : Int) = regVal ty (s.grp t g) a l * opdVal ty (s.grp t g) b l % (2 ^ 64 : Int) :=
  gives_intAB rfl hR.issuing (hR.declared rfl) fun l => by
    have hk := tyRegs_of_int32Ty hty
    rw [mulWide, Nat.mod_eq_of_lt (wrap_lt 64 _), wrap_cast, opdGet_one, tyVal_amount hk, regVal, hk]
    rfl

theorem imadWide_gives (hty : int32Ty ty = true) (hR : Ready (.imadWide h ty d a b c) s t g) :
    Gives (.imadWide h ty d a b c) s t g h d 2 fun l r =>
      (r : Int) = (regVal ty (s.grp t g) a l * opdVal ty (s.grp t g) b l
        + (if ty = .i32 then sgn 64 (regGet (s.grp t g) c l 2) else regGet (s.grp t g) c l 2)) % (2 ^ 64 : Int) :=
  gives_intABC rfl hR.issuing (hR.declared rfl) fun l => by
    have hk := tyRegs_of_int32Ty hty
    rw [madWide, Nat.mod_eq_of_lt (wrap_lt 64 _), wrap_cast, opdGet_one, tyVal_amount hk, regVal, hk]
    split
    · rw [Int.add_emod _ (sgn 64 _), sgn64_emod, ← Int.add_emod]
      rfl
    · rfl

end

/-- Settles O3: every form is a function of the exact product. -/
theorem multiplyResults : Obligations.MultiplyResults := fun _ _ _ _ _ _ _ _ _ _ =>
  ⟨imulLo_gives, imadLo_gives, imulHi_gives, imadHi_gives, imulWide_gives, imadWide_gives⟩

/-! SHF (05 R131). -/

/-- The two parts of a rotation left by m bits: the bits that stay, moved up, and below them those that pass the top. -/
theorem rotate_parts {w x m : Nat} (hx : x < 2 ^ w) (hm : m ≤ w) :
    x * 2 ^ m % 2 ^ w = 2 ^ m * (x % 2 ^ (w - m)) ∧ x / 2 ^ (w - m) < 2 ^ m := by
  have hw : 2 ^ m * 2 ^ (w - m) = 2 ^ w := by rw [← Nat.pow_add, Nat.add_sub_cancel' hm]
  constructor
  · rw [← hw, Nat.mul_comm x, Nat.mul_mod_mul_left]
  · rw [Nat.div_lt_iff_lt_mul (Nat.two_pow_pos _), hw]
    exact hx

/-- A rotation stays in its width. -/
theorem rolVal_lt {w x : Nat} (n : Nat) (hw : 0 < w) (hx : x < 2 ^ w) : rolVal w x n < 2 ^ w := by
  have hm : n % w ≤ w := (Nat.mod_lt n hw).le
  unfold rolVal
  generalize n % w = m at hm
  obtain ⟨hhigh, hlow⟩ := rotate_parts hx hm
  have hmod : x % 2 ^ (w - m) + 1 ≤ 2 ^ (w - m) := Nat.mod_lt _ (Nat.two_pow_pos _)
  calc x * 2 ^ m % 2 ^ w + x / 2 ^ (w - m)
      < 2 ^ m * (x % 2 ^ (w - m) + 1) := by rw [hhigh, Nat.mul_add, Nat.mul_one]; omega
    _ ≤ 2 ^ m * 2 ^ (w - m) := Nat.mul_le_mul_left _ hmod
    _ = 2 ^ w := by rw [← Nat.pow_add, Nat.add_sub_cancel' hm]

/-- Bit j moves to j + n modulo the width. -/
theorem testBit_rolVal {w x n j : Nat} (hx : x < 2 ^ w) (hj : j < w) : (rolVal w x n).testBit ((j + n) % w) = x.testBit j := by
  have hm : n % w < w := Nat.mod_lt n (by omega)
  rw [rolVal, ← Nat.add_mod_mod]
  generalize n % w = m at hm
  obtain ⟨hhigh, hlow⟩ := rotate_parts hx hm.le
  rw [hhigh]
  by_cases hjm : j + m < w
  · rw [Nat.mod_eq_of_lt hjm, Nat.testBit_two_pow_mul_add _ hlow, if_neg (by omega), Nat.testBit_mod_two_pow,
      show j + m - m = j by omega, decide_eq_true (by omega : j < w - m), Bool.true_and]
  · have hwrap : (j + m) % w = j + m - w := by rw [Nat.mod_eq_sub_mod (by omega), Nat.mod_eq_of_lt (by omega)]
    rw [hwrap, Nat.testBit_two_pow_mul_add _ hlow, if_pos (by omega), Nat.testBit_div_two_pow]
    congr 1
    omega

section
variable {s : State} {t g : Nat} {h : Hdr} {ty : Ty} {d a c : Reg} {b : Opd}

theorem shfL_gives (hty : bitTy ty = true) (hR : Ready (.shfL h ty d a b) s t g) :
    Gives (.shfL h ty d a b) s t g h d (tyRegs ty) fun l r =>
      r = if amount (s.grp t g) b l < tyBits ty
        then regGet (s.grp t g) a l (tyRegs ty) * 2 ^ amount (s.grp t g) b l % 2 ^ tyBits ty else 0 :=
  gives_intAB rfl hR.issuing (hR.declared rfl) fun l => by
    rw [opdGet_one, shlVal, ← tyBits_of_bitTy hty]
    split
    · exact Nat.mod_mod _ _
    · exact Nat.zero_mod _

theorem shfR_gives (hR : Ready (.shfR h ty d a b) s t g) :
    Gives (.shfR h ty d a b) s t g h d (tyRegs ty) fun l r =>
      r = if amount (s.grp t g) b l < tyBits ty
        then regGet (s.grp t g) a l (tyRegs ty) / 2 ^ amount (s.grp t g) b l else 0 :=
  gives_intAB rfl hR.issuing (hR.declared rfl) fun l => by
    rw [opdGet_one, shrVal]
    split
    · exact Nat.mod_eq_of_lt ((Nat.div_le_self _ _).trans_lt (regGet_lt _ _ _ _))
    · exact Nat.zero_mod _

theorem shfRa_gives (hty : bitTy ty = true) (hR : Ready (.shfRa h ty d a b) s t g) :
    Gives (.shfRa h ty d a b) s t g h d (tyRegs ty) fun l r =>
      (r : Int) = sgn (tyBits ty) (regGet (s.grp t g) a l (tyRegs ty))
        / ((2 ^ min (amount (s.grp t g) b l) (tyBits ty - 1) : Nat) : Int) % ((2 ^ tyBits ty : Nat) : Int) :=
  gives_intAB rfl hR.issuing (hR.declared rfl) fun l => by
    rw [opdGet_one, sraVal, ← tyBits_of_bitTy hty, Nat.mod_eq_of_lt (wrap_lt _ _), wrap_cast]

theorem shfRol_gives (hty : bitTy ty = true) (hR : Ready (.shfRol h ty d a b) s t g) :
    Gives (.shfRol h ty d a b) s t g h d (tyRegs ty) fun l r => ∀ j < tyBits ty,
      r.testBit ((j + amount (s.grp t g) b l) % tyBits ty) = (regGet (s.grp t g) a l (tyRegs ty)).testBit j :=
  gives_intAB rfl hR.issuing (hR.declared rfl) fun l j hj => by
    have hx : regGet (s.grp t g) a l (tyRegs ty) < 2 ^ tyBits ty := tyBits_of_bitTy hty ▸ regGet_lt _ _ _ _
    rw [opdGet_one, ← tyBits_of_bitTy hty, Nat.mod_eq_of_lt (rolVal_lt _ (by omega) hx)]
    exact testBit_rolVal hx hj

theorem shfLf_gives (hR : Ready (.shfLf h d a b c) s t g) :
    Gives (.shfLf h d a b c) s t g h d 1 fun l r =>
      r = (regGet (s.grp t g) c l 1 * 2 ^ 32 + regGet (s.grp t g) a l 1) * 2 ^ min (amount (s.grp t g) b l) 32
        / 2 ^ 32 % 2 ^ 32 :=
  gives_intABC rfl hR.issuing (hR.declared rfl) fun l => by
    rw [opdGet_one, funnelL, funnel, Nat.mod_mod]

theorem shfRf_gives (hR : Ready (.shfRf h d a b c) s t g) :
    Gives (.shfRf h d a b c) s t g h d 1 fun l r =>
      r = (regGet (s.grp t g) c l 1 * 2 ^ 32 + regGet (s.grp t g) a l 1) / 2 ^ min (amount (s.grp t g) b l) 32 % 2 ^ 32 :=
  gives_intABC rfl hR.issuing (hR.declared rfl) fun l => by
    rw [opdGet_one, funnelR, funnel, Nat.mod_mod]

end

/-- Settles O4: the shifts by their quotients and products, the rotation bit by bit. -/
theorem shiftResults : Obligations.ShiftResults := fun _ _ _ _ _ _ _ _ _ hty =>
  ⟨shfL_gives hty, shfR_gives, shfRa_gives hty, shfRol_gives hty, shfLf_gives, shfRf_gives⟩

/-! ICMP, IMNMX, SEL (05 R133, R136). -/

/-- What ICMP computes is its relation (05 R133). -/
theorem icmpVal_iff (ty : Ty) (k : ICond) (x y : Nat) : icmpVal ty k x y = true ↔ Compares k (tyVal ty x) (tyVal ty y) := by
  cases k <;> simp [icmpVal, Compares]

section
variable {s : State} {t g : Nat} {h : Hdr} {ty : Ty} {k : ICond} {pd : BitVec 3} {d a : Reg} {b : Opd}

theorem icmp_gives (hR : Ready (.icmp h ty k pd a b) s t g) :
    GivesPred (.icmp h ty k pd a b) s t g h pd fun l =>
      Compares k (regVal ty (s.grp t g) a l) (opdVal ty (s.grp t g) b l) := by
  have hr := rangeOk_append_opdUse (us := [.rd a (tyRegs ty), .wp pd.toNat]) (b := b) (k := tyRegs ty) (hR.declared rfl)
    (by simp [Named]) fun x hx => by simp [hx]
  refine givesPred_of_writePred (fun gr l => icmpVal ty k (regGet gr a l (tyRegs ty))
    (opdGet gr b l (tyRegs ty) (immSx ty))) rfl hR.issuing hr fun l => ?_
  rw [icmpVal_iff, tyVal_opdGet, regVal]

theorem imnmxMin_gives (hty : intTy ty = true) (hR : Ready (.imnmxMin h ty d a b) s t g) :
    Gives (.imnmxMin h ty d a b) s t g h d (tyRegs ty) fun l r =>
      Reads ty r (min (regVal ty (s.grp t g) a l) (opdVal ty (s.grp t g) b l)) :=
  gives_intAB rfl hR.issuing (hR.declared rfl) fun l => by
    obtain ⟨ha, ha'⟩ := tyVal_range hty (regGet (s.grp t g) a l (tyRegs ty))
    obtain ⟨hb, hb'⟩ := tyVal_range hty (opdGet (s.grp t g) b l (tyRegs ty) (immSx ty))
    rw [minVal, ← tyVal_opdGet]
    exact reads_tyRes_of_range hty (le_min ha hb) (min_le_of_left_le ha')

theorem imnmxMax_gives (hty : intTy ty = true) (hR : Ready (.imnmxMax h ty d a b) s t g) :
    Gives (.imnmxMax h ty d a b) s t g h d (tyRegs ty) fun l r =>
      Reads ty r (max (regVal ty (s.grp t g) a l) (opdVal ty (s.grp t g) b l)) :=
  gives_intAB rfl hR.issuing (hR.declared rfl) fun l => by
    obtain ⟨ha, ha'⟩ := tyVal_range hty (regGet (s.grp t g) a l (tyRegs ty))
    obtain ⟨hb, hb'⟩ := tyVal_range hty (opdGet (s.grp t g) b l (tyRegs ty) (immSx ty))
    rw [maxVal, ← tyVal_opdGet]
    exact reads_tyRes_of_range hty (le_max_of_le_left ha) (max_le ha' hb')

theorem sel_gives (hty : bitTy ty = true) (hR : Ready (.sel h ty d a b pd) s t g) :
    Gives (.sel h ty d a b pd) s t g h d (tyRegs ty) fun l r =>
      (r : Int) = if ((s.grp t g).pred pd.toNat).getLsbD l then regVal ty (s.grp t g) a l else opdVal ty (s.grp t g) b l := by
  have hr := rangeOk_append_opdUse (us := [.rd a (tyRegs ty), .wr d (tyRegs ty), .pd pd.toNat]) (b := b) (k := tyRegs ty)
    (hR.declared rfl) (by simp [Named, formAb]) fun x hx => by simp [formAb, hx]
  refine gives_of_writeReg (fun gr l => if (gr.pred pd.toNat).getLsbD l then regGet gr a l (tyRegs ty)
    else opdGet gr b l (tyRegs ty) false) rfl hR.issuing hr fun l => ?_
  rw [regVal, ← tyVal_opdGet_false (tySigned_of_bitTy hty), tyVal_bitTy hty, tyVal_bitTy hty]
  split <;> rfl

end

/-- Settles O5: comparisons and selections of the values that 05 R124 reads. -/
theorem compareSelectResults : Obligations.CompareSelectResults := fun _ _ _ _ _ _ _ _ _ _ =>
  ⟨fun _ => icmp_gives, imnmxMin_gives, imnmxMax_gives, sel_gives⟩

/-! MOV, MOVI (05 R137, R138, R141). -/

section
variable {s : State} {t g : Nat} {h : Hdr} {ty : Ty} {d a : Reg}

theorem mov_gives (hR : Ready (.mov h ty d a) s t g) :
    Gives (.mov h ty d a) s t g h d (tyRegs ty) fun l r => r = regGet (s.grp t g) a l (tyRegs ty) :=
  gives_intA rfl hR.issuing (hR.declared rfl) fun _ => Nat.mod_eq_of_lt (regGet_lt _ _ _ _)

theorem movP2v_gives {n : BitVec 8} (hR : Ready (.movP2v h n) s t g) :
    Gives (.movP2v h n) s t g h (.v n) 1 fun l r => r < 256 ∧ ∀ i < 8, r.testBit i = ((s.grp t g).pred i).getLsbD l := by
  refine gives_of_writeReg predBits rfl hR.issuing (rangeOk_of_named (hR.declared rfl) ?_) fun l => ?_
  · simp [Named]
  · obtain ⟨hlt, hbit⟩ := predBits_spec (s.grp t g) l
    rw [Nat.mod_eq_of_lt (hlt.trans (by decide))]
    exact ⟨hlt, fun i hi => by rw [hbit, decide_eq_true hi, Bool.true_and]⟩

theorem movV2p_gives (hR : Ready (.movV2p h a) s t g) (i : BitVec 3) (hi : i ≠ 0) :
    GivesPred (.movV2p h a) s t g h i fun l => (regGet (s.grp t g) a l 1).testBit i.toNat = true := by
  have hr : rangeOk (s.launchOf t) h (.rd a 1 :: (List.range 8).map .wp) = true :=
    rangeOk_of_named (hR.declared rfl) (by simp [Named])
  have hu : Updates (.movV2p h a) s t g h (setPredsG (eligible s t g h)
      (fun i l => (regGet (s.grp t g) a l 1).testBit (i + 1)) (List.range 7)) := by
    have hx : exec (.movV2p h a) s = execMovV2p h a s := rfl
    refine updates_of_simt _ hx hR.issuing hr ?_ (setPredsG_soft _ _ _ _)
    exact congrArg Act.adv (foldl_writePred _ _ _ _ _)
  obtain ⟨j, hj⟩ := Nat.exists_eq_succ_of_ne_zero fun e : i.toNat = 0 => hi (BitVec.eq_of_toNat_eq e)
  have hj7 : j < 7 := by have := i.isLt; omega
  refine hu.givesPred (q := fun l => (regGet (s.grp t g) a l 1).testBit i.toNat) (fun l ⟨hl, hE⟩ => ?_) fun l => Iff.rfl
  rw [hj, Nat.succ_eq_add_one, getLsbD_pred_setPredsG _ _ hl hE, if_pos (List.mem_range.mpr hj7)]
  rfl

theorem moviVector_gives {n : BitVec 8} {w : Word} (hR : Ready (.moviVector h n w) s t g) :
    Gives (.moviVector h n w) s t g h (.v n) 1 fun _ r => r = w.toNat :=
  gives_moviForm rfl hR.issuing (hR.declared rfl) w.isLt

theorem moviVectorPair_gives {n : BitVec 8} {x : DWord} (hR : Ready (.moviVectorPair h n x) s t g) :
    Gives (.moviVectorPair h n x) s t g h (.v n) 2 fun _ r => r = x.toNat :=
  gives_moviForm rfl hR.issuing (hR.declared rfl) x.isLt

theorem moviUniform_gives {n : BitVec 6} {w : Word} (hR : Ready (.moviUniform h n w) s t g) :
    Gives (.moviUniform h n w) s t g h (.s n) 1 fun _ r => r = w.toNat :=
  gives_moviForm rfl hR.issuing (hR.declared rfl) w.isLt

theorem moviUniformPair_gives {n : BitVec 6} {x : DWord} (hR : Ready (.moviUniformPair h n x) s t g) :
    Gives (.moviUniformPair h n x) s t g h (.s n) 2 fun _ r => r = x.toNat :=
  gives_moviForm rfl hR.issuing (hR.declared rfl) x.isLt

end

/-! LEA, DP4 (05 R142, R143). -/

/-- LEA accepts three types, each of which fills its registers. -/
theorem tyBits_of_lea {h : Hdr} {ty : Ty} {sh : BitVec 3} {d a : Reg} {b : Opd} (hl : legal (.lea h ty sh d a b) = true) :
    tyBits ty = 32 * tyRegs ty := by
  have hty : (ty == .n32 || ty == .i64 || ty == .n64) = true := (Bool.and_eq_true_iff.mp hl).1
  simp only [Bool.or_eq_true, beq_iff_eq] at hty
  obtain (rfl | rfl) | rfl := hty <;> rfl

/-- A byte as the model reads it (R143). -/
theorem byteVal_eq (signed : Bool) (x i : Nat) : byteVal signed x i = byteOf signed x i := by
  simp only [byteVal, byteOf, fld, Nat.shiftRight_eq_div_pow]
  cases signed with
  | false => rfl
  | true =>
    simp only [sgn, Bool.true_and, decide_eq_true_eq, if_true]
    split <;> split <;> omega

/-- The exact sum of the four products. -/
theorem dp4Val_eq (sa sb clamp : Bool) (a b c : Nat) :
    dp4Val sa sb clamp a b c = satRes .i32 clamp (tyVal .i32 c + (byteOf sa a 0 * byteOf sb b 0 + byteOf sa a 1 * byteOf sb b 1
      + byteOf sa a 2 * byteOf sb b 2 + byteOf sa a 3 * byteOf sb b 3)) := by
  have hr : List.range 4 = [0, 1, 2, 3] := rfl
  simp only [dp4Val, hr, List.foldl_cons, List.foldl_nil, byteVal_eq, Int.add_assoc]
  rfl

section
variable {s : State} {t g : Nat} {h : Hdr} {ty : Ty} {d a c : Reg} {b : Opd}

theorem lea_gives {sh : BitVec 3} (hl : legal (.lea h ty sh d a b) = true) (hR : Ready (.lea h ty sh d a b) s t g) :
    Gives (.lea h ty sh d a b) s t g h d (tyRegs ty) fun l r =>
      (r : Int) = ((regGet (s.grp t g) a l (tyRegs ty) : Int) +
        (if ty = .i64 then sgn 32 (amount (s.grp t g) b l) else (amount (s.grp t g) b l : Int)) * 2 ^ sh.toNat)
          % ((2 ^ tyBits ty : Nat) : Int) :=
  gives_intAB rfl hR.issuing (hR.declared rfl) fun l => by
    rw [opdGet_one, leaVal, ← tyBits_of_lea hl, Nat.mod_eq_of_lt (wrap_lt _ _), wrap_cast]
    simp only [beq_iff_eq, Nat.cast_pow, Nat.cast_ofNat]

theorem dp4_gives {sa sb clamp : Bool} (hR : Ready (.dp4 h sa sb clamp d a b c) s t g) :
    Gives (.dp4 h sa sb clamp d a b c) s t g h d 1 fun l r =>
      let y (i : Nat) : Int := byteOf sa (regGet (s.grp t g) a l 1) i * byteOf sb (amount (s.grp t g) b l) i
      IntResult .i32 clamp (regVal .i32 (s.grp t g) c l + (y 0 + y 1 + y 2 + y 3)) r :=
  gives_intABC rfl hR.issuing (hR.declared rfl) fun l => by
    rw [opdGet_one, dp4Val_eq]
    exact intResult_satRes (ty := .i32) rfl clamp _

end

/-- Settles O7: predicates bit by bit, immediates and copies as they stand, LEA and DP4 from their exact sums. -/
theorem moveResults : Obligations.MoveResults := fun _ _ _ _ _ _ _ _ _ _ _ _ _ _ _ _ _ =>
  ⟨fun _ => mov_gives, movP2v_gives, movV2p_gives, moviVector_gives, moviVectorPair_gives, moviUniform_gives,
    moviUniformPair_gives, lea_gives, dp4_gives⟩

end Sys2Proof.Claims
end

section
/-! Issues of the floating class: a result and flags of GSTAT written together (06 R147), read back lane by lane and flag by
flag. -/

namespace Sys2Proof.Claims
open Sys2Proof.Machine

/-- GSTAT's flags set by an issue, as an update of the group. -/
def setFlagsG (fl : Flags) (g : Group) : Group := { g with gstat := g.gstat ||| fl.setWidth 32 }

@[simp] theorem setFlagsG_soft (fl : Flags) (g : Group) : (setFlagsG fl g).soft = g.soft := rfl

@[simp] theorem setFlagsG_pred (fl : Flags) (g : Group) (i : Nat) : (setFlagsG fl g).pred i = g.pred i := rfl

@[simp] theorem setFlagsG_regGet (fl : Flags) (g : Group) (r : Reg) (l k : Nat) :
    regGet (setFlagsG fl g) r l k = regGet g r l k :=
  regGet_congr r l k fun j => by cases r <;> rfl

@[simp] theorem writeRegG_gstat (E : Lanes) (d : Reg) (k : Nat) (v : Nat → Nat) (g : Group) :
    (writeRegG E d k v g).gstat = g.gstat :=
  (upd_writeReg (f := ⟨⟨0, false, none⟩, [], [(d, k)], [], false, false, false⟩) v g List.mem_cons_self).flags.1 rfl

@[simp] theorem setPred_gstat (g : Group) (i : Nat) (m v : Lanes) : (g.setPred i m v).gstat = g.gstat := by
  unfold Group.setPred; split <;> rfl

/-- A flag of the union is a flag of one of its members (06 R147). -/
theorem getLsbD_unionFlags (ls : List Flags) (n : Nat) :
    (unionFlags ls).getLsbD n = true ↔ ∃ x ∈ ls, x.getLsbD n = true := by
  have hfold : ∀ a : Flags, (ls.foldl (· ||| ·) a).getLsbD n = true ↔ a.getLsbD n = true ∨ ∃ x ∈ ls, x.getLsbD n = true := by
    induction ls with
    | nil => simp
    | cons x xs ih => intro a; simp [ih, or_assoc]
  simpa [unionFlags] using hfold 0

/-- A predicate and flags, written together. -/
theorem adv_flagPred {c : Ctx} {i : Nat} {v : Nat → Bool} {fl : Flags} {s : State} :
    Act.adv (orFlags c fl (writePred c c.E i v s)) = .adv (s.modGrp c.t c.g fun g =>
      setFlagsG fl (g.setPred i c.E (laneSet fun l => c.E.getLsbD l && v l))) := by
  rw [orFlags, writePred, State.modGrp_modGrp]
  rfl

/-- The lanes that a form computes for are those whose values the lanes of E find (04 R94). -/
theorem exists_mem_computeLanes (d : Reg) (E : Lanes) (Q : Nat → Prop) :
    (∃ l ∈ computeLanes d E, Q l) ↔ ∃ l, (l < 32 ∧ E.getLsbD l = true) ∧ Q (laneOf d E l) := by
  cases d with
  | v n => simp only [computeLanes, mem_lanes, laneOf]
  | s n =>
    simp only [computeLanes, laneOf, lowest, ← mem_lanes]
    cases lanes E with
    | nil => simp
    | cons x xs =>
      simp only [List.take_succ_cons, List.take_zero, List.mem_singleton, exists_eq_left, List.headD_cons]
      exact ⟨fun hq => ⟨x, List.mem_cons_self, hq⟩, fun ⟨_, _, hq⟩ => hq⟩

section
variable {i : Instr} {s : State} {t g : Nat} {h : Hdr}

/-- The instruction completes; its group is then that of F after the issue, or itself after the issue where E is empty. -/
def Leaves (i : Instr) (s : State) (t g : Nat) (h : Hdr) (F : Group → Group) : Prop :=
  ∃ s' c o, exec i s = .next s' ∧
    s'.grp t g = issueGroup c h o (if eligible s t g h = 0 then s.grp t g else F (s.grp t g))

/-- A SIMT form whose act is an update of its group (04 R90 steps 4 and 5). -/
theorem leaves_of_simt {size : Nat} {us : List Use} {act : Ctx → State → Act} (F : Group → Group)
    (hx : exec i s = simt h size us noPriv act s) (hI : Issuing s t g) (hr : rangeOk (s.launchOf t) h us = true)
    (ha : act (ctxOf s t g h size) s = .adv (s.modGrp t g F)) (hF : (F (s.grp t g)).soft = (s.grp t g).soft) :
    Leaves i s t g h F := by
  obtain ⟨hc, hi, hs⟩ := hI
  obtain ⟨ht, hg, -⟩ := canIssue_spec hi
  refine ⟨_, ctxOf s t g h size, s.tick, hx.trans (simt_acts hc hi hs hr rfl), ?_⟩
  by_cases hE : eligible s t g h = 0
  · rw [if_pos hE, if_pos (show (ctxOf s t g h size).E = 0 from hE)]
    have hp := perform_adv_self (c := ctxOf s t g h size) (h := h) (us := us) (s := s) ht hg hs
    exact (congrArg (·.grp t g) hp).trans (State.grp_modGrp_same _ ht hg)
  · rw [if_neg hE, if_neg (show (ctxOf s t g h size).E ≠ 0 from hE), ha]
    have hp := perform_adv_modGrp (c := ctxOf s t g h size) (h := h) (us := us) (s := s) F ht hg (hF.trans hs)
    exact (congrArg (·.grp t g) hp).trans (State.grp_modGrp_same _ ht hg)

/-- What E's lanes find is F's result. -/
theorem Leaves.updates {F : Group → Group} (hl : Leaves i s t g h F) : Updates i s t g h F := by
  obtain ⟨s', c, o, hx, hg⟩ := hl
  exact ⟨s', c, o, hx, fun hE => by rw [hg, if_neg hE]⟩

/-- A flag of GSTAT after an issue that sets the flags of the lanes it computes for. -/
theorem flagIs_of_issueGroup {s' : State} {c : Ctx} {o n : Nat} {d : Reg} {fl : Nat → Flags} {F : Group → Group}
    (hg : s'.grp t g = issueGroup c h o (if eligible s t g h = 0 then s.grp t g else F (s.grp t g)))
    (hF : (F (s.grp t g)).gstat =
      (s.grp t g).gstat ||| (unionFlags ((computeLanes d (eligible s t g h)).map fl)).setWidth 32)
    (hn : n < 9) : FlagIs s s' t g n d h fun l => (fl l).getLsbD n = true := by
  have hex := exists_mem_computeLanes d (eligible s t g h) fun l => (fl l).getLsbD n = true
  unfold FlagIs InE
  rw [← hex, hg, issueGroup_gstat _ _ _ _ _ (by omega)]
  by_cases hE : eligible s t g h = 0
  · have hnone : computeLanes d (eligible s t g h) = [] := by
      rw [hE]; cases d <;> simp [computeLanes, lanes_eq_nil.mpr]
    rw [hnone, if_pos hE]
    simp
  · rw [if_neg hE, hF, BitVec.getLsbD_or, BitVec.getLsbD_setWidth, Bool.or_eq_true, decide_eq_true (show n < 32 by omega),
      Bool.true_and, getLsbD_unionFlags]
    simp

/-- A result and its flags, written together for the lanes of E. -/
def writeFltG (E : Lanes) (d : Reg) (k : Nat) (r : Nat → Nat × Flags) (g : Group) : Group :=
  setFlagsG (unionFlags ((computeLanes d E).map fun l => (r l).2)) (writeRegG E d k (fun l => (r l).1) g)

@[simp] theorem writeFltG_gstat (E : Lanes) (d : Reg) (k : Nat) (r : Nat → Nat × Flags) (g : Group) :
    (writeFltG E d k r g).gstat = g.gstat ||| (unionFlags ((computeLanes d E).map fun l => (r l).2)).setWidth 32 := by
  rw [writeFltG, setFlagsG, writeRegG_gstat]

/-- What a form of the class leaves: its flags, and in the destination each lane's value cut to the registers. -/
theorem fltForm_spec {size k : Nat} {us : List Use} {d : Reg} {f : Group → Nat → Nat × Flags}
    (hx : exec i s = fltForm h size us d k f s) (hI : Issuing s t g)
    (hr : rangeOk (s.launchOf t) h ([.wr d k] ++ us) = true) :
    ∃ s', exec i s = .next s' ∧
      (∀ n < 9, FlagIs s s' t g n d h fun l => (f (s.grp t g) l).2.getLsbD n = true) ∧
      ∀ l, InE s t g h l →
        regGet (s'.grp t g) d l k = (f (s.grp t g) (laneOf d (eligible s t g h) l)).1 % 2 ^ (32 * k) := by
  obtain ⟨s', c, o, hx', hg⟩ := leaves_of_simt (writeFltG (eligible s t g h) d k (f (s.grp t g))) hx hI hr adv_flagReg
    ((setFlagsG_soft _ _).trans (writeRegG_soft _ _ _ _ _))
  refine ⟨s', hx', fun n hn => flagIs_of_issueGroup hg (writeFltG_gstat _ _ _ _ _) hn, fun l hl => ?_⟩
  rw [hg, if_neg hl.eligible_ne_zero, issueGroup_regGet, writeFltG, setFlagsG_regGet, regGet_writeRegG _ _ _ _ _ hl.1 hl.2]

/-- The value alone. -/
theorem gives_fltForm {size k : Nat} {us : List Use} {d : Reg} {f : Group → Nat → Nat × Flags} {P : Nat → Nat → Prop}
    (hx : exec i s = fltForm h size us d k f s) (hI : Issuing s t g)
    (hr : rangeOk (s.launchOf t) h ([.wr d k] ++ us) = true)
    (hP : ∀ l, P l ((f (s.grp t g) l).1 % 2 ^ (32 * k))) : Gives i s t g h d k P := by
  obtain ⟨s', hx', -, hv⟩ := fltForm_spec hx hI hr
  exact ⟨s', hx', fun l hl => by rw [hv l hl]; exact hP _⟩

/-- The registers of a unary form are declared. -/
theorem rangeOk_unary {d a : Reg} {kd ka : Nat} (hd : Declared s t h ([(a, ka)] ++ [(d, kd)])) :
    rangeOk (s.launchOf t) h ([.wr d kd] ++ [.rd a ka]) = true :=
  rangeOk_of_named hd (by simp [Named])

/-- The registers of a form with operand b are declared. -/
theorem rangeOk_binary {d a : Reg} {b : Opd} {kd ka kb : Nat} (hd : Declared s t h (((a, ka) :: ofOpd b kb) ++ [(d, kd)])) :
    rangeOk (s.launchOf t) h ([.wr d kd] ++ ([.rd a ka] ++ opdUse b kb)) = true :=
  rangeOk_append_opdUse (us := [.wr d kd, .rd a ka]) hd (by simp [Named]) fun x hx => by simp [hx]

/-- The registers of a form with operands b and c are declared. -/
theorem rangeOk_ternary {d a cr : Reg} {b : Opd} {kd ka kb kc : Nat}
    (hd : Declared s t h (((a, ka) :: (cr, kc) :: ofOpd b kb) ++ [(d, kd)])) :
    rangeOk (s.launchOf t) h ([.wr d kd] ++ ([.rd a ka, .rd cr kc] ++ opdUse b kb)) = true :=
  rangeOk_append_opdUse (us := [.wr d kd, .rd a ka, .rd cr kc]) hd (by simp [Named]) fun x hx => by simp [hx]

end

/-- An operand b of one register or immediate is a number of 32 bits. -/
theorem amount_lt {b : Opd} (hb : opdAligned 1 false b = true) (gr : Group) (l : Nat) : amount gr b l < 2 ^ 32 := by
  cases b with
  | reg r => exact regGet_lt gr r l 1
  | imm w => exact w.isLt
  | wide x => simp [opdAligned] at hb

end Sys2Proof.Claims
end

section
/-! Rounding to integers (02 Table 2.6): the model's quotients and powers of two as real numbers, and roundAt as RoundsInt. -/

namespace Sys2Proof.Claims
open Sys2Proof.Machine

/-! Signs and powers of two. -/

/-- A sign as a factor. -/
def sign (neg : Bool) : Int := if neg then -1 else 1

@[simp] theorem sign_false : sign false = 1 := rfl
@[simp] theorem sign_true : sign true = -1 := rfl

theorem sign_mul (p q : Bool) : sign (p != q) = sign p * sign q := by cases p <;> cases q <;> rfl

theorem sign_ne_zero (neg : Bool) : sign neg ≠ 0 := by cases neg <;> decide

@[simp] theorem abs_sign_cast (neg : Bool) : |((sign neg : Int) : ℝ)| = 1 := by cases neg <;> simp

/-- An integer is its magnitude under its sign. -/
theorem sign_mul_natAbs (x : Int) : sign (decide (x < 0)) * (x.natAbs : Int) = x := by
  by_cases hx : x < 0
  · simp only [hx, decide_true, sign_true]; omega
  · simp only [hx, decide_false, sign_false]; omega

theorem sign_mul_neg_iff (neg : Bool) {x : ℝ} (hx : 0 < x) : ((sign neg : Int) : ℝ) * x < 0 ↔ neg = true := by
  cases neg
  · simpa using hx.le
  · simpa using hx

theorem two_zpow_pos (q : Int) : (0 : ℝ) < 2 ^ q := zpow_pos (by norm_num) q

/-- A power of two as the quotient of natural powers that the model scales by. -/
theorem two_zpow_eq_div (q : Int) : (2 : ℝ) ^ q = 2 ^ q.toNat / 2 ^ (-q).toNat := by
  rw [← zpow_natCast, ← zpow_natCast, ← zpow_sub₀ two_ne_zero, Int.toNat_sub_toNat_neg]

/-- A power of two of an exponent that is not negative. -/
theorem two_pow_toNat {q : Int} (hq : 0 ≤ q) : ((2 ^ q.toNat : Nat) : ℝ) = 2 ^ q := by
  rw [Nat.cast_pow, Nat.cast_ofNat, ← zpow_natCast, Int.toNat_of_nonneg hq]

/-- The quotient of a ratio. -/
theorem ratio_div (m : Nat) (e : Int) : ((ratio m e).1 : ℝ) / (ratio m e).2 = m * 2 ^ e := by
  rw [two_zpow_eq_div e, ← mul_div_assoc]
  simp only [ratio, Nat.cast_mul, Nat.cast_pow, Nat.cast_ofNat]

theorem ratio_snd_pos (m : Nat) (e : Int) : 0 < (ratio m e).2 := Nat.two_pow_pos _

theorem ratio_fst_pos {m : Nat} (hm : m ≠ 0) (e : Int) : 0 < (ratio m e).1 :=
  Nat.mul_pos (Nat.pos_of_ne_zero hm) (Nat.two_pow_pos _)

/-- The order of scaled numbers. -/
theorem ltScaled_iff (a : Nat) (p : Int) (b : Nat) (q : Int) :
    ltScaled a p b q = true ↔ (a : ℝ) * 2 ^ p < b * 2 ^ q := by
  have hp : (a : ℝ) * 2 ^ p = ((a * 2 ^ (p - min p q).toNat : Nat) : ℝ) * 2 ^ min p q := by
    rw [Nat.cast_mul, two_pow_toNat (by omega), mul_assoc, ← zpow_add₀ two_ne_zero, Int.sub_add_cancel]
  have hq : (b : ℝ) * 2 ^ q = ((b * 2 ^ (q - min p q).toNat : Nat) : ℝ) * 2 ^ min p q := by
    rw [Nat.cast_mul, two_pow_toNat (by omega), mul_assoc, ← zpow_add₀ two_ne_zero, Int.sub_add_cancel]
  rw [hp, hq, mul_lt_mul_iff_left₀ (two_zpow_pos _), Nat.cast_lt, ltScaled, decide_eq_true_eq]

/-- The integer of a finite value in smaller units. -/
theorem unitsAt_cast (neg : Bool) (m : Nat) {e0 e : Int} (h : e ≤ e0) :
    ((unitsAt neg m e0 e : Int) : ℝ) = (sign neg : Int) * (m * 2 ^ e0) / 2 ^ e := by
  have hm : ((m * 2 ^ (e0 - e).toNat : Nat) : ℝ) = m * 2 ^ e0 / 2 ^ e := by
    rw [Nat.cast_mul, two_pow_toNat (by omega), zpow_sub₀ two_ne_zero, mul_div_assoc]
  cases neg
  · rw [unitsAt, if_neg Bool.false_ne_true, Int.cast_natCast, hm, sign_false, Int.cast_one, one_mul]
  · rw [unitsAt, if_pos rfl, Int.cast_neg, Int.cast_natCast, hm, sign_true, Int.cast_neg, Int.cast_one, neg_one_mul, neg_div]

/-- n / d against a power of two. -/
theorem scaled_lt_iff {n d : Nat} (hd : 0 < d) (t : Int) :
    n * 2 ^ (-t).toNat < d * 2 ^ t.toNat ↔ (n : ℝ) / d < 2 ^ t := by
  have hd' : (0 : ℝ) < d := Nat.cast_pos.mpr hd
  rw [two_zpow_eq_div, div_lt_div_iff₀ hd' (by positivity), mul_comm (2 ^ t.toNat) (d : ℝ), ← Nat.cast_lt (α := ℝ)]
  push_cast
  rfl

/-- topOf is the exponent of the highest bit. -/
theorem topOf_spec {n d : Nat} (hn : 0 < n) (hd : 0 < d) :
    (2 : ℝ) ^ topOf n d ≤ (n : ℝ) / d ∧ (n : ℝ) / d < 2 ^ (topOf n d + 1) := by
  have hd' : (0 : ℝ) < d := Nat.cast_pos.mpr hd
  have hnlo : (2 : ℝ) ^ n.log2 ≤ n := by exact_mod_cast Nat.log2_self_le hn.ne'
  have hnhi : (n : ℝ) < 2 ^ (n.log2 + 1) := by exact_mod_cast Nat.lt_log2_self
  have hdlo : (2 : ℝ) ^ d.log2 ≤ d := by exact_mod_cast Nat.log2_self_le hd.ne'
  have hdhi : (d : ℝ) < 2 ^ (d.log2 + 1) := by exact_mod_cast Nat.lt_log2_self
  have hlow : (2 : ℝ) ^ ((n.log2 : Int) - d.log2 - 1) ≤ n / d := by
    rw [show (n.log2 : Int) - d.log2 - 1 = n.log2 - ((d.log2 + 1 : Nat) : Int) by push_cast; ring,
      zpow_sub₀ two_ne_zero, zpow_natCast, zpow_natCast]
    gcongr
  have hhigh : (n : ℝ) / d < 2 ^ ((n.log2 : Int) - d.log2 + 1) := by
    rw [show (n.log2 : Int) - d.log2 + 1 = ((n.log2 + 1 : Nat) : Int) - d.log2 by push_cast; ring,
      zpow_sub₀ two_ne_zero, zpow_natCast, zpow_natCast]
    gcongr
  have hlt := scaled_lt_iff (n := n) hd ((n.log2 : Int) - d.log2)
  unfold topOf
  dsimp only
  split
  · next h => exact ⟨hlow, by rw [Int.sub_add_cancel]; exact hlt.mp h⟩
  · next h => exact ⟨not_lt.mp fun hc => h (hlt.mpr hc), hhigh⟩

/-! Rounding a magnitude under its sign. -/

/-- An integer rounds to itself. -/
theorem roundsInt_self (r : Rnd) (n : Int) : RoundsInt r n n := by
  cases r <;> simp [RoundsInt]

/-- The two integers about a value that is none: which of them each direction takes. -/
theorem roundsInt_of_between {neg : Bool} {r : Rnd} {k : Nat} {y : ℝ} {up : Bool} (hlo : (k : ℝ) < y) (hhi : y < k + 1)
    (hup : up = match r with
      | .rne => decide (1 / 2 < y - k) || (decide (y - k = 1 / 2) && k % 2 == 1)
      | .rtz => false
      | .rdn => neg
      | .rup => !neg) :
    RoundsInt r ((sign neg : Int) * y) (sign neg * ((k + b2n up : Nat) : Int)) := by
  have hk : (0 : ℝ) ≤ k := Nat.cast_nonneg k
  cases r with
  | rtz =>
    rw [hup]
    cases neg
    · simp only [RoundsInt, sign_false, b2n]
      push_cast
      rw [if_pos (by linarith)]
      constructor <;> simp <;> linarith
    · simp only [RoundsInt, sign_true, b2n]
      push_cast
      rw [if_neg (by linarith)]
      constructor <;> simp <;> linarith
  | rdn =>
    rw [hup]
    cases neg <;> simp only [RoundsInt, sign_true, sign_false, b2n] <;> push_cast <;> constructor <;> simp <;> linarith
  | rup =>
    rw [hup]
    cases neg <;> simp only [RoundsInt, sign_true, sign_false, b2n] <;> push_cast <;> constructor <;> simp <;> linarith
  | rne =>
    have hpar : ∀ n : Nat, (sign neg * (n : Int)) % 2 = 0 ↔ n % 2 = 0 := fun n => by cases neg <;> simp [sign] <;> omega
    have habs : |((sign neg * ((k + b2n up : Nat) : Int) : Int) : ℝ) - (sign neg : Int) * y| = |(k : ℝ) + b2n up - y| := by
      rw [Int.cast_mul, ← mul_sub, abs_mul, abs_sign_cast, one_mul]
      push_cast
      rfl
    simp only [RoundsInt, hpar, habs]
    rcases lt_trichotomy (y - k) (1 / 2) with hlt | heq | hgt
    · have : up = false := by rw [hup]; dsimp only; rw [decide_eq_false hlt.not_gt, decide_eq_false hlt.ne]; rfl
      subst this
      rw [show (k : ℝ) + b2n false - y = -(y - k) by simp [b2n], abs_neg, abs_of_pos (by linarith)]
      exact ⟨hlt.le, fun h => absurd h hlt.ne⟩
    · have : up = (k % 2 == 1) := by rw [hup]; dsimp only; rw [decide_eq_false heq.not_gt, decide_eq_true heq]; rfl
      subst this
      by_cases hodd : k % 2 = 1
      · simp only [hodd, b2n, beq_self_eq_true, if_true, Nat.cast_one]
        rw [abs_of_pos (by linarith)]
        exact ⟨by linarith, fun _ => by omega⟩
      · have hf : (k % 2 == 1) = false := by simpa using hodd
        simp only [hf, b2n, Bool.false_eq_true, if_false, Nat.cast_zero]
        rw [abs_of_neg (by linarith)]
        exact ⟨by linarith, fun _ => by omega⟩
    · have : up = true := by
        rw [hup]; dsimp only; rw [decide_eq_true hgt]; rfl
      subst this
      rw [show (k : ℝ) + b2n true - y = 1 - (y - k) by simp [b2n]; ring, abs_of_pos (by linarith)]
      exact ⟨by linarith, fun h => by linarith⟩

/-- roundAt rounds n / d, under its sign, to a multiple of 2^q. -/
theorem roundsInt_roundAt (neg : Bool) (r : Rnd) (n : Nat) {d : Nat} (hd : 0 < d) (q : Int) :
    RoundsInt r ((sign neg : Int) * ((n : ℝ) / d / 2 ^ q)) (sign neg * ((roundAt neg r n d q).1 : Int)) := by
  set n' := n * 2 ^ (-q).toNat with hn'
  set d' := d * 2 ^ q.toNat with hd'
  have hpos : (0 : ℝ) < d' := Nat.cast_pos.mpr (Nat.mul_pos hd (Nat.two_pow_pos _))
  have hy : (n : ℝ) / d / 2 ^ q = n' / d' := by
    rw [two_zpow_eq_div, hn', hd']
    push_cast
    field_simp
  have hdiv : (n' : ℝ) / d' = (n' / d' : Nat) + (n' % d' : Nat) / (d' : ℝ) := by
    rw [div_eq_iff hpos.ne', add_mul, div_mul_cancel₀ _ hpos.ne']
    exact_mod_cast (Nat.div_add_mod' n' d').symm
  rw [hy]
  unfold roundAt
  simp only [← hn', ← hd']
  by_cases hrem : n' % d' = 0
  · rw [if_pos hrem, hdiv, hrem]
    simpa only [Nat.cast_zero, zero_div, add_zero, Int.cast_mul, Int.cast_natCast] using
      roundsInt_self r (sign neg * ((n' / d' : Nat) : Int))
  · rw [if_neg hrem]
    have hfrac : (0 : ℝ) < (n' % d' : Nat) / (d' : ℝ) := div_pos (Nat.cast_pos.mpr (Nat.pos_of_ne_zero hrem)) hpos
    have hfrac' : ((n' % d' : Nat) : ℝ) / (d' : ℝ) < 1 :=
      (div_lt_one hpos).mpr (Nat.cast_lt.mpr (Nat.mod_lt _ (Nat.cast_pos.mp hpos)))
    refine roundsInt_of_between (by linarith) (by linarith) ?_
    cases r with
    | rne =>
      have hsub : (n' : ℝ) / d' - (n' / d' : Nat) = (n' % d' : Nat) / (d' : ℝ) := by rw [hdiv]; ring
      have hlt : (d' < 2 * (n' % d')) = ((1 : ℝ) / 2 < (n' % d' : Nat) / (d' : ℝ)) := by
        rw [div_lt_div_iff₀ two_pos hpos, one_mul, mul_comm]
        exact propext (by exact_mod_cast Iff.rfl)
      have heq : (2 * (n' % d') = d') = ((n' % d' : Nat) / (d' : ℝ) = 1 / 2) := by
        rw [div_eq_div_iff hpos.ne' two_ne_zero, one_mul, mul_comm]
        exact propext (by exact_mod_cast Iff.rfl)
      simp only [hsub, hlt, beq_eq_decide, heq]
    | rtz => rfl
    | rdn => rfl
    | rup => rfl

/-! Values between the same two neighbours of a fine grid round alike. -/

/-- No half of an integer lies strictly between neighbours of the grid of 2^−s, s ≥ 1. -/
theorem half_lt_of_le {a b : ℝ} {y : Int} {s : Nat} (hs : 1 ≤ s) (ha : a * 2 ^ s < y + 1) (hb : y < b * 2 ^ s) {m : Int}
    (h : (m : ℝ) / 2 ≤ a) : (m : ℝ) / 2 < b := by
  obtain ⟨s, rfl⟩ := Nat.exists_eq_succ_of_ne_zero (by omega : s ≠ 0)
  have hp : (0 : ℝ) < 2 ^ s := by positivity
  rw [pow_succ] at ha hb
  have hm : (m : ℝ) * 2 ^ s < y + 1 := lt_of_le_of_lt (by nlinarith) ha
  have hmy : m * 2 ^ s ≤ y := by
    have : ((m * 2 ^ s : Int) : ℝ) < ((y + 1 : Int) : ℝ) := by push_cast; exact hm
    exact Int.lt_add_one_iff.mp (Int.cast_lt.mp this)
  have hmy' : (m : ℝ) * 2 ^ s ≤ y := by exact_mod_cast hmy
  by_contra hc
  nlinarith [not_lt.mp hc]

theorem lt_half_of_le {a b : ℝ} {y : Int} {s : Nat} (hs : 1 ≤ s) (ha : y < a * 2 ^ s) (hb : b * 2 ^ s < y + 1) {m : Int}
    (h : a ≤ (m : ℝ) / 2) : b < (m : ℝ) / 2 := by
  have := half_lt_of_le (a := -a) (b := -b) (y := -y - 1) (m := -m) hs (by push_cast; linarith) (by push_cast; linarith)
    (by push_cast; linarith)
  push_cast at this
  linarith

/-- Two values strictly between the same neighbours of a grid at least twice as fine as the integers round alike. -/
theorem RoundsInt.congr_of_gap {r : Rnd} {a b : ℝ} {n y : Int} {s : Nat} (hs : 1 ≤ s) (ha : y < a * 2 ^ s)
    (ha' : a * 2 ^ s < y + 1) (hb : y < b * 2 ^ s) (hb' : b * 2 ^ s < y + 1) (h : RoundsInt r a n) : RoundsInt r b n := by
  have up : ∀ m : Int, (m : ℝ) / 2 ≤ a → (m : ℝ) / 2 < b := fun m => half_lt_of_le hs ha' hb
  have down : ∀ m : Int, a ≤ (m : ℝ) / 2 → b < (m : ℝ) / 2 := fun m => lt_half_of_le hs ha hb'
  have upn : ∀ m : Int, (m : ℝ) ≤ a → (m : ℝ) < b := fun m hm => by
    have := up (2 * m) (by push_cast; linarith); push_cast at this; linarith
  have downn : ∀ m : Int, a ≤ (m : ℝ) → b < (m : ℝ) := fun m hm => by
    have := down (2 * m) (by push_cast; linarith); push_cast at this; linarith
  have next : a < (n : ℝ) + 1 → b < (n : ℝ) + 1 := fun hm => by
    have := downn (n + 1) (by push_cast; exact hm.le); push_cast at this; exact this
  cases r with
  | rne =>
    obtain ⟨hle, -⟩ := h
    rw [abs_le] at hle
    have h1 := up (2 * n - 1) (by push_cast; linarith)
    have h2 := down (2 * n + 1) (by push_cast; linarith)
    push_cast at h1 h2
    have hlt : |(n : ℝ) - b| < 1 / 2 := abs_lt.mpr ⟨by linarith, by linarith⟩
    exact ⟨hlt.le, fun he => absurd he hlt.ne⟩
  | rtz =>
    simp only [RoundsInt] at h ⊢
    by_cases h0 : 0 ≤ a
    · have hb0 := upn 0 (by simpa using h0)
      rw [if_pos h0] at h
      rw [if_pos (by simpa using hb0.le)]
      exact ⟨(upn n h.1).le, next h.2⟩
    · have hb0 := downn 0 (by simpa using (not_le.mp h0).le)
      rw [if_neg h0] at h
      rw [if_neg (by simpa using hb0)]
      refine ⟨(downn n h.1).le, ?_⟩
      have := upn (n - 1) (by push_cast; linarith [h.2])
      push_cast at this
      linarith
  | rdn => exact ⟨(upn n h.1).le, next h.2⟩
  | rup =>
    refine ⟨(downn n h.1).le, ?_⟩
    have := upn (n - 1) (by push_cast; linarith [h.2])
    push_cast at this
    linarith

end Sys2Proof.Claims
end

section
/-! Patterns of a floating format (03 Table 3.1): magnitudes and their order, and Fmt.read as the classes and values of the
statements. -/

namespace Sys2Proof.Claims
open Sys2Proof.Machine

/-- A format with room for the codes that its definitions set aside; one of 8 exponent bits, as wide as any, has infinities. -/
structure FmtOk (f : Fmt) : Prop where
  eb  : 2 ≤ f.eb
  fb  : 1 ≤ f.fb
  eb8 : f.eb ≤ 8
  inf : f.eb = 8 → f.noInf = false

theorem fmtOk_f32 : FmtOk fmtF32 := ⟨by decide, by decide, by decide, fun _ => rfl⟩
theorem fmtOk_bf16 : FmtOk fmtBf16 := ⟨by decide, by decide, by decide, fun _ => rfl⟩

/-- The formats of CVT. -/
theorem fmtOk_fmtOf (ty : Ty) : FmtOk (fmtOf ty) := by
  cases ty <;> exact ⟨by decide, by decide, by decide, by decide⟩

theorem fmtTop_eq (f : Fmt) : f.top = 2 ^ f.eb * 2 ^ f.fb := Nat.pow_add 2 f.eb f.fb

theorem fmtTop_pos (f : Fmt) : 0 < f.top := Nat.two_pow_pos _

theorem infBits_add (f : Fmt) : f.infBits + 2 ^ f.fb = f.top := by
  rw [Fmt.infBits, fmtTop_eq, Nat.sub_mul, Nat.one_mul, Nat.sub_add_cancel (Nat.le_mul_of_pos_left _ (Nat.two_pow_pos _))]

theorem infBits_pos {f : Fmt} (hf : FmtOk f) : 0 < f.infBits := by
  have hE : 2 ^ 2 ≤ 2 ^ f.eb := Nat.pow_le_pow_right (by omega) hf.eb
  exact Nat.mul_pos (by omega) (Nat.two_pow_pos _)

/-! Magnitudes. -/

/-- A magnitude pattern in units of the least subnormal. -/
def magVal (f : Fmt) (p : Nat) : Nat :=
  if p / 2 ^ f.fb = 0 then p % 2 ^ f.fb else (2 ^ f.fb + p % 2 ^ f.fb) * 2 ^ (p / 2 ^ f.fb - 1)

/-- The value of a magnitude from its exponent and fraction. -/
theorem magVal_fields (f : Fmt) (ex : Nat) {fr : Nat} (h : fr < 2 ^ f.fb) :
    magVal f (ex * 2 ^ f.fb + fr) = if ex = 0 then fr else (2 ^ f.fb + fr) * 2 ^ (ex - 1) := by
  have hdiv : (ex * 2 ^ f.fb + fr) / 2 ^ f.fb = ex := by
    rw [Nat.mul_comm, Nat.mul_add_div (Nat.two_pow_pos _), Nat.div_eq_of_lt h, Nat.add_zero]
  have hmod : (ex * 2 ^ f.fb + fr) % 2 ^ f.fb = fr := by rw [Nat.mul_add_mod_self_right, Nat.mod_eq_of_lt h]
  rw [magVal, hdiv, hmod]

@[simp] theorem magVal_zero (f : Fmt) : magVal f 0 = 0 := by simp [magVal]

/-- Magnitudes are ordered as their patterns. -/
theorem magVal_strictMono (f : Fmt) : StrictMono (magVal f) := by
  refine strictMono_nat_of_lt_succ fun p => ?_
  have hF := Nat.two_pow_pos f.fb
  have hp : p = p / 2 ^ f.fb * 2 ^ f.fb + p % 2 ^ f.fb := (Nat.div_add_mod' p _).symm
  have hfr : p % 2 ^ f.fb < 2 ^ f.fb := Nat.mod_lt _ hF
  generalize p / 2 ^ f.fb = ex at hp
  generalize p % 2 ^ f.fb = fr at hp hfr
  subst hp
  by_cases hlast : fr + 1 < 2 ^ f.fb
  · rw [Nat.add_assoc, magVal_fields f ex hfr, magVal_fields f ex hlast]
    split
    · omega
    · exact Nat.mul_lt_mul_of_pos_right (by omega) (Nat.two_pow_pos _)
  · have hcarry : ex * 2 ^ f.fb + fr + 1 = (ex + 1) * 2 ^ f.fb + 0 := by rw [Nat.add_mul, Nat.one_mul]; omega
    rw [hcarry, magVal_fields f ex hfr, magVal_fields f (ex + 1) hF, if_neg (Nat.succ_ne_zero _), Nat.add_sub_cancel, Nat.add_zero]
    split
    · next h0 => rw [h0, Nat.pow_zero]; omega
    · next h0 =>
      obtain ⟨k, rfl⟩ := Nat.exists_eq_succ_of_ne_zero h0
      calc (2 ^ f.fb + fr) * 2 ^ (k + 1 - 1)
          < (2 ^ f.fb * 2) * 2 ^ k := Nat.mul_lt_mul_of_pos_right (by omega) (Nat.two_pow_pos _)
        _ = 2 ^ f.fb * 2 ^ (k + 1) := by rw [Nat.pow_succ]; ring

theorem magVal_le_iff (f : Fmt) {p q : Nat} : magVal f p ≤ magVal f q ↔ p ≤ q := (magVal_strictMono f).le_iff_le

/-- The magnitude of a pattern, whose exponent and fraction are those of the pattern. -/
theorem mod_top_fields (f : Fmt) (x : Nat) : x % f.top = x / 2 ^ f.fb % 2 ^ f.eb * 2 ^ f.fb + x % 2 ^ f.fb := by
  rw [fmtTop_eq, Nat.mul_comm (2 ^ f.eb), Nat.mod_mul]
  ring

/-- The value of a pattern is that of its magnitude under its sign. -/
theorem valueOf_cast (f : Fmt) (x : Nat) :
    ((valueOf f x : ℚ) : ℝ) = (sign (negIn f x) : Int) * (magVal f (x % f.top) * 2 ^ f.emin) := by
  rw [mod_top_fields, magVal_fields f _ (Nat.mod_lt _ (Nat.two_pow_pos _)), ← mul_assoc]
  unfold valueOf sign
  push_cast
  split <;> split <;> simp

/-! Signs before magnitudes. -/

section
variable {f : Fmt} {m : Nat}

theorem withSign_mod_top (neg : Bool) (hm : m < f.top) : withSign f neg m % f.top = m := by
  cases neg
  · exact Nat.mod_eq_of_lt hm
  · rw [withSign, if_pos rfl, Nat.add_mod_left, Nat.mod_eq_of_lt hm]

theorem negIn_withSign (neg : Bool) (hm : m < f.top) : negIn f (withSign f neg m) = neg := by
  cases neg
  · exact Nat.testBit_lt_two_pow hm
  · rw [withSign, if_pos rfl]
    simp only [negIn, Fmt.top] at *
    rw [Nat.testBit_two_pow_add_eq, Nat.testBit_lt_two_pow hm, Bool.not_false]

theorem withSign_lt (neg : Bool) (hm : m < f.top) : withSign f neg m < 2 * f.top := by
  unfold withSign; split <;> omega

end

/-- A pattern is the magnitude of its low bits under its sign bit. -/
theorem mod_two_top (f : Fmt) (x : Nat) : x % (2 * f.top) = withSign f (negIn f x) (x % f.top) := by
  have hbit : negIn f x = decide (x / f.top % 2 = 1) := Nat.testBit_eq_decide_div_mod_eq
  rw [Nat.mul_comm, Nat.mod_mul, hbit, withSign]
  rcases Nat.mod_two_eq_zero_or_one (x / f.top) with h | h <;> simp [h, Nat.add_comm]

theorem eq_withSign {f : Fmt} {x : Nat} (hx : x < 2 * f.top) : x = withSign f (negIn f x) (x % f.top) := by
  rw [← mod_two_top, Nat.mod_eq_of_lt hx]

/-- The flush on sign and magnitude: a subnormal magnitude becomes zero (03 R64). -/
theorem flushIn_eq (f : Fmt) (fl : Bool) (x : Nat) : flushIn f fl x =
    withSign f (negIn f x) (if fl && x / 2 ^ f.fb % 2 ^ f.eb == 0 then 0 else x % f.top) := by
  have hlt : x % f.top < f.top := Nat.mod_lt _ (fmtTop_pos f)
  have hexp : x % (2 * f.top) / 2 ^ f.fb % 2 ^ f.eb = x / 2 ^ f.fb % 2 ^ f.eb := by
    rw [fmtTop_eq, show 2 * (2 ^ f.eb * 2 ^ f.fb) = 2 ^ f.fb * (2 ^ f.eb * 2) by ring, Nat.mod_mul_right_div_self,
      Nat.mod_mul_right_mod]
  unfold flushIn
  dsimp only
  rw [hexp]
  split
  · rw [mod_two_top]
    cases negIn f x
    · rw [withSign, if_neg Bool.false_ne_true, Nat.div_eq_of_lt hlt, Nat.zero_mul]
      rfl
    · rw [withSign, if_pos rfl, Nat.add_div_left _ (fmtTop_pos f), Nat.div_eq_of_lt hlt, Nat.one_mul]
      rfl
  · exact mod_two_top f x

theorem flushIn_lt (f : Fmt) (fl : Bool) (x : Nat) : flushIn f fl x < 2 * f.top := by
  rw [flushIn_eq]
  refine withSign_lt _ ?_
  split
  · exact fmtTop_pos f
  · exact Nat.mod_lt _ (fmtTop_pos f)

/-! The classes of a pattern. -/

theorem NanIn.not_inf {f : Fmt} {x : Nat} (h : NanIn f x) : ¬InfIn f x := by
  rintro ⟨h1, h2⟩
  simp only [NanIn, h1, Bool.false_eq_true, if_false, h2, lt_irrefl] at h

theorem NanIn.not_fin {f : Fmt} {x : Nat} (h : NanIn f x) : ¬FinIn f x := by
  unfold NanIn FinIn at *
  split at h <;> simp_all
  omega

theorem InfIn.not_fin {f : Fmt} {x : Nat} (h : InfIn f x) : ¬FinIn f x := by
  obtain ⟨h1, h2⟩ := h
  simp [FinIn, h1, h2]

/-- The greatest finite magnitude bounds the finite ones. -/
theorem finIn_iff {f : Fmt} (hf : FmtOk f) (x : Nat) : FinIn f x ↔ x % f.top ≤ f.maxBits := by
  have hE : 2 ^ 2 ≤ 2 ^ f.eb := Nat.pow_le_pow_right (by omega) hf.eb
  have hF : 2 ^ 1 ≤ 2 ^ f.fb := Nat.pow_le_pow_right (by omega) hf.fb
  have hinf := infBits_add f
  have hpos : 1 * 2 ≤ f.infBits := Nat.mul_le_mul (by omega) hF
  unfold FinIn Fmt.maxBits
  split <;> omega

/-- What a value that was read says of the pattern. -/
def Means (f : Fmt) (y : Nat) : FV → Prop
  | .nan => NanIn f y
  | .inf neg => InfIn f y ∧ negIn f y = neg
  | .fin neg m e => FinIn f y ∧ negIn f y = neg ∧ (f.emin ≤ e ∧ m < 2 ^ (f.fb + 1)) ∧
      ((valueOf f y : ℚ) : ℝ) = (sign neg : Int) * (m * 2 ^ e)

section
variable {f : Fmt} {y : Nat} {v : FV}

theorem Means.nan_iff (h : Means f y v) : NanIn f y ↔ v = .nan := by
  cases v with
  | nan => exact iff_of_true h rfl
  | inf neg => exact iff_of_false (fun hn => hn.not_inf h.1) (by simp)
  | fin neg m e => exact iff_of_false (fun hn => hn.not_fin h.1) (by simp)

theorem Means.inf_iff (h : Means f y v) : InfIn f y ↔ v = .inf (negIn f y) := by
  cases v with
  | nan => exact iff_of_false (fun hn => NanIn.not_inf h hn) (by simp)
  | inf neg => exact iff_of_true h.1 (by rw [h.2])
  | fin neg m e => exact iff_of_false (fun hn => hn.not_fin h.1) (by simp)

theorem Means.fin_iff (h : Means f y v) : FinIn f y ↔ ∃ m e, v = .fin (negIn f y) m e := by
  cases v with
  | nan => exact iff_of_false (fun hn => NanIn.not_fin h hn) (by simp)
  | inf neg => exact iff_of_false (fun hn => h.1.not_fin hn) (by simp)
  | fin neg m e => exact iff_of_true h.1 ⟨m, e, by rw [h.2.1]⟩

end

theorem fields_lt_top {f : Fmt} {ex fr : Nat} (hex : ex < 2 ^ f.eb) (hfr : fr < 2 ^ f.fb) : ex * 2 ^ f.fb + fr < f.top := by
  rw [fmtTop_eq]
  calc ex * 2 ^ f.fb + fr < (ex + 1) * 2 ^ f.fb := by rw [Nat.add_mul, Nat.one_mul]; omega
    _ ≤ 2 ^ f.eb * 2 ^ f.fb := Nat.mul_le_mul_right _ hex

/-- The magnitudes of the special codes and of the finite ones, by their fields. -/
theorem classes_fields {f : Fmt} (hf : FmtOk f) {neg : Bool} {ex fr : Nat} (hex : ex < 2 ^ f.eb) (hfr : fr < 2 ^ f.fb) :
    let y := withSign f neg (ex * 2 ^ f.fb + fr)
    (NanIn f y ↔ ex = 2 ^ f.eb - 1 ∧ if f.noInf then fr = 2 ^ f.fb - 1 else fr ≠ 0) ∧
    (InfIn f y ↔ f.noInf = false ∧ ex = 2 ^ f.eb - 1 ∧ fr = 0) ∧
    (FinIn f y ↔ ex ≠ 2 ^ f.eb - 1 ∨ (f.noInf = true ∧ fr ≠ 2 ^ f.fb - 1)) := by
  intro y
  have hE : 2 ^ 2 ≤ 2 ^ f.eb := Nat.pow_le_pow_right (by omega) hf.eb
  have hF : 2 ^ 1 ≤ 2 ^ f.fb := Nat.pow_le_pow_right (by omega) hf.fb
  have htop := infBits_add f
  have hmag : (ex = 2 ^ f.eb - 1 ∧ ex * 2 ^ f.fb + fr = f.infBits + fr) ∨
      (ex ≠ 2 ^ f.eb - 1 ∧ ex * 2 ^ f.fb + fr < f.infBits) := by
    by_cases he : ex = 2 ^ f.eb - 1
    · exact Or.inl ⟨he, by rw [he, Fmt.infBits]⟩
    · refine Or.inr ⟨he, ?_⟩
      calc ex * 2 ^ f.fb + fr < (ex + 1) * 2 ^ f.fb := by rw [Nat.add_mul, Nat.one_mul]; omega
        _ ≤ f.infBits := Nat.mul_le_mul_right _ (by omega)
  have hy : y % f.top = ex * 2 ^ f.fb + fr := withSign_mod_top neg (fields_lt_top hex hfr)
  unfold NanIn InfIn FinIn
  rw [hy]
  generalize ex * 2 ^ f.fb + fr = p at hmag
  cases f.noInf
  · simp only [Bool.false_eq_true, if_false, true_and, false_and, or_false]
    omega
  · simp only [Bool.true_eq_false, if_true, true_and, false_and]
    omega

/-- A finite pattern of given fields: its class, sign and value. -/
theorem means_fin_fields {f : Fmt} (hf : FmtOk f) {neg : Bool} {ex fr : Nat} (hex : ex < 2 ^ f.eb) (hfr : fr < 2 ^ f.fb)
    (hord : ex ≠ 2 ^ f.eb - 1 ∨ (f.noInf = true ∧ fr ≠ 2 ^ f.fb - 1)) :
    Means f (withSign f neg (ex * 2 ^ f.fb + fr))
      (if ex = 0 then .fin neg fr f.emin else .fin neg (2 ^ f.fb + fr) (f.emin + (ex - 1 : Nat))) := by
  have hlt := fields_lt_top hex hfr
  have hpow : 2 ^ (f.fb + 1) = 2 ^ f.fb * 2 := Nat.pow_succ ..
  have hfin := (classes_fields (neg := neg) hf hex hfr).2.2.mpr hord
  have hval := valueOf_cast f (withSign f neg (ex * 2 ^ f.fb + fr))
  rw [negIn_withSign _ hlt, withSign_mod_top _ hlt, magVal_fields f ex hfr] at hval
  split at hval
  · next h0 => rw [if_pos h0]; exact ⟨hfin, negIn_withSign _ hlt, ⟨le_rfl, by omega⟩, hval⟩
  · next h0 =>
    rw [if_neg h0]
    refine ⟨hfin, negIn_withSign _ hlt, ⟨by omega, by omega⟩, hval.trans ?_⟩
    rw [zpow_add₀ two_ne_zero, zpow_natCast]
    push_cast
    ring

/-- Reading bits, under a flush or none, gives the class, sign and value of the flushed pattern (03 R62, R64). -/
theorem means_read {f : Fmt} (hf : FmtOk f) (fl : Bool) (x : Nat) : Means f (flushIn f fl x) (f.read fl x) := by
  have hE : 2 ^ 2 ≤ 2 ^ f.eb := Nat.pow_le_pow_right (by omega) hf.eb
  have hF : 2 ^ 1 ≤ 2 ^ f.fb := Nat.pow_le_pow_right (by omega) hf.fb
  have hex : x / 2 ^ f.fb % 2 ^ f.eb < 2 ^ f.eb := Nat.mod_lt _ (Nat.two_pow_pos _)
  have hfr : x % 2 ^ f.fb < 2 ^ f.fb := Nat.mod_lt _ (Nat.two_pow_pos _)
  have hread : f.read fl x = if f.noInf && x / 2 ^ f.fb % 2 ^ f.eb == 2 ^ f.eb - 1 && x % 2 ^ f.fb == 2 ^ f.fb - 1 then .nan
      else if !f.noInf && x / 2 ^ f.fb % 2 ^ f.eb == 2 ^ f.eb - 1 then (if x % 2 ^ f.fb = 0 then .inf (negIn f x) else .nan)
      else if x / 2 ^ f.fb % 2 ^ f.eb = 0 then .fin (negIn f x) (if fl then 0 else x % 2 ^ f.fb) f.emin
      else .fin (negIn f x) (2 ^ f.fb + x % 2 ^ f.fb) (f.emin + (x / 2 ^ f.fb % 2 ^ f.eb - 1 : Nat)) := by
    simp only [Fmt.read, fld, Nat.shiftRight_eq_div_pow, Nat.pow_zero, Nat.div_one]
    rfl
  rw [flushIn_eq, mod_top_fields, hread]
  generalize x / 2 ^ f.fb % 2 ^ f.eb = ex at hex
  generalize x % 2 ^ f.fb = fr at hfr
  generalize negIn f x = neg
  by_cases h0 : ex = 0
  · subst h0
    have hne : ¬(0 = 2 ^ f.eb - 1) := by omega
    have hz := fun r hr => means_fin_fields (neg := neg) (fr := r) hf hex hr (Or.inl hne)
    simp only [beq_eq_decide, hne, decide_false, Bool.and_false, Bool.false_and, Bool.false_eq_true, if_false, if_true,
      decide_true, Bool.and_true] at hz ⊢
    cases fl
    · exact hz fr hfr
    · simpa using hz 0 (by omega)
  · obtain ⟨hnan, hinf, -⟩ := classes_fields (neg := neg) hf hex hfr
    have hord := means_fin_fields (neg := neg) hf hex hfr
    have hlt := fields_lt_top hex hfr
    rw [if_neg h0] at hord
    rw [show (fl && ex == 0) = false by simp [h0], if_neg Bool.false_ne_true, if_neg h0]
    cases hn : f.noInf <;>
      simp only [hn, Bool.true_and, Bool.not_true, Bool.not_false, Bool.false_and, Bool.and_eq_true, beq_iff_eq,
        Bool.false_eq_true, if_true, if_false, false_and, true_and, or_false] at hnan hinf hord ⊢
    · split
      · next hm =>
        split
        · next hz => exact ⟨hinf.mpr ⟨hm, hz⟩, negIn_withSign _ hlt⟩
        · next hz => exact hnan.mpr ⟨hm, hz⟩
      · next hm => exact hord hm
    · split
      · next hm => exact hnan.mpr hm
      · next hm => exact hord (by omega)

/-! FP32 as the statements of chapter 06 write it. -/

theorem nan_iff_nanIn (x : Nat) : Nan x ↔ NanIn fmtF32 x := Iff.rfl

theorem inf_iff_infIn (x : Nat) : Inf x ↔ InfIn fmtF32 x := ⟨fun h => ⟨rfl, h⟩, And.right⟩

theorem finite_iff_finIn {x : Nat} (hx : x < 2 ^ 32) : Finite x ↔ FinIn fmtF32 x := ⟨And.right, fun h => ⟨hx, h⟩⟩

theorem neg_eq_negIn (x : Nat) : Neg x = negIn fmtF32 x := rfl

/-- The value of an FP32 pattern, in units of 2^−149. -/
theorem units_cast (x : Nat) : (units x : ℝ) = (valueOf fmtF32 x : ℚ) * 2 ^ 149 := by
  have hmag : units x = sign (negIn fmtF32 x) * magVal fmtF32 (x % fmtF32.top) := by
    rw [mod_top_fields, magVal_fields _ _ (Nat.mod_lt _ (Nat.two_pow_pos _))]
    show (if negIn fmtF32 x then -((if x / 2 ^ 23 % 256 = 0 then _ else _ : Nat) : Int) else _) = _
    cases negIn fmtF32 x
    · exact (one_mul _).symm
    · exact (neg_one_mul _).symm
  rw [hmag, valueOf_cast, show fmtF32.emin = -149 from rfl]
  push_cast
  rw [zpow_neg, ← zpow_natCast (2 : ℝ) 149]
  push_cast
  field_simp

theorem units_eq_zero (x : Nat) : units x = 0 ↔ valueOf fmtF32 x = 0 := by
  rw [← Int.cast_eq_zero (α := ℝ), units_cast, ← Rat.cast_eq_zero (α := ℝ)]
  simp

end Sys2Proof.Claims
end

section
/-! XACC (06 R158): the conversion of R80 and the sum of R81. -/

namespace Sys2Proof.Claims
open Sys2Proof.Machine

/-! The sum (03 R81). -/

theorem sgn_eq_wide {a : Nat} (ha : a < 2 ^ 128) : sgn 128 a = wide a := by
  unfold sgn wide
  rw [Nat.mod_eq_of_lt ha]
  rfl

theorem xAdd_lt {a c : Nat} (ha : a < 2 ^ 128) (hc : c < 2 ^ 128) : (xAdd a c).1 < 2 ^ 128 := by
  have hw := wrap_lt 128 (sgn 128 a + sgn 128 c)
  have hs : xNan < 2 ^ 128 ∧ xSat < 2 ^ 128 ∧ xNegSat < 2 ^ 128 := by decide
  obtain ⟨h1, h2, h3⟩ := hs
  unfold xAdd
  dsimp only
  split_ifs <;> assumption

/-- xAdd is the sum of R81, its flags those of XNAN and XOVF. -/
theorem xSum_xAdd {a c : Nat} (ha : a < 2 ^ 128) (hc : c < 2 ^ 128) :
    XSum a c (xAdd a c).1 ((xAdd a c).2.getLsbD 6 = true) ((xAdd a c).2.getLsbD 5 = true) := by
  have hxn : fXNAN.getLsbD 6 = true ∧ ¬fXNAN.getLsbD 5 = true := by decide
  have hxo : ¬fXOVF.getLsbD 6 = true ∧ fXOVF.getLsbD 5 = true := by decide
  have h0 : ¬(0 : Flags).getLsbD 6 = true ∧ ¬(0 : Flags).getLsbD 5 = true := by decide
  have hlim : ((xLim : Nat) : Int) = 2 ^ 127 - 2 := rfl
  have hnan : (a = 2 ^ 127 ∨ c = 2 ^ 127 ∨ (a = 2 ^ 127 - 1 ∧ c = 2 ^ 127 + 1) ∨ (a = 2 ^ 127 + 1 ∧ c = 2 ^ 127 - 1)) ↔
      (a = xNan || c = xNan) = true ∨ ((a = xSat && c = xNegSat) || (a = xNegSat && c = xSat)) = true := by
    simp only [Bool.or_eq_true, Bool.and_eq_true, decide_eq_true_eq, or_assoc]
    rfl
  have hor : ∀ x : Nat, (x = 2 ^ 127 - 1 ∨ x = 2 ^ 127 + 1) ↔ (x = xSat || x = xNegSat) = true := fun x => by
    simp only [Bool.or_eq_true, decide_eq_true_eq]
    rfl
  unfold XSum xAdd
  dsimp only
  rw [sgn_eq_wide ha, sgn_eq_wide hc, hlim]
  by_cases hn : a = 2 ^ 127 ∨ c = 2 ^ 127 ∨ (a = 2 ^ 127 - 1 ∧ c = 2 ^ 127 + 1) ∨ (a = 2 ^ 127 + 1 ∧ c = 2 ^ 127 - 1)
  · rw [if_pos hn]
    rcases hnan.mp hn with h | h
    · rw [if_pos h]; exact ⟨rfl, hxn⟩
    · split <;> exact ⟨rfl, hxn⟩
  · obtain ⟨hn1, hn2⟩ := not_or.mp (fun h => hn (hnan.mpr h))
    rw [if_neg hn, if_neg hn1, if_neg hn2]
    by_cases hsa : a = 2 ^ 127 - 1 ∨ a = 2 ^ 127 + 1
    · rw [if_pos hsa, if_pos ((hor a).mp hsa)]; exact ⟨rfl, h0⟩
    · rw [if_neg hsa, if_neg fun h => hsa ((hor a).mpr h)]
      by_cases hsc : c = 2 ^ 127 - 1 ∨ c = 2 ^ 127 + 1
      · rw [if_pos hsc, if_pos ((hor c).mp hsc)]; exact ⟨rfl, h0⟩
      · rw [if_neg hsc, if_neg fun h => hsc ((hor c).mpr h)]
        split
        · exact ⟨rfl, hxo⟩
        · split
          · exact ⟨rfl, hxo⟩
          · exact ⟨wrap_cast 128 _, h0⟩

/-! The conversion (03 R80). -/

theorem xOfF32_lt (b : Nat) : (xOfF32 b).1 < 2 ^ 128 := by
  have hs : xNan < 2 ^ 128 ∧ xSat < 2 ^ 128 ∧ xNegSat < 2 ^ 128 := by decide
  obtain ⟨h1, h2, h3⟩ := hs
  unfold xOfF32
  cases fmtF32.read false b with
  | nan => exact h1
  | inf neg => cases neg <;> assumption
  | fin neg m e =>
    dsimp only
    split
    · split <;> assumption
    · exact wrap_lt 128 _

/-- A pattern of 32 bits, not flushed. -/
theorem flushIn_f32_false {x : Nat} (hx : x < 2 ^ 32) : flushIn fmtF32 false x = x := Nat.mod_eq_of_lt hx

/-- The multiple of 2^−80 nearest to an FP32 value, in the units of both. -/
theorem nearest_wide {b : Nat} {neg : Bool} {m : Nat} {e : Int}
    (hv : ((valueOf fmtF32 b : ℚ) : ℝ) = (sign neg : Int) * (m * 2 ^ e)) :
    let n : Int := sign neg * ((roundAt neg .rne (ratio m e).1 (ratio m e).2 (-80)).1 : Nat)
    2 * |n * 2 ^ 69 - units b| ≤ 2 ^ 69 ∧ (2 * |n * 2 ^ 69 - units b| = 2 ^ 69 → n % 2 = 0) := by
  intro n
  have hr : RoundsInt .rne _ n := roundsInt_roundAt neg .rne (ratio m e).1 (ratio_snd_pos m e) (-80)
  rw [ratio_div, mul_div_assoc', ← hv] at hr
  have hy : ((valueOf fmtF32 b : ℚ) : ℝ) / 2 ^ (-80 : Int) = units b / 2 ^ 69 := by
    rw [units_cast, zpow_neg, div_inv_eq_mul, mul_div_assoc]
    norm_num
  rw [hy] at hr
  have habs : ((2 * |n * 2 ^ 69 - units b| : Int) : ℝ) = |(n : ℝ) - units b / 2 ^ 69| * (2 * 2 ^ 69) := by
    have hsplit : ((n * 2 ^ 69 - units b : Int) : ℝ) = ((n : ℝ) - units b / 2 ^ 69) * 2 ^ 69 := by
      rw [sub_mul, div_mul_cancel₀ _ (by positivity)]
      push_cast
      ring
    rw [Int.cast_mul, Int.cast_abs, hsplit, abs_mul, abs_of_pos (show (0 : ℝ) < 2 ^ 69 by positivity)]
    push_cast
    ring
  constructor
  · rw [← Int.cast_le (R := ℝ), habs]
    push_cast
    linarith [hr.1]
  · intro heq
    refine hr.2 ?_
    have := congrArg (Int.cast : Int → ℝ) heq
    rw [habs] at this
    push_cast at this
    linarith

/-- xOfF32 is the conversion of R80, its flags those of XNAN and XOVF. -/
theorem xOf_xOfF32 {b : Nat} (hb : b < 2 ^ 32) :
    XOf b (xOfF32 b).1 ((xOfF32 b).2.getLsbD 6 = true) ((xOfF32 b).2.getLsbD 5 = true) := by
  have hxn : fXNAN.getLsbD 6 = true ∧ ¬fXNAN.getLsbD 5 = true := by decide
  have hxo : ¬fXOVF.getLsbD 6 = true ∧ fXOVF.getLsbD 5 = true := by decide
  have h0 : ¬(0 : Flags).getLsbD 6 = true ∧ ¬(0 : Flags).getLsbD 5 = true := by decide
  have hsat : ∀ neg : Bool, (if neg then xNegSat else xSat) = if neg then 2 ^ 127 + 1 else 2 ^ 127 - 1 := fun _ => rfl
  have hm := means_read fmtOk_f32 false b
  rw [flushIn_f32_false hb] at hm
  unfold XOf
  rw [nan_iff_nanIn, hm.nan_iff, inf_iff_infIn, hm.inf_iff, finite_iff_finIn hb, hm.fin_iff, neg_eq_negIn]
  unfold xOfF32
  cases hv : fmtF32.read false b with
  | nan => exact ⟨fun _ => ⟨rfl, hxn⟩, by simp, by simp⟩
  | inf neg =>
    rw [hv] at hm
    refine ⟨by simp, fun _ => ⟨?_, hxo⟩, by simp⟩
    rw [hm.2]
    exact hsat neg
  | fin neg m e =>
    rw [hv] at hm
    obtain ⟨-, hneg, -, hval⟩ := hm
    obtain ⟨hnear, htie⟩ := nearest_wide hval
    refine ⟨by simp, by simp, fun _ => ?_⟩
    dsimp only
    generalize (roundAt neg .rne (ratio m e).1 (ratio m e).2 (-80)).1 = k at hnear htie
    have habs : |sign neg * (k : Int)| = k := by cases neg <;> simp
    have hlim : 2 ^ 127 - 2 < |sign neg * (k : Int)| ↔ xLim < k := by
      rw [habs, ← Nat.cast_lt (α := Int)]
      rfl
    by_cases hk : xLim < k
    · rw [if_pos hk]
      refine ⟨hxo.1, sign neg * k, hnear, htie, ?_⟩
      rw [if_pos (hlim.mpr hk), hneg, hsat]
      exact ⟨rfl, hxo.2⟩
    · rw [if_neg hk]
      refine ⟨h0.1, sign neg * k, hnear, htie, ?_⟩
      rw [if_neg fun h => hk (hlim.mp h)]
      refine ⟨?_, h0.2⟩
      rw [wrap_cast]
      cases neg <;> simp

/-! The forms. -/

section
variable {s : State} {t g : Nat} {h : Hdr} {d a q : Reg} {b : Opd}

theorem xaccX128_spec (hR : Ready (.xaccX128 h d a q) s t g) : ∃ s', exec (.xaccX128 h d a q) s = .next s' ∧
    ∃ xn xo : Nat → Prop, FlagIs s s' t g 5 d h xo ∧ FlagIs s s' t g 6 d h xn ∧
      ∀ l, InE s t g h l → let m := laneOf d (eligible s t g h) l
        XSum (regGet (s.grp t g) a m 4) (regGet (s.grp t g) q m 4) (regGet (s'.grp t g) d l 4) (xn m) (xo m) := by
  have hr : rangeOk (s.launchOf t) h ([.wr d 4] ++ [.rd a 4, .rd q 4]) = true :=
    rangeOk_of_named (hR.declared rfl) (by simp [Named])
  have he : exec (.xaccX128 h d a q) s = execXaccX128 h d a q s := rfl
  obtain ⟨s', hx, hfl, hv⟩ := fltForm_spec he hR.issuing hr
  refine ⟨s', hx, fun l => (xAdd (regGet (s.grp t g) a l 4) (regGet (s.grp t g) q l 4)).2.getLsbD 6 = true,
    fun l => (xAdd (regGet (s.grp t g) a l 4) (regGet (s.grp t g) q l 4)).2.getLsbD 5 = true,
    hfl 5 (by decide), hfl 6 (by decide), fun l hl => ?_⟩
  have ha := regGet_lt (s.grp t g) a (laneOf d (eligible s t g h) l) 4
  have hq := regGet_lt (s.grp t g) q (laneOf d (eligible s t g h) l) 4
  rw [hv l hl, Nat.mod_eq_of_lt (xAdd_lt ha hq)]
  exact xSum_xAdd ha hq

theorem xaccF32_spec (hb : opdAligned 1 false b = true) (hR : Ready (.xaccF32 h d a b) s t g) :
    ∃ s', exec (.xaccF32 h d a b) s = .next s' ∧
      ∃ (c : Nat → Nat) (cn co xn xo : Nat → Prop), FlagIs s s' t g 5 d h (fun l => co l ∨ xo l) ∧
        FlagIs s s' t g 6 d h (fun l => cn l ∨ xn l) ∧
        ∀ l, InE s t g h l → let m := laneOf d (eligible s t g h) l
          XOf (amount (s.grp t g) b m) (c m) (cn m) (co m) ∧
            XSum (regGet (s.grp t g) a m 4) (c m) (regGet (s'.grp t g) d l 4) (xn m) (xo m) := by
  have he : exec (.xaccF32 h d a b) s = execXaccF32 h d a b s := rfl
  obtain ⟨s', hx, hfl, hv⟩ := fltForm_spec he hR.issuing (rangeOk_binary (hR.declared rfl))
  have hor : ∀ (x y : Flags) (n : Nat), (x ||| y).getLsbD n = true ↔ x.getLsbD n = true ∨ y.getLsbD n = true :=
    fun x y n => by rw [BitVec.getLsbD_or, Bool.or_eq_true]
  simp only [xaccVal, opdGet_one, hor] at hfl hv
  refine ⟨s', hx, fun l => (xOfF32 (amount (s.grp t g) b l)).1, _, _, _, _, hfl 5 (by decide), hfl 6 (by decide),
    fun l hl => ⟨xOf_xOfF32 (amount_lt hb _ _), ?_⟩⟩
  have ha := regGet_lt (s.grp t g) a (laneOf d (eligible s t g h) l) 4
  have hc := xOfF32_lt (amount (s.grp t g) b (laneOf d (eligible s t g h) l))
  rw [hv l hl, Nat.mod_eq_of_lt (xAdd_lt ha hc)]
  exact xSum_xAdd ha hc

end

/-- Settles O10: the value and the flags of a lane come from one conversion and one sum. -/
theorem exactSumResults : Obligations.ExactSumResults := fun _ _ _ _ _ _ _ _ hb =>
  ⟨xaccX128_spec, xaccF32_spec hb⟩

end Sys2Proof.Claims
end

section
/-! FMNMX and FCMP (06 R151, R152): the order of values is an order of patterns. -/

namespace Sys2Proof.Claims
open Sys2Proof.Machine

/-- A pattern's place in the order of values, both zeros at one place. -/
def valueKey (f : Fmt) (x : Nat) : Int := sign (negIn f x) * ((x % f.top : Nat) : Int)

/-- Finite patterns are ordered as their values. -/
theorem valueOf_lt_iff (f : Fmt) (x y : Nat) :
    ((valueOf f x : ℚ) : ℝ) < (valueOf f y : ℚ) ↔ valueKey f x < valueKey f y := by
  have hlt : ∀ p q, magVal f p < magVal f q ↔ p < q := fun p q => (magVal_strictMono f).lt_iff_lt
  have hx := hlt 0 (x % f.top)
  have hy := hlt 0 (y % f.top)
  have hxy := hlt (x % f.top) (y % f.top)
  have hyx := hlt (y % f.top) (x % f.top)
  rw [magVal_zero] at hx hy
  rw [valueOf_cast, valueOf_cast, ← mul_assoc, ← mul_assoc, mul_lt_mul_iff_left₀ (two_zpow_pos _)]
  norm_cast
  unfold valueKey
  generalize x % f.top = p at *
  generalize y % f.top = q at *
  cases negIn f x <;> cases negIn f y <;> simp only [sign_true, sign_false] <;> omega

theorem compare_congr {a b c d : Int} (hlt : a < b ↔ c < d) (hgt : b < a ↔ d < c) : compare a b = compare c d := by
  rcases lt_trichotomy a b with h | h | h
  · rw [compare_lt_iff_lt.mpr h, compare_lt_iff_lt.mpr (hlt.mp h)]
  · rw [compare_eq_iff_eq.mpr h, compare_eq_iff_eq.mpr (by omega)]
  · rw [compare_gt_iff_gt.mpr h, compare_gt_iff_gt.mpr (hgt.mp h)]

/-- An infinity is compared as its pattern is with a finite one. -/
theorem InfIn.valueKey_cmp {f : Fmt} {x y : Nat} {q : Bool} (hx : InfIn f x) (hq : negIn f x = q) (hy : FinIn f y) :
    compare (valueKey f x) (valueKey f y) = (if q then .lt else .gt) ∧
      compare (valueKey f y) (valueKey f x) = if q then .gt else .lt := by
  obtain ⟨hn, hx⟩ := hx
  simp only [FinIn, hn, Bool.false_eq_true, if_false] at hy
  unfold valueKey
  rw [hx, hq]
  cases q <;> cases negIn f y <;>
    simp only [sign_true, sign_false, Bool.false_eq_true, if_true, if_false, compare_lt_iff_lt, compare_gt_iff_gt] <;> omega

/-- The comparison of two values that were read: none beside a NaN, else that of their patterns. -/
theorem cmp_eq {f : Fmt} (hf : FmtOk f) {x y : Nat} {v w : FV} (hv : Means f x v) (hw : Means f y w) :
    (NanIn f x ∨ NanIn f y → v.cmp w = none) ∧
      (¬(NanIn f x ∨ NanIn f y) → v.cmp w = some (compare (valueKey f x) (valueKey f y))) := by
  rw [hv.nan_iff, hw.nan_iff]
  cases v with
  | nan => exact ⟨fun _ => by cases w <;> rfl, fun h => absurd (Or.inl rfl) h⟩
  | inf p =>
    cases w with
    | nan => exact ⟨fun _ => rfl, fun h => absurd (Or.inr rfl) h⟩
    | inf q =>
      refine ⟨by simp, fun _ => congrArg some ?_⟩
      obtain ⟨⟨-, hx⟩, hp⟩ := hv
      obtain ⟨⟨-, hy⟩, hq⟩ := hw
      have hpos := infBits_pos hf
      unfold valueKey
      rw [hx, hy, hp, hq]
      refine compare_congr ?_ ?_ <;> cases p <;> cases q <;> simp only [sign_true, sign_false] <;> simp <;> omega
    | fin q n k =>
      exact ⟨by simp, fun _ => congrArg some (hv.1.valueKey_cmp hv.2 hw.1).1.symm⟩
  | fin p m e =>
    cases w with
    | nan => exact ⟨fun _ => rfl, fun h => absurd (Or.inr rfl) h⟩
    | inf q =>
      exact ⟨by simp, fun _ => congrArg some (hw.1.valueKey_cmp hw.2 hv.1).2.symm⟩
    | fin q n k =>
      refine ⟨by simp, fun _ => congrArg some ?_⟩
      obtain ⟨-, -, -, hx⟩ := hv
      obtain ⟨-, -, -, hy⟩ := hw
      have hp := unitsAt_cast p m (min_le_left e k)
      have hq := unitsAt_cast q n (min_le_right e k)
      rw [← hx] at hp
      rw [← hy] at hq
      refine compare_congr ?_ ?_
      · rw [← valueOf_lt_iff, ← Int.cast_lt (R := ℝ), hp, hq, div_lt_div_iff_of_pos_right (two_zpow_pos _)]
      · rw [← valueOf_lt_iff, ← Int.cast_lt (R := ℝ), hp, hq, div_lt_div_iff_of_pos_right (two_zpow_pos _)]

/-! FMNMX. -/

theorem flushBits_eq (f : Fmt) (fl : Bool) (x : Nat) : flushBits f fl x = flushIn f fl x := by
  simp only [flushBits, flushIn, fld, Nat.shiftRight_eq_div_pow]

/-- A pattern read without a flush. -/
theorem means_read_self {f : Fmt} (hf : FmtOk f) {x : Nat} (hx : x < 2 * f.top) : Means f x (f.read false x) := by
  have hm := means_read hf false x
  rwa [show flushIn f false x = x from Nat.mod_eq_of_lt hx] at hm

/-- The flush of the statements, on an operand of 32 bits. -/
theorem flushedTo_eq (gr : Group) (ftz : Bool) {x : Nat} (hx : x < 2 ^ 32) :
    flushedTo gr ftz x = flushIn fmtF32 (flushOf gr ftz) x := by
  have hmod : x % (2 * fmtF32.top) = x := Nat.mod_eq_of_lt hx
  unfold flushIn
  rw [hmod]
  rfl

/-- The order of FMNMX: by value, −0 below +0 (06 R151). -/
theorem orderKey_lt_iff (x y : Nat) : orderKey x < orderKey y ↔
    valueKey fmtF32 x < valueKey fmtF32 y ∨
      (valueKey fmtF32 x = valueKey fmtF32 y ∧ negIn fmtF32 x = true ∧ negIn fmtF32 y = false) := by
  have htop : fmtF32.top = 2 ^ 31 := rfl
  unfold orderKey valueKey
  rw [neg_eq_negIn, neg_eq_negIn, htop]
  generalize x % 2 ^ 31 = p
  generalize y % 2 ^ 31 = q
  cases negIn fmtF32 x <;> cases negIn fmtF32 y <;> simp [sign] <;> omega

/-- A pattern of 32 bits has a place of its own in that order. -/
theorem eq_of_orderKey_eq {x y : Nat} (hx : x < 2 ^ 32) (hy : y < 2 ^ 32) (h : orderKey x = orderKey y) : x = y := by
  have htop : fmtF32.top = 2 ^ 31 := rfl
  have ex := eq_withSign (f := fmtF32) hx
  have ey := eq_withSign (f := fmtF32) hy
  rw [htop] at ex ey
  have hp : x % 2 ^ 31 < 2 ^ 31 := Nat.mod_lt _ (by decide)
  unfold orderKey at h
  rw [neg_eq_negIn, neg_eq_negIn] at h
  cases hxn : negIn fmtF32 x <;> cases hyn : negIn fmtF32 y <;> simp only [hxn, hyn, if_true, Bool.false_eq_true, if_false] at h ex ey
  · rw [ex, ey, show x % 2 ^ 31 = y % 2 ^ 31 by omega]
  · omega
  · omega
  · rw [ex, ey, show x % 2 ^ 31 = y % 2 ^ 31 by omega]

/-- Whether the first of two values lies below the second, or above it: by their comparison, or as unequal zeros. -/
def belowBy (o : Option Ordering) (p q : Bool) : Bool :=
  match o with
  | some .lt => true
  | some .gt => false
  | _ => p && !q
def aboveBy (o : Option Ordering) (p q : Bool) : Bool :=
  match o with
  | some .lt => false
  | some .gt => true
  | _ => q && !p

theorem belowBy_compare (i j : Int) (p q : Bool) :
    belowBy (some (compare i j)) p q = true ↔ i < j ∨ (i = j ∧ p = true ∧ q = false) := by
  rcases lt_trichotomy i j with h | h | h
  · rw [compare_lt_iff_lt.mpr h]; simp [belowBy, h]
  · rw [compare_eq_iff_eq.mpr h]; simp [belowBy, h]
  · rw [compare_gt_iff_gt.mpr h]; simp [belowBy, h.not_gt, h.ne']

theorem aboveBy_compare (i j : Int) (p q : Bool) :
    aboveBy (some (compare i j)) p q = true ↔ j < i ∨ (j = i ∧ q = true ∧ p = false) := by
  rcases lt_trichotomy i j with h | h | h
  · rw [compare_lt_iff_lt.mpr h]; simp [aboveBy, h.not_gt, h.ne']
  · rw [compare_eq_iff_eq.mpr h]; simp [aboveBy, h]
  · rw [compare_gt_iff_gt.mpr h]; simp [aboveBy, h]

/-- FMNMX beside a NaN: the other operand, or the canonical NaN. -/
theorem fMinMax_of_nan {f : Fmt} {hi fl : Bool} {a b : Nat} {x y : FV} (hx : f.read false (flushBits f fl a) = x)
    (hy : f.read false (flushBits f fl b) = y) :
    (x = .nan → y = .nan → fMinMax f hi fl a b = f.nanBits) ∧ (x = .nan → y ≠ .nan → fMinMax f hi fl a b = flushBits f fl b) ∧
      (x ≠ .nan → y = .nan → fMinMax f hi fl a b = flushBits f fl a) := by
  unfold fMinMax
  dsimp only
  rw [hx, hy]
  refine ⟨?_, ?_, ?_⟩
  · rintro rfl rfl; rfl
  · rintro rfl hne
    cases y with
    | nan => exact absurd rfl hne
    | inf q => rfl
    | fin q n k => rfl
  · rintro hne rfl
    cases x with
    | nan => exact absurd rfl hne
    | inf q => rfl
    | fin q n k => rfl

/-- FMNMX on two values that are no NaN. -/
theorem fMinMax_of_ordered {f : Fmt} {hi fl : Bool} {a b : Nat} {x y : FV} (hx : f.read false (flushBits f fl a) = x)
    (hy : f.read false (flushBits f fl b) = y) (hxn : x ≠ .nan) (hyn : y ≠ .nan) :
    fMinMax f hi fl a b = if (if hi then aboveBy (x.cmp y) x.neg y.neg else belowBy (x.cmp y) x.neg y.neg)
      then flushBits f fl a else flushBits f fl b := by
  have hsel : fMinMax f hi fl a b = if hi then (if aboveBy (x.cmp y) x.neg y.neg then flushBits f fl a else flushBits f fl b)
      else (if belowBy (x.cmp y) x.neg y.neg then flushBits f fl a else flushBits f fl b) := by
    unfold fMinMax
    dsimp only
    rw [hx, hy]
    cases x with
    | nan => exact absurd rfl hxn
    | inf p =>
      cases y with
      | nan => exact absurd rfl hyn
      | inf q => rfl
      | fin q n k => rfl
    | fin p m e =>
      cases y with
      | nan => exact absurd rfl hyn
      | inf q => rfl
      | fin q n k => rfl
  rw [hsel]
  cases hi <;> rfl

/-- The sign of a value that is no NaN. -/
theorem Means.neg_eq {f : Fmt} {x : Nat} {v : FV} (h : Means f x v) (hn : v ≠ .nan) : v.neg = negIn f x := by
  cases v with
  | nan => exact absurd rfl hn
  | inf neg => exact h.2.symm
  | fin neg m e => exact h.2.1.symm

/-- FMNMX returns the operand that R151 names. -/
theorem minMaxIs_fMinMax (hi fl : Bool) (a b : Nat) :
    MinMaxIs hi (flushIn fmtF32 fl a) (flushIn fmtF32 fl b) (fMinMax fmtF32 hi fl a b) := by
  have hxl : flushIn fmtF32 fl a < 2 ^ 32 := flushIn_lt fmtF32 fl a
  have hyl : flushIn fmtF32 fl b < 2 ^ 32 := flushIn_lt fmtF32 fl b
  have hx := means_read_self fmtOk_f32 hxl
  have hy := means_read_self fmtOk_f32 hyl
  have hflush := flushBits_eq fmtF32 fl
  obtain ⟨hnn, hny, hxn⟩ := fMinMax_of_nan (hi := hi) (congrArg _ (hflush a)) (congrArg _ (hflush b))
  have hord := fMinMax_of_ordered (hi := hi) (congrArg _ (hflush a)) (congrArg _ (hflush b))
  rw [hflush] at hny hxn hord
  rw [hflush] at hord
  unfold MinMaxIs
  rw [nan_iff_nanIn, nan_iff_nanIn, hx.nan_iff, hy.nan_iff]
  refine ⟨hnn, hny, hxn, fun hxv hyv => ?_⟩
  have hcmp := (cmp_eq fmtOk_f32 hx hy).2 (by rw [hx.nan_iff, hy.nan_iff]; exact not_or.mpr ⟨hxv, hyv⟩)
  rw [hord hxv hyv, hcmp, hx.neg_eq hxv, hy.neg_eq hyv]
  have hxy := orderKey_lt_iff (flushIn fmtF32 fl a) (flushIn fmtF32 fl b)
  have hyx := orderKey_lt_iff (flushIn fmtF32 fl b) (flushIn fmtF32 fl a)
  have hinj := eq_of_orderKey_eq hxl hyl
  rw [← belowBy_compare] at hxy
  rw [← aboveBy_compare] at hyx
  cases hi
  · simp only [Bool.false_eq_true, if_false, ← hxy]
    split_ifs <;> grind
  · simp only [if_true, ← hyx]
    split_ifs <;> grind

/-- What FMNMX returns is a pattern of 32 bits. -/
theorem MinMaxIs.lt {hi : Bool} {x y r : Nat} (h : MinMaxIs hi x y r) (hx : x < 2 ^ 32) (hy : y < 2 ^ 32) : r < 2 ^ 32 := by
  obtain ⟨hnn, hny, hxn, hord⟩ := h
  by_cases hxv : Nan x <;> by_cases hyv : Nan y
  · rw [hnn hxv hyv]; decide
  · rw [hny hxv hyv]; exact hy
  · rw [hxn hxv hyv]; exact hx
  · rw [hord hxv hyv]; split_ifs <;> assumption

/-! FCMP. -/

/-- FCMP's relation on the comparison of the values that were read (06 R152). -/
theorem fCmp_iff (k : FCond) (fl : Bool) (a b : Nat) :
    ((fCmp k fl a b).1 = true ↔ Floats k (flushIn fmtF32 fl a) (flushIn fmtF32 fl b)) ∧
      ((fCmp k fl a b).2.getLsbD 0 = true ↔
        ordered k = true ∧ (Nan (flushIn fmtF32 fl a) ∨ Nan (flushIn fmtF32 fl b))) := by
  obtain ⟨hun, hord⟩ := cmp_eq fmtOk_f32 (means_read fmtOk_f32 fl a) (means_read fmtOk_f32 fl b)
  have hkey : ∀ x, (if Neg x then -((x % 2 ^ 31 : Nat) : Int) else ((x % 2 ^ 31 : Nat) : Int)) = valueKey fmtF32 x := fun x => by
    unfold valueKey
    rw [neg_eq_negIn, show fmtF32.top = 2 ^ 31 from rfl]
    cases negIn fmtF32 x
    · exact (one_mul _).symm
    · exact (neg_one_mul _).symm
  unfold Floats fCmp
  simp only [hkey, nan_iff_nanIn]
  generalize flushIn fmtF32 fl a = x at *
  generalize flushIn fmtF32 fl b = y at *
  by_cases hn : NanIn fmtF32 x ∨ NanIn fmtF32 y
  · rw [hun hn]
    cases k <;> simp [hn, ordered, flagIf, fNV]
  · rw [hord hn]
    rcases lt_trichotomy (valueKey fmtF32 x) (valueKey fmtF32 y) with hlt | heq | hgt
    · rw [compare_lt_iff_lt.mpr hlt]
      cases k <;> simp [hn, flagIf, hlt, hlt.ne, hlt.le, hlt.not_gt]
    · rw [compare_eq_iff_eq.mpr heq]
      cases k <;> simp [hn, flagIf, heq]
    · rw [compare_gt_iff_gt.mpr hgt]
      cases k <;> simp [hn, flagIf, hgt, hgt.ne', hgt.le, hgt.not_gt]

section
variable {s : State} {t g : Nat} {h : Hdr} {ftz : Bool} {d a : Reg} {b : Opd}

/-- The lanes' values of FMNMX. -/
theorem minMaxIs_lane (hb : opdAligned 1 false b = true) (hi : Bool) (l : Nat) :
    MinMaxIs hi (flushedTo (s.grp t g) ftz (regGet (s.grp t g) a l 1)) (flushedTo (s.grp t g) ftz (amount (s.grp t g) b l))
      (fMinMax fmtF32 hi (flushOf (s.grp t g) ftz) (regGet (s.grp t g) a l 1) (opdGet (s.grp t g) b l 1 false)
        % 2 ^ (32 * 1)) := by
  rw [flushedTo_eq _ _ (regGet_lt _ _ _ _), flushedTo_eq _ _ (amount_lt hb _ _), opdGet_one]
  have hm := minMaxIs_fMinMax hi (flushOf (s.grp t g) ftz) (regGet (s.grp t g) a l 1) (amount (s.grp t g) b l)
  rwa [Nat.mod_eq_of_lt (hm.lt (flushIn_lt _ _ _) (flushIn_lt _ _ _))]

theorem fmnmxMin_gives (hb : opdAligned 1 false b = true) (hR : Ready (.fmnmxMin h ftz d a b) s t g) :
    Gives (.fmnmxMin h ftz d a b) s t g h d 1 fun l r => MinMaxIs false (flushedTo (s.grp t g) ftz (regGet (s.grp t g) a l 1))
      (flushedTo (s.grp t g) ftz (amount (s.grp t g) b l)) r := by
  have he : exec (.fmnmxMin h ftz d a b) s = execFmnmxMin h ftz d a b s := rfl
  exact gives_fltForm he hR.issuing (rangeOk_binary (hR.declared rfl)) (minMaxIs_lane hb false)

theorem fmnmxMax_gives (hb : opdAligned 1 false b = true) (hR : Ready (.fmnmxMax h ftz d a b) s t g) :
    Gives (.fmnmxMax h ftz d a b) s t g h d 1 fun l r => MinMaxIs true (flushedTo (s.grp t g) ftz (regGet (s.grp t g) a l 1))
      (flushedTo (s.grp t g) ftz (amount (s.grp t g) b l)) r := by
  have he : exec (.fmnmxMax h ftz d a b) s = execFmnmxMax h ftz d a b s := rfl
  exact gives_fltForm he hR.issuing (rangeOk_binary (hR.declared rfl)) (minMaxIs_lane hb true)

/-- What FCMP computes for a lane. -/
def laneCmp (gr : Group) (c : FCond) (ftz : Bool) (a : Reg) (b : Opd) (l : Nat) : Bool × Flags :=
  fCmp c (flushOf gr ftz) (regGet gr a l 1) (opdGet gr b l 1 false)

theorem laneCmp_iff (hb : opdAligned 1 false b = true) (gr : Group) (c : FCond) (l : Nat) :
    ((laneCmp gr c ftz a b l).1 = true ↔
        Floats c (flushedTo gr ftz (regGet gr a l 1)) (flushedTo gr ftz (amount gr b l))) ∧
      ((laneCmp gr c ftz a b l).2.getLsbD 0 = true ↔
        ordered c = true ∧ (Nan (flushedTo gr ftz (regGet gr a l 1)) ∨ Nan (flushedTo gr ftz (amount gr b l)))) := by
  rw [laneCmp, flushedTo_eq _ _ (regGet_lt _ _ _ _), flushedTo_eq _ _ (amount_lt hb _ _), opdGet_one]
  exact fCmp_iff _ _ _ _

/-- A comparison's predicate and flags, written together. -/
def writeCmpG (E : Lanes) (p : Nat) (v : Nat → Bool × Flags) (g : Group) : Group :=
  setFlagsG (unionFlags ((lanes E).map fun l => (v l).2)) (g.setPred p E (laneSet fun l => E.getLsbD l && (v l).1))

theorem fcmp_gives {c : FCond} {pd : BitVec 3} (hb : opdAligned 1 false b = true) (hR : Ready (.fcmp h c ftz pd a b) s t g) :
    let x (l : Nat) : Nat := flushedTo (s.grp t g) ftz (regGet (s.grp t g) a l 1)
    let y (l : Nat) : Nat := flushedTo (s.grp t g) ftz (amount (s.grp t g) b l)
    GivesPred (.fcmp h c ftz pd a b) s t g h pd (fun l => Floats c (x l) (y l)) ∧
      ∃ s', exec (.fcmp h c ftz pd a b) s = .next s' ∧
        FlagIs s s' t g 0 (.v 0) h fun l => ordered c = true ∧ (Nan (x l) ∨ Nan (y l)) := by
  have he : exec (.fcmp h c ftz pd a b) s = execFcmp h c ftz pd a b s := rfl
  have hr := rangeOk_append_opdUse (us := [.rd a 1, .wp pd.toNat]) (b := b) (k := 1) (hR.declared rfl) (by simp [Named])
    fun x hx => by simp [hx]
  have hv := fun l => laneCmp_iff (ftz := ftz) (a := a) hb (s.grp t g) c l
  have hl : Leaves (.fcmp h c ftz pd a b) s t g h (writeCmpG (eligible s t g h) pd.toNat (laneCmp (s.grp t g) c ftz a b)) :=
    leaves_of_simt _ he hR.issuing hr adv_flagPred ((setFlagsG_soft _ _).trans (setPred_soft _ _ _ _))
  refine ⟨hl.updates.givesPred (fun l ⟨hl, hE⟩ => ?_) fun l => (hv l).1, ?_⟩
  · rw [writeCmpG, setFlagsG_pred, getLsbD_pred_setPred _ _ _ _ hl hE]
  · obtain ⟨s', k, o, hx, hg⟩ := hl
    refine ⟨s', hx, ?_⟩
    have hfl := flagIs_of_issueGroup (n := 0) (d := .v 0) (fl := fun l => (laneCmp (s.grp t g) c ftz a b l).2) hg
      (by rw [writeCmpG, setFlagsG, setPred_gstat]; rfl) (by decide)
    simpa only [hv] using hfl

end

/-- Settles O8: minimum, maximum and comparison by the order of patterns. -/
theorem floatCompareResults : Obligations.FloatCompareResults := fun _ _ _ _ _ _ _ _ _ _ hb =>
  ⟨fmnmxMin_gives hb, fmnmxMax_gives hb, fcmp_gives hb⟩

end Sys2Proof.Claims
end

section
/-! Rounding into a format (03 R64, 06 R147): the nearest pattern of the statements, and what an integer multiple of a power of
two rounds to. -/

namespace Sys2Proof.Claims
open Sys2Proof.Machine

/-! What rounding to an integer keeps. -/

section
variable {r : Rnd} {x : ℝ} {n i : Int}

theorem RoundsInt.abs_sub_lt (h : RoundsInt r x n) : |(n : ℝ) - x| < 1 := by
  cases r with
  | rne => exact lt_of_le_of_lt h.1 (by norm_num)
  | rtz =>
    simp only [RoundsInt] at h
    rw [abs_lt]
    split at h <;> constructor <;> linarith [h.1, h.2]
  | rdn => rw [abs_lt]; constructor <;> linarith [h.1, h.2]
  | rup => rw [abs_lt]; constructor <;> linarith [h.1, h.2]

theorem RoundsInt.le_of_le (h : RoundsInt r x n) (hi : (i : ℝ) ≤ x) : i ≤ n := by
  have hn := (abs_lt.mp h.abs_sub_lt).1
  exact Int.lt_add_one_iff.mp (by exact_mod_cast (by linarith : (i : ℝ) < n + 1))

theorem RoundsInt.ge_of_ge (h : RoundsInt r x n) (hi : x ≤ (i : ℝ)) : n ≤ i := by
  have hn := (abs_lt.mp h.abs_sub_lt).2
  exact Int.lt_add_one_iff.mp (by exact_mod_cast (by linarith : (n : ℝ) < i + 1))

/-- No integer lies nearer than the one rounded to nearest, and only an even one as near as another. -/
theorem RoundsInt.nearest (h : RoundsInt .rne x n) (i : Int) :
    |(n : ℝ) - x| ≤ |(i : ℝ) - x| ∧ (|(n : ℝ) - x| = |(i : ℝ) - x| → i = n ∨ n % 2 = 0) := by
  obtain ⟨hle, heven⟩ := h
  by_cases hi : i = n
  · rw [hi]
    exact ⟨le_rfl, fun _ => Or.inl rfl⟩
  · have hdist : (1 : ℝ) ≤ |(i : ℝ) - n| := by
      have : (1 : Int) ≤ |i - n| := Int.one_le_abs (sub_ne_zero.mpr hi)
      exact_mod_cast this
    have htri : |(i : ℝ) - n| ≤ |(i : ℝ) - x| + |(n : ℝ) - x| := by
      rw [abs_sub_comm (n : ℝ) x]
      exact abs_sub_le _ _ _
    refine ⟨by linarith, fun heq => Or.inr (heven (le_antisymm hle ?_))⟩
    linarith

end

/-- Natural bounds of a magnitude bound what it rounds to under its sign. -/
theorem RoundsInt.natAbs_bounds {neg : Bool} {r : Rnd} {y : ℝ} {k a b : Nat}
    (h : RoundsInt r ((sign neg : Int) * y) (sign neg * (k : Int))) (ha : (a : ℝ) ≤ y) (hb : y ≤ b) : a ≤ k ∧ k ≤ b := by
  have hnear := h.abs_sub_lt
  rw [Int.cast_mul, ← mul_sub, abs_mul, abs_sign_cast, one_mul, Int.cast_natCast, abs_lt] at hnear
  constructor
  · exact Nat.lt_add_one_iff.mp (by exact_mod_cast (by linarith [hnear.1] : (a : ℝ) < k + 1))
  · exact Nat.lt_add_one_iff.mp (by exact_mod_cast (by linarith [hnear.2] : (k : ℝ) < b + 1))

/-- The directions on the magnitude: towards zero or away from it. -/
theorem RoundsInt.magnitude {neg : Bool} {r : Rnd} {y : ℝ} {k : Nat} (hy : 0 < y)
    (h : RoundsInt r ((sign neg : Int) * y) (sign neg * (k : Int))) :
    match r with
    | .rne => |(k : ℝ) - y| ≤ 1 / 2 ∧ (|(k : ℝ) - y| = 1 / 2 → k % 2 = 0)
    | .rtz => (k : ℝ) ≤ y ∧ y < k + 1
    | .rdn => if neg then y ≤ k ∧ (k : ℝ) < y + 1 else (k : ℝ) ≤ y ∧ y < k + 1
    | .rup => if neg then (k : ℝ) ≤ y ∧ y < k + 1 else y ≤ k ∧ (k : ℝ) < y + 1 := by
  cases r with
  | rne =>
    simp only [RoundsInt] at h
    rw [Int.cast_mul, ← mul_sub, abs_mul, abs_sign_cast, one_mul, Int.cast_natCast] at h
    refine ⟨h.1, fun he => ?_⟩
    have := h.2 he
    cases neg <;> simp [sign] at this <;> omega
  | rtz =>
    cases neg <;> simp [RoundsInt, hy.le, hy.not_ge] at h ⊢ <;> constructor <;> linarith [h.1, h.2]
  | rdn => cases neg <;> simp [RoundsInt] at h ⊢ <;> constructor <;> linarith [h.1, h.2]
  | rup => cases neg <;> simp [RoundsInt] at h ⊢ <;> constructor <;> linarith [h.1, h.2]

/-! The grid of finite patterns. -/

/-- A magnitude is a multiple of 2^j units, or lies below the normal numbers of that spacing. -/
theorem magVal_grid (f : Fmt) (p j : Nat) : 2 ^ j ∣ magVal f p ∨ magVal f p < 2 ^ f.fb * 2 ^ j := by
  have hfr : p % 2 ^ f.fb < 2 ^ f.fb := Nat.mod_lt _ (Nat.two_pow_pos _)
  unfold magVal
  split
  · refine Or.inr (hfr.trans_le (Nat.le_mul_of_pos_right _ (Nat.two_pow_pos _)))
  · next h0 =>
    by_cases hj : j ≤ p / 2 ^ f.fb - 1
    · exact Or.inl (dvd_mul_of_dvd_right (pow_dvd_pow 2 hj) _)
    · refine Or.inr ?_
      calc (2 ^ f.fb + p % 2 ^ f.fb) * 2 ^ (p / 2 ^ f.fb - 1)
          < (2 ^ f.fb * 2) * 2 ^ (p / 2 ^ f.fb - 1) := Nat.mul_lt_mul_of_pos_right (by omega) (Nat.two_pow_pos _)
        _ = 2 ^ f.fb * 2 ^ (p / 2 ^ f.fb - 1 + 1) := by rw [Nat.pow_succ]; ring
        _ ≤ 2 ^ f.fb * 2 ^ j := Nat.mul_le_mul_left _ (Nat.pow_le_pow_right (by omega) (by omega))

/-- The value of a pattern in units of 2^q: an integer, or of less magnitude than the normal numbers of that spacing. -/
theorem valueOf_grid (f : Fmt) {q : Int} (hq : f.emin ≤ q) (y : Nat) :
    (∃ i : Int, ((valueOf f y : ℚ) : ℝ) / 2 ^ q = i) ∨
      (f.emin < q ∧ |((valueOf f y : ℚ) : ℝ) / 2 ^ q| < ((2 ^ f.fb : Nat) : Int)) := by
  have hpow : (2 : ℝ) ^ f.emin / 2 ^ q = 1 / ((2 ^ (q - f.emin).toNat : Nat) : ℝ) := by
    rw [two_pow_toNat (by omega), zpow_sub₀ two_ne_zero]
    field_simp
  have hval : ((valueOf f y : ℚ) : ℝ) / 2 ^ q =
      (sign (negIn f y) : Int) * ((magVal f (y % f.top) : ℝ) / ((2 ^ (q - f.emin).toNat : Nat) : ℝ)) := by
    rw [valueOf_cast, mul_div_assoc, mul_div_assoc, hpow, ← mul_div_assoc, mul_one]
  have hpos : (0 : ℝ) < ((2 ^ (q - f.emin).toNat : Nat) : ℝ) := Nat.cast_pos.mpr (Nat.two_pow_pos _)
  rcases magVal_grid f (y % f.top) (q - f.emin).toNat with ⟨k, hk⟩ | hlt
  · refine Or.inl ⟨sign (negIn f y) * k, ?_⟩
    rw [hval, hk, Nat.cast_mul, mul_div_cancel_left₀ _ hpos.ne']
    push_cast
    rfl
  · rcases hq.lt_or_eq with hlt' | heq
    · refine Or.inr ⟨hlt', ?_⟩
      rw [hval, abs_mul, abs_sign_cast, one_mul, abs_of_nonneg (by positivity), div_lt_iff₀ hpos]
      exact_mod_cast hlt
    · refine Or.inl ⟨sign (negIn f y) * magVal f (y % f.top), ?_⟩
      rw [hval, ← heq, Int.sub_self]
      push_cast
      simp

/-! The best of such values for x, in units of 2^q, by direction. -/

section
variable {v x : ℝ} {n : Int} {b : Nat}

/-- A value of the grid: an integer, or of less magnitude than b, and x of no less. -/
def OnGrid (b : Nat) (x v : ℝ) : Prop := (∃ i : Int, v = i) ∨ (|v| < ((b : Int) : ℝ) ∧ ((b : Int) : ℝ) ≤ |x|)

/-- A value of the grid and x have an integer between them, if it is not an integer itself. -/
theorem OnGrid.exists_int_between (h : OnGrid b x v) :
    ∃ i : Int, v = i ∨ (v ≤ i ∧ (i : ℝ) ≤ x) ∨ (x ≤ i ∧ (i : ℝ) ≤ v) := by
  obtain ⟨i, hi⟩ | ⟨hv, hx⟩ := h
  · exact ⟨i, Or.inl hi⟩
  · rw [abs_lt] at hv
    rcases le_or_gt 0 x with h0 | h0
    · rw [abs_of_nonneg h0] at hx
      exact ⟨b, Or.inr (Or.inl ⟨hv.2.le, hx⟩)⟩
    · rw [abs_of_neg h0] at hx
      refine ⟨-b, Or.inr (Or.inr ⟨?_, ?_⟩)⟩ <;> push_cast at hx hv ⊢ <;> linarith [hv.1]

/-- The same of magnitudes. -/
theorem OnGrid.exists_nat_between (h : OnGrid b x v) (hle : |v| ≤ |x|) : ∃ j : Nat, |v| ≤ j ∧ (j : ℝ) ≤ |x| := by
  obtain ⟨i, hi⟩ | ⟨hv, hx⟩ := h
  · have habs : |v| = (i.natAbs : ℝ) := by rw [hi, Nat.cast_natAbs, Int.cast_abs]
    exact ⟨i.natAbs, habs.le, habs ▸ hle⟩
  · exact ⟨b, by exact_mod_cast hv.le, by exact_mod_cast hx⟩

theorem OnGrid.nearest (h : OnGrid b x v) (hn : RoundsInt .rne x n) :
    |(n : ℝ) - x| ≤ |v - x| ∧ (|(n : ℝ) - x| = |v - x| → v = n ∨ n % 2 = 0) := by
  obtain ⟨i, hi⟩ := h.exists_int_between
  obtain ⟨hle, htie⟩ := hn.nearest i
  have hib : |(i : ℝ) - x| ≤ |v - x| ∧ (|(i : ℝ) - x| = |v - x| → v = i) := by
    obtain rfl | ⟨h1, h2⟩ | ⟨h1, h2⟩ := hi
    · exact ⟨le_rfl, fun _ => rfl⟩
    · rw [abs_of_nonpos (by linarith), abs_of_nonpos (by linarith)]
      exact ⟨by linarith, fun _ => by linarith⟩
    · rw [abs_of_nonneg (by linarith), abs_of_nonneg (by linarith)]
      exact ⟨by linarith, fun _ => by linarith⟩
  refine ⟨hle.trans hib.1, fun heq => ?_⟩
  have hmid := le_antisymm hle (heq ▸ hib.1)
  exact (htie hmid).imp_left fun hin => by rw [← hin]; exact hib.2 (hmid ▸ heq)

/-- Rounding towards zero takes the greatest magnitude that is not above that of x. -/
theorem RoundsInt.towards_zero (hn : RoundsInt .rtz x n) :
    |(n : ℝ)| ≤ |x| ∧ ∀ j : Nat, (j : ℝ) ≤ |x| → (j : ℝ) ≤ |(n : ℝ)| := by
  simp only [RoundsInt] at hn
  by_cases h0 : 0 ≤ x
  · rw [if_pos h0] at hn
    have hn0 : (0 : ℝ) ≤ n := Int.cast_nonneg (RoundsInt.le_of_le (r := .rdn) hn (by simpa using h0))
    rw [abs_of_nonneg h0, abs_of_nonneg hn0]
    exact ⟨hn.1, fun j hj => by exact_mod_cast RoundsInt.le_of_le (r := .rdn) (i := (j : Int)) hn (by exact_mod_cast hj)⟩
  · rw [if_neg h0] at hn
    have hx0 := not_le.mp h0
    have hn0 : (n : ℝ) ≤ 0 := by exact_mod_cast RoundsInt.ge_of_ge (r := .rup) (i := 0) hn (by simpa using hx0.le)
    rw [abs_of_neg hx0, abs_of_nonpos hn0]
    refine ⟨neg_le_neg hn.1, fun j hj => ?_⟩
    have : n ≤ -(j : Int) := RoundsInt.ge_of_ge (r := .rup) hn (by push_cast; linarith)
    have : (n : ℝ) ≤ -(j : ℝ) := by exact_mod_cast this
    linarith

theorem OnGrid.abs_le_of_rtz (h : OnGrid b x v) (hn : RoundsInt .rtz x n) (hle : |v| ≤ |x|) : |v| ≤ |(n : ℝ)| := by
  obtain ⟨j, hj, hjx⟩ := h.exists_nat_between hle
  exact hj.trans (hn.towards_zero.2 j hjx)

theorem OnGrid.le_of_rdn (h : OnGrid b x v) (hn : RoundsInt .rdn x n) (hle : v ≤ x) : v ≤ n := by
  obtain ⟨i, hi⟩ := h.exists_int_between
  have hix : v ≤ i ∧ (i : ℝ) ≤ x := by
    obtain heq | h | h := hi
    · exact ⟨heq.le, heq ▸ hle⟩
    · exact h
    · exact ⟨hle.trans h.1, h.2.trans hle⟩
  exact hix.1.trans (Int.cast_le.mpr (hn.le_of_le hix.2))

theorem OnGrid.ge_of_rup (h : OnGrid b x v) (hn : RoundsInt .rup x n) (hle : x ≤ v) : (n : ℝ) ≤ v := by
  obtain ⟨i, hi⟩ := h.exists_int_between
  have hix : (i : ℝ) ≤ v ∧ x ≤ i := by
    obtain heq | h | h := hi
    · exact ⟨heq.ge, heq ▸ hle⟩
    · exact ⟨h.2.trans hle, hle.trans h.1⟩
    · exact ⟨h.2, h.1⟩
  exact (Int.cast_le.mpr (hn.ge_of_ge hix.2)).trans hix.1

end

/-- Among the finite patterns the one whose value is the integer that x rounds to, in units of 2^q, is the nearest of the
direction: every other value is a multiple of 2^q too, or lies beyond a multiple of 2^q as seen from x. -/
theorem nearestIn_of_roundsInt {f : Fmt} {rnd : Rnd} {x : ℝ} {q n : Int} {r : Nat} (hlt : r < 2 * f.top) (hfin : FinIn f r)
    (hneg : negIn f r = true ↔ x < 0) (hval : ((valueOf f r : ℚ) : ℝ) = n * 2 ^ q) (hpar : n % 2 = 0 → r % 2 = 0)
    (hn : RoundsInt rnd (x / 2 ^ q) n) (hq : f.emin ≤ q)
    (hx : f.emin < q → (((2 ^ f.fb : Nat) : Int) : ℝ) ≤ |x / 2 ^ q|) : NearestIn f rnd x r := by
  have hp : (0 : ℝ) < 2 ^ q := two_zpow_pos q
  have hle : ∀ v w : ℝ, v ≤ w ↔ v / 2 ^ q ≤ w / 2 ^ q := fun v w => (div_le_div_iff_of_pos_right hp).symm
  have habs : ∀ v : ℝ, |v| / 2 ^ q = |v / 2 ^ q| := fun v => by rw [abs_div, abs_of_pos hp]
  have hsub : ∀ v : ℝ, |v - x| / 2 ^ q = |v / 2 ^ q - x / 2 ^ q| := fun v => by rw [habs, sub_div]
  have heq : ∀ v w : ℝ, v = w ↔ v / 2 ^ q = w / 2 ^ q := fun v w => (div_left_inj' hp.ne').symm
  have hr : ((valueOf f r : ℚ) : ℝ) / 2 ^ q = n := by rw [hval, mul_div_assoc, div_self hp.ne', mul_one]
  have hgrid : ∀ y, OnGrid (2 ^ f.fb) (x / 2 ^ q) (((valueOf f y : ℚ) : ℝ) / 2 ^ q) := fun y =>
    (valueOf_grid f hq y).imp_right fun ⟨he, hv⟩ => ⟨hv, hx he⟩
  refine ⟨hlt, hfin, hneg, ?_⟩
  cases rnd with
  | rne =>
    intro y _
    beta_reduce
    rw [hle, heq |_ - x|, heq (valueOf f y : ℚ), hsub, hsub, hr]
    obtain ⟨hnear, htie⟩ := (hgrid y).nearest hn
    exact ⟨hnear, fun h => (htie h).imp_right hpar⟩
  | rtz =>
    refine ⟨?_, fun y _ => ?_⟩ <;> beta_reduce
    · rw [hle, habs, habs, hr]; exact hn.towards_zero.1
    · rw [hle, hle |_| |((valueOf f r : ℚ) : ℝ)|, habs, habs, habs, hr]; exact (hgrid y).abs_le_of_rtz hn
  | rdn =>
    refine ⟨?_, fun y _ => ?_⟩ <;> beta_reduce
    · rw [hle, hr]; exact hn.1
    · rw [hle, hle _ (valueOf f r : ℚ), hr]; exact (hgrid y).le_of_rdn hn
  | rup =>
    refine ⟨?_, fun y _ => ?_⟩ <;> beta_reduce
    · rw [hle, hr]; exact hn.1
    · rw [hle, hle (valueOf f r : ℚ), hr]; exact (hgrid y).ge_of_rup hn

end Sys2Proof.Claims
end

section
/-! Fmt.round and Fmt.write (03 Table 3.2, 06 R147): overflow, the pattern of a rounded magnitude, and RoundsTo. -/

namespace Sys2Proof.Claims
open Sys2Proof.Machine

/-! The greatest finite value. -/

/-- The greatest significand, and its exponent. -/
def maxSig (f : Fmt) : Nat := if f.noInf then 2 ^ (f.fb + 1) - 2 else 2 ^ (f.fb + 1) - 1
def maxExp (f : Fmt) : Int := f.emin + (2 ^ f.eb - (if f.noInf then 2 else 3) : Nat)

theorem topGap_cast (f : Fmt) : ((topGap f : ℚ) : ℝ) = 2 ^ maxExp f := by
  unfold topGap maxExp
  push_cast
  rfl

section
variable {f : Fmt} (hf : FmtOk f)
include hf

theorem four_le_two_pow_eb : 4 ≤ 2 ^ f.eb := Nat.pow_le_pow_right (n := 2) (by omega) hf.eb

theorem two_le_two_pow_fb : 2 ≤ 2 ^ f.fb := Nat.pow_le_pow_right (n := 2) (by omega) hf.fb

theorem maxSig_bounds : 2 ^ f.fb ≤ maxSig f ∧ maxSig f + 1 ≤ 2 ^ (f.fb + 1) ∧ (maxSig f % 2 = 1 ↔ f.noInf = false) := by
  have hF := two_le_two_pow_fb hf
  unfold maxSig
  rw [Nat.pow_succ]
  cases f.noInf
  · simp only [Bool.false_eq_true, if_false, iff_true]; omega
  · simp only [if_true, Bool.true_eq_false, iff_false]; omega

/-- The greatest finite magnitude. -/
theorem magVal_maxBits : magVal f f.maxBits = maxSig f * 2 ^ (maxExp f - f.emin).toNat := by
  have hE := four_le_two_pow_eb hf
  have hF := two_le_two_pow_fb hf
  have hexp : (maxExp f - f.emin).toNat = 2 ^ f.eb - if f.noInf then 2 else 3 := by unfold maxExp; omega
  have hfields : f.maxBits = (2 ^ f.eb - if f.noInf then 1 else 2) * 2 ^ f.fb + (2 ^ f.fb - if f.noInf then 2 else 1) := by
    unfold Fmt.maxBits Fmt.infBits
    obtain ⟨e, he⟩ := Nat.exists_eq_add_of_le hE
    rw [he]
    cases f.noInf <;> simp only [Bool.false_eq_true, if_true, if_false] <;>
      rw [show 4 + e - 1 = e + 3 by omega] <;> simp only [show 4 + e - 2 = e + 2 by omega, Nat.add_mul] <;> omega
  rw [hfields, magVal_fields f _ (by split <;> omega), if_neg (by split <;> omega), hexp]
  unfold maxSig
  rw [Nat.pow_succ]
  cases f.noInf <;> simp only [Bool.false_eq_true, if_true, if_false] <;> congr 1 <;> omega

theorem maxBits_lt_top : f.maxBits < f.top := by
  have hpos : 0 < f.infBits := infBits_pos hf
  have hF := two_le_two_pow_fb hf
  have htop := infBits_add f
  unfold Fmt.maxBits
  split <;> omega

theorem infBits_nanBits_lt_top : f.infBits < f.top ∧ f.nanBits < f.top := by
  have hF := two_le_two_pow_fb hf
  have htop := infBits_add f
  have hhalf : 2 ^ (f.fb - 1) < 2 ^ f.fb := Nat.pow_lt_pow_right (by omega) (by have := hf.fb; omega)
  unfold Fmt.nanBits
  refine ⟨by omega, ?_⟩
  split <;> omega

theorem valueOf_maxBits : ((valueOf f f.maxBits : ℚ) : ℝ) = maxSig f * 2 ^ maxExp f := by
  have hlt := maxBits_lt_top hf
  have hneg : negIn f f.maxBits = false := Nat.testBit_lt_two_pow hlt
  have hexp : 0 ≤ maxExp f - f.emin := by unfold maxExp; omega
  rw [valueOf_cast, hneg, Nat.mod_eq_of_lt hlt, magVal_maxBits hf, Nat.cast_mul, two_pow_toNat hexp, sign_false, Int.cast_one,
    one_mul, mul_assoc, ← zpow_add₀ two_ne_zero, Int.sub_add_cancel]

/-! Overflow. -/

/-- Beyond, on the magnitude in units of the greatest spacing. -/
theorem beyond_iff (rnd : Rnd) (neg : Bool) {y : ℝ} (hy : 0 < y) :
    Beyond f rnd ((sign neg : Int) * (y * 2 ^ maxExp f)) ↔
      match rnd with
      | .rne => (maxSig f : ℝ) + 1 / 2 < y ∨ (f.noInf = false ∧ (maxSig f : ℝ) + 1 / 2 = y)
      | .rtz => (maxSig f : ℝ) + 1 ≤ y
      | .rdn => if neg then (maxSig f : ℝ) < y else (maxSig f : ℝ) + 1 ≤ y
      | .rup => if neg then (maxSig f : ℝ) + 1 ≤ y else (maxSig f : ℝ) < y := by
  have hp : (0 : ℝ) < 2 ^ maxExp f := two_zpow_pos _
  have hyp : 0 < y * 2 ^ maxExp f := mul_pos hy hp
  have habs : |((sign neg : Int) : ℝ) * (y * 2 ^ maxExp f)| = y * 2 ^ maxExp f := by
    rw [abs_mul, abs_sign_cast, one_mul, abs_of_pos hyp]
  have hneg := sign_mul_neg_iff neg hyp
  have hposi : 0 < ((sign neg : Int) : ℝ) * (y * 2 ^ maxExp f) ↔ neg = false := by
    cases neg
    · simpa using hyp
    · simpa using hyp.le
  have hhalf : (maxSig f : ℝ) * 2 ^ maxExp f + 2 ^ maxExp f / 2 = ((maxSig f : ℝ) + 1 / 2) * 2 ^ maxExp f := by ring
  have hone : (maxSig f : ℝ) * 2 ^ maxExp f + 2 ^ maxExp f = ((maxSig f : ℝ) + 1) * 2 ^ maxExp f := by ring
  unfold Beyond
  simp only [valueOf_maxBits hf, topGap_cast, habs, hneg, hposi, hhalf, hone, mul_lt_mul_iff_left₀ hp, mul_le_mul_iff_left₀ hp,
    mul_left_inj' hp.ne']
  cases rnd <;> cases neg <;> simp

theorem not_beyond_of_le (rnd : Rnd) (neg : Bool) {y : ℝ} (hy : 0 < y) (h : y ≤ maxSig f) :
    ¬Beyond f rnd ((sign neg : Int) * (y * 2 ^ maxExp f)) := by
  rw [beyond_iff hf rnd neg hy]
  cases rnd with
  | rne => rintro (h' | ⟨-, h'⟩) <;> linarith
  | rtz => exact not_le.mpr (by linarith)
  | rdn => cases neg <;> simp <;> linarith
  | rup => cases neg <;> simp <;> linarith

theorem beyond_of_le (rnd : Rnd) (neg : Bool) {y : ℝ} (hy : 0 < y) (h : (maxSig f : ℝ) + 1 ≤ y) :
    Beyond f rnd ((sign neg : Int) * (y * 2 ^ maxExp f)) := by
  rw [beyond_iff hf rnd neg hy]
  cases rnd with
  | rne => exact Or.inl (by linarith)
  | rtz => exact h
  | rdn => cases neg <;> simp <;> linarith
  | rup => cases neg <;> simp <;> linarith

/-- A magnitude rounds above the greatest significand, in units of the greatest spacing, exactly where it lies beyond. -/
theorem maxSig_lt_iff {rnd : Rnd} {neg : Bool} {y : ℝ} {k : Nat} (hy : 0 < y)
    (hk : RoundsInt rnd ((sign neg : Int) * y) (sign neg * (k : Int))) :
    Beyond f rnd ((sign neg : Int) * (y * 2 ^ maxExp f)) ↔ maxSig f < k := by
  obtain ⟨-, -, hodd⟩ := maxSig_bounds hf
  have hmag := hk.magnitude hy
  rw [beyond_iff hf rnd neg hy]
  have hgt : maxSig f < k → (maxSig f : ℝ) + 1 ≤ k := fun h => by exact_mod_cast h
  have hle : ¬maxSig f < k → (k : ℝ) ≤ maxSig f := fun h => by exact_mod_cast not_lt.mp h
  have floor : (k : ℝ) ≤ y → y < k + 1 → ((maxSig f : ℝ) + 1 ≤ y ↔ maxSig f < k) := fun h1 h2 => by
    refine ⟨fun h => ?_, fun h => (hgt h).trans h1⟩
    by_contra hc
    linarith [hle hc]
  have ceil : y ≤ k → (k : ℝ) < y + 1 → ((maxSig f : ℝ) < y ↔ maxSig f < k) := fun h1 h2 => by
    refine ⟨fun h => ?_, fun h => ?_⟩
    · by_contra hc
      linarith [hle hc]
    · linarith [hgt h]
  cases rnd with
  | rne =>
    obtain ⟨hnear, heven⟩ := hmag
    rw [abs_le] at hnear
    dsimp only
    constructor
    · intro h
      by_contra hc
      have hkm := hle hc
      obtain h | ⟨hinf, h⟩ := h
      · linarith
      · have hkeq : (k : ℝ) = maxSig f := by linarith
        have hke : k = maxSig f := by exact_mod_cast hkeq
        have := heven (by rw [← h, hkeq, abs_of_neg (by linarith)]; ring)
        have := hodd.mpr hinf
        omega
    · intro h
      have hkm := hgt h
      rcases lt_or_eq_of_le (by linarith : (maxSig f : ℝ) + 1 / 2 ≤ y) with hlt | heq
      · exact Or.inl hlt
      · have hkeq : (k : ℝ) = maxSig f + 1 := by linarith
        have hke : k = maxSig f + 1 := by exact_mod_cast hkeq
        have := heven (by rw [← heq, hkeq, abs_of_pos (by linarith)]; ring)
        exact Or.inr ⟨hodd.mp (by omega), heq⟩
  | rtz => exact floor hmag.1 hmag.2
  | rdn => cases neg <;> simp only [if_true, Bool.false_eq_true, if_false] at hmag ⊢ <;> [exact floor hmag.1 hmag.2; exact ceil hmag.1 hmag.2]
  | rup => cases neg <;> simp only [if_true, Bool.false_eq_true, if_false] at hmag ⊢ <;> [exact ceil hmag.1 hmag.2; exact floor hmag.1 hmag.2]

/-- The same in units of any spacing that the magnitude fills: fb + 1 bits before the point. -/
theorem ltScaled_iff_beyond {rnd : Rnd} {neg : Bool} {y : ℝ} {k : Nat} {q : Int}
    (hlo : ((2 ^ f.fb : Nat) : ℝ) * 2 ^ q ≤ y) (hhi : y < ((2 ^ (f.fb + 1) : Nat) : ℝ) * 2 ^ q)
    (hk : RoundsInt rnd ((sign neg : Int) * (y / 2 ^ q)) (sign neg * (k : Int))) :
    ltScaled (maxSig f) (maxExp f) k q = true ↔ Beyond f rnd ((sign neg : Int) * y) := by
  obtain ⟨hmlo, hmhi, -⟩ := maxSig_bounds hf
  have hmlo' : ((2 ^ f.fb : Nat) : ℝ) ≤ maxSig f := by exact_mod_cast hmlo
  have hmhi' : (maxSig f : ℝ) + 1 ≤ ((2 ^ (f.fb + 1) : Nat) : ℝ) := by exact_mod_cast hmhi
  have hp : ∀ z : Int, (0 : ℝ) < 2 ^ z := two_zpow_pos
  have hF : (0 : ℝ) < ((2 ^ f.fb : Nat) : ℝ) := Nat.cast_pos.mpr (Nat.two_pow_pos _)
  have hFF : ((2 ^ (f.fb + 1) : Nat) : ℝ) = ((2 ^ f.fb : Nat) : ℝ) * 2 := by rw [Nat.pow_succ]; push_cast; rfl
  have hy0 : 0 < y := lt_of_lt_of_le (mul_pos hF (hp q)) hlo
  obtain ⟨hklo, hkhi⟩ := hk.natAbs_bounds ((le_div_iff₀ (hp q)).mpr hlo) ((div_lt_iff₀ (hp q)).mpr hhi).le
  have hklo' : ((2 ^ f.fb : Nat) : ℝ) ≤ k := by exact_mod_cast hklo
  have hkhi' : (k : ℝ) ≤ ((2 ^ (f.fb + 1) : Nat) : ℝ) := by exact_mod_cast hkhi
  have hscale : y = y / 2 ^ maxExp f * 2 ^ maxExp f := (div_mul_cancel₀ y (hp _).ne').symm
  rw [ltScaled_iff]
  rcases lt_trichotomy q (maxExp f) with hq | rfl | hq
  · have hstep : (2 : ℝ) ^ q * 2 ≤ 2 ^ maxExp f := by
      rw [← zpow_add_one₀ two_ne_zero]
      exact zpow_le_zpow_right₀ one_le_two hq
    have hsmall : y / 2 ^ maxExp f < maxSig f := by
      rw [div_lt_iff₀ (hp _)]
      calc y < ((2 ^ f.fb : Nat) : ℝ) * (2 ^ q * 2) := by rw [hFF] at hhi; linarith
        _ ≤ maxSig f * 2 ^ maxExp f := mul_le_mul hmlo' hstep (by positivity) (by positivity)
    refine iff_of_false (not_lt.mpr ?_) (hscale ▸ not_beyond_of_le hf rnd neg (div_pos hy0 (hp _)) hsmall.le)
    calc (k : ℝ) * 2 ^ q ≤ ((2 ^ f.fb : Nat) : ℝ) * (2 ^ q * 2) := by rw [hFF] at hkhi'; nlinarith [hp q]
      _ ≤ maxSig f * 2 ^ maxExp f := mul_le_mul hmlo' hstep (by positivity) (by positivity)
  · rw [mul_lt_mul_iff_left₀ (hp _), Nat.cast_lt, ← maxSig_lt_iff hf (div_pos hy0 (hp _)) hk, ← hscale]
  · have hstep : (2 : ℝ) ^ maxExp f * 2 ≤ 2 ^ q := by
      rw [← zpow_add_one₀ two_ne_zero]
      exact zpow_le_zpow_right₀ one_le_two hq
    have hspan : ((maxSig f : ℝ) + 1) * 2 ^ maxExp f ≤ ((2 ^ f.fb : Nat) : ℝ) * 2 ^ q := by
      calc ((maxSig f : ℝ) + 1) * 2 ^ maxExp f ≤ ((2 ^ f.fb : Nat) : ℝ) * (2 ^ maxExp f * 2) := by
            rw [hFF] at hmhi'; nlinarith [hp (maxExp f)]
        _ ≤ ((2 ^ f.fb : Nat) : ℝ) * 2 ^ q := mul_le_mul_of_nonneg_left hstep hF.le
    have hlarge : (maxSig f : ℝ) + 1 ≤ y / 2 ^ maxExp f := (le_div_iff₀ (hp _)).mpr (hspan.trans hlo)
    refine iff_of_true ?_ (hscale ▸ beyond_of_le hf rnd neg (div_pos hy0 (hp _)) hlarge)
    nlinarith [hp (maxExp f), mul_le_mul_of_nonneg_right hklo' (hp q).le]

/-- The result of an overflow (03 Table 3.2). -/
theorem overflowIs_overflow (rnd : Rnd) (nosat neg : Bool) : OverflowIs f rnd nosat neg (f.overflow rnd nosat neg).1 := by
  have h8 := hf.eb8
  have hinf := hf.inf
  unfold OverflowIs Fmt.overflow
  by_cases heb : f.eb = 8
  · simp only [heb, hinf heb, if_true, lt_irrefl, decide_false, Bool.false_and, Bool.false_eq_true, if_false]
    cases rnd <;> cases neg <;> rfl
  · have hsmall : f.eb < 8 := by omega
    cases nosat
    · simp only [heb, hsmall, Bool.and_false, Bool.not_false, decide_true, Bool.and_self, if_true, if_false, Bool.false_eq_true]
      rfl
    · cases hn : f.noInf
      · simp only [heb, Bool.not_true, Bool.and_false, Bool.false_and, Bool.false_eq_true, Bool.true_eq_false, if_false]
        rintro rfl
        rfl
      · simp only [heb, Bool.and_self, if_true, if_false, Bool.true_eq_false]

end

end Sys2Proof.Claims
end

section
/-! Fmt.round as RoundsTo: the pattern of a rounded magnitude, normal or subnormal, and the flush (06 R147). -/

namespace Sys2Proof.Claims
open Sys2Proof.Machine

/-! The pattern of k units of 2^j. -/

/-- A significand of up to fb + 2 bits put at the exponent j units above the least: a carry moves into the exponent. -/
def packMag (f : Fmt) (j k : Nat) : Nat := j * 2 ^ f.fb + k

theorem magVal_packMag {f : Fmt} {j k : Nat} (hk : k ≤ 2 ^ (f.fb + 1)) (hj : 0 < j → 2 ^ f.fb ≤ k) :
    magVal f (packMag f j k) = k * 2 ^ j := by
  rw [Nat.pow_succ] at hk
  unfold packMag
  rcases Nat.lt_or_ge k (2 ^ f.fb) with hlt | hge
  · have hj0 : j = 0 := by omega
    rw [magVal_fields f j hlt, if_pos hj0, hj0, Nat.pow_zero, Nat.mul_one]
  · rcases hk.lt_or_eq with hlt | heq
    · have hsplit : j * 2 ^ f.fb + k = (j + 1) * 2 ^ f.fb + (k - 2 ^ f.fb) := by rw [Nat.add_mul, Nat.one_mul]; omega
      rw [hsplit, magVal_fields f (j + 1) (by omega), if_neg (Nat.succ_ne_zero j), Nat.add_sub_cancel, Nat.add_sub_cancel' hge]
    · have hsplit : j * 2 ^ f.fb + k = (j + 2) * 2 ^ f.fb + 0 := by rw [Nat.add_mul, heq]; omega
      rw [hsplit, magVal_fields f (j + 2) (Nat.two_pow_pos _), if_neg (Nat.succ_ne_zero _), Nat.add_zero, heq,
        show j + 2 - 1 = j + 1 by omega, Nat.pow_succ]
      ring

theorem packMag_mod_two {f : Fmt} (hf : FmtOk f) (j k : Nat) : packMag f j k % 2 = k % 2 := by
  obtain ⟨b, hb⟩ := Nat.exists_eq_add_of_le' hf.fb
  rw [packMag, hb, Nat.pow_succ, ← Nat.mul_assoc]
  omega

/-- The flush of a magnitude under a sign. -/
theorem flushIn_withSign {f : Fmt} {p : Nat} (hp : p < f.top) (fl neg : Bool) :
    flushIn f fl (withSign f neg p) = withSign f neg (if fl && decide (p < 2 ^ f.fb) then 0 else p) := by
  have hmod := withSign_mod_top neg hp
  have hexp : withSign f neg p / 2 ^ f.fb % 2 ^ f.eb = p / 2 ^ f.fb := by
    rw [← Nat.mod_mul_right_div_self, Nat.mul_comm, ← fmtTop_eq, hmod]
  have hzero : (p / 2 ^ f.fb == 0) = decide (p < 2 ^ f.fb) := by
    rw [beq_eq_decide, decide_eq_decide, Nat.div_eq_zero_iff_lt (Nat.two_pow_pos _)]
  rw [flushIn_eq, negIn_withSign neg hp, hmod, hexp, hzero]

/-- Fmt.round, where it does not overflow: the packed magnitude, flushed. -/
theorem round_eq (f : Fmt) (r : Rnd) (fl nosat neg : Bool) (n d : Nat) {q : Int} {k : Nat}
    (hq : q = max (topOf n d - f.fb) f.emin) (hk : k = (roundAt neg r n d q).1) (hk2 : k ≤ 2 ^ (f.fb + 1))
    (hj : f.emin < q → 2 ^ f.fb ≤ k) :
    (f.round r fl nosat neg n d).1 =
      if ltScaled (maxSig f) (maxExp f) (roundAt neg r n d (topOf n d - f.fb)).1 (topOf n d - f.fb)
      then (f.overflow r nosat neg).1
      else withSign f neg (if fl && decide (packMag f (q - f.emin).toNat k < 2 ^ f.fb) then 0
        else packMag f (q - f.emin).toNat k) := by
  rw [Nat.pow_succ] at hk2
  have hF := Nat.two_pow_pos f.fb
  have hemin : f.emin ≤ q := hq ▸ le_max_right _ _
  obtain ⟨j, hje⟩ : ∃ j : Nat, q = f.emin + j := ⟨(q - f.emin).toNat, by omega⟩
  have hjt : (q - f.emin).toNat = j := by omega
  unfold Fmt.round
  dsimp only
  rw [← hq, ← hk, hjt]
  change (if ltScaled (maxSig f) (maxExp f) _ _ then _ else _ : Nat × Flags).1 = _
  split
  · rfl
  · unfold packMag
    by_cases hbig : k ≥ 2 * 2 ^ f.fb
    · have hkeq : k = 2 * 2 ^ f.fb := by omega
      have hhalf : k / 2 = 2 ^ f.fb := by omega
      rw [if_pos hbig]
      dsimp only
      rw [hhalf, if_pos (le_refl (2 ^ f.fb)), if_neg (by simp; intro _; omega)]
      show withSign f neg _ = _
      rw [show (q + 1 - f.emin + 1).toNat = j + 2 by omega, Nat.add_mul, hkeq]
      congr 1
      omega
    · rw [if_neg hbig]
      dsimp only
      by_cases hnorm : k ≥ 2 ^ f.fb
      · rw [if_pos hnorm, if_neg (by simp; intro _; omega)]
        show withSign f neg _ = _
        rw [show (q - f.emin + 1).toNat = j + 1 by omega, Nat.add_mul, Nat.one_mul]
        congr 1
        omega
      · have hj0 : j = 0 := by omega
        rw [if_neg hnorm, hj0, Nat.zero_mul, Nat.zero_add, decide_eq_true (by omega : k < 2 ^ f.fb), Bool.and_true]
        cases fl
        · rfl
        · by_cases hk0 : k = 0
          · subst hk0; rfl
          · simp only [Bool.true_and, bne_iff_ne, ne_eq, hk0, not_false_iff, if_true]
            rfl

/-! A magnitude that n / d stands for. -/

/-- The positive y is rounded as n / d is: it has the same highest bit, and n / d rounds to what y rounds to, at every spacing
that a format of fb fraction bits can ask for. -/
structure RoundsAs (f : Fmt) (n d : Nat) (y : ℝ) : Prop where
  low  : (2 : ℝ) ^ topOf n d ≤ y
  high : y < 2 ^ (topOf n d + 1)
  at_  : ∀ neg r q, topOf n d - f.fb ≤ q →
    RoundsInt r ((sign neg : Int) * (y / 2 ^ q)) (sign neg * ((roundAt neg r n d q).1 : Int))

theorem roundsAs_self (f : Fmt) {n d : Nat} (hn : 0 < n) (hd : 0 < d) : RoundsAs f n d ((n : ℝ) / d) :=
  ⟨(topOf_spec hn hd).1, (topOf_spec hn hd).2, fun neg r q _ => roundsInt_roundAt neg r n hd q⟩

/-- How many units of 2^q the magnitude has, at the spacing of its highest bit and at a greater one. -/
theorem RoundsAs.div_bounds {f : Fmt} {n d : Nat} {y : ℝ} (hy : RoundsAs f n d y) {q : Int} (hq : topOf n d - f.fb ≤ q) :
    y / 2 ^ q < ((2 ^ (f.fb + 1) : Nat) : ℝ) ∧ (q = topOf n d - f.fb → ((2 ^ f.fb : Nat) : ℝ) ≤ y / 2 ^ q) ∧
      (topOf n d - f.fb < q → y / 2 ^ q ≤ ((2 ^ f.fb : Nat) : ℝ)) := by
  have hp := two_zpow_pos q
  have hpow : ∀ b : Nat, ((2 ^ b : Nat) : ℝ) * 2 ^ q = 2 ^ ((b : Int) + q) := fun b => by
    rw [zpow_add₀ two_ne_zero, zpow_natCast, Nat.cast_pow, Nat.cast_ofNat]
  rw [div_lt_iff₀ hp, le_div_iff₀ hp, div_le_iff₀ hp, hpow, hpow]
  refine ⟨hy.high.trans_le (zpow_le_zpow_right₀ one_le_two ?_), fun h => ?_, fun h =>
    hy.high.le.trans (zpow_le_zpow_right₀ one_le_two ?_)⟩
  · push_cast; omega
  · rw [show (f.fb : Int) + q = topOf n d by omega]
    exact hy.low
  · omega

section
variable {f : Fmt} (hf : FmtOk f) {r : Rnd} {neg : Bool} {y : ℝ} {k : Nat} {q : Int}
include hf

/-- A significand whose value does not pass the greatest finite one packs into a finite pattern. -/
theorem packMag_le_maxBits (hemin : f.emin ≤ q) (hk2 : k ≤ 2 ^ (f.fb + 1)) (hj : f.emin < q → 2 ^ f.fb ≤ k)
    (hmax : (k : ℝ) * 2 ^ q ≤ maxSig f * 2 ^ maxExp f) : packMag f (q - f.emin).toNat k ≤ f.maxBits := by
  have hmag := magVal_packMag (f := f) (j := (q - f.emin).toNat) hk2 fun h => hj (by omega)
  rw [← magVal_le_iff f, hmag, magVal_maxBits hf, ← Nat.cast_le (α := ℝ), Nat.cast_mul, Nat.cast_mul,
    two_pow_toNat (by omega), two_pow_toNat (by unfold maxExp; omega), zpow_sub₀ two_ne_zero, zpow_sub₀ two_ne_zero,
    ← mul_div_assoc, ← mul_div_assoc, div_le_div_iff_of_pos_right (two_zpow_pos _)]
  exact hmax

omit hf in
/-- The value of a packed significand. -/
theorem valueOf_packMag (hemin : f.emin ≤ q) (hk2 : k ≤ 2 ^ (f.fb + 1)) (hj : f.emin < q → 2 ^ f.fb ≤ k)
    (hlt : packMag f (q - f.emin).toNat k < f.top) :
    ((valueOf f (withSign f neg (packMag f (q - f.emin).toNat k)) : ℚ) : ℝ) = (sign neg : Int) * (k * 2 ^ q) := by
  rw [valueOf_cast, negIn_withSign neg hlt, withSign_mod_top neg hlt, magVal_packMag hk2 fun h => hj (by omega), Nat.cast_mul,
    two_pow_toNat (by omega), mul_assoc, ← zpow_add₀ two_ne_zero, Int.sub_add_cancel]

/-- The packed significand is the nearest pattern to the value that rounds to it. -/
theorem nearestIn_packMag (hy : 0 < y) (hemin : f.emin ≤ q) (hk2 : k ≤ 2 ^ (f.fb + 1)) (hj : f.emin < q → 2 ^ f.fb ≤ k)
    (hylo : f.emin < q → ((2 ^ f.fb : Nat) : ℝ) ≤ y / 2 ^ q) (hle : packMag f (q - f.emin).toNat k ≤ f.maxBits)
    (hround : RoundsInt r ((sign neg : Int) * (y / 2 ^ q)) (sign neg * (k : Int))) :
    NearestIn f r ((sign neg : Int) * y) (withSign f neg (packMag f (q - f.emin).toNat k)) := by
  have hlt : packMag f (q - f.emin).toNat k < f.top := hle.trans_lt (maxBits_lt_top hf)
  refine nearestIn_of_roundsInt (n := sign neg * k) (withSign_lt neg hlt) ((finIn_iff hf _).mpr ?_) ?_ ?_ ?_ ?_ hemin fun h => ?_
  · rwa [withSign_mod_top neg hlt]
  · rw [negIn_withSign neg hlt, sign_mul_neg_iff neg hy]
  · rw [valueOf_packMag hemin hk2 hj hlt, Int.cast_mul, Int.cast_natCast, mul_assoc]
  · have htop : f.top % 2 = 0 := by
      rw [Fmt.top, show f.eb + f.fb = (f.eb + f.fb - 1) + 1 by have := hf.fb; omega, Nat.pow_succ]
      omega
    have hpar := packMag_mod_two hf (q - f.emin).toNat k
    intro h
    unfold withSign
    cases neg <;> simp [sign] at h ⊢ <;> omega
  · rw [mul_div_assoc]
    exact hround
  · rw [mul_div_assoc, abs_mul, abs_sign_cast, one_mul, abs_of_pos (div_pos hy (two_zpow_pos q))]
    exact_mod_cast hylo h

/-- Fmt.round: the overflow's result beyond the greatest finite value, else the nearest pattern, flushed. -/
theorem round_spec {n d : Nat} (hy : RoundsAs f n d y) (r : Rnd) (fl nosat neg : Bool) :
    (Beyond f r ((sign neg : Int) * y) → (f.round r fl nosat neg n d).1 = (f.overflow r nosat neg).1) ∧
      (¬Beyond f r ((sign neg : Int) * y) →
        ∃ p, NearestIn f r ((sign neg : Int) * y) p ∧ (f.round r fl nosat neg n d).1 = flushIn f fl p) := by
  have hp : ∀ z : Int, (0 : ℝ) < 2 ^ z := two_zpow_pos
  have hy0 : 0 < y := (hp _).trans_le hy.low
  obtain ⟨t, ht⟩ : ∃ t, t = topOf n d - (f.fb : Int) := ⟨_, rfl⟩
  obtain ⟨q, hq⟩ : ∃ q, q = max t f.emin := ⟨_, rfl⟩
  obtain ⟨k, hk⟩ : ∃ k, k = (roundAt neg r n d q).1 := ⟨_, rfl⟩
  have hemin : f.emin ≤ q := hq ▸ le_max_right _ _
  have hround := hy.at_ neg r q (ht ▸ hq ▸ le_max_left _ _)
  rw [← hk] at hround
  obtain ⟨hthi, htlo, -⟩ := hy.div_bounds (q := t) ht.ge
  have hov := ltScaled_iff_beyond hf ((le_div_iff₀ (hp t)).mp (htlo ht)) ((div_lt_iff₀ (hp t)).mp hthi) (hy.at_ neg r t ht.ge)
  obtain ⟨hyhi, hylo, hysub⟩ := hy.div_bounds (q := q) (ht ▸ hq ▸ le_max_left _ _)
  have hylo' : f.emin < q → ((2 ^ f.fb : Nat) : ℝ) ≤ y / 2 ^ q := fun h => hylo (by omega)
  have hy0' : ((0 : Nat) : ℝ) ≤ y / 2 ^ q := by simpa using (div_pos hy0 (hp q)).le
  have hk2 : k ≤ 2 ^ (f.fb + 1) := (hround.natAbs_bounds hy0' hyhi.le).2
  have hj : f.emin < q → 2 ^ f.fb ≤ k := fun h => (hround.natAbs_bounds (hylo' h) hyhi.le).1
  rw [round_eq f r fl nosat neg n d (ht ▸ hq) hk hk2 hj, ← ht]
  refine ⟨fun hb => if_pos (hov.mpr hb), fun hb => ?_⟩
  · rw [if_neg fun h => hb (hov.mp h)]
    have hmax : (k : ℝ) * 2 ^ q ≤ maxSig f * 2 ^ maxExp f := by
      rcases lt_or_eq_of_le (hq ▸ le_max_left t f.emin : t ≤ q) with hlt | heq
      · have hqe : q = f.emin := by omega
        have hkF := (hround.natAbs_bounds hy0' (hysub (ht ▸ hlt))).2
        have hsig : (k : ℝ) ≤ maxSig f := by exact_mod_cast hkF.trans (maxSig_bounds hf).1
        exact mul_le_mul hsig (zpow_le_zpow_right₀ one_le_two (by unfold maxExp; omega)) (hp q).le (Nat.cast_nonneg _)
      · have hnov : ¬ltScaled (maxSig f) (maxExp f) (roundAt neg r n d t).1 t = true := fun h => hb (hov.mp h)
        rwa [ltScaled_iff, not_lt, heq, ← hk] at hnov
    have hle := packMag_le_maxBits hf hemin hk2 hj hmax
    rw [← flushIn_withSign (hle.trans_lt (maxBits_lt_top hf))]
    exact ⟨_, nearestIn_packMag hf hy0 hemin hk2 hj hylo' hle hround, rfl⟩

/-- Fmt.round rounds once into the format. -/
theorem roundsTo_round {n d : Nat} (hy : RoundsAs f n d y) (r : Rnd) (fl nosat neg : Bool) :
    RoundsTo f r fl nosat ((sign neg : Int) * y) (f.round r fl nosat neg n d).1 := by
  have hy0 : 0 < y := (two_zpow_pos _).trans_le hy.low
  obtain ⟨hover, hnear⟩ := round_spec hf hy r fl nosat neg
  refine ⟨fun hb => ⟨neg, (sign_mul_neg_iff neg hy0).symm, ?_⟩, hnear⟩
  rw [hover hb]
  exact overflowIs_overflow hf r nosat neg

theorem overflow_lt (r : Rnd) (nosat neg : Bool) : (f.overflow r nosat neg).1 < 2 * f.top := by
  have hmax := maxBits_lt_top hf
  obtain ⟨hinf, hnan⟩ := infBits_nanBits_lt_top hf
  have hs : ∀ m, m < f.top → f.signed neg m < 2 * f.top := fun m hm => withSign_lt neg hm
  unfold Fmt.overflow
  dsimp only
  split
  · exact hnan.trans_le (by omega)
  · split
    · exact hs _ hmax
    · refine hs _ ?_
      split_ifs <;> assumption

theorem round_lt {n d : Nat} (hn : 0 < n) (hd : 0 < d) (r : Rnd) (fl nosat neg : Bool) :
    (f.round r fl nosat neg n d).1 < 2 * f.top := by
  obtain ⟨hover, hnear⟩ := round_spec hf (roundsAs_self f hn hd) r fl nosat neg
  by_cases hb : Beyond f r ((sign neg : Int) * ((n : ℝ) / d))
  · rw [hover hb]
    exact overflow_lt hf r nosat neg
  · obtain ⟨p, -, hp⟩ := hnear hb
    rw [hp]
    exact flushIn_lt f fl p

/-- What is written is a pattern of the format. -/
theorem write_lt (r : Rnd) (fl nosat : Bool) (v : FV) : (f.write r fl nosat v).1 < 2 * f.top := by
  have hmax := maxBits_lt_top hf
  obtain ⟨hinf, hnan⟩ := infBits_nanBits_lt_top hf
  have hs : ∀ neg m, m < f.top → f.signed neg m < 2 * f.top := fun neg m hm => withSign_lt neg hm
  have hnan2 : f.nanBits < 2 * f.top := hnan.trans_le (by omega)
  cases v with
  | nan => exact hnan2
  | inf neg =>
    unfold Fmt.write
    dsimp only
    split
    · split
      · exact hnan2
      · exact hs neg _ hmax
    · split
      · exact hs neg _ hmax
      · exact hs neg _ hinf
  | fin neg m e =>
    unfold Fmt.write
    dsimp only
    split
    · exact hs neg 0 (fmtTop_pos f)
    · next hm => exact round_lt hf (ratio_fst_pos hm e) (ratio_snd_pos m e) r fl nosat neg

/-- A value written in the format is rounded once. -/
theorem roundsTo_write {m : Nat} (hm : m ≠ 0) (r : Rnd) (fl nosat neg : Bool) (e : Int) :
    RoundsTo f r fl nosat ((sign neg : Int) * (m * 2 ^ e)) (f.write r fl nosat (.fin neg m e)).1 := by
  rw [Fmt.write, if_neg hm, ← ratio_div]
  exact roundsTo_round hf (roundsAs_self f (ratio_fst_pos hm e) (ratio_snd_pos m e)) r fl nosat neg

end

end Sys2Proof.Claims
end

section
/-! FADD, FMUL, FFMA, FMA2 (06 R148, R150, R156): exact sums and products, rounded once. -/

namespace Sys2Proof.Claims
open Sys2Proof.Machine

/-! What is written of a result that is no finite number. -/

@[simp] theorem write_nan (f : Fmt) (r : Rnd) (fl nosat : Bool) : (f.write r fl nosat .nan).1 = f.nanBits := rfl

theorem write_inf {f : Fmt} (h : f.noInf = false) (r : Rnd) (fl neg : Bool) :
    (f.write r fl true (.inf neg)).1 = withSign f neg f.infBits := by
  simp only [Fmt.write, h, Bool.false_eq_true, if_false, Bool.not_true, Bool.and_false]
  rfl

theorem write_zero (f : Fmt) (r : Rnd) (fl nosat neg : Bool) (e : Int) :
    (f.write r fl nosat (.fin neg 0 e)).1 = withSign f neg 0 := rfl

/-- An infinity is its own pattern. -/
theorem InfIn.eq_withSign {f : Fmt} {x : Nat} (h : InfIn f x) (hx : x < 2 * f.top) : withSign f (negIn f x) f.infBits = x := by
  rw [← h.2, ← Claims.eq_withSign hx]

/-- A finite value is zero where its significand is. -/
theorem Means.valueOf_eq_zero {f : Fmt} {x m : Nat} {neg : Bool} {e : Int} (h : Means f x (.fin neg m e)) :
    valueOf f x = 0 ↔ m = 0 := by
  obtain ⟨-, -, -, hv⟩ := h
  rw [← Rat.cast_eq_zero (α := ℝ), hv]
  simp [(two_zpow_pos e).ne', sign_ne_zero]

/-! Sums. -/

theorem add_nan_left (r : Rnd) (w : FV) : (FV.nan.add r w).1 = .nan := rfl

theorem add_nan_right (r : Rnd) (v : FV) : (v.add r .nan).1 = .nan := by cases v <;> rfl

/-- The sum of two finite terms: the zero that R148 names, or the exact value. -/
theorem write_add_fin {f : Fmt} (hf : FmtOk f) (r : Rnd) (fl p q : Bool) (m n : Nat) (e k : Int) :
    let a : ℝ := (sign p : Int) * (m * 2 ^ e)
    let b : ℝ := (sign q : Int) * (n * 2 ^ k)
    let w := (f.write r fl true (((FV.fin p m e).add r (.fin q n k)).1)).1
    (a + b = 0 → w = zeroSum f r (decide (m = 0)) p q) ∧ (a + b ≠ 0 → RoundsTo f r fl true (a + b) w) := by
  intro a b w
  obtain ⟨x, hx⟩ : ∃ x, x = unitsAt p m e (min e k) + unitsAt q n k (min e k) := ⟨_, rfl⟩
  have hpos := two_zpow_pos (min e k)
  have hsum : (x : ℝ) * 2 ^ min e k = a + b := by
    rw [hx, Int.cast_add, unitsAt_cast p m (min_le_left e k), unitsAt_cast q n (min_le_right e k), ← add_div,
      div_mul_cancel₀ _ hpos.ne']
  have hw : w = (f.write r fl true (if x = 0 then .fin (if m = 0 && n = 0 && p == q then p else r == .rdn) 0 0
      else .fin (decide (x < 0)) x.natAbs (min e k))).1 := by
    simp only [w, FV.add, ← hx]
    split <;> rfl
  rw [hw]
  constructor
  · intro h0
    have hx0 : x = 0 := by
      rw [h0] at hsum
      exact_mod_cast (mul_eq_zero.mp hsum).resolve_right hpos.ne'
    have hmn : m = 0 → n = 0 := fun hm => by
      have : (sign q : Int) * ((n : ℝ) * 2 ^ k) = 0 := by simpa [a, b, hm] using h0
      simpa [sign_ne_zero, (two_zpow_pos k).ne'] using this
    rw [if_pos hx0, write_zero, zeroSum]
    by_cases hm : m = 0
    · simp [hm, hmn hm]
    · simp [hm]
  · intro hne
    have hx0 : x ≠ 0 := by
      rintro rfl
      exact hne (by rw [← hsum]; simp)
    rw [if_neg hx0, ← hsum]
    have hr := roundsTo_write hf (Int.natAbs_ne_zero.mpr hx0) r fl true (decide (x < 0)) (min e k)
    rwa [← mul_assoc, show ((sign (decide (x < 0)) : Int) : ℝ) * (x.natAbs : ℝ) = x by
      rw [← Int.cast_natCast, ← Int.cast_mul, sign_mul_natAbs]] at hr

section
variable {f : Fmt} (hf : FmtOk f) {x y z : Nat} {u v w : FV} (r : Rnd) (fl : Bool)
include hf

/-- A sum rounded once (06 R148, R150). -/
theorem sumIs_write (hx : x < 2 * f.top) (hy : y < 2 * f.top) (hu : Means f x u) (hv : Means f y v) :
    SumIs f r fl x y (f.write r fl true (u.add r v).1).1 := by
  refine ⟨?_, fun h1 h2 => ?_, fun h1 h2 => ?_, fun h1 h2 => ?_, fun h1 h2 => ?_⟩
  · rintro (h | h)
    · rw [hu.nan_iff.mp h, add_nan_left, write_nan]
    · rw [hv.nan_iff.mp h, add_nan_right, write_nan]
  · rw [hu.inf_iff.mp h1, hv.inf_iff.mp h2]
    by_cases hpq : negIn f x = negIn f y
    · rw [if_pos hpq]
      simp only [FV.add, hpq, beq_self_eq_true, if_true]
      rw [write_inf h1.1, ← hpq, h1.eq_withSign hx]
    · rw [if_neg hpq]
      simp only [FV.add, beq_eq_false_iff_ne.mpr hpq, Bool.false_eq_true, if_false, write_nan]
  · obtain ⟨n, k, rfl⟩ := hv.fin_iff.mp h2
    rw [hu.inf_iff.mp h1]
    exact (write_inf h1.1 r fl _).trans (h1.eq_withSign hx)
  · obtain ⟨m, e, rfl⟩ := hu.fin_iff.mp h1
    rw [hv.inf_iff.mp h2]
    exact (write_inf h2.1 r fl _).trans (h2.eq_withSign hy)
  · obtain ⟨m, e, rfl⟩ := hu.fin_iff.mp h1
    obtain ⟨n, k, rfl⟩ := hv.fin_iff.mp h2
    have hzero : (valueOf f x == 0) = decide (m = 0) := by rw [beq_eq_decide, decide_eq_decide, hu.valueOf_eq_zero]
    obtain ⟨h0, hne⟩ := write_add_fin hf r fl (negIn f x) (negIn f y) m n e k
    rw [← hu.2.2.2, ← hv.2.2.2] at h0 hne
    rw [hzero]
    split
    · next h => exact h0 (by exact_mod_cast h)
    · next h =>
      rw [Rat.cast_add]
      exact hne (by exact_mod_cast h)

omit hf

/-! Products. -/

/-- The product of 06 R147: NaN beside a NaN and where an infinity meets a zero, an infinity, or the exact product. -/
theorem mul_cases (hu : Means f x u) (hv : Means f y v) :
    let neg := negIn f x != negIn f y
    let zero (a : Nat) : Prop := FinIn f a ∧ valueOf f a = 0
    (NanIn f x ∨ NanIn f y ∨ (InfIn f x ∧ zero y) ∨ (zero x ∧ InfIn f y) → (u.mul v).1 = .nan) ∧
    ((InfIn f x ∧ ¬NanIn f y ∧ ¬zero y) ∨ (InfIn f y ∧ ¬NanIn f x ∧ ¬zero x) → f.noInf = false ∧ u.mul v = (.inf neg, 0)) ∧
    (FinIn f x → FinIn f y → ∃ m e, u.mul v = (.fin neg m e, 0) ∧
      ((valueOf f x * valueOf f y : ℚ) : ℝ) = (sign neg : Int) * (m * 2 ^ e)) := by
  intro neg zero
  refine ⟨?_, ?_, fun h1 h2 => ?_⟩
  · rintro (h | h | ⟨h1, h2, h3⟩ | ⟨⟨h1, h2⟩, h3⟩)
    · rw [hu.nan_iff.mp h]; rfl
    · rw [hv.nan_iff.mp h]; cases u <;> rfl
    · obtain ⟨n, k, rfl⟩ := hv.fin_iff.mp h2
      rw [hu.inf_iff.mp h1, hv.valueOf_eq_zero.mp h3]
      rfl
    · obtain ⟨m, e, rfl⟩ := hu.fin_iff.mp h1
      rw [hv.inf_iff.mp h3, hu.valueOf_eq_zero.mp h2]
      rfl
  · rintro (⟨h1, h2, h3⟩ | ⟨h1, h2, h3⟩)
    · refine ⟨h1.1, ?_⟩
      rw [hu.inf_iff.mp h1]
      cases v with
      | nan => exact absurd hv h2
      | inf q => rw [show neg = (negIn f x != q) by rw [← hv.2]]; rfl
      | fin q n k =>
        have hn : n ≠ 0 := fun h0 => h3 ⟨hv.1, hv.valueOf_eq_zero.mpr h0⟩
        simp only [FV.mul, hn, if_false, neg, hv.2.1]
    · refine ⟨h1.1, ?_⟩
      rw [hv.inf_iff.mp h1]
      cases u with
      | nan => exact absurd hu h2
      | inf p => rw [show neg = (p != negIn f y) by rw [← hu.2]]; rfl
      | fin p m e =>
        have hm : m ≠ 0 := fun h0 => h3 ⟨hu.1, hu.valueOf_eq_zero.mpr h0⟩
        simp only [FV.mul, hm, if_false, neg, hu.2.1]
  · obtain ⟨m, e, rfl⟩ := hu.fin_iff.mp h1
    obtain ⟨n, k, rfl⟩ := hv.fin_iff.mp h2
    refine ⟨m * n, e + k, rfl, ?_⟩
    rw [Rat.cast_mul, hu.2.2.2, hv.2.2.2, sign_mul, zpow_add₀ two_ne_zero]
    push_cast
    ring

include hf

/-- A product rounded once (06 R150). -/
theorem productIs_write (hu : Means f x u) (hv : Means f y v) : ProductIs f r fl x y (f.write r fl true (u.mul v).1).1 := by
  obtain ⟨hnan, hinf, hfin⟩ := mul_cases hu hv
  refine ⟨fun h => by rw [hnan h, write_nan], fun h => ?_, fun h1 h2 => ?_⟩
  · obtain ⟨hno, hmul⟩ := hinf h
    rw [hmul, write_inf hno]
  · obtain ⟨m, e, hmul, hval⟩ := hfin h1 h2
    rw [hmul]
    have hm : valueOf f x * valueOf f y = 0 ↔ m = 0 := by
      rw [← Rat.cast_eq_zero (α := ℝ), hval]
      simp [(two_zpow_pos e).ne', sign_ne_zero]
    split
    · next h => rw [hm.mp h, write_zero]
    · next h =>
      rw [hval]
      exact roundsTo_write hf (fun h0 => h (hm.mpr h0)) r fl true _ e

/-- x × y + z rounded once (06 R150, R156). -/
theorem fusedIs_write (hz : z < 2 * f.top) (hu : Means f x u) (hv : Means f y v) (hw : Means f z w) :
    FusedIs f r fl x y z (f.write r fl true (u.fma r v w).1).1 := by
  obtain ⟨hnan, hinf, hfin⟩ := mul_cases hu hv
  have hfma : ∀ p, u.mul v = (p, 0) → (u.fma r v w).1 = (p.add r w).1 := fun p hp => by
    simp [FV.fma, hp]
  have hbad : (u.mul v).1 = .nan → (u.fma r v w).1 = .nan := fun h => by
    simp only [FV.fma, h]
    split <;> rfl
  refine ⟨?_, fun h h3 => ?_, fun h h3 => ?_, fun h1 h2 h3 => ?_, fun h1 h2 h3 => ?_⟩
  · rintro (h | h | h | h | h)
    · rw [hbad (hnan (Or.inl h)), write_nan]
    · rw [hbad (hnan (Or.inr (Or.inl h))), write_nan]
    · have hr : (u.fma r v w).1 = .nan := by
        rw [hw.nan_iff.mp h]
        simp only [FV.fma]
        split
        · rfl
        · exact add_nan_right r _
      rw [hr, write_nan]
    · rw [hbad (hnan (Or.inr (Or.inr (Or.inl h)))), write_nan]
    · rw [hbad (hnan (Or.inr (Or.inr (Or.inr h)))), write_nan]
  · obtain ⟨hno, hmul⟩ := hinf h
    rw [hfma _ hmul, hw.inf_iff.mp h3]
    by_cases hpq : (negIn f x != negIn f y) = negIn f z
    · rw [if_pos hpq]
      simp only [FV.add, hpq, beq_self_eq_true, if_true]
      rw [write_inf hno, h3.eq_withSign hz]
    · rw [if_neg hpq]
      simp only [FV.add, beq_eq_false_iff_ne.mpr hpq, Bool.false_eq_true, if_false, write_nan]
  · obtain ⟨hno, hmul⟩ := hinf h
    obtain ⟨n, k, rfl⟩ := hw.fin_iff.mp h3
    rw [hfma _ hmul]
    exact write_inf hno r fl _
  · obtain ⟨m, e, hmul, -⟩ := hfin h1 h2
    rw [hfma _ hmul, hw.inf_iff.mp h3]
    exact (write_inf h3.1 r fl _).trans (h3.eq_withSign hz)
  · obtain ⟨m, e, hmul, hval⟩ := hfin h1 h2
    obtain ⟨n, k, rfl⟩ := hw.fin_iff.mp h3
    rw [hfma _ hmul]
    obtain ⟨h0, hne⟩ := write_add_fin hf r fl (negIn f x != negIn f y) (negIn f z) m n e k
    rw [← hval, ← hw.2.2.2] at h0 hne
    split
    · next h =>
      have hsum : ((valueOf f x * valueOf f y : ℚ) : ℝ) + (valueOf f z : ℚ) = 0 := by exact_mod_cast h
      have hzero : (valueOf f z == 0) = decide (m = 0) := by
        have hm : m = 0 ↔ ((valueOf f x * valueOf f y : ℚ) : ℝ) = 0 := by
          rw [hval]
          simp [(two_zpow_pos e).ne', sign_ne_zero]
        rw [beq_eq_decide, decide_eq_decide, hm, ← Rat.cast_eq_zero (α := ℝ) (p := valueOf f z)]
        constructor <;> intro h' <;> linarith
      rw [hzero]
      exact h0 hsum
    · next h =>
      rw [Rat.cast_add]
      exact hne (by exact_mod_cast h)

end

/-! The operations on bits. -/

section
variable {f : Fmt} (hf : FmtOk f) (r : Rnd) (fl : Bool) (a b c : Nat)
include hf

theorem sumIs_fAdd : SumIs f r fl (flushIn f fl a) (flushIn f fl b) (fAdd f r fl a b).1 :=
  sumIs_write hf r fl (flushIn_lt f fl a) (flushIn_lt f fl b) (means_read hf fl a) (means_read hf fl b)

theorem productIs_fMul : ProductIs f r fl (flushIn f fl a) (flushIn f fl b) (fMul f r fl a b).1 :=
  productIs_write hf r fl (means_read hf fl a) (means_read hf fl b)

theorem fusedIs_fFma : FusedIs f r fl (flushIn f fl a) (flushIn f fl b) (flushIn f fl c) (fFma f r fl a b c).1 :=
  fusedIs_write hf r fl (flushIn_lt f fl c) (means_read hf fl a) (means_read hf fl b) (means_read hf fl c)

end

end Sys2Proof.Claims
end

section
/-! CVT, FRND, XRND (06 R154, R155, R157, R159; 03 R83), and the forms of FADD, FMUL, FFMA and FMA2. -/

namespace Sys2Proof.Claims
open Sys2Proof.Machine

/-! The arithmetic forms. -/

theorem two_top_f32 : 2 * fmtF32.top = 2 ^ (32 * 1) := by decide
theorem two_top_bf16 : 2 * fmtBf16.top = 2 ^ 16 := by decide

/-- A result written in FP32 fills one register. -/
theorem write_f32_mod (r : Rnd) (fl nosat : Bool) (v : FV) :
    (fmtF32.write r fl nosat v).1 % 2 ^ (32 * 1) = (fmtF32.write r fl nosat v).1 :=
  Nat.mod_eq_of_lt (two_top_f32 ▸ write_lt fmtOk_f32 r fl nosat v)

/-- Two halves of a register, each from its own BF16 operation (06 R156). -/
theorem onHalves_spec (p : Nat → Nat × Flags) (hp : ∀ i, (p i).1 < 2 ^ 16) :
    (onHalves p).1 % 2 ^ (32 * 1) < 2 ^ 32 ∧
      ∀ e < 2, (onHalves p).1 % 2 ^ (32 * 1) / 2 ^ (16 * e) % 2 ^ 16 = (p (16 * e)).1 := by
  have h0 := hp 0
  have h1 := hp 16
  refine ⟨Nat.mod_lt _ (by decide), fun e he => ?_⟩
  simp only [onHalves]
  obtain rfl | rfl : e = 0 ∨ e = 1 := by omega
  · simp only [Nat.mul_zero, Nat.pow_zero, Nat.div_one]
    omega
  · simp only [Nat.mul_one]
    omega

section
variable {s : State} {t g : Nat} {h : Hdr} {rnd : Rnd} {ftz : Bool} {d a c : Reg} {b : Opd}

theorem fadd_gives (hR : Ready (.fadd h rnd ftz d a b) s t g) :
    Gives (.fadd h rnd ftz d a b) s t g h d 1 fun l r => SumIs fmtF32 rnd (flushOf (s.grp t g) ftz)
      (flushIn fmtF32 (flushOf (s.grp t g) ftz) (regGet (s.grp t g) a l 1))
      (flushIn fmtF32 (flushOf (s.grp t g) ftz) (amount (s.grp t g) b l)) r := by
  have he : exec (.fadd h rnd ftz d a b) s = execFadd h rnd ftz d a b s := rfl
  refine gives_fltForm he hR.issuing (rangeOk_binary (hR.declared rfl)) fun l => ?_
  simp only [fAdd, write_f32_mod, opdGet_one]
  exact sumIs_fAdd fmtOk_f32 _ _ _ _

theorem fmul_gives (hR : Ready (.fmul h rnd ftz d a b) s t g) :
    Gives (.fmul h rnd ftz d a b) s t g h d 1 fun l r => ProductIs fmtF32 rnd (flushOf (s.grp t g) ftz)
      (flushIn fmtF32 (flushOf (s.grp t g) ftz) (regGet (s.grp t g) a l 1))
      (flushIn fmtF32 (flushOf (s.grp t g) ftz) (amount (s.grp t g) b l)) r := by
  have he : exec (.fmul h rnd ftz d a b) s = execFmul h rnd ftz d a b s := rfl
  refine gives_fltForm he hR.issuing (rangeOk_binary (hR.declared rfl)) fun l => ?_
  simp only [fMul, write_f32_mod, opdGet_one]
  exact productIs_fMul fmtOk_f32 _ _ _ _

theorem ffma_gives (hR : Ready (.ffma h rnd ftz d a b c) s t g) :
    Gives (.ffma h rnd ftz d a b c) s t g h d 1 fun l r => FusedIs fmtF32 rnd (flushOf (s.grp t g) ftz)
      (flushIn fmtF32 (flushOf (s.grp t g) ftz) (regGet (s.grp t g) a l 1))
      (flushIn fmtF32 (flushOf (s.grp t g) ftz) (amount (s.grp t g) b l))
      (flushIn fmtF32 (flushOf (s.grp t g) ftz) (regGet (s.grp t g) c l 1)) r := by
  have he : exec (.ffma h rnd ftz d a b c) s = execFfma h rnd ftz d a b c s := rfl
  refine gives_fltForm he hR.issuing (rangeOk_ternary (hR.declared rfl)) fun l => ?_
  simp only [fFma, write_f32_mod, opdGet_one]
  exact fusedIs_fFma fmtOk_f32 _ _ _ _ _

theorem fma2_gives (hR : Ready (.fma2 h rnd ftz d a b c) s t g) :
    let fl := flushOf (s.grp t g) ftz
    let half (w e : Nat) : Nat := w / 2 ^ (16 * e) % 2 ^ 16
    Gives (.fma2 h rnd ftz d a b c) s t g h d 1 fun l r => r < 2 ^ 32 ∧ ∀ e < 2,
      FusedIs fmtBf16 rnd fl (flushIn fmtBf16 fl (half (regGet (s.grp t g) a l 1) e))
        (flushIn fmtBf16 fl (half (amount (s.grp t g) b l) e)) (flushIn fmtBf16 fl (half (regGet (s.grp t g) c l 1) e))
        (half r e) := by
  intro fl half
  have he : exec (.fma2 h rnd ftz d a b c) s = execFma2 h rnd ftz d a b c s := rfl
  refine gives_fltForm he hR.issuing (rangeOk_ternary (hR.declared rfl)) fun l => ?_
  have hspec := onHalves_spec (fun i => fFma fmtBf16 rnd fl (fld (regGet (s.grp t g) a l 1) i 16)
    (fld (amount (s.grp t g) b l) i 16) (fld (regGet (s.grp t g) c l 1) i 16)) fun i =>
      two_top_bf16 ▸ write_lt fmtOk_bf16 rnd fl true _
  rw [opdGet_one]
  refine ⟨hspec.1, fun e he => ?_⟩
  have hv := hspec.2 e he
  simp only [fld, Nat.shiftRight_eq_div_pow] at hv
  have hf := fusedIs_fFma fmtOk_bf16 rnd fl (half (regGet (s.grp t g) a l 1) e) (half (amount (s.grp t g) b l) e)
    (half (regGet (s.grp t g) c l 1) e)
  rw [← hv] at hf
  simpa only [fma2Val, fld, Nat.shiftRight_eq_div_pow] using hf

end

/-- R150 and R156 for the four forms. -/
theorem arithmetic_holds : Arithmetic := fun _ _ _ _ _ _ _ _ _ _ _ => ⟨fadd_gives, fmul_gives, ffma_gives, fma2_gives⟩

/-! Values that a format holds exactly. -/

section
variable {f : Fmt} (hf : FmtOk f)
include hf

theorem not_beyond_of_finIn {x : Nat} (r : Rnd) (h : FinIn f x) (h0 : valueOf f x ≠ 0) :
    ¬Beyond f r ((valueOf f x : ℚ) : ℝ) := by
  have hmag := (magVal_le_iff f).mpr ((finIn_iff hf x).mp h)
  rw [magVal_maxBits hf] at hmag
  have hp := two_zpow_pos (maxExp f)
  have hexp : 0 ≤ maxExp f - f.emin := by unfold maxExp; omega
  have hval := valueOf_cast f x
  have hm0 : (magVal f (x % f.top) : ℝ) ≠ 0 := fun hz => h0 (by
    rw [hz, zero_mul, mul_zero] at hval
    exact_mod_cast hval)
  have hmpos : (0 : ℝ) < magVal f (x % f.top) := lt_of_le_of_ne (Nat.cast_nonneg _) hm0.symm
  have hle : (magVal f (x % f.top) : ℝ) * 2 ^ f.emin / 2 ^ maxExp f ≤ maxSig f := by
    rw [div_le_iff₀ hp]
    have hcast : (magVal f (x % f.top) : ℝ) ≤ maxSig f * 2 ^ (maxExp f - f.emin) := by
      rw [← two_pow_toNat hexp]
      exact_mod_cast hmag
    calc (magVal f (x % f.top) : ℝ) * 2 ^ f.emin ≤ maxSig f * 2 ^ (maxExp f - f.emin) * 2 ^ f.emin :=
          mul_le_mul_of_nonneg_right hcast (two_zpow_pos _).le
      _ = maxSig f * 2 ^ maxExp f := by rw [mul_assoc, ← zpow_add₀ two_ne_zero, Int.sub_add_cancel]
  have hnb := not_beyond_of_le hf r (negIn f x) (div_pos (mul_pos hmpos (two_zpow_pos _)) hp) hle
  rwa [div_mul_cancel₀ _ hp.ne', ← hval] at hnb

omit hf in
/-- A finite pattern's own value is nearest to it only. -/
theorem NearestIn.value_eq {r : Rnd} {x q : Nat} (h : NearestIn f r ((valueOf f x : ℚ) : ℝ) q) (hx : FinIn f x) :
    valueOf f q = valueOf f x := by
  obtain ⟨-, -, hneg, hn⟩ := h
  rw [← Rat.cast_inj (α := ℝ)]
  cases r with
  | rne =>
    have := (hn x hx).1
    beta_reduce at this
    rw [sub_self, abs_zero] at this
    exact sub_eq_zero.mp (abs_eq_zero.mp (le_antisymm this (abs_nonneg _)))
  | rtz =>
    have habs := le_antisymm hn.1 (hn.2 x hx le_rfl)
    have hq := valueOf_cast f q
    have hmag : (0 : ℝ) ≤ (magVal f (q % f.top) : ℝ) * 2 ^ f.emin := mul_nonneg (Nat.cast_nonneg _) (two_zpow_pos _).le
    by_cases h0 : ((valueOf f x : ℚ) : ℝ) < 0
    · rw [hneg.mpr h0, sign_true, Int.cast_neg, Int.cast_one, neg_one_mul] at hq
      have : ((valueOf f q : ℚ) : ℝ) ≤ 0 := by rw [hq]; linarith
      rw [abs_of_nonpos this, abs_of_neg h0] at habs
      linarith
    · have hn' : negIn f q = false := by
        cases hb : negIn f q
        · rfl
        · exact absurd (hneg.mp hb) h0
      rw [hn', sign_false, Int.cast_one, one_mul] at hq
      have : (0 : ℝ) ≤ ((valueOf f q : ℚ) : ℝ) := by rw [hq]; exact hmag
      rw [abs_of_nonneg this, abs_of_nonneg (not_lt.mp h0)] at habs
      exact habs
  | rdn => exact le_antisymm hn.1 (hn.2 x hx le_rfl)
  | rup => exact le_antisymm (hn.2 x hx le_rfl) hn.1

omit hf in
/-- A nonzero value has one pattern. -/
theorem eq_of_valueOf_eq {x y : Nat} (hx : x < 2 * f.top) (hy : y < 2 * f.top) (hneg : negIn f x = negIn f y)
    (h : valueOf f x = valueOf f y) : x = y := by
  have hv : ((valueOf f x : ℚ) : ℝ) = (valueOf f y : ℚ) := by rw [h]
  rw [valueOf_cast, valueOf_cast, hneg] at hv
  have hs : ((sign (negIn f y) : Int) : ℝ) ≠ 0 := Int.cast_ne_zero.mpr (sign_ne_zero _)
  have hmag := Nat.cast_injective (R := ℝ) (mul_right_cancel₀ (two_zpow_pos _).ne' (mul_left_cancel₀ hs hv))
  rw [Claims.eq_withSign hx, Claims.eq_withSign hy, hneg, (magVal_strictMono f).injective hmag]

/-- A pattern's own value rounds to the pattern, flushed. -/
theorem RoundsTo.eq_flushIn {r : Rnd} {fl nosat : Bool} {x w : Nat} (h : RoundsTo f r fl nosat ((valueOf f x : ℚ) : ℝ) w)
    (hx : FinIn f x) (hlt : x < 2 * f.top) (h0 : valueOf f x ≠ 0) : w = flushIn f fl x := by
  obtain ⟨q, hq, rfl⟩ := h.2 (not_beyond_of_finIn hf r hx h0)
  have hval := hq.value_eq hx
  obtain ⟨hq1, -, hq3, -⟩ := hq
  have hsgn : negIn f x = true ↔ ((valueOf f x : ℚ) : ℝ) < 0 := by
    have hv := valueOf_cast f x
    have hm : (0 : ℝ) < (magVal f (x % f.top) : ℝ) * 2 ^ f.emin := by
      refine lt_of_le_of_ne (mul_nonneg (Nat.cast_nonneg _) (two_zpow_pos _).le) fun hz => h0 ?_
      rw [← hz, mul_zero] at hv
      exact_mod_cast hv
    rw [hv, sign_mul_neg_iff _ hm]
  rw [eq_of_valueOf_eq hq1 hlt (Bool.eq_iff_iff.mpr (hq3.trans hsgn.symm)) hval]

end

end Sys2Proof.Claims
end

section
/-! CVT, FRND and XRND (06 R154, R155, R157, R159; 03 R83). -/

namespace Sys2Proof.Claims
open Sys2Proof.Machine

/-! The types of CVT. -/

theorem integerTy.cvtInt {ty : Ty} (h : integerTy ty) : cvtInt ty = true ∧ intTy ty = true := by
  unfold integerTy at h
  rcases h with rfl | rfl | rfl | rfl | rfl | rfl | rfl | rfl <;> exact ⟨rfl, rfl⟩

theorem floatTy.cvtInt {ty : Ty} (h : floatTy ty) : Machine.cvtInt ty = false := by
  unfold floatTy at h
  rcases h with rfl | rfl | rfl | rfl <;> rfl

/-- A result written in the format of a floating type fills its registers. -/
theorem floatTy.write_mod {ty : Ty} (h : floatTy ty) (r : Rnd) (fl nosat : Bool) (v : FV) :
    ((fmtOf ty).write r fl nosat v).1 % 2 ^ (32 * tyRegs ty) = ((fmtOf ty).write r fl nosat v).1 := by
  refine Nat.mod_eq_of_lt ((write_lt (fmtOk_fmtOf ty) r fl nosat v).trans_le ?_)
  unfold floatTy at h
  rcases h with rfl | rfl | rfl | rfl <;> decide

/-! To an integer (06 R155). -/

/-- A finite value rounded to an integer. -/
theorem roundsInt_toInt {f : Fmt} {x m : Nat} {neg : Bool} {e : Int} (r : Rnd) (h : Means f x (.fin neg m e)) :
    ∃ n inexact, (FV.fin neg m e).toInt r = some (n, inexact) ∧ RoundsInt r ((valueOf f x : ℚ) : ℝ) n ∧
      n = sign neg * ((roundAt neg r (ratio m e).1 (ratio m e).2 0).1 : Int) := by
  have hr := roundsInt_roundAt neg r (ratio m e).1 (ratio_snd_pos m e) 0
  rw [ratio_div, zpow_zero, div_one, ← h.2.2.2] at hr
  refine ⟨_, _, rfl, ?_, ?_⟩
  · cases neg
    · simpa using hr
    · simpa using hr
  · cases neg <;> simp

theorem toIntTy_reads {f : Fmt} {ty : Ty} (hty : intTy ty = true) {y : Nat} {v : FV} (hv : Means f y v) (r : Rnd) :
    let w := (toIntTy ty r v).1 % 2 ^ (32 * tyRegs ty)
    (NanIn f y → w = 0) ∧ (InfIn f y → Reads ty w (if negIn f y then tyMin ty else tyMax ty)) ∧
      (FinIn f y → ∃ n, RoundsInt r ((valueOf f y : ℚ) : ℝ) n ∧ Reads ty w (max (tyMin ty) (min (tyMax ty) n))) := by
  have hle := tyMin_le_tyMax ty
  refine ⟨fun h => ?_, fun h => ?_, fun h => ?_⟩
  · rw [hv.nan_iff.mp h]
    exact Nat.zero_mod _
  · rw [hv.inf_iff.mp h]
    refine reads_tyRes_of_range hty ?_ ?_ <;> split <;> omega
  · obtain ⟨m, e, rfl⟩ := hv.fin_iff.mp h
    obtain ⟨n, inexact, hn, hround, -⟩ := roundsInt_toInt r hv
    refine ⟨n, hround, ?_⟩
    have hclamp : (toIntTy ty r (.fin (negIn f y) m e)).1 = tyRes ty (max (tyMin ty) (min (tyMax ty) n)) := by
      simp only [toIntTy, hn, Bool.or_eq_true, decide_eq_true_eq]
      split
      · rw [← sat_eq n hle]
      · exact congrArg (tyRes ty) (by omega)
    rw [hclamp]
    exact reads_tyRes_of_range hty (le_max_left _ _) (by omega)

/-! To a floating type (06 R154). -/

/-- The value of an integer, written. -/
theorem write_ofInt {f : Fmt} (hf : FmtOk f) (r : Rnd) (fl nosat : Bool) (x : Int) :
    (x = 0 → (f.write r fl nosat (.ofInt x)).1 = 0) ∧
      (x ≠ 0 → RoundsTo f r fl nosat (x : ℝ) (f.write r fl nosat (.ofInt x)).1) := by
  refine ⟨?_, fun h => ?_⟩
  · rintro rfl; rfl
  · have hw := roundsTo_write hf (Int.natAbs_ne_zero.mpr h) r fl nosat (decide (x < 0)) 0
    rwa [zpow_zero, mul_one, ← Int.cast_natCast, ← Int.cast_mul, sign_mul_natAbs] at hw

/-- An infinity, written. -/
theorem write_inf_cases {f : Fmt} (hf : FmtOk f) (r : Rnd) (fl nosat neg : Bool) :
    (f.write r fl nosat (.inf neg)).1 = if f.eb = 8 then withSign f neg f.infBits
      else if nosat = false then withSign f neg f.maxBits
      else if f.noInf = true then f.nanBits else withSign f neg f.infBits := by
  have h8 := hf.eb8
  unfold Fmt.write
  dsimp only
  by_cases heb : f.eb = 8
  · simp only [heb, hf.inf heb, lt_irrefl, decide_false, Bool.false_and, Bool.false_eq_true, if_false, if_true]
    rfl
  · have hlt : f.eb < 8 := by omega
    cases nosat <;> cases f.noInf <;> simp [heb, hlt] <;> rfl

/-- A finite value, written. -/
theorem write_fin {f g : Fmt} (hg : FmtOk g) {x m : Nat} {neg : Bool} {e : Int} (h : Means f x (.fin neg m e)) (r : Rnd)
    (fl nosat : Bool) :
    if valueOf f x = 0 then (g.write r fl nosat (.fin neg m e)).1 = withSign g neg 0
      else RoundsTo g r fl nosat ((valueOf f x : ℚ) : ℝ) (g.write r fl nosat (.fin neg m e)).1 := by
  split
  · next h0 => rw [h.valueOf_eq_zero.mp h0, write_zero]
  · next h0 =>
    rw [h.2.2.2]
    exact roundsTo_write hg (fun hm => h0 (h.valueOf_eq_zero.mpr hm)) r fl nosat neg e

/-- A finite pattern of value zero is the zero of its sign. -/
theorem eq_zero_of_valueOf {f : Fmt} {x : Nat} (hx : x < 2 * f.top) (h : valueOf f x = 0) : x = withSign f (negIn f x) 0 := by
  have hv := valueOf_cast f x
  rw [h, Rat.cast_zero, eq_comm, mul_eq_zero, mul_eq_zero] at hv
  have hs : ((sign (negIn f x) : Int) : ℝ) ≠ 0 := Int.cast_ne_zero.mpr (sign_ne_zero _)
  have hm : magVal f (x % f.top) = 0 := by exact_mod_cast (hv.resolve_left hs).resolve_right (two_zpow_pos _).ne'
  have hp : x % f.top = 0 := (magVal_strictMono f).injective (hm.trans (magVal_zero f).symm)
  rw [← hp]
  exact Claims.eq_withSign hx

/-- A pattern written in its own format is itself, flushed; NaN is made canonical. -/
theorem write_self {f : Fmt} (hf : FmtOk f) {y : Nat} (hy : y < 2 * f.top) {v : FV} (hv : Means f y v) (hn : ¬NanIn f y)
    (r : Rnd) (fl nosat : Bool) (hsat : InfIn f y → nosat = true) : (f.write r fl nosat v).1 = flushIn f fl y := by
  cases v with
  | nan => exact absurd hv hn
  | inf neg =>
    obtain ⟨hinf, rfl⟩ := hv
    rw [hsat hinf, write_inf hinf.1, hinf.eq_withSign hy]
    have hF := Nat.two_pow_pos f.fb
    have hE := four_le_two_pow_eb hf
    rw [← hinf.eq_withSign hy, flushIn_withSign (infBits_nanBits_lt_top hf).1, Fmt.infBits,
      decide_eq_false (not_lt.mpr (Nat.le_mul_of_pos_left _ (by omega))), Bool.and_false, if_neg Bool.false_ne_true]
  | fin neg m e =>
    have hw := write_fin hf hv r fl nosat
    split at hw
    · next h0 =>
      rw [hw, eq_zero_of_valueOf hy h0, hv.2.1, flushIn_withSign (fmtTop_pos f)]
      split <;> rfl
    · next h0 => exact RoundsTo.eq_flushIn hf hw hv.1 hy h0

/-- CVT by Table 6.6. -/
theorem convertsTo_cvtVal (dt st : Ty) (nosat : Bool) (r : Rnd) (fl : Bool) (x : Nat) :
    ConvertsTo dt st nosat r fl x ((cvtVal dt st nosat r fl x).1 % 2 ^ (32 * tyRegs dt)) := by
  have hm := means_read (fmtOk_fmtOf st) (fl && dt != st) x
  have hy := flushIn_lt (fmtOf st) (fl && dt != st) x
  refine ⟨fun hs hd => ?_, fun hs hd => ?_, fun hs hd => ?_⟩
  · have hval : (cvtVal dt st nosat r fl x).1 = ((fmtOf dt).write r fl nosat (.ofInt (tyVal st x))).1 := by
      simp only [cvtVal, hs.cvtInt.1, hd.cvtInt, FV.ofInt, if_true, Bool.false_eq_true, if_false, Bool.and_false, Bool.or_false]
    obtain ⟨h0, hne⟩ := write_ofInt (fmtOk_fmtOf dt) r fl nosat (tyVal st x)
    rw [hval, hd.write_mod]
    split
    · next h => exact h0 h
    · next h => exact hne h
  · have hval : (cvtVal dt st nosat r fl x).1 = (toIntTy dt r ((fmtOf st).read (fl && dt != st) x)).1 := by
      simp only [cvtVal, hs.cvtInt, hd.cvtInt.1, if_true, Bool.false_eq_true, if_false]
    rw [hval]
    exact toIntTy_reads hd.cvtInt.2 hm r
  · have hval : ∃ sat', (cvtVal dt st nosat r fl x).1 =
        ((fmtOf dt).write r fl sat' ((fmtOf st).read (fl && dt != st) x)).1 ∧
        (dt = st → InfIn (fmtOf st) (flushIn (fmtOf st) (fl && dt != st) x) → sat' = true) ∧ (dt ≠ st → sat' = nosat) := by
      simp only [cvtVal, hs.cvtInt, hd.cvtInt, Bool.false_eq_true, if_false]
      refine ⟨_, rfl, fun heq hinf => ?_, fun hne => ?_⟩
      · rw [hm.inf_iff.mp hinf, heq, beq_self_eq_true, Bool.true_and, Bool.or_true]
      · rw [beq_eq_false_iff_ne.mpr hne, Bool.false_and, Bool.or_false]
    obtain ⟨sat', hval, hself, hother⟩ := hval
    rw [hval, hd.write_mod]
    refine ⟨fun h => ?_, fun heq hn => ?_, fun hne h => ?_, fun hne h => ?_⟩
    · rw [hm.nan_iff.mp h, write_nan]
    · have hself' := hself heq
      subst heq
      exact write_self (fmtOk_fmtOf dt) hy hm hn r fl sat' hself'
    · rw [hm.inf_iff.mp h, hother hne]
      exact write_inf_cases (fmtOk_fmtOf dt) r fl nosat _
    · rw [hother hne]
      obtain ⟨m, e, hfin⟩ := hm.fin_iff.mp h
      rw [hfin] at hm ⊢
      exact write_fin (fmtOk_fmtOf dt) hm r fl nosat

/-! FRND (06 R157). -/

/-- A significand of a finite value has a pattern at every exponent it fits. -/
theorem exists_pattern {f : Fmt} (hf : FmtOk f) (neg : Bool) (j : Nat) : ∀ {k : Nat} {q : Int}, q = f.emin + j →
    k ≤ 2 ^ (f.fb + 1) → (k : ℝ) * 2 ^ q ≤ maxSig f * 2 ^ maxExp f →
    ∃ y, y < 2 * f.top ∧ FinIn f y ∧ negIn f y = neg ∧ ((valueOf f y : ℚ) : ℝ) = (sign neg : Int) * (k * 2 ^ q) := by
  have packed : ∀ {k : Nat} {q : Int}, f.emin ≤ q → k ≤ 2 ^ (f.fb + 1) → (f.emin < q → 2 ^ f.fb ≤ k) →
      (k : ℝ) * 2 ^ q ≤ maxSig f * 2 ^ maxExp f →
      ∃ y, y < 2 * f.top ∧ FinIn f y ∧ negIn f y = neg ∧ ((valueOf f y : ℚ) : ℝ) = (sign neg : Int) * (k * 2 ^ q) := by
    intro k q hq hk hj hmax
    have hle := packMag_le_maxBits hf hq hk hj hmax
    have hlt := hle.trans_lt (maxBits_lt_top hf)
    refine ⟨_, withSign_lt neg hlt, (finIn_iff hf _).mpr (by rwa [withSign_mod_top neg hlt]), negIn_withSign neg hlt, ?_⟩
    exact valueOf_packMag hq hk hj hlt
  induction j with
  | zero => exact fun hq hk hmax => packed (by omega) hk (fun h => by omega) hmax
  | succ j ih =>
    intro k q hq hk hmax
    by_cases hbig : 2 ^ f.fb ≤ k
    · exact packed (by omega) hk (fun _ => hbig) hmax
    · have hdouble : ((2 * k : Nat) : ℝ) * 2 ^ (q - 1) = k * 2 ^ q := by
        rw [zpow_sub_one₀ two_ne_zero]
        push_cast
        ring
      have := ih (k := 2 * k) (q := q - 1) (by omega) (by rw [Nat.pow_succ]; omega) (hdouble ▸ hmax)
      rwa [hdouble] at this

/-- A finite FP32 value rounded to an integer is an FP32 value. -/
theorem exists_f32_of_roundsInt {x m k : Nat} {neg : Bool} {e : Int} {r : Rnd} (hx : x < 2 * fmtF32.top)
    (h : Means fmtF32 x (.fin neg m e)) (hr : RoundsInt r ((valueOf fmtF32 x : ℚ) : ℝ) (sign neg * (k : Int))) :
    ∃ y, y < 2 * fmtF32.top ∧ FinIn fmtF32 y ∧ negIn fmtF32 y = neg ∧
      ((valueOf fmtF32 y : ℚ) : ℝ) = (sign neg : Int) * (k * 2 ^ (0 : Int)) := by
  obtain ⟨hfin, hneg, ⟨-, hm⟩, hval⟩ := h
  rcases le_or_gt 0 e with he | he
  · refine ⟨x, hx, hfin, hneg, ?_⟩
    have hint : ((valueOf fmtF32 x : ℚ) : ℝ) = ((sign neg * ((m * 2 ^ e.toNat : Nat) : Int) : Int) : ℝ) := by
      rw [hval, Int.cast_mul, Int.cast_natCast, Nat.cast_mul, two_pow_toNat he]
    have heq := le_antisymm (hr.ge_of_ge hint.le) (hr.le_of_le hint.ge)
    rw [hint, ← heq, zpow_zero, mul_one, Int.cast_mul, Int.cast_natCast]
  · rw [hval] at hr
    have hle : (m : ℝ) * 2 ^ e ≤ m := mul_le_of_le_one_right (Nat.cast_nonneg m) (zpow_le_one_of_nonpos₀ one_le_two he.le)
    have hk := (hr.natAbs_bounds (a := 0) (by simpa using mul_nonneg (Nat.cast_nonneg m) (two_zpow_pos e).le) hle).2
    refine exists_pattern fmtOk_f32 neg 149 (by decide) (hk.trans hm.le) ?_
    have hk' : (k : ℝ) ≤ 2 ^ 24 := by exact_mod_cast hk.trans hm.le
    rw [show maxSig fmtF32 = 2 ^ 24 - 1 from rfl, show maxExp fmtF32 = 104 from rfl]
    norm_num at hk' ⊢
    linarith

theorem integralIs_frndVal (r : Rnd) (fl : Bool) (a : Nat) :
    IntegralIs r (flushIn fmtF32 fl a) ((frndVal r fl a).1 % 2 ^ (32 * 1)) := by
  have hm := means_read fmtOk_f32 fl a
  have hlt := flushIn_lt fmtF32 fl a
  unfold IntegralIs frndVal
  generalize flushIn fmtF32 fl a = x at *
  rw [nan_iff_nanIn, inf_iff_infIn, finite_iff_finIn hlt, units_eq_zero, neg_eq_negIn]
  cases hv : fmtF32.read fl a with
  | nan =>
    rw [hv] at hm
    refine ⟨fun _ => rfl, ?_, fun h => absurd h (NanIn.not_fin hm)⟩
    rintro (h | ⟨h, -⟩)
    · exact absurd h (NanIn.not_inf hm)
    · exact absurd h (NanIn.not_fin hm)
  | inf neg =>
    rw [hv] at hm
    refine ⟨fun h => absurd hm.1 h.not_inf, fun _ => ?_, fun h => absurd h hm.1.not_fin⟩
    dsimp only
    rw [write_f32_mod, write_inf hm.1.1, ← hm.2]
    exact hm.1.eq_withSign hlt
  | fin neg m e =>
    rw [hv] at hm
    obtain ⟨n, inexact, hn, hround, hk⟩ := roundsInt_toInt r hm
    obtain ⟨k, hke⟩ : ∃ k, k = (roundAt neg r (ratio m e).1 (ratio m e).2 0).1 := ⟨_, rfl⟩
    rw [← hke] at hk
    have habs : n.natAbs = k := by cases neg <;> simp [hk]
    simp only [hn, write_f32_mod, habs]
    rw [hk] at hround
    obtain ⟨y, hylt, hyfin, hyneg, hyval⟩ := exists_f32_of_roundsInt hlt hm hround
    have hw : (fmtF32.write .rne false true (.fin neg k 0)).1 = y := by
      by_cases hk0 : k = 0
      · rw [hk0, write_zero, ← hyneg]
        refine (eq_zero_of_valueOf hylt ?_).symm
        rw [hk0] at hyval
        simpa using hyval
      · have hy0 : valueOf fmtF32 y ≠ 0 := by
          rw [← Rat.cast_ne_zero (α := ℝ), hyval]
          simp [hk0, sign_ne_zero]
        have hrt := roundsTo_write fmtOk_f32 hk0 .rne false true neg 0
        rw [← hyval] at hrt
        rw [hrt.eq_flushIn fmtOk_f32 hyfin hylt hy0]
        exact flushIn_f32_false hylt
    rw [hw]
    refine ⟨fun h => absurd hm.1 h.not_fin, ?_, fun _ _ => ⟨n, hk ▸ hround, (finite_iff_finIn hylt).mpr hyfin, ?_, ?_⟩⟩
    · rintro (h | ⟨-, h0⟩)
      · exact absurd hm.1 h.not_fin
      · have hx0 : ((sign neg * (k : Int) : Int) : ℝ) = 0 := by
          rw [h0, Rat.cast_zero] at hround
          have h1 := hround.ge_of_ge (i := 0) (by simp)
          have h2 := hround.le_of_le (i := 0) (by simp)
          exact_mod_cast le_antisymm h1 h2
        have hy0 : valueOf fmtF32 y = 0 := by
          rw [zpow_zero, mul_one, ← Int.cast_natCast, ← Int.cast_mul, hx0] at hyval
          exact_mod_cast hyval
        rw [eq_zero_of_valueOf hylt hy0, eq_zero_of_valueOf hlt h0, hyneg, hm.2.1]
    · rw [neg_eq_negIn, hyneg, hm.2.1]
    · rw [← Rat.cast_inj (α := ℝ), hyval, hk]
      push_cast
      ring

/-! XRND (06 R159). -/

theorem xRounds_xToF32 {a : Nat} (ha : a < 2 ^ 128) (r : Rnd) : XRounds r a ((xToF32 r a).1 % 2 ^ (32 * 1)) := by
  unfold XRounds xToF32
  change (if a = xNan then _ else if a = xSat then _ else if a = xNegSat then _ else _ : Prop)
  by_cases h1 : a = xNan
  · rw [if_pos h1, if_pos h1]; rfl
  · rw [if_neg h1, if_neg h1]
    by_cases h2 : a = xSat
    · rw [if_pos h2, if_pos h2]; rfl
    · rw [if_neg h2, if_neg h2]
      by_cases h3 : a = xNegSat
      · rw [if_pos h3, if_pos h3]; rfl
      · rw [if_neg h3, if_neg h3]
        simp only [write_f32_mod]
        rw [sgn_eq_wide ha]
        split
        · next h0 => subst h0; rfl
        · next h0 =>
          have hw : wide a ≠ 0 := by unfold wide; split <;> omega
          have hr := roundsTo_write fmtOk_f32 (Int.natAbs_ne_zero.mpr hw) r false true (decide (wide a < 0)) (-80)
          rw [← mul_assoc, ← Int.cast_natCast, ← Int.cast_mul, sign_mul_natAbs, zpow_neg] at hr
          exact hr

/-! The forms. -/

section
variable {s : State} {t g : Nat} {h : Hdr} {rnd : Rnd} {ftz nosat : Bool} {dt st : Ty} {d a : Reg}

theorem cvt_gives (hR : Ready (.cvt h dt st nosat rnd ftz d a) s t g) :
    Gives (.cvt h dt st nosat rnd ftz d a) s t g h d (tyRegs dt) fun l r =>
      ConvertsTo dt st nosat rnd (flushOf (s.grp t g) ftz) (regGet (s.grp t g) a l (tyRegs st)) r := by
  have he : exec (.cvt h dt st nosat rnd ftz d a) s = execCvt h dt st nosat rnd ftz d a s := rfl
  exact gives_fltForm he hR.issuing (rangeOk_unary (hR.declared rfl)) fun l => convertsTo_cvtVal _ _ _ _ _ _

/-- A unary function of an FP32 register, by what it gives of the flushed operand. -/
theorem gives_ffnForm {i : Instr} {size : Nat} {f : Bool → Nat → Nat × Flags} {P : Bool → Nat → Nat → Prop}
    (hx : exec i s = ffnForm h size ftz d a f s) (hI : Issuing s t g) (hd : Declared s t h ([(a, 1)] ++ [(d, 1)]))
    (hP : ∀ fl x, P fl (flushIn fmtF32 fl x) ((f fl x).1 % 2 ^ (32 * 1))) :
    Gives i s t g h d 1 fun l r =>
      P (flushOf (s.grp t g) ftz) (flushIn fmtF32 (flushOf (s.grp t g) ftz) (regGet (s.grp t g) a l 1)) r :=
  gives_fltForm hx hI (rangeOk_unary hd) fun _ => hP _ _

theorem frnd_gives (hR : Ready (.frnd h rnd ftz d a) s t g) :
    Gives (.frnd h rnd ftz d a) s t g h d 1 fun l r =>
      IntegralIs rnd (flushIn fmtF32 (flushOf (s.grp t g) ftz) (regGet (s.grp t g) a l 1)) r := by
  have he : exec (.frnd h rnd ftz d a) s = execFrnd h rnd ftz d a s := rfl
  exact gives_ffnForm (P := fun _ => IntegralIs rnd) he hR.issuing (hR.declared rfl) fun fl x => integralIs_frndVal rnd fl x

theorem xrnd_gives (hR : Ready (.xrnd h rnd d a) s t g) :
    Gives (.xrnd h rnd d a) s t g h d 1 fun l r => XRounds rnd (regGet (s.grp t g) a l 4) r := by
  have he : exec (.xrnd h rnd d a) s = execXrnd h rnd d a s := rfl
  exact gives_fltForm he hR.issuing (rangeOk_unary (hR.declared rfl)) fun l => xRounds_xToF32 (regGet_lt _ _ _ 4) _

end

/-- R154, R155, R157 and R159 for the three forms. -/
theorem conversions_holds : Conversions := fun _ _ _ _ _ _ _ _ _ _ _ => ⟨fun _ => cvt_gives, frnd_gives, xrnd_gives⟩

end Sys2Proof.Claims
end

section
/-! FFN .rcp, .sqrt and .rsqrt (06 R153): the reciprocal as a ratio, the roots by an integer square root and a sticky bit. -/

namespace Sys2Proof.Claims
open Sys2Proof.Machine

/-- What a value rounds to in FP32 fills one register. -/
theorem RoundsTo.mod_eq {r : Rnd} {fl nosat : Bool} {v : ℝ} {w : Nat} (h : RoundsTo fmtF32 r fl nosat v w) :
    w % 2 ^ (32 * 1) = w := by
  refine Nat.mod_eq_of_lt (two_top_f32 ▸ ?_)
  by_cases hb : Beyond fmtF32 r v
  · obtain ⟨neg, -, hw⟩ := h.1 hb
    unfold OverflowIs at hw
    rw [if_pos (show fmtF32.eb = 8 from rfl)] at hw
    rw [hw]
    refine withSign_lt neg ?_
    split <;> decide
  · obtain ⟨q, -, rfl⟩ := h.2 hb
    exact flushIn_lt _ _ _

/-! The reciprocal. -/

theorem units_neg_iff {x m : Nat} {neg : Bool} {e : Int} (h : Means fmtF32 x (.fin neg m e)) :
    (units x = 0 ↔ m = 0) ∧ (units x < 0 ↔ neg = true ∧ m ≠ 0) ∧ (0 < units x ↔ neg = false ∧ m ≠ 0) := by
  have hp := two_zpow_pos e
  have hu : (units x : ℝ) = (sign neg : Int) * (m * 2 ^ e) * 2 ^ 149 := by rw [units_cast, h.2.2.2]
  refine ⟨by rw [units_eq_zero, h.valueOf_eq_zero], ?_, ?_⟩
  · rw [← Int.cast_lt_zero (R := ℝ), hu]
    rcases Nat.eq_zero_or_pos m with rfl | hm
    · simp
    · have hpos : (0 : ℝ) < m * 2 ^ e * 2 ^ 149 := by positivity
      rw [mul_assoc, sign_mul_neg_iff neg hpos]
      simp [hm.ne']
  · rw [← Int.cast_pos (R := ℝ), hu]
    rcases Nat.eq_zero_or_pos m with rfl | hm
    · simp
    · have hpos : (0 : ℝ) < m * 2 ^ e * 2 ^ 149 := by positivity
      rw [mul_assoc]
      cases neg
      · simpa [hm.ne'] using hpos
      · simpa [hm.ne'] using hpos.le

theorem reciprocalIs_ffnRcpVal (r : Rnd) (fl : Bool) (a : Nat) :
    ReciprocalIs r fl (flushIn fmtF32 fl a) ((ffnRcpVal r fl a).1 % 2 ^ (32 * 1)) := by
  have hm := means_read fmtOk_f32 fl a
  have hlt := flushIn_lt fmtF32 fl a
  unfold ReciprocalIs ffnRcpVal
  generalize flushIn fmtF32 fl a = x at *
  rw [nan_iff_nanIn, inf_iff_infIn, finite_iff_finIn hlt, neg_eq_negIn]
  cases hv : fmtF32.read fl a with
  | nan =>
    rw [hv] at hm
    exact ⟨fun _ => rfl, fun h => absurd h (NanIn.not_inf hm), fun h => absurd h (NanIn.not_fin hm)⟩
  | inf neg =>
    rw [hv] at hm
    refine ⟨fun h => absurd hm.1 h.not_inf, fun _ => ?_, fun h => absurd h hm.1.not_fin⟩
    rw [hm.2]
    cases neg <;> rfl
  | fin neg m e =>
    rw [hv] at hm
    refine ⟨fun h => absurd hm.1 h.not_fin, fun h => absurd hm.1 h.not_fin, fun _ => ?_⟩
    simp only [(units_neg_iff hm).1, hm.2.1]
    by_cases hm0 : m = 0
    · simp only [hm0, if_true]
      cases neg <;> rfl
    · simp only [hm0, if_false]
      have hn : 0 < 2 ^ (-e).toNat := Nat.two_pow_pos _
      have hd : 0 < m * 2 ^ e.toNat := Nat.mul_pos (Nat.pos_of_ne_zero hm0) (Nat.two_pow_pos _)
      have hval : (1 : ℝ) / (valueOf fmtF32 x : ℚ) = (sign neg : Int) * (((2 ^ (-e).toNat : Nat) : ℝ) / ((m * 2 ^ e.toNat : Nat) : ℝ)) := by
        rw [hm.2.2.2, two_zpow_eq_div e]
        cases neg <;> push_cast <;> field_simp <;> simp
      have hr := roundsTo_round fmtOk_f32 (roundsAs_self fmtF32 hn hd) r fl true neg
      rw [hval, hr.mod_eq]
      exact hr

/-! The integer square root. -/

theorem isqrtBits_spec (n k : Nat) : ∀ acc, acc * acc ≤ n → n < (acc + 2 ^ k) * (acc + 2 ^ k) →
    isqrtBits n k acc * isqrtBits n k acc ≤ n ∧ n < (isqrtBits n k acc + 1) * (isqrtBits n k acc + 1) := by
  induction k with
  | zero => exact fun acc hlo hhi => ⟨hlo, hhi⟩
  | succ k ih =>
    intro acc hlo hhi
    rw [Nat.pow_succ, Nat.mul_two, ← Nat.add_assoc] at hhi
    unfold isqrtBits
    split
    · next h => exact ih _ h hhi
    · next h => exact ih _ hlo (not_le.mp h)

theorem isqrt_spec {n : Nat} (hn : n < 2 ^ 256) : isqrt n * isqrt n ≤ n ∧ n < (isqrt n + 1) * (isqrt n + 1) :=
  isqrtBits_spec n 128 0 (Nat.zero_le _) (by
    rw [Nat.zero_add, ← Nat.pow_add]
    exact hn)

/-! A value strictly between neighbours, by a sticky bit below the lower one. -/

/-- A value strictly between y and y + 1 units of 2^e is rounded as y + ½ units are, where y has more bits than the format
asks for. -/
theorem roundsAs_sticky {f : Fmt} {y : Nat} {e : Int} {v : ℝ} (hy : 2 ^ (f.fb + 1) ≤ y) (hlo : (y : ℝ) * 2 ^ e < v)
    (hhi : v < ((y : ℝ) + 1) * 2 ^ e) : RoundsAs f (ratio (2 * y + 1) (e - 1)).1 (ratio (2 * y + 1) (e - 1)).2 v := by
  have hn : 0 < (ratio (2 * y + 1) (e - 1)).1 := ratio_fst_pos (Nat.succ_ne_zero (2 * y)) (e - 1)
  have hd := ratio_snd_pos (2 * y + 1) (e - 1)
  have hmid : ((ratio (2 * y + 1) (e - 1)).1 : ℝ) / (ratio (2 * y + 1) (e - 1)).2 = ((y : ℝ) + 1 / 2) * 2 ^ e := by
    rw [ratio_div, zpow_sub_one₀ two_ne_zero]
    push_cast
    ring
  have hp : ∀ z : Int, (0 : ℝ) < 2 ^ z := two_zpow_pos
  have hy0 : y ≠ 0 := fun h => by have := Nat.two_pow_pos (f.fb + 1); omega
  have hylo : (2 : ℝ) ^ (y.log2 : Int) ≤ y := by
    rw [zpow_natCast]
    exact_mod_cast Nat.log2_self_le hy0
  have hyhi : (y : ℝ) + 1 ≤ 2 ^ ((y.log2 : Int) + 1) := by
    rw [← Nat.cast_succ y.log2, zpow_natCast]
    exact_mod_cast Nat.lt_log2_self (n := y)
  have hbits : (f.fb + 1 : Int) ≤ y.log2 := by
    have := (Nat.le_log2 hy0).mpr hy
    exact_mod_cast this
  have hlow : (2 : ℝ) ^ ((y.log2 : Int) + e) ≤ y * 2 ^ e := by
    rw [zpow_add₀ two_ne_zero]
    exact mul_le_mul_of_nonneg_right hylo (hp e).le
  have hhigh : ((y : ℝ) + 1) * 2 ^ e ≤ 2 ^ ((y.log2 : Int) + e + 1) := by
    rw [show (y.log2 : Int) + e + 1 = (y.log2 + 1) + e by ring, zpow_add₀ two_ne_zero (y.log2 + 1 : Int)]
    exact mul_le_mul_of_nonneg_right hyhi (hp e).le
  have htop : topOf (ratio (2 * y + 1) (e - 1)).1 (ratio (2 * y + 1) (e - 1)).2 = y.log2 + e := by
    obtain ⟨h1, h2⟩ := topOf_spec hn hd
    rw [hmid] at h1 h2
    have hlt := (zpow_lt_zpow_iff_right₀ (one_lt_two (α := ℝ))).mp (lt_of_le_of_lt hlow (lt_trans (by nlinarith [hp e]) h2))
    have hgt := (zpow_lt_zpow_iff_right₀ (one_lt_two (α := ℝ))).mp (lt_of_le_of_lt h1 (lt_of_lt_of_le (by nlinarith [hp e]) hhigh))
    omega
  refine ⟨htop ▸ hlow.trans hlo.le, htop ▸ hhi.trans_le hhigh, fun neg r q hq => ?_⟩
  have hround := roundsInt_roundAt neg r (ratio (2 * y + 1) (e - 1)).1 hd q
  rw [hmid] at hround
  have hs : 1 ≤ (q - e).toNat := by omega
  have hscale : ∀ w : ℝ, w / 2 ^ q * 2 ^ (q - e).toNat = w / 2 ^ e := fun w => by
    rw [← Nat.cast_ofNat (R := ℝ), ← Nat.cast_pow, two_pow_toNat (by omega), Nat.cast_ofNat, zpow_sub₀ two_ne_zero]
    field_simp
  have hm : ((y : ℝ) + 1 / 2) * 2 ^ e / 2 ^ e = y + 1 / 2 := mul_div_cancel_right₀ _ (hp e).ne'
  have hv1 : (y : ℝ) < v / 2 ^ e := (lt_div_iff₀ (hp e)).mpr hlo
  have hv2 : v / 2 ^ e < y + 1 := (div_lt_iff₀ (hp e)).mpr hhi
  cases neg
  · refine RoundsInt.congr_of_gap (y := y) hs ?_ ?_ ?_ ?_ hround <;>
      simp only [sign_false, Int.cast_one, one_mul, hscale, hm, Int.cast_natCast] <;> linarith
  · refine RoundsInt.congr_of_gap (y := -(y : Int) - 1) hs ?_ ?_ ?_ ?_ hround <;>
      simp only [sign_true, Int.cast_neg, Int.cast_one, one_mul, neg_mul, hscale, hm, Int.cast_sub, Int.cast_natCast] <;>
      linarith

/-- The same of what is written with the sticky bit. -/
theorem roundsTo_write_sticky {f : Fmt} (hf : FmtOk f) {y : Nat} {e : Int} {v : ℝ} (hy : 2 ^ (f.fb + 1) ≤ y)
    (hlo : (y : ℝ) * 2 ^ e < v) (hhi : v < ((y : ℝ) + 1) * 2 ^ e) (r : Rnd) (fl nosat : Bool) :
    RoundsTo f r fl nosat v (f.write r fl nosat (.fin false (2 * y + 1) (e - 1))).1 := by
  have h := roundsTo_round hf (roundsAs_sticky hy hlo hhi) r fl nosat false
  rw [sign_false, Int.cast_one, one_mul] at h
  exact h

/-! The roots. -/

/-- A square root of z, times 2^e, from the integer root of the integer part of z. -/
theorem roundsTo_sqrt {f : Fmt} (hf : FmtOk f) {z : ℝ} {n : Nat} {e : Int} (hlo : (n : ℝ) ≤ z) (hhi : z < n + 1)
    (hbig : 2 ^ (2 * (f.fb + 2)) ≤ n) (hn : n < 2 ^ 256) (r : Rnd) (fl : Bool) :
    ((n : ℝ) = z → isqrt n * isqrt n = n →
      RoundsTo f r fl true (Real.sqrt z * 2 ^ e) (f.write r fl true (.fin false (isqrt n) e)).1) ∧
    (¬((n : ℝ) = z ∧ isqrt n * isqrt n = n) →
      RoundsTo f r fl true (Real.sqrt z * 2 ^ e) (f.write r fl true (.fin false (2 * isqrt n + 1) (e - 1))).1) := by
  obtain ⟨hsq, hsq'⟩ := isqrt_spec hn
  have hp := two_zpow_pos e
  have hz0 : 0 ≤ z := (Nat.cast_nonneg n).trans hlo
  have hy : 2 ^ (f.fb + 1) ≤ isqrt n := by
    have hlt : 2 ^ (f.fb + 2) < isqrt n + 1 := by
      by_contra hc
      have := Nat.mul_le_mul (not_lt.mp hc) (not_lt.mp hc)
      rw [← Nat.pow_add, ← Nat.two_mul] at this
      omega
    have hpow : 2 ^ (f.fb + 2) = 2 * 2 ^ (f.fb + 1) := by rw [Nat.pow_succ 2 (f.fb + 1), Nat.mul_comm]
    omega
  have hsqR : ((isqrt n : ℝ)) * isqrt n ≤ n := by exact_mod_cast hsq
  have hsqR' : (n : ℝ) + 1 ≤ ((isqrt n : ℝ) + 1) * ((isqrt n : ℝ) + 1) := by exact_mod_cast hsq'
  constructor
  · intro hz he
    have hroot : Real.sqrt z = isqrt n := by
      rw [← hz, Real.sqrt_eq_iff_mul_self_eq (Nat.cast_nonneg _) (Nat.cast_nonneg _)]
      exact_mod_cast he.symm
    have hy0 : isqrt n ≠ 0 := fun h => by have := Nat.two_pow_pos (f.fb + 1); omega
    have := roundsTo_write hf hy0 r fl true false e
    rwa [sign_false, Int.cast_one, one_mul, ← hroot] at this
  · intro hne
    have hlow : (isqrt n : ℝ) < Real.sqrt z := by
      rw [Real.lt_sqrt (Nat.cast_nonneg _), pow_two]
      refine lt_of_le_of_ne (hsqR.trans hlo) fun heq => hne ?_
      have hzn : (n : ℝ) = z := le_antisymm hlo (heq ▸ hsqR)
      exact ⟨hzn, by exact_mod_cast heq.trans hzn.symm⟩
    have hhigh : Real.sqrt z < (isqrt n : ℝ) + 1 := by
      rw [Real.sqrt_lt' (by positivity), pow_two]
      linarith
    exact roundsTo_write_sticky hf hy (mul_lt_mul_of_pos_right hlow hp) (mul_lt_mul_of_pos_right hhigh hp) r fl true

/-- The roots on a positive value m × 2^e, its exponent made even. -/
theorem even_exponent (m : Nat) (e : Int) :
    (m : ℝ) * 2 ^ e = ((if e % 2 = 0 then m else 2 * m : Nat) : ℝ) * (2 ^ (e / 2) * 2 ^ (e / 2)) := by
  rw [← zpow_add₀ two_ne_zero]
  split
  · next h => rw [show e / 2 + e / 2 = e by omega]
  · next h =>
    rw [show e = e / 2 + e / 2 + 1 by omega, zpow_add_one₀ two_ne_zero, show (e / 2 + e / 2 + 1) / 2 = e / 2 by omega]
    push_cast
    ring

theorem sqrt_even_exponent (m : Nat) (e : Int) : Real.sqrt ((m : ℝ) * 2 ^ e) =
    Real.sqrt ((if e % 2 = 0 then m else 2 * m : Nat) : ℝ) * 2 ^ (e / 2) := by
  rw [even_exponent, Real.sqrt_mul (Nat.cast_nonneg _), Real.sqrt_mul_self (two_zpow_pos _).le]

/-- √(M × 2^64) is √M × 2^32, and √(2^96 / M) is 2^48 / √M. -/
theorem sqrt_scaled (M : Nat) (e : Int) :
    Real.sqrt ((M * 2 ^ 64 : Nat) : ℝ) * 2 ^ (e - 32) = Real.sqrt M * 2 ^ e ∧
      Real.sqrt ((2 ^ 96 : ℝ) / M) * 2 ^ (-48 - e) = 1 / (Real.sqrt M * 2 ^ e) := by
  have h32 : Real.sqrt ((2 : ℝ) ^ 64) = 2 ^ 32 := by
    rw [show (2 : ℝ) ^ 64 = 2 ^ 32 * 2 ^ 32 by norm_num, Real.sqrt_mul_self (by positivity)]
  have h48 : Real.sqrt ((2 : ℝ) ^ 96) = 2 ^ 48 := by
    rw [show (2 : ℝ) ^ 96 = 2 ^ 48 * 2 ^ 48 by norm_num, Real.sqrt_mul_self (by positivity)]
  have hp := two_zpow_pos e
  constructor
  · rw [Nat.cast_mul, Nat.cast_pow, Nat.cast_ofNat, Real.sqrt_mul (Nat.cast_nonneg _), h32, zpow_sub₀ two_ne_zero]
    norm_num
    field_simp
  · rw [Real.sqrt_div (by positivity), h48, sub_eq_add_neg, zpow_add₀ two_ne_zero, zpow_neg, zpow_neg]
    norm_num
    field_simp

/-- The root of a positive value, as the model writes it. -/
theorem roundsTo_root {m : Nat} (hm0 : m ≠ 0) (hm : m < 2 ^ 24) (e : Int) (inv : Bool) (r : Rnd) (fl : Bool) :
    let M := if e % 2 = 0 then m else 2 * m
    let n := if inv then 2 ^ 96 / M else M * 2 ^ 64
    let x : Int := if inv then -48 - e / 2 else e / 2 - 32
    let w := if (!inv || 2 ^ 96 % M == 0) && isqrt n * isqrt n == n then fmtF32.write r fl true (.fin false (isqrt n) x)
      else fmtF32.write r fl true (.fin false (2 * isqrt n + 1) (x - 1))
    RoundsTo fmtF32 r fl true (if inv then 1 / Real.sqrt (m * 2 ^ e) else Real.sqrt (m * 2 ^ e)) w.1 := by
  intro M n x w
  have hM0 : 0 < M := by simp only [M]; split <;> omega
  have hM : M < 2 ^ 25 := by simp only [M]; split <;> omega
  have hMR : (0 : ℝ) < M := Nat.cast_pos.mpr hM0
  obtain ⟨hsqrt, hinv⟩ := sqrt_scaled M (e / 2)
  rw [sqrt_even_exponent]
  change RoundsTo fmtF32 r fl true (if inv then 1 / (Real.sqrt (M : ℝ) * 2 ^ (e / 2)) else Real.sqrt (M : ℝ) * 2 ^ (e / 2)) w.1
  obtain ⟨z, hz⟩ : ∃ z : ℝ, z = if inv then (2 ^ 96 : ℝ) / M else ((M * 2 ^ 64 : Nat) : ℝ) := ⟨_, rfl⟩
  have hval : (if inv then 1 / (Real.sqrt (M : ℝ) * 2 ^ (e / 2)) else Real.sqrt (M : ℝ) * 2 ^ (e / 2)) = Real.sqrt z * 2 ^ x := by
    cases inv
    · simpa [hz, x] using hsqrt.symm
    · simpa [hz, x] using hinv.symm
  have hdiv : (2 ^ 96 : ℝ) / M = ((2 ^ 96 / M : Nat) : ℝ) + ((2 ^ 96 % M : Nat) : ℝ) / M := by
    rw [div_eq_iff hMR.ne', add_mul, div_mul_cancel₀ _ hMR.ne']
    exact_mod_cast (Nat.div_add_mod' (2 ^ 96) M).symm
  have hfrac : ((2 ^ 96 % M : Nat) : ℝ) / M < 1 := (div_lt_one hMR).mpr (Nat.cast_lt.mpr (Nat.mod_lt _ hM0))
  have hnz : (n : ℝ) ≤ z ∧ z < n + 1 ∧ ((n : ℝ) = z ↔ (!inv || 2 ^ 96 % M == 0) = true) := by
    cases inv
    · simp [hz, n]
    · simp only [hz, n, if_true, hdiv, Bool.not_true, Bool.false_or, beq_iff_eq]
      refine ⟨by linarith [div_nonneg (Nat.cast_nonneg (α := ℝ) (2 ^ 96 % M)) hMR.le], by linarith, ?_⟩
      rw [left_eq_add, div_eq_zero_iff, or_iff_left hMR.ne', Nat.cast_eq_zero]
  have hn : 2 ^ 64 ≤ n ∧ n < 2 ^ 256 := by
    have hdivn : 2 ^ 64 ≤ 2 ^ 96 / M ∧ 2 ^ 96 / M ≤ 2 ^ 96 := ⟨(Nat.le_div_iff_mul_le hM0).mpr (by omega), Nat.div_le_self _ _⟩
    simp only [n]
    cases inv
    · simp only [Bool.false_eq_true, if_false]; omega
    · simp only [if_true]; omega
  obtain ⟨hexact, hsticky⟩ := roundsTo_sqrt (e := x) fmtOk_f32 hnz.1 hnz.2.1 ((by decide : 2 ^ (2 * (fmtF32.fb + 2)) ≤ 2 ^ 64).trans hn.1) hn.2 r fl
  rw [hval]
  simp only [w]
  split
  · next h =>
    rw [Bool.and_eq_true, beq_iff_eq] at h
    exact hexact (hnz.2.2.mpr h.1) h.2
  · next h =>
    rw [Bool.and_eq_true, beq_iff_eq] at h
    exact hsticky fun hc => h ⟨hnz.2.2.mp hc.1, hc.2⟩

theorem rootIs_ffnSqrtVal (inv : Bool) (r : Rnd) (fl : Bool) (a : Nat) :
    RootIs inv r fl (flushIn fmtF32 fl a) ((ffnSqrtVal inv r fl a).1 % 2 ^ (32 * 1)) := by
  have hm := means_read fmtOk_f32 fl a
  have hlt := flushIn_lt fmtF32 fl a
  unfold RootIs ffnSqrtVal
  generalize flushIn fmtF32 fl a = x at *
  rw [nan_iff_nanIn, inf_iff_infIn, finite_iff_finIn hlt, neg_eq_negIn]
  cases hv : fmtF32.read fl a with
  | nan =>
    rw [hv] at hm
    exact ⟨fun _ => rfl, fun h => absurd h (NanIn.not_inf hm), fun h => absurd h (NanIn.not_fin hm)⟩
  | inf neg =>
    rw [hv] at hm
    refine ⟨fun h => absurd hm.1 h.not_inf, fun _ => ?_, fun h => absurd h hm.1.not_fin⟩
    rw [hm.2]
    cases neg <;> cases inv <;> rfl
  | fin neg m e =>
    rw [hv] at hm
    obtain ⟨hzero, hneg, hpos⟩ := units_neg_iff hm
    refine ⟨fun h => absurd hm.1 h.not_fin, fun h => absurd hm.1 h.not_fin, fun _ => ⟨fun h => ?_, fun h => ?_, fun h => ?_⟩⟩
    · rw [hm.2.1]
      simp only [hzero.mp h, if_true]
      cases neg <;> cases inv <;> rfl
    · obtain ⟨rfl, hm0⟩ := hneg.mp h
      simp only [hm0, if_false, if_true]
      rfl
    · obtain ⟨rfl, hm0⟩ := hpos.mp h
      have hroot := roundsTo_root hm0 hm.2.2.1.2 e inv r fl
      have hval := hm.2.2.2
      rw [sign_false, Int.cast_one, one_mul] at hval
      rw [hval]
      simp only [hm0, Bool.false_eq_true, if_false]
      rw [hroot.mod_eq]
      exact hroot

end Sys2Proof.Claims
end

section
/-! FFN .exp2, .log2, .sinpi and .cospi where the exact value is a power of two, an integer, 0, 1 or −1 (06 R153). -/

namespace Sys2Proof.Claims
open Sys2Proof.Machine

/-! Powers of two far below and far above the format. -/

/-- A positive value below half of the least subnormal rounds to zero, or upwards to the least subnormal. -/
theorem roundsTo_tiny {f : Fmt} (hf : FmtOk f) {v : ℝ} (hv : 0 < v) (hlt : v < 2 ^ (f.emin - 1)) (r : Rnd) (fl nosat : Bool) :
    RoundsTo f r fl nosat v (flushIn f fl (withSign f false (b2n (r == .rup)))) := by
  obtain ⟨k, hk⟩ : ∃ k, k = b2n (r == .rup) := ⟨_, rfl⟩
  have hk1 : k ≤ 1 := by rw [hk]; unfold b2n; split <;> omega
  have hp := two_zpow_pos f.emin
  have hy0 : 0 < v / 2 ^ f.emin := div_pos hv hp
  have hy1 : v / 2 ^ f.emin < 1 / 2 := by
    rw [div_lt_iff₀ hp]
    rwa [zpow_sub_one₀ two_ne_zero, mul_comm, ← one_div] at hlt
  have hround : RoundsInt r ((sign false : Int) * (v / 2 ^ f.emin)) (sign false * (k : Int)) := by
    rw [sign_false, Int.cast_one, one_mul, one_mul, hk]
    cases r with
    | rne => exact ⟨by simp [b2n, abs_of_pos hy0]; linarith, fun h => by simp [b2n] at h ⊢⟩
    | rtz => simp only [RoundsInt, hy0.le, if_true]; simp [b2n]; exact ⟨hy0.le, by linarith⟩
    | rdn => simp [RoundsInt, b2n]; exact ⟨hy0.le, by linarith⟩
    | rup => simp [RoundsInt, b2n]; exact ⟨by linarith, hy0⟩
  have hsig := (maxSig_bounds hf).1
  have hF := two_le_two_pow_fb hf
  have hpow : 2 ^ (f.fb + 1) = 2 ^ f.fb * 2 := Nat.pow_succ ..
  have hexp : (2 : ℝ) ^ f.emin ≤ 2 ^ maxExp f := zpow_le_zpow_right₀ one_le_two (by unfold maxExp; omega)
  have hone : (1 : ℝ) ≤ maxSig f := by exact_mod_cast (by omega : 1 ≤ maxSig f)
  have hk1' : (k : ℝ) ≤ 1 := by exact_mod_cast hk1
  have hnb : ¬Beyond f r v := by
    have hle : v / 2 ^ maxExp f ≤ maxSig f := by
      rw [div_le_iff₀ (two_zpow_pos _)]
      rw [div_lt_iff₀ hp] at hy1
      nlinarith
    have := not_beyond_of_le hf r false (div_pos hv (two_zpow_pos _)) hle
    rwa [div_mul_cancel₀ _ (two_zpow_pos _).ne', sign_false, Int.cast_one, one_mul] at this
  have hle : packMag f (f.emin - f.emin).toNat k ≤ f.maxBits :=
    packMag_le_maxBits hf le_rfl (by omega) (fun h => absurd h (lt_irrefl _)) (by nlinarith)
  have hnear := nearestIn_packMag (r := r) (neg := false) hf hv le_rfl (by omega) (fun h => absurd h (lt_irrefl _))
    (fun h => absurd h (lt_irrefl _)) hle hround
  rw [sign_false, Int.cast_one, one_mul] at hnear
  refine ⟨fun hb => absurd hb hnb, fun _ => ⟨_, hnear, ?_⟩⟩
  rw [← hk, packMag, Int.sub_self, Int.toNat_zero, Nat.zero_mul, Nat.zero_add]

theorem beyond_f32_two_zpow (r : Rnd) {n : Int} (hn : 128 ≤ n) : Beyond fmtF32 r ((2 : ℝ) ^ n) := by
  have hle : (maxSig fmtF32 : ℝ) + 1 ≤ 2 ^ n / 2 ^ maxExp fmtF32 := by
    rw [le_div_iff₀ (two_zpow_pos _), show maxSig fmtF32 = 2 ^ 24 - 1 from rfl, show maxExp fmtF32 = 104 from rfl]
    calc (((2 ^ 24 - 1 : Nat) : ℝ) + 1) * 2 ^ (104 : Int) = 2 ^ (128 : Int) := by norm_num
      _ ≤ 2 ^ n := zpow_le_zpow_right₀ one_le_two hn
  have := beyond_of_le fmtOk_f32 r false (div_pos (two_zpow_pos n) (two_zpow_pos _)) hle
  rwa [div_mul_cancel₀ _ (two_zpow_pos _).ne', sign_false, Int.cast_one, one_mul] at this

/-- A power of two whose exponent the model bounds by 300 on both sides. -/
theorem roundsTo_exp2 (n : Int) (r : Rnd) (fl : Bool) :
    RoundsTo fmtF32 r fl true ((2 : ℝ) ^ n) (fmtF32.write r fl true (.fin false 1 (max (-300) (min 300 n)))).1 := by
  have hw := fun e : Int => roundsTo_write fmtOk_f32 one_ne_zero r fl true false e
  simp only [sign_false, Int.cast_one, one_mul, Nat.cast_one] at hw
  rcases le_or_gt n (-300) with hlo | hlo
  · rw [max_eq_left (by omega)]
    have htiny : (fmtF32.write r fl true (.fin false 1 (-300))).1 = flushIn fmtF32 fl (withSign fmtF32 false (b2n (r == .rup))) := by
      cases r <;> cases fl <;> decide +kernel
    rw [htiny]
    exact roundsTo_tiny fmtOk_f32 (two_zpow_pos n)
      (zpow_lt_zpow_right₀ one_lt_two (by rw [show fmtF32.emin = -149 from rfl]; omega)) r fl true
  · rcases le_or_gt n 300 with hhi | hhi
    · rw [max_eq_right (by omega), min_eq_right hhi]
      exact hw n
    · rw [min_eq_left hhi.le, max_eq_right (by omega)]
      have hb := beyond_f32_two_zpow r (n := n) (by omega)
      obtain ⟨neg, hneg, hover⟩ := (hw 300).1 (beyond_f32_two_zpow r (by omega))
      exact ⟨fun _ => ⟨neg, hneg.trans (iff_of_false (two_zpow_pos 300).not_gt (two_zpow_pos n).not_gt), hover⟩,
        fun hnb => absurd hb hnb⟩

/-! .exp2 -/

/-- A finite value that is an integer: its ratio divides, with the integer's magnitude as quotient. -/
theorem ratio_of_int {x m : Nat} {neg : Bool} {e n : Int} (h : Means fmtF32 x (.fin neg m e)) (hn : valueOf fmtF32 x = n) :
    n = sign neg * (n.natAbs : Int) ∧ (ratio m e).1 = n.natAbs * (ratio m e).2 := by
  have hval := h.2.2.2
  rw [hn, Rat.cast_intCast, ← ratio_div] at hval
  have hpos : (0 : ℝ) < (ratio m e).2 := Nat.cast_pos.mpr (ratio_snd_pos m e)
  have hq : (0 : ℝ) ≤ ((ratio m e).1 : ℝ) / (ratio m e).2 := div_nonneg (Nat.cast_nonneg _) hpos.le
  have habs : (n.natAbs : ℝ) = ((ratio m e).1 : ℝ) / (ratio m e).2 := by
    rw [Nat.cast_natAbs, Int.cast_abs, hval, abs_mul, abs_sign_cast, one_mul, abs_of_nonneg hq]
  constructor
  · rw [← habs] at hval
    exact Int.cast_injective (α := ℝ) (by rw [Int.cast_mul, Int.cast_natCast, hval])
  · rw [eq_div_iff hpos.ne'] at habs
    exact_mod_cast habs.symm

theorem exp2Is_ffnExp2Val (r : Rnd) (fl : Bool) (a : Nat) :
    Exp2Is r fl (flushIn fmtF32 fl a) ((ffnExp2Val r fl a).1 % 2 ^ (32 * 1)) := by
  have hm := means_read fmtOk_f32 fl a
  have hlt := flushIn_lt fmtF32 fl a
  unfold Exp2Is ffnExp2Val
  generalize flushIn fmtF32 fl a = x at *
  simp only [nan_iff_nanIn, inf_iff_infIn, finite_iff_finIn hlt, neg_eq_negIn]
  cases hv : fmtF32.read fl a with
  | nan =>
    rw [hv] at hm
    exact ⟨fun _ => rfl, fun h => absurd h (NanIn.not_inf hm), fun _ h => absurd h (NanIn.not_fin hm)⟩
  | inf neg =>
    rw [hv] at hm
    refine ⟨fun h => absurd hm.1 h.not_inf, fun _ => ?_, fun _ h => absurd h hm.1.not_fin⟩
    simp only [hm.2]
    cases neg <;> rfl
  | fin neg m e =>
    rw [hv] at hm
    refine ⟨fun h => absurd hm.1 h.not_fin, fun h => absurd hm.1 h.not_fin, fun n _ hn => ?_⟩
    have hexp := roundsTo_exp2 n r fl
    by_cases hm0 : m = 0
    · have hn0 : n = 0 := by exact_mod_cast hn.symm.trans (hm.valueOf_eq_zero.mpr hm0)
      have hone : (fmtF32.write r fl true (.fin false 1 0)).1 = 0x3F800000 := by cases r <;> cases fl <;> decide +kernel
      subst hn0
      simp only [hm0, if_true]
      rw [show max (-300) (min 300 (0 : Int)) = 0 by decide, hone] at hexp
      exact hexp
    · obtain ⟨hsgn, hratio⟩ := ratio_of_int hm hn
      have hpos := ratio_snd_pos m e
      have hmod : (ratio m e).1 % (ratio m e).2 = 0 := by rw [hratio, Nat.mul_mod_left]
      have hdiv : ((ratio m e).1 : Int) / ((ratio m e).2 : Int) = n.natAbs := by
        rw [← Int.natCast_ediv, hratio, Nat.mul_div_cancel _ hpos]
      have hclamp : (if neg = true then -min (n.natAbs : Int) 300 else min (n.natAbs : Int) 300) = max (-300) (min 300 n) := by
        cases neg
        · rw [sign_false] at hsgn
          rw [if_neg Bool.false_ne_true]
          omega
        · rw [sign_true] at hsgn
          rw [if_pos rfl]
          omega
      simp only [hm0, if_false, hmod, if_true, hdiv, hclamp]
      rw [hexp.mod_eq]
      exact hexp

/-! .log2 -/

/-- A significand and exponent whose value is a power of two. -/
theorem significand_of_two_zpow {neg : Bool} {m : Nat} {e n : Int} (h : (2 : ℝ) ^ n = (sign neg : Int) * (m * 2 ^ e)) :
    neg = false ∧ m ≠ 0 ∧ 0 ≤ n - e ∧ m = 2 ^ (n - e).toNat := by
  have hn := two_zpow_pos n
  have hm0 : m ≠ 0 := by
    rintro rfl
    simp [hn.ne'] at h
  have hneg : neg = false := by
    cases neg
    · rfl
    · have hmp : (0 : ℝ) ≤ m * 2 ^ e := mul_nonneg (Nat.cast_nonneg _) (two_zpow_pos e).le
      rw [sign_true] at h
      push_cast at h
      linarith
  subst hneg
  rw [sign_false, Int.cast_one, one_mul] at h
  have hmv : (m : ℝ) = 2 ^ (n - e) := by rw [zpow_sub₀ two_ne_zero, h, mul_div_cancel_right₀ _ (two_zpow_pos e).ne']
  have hle : 0 ≤ n - e := by
    by_contra hc
    have h1 : (1 : ℝ) ≤ m := by exact_mod_cast Nat.one_le_iff_ne_zero.mpr hm0
    have h2 : (2 : ℝ) ^ (n - e) < 1 := zpow_lt_one_of_neg₀ one_lt_two (not_le.mp hc)
    linarith
  rw [← two_pow_toNat hle] at hmv
  exact ⟨rfl, hm0, hle, by exact_mod_cast hmv⟩

theorem log2Is_ffnLog2Val (r : Rnd) (fl : Bool) (a : Nat) :
    Log2Is r fl (flushIn fmtF32 fl a) ((ffnLog2Val r fl a).1 % 2 ^ (32 * 1)) := by
  have hm := means_read fmtOk_f32 fl a
  have hlt := flushIn_lt fmtF32 fl a
  unfold Log2Is ffnLog2Val
  generalize flushIn fmtF32 fl a = x at *
  rw [nan_iff_nanIn, inf_iff_infIn, finite_iff_finIn hlt, neg_eq_negIn]
  cases hv : fmtF32.read fl a with
  | nan =>
    rw [hv] at hm
    exact ⟨fun _ => rfl, fun h => absurd h (NanIn.not_inf hm), fun h => absurd h (NanIn.not_fin hm)⟩
  | inf neg =>
    rw [hv] at hm
    refine ⟨fun h => absurd hm.1 h.not_inf, fun _ => ?_, fun h => absurd h hm.1.not_fin⟩
    rw [hm.2]
    cases neg <;> rfl
  | fin neg m e =>
    rw [hv] at hm
    obtain ⟨hzero, hneg, -⟩ := units_neg_iff hm
    refine ⟨fun h => absurd hm.1 h.not_fin, fun h => absurd hm.1 h.not_fin, fun _ => ⟨fun h => ?_, fun h => ?_, fun n hn => ?_⟩⟩
    · simp only [hzero.mp h, if_true]
      rfl
    · obtain ⟨rfl, hm0⟩ := hneg.mp h
      simp only [hm0, if_false, if_true]
      rfl
    · have hpow : ((valueOf fmtF32 x : ℚ) : ℝ) = 2 ^ n := by
        rw [hn]
        push_cast
        rfl
      obtain ⟨rfl, hm0, hle, hmn⟩ := significand_of_two_zpow (hpow.symm.trans hm.2.2.2)
      have hlog : m.log2 = (n - e).toNat := by rw [hmn, Nat.log2_two_pow]
      obtain ⟨h0, hne⟩ := write_ofInt fmtOk_f32 r fl true n
      simp only [hm0, Bool.false_eq_true, if_false, hlog, ← hmn, if_true, show e + ((n - e).toNat : Int) = n by omega, write_f32_mod]
      split
      · next h => exact h0 h
      · next h => exact hne h

/-! .sinpi, .cospi -/

/-- An even multiple of the half period H, reduced as the model reduces it. -/
theorem reduce_even {H : Int} (hH : 0 < H) (n : Int) :
    let y := 2 * H * n % (4 * H)
    let z := if decide (2 * H ≤ y) then y - 2 * H else y
    min z (2 * H - z) = 0 := by
  intro y z
  have hy : y = 2 * H * (n % 2) := by
    simp only [y]
    rw [show 4 * H = 2 * H * 2 by ring, Int.mul_emod_mul_of_pos _ _ (by omega)]
  have hz : z = 0 := by
    simp only [z, decide_eq_true_eq]
    rcases Int.emod_two_eq_zero_or_one n with h | h <;> rw [hy, h]
    · rw [if_neg (by omega)]; ring
    · rw [if_pos (by omega)]; ring
  rw [hz]
  omega

/-- An odd multiple. -/
theorem reduce_odd {H : Int} (hH : 0 < H) (n : Int) :
    let y := (2 * H * n + H) % (4 * H)
    let z := if decide (2 * H ≤ y) then y - 2 * H else y
    min z (2 * H - z) = H ∧ decide (2 * H ≤ y) = (n % 2 == 1) := by
  intro y z
  have hy : y = 2 * H * (n % 2) + H := by
    simp only [y]
    have hsplit : 2 * H * n + H = 2 * H * (n % 2) + H + 4 * H * (n / 2) := by
      conv_lhs => rw [← Int.emod_add_mul_ediv n 2]
      ring
    rw [hsplit, Int.add_mul_emod_self_left]
    rcases Int.emod_two_eq_zero_or_one n with h | h <;> rw [h] <;> exact Int.emod_eq_of_lt (by omega) (by omega)
  rcases Int.emod_two_eq_zero_or_one n with h | h
  · have hz : z = H := by
      simp only [z, decide_eq_true_eq]
      rw [hy, h, if_neg (by omega)]
      ring
    rw [hz, hy, h, decide_eq_false (by omega)]
    exact ⟨by omega, rfl⟩
  · have hz : z = H := by
      simp only [z, decide_eq_true_eq]
      rw [hy, h, if_pos (by omega)]
      ring
    rw [hz, hy, h, decide_eq_true (by omega)]
    exact ⟨by omega, rfl⟩

/-- Half a unit of the fixed point that the model reduces in: ½ × 2^400. -/
def fxHalf : Int := ((2 ^ 399 : Nat) : Int)

theorem fxHalf_pos : 0 < fxHalf := by
  unfold fxHalf
  positivity

/-- The argument in fixed point, the quarter period of the cosine included. -/
def fxArg (cos : Bool) (neg : Bool) (m : Nat) (e : Int) : Int := unitsAt neg m e (-400) + if cos then fxHalf else 0

theorem fxArg_cast (cos : Bool) {x m : Nat} {neg : Bool} {e : Int} (h : Means fmtF32 x (.fin neg m e)) :
    ((fxArg cos neg m e : Int) : ℝ) = (valueOf fmtF32 x : ℚ) * (2 * (fxHalf : ℝ)) + if cos then (fxHalf : ℝ) else 0 := by
  obtain ⟨-, -, ⟨he, -⟩, hval⟩ := h
  have hemin : (-400 : Int) ≤ e := le_trans (by decide) he
  have hpow : (2 : ℝ) * (fxHalf : ℝ) = 1 / 2 ^ (-400 : Int) := by
    have h400 : (1 : ℝ) / 2 ^ (-400 : Int) = 2 ^ (399 : Nat) * 2 := by
      rw [one_div, ← zpow_neg, neg_neg, ← zpow_natCast, ← zpow_add_one₀ two_ne_zero]
      rfl
    rw [h400, fxHalf, Int.cast_natCast, Nat.cast_pow, Nat.cast_ofNat, mul_comm]
  rw [fxArg, Int.cast_add, unitsAt_cast neg m hemin, hval, hpow, mul_one_div]
  congr 1
  split <;> simp

section
variable {cos : Bool} {r : Rnd} {fl : Bool} {a m : Nat} {neg : Bool} {e n : Int} (hv : fmtF32.read fl a = .fin neg m e)
include hv

/-- At an even multiple of the half period: zero. -/
theorem ffnSinVal_even (hx : fxArg cos neg m e = 2 * fxHalf * n) :
    (ffnSinVal cos r fl a).1 = if cos then 0 else withSign fmtF32 neg 0 := by
  have hred := reduce_even fxHalf_pos n
  rw [← hx] at hred
  unfold ffnSinVal
  rw [hv]
  exact congrArg Prod.fst (if_pos hred)

/-- At an odd multiple: one, with the sign of the half period. -/
theorem ffnSinVal_odd (hx : fxArg cos neg m e = 2 * fxHalf * n + fxHalf) :
    (ffnSinVal cos r fl a).1 = withSign fmtF32 (n % 2 == 1) 0x3F800000 := by
  obtain ⟨hred, hsgn⟩ := reduce_odd fxHalf_pos n
  have hne := hred.symm ▸ fxHalf_pos.ne'
  rw [← hx] at hred hsgn hne
  unfold ffnSinVal
  rw [hv, ← hsgn]
  exact congrArg Prod.fst ((if_neg hne).trans (if_pos hred))

end

/-- The argument at an integer and at a half of an odd integer. -/
theorem fxArg_of_value (cos : Bool) {x m : Nat} {neg : Bool} {e n : Int} (h : Means fmtF32 x (.fin neg m e)) :
    (valueOf fmtF32 x = n → fxArg cos neg m e = 2 * fxHalf * n + if cos then fxHalf else 0) ∧
      (valueOf fmtF32 x = n + 1 / 2 → fxArg cos neg m e = 2 * fxHalf * n + fxHalf + if cos then fxHalf else 0) := by
  have hc := fxArg_cast cos h
  refine ⟨fun hn => ?_, fun hn => ?_⟩ <;> rw [← Int.cast_inj (α := ℝ), hc, hn] <;> push_cast <;> split <;> ring

theorem sinPiIs_ffnSinVal (r : Rnd) (fl : Bool) (a : Nat) :
    SinPiIs (flushIn fmtF32 fl a) ((ffnSinVal false r fl a).1 % 2 ^ (32 * 1)) := by
  have hm := means_read fmtOk_f32 fl a
  have hlt := flushIn_lt fmtF32 fl a
  unfold SinPiIs
  generalize flushIn fmtF32 fl a = x at *
  simp only [nan_iff_nanIn, inf_iff_infIn, finite_iff_finIn hlt, neg_eq_negIn]
  cases hv : fmtF32.read fl a with
  | nan =>
    rw [hv] at hm
    refine ⟨fun _ => by rw [ffnSinVal, hv]; rfl, fun h => absurd h (NanIn.not_fin hm), fun _ h => absurd h (NanIn.not_fin hm)⟩
  | inf neg =>
    rw [hv] at hm
    refine ⟨fun _ => by rw [ffnSinVal, hv]; rfl, fun h => absurd h hm.1.not_fin, fun _ h => absurd h hm.1.not_fin⟩
  | fin neg m e =>
    rw [hv] at hm
    have hzero : ∀ n : Int, valueOf fmtF32 x = n → (ffnSinVal false r fl a).1 % 2 ^ (32 * 1) = withSign fmtF32 neg 0 :=
      fun n hn => by
        rw [ffnSinVal_even (n := n) hv (by simpa using (fxArg_of_value false hm).1 hn)]
        cases neg <;> rfl
    refine ⟨?_, fun _ h0 => ?_, fun n _ => ⟨fun hn hn0 => ?_, fun hn => ?_⟩⟩
    · rintro (h | h)
      · exact absurd hm.1 h.not_fin
      · exact absurd hm.1 h.not_fin
    · rw [hm.2.1]
      exact hzero 0 (by simpa using (units_eq_zero x).mp h0)
    · rw [hzero n hn]
      have hsgn := (ratio_of_int hm hn).1
      congr 1
      cases neg
      · rw [sign_false] at hsgn
        rw [eq_comm, decide_eq_false_iff_not]
        omega
      · rw [sign_true] at hsgn
        rw [eq_comm, decide_eq_true_iff]
        omega
    · rw [ffnSinVal_odd (n := n) hv (by simpa using (fxArg_of_value false hm).2 hn)]
      cases n % 2 == 1 <;> rfl

theorem cosPiIs_ffnSinVal (r : Rnd) (fl : Bool) (a : Nat) :
    CosPiIs (flushIn fmtF32 fl a) ((ffnSinVal true r fl a).1 % 2 ^ (32 * 1)) := by
  have hm := means_read fmtOk_f32 fl a
  have hlt := flushIn_lt fmtF32 fl a
  unfold CosPiIs
  generalize flushIn fmtF32 fl a = x at *
  simp only [nan_iff_nanIn, inf_iff_infIn, finite_iff_finIn hlt]
  cases hv : fmtF32.read fl a with
  | nan =>
    rw [hv] at hm
    exact ⟨fun _ => by rw [ffnSinVal, hv]; rfl, fun _ h => absurd h (NanIn.not_fin hm)⟩
  | inf neg =>
    rw [hv] at hm
    exact ⟨fun _ => by rw [ffnSinVal, hv]; rfl, fun _ h => absurd h hm.1.not_fin⟩
  | fin neg m e =>
    rw [hv] at hm
    refine ⟨?_, fun n _ => ⟨fun hn => ?_, fun hn => ?_⟩⟩
    · rintro (h | h)
      · exact absurd hm.1 h.not_fin
      · exact absurd hm.1 h.not_fin
    · rw [ffnSinVal_odd (n := n) hv (by simpa using (fxArg_of_value true hm).1 hn)]
      cases n % 2 == 1 <;> rfl
    · have hx : fxArg true neg m e = 2 * fxHalf * (n + 1) := by
        have := (fxArg_of_value true hm).2 hn
        rw [if_pos rfl] at this
        rw [this]
        ring
      rw [ffnSinVal_even hv hx]
      rfl

/-! The forms. -/

section
variable {s : State} {t g : Nat} {h : Hdr} {rnd : Rnd} {ftz : Bool} {d a : Reg}

/-- R153 for the seven functions. -/
theorem functions_holds : Functions := fun s t g h rnd ftz d a => by
  have hrcp : exec (.ffnRcp h rnd ftz d a) s = execFfnRcp h rnd ftz d a s := rfl
  have hsqrt : exec (.ffnSqrt h rnd ftz d a) s = execFfnSqrt h rnd ftz d a s := rfl
  have hrsqrt : exec (.ffnRsqrt h rnd ftz d a) s = execFfnRsqrt h rnd ftz d a s := rfl
  have hexp2 : exec (.ffnExp2 h rnd ftz d a) s = execFfnExp2 h rnd ftz d a s := rfl
  have hlog2 : exec (.ffnLog2 h rnd ftz d a) s = execFfnLog2 h rnd ftz d a s := rfl
  have hsin : exec (.ffnSinpi h rnd ftz d a) s = execFfnSinpi h rnd ftz d a s := rfl
  have hcos : exec (.ffnCospi h rnd ftz d a) s = execFfnCospi h rnd ftz d a s := rfl
  exact ⟨fun hR => gives_ffnForm hrcp hR.issuing (hR.declared rfl) (reciprocalIs_ffnRcpVal rnd),
    fun hR => gives_ffnForm hsqrt hR.issuing (hR.declared rfl) (rootIs_ffnSqrtVal false rnd),
    fun hR => gives_ffnForm hrsqrt hR.issuing (hR.declared rfl) (rootIs_ffnSqrtVal true rnd),
    fun hR => gives_ffnForm hexp2 hR.issuing (hR.declared rfl) (exp2Is_ffnExp2Val rnd),
    fun hR => gives_ffnForm hlog2 hR.issuing (hR.declared rfl) (log2Is_ffnLog2Val rnd),
    fun hR => gives_ffnForm (P := fun _ => SinPiIs) hsin hR.issuing (hR.declared rfl) (sinPiIs_ffnSinVal rnd),
    fun hR => gives_ffnForm (P := fun _ => CosPiIs) hcos hR.issuing (hR.declared rfl) (cosPiIs_ffnSinVal rnd)⟩

end

/-- Settles O9: every form reads exact values and rounds one exact result. -/
theorem floatArithmeticRoundsOnce : Obligations.FloatArithmeticRoundsOnce :=
  ⟨arithmetic_holds, conversions_holds, functions_holds⟩

end Sys2Proof.Claims
end

section
/-! SHFL, BALLOT and VOTE settled (07 R163 to R165): what a participant finds of the lanes of E. -/

namespace Sys2Proof.Claims
open Sys2Proof.Machine

/-! SHFL (07 R163). -/

/-- A destination and a predicate, written together. -/
def writeRegPredG (E : Lanes) (d : Reg) (k : Nat) (v : Nat → Nat) (p : Nat) (q : Nat → Bool) (g : Group) : Group :=
  (writeRegG E d k v g).setPred p E (laneSet fun l => E.getLsbD l && q l)

@[simp] theorem writeRegPredG_soft (E : Lanes) (d : Reg) (k : Nat) (v : Nat → Nat) (p : Nat) (q : Nat → Bool) (g : Group) :
    (writeRegPredG E d k v p q g).soft = g.soft :=
  (setPred_soft _ _ _ _).trans (writeRegG_soft _ _ _ _ _)

theorem regGet_writeRegPredG (E : Lanes) (d : Reg) (k : Nat) (v : Nat → Nat) (p : Nat) (q : Nat → Bool) (g : Group) {l : Nat}
    (hl : l < 32) (hE : E.getLsbD l = true) :
    regGet (writeRegPredG E d k v p q g) d l k = v (laneOf d E l) % 2 ^ (32 * k) := by
  rw [writeRegPredG, setPred_regGet, regGet_writeRegG _ _ _ _ _ hl hE]

theorem pred_writeRegPredG (E : Lanes) (d : Reg) (k : Nat) (v : Nat → Nat) (p : Nat) (q : Nat → Bool) (g : Group) {l : Nat}
    (hl : l < 32) (hE : E.getLsbD l = true) :
    ((writeRegPredG E d k v p q g).pred p).getLsbD l = (decide (p = 0) || q l) :=
  getLsbD_pred_setPred _ _ _ _ hl hE

/-- The lane that a form of SHFL names for lane l. -/
def shflSource (gr : Group) (b : Opd) (src : Nat → Nat → Nat) (l : Nat) : Nat := src l (amount gr b l % 32)

/-- That lane is a participant. -/
def fromParticipant (gr : Group) (E : Lanes) (b : Opd) (src : Nat → Nat → Nat) (l : Nat) : Bool :=
  decide (shflSource gr b src l < 32) && E.getLsbD (shflSource gr b src l)

/-- What SHFL writes for a lane: the value of its source, or its own. -/
def shflVal (gr : Group) (E : Lanes) (k : Nat) (src : Nat → Nat → Nat) (a : BitVec 8) (b : Opd) (l : Nat) : Nat :=
  regGet gr (.v a) (if fromParticipant gr E b src l then shflSource gr b src l else l) k

section
variable {i : Instr} {s : State} {t g : Nat} {h : Hdr}

theorem fromParticipant_iff (b : Opd) (src : Nat → Nat → Nat) (l : Nat) :
    fromParticipant (s.grp t g) (eligible s t g h) b src l = true ↔ InE s t g h (shflSource (s.grp t g) b src l) := by
  rw [fromParticipant, Bool.and_eq_true, decide_eq_true_eq, InE]

theorem updates_shflForm {size k : Nat} {src : Nat → Nat → Nat} {d a : BitVec 8} {b : Opd} {pv : BitVec 3}
    (hx : exec i s = shflForm h size k src d a b pv s) (hI : Issuing s t g)
    (hd : Declared s t h (((.v a, k) :: ofOpd b 1) ++ [(.v d, k)])) :
    Updates i s t g h (writeRegPredG (eligible s t g h) (.v d) k (shflVal (s.grp t g) (eligible s t g h) k src a b)
      pv.toNat (fromParticipant (s.grp t g) (eligible s t g h) b src)) := by
  have hr := rangeOk_append_opdUse (us := [.rd (.v a) k, .wr (.v d) k, .wp pv.toNat]) (b := b) (k := 1) hd
    (by simp [Named]) fun x hx => by simp [hx]
  refine updates_of_simt _ hx hI hr (adv_predReg.trans ?_) (writeRegPredG_soft _ _ _ _ _ _ _)
  simp only [opdGet_one]
  rfl

/-- SHFL gives each participant its source's value where the source is a participant, else its own, and the predicate says
which. -/
theorem gives_shflForm {size k : Nat} {src : Nat → Nat → Nat} {d a : BitVec 8} {b : Opd} {pv : BitVec 3}
    (hx : exec i s = shflForm h size k src d a b pv s) (hI : Issuing s t g)
    (hd : Declared s t h (((.v a, k) :: ofOpd b 1) ++ [(.v d, k)])) :
    (Gives i s t g h (.v d) k fun l r =>
      (InE s t g h (shflSource (s.grp t g) b src l) → r = regGet (s.grp t g) (.v a) (shflSource (s.grp t g) b src l) k) ∧
      (¬InE s t g h (shflSource (s.grp t g) b src l) → r = regGet (s.grp t g) (.v a) l k)) ∧
    GivesPred i s t g h pv fun l => InE s t g h (shflSource (s.grp t g) b src l) := by
  have hu := updates_shflForm hx hI hd
  constructor
  · refine hu.gives fun l ⟨hl, hE⟩ => ?_
    rw [regGet_writeRegPredG _ _ _ _ _ _ _ hl hE, shflVal, Nat.mod_eq_of_lt (regGet_lt _ _ _ _)]
    constructor
    · intro hp
      rw [if_pos ((fromParticipant_iff b src _).mpr hp)]
    · intro hp
      rw [if_neg fun hq => hp ((fromParticipant_iff b src _).mp hq)]
  · exact hu.givesPred (fun l ⟨hl, hE⟩ => pred_writeRegPredG _ _ _ _ _ _ _ hl hE) (fromParticipant_iff b src)

end

/-- The four forms of SHFL, each with its source. -/
theorem shfl_gives {s : State} {t g : Nat} {h : Hdr} {ty : Ty} {d a : BitVec 8} {b : Opd} {pv : BitVec 3} {i : Instr}
    (hi : i ∈ [Instr.shflIdx h ty d a b pv, .shflUp h ty d a b pv, .shflDown h ty d a b pv, .shflXor h ty d a b pv])
    (hR : Ready i s t g) :
    let src (l : Nat) : Nat := sourceLane i l (amount (s.grp t g) b l % 32)
    (Gives i s t g h (.v d) (tyRegs ty) fun l r =>
      (InE s t g h (src l) → r = regGet (s.grp t g) (.v a) (src l) (tyRegs ty)) ∧
      (¬InE s t g h (src l) → r = regGet (s.grp t g) (.v a) l (tyRegs ty))) ∧
    GivesPred i s t g h pv fun l => InE s t g h (src l) := by
  simp only [List.mem_cons, List.not_mem_nil, or_false] at hi
  obtain rfl | rfl | rfl | rfl := hi
  · exact gives_shflForm (src := srcIdx) rfl hR.issuing (hR.declared rfl)
  · exact gives_shflForm (src := srcUp) rfl hR.issuing (hR.declared rfl)
  · exact gives_shflForm (src := srcDown) rfl hR.issuing (hR.declared rfl)
  · exact gives_shflForm (src := srcXor) rfl hR.issuing (hR.declared rfl)

/-! BALLOT (07 R164). -/

/-- The mask holds the selected bit of each lane of E. -/
theorem ballotVal_spec (gr : Group) (E : Lanes) (a : Reg) (b : Opd) : ballotVal gr E a b < 2 ^ 32 ∧
    ∀ l < 32, (ballotVal gr E a b).testBit l = (E.getLsbD l && (regGet gr a l 1).testBit (amount gr b l % 32)) := by
  refine ⟨BitVec.isLt _, fun l hl => ?_⟩
  rw [ballotVal, BitVec.testBit_toNat, getLsbD_laneSet, decide_eq_true hl, Bool.true_and, opdGet_one]

section
variable {s : State} {t g : Nat} {h : Hdr}

theorem ballot_gives {d a : Reg} {b : Opd} (hR : Ready (.ballot h d a b) s t g) :
    Gives (.ballot h d a b) s t g h d 1 fun _ r => r < 2 ^ 32 ∧ ∀ l < 32, r.testBit l = true ↔
      InE s t g h l ∧ (regGet (s.grp t g) a l 1).testBit (amount (s.grp t g) b l % 32) = true := by
  have he : exec (.ballot h d a b) s = execBallot h d a b s := rfl
  have hr := rangeOk_append_opdUse (us := [.rd a 1, .wr d 1]) (b := b) (k := 1) (hR.declared rfl)
    (by simp [Named, formAb]) fun x hx => by simp [formAb, hx]
  have hu : Updates (.ballot h d a b) s t g h
      (writeRegG (eligible s t g h) d 1 fun _ => ballotVal (s.grp t g) (eligible s t g h) a b) :=
    updates_of_simt _ he hR.issuing hr adv_writeReg (writeRegG_soft _ _ _ _ _)
  obtain ⟨hlt, hbit⟩ := ballotVal_spec (s.grp t g) (eligible s t g h) a b
  refine hu.gives fun _ ⟨hl, hE⟩ => ?_
  rw [regGet_writeRegG _ _ _ _ _ hl hE, Nat.mod_eq_of_lt hlt]
  refine ⟨hlt, fun l hl => ?_⟩
  rw [hbit l hl, Bool.and_eq_true, InE]
  exact and_congr_left' (by simp [hl])

/-! VOTE (07 R165). -/

/-- The participants whose bit of a predicate is set. -/
theorem getLsbD_and_eligible (p : Lanes) (l : Nat) :
    (p &&& eligible s t g h).getLsbD l = true ↔ InE s t g h l ∧ p.getLsbD l = true := by
  rw [BitVec.getLsbD_and, Bool.and_eq_true, InE, and_comm]
  refine and_congr_left' ⟨fun hE => ⟨?_, hE⟩, And.right⟩
  by_contra hl
  simp [BitVec.getLsbD_of_ge _ _ (not_lt.mp hl)] at hE

theorem voteAllVal_iff (p : Lanes) : voteAllVal (p &&& eligible s t g h) (eligible s t g h) = true ↔
    ∀ l, InE s t g h l → p.getLsbD l = true := by
  rw [voteAllVal, beq_iff_eq]
  constructor
  · intro he l hl
    have hb := hl.2
    rw [← he] at hb
    exact ((getLsbD_and_eligible p l).mp hb).2
  · intro hall
    refine BitVec.eq_of_getLsbD_eq fun l hl => ?_
    rw [BitVec.getLsbD_and]
    cases hE : (eligible s t g h).getLsbD l with
    | false => exact Bool.and_false _
    | true => rw [hall l ⟨hl, hE⟩]; rfl

/-- No participant holds the predicate. -/
theorem and_eligible_eq_zero (p : Lanes) : p &&& eligible s t g h = 0 ↔ ∀ l, InE s t g h l → p.getLsbD l = false := by
  constructor
  · intro hz l hl
    refine Bool.eq_false_iff.mpr fun hp => ?_
    have hb := (getLsbD_and_eligible p l).mpr ⟨hl, hp⟩
    simp [hz] at hb
  · intro hnone
    refine BitVec.eq_of_getLsbD_eq fun l hl => ?_
    refine (Bool.eq_false_iff.mpr fun hb => ?_).trans BitVec.getLsbD_zero.symm
    obtain ⟨hE, hp⟩ := (getLsbD_and_eligible p l).mp hb
    exact Bool.false_ne_true ((hnone l hE).symm.trans hp)

theorem voteAnyVal_iff (p : Lanes) : voteAnyVal (p &&& eligible s t g h) (eligible s t g h) = true ↔
    ∃ l, InE s t g h l ∧ p.getLsbD l = true := by
  rw [voteAnyVal, bne_iff_ne, ne_eq, and_eligible_eq_zero]
  push Not
  simp only [ne_eq, Bool.not_eq_false]

/-- Participants agree where all of them hold the predicate or none does. -/
theorem voteUniVal_iff (p : Lanes) : voteUniVal (p &&& eligible s t g h) (eligible s t g h) = true ↔
    ∀ l m, InE s t g h l → InE s t g h m → p.getLsbD l = p.getLsbD m := by
  have hall := voteAllVal_iff (s := s) (t := t) (g := g) (h := h) p
  rw [voteUniVal, Bool.or_eq_true, ← voteAllVal, hall, beq_iff_eq, and_eligible_eq_zero]
  constructor
  · rintro (hp | hp) l m hl hm <;> rw [hp l hl, hp m hm]
  · intro hsame
    by_cases hex : ∃ l, InE s t g h l ∧ p.getLsbD l = true
    · obtain ⟨l, hl, hp⟩ := hex
      exact Or.inl fun m hm => (hsame m l hm hl).trans hp
    · exact Or.inr fun m hm => Bool.eq_false_iff.mpr fun hp => hex ⟨m, hm, hp⟩

theorem gives_voteForm {i : Instr} {size : Nat} {pd pa : BitVec 3} {f : Lanes → Lanes → Bool} {P : Prop}
    (hx : exec i s = voteForm h size pd pa f s) (hI : Issuing s t g) (hd : Declared s t h ([] ++ []))
    (hP : f ((s.grp t g).pred pa.toNat &&& eligible s t g h) (eligible s t g h) = true ↔ P) :
    GivesPred i s t g h pd fun _ => P := by
  have hu := updates_of_simt (t := t) (g := g) _ hx hI (rangeOk_of_named hd (by simp [Named])) adv_writePred
    (setPred_soft _ _ _ _)
  exact hu.givesPred (fun l ⟨hl, hE⟩ => getLsbD_pred_setPred _ _ _ _ hl hE) fun _ => hP

variable {pd pa : BitVec 3}

theorem voteAll_gives (hR : Ready (.voteAll h pd pa) s t g) : GivesPred (.voteAll h pd pa) s t g h pd fun _ =>
    ∀ l, InE s t g h l → ((s.grp t g).pred pa.toNat).getLsbD l = true :=
  gives_voteForm rfl hR.issuing (hR.declared rfl) (voteAllVal_iff _)

theorem voteAny_gives (hR : Ready (.voteAny h pd pa) s t g) : GivesPred (.voteAny h pd pa) s t g h pd fun _ =>
    ∃ l, InE s t g h l ∧ ((s.grp t g).pred pa.toNat).getLsbD l = true :=
  gives_voteForm rfl hR.issuing (hR.declared rfl) (voteAnyVal_iff _)

theorem voteUni_gives (hR : Ready (.voteUni h pd pa) s t g) : GivesPred (.voteUni h pd pa) s t g h pd fun _ =>
    ∀ l m, InE s t g h l → InE s t g h m →
      ((s.grp t g).pred pa.toNat).getLsbD l = ((s.grp t g).pred pa.toNat).getLsbD m :=
  gives_voteForm rfl hR.issuing (hR.declared rfl) (voteUniVal_iff _)

end

/-- Settles O11: exchanges by their source lanes, ballots bit by bit, votes by the lanes of E that hold the predicate. -/
theorem laneExchangeResults : Obligations.LaneExchangeResults := fun _ _ _ _ _ _ _ _ _ _ _ _ _ _ =>
  ⟨shfl_gives, ballot_gives, voteAll_gives, voteAny_gives, voteUni_gives⟩

end Sys2Proof.Claims
end

section
/-! LRED settled (07 R166): the fold over the participants, by the type's sum, order and bits. -/

namespace Sys2Proof.Claims
open Sys2Proof.Machine

/-! The fold. -/

theorem foldVals_concat (f : Nat → Nat → Nat × Flags) {xs : List Nat} (hne : xs ≠ []) (y : Nat) :
    (foldVals f (xs ++ [y])).1 = (f (foldVals f xs).1 y).1 := by
  cases xs with
  | nil => exact absurd rfl hne
  | cons x xs => simp only [foldVals, List.cons_append, List.foldl_append, List.foldl_cons, List.foldl_nil]

/-- What holds of one value, and is kept as the fold takes one more, holds of the fold of values that all meet Q. -/
theorem foldVals_induction {f : Nat → Nat → Nat × Flags} {Q : Nat → Prop} {P : List Nat → Nat → Prop}
    (one : ∀ x, Q x → P [x] x) (concat : ∀ xs r y, xs ≠ [] → Q y → P xs r → P (xs ++ [y]) (f r y).1) {xs : List Nat}
    (hne : xs ≠ []) (hQ : ∀ x ∈ xs, Q x) : P xs (foldVals f xs).1 := by
  induction xs using List.reverseRecOn with
  | nil => exact absurd rfl hne
  | append_singleton xs y ih =>
    obtain ⟨hxs, hy⟩ := List.forall_mem_append.mp hQ
    have hy := hy y List.mem_cons_self
    by_cases he : xs = []
    · subst he
      exact one y hy
    · rw [foldVals_concat f he]
      exact concat xs _ y he hy (ih he hxs)

/-- One more value, folded by one more step. -/
theorem FoldedBy.concat {step : Nat → Nat → Nat → Prop} {xs : List Nat} {r y r' : Nat} (hne : xs ≠ [])
    (h : FoldedBy step xs r) (hs : step r y r') : FoldedBy step (xs ++ [y]) r' := by
  obtain ⟨ys, h0, hlast, hstep⟩ := h
  have hpos := List.length_pos_iff.mpr hne
  refine ⟨Function.update ys xs.length r', ?_, ?_, fun j hj => ?_⟩
  · rw [Function.update_of_ne hpos.ne, h0]
    cases xs with
    | nil => exact absurd rfl hne
    | cons x xs => rfl
  · simp
  · rw [List.length_append, List.length_singleton] at hj
    rw [Function.update_of_ne (show j ≠ xs.length by omega)]
    by_cases hlt : j + 1 < xs.length
    · rw [Function.update_of_ne hlt.ne, List.getD_append _ _ _ _ hlt]
      exact hstep j hlt
    · obtain rfl : j = xs.length - 1 := by omega
      have hend : xs.length - 1 + 1 = xs.length := by omega
      rw [hend, Function.update_self, List.getD_append_right _ _ _ _ le_rfl, Nat.sub_self, hlast]
      exact hs

/-- A fold whose steps meet a relation, on values below a bound. -/
theorem foldedBy_foldVals {f : Nat → Nat → Nat × Flags} {step : Nat → Nat → Nat → Prop} {n : Nat} {xs : List Nat}
    (hstep : ∀ x y, x < n → y < n → step x y (f x y).1 ∧ (f x y).1 < n) (hne : xs ≠ []) (hlt : ∀ x ∈ xs, x < n) :
    FoldedBy step xs (foldVals f xs).1 ∧ (foldVals f xs).1 < n := by
  refine foldVals_induction (P := fun xs r => FoldedBy step xs r ∧ r < n) (fun x hx => ?_) (fun xs r y he hy h => ?_) hne hlt
  · exact ⟨⟨fun _ => x, rfl, rfl, fun j hj => by simp at hj⟩, hx⟩
  · obtain ⟨hf, hr⟩ := h
    obtain ⟨hs, hn⟩ := hstep r y hr hy
    exact ⟨hf.concat he hs, hn⟩

/-! Integers (05 R128, R133) and bits. -/

/-- Types of one or two whole registers. -/
theorem tyBits_of_wideIntTy {ty : Ty} (h : wideIntTy ty = true) : tyBits ty = 32 * tyRegs ty := by
  revert h; cases ty <;> decide

/-- A whole register's bits are those of its value. -/
theorem wrap_tyVal {ty : Ty} {x : Nat} (hx : x < 2 ^ tyBits ty) : wrap (tyBits ty) (tyVal ty x) = x := by
  have hw := wrap_cast (tyBits ty) (tyVal ty x)
  have hmod : tyVal ty x % ((2 ^ tyBits ty : Nat) : Int) = x := by
    unfold tyVal sgn
    rw [Nat.mod_eq_of_lt hx]
    split
    · split
      · exact Int.emod_eq_of_lt (by omega) (by omega)
      · rw [Int.sub_emod_right]
        exact Int.emod_eq_of_lt (by omega) (by omega)
    · exact Int.emod_eq_of_lt (by omega) (by omega)
  rw [hmod] at hw
  exact_mod_cast hw

/-- No result of a type of whole registers is extended. -/
theorem tyRes_of_wideIntTy {ty : Ty} (h : wideIntTy ty = true) (v : Int) : tyRes ty v = wrap (tyBits ty) v := by
  have h32 : ¬tyBits ty < 32 := by revert h; cases ty <;> decide
  simp only [tyRes, h32, decide_false, Bool.and_false, Bool.false_eq_true, if_false]

/-- The sum of two values is the sum of their bits, modulo 2^w. -/
theorem addVal_of_wideIntTy {ty : Ty} (h : wideIntTy ty = true) {x y : Nat} (hx : x < 2 ^ tyBits ty) (hy : y < 2 ^ tyBits ty) :
    addVal ty false x y = (x + y) % 2 ^ tyBits ty := by
  have hxw := wrap_cast (tyBits ty) (tyVal ty x)
  have hyw := wrap_cast (tyBits ty) (tyVal ty y)
  rw [wrap_tyVal hx] at hxw
  rw [wrap_tyVal hy] at hyw
  have hsum := wrap_cast (tyBits ty) (tyVal ty x + tyVal ty y)
  rw [Int.add_emod, ← hxw, ← hyw] at hsum
  rw [addVal, satRes, if_neg Bool.false_ne_true, tyRes_of_wideIntTy h]
  exact_mod_cast hsum

/-- IMNMX returns the operand of the lower value, or of the higher: of the lower under the sign of .max. -/
theorem imnmx_cases {ty : Ty} (h : wideIntTy ty = true) (hi : Bool) {x y : Nat} (hx : x < 2 ^ tyBits ty)
    (hy : y < 2 ^ tyBits ty) :
    let r := if hi then maxVal ty x y else minVal ty x y
    (r = x ∧ sign hi * tyVal ty x ≤ sign hi * tyVal ty y) ∨ (r = y ∧ sign hi * tyVal ty y ≤ sign hi * tyVal ty x) := by
  have hmin : minVal ty x y = if tyVal ty x ≤ tyVal ty y then x else y := by
    rw [minVal, tyRes_of_wideIntTy h, min_def]
    split
    · exact wrap_tyVal hx
    · exact wrap_tyVal hy
  have hmax : maxVal ty x y = if tyVal ty x ≤ tyVal ty y then y else x := by
    rw [maxVal, tyRes_of_wideIntTy h, max_def]
    split
    · exact wrap_tyVal hy
    · exact wrap_tyVal hx
  rw [hmin, hmax]
  by_cases hle : tyVal ty x ≤ tyVal ty y
  · cases hi <;> simp [hle]
  · cases hi <;> simp [hle, (not_le.mp hle).le]

/-- The fold of sums is the sum of all, modulo n. -/
theorem foldVals_sum {f : Nat → Nat → Nat} {n : Nat} {xs : List Nat} (hf : ∀ x y, x < n → y < n → f x y = (x + y) % n)
    (hne : xs ≠ []) (hlt : ∀ x ∈ xs, x < n) : (foldVals (fun x y => (f x y, 0)) xs).1 = xs.sum % n := by
  refine foldVals_induction (P := fun xs r => r = xs.sum % n) (fun x hx => ?_) (fun xs r y he hy h => ?_) hne hlt
  · rw [List.sum_singleton, Nat.mod_eq_of_lt hx]
  · have hn : 0 < n := by omega
    rw [h, hf _ _ (Nat.mod_lt _ hn) hy, List.sum_append, List.sum_singleton, Nat.mod_add_mod]

/-- The fold of a choice between two values is the one of least key. -/
theorem foldVals_least {f : Nat → Nat → Nat} {key : Nat → Int} {n : Nat} {xs : List Nat}
    (hf : ∀ x y, x < n → y < n → (f x y = x ∧ key x ≤ key y) ∨ (f x y = y ∧ key y ≤ key x)) (hne : xs ≠ [])
    (hlt : ∀ x ∈ xs, x < n) :
    let r := (foldVals (fun x y => (f x y, 0)) xs).1
    r ∈ xs ∧ ∀ x ∈ xs, key r ≤ key x := by
  refine (foldVals_induction (P := fun xs r => r < n ∧ r ∈ xs ∧ ∀ x ∈ xs, key r ≤ key x) (fun x hx => ?_)
    (fun xs r y _ hy h => ?_) hne hlt).2
  · exact ⟨hx, List.mem_cons_self, fun z hz => by rw [List.mem_singleton.mp hz]⟩
  · obtain ⟨hr, hmem, hle⟩ := h
    simp only [List.mem_append, List.mem_singleton, or_imp, forall_and, forall_eq]
    rcases hf r y hr hy with ⟨he, hry⟩ | ⟨he, hyr⟩
    · rw [he]
      exact ⟨hr, Or.inl hmem, hle, hry⟩
    · rw [he]
      exact ⟨hy, Or.inr rfl, fun x hx => hyr.trans (hle x hx), le_rfl⟩

theorem testBit_foldVals_and {xs : List Nat} (hne : xs ≠ []) (k : Nat) :
    (foldVals (fun x y => (x &&& y, 0)) xs).1.testBit k = xs.all fun x => x.testBit k := by
  refine foldVals_induction (Q := fun _ => True) (P := fun xs r => r.testBit k = xs.all fun x => x.testBit k) (fun x _ => ?_)
    (fun xs r y _ _ h => ?_) hne fun _ _ => trivial
  · simp
  · simp [h]

theorem testBit_foldVals_or {xs : List Nat} (hne : xs ≠ []) (k : Nat) :
    (foldVals (fun x y => (x ||| y, 0)) xs).1.testBit k = xs.any fun x => x.testBit k := by
  refine foldVals_induction (Q := fun _ => True) (P := fun xs r => r.testBit k = xs.any fun x => x.testBit k) (fun x _ => ?_)
    (fun xs r y _ _ h => ?_) hne fun _ _ => trivial
  · simp
  · simp [h]

/-- Exclusive or counts the set bits modulo 2. -/
theorem testBit_foldVals_xor {xs : List Nat} (hne : xs ≠ []) (k : Nat) :
    (foldVals (fun x y => (x ^^^ y, 0)) xs).1.testBit k = decide ((xs.countP fun x => x.testBit k) % 2 = 1) := by
  refine foldVals_induction (Q := fun _ => True)
    (P := fun xs r => r.testBit k = decide ((xs.countP fun x => x.testBit k) % 2 = 1)) (fun x _ => ?_)
    (fun xs r y _ _ h => ?_) hne fun _ _ => trivial
  · cases hx : x.testBit k <;> simp [hx]
  · rw [Nat.testBit_xor, h, List.countP_append, List.countP_singleton]
    rcases Nat.mod_two_eq_zero_or_one (xs.countP fun x => x.testBit k) with hc | hc <;>
      cases hy : y.testBit k <;> simp [hc, Nat.add_mod]

/-! FP32 (06 R150, R151): a fold of several values; one value alone (log 34). -/

theorem foldF32_several (f : Nat → Nat → Nat × Flags) {xs : List Nat} (h : 1 < xs.length) : foldF32 f xs = foldVals f xs := by
  match xs, h with
  | _ :: _ :: _, _ => rfl

theorem foldF32_single (f : Nat → Nat → Nat × Flags) {x : Nat} (hx : x < 2 ^ 32) :
    (foldF32 f [x]).1 = if x % 2 ^ 31 ≤ 0x7F800000 then x else 0x7FC00000 := by
  have hm := means_read_self fmtOk_f32 hx
  have hnan := hm.nan_iff
  rw [← nan_iff_nanIn, Nan] at hnan
  have hval : (foldF32 f [x]).1 = if fmtF32.read false x = .nan then 0x7FC00000 else x := by
    simp only [foldF32]
    cases fmtF32.read false x <;> rfl
  rw [hval]
  simp only [← hnan]
  split_ifs <;> omega

/-- What LRED on FP32 gives: one value as it is, a NaN made canonical; several by their steps. -/
def FoldsF32 (step : Nat → Nat → Nat → Prop) (xs : List Nat) (r : Nat) : Prop :=
  (xs.length = 1 → r = if xs.headD 0 % 2 ^ 31 ≤ 0x7F800000 then xs.headD 0 else 0x7FC00000) ∧
    (1 < xs.length → FoldedBy step xs r)

theorem foldsF32_foldF32 {f : Nat → Nat → Nat × Flags} {step : Nat → Nat → Nat → Prop} {xs : List Nat}
    (hstep : ∀ x y, step x y (f x y).1 ∧ (f x y).1 < 2 ^ 32) (hne : xs ≠ []) (hlt : ∀ x ∈ xs, x < 2 ^ 32) :
    FoldsF32 step xs (foldF32 f xs).1 ∧ (foldF32 f xs).1 < 2 ^ 32 := by
  by_cases h1 : xs.length = 1
  · obtain ⟨x, rfl⟩ := List.length_eq_one_iff.mp h1
    have hx := hlt x List.mem_cons_self
    rw [foldF32_single f hx]
    exact ⟨⟨fun _ => rfl, fun h => absurd h (by simp)⟩, by split <;> omega⟩
  · have hlen : 1 < xs.length := by have := List.length_pos_iff.mpr hne; omega
    obtain ⟨hfold, hr⟩ := foldedBy_foldVals (fun x y _ _ => hstep x y) hne hlt
    rw [foldF32_several f hlen]
    exact ⟨⟨fun h => absurd h h1, fun _ => hfold⟩, hr⟩

/-! The forms. -/

section
variable {i : Instr} {s : State} {t g : Nat} {h : Hdr} {ty : Ty} {d a : Reg}

theorem participants_ne_nil {l k : Nat} (hl : InE s t g h l) : participants s t g h a k ≠ [] := by
  obtain ⟨h32, hE⟩ := hl
  exact List.ne_nil_of_mem (List.mem_map_of_mem (mem_lanes.mpr ⟨h32, hE⟩))

theorem participants_lt (s : State) (t g : Nat) (h : Hdr) (a : Reg) (k : Nat) :
    ∀ x ∈ participants s t g h a k, x < 2 ^ (32 * k) := by
  intro x hx
  obtain ⟨l, -, rfl⟩ := List.mem_map.mp hx
  exact regGet_lt _ _ _ _

/-- LRED gives each lane of E the fold of the participants, cut to the registers. -/
theorem gives_lredForm {size k : Nat} {f : Group → List Nat → Nat × Flags} {P : Nat → Prop}
    (hx : exec i s = lredForm h size k d a f s) (hI : Issuing s t g) (hd : Declared s t h ([(a, k)] ++ [(d, k)]))
    (hP : participants s t g h a k ≠ [] → (∀ x ∈ participants s t g h a k, x < 2 ^ (32 * k)) →
      P ((f (s.grp t g) (participants s t g h a k)).1 % 2 ^ (32 * k))) :
    Gives i s t g h d k fun _ r => P r := by
  have hu : Updates i s t g h fun gr => setFlagsG (f (s.grp t g) (participants s t g h a k)).2
      (writeRegG (eligible s t g h) d k (fun _ => (f (s.grp t g) (participants s t g h a k)).1) gr) :=
    updates_of_simt _ hx hI (rangeOk_of_named hd (by simp [Named])) adv_flagReg
      ((setFlagsG_soft _ _).trans (writeRegG_soft _ _ _ _ _))
  refine hu.gives fun l hl => ?_
  rw [setFlagsG_regGet, regGet_writeRegG _ _ _ _ _ hl.1 hl.2]
  exact hP (participants_ne_nil hl) (participants_lt s t g h a k)

theorem lredAdd_gives (hty : wideIntTy ty = true) (hR : Ready (.lredAdd h ty d a) s t g) :
    Gives (.lredAdd h ty d a) s t g h d (tyRegs ty) fun _ r =>
      r = (participants s t g h a (tyRegs ty)).sum % 2 ^ tyBits ty := by
  refine gives_lredForm (f := lredAddVal ty) rfl hR.issuing (hR.declared rfl) fun hne hlt => ?_
  have hval : ∀ gr xs, lredAddVal ty gr xs = foldVals (fun x y => (addVal ty false x y, 0)) xs := by
    intro gr xs; revert hty; cases ty <;> simp [lredAddVal, wideIntTy, int32Ty]
  rw [← tyBits_of_wideIntTy hty] at hlt ⊢
  rw [hval, foldVals_sum (fun x y hx hy => addVal_of_wideIntTy hty hx hy) hne hlt, Nat.mod_mod]

/-- LRED .min and .max of integers give the participant of the least value, under the sign of .max. -/
theorem lredMinMaxVal_spec (hty : wideIntTy ty = true) (hi : Bool) (gr : Group) {xs : List Nat} (hne : xs ≠ [])
    (hlt : ∀ x ∈ xs, x < 2 ^ tyBits ty) :
    let r := (lredMinMaxVal hi ty gr xs).1
    r ∈ xs ∧ ∀ x ∈ xs, sign hi * tyVal ty r ≤ sign hi * tyVal ty x := by
  have hf : (ty == .f32) = false := by revert hty; cases ty <;> decide
  rw [lredMinMaxVal, hf, if_neg Bool.false_ne_true]
  exact foldVals_least (key := fun x => sign hi * tyVal ty x) (fun _ _ hx hy => imnmx_cases hty hi hx hy) hne hlt

theorem gives_lredMinMax {size : Nat} {hi : Bool} (hty : wideIntTy ty = true)
    (hx : exec i s = lredForm h size (tyRegs ty) d a (lredMinMaxVal hi ty) s) (hI : Issuing s t g)
    (hd : Declared s t h ([(a, tyRegs ty)] ++ [(d, tyRegs ty)])) :
    let xs := participants s t g h a (tyRegs ty)
    Gives i s t g h d (tyRegs ty) fun _ r => r ∈ xs ∧ ∀ x ∈ xs, sign hi * tyVal ty r ≤ sign hi * tyVal ty x := by
  refine gives_lredForm (P := fun r => r ∈ _ ∧ ∀ x ∈ _, _) hx hI hd fun hne hlt => ?_
  have hlt' := hlt
  rw [← tyBits_of_wideIntTy hty] at hlt'
  have hspec := lredMinMaxVal_spec hty hi (s.grp t g) hne hlt'
  rwa [Nat.mod_eq_of_lt (hlt _ hspec.1)]

theorem lredMin_gives (hty : wideIntTy ty = true) (hR : Ready (.lredMin h ty d a) s t g) :
    Gives (.lredMin h ty d a) s t g h d (tyRegs ty) fun _ r => r ∈ participants s t g h a (tyRegs ty) ∧
      ∀ x ∈ participants s t g h a (tyRegs ty), tyVal ty r ≤ tyVal ty x := by
  simpa using gives_lredMinMax (h := h) (hi := false) hty rfl hR.issuing (hR.declared rfl)

theorem lredMax_gives (hty : wideIntTy ty = true) (hR : Ready (.lredMax h ty d a) s t g) :
    Gives (.lredMax h ty d a) s t g h d (tyRegs ty) fun _ r => r ∈ participants s t g h a (tyRegs ty) ∧
      ∀ x ∈ participants s t g h a (tyRegs ty), tyVal ty x ≤ tyVal ty r := by
  simpa using gives_lredMinMax (h := h) (hi := true) hty rfl hR.issuing (hR.declared rfl)

/-- A fold of bits, cut to its registers, keeps the bits of its type. -/
theorem gives_lredBits {size : Nat} {f : List Nat → Nat × Flags} {q : List Nat → Nat → Bool} (hty : bitTy ty = true)
    (hx : exec i s = lredForm h size (tyRegs ty) d a (fun _ => f) s) (hI : Issuing s t g)
    (hd : Declared s t h ([(a, tyRegs ty)] ++ [(d, tyRegs ty)]))
    (hf : ∀ {xs}, xs ≠ [] → ∀ k, (f xs).1.testBit k = q xs k) :
    Gives i s t g h d (tyRegs ty) fun _ r =>
      ∀ k < tyBits ty, r.testBit k = q (participants s t g h a (tyRegs ty)) k := by
  refine gives_lredForm (P := fun r => ∀ k < tyBits ty, r.testBit k = q _ k) hx hI hd fun hne _ k hk => ?_
  rw [← tyBits_of_bitTy hty, Nat.testBit_mod_two_pow, decide_eq_true hk, Bool.true_and, hf hne]

theorem lredAnd_gives (hty : bitTy ty = true) (hR : Ready (.lredAnd h ty d a) s t g) :
    Gives (.lredAnd h ty d a) s t g h d (tyRegs ty) fun _ r => ∀ k < tyBits ty,
      r.testBit k = (participants s t g h a (tyRegs ty)).all fun x => x.testBit k :=
  gives_lredBits (q := fun xs k => xs.all fun x => x.testBit k) hty rfl hR.issuing (hR.declared rfl) testBit_foldVals_and

theorem lredOr_gives (hty : bitTy ty = true) (hR : Ready (.lredOr h ty d a) s t g) :
    Gives (.lredOr h ty d a) s t g h d (tyRegs ty) fun _ r => ∀ k < tyBits ty,
      r.testBit k = (participants s t g h a (tyRegs ty)).any fun x => x.testBit k :=
  gives_lredBits (q := fun xs k => xs.any fun x => x.testBit k) hty rfl hR.issuing (hR.declared rfl) testBit_foldVals_or

theorem lredXor_gives (hty : bitTy ty = true) (hR : Ready (.lredXor h ty d a) s t g) :
    Gives (.lredXor h ty d a) s t g h d (tyRegs ty) fun _ r => ∀ k < tyBits ty,
      r.testBit k = decide (((participants s t g h a (tyRegs ty)).countP fun x => x.testBit k) % 2 = 1) :=
  gives_lredBits (q := fun xs k => decide ((xs.countP fun x => x.testBit k) % 2 = 1)) hty rfl hR.issuing (hR.declared rfl)
    testBit_foldVals_xor

/-- The rows of FP32, each by its step. -/
theorem gives_lredF32 {size : Nat} {f : Group → Nat → Nat → Nat × Flags} {step : Nat → Nat → Nat → Prop}
    (hx : exec i s = lredForm h size 1 d a (fun gr => foldF32 (f gr)) s) (hI : Issuing s t g)
    (hd : Declared s t h ([(a, 1)] ++ [(d, 1)]))
    (hstep : ∀ x y, step x y (f (s.grp t g) x y).1 ∧ (f (s.grp t g) x y).1 < 2 ^ 32) :
    Gives i s t g h d 1 fun _ r => FoldsF32 step (participants s t g h a 1) r := by
  refine gives_lredForm hx hI hd fun hne hlt => ?_
  obtain ⟨hspec, hr⟩ := foldsF32_foldF32 hstep hne hlt
  rwa [Nat.mod_eq_of_lt hr]

/-- .add on FP32 takes a rounded sum at each step. -/
theorem fAdd_step (fl : Bool) (x y : Nat) :
    SumIs fmtF32 .rne fl (flushIn fmtF32 fl x) (flushIn fmtF32 fl y) (fAdd fmtF32 .rne fl x y).1 ∧
      (fAdd fmtF32 .rne fl x y).1 < 2 ^ 32 :=
  ⟨sumIs_fAdd fmtOk_f32 _ _ _ _, write_lt fmtOk_f32 _ _ _ _⟩

/-- .min and .max on FP32 take an FMNMX at each step. -/
theorem fMinMax_step (hi fl : Bool) (x y : Nat) :
    MinMaxIs hi (flushIn fmtF32 fl x) (flushIn fmtF32 fl y) (fMinMax fmtF32 hi fl x y) ∧ fMinMax fmtF32 hi fl x y < 2 ^ 32 :=
  have hm := minMaxIs_fMinMax hi fl x y
  ⟨hm, hm.lt (flushIn_lt _ _ _) (flushIn_lt _ _ _)⟩

theorem lredAddF32_gives (hR : Ready (.lredAdd h .f32 d a) s t g) :
    let fl := (s.grp t g).mode.getLsbD 1
    Gives (.lredAdd h .f32 d a) s t g h d 1 fun _ r =>
      FoldsF32 (fun x y r => SumIs fmtF32 .rne fl (flushIn fmtF32 fl x) (flushIn fmtF32 fl y) r) (participants s t g h a 1) r :=
  gives_lredF32 (f := fun gr => fAdd fmtF32 .rne (flushOf gr false)) rfl hR.issuing (hR.declared rfl) (fAdd_step _)

theorem lredMinF32_gives (hR : Ready (.lredMin h .f32 d a) s t g) :
    let fl := (s.grp t g).mode.getLsbD 1
    Gives (.lredMin h .f32 d a) s t g h d 1 fun _ r =>
      FoldsF32 (fun x y r => MinMaxIs false (flushIn fmtF32 fl x) (flushIn fmtF32 fl y) r) (participants s t g h a 1) r :=
  gives_lredF32 (f := fun gr x y => (fMinMax fmtF32 false (flushOf gr false) x y, 0)) rfl hR.issuing (hR.declared rfl)
    (fMinMax_step false _)

theorem lredMaxF32_gives (hR : Ready (.lredMax h .f32 d a) s t g) :
    let fl := (s.grp t g).mode.getLsbD 1
    Gives (.lredMax h .f32 d a) s t g h d 1 fun _ r =>
      FoldsF32 (fun x y r => MinMaxIs true (flushIn fmtF32 fl x) (flushIn fmtF32 fl y) r) (participants s t g h a 1) r :=
  gives_lredF32 (f := fun gr x y => (fMinMax fmtF32 true (flushOf gr false) x y, 0)) rfl hR.issuing (hR.declared rfl)
    (fMinMax_step true _)

theorem lredAddX128_gives (hR : Ready (.lredAdd h .x128 d a) s t g) :
    Gives (.lredAdd h .x128 d a) s t g h d 4 fun _ r =>
      FoldedBy (fun x y r => ∃ p q, XSum x y r p q) (participants s t g h a 4) r := by
  refine gives_lredForm (f := fun _ => foldVals xAdd) rfl hR.issuing (hR.declared rfl) fun hne hlt => ?_
  obtain ⟨hfold, hr⟩ := foldedBy_foldVals (step := fun x y r => ∃ p q, XSum x y r p q)
    (fun x y hx hy => ⟨⟨_, _, xSum_xAdd hx hy⟩, xAdd_lt hx hy⟩) hne hlt
  rwa [Nat.mod_eq_of_lt hr]

end

/-- Settles O12: each row is a fold over the participants, by the step of its type. -/
theorem reductionResults : Obligations.ReductionResults := fun _ _ _ _ _ _ _ =>
  ⟨lredAdd_gives, lredMin_gives, lredMax_gives, lredAnd_gives, lredOr_gives, lredXor_gives,
    ⟨lredAddF32_gives, lredMinF32_gives, lredMaxF32_gives⟩, lredAddX128_gives⟩

end Sys2Proof.Claims
end

section
/-! RNG and BSEL settled (07 R167 to R170): the generators in words of 32 bits, the bytes of a selection. -/

namespace Sys2Proof.Claims
open Sys2Proof.Machine

/-! MIX32, the counter generator and xorshift on words (07 R167 to R169). -/

/-- A product of 32 bits, of a number and a constant. -/
theorem mul_mod_two_pow_toNat (n c : Nat) : n * c % 2 ^ 32 = (BitVec.ofNat 32 n * BitVec.ofNat 32 c).toNat := by
  rw [BitVec.toNat_mul, BitVec.toNat_ofNat, BitVec.toNat_ofNat, ← Nat.mul_mod]

theorem ofNat_toNat_word (x : Word) : BitVec.ofNat 32 x.toNat = x := by
  rw [BitVec.ofNat_toNat, BitVec.setWidth_eq]

/-- MIX32 on numbers is MIX32 on words. -/
theorem mix32_toNat (x : Word) : mix32 x.toNat = (mix x).toNat := by
  simp only [mix32, mix, Nat.mod_eq_of_lt x.isLt, ← BitVec.toNat_ushiftRight, ← BitVec.toNat_xor, mul_mod_two_pow_toNat,
    ofNat_toNat_word, BitVec.ofNat_eq_ofNat]

theorem xorshift_toNat (x : Word) : xorshift x.toNat = (xorStep x).toNat := by
  simp only [xorshift, xorStep, BitVec.toNat_xor, BitVec.toNat_ushiftRight, BitVec.toNat_shiftLeft]

/-- The counter generator is the draw of R168. -/
theorem counterDraw_eq (s : State) (t g l : Nat) (n : Word) : counterDraw s t g l n.toNat = (draw s t g l n).toNat := by
  unfold counterDraw draw
  simp only [mul_mod_two_pow_toNat, ← BitVec.toNat_xor, mix32_toNat, ofNat_toNat_word, Nat.mul_comm g 32,
    BitVec.ofNat_eq_ofNat]

theorem threadId_eq (s : State) (t g l : Nat) :
    threadId s t g l = ((s.team t).linear * (s.launchOf t).groups * 32 + 32 * g + l) % 2 ^ 32 := by
  rw [threadId, Nat.mul_comm g 32]

/-- The state that a reseed starts from (07 R169). -/
def rngStart (seed id : Word) : Word := if mix (seed ^^^ id) = 0 then 1 else mix (seed ^^^ id)

theorem rngSeed_eq (seed : Word) (n : Nat) : rngSeed seed.toNat (n % 2 ^ 32) = (rngStart seed (BitVec.ofNat 32 n)).toNat := by
  have hz : (mix (seed ^^^ BitVec.ofNat 32 n)).toNat = 0 ↔ mix (seed ^^^ BitVec.ofNat 32 n) = 0 := BitVec.toNat_inj (y := 0)
  rw [rngSeed, ← BitVec.toNat_ofNat, ← BitVec.toNat_xor, mix32_toNat, rngStart]
  simp only [hz]
  split <;> rfl

/-! The forms of RNG. -/

/-- One vector register as a lane sees it. -/
theorem regGet_v_one (g : Group) (n : BitVec 8) (l : Nat) : regGet g (.v n) l 1 = (g.v.get (32 * n.toNat + l)).toNat := by
  simp [regGet]

/-- A vector register read back as the word that was written. -/
theorem v_writeRegG (E : Lanes) (n : BitVec 8) (v : Nat → Nat) (g : Group) {l : Nat} (hl : l < 32) (hE : E.getLsbD l = true) :
    (writeRegG E (.v n) 1 v g).v.get (32 * n.toNat + l) = BitVec.ofNat 32 (v l) := by
  refine BitVec.eq_of_toNat_eq ?_
  rw [← regGet_v_one, regGet_writeRegG _ _ _ _ _ hl hE, BitVec.toNat_ofNat]
  rfl

section
variable {i : Instr} {s : State} {t g : Nat} {h : Hdr}

/-- The right that a form needs is there: it issues as one that needs none. -/
theorem simt_of_priv_false {size : Nat} {us : List Use} {priv : State → Ctx → Bool} {act : Ctx → State → Act}
    (hI : Issuing s t g) (hr : rangeOk (s.launchOf t) h us = true) (hp : priv s (ctxOf s t g h size) = false) :
    simt h size us priv act s = simt h size us noPriv act s := by
  obtain ⟨hc, hi, hs⟩ := hI
  rw [simt_acts hc hi hs hr hp, simt_acts hc hi hs hr rfl]

/-- A destination, and after it another update of the group. -/
theorem adv_regThen {c : Ctx} {d : Reg} {k : Nat} {f : Nat → Nat} {F : Group → Group} {s : State} :
    Act.adv ((writeReg c c.E d k f s).modGrp c.t c.g F) = .adv (s.modGrp c.t c.g fun g => F (writeRegG c.E d k f g)) := by
  rw [writeReg_eq, State.modGrp_modGrp]

/-- The counter generator's result and the draw count after it. -/
def writeDrawG (E : Lanes) (d : BitVec 8) (v : Nat → Nat) (n : Nat → Word) (g : Group) : Group :=
  { writeRegG E (.v d) 1 v g with draw := setLanes (writeRegG E (.v d) 1 v g).draw E n }

/-- The stateful generator's result and the lanes' new states. -/
def writeRngG (E : Lanes) (d : BitVec 8) (v : Nat → Nat) (g : Group) : Group :=
  { writeRegG E (.v d) 1 v g with
    rng := setLanes (writeRegG E (.v d) 1 v g).rng E fun l => BitVec.ofNat 32 (v l) }

theorem rngC_spec {d : BitVec 8} (hR : Ready (.rngC h d) s t g) :
    ∃ s', exec (.rngC h d) s = .next s' ∧ ∀ l, InE s t g h l →
      (s'.grp t g).v.get (32 * d.toNat + l) = draw s t g l ((s.grp t g).draw.get l) ∧
      (s'.grp t g).draw.get l = (s.grp t g).draw.get l + 1 := by
  have he : exec (.rngC h d) s = execRngC h d s := rfl
  have hr : rangeOk (s.launchOf t) h [.wr (.v d) 1] = true := rangeOk_of_named (hR.declared rfl) (by simp [Named])
  obtain ⟨s', c, o, hx, hg⟩ := updates_of_simt (writeDrawG (eligible s t g h) d
    (fun l => counterDraw s t g l ((s.grp t g).draw.get l).toNat) fun l => (s.grp t g).draw.get l + 1) he hR.issuing hr
    adv_regThen (writeRegG_soft _ _ _ _ _)
  refine ⟨s', hx, fun l hl => ?_⟩
  rw [hg hl.eligible_ne_zero, issueGroup_v, issueGroup_draw]
  constructor
  · refine (v_writeRegG _ _ _ _ hl.1 hl.2).trans ?_
    rw [counterDraw_eq, ofNat_toNat_word]
  · exact (get_setLanes _ _ _ _).trans (if_pos hl)

theorem rngCx_spec {d a : BitVec 8} (hR : Ready (.rngCx h d a) s t g) :
    ∃ s', exec (.rngCx h d a) s = .next s' ∧ ∀ l, InE s t g h l →
      (s'.grp t g).v.get (32 * d.toNat + l) = draw s t g l ((s.grp t g).v.get (32 * a.toNat + l)) := by
  have he : exec (.rngCx h d a) s = execRngCx h d a s := rfl
  have hr : rangeOk (s.launchOf t) h [.rd (.v a) 1, .wr (.v d) 1] = true :=
    rangeOk_of_named (hR.declared rfl) (by simp [Named, formUn])
  obtain ⟨s', c, o, hx, hg⟩ := updates_of_simt (writeRegG (eligible s t g h) (.v d) 1
    fun l => counterDraw s t g l (regGet (s.grp t g) (.v a) l 1)) he hR.issuing hr adv_writeReg (writeRegG_soft _ _ _ _ _)
  refine ⟨s', hx, fun l hl => ?_⟩
  rw [hg hl.eligible_ne_zero, issueGroup_v, v_writeRegG _ _ _ _ hl.1 hl.2, regGet_v_one, counterDraw_eq, ofNat_toNat_word]

/-- MODE.TEST is set where a form that needs it issues (02 R52). -/
theorem Ready.testMode {f : Form} (hR : Ready i s t g) (hf : formOf i = some f) (hr : f.rngs = true) :
    (s.grp t g).mode.getLsbD 2 = true := (hR.2 f hf).2 hr

/-- RNG.s, from a lane's start: one xorshift step, written to the destination and kept as the state. -/
theorem rngSForm_spec {size : Nat} {d : BitVec 8} {start : State → Ctx → Nat → Nat} {x : Nat → Word}
    (hx : exec i s = rngSForm h size d start s) (hI : Issuing s t g) (hd : Declared s t h ([] ++ [(.v d, 1)]))
    (ht : (s.grp t g).mode.getLsbD 2 = true) (hs : ∀ l, start s (ctxOf s t g h size) l = (x l).toNat) :
    ∃ s', exec i s = .next s' ∧ ∀ l, InE s t g h l →
      (s'.grp t g).v.get (32 * d.toNat + l) = xorStep (x l) ∧ (s'.grp t g).rng.get l = xorStep (x l) := by
  have hr : rangeOk (s.launchOf t) h [.wr (.v d) 1] = true := rangeOk_of_named hd (by simp [Named])
  have hp : needTest s (ctxOf s t g h size) = false := congrArg not ht
  obtain ⟨s', c, o, hx', hg⟩ := updates_of_simt
    (writeRngG (eligible s t g h) d fun l => xorshift (start s (ctxOf s t g h size) l))
    (hx.trans (simt_of_priv_false hI hr hp)) hI hr adv_regThen (writeRegG_soft _ _ _ _ _)
  have hval : ∀ l, BitVec.ofNat 32 (xorshift (start s (ctxOf s t g h size) l)) = xorStep (x l) := fun l => by
    rw [hs, xorshift_toNat, ofNat_toNat_word]
  refine ⟨s', hx', fun l hl => ?_⟩
  rw [hg hl.eligible_ne_zero, issueGroup_v, issueGroup_rng, ← hval]
  exact ⟨v_writeRegG _ _ _ _ hl.1 hl.2, (get_setLanes _ _ _ _).trans (if_pos hl)⟩

theorem rngSStep_spec {d : BitVec 8} (hR : Ready (.rngSStep h d) s t g) :
    ∃ s', exec (.rngSStep h d) s = .next s' ∧ ∀ l, InE s t g h l →
      (s'.grp t g).v.get (32 * d.toNat + l) = xorStep ((s.grp t g).rng.get l) ∧
      (s'.grp t g).rng.get l = xorStep ((s.grp t g).rng.get l) :=
  rngSForm_spec (start := fun s c l => ((s.grp c.t c.g).rng.get l).toNat) (x := (s.grp t g).rng.get) rfl hR.issuing
    (hR.declared rfl) (hR.testMode rfl rfl) fun _ => rfl

theorem rngSReseed_spec {d : BitVec 8} {seed : Word} (hR : Ready (.rngSReseed h d seed) s t g) :
    let tid (l : Nat) : Word := BitVec.ofNat 32 ((s.team t).linear * (s.launchOf t).groups * 32 + 32 * g + l)
    ∃ s', exec (.rngSReseed h d seed) s = .next s' ∧ ∀ l, InE s t g h l →
      (s'.grp t g).v.get (32 * d.toNat + l) = xorStep (rngStart seed (tid l)) ∧
      (s'.grp t g).rng.get l = xorStep (rngStart seed (tid l)) := by
  intro tid
  have he : exec (.rngSReseed h d seed) s = execRngSReseed h d seed s := rfl
  have hs : ∀ l, rngSeed seed.toNat (threadId s t g l) = (rngStart seed (tid l)).toNat := fun l => by
    rw [threadId_eq, rngSeed_eq]
  exact rngSForm_spec (x := fun l => rngStart seed (tid l)) he hR.issuing (hR.declared rfl) (hR.testMode rfl rfl) hs

end

/-! BSEL (07 R170). -/

/-- A byte with its bits in reverse order. -/
theorem revByte_spec (y : Nat) : revByte y < 2 ^ 8 ∧ ∀ k < 8, (revByte y).testBit k = y.testBit (7 - k) := by
  have hs := laneSum_spec (fun k => y.testBit (7 - k)) 8
  simp only [Nat.shiftLeft_eq, Nat.one_mul] at hs
  obtain ⟨hlt, hbit⟩ := hs
  exact ⟨hlt, fun k hk => (hbit k).trans (by rw [decide_eq_true hk, Bool.true_and])⟩

/-- A source byte y shaped by the mode of a selector byte e. -/
def shapeByte (e y : Nat) : Nat :=
  match fld e 3 2 with
  | 0 => y
  | 1 => 0
  | 2 => if y.testBit 7 then 0xFF else 0
  | _ => revByte y

/-- Output byte i of BSEL. -/
def bselByte (a b c i : Nat) : Nat :=
  shapeByte (fld b (8 * i) 8) (fld (c * 2 ^ 32 + a) (8 * (fld b (8 * i) 8 % 8)) 8)

theorem foldl_add_range_four (p : Nat → Nat) : (List.range 4).foldl (fun r i => r + p i) 0 = p 0 + p 1 + p 2 + p 3 := by
  simp [List.range_succ]

theorem bselVal_eq (a b c : Nat) :
    bselVal a b c = bselByte a b c 0 * 2 ^ (8 * 0) + bselByte a b c 1 * 2 ^ (8 * 1) + bselByte a b c 2 * 2 ^ (8 * 2)
      + bselByte a b c 3 * 2 ^ (8 * 3) := by
  refine Eq.trans ?_ (foldl_add_range_four fun i => bselByte a b c i * 2 ^ (8 * i))
  unfold bselVal bselByte
  generalize c * 2 ^ 32 + a = w
  rfl

/-- The four modes. -/
theorem shapeByte_spec (e : Nat) {y : Nat} (hy : y < 2 ^ 8) : shapeByte e y < 2 ^ 8 ∧
    (e / 8 % 4 = 0 → shapeByte e y = y) ∧ (e / 8 % 4 = 1 → shapeByte e y = 0) ∧
    (e / 8 % 4 = 2 → shapeByte e y = if y.testBit 7 then 255 else 0) ∧
    (e / 8 % 4 = 3 → ∀ k < 8, (shapeByte e y).testBit k = y.testBit (7 - k)) := by
  obtain ⟨hlt, hbit⟩ := revByte_spec y
  have hfld : fld e 3 2 = e / 8 % 4 := by rw [fld, Nat.shiftRight_eq_div_pow]; rfl
  have hmode : e / 8 % 4 < 4 := Nat.mod_lt _ (by decide)
  unfold shapeByte
  rw [hfld]
  generalize e / 8 % 4 = m at hmode
  match m, hmode with
  | 0, _ => exact ⟨hy, by simp⟩
  | 1, _ => exact ⟨Nat.two_pow_pos 8, by simp⟩
  | 2, _ =>
    have hfill : (if y.testBit 7 then 0xFF else 0) < 2 ^ 8 := by split <;> decide
    exact ⟨hfill, by simp⟩
  | 3, _ => exact ⟨hlt, by simpa using hbit⟩

theorem bselByte_lt (a b c i : Nat) : bselByte a b c i < 2 ^ 8 := (shapeByte_spec _ (Nat.mod_lt _ (by decide))).1

/-- Four bytes, the first lowest, read back from the word that they form. -/
theorem bytes_spec {p : Nat → Nat} (hp : ∀ i, p i < 2 ^ 8) :
    let r := p 0 * 2 ^ (8 * 0) + p 1 * 2 ^ (8 * 1) + p 2 * 2 ^ (8 * 2) + p 3 * 2 ^ (8 * 3)
    r < 2 ^ 32 ∧ ∀ i < 4, r / 2 ^ (8 * i) % 256 = p i := by
  have h0 := hp 0
  have h1 := hp 1
  have h2 := hp 2
  have h3 := hp 3
  refine ⟨by omega, fun i hi => ?_⟩
  obtain rfl | rfl | rfl | rfl : i = 0 ∨ i = 1 ∨ i = 2 ∨ i = 3 := by omega
  all_goals simp only [Nat.reduceMul, Nat.reducePow]; omega

/-- BSEL's result, byte by byte. -/
theorem bselVal_spec (a b c : Nat) : bselVal a b c < 2 ^ 32 ∧ ∀ i < 4,
    let e := b / 2 ^ (8 * i) % 256
    let y := (c * 2 ^ 32 + a) / 2 ^ (8 * (e % 8)) % 256
    let z := bselVal a b c / 2 ^ (8 * i) % 256
    (e / 8 % 4 = 0 → z = y) ∧ (e / 8 % 4 = 1 → z = 0) ∧ (e / 8 % 4 = 2 → z = if y.testBit 7 then 255 else 0) ∧
    (e / 8 % 4 = 3 → ∀ k < 8, z.testBit k = y.testBit (7 - k)) := by
  obtain ⟨hlt, hbyte⟩ := bytes_spec (bselByte_lt a b c)
  rw [bselVal_eq]
  refine ⟨hlt, fun i hi => ?_⟩
  have hz : bselByte a b c i = shapeByte (b / 2 ^ (8 * i) % 256)
      ((c * 2 ^ 32 + a) / 2 ^ (8 * (b / 2 ^ (8 * i) % 256 % 8)) % 256) := by
    simp only [bselByte, fld, Nat.shiftRight_eq_div_pow, Nat.reducePow]
  dsimp only
  rw [hbyte i hi, hz]
  exact (shapeByte_spec _ (Nat.mod_lt _ (by decide))).2

theorem bsel_gives {s : State} {t g : Nat} {h : Hdr} {d a c : Reg} {b : Opd} (hR : Ready (.bsel h d a b c) s t g) :
    Gives (.bsel h d a b c) s t g h d 1 fun l r => r < 2 ^ 32 ∧ ∀ i < 4,
      let e := amount (s.grp t g) b l / 2 ^ (8 * i) % 256
      let y := (regGet (s.grp t g) c l 1 * 2 ^ 32 + regGet (s.grp t g) a l 1) / 2 ^ (8 * (e % 8)) % 256
      let z := r / 2 ^ (8 * i) % 256
      (e / 8 % 4 = 0 → z = y) ∧ (e / 8 % 4 = 1 → z = 0) ∧ (e / 8 % 4 = 2 → z = if y.testBit 7 then 255 else 0) ∧
      (e / 8 % 4 = 3 → ∀ k < 8, z.testBit k = y.testBit (7 - k)) :=
  gives_intABC rfl hR.issuing (hR.declared rfl) fun l => by
    have hspec := bselVal_spec (regGet (s.grp t g) a l 1) (amount (s.grp t g) b l) (regGet (s.grp t g) c l 1)
    rwa [opdGet_one, Nat.mod_eq_of_lt hspec.1]

/-- Settles O13: each lane's draw and step as words, each byte of a selection by its mode. -/
theorem randomAndByteResults : Obligations.RandomAndByteResults := fun _ _ _ _ _ _ _ _ _ _ _ _ =>
  ⟨rngC_spec, rngCx_spec, rngSStep_spec, rngSReseed_spec, bsel_gives⟩

end Sys2Proof.Claims
end

section
/-! Every step keeps memory and the device registers in canonical form (O26). The stores are written through the rules of
`Store` only, each of which keeps the form; so every function of the model that answers a state keeps it, and there is one lemma
for each of them, in the model's order, up to the step. -/

namespace Sys2Proof.Machine
open Codec (tyOf)

/-! What the answers of the model's functions carry: the state in each of them is sound. -/

def Act.Sound : Act → Prop
  | .adv s | .go s _ | .park s _ _ | .hold s | .trap s _ _ | .keep s => s.Sound
  | .stall => True

def SAct.Sound : SAct → Prop
  | .adv s | .go s _ | .stall s _ | .trap s _ _ | .fin s => s.Sound

def Fetched.Sound : Fetched → Prop
  | .run _ s | .done s => s.Sound

def Served.Sound : Served → Prop
  | .ok s _ | .bad s _ => s.Sound
  | .held => True

def Res.Sound (r : Res) : Prop := ∀ s, r = .next s → s.Sound

def RingOut.Sound : RingOut → Prop
  | .done _ s _ => s.Sound
  | _ => True

def PushOut.Sound : PushOut → Prop
  | .entered s => s.Sound
  | _ => True

def SeqFetch.Sound : SeqFetch → Prop
  | .bytes s _ | .wait s | .trap s _ => s.Sound
  | _ => True

def OkSound {ε α : Type} : Except ε (State × α) → Prop
  | .ok x => x.1.Sound
  | .error _ => True

/-! The stores, and the ways in which a state is chosen. -/

theorem Store.wf_devWrite (p pa n x : Nat) (m : Store 8) (h : m.wf = true) : (devWrite m p pa n x).wf = true := by
  induction n generalizing pa x m with
  | zero => exact h
  | succ n ih => exact ih _ _ _ (Store.wf_set _ _ h)

theorem foldl_sound {α : Type} {f : State → α → State} (l : List α) (hf : ∀ s x, s.Sound → (f s x).Sound) (s : State)
    (hs : s.Sound) : (l.foldl f s).Sound := by
  induction l generalizing s with
  | nil => exact hs
  | cons x xs ih => exact ih _ (hf s x hs)

theorem getD_sound {o : Option State} {s : State} (ho : ∀ s', o = some s' → s'.Sound) (hs : s.Sound) : (o.getD s).Sound := by
  cases o with
  | none => exact hs
  | some s' => exact ho s' rfl

theorem fst_sound {α : Type} {r : State × α} {s : State} {a : α} (h : r.1.Sound) (e : r = (s, a)) : s.Sound := by rwa [e] at h

theorem ite_sound {c : Prop} [Decidable c] {s s' : State} (h : s.Sound) (h' : s'.Sound) : State.Sound (if c then s else s') := by
  split
  · exact h
  · exact h'

theorem Act.ite_sound {c : Prop} [Decidable c] {a a' : Act} (h : a.Sound) (h' : a'.Sound) : Act.Sound (if c then a else a') := by
  split
  · exact h
  · exact h'

theorem OkSound.of_eq {ε α : Type} {e : Except ε (State × α)} {s : State} {x : α} (h : OkSound e)
    (he : e = .ok (s, x)) : s.Sound := by
  rw [he] at h
  exact h

theorem OkSound.ite {ε α : Type} {c : Prop} [Decidable c] {a b : Except ε (State × α)} (ha : OkSound a) (hb : OkSound b) :
    OkSound (if c then a else b) := by
  split
  · exact ha
  · exact hb

theorem State.Sound.next {s : State} (h : s.Sound) : Res.Sound (.next s) := by
  rintro _ ⟨⟩
  exact h

theorem Res.Sound.ite {c : Prop} [Decidable c] {a b : Res} (ha : a.Sound) (hb : b.Sound) : Res.Sound (if c then a else b) := by
  split
  · exact ha
  · exact hb

theorem SAct.ite_sound {c : Prop} [Decidable c] {a a' : SAct} (h : a.Sound) (h' : a'.Sound) :
    SAct.Sound (if c then a else a') := by
  split
  · exact h
  · exact h'

theorem Store.wf_filter {w : Nat} {m : Store w} (p : Nat × BitVec w → Bool) (h : m.wf = true) : Store.wf (m.filter p) = true :=
  Store.wfFrom_filter m p 0 h

theorem wf_writeArea {s : State} (t a : Nat) (rv : Bool) (h : s.Sound) : Memory.wf (writeArea s t a rv) = true := by
  unfold writeArea
  generalize saveFields s t rv = l
  have h1 : Store.wf s.mem = true := h.1
  revert h1
  generalize s.mem = m
  induction l generalizing m with
  | nil => exact id
  | cons f fs ih => exact fun h => ih _ (Store.wf_writeLe _ _ _ h)

theorem State.Sound.withMem {s : State} {m : Memory} (h : s.Sound) (hm : m.wf = true) : State.Sound { s with mem := m } :=
  ⟨hm, h.2⟩

/-! Bits: the updates of the record. -/

theorem State.modTeam_sound (s : State) (t : Nat) (f : Team → Team) (hs : s.Sound) : (State.modTeam s t f).Sound :=
  hs

theorem State.modGrp_sound (s : State) (t g : Nat) (f : Group → Group) (hs : s.Sound) : (State.modGrp s t g f).Sound :=
  hs

theorem State.modLaunch_sound (s : State) (n : Nat) (f : Launch → Launch) (hs : s.Sound) : (State.modLaunch s n f).Sound :=
  hs

theorem State.modPart_sound (s : State) (p : Nat) (f : Part → Part) (hs : s.Sound) : (State.modPart s p f).Sound := by
  grind [State.modPart, State.Sound]

theorem State.modCmd_sound (s : State) (c : Nat) (f : Cmd → Cmd) (hs : s.Sound) : (State.modCmd s c f).Sound :=
  hs

theorem State.modDie_sound (s : State) (d : Nat) (f : Die → Die) (hs : s.Sound) : (State.modDie s d f).Sound :=
  hs

theorem arrival_sound (t : Nat) (s : State) (hs : s.Sound) : (arrival t s).Sound :=
  hs

theorem seeCtr_sound (t g : Nat) (v : CtrView) (s : State) (hs : s.Sound) : (seeCtr t g v s).Sound :=
  hs

theorem shareCtr_sound (t : Nat) (v : CtrView) (s : State) (hs : s.Sound) : (shareCtr t v s).Sound :=
  hs

/-! Ops: the life of a trap, the agenda and how an instruction ends. -/

theorem queueRecord_sound (r : Record) (s : State) (hs : s.Sound) : (queueRecord r s).Sound :=
  hs

theorem logError_sound (p kind die source unit addr launch : Nat) (s : State) (hs : s.Sound) :
    (logError p kind die source unit addr launch s).Sound := by
  grind [logError, queueRecord_sound, State.modPart_sound, State.Sound, Store.wf_writeLe]

theorem toSupervisor_sound (t g : Nat) (stop : Bool) (tr : Trap) (s : State) (hs : s.Sound) :
    (toSupervisor t g stop tr s).Sound := by
  grind [toSupervisor, State.modPart_sound, State.modGrp_sound, queueRecord_sound, State.Sound]

theorem takeTrap_sound (t g : Nat) (tr : Trap) (s : State) (hs : s.Sound) : (takeTrap t g tr s).Sound := by
  grind [takeTrap, toSupervisor_sound, State.modGrp_sound]

theorem deliverSeqTrap_sound (t : Nat) (tr : Trap) (s : State) (hs : s.Sound) : (deliverSeqTrap t tr s).Sound := by
  grind [deliverSeqTrap, State.modTeam_sound, toSupervisor_sound, State.modGrp_sound]

theorem giveSeqTrap_sound (t : Nat) (tr : Trap) (s : State) (hs : s.Sound) : (giveSeqTrap t tr s).Sound :=
  hs

theorem State.modSeq_sound (s : State) (t : Nat) (f : Seq → Seq) (hs : s.Sound) : (State.modSeq s t f).Sound :=
  hs

theorem raiseSeqTrap_sound (t : Nat) (tr : Trap) (resume : DWord) (s : State) (hs : s.Sound) :
    (raiseSeqTrap t tr resume s).Sound :=
  deliverSeqTrap_sound _ _ _ (State.modSeq_sound _ _ _ hs)

theorem leaveWait_sound (t g k : Nat) (w : Wait) (out : Option Trap) (s : State) (hs : s.Sound) :
    (leaveWait t g k w out s).Sound := by
  cases out with
  | none => exact hs
  | some tr => exact takeTrap_sound _ _ _ _ hs

theorem completeWait_sound (t g k : Nat) (out : Option Trap) (s : State) (hs : s.Sound) : (completeWait t g k out s).Sound := by
  grind [completeWait, State.modGrp_sound, leaveWait_sound]

theorem releaseDone_sound (t g x1 : Nat) (s : State) (hs : s.Sound) : (releaseDone t g x1 s).Sound := by
  induction x1 generalizing s with
  | zero => exact hs
  | succ n ih => grind [releaseDone, leaveWait_sound]

theorem logSoft_sound (t : Nat) (s : State) (hs : s.Sound) : (logSoft t s).Sound :=
  logError_sound _ _ _ _ _ _ _ _ hs

theorem changeSoft_sound (t g : Nat) (f : List SoftErr → List SoftErr) (s : State) (hs : s.Sound) :
    (changeSoft t g f s).Sound := by
  unfold changeSoft
  extract_lets es
  split
  · exact hs
  · exact foldl_sound _ (fun s _ h => logSoft_sound t s h) s hs

theorem returnFromTrap_sound (t g : Nat) (s : State) (hs : s.Sound) : (returnFromTrap t g s).Sound := by
  grind [returnFromTrap, changeSoft_sound, State.modGrp_sound, releaseDone_sound, State.modTeam_sound, giveSeqTrap_sound,
    deliverSeqTrap_sound]

theorem dropWrite_sound (t g : Nat) (E : Lanes) (us : List Use) (s : State) (hs : s.Sound) : (dropWrite t g E us s).Sound :=
  changeSoft_sound _ _ _ _ hs

theorem dropSoft_sound (c : Ctx) (us : List Use) (s : State) (hs : s.Sound) : (dropSoft c us s).Sound :=
  changeSoft_sound _ _ _ _ hs

theorem meetSoft_sound (c : Ctx) (h : Hdr) (us : List Use) (s : State) (hs : s.Sound) : (meetSoft c h us s).Sound := by
  unfold meetSoft
  extract_lets g met
  split
  · exact foldl_sound _ (fun s e h => logError_sound _ _ _ _ _ _ _ s h) s hs
  · exact hs

theorem afterIssue_sound (c : Ctx) (h : Hdr) (s : State) (hs : s.Sound) : (afterIssue c h s).Sound :=
  hs

theorem trapIssue_sound (t g : Nat) (I : Lanes) (tr : Trap) (s : State) (hs : s.Sound) : (trapIssue t g I tr s).Sound :=
  State.modGrp_sound _ _ _ _ (takeTrap_sound _ _ _ _ hs)

theorem setPcs_sound (c : Ctx) (ls : Lanes) (f : Nat → DWord) (s : State) (hs : s.Sound) : (setPcs c ls f s).Sound :=
  hs

theorem encodingTrap_sound (c : Ctx) (code : Byte) (s : State) (hs : s.Sound) : (encodingTrap c code s).Sound :=
  trapIssue_sound _ _ _ _ _ hs

theorem perform_sound (c : Ctx) (h : Hdr) (us : List Use) (a : Act) (s : State) (ha : a.Sound) (hs : s.Sound) :
    (perform c h us a s).Sound := by
  cases a with
  | adv s' => exact afterIssue_sound _ _ _ (setPcs_sound _ _ _ _ (dropSoft_sound c us s' ha))
  | go s' tgt => exact afterIssue_sound _ _ _ (setPcs_sound _ _ _ _ (setPcs_sound _ _ _ _ (dropSoft_sound c us s' ha)))
  | park s' ls k => exact afterIssue_sound _ _ _ (State.modGrp_sound _ _ _ _ (setPcs_sound _ _ _ _ (dropSoft_sound _ us s' ha)))
  | stall => exact hs
  | hold s' => exact ha
  | trap s' tr stay => exact trapIssue_sound _ _ _ _ _ (setPcs_sound _ _ _ _ (dropSoft_sound _ us s' ha))
  | keep s' => exact afterIssue_sound _ _ _ ha

theorem Ctx.trap_sound (c : Ctx) (s : State) (code : Byte) (ls : Lanes) (i0 i1 i2 i3 : Word) (hs : s.Sound) :
    (Ctx.trap c s code ls i0 i1 i2 i3).Sound :=
  hs

theorem Ctx.softTrap_sound (c : Ctx) (s : State) (e : SoftErr) (hs : s.Sound) : (Ctx.softTrap c s e).Sound :=
  hs

theorem simt_sound (h : Hdr) (size : Nat) (us : List Use) (priv : State → Ctx → Bool) (act : Ctx → State → Act) (s : State)
    (hact : ∀ x0 s, s.Sound → (act x0 s).Sound) (hs : s.Sound) : (simt h size us priv act s).Sound := by
  grind [simt, encodingTrap_sound, perform_sound, Ctx.softTrap_sound, logSoft_sound, meetSoft_sound, raiseSeqTrap_sound,
    State.Sound, Act.Sound, SAct.Sound, Fetched.Sound, Served.Sound, Res.Sound, RingOut.Sound, PushOut.Sound, SeqFetch.Sound,
    OkSound]

theorem seqForm_sound (size : Nat) (act : Nat → DWord → DWord → State → SAct) (s : State)
    (hact : ∀ x0 x1 x2 s, s.Sound → (act x0 x1 x2 s).Sound) (hs : s.Sound) : (seqForm size act s).Sound := by
  grind [seqForm, State.modSeq_sound, raiseSeqTrap_sound, encodingTrap_sound, State.Sound, Act.Sound, SAct.Sound,
    Fetched.Sound, Served.Sound, Res.Sound, RingOut.Sound, PushOut.Sound, SeqFetch.Sound, OkSound]

theorem dualForm_sound (h : Hdr) (size : Nat) (us : List Use) (act : Ctx → State → Act) (seqOk : Bool)
    (sact : Nat → DWord → DWord → State → SAct) (s : State) (hact : ∀ x0 s, s.Sound → (act x0 s).Sound)
    (hsact : ∀ x0 x1 x2 s, s.Sound → (sact x0 x1 x2 s).Sound) (hs : s.Sound) : (dualForm h size us act seqOk sact s).Sound := by
  grind [dualForm, seqForm_sound, simt_sound, SAct.Sound]

/-! Operands: what an instruction writes to its group. -/

theorem writeReg_sound (c : Ctx) (ls : Lanes) (d : Reg) (k : Nat) (f : Nat → Nat) (s : State) (hs : s.Sound) :
    (writeReg c ls d k f s).Sound :=
  hs

theorem writePred_sound (c : Ctx) (ls : Lanes) (i : Nat) (f : Nat → Bool) (s : State) (hs : s.Sound) :
    (writePred c ls i f s).Sound :=
  hs

theorem orFlags_sound (c : Ctx) (f : BitVec 9) (s : State) (hs : s.Sound) : (orFlags c f s).Sound :=
  hs

/-! Floats: floating point. -/

theorem fltForm_sound (h : Hdr) (size : Nat) (us : List Use) (d : Reg) (k : Nat) (f : Group → Nat → Nat × Flags) (s : State)
    (hs : s.Sound) : (fltForm h size us d k f s).Sound :=
  simt_sound _ _ _ _ _ _ (fun _ _ h => orFlags_sound _ _ _ (writeReg_sound _ _ _ _ _ _ h)) hs

theorem execFadd_sound (h : Hdr) (r : Rnd) (ftz : Bool) (d a : Reg) (b : Opd) (s : State) (hs : s.Sound) :
    (execFadd h r ftz d a b s).Sound :=
  fltForm_sound _ _ _ _ _ _ _ hs

theorem execFmul_sound (h : Hdr) (r : Rnd) (ftz : Bool) (d a : Reg) (b : Opd) (s : State) (hs : s.Sound) :
    (execFmul h r ftz d a b s).Sound :=
  fltForm_sound _ _ _ _ _ _ _ hs

theorem execFfma_sound (h : Hdr) (r : Rnd) (ftz : Bool) (d a : Reg) (b : Opd) (cr : Reg) (s : State) (hs : s.Sound) :
    (execFfma h r ftz d a b cr s).Sound :=
  fltForm_sound _ _ _ _ _ _ _ hs

theorem execFmnmxMin_sound (h : Hdr) (ftz : Bool) (d a : Reg) (b : Opd) (s : State) (hs : s.Sound) :
    (execFmnmxMin h ftz d a b s).Sound :=
  fltForm_sound _ _ _ _ _ _ _ hs

theorem execFmnmxMax_sound (h : Hdr) (ftz : Bool) (d a : Reg) (b : Opd) (s : State) (hs : s.Sound) :
    (execFmnmxMax h ftz d a b s).Sound :=
  fltForm_sound _ _ _ _ _ _ _ hs

theorem execFcmp_sound (h : Hdr) (k : FCond) (ftz : Bool) (pd : BitVec 3) (a : Reg) (b : Opd) (s : State) (hs : s.Sound) :
    (execFcmp h k ftz pd a b s).Sound :=
  simt_sound _ _ _ _ _ _ (fun _ _ h => orFlags_sound _ _ _ (writePred_sound _ _ _ _ _ h)) hs

theorem ffnForm_sound (h : Hdr) (size : Nat) (ftz : Bool) (d a : Reg) (f : Bool → Nat → Nat × Flags) (s : State)
    (hs : s.Sound) : (ffnForm h size ftz d a f s).Sound :=
  fltForm_sound _ _ _ _ _ _ _ hs

theorem execFfnRcp_sound (h : Hdr) (r : Rnd) (ftz : Bool) (d a : Reg) (s : State) (hs : s.Sound) :
    (execFfnRcp h r ftz d a s).Sound :=
  ffnForm_sound _ _ _ _ _ _ _ hs

theorem execFfnSqrt_sound (h : Hdr) (r : Rnd) (ftz : Bool) (d a : Reg) (s : State) (hs : s.Sound) :
    (execFfnSqrt h r ftz d a s).Sound :=
  ffnForm_sound _ _ _ _ _ _ _ hs

theorem execFfnRsqrt_sound (h : Hdr) (r : Rnd) (ftz : Bool) (d a : Reg) (s : State) (hs : s.Sound) :
    (execFfnRsqrt h r ftz d a s).Sound :=
  ffnForm_sound _ _ _ _ _ _ _ hs

theorem execFfnExp2_sound (h : Hdr) (r : Rnd) (ftz : Bool) (d a : Reg) (s : State) (hs : s.Sound) :
    (execFfnExp2 h r ftz d a s).Sound :=
  ffnForm_sound _ _ _ _ _ _ _ hs

theorem execFfnLog2_sound (h : Hdr) (r : Rnd) (ftz : Bool) (d a : Reg) (s : State) (hs : s.Sound) :
    (execFfnLog2 h r ftz d a s).Sound :=
  ffnForm_sound _ _ _ _ _ _ _ hs

theorem execFfnSinpi_sound (h : Hdr) (r : Rnd) (ftz : Bool) (d a : Reg) (s : State) (hs : s.Sound) :
    (execFfnSinpi h r ftz d a s).Sound :=
  ffnForm_sound _ _ _ _ _ _ _ hs

theorem execFfnCospi_sound (h : Hdr) (r : Rnd) (ftz : Bool) (d a : Reg) (s : State) (hs : s.Sound) :
    (execFfnCospi h r ftz d a s).Sound :=
  ffnForm_sound _ _ _ _ _ _ _ hs

theorem execCvt_sound (h : Hdr) (dty sty : Ty) (nosat : Bool) (r : Rnd) (ftz : Bool) (d a : Reg) (s : State) (hs : s.Sound) :
    (execCvt h dty sty nosat r ftz d a s).Sound :=
  fltForm_sound _ _ _ _ _ _ _ hs

theorem execFma2_sound (h : Hdr) (r : Rnd) (ftz : Bool) (d a : Reg) (b : Opd) (cr : Reg) (s : State) (hs : s.Sound) :
    (execFma2 h r ftz d a b cr s).Sound :=
  fltForm_sound _ _ _ _ _ _ _ hs

theorem execFrnd_sound (h : Hdr) (r : Rnd) (ftz : Bool) (d a : Reg) (s : State) (hs : s.Sound) :
    (execFrnd h r ftz d a s).Sound :=
  ffnForm_sound _ _ _ _ _ _ _ hs

theorem execXaccF32_sound (h : Hdr) (d a : Reg) (b : Opd) (s : State) (hs : s.Sound) : (execXaccF32 h d a b s).Sound :=
  fltForm_sound _ _ _ _ _ _ _ hs

theorem execXaccX128_sound (h : Hdr) (d a b : Reg) (s : State) (hs : s.Sound) : (execXaccX128 h d a b s).Sound :=
  fltForm_sound _ _ _ _ _ _ _ hs

theorem execXrnd_sound (h : Hdr) (r : Rnd) (d a : Reg) (s : State) (hs : s.Sound) : (execXrnd h r d a s).Sound :=
  fltForm_sound _ _ _ _ _ _ _ hs

/-! Integer: integers. -/

theorem intAB_sound (h : Hdr) (size ka kd : Nat) (d a : Reg) (b : Opd) (kb : Nat) (sx : Bool) (f : Nat → Nat → Nat)
    (s : State) (hs : s.Sound) : (intAB h size ka kd d a b kb sx f s).Sound :=
  simt_sound _ _ _ _ _ _ (fun _ _ h => writeReg_sound _ _ _ _ _ _ h) hs

theorem intABC_sound (h : Hdr) (size ka kd : Nat) (d a : Reg) (b : Opd) (kb : Nat) (sx : Bool) (cr : Reg) (kc : Nat)
    (f : Nat → Nat → Nat → Nat) (s : State) (hs : s.Sound) : (intABC h size ka kd d a b kb sx cr kc f s).Sound :=
  simt_sound _ _ _ _ _ _ (fun _ _ h => writeReg_sound _ _ _ _ _ _ h) hs

theorem intA_sound (h : Hdr) (size ka kd : Nat) (d a : Reg) (f : Nat → Nat) (s : State) (hs : s.Sound) :
    (intA h size ka kd d a f s).Sound :=
  simt_sound _ _ _ _ _ _ (fun _ _ h => writeReg_sound _ _ _ _ _ _ h) hs

theorem execIadd_sound (h : Hdr) (t : Ty) (clamp : Bool) (d a : Reg) (b : Opd) (s : State) (hs : s.Sound) :
    (execIadd h t clamp d a b s).Sound :=
  intAB_sound _ _ _ _ _ _ _ _ _ _ _ hs

theorem execIsub_sound (h : Hdr) (t : Ty) (clamp : Bool) (d a : Reg) (b : Opd) (s : State) (hs : s.Sound) :
    (execIsub h t clamp d a b s).Sound :=
  intAB_sound _ _ _ _ _ _ _ _ _ _ _ hs

theorem carryForm_sound (h : Hdr) (size : Nat) (d a : Reg) (b : Opd) (pc : BitVec 3) (f : Nat → Nat → Bool → Nat × Bool)
    (s : State) (hs : s.Sound) : (carryForm h size d a b pc f s).Sound :=
  simt_sound _ _ _ _ _ _ (fun _ _ h => writePred_sound _ _ _ _ _ (writeReg_sound _ _ _ _ _ _ h)) hs

theorem execIaddCc_sound (h : Hdr) (t : Ty) (d a : Reg) (b : Opd) (pc : BitVec 3) (s : State) (hs : s.Sound) :
    (execIaddCc h t d a b pc s).Sound :=
  carryForm_sound _ _ _ _ _ _ _ _ hs

theorem execIsubCc_sound (h : Hdr) (t : Ty) (d a : Reg) (b : Opd) (pc : BitVec 3) (s : State) (hs : s.Sound) :
    (execIsubCc h t d a b pc s).Sound :=
  carryForm_sound _ _ _ _ _ _ _ _ hs

theorem execImulLo_sound (h : Hdr) (t : Ty) (clamp : Bool) (d a : Reg) (b : Opd) (s : State) (hs : s.Sound) :
    (execImulLo h t clamp d a b s).Sound :=
  intAB_sound _ _ _ _ _ _ _ _ _ _ _ hs

theorem execImulHi_sound (h : Hdr) (t : Ty) (d a : Reg) (b : Opd) (s : State) (hs : s.Sound) : (execImulHi h t d a b s).Sound
    :=
  intAB_sound _ _ _ _ _ _ _ _ _ _ _ hs

theorem execImulWide_sound (h : Hdr) (t : Ty) (d a : Reg) (b : Opd) (s : State) (hs : s.Sound) :
    (execImulWide h t d a b s).Sound :=
  intAB_sound _ _ _ _ _ _ _ _ _ _ _ hs

theorem execImadLo_sound (h : Hdr) (t : Ty) (clamp : Bool) (d a : Reg) (b : Opd) (cr : Reg) (s : State) (hs : s.Sound) :
    (execImadLo h t clamp d a b cr s).Sound :=
  intABC_sound _ _ _ _ _ _ _ _ _ _ _ _ _ hs

theorem execImadHi_sound (h : Hdr) (t : Ty) (d a : Reg) (b : Opd) (cr : Reg) (s : State) (hs : s.Sound) :
    (execImadHi h t d a b cr s).Sound :=
  intABC_sound _ _ _ _ _ _ _ _ _ _ _ _ _ hs

theorem execImadWide_sound (h : Hdr) (t : Ty) (d a : Reg) (b : Opd) (cr : Reg) (s : State) (hs : s.Sound) :
    (execImadWide h t d a b cr s).Sound :=
  intABC_sound _ _ _ _ _ _ _ _ _ _ _ _ _ hs

theorem execShfL_sound (h : Hdr) (t : Ty) (d a : Reg) (b : Opd) (s : State) (hs : s.Sound) : (execShfL h t d a b s).Sound :=
  intAB_sound _ _ _ _ _ _ _ _ _ _ _ hs

theorem execShfR_sound (h : Hdr) (t : Ty) (d a : Reg) (b : Opd) (s : State) (hs : s.Sound) : (execShfR h t d a b s).Sound :=
  intAB_sound _ _ _ _ _ _ _ _ _ _ _ hs

theorem execShfRa_sound (h : Hdr) (t : Ty) (d a : Reg) (b : Opd) (s : State) (hs : s.Sound) : (execShfRa h t d a b s).Sound
    :=
  intAB_sound _ _ _ _ _ _ _ _ _ _ _ hs

theorem execShfRol_sound (h : Hdr) (t : Ty) (d a : Reg) (b : Opd) (s : State) (hs : s.Sound) : (execShfRol h t d a b s).Sound
    :=
  intAB_sound _ _ _ _ _ _ _ _ _ _ _ hs

theorem execShfLf_sound (h : Hdr) (d a : Reg) (b : Opd) (cr : Reg) (s : State) (hs : s.Sound) :
    (execShfLf h d a b cr s).Sound :=
  intABC_sound _ _ _ _ _ _ _ _ _ _ _ _ _ hs

theorem execShfRf_sound (h : Hdr) (d a : Reg) (b : Opd) (cr : Reg) (s : State) (hs : s.Sound) :
    (execShfRf h d a b cr s).Sound :=
  intABC_sound _ _ _ _ _ _ _ _ _ _ _ _ _ hs

theorem execLtab_sound (h : Hdr) (t : Ty) (tbl : Byte) (d a : Reg) (b : Opd) (cr : Reg) (s : State) (hs : s.Sound) :
    (execLtab h t tbl d a b cr s).Sound :=
  intABC_sound _ _ _ _ _ _ _ _ _ _ _ _ _ hs

theorem execIcmp_sound (h : Hdr) (t : Ty) (k : ICond) (pd : BitVec 3) (a : Reg) (b : Opd) (s : State) (hs : s.Sound) :
    (execIcmp h t k pd a b s).Sound :=
  simt_sound _ _ _ _ _ _ (fun _ _ h => writePred_sound _ _ _ _ _ h) hs

theorem execImnmxMin_sound (h : Hdr) (t : Ty) (d a : Reg) (b : Opd) (s : State) (hs : s.Sound) :
    (execImnmxMin h t d a b s).Sound :=
  intAB_sound _ _ _ _ _ _ _ _ _ _ _ hs

theorem execImnmxMax_sound (h : Hdr) (t : Ty) (d a : Reg) (b : Opd) (s : State) (hs : s.Sound) :
    (execImnmxMax h t d a b s).Sound :=
  intAB_sound _ _ _ _ _ _ _ _ _ _ _ hs

theorem execBfe_sound (h : Hdr) (t : Ty) (d a : Reg) (b : Opd) (s : State) (hs : s.Sound) : (execBfe h t d a b s).Sound :=
  intAB_sound _ _ _ _ _ _ _ _ _ _ _ hs

theorem execBfi_sound (h : Hdr) (t : Ty) (d a : Reg) (b : Opd) (cr : Reg) (s : State) (hs : s.Sound) :
    (execBfi h t d a b cr s).Sound :=
  intABC_sound _ _ _ _ _ _ _ _ _ _ _ _ _ hs

theorem execBitsPopc_sound (h : Hdr) (t : Ty) (d a : Reg) (s : State) (hs : s.Sound) : (execBitsPopc h t d a s).Sound :=
  intA_sound _ _ _ _ _ _ _ _ hs

theorem execBitsClz_sound (h : Hdr) (t : Ty) (d a : Reg) (s : State) (hs : s.Sound) : (execBitsClz h t d a s).Sound :=
  intA_sound _ _ _ _ _ _ _ _ hs

theorem execBitsCtz_sound (h : Hdr) (t : Ty) (d a : Reg) (s : State) (hs : s.Sound) : (execBitsCtz h t d a s).Sound :=
  intA_sound _ _ _ _ _ _ _ _ hs

theorem execBitsBrev_sound (h : Hdr) (t : Ty) (d a : Reg) (s : State) (hs : s.Sound) : (execBitsBrev h t d a s).Sound :=
  intA_sound _ _ _ _ _ _ _ _ hs

theorem execSel_sound (h : Hdr) (t : Ty) (d a : Reg) (b : Opd) (pc : BitVec 3) (s : State) (hs : s.Sound) :
    (execSel h t d a b pc s).Sound :=
  simt_sound _ _ _ _ _ _ (fun _ _ h => writeReg_sound _ _ _ _ _ _ h) hs

theorem execMov_sound (h : Hdr) (t : Ty) (d b : Reg) (s : State) (hs : s.Sound) : (execMov h t d b s).Sound :=
  intA_sound _ _ _ _ _ _ _ _ hs

theorem execMovP2v_sound (h : Hdr) (d : BitVec 8) (s : State) (hs : s.Sound) : (execMovP2v h d s).Sound :=
  simt_sound _ _ _ _ _ _ (fun _ _ h => writeReg_sound _ _ _ _ _ _ h) hs

theorem execMovV2p_sound (h : Hdr) (b : Reg) (s : State) (hs : s.Sound) : (execMovV2p h b s).Sound := by
  exact simt_sound _ _ _ _ _ _ (fun c s h => foldl_sound _ (fun s i h => writePred_sound _ _ _ _ _ h) s h) hs

theorem moviForm_sound (h : Hdr) (size : Nat) (d : Reg) (k x : Nat) (s : State) (hs : s.Sound) :
    (moviForm h size d k x s).Sound :=
  simt_sound _ _ _ _ _ _ (fun _ _ h => writeReg_sound _ _ _ _ _ _ h) hs

theorem execMoviVector_sound (h : Hdr) (d : BitVec 8) (x : Word) (s : State) (hs : s.Sound) : (execMoviVector h d x s).Sound
    :=
  moviForm_sound _ _ _ _ _ _ hs

theorem execMoviVectorPair_sound (h : Hdr) (d : BitVec 8) (x : DWord) (s : State) (hs : s.Sound) :
    (execMoviVectorPair h d x s).Sound :=
  moviForm_sound _ _ _ _ _ _ hs

theorem execMoviUniform_sound (h : Hdr) (d : BitVec 6) (x : Word) (s : State) (hs : s.Sound) :
    (execMoviUniform h d x s).Sound :=
  moviForm_sound _ _ _ _ _ _ hs

theorem execMoviUniformPair_sound (h : Hdr) (d : BitVec 6) (x : DWord) (s : State) (hs : s.Sound) :
    (execMoviUniformPair h d x s).Sound :=
  moviForm_sound _ _ _ _ _ _ hs

theorem execLea_sound (h : Hdr) (t : Ty) (sh : BitVec 3) (d a : Reg) (b : Opd) (s : State) (hs : s.Sound) :
    (execLea h t sh d a b s).Sound :=
  intAB_sound _ _ _ _ _ _ _ _ _ _ _ hs

theorem execDp4_sound (h : Hdr) (sa sb clamp : Bool) (d a : Reg) (b : Opd) (cr : Reg) (s : State) (hs : s.Sound) :
    (execDp4 h sa sb clamp d a b cr s).Sound :=
  intABC_sound _ _ _ _ _ _ _ _ _ _ _ _ _ hs

/-! Lanes: votes, shuffles and the generator. -/

theorem shflForm_sound (h : Hdr) (size k : Nat) (src : Nat → Nat → Nat) (d a : BitVec 8) (b : Opd) (pv : BitVec 3)
    (s : State) (hs : s.Sound) : (shflForm h size k src d a b pv s).Sound :=
  simt_sound _ _ _ _ _ _ (fun _ _ h => writePred_sound _ _ _ _ _ (writeReg_sound _ _ _ _ _ _ h)) hs

theorem execShflIdx_sound (h : Hdr) (t : Ty) (d a : BitVec 8) (b : Opd) (pv : BitVec 3) (s : State) (hs : s.Sound) :
    (execShflIdx h t d a b pv s).Sound :=
  shflForm_sound _ _ _ _ _ _ _ _ _ hs

theorem execShflUp_sound (h : Hdr) (t : Ty) (d a : BitVec 8) (b : Opd) (pv : BitVec 3) (s : State) (hs : s.Sound) :
    (execShflUp h t d a b pv s).Sound :=
  shflForm_sound _ _ _ _ _ _ _ _ _ hs

theorem execShflDown_sound (h : Hdr) (t : Ty) (d a : BitVec 8) (b : Opd) (pv : BitVec 3) (s : State) (hs : s.Sound) :
    (execShflDown h t d a b pv s).Sound :=
  shflForm_sound _ _ _ _ _ _ _ _ _ hs

theorem execShflXor_sound (h : Hdr) (t : Ty) (d a : BitVec 8) (b : Opd) (pv : BitVec 3) (s : State) (hs : s.Sound) :
    (execShflXor h t d a b pv s).Sound :=
  shflForm_sound _ _ _ _ _ _ _ _ _ hs

theorem execBallot_sound (h : Hdr) (d a : Reg) (b : Opd) (s : State) (hs : s.Sound) : (execBallot h d a b s).Sound :=
  simt_sound _ _ _ _ _ _ (fun _ _ h => writeReg_sound _ _ _ _ _ _ h) hs

theorem voteForm_sound (h : Hdr) (size : Nat) (pd pa : BitVec 3) (f : Lanes → Lanes → Bool) (s : State) (hs : s.Sound) :
    (voteForm h size pd pa f s).Sound :=
  simt_sound _ _ _ _ _ _ (fun _ _ h => writePred_sound _ _ _ _ _ h) hs

theorem execVoteAll_sound (h : Hdr) (pd pa : BitVec 3) (s : State) (hs : s.Sound) : (execVoteAll h pd pa s).Sound :=
  voteForm_sound _ _ _ _ _ _ hs

theorem execVoteAny_sound (h : Hdr) (pd pa : BitVec 3) (s : State) (hs : s.Sound) : (execVoteAny h pd pa s).Sound :=
  voteForm_sound _ _ _ _ _ _ hs

theorem execVoteUni_sound (h : Hdr) (pd pa : BitVec 3) (s : State) (hs : s.Sound) : (execVoteUni h pd pa s).Sound :=
  voteForm_sound _ _ _ _ _ _ hs

theorem lredForm_sound (h : Hdr) (size k : Nat) (d a : Reg) (f : Group → List Nat → Nat × Flags) (s : State) (hs : s.Sound) :
    (lredForm h size k d a f s).Sound :=
  simt_sound _ _ _ _ _ _ (fun _ _ h => orFlags_sound _ _ _ (writeReg_sound _ _ _ _ _ _ h)) hs

theorem execLredAdd_sound (h : Hdr) (t : Ty) (d a : Reg) (s : State) (hs : s.Sound) : (execLredAdd h t d a s).Sound :=
  lredForm_sound _ _ _ _ _ _ _ hs

theorem execLredMin_sound (h : Hdr) (t : Ty) (d a : Reg) (s : State) (hs : s.Sound) : (execLredMin h t d a s).Sound :=
  lredForm_sound _ _ _ _ _ _ _ hs

theorem execLredMax_sound (h : Hdr) (t : Ty) (d a : Reg) (s : State) (hs : s.Sound) : (execLredMax h t d a s).Sound :=
  lredForm_sound _ _ _ _ _ _ _ hs

theorem execLredAnd_sound (h : Hdr) (t : Ty) (d a : Reg) (s : State) (hs : s.Sound) : (execLredAnd h t d a s).Sound :=
  lredForm_sound _ _ _ _ _ _ _ hs

theorem execLredOr_sound (h : Hdr) (t : Ty) (d a : Reg) (s : State) (hs : s.Sound) : (execLredOr h t d a s).Sound :=
  lredForm_sound _ _ _ _ _ _ _ hs

theorem execLredXor_sound (h : Hdr) (t : Ty) (d a : Reg) (s : State) (hs : s.Sound) : (execLredXor h t d a s).Sound :=
  lredForm_sound _ _ _ _ _ _ _ hs

theorem execRngC_sound (h : Hdr) (d : BitVec 8) (s : State) (hs : s.Sound) : (execRngC h d s).Sound :=
  simt_sound _ _ _ _ _ _ (fun _ _ h => State.modGrp_sound _ _ _ _ (writeReg_sound _ _ _ _ _ _ h)) hs

theorem execRngCx_sound (h : Hdr) (d a : BitVec 8) (s : State) (hs : s.Sound) : (execRngCx h d a s).Sound :=
  simt_sound _ _ _ _ _ _ (fun _ _ h => writeReg_sound _ _ _ _ _ _ h) hs

theorem rngSForm_sound (h : Hdr) (size : Nat) (d : BitVec 8) (start : State → Ctx → Nat → Nat) (s : State) (hs : s.Sound) :
    (rngSForm h size d start s).Sound :=
  simt_sound _ _ _ _ _ _ (fun _ _ h => State.modGrp_sound _ _ _ _ (writeReg_sound _ _ _ _ _ _ h)) hs

theorem execRngSStep_sound (h : Hdr) (d : BitVec 8) (s : State) (hs : s.Sound) : (execRngSStep h d s).Sound :=
  rngSForm_sound _ _ _ _ _ hs

theorem execRngSReseed_sound (h : Hdr) (d : BitVec 8) (seed : Word) (s : State) (hs : s.Sound) :
    (execRngSReseed h d seed s).Sound :=
  rngSForm_sound _ _ _ _ _ hs

theorem execBsel_sound (h : Hdr) (d a : Reg) (b : Opd) (cr : Reg) (s : State) (hs : s.Sound) : (execBsel h d a b cr s).Sound
    :=
  intABC_sound _ _ _ _ _ _ _ _ _ _ _ _ _ hs

/-! Access: accesses: waiting stores, pages, errors, lanes. -/

theorem physWrite_sound (p pa n x : Nat) (s : State) (hs : s.Sound) : (physWrite p pa n x s).Sound := by
  unfold physWrite
  split
  · exact ⟨hs.1, Store.wf_devWrite _ _ _ _ _ hs.2⟩
  · exact ⟨Store.wf_writeLe _ _ _ hs.1, hs.2⟩

theorem writeSpans_sound (p : Nat) (x1 : List Span) (x2 : Nat) (s : State) (hs : s.Sound) : (writeSpans p x1 x2 s).Sound := by
  induction x1 generalizing x2 s with
  | nil => exact hs
  | cons r rs ih => exact ih _ _ (physWrite_sound _ _ _ _ _ hs)

theorem writePieces_sound (p : Nat) (ps : List Piece) (x : Nat) (s : State) (hs : s.Sound) : (writePieces p ps x s).Sound :=
  writeSpans_sound _ _ _ _ hs

theorem performStore_sound (x1 x2 : Nat) (s : State) (hs : s.Sound) : (performStore x1 x2 s).Sound := by
  induction x1 generalizing x2 s with
  | zero => exact hs
  | succ fuel ih =>
    unfold performStore
    split
    · exact hs
    · next q _ =>
      have h := foldl_sound ((s.buffer.takeWhile fun e => e.id != x2).filter fun e => mustPrecede e q)
        (fun s (e : Pending) h => ih e.id s h) s hs
      exact ⟨Store.wf_writeBytes _ _ h.1, h.2⟩

theorem performStores_sound (sel : Pending → Bool) (s : State) (hs : s.Sound) : (performStores sel s).Sound := by
  exact foldl_sound _ (fun s q h => performStore_sound _ q.id s h) s hs

theorem observe_sound (o : Observer) (rs : List Span) (s : State) (hs : s.Sound) : (observe o rs s).Sound :=
  ite_sound (performStores_sound _ _ hs) hs

theorem release_sound (sel : Pending → Bool) (sc : Scope) (s : State) (hs : s.Sound) : (release sel sc s).Sound := by
  grind [release, State.Sound]

theorem releaseLanes_sound (t g : Nat) (ls : Lanes) (sc : Scope) (s : State) (hs : s.Sound) :
    (releaseLanes t g ls sc s).Sound :=
  release_sound _ _ _ hs

theorem releaseGroup_sound (t g : Nat) (sc : Scope) (s : State) (hs : s.Sound) : (releaseGroup t g sc s).Sound :=
  release_sound _ _ _ hs

theorem releaseTeam_sound (t : Nat) (sc : Scope) (s : State) (hs : s.Sound) : (releaseTeam t sc s).Sound :=
  release_sound _ _ _ hs

theorem fenceLanes_sound (t g : Nat) (ls : Lanes) (sc : Scope) (s : State) (hs : s.Sound) : (fenceLanes t g ls sc s).Sound :=
  hs

theorem releaseFenced_sound (t g : Nat) (ls : Lanes) (s : State) (hs : s.Sound) : (releaseFenced t g ls s).Sound := by
  grind [releaseFenced, State.Sound]

theorem flushOverlap_sound (t g : Nat) (ls : Lanes) (ps : List Piece) (s : State) (hs : s.Sound) :
    (flushOverlap t g ls ps s).Sound :=
  performStores_sound _ _ hs

theorem pendStore_sound (q : Pending) (before : Option Scope) (s : State) (hs : s.Sound) : (pendStore q before s).Sound :=
  hs

theorem pendSpans_sound (q : Pending) (before : Option Scope) (x1 : List Span) (x2 : Nat) (s : State) (hs : s.Sound) :
    (pendSpans q before x1 x2 s).Sound := by
  induction x1 generalizing x2 s with
  | nil => exact hs
  | cons r rs ih => exact ih _ _ (pendStore_sound _ _ _ hs)

theorem pendPieces_sound (q : Pending) (before : Option Scope) (ps : List Piece) (x : Nat) (s : State) (hs : s.Sound) :
    (pendPieces q before ps x s).Sound :=
  pendSpans_sound _ _ _ _ _ hs

theorem storeOrdered_sound (p t g : Nat) (ls : Lanes) (o : Order) (sc : Scope) (ps : List Piece) (x : Nat) (s : State)
    (hs : s.Sound) : (storeOrdered p t g ls o sc ps x s).Sound := by
  grind [storeOrdered, writePieces_sound, flushOverlap_sound, releaseFenced_sound, releaseLanes_sound, pendPieces_sound]

theorem beforeAtomic_sound (t g : Nat) (ls : Lanes) (o : Order) (sc : Scope) (ps : List Piece) (s : State) (hs : s.Sound) :
    (beforeAtomic t g ls o sc ps s).Sound := by
  grind [beforeAtomic, releaseFenced_sound, flushOverlap_sound, releaseLanes_sound]

theorem beforeLoad_sound (t g : Nat) (ls : Lanes) (o : Order) (ps : List Piece) (s : State) (hs : s.Sound) :
    (beforeLoad t g ls o ps s).Sound := by
  grind [beforeLoad, flushOverlap_sound, release_sound]

theorem logErrs_sound (p : Nat) (lid : Word) (es : List EccErr) (s : State) (hs : s.Sound) : (logErrs p lid es s).Sound := by
  exact foldl_sound _ (fun s e h => logError_sound _ _ _ _ _ _ _ s h) s hs

theorem meetErrs_sound (p : Nat) (lid : Word) (inPlace : EccErr → Bool) (a n : Nat) (cover : List Span) (s : State)
    (hs : s.Sound) : (meetErrs p lid inPlace a n cover s).1.Sound := by
  grind [meetErrs, logErrs_sound, State.Sound]

theorem partMeets_sound (p a n : Nat) (cover : List Span) (s : State) (hs : s.Sound) : (partMeets p a n cover s).Sound :=
  meetErrs_sound _ _ _ _ _ _ _ hs

theorem seeMem_sound (o : Observer) (p a n : Nat) (s : State) (hs : s.Sound) : (seeMem o p a n s).Sound :=
  partMeets_sound _ _ _ _ _ (observe_sound _ _ _ hs)

theorem coverMem_sound (o : Observer) (p a n : Nat) (s : State) (hs : s.Sound) : (coverMem o p a n s).Sound :=
  partMeets_sound _ _ _ _ _ (observe_sound _ _ _ hs)

theorem touchPieces_sound (t p : Nat) (ps : List Piece) (s : State) (hs : s.Sound) : (touchPieces t p ps s).Sound :=
  hs

theorem performHeld_sound (c : Cmd) (h : Held) (s : State) (hs : s.Sound) : (performHeld c h s).Sound := by
  grind [performHeld, State.modTeam_sound, observe_sound, writeSpans_sound, pendSpans_sound]

theorem performList_sound (f : Cmd → Held → State → State) (c : Cmd) (rest x1 : List Held) (s : State)
    (hf : ∀ x0 x1 s, s.Sound → (f x0 x1 s).Sound) (hs : s.Sound) : (performList f c rest x1 s).Sound := by
  induction x1 generalizing s with
  | nil => exact hs
  | cons h hs' ih =>
    refine ih _ ?_
    split
    · exact hs
    · exact hf _ _ _ hs

theorem performSome_sound (f : Cmd → Held → State → State) (k : Nat) (sel : Held → Bool) (s : State)
    (hf : ∀ x0 x1 s, s.Sound → (f x0 x1 s).Sound) (hs : s.Sound) : (performSome f k sel s).Sound := by
  grind [performSome, performList_sound, State.modCmd_sound]

theorem flushHeld_sound (a n : Nat) (s : State) (hs : s.Sound) : (flushHeld a n s).Sound := by
  refine foldl_sound _ (fun s k h => ?_) s hs
  split
  · exact h
  · split
    · exact performSome_sound _ _ _ _ (fun c h s => performHeld_sound c h s) h
    · exact h

theorem setPool_sound (p root : Nat) (fs : List Nat) (s : State) (hs : s.Sound) : (setPool p root fs s).Sound :=
  State.modPart_sound _ _ _ hs

theorem copyErrs_sound (p old new : Nat) (s : State) (hs : s.Sound) : (copyErrs p old new s).Sound := by
  grind [copyErrs, partMeets_sound, State.Sound]

theorem copyOnWrite_sound (p root : Nat) (pg : Page) (s : State) (hs : s.Sound) : ∀ s', copyOnWrite p root pg s = some s' →
    s'.Sound := by
  unfold copyOnWrite
  split
  · next ent hdr f rest _ _ =>
    rintro s' ⟨⟩
    have h := copyErrs_sound p (pg.pa / 2 ^ 16) f _
      (performStores_sound (fun q => q.overlaps (pg.pa / 2 ^ 16 * 2 ^ 16) (2 ^ 16)) _
        (flushHeld_sound (pg.pa / 2 ^ 16 * 2 ^ 16) (2 ^ 16) s hs))
    exact setPool_sound _ _ _ _ ⟨Store.wf_writeLe _ _ _ (Store.wf_writeLe _ _ _ (Store.wf_copyRange _ _ _ h.1)), h.2⟩
  · rintro s' ⟨⟩

theorem copyPieces_sound (p root : Nat) (copied : List (Option (Nat × Nat))) (i : Nat) (x1 : List Piece) (s : State)
    (hs : s.Sound) : ∀ s', copyPieces p root copied i x1 s = .ok s' → s'.Sound := by
  induction x1 generalizing copied i s with
  | nil => rintro s' ⟨⟩; exact hs
  | cons e r ih => grind [copyPieces, copyOnWrite_sound]

theorem meetPieces_sound (p : Nat) (lid : Word) (inPlace : Page → EccErr → Bool) (cover : List Span) (x1 : List Piece)
    (s : State) (hs : s.Sound) : (meetPieces p lid inPlace cover x1 s).1.Sound := by
  induction x1 generalizing s with
  | nil => exact hs
  | cons e r ih =>
    have h := meetErrs_sound p lid (inPlace e.1) e.1.pa e.2 cover s hs
    unfold meetPieces
    split
    · next he => rwa [he] at h
    · next he => exact ih _ (by rwa [he] at h)

theorem laneAccess_sound (t g : Nat) (k : Kind) (words : Bool) (mates : List Nat) (va n : Nat)
    (f : List Piece → State → State) (s : State) (hf : ∀ x0 s, s.Sound → (f x0 s).Sound) (hs : s.Sound) :
    (laneAccess t g k words mates va n f s).1.Sound := by
  unfold laneAccess
  extract_lets w l lost
  have hlost (ps : List Piece) (r : State × Option Bad) (he : lost ps = some r) : r.1.Sound := by
    simp only [lost] at he
    split at he
    · cases he; exact hs
    · cases he
  have hmeet {ip : Page → EccErr → Bool} {cov : List Span} {ps : List Piece} {s s' : State} {e : Option EccErr}
      (h : s.Sound) (he : meetPieces w.part l.lid ip cov ps s = (s', e)) : s'.Sound := by
    simpa only [he] using meetPieces_sound w.part l.lid ip cov ps s h
  split
  · exact hs
  · split
    · exact hs
    · split
      · next r he => exact hlost _ _ he
      · split
        · exact hs
        · next s' he =>
          have hs' : s'.Sound := by
            split at he
            · exact copyPieces_sound _ _ _ _ _ _ hs _ he
            · cases he; exact hs
          split
          · exact hs'
          · extract_lets cover
            split
            · next r he => exact hlost _ _ he
            · split
              · next he => exact hmeet (touchPieces_sound _ _ _ _ hs') he
              · next he => exact hf _ _ (hmeet (touchPieces_sound _ _ _ _ hs') he)

theorem runLanes_sound (f : Nat → State → State × Option Bad) (x1 : List Nat) (s : State)
    (hf : ∀ x0 s, s.Sound → (f x0 s).1.Sound) (hs : s.Sound) : (runLanes f x1 s).1.Sound := by
  induction x1 generalizing s with
  | nil => exact hs
  | cons l ls ih =>
    have h := hf l s hs
    unfold runLanes
    split
    · next e => exact ih _ (by simpa [e] using h)
    · next e => exact ih _ (by simpa [e] using h)

theorem dropExpired_sound (t g : Nat) (s : State) (hs : s.Sound) : (dropExpired t g s).Sound := by
  grind [dropExpired, State.Sound]

theorem finishLanes_sound (c : Ctx) (once : Bool) (r : State × List (Nat × Bad)) (hr : r.1.Sound) :
    (finishLanes c once r).Sound := by
  unfold finishLanes
  split
  · exact hr
  · show State.Sound (if _ then _ else _)
    split
    · exact dropExpired_sound _ _ _ hr
    · exact hr

theorem gateLanes_sound (c : Ctx) (k : Kind) (words : Bool) (n : Nat) (as_ : List Nat) (s : State) (hs : s.Sound) : ∀ a,
    gateLanes c k words n as_ s = some a → a.Sound := by
  grind [gateLanes, State.Sound, Act.Sound]

theorem copyLanes_sound (c : Ctx) (k : Kind) (words : Bool) (n : Nat) (as_ : List Nat) (s : State) (hs : s.Sound) :
    (copyLanes c k words n as_ s).Sound := by
  unfold copyLanes
  split
  · refine foldl_sound _ (fun s a h => ?_) s hs
    dsimp only
    split
    · split
      · next he => exact copyPieces_sound _ _ _ _ _ _ h _ he
      · exact h
    · exact h
  · exact hs

theorem reachLanes_sound (c : Ctx) (k : Kind) (words : Bool) (n : Nat) (as_ : List Nat) (s : State) (hs : s.Sound) :
    (∀ a, reachLanes c k words n as_ s = .error a → a.Sound) ∧ ∀ s', reachLanes c k words n as_ s = .ok s' → s'.Sound := by
  grind [reachLanes, gateLanes_sound, copyLanes_sound, Act.Sound]

theorem memAct_sound (c : Ctx) (once : Bool) (k : Kind) (words : Bool) (n : Nat) (addr : Nat → Nat)
    (f : Nat → List Piece → State → State) (s : State) (hf : ∀ x0 x1 s, s.Sound → (f x0 x1 s).Sound) (hs : s.Sound) :
    (memAct c once k words n addr f s).Sound := by
  have hr := reachLanes_sound c k words n ((if once then (lanes c.E).take 1 else lanes c.E).map addr) s hs
  unfold memAct
  dsimp only
  split
  · next a he => exact hr.1 a he
  · next s' he =>
    exact finishLanes_sound _ _ _ (runLanes_sound _ _ _ (fun l s h =>
      laneAccess_sound _ _ _ _ _ _ _ _ _ (fun ps s h => hf _ _ _ (observe_sound _ _ _ h)) h) (hr.2 s' he))

/-! Life: parts, launches and records. -/

theorem partGet_sound (w : Who) (va n : Nat) (s : State) (hs : s.Sound) : (partGet w va n s).1.Sound := by
  unfold partGet
  split
  · exact foldl_sound _ (fun s e h => seeMem_sound _ _ _ _ s h) s hs
  · exact hs

theorem partSee_sound (w : Who) (va n : Nat) (s : State) (hs : s.Sound) : (partSee w va n s).Sound :=
  partGet_sound _ _ _ _ hs

theorem partWrite_sound (w : Who) (root va n x : Nat) (s : State) (hs : s.Sound) : ∀ s', partWrite w root va n x s = some s'
    → s'.Sound := by
  unfold partWrite
  split
  · rintro _ ⟨⟩
  · split
    · rintro _ ⟨⟩
    · next s1 he =>
      have h1 := copyPieces_sound _ _ _ _ _ _ hs _ he
      split
      · rintro _ ⟨⟩
        exact writePieces_sound _ _ _ _ (foldl_sound _ (fun s e h => coverMem_sound _ _ _ _ s h) _ h1)
      · rintro _ ⟨⟩

theorem partAtomic_sound (w : Who) (root va n : Nat) (f : Nat → Nat) (s : State) (hs : s.Sound) : ∀ s' x, partAtomic w root
    va n f s = some (s', x) → s'.Sound := by
  have h := partGet_sound w va n s hs
  unfold partAtomic
  split
  · rintro _ _ ⟨⟩
  · split
    · rintro _ _ ⟨⟩
    · next s1 x he =>
      intro s' y hr
      obtain ⟨s2, h2, ⟨⟩⟩ := Option.map_eq_some_iff.mp hr
      exact partWrite_sound _ _ _ _ _ _ (fst_sound h he) s' h2

theorem clearBytes_sound (w : Who) (root va x1 : Nat) (s : State) (hs : s.Sound) : (clearBytes w root va x1 s).Sound := by
  induction x1 generalizing s with
  | zero => exact hs
  | succ k ih => exact getD_sound (partWrite_sound _ _ _ _ _ _ (ih _ hs)) (ih _ hs)

theorem settleWaits_sound (t g : Nat) (f : Wait → State → Option (State × Option Trap)) (x1 : Nat) (s : State)
    (hf : ∀ x0 s, s.Sound → ∀ s' x, f x0 s = some (s', x) → s'.Sound) (hs : s.Sound) : (settleWaits t g f x1 s).Sound := by
  induction x1 generalizing s with
  | zero => exact hs
  | succ n ih =>
    unfold settleWaits
    split
    · exact hs
    · split
      · next he =>
        obtain ⟨w, -, hw⟩ := Option.bind_eq_some_iff.mp he
        exact ih _ (completeWait_sound _ _ _ _ _ (hf w s hs _ _ hw))
      · exact hs

theorem settleTeam_sound (t : Nat) (f : Nat → Wait → State → Option (State × Option Trap)) (s : State)
    (hf : ∀ x0 x1 s, s.Sound → ∀ s' x, f x0 x1 s = some (s', x) → s'.Sound) (hs : s.Sound) : (settleTeam t f s).Sound := by
  exact foldl_sound _ (fun s g h => settleWaits_sound _ _ _ _ _ (hf g) h) s hs

theorem twaitDone_sound (t g : Nat) (w : Wait) (s : State) (hs : s.Sound) : ∀ s' x, twaitDone t g w s = some (s', x) →
    s'.Sound := by
  grind [twaitDone, State.modGrp_sound, dropWrite_sound]

theorem clearMaps_sound (l : Launch) (s : State) (hs : s.Sound) : (clearMaps l s).Sound := by
  unfold clearMaps
  split
  · exact hs
  · exact foldl_sound _ (fun s a h => clearBytes_sound _ _ _ _ s h) s hs

theorem State.modTrace_sound (s : State) (i : Nat) (f : Trace → Trace) (hs : s.Sound) : (State.modTrace s i f).Sound :=
  hs

theorem appendEntry_sound (i : Nat) (e : BitVec 128) (s : State) (hs : s.Sound) : (appendEntry i e s).Sound := by
  unfold appendEntry
  split
  · exact hs
  · next tr _ =>
    have h := partGet_sound (whoLaunch (s.launch tr.root)) tr.desc.toNat 8 s hs
    split
    · exact hs
    · split
      · exact hs
      · exact getD_sound (partWrite_sound _ _ _ _ _ _ h) h

theorem recordEntry_sound (n : Nat) (e : BitVec 128) (s : State) (hs : s.Sound) : (recordEntry n e s).Sound := by
  grind [recordEntry, appendEntry_sound]

theorem raiseOrder_sound (i k : Nat) (s : State) (hs : s.Sound) : (raiseOrder i k s).Sound := by
  unfold raiseOrder
  split
  · exact hs
  · split
    · exact hs
    · extract_lets l r a x
      have h : x.1.Sound := partGet_sound _ _ _ _ (partGet_sound _ _ _ _ hs)
      exact getD_sound (partWrite_sound _ _ _ _ _ _ h) h

theorem noteCounter_sound (t slice : Nat) (s : State) (hs : s.Sound) : (noteCounter t slice s).Sound := by
  grind [noteCounter, raiseOrder_sound, State.modTrace_sound, appendEntry_sound]

theorem closeTrace_sound (n : Nat) (s : State) (hs : s.Sound) : (closeTrace n s).Sound := by
  unfold closeTrace
  split
  · exact hs
  · split
    · exact hs
    · extract_lets l w root a put s1 s2 s3 s4
      have hput (off k x : Nat) (s : State) (h : s.Sound) : (put off k x s).Sound :=
        getD_sound (partWrite_sound _ _ _ _ _ _ h) h
      have h3 : s3.Sound := hput _ _ _ _ (hput _ _ _ _ (hput _ _ _ _ hs))
      exact State.modTrace_sound _ _ _ (foldl_sound _ (fun s d h => hput _ _ _ _ h) _ h3)

theorem openTrace_sound (n : Nat) (s : State) (hs : s.Sound) : (openTrace n s).Sound := by
  grind [openTrace, partGet_sound, State.Sound]

theorem openReplay_sound (n : Nat) (s : State) (hs : s.Sound) : ∀ s', openReplay n s = some s' → s'.Sound := by
  have h := partGet_sound (whoLaunch (s.launch n)) ((s.launch n).f 896 64) 64 s hs
  unfold openReplay
  extract_lets l a
  split
  · rintro _ ⟨⟩
  · next s1 x he =>
    have h1 : s1.Sound := by simpa only [l, a, he] using h
    extract_lets same at_ es tr s2
    have h2 : s2.Sound := foldl_sound _ (fun s i h => partSee_sound _ _ _ _ h) _ h1
    split
    · rintro _ ⟨⟩
    · split
      · rintro _ ⟨⟩; exact h2
      · rintro _ ⟨⟩

theorem useEntry_sound (t kind : Nat) (own : BitVec 128 → Bool) (s : State) (hs : s.Sound) : (useEntry t kind own s).Sound := by
  grind [useEntry, State.modTrace_sound]

theorem nodeReady_sound (n fails : Nat) (s : State) (hs : s.Sound) : (nodeReady n fails s).Sound :=
  ite_sound (clearMaps_sound _ _ hs) (State.modLaunch_sound _ _ _ hs)

theorem notifyNode_sound (w : Who) (root st a : Nat) (s : State) (hs : s.Sound) : (notifyNode w root st a s).Sound := by
  unfold notifyNode
  split
  · exact hs
  · next s1 old he =>
    have h := partAtomic_sound _ _ _ _ _ _ hs _ _ he
    grind [nodeReady_sound, State.modLaunch_sound]

theorem notifySuccessors_sound (n st : Nat) (s : State) (hs : s.Sound) : (notifySuccessors n st s).Sound := by
  refine foldl_sound _ (fun s i h => ?_) s hs
  split
  · next he => exact notifyNode_sound _ _ _ _ _ (fst_sound (partGet_sound _ _ _ _ h) he)
  · next he => exact fst_sound (partGet_sound _ _ _ _ h) he

theorem deliverPort_sound (t port : Nat) (e : DWord) (s : State) (hs : s.Sound) : (deliverPort t port e s).Sound :=
  hs

theorem deliverChild_sound (n : Nat) (s : State) (hs : s.Sound) : (deliverChild n s).Sound := by
  grind [deliverChild, State.modLaunch_sound, deliverPort_sound]

theorem finishLaunch_sound (n : Nat) (s : State) (hs : s.Sound) : (finishLaunch n s).Sound := by
  unfold finishLaunch
  split
  · exact hs
  · refine foldl_sound _ (fun s t h => settleTeam_sound _ _ _ (fun g w s h => twaitDone_sound _ _ _ _ h) h) _
      (deliverChild_sound _ _ (foldl_sound _ (fun s t h => State.modTeam_sound _ _ _ h) _ ?_))
    exact closeTrace_sound _ _ (notifySuccessors_sound _ _ _ hs)

theorem ringRead_sound (w : Who) (phys : Bool) (a n : Nat) (s : State) (hs : s.Sound) : ∀ s' x, ringRead w phys a n s = .ok
    (s', x) → s'.Sound := by
  grind [ringRead, seeMem_sound, partGet_sound]

theorem ringWrite_sound (w : Who) (phys : Bool) (a n x : Nat) (s : State) (hs : s.Sound) : ∀ s', ringWrite w phys a n x s =
    .ok s' → s'.Sound := by
  grind [ringWrite, physWrite_sound, coverMem_sound, partWrite_sound]

theorem putSlots_sound (w : Who) (phys : Bool) (base logn x1 : Nat) (x2 : List (BitVec 256)) (s : State) (hs : s.Sound) : ∀
    s', putSlots w phys base logn x1 x2 s = .ok s' → s'.Sound := by
  induction x2 generalizing x1 s with
  | nil => rintro _ ⟨⟩; exact hs
  | cons x xs ih => grind [putSlots, ringWrite_sound]

theorem writeRecord_sound (r : Record) (s : State) (hs : s.Sound) : (writeRecord r s).Sound := by
  unfold writeRecord
  dsimp only
  split
  · trivial
  · next s1 d he =>
    have h1 := ringRead_sound _ _ _ _ _ hs _ _ he
    split
    · trivial
    · split
      · trivial
      · next s2 he2 =>
        have h2 := putSlots_sound _ _ _ _ _ _ _ h1 _ he2
        split
        · trivial
        · next s3 he3 =>
          have h3 := ringWrite_sound _ _ _ _ _ _ h2 _ he3
          grind [RingOut.Sound, State.Sound]

theorem signalled_sound (r : Record) (s : State) (hs : s.Sound) : (signalled r s).Sound := by
  grind [signalled, State.modCmd_sound]

theorem writeSignal_sound (r : Record) (s : State) (hs : s.Sound) : ∀ s', writeSignal r s = some s' → s'.Sound := by
  unfold writeSignal
  split
  · rintro _ ⟨⟩; exact hs
  · intro s' h
    obtain ⟨r, hr, rfl⟩ := Option.map_eq_some_iff.mp h
    exact partAtomic_sound _ _ _ _ _ _ hs _ _ hr

theorem recordGone_sound (r : Record) (s : State) (hs : s.Sound) : (recordGone r s).Sound := by
  grind [recordGone, finishLaunch_sound, writeSignal_sound, signalled_sound, queueRecord_sound]

theorem noteRecent_sound (r : Record) (index slot : Nat) (s : State) (hs : s.Sound) : (noteRecent r index slot s).Sound :=
  ite_sound (State.modPart_sound _ _ _ hs) hs

theorem tryRecord_sound (k : Nat) (s : State) (hs : s.Sound) : (tryRecord k s).Sound := by
  have hw := writeRecord_sound
  unfold tryRecord
  split
  · exact hs
  · next r _ =>
    have hg : ({ s with records := s.records.eraseIdx k } : State).Sound := hs
    dsimp only
    split
    · split
      · next he => exact signalled_sound _ _ (writeSignal_sound _ _ hg _ he)
      · split
        · exact signalled_sound _ _ hg
        · exact hs
    · split
      · exact hs
      · split
        · next i s1 slot he =>
          have h1 := writeRecord_sound r s hs
          rw [he] at h1
          exact recordGone_sound _ _ (noteRecent_sound _ _ _ _ h1)
        · split
          · exact State.modPart_sound _ _ _ hg
          · exact hs
        · split
          · exact recordGone_sound _ _ (logError_sound _ _ _ _ _ _ _ _ hg)
          · exact hs

theorem putRecord_sound (r : Record) (s : State) (hs : s.Sound) : (putRecord r s).Sound := by
  grind [putRecord, recordGone_sound, queueRecord_sound, tryRecord_sound]

theorem completeGrid_sound (n : Nat) (s : State) (hs : s.Sound) : (completeGrid n s).Sound :=
  putRecord_sound _ _ (release_sound _ _ _ (State.modLaunch_sound _ _ _ hs))

theorem takeLid_sound (p : Nat) (pkt : BitVec 1024) (s : State) (hs : s.Sound) : (takeLid p pkt s).1.Sound := by
  grind [takeLid, State.modPart_sound]

theorem takeLineage_sound (p root depth : Nat) (s : State) (hs : s.Sound) : (takeLineage p root depth s).1.Sound :=
  State.modPart_sound _ _ _ hs

theorem startLaunch_sound (n : Nat) (bad : Bool) (s : State) (hs : s.Sound) : (startLaunch n bad s).Sound := by
  have hr (s : State) (h : s.Sound) : (s.modLaunch n fun l => { l with phase := .ending 5 }).Sound := h
  unfold startLaunch
  dsimp only
  split
  · exact hr _ hs
  · split
    · exact hr _ hs
    · next s1 he =>
      have h1 : s1.Sound := by
        split at he
        · cases he; exact openTrace_sound _ _ (State.modLaunch_sound _ _ _ hs)
        · split at he
          · exact openReplay_sound _ _ (State.modLaunch_sound _ _ _ hs) _ he
          · grind
      split
      · exact nodeReady_sound _ _ _ h1
      · split
        · exact hr _ h1
        · next s2 old he2 =>
          have h2 := partAtomic_sound _ _ _ _ _ _ h1 _ _ he2
          grind [nodeReady_sound, State.modLaunch_sound]

theorem startTeam_sound (n linear : Nat) (k : Core) (s : State) (hs : s.Sound) : (startTeam n linear k s).Sound := by
  grind [startTeam, State.modLaunch_sound, appendEntry_sound, State.modTrace_sound, useEntry_sound, State.Sound]

theorem endGroups_sound (t : Nat) (s : State) (hs : s.Sound) : (endGroups t s).Sound := by
  grind [endGroups, State.modTeam_sound, toSupervisor_sound]

theorem endCommands_sound (t : Nat) (st : Byte) (s : State) (hs : s.Sound) : (endCommands t st s).Sound :=
  hs

theorem freeSave_sound (t : Nat) (s : State) (hs : s.Sound) : (freeSave t s).Sound := by
  grind [freeSave, State.modTeam_sound, State.modPart_sound]

theorem killTeam_sound (t : Nat) (st : Byte) (s : State) (hs : s.Sound) : (killTeam t st s).Sound := by
  grind [killTeam, performStores_sound, endCommands_sound, freeSave_sound, State.modTeam_sound, State.Sound]

theorem dropFrame_sound (p root fr : Nat) (s : State) (hs : s.Sound) : (dropFrame p root fr s).Sound :=
  ite_sound (setPool_sound _ _ _ _ hs) hs

theorem clearCpl_sound (p hdr : Nat) (s : State) (hs : s.Sound) : (clearCpl p hdr s).Sound := by
  unfold clearCpl
  extract_lets s1 m root s2
  have h2 : s2.Sound := by
    refine foldl_sound _ (fun s n h => ?_) _ (seeMem_sound _ _ _ _ _ hs)
    extract_lets a e
    split
    · have hd : (if n < m.readLe hdr 4 then dropFrame p root (fld e 16 36) s else s).Sound := by
        split
        · exact dropFrame_sound _ _ _ _ h
        · exact h
      exact ⟨Store.wf_writeLe _ _ _ hd.1, hd.2⟩
    · exact h
  exact ⟨Store.wf_writeLe _ _ _ (Store.wf_writeLe _ _ _ h2.1), h2.2⟩

theorem clearCpls_sound (p : Nat) (lins : List DWord) (s : State) (hs : s.Sound) : (clearCpls p lins s).Sound := by
  refine foldl_sound _ (fun s h hs => ?_) s hs
  split
  · exact clearCpl_sound _ _ _ hs
  · exact hs

theorem cancelGrid_sound (n : Nat) (s : State) (hs : s.Sound) : (cancelGrid n s).Sound := by
  grind [cancelGrid, State.modLaunch_sound, State.Sound]

theorem cancelTree_sound (r : Nat) (s : State) (hs : s.Sound) : (cancelTree r s).Sound := by
  refine foldl_sound _ (fun s n h => cancelGrid_sound n s h) _ (clearCpls_sound _ _ _ ?_)
  refine foldl_sound _ (fun s n h => clearMaps_sound _ s h) _ ?_
  exact foldl_sound _ (fun s n h => foldl_sound _ (fun s t h => killTeam_sound _ _ s h) s h) s hs

/-! Control: control flow. -/

theorem execNop_sound (h : Hdr) (ext : NopExt) (s : State) (hs : s.Sound) : (execNop h ext s).Sound := by
  exact dualForm_sound _ _ _ _ _ _ _ (fun _ _ h => h) (fun _ _ _ _ h => h) hs

theorem execBra_sound (h : Hdr) (off : Word) (s : State) (hs : s.Sound) : (execBra h off s).Sound :=
  simt_sound _ _ _ _ _ _ (fun _ _ h => h) hs

theorem bruAct_sound (off : Word) (c : Ctx) (s : State) (hs : s.Sound) : (bruAct off c s).Sound := by
  grind [bruAct, orFlags_sound, Ctx.trap_sound, setPcs_sound, Act.Sound]

theorem execBru_sound (h : Hdr) (off : Word) (s : State) (hs : s.Sound) : (execBru h off s).Sound :=
  simt_sound _ _ _ _ _ _ (fun _ _ h => bruAct_sound _ _ _ h) hs

theorem jumpForm_sound (h : Hdr) (size : Nat) (a : Reg) (s : State) (hs : s.Sound) : (jumpForm h size a s).Sound :=
  simt_sound _ _ _ _ _ _ (fun _ _ h => h) hs

theorem execJmpi_sound (h : Hdr) (a : Reg) (s : State) (hs : s.Sound) : (execJmpi h a s).Sound :=
  jumpForm_sound _ _ _ _ hs

theorem execRet_sound (h : Hdr) (a : Reg) (s : State) (hs : s.Sound) : (execRet h a s).Sound :=
  jumpForm_sound _ _ _ _ hs

theorem callForm_sound (h : Hdr) (size : Nat) (us : List Use) (d : BitVec 8) (tgt : State → Ctx → Nat → DWord) (s : State)
    (hs : s.Sound) : (callForm h size us d tgt s).Sound :=
  simt_sound _ _ _ _ _ _ (fun _ _ h => writeReg_sound _ _ _ _ _ _ h) hs

theorem execCall_sound (h : Hdr) (d : BitVec 8) (off : Word) (s : State) (hs : s.Sound) : (execCall h d off s).Sound :=
  callForm_sound _ _ _ _ _ _ hs

theorem execCallI_sound (h : Hdr) (d : BitVec 8) (a : Reg) (s : State) (hs : s.Sound) : (execCallI h d a s).Sound :=
  callForm_sound _ _ _ _ _ _ hs

theorem exitAct_sound (c : Ctx) (s : State) (hs : s.Sound) : (exitAct c s).Sound := by
  grind [exitAct, Ctx.trap_sound, endGroups_sound, State.modGrp_sound, Act.Sound]

theorem execExit_sound (h : Hdr) (s : State) (hs : s.Sound) : (execExit h s).Sound :=
  simt_sound _ _ _ _ _ _ (fun _ _ h => exitAct_sound _ _ h) hs

theorem yieldAct_sound (c : Ctx) (s : State) (hs : s.Sound) : (yieldAct c s).Sound := by
  grind [yieldAct, State.modGrp_sound, setPcs_sound, Act.Sound]

theorem execYield_sound (h : Hdr) (s : State) (hs : s.Sound) : (execYield h s).Sound :=
  simt_sound _ _ _ _ _ _ (fun _ _ h => yieldAct_sound _ _ h) hs

theorem execYieldUnpark_sound (t g k : Nat) (s : State) (hs : s.Sound) : (execYieldUnpark t g k s).Sound := by
  grind [execYieldUnpark, completeWait_sound, Res.Sound]

theorem execTrap_sound (h : Hdr) (info : Option Word) (s : State) (hs : s.Sound) : (execTrap h info s).Sound := by
  grind [execTrap, dualForm_sound, State.Sound, Act.Sound, SAct.Sound, Fetched.Sound, Served.Sound, Res.Sound, RingOut.Sound,
    PushOut.Sound, SeqFetch.Sound, OkSound]

theorem execRft_sound (h : Hdr) (s : State) (hs : s.Sound) : (execRft h s).Sound :=
  simt_sound _ _ _ _ _ _ (fun _ _ h => returnFromTrap_sound _ _ _ h) hs

theorem takeAlong_sound (t g : Nat) (s : State) (hs : s.Sound) : (takeAlong t g s).Sound := by
  unfold takeAlong
  split
  · exact hs
  · exact foldl_sound _ (fun s k h => State.modGrp_sound _ _ _ _ h) _ hs

theorem execSysrd_sound (h : Hdr) (d : Reg) (id : BitVec 12) (s : State) (hs : s.Sound) : (execSysrd h d id s).Sound := by
  grind [execSysrd, simt_sound, writeReg_sound, takeAlong_sound, Act.Sound]

theorem setCtrBase_sound (t g : Nat) (w : Word) (s : State) (hs : s.Sound) : (setCtrBase t g w s).Sound :=
  hs

theorem sysSet_sound (c : Ctx) (id : BitVec 12) (v : Nat) (s : State) (hs : s.Sound) : (sysSet c id v s).Sound := by
  unfold sysSet
  extract_lets w x g tm n
  repeat refine ite_sound hs ?_
  exact hs

theorem sysSetLanes_sound (c : Ctx) (id : BitVec 12) (f : Nat → Nat) (s : State) (hs : s.Sound) :
    (sysSetLanes c id f s).Sound := by
  grind [sysSetLanes, State.modGrp_sound]

theorem execSyswr_sound (h : Hdr) (id : BitVec 12) (a : Reg) (s : State) (hs : s.Sound) : (execSyswr h id a s).Sound := by
  grind [execSyswr, simt_sound, sysSetLanes_sound, sysSet_sound, Act.Sound]

theorem resumeSeq_sound (t : Nat) (s : State) (hs : s.Sound) : (resumeSeq t s).Sound :=
  hs

theorem execSeqCtlResume_sound (h : Hdr) (a : Reg) (s : State) (hs : s.Sound) : (execSeqCtlResume h a s).Sound := by
  grind [execSeqCtlResume, simt_sound, resumeSeq_sound, Act.Sound]

theorem execPlop_sound (h : Hdr) (tbl : Byte) (d a b c : BitVec 3) (s : State) (hs : s.Sound) :
    (execPlop h tbl d a b c s).Sound :=
  simt_sound _ _ _ _ _ _ (fun _ _ h => writePred_sound _ _ _ _ _ h) hs

theorem execUnassignedOpcode_sound (w : DWord) (s : State) (hs : s.Sound) : (execUnassignedOpcode w s).Sound := by
  grind [execUnassignedOpcode, encodingTrap_sound, raiseSeqTrap_sound, Res.Sound]

/-! Supervise: the supervisor. -/

theorem unstop_sound (f : FaultRec) (s : State) (hs : s.Sound) : (unstop f s).Sound :=
  hs

theorem supResume_sound (p : Nat) (h : Word) (s : State) (hs : s.Sound) : (supResume p h s).Sound := by
  grind [supResume, unstop_sound, resumeSeq_sound, State.modGrp_sound, releaseDone_sound]

theorem endFaulted_sound (t : Nat) (code : Byte) (s : State) (hs : s.Sound) : (endFaulted t code s).Sound :=
  State.modLaunch_sound _ _ _ (killTeam_sound _ _ _ hs)

theorem supEnd_sound (p : Nat) (h : Word) (s : State) (hs : s.Sound) : (supEnd p h s).Sound := by
  grind [supEnd, endFaulted_sound, unstop_sound]

theorem supDeliver_sound (p : Nat) (h : Word) (s : State) (hs : s.Sound) : (supDeliver p h s).Sound := by
  grind [supDeliver, unstop_sound, State.modTeam_sound, giveSeqTrap_sound, State.modGrp_sound]

theorem supDo_sound (p op : Nat) (h : Word) (s : State) (hs : s.Sound) : (supDo p op h s).Sound := by
  unfold supDo
  split
  · exact hs
  · split
    · exact hs
    · split
      · exact hs
      · split
        · exact supResume_sound _ _ _ hs
        · exact supEnd_sound _ _ _ hs
        · exact supDeliver_sound _ _ _ hs
        · exact hs

theorem supAct_sound (p : Nat) (s : State) (hs : s.Sound) : (supAct p s).Sound :=
  ite_sound hs (supDo_sound _ _ _ _ hs)

theorem supLate_sound (t : Nat) (s : State) (hs : s.Sound) : (supLate t s).Sound := by
  exact foldl_sound _ (fun s e h => supDo_sound _ _ _ _ h) _ (State.modTeam_sound _ _ _ hs)

theorem afterSpans_sound (p : Nat) (rs : List Span) (s : State) (hs : s.Sound) : (afterSpans p rs s).Sound :=
  ite_sound (supAct_sound _ _ hs) hs

theorem afterDevice_sound (p : Nat) (ps : List Piece) (s : State) (hs : s.Sound) : (afterDevice p ps s).Sound :=
  afterSpans_sound _ _ _ hs

theorem execSupactResume_sound (p : Nat) (handle : Word) (s : State) (hs : s.Sound) : (execSupactResume p handle s).Sound :=
  State.Sound.next (ite_sound (supDo_sound _ _ _ _ hs) hs)

theorem execSupactEndTeam_sound (p : Nat) (handle : Word) (s : State) (hs : s.Sound) : (execSupactEndTeam p handle s).Sound
    :=
  State.Sound.next (ite_sound (supDo_sound _ _ _ _ hs) hs)

theorem execSupactDeliver_sound (p : Nat) (handle : Word) (s : State) (hs : s.Sound) : (execSupactDeliver p handle s).Sound
    :=
  State.Sound.next (ite_sound (supDo_sound _ _ _ _ hs) hs)

/-! Memory: loads, stores, atomics and the rest of the memory family. -/

theorem loadLane_sound (c : Ctx) (t : Ty) (o : Order) (once : Bool) (d : Reg) (l : Nat) (ps : List Piece) (s : State)
    (hs : s.Sound) : (loadLane c t o once d l ps s).Sound :=
  writeReg_sound _ _ _ _ _ _ (beforeLoad_sound _ _ _ _ _ _ hs)

theorem halfLane_sound (c : Ctx) (o : Order) (once second : Bool) (l : Nat) (ps : List Piece) (s : State) (hs : s.Sound) :
    (halfLane c o once second l ps s).Sound :=
  State.modGrp_sound _ _ _ _ (beforeLoad_sound _ _ _ _ _ _ hs)

theorem halfAct_sound (t : Ty) (o : Order) (d : Reg) (ad : Addr) (c : Ctx) (s : State) (hs : s.Sound) : ∀ a, halfAct t o d ad
    c s = some a → a.Sound := by
  grind [halfAct, runLanes_sound, laneAccess_sound, halfLane_sound, observe_sound, Act.Sound]

theorem ldAct_sound (t : Ty) (o : Order) (d : Reg) (ad : Addr) (c : Ctx) (s : State) (hs : s.Sound) :
    (ldAct t o d ad c s).Sound := by
  unfold ldAct
  cases he : halfAct t o d ad c s with
  | none => exact memAct_sound _ _ _ _ _ _ _ _ (fun l ps s h => loadLane_sound _ _ _ _ _ _ _ _ h) hs
  | some a => exact halfAct_sound _ _ _ _ _ _ hs a he

theorem execLd_sound (h : Hdr) (t : Ty) (o : Order) (sc : Scope) (hint : Hint) (d : Reg) (ad : Addr) (s : State)
    (hs : s.Sound) : (execLd h t o sc hint d ad s).Sound :=
  simt_sound _ _ _ _ _ _ (fun _ _ h => ldAct_sound _ _ _ _ _ _ h) hs

theorem storeLane_sound (c : Ctx) (t : Ty) (o : Order) (sc : Scope) (once : Bool) (val : Nat → Nat) (l : Nat)
    (ps : List Piece) (s : State) (hs : s.Sound) : (storeLane c t o sc once val l ps s).Sound :=
  afterDevice_sound _ _ _ (orFlags_sound _ _ _ (storeOrdered_sound _ _ _ _ _ _ _ _ _ hs))

theorem stAct_sound (t : Ty) (o : Order) (sc : Scope) (ad : Addr) (cr : Reg) (c : Ctx) (s : State) (hs : s.Sound) :
    (stAct t o sc ad cr c s).Sound :=
  memAct_sound _ _ _ _ _ _ _ _ (fun _ _ _ h => storeLane_sound _ _ _ _ _ _ _ _ _ h) hs

theorem execSt_sound (h : Hdr) (t : Ty) (o : Order) (sc : Scope) (hint : Hint) (ad : Addr) (cr : Reg) (s : State)
    (hs : s.Sound) : (execSt h t o sc hint ad cr s).Sound :=
  simt_sound _ _ _ _ _ _ (fun _ _ h => stAct_sound _ _ _ _ _ _ _ h) hs

theorem metSpans_sound (t source a n : Nat) (cover : List Span) (s : State) (hs : s.Sound) :
    (metSpans t source a n cover s).1.Sound :=
  meetErrs_sound _ _ _ _ _ _ _ hs

theorem metCore_sound (t source a n : Nat) (store : Bool) (s : State) (hs : s.Sound) : (metCore t source a n store s).1.Sound
    :=
  metSpans_sound _ _ _ _ _ _ hs

theorem coreEcc_sound (t source a n : Nat) (k : Kind) (cover : List Span) (s : State) (hs : s.Sound) :
    (coreEcc t source a n k cover s).1.Sound :=
  metSpans_sound _ _ _ _ _ _ hs

theorem scratchLane_sound (t n : Nat) (k : Kind) (mates : List Nat) (o : Nat) (f : State → State) (s : State)
    (hf : ∀ s, s.Sound → (f s).Sound) (hs : s.Sound) : (scratchLane t n k mates o f s).1.Sound := by
  grind [scratchLane, coreEcc_sound]

theorem selWrite_sound (t o n v : Nat) (s : State) (hs : s.Sound) : (selWrite t o n v s).Sound := by
  grind [selWrite, State.modTeam_sound]

theorem winAct_sound (t : Ty) (win : Window) (d : Reg) (ad : Addr) (store : Bool) (c : Ctx) (s : State) (hs : s.Sound) :
    (winAct t win d ad store c s).Sound := by
  have hflush : (releaseLanes c.t c.g c.E .team s).Sound := releaseLanes_sound _ _ _ _ _ hs
  unfold winAct
  extract_lets g tm once ls n off val flush kind take
  have htake (l x : Nat) (s : State) (h : s.Sound) : (take l x s).Sound := h
  split
  · refine finishLanes_sound _ _ _ (runLanes_sound _ _ _ (fun l s h => scratchLane_sound _ _ _ _ _ _ _ (fun s h => ?_) h) hflush)
    split
    · exact h
    · exact h
  · extract_lets b x inTile
    refine Act.ite_sound hs (Act.ite_sound hs (finishLanes_sound _ _ _ (runLanes_sound _ _ _ (fun l s h => ?_) hflush)))
    have h1 := coreEcc_sound c.t 6 (accPlace b + off l) n kind (storeSpans kind (accPlace b) n (ls.map off) inTile) s h
    split
    · exact h
    · split
      · next he => exact fst_sound h1 he
      · next he =>
        have h2 := fst_sound h1 he
        exact ite_sound h2 h2
  · split
    · trivial
    · refine finishLanes_sound _ _ _ (runLanes_sound _ _ _ (fun l s h => ?_) hflush)
      split
      · exact h
      · have h1 := coreEcc_sound c.t 6 (selPlace + off l) n kind
          (storeSpans kind selPlace n (ls.map off) fun o => (selBad tm store o n).isNone) s h
        split
        · next he => exact fst_sound h1 he
        · next he =>
          have h2 := fst_sound h1 he
          dsimp only
          split
          · exact orFlags_sound _ _ _ (foldl_sound _ (fun s w h => selWrite_sound _ _ _ _ _ h) _ h2)
          · exact h2

theorem execLds_sound (h : Hdr) (t : Ty) (win : Window) (d : Reg) (ad : Addr) (s : State) (hs : s.Sound) :
    (execLds h t win d ad s).Sound :=
  simt_sound _ _ _ _ _ _ (fun _ _ h => winAct_sound _ _ _ _ _ _ _ h) hs

theorem execSts_sound (h : Hdr) (t : Ty) (win : Window) (ad : Addr) (d : Reg) (s : State) (hs : s.Sound) :
    (execSts h t win ad d s).Sound :=
  simt_sound _ _ _ _ _ _ (fun _ _ h => winAct_sound _ _ _ _ _ _ _ h) hs

theorem atomLane_sound (c : Ctx) (op : AtomOp) (t : Ty) (o : Order) (sc : Scope) (once : Bool) (d : Reg) (val : Nat → Nat)
    (l : Nat) (ps : List Piece) (s : State) (hs : s.Sound) : (atomLane c op t o sc once d val l ps s).Sound := by
  grind [atomLane, beforeAtomic_sound, afterDevice_sound, orFlags_sound, writeReg_sound, writePieces_sound]

theorem atomAct_sound (op : AtomOp) (t : Ty) (o : Order) (sc : Scope) (d : Reg) (ad : Addr) (b : Reg) (c : Ctx) (s : State)
    (hs : s.Sound) : (atomAct op t o sc d ad b c s).Sound :=
  memAct_sound _ _ _ _ _ _ _ _ (fun _ _ _ h => atomLane_sound _ _ _ _ _ _ _ _ _ _ _ h) hs

theorem atomForm_sound (h : Hdr) (size : Nat) (op : AtomOp) (t : Ty) (o : Order) (sc : Scope) (d : Reg) (ad : Addr) (b : Reg)
    (s : State) (hs : s.Sound) : (atomForm h size op t o sc d ad b s).Sound :=
  simt_sound _ _ _ _ _ _ (fun _ _ h => atomAct_sound _ _ _ _ _ _ _ _ _ h) hs

theorem execAtomAdd_sound (h : Hdr) (t : Ty) (o : Order) (sc : Scope) (d : Reg) (ad : Addr) (b : Reg) (s : State)
    (hs : s.Sound) : (execAtomAdd h t o sc d ad b s).Sound :=
  atomForm_sound _ _ _ _ _ _ _ _ _ _ hs

theorem execAtomMin_sound (h : Hdr) (t : Ty) (o : Order) (sc : Scope) (d : Reg) (ad : Addr) (b : Reg) (s : State)
    (hs : s.Sound) : (execAtomMin h t o sc d ad b s).Sound :=
  atomForm_sound _ _ _ _ _ _ _ _ _ _ hs

theorem execAtomMax_sound (h : Hdr) (t : Ty) (o : Order) (sc : Scope) (d : Reg) (ad : Addr) (b : Reg) (s : State)
    (hs : s.Sound) : (execAtomMax h t o sc d ad b s).Sound :=
  atomForm_sound _ _ _ _ _ _ _ _ _ _ hs

theorem execAtomAnd_sound (h : Hdr) (t : Ty) (o : Order) (sc : Scope) (d : Reg) (ad : Addr) (b : Reg) (s : State)
    (hs : s.Sound) : (execAtomAnd h t o sc d ad b s).Sound :=
  atomForm_sound _ _ _ _ _ _ _ _ _ _ hs

theorem execAtomOr_sound (h : Hdr) (t : Ty) (o : Order) (sc : Scope) (d : Reg) (ad : Addr) (b : Reg) (s : State)
    (hs : s.Sound) : (execAtomOr h t o sc d ad b s).Sound :=
  atomForm_sound _ _ _ _ _ _ _ _ _ _ hs

theorem execAtomXor_sound (h : Hdr) (t : Ty) (o : Order) (sc : Scope) (d : Reg) (ad : Addr) (b : Reg) (s : State)
    (hs : s.Sound) : (execAtomXor h t o sc d ad b s).Sound :=
  atomForm_sound _ _ _ _ _ _ _ _ _ _ hs

theorem execAtomExch_sound (h : Hdr) (t : Ty) (o : Order) (sc : Scope) (d : Reg) (ad : Addr) (b : Reg) (s : State)
    (hs : s.Sound) : (execAtomExch h t o sc d ad b s).Sound :=
  atomForm_sound _ _ _ _ _ _ _ _ _ _ hs

theorem execAtomCas_sound (h : Hdr) (t : Ty) (o : Order) (sc : Scope) (d : Reg) (ad : Addr) (b : Reg) (s : State)
    (hs : s.Sound) : (execAtomCas h t o sc d ad b s).Sound :=
  atomForm_sound _ _ _ _ _ _ _ _ _ _ hs

theorem atomsAct_sound (op : AtomOp) (t : Ty) (d : Reg) (ad : Addr) (b : Reg) (c : Ctx) (s : State) (hs : s.Sound) :
    (atomsAct op t d ad b c s).Sound := by
  grind [atomsAct, finishLanes_sound, runLanes_sound, scratchLane_sound, orFlags_sound, writeReg_sound, State.modTeam_sound,
    releaseLanes_sound]

theorem atomsForm_sound (h : Hdr) (size : Nat) (op : AtomOp) (t : Ty) (d : Reg) (ad : Addr) (b : Reg) (s : State)
    (hs : s.Sound) : (atomsForm h size op t d ad b s).Sound :=
  simt_sound _ _ _ _ _ _ (fun _ _ h => atomsAct_sound _ _ _ _ _ _ _ h) hs

theorem execAtomsAdd_sound (h : Hdr) (t : Ty) (d : Reg) (ad : Addr) (b : Reg) (s : State) (hs : s.Sound) :
    (execAtomsAdd h t d ad b s).Sound :=
  atomsForm_sound _ _ _ _ _ _ _ _ hs

theorem execAtomsMin_sound (h : Hdr) (t : Ty) (d : Reg) (ad : Addr) (b : Reg) (s : State) (hs : s.Sound) :
    (execAtomsMin h t d ad b s).Sound :=
  atomsForm_sound _ _ _ _ _ _ _ _ hs

theorem execAtomsMax_sound (h : Hdr) (t : Ty) (d : Reg) (ad : Addr) (b : Reg) (s : State) (hs : s.Sound) :
    (execAtomsMax h t d ad b s).Sound :=
  atomsForm_sound _ _ _ _ _ _ _ _ hs

theorem execAtomsAnd_sound (h : Hdr) (t : Ty) (d : Reg) (ad : Addr) (b : Reg) (s : State) (hs : s.Sound) :
    (execAtomsAnd h t d ad b s).Sound :=
  atomsForm_sound _ _ _ _ _ _ _ _ hs

theorem execAtomsOr_sound (h : Hdr) (t : Ty) (d : Reg) (ad : Addr) (b : Reg) (s : State) (hs : s.Sound) :
    (execAtomsOr h t d ad b s).Sound :=
  atomsForm_sound _ _ _ _ _ _ _ _ hs

theorem execAtomsXor_sound (h : Hdr) (t : Ty) (d : Reg) (ad : Addr) (b : Reg) (s : State) (hs : s.Sound) :
    (execAtomsXor h t d ad b s).Sound :=
  atomsForm_sound _ _ _ _ _ _ _ _ hs

theorem execAtomsExch_sound (h : Hdr) (t : Ty) (d : Reg) (ad : Addr) (b : Reg) (s : State) (hs : s.Sound) :
    (execAtomsExch h t d ad b s).Sound :=
  atomsForm_sound _ _ _ _ _ _ _ _ hs

theorem execAtomsCas_sound (h : Hdr) (t : Ty) (d : Reg) (ad : Addr) (b : Reg) (s : State) (hs : s.Sound) :
    (execAtomsCas h t d ad b s).Sound :=
  atomsForm_sound _ _ _ _ _ _ _ _ hs

theorem fenceAct_sound (o : Order) (sc : Scope) (c : Ctx) (s : State) (hs : s.Sound) : (fenceAct o sc c s).Sound := by
  cases o with
  | sc => exact releaseLanes_sound _ _ _ _ _ hs
  | rel | ar => exact fenceLanes_sound _ _ _ _ _ hs
  | _ => exact hs

theorem execFence_sound (h : Hdr) (o : Order) (sc : Scope) (s : State) (hs : s.Sound) : (execFence h o sc s).Sound :=
  simt_sound _ _ _ _ _ _ (fun _ _ h => fenceAct_sound _ _ _ _ h) hs

theorem keepLives_sound (desc : Nat) (live : Bool) (s : State) (hs : s.Sound) : (keepLives desc live s).Sound :=
  hs

theorem publishLane_sound (c : Ctx) (d : BitVec 6) (ps : List Piece) (s : State) (hs : s.Sound) :
    (publishLane c d ps s).Sound := by
  grind [publishLane, observe_sound, flushOverlap_sound, releaseGroup_sound, shareCtr_sound, writeReg_sound,
    writePieces_sound, keepLives_sound]

theorem publishAct_sound (d a : BitVec 6) (disp : Option Word) (c : Ctx) (s : State) (hs : s.Sound) :
    (publishAct d a disp c s).Sound := by
  unfold publishAct
  extract_lets form va
  split
  · exact hs
  · exact memAct_sound _ _ _ _ _ _ _ _ (fun l ps s h => publishLane_sound _ _ _ _ h) hs

theorem execPublish_sound (h : Hdr) (sc : Scope) (d a : BitVec 6) (disp : Option Word) (s : State) (hs : s.Sound) :
    (execPublish h sc d a disp s).Sound :=
  simt_sound _ _ _ _ _ _ (fun _ _ h => publishAct_sound _ _ _ _ _ h) hs

theorem seeCommands_sound (t g : Nat) (sel : Nat → Cmd → Bool) (s : State) (hs : s.Sound) : (seeCommands t g sel s).Sound :=
  hs

theorem drainAct_sound (d : Dest) (c : Ctx) (s : State) (hs : s.Sound) : (drainAct d c s).Sound := by
  grind [drainAct, seeCommands_sound, State.modGrp_sound, Act.Sound]

theorem execDrainSp_sound (h : Hdr) (s : State) (hs : s.Sound) : (execDrainSp h s).Sound :=
  simt_sound _ _ _ _ _ _ (fun _ _ h => drainAct_sound _ _ _ h) hs

theorem execDrainFifo_sound (h : Hdr) (s : State) (hs : s.Sound) : (execDrainFifo h s).Sound :=
  simt_sound _ _ _ _ _ _ (fun _ _ h => drainAct_sound _ _ _ h) hs

theorem execDrainGlb_sound (h : Hdr) (s : State) (hs : s.Sound) : (execDrainGlb h s).Sound :=
  simt_sound _ _ _ _ _ _ (fun _ _ h => drainAct_sound _ _ _ h) hs

theorem execDrainComplete_sound (t g : Nat) (s : State) (hs : s.Sound) : (execDrainComplete t g s).Sound := by
  grind [execDrainComplete, seeCommands_sound, State.modGrp_sound, Res.Sound]

theorem cctlForm_sound (h : Hdr) (size : Nat) (ad : Addr) (s : State) (hs : s.Sound) : (cctlForm h size ad s).Sound :=
  simt_sound _ _ _ _ _ _ (fun _ _ h => h) hs

theorem execCctlInv_sound (h : Hdr) (ad : Addr) (s : State) (hs : s.Sound) : (execCctlInv h ad s).Sound :=
  cctlForm_sound _ _ _ _ hs

theorem execCctlPfl1_sound (h : Hdr) (ad : Addr) (s : State) (hs : s.Sound) : (execCctlPfl1 h ad s).Sound :=
  cctlForm_sound _ _ _ _ hs

theorem execCctlPfl2_sound (h : Hdr) (ad : Addr) (s : State) (hs : s.Sound) : (execCctlPfl2 h ad s).Sound :=
  cctlForm_sound _ _ _ _ hs

theorem ldcLane_sound (c : Ctx) (d : Reg) (k off l : Nat) (s : State) (hs : s.Sound) : (ldcLane c d k off l s).1.Sound := by
  grind [ldcLane, laneAccess_sound, observe_sound, writeReg_sound]

theorem ldcAct_sound (d : Reg) (k : Nat) (off : Opd) (c : Ctx) (s : State) (hs : s.Sound) : (ldcAct d k off c s).Sound := by
  grind [ldcAct, gateLanes_sound, finishLanes_sound, runLanes_sound, ldcLane_sound]

theorem execLdcB32_sound (h : Hdr) (d : Reg) (off : Opd) (s : State) (hs : s.Sound) : (execLdcB32 h d off s).Sound :=
  simt_sound _ _ _ _ _ _ (fun _ _ h => ldcAct_sound _ _ _ _ _ h) hs

theorem execLdcB64_sound (h : Hdr) (d : Reg) (off : Opd) (s : State) (hs : s.Sound) : (execLdcB64 h d off s).Sound :=
  simt_sound _ _ _ _ _ _ (fun _ _ h => ldcAct_sound _ _ _ _ _ h) hs

/-! Sync: barriers. -/

theorem modBar_sound (t b : Nat) (f : Barrier → Barrier) (s : State) (hs : s.Sound) : (modBar t b f s).Sound :=
  hs

theorem setRecorded_sound (t b : Nat) (p : Party) (x : Option Bool) (s : State) (hs : s.Sound) :
    (setRecorded t b p x s).Sound := by
  cases p with
  | some g => exact hs
  | none => exact hs

theorem barWaitDone_sound (t b g : Nat) (w : Wait) (s : State) (hs : s.Sound) : ∀ s' x, barWaitDone t b g w s = some (s', x)
    → s'.Sound := by
  grind [barWaitDone, seeCtr_sound, setRecorded_sound]

theorem seqSees_sound (t : Nat) (v : CtrView) (s : State) (hs : s.Sound) : (seqSees t v s).Sound :=
  hs

theorem seqBarDone_sound (t b : Nat) (s : State) (hs : s.Sound) : (seqBarDone t b s).Sound := by
  grind [seqBarDone, State.modSeq_sound, seqSees_sound, setRecorded_sound, raiseSeqTrap_sound]

theorem barUpdate_sound (t b : Nat) (f : Barrier → Barrier) (s : State) (hs : s.Sound) : (barUpdate t b f s).Sound := by
  unfold barUpdate
  extract_lets s1
  have h1 : s1.Sound := hs
  split
  · exact h1
  · exact seqBarDone_sound _ _ _ (settleTeam_sound _ _ _ (fun g w s h => barWaitDone_sound _ _ _ _ _ h) (modBar_sound _ _ _ _ h1))

theorem barArrive_sound (t b : Nat) (p : Party) (c : Nat) (s : State) (hs : s.Sound) : (barArrive t b p c s).Sound :=
  barUpdate_sound _ _ _ _ (setRecorded_sound _ _ _ _ _ hs)

theorem barExpect_sound (t b n : Nat) (s : State) (hs : s.Sound) : (barExpect t b n s).Sound :=
  barUpdate_sound _ _ _ _ hs

theorem barBytes_sound (t b n : Nat) (v : CtrView) (s : State) (hs : s.Sound) : (barBytes t b n v s).Sound :=
  barUpdate_sound _ _ _ _ (arrival_sound _ _ hs)

theorem outside_sound (c : Ctx) (s : State) (v : Nat) (what : Word) (hs : s.Sound) : (outside c s v what).Sound :=
  hs

theorem barWaitAct_sound (b : Nat) (c : Ctx) (s : State) (hs : s.Sound) : (barWaitAct b c s).Sound := by
  grind [barWaitAct, setRecorded_sound, seeCtr_sound, Act.Sound]

theorem noteCtr_sound (t b : Nat) (p : Party) (s : State) (hs : s.Sound) : (noteCtr t b p s).Sound :=
  hs

theorem barAct_sound (arrive wait : Bool) (v : ImmU) (c : Ctx) (s : State) (hs : s.Sound) : (barAct arrive wait v c s).Sound
    := by
  grind [barAct, outside_sound, barWaitAct_sound, barArrive_sound, noteCtr_sound, releaseGroup_sound, Act.Sound]

theorem seqBarWait_sound (t b : Nat) (next : DWord) (s : State) (hs : s.Sound) : (seqBarWait t b next s).Sound := by
  grind [seqBarWait, State.modSeq_sound, setRecorded_sound, seqSees_sound, SAct.Sound]

theorem seqBar_sound (arrive wait : Bool) (v : ImmU) (t : Nat) (pc next : DWord) (s : State) (hs : s.Sound) :
    (seqBar arrive wait v t pc next s).Sound := by
  unfold seqBar
  dsimp only
  grind [noteCtr_sound, barArrive_sound, seqBarWait_sound, SAct.Sound]

theorem execBarSync_sound (h : Hdr) (b : ImmU) (s : State) (hs : s.Sound) : (execBarSync h b s).Sound := by
  grind [execBarSync, dualForm_sound, barAct_sound, seqBar_sound]

theorem execBarArrive_sound (h : Hdr) (b : ImmU) (s : State) (hs : s.Sound) : (execBarArrive h b s).Sound := by
  grind [execBarArrive, dualForm_sound, barAct_sound, seqBar_sound]

theorem execBarWait_sound (h : Hdr) (b : ImmU) (s : State) (hs : s.Sound) : (execBarWait h b s).Sound := by
  grind [execBarWait, dualForm_sound, barAct_sound, seqBar_sound]

theorem bexpAct_sound (o : BexpOpd) (c : Ctx) (s : State) (hs : s.Sound) : (bexpAct o c s).Sound :=
  Act.ite_sound (outside_sound _ _ _ _ hs) (barExpect_sound _ _ _ _ hs)

theorem seqBexp_sound (o : BexpOpd) (t : Nat) (pc next : DWord) (s : State) (hs : s.Sound) : (seqBexp o t pc next s).Sound := by
  grind [seqBexp, barExpect_sound, SAct.Sound]

theorem execBexp_sound (h : Hdr) (b : BexpOpd) (s : State) (hs : s.Sound) : (execBexp h b s).Sound := by
  grind [execBexp, dualForm_sound, bexpAct_sound, seqBexp_sound]

theorem modColl_sound (p : Nat) (id : BitVec 16) (f : CollGroup → CollGroup) (s : State) (hs : s.Sound) :
    (modColl p id f s).Sound :=
  State.modPart_sound _ _ _ hs

theorem noteArrivals_sound (p : Nat) (id : BitVec 16) (s : State) (hs : s.Sound) : (noteArrivals p id s).Sound := by
  unfold noteArrivals
  split
  · exact hs
  · exact ite_sound hs (modColl_sound _ _ _ _ (foldl_sound _ (fun s t h => releaseTeam_sound _ _ _ h) s hs))

theorem cbarAct_sound (sc : Scope) (v : ImmU) (c : Ctx) (s : State) (hs : s.Sound) : (cbarAct sc v c s).Sound := by
  grind [cbarAct, Ctx.trap_sound, releaseTeam_sound, noteArrivals_sound, modColl_sound, Act.Sound]

theorem execCbar_sound (h : Hdr) (sc : Scope) (id : ImmU) (s : State) (hs : s.Sound) : (execCbar h sc id s).Sound :=
  simt_sound _ _ _ _ _ _ (fun _ _ h => cbarAct_sound _ _ _ _ h) hs

theorem leaveCbar_sound (p : Nat) (id : BitVec 16) (tr : Option Trap) (s : State) (hs : s.Sound) :
    (leaveCbar p id tr s).Sound := by
  unfold leaveCbar
  split
  · exact hs
  · next g _ =>
    refine foldl_sound _ (fun s t h => settleTeam_sound _ _ _ (fun g w s h => ?_) h) _
      (foldl_sound _ (fun s x h => foldl_sound _ (fun s y h => ite_sound (seeCtr_sound _ _ _ _ h) h) s h) _
        (modColl_sound _ _ _ _ hs))
    grind

theorem execCbarComplete_sound (p : Nat) (id : BitVec 16) (s : State) (hs : s.Sound) : (execCbarComplete p id s).Sound := by
  grind [execCbarComplete, noteArrivals_sound, leaveCbar_sound, Res.Sound]

theorem execCbarDeadlineExpiry_sound (p : Nat) (id : BitVec 16) (rank : Word) (s : State) (hs : s.Sound) :
    (execCbarDeadlineExpiry p id rank s).Sound := by
  grind [execCbarDeadlineExpiry, noteArrivals_sound, leaveCbar_sound, Res.Sound]

theorem emptyTokens_sound (t g : Nat) (m : BitVec 16) (s : State) (hs : s.Sound) : (emptyTokens t g m s).Sound :=
  hs

theorem tokenWaitDone_sound (t g : Nat) (w : Wait) (s : State) (hs : s.Sound) : ∀ s' x, tokenWaitDone t g w s = some (s', x)
    → s'.Sound := by
  grind [tokenWaitDone, emptyTokens_sound]

theorem wakeTokens_sound (t : Nat) (s : State) (hs : s.Sound) : (wakeTokens t s).Sound := by
  exact endGroups_sound _ _ (settleTeam_sound _ _ _ (fun g w s h => tokenWaitDone_sound _ _ _ _ h) hs)

theorem waitkAct_sound (m : BitVec 16) (c : Ctx) (s : State) (hs : s.Sound) : (waitkAct m c s).Sound := by
  grind [waitkAct, emptyTokens_sound, Act.Sound]

theorem execWaitk_sound (h : Hdr) (k : BitVec 4) (s : State) (hs : s.Sound) : (execWaitk h k s).Sound :=
  simt_sound _ _ _ _ _ _ (fun _ _ h => waitkAct_sound _ _ _ h) hs

theorem execWaitkMask_sound (h : Hdr) (m : BitVec 16) (s : State) (hs : s.Sound) : (execWaitkMask h m s).Sound :=
  simt_sound _ _ _ _ _ _ (fun _ _ h => waitkAct_sound _ _ _ h) hs

theorem setTile_sound (t k : Nat) (x : TileState) (s : State) (hs : s.Sound) : (setTile t k x s).Sound :=
  hs

theorem takeTile_sound (t k g : Nat) (s : State) (hs : s.Sound) : (takeTile t k g s).Sound :=
  hs

theorem leaveTile_sound (t k g : Nat) (s : State) (hs : s.Sound) : (leaveTile t k g s).Sound :=
  hs

theorem serveTile_sound (t k : Nat) (s : State) (hs : s.Sound) : (serveTile t k s).Sound := by
  grind [serveTile, completeWait_sound, takeTile_sound]

theorem acqAct_sound (k : Nat) (c : Ctx) (s : State) (hs : s.Sound) : (acqAct k c s).Sound := by
  grind [acqAct, Ctx.trap_sound, takeTile_sound, Act.Sound]

theorem execAcq_sound (h : Hdr) (tile : BitVec 3) (s : State) (hs : s.Sound) : (execAcq h tile s).Sound :=
  simt_sound _ _ _ _ _ _ (fun _ _ h => acqAct_sound _ _ _ h) hs

theorem relAct_sound (k : Nat) (c : Ctx) (s : State) (hs : s.Sound) : (relAct k c s).Sound := by
  grind [relAct, Ctx.trap_sound, setTile_sound, leaveTile_sound, releaseGroup_sound, serveTile_sound, Act.Sound]

theorem seqRel_sound (k t : Nat) (pc next : DWord) (s : State) (hs : s.Sound) : (seqRel k t pc next s).Sound := by
  grind [seqRel, serveTile_sound, setTile_sound, State.modTeam_sound, SAct.Sound]

theorem execRel_sound (h : Hdr) (tile : BitVec 3) (s : State) (hs : s.Sound) : (execRel h tile s).Sound := by
  grind [execRel, dualForm_sound, relAct_sound, seqRel_sound]

theorem slotAct_sound (k : Kind) (a : BitVec 6) (disp : Option Word) (f : List Piece → State → State) (c : Ctx) (s : State)
    (hf : ∀ x0 s, s.Sound → (f x0 s).Sound) (hs : s.Sound) : (slotAct k a disp f c s).Sound := by
  grind [slotAct, Ctx.trap_sound, memAct_sound]

theorem tsldAct_sound (slot : Nat) (a : BitVec 6) (disp : Option Word) (c : Ctx) (s : State) (hs : s.Sound) :
    (tsldAct slot a disp c s).Sound := by
  grind [tsldAct, slotAct_sound, beforeLoad_sound, State.modTeam_sound, Ctx.trap_sound, Act.Sound]

theorem execTsld_sound (h : Hdr) (slot : BitVec 5) (a : BitVec 6) (disp : Option Word) (s : State) (hs : s.Sound) :
    (execTsld h slot a disp s).Sound :=
  simt_sound _ _ _ _ _ _ (fun _ _ h => tsldAct_sound _ _ _ _ _ h) hs

theorem emptySlot_sound (t slot : Nat) (s : State) (hs : s.Sound) : (emptySlot t slot s).Sound :=
  hs

theorem tsevAct_sound (slot : Nat) (ad : Option (BitVec 6 × Option Word)) (c : Ctx) (s : State) (hs : s.Sound) :
    (tsevAct slot ad c s).Sound := by
  cases ad with
  | none => exact emptySlot_sound _ _ _ hs
  | some x =>
    exact slotAct_sound _ _ _ _ _ _ (fun ps s h =>
      emptySlot_sound _ _ _ (afterDevice_sound _ _ _ (storeOrdered_sound _ _ _ _ _ _ _ _ _ h))) hs

theorem execTsev_sound (h : Hdr) (slot : BitVec 5) (ad : Option (BitVec 6 × Option Word)) (s : State) (hs : s.Sound) :
    (execTsev h slot ad s).Sound :=
  simt_sound _ _ _ _ _ _ (fun _ _ h => tsevAct_sound _ _ _ _ h) hs

/-! Queues: queues. -/

theorem modQueue_sound (t q : Nat) (f : Queue → Queue) (s : State) (hs : s.Sound) : (modQueue t q f s).Sound :=
  hs

theorem measureFull_sound (t q : Nat) (s : State) (hs : s.Sound) : (measureFull t q s).Sound :=
  hs

theorem measurePark_sound (t q : Nat) (s : State) (hs : s.Sound) : (measurePark t q s).Sound :=
  hs

theorem pushOne_sound (t q v : Nat) (cv : CtrView) (s : State) (hs : s.Sound) : (pushOne t q v cv s).Sound := by
  grind [pushOne, modQueue_sound, State.modTeam_sound, arrival_sound, partWrite_sound, PushOut.Sound]

theorem refill_sound (t q x1 : Nat) (s : State) (hs : s.Sound) : (refill t q x1 s).Sound := by
  induction x1 generalizing s with
  | zero => exact hs
  | succ n ih =>
    unfold refill
    refine ite_sound (ih _ hs) ?_
    split
    · next he => exact ih _ (fst_sound (partGet_sound _ _ _ _ hs) he)
    · next s1 v he =>
      have h1 : s1.Sound := fst_sound (partGet_sound _ _ _ _ hs) he
      exact ih _ (modQueue_sound _ _ _ _ (State.modTeam_sound _ _ _ h1))

theorem popOne_sound (t : Nat) (b : Bind) (s : State) (hs : s.Sound) : ∀ s' x, popOne t b s = some (s', x) → s'.Sound := by
  cases b with
  | queue q =>
    have h1 : State.Sound (if (((s.team t).queue q).cnt = 0 && ((s.team t).queue q).ocnt != 0) = true then refill t q 1 s else s) :=
      ite_sound (refill_sound _ _ _ _ hs) hs
    simp only [popOne]
    revert h1
    generalize (if (((s.team t).queue q).cnt = 0 && ((s.team t).queue q).ocnt != 0) = true then refill t q 1 s else s) = s1
    intro h1
    split
    · rintro _ _ ⟨⟩
    · rintro _ _ ⟨⟩
      have h2 := modQueue_sound t q (fun x => { x with cnt := x.cnt - 1, rd := (x.rd + 1) % x.cap, ctrs := x.ctrs.drop 1 }) s1 h1
      exact measureFull_sound _ _ _ (ite_sound h2 (refill_sound _ _ _ _ h2))
  | port n =>
    simp only [popOne]
    split
    · rintro _ _ ⟨⟩
    · rintro _ _ ⟨⟩; exact hs

theorem completeLane_sound (t g k lane : Nat) (s : State) (hs : s.Sound) : (completeLane t g k lane s).Sound := by
  grind [completeLane, completeWait_sound, State.modGrp_sound]

theorem servePush_sound (t q : Nat) (s : State) (hs : s.Sound) : ∀ s', servePush t q s = some s' → s'.Sound := by
  unfold servePush
  extract_lets tm
  split
  · rintro _ ⟨⟩
  · split
    · rintro _ ⟨⟩
    · next g k _ _ w _ =>
      split
      · next uni vals _ =>
        have h := pushOne_sound t q ((kGet vals (if uni then 0 else lowest w.lanes)).getD 0).toNat w.ctr s hs
        extract_lets lane v
        split
        · next s1 he =>
          rintro _ ⟨⟩
          rw [he] at h
          exact measureFull_sound _ _ _ (ite_sound (completeWait_sound _ _ _ _ _ h) (completeLane_sound _ _ _ _ _ h))
        · rintro _ ⟨⟩
          exact measureFull_sound _ _ _ (completeWait_sound _ _ _ _ _ hs)
        · rintro _ ⟨⟩
        · rintro _ ⟨⟩
      · rintro _ ⟨⟩

theorem servePushes_sound (t q x1 : Nat) (s : State) (hs : s.Sound) : (servePushes t q x1 s).Sound := by
  induction x1 generalizing s with
  | zero => exact measureFull_sound _ _ _ hs
  | succ n ih => grind [servePushes, servePush_sound, measureFull_sound]

theorem seePush_sound (t g : Nat) (b : Bind) (s : State) (hs : s.Sound) : (seePush t g b s).Sound := by
  cases b with
  | queue q => exact seeCtr_sound _ _ _ _ hs
  | port n => exact hs

theorem servePop_sound (t : Nat) (b : Bind) (s : State) (hs : s.Sound) : ∀ s', servePop t b s = some s' → s'.Sound := by
  unfold servePop
  extract_lets tm
  split
  · rintro _ ⟨⟩
  · split
    · next g k _ _ _ w s1 v _ he =>
      have h1 : s1.Sound := popOne_sound _ _ _ (seePush_sound _ _ _ _ hs) _ _ he
      split
      · next d b64 _ =>
        rintro _ ⟨⟩
        have h2 := State.modGrp_sound _ t g (fun gr => regSet d (lowest w.lanes) v (if b64 then 2 else 1) gr)
          (dropWrite_sound t g (laneBit (lowest w.lanes)) [.wr d (if b64 then 2 else 1)] s1 h1)
        cases d with
        | s n => exact completeWait_sound _ _ _ _ _ h2
        | v n => exact completeLane_sound _ _ _ _ _ h2
      · rintro _ ⟨⟩
    · rintro _ ⟨⟩

theorem execQueueEntryEnter_sound (t g k : Nat) (s : State) (hs : s.Sound) : (execQueueEntryEnter t g k s).Sound := by
  have h (q : Nat) := getD_sound (servePush_sound t q s hs) hs
  unfold execQueueEntryEnter Res.Sound
  grind

theorem execQueuePopComplete_sound (t g k : Nat) (s : State) (hs : s.Sound) : (execQueuePopComplete t g k s).Sound := by
  have h (b : Bind) := getD_sound (servePop_sound t b s hs) hs
  unfold execQueuePopComplete Res.Sound
  grind

theorem execQueueOverflowStart_sound (t q : Nat) (s : State) (hs : s.Sound) : (execQueueOverflowStart t q s).Sound := by
  grind [execQueueOverflowStart, modQueue_sound, servePushes_sound, Res.Sound]

theorem pushLanes_sound (t q : Nat) (val : Nat → Nat) (cv : CtrView) (x1 : List Nat) (s : State) (hs : s.Sound) :
    (pushLanes t q val cv x1 s).1.Sound := by
  induction x1 generalizing s with
  | nil => exact hs
  | cons l ls ih =>
    have h := pushOne_sound t q (val l) cv s hs
    grind [pushLanes, PushOut.Sound]

theorem pushAct_sound (ty : Ty) (q : Nat) (b : Reg) (c : Ctx) (s : State) (hs : s.Sound) : (pushAct ty q b c s).Sound := by
  grind [pushAct, pushLanes_sound, releaseLanes_sound, measureFull_sound, measurePark_sound, Ctx.trap_sound, Act.Sound]

theorem execMovPush_sound (h : Hdr) (ty : Ty) (q : BitVec 4) (b : Reg) (s : State) (hs : s.Sound) :
    (execMovPush h ty q b s).Sound :=
  simt_sound _ _ _ _ _ _ (fun _ _ h => pushAct_sound _ _ _ _ _ h) hs

theorem popLanes_sound (c : Ctx) (b : Bind) (d : Reg) (k : Nat) (x1 : List Nat) (s : State) (hs : s.Sound) :
    (popLanes c b d k x1 s).1.Sound := by
  induction x1 generalizing s with
  | nil => exact hs
  | cons l ls ih =>
    unfold popLanes
    split
    · next s1 v he => exact ih _ (writeReg_sound _ _ _ _ _ _ (popOne_sound _ _ _ (seePush_sound _ _ _ _ hs) _ _ he))
    · exact hs

theorem popAct_sound (ty : Ty) (d : Reg) (q : Nat) (c : Ctx) (s : State) (hs : s.Sound) : (popAct ty d q c s).Sound := by
  grind [popAct, popLanes_sound, Ctx.trap_sound, Act.Sound]

theorem execMovPop_sound (h : Hdr) (ty : Ty) (d : Reg) (q : BitVec 4) (s : State) (hs : s.Sound) :
    (execMovPop h ty d q s).Sound :=
  simt_sound _ _ _ _ _ _ (fun _ _ h => popAct_sound _ _ _ _ _ h) hs

theorem bindReg_sound (t q : Nat) (b : Bind) (s : State) (hs : s.Sound) : (bindReg t q b s).Sound :=
  hs

theorem qbindAct_sound (q : Nat) (off : ImmU) (c : Ctx) (s : State) (hs : s.Sound) : (qbindAct q off c s).Sound := by
  grind [qbindAct, releaseLanes_sound, Ctx.trap_sound, scratchLane_sound, bindReg_sound, servePushes_sound, modQueue_sound,
    Act.Sound]

theorem execQbindSq_sound (h : Hdr) (q : BitVec 4) (off : ImmU) (s : State) (hs : s.Sound) : (execQbindSq h q off s).Sound :=
  simt_sound _ _ _ _ _ _ (fun _ _ h => qbindAct_sound _ _ _ _ h) hs

theorem execQbindPort_sound (h : Hdr) (q : BitVec 4) (port : Byte) (s : State) (hs : s.Sound) :
    (execQbindPort h q port s).Sound := by
  grind [execQbindPort, simt_sound, outside_sound, bindReg_sound, Act.Sound]

theorem tryPushes_sound (t q : Nat) (val : Nat → Nat) (cv : CtrView) (x1 : List Nat) (s : State) (hs : s.Sound) :
    (tryPushes t q val cv x1 s).1.Sound := by
  induction x1 generalizing s with
  | nil => exact hs
  | cons l ls ih =>
    have h := pushOne_sound t q (val l) cv s hs
    unfold tryPushes
    split
    · next s1 he => rw [he] at h; exact ih _ h
    · exact hs
    · exact hs
    · exact ih _ hs

theorem qtryPushAct_sound (pd q : Nat) (b : Reg) (c : Ctx) (s : State) (hs : s.Sound) : (qtryPushAct pd q b c s).Sound := by
  grind [qtryPushAct, tryPushes_sound, releaseLanes_sound, writePred_sound, measureFull_sound, Ctx.trap_sound, Act.Sound]

theorem execQtryPush_sound (h : Hdr) (pd : BitVec 3) (q : BitVec 4) (b : Reg) (s : State) (hs : s.Sound) :
    (execQtryPush h pd q b s).Sound :=
  simt_sound _ _ _ _ _ _ (fun _ _ h => qtryPushAct_sound _ _ _ _ _ h) hs

theorem qtryPopAct_sound (d : Reg) (q pc : Nat) (c : Ctx) (s : State) (hs : s.Sound) : (qtryPopAct d q pc c s).Sound := by
  grind [qtryPopAct, popLanes_sound, writePred_sound, Ctx.trap_sound, Act.Sound]

theorem execQtryPop_sound (h : Hdr) (d : Reg) (q : BitVec 4) (pc : BitVec 3) (s : State) (hs : s.Sound) :
    (execQtryPop h d q pc s).Sound :=
  simt_sound _ _ _ _ _ _ (fun _ _ h => qtryPopAct_sound _ _ _ _ _ h) hs

theorem qalwForm_sound (h : Hdr) (size q : Nat) (v : ImmU) (f : BitVec 16 → Word → BitVec 16) (s : State) (hs : s.Sound) :
    (qalwForm h size q v f s).Sound := by
  grind [qalwForm, simt_sound, servePushes_sound, modQueue_sound, Ctx.trap_sound, Act.Sound]

theorem execQalwAdd_sound (h : Hdr) (q : BitVec 4) (n : ImmU) (s : State) (hs : s.Sound) : (execQalwAdd h q n s).Sound :=
  qalwForm_sound _ _ _ _ _ _ hs

theorem execQalwSet_sound (h : Hdr) (q : BitVec 4) (n : ImmU) (s : State) (hs : s.Sound) : (execQalwSet h q n s).Sound :=
  qalwForm_sound _ _ _ _ _ _ hs

/-! Engines: the engines. -/

theorem touchDies_sound (c : Cmd) (m : BitVec 4) (s : State) (hs : s.Sound) : (touchDies c m s).Sound := by
  grind [touchDies, State.modTeam_sound]

theorem touchCmd_sound (c : Cmd) (ps : List Piece) (s : State) (hs : s.Sound) : (touchCmd c ps s).Sound := by
  grind [touchCmd, touchPieces_sound]

theorem engReach_sound (c : Cmd) (cover : List Span) (ps : List Piece) (s : State) (hs : s.Sound) : ∀ s', engReach c cover ps
    s = .ok s' → s'.Sound := by
  grind [engReach, meetPieces_sound, touchCmd_sound]

theorem engRead_sound (c : Cmd) (words : Bool) (va n : Nat) (s : State) (hs : s.Sound) : OkSound (engRead c words va n s) := by
  unfold engRead
  split
  · trivial
  · split
    · trivial
    · next he => exact engReach_sound _ _ _ _ (observe_sound _ _ _ hs) _ he

theorem engDest_sound (c : Cmd) (store words : Bool) (va n : Nat) (s : State) (hs : s.Sound) : OkSound
    (engDest c store words va n s) := by
  unfold engDest
  split
  · trivial
  · split
    · trivial
    · next he =>
      have h1 := copyPieces_sound _ _ _ _ _ _ hs _ he
      split
      · trivial
      · split
        · trivial
        · next he2 => exact engReach_sound _ _ _ _ h1 _ he2

theorem performOne_sound (c : Cmd) (h : Held) (s : State) (hs : s.Sound) : (performOne c h s).Sound := by
  grind [performOne, performHeld_sound, afterSpans_sound]

theorem putHeld_sound (c : Cmd) (h : Held) (s : State) (hs : s.Sound) : (putHeld c h s).Sound :=
  ite_sound (performOne_sound _ _ _ hs) (State.modCmd_sound _ _ _ hs)

theorem engWrite_sound (c : Cmd) (words : Bool) (va n x : Nat) (s : State) (hs : s.Sound) : OkSound
    (engWrite c words va n x s) := by
  unfold engWrite
  split
  · trivial
  · next he => exact putHeld_sound _ _ _ ((engDest_sound _ _ _ _ _ _ hs).of_eq he)

theorem engAtomic_sound (c : Cmd) (words : Bool) (va n : Nat) (op : AtomOp) (t : Ty) (x : Nat) (s : State) (hs : s.Sound) :
    OkSound (engAtomic c words va n op t x s) := by
  unfold engAtomic
  split
  · trivial
  · next he => exact putHeld_sound _ _ _ ((engDest_sound _ _ _ _ _ _ hs).of_eq he)

theorem spMeet_sound (c : Cmd) (o n : Nat) (store : Bool) (s : State) (hs : s.Sound) : OkSound (spMeet c o n store s) := by
  unfold spMeet
  split
  · trivial
  · refine OkSound.ite trivial ?_
    split
    · trivial
    · next he => exact fst_sound (metCore_sound _ _ _ _ _ _ hs) he

theorem spRead_sound (c : Cmd) (o n : Nat) (s : State) (hs : s.Sound) : OkSound (spRead c o n s) := by
  unfold spRead
  split
  · trivial
  · next he => exact (spMeet_sound _ _ _ _ _ hs).of_eq he

theorem spWrite_sound (c : Cmd) (o n x : Nat) (s : State) (hs : s.Sound) : OkSound (spWrite c o n x s) := by
  unfold spWrite
  split
  · trivial
  · next he => exact putHeld_sound _ _ _ ((spMeet_sound _ _ _ _ _ hs).of_eq he)

theorem spAtomic_sound (c : Cmd) (o n : Nat) (op : AtomOp) (ty : Ty) (x : Nat) (s : State) (hs : s.Sound) : OkSound
    (spAtomic c o n op ty x s) := by
  unfold spAtomic
  split
  · trivial
  · next he => exact putHeld_sound _ _ _ ((spMeet_sound _ _ _ _ _ hs).of_eq he)

theorem locGet_sound (c : Cmd) (words : Bool) (l : Loc) (n : Nat) (s : State) (hs : s.Sound) : OkSound (locGet c words l n s)
    := by
  cases l with
  | glb va => exact engRead_sound _ _ _ _ _ hs
  | sp o => exact spRead_sound _ _ _ _ hs

theorem locPut_sound (c : Cmd) (words : Bool) (l : Loc) (n x : Nat) (s : State) (hs : s.Sound) : OkSound
    (locPut c words l n x s) := by
  cases l with
  | glb va => exact engWrite_sound _ _ _ _ _ _ hs
  | sp o => exact spWrite_sound _ _ _ _ _ hs

theorem locGetLong_sound (c : Cmd) (l : Loc) (rest x1 : Nat) (s : State) (hs : s.Sound) : OkSound (locGetLong c l rest x1 s)
    := by
  induction x1 generalizing l s with
  | zero => exact OkSound.ite hs (locGet_sound _ _ _ _ _ hs)
  | succ k ih =>
    unfold locGetLong
    split
    · trivial
    · next he =>
      split
      · trivial
      · next he2 => exact (ih _ _ ((locGet_sound _ _ _ _ _ hs).of_eq he)).of_eq he2

theorem locPutLong_sound (c : Cmd) (l : Loc) (rest x x1 : Nat) (s : State) (hs : s.Sound) : OkSound
    (locPutLong c l rest x x1 s) := by
  induction x1 generalizing l x s with
  | zero => exact OkSound.ite hs (locPut_sound _ _ _ _ _ _ hs)
  | succ k ih =>
    unfold locPutLong
    split
    · trivial
    · next he => exact ih _ _ _ ((locPut_sound _ _ _ _ _ _ hs).of_eq he)

theorem getBytes_sound (c : Cmd) (l : Loc) (n : Nat) (s : State) (hs : s.Sound) : OkSound (getBytes c l n s) := by
  exact locGetLong_sound _ _ _ _ _ hs

theorem putBytes_sound (c : Cmd) (l : Loc) (n x : Nat) (s : State) (hs : s.Sound) : OkSound (putBytes c l n x s) := by
  exact locPutLong_sound _ _ _ _ _ _ hs

theorem putElt_sound (c : Cmd) (red : Nat) (t : Ty) (l : Loc) (x : Nat) (s : State) (hs : s.Sound) : OkSound
    (putElt c red t l x s) := by
  refine OkSound.ite (locPut_sound _ _ _ _ _ _ hs) ?_
  cases l with
  | glb va => exact OkSound.ite trivial (engAtomic_sound _ _ _ _ _ _ _ _ hs)
  | sp o => trivial

theorem copyItem_sound (c : Cmd) (op src dst : Nat) (org : List Word) (e0 e1 : Nat) (xpose : Bool) (i : Nat) (s : State)
    (hs : s.Sound) : OkSound (copyItem c op src dst org e0 e1 xpose i s) := by
  unfold copyItem
  dsimp only
  split
  · split
    · trivial
    · next he =>
      split
      · trivial
      · next he2 => exact (putElt_sound _ _ _ _ _ _ ((locGet_sound _ _ _ _ _ hs).of_eq he)).of_eq he2
  · split
    · trivial
    · next he =>
      split
      · trivial
      · next he2 => exact (putBytes_sound _ _ _ _ _ ((getBytes_sound _ _ _ _ hs).of_eq he)).of_eq he2
  · split
    · trivial
    · next he =>
      split
      · trivial
      · next he2 => exact (locPut_sound _ _ _ _ _ _ ((locGet_sound _ _ _ _ _ hs).of_eq he)).of_eq he2

theorem rowIndex_sound (c : Cmd) (row : Nat) (read : State → Eng Nat) (s : State) (hread : ∀ s, s.Sound → OkSound (read s))
    (hs : s.Sound) : OkSound (rowIndex c row read s) := by
  unfold rowIndex
  split
  · exact hs
  · split
    · trivial
    · next he => exact State.modCmd_sound _ _ _ ((hread _ hs).of_eq he)

theorem gatherItem_sound (c : Cmd) (op src dst idx i : Nat) (s : State) (hs : s.Sound) : OkSound
    (gatherItem c op src dst idx i s) := by
  unfold gatherItem
  extract_lets e0 row j0 st dt
  split
  · trivial
  · next s1 x he =>
    have h1 := (rowIndex_sound _ _ _ _ (fun s h => locGet_sound _ _ _ _ _ h) hs).of_eq he
    extract_lets pad val
    have hv : OkSound val := by
      refine OkSound.ite h1 ?_
      split
      · trivial
      · next he => exact (locGet_sound _ _ _ _ _ h1).of_eq he
    refine OkSound.ite h1 ?_
    clear_value val
    split
    · trivial
    · next s2 v =>
      split
      · trivial
      · next he3 => exact (putElt_sound _ _ _ _ _ _ hv).of_eq he3

theorem readList_sound (f : Nat → State → Eng Nat) (x1 : List Nat) (s : State) (hf : ∀ x0 s, s.Sound → OkSound (f x0 s))
    (hs : s.Sound) : OkSound (readList f x1 s) := by
  induction x1 generalizing s with
  | nil => exact hs
  | cons i is ih =>
    unfold readList
    split
    · trivial
    · next he =>
      split
      · trivial
      · next he2 => exact (ih _ ((hf _ _ hs).of_eq he)).of_eq he2

theorem writeList_sound (f : Nat → State → Eng Unit) (x1 : List Nat) (s : State) (hf : ∀ x0 s, s.Sound → OkSound (f x0 s))
    (hs : s.Sound) : OkSound (writeList f x1 s) := by
  induction x1 generalizing s with
  | nil => exact hs
  | cons i is ih =>
    unfold writeList
    split
    · trivial
    · next he => exact ih _ ((hf _ _ hs).of_eq he)

theorem encItem_sound (c : Cmd) (src body scl : Nat) (org : List Word) (e0 e1 i : Nat) (s : State) (hs : s.Sound) : ∀ s' x,
    encItem c src body scl org e0 e1 i s = .ok (s', x) → s'.Sound := by
  intro s' x he'
  refine OkSound.of_eq ?_ he'
  unfold encItem
  dsimp only
  split
  · trivial
  · next he =>
    have h1 := (readList_sound _ _ _ (fun j s h => by
      split
      · trivial
      · next he => exact (locGet_sound _ _ _ _ _ h).of_eq he) hs).of_eq he
    split
    · trivial
    · split
      · trivial
      · next he2 =>
        have h2 := (putBytes_sound _ _ _ _ _ h1).of_eq he2
        split
        · trivial
        · next he3 =>
          have h3 := (putBytes_sound _ _ _ _ _ h2).of_eq he3
          split
          · trivial
          · next he4 => exact (writeList_sound _ _ _ (fun o s h => locPut_sound _ _ _ _ _ _ h) h3).of_eq he4

theorem decItem_sound (c : Cmd) (bf16 : Bool) (body dst scl : Nat) (org : List Word) (e0 e1 i : Nat) (s : State)
    (hs : s.Sound) : ∀ s' x, decItem c bf16 body dst scl org e0 e1 i s = .ok (s', x) → s'.Sound := by
  intro s' x he'
  refine OkSound.of_eq ?_ he'
  unfold decItem
  dsimp only
  split
  · trivial
  · next he =>
    have h1 := (getBytes_sound _ _ _ _ hs).of_eq he
    split
    · trivial
    · next he2 =>
      have h2 := (getBytes_sound _ _ _ _ h1).of_eq he2
      split
      · trivial
      · next he3 =>
        have h3 := (readList_sound _ _ _ (fun j s h => locGet_sound _ _ _ _ _ h) h2).of_eq he3
        refine OkSound.ite trivial ?_
        split
        · trivial
        · next he4 => exact (writeList_sound _ _ _ (fun j s h => locPut_sound _ _ _ _ _ _ h) h3).of_eq he4

theorem touchStack_sound (c : Cmd) (l : Loc) (s : State) (hs : s.Sound) : (touchStack c l s).Sound := by
  unfold touchStack
  split
  · split
    · exact ite_sound hs hs
    · exact hs
  · exact hs

theorem nmcPage_sound (c : Cmd) (b page : Nat) (s : State) (hs : s.Sound) : OkSound (nmcPage c b page s) := by
  unfold nmcPage
  dsimp only
  split
  · trivial
  · next he =>
    refine OkSound.ite trivial ?_
    split
    · trivial
    · next he2 =>
      exact OkSound.ite ((engRead_sound _ _ _ _ _ ((engRead_sound _ _ _ _ _ hs).of_eq he)).of_eq he2) trivial

theorem nmcRead_sound (c : Cmd) (b page off : Nat) (s : State) (hs : s.Sound) : OkSound (nmcRead c b page off s) := by
  unfold nmcRead
  split
  · trivial
  · next he =>
    split
    · trivial
    · split
      · trivial
      · next he2 => exact engReach_sound _ _ _ _ (observe_sound _ _ _ ((nmcPage_sound _ _ _ _ hs).of_eq he)) _ he2

theorem nmcItem_sound (c : Cmd) (op b i : Nat) (s : State) (hs : s.Sound) : OkSound (nmcItem c op b i s) := by
  unfold nmcItem
  extract_lets d n s1 put
  have h1 : s1.Sound := touchStack_sound _ _ _ hs
  have hput (words : Bool) (x : Nat) (s : State) (h : s.Sound) : OkSound (put words x s) := by
    simp only [put]
    split
    · trivial
    · next he => exact (locPut_sound _ _ _ _ _ _ h).of_eq he
  split
  · split
    · trivial
    · next he =>
      have h2 := (rowIndex_sound _ _ _ _ (fun s h => engRead_sound _ _ _ _ _ h) h1).of_eq he
      split
      · trivial
      · next he2 => exact hput _ _ _ ((nmcRead_sound _ _ _ _ _ h2).of_eq he2)
  · split
    · trivial
    · next he => exact hput _ _ _ ((engRead_sound _ _ _ _ _ h1).of_eq he)
  · split
    · trivial
    · next he => exact hput _ _ _ ((engRead_sound _ _ _ _ _ h1).of_eq he)
  · split
    · trivial
    · next s2 x he =>
      have h2 := (engRead_sound _ _ _ _ _ h1).of_eq he
      split
      · trivial
      · next s3 _ he2 =>
        split at he2
        · exact (engAtomic_sound _ _ _ _ _ _ _ _ h2).of_eq he2
        · exact (spAtomic_sound _ _ _ _ _ _ _ h2).of_eq he2

theorem forkFrames_sound (c : Cmd) (src count : Nat) (s : State) (hs : s.Sound) : OkSound (forkFrames c src count s) := by
  unfold forkFrames
  split
  · trivial
  · next he => exact (readList_sound _ _ _ (fun n s h => engRead_sound _ _ _ _ _ h) hs).of_eq he

theorem noteList_sound (c : Cmd) (dst : Nat) (s : State) (hs : s.Sound) : (noteList c dst s).Sound := by
  grind [noteList, State.modPart_sound]

theorem forkItem_sound (c : Cmd) (src dst count i : Nat) (s : State) (hs : s.Sound) : OkSound (forkItem c src dst count i s)
    := by
  unfold forkItem
  refine OkSound.ite ?_ (OkSound.ite ?_ ?_)
  · split
    · trivial
    · next he => exact OkSound.ite trivial ((forkFrames_sound _ _ _ _ hs).of_eq he)
  · split
    · trivial
    · next s1 e he =>
      dsimp only
      split
      · trivial
      · next he2 =>
        have h2 := (engWrite_sound _ _ _ _ _ _ ((engRead_sound _ _ _ _ _ hs).of_eq he)).of_eq he2
        refine OkSound.ite ?_ h2
        exact performStores_sound (fun q => q.overlaps (fld e 16 36 * 2 ^ 16) (2 ^ 16)) _ (flushHeld_sound _ _ _ h2)
  · split
    · trivial
    · next he =>
      dsimp only
      split
      · trivial
      · next he2 =>
        split
        · trivial
        · next he3 =>
          exact noteList_sound _ _ _ ((engWrite_sound _ _ _ _ _ _ ((engWrite_sound _ _ _ _ _ _
            ((engWrite_sound _ _ _ _ _ _ hs).of_eq he)).of_eq he2)).of_eq he3)

theorem packetItem_sound (c : Cmd) (b i : Nat) (s : State) (hs : s.Sound) : OkSound (packetItem c b i s) := by
  unfold packetItem
  dsimp only
  split
  · trivial
  · next he =>
    split
    · trivial
    · next he2 => exact (putElt_sound _ _ _ _ _ _ ((engRead_sound _ _ _ _ _ hs).of_eq he)).of_eq he2

theorem runItem_sound (c : Cmd) (i : Nat) (s : State) (hs : s.Sound) : ∀ s' x, runItem c i s = .ok (s', x) → s'.Sound := by
  intro s' x he
  unfold runItem at he
  dsimp only at he
  split at he
  · exact (copyItem_sound _ _ _ _ _ _ _ _ _ _ hs).of_eq he
  · exact (gatherItem_sound _ _ _ _ _ _ _ hs).of_eq he
  · exact encItem_sound _ _ _ _ _ _ _ _ _ hs _ _ he
  · exact decItem_sound _ _ _ _ _ _ _ _ _ _ hs _ _ he
  · exact (nmcItem_sound _ _ _ _ _ hs).of_eq he
  · exact (forkItem_sound _ _ _ _ _ _ hs).of_eq he
  · exact (packetItem_sound _ _ _ _ hs).of_eq he
  · cases he; exact hs
  · cases he; exact hs

theorem runItems_sound (c : Cmd) (x1 : List Nat) (x2 : Nat) (s : State) (hs : s.Sound) : OkSound (runItems c x1 x2 s) := by
  induction x1 generalizing x2 s with
  | nil => exact hs
  | cons i is ih =>
    unfold runItems
    split
    · trivial
    · next he => exact ih _ _ (runItem_sound _ _ _ hs _ _ he)

theorem deliverCmd_sound (n : Nat) (s : State) (hs : s.Sound) : (deliverCmd n s).Sound := by
  grind [deliverCmd, wakeTokens_sound, State.modCmd_sound, deliverPort_sound]

theorem packetRecord_sound (c : Cmd) (n blk st : Nat) (s : State) (hs : s.Sound) : (packetRecord c n blk st s).Sound :=
  putRecord_sound _ _ hs

theorem releaseCmd_sound (n : Nat) (sc : Scope) (s : State) (hs : s.Sound) : (releaseCmd n sc s).Sound :=
  release_sound _ _ _ hs

theorem countBytes_sound (n : Nat) (c : Cmd) (k : Nat) (s : State) (hs : s.Sound) : (countBytes n c k s).Sound := by
  grind [countBytes, State.modTeam_sound, barBytes_sound, releaseCmd_sound]

theorem chunkDone_sound (n chunk : Nat) (s : State) (hs : s.Sound) : (chunkDone n chunk s).Sound := by
  grind [chunkDone, countBytes_sound, State.modCmd_sound]

theorem settleChunks_sound (n : Nat) (s : State) (hs : s.Sound) : (settleChunks n s).Sound := by
  unfold settleChunks
  split
  · exact hs
  · exact foldl_sound _ (fun s k h => chunkDone_sound _ _ _ h) _
      (State.modCmd_sound _ _ _ (performSome_sound _ _ _ _ (fun c h s => performOne_sound c h s) hs))

theorem endCommand_sound (n : Nat) (st : Byte) (s : State) (hs : s.Sound) : (endCommand n st s).Sound := by
  grind [endCommand, State.modCmd_sound, settleChunks_sound, releaseCmd_sound, packetRecord_sound, deliverCmd_sound]

theorem chunkError_sound (n chunk : Nat) (c : Cmd) (h : Halt) (s : State) (hs : s.Sound) : (chunkError n chunk c h s).Sound
    := by
  have hend (n : Nat) (st : Byte) (s : State) (h : s.Sound) := endCommand_sound n st s h
  cases h with
  | stop st a => exact ite_sound hs (ite_sound (endCommand_sound _ _ _ (State.modCmd_sound _ _ _ hs)) (endCommand_sound _ _ _ hs))
  | data e m => exact endCommand_sound _ _ _ (logErrs_sound _ _ _ _ (touchDies_sound _ _ _ hs))
  | lost m => exact endCommand_sound _ _ _ (touchDies_sound _ _ _ hs)
  | silent p =>
    unfold chunkError
    dsimp only
    split
    · exact hs
    · exact ite_sound (endCommand_sound _ _ _ hs) hs
  | retry => exact hs

theorem passChunk_sound (n : Nat) (c : Cmd) (s : State) (hs : s.Sound) : (passChunk n c s).Sound := by
  unfold passChunk
  extract_lets k mine done
  split
  · exact chunkError_sound _ _ _ _ _ hs
  · next he => exact State.modCmd_sound _ _ _ ((runItems_sound _ _ _ _ hs).of_eq he)

theorem readEarly_sound (n chunk : Nat) (s : State) (hs : s.Sound) : (readEarly n chunk s).Sound := by
  unfold readEarly
  split
  · exact hs
  · refine foldl_sound _ (fun s i h => ?_) s hs
    split
    · next he => exact State.modCmd_sound _ _ _ (runItem_sound _ _ _ h _ _ he)
    · exact h

theorem performChunk_sound (n chunk : Nat) (s : State) (hs : s.Sound) : (performChunk n chunk s).Sound := by
  grind [performChunk, chunkDone_sound, performSome_sound, performOne_sound]

theorem chunkStep_sound (n chunk : Nat) (s : State) (hs : s.Sound) : (chunkStep n chunk s).Sound := by
  grind [chunkStep, performChunk_sound, passChunk_sound, readEarly_sound]

theorem execEngineChunkPerformed_sound (cmd chunk : Nat) (s : State) (hs : s.Sound) :
    (execEngineChunkPerformed cmd chunk s).Sound := by
  grind [execEngineChunkPerformed, chunkStep_sound, Res.Sound]

theorem execEngineFaultResume_sound (cmd : Nat) (serviced : Bool) (s : State) (hs : s.Sound) :
    (execEngineFaultResume cmd serviced s).Sound := by
  grind [execEngineFaultResume, State.modCmd_sound, endCommand_sound, Res.Sound]

theorem execEngineCommandComplete_sound (cmd : Nat) (s : State) (hs : s.Sound) : (execEngineCommandComplete cmd s).Sound := by
  grind [execEngineCommandComplete, endCommand_sound, Res.Sound]

theorem execPortEntryDeliver_sound (t port : Nat) (s : State) (hs : s.Sound) : (execPortEntryDeliver t port s).Sound := by
  grind [execPortEntryDeliver, deliverChild_sound, deliverCmd_sound, Res.Sound]

theorem startCommand_sound (c : Ctx) (k : Nat) (local_ : Bool) (cmd : Cmd) (s : State) (hs : s.Sound) :
    (startCommand c k local_ cmd s).Sound := by
  grind [startCommand, emptyTokens_sound, releaseGroup_sound, State.modGrp_sound, State.Sound, Act.Sound]

theorem issueChecked_sound (c : Ctx) (k : Nat) (local_ : Bool) (bad : Option Issue) (cmd : Cmd) (s : State) (hs : s.Sound) :
    (issueChecked c k local_ bad cmd s).Sound := by
  unfold issueChecked
  split
  · exact hs
  · exact hs
  · split
    · exact Act.ite_sound hs (startCommand_sound _ _ _ _ _ hs)
    · exact startCommand_sound _ _ _ _ _ hs

theorem cpyAct_sound (op : Nat) (sc : Scope) (k : BitVec 4) (a b : BitVec 5) (org : BitVec 6) (e : EngExt) (c : Ctx)
    (s : State) (hs : s.Sound) : (cpyAct op sc k a b org e c s).Sound := by
  grind [cpyAct, issueChecked_sound, Ctx.trap_sound]

theorem cpyForm_sound (h : Hdr) (size op : Nat) (sc : Scope) (k : BitVec 4) (a b : BitVec 5) (org : BitVec 6) (e : EngExt)
    (s : State) (hs : s.Sound) : (cpyForm h size op sc k a b org e s).Sound :=
  simt_sound _ _ _ _ _ _ (fun _ _ h => cpyAct_sound _ _ _ _ _ _ _ _ _ h) hs

theorem execCpy_sound (h : Hdr) (sc : Scope) (k : BitVec 4) (a b : BitVec 5) (org : BitVec 6) (e : EngExt) (s : State)
    (hs : s.Sound) : (execCpy h sc k a b org e s).Sound :=
  cpyForm_sound _ _ _ _ _ _ _ _ _ _ hs

theorem execCpyAdd_sound (h : Hdr) (sc : Scope) (k : BitVec 4) (a b : BitVec 5) (org : BitVec 6) (e : EngExt) (s : State)
    (hs : s.Sound) : (execCpyAdd h sc k a b org e s).Sound :=
  cpyForm_sound _ _ _ _ _ _ _ _ _ _ hs

theorem execCpyMin_sound (h : Hdr) (sc : Scope) (k : BitVec 4) (a b : BitVec 5) (org : BitVec 6) (e : EngExt) (s : State)
    (hs : s.Sound) : (execCpyMin h sc k a b org e s).Sound :=
  cpyForm_sound _ _ _ _ _ _ _ _ _ _ hs

theorem execCpyMax_sound (h : Hdr) (sc : Scope) (k : BitVec 4) (a b : BitVec 5) (org : BitVec 6) (e : EngExt) (s : State)
    (hs : s.Sound) : (execCpyMax h sc k a b org e s).Sound :=
  cpyForm_sound _ _ _ _ _ _ _ _ _ _ hs

theorem execCpyAnd_sound (h : Hdr) (sc : Scope) (k : BitVec 4) (a b : BitVec 5) (org : BitVec 6) (e : EngExt) (s : State)
    (hs : s.Sound) : (execCpyAnd h sc k a b org e s).Sound :=
  cpyForm_sound _ _ _ _ _ _ _ _ _ _ hs

theorem execCpyOr_sound (h : Hdr) (sc : Scope) (k : BitVec 4) (a b : BitVec 5) (org : BitVec 6) (e : EngExt) (s : State)
    (hs : s.Sound) : (execCpyOr h sc k a b org e s).Sound :=
  cpyForm_sound _ _ _ _ _ _ _ _ _ _ hs

theorem gscAct_sound (op : Nat) (sc : Scope) (k : BitVec 4) (a b : BitVec 5) (e : EngExt) (c : Ctx) (s : State)
    (hs : s.Sound) : (gscAct op sc k a b e c s).Sound := by
  grind [gscAct, issueChecked_sound, Ctx.trap_sound]

theorem execGscG_sound (h : Hdr) (sc : Scope) (k : BitVec 4) (a b : BitVec 5) (e : EngExt) (s : State) (hs : s.Sound) :
    (execGscG h sc k a b e s).Sound :=
  simt_sound _ _ _ _ _ _ (fun _ _ h => gscAct_sound _ _ _ _ _ _ _ _ h) hs

theorem execGscS_sound (h : Hdr) (sc : Scope) (k : BitVec 4) (a b : BitVec 5) (e : EngExt) (s : State) (hs : s.Sound) :
    (execGscS h sc k a b e s).Sound :=
  simt_sound _ _ _ _ _ _ (fun _ _ h => gscAct_sound _ _ _ _ _ _ _ _ h) hs

theorem execGscSadd_sound (h : Hdr) (sc : Scope) (k : BitVec 4) (a b : BitVec 5) (e : EngExt) (s : State) (hs : s.Sound) :
    (execGscSadd h sc k a b e s).Sound :=
  simt_sound _ _ _ _ _ _ (fun _ _ h => gscAct_sound _ _ _ _ _ _ _ _ h) hs

theorem encAct_sound (sc : Scope) (k : BitVec 4) (a b : BitVec 5) (org : BitVec 6) (e : EngExt) (c : Ctx) (s : State)
    (hs : s.Sound) : (encAct sc k a b org e c s).Sound := by
  grind [encAct, issueChecked_sound, Ctx.trap_sound]

theorem execEnc_sound (h : Hdr) (sc : Scope) (k : BitVec 4) (a b : BitVec 5) (org : BitVec 6) (e : EngExt) (s : State)
    (hs : s.Sound) : (execEnc h sc k a b org e s).Sound :=
  simt_sound _ _ _ _ _ _ (fun _ _ h => encAct_sound _ _ _ _ _ _ _ _ h) hs

theorem decAct_sound (bf16 : Bool) (sc : Scope) (k : BitVec 4) (a b : BitVec 5) (org : BitVec 6) (e : EngExt) (c : Ctx)
    (s : State) (hs : s.Sound) : (decAct bf16 sc k a b org e c s).Sound := by
  grind [decAct, issueChecked_sound, Ctx.trap_sound]

theorem execDecF32_sound (h : Hdr) (sc : Scope) (k : BitVec 4) (a b : BitVec 5) (org : BitVec 6) (e : EngExt) (s : State)
    (hs : s.Sound) : (execDecF32 h sc k a b org e s).Sound :=
  simt_sound _ _ _ _ _ _ (fun _ _ h => decAct_sound _ _ _ _ _ _ _ _ _ h) hs

theorem execDecBf16_sound (h : Hdr) (sc : Scope) (k : BitVec 4) (a b : BitVec 5) (org : BitVec 6) (e : EngExt) (s : State)
    (hs : s.Sound) : (execDecBf16 h sc k a b org e s).Sound :=
  simt_sound _ _ _ _ _ _ (fun _ _ h => decAct_sound _ _ _ _ _ _ _ _ _ h) hs

theorem badTrap_sound (c : Ctx) (b : Bad) (s : State) (hs : s.Sound) : (badTrap c b s).Sound :=
  ite_sound (dropExpired_sound _ _ _ hs) hs

theorem blockPieces_sound (c : Ctx) (va x1 : Nat) (s : State) (hs : s.Sound) : (blockPieces c va x1 s).1.Sound := by
  induction x1 generalizing va s with
  | zero => exact hs
  | succ n ih =>
    have h1 := laneAccess_sound c.t c.g .read false [] va 32
        (fun ps s => beforeLoad c.t c.g c.E .ordinary ps (observe (.lanes c.t c.g c.E) (spansOf ps) s)) s
        (fun ps s h => beforeLoad_sound _ _ _ _ _ _ (observe_sound _ _ _ h)) hs
    unfold blockPieces
    split
    · next he => exact fst_sound h1 he
    · next he =>
      have h2 := fst_sound h1 he
      split
      · exact h2
      · have h3 := ih ((va + 32) % 2 ^ 64) _ h2
        dsimp only
        split
        · next he2 => exact fst_sound h3 he2
        · exact h3

theorem blockAct_sound (c : Ctx) (va n : Nat) (f : Nat → State → Act) (s : State) (hf : ∀ x0 s, s.Sound → (f x0 s).Sound)
    (hs : s.Sound) : (blockAct c va n f s).Sound := by
  grind [blockAct, gateLanes_sound, blockPieces_sound, badTrap_sound]

theorem nmcAct_sound (op : Nat) (sc : Scope) (k : BitVec 4) (a : BitVec 6) (c : Ctx) (s : State) (hs : s.Sound) :
    (nmcAct op sc k a c s).Sound := by
  grind [nmcAct, Ctx.trap_sound, blockAct_sound, issueChecked_sound]

theorem execNmcGather_sound (h : Hdr) (sc : Scope) (k : BitVec 4) (a : BitVec 6) (s : State) (hs : s.Sound) :
    (execNmcGather h sc k a s).Sound :=
  simt_sound _ _ _ _ _ _ (fun _ _ h => nmcAct_sound _ _ _ _ _ _ h) hs

theorem execNmcCopy_sound (h : Hdr) (sc : Scope) (k : BitVec 4) (a : BitVec 6) (s : State) (hs : s.Sound) :
    (execNmcCopy h sc k a s).Sound :=
  simt_sound _ _ _ _ _ _ (fun _ _ h => nmcAct_sound _ _ _ _ _ _ h) hs

theorem execNmcCvt_sound (h : Hdr) (sc : Scope) (k : BitVec 4) (a : BitVec 6) (s : State) (hs : s.Sound) :
    (execNmcCvt h sc k a s).Sound :=
  simt_sound _ _ _ _ _ _ (fun _ _ h => nmcAct_sound _ _ _ _ _ _ h) hs

theorem execNmcRed_sound (h : Hdr) (sc : Scope) (k : BitVec 4) (a : BitVec 6) (s : State) (hs : s.Sound) :
    (execNmcRed h sc k a s).Sound :=
  simt_sound _ _ _ _ _ _ (fun _ _ h => nmcAct_sound _ _ _ _ _ _ h) hs

theorem forkAct_sound (k : BitVec 4) (a b : BitVec 6) (c : Ctx) (s : State) (hs : s.Sound) : (forkAct k a b c s).Sound := by
  grind [forkAct, Ctx.trap_sound, blockAct_sound, startCommand_sound]

theorem execFork_sound (h : Hdr) (k : BitVec 4) (a b : BitVec 6) (s : State) (hs : s.Sound) : (execFork h k a b s).Sound :=
  simt_sound _ _ _ _ _ _ (fun _ _ h => forkAct_sound _ _ _ _ _ h) hs

theorem queueSee_sound (p : Nat) (q : QueueReg) (size : Nat) (s : State) (hs : s.Sound) : (queueSee p q size s).Sound := by
  grind [queueSee, partSee_sound]

theorem queueAdvance_sound (p : Nat) (q : QueueReg) (r slot : Nat) (s : State) (hs : s.Sound) : ∀ s', queueAdvance p q r slot
    s = some s' → s'.Sound := by
  intro s' h
  obtain ⟨s1, h1, h2⟩ := Option.bind_eq_some_iff.mp h
  exact partWrite_sound _ _ _ _ _ _ (partWrite_sound _ _ _ _ _ _ hs _ h1) _ h2

theorem execCopyPacketStart_sound (p qi : Nat) (s : State) (hs : s.Sound) : (execCopyPacketStart p qi s).Sound := by
  unfold execCopyPacketStart
  split
  · rintro _ ⟨⟩; exact hs
  · next q _ =>
    extract_lets s1
    have h1 : s1.Sound := queueSee_sound p q 64 s hs
    refine Res.Sound.ite h1.next ?_
    split
    · exact h1.next
    · split
      · exact h1.next
      · refine Res.Sound.ite h1.next ?_
        extract_lets n bad k
        split
        · exact h1.next
        · next he =>
          have h2 := queueAdvance_sound _ _ _ _ _ (by exact h1) _ he
          exact (ite_sound (endCommand_sound _ _ _ h2) h2 : State.Sound _).next

/-! Coll: collectives. -/

theorem collAct_sound (resume : Bool) (k : BitVec 4) (a : BitVec 6) (c : Ctx) (s : State) (hs : s.Sound) :
    (collAct resume k a c s).Sound := by
  grind [collAct, Ctx.trap_sound, blockAct_sound, issueChecked_sound]

theorem execCollStart_sound (h : Hdr) (k : BitVec 4) (a : BitVec 6) (s : State) (hs : s.Sound) :
    (execCollStart h k a s).Sound :=
  simt_sound _ _ _ _ _ _ (fun _ _ h => collAct_sound _ _ _ _ _ h) hs

theorem execCollResume_sound (h : Hdr) (k : BitVec 4) (a : BitVec 6) (s : State) (hs : s.Sound) :
    (execCollResume h k a s).Sound :=
  simt_sound _ _ _ _ _ _ (fun _ _ h => collAct_sound _ _ _ _ _ h) hs

theorem byCmd_sound {α : Type} (n : Nat) (e : Eng α) (he : OkSound e) : OkSound (byCmd n e) := by
  cases e with
  | ok x => exact he
  | error h => trivial

theorem readOperand_sound (peers : List (Nat × Nat)) (contrib : List (List Byte)) (size first e : Nat) (x : Nat × Nat)
    (s : State) (hs : s.Sound) : OkSound (readOperand peers contrib size first e x s) := by
  unfold readOperand
  split
  · split
    · refine OkSound.ite hs (OkSound.ite trivial ?_)
      exact byCmd_sound _ _ (engRead_sound _ _ _ _ _ hs)
    · exact hs
  · exact hs

theorem readOperands_sound (peers : List (Nat × Nat)) (contrib : List (List Byte)) (size first e : Nat)
    (x1 : List (Nat × Nat)) (s : State) (hs : s.Sound) : OkSound (readOperands peers contrib size first e x1 s) := by
  induction x1 generalizing s with
  | nil => exact hs
  | cons x xs ih =>
    unfold readOperands
    split
    · trivial
    · next he =>
      split
      · trivial
      · next he2 => exact (ih _ ((readOperand_sound _ _ _ _ _ _ _ hs).of_eq he)).of_eq he2

theorem runElement_sound (cmd : Nat) (c : Cmd) (peers : List (Nat × Nat)) (contrib : List (List Byte)) (b n r first e : Nat)
    (s : State) (hs : s.Sound) : OkSound (runElement cmd c peers contrib b n r first e s) := by
  unfold runElement
  dsimp only
  split
  · trivial
  · next he => exact byCmd_sound _ _ (engWrite_sound _ _ _ _ _ _ ((readOperands_sound _ _ _ _ _ _ _ hs).of_eq he))

theorem noteElement_sound (cmd e size : Nat) (s : State) (hs : s.Sound) : (noteElement cmd e size s).Sound :=
  hs

theorem runElements_sound (cmd : Nat) (c : Cmd) (peers : List (Nat × Nat)) (contrib : List (List Byte)) (b n r first : Nat)
    (x1 : List Nat) (s : State) (hs : s.Sound) : (runElements cmd c peers contrib b n r first x1 s).1.Sound := by
  induction x1 generalizing s with
  | nil => exact hs
  | cons e es ih =>
    unfold runElements
    split
    · exact hs
    · next he => exact ih _ (noteElement_sound _ _ _ _ ((runElement_sound _ _ _ _ _ _ _ _ _ _ hs).of_eq he))

theorem finalChunk_sound (n chunk bytes : Nat) (c : Cmd) (s : State) (hs : s.Sound) : OkSound (finalChunk n chunk bytes c s)
    := by
  unfold finalChunk
  dsimp only
  split
  · trivial
  · next he =>
    exact countBytes_sound _ _ _ _ (State.modCmd_sound _ _ _ ((byCmd_sound _ _ (engWrite_sound _ _ _ _ _ _ hs)).of_eq he))

theorem lastWrites_sound (c : Cmd) (st : Byte) (s : State) (hs : s.Sound) : OkSound (lastWrites c st s) := by
  have hw (s : State) (h : s.Sound) : OkSound (if blkCword (blkOf c) = 0 then .ok (s, ())
      else engWrite c false (blkCword (blkOf c)) 8 (st.toNat * 2 ^ 32 + blkTag (blkOf c)) s) :=
    OkSound.ite h (engWrite_sound _ _ _ _ _ _ h)
  unfold lastWrites
  refine OkSound.ite ?_ (hw _ hs)
  split
  · trivial
  · next he => exact hw _ ((putBytes_sound _ _ _ _ _ hs).of_eq he)

theorem finishColl_sound (n : Nat) (st : Byte) (s : State) (hs : s.Sound) : (finishColl n st s).Sound := by
  unfold finishColl
  split
  · exact hs
  · split
    · next he => exact endCommand_sound _ _ _ ((lastWrites_sound _ _ _ hs).of_eq he)
    · exact ite_sound (State.modCmd_sound _ _ _ hs) (endCommand_sound _ _ _ hs)
    · exact chunkError_sound _ _ _ _ _ (State.modCmd_sound _ _ _ hs)

theorem beginColl_sound (n : Nat) (c : Cmd) (s : State) (hs : s.Sound) : ∀ s', beginColl n c s = .ok s' → s'.Sound := by
  unfold beginColl
  dsimp only
  split
  · split
    · rintro _ ⟨⟩
    · next he => rintro _ ⟨⟩; exact State.modCmd_sound _ _ _ ((getBytes_sound _ _ _ _ hs).of_eq he)
  · split
    · rintro _ ⟨⟩
    · next he => rintro _ ⟨⟩; exact State.modCmd_sound _ _ _ ((putBytes_sound _ _ _ _ _ hs).of_eq he)

theorem finishMember_sound (n r : Nat) (peers : List (Nat × Nat)) (size : Nat) (s : State) (hs : s.Sound) :
    (finishMember n r peers size s).Sound := by
  unfold finishMember
  split
  · exact hs
  · refine ite_sound hs (ite_sound (finishColl_sound _ _ _ hs) ?_)
    dsimp only
    split
    · exact chunkError_sound _ _ _ _ _ hs
    · next he => exact finishColl_sound _ _ _ (State.modCmd_sound _ _ _ ((getBytes_sound _ _ _ _ hs).of_eq he))

theorem waitsFor_sound (n m : Nat) (s : State) (hs : s.Sound) : (waitsFor n m s).Sound :=
  ite_sound hs (State.modCmd_sound _ _ _ hs)

theorem collChunk_sound (n chunk : Nat) (contrib : List (List Byte)) (size r : Nat) (peers : List (Nat × Nat)) (c : Cmd)
    (s : State) (hs : s.Sound) : (collChunk n chunk contrib size r peers c s).Sound := by
  unfold collChunk
  extract_lets b es stopped
  have hstop (m : Nat) (h : Halt) (s : State) (hs : s.Sound) : (stopped m h s).Sound := by
    simp only [stopped]
    split
    · exact waitsFor_sound _ _ _ (ite_sound hs (chunkError_sound _ _ _ _ _ hs))
    · exact hs
  have hr := runElements_sound n c peers contrib b size r (chunk * blkChunk b)
    ((eltsLeft c es).filter fun e => Config.freeBit s.tick (2 ^ 47 + e % blkChunk b)) s hs
  split
  · next he => exact hstop _ _ _ (fst_sound hr he)
  · next he =>
    have h1 := fst_sound hr he
    split
    · exact h1
    · refine ite_sound h1 ?_
      split
      · exact hstop _ _ _ h1
      · next he2 => exact finishMember_sound _ _ _ _ _ ((finalChunk_sound _ _ _ _ _ h1).of_eq he2)

theorem collStep_sound (n chunk : Nat) (contrib : List (List Byte)) (g : CollGroup) (r : Nat) (peers : List (Nat × Nat))
    (c : Cmd) (s : State) (hs : s.Sound) : (collStep n chunk contrib g r peers c s).Sound := by
  unfold collStep
  extract_lets size b endAll
  have hend (st : Byte) (s : State) (h : s.Sound) : (endAll st s).Sound := by
    refine foldl_sound _ (fun s x h => ?_) s h
    split
    · exact ite_sound (finishColl_sound _ _ _ h) h
    · exact h
  refine ite_sound (hend _ _ hs) (ite_sound (finishColl_sound _ _ _ hs) ?_)
  split
  · exact chunkError_sound _ _ _ _ _ hs
  · next s1 he =>
    have h1 : s1.Sound := by
      split at he
      · cases he; exact hs
      · exact beginColl_sound _ _ _ hs _ he
    split
    · exact h1
    · exact ite_sound (finishMember_sound _ _ _ _ _ h1) (collChunk_sound _ _ _ _ _ _ _ _ h1)

theorem execCollChunkFinal_sound (cmd chunk : Nat) (contrib : List (List Byte)) (s : State) (hs : s.Sound) :
    (execCollChunkFinal cmd chunk contrib s).Sound := by
  unfold execCollChunkFinal
  split
  · split
    · split
      · rintro _ ⟨⟩; exact hs
      · split
        · rintro _ ⟨⟩; exact finishColl_sound _ _ _ (State.modCmd_sound _ _ _ hs)
        · split
          · rintro _ ⟨⟩; exact hs
          · split
            · rintro _ ⟨⟩; exact hs
            · split
              · rintro _ ⟨⟩; exact collStep_sound _ _ _ _ _ _ _ _ hs
              · rintro _ ⟨⟩; exact hs
    · rintro _ ⟨⟩; exact hs
  · rintro _ ⟨⟩; exact hs

theorem endColls_sound (st : Byte) (v : Nat → List Nat) (ns : List Nat) (s : State) (hs : s.Sound) :
    (endColls st v ns s).Sound := by
  exact foldl_sound _ (fun s n h => finishColl_sound _ _ _ (State.modCmd_sound _ _ _ h)) s hs

theorem execCollMemberFailure_sound (p : Nat) (id : BitVec 16) (others : List (List Word)) (agreed : Bool) (s : State)
    (hs : s.Sound) : (execCollMemberFailure p id others agreed s).Sound := by
  grind [execCollMemberFailure, endColls_sound, Res.Sound]

/-! Counters: counters. -/

theorem noteRequest_sound (t p pa : Nat) (s : State) (hs : s.Sound) : (noteRequest t p pa s).Sound := by
  grind [noteRequest, useEntry_sound, noteCounter_sound]

theorem ctrLane_sound (c : Ctx) (k : Kind) (x : Nat × Nat) (fmt block : Bool) (f : List Piece → State → State) (w : Nat)
    (s : State) (hf : ∀ x0 s, s.Sound → (f x0 s).Sound) (hs : s.Sound) : (ctrLane c k x fmt block f w s).1.Sound := by
  grind [ctrLane, laneAccess_sound]

theorem ctrUpdate_sound (c : Ctx) (o : Order) (sc : Scope) (w bit l : Nat) (d : Option (BitVec 8))
    (f : Nat → Nat × Nat × Flags) (write : Bool) (ps : List Piece) (s : State) (hs : s.Sound) :
    (ctrUpdate c o sc w bit l d f write ps s).Sound := by
  have h1 := noteRequest_sound c.t (s.launchOf c.t).part ((ps.map fun e => e.1.pa).headD 0) _
    (beforeAtomic_sound c.t c.g (laneBit l) o sc ps _ (observe_sound (.lanes c.t c.g (laneBit l)) (spansOf ps) s hs))
  refine orFlags_sound _ _ _ ?_
  split
  · exact writeReg_sound _ _ _ _ _ _ (ite_sound (writePieces_sound _ _ _ _ h1) h1)
  · exact ite_sound (writePieces_sound _ _ _ _ h1) h1

theorem ctrLanes_sound (t p : Nat) (pa : State → Nat → Option Nat) (f : Nat → State → State × Option Bad) (x1 x2 : List Nat)
    (s : State) (hf : ∀ x0 s, s.Sound → (f x0 s).1.Sound) (hs : s.Sound) : (ctrLanes t p pa f x1 x2 s).1.1.Sound := by
  induction x1 generalizing x2 s with
  | nil => exact hs
  | cons l ls ih =>
    have h1 := hf l s hs
    unfold ctrLanes
    extract_lets at0 slice held r
    clear_value held
    split
    · exact ih _ _ hs
    · split
      · next he => exact ih _ _ (fst_sound h1 he)
      · next he => exact ih _ _ (fst_sound h1 he)

theorem ctrFinish_sound (c : Ctx) (r : (State × List (Nat × Bad)) × Lanes) (hr : r.1.1.Sound) : (ctrFinish c r).Sound := by
  have h1 := finishLanes_sound c false r.1 hr
  unfold ctrFinish
  refine Act.ite_sound trivial ?_
  split
  · next he => rw [he] at h1; exact Act.ite_sound h1 h1
  · next he => rw [he] at h1; exact h1
  · exact h1

theorem ctrAct_sound (k : Kind) (block : Bool) (ad : Addr) (fmt : Group → Nat → Nat → Bool)
    (f : Nat → Nat → Nat → Nat → List Piece → State → State) (c : Ctx) (s : State)
    (hf : ∀ x0 x1 x2 x3 x4 s, s.Sound → (f x0 x1 x2 x3 x4 s).Sound) (hs : s.Sound) : (ctrAct k block ad fmt f c s).Sound := by
  have hr := reachLanes_sound c k true 4 
    ((lanes c.E).map fun l => ctrWord (ctrWidth (s.grp c.t c.g).ctr.val) (ctrPlace (s.grp c.t c.g) ad l)) s hs
  unfold ctrAct
  dsimp only
  split
  · next he => exact hr.1 _ he
  · next he =>
    exact ctrFinish_sound _ _ (ctrLanes_sound _ _ _ _ _ _ _ (fun l s h => ctrLane_sound _ _ _ _ _ _ _ _
      (fun x0 s h => hf _ _ _ _ _ _ h) h) (hr.2 _ he))

theorem pcaddAct_sound (o : Order) (sc : Scope) (d : Option (BitVec 8)) (ad : Addr) (n : BitVec 8) (c : Ctx) (s : State)
    (hs : s.Sound) : (pcaddAct o sc d ad n c s).Sound := by
  grind [pcaddAct, ctrAct_sound, ctrUpdate_sound]

theorem execPcadd_sound (h : Hdr) (o : Order) (sc : Scope) (hint : Hint) (ad : Addr) (c : BitVec 8) (s : State)
    (hs : s.Sound) : (execPcadd h o sc hint ad c s).Sound :=
  simt_sound _ _ _ _ _ _ (fun _ _ h => pcaddAct_sound _ _ _ _ _ _ _ h) hs

theorem execPcaddRtn_sound (h : Hdr) (o : Order) (sc : Scope) (hint : Hint) (d : BitVec 8) (ad : Addr) (c : BitVec 8)
    (s : State) (hs : s.Sound) : (execPcaddRtn h o sc hint d ad c s).Sound :=
  simt_sound _ _ _ _ _ _ (fun _ _ h => pcaddAct_sound _ _ _ _ _ _ _ h) hs

theorem pcrdAct_sound (raw : Bool) (o : Order) (sc : Scope) (d : BitVec 8) (ad : Addr) (c : Ctx) (s : State) (hs : s.Sound) :
    (pcrdAct raw o sc d ad c s).Sound :=
  ctrAct_sound _ _ _ _ _ _ _ (fun _ _ _ _ _ _ h => ctrUpdate_sound _ _ _ _ _ _ _ _ _ _ _ h) hs

theorem execPcrd_sound (h : Hdr) (o : Order) (sc : Scope) (hint : Hint) (d : BitVec 8) (ad : Addr) (s : State) (hs : s.Sound)
    : (execPcrd h o sc hint d ad s).Sound :=
  simt_sound _ _ _ _ _ _ (fun _ _ h => pcrdAct_sound _ _ _ _ _ _ _ h) hs

theorem execPcrdRaw_sound (h : Hdr) (o : Order) (sc : Scope) (hint : Hint) (d : BitVec 8) (ad : Addr) (s : State)
    (hs : s.Sound) : (execPcrdRaw h o sc hint d ad s).Sound :=
  simt_sound _ _ _ _ _ _ (fun _ _ h => pcrdAct_sound _ _ _ _ _ _ _ h) hs

theorem pcmrgAct_sound (o : Order) (sc : Scope) (d : BitVec 8) (ad : Addr) (n : BitVec 8) (c : Ctx) (s : State)
    (hs : s.Sound) : (pcmrgAct o sc d ad n c s).Sound := by
  grind [pcmrgAct, ctrAct_sound, ctrUpdate_sound]

theorem execPcmrg_sound (h : Hdr) (o : Order) (sc : Scope) (hint : Hint) (d : BitVec 8) (ad : Addr) (c : BitVec 8)
    (s : State) (hs : s.Sound) : (execPcmrg h o sc hint d ad c s).Sound :=
  simt_sound _ _ _ _ _ _ (fun _ _ h => pcmrgAct_sound _ _ _ _ _ _ _ h) hs

theorem clearBlock_sound (c : Ctx) (o : Order) (sc : Scope) (l : Nat) (ps : List Piece) (s : State) (hs : s.Sound) :
    (clearBlock c o sc l ps s).Sound := by
  exact writePieces_sound _ _ _ _ (noteRequest_sound _ _ _ _ (foldl_sound _ (fun s e h => coverMem_sound _ _ _ _ _ h) _
    (beforeAtomic_sound _ _ _ _ _ _ _ hs)))

theorem pcclrAct_sound (o : Order) (sc : Scope) (ad : Addr) (c : Ctx) (s : State) (hs : s.Sound) :
    (pcclrAct o sc ad c s).Sound :=
  ctrAct_sound _ _ _ _ _ _ _ (fun _ _ _ _ _ _ h => clearBlock_sound _ _ _ _ _ _ h) hs

theorem execPcclr_sound (h : Hdr) (o : Order) (sc : Scope) (hint : Hint) (ad : Addr) (s : State) (hs : s.Sound) :
    (execPcclr h o sc hint ad s).Sound :=
  simt_sound _ _ _ _ _ _ (fun _ _ h => pcclrAct_sound _ _ _ _ _ h) hs

theorem execPcbase_sound (h : Hdr) (v : ImmU) (s : State) (hs : s.Sound) : (execPcbase h v s).Sound :=
  simt_sound _ _ _ _ _ _ (fun _ _ h => setCtrBase_sound _ _ _ _ h) hs

/-! Tasks: tasks and the heap. -/

theorem addLaunch_sound (l : Launch) (root depth : Nat) (bad : Bool) (s : State) (hs : s.Sound) :
    (addLaunch l root depth bad s).Sound :=
  startLaunch_sound _ _ _ (takeLineage_sound _ _ _ _ (takeLid_sound _ _ _ hs))

theorem setUni_sound (c : Ctx) (d : Nat) (x : Word) (s : State) (hs : s.Sound) : (setUni c d x s).Sound :=
  hs

theorem launchAct_sound (d a : BitVec 6) (port : Option (BitVec 16)) (c : Ctx) (s : State) (hs : s.Sound) :
    (launchAct d a port c s).Sound := by
  grind [launchAct, Ctx.trap_sound, blockAct_sound, setUni_sound, releaseLanes_sound, addLaunch_sound, State.modTeam_sound,
    Act.Sound]

theorem execLaunch_sound (h : Hdr) (d a : BitVec 6) (tag : BitVec 16) (port : Bool) (s : State) (hs : s.Sound) :
    (execLaunch h d a tag port s).Sound :=
  simt_sound _ _ _ _ _ _ (fun _ _ h => launchAct_sound _ _ _ _ _ h) hs

theorem twaitAct_sound (d : BitVec 6) (a : Option (BitVec 6)) (c : Ctx) (s : State) (hs : s.Sound) : (twaitAct d a c s).Sound
    := by
  unfold twaitAct
  dsimp only
  refine Act.ite_sound hs ?_
  split
  · exact setUni_sound _ _ _ _ hs
  · exact hs

theorem execTwait_sound (h : Hdr) (d : BitVec 6) (a : Option (BitVec 6)) (s : State) (hs : s.Sound) :
    (execTwait h d a s).Sound :=
  simt_sound _ _ _ _ _ _ (fun _ _ h => twaitAct_sound _ _ _ _ h) hs

theorem cancelAct_sound (a : BitVec 6) (c : Ctx) (s : State) (hs : s.Sound) : (cancelAct a c s).Sound := by
  grind [cancelAct, cancelTree_sound, Ctx.trap_sound, Act.Sound]

theorem execCancel_sound (h : Hdr) (a : BitVec 6) (s : State) (hs : s.Sound) : (execCancel h a s).Sound :=
  simt_sound _ _ _ _ _ _ (fun _ _ h => cancelAct_sound _ _ _ h) hs

theorem setGranule_sound (w : Who) (root : Nat) (a : Arena) (i v : Nat) (s : State) (hs : s.Sound) : ∀ s', setGranule w root
    a i v s = some s' → s'.Sound := by
  grind [setGranule, partWrite_sound]

theorem seeMap_sound (w : Who) (a : Arena) (i k : Nat) (s : State) (hs : s.Sound) : (seeMap w a i k s).Sound := by
  exact foldl_sound _ (fun s j h => partSee_sound _ _ _ _ h) s hs

theorem markBlock_sound (w : Who) (root : Nat) (a : Arena) (use : Bool) (begins x1 x2 : Nat) (s : State) (hs : s.Sound) : ∀
    s', markBlock w root a use begins x1 x2 s = .ok s' → s'.Sound := by
  induction x1 generalizing x2 s with
  | zero => rintro _ ⟨⟩; exact hs
  | succ k ih =>
    unfold markBlock
    split
    · rintro _ ⟨⟩
    · next he => exact ih _ _ (setGranule_sound _ _ _ _ _ _ hs _ he)

theorem noteServed_sound (c : Ctx) (a : Arena) (s : State) (hs : s.Sound) : (noteServed c a s).Sound := by
  grind [noteServed, appendEntry_sound, useEntry_sound, State.modTrace_sound]

theorem allocIn_sound (c : Ctx) (a : Arena) (n : Nat) (s : State) (hs : s.Sound) : ∀ s' x, allocIn c a n s = .ok (s', x) →
    s'.Sound := by
  grind [allocIn, seeMap_sound, markBlock_sound]

theorem serveAlloc_sound (c : Ctx) (size : Nat) (s : State) (hs : s.Sound) : (serveAlloc c size s).Sound := by
  grind [serveAlloc, allocIn_sound, noteServed_sound, Served.Sound]

theorem serveFree_sound (c : Ctx) (x : Nat) (s : State) (hs : s.Sound) : (serveFree c x s).Sound := by
  unfold serveFree
  dsimp only
  split
  · exact hs
  · split
    · exact hs
    · split
      · exact hs
      · split
        · exact hs
        · split
          · trivial
          · split
            · exact hs
            · split
              · exact hs
              · next he => exact noteServed_sound _ _ _ (markBlock_sound _ _ _ _ _ _ _ _ (seeMap_sound _ _ _ _ _ hs) _ he)
        · exact hs

theorem serveLanes_sound (f : Nat → State → Served) (put : Nat → Nat → State → State) (x1 : List Nat) (s : State)
    (hf : ∀ x0 s, s.Sound → (f x0 s).Sound) (hput : ∀ x0 x1 s, s.Sound → (put x0 x1 s).Sound) (hs : s.Sound) : ∀ s' x,
    serveLanes f put x1 s = some (s', x) → s'.Sound := by
  induction x1 generalizing s with
  | nil => rintro _ _ ⟨⟩; exact hs
  | cons l ls ih =>
    have h1 := hf l s hs
    unfold serveLanes
    split
    · rintro _ _ ⟨⟩
    · next he => rw [he] at h1; exact ih _ (hput _ _ _ h1)
    · next he =>
      rw [he] at h1
      intro s' x h
      obtain ⟨r, hr, ⟨⟩⟩ := Option.map_eq_some_iff.mp h
      exact ih _ h1 _ _ hr

theorem serveAct_sound (once : Bool) (f : Nat → State → Served) (put : Nat → Nat → State → State) (c : Ctx) (s : State)
    (hf : ∀ x0 s, s.Sound → (f x0 s).Sound) (hput : ∀ x0 x1 s, s.Sound → (put x0 x1 s).Sound) (hs : s.Sound) :
    (serveAct once f put c s).Sound := by
  grind [serveAct, serveLanes_sound, finishLanes_sound, Act.Sound]

theorem execAlloc_sound (h : Hdr) (d : Reg) (size : Opd) (s : State) (hs : s.Sound) : (execAlloc h d size s).Sound := by
  grind [execAlloc, simt_sound, serveAct_sound, serveAlloc_sound, writeReg_sound]

theorem execFree_sound (h : Hdr) (a : Reg) (s : State) (hs : s.Sound) : (execFree h a s).Sound := by
  grind [execFree, simt_sound, serveAct_sound, serveFree_sound]

theorem execTmark_sound (h : Hdr) (v : ImmU) (s : State) (hs : s.Sound) : (execTmark h v s).Sound :=
  simt_sound _ _ _ _ _ _ (fun _ _ h => recordEntry_sound _ _ _ h) hs

theorem setResults_sound (t g : Nat) (s0 s1 : Word) (s : State) (hs : s.Sound) : (setResults t g s0 s1 s).Sound :=
  State.modGrp_sound _ _ _ _ (dropWrite_sound _ _ _ _ _ hs)

theorem hvcPark_sound (svc : BitVec 16) (c : Ctx) (s : State) (hs : s.Sound) : (hvcPark svc c s).Sound :=
  releaseLanes_sound _ _ _ _ _ hs

theorem execHvc_sound (h : Hdr) (svc : BitVec 16) (s : State) (hs : s.Sound) : (execHvc h svc s).Sound :=
  simt_sound _ _ _ _ _ _ (fun _ _ h => hvcPark_sound _ _ _ h) hs

theorem execHvcReturn_sound (t g k : Nat) (s0 s1 : Word) (s : State) (hs : s.Sound) : (execHvcReturn t g k s0 s1 s).Sound := by
  grind [execHvcReturn, completeWait_sound, setResults_sound, Res.Sound]

theorem serviceForm_sound (h : Hdr) (size : Nat) (svc : BitVec 16) (f : Ctx → State → State) (s0 : Ctx → State → Option Word)
    (s : State) (hf : ∀ x0 s, s.Sound → (f x0 s).Sound) (hs : s.Sound) : (serviceForm h size svc f s0 s).Sound := by
  grind [serviceForm, simt_sound, releaseLanes_sound, setResults_sound, hvcPark_sound, Act.Sound]

theorem registerQueue_sound (c : Ctx) (s : State) (hs : s.Sound) : (registerQueue c s).Sound := by
  grind [registerQueue, State.modPart_sound]

theorem registerColl_sound (c : Ctx) (s : State) (hs : s.Sound) : (registerColl c s).Sound := by
  unfold registerColl
  extract_lets l w0 w a
  have h1 := partGet_sound w a 16 s hs
  split
  · next he => exact fst_sound h1 he
  · next he =>
    have h2 := fst_sound h1 he
    extract_lets n id sc ms s2
    have h3 : s2.Sound := foldl_sound _ (fun s j h => partSee_sound _ _ _ _ h) _ h2
    clear_value sc ms
    cases sc with
    | none => exact h3
    | some => 
      cases ms with
      | none => exact h3
      | some => exact ite_sound h3 (State.modPart_sound _ _ _ h3)

theorem addFrames_sound (c : Ctx) (s : State) (hs : s.Sound) : (addFrames c s).Sound := by
  unfold addFrames
  extract_lets l w0 w at_ seen
  have h1 : seen.Sound := foldl_sound _ (fun s j h => partSee_sound _ _ _ _ h) _ hs
  split
  · exact setPool_sound _ _ _ _ h1
  · exact h1

theorem retireRoot_sound (c : Ctx) (s : State) (hs : s.Sound) : (retireRoot c s).Sound :=
  ite_sound hs (State.modPart_sound _ _ _ hs)

theorem setHang_sound (c : Ctx) (s : State) (hs : s.Sound) : (setHang c s).Sound :=
  ite_sound (State.modPart_sound _ _ _ hs) hs

theorem execRegisterQueue_sound (h : Hdr) (s : State) (hs : s.Sound) : (execRegisterQueue h s).Sound :=
  serviceForm_sound _ _ _ _ _ _ (fun _ _ h => registerQueue_sound _ _ h) hs

theorem execRegisterCollectiveGroup_sound (h : Hdr) (s : State) (hs : s.Sound) : (execRegisterCollectiveGroup h s).Sound :=
  serviceForm_sound _ _ _ _ _ _ (fun _ _ h => registerColl_sound _ _ h) hs

theorem execAddFrames_sound (h : Hdr) (s : State) (hs : s.Sound) : (execAddFrames h s).Sound :=
  serviceForm_sound _ _ _ _ _ _ (fun _ _ h => addFrames_sound _ _ h) hs

theorem execRetireRoot_sound (h : Hdr) (s : State) (hs : s.Sound) : (execRetireRoot h s).Sound :=
  serviceForm_sound _ _ _ _ _ _ (fun _ _ h => retireRoot_sound _ _ h) hs

theorem execSetHangThreshold_sound (h : Hdr) (s : State) (hs : s.Sound) : (execSetHangThreshold h s).Sound :=
  serviceForm_sound _ _ _ _ _ _ (fun _ _ h => setHang_sound _ _ h) hs

/-! Dispatcher: the dispatcher. -/

theorem startPacket_sound (p : Nat) (q : QueueReg) (s : State) (hs : s.Sound) : (startPacket p q s).Sound := by
  unfold startPacket
  extract_lets w s1
  have h1 : s1.Sound := queueSee_sound _ _ _ _ hs
  split
  · refine ite_sound h1 ?_
    split
    · exact h1
    · extract_lets pkt
      refine ite_sound h1 ?_
      split
      · exact h1
      · next he => exact addLaunch_sound _ _ _ _ _ (queueAdvance_sound _ _ _ _ _ h1 _ he)
  · exact h1

theorem execLaunchPacketStart_sound (p q : Nat) (s : State) (hs : s.Sound) : (execLaunchPacketStart p q s).Sound := by
  grind [execLaunchPacketStart, startPacket_sound, Res.Sound]

theorem execTeamPlace_sound (p : Nat) (s : State) (hs : s.Sound) : (execTeamPlace p s).Sound := by
  grind [execTeamPlace, startTeam_sound, Res.Sound]

theorem execTeamRetire_sound (t : Nat) (s : State) (hs : s.Sound) : (execTeamRetire t s).Sound := by
  grind [execTeamRetire, endGroups_sound, freeSave_sound, performStores_sound, State.modTeam_sound, Res.Sound]

theorem execGridCompletion_sound (l : Nat) (s : State) (hs : s.Sound) : (execGridCompletion l s).Sound :=
  State.Sound.next (ite_sound (completeGrid_sound _ _ hs) hs)

theorem execEventRecordWrite_sound (k : Nat) (s : State) (hs : s.Sound) : (execEventRecordWrite k s).Sound :=
  State.Sound.next (tryRecord_sound _ _ hs)

theorem execEventRingTimeTrigger_sound (k : Nat) (s : State) (hs : s.Sound) : (execEventRingTimeTrigger k s).Sound := by
  unfold execEventRingTimeTrigger
  split
  · exact hs.next
  · split
    · exact hs.next
    · next he =>
      have h1 := ringRead_sound _ _ _ _ _ hs _ _ he
      exact Res.Sound.ite (Res.Sound.ite (State.Sound.next h1) h1.next) (State.Sound.next h1)

/-! Idle: idle cores. -/

theorem setGate_sound (die core v : Nat) (s : State) (hs : s.Sound) : (setGate die core v s).Sound :=
  hs

theorem execCoreClockGate_sound (die core : Nat) (s : State) (hs : s.Sound) : (execCoreClockGate die core s).Sound :=
  State.Sound.next (ite_sound (setGate_sound _ _ _ _ hs) hs)

theorem execCorePowerGate_sound (die core : Nat) (s : State) (hs : s.Sound) : (execCorePowerGate die core s).Sound :=
  State.Sound.next (ite_sound (setGate_sound _ _ _ _ hs) hs)

theorem execCoreWake_sound (die core : Nat) (s : State) (hs : s.Sound) : (execCoreWake die core s).Sound :=
  State.Sound.next (ite_sound hs (setGate_sound _ _ _ _ hs))

theorem noteIdle_sound (s : State) (hs : s.Sound) : (noteIdle s).Sound :=
  hs

/-! Matrix: the matrix unit. -/

theorem feedAct_sound (f : Nat) (k : BitVec 4) (a : BitVec 5) (org : BitVec 6) (e : EngExt) (c : Ctx) (s : State)
    (hs : s.Sound) : (feedAct f k a org e c s).Sound := by
  grind [feedAct, Ctx.trap_sound, issueChecked_sound]

theorem execFeedFa_sound (h : Hdr) (k : BitVec 4) (a : BitVec 5) (org : BitVec 6) (e : EngExt) (s : State) (hs : s.Sound) :
    (execFeedFa h k a org e s).Sound :=
  simt_sound _ _ _ _ _ _ (fun _ _ h => feedAct_sound _ _ _ _ _ _ _ h) hs

theorem execFeedFb_sound (h : Hdr) (k : BitVec 4) (a : BitVec 5) (org : BitVec 6) (e : EngExt) (s : State) (hs : s.Sound) :
    (execFeedFb h k a org e s).Sound :=
  simt_sound _ _ _ _ _ _ (fun _ _ h => feedAct_sound _ _ _ _ _ _ _ h) hs

theorem execFeedSc_sound (h : Hdr) (k : BitVec 4) (a : BitVec 5) (org : BitVec 6) (e : EngExt) (s : State) (hs : s.Sound) :
    (execFeedSc h k a org e s).Sound :=
  simt_sound _ _ _ _ _ _ (fun _ _ h => feedAct_sound _ _ _ _ _ _ _ h) hs

theorem feedEntry_sound (c : Cmd) (src : Nat) (org : List Word) (e1 i : Nat) (s : State) (hs : s.Sound) : OkSound
    (feedEntry c src org e1 i s) := by
  grind [feedEntry, getBytes_sound, readList_sound, locGet_sound, OkSound]

theorem enterTile_sound (n : Nat) (s : State) (hs : s.Sound) : (enterTile n s).Sound := by
  grind [enterTile, feedEntry_sound, chunkError_sound, State.modTeam_sound, arrival_sound, metCore_sound, countBytes_sound,
    State.modCmd_sound, OkSound]

theorem execFifoTileEnter_sound (cmd : Nat) (s : State) (hs : s.Sound) : (execFifoTileEnter cmd s).Sound :=
  State.Sound.next (enterTile_sound _ _ hs)

theorem fillSlot_sound (n : Nat) (s : State) (hs : s.Sound) : (fillSlot n s).Sound := by
  unfold fillSlot
  dsimp only
  split
  · exact hs
  · split
    · refine ite_sound hs ?_
      split
      · exact chunkError_sound _ _ _ _ _ hs
      · next he =>
        have h1 := (getBytes_sound _ _ _ _ hs).of_eq he
        split
        · exact chunkError_sound _ _ _ _ _ hs
        · next he2 =>
          have h2 := (locGet_sound _ _ _ _ _ h1).of_eq he2
          exact countBytes_sound _ _ _ _ (State.modCmd_sound _ _ _ (State.modTeam_sound _ _ _ (arrival_sound _ _
            (metCore_sound _ _ _ _ _ _ (metCore_sound _ _ _ _ _ _ h2)))))
    · exact hs

theorem execScaleSlotFill_sound (cmd : Nat) (s : State) (hs : s.Sound) : (execScaleSlotFill cmd s).Sound :=
  State.Sound.next (fillSlot_sound _ _ hs)

theorem meetReads_sound (t : Nat) (a : Attempt) (s : State) (hs : s.Sound) : (meetReads t a s).Sound := by
  grind [meetReads, metCore_sound]

theorem abandon_sound (t : Nat) (s : State) (hs : s.Sound) : (abandon t s).Sound :=
  hs

theorem attemptTrap_sound (t : Nat) (pc : DWord) (tr : Trap) (s : State) (hs : s.Sound) : (attemptTrap t pc tr s).Sound :=
  hs

theorem seesTile_sound (t k : Nat) (s : State) (hs : s.Sound) : (seesTile t k s).Sound :=
  hs

theorem goOn_sound (t : Nat) (a : Attempt) (s : State) (hs : s.Sound) : (goOn t a s).Sound := by
  grind [goOn, State.modSeq_sound, attemptTrap_sound, meetReads_sound, seesTile_sound, SAct.Sound]

theorem seqIll_sound (pc : DWord) (s : State) (hs : s.Sound) : (seqIll pc s).Sound :=
  hs

theorem mmsAct_sound (x : Bool) (d : BitVec 3) (a b : BitVec 5) (e : MmsExt) (t : Nat) (pc next : DWord) (s : State)
    (hs : s.Sound) : (mmsAct x d a b e t pc next s).Sound := by
  grind [mmsAct, seqIll_sound, goOn_sound, attemptTrap_sound, SAct.Sound]

theorem execMms_sound (x : Bool) (d : BitVec 3) (a b : BitVec 5) (e : MmsExt) (s : State) (hs : s.Sound) :
    (execMms x d a b e s).Sound :=
  seqForm_sound _ _ _ (fun _ _ _ _ h => mmsAct_sound _ _ _ _ _ _ _ _ _ h) hs

theorem partnerGo_sound (u : Nat) (a : Attempt) (s : State) (hs : s.Sound) : (partnerGo u a s).Sound :=
  hs

theorem partnerTrap_sound (u : Nat) (pc : DWord) (tr : Trap) (s : State) (hs : s.Sound) : (partnerTrap u pc tr s).Sound :=
  raiseSeqTrap_sound _ _ _ _ (abandon_sound _ _ hs)

theorem pairGoOn_sound (t u : Nat) (a b : Attempt) (s : State) (hs : s.Sound) : (pairGoOn t u a b s).Sound := by
  grind [pairGoOn, meetReads_sound, State.modSeq_sound, partnerGo_sound, seesTile_sound, attemptTrap_sound, abandon_sound,
    partnerTrap_sound, SAct.Sound]

theorem pairStart_sound (t u : Nat) (i j : Instr) (pc : DWord) (x : Bool) (d : BitVec 3) (a b : BitVec 5) (e : MmsExt)
    (s : State) (hs : s.Sound) : (pairStart t u i j pc x d a b e s).Sound := by
  grind [pairStart, attemptTrap_sound, partnerTrap_sound, abandon_sound, pairGoOn_sound, SAct.Sound]

theorem mmsPairAct_sound (x : Bool) (d : BitVec 3) (a b : BitVec 5) (e : MmsExt) (t : Nat) (pc next : DWord) (s : State)
    (hs : s.Sound) : (mmsPairAct x d a b e t pc next s).Sound := by
  grind [mmsPairAct, seqIll_sound, attemptTrap_sound, pairGoOn_sound, State.modSeq_sound, pairStart_sound, SAct.Sound]

theorem execMmsPair_sound (x : Bool) (d : BitVec 3) (a b : BitVec 5) (e : MmsExt) (s : State) (hs : s.Sound) :
    (execMmsPair x d a b e s).Sound :=
  seqForm_sound _ _ _ (fun _ _ _ _ h => mmsPairAct_sound _ _ _ _ _ _ _ _ _ h) hs

theorem commitAttempt_sound (t : Nat) (a : Attempt) (new : List (Nat × Flags)) (s : State) (hs : s.Sound) :
    (commitAttempt t a new s).Sound :=
  State.modSeq_sound _ _ _ (State.modTeam_sound _ _ _ (metCore_sound _ _ _ _ _ _ hs))

theorem commitOldest_sound (t : Nat) (s : State) (hs : s.Sound) : (commitOldest t s).Sound := by
  grind [commitOldest, commitAttempt_sound]

theorem execMmsCommit_sound (t : Nat) (s : State) (hs : s.Sound) : (execMmsCommit t s).Sound :=
  State.Sound.next (commitOldest_sound _ _ hs)

theorem aclrAct_sound (x : Bool) (d : BitVec 3) (v : Word) (t : Nat) (pc next : DWord) (s : State) (hs : s.Sound) :
    (aclrAct x d v t pc next s).Sound := by
  have hg (r : Nat × Nat) :
      State.Sound ((List.range r.2).foldl (fun s k => (metCore t 6 (accPlace (r.1 + k)) (2 ^ 20) true s).1) s) :=
    foldl_sound _ (fun s k h => metCore_sound _ _ _ _ _ _ h) _ hs
  unfold aclrAct
  dsimp only
  refine SAct.ite_sound (seqIll_sound _ _ hs) ?_
  split
  · exact hs
  · exact SAct.ite_sound hs (ite_sound (State.modSeq_sound _ _ _ (State.modTeam_sound _ _ _ (hg _)))
      (State.modTeam_sound _ _ _ (hg _)))

theorem execAclrF32Zero_sound (d : BitVec 3) (s : State) (hs : s.Sound) : (execAclrF32Zero d s).Sound :=
  seqForm_sound _ _ _ (fun _ _ _ _ h => aclrAct_sound _ _ _ _ _ _ _ h) hs

theorem execAclrF32Broadcast_sound (d : BitVec 3) (v : Word) (s : State) (hs : s.Sound) : (execAclrF32Broadcast d v s).Sound
    :=
  seqForm_sound _ _ _ (fun _ _ _ _ h => aclrAct_sound _ _ _ _ _ _ _ h) hs

theorem execAclrX128Zero_sound (d : BitVec 3) (s : State) (hs : s.Sound) : (execAclrX128Zero d s).Sound :=
  seqForm_sound _ _ _ (fun _ _ _ _ h => aclrAct_sound _ _ _ _ _ _ _ h) hs

theorem execAclrX128Broadcast_sound (d : BitVec 3) (v : Word) (s : State) (hs : s.Sound) :
    (execAclrX128Broadcast d v s).Sound :=
  seqForm_sound _ _ _ (fun _ _ _ _ h => aclrAct_sound _ _ _ _ _ _ _ h) hs

theorem sqBranch_sound (c : SqCond) (v off : Word) (t : Nat) (pc next : DWord) (s : State) (hs : s.Sound) :
    (sqBranch c v off t pc next s).Sound := by
  grind [sqBranch, SAct.Sound]

theorem execSqif_sound (c : SqCond) (v off : Word) (s : State) (hs : s.Sound) : (execSqif c v off s).Sound :=
  seqForm_sound _ _ _ (fun _ _ _ _ h => sqBranch_sound _ _ _ _ _ _ _ h) hs

theorem execSqwhWhile_sound (c : SqCond) (v off : Word) (s : State) (hs : s.Sound) : (execSqwhWhile c v off s).Sound :=
  seqForm_sound _ _ _ (fun _ _ _ _ h => sqBranch_sound _ _ _ _ _ _ _ h) hs

theorem execSqwhEndw_sound (off : Word) (s : State) (hs : s.Sound) : (execSqwhEndw off s).Sound :=
  seqForm_sound _ _ _ (fun _ _ _ _ h => State.modSeq_sound _ _ _ h) hs

theorem setCw_sound (t : Nat) (x : Word) (s : State) (hs : s.Sound) : (setCw t x s).Sound :=
  hs

theorem execSqcwSet_sound (v : Word) (s : State) (hs : s.Sound) : (execSqcwSet v s).Sound :=
  seqForm_sound _ _ _ (fun _ _ _ _ h => setCw_sound _ _ _ h) hs

theorem execSqcwSetSp_sound (off : Word) (s : State) (hs : s.Sound) : (execSqcwSetSp off s).Sound := by
  grind [execSqcwSetSp, seqForm_sound, coreEcc_sound, setCw_sound, SAct.Sound]

theorem execSqcwAdd_sound (v : Word) (s : State) (hs : s.Sound) : (execSqcwAdd v s).Sound :=
  seqForm_sound _ _ _ (fun _ _ _ _ h => setCw_sound _ _ _ h) hs

theorem execSqcwCmp_sound (v : Word) (s : State) (hs : s.Sound) : (execSqcwCmp v s).Sound :=
  seqForm_sound _ _ _ (fun _ _ _ _ h => setCw_sound _ _ _ h) hs

theorem execSqcwEnd_sound (s : State) (hs : s.Sound) : (execSqcwEnd s).Sound := by
  grind [execSqcwEnd, seqForm_sound, SAct.Sound]

/-! Vocab: selection. -/

theorem unitReads_sound (t : Nat) (x1 : List (Nat × Nat)) (s : State) (hs : s.Sound) : (unitReads t x1 s).1.Sound := by
  induction x1 generalizing s with
  | nil => exact hs
  | cons p ps ih =>
    have h1 := metCore_sound t 6 p.1 p.2 false s hs
    unfold unitReads
    split
    · next he => exact fst_sound h1 he
    · next he => exact ih _ (fst_sound h1 he)

theorem statFlags_sound (t : Nat) (f : Flags) (s : State) (hs : s.Sound) : (statFlags t f s).Sound :=
  hs

theorem stageRows_sound (t : Nat) (st : Stage) (elts : List Nat) (x1 x2 : Nat) (s : State) (hs : s.Sound) :
    (stageRows t st elts x1 x2 s).1.Sound := by
  induction x1 generalizing x2 s with
  | zero => exact hs
  | succ n ih =>
    have h1 := unitReads_sound t (tileRowPlace st.tile x2 :: rowAll (s.team t) x2) s hs
    unfold stageRows
    dsimp only
    split
    · exact h1
    · split
      · exact h1
      · split
        · exact h1
        · exact ih _ _ (statFlags_sound _ _ _ (State.modTeam_sound _ _ _ h1))

theorem stageDone_sound (t : Nat) (st : Stage) (x : Tile) (s : State) (hs : s.Sound) : (stageDone t st x s).Sound :=
  hs

theorem forwardStage_sound (t : Nat) (s : State) (hs : s.Sound) : (forwardStage t s).Sound := by
  grind [forwardStage, stageRows_sound, stageDone_sound, State.modSeq_sound, raiseSeqTrap_sound]

theorem execForwardSelectionStage_sound (t : Nat) (s : State) (hs : s.Sound) : (execForwardSelectionStage t s).Sound :=
  State.Sound.next (forwardStage_sound _ _ hs)

theorem backwardStage_sound (t : Nat) (s : State) (hs : s.Sound) : (backwardStage t s).Sound := by
  grind [backwardStage, unitReads_sound, raiseSeqTrap_sound, State.modSeq_sound, statFlags_sound, serveTile_sound,
    stageDone_sound]

theorem execBackwardGradientStage_sound (t : Nat) (s : State) (hs : s.Sound) : (execBackwardGradientStage t s).Sound :=
  State.Sound.next (backwardStage_sound _ _ hs)

theorem readParams_sound (t : Nat) (blk : BitVec 14) (s : State) (hs : s.Sound) : (readParams t blk s).1.Sound := by
  grind [readParams, coreEcc_sound]

theorem vprojStart_sound (i : Instr) (d : BitVec 3) (a b : BitVec 5) (e : VprojExt) (t : Nat) (pc : DWord) (s : State)
    (hs : s.Sound) : (vprojStart i d a b e t pc s).Sound := by
  grind [vprojStart, attemptTrap_sound, goOn_sound, readParams_sound]

theorem vprojStage_sound (st : Stage) (spoff : BitVec 16) (t : Nat) (pc : DWord) (s : State) (hs : s.Sound) :
    (vprojStage st spoff t pc s).Sound := by
  grind [vprojStage, attemptTrap_sound, State.modSeq_sound, SAct.Sound]

theorem vprojAct_sound (i : Instr) (d : BitVec 3) (a b : BitVec 5) (e : VprojExt) (t : Nat) (pc next : DWord) (s : State)
    (hs : s.Sound) : (vprojAct i d a b e t pc next s).Sound := by
  grind [vprojAct, seqIll_sound, vprojStage_sound, goOn_sound, attemptTrap_sound, vprojStart_sound, SAct.Sound]

theorem execVprojF_sound (first last : Bool) (d : BitVec 3) (a b : BitVec 5) (e : VprojExt) (s : State) (hs : s.Sound) :
    (execVprojF first last d a b e s).Sound :=
  seqForm_sound _ _ _ (fun _ _ _ _ h => vprojAct_sound _ _ _ _ _ _ _ _ _ h) hs

theorem execVprojB_sound (first last : Bool) (d : BitVec 3) (a b : BitVec 5) (e : VprojExt) (s : State) (hs : s.Sound) :
    (execVprojB first last d a b e s).Sound :=
  seqForm_sound _ _ _ (fun _ _ _ _ h => vprojAct_sound _ _ _ _ _ _ _ _ _ h) hs

theorem mergeAll_sound (t : Nat) (heapOnly : Bool) (h : Nat) (x1 : List InRow) (s : State) (hs : s.Sound) :
    (mergeAll t heapOnly h x1 s).Sound := by
  induction x1 generalizing s with
  | nil => exact hs
  | cons r rs ih => exact ih _ (statFlags_sound _ _ _ (State.modTeam_sound _ _ _ hs))

theorem vmrgChecked_sound (heapOnly : Bool) (h t : Nat) (pc : DWord) (k : Nat) (rs : List (Option InRow)) (s : State)
    (hs : s.Sound) : (vmrgChecked heapOnly h t pc k rs s).Sound := by
  grind [vmrgChecked, State.modTeam_sound, mergeAll_sound, SAct.Sound]

theorem vmrgAct_sound (heapOnly : Bool) (cnt : Byte) (t : Nat) (pc next : DWord) (s : State) (hs : s.Sound) :
    (vmrgAct heapOnly cnt t pc next s).Sound := by
  grind [vmrgAct, State.modSeq_sound, unitReads_sound, vmrgChecked_sound, SAct.Sound]

theorem execVmrgRow_sound (cnt : Byte) (s : State) (hs : s.Sound) : (execVmrgRow cnt s).Sound :=
  seqForm_sound _ _ _ (fun _ _ _ _ h => vmrgAct_sound _ _ _ _ _ _ h) hs

theorem execVmrgHeap_sound (cnt : Byte) (s : State) (hs : s.Sound) : (execVmrgHeap cnt s).Sound :=
  seqForm_sound _ _ _ (fun _ _ _ _ h => vmrgAct_sound _ _ _ _ _ _ h) hs

theorem voutStop_sound (h : Halt) (i t : Nat) (pc : DWord) (s0 s : State) (hs0 : s0.Sound) (hs : s.Sound) :
    (voutStop h i t pc s0 s).Sound := by
  cases h with
  | stop st a =>
    unfold voutStop
    dsimp only
    split
    · exact hs0
    · exact State.modSeq_sound _ _ _ hs
  | data e m => exact State.modSeq_sound _ _ _ (logErrs_sound _ _ _ _ (State.modTeam_sound _ _ _ hs))
  | lost m => exact State.modSeq_sound _ _ _ (State.modTeam_sound _ _ _ hs)
  | silent p =>
    unfold voutStop
    dsimp only
    split
    · exact State.modSeq_sound _ _ _ hs0
    · split
      · exact State.modSeq_sound _ _ _ hs
      · exact hs0
  | retry => exact hs0

theorem voutGo_sound (heapOnly : Bool) (e : VoutExt) (k : Nat) (x : BitVec 512) (cfg : Word) (t : Nat) (pc : DWord)
    (s : State) (hs : s.Sound) : (voutGo heapOnly e k x cfg t pc s).Sound := by
  grind [voutGo, State.modSeq_sound, unitReads_sound, putBytes_sound, voutStop_sound, State.modTeam_sound, State.Sound,
    Act.Sound, SAct.Sound, Fetched.Sound, Served.Sound, Res.Sound, RingOut.Sound, PushOut.Sound, SeqFetch.Sound, OkSound]

theorem voutAct_sound (heapOnly : Bool) (a : BitVec 5) (e : VoutExt) (t : Nat) (pc next : DWord) (s : State) (hs : s.Sound) :
    (voutAct heapOnly a e t pc next s).Sound := by
  grind [voutAct, voutGo_sound, SAct.Sound]

theorem execVoutRow_sound (a : BitVec 5) (e : VoutExt) (s : State) (hs : s.Sound) : (execVoutRow a e s).Sound :=
  seqForm_sound _ _ _ (fun _ _ _ _ h => voutAct_sound _ _ _ _ _ _ _ h) hs

theorem execVoutHeap_sound (a : BitVec 5) (e : VoutExt) (s : State) (hs : s.Sound) : (execVoutHeap a e s).Sound :=
  seqForm_sound _ _ _ (fun _ _ _ _ h => voutAct_sound _ _ _ _ _ _ _ h) hs

/-! Preempt: preemption. -/

theorem allocAreas_sound (x1 : List Nat) (s : State) (hs : s.Sound) : ∀ s', allocAreas x1 s = some s' → s'.Sound := by
  induction x1 generalizing s with
  | nil => rintro _ ⟨⟩; exact hs
  | cons t ts ih =>
    unfold allocAreas
    dsimp only
    split
    · rintro _ ⟨⟩
    · exact ih _ (State.modTeam_sound _ _ _ (State.modPart_sound _ _ _ hs))

theorem execPreemptionRequest_sound (l : Nat) (s : State) (hs : s.Sound) : (execPreemptionRequest l s).Sound := by
  unfold execPreemptionRequest
  refine Res.Sound.ite ?_ hs.next
  split
  · exact hs.next
  · split
    · exact hs.next
    · next he =>
      exact (foldl_sound _ (fun s t h => State.modTeam_sound _ _ _ h) _ (allocAreas_sound _ _ hs _ he)).next

theorem takeGroup_sound (t g : Nat) (mask : BitVec 61) (forced : Bool) (s : State) (hs : s.Sound) :
    (takeGroup t g mask forced s).Sound :=
  hs

theorem coverArea_sound (t a : Nat) (rv : Bool) (s : State) (hs : s.Sound) : (coverArea t a rv s).Sound := by
  grind [coverArea, observe_sound, partMeets_sound]

theorem loadFeeds_sound (t a : Nat) (k : Core) (s : State) (hs : s.Sound) : (loadFeeds t a k s).Sound := by
  exact ite_sound hs (foldl_sound _ (fun s x h => ite_sound h (State.modCmd_sound _ _ _ h)) s hs)

theorem commitAll_sound (t : Nat) (s : State) (hs : s.Sound) : (commitAll t s).Sound := by
  exact foldl_sound _ (fun s x h => commitOldest_sound _ _ h) s hs

theorem saveTeam_sound (t : Nat) (s : State) (hs : s.Sound) : (saveTeam t s).Sound := by
  unfold saveTeam
  extract_lets q rv s1 s2 a s3 s4 s5
  have h1 : s1.Sound := ite_sound (abandon_sound _ _ hs) hs
  have h2 : s2.Sound := foldl_sound _ (fun s g h => foldl_sound _ (fun s _ h => logSoft_sound _ _ h) _ h) _ h1
  have h3 : s3.Sound := coverArea_sound _ _ _ _ h2
  have h4 : s4.Sound := arrival_sound _ _ (h3.withMem (wf_writeArea t a rv h3))
  have h5 : s5.Sound := foldl_sound _ (fun s n h => State.modCmd_sound _ _ _ h) _ h4
  exact State.modTeam_sound _ _ _ h5

theorem trySave_sound (t : Nat) (s : State) (hs : s.Sound) : (trySave t s).Sound := by
  unfold trySave
  dsimp only
  have h1 : State.Sound (if ((unitOf s t).all fun u => (s.team u).groups.all fun g => g.ended || g.taken.isSome) = true then
      (unitOf s t).foldl (fun s u => commitAll u s) s else s) :=
    ite_sound (foldl_sound _ (fun s u h => commitAll_sound _ _ h) _ hs) hs
  exact ite_sound (foldl_sound _ (fun s u h => saveTeam_sound _ _ h) _ h1) h1

theorem execSafePointTake_sound (t g : Nat) (s : State) (hs : s.Sound) : (execSafePointTake t g s).Sound := by
  grind [execSafePointTake, trySave_sound, takeGroup_sound, Res.Sound]

theorem execForcedSaveTimeout_sound (t g : Nat) (s : State) (hs : s.Sound) : (execForcedSaveTimeout t g s).Sound := by
  grind [execForcedSaveTimeout, trySave_sound, takeGroup_sound, Res.Sound]

theorem loseSeq_sound (d t : Nat) (s : State) (hs : s.Sound) : (loseSeq d t s).Sound :=
  ite_sound (raiseSeqTrap_sound _ _ _ _ hs) hs

theorem loseDieOf_sound (d t : Nat) (s : State) (hs : s.Sound) : (loseDieOf d t s).Sound :=
  ite_sound (State.modTeam_sound _ _ _ hs) (loseSeq_sound _ _ _ hs)

theorem catchUp_sound (t : Nat) (s : State) (hs : s.Sound) : (catchUp t s).Sound := by
  refine supLate_sound _ _ (foldl_sound _ (fun s d h => ite_sound (loseDieOf_sound _ _ _ h) h) _ (State.modTeam_sound _ _ _ ?_))
  exact foldl_sound _ (fun s e h => barBytes_sound _ _ _ _ _ h) _ (State.modTeam_sound _ _ _ hs)

theorem restoreTeam_sound (t : Nat) (k : Core) (s : State) (hs : s.Sound) : (restoreTeam t k s).Sound := by
  unfold restoreTeam
  extract_lets p a s1 s2 s3 s4 s5 s6
  have h1 : s1.Sound := loadFeeds_sound _ _ _ _ (seeMem_sound _ _ _ _ _ hs)
  have h2 : s2.Sound := freeSave_sound _ _ (State.modTeam_sound _ _ _ h1)
  have h3 : s3.Sound := arrival_sound _ _ (State.modTeam_sound _ _ _ h2)
  have h4 : s4.Sound := by
    refine settleTeam_sound _ _ _ (fun g w s h => ?_) h3
    split
    · rintro _ _ ⟨⟩; exact h
    · rintro _ _ ⟨⟩
  have h5 : s5.Sound := settleTeam_sound _ _ _ (fun g w s h => twaitDone_sound _ _ _ _ h) h4
  have h6 : s6.Sound := foldl_sound _ (fun s g h => releaseDone_sound _ _ _ _ h) _ h5
  exact catchUp_sound _ _ h6

theorem execTeamResume_sound (t : Nat) (s : State) (hs : s.Sound) : (execTeamResume t s).Sound := by
  unfold execTeamResume
  refine Res.Sound.ite ?_ hs.next
  split
  · exact hs.next
  · exact Res.Sound.ite hs.next (foldl_sound _ (fun s u h => restoreTeam_sound _ _ _ h) _ hs).next

/-! Fetch: the fetch. -/

theorem settleStores_sound (s : State) (hs : s.Sound) : (settleStores s).Sound :=
  ite_sound hs (performStores_sound _ _ hs)

theorem advance_sound (s : State) (hs : s.Sound) : (advance s).Sound :=
  hs

theorem fetchBytes_sound (s : State) (t g : Nat) (pc : DWord) (hs : s.Sound) : (fetchBytes s t g pc).1.Sound := by
  grind [fetchBytes, laneAccess_sound, observe_sound]

theorem fetchGroup_sound (t g : Nat) (s : State) (hs : s.Sound) : (fetchGroup t g s).Sound := by
  unfold fetchGroup
  extract_lets gr pc stop
  have hstop (code : Byte) (i0 i1 i2 : Word) (s : State) (h : s.Sound) : (stop code i0 i1 i2 s).Sound :=
    trapIssue_sound _ _ _ _ _ h
  split
  · exact hs
  · split
    · exact hstop _ _ _ _ _ hs
    · split
      · next he => exact gateLanes_sound _ _ _ _ _ _ hs _ he
      · exact hs
      · have h1 := fetchBytes_sound s t g pc hs
        split
        · next he =>
          have h2 := fst_sound h1 he
          exact hstop _ _ _ _ _ (ite_sound (dropExpired_sound _ _ _ h2) h2)
        · next he =>
          have h2 := fst_sound h1 he
          split
          · exact hstop _ _ _ _ _ h2
          · split
            · exact h2
            · exact hstop _ _ _ _ _ h2

theorem fetchStream_sound (t : Nat) (pc : DWord) (n : Nat) (s : State) (hs : s.Sound) : (fetchStream t pc n s).Sound := by
  grind [fetchStream, State.modTeam_sound, State.modSeq_sound, meetPieces_sound, touchPieces_sound, observe_sound,
    SeqFetch.Sound]

theorem fetchSeq_sound (t : Nat) (s : State) (hs : s.Sound) : (fetchSeq t s).Sound := by
  unfold fetchSeq
  extract_lets pc stop
  have hstop (tr : Trap) (s : State) (h : s.Sound) : (stop tr s).Sound := raiseSeqTrap_sound _ _ _ _ h
  split
  · exact hs
  · split
    · exact hstop _ _ hs
    · have h1 := fetchStream_sound t pc (32 - pc.toNat % 32) s hs
      split
      · exact State.modSeq_sound _ _ _ hs
      · next he => rw [he] at h1; exact h1
      · next he => rw [he] at h1; exact hstop _ _ h1
      · next he =>
        rw [he] at h1
        split
        · exact hstop _ _ h1
        · split
          · split
            · exact hstop _ _ (State.modSeq_sound _ _ _ h1)
            · exact State.modSeq_sound _ _ _ h1
          · exact hstop _ _ h1

theorem assignWorld_sound (x : Assigned) (secure : Bool) (s : State) (hs : s.Sound) : (assignWorld x secure s).Sound := by
  cases x with
  | granule n => exact hs
  | port second => exact hs
  | station n => exact hs
  | engines d => exact State.modDie_sound _ _ _ hs

theorem fetchMove_sound (m : Move) (s : State) (hs : s.Sound) : (fetchMove m s).Sound := by
  unfold fetchMove
  split
  · split
    · exact hs
    · exact hs
  · exact hs
  · exact State.modGrp_sound _ _ _ _ hs
  · exact ite_sound (assignWorld_sound _ _ _ hs) hs
  · split
    · exact hs
    · exact fetchGroup_sound _ _ _ hs
  · exact fetchSeq_sound _ _ hs
  · exact hs

theorem beforeStep_sound (s : State) (hs : s.Sound) : (beforeStep s).Sound :=
  noteIdle_sound _ (settleStores_sound _ hs)

/-! System: the system. -/

theorem execHangReport_sound (t : Nat) (s : State) (hs : s.Sound) : (execHangReport t s).Sound := by
  grind [execHangReport, putRecord_sound, State.modTeam_sound, Res.Sound]

theorem execErrorLogLostEntries_sound (p : Nat) (s : State) (hs : s.Sound) : (execErrorLogLostEntries p s).Sound := by
  unfold execErrorLogLostEntries
  dsimp only
  refine Res.Sound.ite hs.next ?_
  split
  · next he =>
    have h1 : (RingOut.done _ _ _).Sound := he ▸ writeRecord_sound _ _ hs
    exact (State.modPart_sound _ _ _ h1).next
  · exact hs.next

theorem logDie_sound (d kind source : Nat) (s : State) (hs : s.Sound) : (logDie d kind source s).Sound := by
  grind [logDie, logError_sound]

theorem execLinkWakeRetry_sound (die : Nat) (s : State) (hs : s.Sound) : (execLinkWakeRetry die s).Sound := by
  grind [execLinkWakeRetry, State.modDie_sound, Res.Sound]

theorem execLinkRetrain_sound (die : Nat) (s : State) (hs : s.Sound) : (execLinkRetrain die s).Sound := by
  grind [execLinkRetrain, logDie_sound, State.modDie_sound, Res.Sound]

theorem execDieHeartbeat_sound (die : Nat) (s : State) (hs : s.Sound) : (execDieHeartbeat die s).Sound :=
  State.Sound.next (ite_sound hs (State.modDie_sound _ _ _ hs))

theorem loseTeam_sound (t : Nat) (s : State) (hs : s.Sound) : (loseTeam t s).Sound := by
  grind [loseTeam, State.modLaunch_sound, killTeam_sound, State.modTrace_sound]

theorem loseDie_sound (d : Nat) (s : State) (hs : s.Sound) : (loseDie d s).Sound := by
  exact logDie_sound _ _ _ _ (foldl_sound _ (fun s t h => loseDieOf_sound _ _ _ h) _
    (foldl_sound _ (fun s t h => loseTeam_sound _ _ h) _ (State.modDie_sound _ _ _ hs)))

theorem execDieLost_sound (die : Nat) (s : State) (hs : s.Sound) : (execDieLost die s).Sound :=
  Res.Sound.ite (State.Sound.next (loseDie_sound _ _ hs)) hs.next

theorem execDielostTrap_sound (t g : Nat) (s : State) (hs : s.Sound) : (execDielostTrap t g s).Sound := by
  grind [execDielostTrap, trapIssue_sound, State.modGrp_sound, Res.Sound]

theorem execRemoteAccessTimeout_sound (peer : Nat) (s : State) (hs : s.Sound) : (execRemoteAccessTimeout peer s).Sound := by
  grind [execRemoteAccessTimeout, State.Sound, Res.Sound]

theorem outRead_sound (o : Observer) (a n : Nat) (s : State) (hs : s.Sound) : (outRead o a n s).1.Sound :=
  seeMem_sound _ _ _ _ _ hs

theorem outWrite_sound (o : Observer) (a : Nat) (bytes : List Byte) (s : State) (hs : s.Sound) : (outWrite o a bytes s).Sound
    := by
  have h1 := coverMem_sound o ((partAt s a).getD 0) a bytes.length s hs
  exact ⟨Store.wf_writeBytes _ _ h1.1, h1.2⟩

theorem outAtom_sound (o : Observer) (a n : Nat) (f : Nat → Nat) (s : State) (hs : s.Sound) : (outAtom o a n f s).1.Sound := by
  have h1 := outRead_sound o a n s hs
  exact ⟨Store.wf_writeLe _ _ _ h1.1, h1.2⟩

theorem putCoded_sound (a : Nat) (c : Coded) (s : State) (hs : s.Sound) : (putCoded a c s).Sound := by
  grind [putCoded, outWrite_sound, State.Sound]

theorem execPeerRemoteAccess_sound (addr : BitVec 41) (acc : PeerAcc) (s : State) (hs : s.Sound) :
    (execPeerRemoteAccess addr acc s).Sound := by
  have hw (a : Nat) (b : List Byte) : (outWrite .peer a b s).Sound := outWrite_sound _ _ _ _ hs
  have ha (n : Nat) (f : Nat → Nat) : (outAtom .peer addr.toNat n f s).1.Sound := outAtom_sound _ _ _ _ _ hs
  have hn (x : State × List Byte) (h : x.1.Sound) : Res.Sound (.next { x.1 with peerData := x.1.peerData ++ [x.2] }) :=
    State.Sound.next h
  cases acc with
  | read n => exact Res.Sound.ite (hn _ (outRead_sound _ _ _ _ hs)) hs.next
  | write bytes => exact State.Sound.next (ite_sound (hw _ _) hs)
  | atom op ty x => exact Res.Sound.ite hs.next (hn _ (ha _ _))
  | counter op base pos draw arg => 
    refine Res.Sound.ite hs.next (Res.Sound.ite (State.Sound.next (hw _ _)) ?_)
    dsimp only
    have h1 := ha 4 (fun old => (ctrRequest op base pos draw.toNat arg.toNat old).1)
    generalize outAtom .peer addr.toNat 4 (fun old => (ctrRequest op base pos draw.toNat arg.toNat old).1) s = r at h1
    exact State.Sound.next h1
  | coded sel payload => exact State.Sound.next (ite_sound (putCoded_sound _ _ _ hs) hs)

theorem execHeadroomUpdate_sound (die : Nat) (v : BitVec 16) (s : State) (hs : s.Sound) : (execHeadroomUpdate die v s).Sound
    :=
  State.Sound.next (State.modDie_sound _ _ _ hs)

theorem execThermalThrottle_sound (die : Nat) (s : State) (hs : s.Sound) : (execThermalThrottle die s).Sound :=
  State.Sound.next (State.modDie_sound _ _ _ hs)

theorem dropPort_sound (port : Bool) (s : State) (hs : s.Sound) : (dropPort port s).Sound :=
  hs

theorem execThermalTrip_sound (die : Nat) (s : State) (hs : s.Sound) : (execThermalTrip die s).Sound := by
  grind [execThermalTrip, dropPort_sound, State.Sound, Res.Sound]

theorem execPowerOnBoot_sound (s : State) (hs : s.Sound) : (execPowerOnBoot s).Sound := by
  grind [execPowerOnBoot, State.Sound, Res.Sound]

theorem moduleReset_sound (img : List Byte) (s : State) (_ : s.Sound) : (moduleReset img s).Sound := by
  exact ⟨rfl, rfl⟩

theorem writeGo_sound (port : Bool) (v : DWord) (s : State) (hs : s.Sound) : (writeGo port v s).Sound := by
  grind [writeGo, State.Sound]

theorem execRecoveryGo_sound (port : Bool) (image : List Byte) (v : DWord) (s : State) (hs : s.Sound) :
    (execRecoveryGo port image v s).Sound := by
  grind [execRecoveryGo, moduleReset_sound, writeGo_sound, State.Sound, Res.Sound]

theorem claimSem_sound (port : Bool) (k : Nat) (s : State) (hs : s.Sound) : (claimSem port k s).1.Sound := by
  grind [claimSem, State.Sound]

theorem releaseSem_sound (port : Bool) (k : Nat) (s : State) (hs : s.Sound) : (releaseSem port k s).Sound := by
  grind [releaseSem, State.Sound]

theorem execSemaphoreClaim_sound (sem : BitVec 4) (who : Claimant) (s : State) (hs : s.Sound) :
    (execSemaphoreClaim sem who s).Sound := by
  cases who with
  | port p =>
    have h1 := claimSem_sound p sem.toNat s hs
    exact State.Sound.next h1
  | both => exact Res.Sound.ite (State.Sound.next hs) (State.Sound.next hs)

theorem execSemaphoreRelease_sound (sem : BitVec 4) (port : Bool) (s : State) (hs : s.Sound) :
    (execSemaphoreRelease sem port s).Sound :=
  State.Sound.next (releaseSem_sound _ _ _ hs)

theorem execPortReset_sound (port : Bool) (s : State) (hs : s.Sound) : (execPortReset port s).Sound :=
  State.Sound.next (dropPort_sound _ _ hs)

theorem setWorlds_sound (dies : BitVec 4) (sec : Nat → Bool) (s : State) (hs : s.Sound) : (setWorlds dies sec s).Sound :=
  hs

theorem createPart_sound (port : Bool) (r root : Nat) (s : State) (hs : s.Sound) : (createPart port r root s).Sound := by
  have h1 (f : Nat → Bool) (ps : _) (dies : _) (mb : _) :
      (setWorlds (reqDies r) f { s with parts := ps, devRegs := clearDevs (reqPart r) s.devRegs, dies := dies, mailbox := mb }).Sound :=
    setWorlds_sound _ _ _ ⟨hs.1, Store.wf_filter _ hs.2⟩
  unfold createPart
  dsimp only
  exact ite_sound (State.modPart_sound _ _ _ (h1 _ _ _ _)) (h1 _ _ _ _)

theorem removePart_sound (p : Nat) (s : State) (hs : s.Sound) : (removePart p s).Sound := by
  unfold removePart
  extract_lets open_ s1 s2 s3
  have h1 : s1.Sound := foldl_sound _ (fun s n h => ite_sound (cancelTree_sound _ _ h) h) _ hs
  have h3 : s3.Sound := foldl_sound _ (fun s n h => ite_sound (completeGrid_sound _ _ h) h) _ (show State.Sound _ from h1)
  exact setWorlds_sound _ _ _ ⟨h3.1, Store.wf_filter _ h3.2⟩

theorem refuse_sound (why : Nat) (s : State) (hs : s.Sound) : (refuse why s).Sound :=
  hs

theorem withRequest_sound (r : Nat) (port : Bool) (s : State) (hs : s.Sound) : (withRequest r port s).Sound :=
  hs

theorem execPartitionCreate_sound (port : Bool) (req : BitVec 2048) (root : Nat) (s : State) (hs : s.Sound) :
    (execPartitionCreate port req root s).Sound := by
  grind [execPartitionCreate, withRequest_sound, refuse_sound, createPart_sound, Res.Sound]

theorem execPartitionRemove_sound (port : Bool) (req : BitVec 2048) (root : Nat) (s : State) (hs : s.Sound) :
    (execPartitionRemove port req root s).Sound := by
  grind [execPartitionRemove, withRequest_sound, refuse_sound, removePart_sound, Res.Sound]

theorem execPartitionRecreate_sound (port : Bool) (req : BitVec 2048) (root : Nat) (s : State) (hs : s.Sound) :
    (execPartitionRecreate port req root s).Sound := by
  grind [execPartitionRecreate, withRequest_sound, refuse_sound, removePart_sound, createPart_sound, Res.Sound]

theorem execHostAttestationRequest_sound (port : Bool) (p : Nat) (nonce : BitVec 256) (s : State) (hs : s.Sound) :
    (execHostAttestationRequest port p nonce s).Sound := by
  grind [execHostAttestationRequest, State.Sound, Res.Sound]

theorem putList_sound (w : Who) (root x1 : Nat) (x2 : List Byte) (s : State) (hs : s.Sound) : ∀ s', putList w root x1 x2 s =
    some s' → s'.Sound := by
  induction x2 generalizing x1 s with
  | nil => rintro _ ⟨⟩; exact hs
  | cons b bs ih =>
    unfold putList
    split
    · rintro _ ⟨⟩
    · next he => exact ih _ _ (partWrite_sound _ _ _ _ _ _ hs _ he)

theorem writeQuote_sound (c : Ctx) (s : State) (hs : s.Sound) : (writeQuote c s).Sound := by
  unfold writeQuote
  extract_lets l w0 w
  have h1 := partGet_sound w (arg64 s c 0) 32 s hs
  split
  · next he => exact fst_sound h1 he
  · next he =>
    have h2 := fst_sound h1 he
    exact getD_sound (putList_sound _ _ _ _ _ h2) h2

theorem execAttestationQuote_sound (h : Hdr) (s : State) (hs : s.Sound) : (execAttestationQuote h s).Sound :=
  serviceForm_sound _ _ _ _ _ _ (fun _ _ h => writeQuote_sound _ _ h) hs

theorem barRead_sound (port : Bool) (off n : Nat) (s : State) (hs : s.Sound) : (barRead port off n s).1.Sound := by
  unfold barRead
  dsimp only
  generalize hx : (s, ([] : List (Nat × Word))) = x
  have h1 : x.1.Sound := by subst hx; exact hs
  clear hx
  generalize semsAt off n = l
  induction l generalizing x with
  | nil => exact h1
  | cons k ks ih => exact ih _ (claimSem_sound _ _ _ h1)

theorem writeBell_sound (port : Bool) (v : DWord) (s : State) (hs : s.Sound) : (writeBell port v s).Sound := by
  grind [writeBell, State.Sound]

theorem barWrite_sound (port : Bool) (off : Nat) (bytes : List Byte) (s : State) (hs : s.Sound) :
    (barWrite port off bytes s).Sound := by
  have h1 : State.Sound ((semsAt off bytes.length).foldl (fun s k => releaseSem port k s) s) :=
    foldl_sound _ (fun s k h => releaseSem_sound _ _ _ h) _ hs
  revert h1
  unfold barWrite
  generalize (semsAt off bytes.length).foldl (fun s k => releaseSem port k s) s = s1
  intro h1
  dsimp only
  split
  · exact h1
  · split
    · exact writeGo_sound _ _ _ h1
    · exact h1
  · split
    · exact writeBell_sound _ _ _ h1
    · exact h1

theorem execHostPortAccess_sound (port : Bool) (addr : DWord) (acc : HostAcc) (s : State) (hs : s.Sound) :
    (execHostPortAccess port addr acc s).Sound := by
  have hn (x : State × List Byte) (h : x.1.Sound) : Res.Sound (.next { x.1 with hostData := x.1.hostData ++ [x.2] }) :=
    State.Sound.next h
  unfold execHostPortAccess
  dsimp only
  split
  · exact hn _ (barRead_sound _ _ _ _ hs)
  · exact State.Sound.next (barWrite_sound _ _ _ _ hs)
  · exact hn (_, _) hs
  · refine hn _ ?_
    split
    · exact outRead_sound _ _ _ _ hs
    · exact hs
  · exact State.Sound.next (ite_sound (outWrite_sound _ _ _ _ hs) hs)
  · refine hn _ ?_
    split
    · exact hs
    · exact outAtom_sound _ _ _ _ _ hs

theorem execDeviceRegisterWrite_sound (p : Nat) (addr v : DWord) (s : State) (hs : s.Sound) :
    (execDeviceRegisterWrite p addr v s).Sound := by
  grind [execDeviceRegisterWrite, physWrite_sound, supAct_sound, Res.Sound]

theorem execStationRetraining_sound (st : Nat) (width : BitVec 3) (compress : Bool) (s : State) (hs : s.Sound) :
    (execStationRetraining st width compress s).Sound := by
  grind [execStationRetraining, State.Sound, Res.Sound]

theorem execSequencerFetchFault_sound (t : Nat) (serviced : Bool) (s : State) (hs : s.Sound) :
    (execSequencerFetchFault t serviced s).Sound := by
  grind [execSequencerFetchFault, State.modSeq_sound, endFaulted_sound, Res.Sound]

/-! The dispatch and the step. -/

theorem exec_sound (i : Instr) (s : State) (hs : s.Sound) : Res.Sound (exec i s) := by
  cases i with
  | nop => exact execNop_sound _ _ _ hs
  | bra => exact execBra_sound _ _ _ hs
  | bru => exact execBru_sound _ _ _ hs
  | jmpi => exact execJmpi_sound _ _ _ hs
  | call => exact execCall_sound _ _ _ _ hs
  | callI => exact execCallI_sound _ _ _ _ hs
  | ret => exact execRet_sound _ _ _ hs
  | exit => exact execExit_sound _ _ hs
  | yield => exact execYield_sound _ _ hs
  | yieldUnpark => exact execYieldUnpark_sound _ _ _ _ hs
  | trap => exact execTrap_sound _ _ _ hs
  | rft => exact execRft_sound _ _ hs
  | sysrd => exact execSysrd_sound _ _ _ _ hs
  | syswr => exact execSyswr_sound _ _ _ _ hs
  | seqCtlResume => exact execSeqCtlResume_sound _ _ _ hs
  | plop => exact execPlop_sound _ _ _ _ _ _ _ hs
  | unassignedOpcode w => exact execUnassignedOpcode_sound w _ hs
  | iadd => exact execIadd_sound _ _ _ _ _ _ _ hs
  | iaddCc => exact execIaddCc_sound _ _ _ _ _ _ _ hs
  | isub => exact execIsub_sound _ _ _ _ _ _ _ hs
  | isubCc => exact execIsubCc_sound _ _ _ _ _ _ _ hs
  | imulLo => exact execImulLo_sound _ _ _ _ _ _ _ hs
  | imulHi => exact execImulHi_sound _ _ _ _ _ _ hs
  | imulWide => exact execImulWide_sound _ _ _ _ _ _ hs
  | imadLo => exact execImadLo_sound _ _ _ _ _ _ _ _ hs
  | imadHi => exact execImadHi_sound _ _ _ _ _ _ _ hs
  | imadWide => exact execImadWide_sound _ _ _ _ _ _ _ hs
  | shfL => exact execShfL_sound _ _ _ _ _ _ hs
  | shfR => exact execShfR_sound _ _ _ _ _ _ hs
  | shfRa => exact execShfRa_sound _ _ _ _ _ _ hs
  | shfRol => exact execShfRol_sound _ _ _ _ _ _ hs
  | shfLf => exact execShfLf_sound _ _ _ _ _ _ hs
  | shfRf => exact execShfRf_sound _ _ _ _ _ _ hs
  | ltab => exact execLtab_sound _ _ _ _ _ _ _ _ hs
  | icmp => exact execIcmp_sound _ _ _ _ _ _ _ hs
  | imnmxMin => exact execImnmxMin_sound _ _ _ _ _ _ hs
  | imnmxMax => exact execImnmxMax_sound _ _ _ _ _ _ hs
  | bfe => exact execBfe_sound _ _ _ _ _ _ hs
  | bfi => exact execBfi_sound _ _ _ _ _ _ _ hs
  | bitsPopc => exact execBitsPopc_sound _ _ _ _ _ hs
  | bitsClz => exact execBitsClz_sound _ _ _ _ _ hs
  | bitsCtz => exact execBitsCtz_sound _ _ _ _ _ hs
  | bitsBrev => exact execBitsBrev_sound _ _ _ _ _ hs
  | sel => exact execSel_sound _ _ _ _ _ _ _ hs
  | mov => exact execMov_sound _ _ _ _ _ hs
  | movPush => exact execMovPush_sound _ _ _ _ _ hs
  | movPop => exact execMovPop_sound _ _ _ _ _ hs
  | queueEntryEnter => exact execQueueEntryEnter_sound _ _ _ _ hs
  | queuePopComplete => exact execQueuePopComplete_sound _ _ _ _ hs
  | movP2v => exact execMovP2v_sound _ _ _ hs
  | movV2p => exact execMovV2p_sound _ _ _ hs
  | moviVector => exact execMoviVector_sound _ _ _ _ hs
  | moviVectorPair => exact execMoviVectorPair_sound _ _ _ _ hs
  | moviUniform => exact execMoviUniform_sound _ _ _ _ hs
  | moviUniformPair => exact execMoviUniformPair_sound _ _ _ _ hs
  | lea => exact execLea_sound _ _ _ _ _ _ _ hs
  | dp4 => exact execDp4_sound _ _ _ _ _ _ _ _ _ hs
  | fadd => exact execFadd_sound _ _ _ _ _ _ _ hs
  | fmul => exact execFmul_sound _ _ _ _ _ _ _ hs
  | ffma => exact execFfma_sound _ _ _ _ _ _ _ _ hs
  | fmnmxMin => exact execFmnmxMin_sound _ _ _ _ _ _ hs
  | fmnmxMax => exact execFmnmxMax_sound _ _ _ _ _ _ hs
  | fcmp => exact execFcmp_sound _ _ _ _ _ _ _ hs
  | ffnRcp => exact execFfnRcp_sound _ _ _ _ _ _ hs
  | ffnSqrt => exact execFfnSqrt_sound _ _ _ _ _ _ hs
  | ffnRsqrt => exact execFfnRsqrt_sound _ _ _ _ _ _ hs
  | ffnExp2 => exact execFfnExp2_sound _ _ _ _ _ _ hs
  | ffnLog2 => exact execFfnLog2_sound _ _ _ _ _ _ hs
  | ffnSinpi => exact execFfnSinpi_sound _ _ _ _ _ _ hs
  | ffnCospi => exact execFfnCospi_sound _ _ _ _ _ _ hs
  | cvt => exact execCvt_sound _ _ _ _ _ _ _ _ _ hs
  | fma2 => exact execFma2_sound _ _ _ _ _ _ _ _ hs
  | frnd => exact execFrnd_sound _ _ _ _ _ _ hs
  | xaccF32 => exact execXaccF32_sound _ _ _ _ _ hs
  | xaccX128 => exact execXaccX128_sound _ _ _ _ _ hs
  | xrnd => exact execXrnd_sound _ _ _ _ _ hs
  | shflIdx => exact execShflIdx_sound _ _ _ _ _ _ _ hs
  | shflUp => exact execShflUp_sound _ _ _ _ _ _ _ hs
  | shflDown => exact execShflDown_sound _ _ _ _ _ _ _ hs
  | shflXor => exact execShflXor_sound _ _ _ _ _ _ _ hs
  | ballot => exact execBallot_sound _ _ _ _ _ hs
  | voteAll => exact execVoteAll_sound _ _ _ _ hs
  | voteAny => exact execVoteAny_sound _ _ _ _ hs
  | voteUni => exact execVoteUni_sound _ _ _ _ hs
  | lredAdd => exact execLredAdd_sound _ _ _ _ _ hs
  | lredMin => exact execLredMin_sound _ _ _ _ _ hs
  | lredMax => exact execLredMax_sound _ _ _ _ _ hs
  | lredAnd => exact execLredAnd_sound _ _ _ _ _ hs
  | lredOr => exact execLredOr_sound _ _ _ _ _ hs
  | lredXor => exact execLredXor_sound _ _ _ _ _ hs
  | rngC => exact execRngC_sound _ _ _ hs
  | rngCx => exact execRngCx_sound _ _ _ _ hs
  | rngSStep => exact execRngSStep_sound _ _ _ hs
  | rngSReseed => exact execRngSReseed_sound _ _ _ _ hs
  | bsel => exact execBsel_sound _ _ _ _ _ _ hs
  | ld => exact execLd_sound _ _ _ _ _ _ _ _ hs
  | st => exact execSt_sound _ _ _ _ _ _ _ _ hs
  | lds => exact execLds_sound _ _ _ _ _ _ hs
  | sts => exact execSts_sound _ _ _ _ _ _ hs
  | atomAdd => exact execAtomAdd_sound _ _ _ _ _ _ _ _ hs
  | atomMin => exact execAtomMin_sound _ _ _ _ _ _ _ _ hs
  | atomMax => exact execAtomMax_sound _ _ _ _ _ _ _ _ hs
  | atomAnd => exact execAtomAnd_sound _ _ _ _ _ _ _ _ hs
  | atomOr => exact execAtomOr_sound _ _ _ _ _ _ _ _ hs
  | atomXor => exact execAtomXor_sound _ _ _ _ _ _ _ _ hs
  | atomExch => exact execAtomExch_sound _ _ _ _ _ _ _ _ hs
  | atomCas => exact execAtomCas_sound _ _ _ _ _ _ _ _ hs
  | atomsAdd => exact execAtomsAdd_sound _ _ _ _ _ _ hs
  | atomsMin => exact execAtomsMin_sound _ _ _ _ _ _ hs
  | atomsMax => exact execAtomsMax_sound _ _ _ _ _ _ hs
  | atomsAnd => exact execAtomsAnd_sound _ _ _ _ _ _ hs
  | atomsOr => exact execAtomsOr_sound _ _ _ _ _ _ hs
  | atomsXor => exact execAtomsXor_sound _ _ _ _ _ _ hs
  | atomsExch => exact execAtomsExch_sound _ _ _ _ _ _ hs
  | atomsCas => exact execAtomsCas_sound _ _ _ _ _ _ hs
  | fence => exact execFence_sound _ _ _ _ hs
  | publish => exact execPublish_sound _ _ _ _ _ _ hs
  | drainSp => exact execDrainSp_sound _ _ hs
  | drainFifo => exact execDrainFifo_sound _ _ hs
  | drainGlb => exact execDrainGlb_sound _ _ hs
  | drainComplete => exact execDrainComplete_sound _ _ _ hs
  | cctlInv => exact execCctlInv_sound _ _ _ hs
  | cctlPfl1 => exact execCctlPfl1_sound _ _ _ hs
  | cctlPfl2 => exact execCctlPfl2_sound _ _ _ hs
  | nmcGather => exact execNmcGather_sound _ _ _ _ _ hs
  | nmcCopy => exact execNmcCopy_sound _ _ _ _ _ hs
  | nmcCvt => exact execNmcCvt_sound _ _ _ _ _ hs
  | nmcRed => exact execNmcRed_sound _ _ _ _ _ hs
  | ldcB32 => exact execLdcB32_sound _ _ _ _ hs
  | ldcB64 => exact execLdcB64_sound _ _ _ _ hs
  | barSync => exact execBarSync_sound _ _ _ hs
  | barArrive => exact execBarArrive_sound _ _ _ hs
  | barWait => exact execBarWait_sound _ _ _ hs
  | bexp => exact execBexp_sound _ _ _ hs
  | cbar => exact execCbar_sound _ _ _ _ hs
  | cbarComplete => exact execCbarComplete_sound _ _ _ hs
  | cbarDeadlineExpiry => exact execCbarDeadlineExpiry_sound _ _ _ _ hs
  | qbindSq => exact execQbindSq_sound _ _ _ _ hs
  | qbindPort => exact execQbindPort_sound _ _ _ _ hs
  | qtryPush => exact execQtryPush_sound _ _ _ _ _ hs
  | qtryPop => exact execQtryPop_sound _ _ _ _ _ hs
  | queueOverflowStart => exact execQueueOverflowStart_sound _ _ _ hs
  | waitk => exact execWaitk_sound _ _ _ hs
  | waitkMask => exact execWaitkMask_sound _ _ _ hs
  | acq => exact execAcq_sound _ _ _ hs
  | rel => exact execRel_sound _ _ _ hs
  | tsld => exact execTsld_sound _ _ _ _ _ hs
  | tsev => exact execTsev_sound _ _ _ _ hs
  | qalwAdd => exact execQalwAdd_sound _ _ _ _ hs
  | qalwSet => exact execQalwSet_sound _ _ _ _ hs
  | cpy => exact execCpy_sound _ _ _ _ _ _ _ _ hs
  | cpyAdd => exact execCpyAdd_sound _ _ _ _ _ _ _ _ hs
  | cpyMin => exact execCpyMin_sound _ _ _ _ _ _ _ _ hs
  | cpyMax => exact execCpyMax_sound _ _ _ _ _ _ _ _ hs
  | cpyAnd => exact execCpyAnd_sound _ _ _ _ _ _ _ _ hs
  | cpyOr => exact execCpyOr_sound _ _ _ _ _ _ _ _ hs
  | gscG => exact execGscG_sound _ _ _ _ _ _ _ hs
  | gscS => exact execGscS_sound _ _ _ _ _ _ _ hs
  | gscSadd => exact execGscSadd_sound _ _ _ _ _ _ _ hs
  | feedFa => exact execFeedFa_sound _ _ _ _ _ _ hs
  | feedFb => exact execFeedFb_sound _ _ _ _ _ _ hs
  | feedSc => exact execFeedSc_sound _ _ _ _ _ _ hs
  | fifoTileEnter => exact execFifoTileEnter_sound _ _ hs
  | scaleSlotFill => exact execScaleSlotFill_sound _ _ hs
  | collStart => exact execCollStart_sound _ _ _ _ hs
  | collResume => exact execCollResume_sound _ _ _ _ hs
  | collChunkFinal => exact execCollChunkFinal_sound _ _ _ _ hs
  | collMemberFailure => exact execCollMemberFailure_sound _ _ _ _ _ hs
  | enc => exact execEnc_sound _ _ _ _ _ _ _ _ hs
  | decF32 => exact execDecF32_sound _ _ _ _ _ _ _ _ hs
  | decBf16 => exact execDecBf16_sound _ _ _ _ _ _ _ _ hs
  | engineChunkPerformed => exact execEngineChunkPerformed_sound _ _ _ hs
  | engineFaultResume => exact execEngineFaultResume_sound _ _ _ hs
  | engineCommandComplete => exact execEngineCommandComplete_sound _ _ hs
  | portEntryDeliver => exact execPortEntryDeliver_sound _ _ _ hs
  | mms => exact execMms_sound _ _ _ _ _ _ hs
  | mmsPair => exact execMmsPair_sound _ _ _ _ _ _ hs
  | mmsCommit => exact execMmsCommit_sound _ _ hs
  | aclrF32Zero => exact execAclrF32Zero_sound _ _ hs
  | aclrF32Broadcast => exact execAclrF32Broadcast_sound _ _ _ hs
  | aclrX128Zero => exact execAclrX128Zero_sound _ _ hs
  | aclrX128Broadcast => exact execAclrX128Broadcast_sound _ _ _ hs
  | sqif => exact execSqif_sound _ _ _ _ hs
  | sqwhWhile => exact execSqwhWhile_sound _ _ _ _ hs
  | sqwhEndw => exact execSqwhEndw_sound _ _ hs
  | sqcwSet => exact execSqcwSet_sound _ _ hs
  | sqcwSetSp => exact execSqcwSetSp_sound _ _ hs
  | sqcwAdd => exact execSqcwAdd_sound _ _ hs
  | sqcwCmp => exact execSqcwCmp_sound _ _ hs
  | sqcwEnd => exact execSqcwEnd_sound _ hs
  | vprojF => exact execVprojF_sound _ _ _ _ _ _ _ hs
  | vprojB => exact execVprojB_sound _ _ _ _ _ _ _ hs
  | forwardSelectionStage => exact execForwardSelectionStage_sound _ _ hs
  | backwardGradientStage => exact execBackwardGradientStage_sound _ _ hs
  | vmrgRow => exact execVmrgRow_sound _ _ hs
  | vmrgHeap => exact execVmrgHeap_sound _ _ hs
  | voutRow => exact execVoutRow_sound _ _ _ hs
  | voutHeap => exact execVoutHeap_sound _ _ _ hs
  | pcadd => exact execPcadd_sound _ _ _ _ _ _ _ hs
  | pcaddRtn => exact execPcaddRtn_sound _ _ _ _ _ _ _ _ hs
  | pcrd => exact execPcrd_sound _ _ _ _ _ _ _ hs
  | pcrdRaw => exact execPcrdRaw_sound _ _ _ _ _ _ _ hs
  | pcmrg => exact execPcmrg_sound _ _ _ _ _ _ _ _ hs
  | pcclr => exact execPcclr_sound _ _ _ _ _ _ hs
  | pcbase => exact execPcbase_sound _ _ _ hs
  | launch => exact execLaunch_sound _ _ _ _ _ _ hs
  | fork => exact execFork_sound _ _ _ _ _ hs
  | cancel => exact execCancel_sound _ _ _ hs
  | twait => exact execTwait_sound _ _ _ _ hs
  | alloc => exact execAlloc_sound _ _ _ _ hs
  | free => exact execFree_sound _ _ _ hs
  | tmark => exact execTmark_sound _ _ _ hs
  | hvc => exact execHvc_sound _ _ _ hs
  | hvcReturn => exact execHvcReturn_sound _ _ _ _ _ _ hs
  | registerQueue => exact execRegisterQueue_sound _ _ hs
  | registerCollectiveGroup => exact execRegisterCollectiveGroup_sound _ _ hs
  | addFrames => exact execAddFrames_sound _ _ hs
  | retireRoot => exact execRetireRoot_sound _ _ hs
  | setHangThreshold => exact execSetHangThreshold_sound _ _ hs
  | attestationQuote => exact execAttestationQuote_sound _ _ hs
  | launchPacketStart => exact execLaunchPacketStart_sound _ _ _ hs
  | copyPacketStart => exact execCopyPacketStart_sound _ _ _ hs
  | teamPlace => exact execTeamPlace_sound _ _ hs
  | teamRetire => exact execTeamRetire_sound _ _ hs
  | gridCompletion => exact execGridCompletion_sound _ _ hs
  | eventRecordWrite => exact execEventRecordWrite_sound _ _ hs
  | eventRingTimeTrigger => exact execEventRingTimeTrigger_sound _ _ hs
  | preemptionRequest => exact execPreemptionRequest_sound _ _ hs
  | safePointTake => exact execSafePointTake_sound _ _ _ hs
  | forcedSaveTimeout => exact execForcedSaveTimeout_sound _ _ _ hs
  | teamResume => exact execTeamResume_sound _ _ hs
  | coreClockGate => exact execCoreClockGate_sound _ _ _ hs
  | corePowerGate => exact execCorePowerGate_sound _ _ _ hs
  | coreWake => exact execCoreWake_sound _ _ _ hs
  | hangReport => exact execHangReport_sound _ _ hs
  | errorLogLostEntries => exact execErrorLogLostEntries_sound _ _ hs
  | linkWakeRetry => exact execLinkWakeRetry_sound _ _ hs
  | linkRetrain => exact execLinkRetrain_sound _ _ hs
  | dieHeartbeat => exact execDieHeartbeat_sound _ _ hs
  | dieLost => exact execDieLost_sound _ _ hs
  | dielostTrap => exact execDielostTrap_sound _ _ _ hs
  | remoteAccessTimeout => exact execRemoteAccessTimeout_sound _ _ hs
  | headroomUpdate => exact execHeadroomUpdate_sound _ _ _ hs
  | thermalThrottle => exact execThermalThrottle_sound _ _ hs
  | thermalTrip => exact execThermalTrip_sound _ _ hs
  | powerOnBoot => exact execPowerOnBoot_sound _ hs
  | recoveryGo => exact execRecoveryGo_sound _ _ _ _ hs
  | semaphoreClaim => exact execSemaphoreClaim_sound _ _ _ hs
  | semaphoreRelease => exact execSemaphoreRelease_sound _ _ _ hs
  | portReset => exact execPortReset_sound _ _ hs
  | partitionCreate => exact execPartitionCreate_sound _ _ _ _ hs
  | partitionRemove port req root => exact execPartitionRemove_sound port req root _ hs
  | partitionRecreate => exact execPartitionRecreate_sound _ _ _ _ hs
  | supactResume => exact execSupactResume_sound _ _ _ hs
  | supactEndTeam => exact execSupactEndTeam_sound _ _ _ hs
  | supactDeliver => exact execSupactDeliver_sound _ _ _ hs
  | hostAttestationRequest port p nonce => exact execHostAttestationRequest_sound port p nonce _ hs
  | hostPortAccess => exact execHostPortAccess_sound _ _ _ _ hs
  | deviceRegisterWrite => exact execDeviceRegisterWrite_sound _ _ _ _ hs
  | peerRemoteAccess => exact execPeerRemoteAccess_sound _ _ _ hs
  | stationRetraining => exact execStationRetraining_sound _ _ _ _ hs
  | sequencerFetchFault => exact execSequencerFetchFault_sound _ _ _ hs

theorem runFetched_sound (f : Fetched) (hf : f.Sound) : Res.Sound (runFetched f) := by
  cases f with
  | run i s => exact exec_sound i s hf
  | done s => exact State.Sound.next hf

theorem advanceOutcome_sound (r : Res) (hr : r.Sound) : Res.Sound (advanceOutcome r) := by
  cases r with
  | next s => exact (advance_sound s (hr s rfl)).next
  | fault f => rintro _ ⟨⟩
  | refused r => rintro _ ⟨⟩

theorem step_sound (s : State) (hs : s.Sound) : Res.Sound (step s) := by
  have hb := beforeStep_sound s hs
  unfold step
  refine Res.Sound.ite ?_ hs.next
  cases nextMove s with
  | some m => exact advanceOutcome_sound _ (runFetched_sound _ (fetchMove_sound m _ hb))
  | none => exact (advance_sound _ hb).next

end Sys2Proof.Machine

namespace Sys2Proof.Claims
open Sys2Proof.Machine

/-- Settles O26: one lemma for each function of the model that answers a state, up to the step. -/
theorem stepKeepsSound : Obligations.StepKeepsSound := by
  unfold Obligations.StepKeepsSound
  intro s s' hs h
  exact step_sound s hs s' h

end Sys2Proof.Claims
end

section
/-! Two statements on loads fail for the part of a load that was read before (08 R187): the model keeps it as a number
without a bound, and the statements speak of every state, so a state whose part is wider than the bytes it stands for makes the
loaded value wider than the registers. -/

namespace Sys2Proof.Claims
open Sys2Proof.Machine Sys2Proof.Tests

/-- The load of both statements: an FP32 value of each lane, at the address in its own v2 and v3. -/
def wideLoad : Instr := .ld h0 .f32 .ordinary .dflt .normal (.v 6) plainV2

/-- Lane 0 reads at 0x2007E, over a line; of its first two bytes it holds 2^32, a number of five bytes. Lane 1's address is x;
the lanes of `out` have exited. -/
def wideHalf (out : Lanes) (x : Word) : State :=
  one { gr with exited := out, v := [(64, 0x2007E), (65, x)],
                half := some (0, [{ lane := 0, addr := 0x2007E, second := false, value := 2 ^ 32 }]) }

/-- What lane 0 loads there does not fit its register. -/
theorem not_loadIs_of_wide {x : Nat} (hx : 2 ^ 32 ≤ x) (g : Group) (r : Reg) (l : Nat) :
    ¬LoadIs .f32 x (regGet g r l (tyRegs .f32)) := by
  intro h
  have hlt : regGet g r l 1 < 2 ^ 32 := regGet_lt g r l 1
  have heq : regGet g r l 1 = x := h
  omega

/-- Refutes O31: lane 0 alone loads, and its value is 2^32 or more. -/
theorem not_loadResults : ¬Obligations.LoadResults := by
  unfold Obligations.LoadResults
  intro h
  let s := wideHalf 0xFFFFFFFE 0
  let ps := piecesAt s 0 0 .read (bitTy .f32) (tyBytes .f32) (addressOf (s.grp 0 0) plainV2)
  have hp : Passes s 0 0 h0 (.v 6) .read (bitTy .f32) (tyBytes .f32) (addressOf (s.grp 0 0) plainV2) ps :=
    passes_of (by decide +kernel) (tables_st _) (by decide +kernel)
  obtain ⟨s', -, -, -, -, -, -, hone⟩ :=
    h s 0 0 h0 .f32 .ordinary .dflt .normal (.v 6) plainV2 ps (by decide) (readyFor_of (by decide +kernel)) hp
  obtain ⟨-, hload⟩ := hone (.inl rfl)
  exact not_loadIs_of_wide (by decide +kernel) _ _ _ (hload 0 ⟨by decide, by decide +kernel⟩)

/-- The second conjunct of O34 is not needed: lane 1's address does not translate, lane 0's access is performed. -/
theorem not_failingGlobalLanes : ¬FailingGlobalLanes := by
  unfold FailingGlobalLanes
  intro h
  let s := wideHalf 0xFFFFFFFC 0x80000000
  let ps := piecesAt s 0 0 .read (bitTy .f32) (tyBytes .f32) (addressOf (s.grp 0 0) plainV2)
  have hp : LaneOneFails s .read .f32 0x06 0x80000000 := by
    refine laneOneFails_of (by decide +kernel) (by decide +kernel) (by decide +kernel) (by decide +kernel) (fun l hl m hm => ?_)
      (tables_st _) (by decide +kernel)
    obtain rfl : m = s.mem := hm.resolve_right fun hk => absurd hk.1 (by decide)
    show checkAccess s _ _ _ _ _ = _
    revert l
    decide +kernel
  obtain ⟨hecc, hbuf, hpart, hchk, hact, hfail, hbest⟩ := hp
  obtain ⟨s₁, -, -, -, hread, -⟩ := h s 0 0 h0 .add .f32 .ordinary .dflt .normal (.v 6) plainV2 (.v 8) wideLoad .read
    (fun _ => 0x06) (fun _ => 0x80000000) ps (fun l => l == 1) 1 (.inl ⟨rfl, rfl, .inl rfl⟩) (by decide)
    (readyFor_of (by decide +kernel)) hecc hbuf hpart hchk hact hfail hbest
  obtain ⟨-, -, hload, -⟩ := hread rfl
  have hacts : Acting s 0 0 h0 (.v 6) 0 := ⟨⟨by decide, by decide +kernel⟩, fun h => nomatch h⟩
  exact not_loadIs_of_wide (by decide +kernel) _ _ _ (hload 0 hacts rfl)

/-- Refutes O34: its first conjunct fails. -/
theorem not_failingLanesTrap : ¬Obligations.FailingLanesTrap := fun h => not_failingGlobalLanes h.1

end Sys2Proof.Claims
end

section
/-! Issues of the forms beyond formOf: what an issue leaves of a group that its act has updated (04 R90 step 5, R97), in
the terms of GroupFrame. -/

namespace Sys2Proof.Claims
open Sys2Proof.Machine

/-! Serial mode (04 R97). -/

theorem length_dedup_congr {α : Type} [DecidableEq α] {xs ys : List α} (h : ∀ y, y ∈ xs ↔ y ∈ ys) :
    xs.dedup.length = ys.dedup.length := by
  refine List.Perm.length_eq ((List.perm_ext_iff_of_nodup (List.nodup_dedup _) (List.nodup_dedup _)).mpr fun y => ?_)
  rw [List.mem_dedup, List.mem_dedup, h]

/-- A list that takes in what it does not hold yet ends with as many elements as there were different ones. -/
theorem length_collect {α : Type} [DecidableEq α] (xs : List α) :
    ∀ a : List α, a.Nodup → (xs.foldl (fun a x => if a.contains x then a else x :: a) a).length = (a ++ xs).dedup.length := by
  induction xs with
  | nil => intro a ha; simp [List.dedup_eq_self.mpr ha]
  | cons x xs ih =>
    intro a ha
    rw [List.foldl_cons]
    by_cases hx : x ∈ a
    · rw [if_pos (by simpa using hx), ih a ha]
      refine length_dedup_congr fun y => ?_
      simp only [List.mem_append, List.mem_cons]
      have : y = x → y ∈ a := fun h => h ▸ hx
      tauto
    · rw [if_neg (by simpa using hx), ih (x :: a) (List.nodup_cons.mpr ⟨hx, ha⟩)]
      refine length_dedup_congr fun y => ?_
      simp only [List.mem_append, List.mem_cons]
      tauto

theorem lanes_not (m : Lanes) : lanes (~~~m) = (List.range 32).filter fun l => !m.getLsbD l := by
  unfold lanes
  refine List.filter_congr fun l hl => ?_
  rw [BitVec.getLsbD_not, decide_eq_true (List.mem_range.mp hl), Bool.true_and]

/-- The count of entries that serial mode turns on. -/
theorem distinctPcs_eq_places (g : Group) : distinctPcs g = places g := by
  have hinj : Function.Injective fun x : DWord => x.toNat := fun _ _ h => BitVec.eq_of_toNat_eq h
  have hfold := length_collect ((lanes (~~~g.exited)).map fun l => (g.pcv.get l).toNat) [] List.nodup_nil
  rw [List.foldl_map, List.nil_append] at hfold
  rw [distinctPcs, places, ← lanes_not]
  refine hfold.trans ?_
  have hm : ((lanes (~~~g.exited)).map fun l => (g.pcv.get l).toNat) =
      ((lanes (~~~g.exited)).map fun l => g.pcv.get l).map fun x => x.toNat := by rw [List.map_map]; rfl
  rw [hm, List.dedup_map_of_injective hinj, List.length_map]

theorem countSerial_div (x : Word) : (countSerial x).toNat / 2 ^ 16 = min (x.toNat / 2 ^ 16 + 1) 0xFFFF := by
  have hx := x.isLt
  simp only [countSerial, setFld, fld, Nat.shiftRight_eq_div_pow, Nat.shiftLeft_eq, BitVec.toNat_ofNat]
  omega

theorem serialRule_updateSerial {x g : Group} (hs : g.serial = x.serial) (he : serialEvents g = serialEvents x) :
    SerialRule x (updateSerial g) := by
  have hp : places (updateSerial g) = places g := by rw [updateSerial_eq]; rfl
  refine ⟨?_, ?_⟩ <;> rw [← hs] <;> try rw [hp]
  · unfold updateSerial
    simp only [distinctPcs_eq_places]
    cases hx : g.serial <;> simp <;> split <;> simp_all
  · rw [← he]
    unfold updateSerial
    simp only [distinctPcs_eq_places]
    cases hx : g.serial
    · by_cases h8 : 8 < places g
      · simpa [h8, serialEvents] using countSerial_div g.gstat
      · simp [h8, hx]
    · by_cases h4 : places g ≤ 4 <;> simp [h4, hx, serialEvents]

/-! Updates of a group within an issue. -/

/-- An update of a group that keeps serial mode and its count besides what Upd keeps. -/
structure Writes (f : Form) (E : Lanes) (x y : Group) : Prop extends Upd f E x y where
  serial : y.serial = x.serial
  events : serialEvents y = serialEvents x

theorem Writes.refl (f : Form) (E : Lanes) (x : Group) : Writes f E x x := ⟨Upd.refl f E x, rfl, rfl⟩

theorem Writes.trans {f : Form} {E : Lanes} {x y z : Group} (a : Writes f E x y) (b : Writes f E y z) : Writes f E x z :=
  ⟨a.toUpd.trans b.toUpd, b.serial.trans a.serial, b.events.trans a.events⟩

theorem regSet_serial (r : Reg) (l x k : Nat) (g : Group) : (regSet r l x k g).serial = g.serial := by
  induction k with
  | zero => rfl
  | succ k ih => cases r <;> exact ih

theorem writeRegG_serial (E : Lanes) (d : Reg) (k : Nat) (v : Nat → Nat) (g : Group) :
    (writeRegG E d k v g).serial = g.serial := by
  have hfold : ∀ (r : Reg) (ls : List Nat) (g : Group), (ls.foldl (fun g l => regSet r l (v l) k g) g).serial = g.serial := by
    intro r ls
    induction ls with
    | nil => intro g; rfl
    | cons l ls ih => intro g; exact (ih _).trans (regSet_serial _ _ _ _ _)
  unfold writeRegG
  cases d with
  | v n => exact hfold (.v n) _ g
  | s n => dsimp only; split
           · rfl
           · exact regSet_serial _ _ _ _ _

/-- A register write for some lanes of E. -/
theorem writes_writeReg {f : Form} {E m : Lanes} {d : Reg} {k : Nat} (v : Nat → Nat) (g : Group) (hw : (d, k) ∈ f.writes)
    (hm : ∀ l, m.getLsbD l = true → E.getLsbD l = true) : Writes f E g (writeRegG m d k v g) := by
  have hu : Upd f m g (writeRegG m d k v g) := upd_writeReg v g hw
  have hV : ∀ r l, ¬WritesV f.writes E r l → ¬WritesV f.writes m r l := fun r l hn h => hn ⟨hm l h.1, h.2⟩
  have hS : ∀ r, ¬WritesS f.writes E r → ¬WritesS f.writes m r := by
    refine fun r hn h => hn ⟨fun hE => h.1 ?_, h.2⟩
    subst hE
    exact BitVec.eq_of_getLsbD_eq fun l _ => by
      cases hx : m.getLsbD l
      · simp
      · simpa using hm l hx
  refine ⟨⟨hu.rest, hu.waits, hu.pcv, fun r l hl h => hu.vreg r l hl (hV r l h), fun r h => hu.sreg r (hS r h), fun i l h => ?_,
    hu.draw, hu.rng, hu.flags⟩, writeRegG_serial _ _ _ _ _, ?_⟩
  · exact hu.pred i l fun hx => h ⟨hm l hx.1, hx.2⟩
  · rw [serialEvents, writeRegG_gstat, serialEvents]

theorem serialEvents_or_low (x : Word) (b : Flags) : (x ||| b.setWidth 32).toNat / 2 ^ 16 = x.toNat / 2 ^ 16 := by
  have hb : b.toNat / 2 ^ 16 = 0 := Nat.div_eq_of_lt (lt_trans b.isLt (by decide))
  have hs : (b.setWidth 32).toNat = b.toNat := by
    rw [BitVec.toNat_setWidth, Nat.mod_eq_of_lt (lt_trans b.isLt (by decide))]
  rw [BitVec.toNat_or, hs, ← Nat.shiftRight_eq_div_pow, Nat.shiftRight_or_distrib, Nat.shiftRight_eq_div_pow,
    Nat.shiftRight_eq_div_pow, hb, Nat.or_zero]

theorem writes_setFlags {f : Form} {E : Lanes} (b : Flags) (g : Group) (hf : f.flags = false → b = 0) :
    Writes f E g (setFlagsG b g) :=
  ⟨upd_orFlags' b g hf, rfl, serialEvents_or_low g.gstat b⟩

/-! The frame of a completed issue. -/

section
variable {f : Form} {s s' : State} {t g size o : Nat} {c : Ctx} {G : Group}

theorem advances_of_issue (hI : c.I = (s.grp t g).issueSet) (hn : c.next = successor s t g size)
    (hG : s'.grp t g = issueGroup c h o G) (hx : G.exited = (s.grp t g).exited) (hp : G.pcv = (s.grp t g).pcv) :
    Advances s s' t g size := by
  intro l
  rw [hG, issueGroup_pcv, get_setLanes, hI, hx, hp, BitVec.getLsbD_and, BitVec.getLsbD_not]
  constructor
  · rintro ⟨hl, hb⟩
    rw [if_pos ⟨hl, by rw [hb, inI_not_exited hl hb]; simp [hl]⟩, hn]
  · intro hn
    rw [if_neg]
    rintro ⟨hl, hb⟩
    exact hn ⟨hl, (Bool.and_eq_true_iff.mp hb).1⟩

/-- In its group, an issue whose act has updated it to G leaves what a memory form may (GroupFrame). -/
theorem groupFrame_of_issue (ht : t < s'.teams.length) (hg : g < (s'.team t).groups.length)
    (hG : s'.grp t g = issueGroup (ctxOf s t g f.hdr size) f.hdr o G)
    (hw : Writes f (eligible s t g f.hdr) (s.grp t g) G) : GroupFrame f s s' t g size := by
  have hs0 : (s'.modGrp t g fun _ => s.grp t g).grp t g = s.grp t g := State.grp_modGrp_same _ ht hg
  have hE : eligible (s'.modGrp t g fun _ => s.grp t g) t g f.hdr = eligible s t g f.hdr := by rw [eligible, hs0, eligible]
  have hadv : Advances s s' t g size := advances_of_issue rfl rfl hG (exited_of_restOf hw.rest) hw.pcv
  have hout : OnlyGroup (s'.modGrp t g fun _ => s.grp t g) s' t g := by
    rw [OnlyGroup, State.modGrp_modGrp, State.modGrp_congr s' t g (f' := fun x => x) rfl, State.modGrp_id]
  have hrule : SerialRule (s.grp t g) (s'.grp t g) := by
    rw [hG]
    obtain ⟨hmode, hcount⟩ := serialRule_updateSerial (g := noteMoved o (ctxOf s t g f.hdr size).I
      { G with pcv := setLanes G.pcv ((ctxOf s t g f.hdr size).I &&& ~~~G.exited) fun _ => (ctxOf s t g f.hdr size).next })
      hw.serial hw.events
    exact ⟨hmode, hcount⟩
  unfold GroupFrame
  refine ⟨hout, ?_, ?_, ?_, ?_, ?_, ?_, ?_, ?_, ?_, ?_⟩
  · rw [hs0, hG, restOf_issueGroup, hw.rest]
  · intro l
    unfold InE InI successor
    rw [hE, hs0]
    refine ⟨fun hl => ?_, fun hl _ => (hadv l).1 hl, (hadv l).2⟩
    refine (hadv l).1 ⟨hl.1, ?_⟩
    have := hl.2
    rw [eligible, BitVec.getLsbD_and, Bool.and_eq_true] at this
    exact this.1
  · intro r l hl hn
    rw [hE] at hn
    rw [hs0, hG, issueGroup_v]
    exact hw.vreg r l hl hn
  · intro r hn
    rw [hE] at hn
    rw [hs0, hG, issueGroup_s]
    exact hw.sreg r hn
  · intro i l hn
    rw [hE] at hn
    rw [hs0, hG, issueGroup_pred]
    exact hw.pred i l hn
  · intro l _
    rw [hs0, hG, issueGroup_draw, hw.draw]
  · intro l _
    rw [hs0, hG, issueGroup_rng, hw.rng]
  · rw [hs0, hG]
    refine ⟨fun hf i hi => ?_, fun i hi hb => ?_⟩
    · rw [issueGroup_gstat _ _ _ _ _ hi, hw.flags.1 hf]
    · rw [issueGroup_gstat _ _ _ _ _ hi]
      exact hw.flags.2 i hb
  · rw [hs0]
    exact hrule
  · unfold successor
    rw [hs0, hG]
    rfl

end

end Sys2Proof.Claims
end

section
/-! The issue of a SIMT form whose act advances, traps or holds, as one update of the state that the act has made (04 R90
steps 4 and 5). -/

namespace Sys2Proof.Claims
open Sys2Proof.Machine

section
variable {i : Instr} {s s₁ : State} {t g size : Nat} {h : Hdr} {us : List Use} {act : Ctx → State → Act}

theorem Issuing.exists (hI : Issuing s t g) : Exists s t g := by
  obtain ⟨-, hi, -⟩ := hI
  obtain ⟨ht, hg, -⟩ := canIssue_spec hi
  exact ⟨ht, hg⟩

/-- The state in which an issue ends that advances, where the act has made s₁ (04 R90 step 5). -/
def advanced (s s₁ : State) (t g : Nat) (h : Hdr) (size : Nat) : State :=
  s₁.modGrp t g (issueGroup (ctxOf s t g h size) h s₁.tick)

theorem grp_advanced (s : State) (h : Hdr) (size : Nat) (he : Exists s₁ t g) :
    (advanced s s₁ t g h size).grp t g = issueGroup (ctxOf s t g h size) h s₁.tick (s₁.grp t g) :=
  State.grp_modGrp_same _ he.1 he.2

theorem Exists.modGrp {t' g' : Nat} (he : Exists s t g) (F : Group → Group) : Exists (s.modGrp t' g' F) t g := by
  have hlen := State.team_modGrp_congr s t' g' t F (fun tm => tm.groups.length) fun tm => Team.modGroup_length _ _ _
  exact ⟨by simpa using he.1, lt_of_lt_of_eq he.2 hlen.symm⟩

/-- A SIMT form whose act lets its lanes advance, in the state s₁ that the act makes; with E empty s₁ is the state before. -/
theorem simt_advances (hx : exec i s = simt h size us noPriv act s) (hI : Issuing s t g)
    (hr : rangeOk (s.launchOf t) h us = true)
    (ha : (if eligible s t g h = 0 then .adv s else act (ctxOf s t g h size) s) = .adv s₁) (he : Exists s₁ t g)
    (hs₁ : (s₁.grp t g).soft = []) : exec i s = .next (advanced s s₁ t g h size) := by
  obtain ⟨hc, hi, hs⟩ := hI
  have hp := simt_acts (size := size) (priv := noPriv) (act := act) hc hi hs hr rfl
  rw [show (if (ctxOf s t g h size).E = 0 then .adv s else act (ctxOf s t g h size) s) = .adv s₁ from ha] at hp
  rw [hx, hp]
  exact congrArg _ (perform_adv_self (c := ctxOf s t g h size) (h := h) (us := us) (s := s₁) he.1 he.2 hs₁)

end

/-! Instructions without a register result. -/

theorem restOf_handler {x y : Group} (h : restOf y = restOf x) : y.handler = x.handler := by
  have := congrArg Group.handler h
  simpa only [restOf] using this

/-- An issue that may change what the group waits for and its view of CTR_BASE, and no register. -/
theorem keepsGroup_of_issue {s s' : State} {t g size o : Nat} {h : Hdr} {dr : Option (List Nat)} {ctr : CtrView}
    (hG : s'.grp t g = issueGroup (ctxOf s t g h size) h o { s.grp t g with drain := dr, ctr := ctr }) :
    KeepsGroup s s' t g size := by
  have hadv : Advances s s' t g size := advances_of_issue rfl rfl hG rfl rfl
  have hr : restOf (s'.grp t g) = restOf { s.grp t g with drain := dr, ctr := ctr } := by rw [hG, restOf_issueGroup]
  simp only [restOf, Group.mk.injEq] at hr
  refine ⟨⟨?_, ?_, ?_, ?_, ?_, ?_, fun i hi => ?_⟩, ?_, ?_, ?_, ?_, ?_, hadv⟩
  · rw [hG, issueGroup_v]
  · rw [hG, issueGroup_s]
  · rw [hG, issueGroup_p]
  · tauto
  · rw [hG, issueGroup_draw]
  · rw [hG, issueGroup_rng]
  · rw [hG, issueGroup_gstat _ _ _ _ _ hi]
  all_goals tauto

theorem named_addrUse (k : Nat) (a : Addr) : ∀ u ∈ addrUse k a, Named (ofAddr k a) u := by
  obtain ⟨base, form⟩ := a
  unfold addrUse ofAddr
  split <;> simp [Named]

theorem Named.mono {rs rs' : List (Reg × Nat)} (h : ∀ x ∈ rs, x ∈ rs') : ∀ {u : Use}, Named rs u → Named rs' u
  | .rd _ _, hu => h _ hu
  | .wr _ _, hu => h _ hu
  | .tile _, hu => hu
  | .pd _, _ => trivial
  | .tk _, _ => trivial
  | .wp _, _ => trivial
  | .wt _, _ => trivial

/-- The uses of an address are among the declared registers of a form that lists it last. -/
theorem rangeOk_append_addrUse {s : State} {t k : Nat} {h : Hdr} {rs : List (Reg × Nat)} {us : List Use} {a : Addr}
    (hd : Declared s t h (rs ++ ofAddr k a)) (hu : ∀ u ∈ us, Named rs u) :
    rangeOk (s.launchOf t) h (us ++ addrUse k a) = true := by
  refine rangeOk_of_named hd (List.forall_mem_append.mpr ⟨fun u hm => ?_, fun u hm => ?_⟩)
  · exact (hu u hm).mono fun x hx => List.mem_append_left _ hx
  · exact (named_addrUse k a u hm).mono fun x hx => List.mem_append_right _ hx

end Sys2Proof.Claims
end

section
/-! Stores that wait (10 Table 10.1): what becoming due, being performed, and a fence change of them. -/

namespace Sys2Proof.Claims
open Sys2Proof.Machine

/-! Association lists. -/

theorem kGet_kSet_same {α : Type} (m : List (Nat × α)) (a : Nat) (x : α) : kGet (kSet m a x) a = some x := by
  induction m with
  | nil => simp [kSet, kGet]
  | cons e m ih =>
    obtain ⟨k, v⟩ := e
    unfold kSet
    by_cases h1 : a < k
    · simp [h1, kGet]
    · by_cases h2 : k = a
      · simp [h2, kGet]
      · simp [h1, h2, kGet, ih]

theorem kGet_kSet_ne {α : Type} (m : List (Nat × α)) {a b : Nat} (x : α) (h : a ≠ b) : kGet (kSet m a x) b = kGet m b := by
  induction m with
  | nil => simp [kSet, kGet, h]
  | cons e m ih =>
    obtain ⟨k, v⟩ := e
    unfold kSet
    by_cases h1 : a < k
    · simp [h1, kGet, h]
    · by_cases h2 : k = a
      · subst h2
        simp [kGet, h]
      · simp [h1, h2, kGet, ih]

theorem mem_of_kGet {α : Type} {m : List (Nat × α)} {a : Nat} {x : α} (h : kGet m a = some x) : (a, x) ∈ m := by
  induction m with
  | nil => simp [kGet] at h
  | cons e m ih =>
    obtain ⟨k, v⟩ := e
    unfold kGet at h
    split at h
    · next hk => cases hk; cases h; simp
    · exact List.mem_cons_of_mem _ (ih h)

/-! Scopes. -/

theorem rank_le_wider_left (a b : Scope) : scopeRank a ≤ scopeRank (wider a b) := by
  unfold wider; split <;> omega
theorem rank_le_wider_right (a b : Scope) : scopeRank b ≤ scopeRank (wider a b) := by
  unfold wider; split <;> omega

theorem rank_le_sys (a : Scope) : scopeRank a ≤ scopeRank .sys := by cases a <;> decide

/-- What a scope reaches, a wider one does. -/
theorem Pending.reaches_mono {q : Pending} {a b : Scope} {o : Observer} (h : scopeRank a ≤ scopeRank b)
    (hr : q.reaches a o = true) : q.reaches b o = true := by
  have h1 : (scopeRank b == 1) = true ∨ 2 ≤ scopeRank b ∨ scopeRank b = 0 := by
    rcases Nat.lt_trichotomy (scopeRank b) 1 with h | h | h
    · exact Or.inr (Or.inr (by omega))
    · exact Or.inl (by simpa using h)
    · exact Or.inr (Or.inl h)
  have h4 : scopeRank b ≤ 4 := rank_le_sys b
  cases o with
  | lanes t g ls =>
    simp only [Pending.reaches, Bool.and_eq_true, Bool.or_eq_true, decide_eq_true_eq, beq_iff_eq] at hr ⊢
    refine ⟨?_, hr.2⟩
    rcases hr.1 with h2 | ⟨ht, h2 | hg⟩
    · exact Or.inl (by omega)
    · rcases Nat.lt_or_ge (scopeRank b) 2 with hb | hb
      · exact Or.inr ⟨ht, Or.inl (by omega)⟩
      · exact Or.inl hb
    · exact Or.inr ⟨ht, Or.inr hg⟩
  | seq t =>
    simp only [Pending.reaches, Bool.and_eq_true, Bool.or_eq_true, decide_eq_true_eq, beq_iff_eq] at hr ⊢
    rcases hr with h2 | ⟨h2, ht⟩
    · exact Or.inl (by omega)
    · rcases Nat.lt_or_ge (scopeRank b) 2 with hb | hb
      · exact Or.inr ⟨by omega, ht⟩
      · exact Or.inl hb
  | part => simp only [Pending.reaches, decide_eq_true_eq] at hr ⊢; omega
  | peer => simp only [Pending.reaches, decide_eq_true_eq] at hr ⊢; omega
  | host => simp only [Pending.reaches, beq_iff_eq] at hr ⊢; omega

/-! Becoming due. -/

/-- A scope at least as wide as sc. -/
def AtLeast (sc : Scope) (x : Option Scope) : Prop := ∃ c, x = some c ∧ scopeRank sc ≤ scopeRank c

/-- The scope that one listed number gives a store, in dueScope. -/
def dueStep (q : Pending) (a : Option Scope) (e : Nat × Scope) : Option Scope :=
  if e.1 == q.id then (match a with
    | some sc => some (wider sc e.2)
    | none => some e.2) else a

theorem dueScope_eq (ids : List (Nat × Scope)) (q : Pending) : dueScope ids q = ids.foldl (dueStep q) q.due := rfl

theorem atLeast_dueStep {sc : Scope} {q : Pending} {a : Option Scope} (e : Nat × Scope) (h : AtLeast sc a) :
    AtLeast sc (dueStep q a e) := by
  obtain ⟨c, rfl, hc⟩ := h
  unfold dueStep
  split
  · exact ⟨_, rfl, hc.trans (rank_le_wider_left _ _)⟩
  · exact ⟨c, rfl, hc⟩

theorem atLeast_foldl_dueStep {sc : Scope} {q : Pending} (ids : List (Nat × Scope)) {a : Option Scope} (h : AtLeast sc a) :
    AtLeast sc (ids.foldl (dueStep q) a) := by
  induction ids generalizing a with
  | nil => exact h
  | cons e ids ih => exact ih (atLeast_dueStep e h)

/-- A store that is due stays so, at least for the same threads. -/
theorem atLeast_dueScope_of_due {sc : Scope} {q : Pending} (ids : List (Nat × Scope)) (h : AtLeast sc q.due) :
    AtLeast sc (dueScope ids q) := atLeast_foldl_dueStep ids h

/-- A listed store becomes due for the threads of the scope listed. -/
theorem atLeast_dueScope_of_mem {sc c : Scope} {ids : List (Nat × Scope)} {q : Pending} (hm : (q.id, c) ∈ ids)
    (hc : scopeRank sc ≤ scopeRank c) : AtLeast sc (dueScope ids q) := by
  rw [dueScope_eq]
  generalize q.due = a
  induction ids generalizing a with
  | nil => simp at hm
  | cons e ids ih =>
    rcases List.mem_cons.mp hm with rfl | hm
    · refine atLeast_foldl_dueStep ids ?_
      unfold dueStep
      rw [if_pos (by simp)]
      cases a with
      | none => exact ⟨c, rfl, hc⟩
      | some x => exact ⟨_, rfl, hc.trans (rank_le_wider_right _ _)⟩
    · exact ih hm _

theorem due_none_of_dueScope {ids : List (Nat × Scope)} {q : Pending} (h : dueScope ids q = none) : q.due = none := by
  cases hd : q.due with
  | none => rfl
  | some c =>
    obtain ⟨x, hx, -⟩ := atLeast_dueScope_of_due (sc := c) ids ⟨c, hd, Nat.le_refl _⟩
    rw [h] at hx
    cases hx

theorem filter_three_perm {α : Type} (p q : α → Bool) (hpq : ∀ x, q x = true → p x = false) (b : List α) :
    (b.filter p ++ b.filter q ++ b.filter fun x => !(p x) && !(q x)).Perm b := by
  have h1 : ((b.filter fun x => !(p x)).filter q ++ (b.filter fun x => !(p x)).filter fun x => !(q x)).Perm
      (b.filter fun x => !(p x)) := List.filter_append_perm _ _
  have h3 : (b.filter fun x => !(p x)).filter q = b.filter q := by
    rw [List.filter_filter]
    exact List.filter_congr fun x _ => by cases hq : q x <;> simp [hpq, hq]
  have h4 : (b.filter fun x => !(p x)).filter (fun x => !(q x)) = b.filter fun x => !(p x) && !(q x) := by
    rw [List.filter_filter]
    exact List.filter_congr fun x _ => Bool.and_comm _ _
  rw [h3, h4] at h1
  rw [List.append_assoc]
  exact (List.Perm.append_left _ h1).trans (List.filter_append_perm _ _)

/-- A store with the scope that some numbers give it. -/
def dueBy (ids : List (Nat × Scope)) (q : Pending) : Pending := { q with due := dueScope ids q }

theorem dueBy_eq_self {ids : List (Nat × Scope)} {q : Pending} (h : dueScope ids q = none) : dueBy ids q = q := by
  have hd := due_none_of_dueScope h
  obtain ⟨⟩ := q
  simp only [dueBy] at hd ⊢
  rw [h, hd]

theorem dueScope_none_iff (ids : List (Nat × Scope)) (q : Pending) :
    (dueScope ids q).isNone = (!q.due.isSome && !(q.due.isNone && (dueScope ids q).isSome)) := by
  cases hd : q.due with
  | none => simp
  | some c =>
    have : dueScope ids q ≠ none := fun h => by rw [due_none_of_dueScope h] at hd; cases hd
    simp [this, Option.isSome_iff_ne_none]

/-- The same stores wait after some have become due, each with the scope that the numbers give it. -/
theorem setDue_perm (ids : List (Nat × Scope)) (b : List Pending) : (setDue ids b).Perm (b.map (dueBy ids)) := by
  have hperm := filter_three_perm (fun q : Pending => q.due.isSome) (fun q => q.due.isNone && (dueScope ids q).isSome)
    (fun q h => by simpa using (Bool.and_eq_true_iff.mp h).1) b
  have hlast : (b.filter fun q => !q.due.isSome && !(q.due.isNone && (dueScope ids q).isSome)) =
      b.filter fun q => (dueScope ids q).isNone := List.filter_congr fun q _ => (dueScope_none_iff ids q).symm
  have hmap : (b.filter fun q => (dueScope ids q).isNone).map (dueBy ids) = b.filter fun q => (dueScope ids q).isNone :=
    (List.map_congr_left fun q hq => dueBy_eq_self (by simpa using (List.mem_filter.mp hq).2)).trans (List.map_id _)
  rw [hlast] at hperm
  have := hperm.map (dueBy ids)
  rwa [List.map_append, List.map_append, hmap] at this

theorem mem_setDue {ids : List (Nat × Scope)} {b : List Pending} {r : Pending} :
    r ∈ setDue ids b ↔ ∃ q ∈ b, r = dueBy ids q := by
  rw [(setDue_perm ids b).mem_iff, List.mem_map]
  exact ⟨fun ⟨q, hq, h⟩ => ⟨q, hq, h.symm⟩, fun ⟨q, hq, h⟩ => ⟨q, hq, h.symm⟩⟩

/-! What a release, a fence or a store puts before a later access. -/

/-- The scope noted for a number that may be listed already. -/
def notedScope (x : Option Scope) (sc : Scope) : Scope := x.elim sc fun a => wider a sc

theorem kGet_noteScope (ids : List (Nat × Scope)) (e : Nat × Scope) (a : Nat) :
    kGet (noteScope ids e) a = if e.1 = a then some (notedScope (kGet ids a) e.2) else kGet ids a := by
  unfold noteScope
  by_cases h : e.1 = a
  · subst h
    rw [kGet_kSet_same, if_pos rfl]
    cases kGet ids e.1 <;> rfl
  · rw [kGet_kSet_ne _ _ h, if_neg h]

theorem atLeast_noteScope {sc : Scope} {ids : List (Nat × Scope)} {a : Nat} (e : Nat × Scope) (h : AtLeast sc (kGet ids a)) :
    AtLeast sc (kGet (noteScope ids e) a) := by
  obtain ⟨c, hk, hc⟩ := h
  rw [kGet_noteScope]
  split
  · rw [hk]
    exact ⟨_, rfl, hc.trans (rank_le_wider_left _ _)⟩
  · exact ⟨c, hk, hc⟩

theorem atLeast_noteScope_self {sc c : Scope} (ids : List (Nat × Scope)) (a : Nat) (hc : scopeRank sc ≤ scopeRank c) :
    AtLeast sc (kGet (noteScope ids (a, c)) a) := by
  rw [kGet_noteScope, if_pos rfl]
  cases kGet ids a with
  | none => exact ⟨c, rfl, hc⟩
  | some x => exact ⟨_, rfl, hc.trans (rank_le_wider_right _ _)⟩

theorem atLeast_foldl_noteScope {sc : Scope} {a : Nat} (es : List (Nat × Scope)) {ids : List (Nat × Scope)}
    (h : AtLeast sc (kGet ids a)) : AtLeast sc (kGet (es.foldl noteScope ids) a) := by
  induction es generalizing ids with
  | nil => exact h
  | cons e es ih => exact ih (atLeast_noteScope e h)

/-- A store that is selected stands among the numbers, for its scope at least. -/
theorem atLeast_orderedBefore {sc : Scope} {sel : Pending → Option Scope} {b : List Pending} {q : Pending} (hq : q ∈ b)
    (hs : AtLeast sc (sel q)) : AtLeast sc (kGet (orderedBefore sel b) q.id) := by
  have hkeep : ∀ (b : List Pending) (ids : List (Nat × Scope)), AtLeast sc (kGet ids q.id) →
      AtLeast sc (kGet (b.foldl (fun ids q => match sel q with
        | some sc => (q.pre.map fun e => (e.1, narrower e.2 sc)).foldl noteScope (noteScope ids (q.id, sc))
        | none => ids) ids) q.id) := by
    intro b
    induction b with
    | nil => intro ids h; exact h
    | cons x b ih =>
      intro ids h
      rw [List.foldl_cons]
      refine ih _ ?_
      cases sel x with
      | none => exact h
      | some c => exact atLeast_foldl_noteScope _ (atLeast_noteScope _ h)
  unfold orderedBefore
  generalize ([] : List (Nat × Scope)) = ids
  induction b generalizing ids with
  | nil => simp at hq
  | cons x b ih =>
    rw [List.foldl_cons]
    rcases List.mem_cons.mp hq with rfl | hq
    · refine hkeep b _ ?_
      obtain ⟨c, hc, hr⟩ := hs
      rw [hc]
      exact atLeast_foldl_noteScope _ (atLeast_noteScope_self ids _ hr)
    · exact ih hq _

theorem atLeast_due_of_orderedBefore {sc : Scope} {sel : Pending → Option Scope} {b : List Pending} {q r : Pending} (hq : q ∈ b)
    (hs : AtLeast sc (sel q)) (hr : r.id = q.id) : AtLeast sc (dueScope (orderedBefore sel b) r) := by
  obtain ⟨c, hk, hc⟩ := atLeast_orderedBefore hq hs
  exact atLeast_dueScope_of_mem (hr ▸ mem_of_kGet hk) hc

/-! Performing. -/

/-- A store apart from for whom it is performed. -/
def seedOf (q : Pending) : Pending := { q with due := none }

/-- Every store of b' is one of b, at most with other threads for whom it is performed. -/
def From (b b' : List Pending) : Prop := ∀ r ∈ b', ∃ q ∈ b, seedOf r = seedOf q

theorem From.refl (b : List Pending) : From b b := fun r hr => ⟨r, hr, rfl⟩

theorem From.trans {a b c : List Pending} (h : From a b) (h' : From b c) : From a c := fun r hr => by
  obtain ⟨q, hq, e⟩ := h' r hr
  obtain ⟨p, hp, e'⟩ := h q hq
  exact ⟨p, hp, e.trans e'⟩

theorem from_setDue (ids : List (Nat × Scope)) (b : List Pending) : From b (setDue ids b) := fun r hr => by
  obtain ⟨q, hq, rfl⟩ := mem_setDue.mp hr
  exact ⟨q, hq, rfl⟩

theorem from_foldl {α : Type} (f : State → α → State) (hf : ∀ s x, From s.buffer (f s x).buffer) (xs : List α) :
    ∀ s : State, From s.buffer (xs.foldl f s).buffer := by
  induction xs with
  | nil => exact fun s => From.refl _
  | cons x xs ih => exact fun s => (hf s x).trans (ih _)

/-- What is performed before the waiting store q. -/
def performFirst (fuel : Nat) (q : Pending) (id : Nat) (s : State) : State :=
  ((s.buffer.takeWhile fun e => e.id != id).filter fun e => mustPrecede e q).foldl (fun s e => performStore fuel e.id s) s

theorem performStore_none {fuel id : Nat} {s : State} (h : (s.buffer.find? fun q => q.id == id) = none) :
    performStore (fuel + 1) id s = s := by
  simp only [performStore, h]

theorem performStore_some {fuel id : Nat} {s : State} {q : Pending} (h : (s.buffer.find? fun q => q.id == id) = some q) :
    performStore (fuel + 1) id s = { performFirst fuel q id s with
      mem := Store.writeBytes (performFirst fuel q id s).mem q.addr q.bytes
      buffer := setDue q.pre (without (performFirst fuel q id s).buffer fun e => e.id == id) } := by
  simp only [performStore, h]
  rfl

theorem from_without (b : List Pending) (p : Pending → Bool) : From b (without b p) :=
  fun r hr => ⟨r, (List.mem_filter.mp hr).1, rfl⟩

theorem from_performStore (fuel : Nat) : ∀ (id : Nat) (s : State), From s.buffer (performStore fuel id s).buffer := by
  induction fuel with
  | zero => exact fun id s => From.refl _
  | succ fuel ih =>
    intro id s
    cases hf : s.buffer.find? fun q => q.id == id with
    | none => rw [performStore_none hf]; exact From.refl _
    | some q =>
      rw [performStore_some hf]
      have hfirst : From s.buffer (performFirst fuel q id s).buffer := from_foldl _ (fun s e => ih _ s) _ s
      exact hfirst.trans ((from_without _ _).trans (from_setDue _ _))

theorem seedOf_id {q r : Pending} (h : seedOf r = seedOf q) : r.id = q.id := congrArg (·.id) h

/-- A store that is performed waits no more. -/
theorem performStore_removes (fuel id : Nat) (s : State) : ∀ r ∈ (performStore (fuel + 1) id s).buffer, r.id ≠ id := by
  intro r hr
  cases hf : s.buffer.find? fun q => q.id == id with
  | none =>
    rw [performStore_none hf] at hr
    simpa using List.find?_eq_none.mp hf r hr
  | some q =>
    rw [performStore_some hf] at hr
    obtain ⟨x, hx, rfl⟩ := mem_setDue.mp hr
    have hne := (List.mem_filter.mp hx).2
    simpa [dueBy] using hne

theorem performStores_removes (sel : Pending → Bool) (s : State) {q : Pending} (hq : q ∈ s.buffer) (hs : sel q = true) :
    ∀ r ∈ (performStores sel s).buffer, r.id ≠ q.id := by
  have hfold : ∀ (xs : List Pending) (s : State), q ∈ xs →
      ∀ r ∈ (xs.foldl (fun s q => performStore (s.buffer.length + 1) q.id s) s).buffer, r.id ≠ q.id := by
    intro xs
    induction xs with
    | nil => simp
    | cons x xs ih =>
      intro s hm r hr
      rcases List.mem_cons.mp hm with rfl | hm
      · obtain ⟨y, hy, e⟩ := from_foldl (fun s q => performStore (s.buffer.length + 1) q.id s)
          (fun s e => from_performStore _ _ _) xs _ r hr
        rw [seedOf_id e]
        exact performStore_removes _ q.id s y hy
      · exact ih _ hm r hr
  exact hfold _ s (List.mem_filter.mpr ⟨hq, hs⟩)

theorem from_performStores (sel : Pending → Bool) (s : State) : From s.buffer (performStores sel s).buffer :=
  from_foldl _ (fun _ _ => from_performStore _ _ _) _ s

theorem from_observe (o : Observer) (rs : List Span) (s : State) : From s.buffer (observe o rs s).buffer := by
  unfold observe
  split
  · exact from_performStores _ s
  · exact From.refl _

theorem reaches_of_seedOf {q r : Pending} (h : seedOf r = seedOf q) (sc : Scope) (o : Observer) : r.reaches sc o = q.reaches sc o :=
  show (seedOf r).reaches sc o = (seedOf q).reaches sc o by rw [h]
theorem meets_of_seedOf {q r : Pending} (h : seedOf r = seedOf q) (rs : List Span) : r.meets rs = q.meets rs :=
  show (seedOf r).meets rs = (seedOf q).meets rs by rw [h]
theorem ofLanes_of_seedOf {q r : Pending} (h : seedOf r = seedOf q) (t g : Nat) (ls : Lanes) :
    r.ofLanes t g ls = q.ofLanes t g ls :=
  show (seedOf r).ofLanes t g ls = (seedOf q).ofLanes t g ls by rw [h]

/-- After an observer has met some bytes, no store waits there that was performed as far as it can tell. -/
theorem observe_leaves {o : Observer} {rs : List Span} {s : State} {r : Pending} (hr : r ∈ (observe o rs s).buffer) :
    ∃ q ∈ s.buffer, seedOf r = seedOf q ∧ (q.dueFor o && q.meets rs) = false := by
  obtain ⟨q, hq, e⟩ := from_observe o rs s r hr
  refine ⟨q, hq, e, ?_⟩
  by_contra hne
  have hsel : (q.dueFor o && q.meets rs) = true := by simpa using hne
  unfold observe at hr
  rw [if_pos (List.any_eq_true.mpr ⟨q, hq, hsel⟩)] at hr
  exact performStores_removes (fun q => q.dueFor o && q.meets rs) s hq hsel r hr (seedOf_id e)

/-- One waiting store, performed. -/
theorem performStores_single {q : Pending} {s : State} (hb : s.buffer = [q]) {sel : Pending → Bool} (hs : sel q = true) :
    (performStores sel s).mem = Store.writeBytes s.mem q.addr q.bytes := by
  unfold performStores
  rw [hb]
  simp [hs, performStore, hb]

end Sys2Proof.Claims
end

section
/-! FENCE, CCTL and DRAIN (08 R206, R208, R209). -/

namespace Sys2Proof.Claims
open Sys2Proof.Machine

/-! Releases and fences. -/

theorem undue_of_seedOf {q r : Pending} (h : seedOf r = seedOf q) : undue r = undue q := by
  have : undue r = undue (seedOf r) := rfl
  rw [this, h]; rfl

theorem release_buffer (sel : Pending → Bool) (sc : Scope) (s : State) : (release sel sc s).buffer =
    if s.buffer.any sel then setDue (orderedBefore (fun q => if sel q then some sc else none) s.buffer) s.buffer else s.buffer := by
  unfold release
  split <;> rfl

theorem release_eq (sel : Pending → Bool) (sc : Scope) (s : State) :
    release sel sc s = { s with buffer := (release sel sc s).buffer } := by
  unfold release
  split <;> rfl

/-- After a release the same stores wait. -/
theorem release_perm (sel : Pending → Bool) (sc : Scope) (s : State) :
    ((release sel sc s).buffer.map undue).Perm (s.buffer.map undue) := by
  rw [release_buffer]
  split
  · refine ((setDue_perm _ _).map undue).trans ?_
    rw [List.map_map]
    exact List.Perm.refl _
  · exact List.Perm.refl _

/-- After a release the stores named are performed for the threads of the scope. -/
theorem release_due {sel : Pending → Bool} {sc : Scope} {s : State} (hsel : ∀ q r, seedOf r = seedOf q → sel r = sel q)
    {r : Pending} (hr : r ∈ (release sel sc s).buffer) (hs : sel r = true) : AtLeast sc r.due := by
  rw [release_buffer] at hr
  split at hr
  · obtain ⟨q, hq, rfl⟩ := mem_setDue.mp hr
    have hq' : sel q = true := (hsel q (dueBy _ q) rfl).symm.trans hs
    exact atLeast_due_of_orderedBefore hq ⟨sc, by simp [hq'], Nat.le_refl _⟩ rfl
  · next hany => exact absurd (List.any_eq_true.mpr ⟨r, hr, hs⟩) hany

theorem dueFor_of_due {q : Pending} {c : Scope} (h : q.due = some c) (o : Observer) : q.dueFor o = q.reaches c o := by
  simp only [Pending.dueFor, h]

theorem released_releaseLanes {t g : Nat} {ls : Lanes} {sc : Scope} {s s' : State}
    (hb : s'.buffer = (releaseLanes t g ls sc s).buffer) (hm : s'.mem = s.mem) : Released t g ls sc s s' := by
  have hdue : ∀ r ∈ s'.buffer, r.ofLanes t g ls = true → AtLeast sc r.due := fun r hr h =>
    release_due (sel := fun q => q.ofLanes t g ls) (fun q r e => ofLanes_of_seedOf e t g ls) (hb ▸ hr) h
  refine ⟨hb ▸ release_perm _ sc s, hdue, fun o rs r hr hl hm => ?_, fun o rs q hq hl hme hre a => ?_⟩
  · obtain ⟨q, hq, e, hn⟩ := observe_leaves hr
    obtain ⟨c, hc, hrank⟩ := hdue q hq ((ofLanes_of_seedOf e t g ls).symm.trans hl)
    by_contra hreach
    have hq' : q.reaches c o = true := Pending.reaches_mono hrank ((reaches_of_seedOf e sc o).symm.trans (by simpa using hreach))
    rw [dueFor_of_due hc, hq', ← meets_of_seedOf e, hm] at hn
    cases hn
  · have hq' : ∃ q', s'.buffer = [q'] ∧ seedOf q' = seedOf q := by
      rw [hb, releaseLanes, release_buffer, hq]
      split
      · have hp := setDue_perm (orderedBefore (fun q => if q.ofLanes t g ls then some sc else none) [q]) [q]
        exact ⟨_, List.perm_singleton.mp hp, rfl⟩
      · exact ⟨q, rfl, rfl⟩
    obtain ⟨q', hb', e⟩ := hq'
    obtain ⟨c, hc, hrank⟩ := hdue q' (by simp [hb']) ((ofLanes_of_seedOf e t g ls).trans hl)
    have hsel : (q'.dueFor o && q'.meets rs) = true := by
      rw [dueFor_of_due hc, meets_of_seedOf e, hme, Bool.and_true]
      exact Pending.reaches_mono hrank ((reaches_of_seedOf e sc o).trans hre)
    have ha : q'.addr = q.addr := congrArg (·.addr) e
    have hbs : q'.bytes = q.bytes := congrArg (·.bytes) e
    unfold observe
    rw [if_pos (List.any_eq_true.mpr ⟨q', by simp [hb'], hsel⟩), performStores_single hb' hsel, Store.get_writeBytes, ha, hbs, hm]

/-- A store as a fence of some lanes leaves it. -/
def fenceOf (t g : Nat) (ls : Lanes) (sc : Scope) (q : Pending) : Pending :=
  if q.ofLanes t g ls then { q with fenced := some (match q.fenced with
    | some a => wider a sc
    | none => sc) } else q

theorem fenceLanes_buffer (t g : Nat) (ls : Lanes) (sc : Scope) (s : State) :
    (fenceLanes t g ls sc s).buffer = s.buffer.map (fenceOf t g ls sc) := rfl

theorem fenceOf_id (t g : Nat) (ls : Lanes) (sc : Scope) (q : Pending) : (fenceOf t g ls sc q).id = q.id := by
  unfold fenceOf; split <;> rfl

theorem fenceOf_fenced {t g : Nat} {ls : Lanes} {sc : Scope} {q : Pending} (h : q.ofLanes t g ls = true) :
    AtLeast sc (fenceOf t g ls sc q).fenced := by
  rw [fenceOf, if_pos h]
  cases q.fenced with
  | none => exact ⟨sc, rfl, Nat.le_refl _⟩
  | some a => exact ⟨_, rfl, rank_le_wider_right _ _⟩

theorem fenceOf_ofLanes (t g : Nat) (ls : Lanes) (sc : Scope) (q : Pending) (t' g' : Nat) (ls' : Lanes) :
    (fenceOf t g ls sc q).ofLanes t' g' ls' = q.ofLanes t' g' ls' := by
  unfold fenceOf; split <;> rfl

/-- What stands before a new store of the same thread as a fenced one: the fenced store, for the scope of its fence at least. -/
theorem pendStore_pre {s : State} {p r : Pending} {before : Option Scope} {sc : Scope} (hr : r ∈ s.buffer)
    (hp : p.eng = none) (hl : r.ofLanes p.team p.group p.lanes = true) (hf : AtLeast sc r.fenced) :
    ∃ q, (pendStore p before s).buffer = s.buffer ++ [q] ∧ q.id = s.nextStore ∧
      ∀ x : Pending, x.id = r.id → AtLeast sc (dueScope q.pre x) := by
  refine ⟨_, rfl, rfl, fun x hx => ?_⟩
  refine atLeast_due_of_orderedBefore hr ?_ hx
  have hthread : r.sameThread { p with id := s.nextStore } = true := by simp [Pending.sameThread, hp, hl]
  obtain ⟨b, hb, hrank⟩ := hf
  simp only [hthread, if_true]
  split
  · exact ⟨.sys, rfl, rank_le_sys sc⟩
  · rw [hb]
    cases before with
    | none => exact ⟨b, rfl, hrank⟩
    | some a => exact ⟨_, rfl, hrank.trans (rank_le_wider_right _ _)⟩

/-- Performing a store that has a number of its own makes due what stands before it. -/
theorem performStores_makes_due {s : State} {b : List Pending} {q : Pending} {n : Nat} {sc : Scope} {r : Pending}
    (hb : s.buffer = b ++ [q]) (hq : q.id = n) (hn : ∀ x ∈ b, x.id < n)
    (hpre : ∀ x : Pending, x.id = r.id → AtLeast sc (dueScope q.pre x)) :
    ∀ r' ∈ (performStores (fun x => x.id == n) s).buffer, r'.id = r.id → AtLeast sc r'.due := by
  have hfilter : s.buffer.filter (fun x => x.id == n) = [q] := by
    rw [hb, List.filter_append, List.filter_eq_nil_iff.mpr fun x hx => by simpa using Nat.ne_of_lt (hn x hx)]
    simp [hq]
  have hfind : (s.buffer.find? fun x => x.id == n) = some q := by
    rw [← List.head?_filter, hfilter]; rfl
  unfold performStores
  rw [hfilter, List.foldl_cons, List.foldl_nil, hq, performStore_some hfind]
  intro r' hr' hid
  obtain ⟨x, hx, rfl⟩ := mem_setDue.mp hr'
  exact hpre x hid

theorem fenced_fenceLanes {t g : Nat} {ls : Lanes} {sc : Scope} {s s' : State}
    (hb : s'.buffer = (fenceLanes t g ls sc s).buffer) (hn : s'.nextStore = s.nextStore) : Fenced t g ls sc s s' := by
  rw [fenceLanes_buffer] at hb
  refine ⟨?_, ?_, fun k q r hq hr => ?_, fun p before hp hpt hpg hlt r hr hls hlp r' hr' hid => ?_⟩
  · rw [hb, List.map_map]
    refine List.map_congr_left fun q _ => ?_
    simp only [Function.comp, fenceOf]
    split <;> rfl
  · rw [hb, List.map_map]
    refine List.map_congr_left fun q _ => ?_
    simp only [Function.comp, fenceOf]
    split <;> rfl
  · rw [hb, List.getElem?_map, hq] at hr
    cases hr
    split
    · next h => exact fenceOf_fenced h
    · next h => rw [fenceOf, if_neg h]
  · have hm : fenceOf t g ls sc r ∈ s'.buffer := by rw [hb]; exact List.mem_map_of_mem hr
    obtain ⟨q, hbq, hq, hpre⟩ := pendStore_pre (before := before) hm hp
      (by rw [fenceOf_ofLanes, hpt, hpg]; exact hlp) (fenceOf_fenced hls)
    refine performStores_makes_due hbq (hq.trans hn) ?_ hpre r' hr' (hid.trans (fenceOf_id _ _ _ _ _).symm)
    intro x hx
    rw [hb] at hx
    obtain ⟨y, hy, rfl⟩ := List.mem_map.mp hx
    rw [fenceOf_id]
    exact hlt y hy

/-! The instructions. -/

section
variable {s : State} {t g : Nat} {h : Hdr}

theorem ReadyFor.rangeOk_nil {i : Instr} {n : Names} (hR : ReadyFor i s t g) (hn : namesOf i = some n) :
    rangeOk (s.launchOf t) n.hdr [] = true := by
  obtain ⟨-, hd⟩ := hR
  exact rangeOk_of_named (hd n hn).1 (by simp)

/-- The state of a fence: its act changes the waiting stores alone. -/
theorem fenceAct_eq (o : Order) (sc : Scope) (c : Ctx) (s : State) :
    ∃ b, fenceAct o sc c s = .adv { s with buffer := b } ∧
      (o = .acq → b = s.buffer) ∧ (o = .sc → b = (releaseLanes c.t c.g c.E sc s).buffer) ∧
      (o = .rel ∨ o = .ar → b = (fenceLanes c.t c.g c.E sc s).buffer) := by
  cases o
  case sc => exact ⟨_, congrArg Act.adv (release_eq _ _ _), by simp, fun _ => rfl, by simp⟩
  case rel => exact ⟨_, rfl, by simp, by simp, fun _ => rfl⟩
  case ar => exact ⟨_, rfl, by simp, by simp, fun _ => rfl⟩
  case ordinary => exact ⟨s.buffer, rfl, by simp, by simp, by simp⟩
  case acq => exact ⟨s.buffer, rfl, fun _ => rfl, by simp, by simp⟩
  all_goals exact ⟨s.buffer, rfl, by simp, by simp, by simp⟩

theorem fence_completes {o : Order} {sc : Scope} (hR : ReadyFor (.fence h o sc) s t g) (hE : eligible s t g h ≠ 0) :
    ∃ s', exec (.fence h o sc) s = .next s' ∧ OnlyGroup { s with buffer := s'.buffer } s' t g ∧
      KeepsGroup s s' t g (Instr.size (.fence h o sc)) ∧ (o = .acq → s'.buffer = s.buffer) ∧
      (o = .sc → Released t g (eligible s t g h) sc s s') ∧
      (o = .rel ∨ o = .ar → Fenced t g (eligible s t g h) sc s s') := by
  obtain ⟨b, hact, hacq, hsc, hrel⟩ := fenceAct_eq o sc (ctxOf s t g h (Instr.size (.fence h o sc))) s
  have hI := hR.1
  obtain ⟨ht, hg⟩ := hI.exists
  have hx := simt_advances (i := .fence h o sc) (us := []) (act := fenceAct o sc) (s₁ := { s with buffer := b }) rfl hI
    (show rangeOk (s.launchOf t) h [] = true from hR.rangeOk_nil (n := ⟨h, [], []⟩) rfl) (by rw [if_neg hE, hact]) ⟨ht, hg⟩ hI.2.2
  have hG := grp_advanced (t := t) (g := g) (s₁ := { s with buffer := b }) s h (Instr.size (.fence h o sc)) ⟨ht, hg⟩
  refine ⟨_, hx, ?_, keepsGroup_of_issue hG, hacq, fun e => ?_, fun e => ?_⟩
  · exact State.modGrp_congr _ _ _ hG.symm
  · exact released_releaseLanes (hsc e) rfl
  · exact fenced_fenceLanes (hrel e) rfl

/-- A group that waits for some commands, and sees CTR_BASE as it is at a version. -/
def waitOn (dr : Option (List Nat)) (ctr : CtrView) (gr : Group) : Group := { gr with drain := dr, ctr := ctr }

/-- An issue of a form without a register result whose act leaves the group with at most another DRAIN and another view of
CTR_BASE. -/
theorem keeps_of_simt {i : Instr} {us : List Use} {act : Ctx → State → Act} {dr : Option (List Nat)} {ctr : CtrView}
    (hx : exec i s = simt h i.size us noPriv act s) (hI : Issuing s t g) (hr : rangeOk (s.launchOf t) h us = true)
    (hE : eligible s t g h ≠ 0) (ha : act (ctxOf s t g h i.size) s = .adv (s.modGrp t g (waitOn dr ctr))) :
    ∃ s', exec i s = .next s' ∧ OnlyGroup s s' t g ∧ KeepsGroup s s' t g i.size ∧ (s'.grp t g).drain = dr := by
  have he := hI.exists
  have hG₁ : (s.modGrp t g (waitOn dr ctr)).grp t g = waitOn dr ctr (s.grp t g) := State.grp_modGrp_same _ he.1 he.2
  have hx' := simt_advances hx hI hr (by rw [if_neg hE, ha]) (he.modGrp _) (by rw [hG₁]; exact hI.2.2)
  have hG := grp_advanced s h i.size (he.modGrp (t' := t) (g' := g) (waitOn dr ctr))
  rw [hG₁] at hG
  refine ⟨_, hx', ?_, keepsGroup_of_issue hG, ?_⟩
  · rw [OnlyGroup, hG, advanced, State.modGrp_modGrp]
    exact State.modGrp_congr _ _ _ rfl
  · have hrest := congrArg Group.drain (restOf_issueGroup (ctxOf s t g h i.size) h s.tick (waitOn dr ctr (s.grp t g)))
    rw [hG]
    exact hrest

theorem waitOn_self (s : State) (t g : Nat) :
    s.modGrp t g (waitOn (s.grp t g).drain (s.grp t g).ctr) = s :=
  (State.modGrp_congr s t g (f' := fun x => x) rfl).trans (State.modGrp_id s t g)

/-- CCTL changes nothing. -/
theorem cctl_completes {i : Instr} {ad : Addr} (hx : exec i s = cctlForm h i.size ad s)
    (hn : namesOf i = some ⟨h, ofAddr 2 ad, []⟩) (hR : ReadyFor i s t g) (hE : eligible s t g h ≠ 0) :
    ∃ s', exec i s = .next s' ∧ OnlyGroup s s' t g ∧ KeepsGroup s s' t g i.size := by
  obtain ⟨hI, hd⟩ := hR
  have hr : rangeOk (s.launchOf t) h (addrUse 2 ad) = true := rangeOk_append_addrUse (rs := []) (us := []) (hd _ hn).1 (by simp)
  obtain ⟨s', hx', ho, hk, -⟩ := keeps_of_simt hx hI hr hE (dr := (s.grp t g).drain) (ctr := (s.grp t g).ctr)
    (congrArg Act.adv (waitOn_self s t g).symm)
  exact ⟨s', hx', ho, hk⟩

/-! DRAIN. -/

theorem mem_openCommands {d : Dest} {k : Nat} : k ∈ openCommands s t d ↔ Outstanding s t d k := by
  unfold openCommands Outstanding
  rw [List.mem_filter, List.mem_range]
  constructor
  · rintro ⟨hk, hb⟩
    rw [List.getElem?_eq_getElem hk] at hb ⊢
    simp only [Bool.and_eq_true, Option.isNone_iff_eq_none, beq_iff_eq] at hb
    exact ⟨_, rfl, hb.1.1, hb.1.2, hb.2⟩
  · rintro ⟨c, hc, hs, hw, hcore⟩
    obtain ⟨hk, -⟩ := List.getElem?_eq_some_iff.mp hc
    refine ⟨hk, ?_⟩
    rw [hc]
    simp [hs, hw, hcore]

theorem seeCommands_eq (t g : Nat) (sel : Nat → Cmd → Bool) (s : State) :
    ∃ v, seeCommands t g sel s = s.modGrp t g fun gr => { gr with ctr := laterCtr gr.ctr v } := ⟨_, rfl⟩

theorem openCommands_modGrp (d : Dest) (F : Group → Group) : openCommands (s.modGrp t g F) t d = openCommands s t d := by
  have hdie : ((s.modGrp t g F).team t).die = (s.team t).die := State.team_modGrp_congr s t g t F Team.die fun _ => rfl
  have hcore : ((s.modGrp t g F).team t).core = (s.team t).core := State.team_modGrp_congr s t g t F Team.core fun _ => rfl
  simp only [openCommands, State.modGrp_cmds, hdie, hcore]

/-- What a DRAIN's act makes of its group: it waits for the outstanding commands, if there are some. -/
theorem drainAct_eq (d : Dest) (c : Ctx) (hn : (s.grp c.t c.g).drain = none) : ∃ ctr,
    drainAct d c s = .adv (s.modGrp c.t c.g
      (waitOn (if openCommands s c.t d = [] then none else some (openCommands s c.t d)) ctr)) := by
  obtain ⟨v, hv⟩ := seeCommands_eq c.t c.g (fun _ x => writesTo x.kind d) s
  refine ⟨laterCtr (s.grp c.t c.g).ctr v, ?_⟩
  unfold drainAct
  simp only [hv, openCommands_modGrp, State.modGrp_modGrp]
  cases ho : openCommands s c.t d with
  | nil => exact congrArg Act.adv (State.modGrp_congr _ _ _ (by simp [waitOn, hn]))
  | cons x xs => exact congrArg Act.adv (State.modGrp_congr _ _ _ (by simp [waitOn]))

theorem drain_completes {i : Instr} {d : Dest} (hx : exec i s = simt h i.size [] noPriv (drainAct d) s)
    (hn : namesOf i = some ⟨h, [], []⟩) (hR : ReadyFor i s t g) (hE : eligible s t g h ≠ 0) :
    ∃ s', exec i s = .next s' ∧ OnlyGroup s s' t g ∧ KeepsGroup s s' t g i.size ∧
      ((∀ k, ¬Outstanding s t d k) → (s'.grp t g).drain = none) ∧
      ∀ k, Outstanding s t d k → canIssue s' t g = false ∧
        ∃ ls, (s'.grp t g).drain = some ls ∧ ∀ j, j ∈ ls ↔ Outstanding s t d j := by
  obtain ⟨-, hi, -⟩ := hR.1
  obtain ⟨-, -, -, -, -, -, hdr, -⟩ := canIssue_spec hi
  obtain ⟨ctr, ha⟩ := drainAct_eq d (ctxOf s t g h i.size) (s := s) hdr
  obtain ⟨s', hx', ho, hk, hd⟩ := keeps_of_simt hx hR.1 (hR.rangeOk_nil hn) hE ha
  refine ⟨s', hx', ho, hk, fun hno => ?_, fun k hk' => ?_⟩
  · have : openCommands s t d = [] := List.eq_nil_iff_forall_not_mem.mpr fun k hm => hno k (mem_openCommands.mp hm)
    rw [hd]
    exact if_pos this
  · have hne : openCommands s t d ≠ [] := List.ne_nil_of_mem (mem_openCommands.mpr hk')
    have hd' : (s'.grp t g).drain = some (openCommands s t d) := hd.trans (if_neg hne)
    refine ⟨?_, _, hd', fun j => mem_openCommands⟩
    by_contra hcan
    obtain ⟨-, -, -, -, -, -, hnone, -⟩ := canIssue_spec (by simpa using hcan)
    rw [hd'] at hnone
    cases hnone

/-- DRAIN_COMPLETE lets the group go once each of the commands has completed. -/
theorem drainComplete_completes {ls : List Nat} (hd : (s.grp t g).drain = some ls)
    (hall : ∀ k ∈ ls, ∀ c, s.cmds[k]? = some c → c.status.isSome = true) :
    ∃ s', exec (.drainComplete t g) s = .next s' ∧ OnlyGroup s s' t g ∧
      s'.grp t g = { s.grp t g with drain := none, ctr := (s'.grp t g).ctr } := by
  have he : Exists s t g := by
    by_contra hne
    have hdef : s.grp t g = {} := by
      unfold State.grp Team.group
      rw [List.getD_eq_getElem?_getD, List.getElem?_eq_none, Option.getD_none]
      by_cases ht : t < s.teams.length
      · exact Nat.le_of_not_lt fun hg => hne ⟨ht, hg⟩
      · rw [State.team_ge ht]; exact Nat.zero_le _
    rw [hdef] at hd
    cases hd
  obtain ⟨v, hv⟩ := seeCommands_eq t g (fun i _ => ls.contains i) (s.modGrp t g fun gr => { gr with drain := none })
  have hx : exec (.drainComplete t g) s = .next (s.modGrp t g fun gr => { gr with drain := none, ctr := laterCtr gr.ctr v }) := by
    show execDrainComplete t g s = _
    unfold execDrainComplete
    rw [hd]
    dsimp only
    rw [if_pos, hv, State.modGrp_modGrp]
    refine List.all_eq_true.mpr fun k hk => ?_
    cases hc : s.cmds[k]? with
    | none => rfl
    | some c => exact hall k hk c hc
  have hG := State.grp_modGrp_same (fun gr => { gr with drain := none, ctr := laterCtr gr.ctr v }) he.1 he.2
  refine ⟨_, hx, ?_, ?_⟩
  · rw [OnlyGroup, hG]
    exact State.modGrp_congr _ _ _ rfl
  · rw [hG]

theorem drainComplete_waits {ls : List Nat} (hd : (s.grp t g).drain = some ls) {k : Nat} (hk : k ∈ ls) {c : Cmd}
    (hc : s.cmds[k]? = some c) (hs : c.status = none) : exec (.drainComplete t g) s = .next s := by
  show execDrainComplete t g s = _
  unfold execDrainComplete
  rw [hd]
  dsimp only
  rw [if_neg]
  intro hall
  have := List.all_eq_true.mp hall k hk
  rw [hc] at this
  simp [hs] at this

end

/-- Settles O37: a fence by what it makes of each waiting store, DRAIN by the commands that are outstanding. -/
theorem fenceDrainCacheComplete : Obligations.FenceDrainCacheComplete := by
  refine ⟨fun s t g h o sc _ hR hE => fence_completes hR hE, fun s t g i n hn hR hE => ⟨?_, ?_⟩, fun s t g ls hd =>
    ⟨drainComplete_completes hd, fun k hk c hc hs => drainComplete_waits hd hk hc hs⟩⟩
  · rintro ⟨h, ad, rfl | rfl | rfl⟩ <;> cases hn
    · exact cctl_completes rfl rfl hR hE
    · exact cctl_completes rfl rfl hR hE
    · exact cctl_completes rfl rfl hR hE
  · rintro h d (⟨rfl, rfl⟩ | ⟨rfl, rfl⟩ | ⟨rfl, rfl⟩) <;> cases hn
    · exact drain_completes rfl rfl hR hE
    · exact drain_completes rfl rfl hR hE
    · exact drain_completes rfl rfl hR hE

end Sys2Proof.Claims
end

section
/-! What a memory instruction may change (Patch): the group, the windows and TOUCHED_DIES of its team, memory and the waiting
stores; and its lanes one after the other (04 R93). -/

namespace Sys2Proof.Claims
open Sys2Proof.Machine

/-! Patches. -/

/-- The parts of a state that a memory instruction of group g of team t may change. -/
structure Patch where
  group : Group
  scratch : Store 8
  tiles : List Tile
  rows : List SelRow
  touched : BitVec 4
  mem : Memory
  buffer : List Pending
  nextStore : Nat

/-- What stands in these parts. -/
def patchOf (s : State) (t g : Nat) : Patch :=
  { group := s.grp t g, scratch := (s.team t).scratch, tiles := (s.team t).tiles, rows := (s.team t).rows,
    touched := (s.team t).touched, mem := s.mem, buffer := s.buffer, nextStore := s.nextStore }

/-- The team with its parts replaced. -/
def patchTeam (g : Nat) (q : Patch) (tm : Team) : Team :=
  { tm.modGroup g (fun _ => q.group) with scratch := q.scratch, tiles := q.tiles, rows := q.rows, touched := q.touched }

/-- The state with its parts replaced. -/
def patch (s : State) (t g : Nat) (q : Patch) : State :=
  { s.modTeam t (patchTeam g q) with mem := q.mem, buffer := q.buffer, nextStore := q.nextStore }

section
variable {s : State} {t g : Nat}

theorem team_patch (he : Exists s t g) (q : Patch) : (patch s t g q).team t = patchTeam g q (s.team t) :=
  State.team_modTeam_same _ he.1

theorem grp_patch (he : Exists s t g) (q : Patch) : (patch s t g q).grp t g = q.group := by
  rw [State.grp, team_patch he]
  exact Team.group_modGroup_same _ he.2

theorem patchOf_patch (he : Exists s t g) (q : Patch) : patchOf (patch s t g q) t g = q := by
  rw [patchOf, grp_patch he, team_patch he]
  rfl

theorem Exists.patch (he : Exists s t g) (q : Patch) : Exists (patch s t g q) t g := by
  refine ⟨lt_of_lt_of_eq he.1 (State.modTeam_length _ _ _).symm, ?_⟩
  rw [team_patch he]
  exact lt_of_lt_of_eq he.2 (Team.modGroup_length _ _ _).symm

theorem patch_patch (s : State) (t g : Nat) (q q' : Patch) : patch (patch s t g q) t g q' = patch s t g q' := by
  have hteam : (fun tm => patchTeam g q' (patchTeam g q tm)) = patchTeam g q' := by
    funext tm
    simp only [patchTeam, Team.modGroup, List.modify_modify_eq]
    rfl
  have := State.modTeam_modTeam s t (patchTeam g q) (patchTeam g q')
  rw [hteam] at this
  have hteams : ((s.modTeam t (patchTeam g q)).modTeam t (patchTeam g q')).teams = (s.modTeam t (patchTeam g q')).teams := by rw [this]
  simp only [patch, State.modTeam, State.mk.injEq, true_and, and_true] at hteams ⊢
  exact hteams

theorem patch_patchOf (s : State) (t g : Nat) : patch s t g (patchOf s t g) = s := by
  have : s.modTeam t (patchTeam g (patchOf s t g)) = s := by
    refine (State.modTeam_congr s t (f' := fun x => x) ?_).trans (State.modTeam_id s t)
    have hgrp : (s.team t).modGroup g (fun _ => s.grp t g) = s.team t :=
      (Team.modGroup_congr _ g (f' := fun x => x) rfl).trans (by simp only [Team.modGroup, modify_id])
    rw [patchTeam, patchOf, hgrp]
  rw [patch, this]
  rfl

/-- Nothing but these parts has changed. -/
def Framed (s s' : State) (t g : Nat) : Prop := ∃ q, s' = patch s t g q

theorem Framed.refl (s : State) (t g : Nat) : Framed s s t g := ⟨_, (patch_patchOf s t g).symm⟩

theorem Framed.trans {a b c : State} (h : Framed a b t g) (h' : Framed b c t g) : Framed a c t g := by
  obtain ⟨q, rfl⟩ := h
  obtain ⟨q', rfl⟩ := h'
  exact ⟨q', patch_patch _ _ _ _ _⟩

theorem Framed.exists {s' : State} (h : Framed s s' t g) (he : Exists s t g) : Exists s' t g := by
  obtain ⟨q, rfl⟩ := h
  exact he.patch q

theorem framed_modGrp (s : State) (t g : Nat) (F : Group → Group) : Framed s (s.modGrp t g F) t g := by
  refine ⟨{ patchOf s t g with group := F (s.grp t g) }, ?_⟩
  have hteam : patchTeam g { patchOf s t g with group := F (s.grp t g) } (s.team t) = (s.team t).modGroup g F := by
    rw [← Team.modGroup_congr (s.team t) g (f := fun _ => F (s.grp t g)) (f' := F) rfl]
    rfl
  rw [patch, State.modTeam_congr s t (f' := fun tm => tm.modGroup g F) hteam]
  rfl

/-- A team changed in its windows and TOUCHED_DIES. -/
theorem framed_modTeam (s : State) (t g : Nat) (F : Team → Team)
    (hF : F (s.team t) = { s.team t with
      scratch := (F (s.team t)).scratch, tiles := (F (s.team t)).tiles, rows := (F (s.team t)).rows
      touched := (F (s.team t)).touched }) : Framed s (s.modTeam t F) t g := by
  refine ⟨{ patchOf s t g with
      scratch := (F (s.team t)).scratch, tiles := (F (s.team t)).tiles, rows := (F (s.team t)).rows
      touched := (F (s.team t)).touched }, ?_⟩
  have hgrp : (s.team t).modGroup g (fun _ => s.grp t g) = s.team t :=
    (Team.modGroup_congr _ g (f' := fun x => x) rfl).trans (by simp only [Team.modGroup, modify_id])
  have hteam : F (s.team t) = patchTeam g { patchOf s t g with
      scratch := (F (s.team t)).scratch, tiles := (F (s.team t)).tiles, rows := (F (s.team t)).rows
      touched := (F (s.team t)).touched } (s.team t) := by
    rw [patchTeam]
    simp only [patchOf, hgrp]
    exact hF
  rw [patch, ← State.modTeam_congr s t hteam]
  rfl

theorem framed_global (s : State) (t g : Nat) (m : Memory) (b : List Pending) (n : Nat) :
    Framed s { s with mem := m, buffer := b, nextStore := n } t g := by
  refine ⟨{ patchOf s t g with mem := m, buffer := b, nextStore := n }, ?_⟩
  have := patch_patchOf s t g
  simp only [patch, State.modTeam] at this ⊢
  have hteams : s.teams.modify t (patchTeam g (patchOf s t g)) = s.teams := congrArg State.teams this
  simp only [State.mk.injEq, true_and, and_true]
  exact hteams.symm

section
variable {s' : State}

theorem Framed.eq_patch (h : Framed s s' t g) (he : Exists s t g) : s' = Sys2Proof.Claims.patch s t g (patchOf s' t g) := by
  obtain ⟨q, rfl⟩ := h
  rw [patchOf_patch he]

theorem Framed.onlyGlobal (h : Framed s s' t g) (he : Exists s t g) (h1 : (s'.team t).scratch = (s.team t).scratch)
    (h2 : (s'.team t).tiles = (s.team t).tiles) (h3 : (s'.team t).rows = (s.team t).rows)
    (h4 : (s.team t).touched &&& (s'.team t).touched = (s.team t).touched) : OnlyGlobal s s' t g := by
  refine ⟨?_, h4⟩
  rw [State.modGrp, State.modTeam_modTeam]
  have := State.modTeam_congr s t (f := patchTeam g (patchOf s' t g)) (f' := fun x => Team.modGroup { x with
      touched := (s'.team t).touched } g fun _ => s'.grp t g) (by simp only [patchTeam, patchOf, h1, h2, h3]; rfl)
  rw [← this]
  exact h.eq_patch he

theorem Framed.onlyWindows (h : Framed s s' t g) (he : Exists s t g) (h1 : s'.mem = s.mem) (h2 : s'.buffer = s.buffer)
    (h3 : s'.nextStore = s.nextStore) (h4 : (s'.team t).touched = (s.team t).touched) : OnlyWindows s s' t g := by
  rw [OnlyWindows, State.modGrp, State.modTeam_modTeam]
  have := State.modTeam_congr s t (f := patchTeam g (patchOf s' t g)) (f' := fun x => Team.modGroup { x with
    scratch := (s'.team t).scratch, tiles := (s'.team t).tiles, rows := (s'.team t).rows } g fun _ => s'.grp t g)
    (by simp only [patchTeam, patchOf, h4]; rfl)
  rw [← this]
  refine (h.eq_patch he).trans ?_
  simp only [patch, patchOf, h1, h2, h3]
  rfl

end

end

end Sys2Proof.Claims
end

section
/-! The lanes of a memory instruction one after the other (04 R93), and what its registers hold after each. -/

namespace Sys2Proof.Claims
open Sys2Proof.Machine

/-! The lanes that act (08 R201). -/

/-- Lane l acts for the register d among the lanes E. -/
def acts (E : Lanes) (d : Reg) (l : Nat) : Bool := E.getLsbD l && (!regUni d || l == lowest E)

theorem acting_iff {s : State} {t g : Nat} {h : Hdr} {d : Reg} {l : Nat} :
    Acting s t g h d l ↔ l < 32 ∧ acts (eligible s t g h) d l = true := by
  simp only [Acting, InE, acts, Bool.and_eq_true, Bool.or_eq_true, Bool.not_eq_true', beq_iff_eq, and_assoc]
  cases regUni d <;> simp

theorem take_one_filter {α : Type} [BEq α] [LawfulBEq α] {xs : List α} (hn : xs.Nodup) (x : α) :
    xs.take 1 = xs.filter fun y => y == xs.headD x := by
  cases xs with
  | nil => rfl
  | cons y ys =>
    have hnil : (ys.filter fun z => z == y) = [] := by
      refine List.filter_eq_nil_iff.mpr fun z hz => ?_
      have : y ∉ ys := (List.nodup_cons.mp hn).1
      simpa using fun e : z = y => this (e ▸ hz)
    simp [hnil]

/-- The lanes that an instruction goes through: those that act, ascending. -/
theorem actors_eq (E : Lanes) (d : Reg) :
    (if onceReg d then (lanes E).take 1 else lanes E) = (List.range 32).filter (acts E d) := by
  have hn : (lanes E).Nodup := List.Nodup.filter _ List.nodup_range
  unfold onceReg acts
  cases regUni d
  · simp [lanes]
  · rw [if_pos rfl, take_one_filter hn 0]
    unfold lanes lowest
    rw [List.filter_filter]
    refine List.filter_congr fun l _ => ?_
    simp [Bool.and_comm, lanes]

theorem acts_lowest {E : Lanes} {d : Reg} {l : Nat} (hu : regUni d = true) (h : acts E d l = true) : l = lowest E := by
  simp only [acts, hu, Bool.not_true, Bool.false_or, Bool.and_eq_true, beq_iff_eq] at h
  exact h.2

theorem acts_mem {E : Lanes} {d : Reg} {l : Nat} (h : acts E d l = true) : E.getLsbD l = true :=
  (Bool.and_eq_true_iff.mp h).1

/-- The lane whose value a lane of E finds in d acts. -/
theorem acts_laneOf {E : Lanes} {d : Reg} {l : Nat} (hl : l < 32) (hE : E.getLsbD l = true) :
    laneOf d E l < 32 ∧ acts E d (laneOf d E l) = true := by
  have hne : E ≠ 0 := by rintro rfl; simp at hE
  cases d with
  | v n => exact ⟨hl, by simp [acts, laneOf, regUni, hE]⟩
  | s n =>
    obtain ⟨h1, h2⟩ := lowest_mem hne
    exact ⟨h1, by simp [acts, laneOf, h2]⟩

theorem acting_laneOf {s : State} {t g : Nat} {h : Hdr} {l : Nat} (d : Reg) (hl : InE s t g h l) :
    Acting s t g h d (laneOf d (eligible s t g h) l) := acting_iff.mpr (acts_laneOf hl.1 hl.2)

/-! One lane's register (02 R36). -/

theorem laneBit_ne_zero {l : Nat} (hl : l < 32) : laneBit l ≠ 0 := by
  intro h
  have hb : (laneBit l).getLsbD l = true := by rw [getLsbD_laneBit]; simp [hl]
  rw [h] at hb
  simp at hb

theorem lowest_laneBit {l : Nat} (hl : l < 32) : lowest (laneBit l) = l := by
  obtain ⟨-, hb⟩ := lowest_mem (laneBit_ne_zero hl)
  rw [getLsbD_laneBit, Bool.and_eq_true, decide_eq_true_eq, decide_eq_true_eq] at hb
  exact hb.2

theorem regGet_writeRegG_lane {l : Nat} (hl : l < 32) (d : Reg) (k : Nat) (v : Nat → Nat) (g : Group) :
    regGet (writeRegG (laneBit l) d k v g) d l k = v l % 2 ^ (32 * k) := by
  rw [regGet_writeRegG _ d k v g hl (by simp [hl])]
  cases d with
  | v n => rfl
  | s n => rw [laneOf, lowest_laneBit hl]

/-- Another lane that acts does not write what lane l finds. -/
theorem regGet_writeRegG_other {E : Lanes} {d : Reg} {l m : Nat} (hl : l < 32) (hm : m < 32) (hal : acts E d l = true)
    (ham : acts E d m = true) (hne : l ≠ m) (k : Nat) (v : Nat → Nat) (g : Group) :
    regGet (writeRegG (laneBit m) d k v g) d l k = regGet g d l k := by
  cases hu : regUni d with
  | true => exact absurd ((acts_lowest hu hal).trans (acts_lowest hu ham).symm) hne
  | false =>
    cases d with
    | s n => cases hu
    | v n =>
      have hlanes : ∀ x ∈ lanes (laneBit m), x = m := fun x hx => by
        have := (mem_lanes.mp hx).2
        simp only [getLsbD_laneBit, Bool.and_eq_true, decide_eq_true_eq] at this
        exact this.2
      have hword : ∀ (ls : List Nat), (∀ x ∈ ls, x = m) → ∀ (g : Group) (j : Nat),
          regWord (ls.foldl (fun g l => regSet (.v n) l (v l) k g) g) (.v n) l j = regWord g (.v n) l j := by
        intro ls
        induction ls with
        | nil => exact fun _ g j => rfl
        | cons x ls ih =>
          intro h g j
          rw [List.foldl_cons, ih (fun y hy => h y (List.mem_cons_of_mem _ hy)), h x List.mem_cons_self]
          exact regWord_regSet_lane_ne g n hl hm (Ne.symm hne) _ _ _
      exact regGet_congr (.v n) l k fun j => hword _ hlanes g j

theorem laneBit_mem {E : Lanes} {l : Nat} (h : E.getLsbD l = true) : ∀ k, (laneBit l).getLsbD k = true → E.getLsbD k = true := by
  intro k hk
  simp only [getLsbD_laneBit, Bool.and_eq_true, decide_eq_true_eq] at hk
  exact hk.2 ▸ h

/-! Lane after lane. -/

/-- The state when the acting lanes below n have made their steps. -/
def laneState {α : Type} (p : Nat → Bool) (step : Nat → α → α) (s : α) (n : Nat) : α :=
  ((List.range n).filter p).foldl (fun s l => step l s) s

section
variable {α : Type} {p : Nat → Bool} {step : Nat → α → α} {s : α}

@[simp] theorem laneState_zero : laneState p step s 0 = s := rfl

theorem laneState_succ (n : Nat) :
    laneState p step s (n + 1) = if p n = true then step n (laneState p step s n) else laneState p step s n := by
  unfold laneState
  rw [List.range_succ, List.filter_append, List.foldl_append]
  cases h : p n <;> simp [h]

/-- What holds before, and what each acting lane's step keeps, holds after every lane. -/
theorem laneState_induction {Inv : Nat → α → Prop} (h0 : Inv 0 s)
    (hstep : ∀ n < 32, ∀ a, Inv n a → p n = true → Inv (n + 1) (step n a))
    (hskip : ∀ n < 32, ∀ a, Inv n a → p n = false → Inv (n + 1) a) : ∀ n ≤ 32, Inv n (laneState p step s n) := by
  intro n
  induction n with
  | zero => exact fun _ => h0
  | succ n ih =>
    intro hn
    rw [laneState_succ]
    cases hp : p n
    · simpa using hskip n (by omega) _ (ih (by omega)) hp
    · simpa using hstep n (by omega) _ (ih (by omega)) hp

/-- A store of the state that every acting lane changes, one after the other. -/
theorem laneByLane_of_laneState {β : Type} {acting : Nat → Prop} {does : Nat → β → β → Prop} (view : α → β)
    (hact : ∀ l < 32, acting l ↔ p l = true)
    (hdoes : ∀ l < 32, p l = true → does l (view (laneState p step s l)) (view (step l (laneState p step s l)))) :
    LaneByLane acting (view s) (view (laneState p step s 32)) does := by
  refine ⟨fun n => view (laneState p step s n), rfl, rfl, fun l hl => ⟨fun ha => ?_, fun ha => ?_⟩⟩
  · have hp := (hact l hl).mp ha
    dsimp only
    rw [laneState_succ, if_pos hp]
    exact hdoes l hl hp
  · have hp : ¬p l = true := fun h => ha ((hact l hl).mpr h)
    dsimp only
    rw [laneState_succ, if_neg hp]

end

theorem runLanes_append (f : Nat → State → State × Option Bad) (xs ys : List Nat) (s : State) :
    runLanes f (xs ++ ys) s = ((runLanes f ys (runLanes f xs s).1).1, (runLanes f xs s).2 ++ (runLanes f ys (runLanes f xs s).1).2) := by
  induction xs generalizing s with
  | nil => rfl
  | cons x xs ih =>
    rw [List.cons_append, runLanes, runLanes]
    cases hx : f x s with
    | mk s' b =>
      cases b with
      | none => dsimp only; exact ih s'
      | some b => dsimp only; rw [ih s']; rfl

/-- The lanes of an instruction none of which fails. -/
theorem runLanes_eq_laneState {f : Nat → State → State × Option Bad} {p : Nat → Bool} {step : Nat → State → State} {s : State}
    (h : ∀ n < 32, p n = true → f n (laneState p step s n) = (step n (laneState p step s n), none)) :
    runLanes f ((List.range 32).filter p) s = (laneState p step s 32, []) := by
  have hall : ∀ n ≤ 32, runLanes f ((List.range n).filter p) s = (laneState p step s n, []) := by
    intro n
    induction n with
    | zero => exact fun _ => rfl
    | succ n ih =>
      intro hn
      rw [List.range_succ, List.filter_append, runLanes_append, ih (by omega), laneState_succ]
      cases hp : p n with
      | false => simp [hp, runLanes]
      | true =>
        have := h n (by omega) hp
        simp [hp, runLanes, this]
  exact hall 32 (Nat.le_refl _)

/-- The lanes' registers: each acting lane's step writes its value, which stays. -/
theorem regGet_laneState {p : Nat → Bool} {E : Lanes} {d : Reg} {k t g : Nat} {step : Nat → State → State} {s : State}
    {val : Nat → State → Nat} (hp : ∀ l, p l = acts E d l)
    (hstep : ∀ l < 32, p l = true → ∃ fl, (step l (laneState p step s l)).grp t g =
      setFlagsG fl (writeRegG (laneBit l) d k (fun _ => val l (laneState p step s l)) ((laneState p step s l).grp t g))) :
    ∀ n ≤ 32, ∀ l < n, p l = true →
      regGet ((laneState p step s n).grp t g) d l k = val l (laneState p step s l) % 2 ^ (32 * k) := by
  intro n
  induction n with
  | zero => exact fun _ l hl => absurd hl (Nat.not_lt_zero l)
  | succ n ih =>
    intro hn l hl hpl
    rw [laneState_succ]
    cases hpn : p n with
    | false =>
      have hne : l ≠ n := fun e => by rw [e, hpn] at hpl; cases hpl
      simpa using ih (by omega) l (by omega) hpl
    | true =>
      obtain ⟨fl, hst⟩ := hstep n (by omega) hpn
      rw [if_pos rfl, hst, setFlagsG_regGet]
      by_cases hne : l = n
      · subst hne
        exact regGet_writeRegG_lane (by omega) _ _ _ _
      · rw [regGet_writeRegG_other (by omega) (by omega) ((hp l).symm.trans hpl) ((hp n).symm.trans hpn) hne]
        exact ih (by omega) l (by omega) hpl

/-- A lane of E finds what the lane that acts for it wrote. -/
theorem regGet_laneOf (gr : Group) (d : Reg) (E : Lanes) (l k : Nat) : regGet gr d l k = regGet gr d (laneOf d E l) k := by
  cases d with
  | v n => rfl
  | s n => exact regGet_uniform gr n l _ k

end Sys2Proof.Claims
end

section
/-! Traps of an issue (04 R101, 18 R375) in the terms of Traps: the handler that a group enters, the record that the
supervisor gets. -/

namespace Sys2Proof.Claims
open Sys2Proof.Machine

theorem causeIs_causeOf (tr : Trap) : CauseIs (causeOf tr) tr := by
  have hc : tr.code.toNat < 256 := tr.code.isLt
  have h1 : b2n tr.seq < 2 := by cases tr.seq <;> decide
  have h2 : b2n tr.nest < 2 := by cases tr.nest <;> decide
  simp only [CauseIs, causeOf, pack, BitVec.toNat_ofNat]
  omega

theorem entersHandler_enterHandler (base : DWord) (tr : Trap) (run : Lanes) (x : Group) :
    EntersHandler base tr run x (enterHandler base tr run x) := by
  have hspcv : ∀ l < 32, x.exited.getLsbD l = false →
      (listedPcv tr x).get l = if tr.lanes.getLsbD l then tr.pc else x.pcv.get l := by
    intro l hl hx
    have hbit : (tr.lanes &&& ~~~x.exited).getLsbD l = tr.lanes.getLsbD l := by
      rw [BitVec.getLsbD_and, BitVec.getLsbD_not, hx]
      simp [hl]
    simp only [listedPcv, get_setLanes, hbit, hl, true_and]
  refine ⟨causeIs_causeOf tr, ⟨rfl, rfl, rfl, rfl, rfl, rfl⟩, rfl, hspcv, fun l hl hr => ?_, fun l hl hr hx => ?_, ?_⟩
  · simp only [enterHandler, get_setLanes]
    rw [if_pos ⟨hl, hr⟩]
  · simp only [enterHandler, get_setLanes, hr]
    rw [if_neg (by simp)]
    exact hspcv l hl hx
  · simp [outsideTrap, enterHandler]

/-! The fault record (22 Table 22.1). -/

/-- Field after field of a packed number. -/
theorem pack_field (fs : List (Nat × Nat)) : ∀ (k : Nat) (hk : k < fs.length),
    pack fs / 2 ^ ((fs.take k).map Prod.fst).sum % 2 ^ (fs[k]).1 = (fs[k]).2 % 2 ^ (fs[k]).1 := by
  induction fs with
  | nil => intro k hk; simp at hk
  | cons e fs ih =>
    intro k hk
    obtain ⟨w, v⟩ := e
    cases k with
    | zero => simp [pack, Nat.add_mul_mod_self_left]
    | succ k =>
      have hk' : k < fs.length := by simpa using hk
      simp only [List.take_succ_cons, List.map_cons, List.sum_cons, List.getElem_cons_succ, pack]
      rw [Nat.pow_add, ← Nat.div_div_eq_div_mul, Nat.add_mul_div_left _ _ (Nat.two_pow_pos w),
        Nat.div_eq_of_lt (Nat.mod_lt _ (Nat.two_pow_pos w)), Nat.zero_add]
      exact ih k hk'

theorem pack_lt (fs : List (Nat × Nat)) : pack fs < 2 ^ (fs.map Prod.fst).sum := by
  induction fs with
  | nil => simp [pack]
  | cons e fs ih =>
    obtain ⟨w, v⟩ := e
    have hv : v % 2 ^ w < 2 ^ w := Nat.mod_lt _ (Nat.two_pow_pos w)
    simp only [pack, List.map_cons, List.sum_cons, Nat.pow_add]
    calc v % 2 ^ w + 2 ^ w * pack fs < 2 ^ w + 2 ^ w * pack fs := by omega
      _ = 2 ^ w * (pack fs + 1) := by ring
      _ ≤ 2 ^ w * 2 ^ (fs.map Prod.fst).sum := Nat.mul_le_mul_left _ ih

/-- The fields of a fault record. -/
def faultFields (h : Word) (tr : Trap) (lid : Word) (lin : DWord) : List (Nat × Nat) :=
  [(32, h.toNat), (32, (causeOf tr).toNat), (64, tr.pc.toNat), (32, tr.lanes.toNat), (32, tr.i0.toNat),
    (32, tr.i1.toNat), (32, tr.i2.toNat), (32, tr.i3.toNat), (32, lid.toNat), (64, lin.toNat)]

theorem faultFields_lt (h : Word) (tr : Trap) (lid : Word) (lin : DWord) : pack (faultFields h tr lid lin) < 2 ^ 384 := by
  have hw : ((faultFields h tr lid lin).map Prod.fst).sum = 384 := by simp [faultFields]
  have hlt := pack_lt (faultFields h tr lid lin)
  rwa [hw] at hlt

theorem halves_sum {x a b : Nat} (hx : x < a * b) : x % a + a * (x / a % b) = x := by
  rw [Nat.mod_eq_of_lt (Nat.div_lt_of_lt_mul hx)]
  exact Nat.mod_add_div _ _

/-- The two slots of a record hold its fields. -/
theorem recordBits_eq {r : Record} {h : Word} {tr : Trap} {lid : Word} {lin : DWord} (hr : r.slots = faultSlots h tr lid lin)
    (lo n : Nat) : recordBits r lo n = pack (faultFields h tr lid lin) / 2 ^ lo % 2 ^ n := by
  have hlt : pack (faultFields h tr lid lin) < 2 ^ 256 * 2 ^ 256 := by
    rw [← Nat.pow_add]
    exact lt_of_lt_of_le (faultFields_lt h tr lid lin) (Nat.pow_le_pow_right (by decide) (by decide))
  have hsum := halves_sum hlt
  rw [recordBits, hr]
  show ((BitVec.ofNat 256 (pack (faultFields h tr lid lin))).toNat +
    2 ^ 256 * (BitVec.ofNat 256 (pack (faultFields h tr lid lin) / 2 ^ 256)).toNat) / 2 ^ lo % 2 ^ n = _
  rw [BitVec.toNat_ofNat, BitVec.toNat_ofNat, hsum]

/-! A trap that goes to the supervisor. -/

theorem State.modPart_grp (s : State) (p t g : Nat) (f : Part → Part) : (s.modPart p f).grp t g = s.grp t g := by
  unfold State.modPart
  split <;> rfl

/-- The partition has given a handle away (22 R406). -/
def handled (s : State) (t : Nat) : State :=
  s.modPart (s.launchOf t).part fun p => { p with
    nextHandle := if (s.partOf t).nextHandle + 1 = 0 then 1 else (s.partOf t).nextHandle + 1 }

/-- The record of a trap that goes to the supervisor. -/
def faultRecord (s : State) (t : Nat) (tr : Trap) : Record :=
  { part := (s.launchOf t).part, ring := (s.partOf t).faultRing, phys := true
    slots := faultSlots (s.partOf t).nextHandle tr (s.launchOf t).lid (s.launchOf t).lineage }

/-- The state when a trap that stops its group has gone to the supervisor. -/
theorem toSupervisor_eq (t g : Nat) (tr : Trap) (s : State) : toSupervisor t g true tr s =
    { (handled s t).modGrp t g (fun gr => { gr with stopped := some (s.partOf t).nextHandle }) with
      faults := (handled s t).faults ++ [{ handle := (s.partOf t).nextHandle, team := t, group := g, trap := tr }]
      records := (handled s t).records ++ [faultRecord s t tr] } := rfl

/-- Each field of the record stands at its place. -/
theorem recordBits_faultRecord (s : State) (t : Nat) (tr : Trap) (k : Nat) {lo w x : Nat}
    (he : (faultFields (s.partOf t).nextHandle tr (s.launchOf t).lid (s.launchOf t).lineage)[k]? = some (w, x))
    (hlo : (((faultFields (s.partOf t).nextHandle tr (s.launchOf t).lid (s.launchOf t).lineage).take k).map Prod.fst).sum = lo)
    (hx : x < 2 ^ w) : recordBits (faultRecord s t tr) lo w = x := by
  obtain ⟨hk, hkx⟩ := List.getElem?_eq_some_iff.mp he
  have hfield := pack_field _ k hk
  rw [hkx, hlo] at hfield
  rw [recordBits_eq rfl, hfield]
  exact Nat.mod_eq_of_lt hx

theorem goesToSupervisor_toSupervisor {t g : Nat} {s : State} (he : Exists s t g) (tr : Trap) :
    GoesToSupervisor s (toSupervisor t g true tr s) t g true tr := by
  have hgrp : ∀ u k, (handled s t).grp u k = s.grp u k := fun u k => State.modPart_grp _ _ _ _ _
  have hteams : (handled s t).teams = s.teams := State.modPart_teams _ _ _
  have he₀ : Exists (handled s t) t g := by
    have : (handled s t).team t = s.team t := by simp only [State.team, hteams]
    exact ⟨hteams ▸ he.1, this ▸ he.2⟩
  have hfield := recordBits_faultRecord s t tr
  rw [toSupervisor_eq]
  refine ⟨?_, fun u k huk => ?_, ?_, ?_, faultRecord s t tr, ?_, rfl, rfl, rfl, ?_, ?_, ?_, ?_, ?_, ?_, ?_, ?_, ?_, ?_, ?_⟩
  · rw [if_pos rfl, ← hgrp]
    exact State.grp_modGrp_same _ he₀.1 he₀.2
  · rw [← hgrp]
    have hne : ¬(t = u ∧ g = k) := fun ⟨h1, h2⟩ => huk ⟨h1.symm, h2.symm⟩
    exact State.grp_modGrp_ne _ _ hne
  · exact State.modPart_mem _ _ _
  · exact congrArg (· ++ _) (State.modPart_faults _ _ _)
  · exact congrArg (· ++ _) (State.modPart_records _ _ _)
  · exact hfield 0 rfl rfl (s.partOf t).nextHandle.isLt
  · have hc : recordBits (faultRecord s t tr) 32 32 = (causeOf tr).toNat := hfield 1 rfl rfl (causeOf tr).isLt
    rw [hc, BitVec.ofNat_toNat, BitVec.setWidth_eq]
    exact causeIs_causeOf tr
  · exact hfield 2 rfl rfl tr.pc.isLt
  · exact hfield 3 rfl rfl tr.lanes.isLt
  · exact hfield 4 rfl rfl tr.i0.isLt
  · exact hfield 5 rfl rfl tr.i1.isLt
  · exact hfield 6 rfl rfl tr.i2.isLt
  · exact hfield 7 rfl rfl tr.i3.isLt
  · exact hfield 8 rfl rfl (s.launchOf t).lid.isLt
  · exact hfield 9 rfl (by simp [faultFields]) (s.launchOf t).lineage.isLt
  · rw [recordBits_eq (h := (s.partOf t).nextHandle) (tr := tr) (lid := (s.launchOf t).lid) (lin := (s.launchOf t).lineage) rfl,
      Nat.div_eq_of_lt (faultFields_lt _ _ _ _)]
    exact Nat.zero_mod _

/-! Taking a trap. -/

theorem takesTrap_takeTrap {t g : Nat} {s : State} (he : Exists s t g) (tr : Trap) :
    TakesTrap s (takeTrap t g tr s) t g tr := by
  have hgrp : (s.team t).group g = s.grp t g := rfl
  unfold TakesTrap takeTrap
  simp only [hgrp]
  cases hh : (s.grp t g).handler with
  | true =>
    rw [if_pos rfl, if_neg (by simp), if_pos rfl]
    exact goesToSupervisor_toSupervisor he _
  | false =>
    rw [if_neg Bool.false_ne_true]
    by_cases hr : (routeS tr.code || (s.team t).trapBase == 0) = true
    · have hno : ¬(false = false ∧ routeS tr.code = false ∧ (s.team t).trapBase ≠ 0) := by
        rintro ⟨-, hc, hb⟩
        exact hb (by simpa [hc] using hr)
      rw [if_pos hr, if_neg hno, if_neg Bool.false_ne_true]
      exact goesToSupervisor_toSupervisor he _
    · have hc : routeS tr.code = false ∧ (s.team t).trapBase ≠ 0 := by simpa using hr
      have hG : (s.modGrp t g fun gr => enterHandler (s.team t).trapBase tr gr.active gr).grp t g =
          enterHandler (s.team t).trapBase tr (s.grp t g).active (s.grp t g) := State.grp_modGrp_same _ he.1 he.2
      rw [if_neg hr, if_pos ⟨rfl, hc⟩]
      refine ⟨?_, ?_⟩
      · rw [OnlyGroup, hG]
        exact State.modGrp_congr _ _ _ rfl
      · rw [hG]
        exact entersHandler_enterHandler _ _ _ _

/-- An issue that traps. -/
theorem traps_trapIssue {t g : Nat} {s : State} (he : Exists s t g) (I : Lanes) (tr : Trap) :
    Traps s (trapIssue t g I tr s) t g I tr :=
  ⟨_, takesTrap_takeTrap (he.modGrp (noteMoved s.tick I)) tr, rfl⟩

/-- Lanes of I that take the successor, beside a trap. -/
theorem placed_setPcs {t g : Nat} {s : State} (he : Exists s t g) (c : Ctx) (hc : c.t = t ∧ c.g = g) (ls : Lanes) (a : DWord)
    (hls : ∀ l, ls.getLsbD l = true → (s.grp t g).issueSet.getLsbD l = true) :
    Placed s (setPcs c ls (fun _ => a) s) t g ls a := by
  obtain ⟨rfl, rfl⟩ := hc
  have hG : (setPcs c ls (fun _ => a) s).grp c.t c.g =
      { s.grp c.t c.g with pcv := setLanes (s.grp c.t c.g).pcv (ls &&& ~~~(s.grp c.t c.g).exited) fun _ => a } :=
    State.grp_modGrp_same _ he.1 he.2
  refine ⟨?_, ?_, fun l => ?_⟩
  · rw [OnlyGroup, hG]
    exact State.modGrp_congr _ _ _ rfl
  · rw [hG]
  · rw [hG, get_setLanes]
    by_cases h : l < 32 ∧ ls.getLsbD l = true
    · rw [if_pos h, if_pos ⟨h.1, by rw [BitVec.getLsbD_and, BitVec.getLsbD_not, h.2, inI_not_exited h.1 (hls l h.2)]; simp [h.1]⟩]
    · rw [if_neg h, if_neg]
      rintro ⟨hl, hb⟩
      rw [BitVec.getLsbD_and, Bool.and_eq_true] at hb
      exact h ⟨hl, hb.1⟩

section
variable {i : Instr} {s : State} {t g : Nat} {h : Hdr} {us : List Use} {act : Ctx → State → Act}

/-- A SIMT form whose act traps for all lanes of E and changes nothing else. -/
theorem simt_traps {size : Nat} {tr : Trap} {stay : Lanes} (hx : exec i s = simt h size us noPriv act s) (hI : Issuing s t g)
    (hr : rangeOk (s.launchOf t) h us = true) (hE : eligible s t g h ≠ 0)
    (ha : act (ctxOf s t g h size) s = .trap s tr stay) (hl : tr.lanes ||| stay = eligible s t g h) :
    ∃ s₁ s', exec i s = .next s' ∧
      Placed s s₁ t g ((s.grp t g).issueSet &&& ~~~(eligible s t g h)) (successor s t g size) ∧
      Traps s₁ s' t g (s.grp t g).issueSet tr := by
  have he := hI.exists
  obtain ⟨hc, hi, hs⟩ := hI
  have hp := simt_acts (size := size) (priv := noPriv) (act := act) hc hi hs hr rfl
  rw [if_neg (show (ctxOf s t g h size).E ≠ 0 from hE), ha] at hp
  have hdrop : ∀ E, dropSoft { ctxOf s t g h size with E := E } us s = s := fun E => dropSoft_nil hs
  refine ⟨_, _, hx.trans hp, placed_setPcs he (ctxOf s t g h size) ⟨rfl, rfl⟩ _ _ fun l hb => ?_, ?_⟩
  · rw [BitVec.getLsbD_and, Bool.and_eq_true] at hb
    exact hb.1
  · simp only [perform, hl, hdrop]
    exact traps_trapIssue (he.modGrp _) _ _

end

end Sys2Proof.Claims
end

section
/-! Accesses of the windows (08 R204) as steps of the lanes, and what such an instruction leaves: the frame that LDS, STS and
ATOMS share. -/

namespace Sys2Proof.Claims
open Sys2Proof.Machine

/-! Bytes. -/

theorem readLe_eq_foldr (m : Store 8) (n : Nat) : ∀ a : Nat,
    m.readLe a n = (List.range n).foldr (fun i x => (m.get (a + i)).toNat + 256 * x) 0 := by
  induction n with
  | zero => exact fun a => rfl
  | succ n ih =>
    intro a
    rw [List.range_succ_eq_map, List.foldr_cons, List.foldr_map, Store.readLe, ih (a + 1)]
    simp only [Nat.add_zero, Nat.add_assoc, Nat.add_comm 1, Nat.succ_eq_add_one]

theorem readLe_eq_bytesAt (m : Store 8) (o n : Nat) : m.readLe o n = bytesAt m o n := readLe_eq_foldr m n o

theorem readLe_lt (n : Nat) (m : Store 8) : ∀ a : Nat, m.readLe a n < 256 ^ n := by
  induction n with
  | zero => intro a; simp [Store.readLe]
  | succ n ih =>
    intro a
    have h1 : (m.get a).toNat < 256 := (m.get a).isLt
    have h2 := ih (a + 1)
    rw [Store.readLe, Nat.pow_succ]
    omega

theorem putAt_writeLe (m : Store 8) (o n x : Nat) : PutAt m (m.writeLe o n x) o n x := by
  intro a
  by_cases h : o ≤ a ∧ a < o + n
  · rw [if_pos h]
    have := Store.get_writeLe_in n m o x (a - o) (by omega)
    rwa [Nat.add_sub_cancel' h.1] at this
  · rw [if_neg h, Store.get_writeLe_out n m o x a (by omega)]

/-! Storage without errors (18 R381). -/

theorem meetErrs_nil {p : Nat} {lid : Word} {inPlace : EccErr → Bool} {a n : Nat} {cover : List Span} {s : State}
    (h : s.ecc = []) : meetErrs p lid inPlace a n cover s = (s, none) := by
  simp [meetErrs, h]

theorem coreEcc_nil {t source a n : Nat} {k : Kind} {cover : List Span} {s : State} (h : s.ecc = []) :
    coreEcc t source a n k cover s = (s, none) := by
  simp only [coreEcc, metSpans, meetErrs_nil h, Option.map_none]

/-- A lane's access within the scratchpad. -/
theorem scratchLane_ok {t n o : Nat} {k : Kind} {mates : List Nat} {f : State → State} {s : State} (h : s.ecc = [])
    (ho : o + n ≤ (s.launchOf t).scratchBytes) : scratchLane t n k mates o f s = (f s, none) := by
  unfold scratchLane
  simp only [coreEcc_nil h]
  rw [if_neg (by omega)]

theorem release_nil {sel : Pending → Bool} {sc : Scope} {s : State} (h : s.buffer = []) : release sel sc s = s := by
  simp [release, h]

theorem releaseLanes_nil {t g : Nat} {ls : Lanes} {sc : Scope} {s : State} (h : s.buffer = []) :
    releaseLanes t g ls sc s = s := release_nil h

/-! What a framed state keeps. -/

section
variable {s b : State} {t g : Nat}

theorem Framed.ecc (h : Framed s b t g) : b.ecc = s.ecc := by obtain ⟨q, rfl⟩ := h; rfl
theorem Framed.tick (h : Framed s b t g) : b.tick = s.tick := by obtain ⟨q, rfl⟩ := h; rfl

theorem Framed.launchOf (h : Framed s b t g) (he : Exists s t g) : b.launchOf t = s.launchOf t := by
  obtain ⟨q, rfl⟩ := h
  simp only [State.launchOf, team_patch he]
  rfl

end

/-! A step of a lane at a window. -/

/-- The team's windows change by F, the group by G. -/
def winStep (t g : Nat) (F : Team → Team) (G : Group → Group) (b : State) : State := (b.modTeam t F).modGrp t g G

/-- F changes the windows of a team at most. -/
def OnWindows (F : Team → Team) : Prop := ∀ tm, F tm = { tm with
  scratch := (F tm).scratch, tiles := (F tm).tiles, rows := (F tm).rows }

theorem onWindows_id : OnWindows fun tm => tm := fun _ => rfl

theorem OnWindows.groups {F : Team → Team} (hF : OnWindows F) (tm : Team) : (F tm).groups = tm.groups := by rw [hF tm]

theorem OnWindows.touched {F : Team → Team} (hF : OnWindows F) (tm : Team) : (F tm).touched = tm.touched := by rw [hF tm]

section
variable {s b : State} {t g : Nat} {F : Team → Team} {G : Group → Group}

theorem team_winStep (he : Exists b t g) :
    (winStep t g F G b).team t = (F (b.team t)).modGroup g G := by
  have ht : t < (b.modTeam t F).teams.length := by simpa using he.1
  rw [winStep, State.team_modGrp g G ht, State.team_modTeam_same F he.1]

theorem grp_winStep (he : Exists b t g) (hF : OnWindows F) : (winStep t g F G b).grp t g = G (b.grp t g) := by
  have hg : g < (F (b.team t)).groups.length := by rw [hF.groups]; exact he.2
  have hgrp : (F (b.team t)).group g = b.grp t g := by simp only [Team.group, hF.groups, State.grp]
  rw [State.grp, team_winStep he, Team.group_modGroup_same G hg, hgrp]

/-- What holds of a state between the lanes of an instruction on the windows. -/
structure WinInv (f : Form) (E : Lanes) (s b : State) (t g : Nat) : Prop where
  framed : Framed s b t g
  writes : Writes f E (s.grp t g) (b.grp t g)
  mem : b.mem = s.mem
  buffer : b.buffer = s.buffer
  nextStore : b.nextStore = s.nextStore
  touched : (b.team t).touched = (s.team t).touched

variable {f : Form} {E : Lanes}

theorem WinInv.refl (f : Form) (E : Lanes) (s : State) (t g : Nat) : WinInv f E s s t g :=
  ⟨Framed.refl s t g, Writes.refl f E _, rfl, rfl, rfl, rfl⟩

theorem WinInv.step (h : WinInv f E s b t g) (he : Exists s t g) (hF : OnWindows F) (hG : Writes f E (b.grp t g) (G (b.grp t g))) :
    WinInv f E s (winStep t g F G b) t g := by
  have heb := h.framed.exists he
  have hteam := team_winStep (F := F) (G := G) heb
  have hf : Framed b (b.modTeam t F) t g := by
    refine framed_modTeam b t g F ?_
    have := hF (b.team t)
    rw [← hF.touched (b.team t)] at this
    exact (hF (b.team t)).trans (by rw [hF.touched])
  refine ⟨h.framed.trans (hf.trans (framed_modGrp _ t g G)), ?_, h.mem, h.buffer, h.nextStore, ?_⟩
  · rw [grp_winStep heb hF]
    exact h.writes.trans hG
  · rw [hteam, Team.modGroup_touched, hF.touched, h.touched]

theorem WinInv.soft (h : WinInv f E s b t g) : (b.grp t g).soft = (s.grp t g).soft := soft_of_restOf h.writes.rest

/-- An instruction on the windows that completes with b as the state that its lanes leave. -/
theorem win_completes {i : Instr} {h : Hdr} {us : List Use} {act : Ctx → State → Act} (hx : exec i s = simt h i.size us noPriv act s)
    (hI : Issuing s t g) (hr : rangeOk (s.launchOf t) h us = true)
    (ha : (if eligible s t g h = 0 then .adv s else act (ctxOf s t g h i.size) s) = .adv b) (hf : f.hdr = h)
    (hb : WinInv f (eligible s t g h) s b t g) :
    ∃ s', exec i s = .next s' ∧ OnlyWindows s s' t g ∧ GroupFrame f s s' t g i.size ∧
      (s'.team t = { b.team t with groups := (s'.team t).groups }) ∧
      ∀ r l k, regGet (s'.grp t g) r l k = regGet (b.grp t g) r l k := by
  subst hf
  have he := hI.exists
  have heb := hb.framed.exists he
  have hG := grp_advanced s f.hdr i.size heb
  have hteam : (advanced s b t g f.hdr i.size).team t =
      (b.team t).modGroup g (issueGroup (ctxOf s t g f.hdr i.size) f.hdr b.tick) := State.team_modGrp _ _ heb.1
  refine ⟨_, simt_advances hx hI hr ha heb (hb.soft.trans hI.2.2), ?_, groupFrame_of_issue (heb.modGrp _).1 (heb.modGrp _).2 hG hb.writes,
    ?_, fun r l k => ?_⟩
  · refine (hb.framed.trans (framed_modGrp b t g _)).onlyWindows he hb.mem hb.buffer hb.nextStore ?_
    exact (congrArg Team.touched hteam).trans hb.touched
  · rw [hteam]
    rfl
  · rw [hG, issueGroup_regGet]

end

/-! The lanes' states at a window. -/

theorem acts_zero (d : Reg) (l : Nat) : acts 0 d l = false := by simp [acts]

theorem laneState_of_none {α : Type} {p : Nat → Bool} {step : Nat → α → α} {s : α} (hp : ∀ l, p l = false) (n : Nat) :
    laneState p step s n = s := by
  induction n with
  | zero => rfl
  | succ n ih => rw [laneState_succ, if_neg (by simp [hp]), ih]

section
variable {s : State} {t g : Nat} {f : Form} {E : Lanes} {d : Reg} {step : Nat → State → State}

/-- The invariant of the windows holds between the lanes, where each acting lane's step keeps it. -/
theorem winInv_laneState (hstep : ∀ l < 32, acts E d l = true → ∀ b, WinInv f E s b t g → WinInv f E s (step l b) t g) :
    ∀ n ≤ 32, WinInv f E s (laneState (acts E d) step s n) t g :=
  laneState_induction (WinInv.refl f E s t g) (fun n hn b hb hp => hstep n hn hp b hb) (fun _ _ _ hb _ => hb)

end

end Sys2Proof.Claims
end

section
/-! ATOMS in the scratchpad (08 R187, R205). -/

namespace Sys2Proof.Claims
open Sys2Proof.Machine

/-! What an atomic makes of the old value (08 Table 8.13). -/

theorem tyBits_eq_bytes {ty : Ty} (h : wideIntTy ty = true) : tyBits ty = 8 * tyBytes ty := by
  revert h; cases ty <;> decide

theorem wideIntTy_of_accepts {op : AtomOp} {ty : Ty} (hop : op = .add ∨ op = .min ∨ op = .max) (h : atomAccepts op ty = true)
    (hf : ¬(ty = .f32 ∨ ty = .bf16x2)) (hx : ty ≠ .x128) : wideIntTy ty = true := by
  rcases hop with rfl | rfl | rfl <;> simp only [atomAccepts, Bool.or_eq_true, beq_iff_eq] at h <;> tauto

/-- A least or greatest value, at the type's width. -/
theorem tyRes_eq_mod {ty : Ty} (h : wideIntTy ty = true) (v : Int) :
    ((tyRes ty v : Nat) : Int) = v % ((2 ^ (8 * tyBytes ty) : Nat) : Int) := by
  rw [tyRes_of_wideIntTy h, wrap_cast, tyBits_eq_bytes h]

theorem atomicIs_atomVal {op : AtomOp} {ty : Ty} {old b : Nat} (hacc : atomAccepts op ty = true) (ho : old < 256 ^ tyBytes ty)
    (hb : b < 2 ^ (32 * atomRegs op ty)) : AtomicIs op ty old b (atomVal op ty old b).1 := by
  cases op with
  | add =>
    by_cases hx : ty = .x128
    · subst hx
      exact ⟨_, _, xSum_xAdd (by simpa [tyBytes] using ho) (by simpa [atomRegs, tyRegs] using hb)⟩
    · simp only [AtomicIs, if_neg hx]
      split
      · trivial
      · next hf =>
        have h1 : ty ≠ .f32 := fun e => hf (Or.inl e)
        have h2 : ty ≠ .bf16x2 := fun e => hf (Or.inr e)
        simp [atomVal, h1, h2, hx]
  | min =>
    simp only [AtomicIs]
    split
    · trivial
    · next hf =>
      have h1 : ty ≠ .f32 := fun e => hf (Or.inl e)
      have h2 : ty ≠ .bf16x2 := fun e => hf (Or.inr e)
      have hx : ty ≠ .x128 := by rintro rfl; cases hacc
      have hw := wideIntTy_of_accepts (op := .min) (by simp) hacc hf hx
      simpa [atomVal, h1, h2, minVal] using tyRes_eq_mod hw _
  | max =>
    simp only [AtomicIs]
    split
    · trivial
    · next hf =>
      have h1 : ty ≠ .f32 := fun e => hf (Or.inl e)
      have h2 : ty ≠ .bf16x2 := fun e => hf (Or.inr e)
      have hx : ty ≠ .x128 := by rintro rfl; cases hacc
      have hw := wideIntTy_of_accepts (op := .max) (by simp) hacc hf hx
      simpa [atomVal, h1, h2, maxVal] using tyRes_eq_mod hw _
  | and => exact fun i => Nat.testBit_and _ _ _
  | or => exact fun i => Nat.testBit_or _ _ _
  | xor => exact fun i => Nat.testBit_xor _ _ _
  | exch => rfl
  | cas => rfl

/-- A value of a type's bytes fits the type's registers. -/
theorem bytes_lt_regs (ty : Ty) {x : Nat} (h : x < 256 ^ tyBytes ty) : x < 2 ^ (32 * tyRegs ty) := by
  refine lt_of_lt_of_le h ?_
  cases ty <;> decide

/-! One failing lane. -/

theorem eq_singleton_of_nodup {α : Type} {xs : List α} {x : α} (hn : xs.Nodup) (hx : x ∈ xs) (hu : ∀ y ∈ xs, y = x) : xs = [x] := by
  cases xs with
  | nil => cases hx
  | cons y ys =>
    obtain rfl := hu y List.mem_cons_self
    cases ys with
    | nil => rfl
    | cons z zs =>
      have : z = y := hu z (by simp)
      simp [this] at hn

section
variable {s : State} {t g l : Nat} {h : Hdr} {d : Reg}

/-- The acting lanes where one lane alone acts. -/
theorem actors_single (hl : Acting s t g h d l) (hu : ∀ l', Acting s t g h d l' → l' = l) :
    (List.range 32).filter (acts (eligible s t g h) d) = [l] := by
  obtain ⟨h32, ha⟩ := acting_iff.mp hl
  refine eq_singleton_of_nodup (List.nodup_range.filter _) (List.mem_filter.mpr ⟨List.mem_range.mpr h32, ha⟩) fun y hy => ?_
  obtain ⟨hy1, hy2⟩ := List.mem_filter.mp hy
  exact hu y (acting_iff.mpr ⟨List.mem_range.mp hy1, hy2⟩)

/-- The lanes that a trap of the one acting lane lists are those of E. -/
theorem trapLanes_single (hl : Acting s t g h d l) (hu : ∀ l', Acting s t g h d l' → l' = l) :
    (if onceReg d then eligible s t g h else laneBit l) = eligible s t g h := by
  unfold onceReg
  cases hd : regUni d with
  | true => rfl
  | false =>
    rw [if_neg Bool.false_ne_true]
    refine BitVec.eq_of_getLsbD_eq fun k hk => ?_
    rw [getLsbD_laneBit]
    cases hE : (eligible s t g h).getLsbD k with
    | true =>
      have hkl : k = l := hu k ⟨⟨hk, hE⟩, fun e => by rw [hd] at e; cases e⟩
      rw [decide_eq_true hk, decide_eq_true hkl]
      rfl
    | false =>
      have hne : k ≠ l := by
        rintro rfl
        rw [hl.1.2] at hE
        cases hE
      simp [hne]

/-- The trap of an access that one lane makes, where it fails. -/
theorem finishLanes_single (c : Ctx) (once : Bool) (s : State) (l : Nat) {b : Bad} (hb : b.ofPeer = false) :
    finishLanes c once (s, [(l, b)]) =
      .trap s { code := b.code, lanes := if once then c.E else laneBit l, pc := c.pc, i0 := b.i0, i1 := b.i1, i2 := b.i2 }
        (if once then c.E else laneBit l) := by
  have hset : (laneSet fun k => l == k) = laneBit l := by
    refine BitVec.eq_of_getLsbD_eq fun k hk => ?_
    rw [getLsbD_laneSet, getLsbD_laneBit, Bool.beq_comm]
    rfl
  unfold finishLanes
  simp [hb, hset]

/-- An instruction of one acting lane whose access fails traps for the lanes of E, and does nothing else. -/
theorem lane_fails {i : Instr} {us : List Use} {act : Ctx → State → Act} {b : Bad} (hx : exec i s = simt h i.size us noPriv act s)
    (hI : Issuing s t g) (hr : rangeOk (s.launchOf t) h us = true) (hl : Acting s t g h d l)
    (hu : ∀ l', Acting s t g h d l' → l' = l) (hb : b.ofPeer = false)
    (ha : act (ctxOf s t g h i.size) s = finishLanes (ctxOf s t g h i.size) (onceReg d) (s, [(l, b)])) :
    ∃ s₁ s', exec i s = .next s' ∧
      Placed s s₁ t g ((s.grp t g).issueSet &&& ~~~(eligible s t g h)) (successor s t g i.size) ∧
      Traps s₁ s' t g (s.grp t g).issueSet
        { code := b.code, pc := (s.grp t g).issuePc, lanes := eligible s t g h, i0 := b.i0, i1 := b.i1, i2 := b.i2 } := by
  have hlanes := trapLanes_single hl hu
  rw [finishLanes_single _ _ _ _ hb] at ha
  rw [show (ctxOf s t g h i.size).E = eligible s t g h from rfl, hlanes] at ha
  exact simt_traps hx hI hr hl.1.eligible_ne_zero ha BitVec.or_self

end

/-! The forms. -/

section
variable {s : State} {t g : Nat} {h : Hdr} {op : AtomOp} {ty : Ty} {d b : Reg} {ad : Addr}

theorem exec_atomsForms (h : Hdr) (ty : Ty) (d : Reg) (ad : Addr) (b : Reg) (op : AtomOp) (s : State) :
    exec (atomsForms h ty d ad b op) s = simt h (atomsForms h ty d ad b op).size
      ([.wr d (tyRegs ty), .rd b (atomRegs op ty)] ++ addrUse 1 ad) noPriv (atomsAct op ty d ad b) s := by
  cases op <;> rfl

theorem atomsLegal_of_wellFormed (hw : (atomsForms h ty d ad b op).WellFormed) : atomsLegal op ty d ad b = true := by
  cases op <;> exact hw

theorem atoms_rangeOk (hR : ReadyFor (atomsForms h ty d ad b op) s t g) :
    rangeOk (s.launchOf t) h ([.wr d (tyRegs ty), .rd b (atomRegs op ty)] ++ addrUse 1 ad) = true := by
  have hn : namesOf (atomsForms h ty d ad b op) = some ⟨h, (d, tyRegs ty) :: (b, atomRegs op ty) :: ofAddr 1 ad, []⟩ := by
    cases op <;> rfl
  exact rangeOk_append_addrUse (rs := [(d, tyRegs ty), (b, atomRegs op ty)]) (hR.2 _ hn).1 (by simp [Named])

/-- What stands at a lane's offset. -/
def atomsOld (gr : Group) (ty : Ty) (ad : Addr) (t l : Nat) (x : State) : Nat :=
  (x.team t).scratch.readLe (offsetOf gr ad l) (tyBytes ty)

/-- A lane's atomic in the scratchpad. -/
def atomsStep (gr : Group) (op : AtomOp) (ty : Ty) (d : Reg) (ad : Addr) (b : Reg) (t g l : Nat) (x : State) : State :=
  let r := atomVal op ty (atomsOld gr ty ad t l x) (regGet gr b l (atomRegs op ty))
  winStep t g (fun tm => { tm with scratch := Store.writeLe tm.scratch (offsetOf gr ad l) (tyBytes ty) r.1 })
    (fun y => setFlagsG r.2 (writeRegG (laneBit l) d (tyRegs ty) (fun _ => atomsOld gr ty ad t l x) y)) x

/-- A lane's ATOMS: ALIGN, then the scratchpad's checks, then the atomic. -/
def atomsLane (op : AtomOp) (ty : Ty) (d : Reg) (ad : Addr) (b : Reg) (c : Ctx) (gr : Group) (l : Nat) (s : State) :
    State × Option Bad :=
  if offsetOf gr ad l % tyBytes ty ≠ 0 then (s, some (badAt 0x04 .atom (offsetOf gr ad l)))
  else scratchLane c.t (tyBytes ty) .atom [] (offsetOf gr ad l) (fun s =>
    let old := Store.readLe (s.team c.t).scratch (offsetOf gr ad l) (tyBytes ty)
    let r := atomVal op ty old (regGet gr b l (atomRegs op ty))
    orFlags c r.2 (writeReg c (laneBit l) d (tyRegs ty) (fun _ => old)
      (s.modTeam c.t fun tm => { tm with scratch := Store.writeLe tm.scratch (offsetOf gr ad l) (tyBytes ty) r.1 }))) s

theorem atomsAct_eq {c : Ctx} {s : State} (hbuf : s.buffer = []) : atomsAct op ty d ad b c s =
    finishLanes c (onceReg d) (runLanes (atomsLane op ty d ad b c (s.grp c.t c.g)) ((List.range 32).filter (acts c.E d)) s) := by
  rw [← actors_eq]
  exact congrArg (fun x => finishLanes c (onceReg d) (runLanes (atomsLane op ty d ad b c (s.grp c.t c.g))
    (if onceReg d then (lanes c.E).take 1 else lanes c.E) x)) (releaseLanes_nil hbuf)

/-- A lane whose offset passes. -/
theorem atomsLane_ok {c : Ctx} {gr : Group} {l : Nat} {x : State} (hecc : x.ecc = [])
    (ho : offsetOf gr ad l % tyBytes ty = 0) (hs : offsetOf gr ad l + tyBytes ty ≤ (x.launchOf c.t).scratchBytes) :
    atomsLane op ty d ad b c gr l x = (atomsStep gr op ty d ad b c.t c.g l x, none) := by
  rw [atomsLane, if_neg (not_not.mpr ho), scratchLane_ok hecc hs]
  simp only [writeReg_eq, orFlags, State.modGrp_modGrp]
  rfl

theorem winInv_atomsStep {gr : Group} {l : Nat} {x : State} {E : Lanes}
    (he : Exists s t g) (ha : acts E d l = true) (hx : WinInv ⟨h, [], [(d, tyRegs ty)], [], true, false, false⟩ E s x t g) :
    WinInv ⟨h, [], [(d, tyRegs ty)], [], true, false, false⟩ E s (atomsStep gr op ty d ad b t g l x) t g :=
  hx.step he (fun _ => rfl) ((writes_writeReg _ _ (by simp) (laneBit_mem (acts_mem ha))).trans (writes_setFlags _ _ (by simp)))

theorem atoms_completes (hw : (atomsForms h ty d ad b op).WellFormed) (hR : ReadyFor (atomsForms h ty d ad b op) s t g)
    (hecc : s.ecc = []) (hbuf : s.buffer = []) (hfit : ∀ l, Acting s t g h d l →
      offsetOf (s.grp t g) ad l % tyBytes ty = 0 ∧ offsetOf (s.grp t g) ad l + tyBytes ty ≤ (s.launchOf t).scratchBytes) :
    ∃ s', exec (atomsForms h ty d ad b op) s = .next s' ∧ OnlyWindows s s' t g ∧ (s'.team t).tiles = (s.team t).tiles ∧
      (s'.team t).rows = (s.team t).rows ∧
      GroupFrame ⟨h, [], [(d, tyRegs ty)], [], true, false, false⟩ s s' t g (atomsForms h ty d ad b op).size ∧
      LaneByLane (Acting s t g h d) (s.team t).scratch (s'.team t).scratch fun l m m' =>
        regGet (s'.grp t g) d l (tyRegs ty) = bytesAt m (offsetOf (s.grp t g) ad l) (tyBytes ty) ∧
        ∃ x, AtomicIs op ty (bytesAt m (offsetOf (s.grp t g) ad l) (tyBytes ty)) (regGet (s.grp t g) b l (atomRegs op ty)) x ∧
          PutAt m m' (offsetOf (s.grp t g) ad l) (tyBytes ty) x := by
  have hacc : atomAccepts op ty = true := by
    have := atomsLegal_of_wellFormed hw
    simp only [atomsLegal, Bool.and_eq_true] at this
    exact this.1.1.1
  have he := hR.1.exists
  set f : Form := ⟨h, [], [(d, tyRegs ty)], [], true, false, false⟩ with hf
  set E := eligible s t g h with hE
  set step := atomsStep (s.grp t g) op ty d ad b t g with hstep
  have hinv : ∀ n ≤ 32, WinInv f E s (laneState (acts E d) step s n) t g :=
    winInv_laneState fun l _ ha x hx => winInv_atomsStep he ha hx
  have hact : (if E = 0 then .adv s else atomsAct op ty d ad b (ctxOf s t g h (atomsForms h ty d ad b op).size) s) =
      .adv (laneState (acts E d) step s 32) := by
    split
    · next h0 => rw [h0, laneState_of_none (acts_zero d)]
    · rw [atomsAct_eq hbuf]
      show finishLanes _ _ (runLanes _ ((List.range 32).filter (acts E d)) s) = _
      rw [runLanes_eq_laneState (step := step)]
      · rfl
      · intro n hn hp
        have hi := hinv n (by omega)
        obtain ⟨ho, hs⟩ := hfit n (acting_iff.mpr ⟨hn, hp⟩)
        rw [← hi.framed.launchOf he] at hs
        exact atomsLane_ok (hi.framed.ecc.trans hecc) ho hs
  obtain ⟨s', hx, how, hgf, hteam, hreg⟩ := win_completes (exec_atomsForms h ty d ad b op s) hR.1 (atoms_rangeOk hR) hact rfl
    (hinv 32 (Nat.le_refl _))
  have hwin : ∀ n ≤ 32, ((laneState (acts E d) step s n).team t).tiles = (s.team t).tiles ∧
      ((laneState (acts E d) step s n).team t).rows = (s.team t).rows := by
    intro n
    induction n with
    | zero => exact fun _ => ⟨rfl, rfl⟩
    | succ n ih =>
      intro hn
      rw [laneState_succ]
      split
      · rw [hstep, atomsStep, team_winStep ((hinv n (by omega)).framed.exists he)]
        exact ih (by omega)
      · exact ih (by omega)
  have hregs := regGet_laneState (k := tyRegs ty) (t := t) (g := g) (s := s) (step := step)
    (val := fun l x => atomsOld (s.grp t g) ty ad t l x) (p := acts E d) (E := E) (d := d) (fun _ => rfl)
    (fun l hl hp => ⟨_, grp_winStep ((hinv l (by omega)).framed.exists he) (fun _ => rfl)⟩) 32 (Nat.le_refl _)
  refine ⟨s', hx, how, ?_, ?_, hgf, ?_⟩
  · rw [hteam]; exact (hwin 32 (Nat.le_refl _)).1
  · rw [hteam]; exact (hwin 32 (Nat.le_refl _)).2
  · have hscr : (s'.team t).scratch = ((laneState (acts E d) step s 32).team t).scratch := by rw [hteam]
    rw [hscr]
    refine laneByLane_of_laneState (fun x : State => (x.team t).scratch)
      (fun l hl => acting_iff.trans ⟨fun h => h.2, fun h => ⟨hl, h⟩⟩) fun l hl hp => ?_
    have hold : atomsOld (s.grp t g) ty ad t l (laneState (acts E d) step s l) =
        bytesAt ((laneState (acts E d) step s l).team t).scratch (offsetOf (s.grp t g) ad l) (tyBytes ty) := readLe_eq_bytesAt _ _ _
    have hlt : atomsOld (s.grp t g) ty ad t l (laneState (acts E d) step s l) < 256 ^ tyBytes ty := readLe_lt _ _ _
    refine ⟨?_, (atomVal op ty (atomsOld (s.grp t g) ty ad t l (laneState (acts E d) step s l)) (regGet (s.grp t g) b l (atomRegs op ty))).1,
      ?_, ?_⟩
    · rw [hreg, hregs l hl hp, Nat.mod_eq_of_lt (bytes_lt_regs ty hlt), hold]
    · rw [← hold]
      exact atomicIs_atomVal hacc hlt (regGet_lt _ _ _ _)
    · rw [hstep, atomsStep, team_winStep ((hinv l (by omega)).framed.exists he)]
      exact putAt_writeLe _ _ _ _

theorem atoms_misaligned {l : Nat} (hR : ReadyFor (atomsForms h ty d ad b op) s t g) (hbuf : s.buffer = [])
    (hl : Acting s t g h d l) (ho : offsetOf (s.grp t g) ad l % tyBytes ty ≠ 0) (hu : ∀ l', Acting s t g h d l' → l' = l) :
    ∃ s₁ s', exec (atomsForms h ty d ad b op) s = .next s' ∧
      Placed s s₁ t g ((s.grp t g).issueSet &&& ~~~(eligible s t g h)) (successor s t g (atomsForms h ty d ad b op).size) ∧
      Traps s₁ s' t g (s.grp t g).issueSet {
        code := 0x04, pc := (s.grp t g).issuePc, lanes := eligible s t g h
        i0 := BitVec.ofNat 32 (offsetOf (s.grp t g) ad l), i1 := 0, i2 := 2 } := by
  have hlt : offsetOf (s.grp t g) ad l < 2 ^ 32 := wrap_lt _ _
  have hbad : badAt 0x04 .atom (offsetOf (s.grp t g) ad l) =
      { code := 0x04, i0 := BitVec.ofNat 32 (offsetOf (s.grp t g) ad l), i1 := 0, i2 := 2 } := by
    rw [badAt, Nat.div_eq_of_lt hlt]
    rfl
  refine lane_fails (b := { code := 0x04, i0 := BitVec.ofNat 32 (offsetOf (s.grp t g) ad l), i1 := 0, i2 := 2 })
    (exec_atomsForms h ty d ad b op s) hR.1 (atoms_rangeOk hR) hl hu rfl ?_
  rw [atomsAct_eq hbuf, ← hbad]
  show finishLanes _ _ (runLanes _ ((List.range 32).filter (acts (eligible s t g h) d)) s) = _
  rw [actors_single hl hu]
  simp only [runLanes, atomsLane]
  rw [if_pos (show offsetOf (s.grp (ctxOf s t g h (atomsForms h ty d ad b op).size).t
    (ctxOf s t g h (atomsForms h ty d ad b op).size).g) ad l % tyBytes ty ≠ 0 from ho)]
  rfl

end

/-- Settles O36: lane after lane by the steps of the acting lanes; one lane's wrong offset by the trap of its access. -/
theorem scratchAtomicResults : Obligations.ScratchAtomicResults := fun _ _ _ _ _ _ _ _ _ hw hR hecc hbuf =>
  ⟨atoms_completes hw hR hecc hbuf, fun _ hl ho hu _ => atoms_misaligned hR hbuf hl ho hu⟩

end Sys2Proof.Claims
end

section
/-! The values of loads and stores (08 Table 8.12): loaded bytes in the form of the type, registers as stored bytes. -/

namespace Sys2Proof.Claims
open Sys2Proof.Machine

/-! BF16 as the upper half of FP32 (03 R61). -/

section
variable {x : Nat}

theorem bf16_mod_top : x * 2 ^ 16 % fmtF32.top = x % fmtBf16.top * 2 ^ 16 := by
  show x * 2 ^ 16 % 2 ^ 31 = x % 2 ^ 15 * 2 ^ 16
  omega

theorem nanIn_bf16 : NanIn fmtF32 (x * 2 ^ 16) ↔ NanIn fmtBf16 x := by
  show 0x7F800000 < x * 2 ^ 16 % fmtF32.top ↔ 0x7F80 < x % fmtBf16.top
  rw [bf16_mod_top]
  omega

theorem infIn_bf16 : InfIn fmtF32 (x * 2 ^ 16) ↔ InfIn fmtBf16 x := by
  refine and_congr Iff.rfl ?_
  show x * 2 ^ 16 % fmtF32.top = 0x7F800000 ↔ x % fmtBf16.top = 0x7F80
  rw [bf16_mod_top]
  omega

theorem finIn_bf16 : FinIn fmtF32 (x * 2 ^ 16) ↔ FinIn fmtBf16 x := by
  show x * 2 ^ 16 % fmtF32.top < 0x7F800000 ↔ x % fmtBf16.top < 0x7F80
  rw [bf16_mod_top]
  omega

theorem negIn_bf16 : negIn fmtF32 (x * 2 ^ 16) = negIn fmtBf16 x := by
  show (x * 2 ^ 16).testBit 31 = x.testBit 15
  rw [Nat.testBit_mul_two_pow]
  rfl

theorem valueOf_bf16 : valueOf fmtF32 (x * 2 ^ 16) = valueOf fmtBf16 x := by
  have hex : x * 2 ^ 16 / 2 ^ fmtF32.fb % 2 ^ fmtF32.eb = x / 2 ^ fmtBf16.fb % 2 ^ fmtBf16.eb := by
    show x * 2 ^ 16 / 2 ^ 23 % 2 ^ 8 = x / 2 ^ 7 % 2 ^ 8
    omega
  have hfr : x * 2 ^ 16 % 2 ^ fmtF32.fb = x % 2 ^ fmtBf16.fb * 2 ^ 16 := by
    show x * 2 ^ 16 % 2 ^ 23 = x % 2 ^ 7 * 2 ^ 16
    omega
  have hunit : ((2 : ℚ) ^ fmtF32.emin) * 2 ^ 16 = 2 ^ fmtBf16.emin := by
    rw [show fmtF32.emin = -149 from rfl, show fmtBf16.emin = -133 from rfl]
    norm_num
  have hone : (2 : Nat) ^ fmtF32.fb = 2 ^ fmtBf16.fb * 2 ^ 16 := rfl
  unfold valueOf
  rw [hex, hfr, negIn_bf16, ← hunit, hone]
  dsimp only
  generalize x % 2 ^ fmtBf16.fb = fr
  generalize x / 2 ^ fmtBf16.fb % 2 ^ fmtBf16.eb = ex
  have hmag : (if ex = 0 then fr * 2 ^ 16 else (2 ^ fmtBf16.fb * 2 ^ 16 + fr * 2 ^ 16) * 2 ^ (ex - 1)) =
      (if ex = 0 then fr else (2 ^ fmtBf16.fb + fr) * 2 ^ (ex - 1)) * 2 ^ 16 := by
    split
    · rfl
    · ring
  rw [hmag]
  push_cast
  ring

/-- What a BF16 pattern means is what its FP32 pattern means. -/
theorem means_bf16 {v : FV} (h : Means fmtBf16 x v) : Means fmtF32 (x * 2 ^ 16) v := by
  cases v with
  | nan => exact nanIn_bf16.mpr h
  | inf neg => exact ⟨infIn_bf16.mpr h.1, negIn_bf16.trans h.2⟩
  | fin neg m e =>
    obtain ⟨hfin, hneg, ⟨he, hm⟩, hval⟩ := h
    have hunit : fmtF32.emin ≤ fmtBf16.emin := by decide
    refine ⟨finIn_bf16.mpr hfin, negIn_bf16.trans hneg, ⟨hunit.trans he, hm.trans (by decide)⟩, ?_⟩
    rw [valueOf_bf16]
    exact hval

/-- A loaded BF16 value is FP32 of the same value. -/
theorem loadIs_bf16 (hx : x < 2 ^ 16) : LoadIs .bf16 x (loadVal .bf16 x) := by
  have hm : Means fmtF32 (x * 2 ^ 16) (fmtBf16.read false x) := means_bf16 (means_read_self fmtOk_bf16 hx)
  have hval : loadVal .bf16 x = (fmtF32.write .rne false true (fmtBf16.read false x)).1 := rfl
  have hlt : x * 2 ^ 16 < 2 * fmtF32.top := by
    show x * 2 ^ 16 < 2 ^ 32
    omega
  refine ⟨fun hn => ?_, fun hn => ?_⟩
  · rw [hval, hm.nan_iff.mp hn]
    rfl
  · rw [hval, write_self fmtOk_f32 hlt hm hn .rne false true fun _ => rfl]
    exact Nat.mod_eq_of_lt hlt

end

theorem spreadQ8_lt (x : Nat) : spreadQ8 x < 2 ^ 32 := by
  have hfold : ∀ n, (List.range n).foldl (fun a i => a + fld x (3 * i) 3 * 2 ^ (4 * i)) 0 < 2 ^ (4 * n) := by
    intro n
    induction n with
    | zero => exact Nat.one_pos
    | succ n ih =>
      have hcode : fld x (3 * n) 3 ≤ 7 := Nat.le_of_lt_succ (Nat.mod_lt _ (by decide))
      have hterm := Nat.mul_le_mul_right (2 ^ (4 * n)) hcode
      rw [List.range_succ, List.foldl_append, Nat.mul_succ, Nat.pow_add]
      simp only [List.foldl_cons, List.foldl_nil]
      omega
  exact hfold 8

/-- Loaded bytes fill the registers of their type as Table 8.12 says. -/
theorem loadIs_loadVal (ty : Ty) {x : Nat} (hx : x < 256 ^ tyBytes ty) : LoadIs ty x (loadVal ty x % 2 ^ (32 * tyRegs ty)) := by
  have hraw : loadVal ty x = x → (x % 2 ^ (32 * tyRegs ty) = x) := fun _ => Nat.mod_eq_of_lt (lt_of_lt_of_le hx (by cases ty <;> decide))
  cases ty with
  | i8 =>
    have h := reads_tyRes_of_range (ty := .i8) rfl (x := sgn 8 x) (by simp [tyMin, tySigned, tyBits, sgn]; split <;> omega)
      (by simp [tyMax, tySigned, tyBits, sgn]; split <;> omega)
    exact h
  | i16 =>
    have h := reads_tyRes_of_range (ty := .i16) rfl (x := sgn 16 x) (by simp [tyMin, tySigned, tyBits, sgn]; split <;> omega)
      (by simp [tyMax, tySigned, tyBits, sgn]; split <;> omega)
    exact h
  | bf16 =>
    have h := loadIs_bf16 (x := x) hx
    have hlt : loadVal .bf16 x < 2 ^ 32 := write_lt fmtOk_f32 .rne false true _
    rw [show 32 * tyRegs .bf16 = 32 from rfl, Nat.mod_eq_of_lt hlt]
    exact h
  | e4m3 => exact Nat.mod_eq_of_lt (write_lt fmtOk_f32 .rne false true (fmtE4m3.read false x))
  | e5m2 => exact Nat.mod_eq_of_lt (write_lt fmtOk_f32 .rne false true (fmtE5m2.read false x))
  | q8 => exact Nat.mod_eq_of_lt (spreadQ8_lt x)
  | i32 => exact hraw rfl
  | i64 => exact hraw rfl
  | n8 => exact hraw rfl
  | n16 => exact hraw rfl
  | n32 => exact hraw rfl
  | n64 => exact hraw rfl
  | f32 => exact hraw rfl
  | bf16x2 => exact hraw rfl
  | q16 => exact hraw rfl
  | x128 => exact hraw rfl
  | b32 => exact hraw rfl
  | b64 => exact hraw rfl

/-- A stored register value gives the bytes that Table 8.12 says. -/
theorem storeIs_storeVal (ty : Ty) (r : Nat) : StoreIs ty r (storeVal ty r).1 := by
  cases ty <;> rfl

end Sys2Proof.Claims
end

section
/-! An instruction on the windows whose lanes all pass (08 R204): what it leaves, as the steps of its acting lanes on the
team's windows and on the group's registers. -/

namespace Sys2Proof.Claims
open Sys2Proof.Machine

/-- F does not read the groups of a team. -/
def NoGroups (F : Team → Team) : Prop := ∀ tm x, F { tm with groups := x } = { F tm with groups := x }

/-- A team apart from its groups. -/
def SameWindows (tm tm' : Team) : Prop := tm' = { tm with groups := tm'.groups }

theorem SameWindows.trans {a b c : Team} (h : SameWindows a b) (h' : SameWindows b c) : SameWindows a c := by
  rw [SameWindows] at h h' ⊢
  rw [h', h]

theorem SameWindows.rows {a b : Team} (h : SameWindows a b) : b.rows = a.rows := by rw [h]
theorem SameWindows.tiles {a b : Team} (h : SameWindows a b) : b.tiles = a.tiles := by rw [h]
theorem SameWindows.scratch {a b : Team} (h : SameWindows a b) : b.scratch = a.scratch := by rw [h]

theorem SameWindows.step {F : Team → Team} (hF : NoGroups F) {a b : Team} (h : SameWindows a b) (g : Nat) (G : Group → Group) :
    SameWindows (F a) ((F b).modGroup g G) := by
  have hFb : F b = { F a with groups := b.groups } := by
    have := hF a b.groups
    rwa [← h] at this
  rw [SameWindows, hFb]
  rfl

theorem setFlagsG_zero (x : Group) : setFlagsG 0 x = x := by
  have : x.gstat ||| (0 : Flags).setWidth 32 = x.gstat := by simp
  simp only [setFlagsG, this]

section
variable {s : State} {t g : Nat} {i : Instr} {h : Hdr} {d : Reg} {f : Form} {us : List Use} {act : Ctx → State → Act}
  {lane : Nat → State → State × Option Bad} {F : Nat → Team → Team} {G : Nat → Group → Group}

/-- The state when the acting lanes below n have made their steps on the windows. -/
def winLanes (s : State) (t g : Nat) (E : Lanes) (d : Reg) (F : Nat → Team → Team) (G : Nat → Group → Group) (n : Nat) : State :=
  laneState (acts E d) (fun l => winStep t g (F l) (G l)) s n

section
variable {E : Lanes} (he : Exists s t g) (hF : ∀ l, OnWindows (F l))
  (hG : ∀ l, acts E d l = true → ∀ x, Writes f E x (G l x))
include he hF hG

theorem winInv_winLanes {n : Nat} (hn : n ≤ 32) : WinInv f E s (winLanes s t g E d F G n) t g :=
  winInv_laneState (fun l _ ha _ hb => hb.step he (hF l) (hG l ha _)) n hn

/-- The windows change by the steps of the lanes alone. -/
theorem sameWindows_winLanes (hN : ∀ l, NoGroups (F l)) : ∀ {n : Nat}, n ≤ 32 →
    SameWindows (laneState (acts E d) F (s.team t) n) ((winLanes s t g E d F G n).team t) := by
  intro n
  induction n with
  | zero => exact fun _ => rfl
  | succ n ih =>
    intro hn
    have hb := winInv_winLanes he hF hG (n := n) (by omega)
    unfold winLanes at hb ih ⊢
    rw [laneState_succ, laneState_succ]
    cases acts E d n with
    | false => exact ih (by omega)
    | true =>
      rw [if_pos rfl, if_pos rfl, team_winStep (hb.framed.exists he)]
      exact (ih (by omega)).step (hN n) g (G n)

end

/-- What an instruction on the windows leaves, none of whose lanes fails. -/
theorem win_lanes (hx : exec i s = simt h i.size us noPriv act s) (hI : Issuing s t g) (hr : rangeOk (s.launchOf t) h us = true)
    (hf : f.hdr = h) (hbuf : s.buffer = [])
    (ha : act (ctxOf s t g h i.size) s = finishLanes (ctxOf s t g h i.size) (onceReg d) (runLanes lane
      (if onceReg d then (lanes (eligible s t g h)).take 1 else lanes (eligible s t g h))
      (releaseLanes t g (eligible s t g h) .team s)))
    (hF : ∀ l, OnWindows (F l)) (hN : ∀ l, NoGroups (F l))
    (hG : ∀ l, acts (eligible s t g h) d l = true → ∀ x, Writes f (eligible s t g h) x (G l x))
    (hlane : ∀ l < 32, acts (eligible s t g h) d l = true → ∀ b, WinInv f (eligible s t g h) s b t g →
      SameWindows (laneState (acts (eligible s t g h) d) F (s.team t) l) (b.team t) →
      lane l b = (winStep t g (F l) (G l) b, none)) :
    ∃ s', exec i s = .next s' ∧ OnlyWindows s s' t g ∧ GroupFrame f s s' t g i.size ∧
      SameWindows (laneState (acts (eligible s t g h) d) F (s.team t) 32) (s'.team t) ∧
      ∀ r l k, regGet (s'.grp t g) r l k = regGet ((winLanes s t g (eligible s t g h) d F G 32).grp t g) r l k := by
  have he := hI.exists
  have hact : (if eligible s t g h = 0 then .adv s else act (ctxOf s t g h i.size) s) =
      .adv (winLanes s t g (eligible s t g h) d F G 32) := by
    split
    · next h0 => rw [winLanes, h0, laneState_of_none (acts_zero d)]
    · rw [ha, releaseLanes_nil hbuf, actors_eq, runLanes_eq_laneState (step := fun l => winStep t g (F l) (G l))]
      · rfl
      · exact fun n hn hp => hlane n hn hp _ (winInv_winLanes he hF hG (by omega)) (sameWindows_winLanes he hF hG hN (by omega))
  obtain ⟨s', hx, how, hgf, hteam, hreg⟩ := win_completes hx hI hr hact hf (winInv_winLanes he hF hG (Nat.le_refl _))
  exact ⟨s', hx, how, hgf, (sameWindows_winLanes he hF hG hN (Nat.le_refl _)).trans hteam, hreg⟩

/-- What a read of the windows leaves, none of whose lanes fails. -/
theorem win_reads {k : Nat} {v : Nat → Nat} (hx : exec i s = simt h i.size us noPriv act s) (hI : Issuing s t g)
    (hr : rangeOk (s.launchOf t) h us = true) (hbuf : s.buffer = [])
    (ha : act (ctxOf s t g h i.size) s = finishLanes (ctxOf s t g h i.size) (onceReg d) (runLanes lane
      (if onceReg d then (lanes (eligible s t g h)).take 1 else lanes (eligible s t g h))
      (releaseLanes t g (eligible s t g h) .team s)))
    (hlane : ∀ l, Acting s t g h d l → ∀ b, Framed s b t g → SameWindows (s.team t) (b.team t) →
      lane l b = (writeReg (ctxOf s t g h i.size) (laneBit l) d k (fun _ => v l) b, none)) :
    ∃ s', (exec i s = .next s' ∧ OnlyWindows s s' t g ∧ GroupFrame ⟨h, [], [(d, k)], [], false, false, false⟩ s s' t g i.size) ∧
      SameWindows (s.team t) (s'.team t) ∧
      ∀ l, InE s t g h l → regGet (s'.grp t g) d l k = v (laneOf d (eligible s t g h) l) % 2 ^ (32 * k) := by
  have he := hI.exists
  have hid : ∀ n, laneState (acts (eligible s t g h) d) (fun _ tm => tm) (s.team t) n = s.team t := by
    intro n
    induction n with
    | zero => rfl
    | succ n ih => rw [laneState_succ, ih, ite_self]
  have hG : ∀ l, acts (eligible s t g h) d l = true → ∀ x, Writes ⟨h, [], [(d, k)], [], false, false, false⟩ (eligible s t g h) x
      (writeRegG (laneBit l) d k (fun _ => v l) x) := fun l hl x => writes_writeReg _ _ (by simp) (laneBit_mem (acts_mem hl))
  obtain ⟨s', hx, how, hgf, hteam, hreg⟩ := win_lanes hx hI hr rfl hbuf ha (fun _ => onWindows_id) (fun _ _ _ => rfl) hG
    fun l hl hp b hb hw => by
      rw [hlane l (acting_iff.mpr ⟨hl, hp⟩) b hb.framed (by rwa [hid] at hw), writeReg_eq, winStep, State.modTeam_id]
      rfl
  rw [hid] at hteam
  refine ⟨s', ⟨hx, how, hgf⟩, hteam, fun l hl => ?_⟩
  obtain ⟨h1, h2⟩ := acts_laneOf (d := d) hl.1 hl.2
  rw [hreg, regGet_laneOf _ d (eligible s t g h)]
  refine regGet_laneState (val := fun l _ => v l) (fun _ => rfl) (fun l hl hp => ⟨0, ?_⟩) 32 (Nat.le_refl _) _ h1 h2
  rw [setFlagsG_zero]
  exact grp_winStep ((winInv_winLanes he (fun _ => onWindows_id) hG (by omega)).framed.exists he) onWindows_id

end

end Sys2Proof.Claims
end

section
/-! LDS and STS on the scratchpad, the accumulator tiles and the selection rows (08 R174 to R176, R204). -/

namespace Sys2Proof.Claims
open Sys2Proof.Machine

/-! Lanes' steps within a part of a structure. -/

section
variable {p : Nat → Bool}

theorem laneState_single {α : Type} {step : Nat → α → α} {s : α} {l : Nat} (h : (List.range 32).filter p = [l]) :
    laneState p step s 32 = step l s := by
  rw [laneState, h]
  rfl

theorem laneState_scratch (D : Nat → Store 8 → Store 8) (tm : Team) (n : Nat) :
    laneState p (fun l tm => { tm with scratch := D l tm.scratch }) tm n = { tm with scratch := laneState p D tm.scratch n } := by
  induction n with
  | zero => rfl
  | succ n ih =>
    rw [laneState_succ, laneState_succ, ih]
    split <;> rfl

/-- A team with one tile changed. -/
def onTile (b : Nat) (f : Tile → Tile) (tm : Team) : Team := { tm with tiles := tm.tiles.modify b f }

/-- A tile with its words changed. -/
def onData (f : Store 32 → Store 32) (y : Tile) : Tile := { y with data := f y.data }

theorem laneState_tile (b : Nat) (D : Nat → Store 32 → Store 32) (tm : Team) (n : Nat) :
    laneState p (fun l => onTile b (onData (D l))) tm n = onTile b (onData fun m => laneState p D m n) tm := by
  induction n with
  | zero =>
    show tm = { tm with tiles := tm.tiles.modify b fun y => y }
    rw [modify_id]
  | succ n ih =>
    rw [laneState_succ, ih]
    split
    · next hp => simp only [onTile, List.modify_modify_eq, laneState_succ, if_pos hp]; rfl
    · next hp => simp only [laneState_succ, if_neg hp]

end

/-! The windows named by an instruction (02 R53). -/

theorem win_rangeOk {l : Launch} {h : Hdr} {u : Use} {w : Window} {us : List Use} (hu : rangeOk l h (u :: us) = true)
    (hw : ∀ k ∈ ofWindow w, k < l.accs) : rangeOk l h (u :: winUse w ++ us) = true := by
  have htile : (winUse w).all (useIn l) = true := by
    cases w with
    | acc k => simpa [winUse, useIn] using hw k.toNat (by simp [ofWindow])
    | scratch => rfl
    | sel => rfl
  rw [← hu]
  unfold rangeOk
  simp only [List.cons_append, List.all_cons, List.all_append, htile, Bool.true_and]

section
variable {s : State} {t g : Nat} {h : Hdr} {ty : Ty} {d : Reg} {ad : Addr} {w : Window}

theorem lds_rangeOk (hR : ReadyFor (.lds h ty w d ad) s t g) :
    rangeOk (s.launchOf t) h (.wr d (tyRegs ty) :: winUse w ++ addrUse 1 ad) = true := by
  obtain ⟨hd, hw⟩ := hR.2 ⟨h, (d, tyRegs ty) :: ofAddr 1 ad, ofWindow w⟩ rfl
  exact win_rangeOk (rangeOk_append_addrUse (rs := [(d, tyRegs ty)]) (us := [.wr d (tyRegs ty)]) hd (by simp [Named])) hw

theorem sts_rangeOk (hR : ReadyFor (.sts h ty w ad d) s t g) :
    rangeOk (s.launchOf t) h (.rd d (tyRegs ty) :: winUse w ++ addrUse 1 ad) = true := by
  obtain ⟨hd, hw⟩ := hR.2 ⟨h, (d, tyRegs ty) :: ofAddr 1 ad, ofWindow w⟩ rfl
  exact win_rangeOk (rangeOk_append_addrUse (rs := [(d, tyRegs ty)]) (us := [.rd d (tyRegs ty)]) hd (by simp [Named])) hw

theorem exec_lds (h : Hdr) (ty : Ty) (w : Window) (d : Reg) (ad : Addr) (s : State) : exec (.lds h ty w d ad) s =
    simt h (Instr.lds h ty w d ad).size (.wr d (tyRegs ty) :: winUse w ++ addrUse 1 ad) noPriv (winAct ty w d ad false) s := rfl

theorem exec_sts (h : Hdr) (ty : Ty) (w : Window) (ad : Addr) (d : Reg) (s : State) : exec (.sts h ty w ad d) s =
    simt h (Instr.sts h ty w ad d).size (.rd d (tyRegs ty) :: winUse w ++ addrUse 1 ad) noPriv (winAct ty w d ad true) s := rfl

/-! The scratchpad (R174). -/

theorem lds_scratch (hR : ReadyFor (.lds h ty .scratch d ad) s t g) (hecc : s.ecc = []) (hbuf : s.buffer = [])
    (hfit : ∀ l, Acting s t g h d l → offsetOf (s.grp t g) ad l + tyBytes ty ≤ (s.launchOf t).scratchBytes) :
    ∃ s', (exec (.lds h ty .scratch d ad) s = .next s' ∧ OnlyWindows s s' t g ∧
        GroupFrame ⟨h, [], [(d, tyRegs ty)], [], false, false, false⟩ s s' t g (Instr.lds h ty .scratch d ad).size) ∧
      SameWindows (s.team t) (s'.team t) ∧ ∀ l, InE s t g h l → LoadIs ty
        (bytesAt (s.team t).scratch (offsetOf (s.grp t g) ad (laneOf d (eligible s t g h) l)) (tyBytes ty))
        (regGet (s'.grp t g) d l (tyRegs ty)) := by
  have he := hR.1.exists
  obtain ⟨s', hframe, hteam, hreg⟩ := win_reads (d := d) (k := tyRegs ty)
    (v := fun l => loadVal ty ((s.team t).scratch.readLe (offsetOf (s.grp t g) ad l) (tyBytes ty)))
    (exec_lds h ty .scratch d ad s) hR.1 (lds_rangeOk hR) hbuf rfl fun l hl b hb hw => by
      refine (scratchLane_ok (hb.ecc.trans hecc) ?_).trans ?_
      · rw [show b.launchOf (ctxOf s t g h (Instr.lds h ty .scratch d ad).size).t = s.launchOf t from hb.launchOf he]
        exact hfit l hl
      · rw [← hw.scratch]
        rfl
  refine ⟨s', hframe, hteam, fun l hl => ?_⟩
  rw [hreg l hl, ← readLe_eq_bytesAt]
  exact loadIs_loadVal ty (readLe_lt _ _ _)

theorem sts_scratch (hR : ReadyFor (.sts h ty .scratch ad d) s t g) (hecc : s.ecc = []) (hbuf : s.buffer = [])
    (hfit : ∀ l, Acting s t g h d l → offsetOf (s.grp t g) ad l + tyBytes ty ≤ (s.launchOf t).scratchBytes) :
    ∃ s', (exec (.sts h ty .scratch ad d) s = .next s' ∧ OnlyWindows s s' t g ∧
        GroupFrame ⟨h, [], [], [], true, false, false⟩ s s' t g (Instr.sts h ty .scratch ad d).size) ∧
      (s'.team t).tiles = (s.team t).tiles ∧ (s'.team t).rows = (s.team t).rows ∧
      LaneByLane (Acting s t g h d) (s.team t).scratch (s'.team t).scratch fun l m m' =>
        ∃ x, StoreIs ty (regGet (s.grp t g) d l (tyRegs ty)) x ∧ PutAt m m' (offsetOf (s.grp t g) ad l) (tyBytes ty) x := by
  have he := hR.1.exists
  set val := fun l => storeVal ty (regGet (s.grp t g) d l (tyRegs ty)) with hval
  set D : Nat → Store 8 → Store 8 := fun l m => m.writeLe (offsetOf (s.grp t g) ad l) (tyBytes ty) (val l).1 with hD
  obtain ⟨s', hx, how, hgf, hteam, -⟩ := win_lanes (d := d) (F := fun l tm => { tm with scratch := D l tm.scratch })
    (G := fun l => setFlagsG (val l).2) (f := ⟨h, [], [], [], true, false, false⟩)
    (exec_sts h ty .scratch ad d s) hR.1 (sts_rangeOk hR) rfl hbuf rfl (fun _ _ => rfl) (fun _ _ _ => rfl)
    (fun l _ x => writes_setFlags _ _ (by simp)) fun l hl hp b hb hw => by
      refine (scratchLane_ok (hb.framed.ecc.trans hecc) ?_).trans rfl
      rw [show b.launchOf (ctxOf s t g h (Instr.sts h ty .scratch ad d).size).t = s.launchOf t from hb.framed.launchOf he]
      exact hfit l (acting_iff.mpr ⟨hl, hp⟩)
  rw [laneState_scratch] at hteam
  refine ⟨s', ⟨hx, how, hgf⟩, hteam.tiles, hteam.rows, ?_⟩
  rw [hteam.scratch]
  refine laneByLane_of_laneState id (fun l hl => acting_iff.trans (and_iff_right hl)) fun l hl hp => ?_
  exact ⟨(val l).1, storeIs_storeVal _ _, putAt_writeLe _ _ _ _⟩

/-! The accumulator window (R175). -/

/-- The words of a tile after a store of n bytes at an offset. -/
def accWords (m : Store 32) (o n v : Nat) : Store 32 :=
  (List.range (n / 4)).foldl (fun d i => d.set (o / 4 + i) (BitVec.ofNat 32 (v >>> (32 * i)))) m

/-- The words of a tile after the stores of the acting lanes. -/
def storedWords (gr : Group) (E : Lanes) (ty : Ty) (d : Reg) (ad : Addr) (m : Store 32) : Store 32 :=
  laneState (acts E d) (fun l m => accWords m (offsetOf gr ad l) (tyBytes ty) (storeVal ty (regGet gr d l (tyRegs ty))).1) m 32

/-- The offsets that a tile has. -/
def InTile (x : Tile) (o n : Nat) : Prop := o % n = 0 ∧ o + n ≤ if x.x128 then 262144 else 65536

/-- A lane's access to a tile of the window. -/
def accLane (ty : Ty) (d : Reg) (ad : Addr) (store : Bool) (c : Ctx) (s : State) (b : Nat) (x128 : Bool) (l : Nat) (r : State) :
    State × Option Bad :=
  let g := s.grp c.t c.g
  let n := tyBytes ty
  let kind : Kind := if store then .write else .read
  let inTile (o : Nat) : Bool := o % n == 0 && decide (o + n ≤ (if x128 then 262144 else 65536))
  if !(inTile (windowOff g ad l)) then (r, some (badOff 0x07 (windowOff g ad l)))
  else match coreEcc c.t 6 (accPlace b + windowOff g ad l) n kind (storeSpans kind (accPlace b) n
      ((if onceReg d then (lanes c.E).take 1 else lanes c.E).map (windowOff g ad)) inTile) r with
    | (r, some e) => (r, some e)
    | (r, none) =>
      (if store then r.modTeam c.t (onTile b fun y => accWrite y (windowOff g ad l) n (storeVal ty (regGet g d l (tyRegs ty))).1)
       else writeReg c (laneBit l) d (tyRegs ty) (fun _ => loadVal ty (accRead ((r.team c.t).tile b) (windowOff g ad l) n)) r, none)

variable {k : BitVec 3} {x : Tile} {store : Bool}

/-- An access to a tile that the group holds goes on to its lanes. -/
theorem winAct_acc {c : Ctx} (hx : (s.team c.t).tiles[k.toNat]? = some x) (hb : tileBase (s.team c.t) k.toNat = k.toNat)
    (hs : x.state = .group c.g) (hty : ty = .b32 ∨ ty = if x.x128 then .x128 else .f32) :
    winAct ty (.acc k) d ad store c s = finishLanes c (onceReg d) (runLanes (accLane ty d ad store c s k.toNat x.x128)
      (if onceReg d then (lanes c.E).take 1 else lanes c.E) (releaseLanes c.t c.g c.E .team s)) := by
  have htile : (s.team c.t).tile k.toNat = x := by rw [Team.tile, List.getD_eq_getElem?_getD, hx, Option.getD_some]
  have hown : ¬(subTile (s.team c.t) k.toNat || x.state != .group c.g) = true := by simp [subTile, hb, hs]
  have hfmt : ¬(!(ty == .b32 || (if x.x128 then ty == .x128 else ty == .f32))) = true := by
    cases hx128 : x.x128 <;> rcases hty with rfl | rfl <;> simp [hx128]
  unfold winAct
  dsimp only
  rw [hb, htile, if_neg hown, if_neg hfmt]
  rfl

theorem accLane_ok {c : Ctx} {b l : Nat} {r : State} (hecc : r.ecc = []) (hin : InTile x (offsetOf (s.grp c.t c.g) ad l) (tyBytes ty)) :
    accLane ty d ad store c s b x.x128 l r = (if store then r.modTeam c.t (onTile b fun y =>
        accWrite y (offsetOf (s.grp c.t c.g) ad l) (tyBytes ty) (storeVal ty (regGet (s.grp c.t c.g) d l (tyRegs ty))).1)
      else writeReg c (laneBit l) d (tyRegs ty)
        (fun _ => loadVal ty (accRead ((r.team c.t).tile b) (offsetOf (s.grp c.t c.g) ad l) (tyBytes ty))) r, none) := by
  have hok : ¬(!(offsetOf (s.grp c.t c.g) ad l % tyBytes ty == 0 &&
      decide (offsetOf (s.grp c.t c.g) ad l + tyBytes ty ≤ (if x.x128 then 262144 else 65536)))) = true := by
    simp [hin.1, hin.2]
  unfold accLane
  simp only [coreEcc_nil hecc]
  exact if_neg hok

section
variable (hx : (s.team t).tiles[k.toNat]? = some x) (hb : tileBase (s.team t) k.toNat = k.toNat) (hs : x.state = .group g)
  (hty : ty = .b32 ∨ ty = if x.x128 then .x128 else .f32) (hecc : s.ecc = []) (hbuf : s.buffer = [])
  (hfit : ∀ l, Acting s t g h d l → InTile x (offsetOf (s.grp t g) ad l) (tyBytes ty))
include hx hb hs hty hecc hbuf hfit

theorem lds_acc (hR : ReadyFor (.lds h ty (.acc k) d ad) s t g) :
    ∃ s', (exec (.lds h ty (.acc k) d ad) s = .next s' ∧ OnlyWindows s s' t g ∧
        GroupFrame ⟨h, [], [(d, tyRegs ty)], [], false, false, false⟩ s s' t g (Instr.lds h ty (.acc k) d ad).size) ∧
      SameWindows (s.team t) (s'.team t) ∧ ∀ l, InE s t g h l → regGet (s'.grp t g) d l (tyRegs ty) =
        loadVal ty (accRead x (offsetOf (s.grp t g) ad (laneOf d (eligible s t g h) l)) (tyBytes ty)) % 2 ^ (32 * tyRegs ty) := by
  have hact := winAct_acc (store := false) (d := d) (ad := ad) (c := ctxOf s t g h (Instr.lds h ty (.acc k) d ad).size) hx hb hs hty
  refine win_reads (v := fun l => loadVal ty (accRead x (offsetOf (s.grp t g) ad l) (tyBytes ty)))
    (exec_lds h ty (.acc k) d ad s) hR.1 (lds_rangeOk hR) hbuf hact fun l hl b hb hw => ?_
  rw [accLane_ok (c := ctxOf s t g h (Instr.lds h ty (.acc k) d ad).size) (hb.ecc.trans hecc) (hfit l hl), if_neg Bool.false_ne_true]
  have htile : (b.team t).tile k.toNat = x := by
    rw [Team.tile, hw.tiles, List.getD_eq_getElem?_getD, hx, Option.getD_some]
  rw [show (b.team (ctxOf s t g h (Instr.lds h ty (.acc k) d ad).size).t).tile k.toNat = x from htile]
  rfl

theorem sts_acc (hR : ReadyFor (.sts h ty (.acc k) ad d) s t g) :
    ∃ s', (exec (.sts h ty (.acc k) ad d) s = .next s' ∧ OnlyWindows s s' t g ∧
        GroupFrame ⟨h, [], [], [], true, false, false⟩ s s' t g (Instr.sts h ty (.acc k) ad d).size) ∧
      SameWindows (onTile k.toNat (onData (storedWords (s.grp t g) (eligible s t g h) ty d ad)) (s.team t)) (s'.team t) := by
  have hact := winAct_acc (store := true) (d := d) (ad := ad) (c := ctxOf s t g h (Instr.sts h ty (.acc k) ad d).size) hx hb hs hty
  obtain ⟨s', hx, how, hgf, hteam, -⟩ := win_lanes (d := d)
    (F := fun l => onTile k.toNat (onData fun m =>
      accWords m (offsetOf (s.grp t g) ad l) (tyBytes ty) (storeVal ty (regGet (s.grp t g) d l (tyRegs ty))).1))
    (G := fun _ y => y) (f := ⟨h, [], [], [], true, false, false⟩) (exec_sts h ty (.acc k) ad d s) hR.1 (sts_rangeOk hR) rfl hbuf
    hact (fun _ _ => rfl) (fun _ _ _ => rfl) (fun l _ x => Writes.refl _ _ _) fun l hl hp b hb hw => by
      rw [accLane_ok (c := ctxOf s t g h (Instr.sts h ty (.acc k) ad d).size) (hb.framed.ecc.trans hecc) (hfit l (acting_iff.mpr ⟨hl, hp⟩)), if_pos rfl, winStep, State.modGrp_id]
      rfl
  rw [laneState_tile] at hteam
  exact ⟨s', ⟨hx, how, hgf⟩, hteam⟩

end

end

end Sys2Proof.Claims
end

section
/-! The words of tiles and of selection rows (08 R175, R176), and the windows' statement. -/

namespace Sys2Proof.Claims
open Sys2Proof.Machine

/-! The words of a tile. -/

theorem foldl_words_get (v b : Nat) (n : Nat) (m : Store 32) (a : Nat) :
    ((List.range n).foldl (fun d i => d.set (b + i) (BitVec.ofNat 32 (v >>> (32 * i)))) m).get a =
      if b ≤ a ∧ a < b + n then BitVec.ofNat 32 (v / 2 ^ (32 * (a - b))) else m.get a := by
  induction n with
  | zero => rw [if_neg (by omega)]; rfl
  | succ n ih =>
    rw [List.range_succ, List.foldl_append, List.foldl_cons, List.foldl_nil, Store.get_set, ih]
    by_cases ha : b + n = a
    · subst ha
      rw [if_pos rfl, if_pos (by omega), Nat.add_sub_cancel_left, Nat.shiftRight_eq_div_pow]
    · rw [if_neg ha]
      exact if_congr (by omega) rfl rfl

theorem get_accWords (m : Store 32) (o n v a : Nat) : (accWords m o n v).get a =
    if o / 4 ≤ a ∧ a < o / 4 + n / 4 then BitVec.ofNat 32 (v / 2 ^ (32 * (a - o / 4))) else m.get a :=
  foldl_words_get v (o / 4) (n / 4) m a

theorem foldl_words_lt (m : Store 32) (b n : Nat) :
    (List.range n).foldl (fun a i => a + (m.get (b + i)).toNat * 2 ^ (32 * i)) 0 < 2 ^ (32 * n) := by
  induction n with
  | zero => exact Nat.one_pos
  | succ n ih =>
    have hw : (m.get (b + n)).toNat ≤ 2 ^ 32 - 1 := Nat.le_sub_one_of_lt (m.get (b + n)).isLt
    have hterm := Nat.mul_le_mul_right (2 ^ (32 * n)) hw
    rw [List.range_succ, List.foldl_append, Nat.mul_succ, Nat.pow_add]
    simp only [List.foldl_cons, List.foldl_nil]
    omega

theorem foldl_words_word (m : Store 32) (b : Nat) {j : Nat} : ∀ {n : Nat}, j < n →
    (List.range n).foldl (fun a i => a + (m.get (b + i)).toNat * 2 ^ (32 * i)) 0 / 2 ^ (32 * j) % 2 ^ 32 = (m.get (b + j)).toNat := by
  intro n
  induction n with
  | zero => exact fun h => absurd h (Nat.not_lt_zero j)
  | succ n ih =>
    intro hj
    rw [List.range_succ, List.foldl_append, List.foldl_cons, List.foldl_nil]
    by_cases hn : j = n
    · subst hn
      rw [Nat.add_mul_div_right _ _ (Nat.two_pow_pos _), Nat.div_eq_of_lt (foldl_words_lt m b j), Nat.zero_add]
      exact Nat.mod_eq_of_lt (m.get (b + j)).isLt
    · have hlt : j < n := by omega
      have hsplit : 2 ^ (32 * n) = 2 ^ 32 * 2 ^ (32 * (n - j - 1)) * 2 ^ (32 * j) := by
        rw [← Nat.pow_add, ← Nat.pow_add]
        congr 1
        omega
      rw [hsplit, ← Nat.mul_assoc, Nat.add_mul_div_right _ _ (Nat.two_pow_pos _), Nat.mul_left_comm, Nat.add_mul_mod_self_left]
      exact ih hlt

/-- The words that a read of a tile gives. -/
theorem accRead_word (x : Tile) (o : Nat) {n j : Nat} (hj : j < n / 4) :
    accRead x o n / 2 ^ (32 * j) % 2 ^ 32 = (x.data.get (o / 4 + j)).toNat := foldl_words_word x.data (o / 4) hj

theorem accRead_lt (x : Tile) (o n : Nat) : accRead x o n < 2 ^ (32 * (n / 4)) := foldl_words_lt x.data (o / 4) (n / 4)

theorem tiles_onTile (f : Tile → Tile) (tm : Team) (b j : Nat) :
    (onTile b f tm).tiles[j]? = if j = b then tm.tiles[j]?.map f else tm.tiles[j]? := by
  rw [onTile, List.getElem?_modify]
  by_cases hj : j = b
  · simp [hj]
  · simp [hj, Ne.symm hj]

/-! The words of a selection row. -/

theorem selWords_word (o : Nat) : selWords o 4 = [o] := rfl

theorem selBad_word {tm : Team} {store : Bool} {o : Nat} (ho : o % 4 = 0) :
    selBad tm store o 4 = if (selAt tm store o).isNone then some o else none := by
  unfold selBad
  rw [if_neg (by omega), selWords_word]
  simp only [List.find?_cons, List.find?_nil]
  cases (selAt tm store o).isNone <;> rfl

theorem selAt_congr {tm tm' : Team} (h : tm'.rows = tm.rows) (store : Bool) (o : Nat) : selAt tm' store o = selAt tm store o := by
  simp only [selAt, h]

theorem selRead_congr {tm tm' : Team} (h : tm'.rows = tm.rows) (o : Nat) : selRead tm' o = selRead tm o := by
  simp only [selRead, h, selAt_congr h]

/-- A field of a packed number. -/
theorem fld_pack {fs : List (Nat × Nat)} {k lo w x : Nat} (he : fs[k]? = some (w, x)) (hlo : ((fs.take k).map Prod.fst).sum = lo)
    (hx : x < 2 ^ w) : fld (pack fs) lo w = x := by
  obtain ⟨hk, hkx⟩ := List.getElem?_eq_some_iff.mp he
  have hfield := pack_field fs k hk
  rw [hkx, hlo] at hfield
  rw [fld, Nat.shiftRight_eq_div_pow, hfield]
  exact Nat.mod_eq_of_lt hx

section
variable {tm : Team} {row j : Nat}

theorem selAt_header (hr : row < tm.rows.length) (h128 : row < 128) (hj : j < 2) :
    selAt tm false (48 * row + 4 * j) = some (.header row (4 * j)) := by
  unfold selAt
  rw [if_pos (by omega), show (48 * row + 4 * j) / 48 = row by omega, show (48 * row + 4 * j) % 48 = 4 * j by omega, if_neg]
  simpa using hr

theorem selAt_header_store (h128 : row < 128) (hj : j < 4) : selAt tm true (48 * row + 4 * j) = none := by
  unfold selAt
  rw [if_pos (by omega), if_pos (by simp)]

theorem selAt_label (store : Bool) (hr : row < tm.rows.length) (h128 : row < 128) (hj : j < 4) :
    selAt tm store (38912 + 16 * row + 4 * j) = some (.label row j) := by
  unfold selAt
  have hin : ¬(decide (38912 + 16 * row + 4 * j < 38912) || decide (40960 ≤ 38912 + 16 * row + 4 * j)) = true := by
    simp only [Bool.or_eq_true, decide_eq_true_eq]
    omega
  rw [if_neg (by omega), if_neg hin, show (38912 + 16 * row + 4 * j - 38912) / 16 = row by omega,
    show (38912 + 16 * row + 4 * j - 38912) % 16 / 4 = j by omega, if_neg (by omega)]

theorem selRead_label (hr : row < tm.rows.length) (h128 : row < 128) (hj : j < 4) :
    selRead tm (38912 + 16 * row + 4 * j) = ((tm.rows.getD row {}).lid.getD j 0).toNat := by
  rw [selRead, selAt_label false hr h128 hj]

theorem selRead_header (hr : row < tm.rows.length) (h128 : row < 128) (hj : j < 2) :
    selRead tm (48 * row + 4 * j) = if j % 2 = 0 then (tm.rows.getD row {}).m.toNat else (tm.rows.getD row {}).s.toNat := by
  rw [selRead, selAt_header hr h128 hj]
  show fld (rowHeader (tm.rows.getD row {}) row) (8 * (4 * j)) 32 = _
  generalize tm.rows.getD row {} = r
  have h0 : fld (rowHeader r row) 0 32 = r.m.toNat := fld_pack (k := 0) (by simp) (by simp) r.m.isLt
  have h1 : fld (rowHeader r row) 32 32 = r.s.toNat := fld_pack (k := 1) (by simp) (by simp) r.s.isLt
  obtain rfl | rfl : j = 0 ∨ j = 1 := by omega
  · rw [if_pos rfl, ← h0]
  · rw [if_neg (by decide), ← h1]

end

/-- A whole label replaced. -/
theorem setFld_word (old v : Nat) (h : old < 2 ^ 32) : setFld old 0 32 v = v % 2 ^ 32 := by
  simp only [setFld, fld, Nat.shiftRight_zero, Nat.shiftLeft_zero, Nat.mod_eq_of_lt h, Nat.sub_self, Nat.zero_add]

section
variable {s : State} {t g : Nat} {h : Hdr} {d : Reg} {ad : Addr} {store : Bool}

/-- A lane's access to the selection window. -/
def selLane (ty : Ty) (d : Reg) (ad : Addr) (store : Bool) (c : Ctx) (s : State) (l : Nat) (r : State) : State × Option Bad :=
  let g := s.grp c.t c.g
  let n := tyBytes ty
  let kind : Kind := if store then .write else .read
  let o := windowOff g ad l
  let val := storeVal ty (regGet g d l (tyRegs ty))
  match selBad (s.team c.t) store o n with
  | some o => (r, some (badOff 0x07 o))
  | none => match coreEcc c.t 6 (selPlace + o) n kind (storeSpans kind selPlace n
      ((if onceReg d then (lanes c.E).take 1 else lanes c.E).map (windowOff g ad)) fun o => (selBad (s.team c.t) store o n).isNone) r with
    | (r, some e) => (r, some e)
    | (r, none) =>
      let ws := selWords o n
      (if store then orFlags c val.2 (ws.foldl (fun s w => selWrite c.t w (min 4 (n - (w - o))) (val.1 / 256 ^ (w - o)) s) r)
       else writeReg c (laneBit l) d (tyRegs ty)
        (fun _ => loadVal ty (ws.foldl (fun a w => a + selRead (r.team c.t) w * 256 ^ (w - o)) 0 % 256 ^ n)) r, none)

theorem winAct_sel {ty : Ty} {c : Ctx} (hb : selBusy (s.team c.t) = false) :
    winAct ty .sel d ad store c s = finishLanes c (onceReg d) (runLanes (selLane ty d ad store c s)
      (if onceReg d then (lanes c.E).take 1 else lanes c.E) (releaseLanes c.t c.g c.E .team s)) := by
  unfold winAct
  dsimp only
  rw [hb, if_neg Bool.false_ne_true]
  rfl

theorem selLane_ok {c : Ctx} {l : Nat} {r : State} (hecc : r.ecc = [])
    (hbad : selBad (s.team c.t) store (offsetOf (s.grp c.t c.g) ad l) 4 = none) : selLane .b32 d ad store c s l r =
      (if store then orFlags c (storeVal .b32 (regGet (s.grp c.t c.g) d l 1)).2 (selWrite c.t (offsetOf (s.grp c.t c.g) ad l) 4
          (storeVal .b32 (regGet (s.grp c.t c.g) d l 1)).1 r)
       else writeReg c (laneBit l) d 1 (fun _ => selRead (r.team c.t) (offsetOf (s.grp c.t c.g) ad l) % 2 ^ 32) r, none) := by
  have hb : selBad (s.team c.t) store (windowOff (s.grp c.t c.g) ad l) (tyBytes .b32) = none := hbad
  have hread : ∀ y : Team, loadVal .b32 ((selWords (windowOff (s.grp c.t c.g) ad l) (tyBytes .b32)).foldl
      (fun a w => a + selRead y w * 256 ^ (w - windowOff (s.grp c.t c.g) ad l)) 0 % 256 ^ tyBytes .b32) =
      selRead y (offsetOf (s.grp c.t c.g) ad l) % 2 ^ 32 := by
    intro y
    show (0 + selRead y (windowOff (s.grp c.t c.g) ad l) * 256 ^ (windowOff (s.grp c.t c.g) ad l - windowOff (s.grp c.t c.g) ad l)) % 256 ^ 4 = _
    rw [Nat.sub_self, Nat.pow_zero, Nat.mul_one, Nat.zero_add]
    rfl
  have hwrite : (selWords (windowOff (s.grp c.t c.g) ad l) (tyBytes .b32)).foldl (fun s' w => selWrite c.t w
      (min 4 (tyBytes .b32 - (w - windowOff (s.grp c.t c.g) ad l)))
      ((storeVal .b32 (regGet (s.grp c.t c.g) d l (tyRegs .b32))).1 / 256 ^ (w - windowOff (s.grp c.t c.g) ad l)) s') r =
      selWrite c.t (offsetOf (s.grp c.t c.g) ad l) 4 (storeVal .b32 (regGet (s.grp c.t c.g) d l 1)).1 r := by
    rw [show tyBytes .b32 = 4 from rfl, selWords_word, List.foldl_cons, List.foldl_nil, Nat.sub_self, Nat.sub_zero, Nat.min_self,
      Nat.pow_zero, Nat.div_one]
    rfl
  unfold selLane
  simp only [hb, coreEcc_nil hecc, hread, hwrite]
  rfl

section
variable (hbusy : selBusy (s.team t) = false) (hecc : s.ecc = []) (hbuf : s.buffer = [])
include hbusy hecc hbuf

/-- A read of words of the selection window, each the one of `word`. -/
theorem lds_sel {word : Nat → Nat} (hR : ReadyFor (.lds h .b32 .sel d ad) s t g)
    (hword : ∀ l, Acting s t g h d l → selBad (s.team t) false (offsetOf (s.grp t g) ad l) 4 = none ∧
      selRead (s.team t) (offsetOf (s.grp t g) ad l) = word l ∧ word l < 2 ^ 32) :
    ∃ s', (exec (.lds h .b32 .sel d ad) s = .next s' ∧ OnlyWindows s s' t g ∧
        GroupFrame ⟨h, [], [(d, 1)], [], false, false, false⟩ s s' t g (Instr.lds h .b32 .sel d ad).size) ∧
      SameWindows (s.team t) (s'.team t) ∧ ∀ l, InE s t g h l → regGet (s'.grp t g) d l 1 = word (laneOf d (eligible s t g h) l) := by
  have hact := winAct_sel (ty := .b32) (store := false) (d := d) (ad := ad)
    (c := ctxOf s t g h (Instr.lds h .b32 .sel d ad).size) hbusy
  obtain ⟨s', hframe, hteam, hreg⟩ := win_reads (k := 1) (v := word) (exec_lds h .b32 .sel d ad s) hR.1 (lds_rangeOk hR) hbuf hact
    fun l hl b hb hw => by
      obtain ⟨h1, h2, h3⟩ := hword l hl
      rw [selLane_ok (c := ctxOf s t g h (Instr.lds h .b32 .sel d ad).size) (hb.ecc.trans hecc) h1, if_neg Bool.false_ne_true]
      have hread : selRead (b.team t) (offsetOf (s.grp t g) ad l) % 2 ^ 32 = word l := by
        rw [selRead_congr hw.rows, h2, Nat.mod_eq_of_lt h3]
      rw [← hread]
      rfl
  refine ⟨s', hframe, hteam, fun l hl => ?_⟩
  obtain ⟨-, -, h3⟩ := hword _ (acting_laneOf d hl)
  rw [hreg l hl]
  exact Nat.mod_eq_of_lt h3

end

end

end Sys2Proof.Claims
end

section
/-! The statement on the windows (08 R174 to R176, R204). -/

namespace Sys2Proof.Claims
open Sys2Proof.Machine

/-! A label stored, and a store to a header (08 R176). -/

/-- A team with one selection row changed. -/
def onRow (row : Nat) (f : SelRow → SelRow) (tm : Team) : Team := { tm with rows := tm.rows.modify row f }

/-- A row with one label replaced. -/
def setLabel (j v : Nat) (r : SelRow) : SelRow := { r with lid := r.lid.set j (BitVec.ofNat 32 v) }

theorem selWrite_label {b : State} {t o row j v : Nat} (hat : selAt (b.team t) true o = some (.label row j)) :
    selWrite t o 4 v b = b.modTeam t (onRow row (setLabel j v)) := by
  have hword : (fun old : Word => BitVec.ofNat 32 (setFld old.toNat 0 (8 * 4) v)) = fun _ => BitVec.ofNat 32 v := by
    funext old
    rw [setFld_word _ _ old.isLt]
    exact BitVec.eq_of_toNat_eq (by simp)
  unfold selWrite
  rw [hat]
  simp only [hword, ← List.set_eq_modify]
  rfl

section
variable {s : State} {t g l row j : Nat} {h : Hdr} {d : Reg} {ad : Addr} (hbusy : selBusy (s.team t) = false)
  (hbuf : s.buffer = []) (hR : ReadyFor (.sts h .b32 .sel ad d) s t g) (hl : Acting s t g h d l)
  (hu : ∀ l', Acting s t g h d l' → l' = l)
include hbusy hbuf hR hl hu

theorem sts_label (hecc : s.ecc = []) (hrow : row < (s.team t).rows.length) (h128 : row < 128) (hj : j < 4)
    (ho : offsetOf (s.grp t g) ad l = 38912 + 16 * row + 4 * j) :
    ∃ s', (exec (.sts h .b32 .sel ad d) s = .next s' ∧ OnlyWindows s s' t g ∧
        GroupFrame ⟨h, [], [], [], true, false, false⟩ s s' t g (Instr.sts h .b32 .sel ad d).size) ∧
      (∀ k, k ≠ row → (s'.team t).rows[k]? = (s.team t).rows[k]?) ∧
      (s'.team t).rows[row]? = ((s.team t).rows[row]?).map (setLabel j (regGet (s.grp t g) d l 1)) := by
  set F : Nat → Team → Team := fun _ => onRow row (setLabel j (regGet (s.grp t g) d l 1)) with hF
  have hact := winAct_sel (ty := .b32) (store := true) (d := d) (ad := ad)
    (c := ctxOf s t g h (Instr.sts h .b32 .sel ad d).size) hbusy
  have hat : ∀ tm : Team, tm.rows = (s.team t).rows → selAt tm true (offsetOf (s.grp t g) ad l) = some (.label row j) := by
    intro tm htm
    rw [ho]
    exact selAt_label true (by rw [htm]; exact hrow) h128 hj
  have hval : (storeVal .b32 (regGet (s.grp t g) d l 1)).1 = regGet (s.grp t g) d l 1 := Nat.mod_eq_of_lt (regGet_lt _ _ _ 1)
  obtain ⟨s', hx, how, hgf, hteam, -⟩ := win_lanes (d := d) (F := F)
    (G := fun l' => setFlagsG (storeVal .b32 (regGet (s.grp t g) d l' 1)).2) (f := ⟨h, [], [], [], true, false, false⟩)
    (exec_sts h .b32 .sel ad d s) hR.1 (sts_rangeOk hR) rfl hbuf hact (fun _ _ => rfl) (fun _ _ _ => rfl)
    (fun _ _ _ => writes_setFlags _ _ (by simp)) fun l' hl' hp b hb hw => by
      obtain rfl := hu l' (acting_iff.mpr ⟨hl', hp⟩)
      have hrows : (b.team t).rows = (s.team t).rows := by
        have hnone : laneState (acts (eligible s t g h) d) F (s.team t) l' = s.team t := by
          have hempty : (List.range l').filter (acts (eligible s t g h) d) = [] := by
            refine List.filter_eq_nil_iff.mpr fun m hm hpm => ?_
            have hlt := List.mem_range.mp hm
            exact absurd (hu m (acting_iff.mpr ⟨by omega, hpm⟩)) (by omega)
          rw [laneState, hempty]
          rfl
        rw [hnone] at hw
        exact hw.rows
      rw [selLane_ok (c := ctxOf s t g h (Instr.sts h .b32 .sel ad d).size) (hb.framed.ecc.trans hecc), if_pos rfl]
      · refine congrArg (fun x => (x, none)) ?_
        show orFlags _ _ (selWrite t (offsetOf (s.grp t g) ad l') 4 (storeVal .b32 (regGet (s.grp t g) d l' 1)).1 b) = _
        rw [selWrite_label (hat _ hrows), hval]
        rfl
      · show selBad (s.team t) true (offsetOf (s.grp t g) ad l') 4 = none
        rw [selBad_word (by omega), hat _ rfl]
        rfl
  rw [laneState_single (actors_single hl hu)] at hteam
  refine ⟨s', ⟨hx, how, hgf⟩, fun k hk => ?_, ?_⟩
  · rw [hteam.rows]
    simp [hF, onRow, Ne.symm hk]
  · rw [hteam.rows]
    simp [hF, onRow]

theorem sts_header (h128 : row < 128) (hj : j < 4) (ho : offsetOf (s.grp t g) ad l = 48 * row + 4 * j) :
    ∃ s₁ s', exec (.sts h .b32 .sel ad d) s = .next s' ∧
      Placed s s₁ t g ((s.grp t g).issueSet &&& ~~~(eligible s t g h)) (successor s t g (Instr.size (.sts h .b32 .sel ad d))) ∧
      Traps s₁ s' t g (s.grp t g).issueSet {
        code := 0x07, pc := (s.grp t g).issuePc, lanes := eligible s t g h, i0 := BitVec.ofNat 32 (offsetOf (s.grp t g) ad l) } := by
  refine lane_fails (b := badOff 0x07 (offsetOf (s.grp t g) ad l)) (exec_sts h .b32 .sel ad d s) hR.1 (sts_rangeOk hR) hl hu rfl ?_
  have hbad : selBad (s.team t) true (offsetOf (s.grp t g) ad l) 4 = some (offsetOf (s.grp t g) ad l) := by
    rw [selBad_word (by omega), ho, selAt_header_store h128 hj]
    rfl
  have hlane : selLane .b32 d ad true (ctxOf s t g h (Instr.sts h .b32 .sel ad d).size) s l s =
      (s, some (badOff 0x07 (offsetOf (s.grp t g) ad l))) := by
    unfold selLane
    dsimp only
    rw [show selBad (s.team (ctxOf s t g h (Instr.sts h .b32 .sel ad d).size).t) true (windowOff (s.grp
      (ctxOf s t g h (Instr.sts h .b32 .sel ad d).size).t (ctxOf s t g h (Instr.sts h .b32 .sel ad d).size).g) ad l) (tyBytes .b32) =
      some (offsetOf (s.grp t g) ad l) from hbad]
  rw [winAct_sel (c := ctxOf s t g h (Instr.sts h .b32 .sel ad d).size) hbusy, releaseLanes_nil hbuf, actors_eq]
  show finishLanes _ _ (runLanes _ ((List.range 32).filter (acts (eligible s t g h) d)) s) = _
  rw [actors_single hl hu, runLanes, hlane]
  rfl

end

/-! Words of a tile loaded and stored (08 R175). -/

section
variable {s : State} {t g : Nat} {h : Hdr} {ty : Ty} {d : Reg} {ad : Addr} {k : BitVec 3} {x : Tile}

/-- Types whose loaded bytes are the register's. -/
theorem loadVal_word (hty : ty = .f32 ∨ ty = .b32 ∨ ty = .x128) (v : Nat) : loadVal ty v = v := by
  rcases hty with rfl | rfl | rfl <;> rfl

/-- Types whose registers are the stored bytes. -/
theorem storeVal_word (hty : ty = .f32 ∨ ty = .b32 ∨ ty = .x128) (gr : Group) (l : Nat) :
    (storeVal ty (regGet gr d l (tyRegs ty))).1 = regGet gr d l (tyRegs ty) := by
  have hlt := regGet_lt gr d l (tyRegs ty)
  rcases hty with rfl | rfl | rfl
  · exact Nat.mod_eq_of_lt hlt
  · exact Nat.mod_eq_of_lt hlt
  · exact Nat.mod_eq_of_lt (lt_of_lt_of_le hlt (by decide))

section
variable (hx : (s.team t).tiles[k.toNat]? = some x) (hb : tileBase (s.team t) k.toNat = k.toNat) (hs : x.state = .group g)
  (hty : ty = .b32 ∨ ty = if x.x128 then .x128 else .f32) (hword : ty = .f32 ∨ ty = .b32 ∨ ty = .x128) (hecc : s.ecc = [])
  (hbuf : s.buffer = []) (hfit : ∀ l, Acting s t g h d l → InTile x (offsetOf (s.grp t g) ad l) (tyBytes ty))
include hx hb hs hty hword hecc hbuf hfit

/-- Each word of a loaded element. -/
theorem lds_words (hR : ReadyFor (.lds h ty (.acc k) d ad) s t g) :
    ∃ s', (exec (.lds h ty (.acc k) d ad) s = .next s' ∧ OnlyWindows s s' t g ∧
        GroupFrame ⟨h, [], [(d, tyRegs ty)], [], false, false, false⟩ s s' t g (Instr.lds h ty (.acc k) d ad).size) ∧
      SameWindows (s.team t) (s'.team t) ∧ ∀ l, InE s t g h l → ∀ j < tyRegs ty,
        regGet (s'.grp t g) d l (tyRegs ty) / 2 ^ (32 * j) % 2 ^ 32 =
          (x.data.get (offsetOf (s.grp t g) ad (laneOf d (eligible s t g h) l) / 4 + j)).toNat := by
  obtain ⟨s', hframe, hteam, hreg⟩ := lds_acc hx hb hs hty hecc hbuf hfit hR
  have hregs : tyRegs ty = tyBytes ty / 4 := by rcases hword with rfl | rfl | rfl <;> rfl
  refine ⟨s', hframe, hteam, fun l hl j hj => ?_⟩
  have hlt := accRead_lt x (offsetOf (s.grp t g) ad (laneOf d (eligible s t g h) l)) (tyBytes ty)
  rw [← hregs] at hlt
  rw [hreg l hl, loadVal_word hword, Nat.mod_eq_of_lt hlt]
  exact accRead_word x _ (hregs ▸ hj)

/-- The words of stored elements, the tile otherwise as it was. -/
theorem sts_words (hR : ReadyFor (.sts h ty (.acc k) ad d) s t g) :
    ∃ s', (exec (.sts h ty (.acc k) ad d) s = .next s' ∧ OnlyWindows s s' t g ∧
        GroupFrame ⟨h, [], [], [], true, false, false⟩ s s' t g (Instr.sts h ty (.acc k) ad d).size) ∧
      (s'.team t).scratch = (s.team t).scratch ∧ (s'.team t).rows = (s.team t).rows ∧
      (∀ j, j ≠ k.toNat → (s'.team t).tiles[j]? = (s.team t).tiles[j]?) ∧ ∃ y : Tile, (s'.team t).tiles[k.toNat]? = some y ∧
        y = { x with data := y.data } ∧
        LaneByLane (Acting s t g h d) x.data y.data fun l m m' => ∀ a, m'.get a =
          if offsetOf (s.grp t g) ad l / 4 ≤ a ∧ a < offsetOf (s.grp t g) ad l / 4 + tyRegs ty then
            BitVec.ofNat 32 (regGet (s.grp t g) d l (tyRegs ty) / 2 ^ (32 * (a - offsetOf (s.grp t g) ad l / 4))) else m.get a := by
  obtain ⟨s', hframe, hteam⟩ := sts_acc hx hb hs hty hecc hbuf hfit hR
  have hregs : tyRegs ty = tyBytes ty / 4 := by rcases hword with rfl | rfl | rfl <;> rfl
  refine ⟨s', hframe, hteam.scratch, hteam.rows, fun j hj => ?_, onData (storedWords (s.grp t g) (eligible s t g h) ty d ad) x, ?_, rfl, ?_⟩
  · rw [hteam.tiles, tiles_onTile, if_neg hj]
  · rw [hteam.tiles, tiles_onTile, if_pos rfl, hx]
    rfl
  · refine laneByLane_of_laneState id (fun l hl => acting_iff.trans (and_iff_right hl)) fun l hl hp a => ?_
    rw [id, id, get_accWords, storeVal_word hword, hregs]

end

end

/-- Settles O35, window by window. -/
theorem windowResults : Obligations.WindowResults := by
  intro s t g h ty d ad k gr tm off n val act frame fits
  refine ⟨fun _ hR hfit => lds_scratch hR hfit.1 hfit.2.1 hfit.2.2, fun _ hR hfit => sts_scratch hR hfit.1 hfit.2.1 hfit.2.2,
    fun x hx hb0 hx0 hs hty hecc hbuf hfit => ?_, fun x hx hk hx1 hs hty hecc hbuf hfit => ?_,
    fun hbusy hecc hbuf hty => ⟨fun _ hR row j hrow lab hoff => ?_, fun _ hR l row j hl hu hrow h128 hj => ⟨fun ho _ => ?_, fun ho _ => ?_⟩⟩⟩
  · have hb : tileBase tm k.toNat = k.toNat := if_neg (by rw [Team.tile, hb0]; exact Bool.false_ne_true)
    have hregs : tyRegs ty = 1 := by rcases hty with rfl | rfl <;> rfl
    have hin : ∀ l, act l → InTile x (off l) (tyBytes ty) := fun l hl => by
      have := hfit l hl
      rcases hty with rfl | rfl <;> simpa [InTile, hx0, tyBytes] using this
    have hfmt : ty = .b32 ∨ ty = if x.x128 then .x128 else .f32 := by rw [hx0]; exact hty.symm
    have hword : ty = .f32 ∨ ty = .b32 ∨ ty = .x128 := by tauto
    refine ⟨fun _ hR => ?_, fun _ hR => ?_⟩
    · obtain ⟨s', hframe, hteam, hreg⟩ := lds_words hx hb hs hfmt hword hecc hbuf hin hR
      rw [hregs] at hframe hreg
      refine ⟨s', hframe, hteam, fun l hl => ?_⟩
      have hlow := hreg l hl 0 Nat.one_pos
      rwa [Nat.mul_zero, Nat.pow_zero, Nat.div_one, Nat.mod_eq_of_lt (regGet_lt _ _ _ 1), Nat.add_zero] at hlow
    · obtain ⟨s', hframe, hscr, hrows, hother, y, hy, hdata, hlanes⟩ := sts_words hx hb hs hfmt hword hecc hbuf hin hR
      refine ⟨s', hframe, hscr, hrows, hother, y, hy, hdata, ?_⟩
      obtain ⟨ms, h0, h1, hstep⟩ := hlanes
      refine ⟨ms, h0, h1, fun l hl => ⟨fun ha a => ?_, (hstep l hl).2⟩⟩
      rw [(hstep l hl).1 ha a, hregs, show offsetOf (s.grp t g) ad l = off l from rfl]
      by_cases hoff : a = off l / 4
      · subst hoff
        rw [if_pos (by omega), if_pos rfl, Nat.sub_self, Nat.mul_zero, Nat.pow_zero, Nat.div_one]
        show _ = BitVec.ofNat 32 (regGet gr d l (tyRegs ty))
        rw [hregs]
      · rw [if_neg (by omega), if_neg hoff]
  · subst hty
    have hb : tileBase tm k.toNat = k.toNat := by
      have hdiv : k.toNat / 4 * 4 = k.toNat := by omega
      have htile : tm.tile k.toNat = x := by rw [Team.tile, List.getD_eq_getElem?_getD, hx, Option.getD_some]
      unfold tileBase
      rw [hdiv, ite_self]
    have hin : ∀ l, act l → InTile x (off l) (tyBytes .x128) := fun l hl => by
      have := hfit l hl
      simpa [InTile, hx1, tyBytes] using this
    have hfmt : Ty.x128 = .b32 ∨ Ty.x128 = if x.x128 then .x128 else .f32 := Or.inr (by rw [hx1]; rfl)
    refine ⟨fun _ hR => lds_words hx hb hs hfmt (by simp) hecc hbuf hin hR, fun _ hR => ?_⟩
    obtain ⟨s', hframe, -, -, hother, htile⟩ := sts_words hx hb hs hfmt (by simp) hecc hbuf hin hR
    exact ⟨s', hframe, hother, htile⟩
  · subst hty
    have hsel : ∀ l, act l → selBad tm false (off l) 4 = none ∧ selRead tm (off l) =
        (if lab then ((tm.rows.getD (row l) {}).lid.getD (j l) 0).toNat
          else if j l % 2 = 0 then (tm.rows.getD (row l) {}).m.toNat else (tm.rows.getD (row l) {}).s.toNat) := by
      intro l hl
      obtain ⟨hr, h128, hj⟩ := hrow l hl
      rw [hoff l hl]
      cases lab with
      | true =>
        rw [if_pos rfl, if_pos rfl, selBad_word (by omega), selAt_label false hr h128 hj, selRead_label hr h128 hj]
        exact ⟨rfl, rfl⟩
      | false =>
        have hj2 : j l % 2 < 2 := Nat.mod_lt _ (by decide)
        rw [if_neg Bool.false_ne_true, if_neg Bool.false_ne_true, selBad_word (by omega), selAt_header hr h128 hj2,
          selRead_header hr h128 hj2, Nat.mod_mod]
        exact ⟨rfl, rfl⟩
    refine lds_sel hbusy hecc hbuf hR fun l hl => ⟨(hsel l hl).1, (hsel l hl).2, ?_⟩
    split
    · exact BitVec.isLt _
    · split <;> exact BitVec.isLt _
  · subst hty
    exact sts_label hbusy hbuf hR hl hu hecc hrow h128 hj ho
  · subst hty
    exact sts_header hbusy hbuf hR hl hu h128 hj ho

end Sys2Proof.Claims
end

section
/-! Accesses of global memory whose checks pass (08 R182), on ordinary memory with no error in storage: what stands in a
lane's way, and what such an instruction leaves outside its group. -/

namespace Sys2Proof.Claims
open Sys2Proof.Machine

/-! Where no store waits (10 R216). -/

section
variable {s : State} (hb : s.buffer = [])
include hb

theorem observe_nil (o : Observer) (rs : List Span) : observe o rs s = s := by simp [observe, hb]
theorem performStores_nil (sel : Pending → Bool) : performStores sel s = s := by simp [performStores, hb]
theorem releaseFenced_nil (t g : Nat) (ls : Lanes) : releaseFenced t g ls s = s := by simp [releaseFenced, hb]
theorem releaseGroup_nil (t g : Nat) (sc : Scope) : releaseGroup t g sc s = s := release_nil hb

theorem flushOverlap_nil (t g : Nat) (ls : Lanes) (ps : List Piece) : flushOverlap t g ls ps s = s := performStores_nil hb _

theorem beforeAtomic_nil (t g : Nat) (ls : Lanes) (o : Order) (sc : Scope) (ps : List Piece) : beforeAtomic t g ls o sc ps s = s := by
  unfold beforeAtomic
  rw [flushOverlap_nil hb, releaseFenced_nil hb]
  dsimp only
  split
  · exact releaseLanes_nil hb
  · rfl

end

/-! Pieces of ordinary memory. -/

section
variable {s : State} {t : Nat} {k : Kind} {ps : List Piece} (ho : OrdinaryPieces s t k ps)
include ho

theorem OrdinaryPieces.not_remote {e : Piece} (he : e ∈ ps) : isRemote e.1.pa = false := (ho e he).1
theorem OrdinaryPieces.not_dev {e : Piece} (he : e ∈ ps) : isDev e.1.pa = false := by obtain ⟨-, h, -⟩ := ho e he; exact h

theorem OrdinaryPieces.anyRemote : anyRemote ps = false :=
  List.any_eq_false.mpr fun _ he => by simp [ho.not_remote he]

theorem OrdinaryPieces.anyDevice : anyDevice ps = false :=
  List.any_eq_false.mpr fun e he => by obtain ⟨-, h, hc, -⟩ := ho e he; simp [h, hc]

theorem OrdinaryPieces.peersOf : peersOf ps = [] := by
  have hnone : (ps.filter fun e => isRemote e.1.pa) = [] := List.filter_eq_nil_iff.mpr fun _ he => by simp [ho.not_remote he]
  rw [Machine.peersOf, hnone, List.map_nil]

theorem OrdinaryPieces.lostHomes : lostHomes s (s.launchOf t).part ps = 0 := by
  have hfold : ∀ qs : List Piece, (∀ e ∈ qs, e ∈ ps) → Machine.lostHomes s (s.launchOf t).part qs = 0 := by
    intro qs
    unfold Machine.lostHomes
    induction qs with
    | nil => exact fun _ => rfl
    | cons e qs ih =>
      intro hq
      obtain ⟨-, -, -, -, hdie⟩ := ho e (hq e List.mem_cons_self)
      have hstep : (match homeDie (s.part (s.launchOf t).part) e.1.pa with
          | some d => if (s.die d).lost = true then (0 : BitVec 4) ||| BitVec.ofNat 4 (2 ^ d) else 0
          | none => 0) = 0 := by
        cases hd : homeDie (s.part (s.launchOf t).part) e.1.pa with
        | none => rfl
        | some d =>
          have hlost := (hdie d hd).1
          dsimp only
          rw [if_neg (by simp [hlost])]
      exact (congrArg (fun z => List.foldl _ z qs) hstep).trans (ih fun x hx => hq x (List.mem_cons_of_mem _ hx))
  exact hfold ps fun _ h => h

theorem OrdinaryPieces.linkBusy : linkBusy s (s.launchOf t).part (s.team t).die ps = false := by
  refine List.any_eq_false.mpr fun e he => ?_
  obtain ⟨-, -, -, -, hdie⟩ := ho e he
  cases hd : homeDie (s.part (s.launchOf t).part) e.1.pa with
  | none => exact Bool.false_ne_true
  | some d =>
    obtain ⟨-, h2, h3⟩ := hdie d hd
    simp [h2, h3]

theorem OrdinaryPieces.copyPieces (hw : k.writes = true) (p root : Nat) : copyPieces p root [] 0 ps s = .ok s := by
  have hall : ∀ (qs : List Piece) (copied : List (Option (Nat × Nat))) (i : Nat), (∀ e ∈ qs, e ∈ ps) →
      Machine.copyPieces p root copied i qs s = .ok s := by
    intro qs
    induction qs with
    | nil => exact fun _ _ _ => rfl
    | cons e qs ih =>
      intro copied i hq
      obtain ⟨-, -, -, hcopy, -⟩ := ho e (hq e List.mem_cons_self)
      rw [Machine.copyPieces, hcopy hw, Bool.false_and, if_neg Bool.false_ne_true]
      exact ih _ _ fun x hx => hq x (List.mem_cons_of_mem _ hx)
  exact hall ps [] 0 fun _ h => h

theorem OrdinaryPieces.afterDevice (p : Nat) (x : State) : afterDevice p ps x = x := by
  have hnone : ((spansOf ps).any fun e => isDev e.1 && decide (e.1 ≤ devBase + 0x2004) && decide (devBase + 0x2004 < e.1 + e.2)) = false := by
    refine List.any_eq_false.mpr fun e he => ?_
    obtain ⟨q, hq, rfl⟩ := List.mem_map.mp he
    simp [ho.not_dev hq]
  rw [Machine.afterDevice, afterSpans, hnone, if_neg Bool.false_ne_true]

theorem OrdinaryPieces.readPieces (x : State) (p : Nat) : readPieces x p ps = valueIn x.mem ps := by
  have hall : ∀ qs : List Piece, (∀ e ∈ qs, e ∈ ps) → readSpans x p (spansOf qs) = valueIn x.mem qs := by
    intro qs
    induction qs with
    | nil => exact fun _ => rfl
    | cons e qs ih =>
      intro hq
      obtain ⟨pg, n⟩ := e
      have hdev := ho.not_dev (hq _ List.mem_cons_self)
      rw [show spansOf ((pg, n) :: qs) = (pg.pa, n) :: spansOf qs from rfl, readSpans, valueIn,
        ih fun y hy => hq y (List.mem_cons_of_mem _ hy), physRead, if_neg (by simp [hdev]), readLe_eq_foldr]
  exact hall ps fun _ h => h

end

theorem meetPieces_nil {p : Nat} {lid : Word} {inPlace : Page → EccErr → Bool} {cover : List Span} {s : State} (h : s.ecc = []) :
    ∀ ps : List Piece, meetPieces p lid inPlace cover ps s = (s, none)
  | [] => rfl
  | (pg, n) :: r => by
    rw [meetPieces, meetErrs_nil h]
    exact meetPieces_nil h r

/-! One access, where its checks pass. -/

section
variable {s : State} {t g : Nat} {k : Kind} {words : Bool} {va n : Nat} {ps : List Piece}

theorem laneAccess_ok {mates : List Nat} {f : List Piece → State → State} (hecc : s.ecc = [])
    (hc : checkAccess s (whoGroup s t g) k words va n = .ok ps) (ho : OrdinaryPieces s t k ps) :
    laneAccess t g k words mates va n f s = (f ps (touchPieces t (s.launchOf t).part ps s), none) := by
  have hpeer := ho.peersOf
  have hlost : lostHomes s (whoGroup s t g).part ps = 0 := ho.lostHomes
  have hcopy : (if k.writes then copyPieces (whoGroup s t g).part (rootOf (s.launchOf t).lineage) [] 0 ps s else .ok s) =
      (.ok s : Except Nat State) := by
    split
    · next hw => exact ho.copyPieces hw _ _
    · rfl
  have hecc' : (touchPieces t (whoGroup s t g).part ps s).ecc = [] := hecc
  unfold laneAccess
  simp only [hc, hpeer, List.find?_nil, hlost, bne_self_eq_false, Bool.false_eq_true, if_false, hcopy, meetPieces_nil hecc']
  rfl

theorem piecesAt_ok {as_ : List Nat} {P : Piece → Prop} (h : ∀ a ∈ as_, ∃ ps, checkAccess s (whoGroup s t g) k words a n = .ok ps ∧
    ∀ e ∈ ps, P e) : ∀ e ∈ Machine.piecesAt s (whoGroup s t g) k words n as_, P e := by
  intro e he
  obtain ⟨a, ha, he⟩ := List.mem_flatMap.mp he
  obtain ⟨ps, hc, hp⟩ := h a ha
  rw [hc] at he
  exact hp e he

/-- Nothing stands in the way of accesses that all pass. -/
theorem gateLanes_ok {c : Ctx} (hct : c.t = t) (hcg : c.g = g) {as_ : List Nat}
    (h : ∀ a ∈ as_, ∃ ps, checkAccess s (whoGroup s t g) k words a n = .ok ps ∧ OrdinaryPieces s t k ps) :
    gateLanes c k words n as_ s = none := by
  subst hct hcg
  have ho : OrdinaryPieces s c.t k (Machine.piecesAt s (whoGroup s c.t c.g) k words n as_) :=
    piecesAt_ok fun a ha => by obtain ⟨ps, hc, ho⟩ := h a ha; exact ⟨ps, hc, ho⟩
  have hlink : linkBusy s (whoGroup s c.t c.g).part (s.team c.t).die (Machine.piecesAt s (whoGroup s c.t c.g) k words n as_) = false :=
    ho.linkBusy
  unfold gateLanes
  simp only [hlink, ho.peersOf, List.find?_nil]
  rfl

theorem copyLanes_ok {c : Ctx} (hct : c.t = t) (hcg : c.g = g) {as_ : List Nat}
    (h : ∀ a ∈ as_, ∃ ps, checkAccess s (whoGroup s t g) k words a n = .ok ps ∧ OrdinaryPieces s t k ps) :
    copyLanes c k words n as_ s = s := by
  subst hct hcg
  unfold copyLanes
  split
  · next hw =>
    have hall : ∀ xs : List Nat, (∀ a ∈ xs, a ∈ as_) → xs.foldl (fun x a =>
        if ((Machine.piecesAt x (whoGroup s c.t c.g) k words n [a]).any fun e => needsCopy x e.1) &&
          lostHomes x (whoGroup s c.t c.g).part (Machine.piecesAt x (whoGroup s c.t c.g) k words n [a]) == 0 then
          match copyPieces (whoGroup s c.t c.g).part (rootOf (x.launchOf c.t).lineage) [] 0
              (Machine.piecesAt x (whoGroup s c.t c.g) k words n [a]) x with
          | .ok x => x
          | .error _ => x
        else x) s = s := by
      intro xs
      induction xs with
      | nil => exact fun _ => rfl
      | cons a xs ih =>
        intro hx
        obtain ⟨ps, hc, ho⟩ := h a (hx a List.mem_cons_self)
        have hp : ((Machine.piecesAt s (whoGroup s c.t c.g) k words n [a]).any fun e => needsCopy s e.1) = false := by
          refine List.any_eq_false.mpr (piecesAt_ok fun a' ha' => ?_)
          obtain rfl := List.mem_singleton.mp ha'
          exact ⟨ps, hc, fun e he => by obtain ⟨-, -, -, hcopy, -⟩ := ho e he; simp [hcopy hw]⟩
        rw [List.foldl_cons, hp, Bool.false_and, if_neg Bool.false_ne_true]
        exact ih fun b hb => hx b (List.mem_cons_of_mem _ hb)
    exact hall as_ fun _ h => h
  · rfl

theorem reachLanes_ok {c : Ctx} (hct : c.t = t) (hcg : c.g = g) {as_ : List Nat}
    (h : ∀ a ∈ as_, ∃ ps, checkAccess s (whoGroup s t g) k words a n = .ok ps ∧ OrdinaryPieces s t k ps) :
    reachLanes c k words n as_ s = .ok s := by
  have ho : OrdinaryPieces s t k (Machine.piecesAt s (whoGroup s t g) k words n as_) :=
    piecesAt_ok fun a ha => by obtain ⟨ps, hc, ho⟩ := h a ha; exact ⟨ps, hc, ho⟩
  unfold reachLanes
  rw [gateLanes_ok hct hcg h, copyLanes_ok hct hcg h]
  subst hct hcg
  have hlink : linkBusy s (whoGroup s c.t c.g).part (s.team c.t).die (Machine.piecesAt s (whoGroup s c.t c.g) k words n as_) = false :=
    ho.linkBusy
  dsimp only
  rw [hlink, Bool.and_false, if_neg Bool.false_ne_true]

end

/-! The length of what an access meets (08 R187). -/

theorem lineParts_sum (va n : Nat) : ((lineParts va n).map Prod.snd).sum = n := by
  unfold lineParts
  split
  · simp
  · simp; omega

/-- An access that passes has its parts as pieces, one page for each. -/
theorem checkAccess_parts {s : State} {w : Who} {k : Kind} {words : Bool} {va n : Nat} {ps : List Piece}
    (h : checkAccess s w k words va n = .ok ps) : ps = (lineParts va n).filterMap (fun q => (pageIn s w.part w.root q.1).map fun pg => (pg, q.2)) ∧
      ∀ q ∈ lineParts va n, (pageIn s w.part w.root q.1).isSome = true := by
  unfold checkAccess at h
  dsimp only at h
  split at h
  · cases h
  split at h
  · cases h
  split at h
  · cases h
  next hsome =>
  split at h
  · cases h
  split at h
  · cases h
  split at h
  · cases h
  refine ⟨?_, fun q hq => ?_⟩
  · rw [← Except.ok.inj h, List.filterMap_map]
    rfl
  · have := List.find?_eq_none.mp hsome _ (List.mem_map_of_mem hq)
    cases hp : pageIn s w.part w.root q.1 with
    | none => simp [hp] at this
    | some pg => rfl

theorem checkAccess_length {s : State} {w : Who} {k : Kind} {words : Bool} {va n : Nat} {ps : List Piece}
    (h : checkAccess s w k words va n = .ok ps) : (ps.map Prod.snd).sum = n := by
  obtain ⟨rfl, hsome⟩ := checkAccess_parts h
  have hmap : ∀ qs : List (Nat × Nat), (∀ q ∈ qs, (pageIn s w.part w.root q.1).isSome = true) →
      (qs.filterMap fun q => (pageIn s w.part w.root q.1).map fun pg => (pg, q.2)).map Prod.snd = qs.map Prod.snd := by
    intro qs
    induction qs with
    | nil => exact fun _ => rfl
    | cons q qs ih =>
      intro hq
      obtain ⟨pg, hpg⟩ := Option.isSome_iff_exists.mp (hq q List.mem_cons_self)
      rw [List.filterMap_cons, hpg]
      simp only [Option.map_some, List.map_cons, ih fun x hx => hq x (List.mem_cons_of_mem _ hx)]
  rw [hmap _ hsome, lineParts_sum]

/-- An access within a line has one piece. -/
theorem checkAccess_single {s : State} {w : Who} {k : Kind} {words : Bool} {va n : Nat} {ps : List Piece}
    (h : checkAccess s w k words va n = .ok ps) (hline : va % 128 + n ≤ 128) : ∃ pg, ps = [(pg, n)] := by
  obtain ⟨rfl, hsome⟩ := checkAccess_parts h
  rw [lineParts, if_pos hline] at hsome ⊢
  obtain ⟨pg, hpg⟩ := Option.isSome_iff_exists.mp (hsome _ (List.mem_singleton.mpr rfl))
  exact ⟨pg, by simp [hpg]⟩

theorem valueIn_lt (m : Memory) : ∀ ps : List Piece, valueIn m ps < 256 ^ (ps.map Prod.snd).sum
  | [] => by simp [valueIn]
  | (pg, n) :: r => by
    have h1 := readLe_lt n m pg.pa
    have h2 := valueIn_lt m r
    rw [readLe_eq_foldr] at h1
    rw [valueIn, List.map_cons, List.sum_cons, Nat.pow_add]
    dsimp only
    have := Nat.mul_le_mul_left (256 ^ n) (Nat.succ_le_of_lt h2)
    rw [Nat.mul_succ] at this
    omega

end Sys2Proof.Claims
end

section
/-! What holds between the lanes of an instruction on global memory, and what such an instruction leaves (08 R183, 04 R93). -/

namespace Sys2Proof.Claims
open Sys2Proof.Machine

/-! What the checks of an access depend on. -/

section
variable {s b : State} {t g : Nat}

/-- A translation reads memory, the partition, the dies and the peer table. -/
theorem pageIn_eq {x y : State} (hm : x.mem = y.mem) (hp : x.parts = y.parts) (hd : x.dies = y.dies) (hr : x.devRegs = y.devRegs)
    (p : Nat) (root : Option Nat) (va : Nat) : pageIn x p root va = pageIn y p root va := by
  have hpart : x.part p = y.part p := by rw [State.part, hp, State.part]
  have hdie : ∀ d, x.die d = y.die d := fun d => by rw [State.die, hd, State.die]
  have hpop : populated x = populated y := by
    funext pt pa
    simp only [populated, hdie]
  have hres : ∀ pa, resolve x p pa = resolve y p pa := fun pa => by
    have hentry : ∀ i, peerEntry x p i = peerEntry y p i := fun i => by rw [peerEntry, hr, peerEntry]
    rw [resolve, resolve, hpop, hpart, hentry]
  unfold pageIn
  simp only [hm, hpart, hpop, hres]

theorem checkAccess_eq {x y : State} (hm : x.mem = y.mem) (hp : x.parts = y.parts) (hd : x.dies = y.dies) (hr : x.devRegs = y.devRegs)
    (w : Who) (k : Kind) (words : Bool) (va n : Nat) : checkAccess x w k words va n = checkAccess y w k words va n := by
  unfold checkAccess
  simp only [pageIn_eq hm hp hd hr]

theorem Framed.checkAccess (h : Framed s b t g) (w : Who) (k : Kind) (words : Bool) (va n : Nat) :
    checkAccess b w k words va n = Machine.checkAccess { s with mem := b.mem } w k words va n := by
  have hparts : b.parts = s.parts := by obtain ⟨q, rfl⟩ := h; rfl
  have hdies : b.dies = s.dies := by obtain ⟨q, rfl⟩ := h; rfl
  have hregs : b.devRegs = s.devRegs := by obtain ⟨q, rfl⟩ := h; rfl
  exact checkAccess_eq (x := b) (y := { s with mem := b.mem }) rfl hparts hdies hregs w k words va n

theorem Framed.partOf (h : Framed s b t g) (he : Exists s t g) : b.partOf t = s.partOf t := by
  have hl := h.launchOf he
  rw [State.partOf, hl, State.partOf]
  obtain ⟨q, rfl⟩ := h
  rfl

theorem Framed.team_die (h : Framed s b t g) (he : Exists s t g) : (b.team t).die = (s.team t).die := by
  obtain ⟨q, rfl⟩ := h
  rw [team_patch he]
  rfl

theorem Framed.die (h : Framed s b t g) (d : Nat) : b.die d = s.die d := by obtain ⟨q, rfl⟩ := h; rfl

theorem Framed.needsCopy (h : Framed s b t g) (pg : Page) : needsCopy b pg = Machine.needsCopy s pg := by
  obtain ⟨q, rfl⟩ := h
  rfl

theorem Framed.ordinary (h : Framed s b t g) (he : Exists s t g) {k : Kind} {ps : List Piece} (ho : OrdinaryPieces s t k ps) :
    OrdinaryPieces b t k ps := by
  intro e hm
  obtain ⟨h1, h2, h3, h4, h5⟩ := ho e hm
  refine ⟨h1, h2, h3, fun hw => (h.needsCopy e.1).trans (h4 hw), fun d hd => ?_⟩
  rw [h.partOf he] at hd
  rw [h.die, h.team_die he, h.die]
  exact h5 d hd

end

/-! Between the lanes. -/

/-- What holds of a state between the lanes of an instruction on global memory. -/
structure GlobalInv (f : Form) (E : Lanes) (s b : State) (t g : Nat) : Prop where
  framed : Framed s b t g
  writes : Writes f E (s.grp t g) (b.grp t g)
  scratch : (b.team t).scratch = (s.team t).scratch
  tiles : (b.team t).tiles = (s.team t).tiles
  rows : (b.team t).rows = (s.team t).rows
  touched : (s.team t).touched &&& (b.team t).touched = (s.team t).touched

section
variable {f : Form} {E : Lanes} {s b : State} {t g : Nat}

theorem GlobalInv.refl (f : Form) (E : Lanes) (s : State) (t g : Nat) : GlobalInv f E s s t g :=
  ⟨Framed.refl s t g, Writes.refl f E _, rfl, rfl, rfl, BitVec.and_self⟩

theorem GlobalInv.modGrp (h : GlobalInv f E s b t g) (he : Exists s t g) {G : Group → Group}
    (hG : Writes f E (b.grp t g) (G (b.grp t g))) : GlobalInv f E s (b.modGrp t g G) t g := by
  have heb := h.framed.exists he
  have hteam : (b.modGrp t g G).team t = (b.team t).modGroup g G := State.team_modGrp _ _ heb.1
  refine ⟨h.framed.trans (framed_modGrp b t g G), ?_, ?_, ?_, ?_, ?_⟩
  · rw [State.grp_modGrp_same _ heb.1 heb.2]
    exact h.writes.trans hG
  · rw [hteam]; exact h.scratch
  · rw [hteam]; exact h.tiles
  · rw [hteam]; exact h.rows
  · rw [hteam, Team.modGroup_touched]; exact h.touched

theorem and_or_of_and {n : Nat} {a x y : BitVec n} (h : a &&& x = a) : a &&& (x ||| y) = a := by
  refine BitVec.eq_of_getLsbD_eq fun i _ => ?_
  have hi : (a.getLsbD i && x.getLsbD i) = a.getLsbD i := by
    have := congrArg (fun z : BitVec n => z.getLsbD i) h
    simpa only [BitVec.getLsbD_and] using this
  simp only [BitVec.getLsbD_and, BitVec.getLsbD_or]
  cases ha : a.getLsbD i with
  | false => rfl
  | true =>
    rw [ha, Bool.true_and] at hi
    rw [hi]
    rfl

theorem GlobalInv.touch (h : GlobalInv f E s b t g) (he : Exists s t g) (p : Nat) (ps : List Piece) :
    GlobalInv f E s (touchPieces t p ps b) t g := by
  have heb := h.framed.exists he
  have hteam : (touchPieces t p ps b).team t = { b.team t with touched := ((touchPieces t p ps b).team t).touched } := by
    rw [touchPieces, State.team_modTeam_same _ heb.1]
  have hgrp : (touchPieces t p ps b).grp t g = b.grp t g := by
    rw [State.grp, hteam]
    rfl
  refine ⟨h.framed.trans (framed_modTeam b t g _ rfl), by rw [hgrp]; exact h.writes, ?_, ?_, ?_, ?_⟩
  · rw [hteam]; exact h.scratch
  · rw [hteam]; exact h.tiles
  · rw [hteam]; exact h.rows
  · rw [touchPieces, State.team_modTeam_same _ heb.1]
    exact and_or_of_and h.touched

theorem GlobalInv.global (h : GlobalInv f E s b t g) (m : Memory) (q : List Pending) (n : Nat) :
    GlobalInv f E s { b with mem := m, buffer := q, nextStore := n } t g :=
  ⟨h.framed.trans (framed_global b t g m q n), h.writes, h.scratch, h.tiles, h.rows, h.touched⟩

theorem GlobalInv.whoGroup (h : GlobalInv f E s b t g) (he : Exists s t g) : whoGroup b t g = Machine.whoGroup s t g := by
  simp only [Machine.whoGroup, supervisor, h.framed.launchOf he, restOf_handler h.writes.rest]

/-- A lane's access whose checks pass in the memory of the moment. -/
theorem GlobalInv.laneAccess (h : GlobalInv f E s b t g) (he : Exists s t g) (hecc : s.ecc = []) {k : Kind} {words : Bool}
    {mates : List Nat} {va n : Nat} {ps : List Piece} {fn : List Piece → State → State}
    (hc : Machine.checkAccess { s with mem := b.mem } (Machine.whoGroup s t g) k words va n = .ok ps) (ho : OrdinaryPieces s t k ps) :
    laneAccess t g k words mates va n fn b = (fn ps (touchPieces t (s.launchOf t).part ps b), none) := by
  rw [← Framed.checkAccess h.framed, ← h.whoGroup he] at hc
  rw [laneAccess_ok (h.framed.ecc.trans hecc) hc (h.framed.ordinary he ho), h.framed.launchOf he]

end

/-! The whole instruction. -/

section
variable {s : State} {t g : Nat} {i : Instr} {h : Hdr} {d : Reg} {f : Form} {us : List Use} {act : Ctx → State → Act}
  {lane : Nat → State → State × Option Bad} {step : Nat → State → State}

/-- What an instruction on global memory leaves, none of whose lanes fails. -/
theorem global_lanes {once : Bool} (hx : exec i s = simt h i.size us noPriv act s) (hI : Issuing s t g)
    (hr : rangeOk (s.launchOf t) h us = true) (hf : f.hdr = h)
    (ha : act (ctxOf s t g h i.size) s = finishLanes (ctxOf s t g h i.size) once
      (runLanes lane ((List.range 32).filter (acts (eligible s t g h) d)) s))
    (hlane : ∀ l < 32, acts (eligible s t g h) d l = true → lane l (laneState (acts (eligible s t g h) d) step s l) =
      (step l (laneState (acts (eligible s t g h) d) step s l), none))
    (hinv : GlobalInv f (eligible s t g h) s (laneState (acts (eligible s t g h) d) step s 32) t g) :
    ∃ s', exec i s = .next s' ∧ OnlyGlobal s s' t g ∧ GroupFrame f s s' t g i.size ∧
      s'.mem = (laneState (acts (eligible s t g h) d) step s 32).mem ∧
      s'.buffer = (laneState (acts (eligible s t g h) d) step s 32).buffer ∧
      ∀ r l k, regGet (s'.grp t g) r l k = regGet ((laneState (acts (eligible s t g h) d) step s 32).grp t g) r l k := by
  subst hf
  have he := hI.exists
  have hact : (if eligible s t g f.hdr = 0 then .adv s else act (ctxOf s t g f.hdr i.size) s) =
      .adv (laneState (acts (eligible s t g f.hdr) d) step s 32) := by
    split
    · next h0 => rw [h0, laneState_of_none (acts_zero d)]
    · rw [ha, runLanes_eq_laneState hlane]
      rfl
  revert hact hinv
  generalize laneState (acts (eligible s t g f.hdr) d) step s 32 = b
  intro hinv hact
  have heb := hinv.framed.exists he
  have hG := grp_advanced s f.hdr i.size heb
  have hteam : (advanced s b t g f.hdr i.size).team t =
      (b.team t).modGroup g (issueGroup (ctxOf s t g f.hdr i.size) f.hdr b.tick) := State.team_modGrp _ _ heb.1
  refine ⟨_, simt_advances hx hI hr hact heb ((soft_of_restOf hinv.writes.rest).trans hI.2.2), ?_,
    groupFrame_of_issue (heb.modGrp _).1 (heb.modGrp _).2 hG hinv.writes, rfl, rfl, fun r l k => ?_⟩
  · refine (hinv.framed.trans (framed_modGrp b t g _)).onlyGlobal he ?_ ?_ ?_ ?_
    · exact (congrArg Team.scratch hteam).trans hinv.scratch
    · exact (congrArg Team.tiles hteam).trans hinv.tiles
    · exact (congrArg Team.rows hteam).trans hinv.rows
    · exact (congrArg (fun x : Team => (s.team t).touched &&& x.touched) hteam).trans hinv.touched
  · rw [hG, issueGroup_regGet]

/-- The lanes of an instruction whose accesses pass, once nothing stands in their way. -/
theorem memAct_ok {k : Kind} {words : Bool} {n size : Nat} {addr : Nat → Nat} {ps : Nat → List Piece}
    (hp : Passes s t g h d k words n addr ps) (fn : Nat → List Piece → State → State) :
    memAct (ctxOf s t g h size) (onceReg d) k words n addr fn s = finishLanes (ctxOf s t g h size) (onceReg d)
      (runLanes (fun l => laneAccess t g k words
          (if k == .write then ((List.range 32).filter (acts (eligible s t g h) d)).map addr else []) (addr l) n
          fun ps x => fn l ps (observe (.lanes t g (threadsOf (ctxOf s t g h size) (onceReg d) l)) (spansOf ps) x))
        ((List.range 32).filter (acts (eligible s t g h) d)) s) := by
  have hreach : reachLanes (ctxOf s t g h size) k words n
      ((if onceReg d then (lanes (eligible s t g h)).take 1 else lanes (eligible s t g h)).map addr) s = .ok s := by
    refine reachLanes_ok (t := t) (g := g) rfl rfl fun a ha => ?_
    rw [actors_eq] at ha
    obtain ⟨l, hl, rfl⟩ := List.mem_map.mp ha
    obtain ⟨hl32, hacts⟩ := List.mem_filter.mp hl
    obtain ⟨ho, hc⟩ := hp.2.2 l (acting_iff.mpr ⟨List.mem_range.mp hl32, hacts⟩)
    exact ⟨ps l, hc s.mem (.inl rfl), ho⟩
  unfold memAct
  dsimp only
  rw [show (ctxOf s t g h size).E = eligible s t g h from rfl, hreach, actors_eq]
  rfl

end

end Sys2Proof.Claims
end

section
/-! LDC (08 R211). -/

namespace Sys2Proof.Claims
open Sys2Proof.Machine

section
variable {s b : State} {t g : Nat} {h : Hdr} {d : Reg} {off : Opd} {k : Nat} {i : Instr}

/-- A lane reads global memory: its dies are touched, its register is written. -/
def readStep (t g p : Nat) (d : Reg) (k : Nat) (ps : Nat → List Piece) (v : Nat → Nat) (l : Nat) (b : State) : State :=
  (touchPieces t p (ps l) b).modGrp t g (writeRegG (laneBit l) d k fun _ => v l)

/-- What holds between the lanes of a read. -/
def ReadInv (f : Form) (E : Lanes) (s b : State) (t g : Nat) : Prop :=
  GlobalInv f E s b t g ∧ b.mem = s.mem ∧ b.buffer = s.buffer

section
variable {p : Nat} {ps : Nat → List Piece} {v : Nat → Nat}

theorem ReadInv.step {f : Form} {E : Lanes} (hb : ReadInv f E s b t g) (he : Exists s t g) (hw : (d, k) ∈ f.writes) {l : Nat}
    (hl : acts E d l = true) : ReadInv f E s (readStep t g p d k ps v l b) t g := by
  obtain ⟨hinv, hmem, hbuf⟩ := hb
  exact ⟨(hinv.touch he p (ps l)).modGrp he (writes_writeReg _ _ hw (laneBit_mem (acts_mem hl))), hmem, hbuf⟩

/-- The registers that the lanes of a read have written. -/
theorem regGet_readStep {f : Form} {E : Lanes} (he : Exists s t g) (hw : (d, k) ∈ f.writes)
    {l : Nat} (hl : l < 32) (hp : acts E d l = true) :
    regGet ((laneState (acts E d) (readStep t g p d k ps v) s 32).grp t g) d l k = v l % 2 ^ (32 * k) := by
  have hinv : ∀ n ≤ 32, ReadInv f E s (laneState (acts E d) (readStep t g p d k ps v) s n) t g :=
    laneState_induction (Inv := fun _ b => ReadInv f E s b t g) ⟨GlobalInv.refl f E s t g, rfl, rfl⟩ (fun _ _ _ hb hn => hb.step he hw hn)
      (fun _ _ _ hb _ => hb)
  refine regGet_laneState (val := fun l _ => v l) (fun _ => rfl) (fun m hm hpm => ⟨0, ?_⟩) 32 (Nat.le_refl _) l hl hp
  have hb := ((hinv m (by omega)).1.touch he p (ps m)).framed.exists he
  have hgrp : (touchPieces t p (ps m) (laneState (acts E d) (readStep t g p d k ps v) s m)).grp t g =
      (laneState (acts E d) (readStep t g p d k ps v) s m).grp t g := by
    rw [State.grp, touchPieces, State.team_modTeam_same _ ((hinv m (by omega)).1.framed.exists he).1]
    rfl
  rw [setFlagsG_zero, readStep, State.grp_modGrp_same _ hb.1 hb.2, hgrp]

end

/-- The two forms by the number of their registers. -/
def IsLdc (h : Hdr) (d : Reg) (off : Opd) (k : Nat) (i : Instr) : Prop := (i = .ldcB32 h d off ∧ k = 1) ∨ (i = .ldcB64 h d off ∧ k = 2)

theorem exec_ldc (hi : IsLdc h d off k i) (s : State) :
    exec i s = simt h i.size (.wr d k :: opdUse off 1) noPriv (ldcAct d k off) s := by
  rcases hi with ⟨rfl, rfl⟩ | ⟨rfl, rfl⟩ <;> rfl

theorem ldc_rangeOk (hi : IsLdc h d off k i) (hR : ReadyFor i s t g) : rangeOk (s.launchOf t) h (.wr d k :: opdUse off 1) = true := by
  have hd : Declared s t h ((d, k) :: ofOpd off 1) := by
    rcases hi with ⟨rfl, rfl⟩ | ⟨rfl, rfl⟩ <;> exact (hR.2 _ rfl).1
  refine rangeOk_of_named hd fun u hu => ?_
  rcases List.mem_cons.mp hu with rfl | hu
  · exact List.mem_cons_self
  · cases off with
    | reg r =>
      obtain rfl := List.mem_singleton.mp hu
      simp [Named, ofOpd]
    | imm w => simp [opdUse] at hu
    | wide w => simp [opdUse] at hu

/-- The offsets of the lanes, and the read where they pass. -/
theorem ldcAct_eq {c : Ctx} (hE : c.E = eligible s t g h) (ht : c.t = t) (hg : c.g = g)
    (hgate : gateLanes c .read true (4 * k) ((((List.range 32).filter (acts (eligible s t g h) d)).filter fun l =>
      (bankBad (s.launchOf t) (4 * k) (amount (s.grp t g) off l)).isNone).map fun l => bankAddr (s.launchOf t) (amount (s.grp t g) off l)) s =
      none) : ldcAct d k off c s = finishLanes c (onceReg d) (runLanes (fun l => ldcLane c d k (amount (s.grp t g) off l) l)
        ((List.range 32).filter (acts (eligible s t g h) d)) s) := by
  subst ht hg
  unfold ldcAct
  simp only [opdGet_one, hE, actors_eq]
  rw [hgate]

theorem bankBad_none {la : Launch} {n o : Nat} (hn : o % n = 0) (hs : o + n ≤ la.f 352 32) : bankBad la n o = none := by
  unfold bankBad
  rw [if_neg (by omega), if_neg (by omega)]

theorem ldcLane_ok {c : Ctx} {o l : Nat} (hb : bankBad (b.launchOf c.t) (4 * k) o = none) :
    ldcLane c d k o l b = laneAccess c.t c.g .read true [] (bankAddr (b.launchOf c.t) o) (4 * k) (fun ps s =>
      writeReg c (laneBit l) d k (fun _ => readPieces (observe (.lanes c.t c.g c.E) (spansOf ps) s) (b.launchOf c.t).part ps)
        (observe (.lanes c.t c.g c.E) (spansOf ps) s)) b := by
  unfold ldcLane
  simp only [hb]

theorem ldcLane_bad {c : Ctx} {o l : Nat} {x : Bad} (hb : bankBad (b.launchOf c.t) (4 * k) o = some x) :
    ldcLane c d k o l b = (b, some x) := by
  unfold ldcLane
  simp only [hb]

/-- A read of the parameter bank in which every lane's offset and access pass. -/
theorem ldc_reads {ps : Nat → List Piece} (hi : IsLdc h d off k i) (hR : ReadyFor i s t g)
    (ho : ∀ l, Acting s t g h d l → amount (s.grp t g) off l % (4 * k) = 0 ∧ amount (s.grp t g) off l + 4 * k ≤ (s.launchOf t).f 352 32)
    (hp : Passes s t g h d .read true (4 * k) (fun l => bankAddr (s.launchOf t) (amount (s.grp t g) off l)) ps) :
    ∃ s', exec i s = .next s' ∧ OnlyGlobal s s' t g ∧ s'.mem = s.mem ∧
      GroupFrame ⟨h, [], [(d, k)], [], false, false, false⟩ s s' t g i.size ∧
      ∀ l, InE s t g h l → regGet (s'.grp t g) d l k = valueIn s.mem (ps (laneOf d (eligible s t g h) l)) := by
  have he := hR.1.exists
  obtain ⟨hecc, hbuf, hpass⟩ := hp
  have hcheck : ∀ l, Acting s t g h d l → OrdinaryPieces s t .read (ps l) ∧ checkAccess s (whoGroup s t g) .read true
      (bankAddr (s.launchOf t) (amount (s.grp t g) off l)) (4 * k) = .ok (ps l) := fun l hl => ⟨(hpass l hl).1, (hpass l hl).2 s.mem (.inl rfl)⟩
  set f : Form := ⟨h, [], [(d, k)], [], false, false, false⟩ with hf
  set E := eligible s t g h with hE
  set step := readStep t g (s.launchOf t).part d k ps fun l => valueIn s.mem (ps l) with hstep
  have hinv : ∀ n ≤ 32, ReadInv f E s (laneState (acts E d) step s n) t g :=
    laneState_induction (Inv := fun _ b => ReadInv f E s b t g) ⟨GlobalInv.refl f E s t g, rfl, rfl⟩
      (fun _ _ _ hb hn => hb.step he (by simp [hf]) hn) (fun _ _ _ hb _ => hb)
  have hgate := gateLanes_ok (s := s) (k := .read) (words := true) (n := 4 * k) (c := ctxOf s t g h i.size) (t := t) (g := g) rfl rfl
    (as_ := (((List.range 32).filter (acts E d)).filter fun l =>
      (bankBad (s.launchOf t) (4 * k) (amount (s.grp t g) off l)).isNone).map fun l => bankAddr (s.launchOf t) (amount (s.grp t g) off l))
    fun a ha => by
      obtain ⟨l, hl, rfl⟩ := List.mem_map.mp ha
      obtain ⟨hl32, hacts⟩ := List.mem_filter.mp (List.mem_of_mem_filter hl)
      obtain ⟨h1, h2⟩ := hcheck l (acting_iff.mpr ⟨List.mem_range.mp hl32, hacts⟩)
      exact ⟨_, h2, h1⟩
  obtain ⟨s', hx, hglobal, hgf, hmem, -, hreg⟩ := global_lanes (f := f) (d := d) (step := step) (exec_ldc hi s) hR.1 (ldc_rangeOk hi hR) rfl
    (ldcAct_eq rfl rfl rfl hgate) (fun l hl hacts => by
      have hl' : Acting s t g h d l := acting_iff.mpr ⟨hl, hacts⟩
      obtain ⟨hb, hbm, hbb⟩ := hinv l (by omega)
      obtain ⟨hord, hc⟩ := hcheck l hl'
      obtain ⟨ho1, ho2⟩ := ho l hl'
      have hlaunch := hb.framed.launchOf he
      generalize laneState (acts E d) step s l = b at hb hbm hbb hlaunch
      rw [ldcLane_ok (c := ctxOf s t g h i.size) (show bankBad (b.launchOf t) _ _ = none by rw [hlaunch]; exact bankBad_none ho1 ho2)]
      show laneAccess t g .read true [] (bankAddr (b.launchOf t) _) _ _ b = _
      rw [hlaunch, hb.laneAccess he hecc (by rw [hbm]; exact hc) hord]
      have hbuf' : (touchPieces t (s.launchOf t).part (ps l) b).buffer = [] := hbb.trans hbuf
      have hval : readPieces (touchPieces t (s.launchOf t).part (ps l) b) (s.launchOf t).part (ps l) = valueIn s.mem (ps l) := by
        rw [hord.readPieces]
        exact congrArg (fun m => valueIn m (ps l)) hbm
      rw [observe_nil hbuf', show (b.launchOf (ctxOf s t g h i.size).t).part = (s.launchOf t).part from congrArg Launch.part hlaunch,
        hval, writeReg_eq]
      rfl) (hinv 32 (Nat.le_refl _)).1
  refine ⟨s', hx, hglobal, hmem.trans (hinv 32 (Nat.le_refl _)).2.1, hgf, fun l hl => ?_⟩
  obtain ⟨h1, h2⟩ := acts_laneOf (d := d) hl.1 hl.2
  have hlt := valueIn_lt s.mem (ps (laneOf d E l))
  rw [checkAccess_length (hcheck _ (acting_laneOf d hl)).2] at hlt
  rw [hreg, regGet_laneOf _ d E, hstep, regGet_readStep (f := f) he (by simp [hf]) h1 h2]
  refine Nat.mod_eq_of_lt (lt_of_lt_of_eq hlt ?_)
  rw [show (256 : Nat) = 2 ^ 8 from rfl, ← Nat.pow_mul]
  congr 1
  omega

/-- A read of the parameter bank whose one lane has a wrong offset traps. -/
theorem ldc_fails {l : Nat} {x : Bad} (hi : IsLdc h d off k i) (hR : ReadyFor i s t g) (hl : Acting s t g h d l)
    (hu : ∀ l', Acting s t g h d l' → l' = l) (hx : x.ofPeer = false)
    (hbad : bankBad (s.launchOf t) (4 * k) (amount (s.grp t g) off l) = some x) :
    ∃ s₁ s', exec i s = .next s' ∧ Placed s s₁ t g ((s.grp t g).issueSet &&& ~~~(eligible s t g h)) (successor s t g i.size) ∧
      Traps s₁ s' t g (s.grp t g).issueSet
        { code := x.code, pc := (s.grp t g).issuePc, lanes := eligible s t g h, i0 := x.i0, i1 := x.i1, i2 := x.i2 } := by
  refine lane_fails (exec_ldc hi s) hR.1 (ldc_rangeOk hi hR) hl hu hx ?_
  rw [ldcAct_eq (t := t) (g := g) (h := h) rfl rfl rfl ?_]
  · rw [actors_single hl hu, runLanes, ldcLane_bad (c := ctxOf s t g h i.size) hbad]
    rfl
  · rw [actors_single hl hu]
    have hnone : ([l].filter fun l => (bankBad (s.launchOf t) (4 * k) (amount (s.grp t g) off l)).isNone) = [] := by simp [hbad]
    rw [hnone]
    exact gateLanes_ok (t := t) (g := g) rfl rfl fun a ha => by simp at ha

end

/-- R211, as O38 states it. -/
theorem parameterBankResults : ParameterBankResults := by
  intro s t g h d off k i ps hi _ hR gr la o base size trap
  refine ⟨fun ho hp => ldc_reads hi hR ho hp, fun l hl hu _ => ⟨fun hmod => ?_, fun hmod hsize => ?_⟩⟩
  · exact ldc_fails (x := badAt 0x04 .read (bankAddr la (o l))) hi hR hl hu rfl (by unfold bankBad; exact if_pos hmod)
  · refine ldc_fails (x := badAt 0x07 .read (bankAddr la (max (o l) size))) hi hR hl hu rfl ?_
    unfold bankBad
    rw [if_neg (not_not.mpr hmod), if_pos hsize]

end Sys2Proof.Claims
end

section
/-! PUBLISH (08 R207, R196). -/

namespace Sys2Proof.Claims
open Sys2Proof.Machine

/-! A single piece of ordinary memory. -/

theorem OrdinaryPieces.writePieces {s : State} {t n : Nat} {k : Kind} {pg : Page} (ho : OrdinaryPieces s t k [(pg, n)]) (p x : Nat)
    (b : State) : writePieces p [(pg, n)] x b = { b with mem := b.mem.writeLe pg.pa n x } := by
  have hdev := ho.not_dev (List.mem_singleton.mpr rfl)
  show physWrite p pg.pa n x b = _
  rw [physWrite, if_neg (by simp [hdev])]

theorem storedIn_writeLe (m : Memory) (pg : Page) (n x : Nat) : StoredIn [(pg, n)] x m (m.writeLe pg.pa n x) := by
  intro a
  rw [putAt_writeLe m pg.pa n x a]
  simp only [byteIn]
  split <;> rfl

/-! The word that a PUBLISH writes. -/

theorem publishWord_lt {x : Nat} : publishWord x < 2 ^ 64 := by unfold publishWord; omega
theorem publishWord_live (x : Nat) : publishWord x % 2 ≠ x % 2 := by unfold publishWord; omega
theorem publishWord_gen (x : Nat) : publishWord x / 2 = (x / 2 + 1) % 2 ^ 63 := by unfold publishWord; omega

/-! The commands in flight. -/

/-- A command that keeps the LIVE of its issue. -/
def keepLive (desc : Nat) (live : Bool) (x : Cmd) : Cmd :=
  if x.status.isNone && (kGet x.lives desc).isNone then { x with lives := kSet x.lives desc live } else x

theorem keepLives_eq (desc : Nat) (live : Bool) (s : State) : keepLives desc live s = { s with cmds := s.cmds.map (keepLive desc live) } := rfl

theorem keepLive_rest (desc : Nat) (live : Bool) (x : Cmd) : { keepLive desc live x with lives := [] } = { x with lives := [] } := by
  unfold keepLive
  split <;> rfl

theorem keepLive_done {desc : Nat} {live : Bool} {x : Cmd} (h : x.status ≠ none) : keepLive desc live x = x := by
  have hsome : x.status.isNone = false := by
    cases hs : x.status with
    | none => exact absurd hs h
    | some _ => rfl
  rw [keepLive, hsome, Bool.false_and, if_neg Bool.false_ne_true]

theorem keepLive_open {desc : Nat} {live : Bool} {x : Cmd} (h : x.status = none) :
    kGet (keepLive desc live x).lives desc = some ((kGet x.lives desc).getD live) := by
  unfold keepLive
  cases hk : kGet x.lives desc with
  | none =>
    rw [if_pos (by simp [h])]
    exact kGet_kSet_same _ _ _
  | some y =>
    rw [if_neg (by simp)]
    exact hk

/-! The address. -/

theorem wrap_sgn_word (x : Nat) (w : Word) : wrap 64 ((x : Int) + sgn 32 w.toNat) = (x + (w.signExtend 64).toNat) % 2 ^ 64 := by
  have hs : ((w.signExtend 64).toNat : Int) = sgn 32 w.toNat % ((2 ^ 64 : Nat) : Int) := by
    have hint : sgn 32 w.toNat = w.toInt := by
      have hlt := w.isLt
      rw [BitVec.toInt_eq_toNat_cond, sgn, Nat.mod_eq_of_lt hlt]
      by_cases h : w.toNat < 2 ^ 31
      · rw [if_pos h, if_pos (by omega)]
      · rw [if_neg h, if_neg (by omega)]
    rw [hint, ← BitVec.toInt_signExtend_of_le (v := 64) (by decide), BitVec.toInt_eq_toNat_bmod, Int.bmod_emod,
      Int.emod_eq_of_lt (by omega) (by have := (w.signExtend 64).isLt; omega)]
  have hw := wrap_cast 64 ((x : Int) + sgn 32 w.toNat)
  omega

section
variable {s : State} {t g : Nat} {h : Hdr} {sc : Scope} {d a : BitVec 6} {disp : Option Word} {ps : Nat → List Piece}

/-- The address of the descriptor. -/
def descAddr (gr : Group) (a : BitVec 6) (disp : Option Word) : Nat :=
  (regGet gr (.s a) 0 2 + (match disp with
    | some w => (w.signExtend 64).toNat
    | none => 0)) % 2 ^ 64

theorem globalAddr_desc (gr : Group) (a : BitVec 6) (disp : Option Word) : globalAddr gr ⟨.s a, match disp with
    | some w => .disp w
    | none => .plain⟩ 0 = descAddr gr a disp := by
  unfold globalAddr descAddr
  cases disp with
  | some w => exact wrap_sgn_word _ w
  | none =>
    have hw := wrap_cast 64 (regGet gr (.s a) 0 2 : Int)
    show wrap 64 ((regGet gr (.s a) 0 2 : Int) + 0) = _
    rw [add_zero]
    dsimp only
    omega

theorem publishAct_eq {c : Ctx} (ht : c.t = t) (hg : c.g = g) : publishAct d a disp c s =
    if descAddr (s.grp t g) a disp % 64 ≠ 0 then
      c.trap s 0x04 c.E (BitVec.ofNat 32 (descAddr (s.grp t g) a disp))
        (BitVec.ofNat 32 (descAddr (s.grp t g) a disp / 2 ^ 32)) (BitVec.ofNat 32 Kind.atom.code)
    else memAct c true .atom true 8 (fun _ => descAddr (s.grp t g) a disp) (fun _ ps s => publishLane c d ps s) s := by
  subst ht hg
  rw [← globalAddr_desc]
  rfl

theorem publish_rangeOk (hR : ReadyFor (.publish h sc d a disp) s t g) :
    rangeOk (s.launchOf t) h [.rd (.s a) 2, .wr (.s d) 2] = true :=
  rangeOk_of_named (hR.2 _ rfl).1 (by simp [Named])

theorem publish_misaligned (hR : ReadyFor (.publish h sc d a disp) s t g) (hE : eligible s t g h ≠ 0)
    (hva : descAddr (s.grp t g) a disp % 64 ≠ 0) :
    ∃ s₁ s', exec (.publish h sc d a disp) s = .next s' ∧
      Placed s s₁ t g ((s.grp t g).issueSet &&& ~~~(eligible s t g h)) (successor s t g (Instr.publish h sc d a disp).size) ∧
      Traps s₁ s' t g (s.grp t g).issueSet {
        code := 0x04, pc := (s.grp t g).issuePc, lanes := eligible s t g h, i0 := BitVec.ofNat 32 (descAddr (s.grp t g) a disp)
        i1 := BitVec.ofNat 32 (descAddr (s.grp t g) a disp / 2 ^ 32), i2 := 2 } := by
  refine simt_traps (act := publishAct d a disp) (stay := 0) rfl hR.1 (publish_rangeOk hR) hE ?_ BitVec.or_zero
  rw [publishAct_eq (t := t) (g := g) rfl rfl, if_pos hva]
  rfl

/-- The groups of a team see a view of CTR_BASE, its dies are touched. -/
def sharedTeam (b : BitVec 4) (v : CtrView) (tm : Team) : Team :=
  { tm with groups := tm.groups.map fun gr => { gr with ctr := laterCtr gr.ctr v }, touched := tm.touched ||| b }

theorem group_sharedTeam {b : BitVec 4} {v : CtrView} {tm : Team} {k : Nat} (hk : k < tm.groups.length) :
    (sharedTeam b v tm).group k = { tm.group k with ctr := laterCtr (tm.group k).ctr v } := by
  simp [sharedTeam, Team.group, List.getD_eq_getElem?_getD, hk]

/-- The state that a PUBLISH makes of its piece: the new word there, the commands, the team, the register. -/
def published (s : State) (t g : Nat) (E : Lanes) (d : BitVec 6) (pg : Page) (b : BitVec 4) : State :=
  let old := valueIn s.mem [(pg, 8)]
  { s.modTeam t (sharedTeam b (s.grp t g).ctr) with
    cmds := s.cmds.map (keepLive pg.pa (bitOf old 0)), mem := s.mem.writeLe pg.pa 8 (publishWord old) }.modGrp t g
    (writeRegG E (.s d) 2 fun _ => publishWord old)

theorem publishLane_eq {pg : Page} {size : Nat} (he : Exists s t g) (hbuf : s.buffer = [])
    (ho : OrdinaryPieces s t .atom [(pg, 8)]) : ∃ b, publishLane (ctxOf s t g h size) d [(pg, 8)]
      (touchPieces t (s.launchOf t).part [(pg, 8)] s) = published s t g (eligible s t g h) d pg b := by
  set x := touchPieces t (s.launchOf t).part [(pg, 8)] s with hx
  have hxbuf : x.buffer = [] := hbuf
  have hval : ∀ p, readPieces x p [(pg, 8)] = valueIn s.mem [(pg, 8)] := fun p => by rw [ho.readPieces]; rfl
  have hgrp : x.grp t g = s.grp t g := by
    rw [State.grp, hx, touchPieces, State.team_modTeam_same _ he.1]
    rfl
  refine ⟨[(pg, 8)].foldl (fun a e => a ||| touchBits s (s.launchOf t).part e.1.pa) 0, ?_⟩
  unfold publishLane
  show writeReg _ _ _ _ _ (Machine.writePieces _ _ _ (keepLives _ _ (shareCtr t _ _))) = _
  simp only [releaseGroup_nil hxbuf, flushOverlap_nil hxbuf, observe_nil hxbuf, hval, ho.writePieces, writeReg_eq, keepLives_eq]
  rw [show (x.grp (ctxOf s t g h size).t (ctxOf s t g h size).g).ctr = (s.grp t g).ctr from congrArg Group.ctr hgrp, shareCtr, hx,
    touchPieces, State.modTeam_modTeam]
  rfl

section
variable {pg : Page} {b : BitVec 4} {E : Lanes} (he : Exists s t g)
include he

theorem published_exists : Exists (published s t g E d pg b) t g := by
  have h1 : t < (s.modTeam t (sharedTeam b (s.grp t g).ctr)).teams.length := lt_of_lt_of_eq he.1 (State.modTeam_length _ _ _).symm
  refine Exists.modGrp (s := { s.modTeam t (sharedTeam b (s.grp t g).ctr) with
    cmds := s.cmds.map (keepLive pg.pa (bitOf (valueIn s.mem [(pg, 8)]) 0))
    mem := s.mem.writeLe pg.pa 8 (publishWord (valueIn s.mem [(pg, 8)])) }) ⟨h1, ?_⟩ _
  show g < ((s.modTeam t (sharedTeam b (s.grp t g).ctr)).team t).groups.length
  rw [State.team_modTeam_same _ he.1]
  simpa [sharedTeam] using he.2

theorem published_other {k : Nat} (hk : k ≠ g) (hlt : k < (s.team t).groups.length) :
    (published s t g E d pg b).grp t k = { s.grp t k with ctr := laterCtr (s.grp t k).ctr (s.grp t g).ctr } := by
  unfold published
  rw [State.grp_modGrp_ne _ _ (fun hx => hk hx.2.symm)]
  show ((s.modTeam t (sharedTeam b (s.grp t g).ctr)).team t).group k = _
  rw [State.team_modTeam_same _ he.1, group_sharedTeam hlt]
  rfl

theorem published_group :
    (published s t g E d pg b).grp t g = writeRegG E (.s d) 2 (fun _ => publishWord (valueIn s.mem [(pg, 8)])) (s.grp t g) := by
  have hself : laterCtr (s.grp t g).ctr (s.grp t g).ctr = (s.grp t g).ctr := by simp [laterCtr]
  have hin : ({ s.modTeam t (sharedTeam b (s.grp t g).ctr) with
      cmds := s.cmds.map (keepLive pg.pa (bitOf (valueIn s.mem [(pg, 8)]) 0))
      mem := s.mem.writeLe pg.pa 8 (publishWord (valueIn s.mem [(pg, 8)])) } : State).grp t g = s.grp t g := by
    show ((s.modTeam t (sharedTeam b (s.grp t g).ctr)).team t).group g = _
    rw [State.team_modTeam_same _ he.1, group_sharedTeam he.2]
    show { s.grp t g with ctr := laterCtr (s.grp t g).ctr (s.grp t g).ctr } = s.grp t g
    rw [hself]
  have h1 : t < (s.modTeam t (sharedTeam b (s.grp t g).ctr)).teams.length := lt_of_lt_of_eq he.1 (State.modTeam_length _ _ _).symm
  have h2 : g < ((s.modTeam t (sharedTeam b (s.grp t g).ctr)).team t).groups.length := by
    rw [State.team_modTeam_same _ he.1]
    simpa [sharedTeam] using he.2
  unfold published
  dsimp only
  rw [State.grp_modGrp_same _ (by exact h1) (by exact h2), hin]

end

theorem publish_completes (hR : ReadyFor (.publish h sc d a disp) s t g) (hE : eligible s t g h ≠ 0)
    (hva : descAddr (s.grp t g) a disp % 64 = 0)
    (hp : Passes s t g h (.s d) .atom true 8 (fun _ => descAddr (s.grp t g) a disp) ps) :
    ∃ s' pg, ps (lowest (eligible s t g h)) = [(pg, 8)] ∧ exec (.publish h sc d a disp) s = .next s' ∧
      (∀ u, u ≠ t → s'.team u = s.team u) ∧
      (∀ k, k ≠ g → k < (s.team t).groups.length →
        s'.grp t k = { s.grp t k with ctr := laterCtr (s.grp t k).ctr (s.grp t g).ctr }) ∧
      GroupFrame ⟨h, [], [(.s d, 2)], [], false, false, false⟩ s s' t g (Instr.publish h sc d a disp).size ∧
      regGet (s'.grp t g) (.s d) 0 2 = publishWord (valueIn s.mem [(pg, 8)]) ∧
      s'.mem = s.mem.writeLe pg.pa 8 (publishWord (valueIn s.mem [(pg, 8)])) ∧
      s'.cmds = s.cmds.map (keepLive pg.pa (bitOf (valueIn s.mem [(pg, 8)]) 0)) := by
  have he := hR.1.exists
  obtain ⟨hl32, hlE⟩ := lowest_mem hE
  have hact : Acting s t g h (.s d) (lowest (eligible s t g h)) := ⟨⟨hl32, hlE⟩, fun _ => rfl⟩
  have hu : ∀ l, Acting s t g h (.s d) l → l = lowest (eligible s t g h) := fun l hl => hl.2 rfl
  obtain ⟨ho, hc⟩ := hp.2.2 _ hact
  have hc' : checkAccess s (whoGroup s t g) .atom true (descAddr (s.grp t g) a disp) 8 = .ok (ps (lowest (eligible s t g h))) :=
    hc s.mem (.inl rfl)
  obtain ⟨pg, hpg⟩ := checkAccess_single hc' (by omega)
  rw [hpg] at ho hc'
  obtain ⟨b, hb⟩ := publishLane_eq (h := h) (d := d) (size := (Instr.publish h sc d a disp).size) he hp.2.1 ho
  set B := published s t g (eligible s t g h) d pg b with hB
  have hB_exists : Exists B t g := published_exists he
  have hB_group := published_group (d := d) (pg := pg) (b := b) (E := eligible s t g h) he
  have hadv : (if eligible s t g h = 0 then .adv s else publishAct d a disp (ctxOf s t g h (Instr.publish h sc d a disp).size) s) =
      Act.adv B := by
    rw [if_neg hE, publishAct_eq (t := t) (g := g) rfl rfl, if_neg (not_not.mpr hva)]
    refine (memAct_ok (d := .s d) hp _).trans ?_
    rw [actors_single hact hu, runLanes, laneAccess_ok hp.1 hc' ho, observe_nil (by exact hp.2.1), hb]
    rfl
  have hwrites : Writes ⟨h, [], [(.s d, 2)], [], false, false, false⟩ (eligible s t g h) (s.grp t g) (B.grp t g) := by
    rw [hB_group]
    exact writes_writeReg _ _ (by simp) fun _ hl => hl
  have hx := simt_advances (i := .publish h sc d a disp) (size := (Instr.publish h sc d a disp).size) rfl hR.1 (publish_rangeOk hR)
    hadv hB_exists ((soft_of_restOf hwrites.rest).trans hR.1.2.2)
  have hG := grp_advanced s h (Instr.publish h sc d a disp).size hB_exists
  refine ⟨_, pg, hpg, hx, fun u hut => ?_, fun k hk hlt => ?_, groupFrame_of_issue (hB_exists.modGrp _).1 (hB_exists.modGrp _).2 hG hwrites,
    ?_, rfl, rfl⟩
  · rw [advanced, State.team_modGrp_ne _ _ _ (Ne.symm hut), hB, published, State.team_modGrp_ne _ _ _ (Ne.symm hut)]
    exact State.team_modTeam_ne s _ (Ne.symm hut)
  · rw [advanced, State.grp_modGrp_ne _ _ (fun hx => hk hx.2.symm)]
    exact published_other he hk hlt
  · rw [hG, issueGroup_regGet, hB_group, regGet_uniform _ d 0 (lowest (eligible s t g h)) 2, regGet_writeRegG _ _ _ _ _ hl32 hlE]
    exact Nat.mod_eq_of_lt publishWord_lt

end

/-- R207 and R196, as O38 states them. -/
theorem publishResults : PublishResults := by
  intro s t g h sc d a disp ps i gr va _ hR hE
  refine ⟨fun hva hp => ?_, fun hva _ => publish_misaligned hR hE hva⟩
  obtain ⟨s', pg, hpg, hx, hteams, hgroups, hgf, hreg, hmem, hcmds⟩ := publish_completes hR hE hva hp
  refine ⟨s', hx, hteams, hgroups, hgf, ?_⟩
  rw [hpg, hreg, hmem, hcmds]
  refine ⟨storedIn_writeLe _ _ _ _, publishWord_live _, publishWord_gen _, ?_, fun j c c' e hc hc' he => ?_⟩
  · rw [List.map_map]
    exact List.map_congr_left fun x _ => keepLive_rest _ _ x
  · obtain rfl : (pg, 8) = e := by simpa using he
    have hc'' : c' = keepLive pg.pa (bitOf (valueIn s.mem [(pg, 8)]) 0) c := by
      rw [List.getElem?_map, hc] at hc'
      exact (Option.some.inj hc').symm
    subst hc''
    refine ⟨keepLive_done, fun hst => ?_⟩
    have hbit : bitOf (valueIn s.mem [(pg, 8)]) 0 = decide (valueIn s.mem [(pg, 8)] % 2 = 1) := Nat.testBit_zero _
    rw [← hbit]
    exact keepLive_open hst

/-- Settles O38, from its two parts. -/
theorem publishAndParameters : Obligations.PublishAndParameters := ⟨publishResults, parameterBankResults⟩

end Sys2Proof.Claims
end

section
/-! ATOM (08 R205). -/

namespace Sys2Proof.Claims
open Sys2Proof.Machine

/-! An atomic meets one line (08 R187). -/

theorem checkAccess_aligned {s : State} {w : Who} {words : Bool} {va n : Nat} {ps : List Piece}
    (h : checkAccess s w .atom words va n = .ok ps) : va % n = 0 := by
  unfold checkAccess at h
  dsimp only at h
  split at h
  · cases h
  · next hal => simpa using hal

theorem line_of_aligned {va n : Nat} (hn : n ∣ 128) (ha : va % n = 0) : va % 128 + n ≤ 128 := by
  obtain ⟨c, hc⟩ := hn
  obtain ⟨q, hq⟩ : n ∣ va % 128 := (Nat.dvd_mod_iff ⟨c, hc⟩).mpr (Nat.dvd_of_mod_eq_zero ha)
  have hlt : n * q < n * c := by rw [← hq, ← hc]; exact Nat.mod_lt _ (by decide)
  have := Nat.mul_le_mul_left n (Nat.succ_le_of_lt (Nat.lt_of_mul_lt_mul_left hlt))
  rw [Nat.mul_succ] at this
  omega

theorem tyBytes_dvd {op : AtomOp} {ty : Ty} (h : atomAccepts op ty = true) : tyBytes ty ∣ 128 := by
  revert h
  cases op <;> cases ty <;> decide

section
variable {s b : State} {t g : Nat} {h : Hdr} {op : AtomOp} {ty : Ty} {o : Order} {sc : Scope} {d r : Reg} {ad : Addr}
  {ps : Nat → List Piece}

theorem exec_atomForms (h : Hdr) (ty : Ty) (o : Order) (sc : Scope) (d : Reg) (ad : Addr) (r : Reg) (op : AtomOp) (s : State) :
    exec (atomForms h ty o sc d ad r op) s = simt h (atomForms h ty o sc d ad r op).size
      ([.wr d (tyRegs ty), .rd r (atomRegs op ty)] ++ addrUse 2 ad) noPriv (atomAct op ty o sc d ad r) s := by
  cases op <;> rfl

theorem atom_accepts (hw : (atomForms h ty o sc d ad r op).WellFormed) : atomAccepts op ty = true := by
  have hl : atomLegal op ty d ad r = true := by cases op <;> exact hw
  simp only [atomLegal, Bool.and_eq_true] at hl
  tauto

theorem atom_rangeOk (hR : ReadyFor (atomForms h ty o sc d ad r op) s t g) :
    rangeOk (s.launchOf t) h ([.wr d (tyRegs ty), .rd r (atomRegs op ty)] ++ addrUse 2 ad) = true := by
  have hn : namesOf (atomForms h ty o sc d ad r op) = some ⟨h, (d, tyRegs ty) :: (r, atomRegs op ty) :: ofAddr 2 ad, []⟩ := by
    cases op <;> rfl
  exact rangeOk_append_addrUse (rs := [(d, tyRegs ty), (r, atomRegs op ty)]) (hR.2 _ hn).1 (by simp [Named])

/-- A lane's atomic on global memory. -/
def atomStep (gr : Group) (op : AtomOp) (ty : Ty) (d r : Reg) (t g p : Nat) (ps : Nat → List Piece) (l : Nat) (x : State) : State :=
  let v := atomVal op ty (valueIn x.mem (ps l)) (regGet gr r l (atomRegs op ty))
  (writePieces p (ps l) v.1 (touchPieces t p (ps l) x)).modGrp t g fun y =>
    setFlagsG v.2 (writeRegG (laneBit l) d (tyRegs ty) (fun _ => valueIn x.mem (ps l)) y)

/-- Memory as before outside the pieces of the lanes that act. -/
def KeptOutside (E : Lanes) (d : Reg) (ps : Nat → List Piece) (m m' : Memory) : Prop :=
  ∀ a, (∀ l < 32, acts E d l = true → ¬Covers (ps l) a) → m'.get a = m.get a

/-- What holds between the lanes of an atomic. -/
def AtomInv (f : Form) (E : Lanes) (d : Reg) (ps : Nat → List Piece) (s b : State) (t g : Nat) : Prop :=
  GlobalInv f E s b t g ∧ b.buffer = [] ∧ KeptOutside E d ps s.mem b.mem

section
variable {gr : Group} {E : Lanes} {p l : Nat} {pg : Page} {x : State}
  (hps : ps l = [(pg, tyBytes ty)]) (ho : OrdinaryPieces s t .atom (ps l))
include hps ho

theorem atomStep_eq : atomStep gr op ty d r t g p ps l x =
    { touchPieces t p (ps l) x with
      mem := x.mem.writeLe pg.pa (tyBytes ty) (atomVal op ty (valueIn x.mem (ps l)) (regGet gr r l (atomRegs op ty))).1 }.modGrp t g fun y =>
      setFlagsG (atomVal op ty (valueIn x.mem (ps l)) (regGet gr r l (atomRegs op ty))).2
        (writeRegG (laneBit l) d (tyRegs ty) (fun _ => valueIn x.mem (ps l)) y) := by
  have hw : ∀ v y, writePieces p (ps l) v y = { y with mem := y.mem.writeLe pg.pa (tyBytes ty) v } := fun v y => by
    rw [hps] at ho ⊢
    exact ho.writePieces p v y
  rw [atomStep, hw]
  rfl

theorem AtomInv.step {f : Form} (hx : AtomInv f E d ps s x t g) (he : Exists s t g) (hf : (d, tyRegs ty) ∈ f.writes) (hfl : f.flags = true)
    (hl : l < 32) (ha : acts E d l = true) : AtomInv f E d ps s (atomStep gr op ty d r t g p ps l x) t g := by
  obtain ⟨hinv, hbuf, hmem⟩ := hx
  rw [atomStep_eq hps ho]
  refine ⟨((hinv.touch he p (ps l)).global _ _ _).modGrp he ((writes_writeReg _ _ hf (laneBit_mem (acts_mem ha))).trans
    (writes_setFlags _ _ (by simp [hfl]))), hbuf, fun a hout => ?_⟩
  refine Eq.trans ?_ (hmem a hout)
  refine (storedIn_writeLe x.mem pg (tyBytes ty) _ a).trans ?_
  have hnot : ¬(pg.pa ≤ a ∧ a < pg.pa + tyBytes ty) := fun hin => hout l hl ha ⟨_, by rw [hps]; exact List.mem_singleton.mpr rfl, hin.1, hin.2⟩
  simp [byteIn, hnot]

theorem grp_atomStep {f : Form} (hx : AtomInv f E d ps s x t g) (he : Exists s t g) :
    (atomStep gr op ty d r t g p ps l x).grp t g =
      setFlagsG (atomVal op ty (valueIn x.mem (ps l)) (regGet gr r l (atomRegs op ty))).2
        (writeRegG (laneBit l) d (tyRegs ty) (fun _ => valueIn x.mem (ps l)) (x.grp t g)) := by
  have htouch := (hx.1.touch he p (ps l)).global (x.mem.writeLe pg.pa (tyBytes ty)
    (atomVal op ty (valueIn x.mem (ps l)) (regGet gr r l (atomRegs op ty))).1) (touchPieces t p (ps l) x).buffer x.nextStore
  have hex := htouch.framed.exists he
  have hgrp : (touchPieces t p (ps l) x).grp t g = x.grp t g := by
    rw [State.grp, touchPieces, State.team_modTeam_same _ (hx.1.framed.exists he).1]
    rfl
  rw [atomStep_eq hps ho, State.grp_modGrp_same _ (by exact hex.1) (by exact hex.2), ← hgrp]
  rfl

end

theorem atom_completes (hw : (atomForms h ty o sc d ad r op).WellFormed) (hR : ReadyFor (atomForms h ty o sc d ad r op) s t g)
    (hp : Passes s t g h d .atom (bitTy ty) (tyBytes ty) (addressOf (s.grp t g) ad) ps) :
    ∃ s', exec (atomForms h ty o sc d ad r op) s = .next s' ∧ OnlyGlobal s s' t g ∧ s'.buffer = [] ∧
      GroupFrame ⟨h, [], [(d, tyRegs ty)], [], true, false, false⟩ s s' t g (atomForms h ty o sc d ad r op).size ∧
      LaneByLane (Acting s t g h d) s.mem s'.mem fun l m m' =>
        regGet (s'.grp t g) d l (tyRegs ty) = valueIn m (ps l) ∧
        ∃ x, AtomicIs op ty (valueIn m (ps l)) (regGet (s.grp t g) r l (atomRegs op ty)) x ∧ StoredIn (ps l) x m m' := by
  have he := hR.1.exists
  have hacc := atom_accepts hw
  set f : Form := ⟨h, [], [(d, tyRegs ty)], [], true, false, false⟩ with hf
  set E := eligible s t g h with hE
  have hpass : ∀ l < 32, acts E d l = true → OrdinaryPieces s t .atom (ps l) ∧ ∀ m : Memory, KeptOutside E d ps s.mem m →
      checkAccess { s with mem := m } (whoGroup s t g) .atom (bitTy ty) (addressOf (s.grp t g) ad l) (tyBytes ty) = .ok (ps l) := by
    intro l hl ha
    obtain ⟨ho, hc⟩ := hp.2.2 l (acting_iff.mpr ⟨hl, ha⟩)
    exact ⟨ho, fun m hm => hc m (.inr ⟨rfl, fun a hout => hm a fun l' hl' ha' => hout l' (acting_iff.mpr ⟨hl', ha'⟩)⟩)⟩
  have hpiece : ∀ l < 32, acts E d l = true → ∃ pg, ps l = [(pg, tyBytes ty)] := by
    intro l hl ha
    have hc := (hpass l hl ha).2 s.mem fun _ _ => rfl
    exact checkAccess_single hc (line_of_aligned (tyBytes_dvd hacc) (checkAccess_aligned hc))
  set step := atomStep (s.grp t g) op ty d r t g (s.launchOf t).part ps with hstep
  have hinv : ∀ n ≤ 32, AtomInv f E d ps s (laneState (acts E d) step s n) t g :=
    laneState_induction (Inv := fun _ x => AtomInv f E d ps s x t g) ⟨GlobalInv.refl f E s t g, hp.2.1, fun _ _ => rfl⟩
      (fun n hn x hx ha => by
        obtain ⟨pg, hpg⟩ := hpiece n hn ha
        exact hx.step hpg (hpass n hn ha).1 he (by simp [hf]) rfl hn ha) (fun _ _ _ hx _ => hx)
  have hact : atomAct op ty o sc d ad r (ctxOf s t g h (atomForms h ty o sc d ad r op).size) s = _ := memAct_ok hp _
  obtain ⟨s', hx, hglobal, hgf, hmem, hbuf, hreg⟩ := global_lanes (f := f) (d := d) (step := step)
    (exec_atomForms h ty o sc d ad r op s) hR.1 (atom_rangeOk hR) rfl hact (fun l hl ha => by
      obtain ⟨ho, hc⟩ := hpass l hl ha
      obtain ⟨hx, hxb, hxm⟩ := hinv l (by omega)
      generalize laneState (acts E d) step s l = x at hx hxb hxm
      rw [hx.laneAccess he hp.1 (hc _ hxm) ho]
      have hxb' : (touchPieces t (s.launchOf t).part (ps l) x).buffer = [] := hxb
      have hlaunch : (touchPieces t (s.launchOf t).part (ps l) x).launchOf t = s.launchOf t := (hx.touch he _ _).framed.launchOf he
      rw [observe_nil hxb', atomLane]
      simp only [beforeAtomic_nil hxb', ho.readPieces, ho.afterDevice, writeReg_eq, orFlags, State.modGrp_modGrp]
      rw [show ((touchPieces t (s.launchOf t).part (ps l) x).launchOf (ctxOf s t g h (atomForms h ty o sc d ad r op).size).t).part =
        (s.launchOf t).part from congrArg Launch.part hlaunch]
      rfl) (hinv 32 (Nat.le_refl _)).1
  have hregs := regGet_laneState (k := tyRegs ty) (t := t) (g := g) (s := s) (step := step)
    (val := fun l x => valueIn x.mem (ps l)) (p := acts E d) (E := E) (d := d) (fun _ => rfl)
    (fun l hl ha => by
      obtain ⟨pg, hpg⟩ := hpiece l hl ha
      exact ⟨_, grp_atomStep hpg (hpass l hl ha).1 (hinv l (by omega)) he⟩) 32 (Nat.le_refl _)
  refine ⟨s', hx, hglobal, hbuf.trans (hinv 32 (Nat.le_refl _)).2.1, hgf, ?_⟩
  rw [hmem]
  refine laneByLane_of_laneState State.mem (fun l hl => acting_iff.trans (and_iff_right hl)) fun l hl ha => ?_
  obtain ⟨pg, hpg⟩ := hpiece l hl ha
  have hlt : valueIn (laneState (acts E d) step s l).mem (ps l) < 256 ^ tyBytes ty := by
    have := valueIn_lt (laneState (acts E d) step s l).mem (ps l)
    rw [hpg] at this ⊢
    simpa using this
  refine ⟨?_, (atomVal op ty (valueIn (laneState (acts E d) step s l).mem (ps l)) (regGet (s.grp t g) r l (atomRegs op ty))).1,
    atomicIs_atomVal hacc hlt (regGet_lt _ _ _ _), ?_⟩
  · rw [hreg, hregs l hl ha, Nat.mod_eq_of_lt (bytes_lt_regs ty hlt)]
  · rw [hstep, atomStep_eq hpg (hpass l hl ha).1]
    conv in StoredIn (ps l) => rw [hpg]
    exact storedIn_writeLe _ _ _ _

end

/-- Settles O33: lane after lane by the steps of the acting lanes. -/
theorem atomicResults : Obligations.AtomicResults := fun _ _ _ _ _ _ _ _ _ _ _ _ hw hR hp => atom_completes hw hR hp

end Sys2Proof.Claims
end

section
/-! The waiting stores of one instruction, performed in whatever order (04 R93, 10 R216): each place ends with the byte of
the last store there. -/

namespace Sys2Proof.Claims
open Sys2Proof.Machine

/-! Bytes of several writes, the later over the earlier. -/

/-- The byte of a write at an address. -/
def writtenByte (w : Nat × List Byte) (a : Nat) : Option Byte :=
  if w.1 ≤ a ∧ a < w.1 + w.2.length then some (w.2.getD (a - w.1) 0) else none

/-- The byte of the last of some writes that meets an address. -/
def lastByte : List (Nat × List Byte) → Nat → Option Byte
  | [], _ => none
  | w :: ws, a => (lastByte ws a).or (writtenByte w a)

theorem get_writeBytes_writtenByte (m : Memory) (w : Nat × List Byte) (a : Nat) :
    (m.writeBytes w.1 w.2).get a = (writtenByte w a).getD (m.get a) := by
  rw [Store.get_writeBytes, writtenByte]
  split <;> rfl

theorem lastByte_append (xs ys : List (Nat × List Byte)) (a : Nat) : lastByte (xs ++ ys) a = (lastByte ys a).or (lastByte xs a) := by
  induction xs with
  | nil => simp [lastByte]
  | cons w xs ih => simp only [List.cons_append, lastByte, ih, Option.or_assoc]

theorem lastByte_none {ws : List (Nat × List Byte)} {a : Nat} (h : ∀ w ∈ ws, writtenByte w a = none) : lastByte ws a = none := by
  induction ws with
  | nil => rfl
  | cons w ws ih =>
    rw [lastByte, h w List.mem_cons_self, ih fun x hx => h x (List.mem_cons_of_mem _ hx)]
    rfl

/-- What some waiting stores write. -/
def writesOf (b : List Pending) : List (Nat × List Byte) := b.map fun q => (q.addr, q.bytes)

/-- Two stores meet in a byte. -/
def Overlap (q r : Pending) : Prop := q.overlaps r.addr r.bytes.length = true

theorem overlap_iff {q r : Pending} : Overlap q r ↔ r.addr < q.addr + q.bytes.length ∧ q.addr < r.addr + r.bytes.length := by
  simp [Overlap, Pending.overlaps]

theorem Overlap.symm {q r : Pending} (h : Overlap q r) : Overlap r q := by
  rw [overlap_iff] at h ⊢
  exact h.symm

/-- Stores with a byte at one address meet there. -/
theorem overlap_of_writtenByte {q r : Pending} {a : Nat} (hq : writtenByte (q.addr, q.bytes) a ≠ none) (hr : writtenByte (r.addr, r.bytes) a ≠ none) :
    Overlap q r := by
  rw [overlap_iff]
  simp only [writtenByte, ne_eq, ite_eq_right_iff, reduceCtorEq, imp_false, not_not] at hq hr
  omega

/-! Stores that differ at most in who can tell. -/

section
variable {q r q' r' : Pending} (h : seedOf q = seedOf q')
include h

theorem addr_of_seedOf : q.addr = q'.addr := by simpa [seedOf] using congrArg Pending.addr h
theorem bytes_of_seedOf : q.bytes = q'.bytes := by simpa [seedOf] using congrArg Pending.bytes h
theorem pre_of_seedOf : q.pre = q'.pre := by simpa [seedOf] using congrArg Pending.pre h

theorem sameInstr_of_seedOf (h' : seedOf r = seedOf r') : q.sameInstr r = q'.sameInstr r' :=
  show (seedOf q).sameInstr (seedOf r) = (seedOf q').sameInstr (seedOf r') by rw [h, h']

theorem overlap_of_seedOf (h' : seedOf r = seedOf r') : Overlap q r ↔ Overlap q' r' := by
  rw [overlap_iff, overlap_iff, addr_of_seedOf h, bytes_of_seedOf h, addr_of_seedOf h', bytes_of_seedOf h']

end

/-- The numbers of the stores that a store follows. -/
def preIds (q : Pending) : List Nat := q.pre.map Prod.fst

/-- The waiting stores of one instruction, in the order in which they were put to wait. -/
structure OneInstr (B : List Pending) : Prop where
  same : ∀ q ∈ B, ∀ r ∈ B, q.sameInstr r = true
  fresh : ∀ q ∈ B, q.due = none
  order : B.Pairwise fun q r => q.id < r.id
  seen : ∀ q ∈ B, ∀ r ∈ B, q.id < r.id → Overlap q r → q.id ∈ preIds r
  closed : ∀ q ∈ B, ∀ r ∈ B, q.id ∈ preIds r → ∀ i ∈ preIds q, i ∈ preIds r

theorem OneInstr.distinct {B : List Pending} (h : OneInstr B) : (B.map Pending.id).Nodup :=
  List.pairwise_map.mpr (h.order.imp fun hlt => Nat.ne_of_lt hlt)

/-- The stores of B that still wait in b. -/
def leftOf (B b : List Pending) : List Pending := B.filter fun q => b.any fun r => r.id == q.id

/-- Some of the stores of B have been performed, each after those before it that it meets: what the others still write makes
of memory what all of them make of m. -/
structure Left (B : List Pending) (m : Memory) (x : State) : Prop where
  origin : From B x.buffer
  distinct : (x.buffer.map Pending.id).Nodup
  order : x.buffer.Pairwise fun q r => Overlap q r → q.id < r.id
  due : ∀ q ∈ x.buffer, ∀ r ∈ x.buffer, q.id < r.id → Overlap q r → r.due ≠ none → q.due ≠ none
  mem : ∀ a, (lastByte (writesOf (leftOf B x.buffer)) a).getD (x.mem.get a) = (lastByte (writesOf B) a).getD (m.get a)

theorem left_all {B : List Pending} (hB : OneInstr B) {x : State} (hx : x.buffer = B) : Left B x.mem x := by
  refine ⟨hx ▸ From.refl _, hx ▸ hB.distinct, ?_, fun q _ r hr _ _ hd => ?_, fun a => ?_⟩
  · rw [hx]
    exact hB.order.imp fun {q r} h (_ : Overlap q r) => h
  · exact absurd (hB.fresh r (hx ▸ hr)) hd
  · have hall : leftOf B B = B := List.filter_eq_self.mpr fun q hq => List.any_eq_true.mpr ⟨q, hq, by simp⟩
    rw [hx, hall]

section
variable {B : List Pending} {m : Memory} {x : State} (hB : OneInstr B)
include hB

/-- Whom the origin of a waiting store precedes. -/
theorem Left.seen (hx : Left B m x) {q r : Pending} (hq : q ∈ x.buffer) (hr : r ∈ x.buffer) (hlt : q.id < r.id) (ho : Overlap q r) :
    q.id ∈ preIds r := by
  obtain ⟨q', hq', hqs⟩ := hx.origin q hq
  obtain ⟨r', hr', hrs⟩ := hx.origin r hr
  have := hB.seen q' hq' r' hr' (by rw [← seedOf_id hqs, ← seedOf_id hrs]; exact hlt) ((overlap_of_seedOf hqs hrs).mp ho)
  rwa [← seedOf_id hqs, show preIds r' = preIds r from congrArg (List.map Prod.fst) (pre_of_seedOf hrs).symm] at this

theorem Left.closed (hx : Left B m x) {q r : Pending} (hq : q ∈ x.buffer) (hr : r ∈ x.buffer) (hqr : q.id ∈ preIds r) {i : Nat}
    (hi : i ∈ preIds q) : i ∈ preIds r := by
  obtain ⟨q', hq', hqs⟩ := hx.origin q hq
  obtain ⟨r', hr', hrs⟩ := hx.origin r hr
  have hpre : ∀ {u v : Pending}, seedOf u = seedOf v → preIds u = preIds v := fun h => congrArg (List.map Prod.fst) (pre_of_seedOf h)
  rw [hpre hqs] at hi
  rw [hpre hrs, seedOf_id hqs] at hqr
  rw [hpre hrs]
  exact hB.closed q' hq' r' hr' hqr i hi

theorem Left.same (hx : Left B m x) {q r : Pending} (hq : q ∈ x.buffer) (hr : r ∈ x.buffer) : q.sameInstr r = true := by
  obtain ⟨q', hq', hqs⟩ := hx.origin q hq
  obtain ⟨r', hr', hrs⟩ := hx.origin r hr
  rw [sameInstr_of_seedOf hqs hrs]
  exact hB.same q' hq' r' hr'

end

theorem dueScope_ne_none {ids : List (Nat × Scope)} {q : Pending} :
    dueScope ids q ≠ none ↔ q.due ≠ none ∨ q.id ∈ ids.map Prod.fst := by
  constructor
  · intro h
    by_contra hne
    rw [not_or, not_not] at hne
    refine h ?_
    rw [dueScope_eq, hne.1]
    have hkeep : ∀ xs : List (Nat × Scope), (∀ e ∈ xs, e.1 ≠ q.id) → xs.foldl (dueStep q) none = none := by
      intro xs
      induction xs with
      | nil => exact fun _ => rfl
      | cons e xs ih =>
        intro hx
        have hstep : dueStep q none e = none := by
          rw [dueStep, if_neg]
          simpa using hx e List.mem_cons_self
        rw [List.foldl_cons, hstep]
        exact ih fun y hy => hx y (List.mem_cons_of_mem _ hy)
    exact hkeep ids fun e he hid => hne.2 (List.mem_map.mpr ⟨e, he, hid⟩)
  · rintro (h | h)
    · obtain ⟨c, hc⟩ := Option.ne_none_iff_exists'.mp h
      obtain ⟨y, hy, -⟩ := atLeast_dueScope_of_due (sc := c) ids ⟨c, hc, Nat.le_refl _⟩
      rw [hy]
      exact Option.some_ne_none y
    · obtain ⟨e, he, hid⟩ := List.mem_map.mp h
      obtain ⟨y, hy, -⟩ := atLeast_dueScope_of_mem (sc := e.2) (c := e.2) (ids := ids) (q := q) (by rw [← hid]; exact he) (Nat.le_refl _)
      rw [hy]
      exact Option.some_ne_none y

/-- Stores stay in order when the earlier ones of each that becomes due become due with it. -/
theorem pairwise_setDue {R : Pending → Pending → Prop} {ids : List (Nat × Scope)} {b : List Pending}
    (hR : ∀ q r, R q r → R (dueBy ids q) (dueBy ids r)) (hb : b.Pairwise R)
    (hdue : ∀ q ∈ b, ∀ r ∈ b, q.due ≠ none → r.due = none → R q r)
    (hnew : ∀ q ∈ b, ∀ r ∈ b, dueScope ids q ≠ none → dueScope ids r = none → R q r) : (setDue ids b).Pairwise R := by
  have hkeep : ∀ p : Pending → Bool, ((b.filter p).map (dueBy ids)).Pairwise R := fun p =>
    List.pairwise_map.mpr ((hb.filter p).imp fun h => hR _ _ h)
  have hback : ∀ {r}, dueScope ids r = none → dueBy ids r = r := dueBy_eq_self
  refine List.pairwise_append.mpr ⟨List.pairwise_append.mpr ⟨hkeep _, hkeep _, fun q hq r hr => ?_⟩, hb.filter _, fun q hq r hr => ?_⟩
  · obtain ⟨q', hq', rfl⟩ := List.mem_map.mp hq
    obtain ⟨r', hr', rfl⟩ := List.mem_map.mp hr
    obtain ⟨hqb, hqd⟩ := List.mem_filter.mp hq'
    obtain ⟨hrb, hrd⟩ := List.mem_filter.mp hr'
    have hqd' : q'.due ≠ none := by simpa [Option.isSome_iff_ne_none] using hqd
    have hrd' : r'.due = none := by simpa using (Bool.and_eq_true_iff.mp hrd).1
    exact hR _ _ (hdue q' hqb r' hrb hqd' hrd')
  · obtain ⟨hrb, hrd⟩ := List.mem_filter.mp hr
    have hrn : dueScope ids r = none := by simpa using hrd
    have hq' : ∃ q' ∈ b, q = dueBy ids q' ∧ dueScope ids q' ≠ none := by
      rcases List.mem_append.mp hq with hq | hq
      · obtain ⟨q', hq', rfl⟩ := List.mem_map.mp hq
        obtain ⟨hqb, hqd⟩ := List.mem_filter.mp hq'
        exact ⟨q', hqb, rfl, dueScope_ne_none.mpr (.inl (by simpa [Option.isSome_iff_ne_none] using hqd))⟩
      · obtain ⟨q', hq', rfl⟩ := List.mem_map.mp hq
        obtain ⟨hqb, hqd⟩ := List.mem_filter.mp hq'
        exact ⟨q', hqb, rfl, by simpa [Option.isSome_iff_ne_none] using (Bool.and_eq_true_iff.mp hqd).2⟩
    obtain ⟨q', hqb, rfl, hqn⟩ := hq'
    have := hR _ _ (hnew q' hqb r hrb hqn hrn)
    rwa [hback hrn] at this

/-- A list around one of its members. -/
theorem leftOf_split {B b : List Pending} (hB : OneInstr B) {q : Pending} (hq : q ∈ leftOf B b) :
    ∃ xs ys, leftOf B b = xs ++ q :: ys ∧ (∀ e ∈ xs, e ∈ leftOf B b ∧ e.id < q.id) ∧
      (leftOf B b).filter (fun e => !(e.id == q.id)) = xs ++ ys := by
  obtain ⟨xs, ys, hsplit⟩ := List.append_of_mem hq
  have hord : (xs ++ q :: ys).Pairwise fun q r => q.id < r.id := hsplit ▸ hB.order.filter _
  obtain ⟨-, hys, hcross⟩ := List.pairwise_append.mp hord
  obtain ⟨hgt, -⟩ := List.pairwise_cons.mp hys
  refine ⟨xs, ys, hsplit, fun e he => ⟨?_, hcross e he q List.mem_cons_self⟩, ?_⟩
  · rw [hsplit]
    exact List.mem_append_left _ he
  · have h1 : xs.filter (fun e => !(e.id == q.id)) = xs := List.filter_eq_self.mpr fun e he => by
      have := hcross e he q List.mem_cons_self
      simp [Nat.ne_of_lt this]
    have h2 : ys.filter (fun e => !(e.id == q.id)) = ys := List.filter_eq_self.mpr fun e he => by
      have := hgt e he
      simp [Nat.ne_of_gt this]
    rw [hsplit, List.filter_append, List.filter_cons, h1, h2]
    simp

/-- A waiting store is performed that no store before it meets any more. -/
theorem Left.perform {B : List Pending} {m : Memory} {x : State} (hB : OneInstr B) (hx : Left B m x) {q : Pending} (hq : q ∈ x.buffer)
    (hfirst : ∀ e ∈ x.buffer, e.id < q.id → ¬Overlap e q) :
    Left B m { x with
      mem := Store.writeBytes x.mem q.addr q.bytes, buffer := setDue q.pre (without x.buffer fun e => e.id == q.id) } := by
  have hsub : ∀ e ∈ without x.buffer (fun e => e.id == q.id), e ∈ x.buffer := fun e he => (List.mem_filter.mp he).1
  have hmap : ((without x.buffer fun e => e.id == q.id).map (dueBy q.pre)).map Pending.id =
      (without x.buffer fun e => e.id == q.id).map Pending.id := by
    rw [List.map_map]
    rfl
  have hinj : ∀ u ∈ x.buffer, ∀ v ∈ x.buffer, u ≠ v → u.id ≠ v.id := fun u hu v hv hne he =>
    hne (List.inj_on_of_nodup_map hx.distinct hu hv he)
  refine ⟨hx.origin.trans ((from_without _ _).trans (from_setDue _ _)), ?_, ?_, ?_, fun a => ?_⟩
  · refine (((setDue_perm _ _).map Pending.id).nodup_iff).mpr ?_
    rw [hmap]
    exact hx.distinct.sublist (List.filter_sublist.map _)
  · refine pairwise_setDue (fun _ _ h => h) (hx.order.filter _) (fun u hu v hv hud hvd ho => ?_) (fun u hu v hv hud hvd ho => ?_)
    · have hne : u.id ≠ v.id := hinj u (hsub u hu) v (hsub v hv) (by rintro rfl; exact hud hvd)
      by_contra hlt
      exact hx.due v (hsub v hv) u (hsub u hu) (by omega) ho.symm hud hvd
    · have hne : u.id ≠ v.id := hinj u (hsub u hu) v (hsub v hv) (by rintro rfl; exact hud hvd)
      by_contra hlt
      refine dueScope_ne_none.mpr ?_ hvd
      rcases dueScope_ne_none.mp hud with hud | hud
      · exact .inl (hx.due v (hsub v hv) u (hsub u hu) (by omega) ho.symm hud)
      · exact .inr (hx.closed hB (hsub u hu) hq hud (hx.seen hB (hsub v hv) (hsub u hu) (by omega) ho.symm))
  · intro u hu v hv hlt ho hvd
    obtain ⟨u', hu', rfl⟩ := mem_setDue.mp hu
    obtain ⟨v', hv', rfl⟩ := mem_setDue.mp hv
    refine dueScope_ne_none.mpr ?_
    rcases dueScope_ne_none.mp hvd with hvd | hvd
    · exact .inl (hx.due u' (hsub u' hu') v' (hsub v' hv') hlt ho hvd)
    · exact .inr (hx.closed hB (hsub v' hv') hq hvd (hx.seen hB (hsub u' hu') (hsub v' hv') hlt ho))
  · obtain ⟨q₀, hq₀, hseed⟩ := hx.origin q hq
    have hid := seedOf_id hseed
    have hleft : q₀ ∈ leftOf B x.buffer := List.mem_filter.mpr ⟨hq₀, List.any_eq_true.mpr ⟨q, hq, by simp [hid]⟩⟩
    obtain ⟨xs, ys, hsplit, hxs, hrest⟩ := leftOf_split hB hleft
    have hnew : leftOf B (setDue q.pre (without x.buffer fun e => e.id == q.id)) = xs ++ ys := by
      rw [← hrest, leftOf, leftOf, List.filter_filter]
      refine List.filter_congr fun e _ => ?_
      rw [Bool.eq_iff_iff, List.any_eq_true, Bool.and_eq_true, List.any_eq_true]
      constructor
      · rintro ⟨r, hr, hre⟩
        obtain ⟨r', hr', rfl⟩ := mem_setDue.mp hr
        obtain ⟨hr1, hr2⟩ := List.mem_filter.mp hr'
        have hre' : r'.id = e.id := by simpa [dueBy] using hre
        exact ⟨by simpa [← hre', ← hid] using hr2, r', hr1, by simp [hre']⟩
      · rintro ⟨hne, r, hr, hre⟩
        have hre' : r.id = e.id := by simpa using hre
        exact ⟨dueBy q.pre r, mem_setDue.mpr ⟨r, List.mem_filter.mpr ⟨hr, by simpa [hre', hid] using hne⟩, rfl⟩, by simp [dueBy, hre']⟩
    have hold := hx.mem a
    rw [hsplit, writesOf, List.map_append, List.map_cons, lastByte_append, lastByte] at hold
    rw [← hold, hnew, writesOf, List.map_append, lastByte_append, show (q₀.addr, q₀.bytes) = (q.addr, q.bytes) by
      rw [addr_of_seedOf hseed, bytes_of_seedOf hseed]]
    refine Eq.trans (congrArg _ (get_writeBytes_writtenByte x.mem (q.addr, q.bytes) a)) ?_
    cases hb : writtenByte (q.addr, q.bytes) a with
    | none => simp
    | some b =>
      have hnone : lastByte (xs.map fun q => (q.addr, q.bytes)) a = none := by
        refine lastByte_none fun w hw => ?_
        obtain ⟨e, he, rfl⟩ := List.mem_map.mp hw
        by_contra hne
        obtain ⟨hel, hlt⟩ := hxs e he
        obtain ⟨heB, hany⟩ := List.mem_filter.mp hel
        obtain ⟨r, hr, hre⟩ := List.any_eq_true.mp hany
        have hre' : r.id = e.id := by simpa using hre
        obtain ⟨r₀, hr₀, hrs⟩ := hx.origin r hr
        obtain rfl : r₀ = e := List.inj_on_of_nodup_map hB.distinct hr₀ heB ((seedOf_id hrs).symm.trans hre')
        refine hfirst r hr (by rw [hre', hid]; exact hlt) ?_
        refine overlap_of_writtenByte (a := a) ?_ (by rw [hb]; exact Option.some_ne_none b)
        rwa [addr_of_seedOf hrs, bytes_of_seedOf hrs]
      rw [hnone]
      cases lastByte (ys.map fun q => (q.addr, q.bytes)) a <;> rfl

/-! Performing a store with those that must precede it. -/

/-- How many waiting stores are older than a number. -/
def olderThan (b : List Pending) (i : Nat) : Nat := ((b.map Pending.id).filter fun j => decide (j < i)).length

theorem olderThan_le {b b' : List Pending} {i : Nat} (hd : (b'.map Pending.id).Nodup) (hf : From b b') : olderThan b' i ≤ olderThan b i := by
  refine (List.subperm_of_subset (hd.filter _) fun j hj => ?_).length_le
  obtain ⟨hj1, hj2⟩ := List.mem_filter.mp hj
  obtain ⟨r, hr, rfl⟩ := List.mem_map.mp hj1
  obtain ⟨q, hq, he⟩ := hf r hr
  exact List.mem_filter.mpr ⟨List.mem_map.mpr ⟨q, hq, (seedOf_id he).symm⟩, hj2⟩

theorem olderThan_lt {b : List Pending} {i : Nat} {q : Pending} (hq : q ∈ b) (hlt : q.id < i) : olderThan b q.id < olderThan b i := by
  have hsplit : (b.map Pending.id).filter (fun j => decide (j < q.id)) =
      ((b.map Pending.id).filter fun j => decide (j < i)).filter fun j => decide (j < q.id) := by
    rw [List.filter_filter]
    refine List.filter_congr fun j _ => ?_
    by_cases hj : j < q.id
    · simp [hj, lt_trans hj hlt]
    · simp [hj]
  unfold olderThan
  rw [hsplit]
  exact List.length_filter_lt_length_iff_exists.mpr
    ⟨q.id, List.mem_filter.mpr ⟨List.mem_map_of_mem hq, by simpa using hlt⟩, by simp⟩

theorem olderThan_le_length (b : List Pending) (i : Nat) : olderThan b i ≤ b.length :=
  (List.length_filter_le _ _).trans_eq (List.length_map _)

/-- The stores of b from a number on still wait in b'. -/
def KeptFrom (i : Nat) (b b' : List Pending) : Prop := ∀ r ∈ b, i ≤ r.id → ∃ r' ∈ b', r'.id = r.id

theorem KeptFrom.trans {i : Nat} {a b c : List Pending} (h : KeptFrom i a b) (h' : KeptFrom i b c) : KeptFrom i a c := fun r hr hi => by
  obtain ⟨q, hq, he⟩ := h r hr hi
  obtain ⟨p, hp, he'⟩ := h' q hq (he ▸ hi)
  exact ⟨p, hp, he'.trans he⟩

theorem KeptFrom.mono {i j : Nat} {a b : List Pending} (h : KeptFrom i a b) (hij : i ≤ j) : KeptFrom j a b :=
  fun r hr hj => h r hr (hij.trans hj)

/-- Older stores performed one after the other. -/
theorem left_foldl {B : List Pending} {m : Memory} {fuel i : Nat} (ih : ∀ (x : State) (j : Nat), Left B m x → olderThan x.buffer j < fuel →
      Left B m (performStore fuel j x) ∧ KeptFrom (j + 1) x.buffer (performStore fuel j x).buffer) :
    ∀ (es : List Pending) (x : State), Left B m x → (∀ e ∈ es, e.id < i) → (∀ e ∈ es, olderThan x.buffer e.id < fuel) →
      Left B m (es.foldl (fun s e => performStore fuel e.id s) x) ∧
        KeptFrom i x.buffer (es.foldl (fun s e => performStore fuel e.id s) x).buffer := by
  intro es
  induction es with
  | nil => exact fun x hx _ _ => ⟨hx, fun r hr _ => ⟨r, hr, rfl⟩⟩
  | cons e es ihes =>
    intro x hx hlt hfuel
    obtain ⟨h1, h2⟩ := ih x e.id hx (hfuel e List.mem_cons_self)
    obtain ⟨h3, h4⟩ := ihes _ h1 (fun y hy => hlt y (List.mem_cons_of_mem _ hy)) fun y hy =>
      lt_of_le_of_lt (olderThan_le h1.distinct (from_performStore _ _ _)) (hfuel y (List.mem_cons_of_mem _ hy))
    exact ⟨h3, (h2.mono (hlt e List.mem_cons_self)).trans h4⟩

theorem foldl_performStore_removes {fuel : Nat} {e : Pending} : ∀ {es : List Pending} {x : State}, e ∈ es →
    ∀ r ∈ (es.foldl (fun s e => performStore (fuel + 1) e.id s) x).buffer, r.id ≠ e.id := by
  intro es
  induction es with
  | nil => simp
  | cons y ys ih =>
    intro x he r hr
    rcases List.mem_cons.mp he with rfl | he
    · obtain ⟨z, hz, hs⟩ := from_foldl (fun s e => performStore (fuel + 1) e.id s) (fun _ _ => from_performStore _ _ _) ys _ r hr
      rw [seedOf_id hs]
      exact performStore_removes _ _ _ z hz
    · exact ih he r hr

section
variable {B : List Pending} {m : Memory} (hB : OneInstr B)
include hB

theorem left_performStore : ∀ (fuel : Nat) (x : State) (i : Nat), Left B m x → olderThan x.buffer i < fuel →
    Left B m (performStore fuel i x) ∧ KeptFrom (i + 1) x.buffer (performStore fuel i x).buffer := by
  intro fuel
  induction fuel with
  | zero => exact fun _ _ _ h => absurd h (Nat.not_lt_zero _)
  | succ fuel ih =>
    intro x i hx hfuel
    cases hf : x.buffer.find? fun q => q.id == i with
    | none => rw [performStore_none hf]; exact ⟨hx, fun r hr _ => ⟨r, hr, rfl⟩⟩
    | some q =>
      obtain ⟨hid, as, bs, hsplit, has⟩ := List.find?_eq_some_iff_append.mp hf
      obtain rfl : q.id = i := by simpa using hid
      have hq : q ∈ x.buffer := by rw [hsplit]; simp
      have htake : x.buffer.takeWhile (fun e => e.id != q.id) = as := by
        have hall : ∀ e ∈ as, (e.id != q.id) = true := fun e he => by simpa using has e he
        rw [hsplit, List.takeWhile_append_of_pos hall]
        simp
      obtain ⟨-, hqbs, hcross⟩ := List.pairwise_append.mp (hsplit ▸ hx.order)
      have hmem : ∀ e ∈ as.filter (fun e => mustPrecede e q), e ∈ x.buffer ∧ e.id < q.id := fun e he => by
        obtain ⟨h1, h2⟩ := List.mem_filter.mp he
        exact ⟨by rw [hsplit]; exact List.mem_append_left _ h1, hcross e h1 q List.mem_cons_self (Bool.and_eq_true_iff.mp h2).1⟩
      have hfuels : ∀ e ∈ as.filter (fun e => mustPrecede e q), olderThan x.buffer e.id < fuel := fun e he => by
        obtain ⟨h1, h2⟩ := hmem e he
        have := olderThan_lt h1 h2
        omega
      have hfirst : performFirst fuel q q.id x = (as.filter fun e => mustPrecede e q).foldl (fun s e => performStore fuel e.id s) x := by
        rw [performFirst, htake]
      obtain ⟨hL, hK⟩ := left_foldl ih _ x hx (fun e he => (hmem e he).2) hfuels
      rw [← hfirst] at hL hK
      obtain ⟨q', hq', hqid⟩ := hK q hq (Nat.le_refl _)
      have hseed : seedOf q' = seedOf q := by
        obtain ⟨p, hp, hs⟩ := (hfirst ▸ from_foldl _ (fun _ _ => from_performStore _ _ _) _ x :
          From x.buffer (performFirst fuel q q.id x).buffer) q' hq'
        obtain rfl : p = q := List.inj_on_of_nodup_map hx.distinct hp hq ((seedOf_id hs).symm.trans hqid)
        exact hs
      have hnone : ∀ e ∈ (performFirst fuel q q.id x).buffer, e.id < q'.id → ¬Overlap e q' := by
        intro e he hlt ho
        rw [hqid] at hlt
        obtain ⟨p, hp, hs⟩ := (hfirst ▸ from_foldl _ (fun _ _ => from_performStore _ _ _) _ x :
          From x.buffer (performFirst fuel q q.id x).buffer) e he
        have hpq : Overlap p q := (overlap_of_seedOf hs hseed).mp ho
        rw [seedOf_id hs] at hlt
        have hpas : p ∈ as := by
          rw [hsplit] at hp
          rcases List.mem_append.mp hp with hp | hp
          · exact hp
          · rcases List.mem_cons.mp hp with rfl | hp
            · exact absurd hlt (Nat.lt_irrefl _)
            · exact absurd ((List.pairwise_cons.mp hqbs).1 p hp hpq.symm) (by omega)
        have hprec : mustPrecede p q = true := by
          have hsame := hx.same hB (by rw [hsplit]; exact List.mem_append_left _ hpas) hq
          unfold mustPrecede
          rw [show p.overlaps q.addr q.bytes.length = true from hpq, hsame]
          simp
        have hpes : p ∈ as.filter (fun e => mustPrecede e q) := List.mem_filter.mpr ⟨hpas, hprec⟩
        cases fuel with
        | zero => exact absurd (hfuels p hpes) (Nat.not_lt_zero _)
        | succ fuel =>
          rw [hfirst] at he
          exact foldl_performStore_removes hpes e he (seedOf_id hs)
      have hperf := hL.perform hB hq' hnone
      rw [addr_of_seedOf hseed, bytes_of_seedOf hseed, pre_of_seedOf hseed, hqid] at hperf
      rw [performStore_some hf]
      refine ⟨hperf, fun r hr hri => ?_⟩
      obtain ⟨r', hr', hrid⟩ := hK r hr (by omega)
      refine ⟨dueBy q.pre r', mem_setDue.mpr ⟨r', List.mem_filter.mpr ⟨hr', ?_⟩, rfl⟩, hrid⟩
      have hne : r'.id ≠ q.id := by omega
      simpa using hne

theorem left_performStores {x : State} (hx : Left B m x) (sel : Pending → Bool) : Left B m (performStores sel x) := by
  have hfold : ∀ (es : List Pending) (x : State), Left B m x →
      Left B m (es.foldl (fun s q => performStore (s.buffer.length + 1) q.id s) x) := by
    intro es
    induction es with
    | nil => exact fun _ hx => hx
    | cons e es ih =>
      exact fun x hx => ih _ (left_performStore hB _ x e.id hx (Nat.lt_succ_of_le (olderThan_le_length _ _))).1
  exact hfold _ x hx

end

theorem performStores_all_nil (x : State) : (performStores (fun _ => true) x).buffer = [] := by
  refine List.eq_nil_iff_forall_not_mem.mpr fun r hr => ?_
  obtain ⟨q, hq, hs⟩ := from_performStores _ x r hr
  exact performStores_removes (fun _ => true) x hq rfl r hr (seedOf_id hs)

/-- All stores of an instruction performed: the last of them that meets an address leaves its byte there. -/
theorem get_performStores {B : List Pending} (hB : OneInstr B) {x : State} (hx : x.buffer = B) (sel : Pending → Bool) (a : Nat) :
    (performStores (fun _ => true) (performStores sel x)).mem.get a = (lastByte (writesOf B) a).getD (x.mem.get a) := by
  have hL := left_performStores hB (left_performStores hB (left_all hB hx) sel) fun _ => true
  have hmem := hL.mem a
  rw [performStores_all_nil] at hmem
  have hnone : leftOf B [] = [] := List.filter_eq_nil_iff.mpr fun _ _ => by simp
  rwa [hnone] at hmem

end Sys2Proof.Claims
end

section
/-! Stores put to wait by one instruction (10 R216), and the pieces of a store (08 R187). -/

namespace Sys2Proof.Claims
open Sys2Proof.Machine

/-! The numbers that a store follows. -/

theorem mem_keys_kSet {α : Type} {m : List (Nat × α)} {a i : Nat} {x : α} :
    i ∈ (kSet m a x).map Prod.fst ↔ i = a ∨ i ∈ m.map Prod.fst := by
  induction m with
  | nil => simp [kSet]
  | cons e m ih =>
    obtain ⟨k, v⟩ := e
    simp only [kSet]
    split
    · simp
    · split
      · next hk => subst hk; simp
      · rw [List.map_cons, List.mem_cons, ih, List.map_cons, List.mem_cons]
        tauto

theorem mem_keys_noteScope {ids : List (Nat × Scope)} {e : Nat × Scope} {i : Nat} :
    i ∈ (noteScope ids e).map Prod.fst ↔ i = e.1 ∨ i ∈ ids.map Prod.fst := mem_keys_kSet

theorem mem_keys_foldl_noteScope {es : List (Nat × Scope)} {i : Nat} : ∀ {ids : List (Nat × Scope)},
    i ∈ (es.foldl noteScope ids).map Prod.fst ↔ i ∈ es.map Prod.fst ∨ i ∈ ids.map Prod.fst := by
  induction es with
  | nil => simp
  | cons e es ih =>
    intro ids
    rw [List.foldl_cons, ih, mem_keys_noteScope, List.map_cons, List.mem_cons]
    tauto

/-- A store follows those that are selected, and those that they follow. -/
theorem mem_keys_orderedBefore {sel : Pending → Option Scope} {b : List Pending} {i : Nat} :
    i ∈ (orderedBefore sel b).map Prod.fst ↔ ∃ e ∈ b, sel e ≠ none ∧ (i = e.id ∨ i ∈ preIds e) := by
  have hfold : ∀ (b : List Pending) (ids : List (Nat × Scope)), i ∈ (b.foldl (fun ids q => match sel q with
      | some sc => (q.pre.map fun e => (e.1, narrower e.2 sc)).foldl noteScope (noteScope ids (q.id, sc))
      | none => ids) ids).map Prod.fst ↔ i ∈ ids.map Prod.fst ∨ ∃ e ∈ b, sel e ≠ none ∧ (i = e.id ∨ i ∈ preIds e) := by
    intro b
    induction b with
    | nil => simp
    | cons q b ih =>
      intro ids
      rw [List.foldl_cons, ih]
      cases hs : sel q with
      | none => simp [hs]
      | some sc =>
        have hpre : (q.pre.map fun e => (e.1, narrower e.2 sc)).map Prod.fst = preIds q := by
          rw [List.map_map]
          rfl
        dsimp only
        rw [mem_keys_foldl_noteScope, mem_keys_noteScope, hpre]
        simp only [List.mem_cons, exists_eq_or_imp, hs, ne_eq, reduceCtorEq, not_false_eq_true, true_and]
        generalize (∃ e ∈ b, ¬sel e = none ∧ (i = e.id ∨ i ∈ preIds e)) = later
        generalize (i = q.id) = here
        tauto
  exact (hfold b []).trans (by simp)

/-! The queue of one instruction's stores. -/

/-- The waiting stores of one instruction of a group, none of them due; the next has the number `next`. -/
structure Queue (t g tick next : Nat) (b : List Pending) : Prop where
  own : ∀ q ∈ b, q.team = t ∧ q.group = g ∧ q.eng = none ∧ q.due = none ∧ q.instr = tick
  order : b.Pairwise fun q r => q.id < r.id
  next : ∀ q ∈ b, q.id < next
  low : ∀ q ∈ b, ∀ i ∈ preIds q, i < q.id
  seen : ∀ q ∈ b, ∀ r ∈ b, q.id < r.id → Overlap q r → q.id ∈ preIds r
  closed : ∀ q ∈ b, ∀ r ∈ b, q.id ∈ preIds r → ∀ i ∈ preIds q, i ∈ preIds r

section
variable {t g tick next : Nat} {b : List Pending}

theorem Queue.nil : Queue t g tick next [] := by constructor <;> simp

theorem Queue.same (h : Queue t g tick next b) {q r : Pending} (hq : q ∈ b) (hr : r ∈ b) : q.sameInstr r = true := by
  obtain ⟨q1, q2, q3, -, q5⟩ := h.own q hq
  obtain ⟨r1, r2, r3, -, r5⟩ := h.own r hr
  simp [Pending.sameInstr, q1, q2, q3, q5, r1, r2, r3, r5]

theorem Queue.oneInstr (h : Queue t g tick next b) : OneInstr b :=
  ⟨fun _ hq _ hr => h.same hq hr, fun q hq => by obtain ⟨-, -, -, hd, -⟩ := h.own q hq; exact hd, h.order, h.seen, h.closed⟩

/-- Nobody meets the stores of an instruction that is still being made. -/
theorem Queue.observe {s : State} (h : Queue t g tick next s.buffer) (o : Observer) (rs : List Span) : observe o rs s = s := by
  have hnone : (s.buffer.any fun q => q.dueFor o && q.meets rs) = false := by
    refine List.any_eq_false.mpr fun q hq => ?_
    obtain ⟨-, -, -, hd, -⟩ := h.own q hq
    simp [Pending.dueFor, hd]
  rw [Machine.observe, hnone, if_neg Bool.false_ne_true]

/-- Another store of the instruction, after those that are selected, among them all that it meets. -/
theorem Queue.push {q : Pending} {sel : Pending → Option Scope} (h : Queue t g tick next b)
    (hq : q.team = t ∧ q.group = g ∧ q.eng = none ∧ q.due = none ∧ q.instr = tick) (hid : q.id = next)
    (hpre : q.pre = orderedBefore sel b) (hsel : ∀ e ∈ b, Overlap e q → sel e ≠ none) : Queue t g tick (next + 1) (b ++ [q]) := by
  have hkeys : ∀ i, i ∈ preIds q ↔ ∃ e ∈ b, sel e ≠ none ∧ (i = e.id ∨ i ∈ preIds e) := fun i => by
    rw [preIds, hpre]
    exact mem_keys_orderedBefore
  have hlow : ∀ i ∈ preIds q, i < next := fun i hi => by
    obtain ⟨e, he, -, rfl | hi⟩ := (hkeys i).mp hi
    · exact h.next e he
    · exact lt_trans (h.low e he i hi) (h.next e he)
  refine ⟨fun r hr => ?_, ?_, fun r hr => ?_, fun r hr i hi => ?_, fun u hu v hv hlt ho => ?_, fun u hu v hv huv i hi => ?_⟩
  · rcases List.mem_append.mp hr with hr | hr
    · exact h.own r hr
    · obtain rfl := List.mem_singleton.mp hr
      exact hq
  · refine List.pairwise_append.mpr ⟨h.order, List.pairwise_singleton _ _, fun u hu v hv => ?_⟩
    obtain rfl := List.mem_singleton.mp hv
    rw [hid]
    exact h.next u hu
  · rcases List.mem_append.mp hr with hr | hr
    · exact Nat.lt_succ_of_lt (h.next r hr)
    · obtain rfl := List.mem_singleton.mp hr
      omega
  · rcases List.mem_append.mp hr with hr | hr
    · exact h.low r hr i hi
    · obtain rfl := List.mem_singleton.mp hr
      rw [hid]
      exact hlow i hi
  · rcases List.mem_append.mp hv with hvb | hvq
    · rcases List.mem_append.mp hu with hub | huq
      · exact h.seen u hub v hvb hlt ho
      · obtain rfl := List.mem_singleton.mp huq
        have := h.next v hvb
        omega
    · obtain rfl := List.mem_singleton.mp hvq
      rcases List.mem_append.mp hu with hub | huq
      · exact (hkeys _).mpr ⟨u, hub, hsel u hub ho, .inl rfl⟩
      · obtain rfl := List.mem_singleton.mp huq
        exact absurd hlt (Nat.lt_irrefl _)
  · rcases List.mem_append.mp hu with hub | huq
    · rcases List.mem_append.mp hv with hvb | hvq
      · exact h.closed u hub v hvb huv i hi
      · obtain rfl := List.mem_singleton.mp hvq
        obtain ⟨e, he, hse, hue⟩ := (hkeys _).mp huv
        refine (hkeys i).mpr ⟨e, he, hse, .inr ?_⟩
        rcases hue with hue | hue
        · obtain rfl : u = e := List.inj_on_of_nodup_map h.oneInstr.distinct hub he hue
          exact hi
        · exact h.closed u hub e he hue i hi
    · obtain rfl := List.mem_singleton.mp huq
      rcases List.mem_append.mp hv with hvb | hvq
      · have h1 := h.low v hvb _ huv
        have h2 := h.next v hvb
        omega
      · obtain rfl := List.mem_singleton.mp hvq
        have := hlow _ huv
        omega

/-- What a value writes at some places. -/
def spanWrites : List Span → Nat → List (Nat × List Byte)
  | [], _ => []
  | (a, n) :: r, x => (a, bytesOf n x) :: spanWrites r (x / 256 ^ n)

/-- A store of some places put to wait behind the instruction's others. -/
theorem pendSpans_queue {q : Pending} (before : Option Scope)
    (hq : q.team = t ∧ q.group = g ∧ q.eng = none ∧ q.due = none ∧ q.instr = tick) : ∀ (rs : List Span) (x : Nat) (s : State),
    Queue t g tick s.nextStore s.buffer → ∃ es n, pendSpans q before rs x s = { s with buffer := s.buffer ++ es, nextStore := n } ∧
      Queue t g tick n (s.buffer ++ es) ∧ writesOf es = spanWrites rs x ∧ ∀ r ∈ es, r.lanes = q.lanes ∧ r.plain = q.plain := by
  intro rs
  induction rs with
  | nil => exact fun x s h => ⟨[], s.nextStore, by rw [List.append_nil]; rfl, by rwa [List.append_nil], rfl, by simp⟩
  | cons e rs ih =>
    obtain ⟨a, n⟩ := e
    intro x s h
    obtain ⟨new, hnew, hpush⟩ : ∃ new : Pending, pendStore { q with addr := a, bytes := bytesOf n x } before s =
        { s with buffer := s.buffer ++ [new], nextStore := s.nextStore + 1 } ∧
        (Queue t g tick (s.nextStore + 1) (s.buffer ++ [new]) ∧ new.addr = a ∧ new.bytes = bytesOf n x ∧
          new.lanes = q.lanes ∧ new.plain = q.plain) := by
      refine ⟨_, rfl, ?_, rfl, rfl, rfl, rfl⟩
      refine Queue.push (h := h) (q := _) (by exact hq) rfl rfl fun e he ho => ?_
      obtain ⟨q1, q2, q3, -, q5⟩ := hq
      obtain ⟨e1, e2, e3, -, e5⟩ := h.own e he
      have hsame : e.sameInstr { q with addr := a, bytes := bytesOf n x, id := s.nextStore } = true := by
        simp [Pending.sameInstr, q1, q2, q3, q5, e1, e2, e3, e5]
      dsimp only
      rw [if_pos]
      · exact Option.some_ne_none _
      · rw [hsame, Bool.or_true, Bool.and_true]
        exact ho
    obtain ⟨hqueue, haddr, hbytes, hlanes, hplain⟩ := hpush
    obtain ⟨es, k, hes, hqs, hws, hls⟩ := ih (x / 256 ^ n) { s with buffer := s.buffer ++ [new], nextStore := s.nextStore + 1 } hqueue
    refine ⟨new :: es, k, ?_, ?_, ?_, fun r hr => ?_⟩
    · rw [pendSpans, hnew, hes]
      simp only [List.append_assoc, List.singleton_append]
    · simpa using hqs
    · rw [spanWrites, ← hws, ← haddr, ← hbytes]
      rfl
    · rcases List.mem_cons.mp hr with rfl | hr
      · exact ⟨hlanes, hplain⟩
      · exact hls r hr

end

/-! The bytes that a value has at some pieces. -/

theorem bytesOf_length (n x : Nat) : (bytesOf n x).length = n := by simp [bytesOf]

theorem bytesOf_getElem? {n x i : Nat} (h : i < n) : (bytesOf n x)[i]? = some (BitVec.ofNat 8 (x / 256 ^ i)) := by
  simp [bytesOf, h]

theorem writtenByte_bytesOf (pa n x a : Nat) : writtenByte (pa, bytesOf n x) a =
    if pa ≤ a ∧ a < pa + n then some (BitVec.ofNat 8 (x / 256 ^ (a - pa))) else none := by
  unfold writtenByte
  dsimp only
  rw [bytesOf_length]
  split
  · rw [List.getD_eq_getElem?_getD, bytesOf_getElem? (by omega)]
    rfl
  · rfl

/-- Pieces that meet in no byte. -/
def Apart (ps : List Piece) : Prop :=
  ps.Pairwise fun e f => ∀ a, ¬((e.1.pa ≤ a ∧ a < e.1.pa + e.2) ∧ f.1.pa ≤ a ∧ a < f.1.pa + f.2)

theorem covers_of_spanWrites : ∀ {ps : List Piece} {x : Nat} {w : Nat × List Byte}, w ∈ spanWrites (spansOf ps) x → ∀ {a : Nat},
    w.1 ≤ a → a < w.1 + w.2.length → Covers ps a
  | (pg, n) :: ps, x, w, hw, a, h1, h2 => by
    rcases List.mem_cons.mp hw with rfl | hw
    · rw [bytesOf_length] at h2
      exact ⟨(pg, n), List.mem_cons_self, h1, h2⟩
    · obtain ⟨e, he, hin⟩ := covers_of_spanWrites hw h1 h2
      exact ⟨e, List.mem_cons_of_mem _ he, hin⟩

theorem lastByte_spanWrites : ∀ {ps : List Piece}, Apart ps → ∀ x a : Nat, lastByte (spanWrites (spansOf ps) x) a = byteIn ps x a
  | [], _, _, _ => rfl
  | (pg, n) :: ps, hd, x, a => by
    obtain ⟨hfirst, hrest⟩ := List.pairwise_cons.mp hd
    rw [show spanWrites (spansOf ((pg, n) :: ps)) x = (pg.pa, bytesOf n x) :: spanWrites (spansOf ps) (x / 256 ^ n) from rfl,
      lastByte, writtenByte_bytesOf, byteIn]
    by_cases ha : pg.pa ≤ a ∧ a < pg.pa + n
    · have hnone : lastByte (spanWrites (spansOf ps) (x / 256 ^ n)) a = none := lastByte_none fun w hw => by
        unfold writtenByte
        rw [if_neg]
        rintro ⟨h1, h2⟩
        obtain ⟨e, he, hin⟩ := covers_of_spanWrites hw h1 h2
        exact hfirst e he a ⟨ha, hin⟩
      rw [if_pos ha, if_pos ha, hnone]
      rfl
    · rw [if_neg ha, if_neg ha, lastByte_spanWrites hrest, Option.or_none]

theorem byteIn_spanWrites : ∀ {ps : List Piece} {x a : Nat} {b : Byte}, byteIn ps x a = some b →
    ∃ w ∈ spanWrites (spansOf ps) x, w.1 ≤ a ∧ w.2[a - w.1]? = some b
  | (pg, n) :: ps, x, a, b, h => by
    rw [byteIn] at h
    split at h
    · next ha =>
      refine ⟨(pg.pa, bytesOf n x), List.mem_cons_self, ha.1, ?_⟩
      rw [bytesOf_getElem? (by omega)]
      exact h
    · obtain ⟨w, hw, h1, h2⟩ := byteIn_spanWrites h
      exact ⟨w, List.mem_cons_of_mem _ hw, h1, h2⟩

/-! The pieces of a store lie in lines as its addresses do (08 R187), so they meet in no byte. -/

theorem resolve_mod {s : State} {p pa r : Nat} (h : resolve s p pa = some r) : r % 128 = pa % 128 := by
  have hmod : pa % 2 ^ 41 % 128 = pa % 128 := Nat.mod_mod_of_dvd pa (by decide)
  unfold resolve at h
  dsimp only at h
  split at h
  · split at h
    · cases h
    · split at h
      · split at h
        · rw [← Option.some.inj h, hmod]
        · cases h
      · rw [← Option.some.inj h]
  · split at h
    · rw [← Option.some.inj h]
    · cases h

theorem walkFrom_level {m : Memory} {ok : Nat → Bool} {va : Nat} : ∀ {lv : List (Nat × Nat)} {first : Bool} {tbl e lo : Nat},
    walkFrom m ok va lv first tbl = some (e, lo) → lo ∈ lv.map Prod.fst
  | (lo', n) :: rest, first, tbl, e, lo, h => by
    unfold walkFrom at h
    dsimp only at h
    split at h
    · cases h
    split at h
    · cases h
    split at h
    · split at h
      · cases h
      · obtain ⟨-, rfl⟩ := Prod.mk.inj (Option.some.inj h)
        exact List.mem_cons_self
    · exact List.mem_cons_of_mem _ (walkFrom_level h)

theorem level_of_mem {lo : Nat} (h : lo ∈ levels.map Prod.fst) : 128 ∣ 2 ^ lo ∧ 2 ^ 16 ∣ 2 ^ lo := by
  revert h
  simp only [levels, List.map_cons, List.map_nil, List.mem_cons, List.not_mem_nil, or_false]
  rintro (rfl | rfl | rfl | rfl) <;> decide

/-- A page that is not one of a shadow region lies in its lines as the addresses do. -/
theorem pageIn_mod {s : State} {p va : Nat} {root : Option Nat} {pg : Page} (h : pageIn s p root va = some pg)
    (hs : pg.shadow = none) : pg.pa % 128 = va % 128 := by
  unfold pageIn at h
  dsimp only at h
  split at h
  · cases h
  split at h
  · cases h
  next e lo hwalk =>
  obtain ⟨h1, h2⟩ := level_of_mem (walkFrom_level hwalk)
  have hoff : va % 2 ^ lo % 128 = va % 128 := Nat.mod_mod_of_dvd va h1
  split at h
  · split at h
    · cases h
    · split at h
      · next a b ha _ =>
        obtain rfl := Option.some.inj h
        have hsmall : va % 2 ^ lo % 2 ^ 16 % 128 = va % 2 ^ lo % 128 := Nat.mod_mod_of_dvd _ (by decide)
        have := resolve_mod ha
        dsimp only
        omega
      · cases h
  split at h
  · split at h
    · cases h
    · split at h
      · split at h
        · obtain rfl := Option.some.inj h
          cases hs
        · cases h
      · cases h
  split at h
  · cases h
  · next hal =>
    split at h
    · next a b ha _ =>
      obtain rfl := Option.some.inj h
      have had : entryAddr e % 128 = 0 := Nat.mod_eq_zero_of_dvd (h1.trans (Nat.dvd_of_mod_eq_zero (not_not.mp hal)))
      have := resolve_mod ha
      dsimp only
      omega
    · cases h

/-- The pages of an access that passes allow it. -/
theorem checkAccess_perm {s : State} {w : Who} {k : Kind} {words : Bool} {va n : Nat} {ps : List Piece}
    (h : checkAccess s w k words va n = .ok ps) {q : Nat × Nat} (hq : q ∈ lineParts va n) {pg : Page}
    (hpg : pageIn s w.part w.root q.1 = some pg) : permFails w k pg = false := by
  unfold checkAccess at h
  dsimp only at h
  split at h
  · cases h
  split at h
  · cases h
  split at h
  · cases h
  split at h
  · cases h
  split at h
  · cases h
  split at h
  · cases h
  next hperm =>
  have := List.find?_eq_none.mp (Option.map_eq_none_iff.mp hperm) _ (List.mem_map_of_mem hq)
  simpa [hpg] using this

theorem apart_of_write {s : State} {w : Who} {words : Bool} {va n : Nat} {ps : List Piece}
    (h : checkAccess s w .write words va n = .ok ps) (hn : n ≤ 128) : Apart ps := by
  obtain ⟨rfl, hsome⟩ := checkAccess_parts h
  have hplace : ∀ q ∈ lineParts va n, ∃ pg, pageIn s w.part w.root q.1 = some pg ∧ pg.pa % 128 = q.1 % 128 := fun q hq => by
    obtain ⟨pg, hpg⟩ := Option.isSome_iff_exists.mp (hsome q hq)
    have hperm := checkAccess_perm h hq hpg
    refine ⟨pg, hpg, pageIn_mod hpg ?_⟩
    simp only [permFails, Bool.or_eq_false_iff] at hperm
    simpa using hperm.2.1.2
  unfold lineParts at hplace ⊢
  split
  · next hline =>
    rw [if_pos hline] at hplace
    obtain ⟨pg, hpg, -⟩ := hplace _ (List.mem_singleton.mpr rfl)
    simp [hpg, Apart]
  · next hline =>
    rw [if_neg hline] at hplace
    obtain ⟨p1, hp1, hm1⟩ := hplace _ List.mem_cons_self
    obtain ⟨p2, hp2, hm2⟩ := hplace _ (List.mem_cons_of_mem _ List.mem_cons_self)
    dsimp only at hp1 hp2 hm1 hm2
    simp only [List.filterMap_cons, List.filterMap_nil, hp1, hp2, Option.map_some, Apart]
    refine List.pairwise_pair.mpr fun a ha => ?_
    dsimp only at ha
    omega

end Sys2Proof.Claims
end

section
/-! ST (08 R201 to R203): what a store puts to wait, and what its lanes leave in memory. -/

namespace Sys2Proof.Claims
open Sys2Proof.Machine

/-! Lanes that write one after the other. -/

/-- A lane from n on acts. -/
def ActsFrom (acting : Nat → Prop) (n : Nat) : Prop := ∃ l, n ≤ l ∧ l < 32 ∧ acting l

/-- A memory may be replaced at the end by one that reads alike, where a lane acts at all. -/
theorem LaneByLane.replace_last {α : Type} {acting : Nat → Prop} {x₀ x₁ y : α} {does : Nat → α → α → Prop}
    (h : LaneByLane acting x₀ x₁ does) (hsome : ∃ l < 32, acting l) (hdoes : ∀ l x, does l x x₁ → does l x y) :
    LaneByLane acting x₀ y does := by
  classical
  obtain ⟨xs, h0, h32, hstep⟩ := h
  have hlast : ∀ k, k ≤ 32 → ¬ActsFrom acting (32 - k) → xs (32 - k) = x₁ := by
    intro k
    induction k with
    | zero => exact fun _ _ => h32
    | succ k ih =>
      intro hk hn
      have hnext : 32 - (k + 1) + 1 = 32 - k := by omega
      have hnot : ¬acting (32 - (k + 1)) := fun ha => hn ⟨_, Nat.le_refl _, by omega, ha⟩
      rw [← (hstep _ (by omega)).2 hnot, hnext]
      exact ih (by omega) fun ⟨l, hl, h⟩ => hn ⟨l, by omega, h⟩
  have hend : ∀ n ≤ 32, ¬ActsFrom acting n → xs n = x₁ := fun n hn hl => by
    have := hlast (32 - n) (by omega)
    rw [show 32 - (32 - n) = n by omega] at this
    exact this hl
  refine ⟨fun n => if ActsFrom acting n then xs n else y, ?_, if_neg fun ⟨l, h1, h2, _⟩ => absurd h2 (by omega), fun l hl => ⟨fun ha => ?_, fun ha => ?_⟩⟩
  · obtain ⟨l, hl, ha⟩ := hsome
    dsimp only
    rw [if_pos ⟨l, Nat.zero_le _, hl, ha⟩, h0]
  · have hdo := (hstep l hl).1 ha
    dsimp only
    rw [if_pos (show ActsFrom acting l from ⟨l, Nat.le_refl _, hl, ha⟩)]
    split
    · exact hdo
    · next hn =>
      rw [hend (l + 1) hl hn] at hdo
      exact hdoes l _ hdo
  · have hiff : ActsFrom acting (l + 1) ↔ ActsFrom acting l := ⟨fun ⟨k, h1, h2, h3⟩ => ⟨k, by omega, h2, h3⟩, fun ⟨k, h1, h2, h3⟩ =>
      ⟨k, Nat.lt_of_le_of_ne h1 (fun he => ha (he ▸ h3)), h2, h3⟩⟩
    dsimp only
    rw [(hstep l hl).2 ha]
    exact if_congr hiff rfl rfl

/-- Writes made one after the other. -/
def writeAll (ws : List (Nat × List Byte)) (m : Memory) : Memory := ws.foldl (fun m w => m.writeBytes w.1 w.2) m

theorem get_writeAll (ws : List (Nat × List Byte)) (m : Memory) (a : Nat) : (writeAll ws m).get a = (lastByte ws a).getD (m.get a) := by
  induction ws generalizing m with
  | nil => rfl
  | cons w ws ih =>
    rw [writeAll, List.foldl_cons]
    refine (ih _).trans ?_
    rw [get_writeBytes_writtenByte, lastByte]
    cases lastByte ws a <;> rfl

theorem laneState_writeAll (p : Nat → Bool) (ws : Nat → List (Nat × List Byte)) (m : Memory) (n : Nat) :
    laneState p (fun l => writeAll (ws l)) m n = writeAll (((List.range n).filter p).flatMap ws) m := by
  rw [laneState, writeAll, List.foldl_flatMap]
  rfl

theorem storedIn_writeAll {ps : List Piece} (hd : Apart ps) (x : Nat) (m : Memory) : StoredIn ps x m (writeAll (spanWrites (spansOf ps) x) m) :=
  fun a => by rw [get_writeAll, lastByte_spanWrites hd]

theorem StoredIn.congr_right {ps : List Piece} {x : Nat} {m m' m'' : Memory} (h : StoredIn ps x m m') (he : ∀ a, m''.get a = m'.get a) :
    StoredIn ps x m m'' := fun a => (he a).trans (h a)

/-! A lane's store. -/

/-- What a waiting store of a lane is: its threads, whether it is ordinary, where and what it writes. -/
def said (q : Pending) : (Lanes × Bool) × (Nat × List Byte) := ((q.lanes, q.plain), (q.addr, q.bytes))

theorem writesOf_eq_said (b : List Pending) : writesOf b = (b.map said).map Prod.snd := by
  rw [List.map_map]
  rfl

/-- A waiting store of a lane's threads, still without its place. -/
def laneStore (t g tick : Nat) (ls : Lanes) (plain : Bool) : Pending :=
  { id := 0, team := t, group := g, lanes := ls, addr := 0, bytes := [], plain := plain, instr := tick }

/-- The threads for which a lane's access is made. -/
def accessThreads (E : Lanes) (d : Reg) (l : Nat) : Lanes := if onceReg d then E else laneBit l

theorem accessThreads_mem {E : Lanes} {d : Reg} {l : Nat} (hl : l < 32) (h : E.getLsbD l = true) :
    (accessThreads E d l).getLsbD l = true := by
  unfold accessThreads
  split
  · exact h
  · simp [getLsbD_laneBit, hl]

theorem accessThreads_sub {E : Lanes} {d : Reg} {l : Nat} (h : E.getLsbD l = true) : accessThreads E d l &&& ~~~E = 0 := by
  unfold accessThreads
  split
  · simp
  · refine BitVec.eq_of_getLsbD_eq fun i hi => ?_
    have hin := laneBit_mem h i
    cases hb : (laneBit l).getLsbD i with
    | false => simp [hb]
    | true => simp [hin hb]

section
variable {s x : State} {t g : Nat} {h : Hdr} {ty : Ty} {o : Order} {sc : Scope} {d : Reg} {ad : Addr} {ps : Nat → List Piece}

/-- A lane's store put to wait. -/
def storeStep (E : Lanes) (gr : Group) (ty : Ty) (o : Order) (sc : Scope) (d : Reg) (t g p tick : Nat) (ps : Nat → List Piece)
    (l : Nat) (x : State) : State :=
  let v := storeVal ty (regGet gr d l (tyRegs ty))
  (pendSpans (laneStore t g tick (accessThreads E d l) (o == .ordinary)) (releaseScope o sc false) (spansOf (ps l)) v.1
    (touchPieces t p (ps l) x)).modGrp t g (setFlagsG v.2)

/-- What a lane writes. -/
def laneWrites (gr : Group) (ty : Ty) (d : Reg) (ps : Nat → List Piece) (l : Nat) : List (Nat × List Byte) :=
  spanWrites (spansOf (ps l)) (storeVal ty (regGet gr d l (tyRegs ty))).1

/-- What a lane puts to wait. -/
def laneSaid (E : Lanes) (gr : Group) (ty : Ty) (o : Order) (d : Reg) (ps : Nat → List Piece) (l : Nat) :
    List ((Lanes × Bool) × (Nat × List Byte)) :=
  (laneWrites gr ty d ps l).map (Prod.mk (accessThreads E d l, o == .ordinary))

theorem laneSaid_snd (E : Lanes) (gr : Group) (ty : Ty) (o : Order) (d : Reg) (ps : Nat → List Piece) (l : Nat) :
    (laneSaid E gr ty o d ps l).map Prod.snd = laneWrites gr ty d ps l := by
  rw [laneSaid, List.map_map]
  exact List.map_id _

/-- What holds between the lanes of a store. -/
structure StoreInv (f : Form) (E : Lanes) (ty : Ty) (o : Order) (d : Reg) (ps : Nat → List Piece) (s b : State) (t g n : Nat) : Prop where
  global : GlobalInv f E s b t g
  mem : b.mem = s.mem
  queue : Queue t g s.tick b.nextStore b.buffer
  lanes : b.buffer.map said = ((List.range n).filter (acts E d)).flatMap (laneSaid E (s.grp t g) ty o d ps)

theorem StoreInv.step {f : Form} {E : Lanes} {n p : Nat} (hx : StoreInv f E ty o d ps s x t g n) (he : Exists s t g)
    (hfl : f.flags = true) (ha : acts E d n = true) :
    StoreInv f E ty o d ps s (storeStep E (s.grp t g) ty o sc d t g p s.tick ps n x) t g (n + 1) := by
  have htouch := hx.global.touch he p (ps n)
  obtain ⟨es, k, hes, hqueue, hws, hls⟩ := pendSpans_queue (q := laneStore t g s.tick (accessThreads E d n) (o == .ordinary))
    (releaseScope o sc false) ⟨rfl, rfl, rfl, rfl, rfl⟩ (spansOf (ps n)) (storeVal ty (regGet (s.grp t g) d n (tyRegs ty))).1
    (touchPieces t p (ps n) x) hx.queue
  have hsaid : es.map said = laneSaid E (s.grp t g) ty o d ps n := by
    have hmap : es.map said = es.map fun q => ((accessThreads E d n, o == .ordinary), (q.addr, q.bytes)) :=
      List.map_congr_left fun q hq => by
        obtain ⟨h1, h2⟩ := hls q hq
        rw [said, h1, h2]
        rfl
    rw [hmap, laneSaid, laneWrites, ← hws, writesOf, List.map_map]
    rfl
  simp only [storeStep]
  rw [hes]
  refine ⟨(htouch.global _ _ _).modGrp he (writes_setFlags _ _ (by simp [hfl])), hx.mem, hqueue, ?_⟩
  refine List.map_append.trans ?_
  rw [hsaid, List.range_succ, List.filter_append, List.flatMap_append]
  refine congrArg₂ _ hx.lanes ?_
  simp [ha]

theorem StoreInv.skip {f : Form} {E : Lanes} {n : Nat} (hx : StoreInv f E ty o d ps s x t g n) (ha : acts E d n = false) :
    StoreInv f E ty o d ps s x t g (n + 1) :=
  ⟨hx.global, hx.mem, hx.queue, by rw [hx.lanes, List.range_succ, List.filter_append]; simp [ha]⟩

/-- A lane's store once its checks have passed. -/
theorem storeLane_eq {p size l : Nat} {y : State} (ho : OrdinaryPieces s t .write (ps l)) (htick : x.tick = s.tick)
    (hy : touchPieces t p (ps l) y = x) :
    storeLane (ctxOf s t g h size) ty o sc (onceReg d) (fun l => regGet (s.grp t g) d l (tyRegs ty)) l (ps l) x =
      storeStep (eligible s t g h) (s.grp t g) ty o sc d t g p s.tick ps l y := by
  rw [storeLane]
  simp only [ho.afterDevice]
  rw [storeStep, hy, storeOrdered]
  simp only [ho.anyDevice, ho.anyRemote, Bool.false_eq_true, if_false, Bool.not_false, Bool.and_true, htick]
  rfl

/-- The waiting stores that a store leaves. -/
structure Waits (E : Lanes) (gr : Group) (ty : Ty) (o : Order) (d : Reg) (ps : Nat → List Piece) (t g tick : Nat) (s' : State) : Prop where
  queue : ∃ next, Queue t g tick next s'.buffer
  lanes : s'.buffer.map said = ((List.range 32).filter (acts E d)).flatMap (laneSaid E gr ty o d ps)

section
variable {E : Lanes} {gr : Group} {tick : Nat} (hb : Waits E gr ty o d ps t g tick x)
include hb

theorem Waits.mem_iff {e : (Lanes × Bool) × (Nat × List Byte)} : e ∈ x.buffer.map said ↔ ∃ l < 32, acts E d l = true ∧
    ∃ w ∈ laneWrites gr ty d ps l, e = ((accessThreads E d l, o == .ordinary), w) := by
  simp only [hb.lanes, List.mem_flatMap, List.mem_filter, List.mem_range, laneSaid, List.mem_map, and_assoc, eq_comm]

/-- Every byte that a lane stores waits in a store of the lane. -/
theorem Waits.has_byte {l a : Nat} {b : Byte} (hl : l < 32) (ha : acts E d l = true)
    (hbyte : byteIn (ps l) (storeVal ty (regGet gr d l (tyRegs ty))).1 a = some b) :
    ∃ q ∈ x.buffer, q.lanes.getLsbD l = true ∧ q.addr ≤ a ∧ q.bytes[a - q.addr]? = some b := by
  obtain ⟨w, hw, h1, h2⟩ := byteIn_spanWrites hbyte
  obtain ⟨q, hq, hs⟩ := List.mem_map.mp (hb.mem_iff.mpr ⟨l, hl, ha, w, hw, rfl⟩)
  obtain ⟨hfst, rfl⟩ := Prod.mk.inj hs
  obtain ⟨hlanes, -⟩ := Prod.mk.inj hfst
  exact ⟨q, hq, hlanes ▸ accessThreads_mem hl (acts_mem ha), h1, h2⟩

/-- Every waiting store is one of an acting lane. -/
theorem Waits.of_lane {q : Pending} (hq : q ∈ x.buffer) : ∃ l < 32, acts E d l = true ∧ q.lanes = accessThreads E d l ∧
    q.plain = (o == .ordinary) ∧ ∀ a, q.addr ≤ a → a < q.addr + q.bytes.length → Covers (ps l) a := by
  obtain ⟨l, hl, ha, w, hw, hs⟩ := hb.mem_iff.mp (List.mem_map_of_mem hq)
  obtain ⟨hfst, rfl⟩ := Prod.mk.inj hs
  obtain ⟨hlanes, hplain⟩ := Prod.mk.inj hfst
  exact ⟨l, hl, ha, hlanes, hplain, fun a h1 h2 => covers_of_spanWrites hw h1 h2⟩

theorem Waits.writesOf : writesOf x.buffer = ((List.range 32).filter (acts E d)).flatMap (laneWrites gr ty d ps) := by
  rw [writesOf_eq_said, hb.lanes, List.map_flatMap]
  simp only [laneSaid_snd]

/-- Performed in whatever order, the stores leave what the lanes store one after the other. -/
theorem Waits.performed (hd : ∀ l < 32, acts E d l = true → Apart (ps l)) (sel : Pending → Bool) :
    LaneByLane (fun l => l < 32 ∧ acts E d l = true) x.mem (performStores (fun _ => true) (performStores sel x)).mem fun l m m' =>
      StoredIn (ps l) (storeVal ty (regGet gr d l (tyRegs ty))).1 m m' := by
  have hlanes := laneByLane_of_laneState (p := acts E d) (step := fun l => writeAll (laneWrites gr ty d ps l)) (s := x.mem)
    (acting := fun l => l < 32 ∧ acts E d l = true) (does := fun l m m' => StoredIn (ps l) (storeVal ty (regGet gr d l (tyRegs ty))).1 m m')
    id (fun l hl => and_iff_right hl) fun l hl ha => storedIn_writeAll (hd l hl ha) _ _
  by_cases hsome : ∃ l < 32, l < 32 ∧ acts E d l = true
  · obtain ⟨next, hqueue⟩ := hb.queue
    refine hlanes.replace_last hsome fun l m hdo => hdo.congr_right fun a => ?_
    rw [get_performStores hqueue.oneInstr rfl sel a, hb.writesOf, ← get_writeAll, ← laneState_writeAll]
    rfl
  · have hnone : (List.range 32).filter (acts E d) = [] := List.filter_eq_nil_iff.mpr fun l hl ha =>
      hsome ⟨l, List.mem_range.mp hl, List.mem_range.mp hl, ha⟩
    have hempty : x.buffer = [] := by
      have := hb.lanes
      rw [hnone] at this
      exact List.map_eq_nil_iff.mp this
    rw [performStores_nil hempty, performStores_nil hempty]
    refine ⟨fun _ => x.mem, rfl, rfl, fun l hl => ⟨fun ha => absurd ⟨l, hl, ha⟩ hsome, fun _ => rfl⟩⟩

end

theorem tyBytes_le (ty : Ty) : tyBytes ty ≤ 128 := by cases ty <;> decide

theorem st_rangeOk {hint : Hint} (hR : ReadyFor (.st h ty o sc hint ad d) s t g) :
    rangeOk (s.launchOf t) h ([.rd d (tyRegs ty)] ++ addrUse 2 ad) = true :=
  rangeOk_append_addrUse (rs := [(d, tyRegs ty)]) (hR.2 _ rfl).1 (by simp [Named])

/-- A store leaves memory, and its lanes' bytes waiting. -/
theorem st_waits {hint : Hint} (hR : ReadyFor (.st h ty o sc hint ad d) s t g)
    (hp : Passes s t g h d .write (bitTy ty) (tyBytes ty) (addressOf (s.grp t g) ad) ps) :
    ∃ s', exec (.st h ty o sc hint ad d) s = .next s' ∧ OnlyGlobal s s' t g ∧
      GroupFrame ⟨h, [], [], [], true, false, false⟩ s s' t g (Instr.st h ty o sc hint ad d).size ∧ s'.mem = s.mem ∧
      Waits (eligible s t g h) (s.grp t g) ty o d ps t g s.tick s' := by
  have he := hR.1.exists
  set f : Form := ⟨h, [], [], [], true, false, false⟩ with hf
  set E := eligible s t g h with hE
  set step := storeStep E (s.grp t g) ty o sc d t g (s.launchOf t).part s.tick ps with hstep
  have hpass : ∀ l < 32, acts E d l = true → OrdinaryPieces s t .write (ps l) ∧
      checkAccess { s with mem := s.mem } (whoGroup s t g) .write (bitTy ty) (addressOf (s.grp t g) ad l) (tyBytes ty) = .ok (ps l) := by
    intro l hl ha
    obtain ⟨ho, hc⟩ := hp.2.2 l (acting_iff.mpr ⟨hl, ha⟩)
    exact ⟨ho, hc s.mem (.inl rfl)⟩
  have hinv : ∀ n ≤ 32, StoreInv f E ty o d ps s (laneState (acts E d) step s n) t g n :=
    laneState_induction (Inv := fun n x => StoreInv f E ty o d ps s x t g n)
      ⟨GlobalInv.refl f E s t g, rfl, by rw [hp.2.1]; exact Queue.nil, by rw [hp.2.1]; rfl⟩
      (fun n _ x hx ha => hx.step he rfl ha) (fun n _ x hx ha => hx.skip ha)
  have hact : stAct ty o sc ad d (ctxOf s t g h (Instr.st h ty o sc hint ad d).size) s = _ := memAct_ok hp _
  obtain ⟨s', hx, hglobal, hgf, hmem, hbuf, -⟩ := global_lanes (f := f) (d := d) (step := step)
    rfl hR.1 (st_rangeOk hR) rfl hact (fun l hl ha => by
      obtain ⟨ho, hc⟩ := hpass l hl ha
      have hxl := hinv l (by omega)
      generalize laneState (acts E d) step s l = x at hxl
      rw [hxl.global.laneAccess he hp.1 (by rw [hxl.mem]; exact hc) ho]
      have htouch := hxl.global.touch he (s.launchOf t).part (ps l)
      have hqueue : Queue t g s.tick x.nextStore (touchPieces t (s.launchOf t).part (ps l) x).buffer := hxl.queue
      rw [hqueue.observe]
      exact congrArg (fun y => (y, none)) (storeLane_eq ho htouch.framed.tick rfl))
      (hinv 32 (Nat.le_refl _)).global
  have hend := hinv 32 (Nat.le_refl _)
  refine ⟨s', hx, hglobal, hgf, hmem.trans hend.mem, ⟨_, hbuf ▸ hend.queue⟩, hbuf ▸ hend.lanes⟩

end

/-- Settles O32: the stores of one instruction wait in its lanes' order, and each place ends with the byte of the last. -/
theorem storeResults : Obligations.StoreResults := by
  intro s t g h ty o sc hint d ad ps i gr _ hR hp
  obtain ⟨s', hx, hglobal, hgf, hmem, hwaits⟩ := st_waits hR hp
  refine ⟨s', hx, hglobal, hgf, hmem, fun l hl => ?_, fun q hq => ?_, fun sel => ⟨performStores_all_nil _, ?_⟩⟩
  · obtain ⟨h32, ha⟩ := acting_iff.mp hl
    exact ⟨_, storeIs_storeVal ty _, fun a b hb => hwaits.has_byte h32 ha hb⟩
  · obtain ⟨next, hqueue⟩ := hwaits.queue
    obtain ⟨h1, h2, h3, h4, -⟩ := hqueue.own q hq
    obtain ⟨l, h32, ha, hlanes, hplain, hcov⟩ := hwaits.of_lane hq
    refine ⟨h1, h2, h3, h4, hlanes ▸ accessThreads_sub (acts_mem ha), ?_, fun a h1 h2 => ⟨l, acting_iff.mpr ⟨h32, ha⟩, hcov a h1 h2⟩⟩
    rw [hplain]
    exact beq_iff_eq
  · have hdone := hwaits.performed (fun l h32 ha => by
      obtain ⟨-, hc⟩ := hp.2.2 l (acting_iff.mpr ⟨h32, ha⟩)
      exact apart_of_write (hc s.mem (.inl rfl)) (tyBytes_le ty)) sel
    rw [hmem] at hdone
    obtain ⟨xs, h0, h32, hstep⟩ := hdone
    exact ⟨xs, h0, h32, fun l hl => ⟨fun ha => ⟨_, storeIs_storeVal ty _, (hstep l hl).1 (acting_iff.mp ha)⟩,
      fun ha => (hstep l hl).2 fun hb => ha (acting_iff.mpr hb)⟩⟩

end Sys2Proof.Claims
end

section
/-! Blocks of commands in memory (08 R210, 13 R287, 17 R368): how a group reads one, and how its command starts. -/

namespace Sys2Proof.Claims
open Sys2Proof.Machine

/-! Dies that accesses have touched (18 R385). -/

/-- A team has touched more dies. -/
def touchedBy (t : Nat) (m : BitVec 4) (s : State) : State := s.modTeam t fun tm => { tm with touched := tm.touched ||| m }

theorem touchedBy_touchedBy (t : Nat) (m m' : BitVec 4) (s : State) : touchedBy t m' (touchedBy t m s) = touchedBy t (m ||| m') s := by
  rw [touchedBy, touchedBy, State.modTeam_modTeam, touchedBy]
  congr 1
  funext tm
  simp only [BitVec.or_assoc]

theorem touchPieces_eq (t p : Nat) (ps : List Piece) (s : State) : ∃ m, touchPieces t p ps s = touchedBy t m s := ⟨_, rfl⟩

section
variable {s : State} {t g : Nat} (m : BitVec 4)

theorem touchedBy_zero (t : Nat) (s : State) : touchedBy t 0 s = s := by
  have hid : (fun tm : Team => { tm with touched := tm.touched ||| 0 }) = id := by
    funext tm
    exact congrArg (fun x => { tm with touched := x }) BitVec.or_zero
  rw [touchedBy, hid]
  simp [State.modTeam]

theorem team_touchedBy (ht : t < s.teams.length) : (touchedBy t m s).team t = { s.team t with touched := (s.team t).touched ||| m } :=
  State.team_modTeam_same _ ht

theorem grp_touchedBy (ht : t < s.teams.length) : (touchedBy t m s).grp t g = s.grp t g := by
  rw [State.grp, team_touchedBy m ht]
  rfl

theorem launchOf_touchedBy (ht : t < s.teams.length) : (touchedBy t m s).launchOf t = s.launchOf t := by
  rw [State.launchOf, team_touchedBy m ht]
  rfl

theorem framed_touchedBy : Framed s (touchedBy t m s) t g := framed_modTeam s t g _ rfl

theorem whoGroup_touchedBy (ht : t < s.teams.length) : whoGroup (touchedBy t m s) t g = whoGroup s t g := by
  rw [whoGroup, supervisor, launchOf_touchedBy m ht, grp_touchedBy m ht]
  rfl

theorem exists_touchedBy (he : Exists s t g) : Exists (touchedBy t m s) t g := (framed_touchedBy m).exists he

theorem newCmd_touchedBy (ht : t < s.teams.length) {c : Ctx} (hct : c.t = t) (sc : Scope) (kind : CmdKind) (bar : Option Nat)
    (port : Option (Nat × BitVec 16)) : newCmd c sc kind bar port (touchedBy t m s) = newCmd c sc kind bar port s := by
  subst hct
  rw [newCmd, launchOf_touchedBy m ht, grp_touchedBy m ht, team_touchedBy m ht]
  rfl

end

/-! A block. -/

/-- Where no store waits, a load has nothing performed before it. -/
theorem beforeLoad_nil {s : State} (h : s.buffer = []) (t g : Nat) (ls : Lanes) (o : Order) (ps : List Piece) :
    beforeLoad t g ls o ps s = s := by
  unfold beforeLoad
  rw [flushOverlap_nil h]
  dsimp only
  split
  · exact release_nil h
  · rfl

/-- 32 bytes at an address that the group may read hold a value. -/
def Reads32 (s : State) (t g va y : Nat) : Prop :=
  ∃ ps, OrdinaryPieces s t .read ps ∧ checkAccess s (whoGroup s t g) .read false va 32 = .ok ps ∧ valueIn s.mem ps = y

section
variable {s : State} {t g : Nat} {h : Hdr} {a : BitVec 6}

theorem BlockIs.reads {va n x : Nat} (hb : BlockIs s t g h a va n x) (hE : eligible s t g h ≠ 0) :
    ∀ j < n, Reads32 s t g ((va + 32 * j) % 2 ^ 64) (x / 2 ^ (256 * j) % 2 ^ 256) := by
  intro j hj
  obtain ⟨ps, hp, hv⟩ := hb.2 j hj
  obtain ⟨hl32, hlE⟩ := lowest_mem hE
  obtain ⟨ho, hc⟩ := hp.2.2 (lowest (eligible s t g h)) ⟨⟨hl32, hlE⟩, fun _ => rfl⟩
  exact ⟨_, ho, hc s.mem (.inl rfl), hv⟩

theorem BlockIs.quiet {va n x : Nat} (hb : BlockIs s t g h a va n x) (hn : 0 < n) : s.ecc = [] ∧ s.buffer = [] := by
  obtain ⟨ps, hp, -⟩ := hb.2 0 hn
  exact ⟨hp.1, hp.2.1⟩

variable (he : Exists s t g)
include he

theorem checkAccess_touchedBy (m : BitVec 4) (va : Nat) :
    checkAccess (touchedBy t m s) (whoGroup (touchedBy t m s) t g) .read false va 32 = checkAccess s (whoGroup s t g) .read false va 32 := by
  rw [whoGroup_touchedBy m he.1]
  exact Framed.checkAccess (framed_touchedBy (g := g) m) _ _ _ _ _

/-- Some 32-byte pieces of a block, read one after the other. -/
theorem blockPieces_ok {c : Ctx} (hct : c.t = t) (hcg : c.g = g) (hecc : s.ecc = []) (hbuf : s.buffer = []) :
    ∀ (n va x : Nat) (m : BitVec 4), va < 2 ^ 64 → x < 2 ^ (256 * n) →
      (∀ j < n, Reads32 s t g ((va + 32 * j) % 2 ^ 64) (x / 2 ^ (256 * j) % 2 ^ 256)) →
      ∃ m', blockPieces c va n (touchedBy t m s) = (touchedBy t m' s, .ok x) := by
  subst hct hcg
  intro n
  induction n with
  | zero =>
    intro va x m _ hx _
    exact ⟨m, by rw [blockPieces, show x = 0 by omega]⟩
  | succ n ih =>
    intro va x m hva hx hr
    obtain ⟨ps, ho, hc, hv⟩ := hr 0 (Nat.succ_pos n)
    rw [Nat.mul_zero, Nat.add_zero, Nat.mod_eq_of_lt hva] at hc
    rw [Nat.mul_zero, Nat.pow_zero, Nat.div_one] at hv
    have hcb := (checkAccess_touchedBy (g := c.g) he m va).trans hc
    have hob : OrdinaryPieces (touchedBy c.t m s) c.t .read ps := (framed_touchedBy (g := c.g) m).ordinary he ho
    obtain ⟨m₁, hm₁⟩ := touchPieces_eq c.t ((touchedBy c.t m s).launchOf c.t).part ps (touchedBy c.t m s)
    rw [touchedBy_touchedBy] at hm₁
    have hbuf₁ : (touchedBy c.t (m ||| m₁) s).buffer = [] := hbuf
    have hlane := laneAccess_ok (g := c.g) (mates := [])
      (f := fun ps s => beforeLoad c.t c.g c.E .ordinary ps (observe (.lanes c.t c.g c.E) (spansOf ps) s))
      (by exact hecc : (touchedBy c.t m s).ecc = []) hcb hob
    rw [hm₁, observe_nil hbuf₁, beforeLoad_nil hbuf₁] at hlane
    have hrest : ∀ j < n, Reads32 s c.t c.g (((va + 32) % 2 ^ 64 + 32 * j) % 2 ^ 64) (x / 2 ^ 256 / 2 ^ (256 * j) % 2 ^ 256) := by
      intro j hj
      have := hr (j + 1) (Nat.succ_lt_succ hj)
      rw [show (va + 32 * (j + 1)) % 2 ^ 64 = ((va + 32) % 2 ^ 64 + 32 * j) % 2 ^ 64 by omega,
        show 256 * (j + 1) = 256 + 256 * j by omega, Nat.pow_add, ← Nat.div_div_eq_div_mul] at this
      exact this
    have hx' : x / 2 ^ 256 < 2 ^ (256 * n) := by
      refine Nat.div_lt_of_lt_mul ?_
      rwa [← Nat.pow_add, show 256 + 256 * n = 256 * (n + 1) by omega]
    obtain ⟨m', hm'⟩ := ih ((va + 32) % 2 ^ 64) (x / 2 ^ 256) (m ||| m₁) (Nat.mod_lt _ (by decide)) hx' hrest
    refine ⟨m', ?_⟩
    rw [blockPieces, hlane]
    dsimp only
    rw [(checkAccess_touchedBy (g := c.g) he (m ||| m₁) va).trans hc]
    dsimp only
    rw [hm', ho.readPieces]
    dsimp only
    rw [show valueIn (touchedBy c.t (m ||| m₁) s).mem ps = x % 2 ^ 256 from hv, Nat.mod_add_div]

/-- A block that the group may read is read. -/
theorem blockAct_ok {c : Ctx} (hct : c.t = t) (hcg : c.g = g) (hE : eligible s t g h ≠ 0) {va n x : Nat} (hva : va < 2 ^ 64)
    (hn : 0 < n) (hb : BlockIs s t g h a va n x) (f : Nat → State → Act) (m : BitVec 4) :
    ∃ m', blockAct c va n f (touchedBy t m s) = f x (touchedBy t m' s) := by
  obtain ⟨hecc, hbuf⟩ := hb.quiet hn
  have hr := hb.reads hE
  have hgate : gateLanes c .read false 32 ((List.range n).map fun i => (va + 32 * i) % 2 ^ 64) (touchedBy t m s) = none := by
    refine gateLanes_ok hct hcg fun w hw => ?_
    obtain ⟨j, hj, rfl⟩ := List.mem_map.mp hw
    obtain ⟨ps, ho, hc, -⟩ := hr j (List.mem_range.mp hj)
    exact ⟨ps, (checkAccess_touchedBy he m _).trans hc, (framed_touchedBy (g := g) m).ordinary he ho⟩
  obtain ⟨m', hm'⟩ := blockPieces_ok he hct hcg hecc hbuf n va x m hva hb.1 hr
  exact ⟨m', by rw [blockAct, hgate, hm']⟩

/-- The same of an act that reads a block first, nothing touched before. -/
theorem act_of_block {c : Ctx} (hct : c.t = t) (hcg : c.g = g) (hE : eligible s t g h ≠ 0) {va n x : Nat} (hva : va < 2 ^ 64)
    (hn : 0 < n) (hb : BlockIs s t g h a va n x) {f : Nat → State → Act} {act : Act} (hact : act = blockAct c va n f s) :
    ∃ m, act = f x (touchedBy t m s) := by
  obtain ⟨m, hm⟩ := blockAct_ok he hct hcg hE hva hn hb f 0
  rw [touchedBy_zero] at hm
  exact ⟨m, hact.trans hm⟩

end

/-! The start of a command (13 R268). -/

/-- A command of group g stands last in the list, and token k names it. -/
def startedBy (t g k : Nat) (cmd : Cmd) (s : State) : State :=
  { s with cmds := s.cmds ++ [cmd] }.modGrp t g fun gr => gr.setToken k (.names s.cmds.length)

theorem maskTokens_single {k : Nat} (hk : k < 16) : maskTokens (BitVec.ofNat 16 (2 ^ k)) = [k] := by
  revert k
  decide

section
variable {s : State} {t g k : Nat} {c : Ctx} {cmd : Cmd}

theorem startCommand_ok (hct : c.t = t) (hcg : c.g = g) (hk : k < 16) (htok : (s.grp t g).token k = .empty) (hbuf : s.buffer = []) :
    startCommand c k false cmd s = .adv (startedBy t g k cmd s) := by
  subst hct hcg
  have hdone : outstanding s (s.grp c.t c.g) (BitVec.ofNat 16 (2 ^ k)) = false := by
    rw [outstanding, maskTokens_single hk]
    simp [htok, tokenDone]
  have herr : tokenErrors s (s.grp c.t c.g) (BitVec.ofNat 16 (2 ^ k)) = [] := by
    rw [tokenErrors, maskTokens_single hk]
    simp [htok]
  unfold startCommand
  dsimp only
  rw [hdone, herr, releaseGroup_nil hbuf]
  rfl

theorem issueChecked_ok (hct : c.t = t) (hbar : ∀ b, cmd.bar = some b → b < (s.launchOf t).bars) :
    issueChecked c k false none cmd s = startCommand c k false cmd s := by
  subst hct
  unfold issueChecked
  dsimp only
  split
  · next b hb => rw [if_neg (Nat.not_le.mpr (hbar b hb))]
  · rfl

end

section
variable {s : State} {t g k : Nat} {m : BitVec 4} {cmd : Cmd} (he : Exists s t g)
include he

theorem exists_startedBy : Exists (startedBy t g k cmd (touchedBy t m s)) t g :=
  Exists.modGrp (s := { touchedBy t m s with cmds := s.cmds ++ [cmd] }) (by exact exists_touchedBy m he) _

theorem grp_startedBy : (startedBy t g k cmd (touchedBy t m s)).grp t g = (s.grp t g).setToken k (.names s.cmds.length) := by
  have hex := exists_touchedBy m he
  unfold startedBy
  rw [State.grp_modGrp_same _ (by exact hex.1) (by exact hex.2)]
  exact congrArg (fun gr : Group => gr.setToken k (.names s.cmds.length)) (grp_touchedBy m he.1)

end

theorem token_setToken_same (gr : Group) (k n : Nat) : (gr.setToken k (.names n)).token k = .names n := by
  simp [Group.setToken, Group.token, kGet_kSet_same]

theorem token_setToken_ne (gr : Group) {k j : Nat} (n : Nat) (h : j ≠ k) : (gr.setToken k (.names n)).token j = gr.token j := by
  simp [Group.setToken, Group.token, kGet_kSet_ne _ _ h.symm]

theorem token_issueGroup (c : Ctx) (h : Hdr) (o : Nat) (gr : Group) (j : Nat) : (issueGroup c h o gr).token j = gr.token j := by
  have htok := congrArg Group.tok (restOf_issueGroup c h o gr)
  simp only [restOf] at htok
  rw [Group.token, htok, Group.token]

theorem released_nil {t g : Nat} {ls : Lanes} {sc : Scope} {s s' : State} (h : s.buffer = []) (h' : s'.buffer = []) :
    Released t g ls sc s s' := by
  refine ⟨by rw [h, h'], by simp [h'], fun o rs r hr => ?_, fun o rs q hq => by simp [h] at hq⟩
  rw [observe_nil h', h'] at hr
  exact absurd hr List.not_mem_nil

/-- An issue whose act starts a command. -/
theorem starts_of_act {i : Instr} {s : State} {t g k j : Nat} {h : Hdr} {us : List Use} {act : Ctx → State → Act} {m : BitVec 4}
    {sc : Scope} {kind : CmdKind} {bar : Option Nat} {port : Option (Nat × BitVec 16)}
    (hx : exec i s = simt h i.size us noPriv act s) (hI : Issuing s t g) (hr : rangeOk (s.launchOf t) h us = true)
    (hE : eligible s t g h ≠ 0) (hbuf : s.buffer = [])
    (ha : act (ctxOf s t g h i.size) s = .adv (startedBy t g k
      { newCmd (ctxOf s t g h i.size) sc kind bar port s with inst := j, prompt := inOrder kind } (touchedBy t m s))) :
    Starts i s t g k sc kind bar port := by
  have he := hI.exists
  revert ha
  generalize hcmd : { newCmd (ctxOf s t g h i.size) sc kind bar port s with inst := j, prompt := inOrder kind } = cmd
  intro ha
  have heB := exists_startedBy (k := k) (m := m) (cmd := cmd) he
  have hGB := grp_startedBy (k := k) (m := m) (cmd := cmd) he
  have hG := grp_advanced s h i.size heB
  rw [hGB] at hG
  have hteam : ∀ u, u ≠ t → (advanced s (startedBy t g k cmd (touchedBy t m s)) t g h i.size).team u = s.team u := fun u hu => by
    rw [advanced, State.team_modGrp_ne _ _ _ (Ne.symm hu), startedBy, State.team_modGrp_ne _ _ _ (Ne.symm hu)]
    exact State.team_modTeam_ne s _ (Ne.symm hu)
  refine ⟨_, cmd, simt_advances hx hI hr (by rw [if_neg hE, ha]) heB (by rw [hGB]; exact hI.2.2), rfl, ?_⟩
  subst hcmd
  refine ⟨rfl, rfl, rfl, rfl, rfl, rfl, rfl, rfl, rfl, rfl, rfl, rfl, rfl, rfl, rfl, rfl, rfl, rfl, rfl, rfl, rfl, rfl,
    released_nil hbuf hbuf, ?_, fun j hj => ?_, ⟨?_, ?_, ?_, ?_, ?_, fun n hn => ?_⟩, ?_, rfl, fun n hn => ?_, hteam⟩
  · rw [hG, token_issueGroup, token_setToken_same]
  · rw [hG, token_issueGroup, token_setToken_ne _ _ hj]
  · rw [hG, issueGroup_v]; rfl
  · rw [hG, issueGroup_s]; rfl
  · rw [hG, issueGroup_p]; rfl
  · rw [hG, issueGroup_draw]; rfl
  · rw [hG, issueGroup_rng]; rfl
  · rw [hG, issueGroup_gstat _ _ _ _ _ hn]; rfl
  · exact advances_of_issue rfl rfl hG rfl rfl
  · rw [advanced, State.grp_modGrp_ne _ _ (fun hx => hn hx.2.symm), startedBy, State.grp_modGrp_ne _ _ (fun hx => hn hx.2.symm)]
    exact grp_touchedBy m he.1

/-! Traps of the issue. -/

theorem effectTrap_of_act {i : Instr} {s : State} {t g : Nat} {h : Hdr} {us : List Use} {act : Ctx → State → Act} {code : Byte} {i0 i1 i2 i3 : Word}
    (hx : exec i s = simt h i.size us noPriv act s) (hI : Issuing s t g) (hr : rangeOk (s.launchOf t) h us = true)
    (hE : eligible s t g h ≠ 0)
    (ha : act (ctxOf s t g h i.size) s = (ctxOf s t g h i.size).trap s code (eligible s t g h) i0 i1 i2 i3) :
    EffectTrap i s t g h code i0 i1 i2 i3 := by
  obtain ⟨s₁, s', hx', hplaced, htraps⟩ := simt_traps (stay := 0) hx hI hr hE ha BitVec.or_zero
  have honly : s₁ = s.modGrp t g fun _ => s₁.grp t g := hplaced.1
  have hbuf : s₁.buffer = s.buffer := by
    rw [honly]
    rfl
  refine ⟨s₁, s', hx', by rw [BufferKept, hbuf], ?_, htraps⟩
  rw [hbuf]
  exact hplaced

/-- An issue whose act traps into the group's handler. -/
theorem enters_of_act {i : Instr} {s s₁ : State} {t g : Nat} {h : Hdr} {us : List Use} {act : Ctx → State → Act} {tr : Trap} {stay : Lanes}
    (hx : exec i s = simt h i.size us noPriv act s) (hI : Issuing s t g) (hr : rangeOk (s.launchOf t) h us = true)
    (hE : eligible s t g h ≠ 0) (ha : act (ctxOf s t g h i.size) s = .trap s₁ tr stay)
    (he : Exists s₁ t g) (hsoft : (s₁.grp t g).soft = []) (hin : (s₁.grp t g).handler = false) (hroute : routeS tr.code = false)
    (hbase : (s₁.team t).trapBase ≠ 0) :
    ∃ s', exec i s = .next s' ∧ s'.mem = s₁.mem ∧ s'.cmds = s₁.cmds ∧ (s'.grp t g).handler = true ∧ CauseIs (s'.grp t g).cause tr ∧
      (s'.grp t g).tpc = tr.pc ∧ (s'.grp t g).info0 = tr.i0 := by
  obtain ⟨hc, hi, hs⟩ := hI
  have hp := simt_acts (size := i.size) (priv := noPriv) (act := act) hc hi hs hr rfl
  rw [if_neg (show (ctxOf s t g h i.size).E ≠ 0 from hE), ha] at hp
  have hdrop : ∀ E, dropSoft { ctxOf s t g h i.size with E := E } us s₁ = s₁ := fun E => dropSoft_nil hsoft
  simp only [perform, hdrop] at hp
  revert hp
  generalize hs₂ : setPcs (ctxOf s t g h i.size) ((ctxOf s t g h i.size).I &&& ~~~(tr.lanes ||| stay)) (fun _ => (ctxOf s t g h i.size).next) s₁ = s₂
  intro hp
  have he₂ : Exists s₂ t g := hs₂ ▸ he.modGrp _
  have hteam : ∀ (x : State) (F : Group → Group), Exists x t g → ((x.modGrp t g F).team t).trapBase = (x.team t).trapBase := fun x F hx => by
    rw [State.team_modGrp _ _ hx.1]
    rfl
  have hin₂ : ((issued s₂ t g (ctxOf s t g h i.size).I).grp t g).handler = false := by
    rw [issued, State.grp_modGrp_same _ he₂.1 he₂.2, ← hs₂]
    exact (congrArg Group.handler (State.grp_modGrp_same _ he.1 he.2)).trans hin
  have hbase₂ : ((issued s₂ t g (ctxOf s t g h i.size).I).team t).trapBase ≠ 0 := by
    rw [issued, hteam _ _ he₂, ← hs₂]
    exact (hteam s₁ _ he).trans_ne hbase
  obtain ⟨s₃, htakes, hend⟩ := traps_trapIssue he₂ (ctxOf s t g h i.size).I tr
  rw [TakesTrap, if_pos ⟨hin₂, hroute, hbase₂⟩] at htakes
  obtain ⟨honly, hcause, ⟨hpc, -, hinfo, -⟩, hhandler, -⟩ := htakes
  have he₃ : Exists s₃ t g := by
    rw [honly]
    exact (he₂.modGrp _).modGrp _
  have hgrp : (s₃.modGrp t g settled).grp t g = settled (s₃.grp t g) := State.grp_modGrp_same _ he₃.1 he₃.2
  refine ⟨_, (hx.trans hp).trans (congrArg _ hend), ?_, ?_, ?_, ?_, ?_, ?_⟩
  · exact (congrArg State.mem honly).trans (by rw [← hs₂]; rfl)
  · exact (congrArg State.cmds honly).trans (by rw [← hs₂]; rfl)
  · rw [hgrp, settled, updateSerial_eq]; exact hhandler
  · rw [hgrp, settled, updateSerial_eq]; exact hcause
  · rw [hgrp, settled, updateSerial_eq]; exact hpc
  · rw [hgrp, settled, updateSerial_eq]; exact hinfo

end Sys2Proof.Claims
end

section
/-! NMC, COLL and FORK (08 R210, 13 R287, 17 R368): the checks of their blocks. -/

namespace Sys2Proof.Claims
open Sys2Proof.Machine

/-! Fields of a block. -/

theorem fld_eq (x lo n : Nat) : fld x lo n = x / 2 ^ lo % 2 ^ n := by rw [fld, Nat.shiftRight_eq_div_pow]

theorem ofNat_fld (x lo n : Nat) : BitVec.ofNat n (fld x lo n) = BitVec.ofNat n (x / 2 ^ lo) := by
  refine BitVec.eq_of_toNat_eq ?_
  rw [BitVec.toNat_ofNat, BitVec.toNat_ofNat, fld_eq, Nat.mod_mod]

theorem fld_eq_zero {x lo n : Nat} (h : x / 2 ^ lo = 0) : fld x lo n = 0 := by rw [fld_eq, h, Nat.zero_mod]

section
variable {s : State} {t g : Nat} {h : Hdr} {k : BitVec 4} {a b : BitVec 6} {i : Instr} {x y : Nat}

theorem block_address (s : State) (t g : Nat) (a : BitVec 6) : regGet (s.grp t g) (.s a) 0 2 < 2 ^ 64 := regGet_lt _ _ _ _

/-! NMC. -/

theorem exec_nmcForms (sc : Scope) {op : Nat} (hop : op ≤ 3) : exec (nmcForms h sc k a op) s =
    simt h (nmcForms h sc k a op).size [.rd (.s a) 2, .tk k.toNat, .wt k.toNat] noPriv (nmcAct op sc k a) s := by
  obtain rfl | rfl | rfl | rfl : op = 0 ∨ op = 1 ∨ op = 2 ∨ op = 3 := by omega
  all_goals rfl

theorem nmc_rangeOk {sc : Scope} {op : Nat} (hR : ReadyFor (nmcForms h sc k a op) s t g) :
    rangeOk (s.launchOf t) h [.rd (.s a) 2, .tk k.toNat, .wt k.toNat] = true := by
  have hn : namesOf (nmcForms h sc k a op) = some ⟨h, [(.s a, 2)], []⟩ := by
    unfold nmcForms
    split <;> rfl
  exact rangeOk_of_named (hR.2 _ hn).1 (by simp [Named])

/-- The barrier of a block of NMC. -/
def nmcBar (x : Nat) : Option Nat := if x.testBit 232 then some (x / 2 ^ 224 % 256) else none

theorem nmcAct_starts {c : Ctx} (hct : c.t = t) (hcg : c.g = g) (he : Exists s t g) (hE : eligible s t g h ≠ 0) {sc : Scope} {op : Nat}
    (hal : regGet (s.grp t g) (.s a) 0 2 % 64 = 0) (htok : (s.grp t g).token k.toNat = .empty)
    (hbar : ∀ b, nmcBar x = some b → b < (s.launchOf t).bars)
    (hb : BlockIs s t g h a (regGet (s.grp t g) (.s a) 0 2) 2 x) (h206 : x / 2 ^ 206 % 2 ^ 18 = 0) (h233 : x / 2 ^ 233 % 2 ^ 23 = 0)
    (h416 : x / 2 ^ 416 % 2 ^ 96 = 0)
    (hwin : x.testBit 127 = true → x / 2 ^ 64 % 2 ^ 32 + nmcItems op x * nmcSize op x ≤ (s.launchOf t).scratchBytes)
    (hform : nmcForm op x = true) : ∃ m, nmcAct op sc k a c s =
      .adv (startedBy t g k.toNat (newCmd c sc (.nmc op (BitVec.ofNat 512 x)) (nmcBar x) none s) (touchedBy t m s)) := by
  obtain ⟨-, hbuf⟩ := hb.quiet (by decide)
  subst hct hcg
  obtain ⟨m, hm⟩ := act_of_block (c := c) he rfl rfl hE (block_address s c.t c.g a) (by decide) hb
    (show nmcAct op sc k a c s = blockAct _ _ _ _ s from if_neg (not_not.mpr hal))
  refine ⟨m, hm.trans ?_⟩
  have hfields : (fld x 206 18 != 0 || fld x 233 23 != 0 || fld x 416 96 != 0) = false := by
    simp only [fld_eq, h206, h233, h416, bne_self_eq_false, Bool.or_self]
  have hfits : (bitOf x 127 && decide ((s.launchOf c.t).scratchBytes < fld x 64 32 + nmcItems op x * nmcSize op x)) = false := by
    rw [fld_eq, bitOf]
    cases hx : x.testBit 127 with
    | false => rfl
    | true => simpa using hwin hx
  dsimp only
  rw [launchOf_touchedBy m he.1, hfields, hfits, hform, newCmd_touchedBy m he.1 rfl]
  have hbar' : (if bitOf x 232 = true then some (fld x 224 8) else none) = nmcBar x := by rw [fld_eq]; rfl
  rw [hbar']
  refine (issueChecked_ok (t := c.t) rfl fun b hb => ?_).trans (startCommand_ok rfl rfl k.isLt ?_ (by exact hbuf))
  · rw [launchOf_touchedBy m he.1]
    exact hbar b hb
  · rw [grp_touchedBy m he.1]
    exact htok

theorem nmc_starts {sc : Scope} {op : Nat} (hop : op ≤ 3) (hal : regGet (s.grp t g) (.s a) 0 2 % 64 = 0)
    (hstart : MayStart (nmcForms h sc k a op) s t g h k.toNat (nmcBar x))
    (hb : BlockIs s t g h a (regGet (s.grp t g) (.s a) 0 2) 2 x) (h206 : x / 2 ^ 206 % 2 ^ 18 = 0) (h233 : x / 2 ^ 233 % 2 ^ 23 = 0)
    (h416 : x / 2 ^ 416 % 2 ^ 96 = 0)
    (hwin : x.testBit 127 = true → x / 2 ^ 64 % 2 ^ 32 + nmcItems op x * nmcSize op x ≤ (s.launchOf t).scratchBytes)
    (hform : nmcForm op x = true) : Starts (nmcForms h sc k a op) s t g k.toNat sc (.nmc op (BitVec.ofNat 512 x)) (nmcBar x) none := by
  obtain ⟨⟨-, hR, hE⟩, htok, -, hbar⟩ := hstart
  obtain ⟨-, hbuf⟩ := hb.quiet (by decide)
  obtain ⟨m, hm⟩ := nmcAct_starts (c := ctxOf s t g h (nmcForms h sc k a op).size) (sc := sc) rfl rfl hR.1.exists hE hal htok hbar hb
    h206 h233 h416 hwin hform
  exact starts_of_act (j := 0) (exec_nmcForms sc hop) hR.1 (nmc_rangeOk hR) hE hbuf hm

theorem nmc_misaligned {sc : Scope} {op : Nat} (hop : op ≤ 3) (hal : regGet (s.grp t g) (.s a) 0 2 % 64 ≠ 0)
    (hacts : Acts (nmcForms h sc k a op) s t g h) : EffectTrap (nmcForms h sc k a op) s t g h 0x01 0 0 0 0 := by
  obtain ⟨-, hR, hE⟩ := hacts
  exact effectTrap_of_act (exec_nmcForms sc hop) hR.1 (nmc_rangeOk hR) hE (if_pos hal)

/-! COLL. -/

/-- The two forms of COLL. -/
def collForm (resume : Bool) (h : Hdr) (k : BitVec 4) (a : BitVec 6) : Instr := if resume then .collResume h k a else .collStart h k a

theorem exec_collForm (resume : Bool) (h : Hdr) (k : BitVec 4) (a : BitVec 6) (s : State) : exec (collForm resume h k a) s =
    simt h (collForm resume h k a).size [.rd (.s a) 2, .tk k.toNat, .wt k.toNat] noPriv (collAct resume k a) s := by
  cases resume <;> rfl

theorem coll_rangeOk {resume : Bool} (hR : ReadyFor (collForm resume h k a) s t g) :
    rangeOk (s.launchOf t) h [.rd (.s a) 2, .tk k.toNat, .wt k.toNat] = true := by
  have hn : namesOf (collForm resume h k a) = some ⟨h, [(.s a, 2)], []⟩ := by cases resume <;> rfl
  exact rangeOk_of_named (hR.2 _ hn).1 (by simp [Named])

/-- The barrier and the port of a block of COLL. -/
def collBar (x : Nat) : Option Nat := if x.testBit 456 then some (x / 2 ^ 448 % 256) else none
def collPort (x : Nat) : Option (Nat × BitVec 16) := if x.testBit 457 then some (0, BitVec.ofNat 16 (x / 2 ^ 458)) else none

theorem rootBad_eq_false {n : Nat} (hroot : x % 16 = 3 ∨ (x % 16 = 5 ∧ x / 2 ^ 288 % 2 ^ 32 ≠ 0xFFFFFFFF) → x / 2 ^ 288 % 2 ^ 32 < n) :
    rootBad x n = false := by
  have hop : blkOp x = x % 16 := (fld_eq x 0 4).trans (by norm_num)
  have hrt : blkRoot x = x / 2 ^ 288 % 2 ^ 32 := fld_eq _ _ _
  unfold rootBad
  rw [hop, hrt]
  by_cases hc : x % 16 = 3 ∨ (x % 16 = 5 ∧ x / 2 ^ 288 % 2 ^ 32 ≠ 0xFFFFFFFF)
  · rw [decide_eq_false (Nat.not_le.mpr (hroot hc)), Bool.and_false]
  · rw [Bool.and_eq_false_iff]
    left
    simpa using hc

theorem collAct_starts {c : Ctx} (hct : c.t = t) (hcg : c.g = g) (he : Exists s t g) (hE : eligible s t g h ≠ 0) {resume : Bool}
    {cg : CollGroup} {r : Nat} (hal : regGet (s.grp t g) (.s a) 0 2 % 128 = 0) (htok : (s.grp t g).token k.toNat = .empty)
    (hbar : ∀ b, collBar x = some b → b < (s.launchOf t).bars)
    (hb : BlockIs s t g h a (regGet (s.grp t g) (.s a) 0 2) 4 x) (hbad : blkBad x = false)
    (hgroup : collOf s (s.launchOf t).part (BitVec.ofNat 16 (x / 2 ^ 16)) = some cg) (hrank : rankOf cg (s.launchOf t).lid = some r)
    (hroot : rootBad x cg.members.length = false) : ∃ m j, collAct resume k a c s = .adv (startedBy t g k.toNat
      { newCmd c cg.scope (.coll resume (BitVec.ofNat 1024 x) (BitVec.ofNat 16 (x / 2 ^ 16)).toNat r) (collBar x) (collPort x) s with
        inst := j, prompt := true } (touchedBy t m s)) := by
  obtain ⟨-, hbuf⟩ := hb.quiet (by decide)
  subst hct hcg
  obtain ⟨m, hm⟩ := act_of_block (c := c) he rfl rfl hE (block_address s c.t c.g a) (by decide) hb
    (show collAct resume k a c s = blockAct _ _ _ _ s from if_neg (not_not.mpr hal))
  refine ⟨m, nextInst (touchedBy c.t m s) (s.launchOf c.t).part (BitVec.ofNat 16 (x / 2 ^ 16)).toNat r, hm.trans ?_⟩
  have hgroup' : collOf (touchedBy c.t m s) (s.launchOf c.t).part (BitVec.ofNat 16 (x / 2 ^ 16)) = some cg := hgroup
  have hbar' : (if bitOf x 456 = true then some (fld x 448 8) else none) = collBar x := by rw [fld_eq]; rfl
  have hport' : (if bitOf x 457 = true then some (0, BitVec.ofNat 16 (blkTag x)) else none) = collPort x := by rw [blkTag, ofNat_fld]; rfl
  dsimp only
  rw [launchOf_touchedBy m he.1, ofNat_fld, hbad, hgroup']
  dsimp only
  rw [hrank]
  dsimp only
  rw [hroot, hbar', hport', newCmd_touchedBy m he.1 rfl]
  refine (issueChecked_ok (t := c.t) rfl fun b hb => ?_).trans (startCommand_ok rfl rfl k.isLt ?_ (by exact hbuf))
  · rw [launchOf_touchedBy m he.1]
    exact hbar b hb
  · rw [grp_touchedBy m he.1]
    exact htok

theorem coll_starts {resume : Bool} {cg : CollGroup} {r : Nat} (hal : regGet (s.grp t g) (.s a) 0 2 % 128 = 0)
    (hstart : MayStart (collForm resume h k a) s t g h k.toNat (collBar x))
    (hb : BlockIs s t g h a (regGet (s.grp t g) (.s a) 0 2) 4 x) (hbad : blkBad x = false)
    (hgroup : collOf s (s.launchOf t).part (BitVec.ofNat 16 (x / 2 ^ 16)) = some cg) (hrank : rankOf cg (s.launchOf t).lid = some r)
    (hroot : rootBad x cg.members.length = false) : Starts (collForm resume h k a) s t g k.toNat cg.scope
      (.coll resume (BitVec.ofNat 1024 x) (BitVec.ofNat 16 (x / 2 ^ 16)).toNat r) (collBar x) (collPort x) := by
  obtain ⟨⟨-, hR, hE⟩, htok, -, hbar⟩ := hstart
  obtain ⟨-, hbuf⟩ := hb.quiet (by decide)
  obtain ⟨m, j, hm⟩ := collAct_starts (c := ctxOf s t g h (collForm resume h k a).size) (resume := resume) rfl rfl hR.1.exists hE hal htok
    hbar hb hbad hgroup hrank hroot
  exact starts_of_act (exec_collForm resume h k a s) hR.1 (coll_rangeOk hR) hE hbuf hm

theorem collAct_unknown {c : Ctx} (hct : c.t = t) (hcg : c.g = g) (he : Exists s t g) (hE : eligible s t g h ≠ 0) {resume : Bool}
    (hal : regGet (s.grp t g) (.s a) 0 2 % 128 = 0) (hb : BlockIs s t g h a (regGet (s.grp t g) (.s a) 0 2) 4 x) (hbad : blkBad x = false)
    (hgroup : collOf s (s.launchOf t).part (BitVec.ofNat 16 (x / 2 ^ 16)) = none) : ∃ m, collAct resume k a c s =
      c.trap (touchedBy t m s) 0x01 c.E ((BitVec.ofNat 16 (x / 2 ^ 16)).setWidth 32) := by
  subst hct hcg
  obtain ⟨m, hm⟩ := act_of_block (c := c) he rfl rfl hE (block_address s c.t c.g a) (by decide) hb
    (show collAct resume k a c s = blockAct _ _ _ _ s from if_neg (not_not.mpr hal))
  have hgroup' : collOf (touchedBy c.t m s) (s.launchOf c.t).part (BitVec.ofNat 16 (x / 2 ^ 16)) = none := hgroup
  refine ⟨m, hm.trans ?_⟩
  dsimp only
  rw [launchOf_touchedBy m he.1, ofNat_fld, hbad, hgroup', if_neg Bool.false_ne_true]

theorem coll_unknown {resume : Bool} (hal : regGet (s.grp t g) (.s a) 0 2 % 128 = 0) (hacts : Acts (collForm resume h k a) s t g h)
    (hb : BlockIs s t g h a (regGet (s.grp t g) (.s a) 0 2) 4 x) (hbad : blkBad x = false)
    (hgroup : collOf s (s.launchOf t).part (BitVec.ofNat 16 (x / 2 ^ 16)) = none) (hin : (s.grp t g).handler = false)
    (hbase : (s.team t).trapBase ≠ 0) :
    ∃ s', exec (collForm resume h k a) s = .next s' ∧ s'.mem = s.mem ∧ s'.cmds = s.cmds ∧ (s'.grp t g).handler = true ∧
      (s'.grp t g).cause = 0x01 ∧ (s'.grp t g).tpc = (s.grp t g).issuePc ∧
      (s'.grp t g).info0 = (BitVec.ofNat 16 (x / 2 ^ 16)).setWidth 32 := by
  obtain ⟨-, hR, hE⟩ := hacts
  have he := hR.1.exists
  obtain ⟨m, hm⟩ := collAct_unknown (t := t) (g := g) (c := ctxOf s t g h (collForm resume h k a).size) (resume := resume) rfl rfl he hE hal hb hbad hgroup
  obtain ⟨s', hx, hmem, hcmds, hhandler, hcause, hpc, hinfo⟩ := enters_of_act (exec_collForm resume h k a s) hR.1 (coll_rangeOk hR) hE hm
    (exists_touchedBy m he) (by rw [grp_touchedBy m he.1]; exact hR.1.2.2) (by rw [grp_touchedBy m he.1]; exact hin) rfl
    (by rw [team_touchedBy m he.1]; exact hbase)
  exact ⟨s', hx, hmem, hcmds, hhandler, BitVec.eq_of_toNat_eq hcause, hpc, hinfo⟩

theorem coll_misaligned {resume : Bool} (hal : regGet (s.grp t g) (.s a) 0 2 % 128 ≠ 0) (hacts : Acts (collForm resume h k a) s t g h) :
    EffectTrap (collForm resume h k a) s t g h 0x04 (BitVec.ofNat 32 (regGet (s.grp t g) (.s a) 0 2))
      (BitVec.ofNat 32 (regGet (s.grp t g) (.s a) 0 2 / 2 ^ 32)) 0 0 := by
  obtain ⟨-, hR, hE⟩ := hacts
  exact effectTrap_of_act (exec_collForm resume h k a s) hR.1 (coll_rangeOk hR) hE (if_pos hal)

/-! FORK. -/

theorem fork_rangeOk (hR : ReadyFor (.fork h k a b) s t g) :
    rangeOk (s.launchOf t) h [.rd (.s a) 2, .rd (.s b) 2, .tk k.toNat, .wt k.toNat] = true :=
  rangeOk_of_named (hR.2 _ rfl).1 (by simp [Named])

theorem forkAct_starts {c : Ctx} (hct : c.t = t) (hcg : c.g = g) (he : Exists s t g) (hE : eligible s t g h ≠ 0)
    (hal : regGet (s.grp t g) (.s a) 0 2 % 64 = 0) (hal' : regGet (s.grp t g) (.s b) 0 2 % 64 = 0)
    (htok : (s.grp t g).token k.toNat = .empty) (hb : BlockIs s t g h a (regGet (s.grp t g) (.s a) 0 2) 2 x)
    (hb' : BlockIs s t g h b (regGet (s.grp t g) (.s b) 0 2) 2 y) (hx : x / 2 ^ 160 = 0) (hy : y / 2 ^ 160 = 0)
    (hcount : x % 2 ^ 32 ≤ y / 2 ^ 32 % 2 ^ 32) : ∃ m, forkAct k a b c s = .adv (startedBy t g k.toNat
      { newCmd c .dev (.fork (BitVec.ofNat 64 (regGet (s.grp t g) (.s a) 0 2)) (BitVec.ofNat 64 (regGet (s.grp t g) (.s b) 0 2)) (x % 2 ^ 32))
          none none s with prompt := true } (touchedBy t m s)) := by
  obtain ⟨-, hbuf⟩ := hb.quiet (by decide)
  subst hct hcg
  obtain ⟨m₁, hm₁⟩ := act_of_block (c := c) he rfl rfl hE (block_address s c.t c.g a) (by decide) hb
    (show forkAct k a b c s = blockAct _ _ _ _ s from (if_neg (not_not.mpr hal)).trans (if_neg (not_not.mpr hal')))
  obtain ⟨m, hm⟩ := blockAct_ok (c := c) he rfl rfl hE (block_address s c.t c.g b) (by decide) hb' _ m₁
  refine ⟨m, (hm₁.trans hm).trans ?_⟩
  have hzero : (fld x 160 352 != 0 || fld y 160 352 != 0) = false := by rw [fld_eq_zero hx, fld_eq_zero hy]; rfl
  have hcnt : fld x 0 32 = x % 2 ^ 32 := by rw [fld_eq, Nat.pow_zero, Nat.div_one]
  rw [hzero, if_neg Bool.false_ne_true, hcnt, fld_eq, if_neg (Nat.not_lt.mpr hcount), newCmd_touchedBy m he.1 rfl]
  refine startCommand_ok rfl rfl k.isLt ?_ (by exact hbuf)
  rw [grp_touchedBy m he.1]
  exact htok

theorem fork_starts (hal : regGet (s.grp t g) (.s a) 0 2 % 64 = 0) (hal' : regGet (s.grp t g) (.s b) 0 2 % 64 = 0)
    (hstart : MayStart (.fork h k a b) s t g h k.toNat none) (hb : BlockIs s t g h a (regGet (s.grp t g) (.s a) 0 2) 2 x)
    (hb' : BlockIs s t g h b (regGet (s.grp t g) (.s b) 0 2) 2 y) (hx : x / 2 ^ 160 = 0) (hy : y / 2 ^ 160 = 0)
    (hcount : x % 2 ^ 32 ≤ y / 2 ^ 32 % 2 ^ 32) : Starts (.fork h k a b) s t g k.toNat .dev
      (.fork (BitVec.ofNat 64 (regGet (s.grp t g) (.s a) 0 2)) (BitVec.ofNat 64 (regGet (s.grp t g) (.s b) 0 2)) (x % 2 ^ 32)) none none := by
  obtain ⟨⟨-, hR, hE⟩, htok, -, -⟩ := hstart
  obtain ⟨-, hbuf⟩ := hb.quiet (by decide)
  obtain ⟨m, hm⟩ := forkAct_starts (c := ctxOf s t g h (Instr.fork h k a b).size) rfl rfl hR.1.exists hE hal hal' htok hb hb' hx hy hcount
  exact starts_of_act (j := 0) rfl hR.1 (fork_rangeOk hR) hE hbuf hm

theorem fork_misaligned {va : Nat} (hva : regGet (s.grp t g) (.s a) 0 2 % 64 ≠ 0 ∧ va = regGet (s.grp t g) (.s a) 0 2 ∨
      regGet (s.grp t g) (.s a) 0 2 % 64 = 0 ∧ regGet (s.grp t g) (.s b) 0 2 % 64 ≠ 0 ∧ va = regGet (s.grp t g) (.s b) 0 2)
    (hacts : Acts (.fork h k a b) s t g h) :
    EffectTrap (.fork h k a b) s t g h 0x04 (BitVec.ofNat 32 va) (BitVec.ofNat 32 (va / 2 ^ 32)) 0 0 := by
  obtain ⟨-, hR, hE⟩ := hacts
  refine effectTrap_of_act rfl hR.1 (fork_rangeOk hR) hE ?_
  rcases hva with ⟨ha, rfl⟩ | ⟨ha, hb, rfl⟩
  · exact if_pos ha
  · exact (if_neg (not_not.mpr ha)).trans (if_pos hb)

end

/-- Settles O46: each block is read as loads of its pieces are, and its checks let the command start. -/
theorem blockCommandsStart : Obligations.BlockCommandsStart := by
  intro s t g h k a x gr va la misaligned
  refine ⟨fun sc op hop => ⟨fun hal hstart hb h206 h233 h416 hwin hform => nmc_starts hop hal hstart hb h206 h233 h416 hwin hform,
    fun hal hacts _ => nmc_misaligned hop hal hacts⟩, fun resume c r => ⟨fun hal hstart hb hbad hgroup hrank hroot => ?_,
    fun hal hacts hb hbad hgroup hin hbase => coll_unknown hal hacts hb hbad hgroup hin hbase, fun hal hacts _ => coll_misaligned hal hacts⟩,
    fun b y => ⟨fun hal hal' hstart hb hb' hx hy hcount => fork_starts hal hal' hstart hb hb' hx hy hcount, fun hal hacts _ => ?_,
    fun hal hal' hacts _ => ?_⟩⟩
  · exact coll_starts hal hstart hb hbad hgroup hrank (rootBad_eq_false hroot)
  · exact fork_misaligned (.inl ⟨hal, rfl⟩) hacts
  · exact fork_misaligned (.inr ⟨hal, hal', rfl⟩) hacts

end Sys2Proof.Claims
end
